-- ==== Sys2Proof/Word.lean ====
section
/-! DEFINITION. The words of the PLM-4820 and the names of its parts.  Bit vectors stand where the manual numbers bits. -/

namespace Sys2Proof

abbrev Byte := BitVec 8
abbrev Word32 := BitVec 32
abbrev Word64 := BitVec 64
/-- A W128 accumulator word (R67). -/
abbrev W128 := BitVec 128
/-- A 64-byte line, unit or flit payload. -/
abbrev Line := BitVec 512
/-- A 256-byte Deusk flit (R517). -/
abbrev DFlit := BitVec 2048
/-- A SHA-384 digest, byte 0 the most significant byte (its standard order, R452). -/
abbrev Digest := BitVec 384

/-- A logical core ID of R27 whose die field names a die: 64 × die + 8 × row + col. -/
abbrev CoreId := Fin 768
abbrev DieId := Fin 12
/-- I/O dies in the order of R507: 0 IO-N, 1 IO-E, 2 IO-S, 3 IO-W. -/
abbrev IoId := Fin 4
abbrev LinkId := Fin 48
/-- `VfId` v is virtual function v + 1, which serves enclave v (R592). -/
abbrev VfId := Fin 64
abbrev RingId := Fin 8
abbrev Token := BitVec 12
abbrev Ctx := BitVec 8
abbrev Encl := BitVec 6
abbrev Endpoint := BitVec 16

/-- Mesh sides, encoded as in R260: 0 north, 1 east, 2 south, 3 west. -/
inductive Side where
  | north | east | south | west
  deriving DecidableEq, Repr

end Sys2Proof
end

