-- ==== Sys2Proof/Syntax.lean ====
section
/-! DEFINITION. The commands of the block: one constructor of `Instr` per row of spec/opcode_table.json, with the
operands its rule names.  What the environment alone knows (a frame that arrives, a physical error, a measured power, the
bytes the host engine read) is an operand; everything else a command uses stands in the state. -/

namespace Sys2Proof

/-- The fields of a V slot other than its opcode (R264). -/
structure VSlot where
  prec : Bool
  zm : Bool
  maskEn : Bool
  maskK : BitVec 3
  dst : BitVec 9
  a : BitVec 11
  b : BitVec 11
  c : BitVec 11
  lane : BitVec 8
  ext : BitVec 35
  deriving DecidableEq, Repr

/-- The predicate field of an X or S slot (R253). -/
structure Pred where
  pen : Bool
  pol : Bool
  k : BitVec 3
  deriving DecidableEq, Repr

/-- A mesh flit with the side band a receiver sees (R289). -/
structure Flit where
  payload : Line
  poison : Bool
  wv : BitVec 4
  seq : BitVec 6
  deriving DecidableEq, Repr

/-- The HDR block of a Deusk packet (R518); `gen` joins gen and gen_hi. -/
structure Header where
  vc : BitVec 2
  dl : Bool
  nflits : BitVec 4
  mark : Bool
  start : BitVec 5
  enclave : Encl
  hops : BitVec 6
  epoch : Byte
  mc : Bool
  dst : Endpoint
  src : Endpoint
  kind : BitVec 4
  echo : Bool
  poison : Bool
  context : Ctx
  gen : BitVec 24
  tcore : BitVec 10
  taddr : BitVec 17
  tag : BitVec 16
  pseq : BitVec 32
  fa : BitVec 16
  fb : BitVec 16
  fc : BitVec 16
  deriving DecidableEq, Repr

/-- A Deusk packet: a header and 1 to 16 flits of 256 B (R517). -/
structure Packet where
  hdr : Header
  flits : List DFlit
  deriving DecidableEq, Repr

/-- The fields of GONG_SUM that merge up the tree (R490, R556); `flags` has the layout of byte 2. -/
structure GongSummary where
  flags : Byte
  keyLo : BitVec 96
  keyHi : BitVec 96
  modules : BitVec 16
  deriving DecidableEq, Repr

/-- The fields of GONG_DEC (R556). -/
structure GongNotice where
  decision : Byte
  flags : Byte
  reason : Byte
  modules : BitVec 16
  peal : Word64
  episode : Word64
  action : BitVec 48
  deriving DecidableEq, Repr

/-- An error-log record (R630). -/
structure ElogRecord where
  cls : Byte
  state : BitVec 2
  repaired : Bool
  endpoint : Endpoint
  unit : Byte
  context : Ctx
  events : BitVec 16
  carillon : Word64
  location : Word64
  episode : Word64
  deriving DecidableEq, Repr

/-- The path by which a register access arrives (R738). -/
inductive Path where
  | mc
  | cc (d : DieId)
  | pf
  | vf (v : VfId)
  deriving DecidableEq, Repr

/-- The integer class of the control core (R442). -/
inductive CcInt where
  | add | sub | and | or | xor | shl | shr | sar | slt | sltu | lui
  deriving DecidableEq, Repr
inductive CcMul where
  | mul | mulh | mulhu
  deriving DecidableEq, Repr
inductive CcDiv where
  | div | divu | rem | remu
  deriving DecidableEq, Repr
/-- Loads: width in bytes 1, 2, 4, 8, signed or unsigned (R442). -/
inductive CcWidth where
  | b | h | w | d
  deriving DecidableEq, Repr
inductive CcCond where
  | eq | ne | lt | ge | ltu | geu
  deriving DecidableEq, Repr
/-- The second operand of an integer instruction: a register or, in the immediate form, a value. -/
inductive CcSrc where
  | reg (r : BitVec 5)
  | imm (v : Word64)
  deriving DecidableEq, Repr
/-- The state words of R468. -/
inductive CcCsr where
  | status | epc | ecause | resume | eresume
  deriving DecidableEq, Repr

/-- Where a packet waits when its router routes it: it arrived on a link (with the outcome of the tag check on a link
with crypt = 1), over the package ring, or from a core or Lumef of this module. -/
inductive RouteSrc where
  | link (l : LinkId) (p : Packet) (tagOk : Bool)
  | ring
  | localq
  deriving DecidableEq, Repr

/-- The two channels of a DMA engine (R408). -/
inductive Chan where
  | p | q
  deriving DecidableEq, Repr

/-- What a row retirement names: a weight-store row of a core or a context-store row of a die (R637). -/
inductive RetireUnit where
  | mx (c : CoreId)
  | pgm (d : DieId)
  deriving DecidableEq, Repr

/-- The content of a staged change (R694): policy records (identifier, body), a table plan, vote weights or RESTART. -/
inductive ChangeContent where
  | policy (records : List (BitVec 16 × List Byte))
  | plan (bytes : List Byte)
  | weights (w : List (Endpoint × Byte))
  | restart
  deriving DecidableEq, Repr

/-- What a stage of start-up observes outside the state (R671, R681, R687, R757): 48 V and reset levels, whether each SPI NOR
device answers with an SFDP table, the outcome of the FIFO alignment, and the levels of the SMBADDR straps. -/
structure BootObs where
  straps : BitVec 3
  inputOk : Bool
  norA : Bool
  norB : Bool
  usable : BitVec 4
  margin : Byte
  failed : Byte
  deriving DecidableEq, Repr

/-- A group that PLACE_RSP lists (R620): kind, the binary's number, the allocated number. -/
structure GroupAlloc where
  kind : Byte
  binary : BitVec 16
  allocated : BitVec 16
  deriving DecidableEq, Repr

/-- A die of the template: its grid row and column, and the I/O dies whose ports the image uses on it (R569). -/
structure TemplateDie where
  row : BitVec 2
  col : BitVec 2
  ios : BitVec 4
  deriving DecidableEq, Repr

/-- A channel of a core of a rank (R231), in template numbering. -/
structure ChanInit where
  rank : BitVec 16
  core : BitVec 10
  chan : BitVec 5
  dest : BitVec 10
  q : BitVec 4
  init : BitVec 16
  deriving DecidableEq, Repr

/-- A Fauno binary (R568): its bytes as delivered, and what its header says; a section is an offset and a length in bytes.
The manual gives no byte layout of the header and none of the channel tables, so they stand here as they are read
(log 206). -/
structure Binary where
  bytes : List Byte
  modules : BitVec 16
  frameSize : BitVec 2
  stable : Bool
  template : List TemplateDie
  images : List (Nat × Nat)
  shards : Nat × Nat
  fixups : Nat × Nat
  chans : List ChanInit
  deriving DecidableEq, Repr

/-- Where Lumef placed a rank: the endpoint of its owner, die-row and die-column translation, two's complement, and its replica
modules, at most 15 (R572, R579, R620). -/
structure RankPlace where
  endpoint : Endpoint
  dr : Byte
  dc : Byte
  replicas : List Endpoint
  deriving DecidableEq, Repr

/-- What Lumef chose for a binary: the place of each rank, and the allocated groups (R576). -/
structure Placement where
  binary : Binary
  ranks : List RankPlace
  groups : List GroupAlloc
  deriving DecidableEq, Repr

/-- The tag of a placement request, and the binary with the placement that Lumef has chosen for it, when the request makes Lumef
load one (R575, R576, R620). -/
structure PlaceArg where
  tag : Word32
  load : Option Placement
  deriving DecidableEq, Repr

/-- What the limiter and the sensors observe of the input (R707, R714): the mean power in W and the voltage in mV. -/
structure PowerObs where
  watts : BitVec 16
  millivolts : BitVec 16
  deriving DecidableEq, Repr

/-- An SQ INPUT entry (R600). -/
structure InputEntry where
  step : Word32
  swap : BitVec 3
  tcore : BitVec 10
  am : BitVec 16
  sem : BitVec 6
  n : BitVec 4
  index : BitVec 16
  deriving DecidableEq, Repr

/-- A SELFTEST_REQ body (R648); `origin` is where the answer goes. -/
inductive TestOrigin where
  | pf | pldm | lumef
  deriving DecidableEq, Repr
structure TestReq where
  kind : Byte
  urgent : Bool
  unit : Byte
  deadline : Word64
  tag : Word32
  deriving DecidableEq, Repr

/-- The commands.  Each constructor is one row of spec/opcode_table.json, in the table's order. -/
inductive Instr where
  -- issue (R185 to R219)
  | bundleIssue (c : CoreId)
  | heldBundleIssue (c : CoreId)
  | holdTimeout (c : CoreId)
  -- M slot (R257, R258)
  | load (c : CoreId) (token : Token)
  | pass (c : CoreId) (token : Token)
  | ewise (c : CoreId) (token : Token)
  -- matrix array
  | voidCommandEnter (c : CoreId)
  | arrayCommandHead (c : CoreId)
  | loadComplete (c : CoreId)
  | loadAbandon (c : CoreId)
  | feederFetch (c : CoreId)
  | meshVectorArrive (c : CoreId)
  | slotRelease (c : CoreId)
  | termFormation (c : CoreId) (seg : Fin 8) (n : Fin 2048) (scalerDiffers : Bool)
  | checkCompare (c : CoreId) (seg : Fin 8) (tap : BitVec 3) (error : Int)
  | drainWrite (c : CoreId) (col : Fin 128) (tap : BitVec 3)
  | arrayFreeze (c : CoreId)
  | arrayThaw (c : CoreId)
  | passComplete (c : CoreId)
  | swapWaveDone (c : CoreId)
  | mxCtrlDrain (c : CoreId)
  | arrayDrainDone (c : CoreId)
  -- V slot (R264 to R272)
  | vadd (c : CoreId) (v : VSlot)
  | vsub (c : CoreId) (v : VSlot)
  | vmul (c : CoreId) (v : VSlot)
  | vfma (c : CoreId) (v : VSlot)
  | vabs (c : CoreId) (v : VSlot)
  | vneg (c : CoreId) (v : VSlot)
  | vmax (c : CoreId) (v : VSlot)
  | vmin (c : CoreId) (v : VSlot)
  | vrecip (c : CoreId) (v : VSlot)
  | vrsqrt (c : CoreId) (v : VSlot)
  | vexp (c : CoreId) (v : VSlot)
  | vexpd (c : CoreId) (v : VSlot)
  | vcmp (c : CoreId) (v : VSlot)
  | vsel (c : CoreId) (v : VSlot)
  | vmov (c : CoreId) (v : VSlot)
  | vscansum (c : CoreId) (v : VSlot)
  | vscanmax (c : CoreId) (v : VSlot)
  | vmoments (c : CoreId) (v : VSlot)
  | vcvt (c : CoreId) (v : VSlot)
  | vrand (c : CoreId) (v : VSlot)
  | vectorResultWrite (c : CoreId)
  -- X slot (R274 to R283)
  | mout (c : CoreId) (p : Pred) (dout : Side) (am : BitVec 16) (len : BitVec 12)
  | min (c : CoreId) (p : Pred) (din : Side) (am : BitVec 16) (len : BitVec 12)
  | mpass (c : CoreId) (p : Pred) (din dout : Side) (am : BitVec 16) (len : BitVec 12)
  | mred (c : CoreId) (p : Pred) (din dout : Side) (w : BitVec 17) (len : BitVec 12) (role : BitVec 2)
  | xissue (c : CoreId) (p : Pred) (token : Token) (cq : BitVec 2)
  | msend (c : CoreId) (p : Pred) (chan : BitVec 5) (k : BitVec 3) (am : BitVec 16) (tag : Token)
  | mpop (c : CoreId) (p : Pred) (q : BitVec 4) (am : BitVec 16)
  | credtest (c : CoreId) (pd : BitVec 3) (chan : BitVec 5) (k : BitVec 3)
  -- S slot (R284, R285)
  | wait (c : CoreId) (p : Pred) (q : BitVec 3) (token : Token)
  | qtest (c : CoreId) (pd : BitVec 3) (q : BitVec 3) (token : Token)
  | semsig (c : CoreId) (p : Pred) (i : BitVec 6) (n : Byte)
  | semsigr (c : CoreId) (p : Pred) (chan : BitVec 5) (i : BitVec 6) (n : BitVec 4)
  | semtry (c : CoreId) (pd : BitVec 3) (i : BitVec 6) (n : Byte)
  | semwait (c : CoreId) (p : Pred) (i : BitVec 6) (n : Byte)
  | mpoll (c : CoreId) (pd : BitVec 3) (q : BitVec 4)
  | gong (c : CoreId) (slackSel : Bool)
  | slack (c : CoreId)
  | endstep (c : CoreId)
  | coreQuiesce (c : CoreId)
  -- C slot (R286, R287)
  | loop (c : CoreId) (n : BitVec 2) (target : BitVec 10) (countM1 : BitVec 9)
  | jump (c : CoreId) (target : BitVec 10)
  | brp (c : CoreId) (target : BitVec 10) (k : BitVec 3) (pol : Bool)
  | switchbank (c : CoreId) (token : Token)
  -- mesh and messages
  | meshFlitArrive (c : CoreId) (side : Side) (parityError : Bool)
  | dynamicPacketHop (c : CoreId) (cls : Fin 4) (parityError : Bool)
  | messageEntryArrive (c : CoreId)
  | semSignalArrive (c : CoreId)
  | creditReturn (c : CoreId)
  | completionPush (c : CoreId) (q : BitVec 3)
  -- crossbar
  | csRead (c : CoreId)
  | csWrite (c : CoreId)
  | csUnitWrite (c : CoreId)
  -- DMA
  | dmaJob (c : CoreId)
  | copy (c : CoreId) (ch : Chan)
  | fill (c : CoreId) (ch : Chan)
  | compare (c : CoreId) (ch : Chan)
  | dmaChunk (c : CoreId) (ch : Chan)
  | dmaDescComplete (c : CoreId) (ch : Chan)
  | dmaLinkRead (c : CoreId) (ch : Chan)
  | dmaDoorbell (c : CoreId)
  | dmaQctrlStop (c : CoreId)
  -- launch and the command sequencer
  | stepLaunch (x : Ctx)
  | bankCopy (d : DieId)
  | programBlock (d : DieId)
  | streamBlock (d : DieId)
  | launchBlock (d : DieId)
  | fenceBlock (d : DieId)
  | streamPush (d : DieId)
  | cqCcdone (d : DieId)
  | cqCcpushctlGo (d : DieId) (queue : Bool) (pos : BitVec 6) (token : Token)
  -- control core (R439 to R468)
  | ccIntegerOp (d : DieId) (op : CcInt) (rd rs : BitVec 5) (src : CcSrc)
  | ccMultiply (d : DieId) (op : CcMul) (rd rs rt : BitVec 5)
  | ccDivide (d : DieId) (op : CcDiv) (rd rs rt : BitVec 5)
  | ccLoad (d : DieId) (wd : CcWidth) (unsigned : Bool) (rd rs : BitVec 5) (off : Word64)
  | ccStore (d : DieId) (wd : CcWidth) (rt rs : BitVec 5) (off : Word64)
  | ccBranch (d : DieId) (cond : CcCond) (rs rt : BitVec 5) (off : Word64)
  | ccJump (d : DieId) (rd : BitVec 5) (base : Option (BitVec 5)) (off : Word64)
  | csrr (d : DieId) (rd : BitVec 5) (csr : CcCsr)
  | csrw (d : DieId) (csr : CcCsr) (rs : BitVec 5)
  | ccFence (d : DieId)
  | eret (d : DieId)
  | wfi (d : DieId)
  | pageCopy (d : DieId) (ga gb gc : BitVec 5) (units : Option (BitVec 14))
  | fillLong (d : DieId) (ga gb gc : BitVec 5) (units : Option (BitVec 14))
  | digest (d : DieId) (ga gb gc : BitVec 5) (fin : Bool) (units : Option (BitVec 14))
  | storeDrain (d : DieId)
  | interruptEntry (d : DieId)
  | carillonTimerMatch (d : DieId)
  | cqMboxdoor (d : DieId) (fromMc : Bool)
  -- page manager (R380 to R396)
  | seqOpen (d : DieId)
  | append (d : DieId)
  | share (d : DieId)
  | cow (d : DieId)
  | trunc (d : DieId)
  | close (d : DieId)
  | incref (d : DieId)
  | decref (d : DieId)
  | commit (d : DieId)
  | rollback (d : DieId)
  | pgmIllegalOp (d : DieId)
  | pgmInit (d : DieId)
  | pgmInitialisation (d : DieId)
  | pgmRespop (d : DieId)
  | pgmCepop (d : DieId)
  -- corrected-error logs, retirement, scrub
  | mxCepop (c : CoreId)
  | mxRetire (c : CoreId) (layer : Bool) (row : BitVec 14)
  | pgmRetire (d : DieId) (slice : BitVec 5) (row : BitVec 14)
  | rowSwitch (u : RetireUnit)
  | psmScrub (d : DieId) (pos : Fin 64)
  | wsScrub (c : CoreId)
  | amScrub (c : CoreId)
  | csScrub (d : DieId) (slice : BitVec 5)
  | weightStoreWrite (c : CoreId)
  -- ownership, remap, abort
  | assign (d : DieId) (x : Ctx) (e : Encl)
  | release (d : DieId)
  | clearComplete (d : DieId)
  | meshRemapWrite (d : DieId) (v : Word32)
  | coreAbort (d : DieId) (mask : Word64)
  -- Gong, decision, commit
  | gongWaveComplete (x : Ctx)
  | gongRelease (x : Ctx)
  | gongSum (x : Ctx) (l : LinkId) (m : GongSummary)
  | gongDec (x : Ctx) (n : GongNotice)
  | gongTimeout (x : Ctx)
  | stepDecide (x : Ctx) (peal : Word64)
  | faultReportTimeout (x : Ctx) (e : Endpoint)
  | stepCommit (x : Ctx)
  | stepReplay (x : Ctx)
  | stepReport (x : Ctx)
  | signAppend (e : Encl)
  | signatureComplete (e : Encl)
  -- Carillon
  | carillonLoad
  | tsExchangeTimer
  | tsReq (l : LinkId) (seq : Byte) (t1 t2 t3 : Word64)
  | tsRsp (l : LinkId) (seq : Byte) (t1 t2 t3 t4 : Word64)
  | carillonExchangeLoss
  | holdoverExpire
  -- operating point, power, clocks
  | opArm (point : BitVec 2)
  | opSwitch
  | p10Sample (obs : PowerObs)
  | thermalCap (unit : Byte) (tj : BitVec 10)
  | thermalCapClear
  | thermalTrip (unit : Byte) (tj : BitVec 10)
  | railOvercurrent
  | pllLockLoss
  | fifoSlip
  | inputRangeLoss
  | powerCapCheck (mean fasterAllows : BitVec 16)
  | coolingCheck (inlet outlet flow : BitVec 10)
  | marginSample (unit : Byte) (slack : BitVec 12)
  -- resets and start-up
  | moduleReset
  | modRstN (level : Bool)
  | pciePerstN
  | watchdogExpire
  | bootStageAdvance (o : BootObs)
  -- configuration
  | cfgArm
  | cfgLoad
  | cfgActivate
  | stage (change : Word32) (content : ChangeContent) (d : Digest)
  | staged (change : Word32) (e : Endpoint)
  | stageRefused (change : Word32) (e : Endpoint)
  | arm (change : Word32) (t : Word64)
  | abort (change : Word32)
  | stageTimeout
  | recordReq (e : Endpoint)
  | record (policy : List (BitVec 16 × List Byte)) (plan : List Byte) (d : Digest)
  | chimeRound
  -- census, quorum, Knell
  | censusTimer
  | census (e : Endpoint) (weight : Byte) (dig : Word64)
  | leaseExpire
  | moduleExclude (e : Endpoint)
  | knell (arrival : Option LinkId) (e : Endpoint) (cause : Byte) (count : Word64) (sender : Endpoint)
  | knellQueryTimeout (e : Endpoint)
  | faultReport (x : Ctx) (e : Endpoint) (records : List ElogRecord)
  -- links
  | linkSignalDetect (l : LinkId)
  | linkTrainDone (l : LinkId) (passes : List (BitVec 2))
  | linkTrainTimeout (l : LinkId)
  | linkAdmit (l : LinkId)
  | laneFailure (l : LinkId)
  | linkRetrainTimeout (l : LinkId)
  | linkDown (l : LinkId)
  | cableInsert (dk : Fin 12) (milliwatts : Nat)
  | frameReceive (l : LinkId) (corrected uncorrectable : Bool) (control : BitVec 256)
  | ident (l : LinkId) (peerLink : BitVec 6) (e : Endpoint) (fabricId : Word64) (idDigest : Word64)
  -- routers
  | packetRoute (i : IoId) (src : RouteSrc)
  | packetResidenceExpire (l : LinkId)
  -- fabric operations
  | put (c : CoreId)
  | mcast (c : CoreId)
  | stream (c : CoreId)
  | reduce (c : CoreId)
  | emit (c : CoreId)
  | egressFlitArrive (c : CoreId) (parityError : Bool)
  | putReceive (i : IoId)
  | mcastReceive (i : IoId)
  | streamReceive (i : IoId)
  | ackReceive (i : IoId)
  | redUp (i : IoId)
  | redDown (i : IoId)
  | fabricOpTimeout (c : CoreId) (entry : BitVec 7)
  | inboundEntryTimeout (i : IoId)
  | roundTimeout (g : Byte)
  | ccWindowExpire (c : CoreId)
  -- tables and epochs
  | tableWrite (i : IoId) (table bank : Bool) (index : BitVec 16)
  | tableRead (i : IoId) (table bank : Bool) (index : BitVec 16)
  | fabRetag (i : IoId) (bank : Bool) (tag : Byte)
  | epochArm (i : IoId) (staged : Byte)
  | epochActivate (i : IoId)
  | mrContribute (group : Byte) (round : BitVec 16)
  | mrTimeout
  -- shard mover
  | send (i : IoId)
  | verify (i : IoId)
  | wxSendTimeout (i : IoId)
  | shardData (i : IoId)
  | shardAnswer (i : IoId)
  | fabWxrpop (i : IoId)
  -- link security
  | linkSecuritySession (l : LinkId) (secret : Option Digest)
  | linkRekey (l : LinkId)
  -- host
  | blocks (v : VfId) (r : RingId) (step : Word32) (dies : BitVec 12) (entries : List Line)
  | input (v : VfId) (r : RingId) (e : InputEntry) (lines : List Line) (readError : Bool)
  | hostEnd (v : VfId) (r : RingId) (step : Word32) (last : Bool)
  | frameWrite (v : VfId) (r : RingId) (buffers : List (Word64 × BitVec 16))
  | stepRecordWrite (v : VfId) (r : RingId)
  | starveExpire (v : VfId) (r : RingId)
  | receiptSlotWrite (v : VfId)
  | ingestWrite (v : VfId) (addr : BitVec 36) (bytes : List Byte)
  | coalesceTimer (v : VfId) (r : RingId)
  | hostMboxSend (f : Option VfId)
  | placeReq (v : VfId) (x : Ctx) (first : BitVec 16) (dig : Digest) (req : PlaceArg)
  | maintDecl (v : VfId) (x : Ctx) (start : Word64) (lenUs : Word32) (tag : Word32)
  | selftestReq (q : TestReq)
  | drainReq (tag : Word32)
  | powerReq (watts : BitVec 16) (tag : Word32)
  | drillReq (start : Bool) (seconds : Word32) (tag : Word32)
  | functionLevelReset (v : VfId)
  | hotReset
  | hostLinkLoss
  | debugWindowAccess (addr : BitVec 36) (write : Option Word32)
  | latchingRead (p : Path) (offset : BitVec 28)
  -- reliability
  | mcElogpop (p : Path)
  | ceLogPoll (d : DieId)
  | scrubDeadline (c : CoreId)
  | shardVerifyPeriod (c : CoreId) (found : Digest)
  | maintWindowStart (x : Ctx)
  | maintWindowEnd (x : Ctx)
  | selftestRun (d : DieId) (passed : Bool)
  | selftestDeadline (d : DieId)
  | getElog (tag : Word32)
  | popElog (n : BitVec 4)
  | pldmReset
  | enroll (ownerHash : Digest)
  | pldmDrain
  | pldmSelftest (q : TestReq)
  -- firmware and security
  | activateFirmware
  | getMeasurements
  | debugAuth (scopes : BitVec 3) (e : Encl) (seconds : Word32) (nonce : BitVec 256) (key : Fin 256) (sig : BitVec 768)
  | debugGrantEnd
  | secDbgctlEnd
  | registerWrite (p : Path) (offset : BitVec 28) (value : Word32) (hwSet : Word32) (hwInc : Word32)
  -- supplies and the last rows of the table
  | powerOn
  | standbySupplyLoss
  | managementControllerFault
  | reachQuery (asker neighbour : Endpoint)
  | identTimer (l : LinkId)
  | linkSessionRetry (l : LinkId) (secret : Option Digest)
  | ingestPageTimeout (i : IoId)
  | ideKm (f : Option VfId)
  | pldmFirmwareUpdate (image : List Byte)
  | spdmSessionEnd
  deriving DecidableEq, Repr

end Sys2Proof
end

