-- ==== Sys2Proof/Machine/Store.lean ====
section
/-! DEFINITION. Sparse tables in one canonical form: keys strictly rising, no entry equal to the default.  Every addressed
memory of the module and every table of units is one of these, so that equal contents are equal data. -/

namespace Sys2Proof.Machine

/-- A sparse table: what is not listed holds the default that the reader names. -/
abbrev Store (α : Type) := List (Nat × α)

/-- A byte memory; an unlisted address reads 0, the value the clear after every reset leaves (R362, R365). -/
abbrev Memory := List Host.Cell

/-- The value at key `k`, or the default. -/
def Store.get {α : Type} (d : α) (m : Store α) (k : Nat) : α :=
  match m with
  | [] => d
  | (j, v) :: t => if j = k then v else Store.get d t k

/-- Puts an entry in its place in the rising order. -/
def Store.put {α : Type} (m : Store α) (k : Nat) (v : α) : Store α :=
  match m with
  | [] => [(k, v)]
  | (j, w) :: t =>
    if k < j then (k, v) :: (j, w) :: t else if k = j then (k, v) :: t else (j, w) :: Store.put t k v

/-- Writes a value at key `k`; writing the default removes the entry. -/
def Store.set {α : Type} [DecidableEq α] (d : α) (m : Store α) (k : Nat) (v : α) : Store α :=
  if v = d then m.filter fun e => e.1 != k else Store.put m k v

/-- The canonical form: keys strictly rising, no default listed. -/
def Store.wf {α : Type} [DecidableEq α] (d : α) : Store α → Bool
  | [] => true
  | [(_, v)] => v ≠ d
  | (j, v) :: (k, w) :: t => j < k && v ≠ d && Store.wf d ((k, w) :: t)

/-- Removes every key from `lo` up to but not `hi`. -/
def Store.clearRange {α : Type} (m : Store α) (lo hi : Nat) : Store α :=
  m.filter fun e => e.1 < lo || hi ≤ e.1

/-- The canonical form of a byte memory. -/
abbrev Memory.wf (m : Memory) : Bool := Store.wf (0 : Byte) m

/-- One byte. -/
def Memory.byte (m : Memory) (a : Nat) : Byte := Store.get 0 m a
def Memory.setByte (m : Memory) (a : Nat) (v : Byte) : Memory := Store.set 0 m a v

/-- `n` bytes from `a`, byte 0 lowest (R10). -/
def Memory.bytes (m : Memory) (a n : Nat) : List Byte := (List.range n).map fun i => m.byte (a + i)

/-- Writes bytes from `a` upward. -/
def Memory.setBytes (m : Memory) (a : Nat) : List Byte → Memory
  | [] => m
  | b :: t => Memory.setBytes (m.setByte a b) (a + 1) t

/-- Little-endian value of a byte list (R10). -/
def leNat : List Byte → Nat
  | [] => 0
  | b :: t => b.toNat + 256 * leNat t

/-- `n` little-endian bytes of a value (R10). -/
def leBytes : Nat → Nat → List Byte
  | 0, _ => []
  | n + 1, v => BitVec.ofNat 8 (v % 256) :: leBytes n (v / 256)

/-- A little-endian value of `n` bytes at `a`. -/
def Memory.nat (m : Memory) (a n : Nat) : Nat := leNat (m.bytes a n)
def Memory.setNat (m : Memory) (a n v : Nat) : Memory := m.setBytes a (leBytes n v)

/-- The field [hi:lo] of a number (R14). -/
def bits (x hi lo : Nat) : Nat := x / 2 ^ lo % 2 ^ (hi + 1 - lo)

/-- The field [hi:lo] replaced. -/
def setBits (x hi lo v : Nat) : Nat :=
  x - bits x hi lo * 2 ^ lo + v % 2 ^ (hi + 1 - lo) * 2 ^ lo

/-- A `w`-bit field read as two's complement. -/
def signedOf (w x : Nat) : Int := if x < 2 ^ (w - 1) then x else (x : Int) - 2 ^ w

end Sys2Proof.Machine
end

