-- ==== Sys2Proof/Machine/Hash.lean ====
section
/-! DEFINITION. SHA-384 of FIPS 180-4, the digest of DIGEST and of every record of the manual (R452, R496).  The manual
names the standard and does not restate it: its constants and round function are PRESUMED from the standard. -/

namespace Sys2Proof.Machine

/-- Round constants 0 to 9. -/
def shaK0 : List Word64 :=
  [0x428a2f98d728ae22, 0x7137449123ef65cd, 0xb5c0fbcfec4d3b2f, 0xe9b5dba58189dbbc,
   0x3956c25bf348b538, 0x59f111f1b605d019, 0x923f82a4af194f9b, 0xab1c5ed5da6d8118,
   0xd807aa98a3030242, 0x12835b0145706fbe]

/-- Round constants 10 to 19. -/
def shaK1 : List Word64 :=
  [0x243185be4ee4b28c, 0x550c7dc3d5ffb4e2, 0x72be5d74f27b896f, 0x80deb1fe3b1696b1,
   0x9bdc06a725c71235, 0xc19bf174cf692694, 0xe49b69c19ef14ad2, 0xefbe4786384f25e3,
   0x0fc19dc68b8cd5b5, 0x240ca1cc77ac9c65]

/-- Round constants 20 to 29. -/
def shaK2 : List Word64 :=
  [0x2de92c6f592b0275, 0x4a7484aa6ea6e483, 0x5cb0a9dcbd41fbd4, 0x76f988da831153b5,
   0x983e5152ee66dfab, 0xa831c66d2db43210, 0xb00327c898fb213f, 0xbf597fc7beef0ee4,
   0xc6e00bf33da88fc2, 0xd5a79147930aa725]

/-- Round constants 30 to 39. -/
def shaK3 : List Word64 :=
  [0x06ca6351e003826f, 0x142929670a0e6e70, 0x27b70a8546d22ffc, 0x2e1b21385c26c926,
   0x4d2c6dfc5ac42aed, 0x53380d139d95b3df, 0x650a73548baf63de, 0x766a0abb3c77b2a8,
   0x81c2c92e47edaee6, 0x92722c851482353b]

/-- Round constants 40 to 49. -/
def shaK4 : List Word64 :=
  [0xa2bfe8a14cf10364, 0xa81a664bbc423001, 0xc24b8b70d0f89791, 0xc76c51a30654be30,
   0xd192e819d6ef5218, 0xd69906245565a910, 0xf40e35855771202a, 0x106aa07032bbd1b8,
   0x19a4c116b8d2d0c8, 0x1e376c085141ab53]

/-- Round constants 50 to 59. -/
def shaK5 : List Word64 :=
  [0x2748774cdf8eeb99, 0x34b0bcb5e19b48a8, 0x391c0cb3c5c95a63, 0x4ed8aa4ae3418acb,
   0x5b9cca4f7763e373, 0x682e6ff3d6b2b8a3, 0x748f82ee5defb2fc, 0x78a5636f43172f60,
   0x84c87814a1f0ab72, 0x8cc702081a6439ec]

/-- Round constants 60 to 69. -/
def shaK6 : List Word64 :=
  [0x90befffa23631e28, 0xa4506cebde82bde9, 0xbef9a3f7b2c67915, 0xc67178f2e372532b,
   0xca273eceea26619c, 0xd186b8c721c0c207, 0xeada7dd6cde0eb1e, 0xf57d4f7fee6ed178,
   0x06f067aa72176fba, 0x0a637dc5a2c898a6]

/-- Round constants 70 to 79. -/
def shaK7 : List Word64 :=
  [0x113f9804bef90dae, 0x1b710b35131c471b, 0x28db77f523047d84, 0x32caab7b40c72493,
   0x3c9ebe0a15c9bebc, 0x431d67c49c100d4c, 0x4cc5d4becb3e42b6, 0x597f299cfc657e2a,
   0x5fcb6fab3ad6faec, 0x6c44198c4a475817]

def shaK : List Word64 := shaK0 ++ shaK1 ++ shaK2 ++ shaK3 ++ shaK4 ++ shaK5 ++ shaK6 ++ shaK7

/-- The initial hash words of SHA-384. -/
def shaInit : List Word64 :=
  [0xcbbb9d5dc1059ed8, 0x629a292a367cd507, 0x9159015a3070dd17, 0x152fecd8f70e5939,
   0x67332667ffc00b31, 0x8eb44a8768581511, 0xdb0c2e0d64f98fa7, 0x47b5481dbefa4fa4]

def rotr (x : Word64) (n : Nat) : Word64 := x.rotateRight n

def schedule0 (x : Word64) : Word64 := rotr x 1 ^^^ rotr x 8 ^^^ (x >>> 7)
def schedule1 (x : Word64) : Word64 := rotr x 19 ^^^ rotr x 61 ^^^ (x >>> 6)

/-- The window of sixteen schedule words, moved on by one. -/
def shaWindow (w : List Word64) : List Word64 :=
  match w with
  | [w0, w1, w2, w3, w4, w5, w6, w7, w8, w9, wa, wb, wc, wd, we, wf] =>
    [w1, w2, w3, w4, w5, w6, w7, w8, w9, wa, wb, wc, wd, we, wf, schedule1 we + w9 + schedule0 w1 + w0]
  | w => w

/-- One round on the working variables a to h. -/
def shaRound (v : List Word64) (k w : Word64) : List Word64 :=
  match v with
  | [a, b, c, d, e, f, g, h] =>
    let t1 := h + (rotr e 14 ^^^ rotr e 18 ^^^ rotr e 41) + ((e &&& f) ^^^ (~~~e &&& g)) + k + w
    let t2 := (rotr a 28 ^^^ rotr a 34 ^^^ rotr a 39) + ((a &&& b) ^^^ (a &&& c) ^^^ (b &&& c))
    [t1 + t2, a, b, c, d + t1, e, f, g]
  | v => v

def shaRounds : List Word64 → List Word64 → List Word64 → List Word64
  | [], v, _ => v
  | k :: ks, v, w => shaRounds ks (shaRound v k (w.headD 0)) (shaWindow w)

/-- A big-endian number. -/
def beNat (b : List Byte) : Nat := b.foldl (fun n x => n * 256 + x.toNat) 0
def beBytes (n v : Nat) : List Byte := (leBytes n v).reverse

/-- The sixteen words of a 128-byte block. -/
def blockWords (b : List Byte) : List Word64 :=
  (List.range 16).map fun i => BitVec.ofNat 64 (beNat ((b.drop (8 * i)).take 8))

/-- The hash words after one block of 128 bytes. -/
def shaCompress (h : List Word64) (b : List Byte) : List Word64 :=
  (h.zip (shaRounds shaK h (blockWords b))).map fun p => p.1 + p.2

/-- The padding that follows `fill` pending bytes of a message of `len` bytes. -/
def shaPad (len : Nat) : List Byte :=
  [0x80] ++ List.replicate ((111 + 128 - len % 128) % 128) 0 ++ beBytes 16 (8 * len)

def shaBlocks : Nat → List Word64 → List Byte → List Word64
  | 0, h, _ => h
  | n + 1, h, b => shaBlocks n (shaCompress h (b.take 128)) (b.drop 128)

/-- The first six hash words, in the digest's standard byte order. -/
def shaOut (h : List Word64) : Digest :=
  BitVec.ofNat 384 ((h.take 6).foldl (fun n w => n * 2 ^ 64 + w.toNat) 0)

/-- SHA-384 of a byte string. -/
def sha384 (b : List Byte) : Digest :=
  let m := b ++ shaPad b.length
  shaOut (shaBlocks (m.length / 128) shaInit m)

/-- The 48 bytes of a digest in its standard order, and back. -/
def digestBytes (d : Digest) : List Byte := beBytes 48 d.toNat
def bytesDigest (b : List Byte) : Digest := BitVec.ofNat 384 (beNat (b.take 48))

end Sys2Proof.Machine
end

