-- ==== Sys2Proof/Config.lean ====
section
/-! DEFINITION. What one implementation fixes and what the manual leaves open.  Every constant here is opaque: no proof
can see a value of it. -/

namespace Sys2Proof.Config

/-- The silicon revision that MC_PARTID.rev reports (R50). -/
opaque siliconRev : Byte

/-- A fresh value for everything the manual leaves open, drawn by the counter `State.free`. -/
opaque freeNat : Nat → Nat

/-- The fixed sequence by which a RATE rule of Rimshot chooses one event of each 2^k (R562). -/
opaque rimSequence : Nat → Nat

/-- The SHA-384 of the Ploral firmware root key in OTP (R719). -/
opaque rootHash : Digest

/-- The SHA-384 of the ROM version and an OTP security version minimum (R722). -/
opaque romDigest : Nat → Digest

/-- The module identity digest, SHA-384 of the public key of the device identity key (R723). -/
opaque identity : Digest

/-- The SHA-384 of the public attestation key that the engine derives from the seed and a boot measurement digest
(R724). -/
opaque akHash : Digest → Digest

/-- The ECDSA P-384 signature r ‖ s under the attestation key of a boot measurement digest (R501, R502). -/
opaque sign : Digest → Digest → BitVec 768

/-- Whether a signature over a digest verifies under the public key whose SHA-384 is named (R720, R721, R731). -/
opaque verifies : Digest → Digest → BitVec 768 → Bool

end Sys2Proof.Config
end

