-- ==== Sys2Proof/Machine/Formats.lean ====
section
/-! DEFINITION. Number formats and exact arithmetic (R51 to R83, R162 to R165): every value is m × 2^e, computed exactly
and rounded once. -/

namespace Sys2Proof.Machine

/-! ### Rounding -/

/-- A nonnegative integer divided by 2^k, to nearest, ties to even (R14). -/
def rneNat (n k : Nat) : Nat :=
  let q := n / 2 ^ k
  let r := n % 2 ^ k
  if 2 ^ k < 2 * r ∨ (2 * r = 2 ^ k ∧ q % 2 = 1 ∧ 0 < k) then q + 1 else q

/-- `rne(m × 2^e, g) / 2^g` for a magnitude (R14). -/
def rneMag (m : Nat) (e g : Int) : Nat := if g ≤ e then m * 2 ^ (e - g).toNat else rneNat m (g - e).toNat

/-- `rne(n × 2^e, g) / 2^g` for a signed number; ties to even are symmetric in sign. -/
def rneInt (n e g : Int) : Int := if n < 0 then -((rneMag n.natAbs e g : Nat) : Int) else (rneMag n.natAbs e g : Nat)

/-- x modulo 2^128 in two's complement (R14). -/
def wrap128 (x : Int) : Int := (BitVec.ofInt 128 x).toInt

/-! ### IEEE formats of the vector unit (R59, R60) -/

/-- A decoded floating-point value: ±m × 2^e. -/
inductive FV where
  | nan
  | inf (neg : Bool)
  | fin (neg : Bool) (m : Nat) (e : Int)
  deriving DecidableEq, Repr

def fpNaN : Nat := 0x7FC00000
def fpInf (neg : Bool) : Nat := if neg then 0xFF800000 else 0x7F800000
def fpZero (neg : Bool) : Nat := if neg then 0x80000000 else 0
def fpOne : Nat := 0x3F800000

/-- FP32 decode (R59); subnormals are kept. -/
def fpDecode (x : Nat) : FV :=
  let neg := bits x 31 31 = 1
  let e := bits x 30 23
  let m := bits x 22 0
  if e = 255 then (if m = 0 then .inf neg else .nan)
  else if e = 0 then .fin neg m (-149)
  else .fin neg (m + 2 ^ 23) ((e : Int) - 150)

/-- A rounded result with its flags in the places of VU_FLAGS: 1 invalid, 2 div_zero, 4 overflow, 8 underflow (R181). -/
structure VR where
  bits : Nat
  fl : Nat
  deriving DecidableEq, Repr

def VR.ok (b : Nat) : VR := ⟨b, 0⟩

/-- Rounds ±m × 2^e once onto the FP32 grid, or the BF16 grid held as FP32, with overflow and underflow of R163. -/
def fpRound (bf neg : Bool) (m : Nat) (e : Int) : VR :=
  if m = 0 then ⟨fpZero neg, 0⟩ else
  let mb : Nat := if bf then 7 else 23
  let top : Int := e + (Nat.log2 m : Int)
  let g : Int := if top < -126 then -126 - (mb : Int) else top - (mb : Int)
  let r := rneMag m e g
  let exact := decide (g ≤ e) || decide (r * 2 ^ (g - e).toNat = m)
  let uf := if top < -126 ∧ exact = false then 8 else 0
  let carry : Int := if 2 ^ (mb + 1) ≤ r then 1 else 0
  let ex : Int := g + (mb : Int) + 127 + carry
  if 255 ≤ ex then ⟨fpInf neg, 4 + uf⟩
  else
    let body : Nat := if r < 2 ^ mb then r else ex.toNat * 2 ^ mb + (if carry = 1 then 0 else r - 2 ^ mb)
    ⟨(if neg then 2 ^ 31 else 0) + (if bf then body * 2 ^ 16 else body), uf⟩

/-- The sum of two finite values as a signed integer and a power of two. -/
def addExact (n₁ : Bool) (m₁ : Nat) (e₁ : Int) (n₂ : Bool) (m₂ : Nat) (e₂ : Int) : Int × Int :=
  let e := min e₁ e₂
  let a : Int := (m₁ * 2 ^ (e₁ - e).toNat : Nat)
  let b : Int := (m₂ * 2 ^ (e₂ - e).toNat : Nat)
  ((if n₁ then -a else a) + (if n₂ then -b else b), e)

/-- a + b of decoded values; an exact zero is −0 only when both are negative. -/
def fvAdd (bf : Bool) : FV → FV → VR
  | .nan, _ | _, .nan => .ok fpNaN
  | .inf a, .inf b => if a = b then .ok (fpInf a) else ⟨fpNaN, 1⟩
  | .inf a, _ => .ok (fpInf a)
  | _, .inf b => .ok (fpInf b)
  | .fin n₁ m₁ e₁, .fin n₂ m₂ e₂ =>
    let (s, e) := addExact n₁ m₁ e₁ n₂ m₂ e₂
    if s = 0 then .ok (fpZero (n₁ && n₂)) else fpRound bf (s < 0) s.natAbs e

def FV.neg : FV → FV
  | .nan => .nan
  | .inf n => .inf !n
  | .fin n m e => .fin (!n) m e

/-- The exact product; `none` marks 0 × ∞. -/
def fvProd : FV → FV → Option FV
  | .nan, _ | _, .nan => some .nan
  | .inf a, .inf b => some (.inf (a != b))
  | .inf a, .fin n m _ => if m = 0 then none else some (.inf (a != n))
  | .fin n m _, .inf b => if m = 0 then none else some (.inf (n != b))
  | .fin n₁ m₁ e₁, .fin n₂ m₂ e₂ => some (.fin (n₁ != n₂) (m₁ * m₂) (e₁ + e₂))

def fpAdd (bf : Bool) (a b : Nat) : VR := fvAdd bf (fpDecode a) (fpDecode b)
def fpSub (bf : Bool) (a b : Nat) : VR := fvAdd bf (fpDecode a) (fpDecode b).neg

def fpMul (bf : Bool) (a b : Nat) : VR :=
  match fvProd (fpDecode a) (fpDecode b) with
  | none => ⟨fpNaN, 1⟩
  | some .nan => .ok fpNaN
  | some (.inf n) => .ok (fpInf n)
  | some (.fin n m e) => fpRound bf n m e

/-- a × b + c with one rounding (R165); a NaN operand comes first, and 0 × ∞ is invalid with any c that is no NaN. -/
def fpFma (bf : Bool) (a b c : Nat) : VR :=
  match fvProd (fpDecode a) (fpDecode b), fpDecode c with
  | none, .nan => .ok fpNaN
  | none, _ => ⟨fpNaN, 1⟩
  | some p, q => fvAdd bf p q

def fpAbs (a : Nat) : Nat := if fpDecode a = .nan then fpNaN else a % 2 ^ 31
def fpNeg (a : Nat) : Nat := if fpDecode a = .nan then fpNaN else if a < 2 ^ 31 then a + 2 ^ 31 else a - 2 ^ 31

/-- An order on encodings without NaN; the least bit parts −0 from +0. -/
def fpKey (a : Nat) : Int := if a < 2 ^ 31 then 2 * (a : Int) + 1 else -2 * ((a : Int) - 2 ^ 31)

def fpMax (a b : Nat) : Nat :=
  if fpDecode a = .nan ∨ fpDecode b = .nan then fpNaN else if fpKey a < fpKey b then b else a
def fpMin (a b : Nat) : Nat :=
  if fpDecode a = .nan ∨ fpDecode b = .nan then fpNaN else if fpKey b < fpKey a then b else a

/-- 1 / a: the quotient keeps at least 39 bits and a sticky bit, so one rounding follows. -/
def fpRecip (bf : Bool) (a : Nat) : VR :=
  match fpDecode a with
  | .nan => .ok fpNaN
  | .inf n => .ok (fpZero n)
  | .fin n m e =>
    if m = 0 then ⟨fpInf n, 2⟩ else
    let k := Nat.log2 m + 40
    let q := 2 ^ k / m
    let st := if 2 ^ k % m = 0 then 0 else 1
    fpRound bf n (2 * q + st) (-(k : Int) - 1 - e)

/-- Integer square root, one bit of the root per step. -/
def isqrtGo (n : Nat) : Nat → Nat → Nat
  | 0, r => r
  | k + 1, r => let t := r + 2 ^ k; isqrtGo n k (if t * t ≤ n then t else r)
def isqrt (n : Nat) : Nat := isqrtGo n (Nat.log2 n / 2 + 1) 0

/-- 1 / √x of a decoded value (R165). -/
def fvRsqrt (bf : Bool) : FV → VR
  | .nan => .ok fpNaN
  | .inf n => if n then ⟨fpNaN, 1⟩ else .ok 0
  | .fin n m e =>
    if m = 0 then ⟨fpInf false, 2⟩
    else if n then ⟨fpNaN, 1⟩
    else
      let odd := e % 2 ≠ 0
      let m' := if odd then 2 * m else m
      let e' := if odd then e - 1 else e
      let k := Nat.log2 m' / 2 + 40
      let q := isqrt (2 ^ (2 * k) / m')
      let st := if q * q * m' = 2 ^ (2 * k) then 0 else 1
      fpRound bf false (2 * q + st) (-(k : Int) - 1 - e' / 2)

/-- 1 / √(a + imm), the sum rounded onto FP32 first under every precision (R162, R165). -/
def fpRsqrt (bf : Bool) (a imm : Nat) : VR :=
  let s := fpAdd false a imm
  let r := fvRsqrt bf (fpDecode s.bits)
  ⟨r.bits, s.fl ||| r.fl⟩

/-- Fixed-point bits of the exponential. -/
def expBits : Nat := 320

/-- The series Σ x^i / i! in fixed point from term `i`. -/
def expSeries (x : Nat) : Nat → Nat → Nat → Nat → Nat
  | 0, _, _, acc => acc
  | f + 1, i, t, acc => let t' := t * x / 2 ^ expBits / i; expSeries x f (i + 1) t' (acc + t')

/-- e^x of a decoded value, rounded once.  Beyond ±128 the result overflows or is a tiny number that rounds to +0.  e^x
is irrational for x ≠ 0, so the fixed-point value and a sticky bit stand for it. -/
def fvExp (bf : Bool) : FV → VR
  | .nan => .ok fpNaN
  | .inf n => .ok (if n then 0 else fpInf false)
  | .fin n m e =>
    if m = 0 then .ok fpOne
    else if 7 ≤ e + (Nat.log2 m : Int) then (if n then ⟨0, 8⟩ else ⟨fpInf false, 4⟩)
    else
      let x := m * 2 ^ (e + (expBits : Int)).toNat
      let y := expSeries x 640 1 (2 ^ expBits) (2 ^ expBits)
      let q := if n then 2 ^ (2 * expBits) / y else y
      fpRound bf false (2 * q + 1) (-(expBits : Int) - 1)

def fpExp (bf : Bool) (a : Nat) : VR := fvExp bf (fpDecode a)

/-- e^(rne(a − b)), the difference rounded onto FP32 first (R162, R165). -/
def fpExpd (bf : Bool) (a b : Nat) : VR :=
  let s := fpSub false a b
  let r := fvExp bf (fpDecode s.bits)
  ⟨r.bits, s.fl ||| r.fl⟩

/-- The comparison predicates 0 EQ, 1 NE, 2 LT, 3 LE, 4 GT, 5 GE, 6 UNORD (R165, R269); −0 equals +0. -/
def fpCmp (p a b : Nat) : Bool :=
  let un := fpDecode a = .nan ∨ fpDecode b = .nan
  let k (x : Nat) : Int := if x < 2 ^ 31 then (x : Int) else -((x : Int) - 2 ^ 31)
  if un then p = 1 ∨ p = 6
  else if p = 0 then k a = k b
  else if p = 1 then k a ≠ k b
  else if p = 2 then k a < k b
  else if p = 3 then k a ≤ k b
  else if p = 4 then k b < k a
  else if p = 5 then k b ≤ k a
  else false

/-- An FP32 value rounded onto the BF16 grid (R162). -/
def fpToBf (a : Nat) : VR :=
  match fpDecode a with
  | .nan => .ok fpNaN
  | .inf n => .ok (fpInf n)
  | .fin n m e => fpRound true n m e

/-- A W128 word with window base L to FP32 (R76, R78). -/
def w128ToFp (w : W128) (L : Int) : VR := fpRound false (w.toInt < 0) w.toInt.natAbs L

/-- Whether a word lies outside the window range (R69). -/
def outOfWindow (x : Int) : Bool := decide (x < -2 ^ 103) || decide (2 ^ 103 ≤ x)

/-! ### Element formats (R51 to R56) -/

/-- Mantissa bits, exponent bits, quantum and largest significand of an element format code; code 7 and above are not
element formats. -/
structure ElemFmt where
  w : Nat
  eb : Nat
  q : Int
  maxI : Nat

def elemFmt (f : Nat) : ElemFmt :=
  if f = 0 then ⟨1, 2, -1, 12⟩
  else if f = 1 then ⟨2, 3, -4, 448⟩
  else if f = 2 then ⟨3, 2, -3, 60⟩
  else if f = 3 ∨ f = 4 then ⟨3, 4, -9, 229376⟩
  else if f = 5 then ⟨2, 5, -16, 3758096384⟩
  else ⟨0, 0, 0, 127⟩

/-- Element width in bits (R262). -/
def elemBits (f : Nat) : Nat := if f = 0 then 4 else if f = 1 ∨ f = 2 then 6 else if f = 7 then 16 else if f = 8 then 32 else 8
def isBlockFmt (f : Nat) : Bool := f == 0 || f == 1 || f == 2 || f == 3
/-- Formats under one per-tensor scale (R57). -/
def isTensorFmt (f : Nat) : Bool := f == 4 || f == 5 || f == 6

/-- An element: its significand, or none for a NaN, or an infinity with its sign (R52, R53). -/
inductive Elem where
  | sig (neg : Bool) (i : Nat)
  | inf (neg : Bool)
  | nan
  deriving DecidableEq, Repr

def elemDecode (f code : Nat) : Elem :=
  if f = 6 then (let v := signedOf 8 code; .sig (v < 0) v.natAbs)
  else
    let d := elemFmt f
    let m := code % 2 ^ d.w
    let e := code / 2 ^ d.w % 2 ^ d.eb
    let neg := code / 2 ^ (d.w + d.eb) % 2 = 1
    if (f = 3 ∨ f = 4) ∧ e = 15 ∧ m = 7 then .nan
    else if f = 5 ∧ e = 31 then (if m = 0 then .inf neg else .nan)
    else if e = 0 then .sig neg m
    else .sig neg ((2 ^ d.w + m) * 2 ^ (e - 1))

/-- The significand that enters the array; 0 for a NaN or an infinity (R63). -/
def elemSig (f code : Nat) : Int :=
  match elemDecode f code with
  | .sig n i => if n then -(i : Int) else i
  | _ => 0
def elemFinite (f code : Nat) : Bool := match elemDecode f code with | .sig _ _ => true | _ => false

/-- The code of a significand on the grid (R52). -/
def elemCode (f : Nat) (neg : Bool) (i : Nat) : Nat :=
  let d := elemFmt f
  let body :=
    if i < 2 ^ d.w then i
    else
      let e := Nat.log2 i - d.w + 1
      e * 2 ^ d.w + (i / 2 ^ (e - 1) - 2 ^ d.w)
  (if neg then 2 ^ (d.w + d.eb) else 0) + body

/-- A finite value ±m × 2^e onto a floating element format with its overflow flag (R79, R80, R171); beyond the largest
magnitude it saturates, or becomes an infinity in FP8 E5M2. -/
def toElem (f : Nat) (neg : Bool) (m : Nat) (e : Int) : VR :=
  let d := elemFmt f
  if m = 0 then ⟨elemCode f neg 0, 0⟩ else
  let top : Int := e + (Nat.log2 m : Int)
  let g : Int := max d.q (top - (d.w : Int))
  let i := rneMag m e g * 2 ^ (g - d.q).toNat
  if d.maxI < i then
    (if f = 5 then ⟨(if neg then 0xFC else 0x7C), 4⟩ else ⟨elemCode f neg d.maxI, 4⟩)
  else ⟨elemCode f neg i, 0⟩

/-- A finite value to INT8 (R79, R171). -/
def toInt8 (neg : Bool) (m : Nat) (e : Int) : VR :=
  let i : Int := rneInt (if neg then -(m : Int) else m) e 0
  if i < -128 then ⟨0x80, 4⟩ else if 127 < i then ⟨0x7F, 4⟩ else ⟨(BitVec.ofInt 8 i).toNat, 0⟩

/-- An FP32 value under a per-tensor scale to FP8 or INT8 (R79, R80, R170, R171). -/
def toTensorElem (f s x : Nat) : VR :=
  match (if s = 0xFF then FV.nan else fpDecode x) with
  | .nan =>
    let i := if f = 6 ∨ s = 0xFF then 1 else 0
    if f = 6 then ⟨0, i⟩ else if f = 5 then ⟨0x7E, i⟩ else ⟨0x7F, i⟩
  | .inf n =>
    if f = 6 then ⟨(if n then 0x80 else 0x7F), 0⟩
    else if f = 5 then ⟨(if n then 0xFC else 0x7C), 0⟩
    else ⟨elemCode f n 229376, 0⟩
  | .fin n m e =>
    let e' := e - ((s : Int) - 127)
    if f = 6 then toInt8 n m e' else toElem f n m e'

/-- The largest exponent of a block element (R80). -/
def emaxOf (f : Nat) : Int := if f = 1 then 4 else if f = 3 then 8 else 2

/-- The scale byte and the element codes of a block of FP32 values; `none` marks a masked lane, which is not evaluated
(R80, R160, R171). -/
def toBlock (f : Nat) (xs : List (Option Nat)) : Nat × List Nat × Nat :=
  let vs := xs.map fun o => o.map fpDecode
  let bad := vs.any fun o => match o with | some .nan => true | some (.inf _) => true | _ => false
  if bad then (0xFF, xs.map fun _ => 0, 1) else
  let tops := vs.filterMap fun o =>
    match o with | some (.fin _ m e) => if m = 0 then none else some (e + (Nat.log2 m : Int)) | _ => none
  let s : Int :=
    match tops with
    | [] => 0
    | t :: ts => max (-127) (min 127 (ts.foldl max t - emaxOf f))
  let rs := vs.map fun o =>
    match o with | some (.fin n m e) => toElem f n m (e - s) | _ => ⟨0, 0⟩
  ((s + 127).toNat, rs.map VR.bits, rs.foldl (fun a r => a ||| r.fl) 0)

/-- An element of an AM source to FP32 under its scale (R153). -/
def fromElem (f scale code : Nat) : VR :=
  if f = 7 then
    (if fpDecode (code * 2 ^ 16) = .nan then .ok fpNaN else .ok (code * 2 ^ 16))
  else if scale = 0xFF then .ok fpNaN
  else
    match elemDecode f code with
    | .nan => .ok fpNaN
    | .inf n => .ok (fpInf n)
    | .sig n i => fpRound false n i ((elemFmt f).q + ((scale : Int) - 127))

/-! ### IEEE binary32 arithmetic of the BF16 path (R81, R83) -/

def bfMul (a b : Nat) : Nat := (fpMul false (a * 2 ^ 16) (b * 2 ^ 16)).bits
def fp32Add (a b : Nat) : Nat := (fpAdd false a b).bits

/-! ### Bit fields in byte lists -/

/-- `n` bits from bit `at_` of a byte list, bit 0 of byte 0 first (R58). -/
def bitField (b : List Byte) (at_ n : Nat) : Nat :=
  leNat ((b.drop (at_ / 8)).take ((at_ % 8 + n + 7) / 8)) / 2 ^ (at_ % 8) % 2 ^ n

/-- Fields of `n` bits packed from bit 0 of byte 0. -/
def packFields (n : Nat) : List Nat → Nat
  | [] => 0
  | x :: t => x % 2 ^ n + 2 ^ n * packFields n t

/-- a / b rounded up. -/
def ceilDiv (a b : Nat) : Nat := (a + b - 1) / b

end Sys2Proof.Machine
end

