-- ==== Sys2Proof/Machine/State.lean ====
section
/-! DEFINITION. The state of one PLM-4820 module, as plain data.  Registers that hardware and software share stand in
`regs` under their layout offset (R736); everything that is more than one register wide, or that a register only shows,
has a field of its own. -/

namespace Sys2Proof.Machine

/-- How a command may stop the block.  No command does: every fault the manual describes is a state change, so this
type has no constructor (safe: nothing stops). -/
inductive Fault where
  deriving DecidableEq, Repr

/-- Why the model gives a command no meaning. -/
inductive Refusal where
  /-- Raised by an arm of `exec` for a command without a meaning; safe, since nothing is claimed of it. -/
  | notModelled (mnemonic : String)
  deriving DecidableEq, Repr

/-- What a code word of a protected memory holds beside its data (R338, R351, R357): one or two wrong bits that the
code corrects, or an error it cannot correct. -/
inductive MemErr where
  | none | one | two | uce
  deriving DecidableEq, Repr

/-- CQ_STATUS.mode (R243). -/
inductive Mode where
  | idle | lockstep | slack
  deriving DecidableEq, Repr

/-- An entry of a decoupling queue (R207); `vis` is the first ac in which a consumer sees it (R211), and `bad` says that
its parity fails (R359). -/
structure QEntry where
  token : Token
  poison : Bool
  body : BitVec 256
  vis : Nat
  bad : Bool
  deriving DecidableEq, Repr

/-- Where a dynamic operation stands: waiting in XIQ, issued, or finished and waiting for its push (R209). -/
inductive OpStage where
  | xiq | issued | answered | finished
  deriving DecidableEq, Repr

/-- A dynamic operation of a core, from XISSUE to its completion push (R42, R209, R210): `queue` is the completion queue
it completes into, `bare` says that it never took a tracking entry, `bad` that the parity of its XIQ entry fails (R359). -/
structure DynOp where
  serial : Nat
  cls : BitVec 4
  queue : Nat
  desc : BitVec 256
  token : Token
  poison : Bool
  stage : OpStage
  entry : BitVec 7
  issuedAt : Nat
  bare : Bool
  readyAt : Nat
  bad : Bool
  deriving DecidableEq, Repr

/-- A semaphore addition that is not in place yet (R285, R425). -/
structure SemAdd where
  due : Nat
  s : Nat
  n : Nat
  deriving DecidableEq, Repr

/-- A message in an inbound queue (R230): entries received so far, oldest first, the ac from which it counts as complete
(R237), and the indexes of the entries whose parity fails (R359); `chan` is the sender's channel, to which its credits
return (R238). -/
structure Msg where
  src : Nat
  chan : Nat
  tag : Token
  count : Nat
  entries : List (Line × Bool)
  readyAt : Nat
  bad : List Nat
  deriving DecidableEq, Repr

/-- A message entry that reached the receiving router and waits for admission (R235). -/
structure MsgEntry where
  src : Nat
  chan : Nat
  q : Nat
  tag : Token
  count : Nat
  j : Nat
  payload : Line
  poison : Bool
  firstAt : Nat
  deriving DecidableEq, Repr

/-- A channel of the channel table (R231). -/
structure Channel where
  dest : BitVec 10
  q : BitVec 4
  init : Nat
  deriving DecidableEq, Repr

/-- The load state of a program bank (R188, R460); a load counts as complete from ac `from_` on. -/
structure Bank where
  complete : Bool
  token : Token
  cursor : Nat
  from_ : Nat
  deriving DecidableEq, Repr

/-- The destination of a vector result: one row, two rows, lines of activation memory, or a mask register. -/
inductive VDest where
  | row (b r : Nat)
  | am (addr width : Nat) (codes : List (Option Nat)) (scaleAddr : Nat) (scales : List Byte)
  | mask (k : Nat)
  deriving DecidableEq, Repr

/-- A vector result on its way (R157, R161): `lanes` holds some value for each lane written. -/
structure VRes where
  due : Nat
  serial : Nat
  dest : VDest
  lanes : List (Option Word32)
  poison : Bool
  deriving DecidableEq, Repr

/-- An array command (R91): opcode 1 LOAD, 2 PASS, 3 EWISE; a void command never runs (R255).  `headAt` is the ac in which it
reaches the head of the queue (R102); `fetched` and `yfetched` count the X and Y vectors fetched for it, `claimed` the flits
it has claimed (R303); `spoiled` says that it lost a vector (R304), `bad` that the parity of its entry fails (R359). -/
structure ArrCmd where
  op : BitVec 2
  void : Bool
  faulted : Bool
  desc : BitVec 256
  token : Token
  poison : Bool
  issuedAt : Nat
  headAt : Option Nat
  started : Bool
  swapTaken : Bool
  fetched : Nat
  yfetched : Nat
  claimed : Nat
  spoiled : Bool
  bad : Bool
  deriving DecidableEq, Repr

/-- A stationary tile: the descriptor fields of its LOAD, the bytes of its image (R104, R262), and what its LOAD writes into
the check cell of each physical row: one 40-bit operand in a dense tile (the second is 0), two in a 2:4 tile (R119,
R120). -/
structure Tile where
  valid : Bool
  shape : Nat
  wfmt : Nat
  afmt : Nat
  sparse : Bool
  k : Nat
  n : Nat
  image : List Byte
  poison : Bool
  checks : List (BitVec 40 × BitVec 40)
  deriving DecidableEq, Repr

/-- Cells that hold the contents of one tile: cell (r, c) with (r mod h) + c < reach.  The active registers are a list of
layers, of which the first that contains a cell names its contents; a swap wavefront that a drain stops leaves two
(R108, R145). -/
structure Layer where
  tile : Tile
  h : Nat
  reach : Nat
  deriving DecidableEq, Repr

/-- The swap mark in the array (R107 to R109): the advancing ac of the slot that carries it, whether that slot was released
at the BF16 rate, and H of the shape. -/
structure Mark where
  at_ : Nat
  bf : Bool
  h : Nat
  deriving DecidableEq, Repr

inductive Shadow where
  | free | loading | ready | draining
  deriving DecidableEq, Repr

/-- An activation vector in the feeder queues (R96): element bytes, block-scale bytes, poison; it is in the queues from ac
`from_`.  `y` and `yscales` are the EWISE Y operand's bytes and scales, joined at the release (R128). -/
structure Vec where
  m : Nat
  elems : List Byte
  scales : List Byte
  y : List Byte
  yscales : List Byte
  poison : Bool
  from_ : Nat
  bad : Bool
  deriving DecidableEq, Repr

/-- A Y vector of an EWISE in the column-top queue (R128). -/
structure YVec where
  m : Nat
  elems : List Byte
  scales : List Byte
  poison : Bool
  from_ : Nat
  bad : Bool
  deriving DecidableEq, Repr

/-- A PASS or EWISE that has started: vectors released, whether its completion is poisoned, the advancing ac and the ac of
its first slot, and the last ac in which one of its vectors finished or one of its words was written. -/
structure Run where
  serial : Nat
  cmd : ArrCmd
  headAt : Nat
  released : Nat
  poison : Bool
  degenerate : Bool
  zeroed : Bool
  words : Store Bool
  doneAt : Nat
  firstAt : Option Nat
  firstAc : Nat
  bf : Bool
  deriving DecidableEq, Repr

/-- A slot released into the array (R97): its vector, the tile that processes it (R108), the advancing ac of its release and
the terms formed so far. -/
structure Slot where
  run : Nat
  cmd : ArrCmd
  vec : Vec
  tile : List Layer
  at_ : Nat
  chain : Store (List (Nat × W128))
  checks : List (Nat × Nat)
  deriving DecidableEq, Repr

/-- A drain-buffer entry (R90): a W128 contribution (or an FP32 sum of a BF16 pass) for one word.  It is written in the
advancing ac `at_` when nothing delays it (R100) and no earlier than ac `wait` (R111).  DEDUCED: it enters its buffer in the
advancing ac before `at_`, and each lane of a B4 column has a buffer of its own, since R112 counts one arrival an ac
(log 182). -/
structure Drain where
  run : Nat
  tap : Nat
  col : Nat
  lane : Nat
  word : Nat
  val : W128
  fp32 : Bool
  poison : Bool
  at_ : Nat
  wait : Nat
  bad : Bool
  deriving DecidableEq, Repr

/-- What a PASS has yet to send into the mesh: a flit of a forwarded vector with the ac in which it leaves (R305), or a word
of a contribution with the advancing ac of R306 in which R100 would write it. -/
inductive ArrOut where
  | flit (leave side : Nat) (f : Flit)
  | word (run at_ side n : Nat) (w : W128) (p : Bool)
  deriving DecidableEq, Repr

/-- The matrix array of a core.  `old` holds the previous active tile while the shadow is DRAINING (R106); `outs` what has yet
to leave into the mesh; `drainEnd` the largest occupancy of a drain buffer at the end of the ac before (R112, R113);
`crossUntil` the advancing ac from which every released slot and bubble has crossed; `drained` the buffers written from in
the present ac. -/
structure Arr where
  queue : List ArrCmd
  overflow : List ArrCmd
  shapeNow : Nat
  ew : Bool
  shadow : Shadow
  shadowTile : Tile
  active : List Layer
  old : List Layer
  mark : Option Mark
  feeder : List Vec
  ytop : List YVec
  lost : Nat
  flits : List (Nat × Flit)
  runs : List Run
  slots : List Slot
  drains : List Drain
  outs : List ArrOut
  drainEnd : Nat
  freezeAt : Option Nat
  thawAt : Option Nat
  drainAt : Option Nat
  lastDone : Nat
  nextRun : Nat
  frozenAc : Nat
  swapped : Bool
  loadAt : Nat
  loadFrom : Nat
  readyAt : Nat
  lastRel : Nat
  lastRelAdv : Nat
  lastBf : Bool
  slotAc : Nat
  slotAdv : Nat
  slotBf : Bool
  crossUntil : Nat
  fetchAc : Nat
  yfetchAc : Nat
  enterAc : Nat
  drained : List (Nat × Nat)
  deriving DecidableEq, Repr

/-- A scheduled receive or relay move of a core (R275): `next` is the index of the flit it expects. -/
inductive MoveKind where
  | min | mpass | relay | sink
  deriving DecidableEq, Repr
structure Move where
  kind : MoveKind
  din : Side
  dout : Side
  base : Nat
  len : Nat
  next : Nat
  start : Nat
  lost : List Nat
  deriving DecidableEq, Repr

/-- A scheduled flit on its way to a core: the side it arrives on, its arrival ac and the precedence of its source
(R299). -/
structure Wire where
  side : Side
  due : Nat
  rank : Nat
  flit : Flit
  deriving DecidableEq, Repr

/-- A fired transit entry (R295, R296): `e` is its index, `t0` the ac T, `next` the next flit, `held` the operand of a MERGE
that has arrived in this ac. -/
structure Fired where
  e : Nat
  word : Word64
  t0 : Nat
  next : Nat
  held : Option (Side × Option Flit)
  deriving DecidableEq, Repr

/-- What a flit of a dynamic packet carries (R308 to R313, R538, R547).  `head` is the header of a message, `msg` one of its
entries; a semaphore signal and a credit return are headers alone.  `req` is the header of a core's fabric operation, `line`
64 bytes of a packet, `write` the header of a Deusk packet's data on their way to a core, for a waiting REDUCE with its serial
number, `input` that of an INPUT entry's lines, `done` a fabric response, `swap` the header of background data for the weight
store. -/
inductive DynBody where
  | head
  | msg (e : MsgEntry)
  | sig (src : Nat) (s n : Nat)
  | credit (chan n : Nat)
  | req (core serial : Nat) (desc : BitVec 256) (tag : BitVec 16)
  | line (l : Line)
  | write (io serial : Nat) (h : Header)
  | input (am sem n : Nat)
  | done (serial : Nat) (poison : Bool)
  | swap (addr : Nat) (uce : Bool)
  deriving DecidableEq, Repr

/-- A flit of a dynamic packet in a router (R308 to R313): class 0 FRSP, 1 MSG, 2 FREQ, 3 BG; the subclass of a BG packet, 0
scrub, 1 page, 2 telemetry, 3 swap; the destination core, and whether the packet leaves the mesh at that core's port; its
place in the packet, 0 the header; the input that buffers it, a side or 4 for the local port; the ac from which it is in
the router, and the ac in which its packet entered the mesh. -/
structure DynFlit where
  cls : Nat
  sub : Nat
  dest : Nat
  port : Bool
  idx : Nat
  last : Bool
  body : DynBody
  poison : Bool
  inp : Nat
  due : Nat
  born : Nat
  deriving DecidableEq, Repr

/-- A packet that is leaving the mesh at an output: its header and the lines received so far. -/
structure Asm where
  head : DynFlit
  lines : List (Line × Bool)
  deriving DecidableEq, Repr

/-- A crossbar read that is being delivered (R327, R349): the units served and not yet written, each with the ac in which it is
due when nothing delays it, and the ac that its request has waited so far. -/
structure CsReq where
  serial : Nat
  units : Nat
  next : Nat
  am : Nat
  wait : Nat
  data : List (Line × Bool × Nat)
  poison : Bool
  deriving DecidableEq, Repr

/-- A request at a slice of the context store (R323, R328): the units that it reads or writes, how many have been served, the ac
in which it reaches the slice, and the lines that a write brings. -/
structure XReq where
  core : Nat
  serial : Nat
  write : Bool
  unit : Nat
  units : Nat
  served : Nat
  slice : Nat
  arrive : Nat
  poison : Bool
  data : Store (Line × Bool)
  deriving DecidableEq, Repr

/-- What an access with an ac of its own does when that ac comes (R346): `out` and `red` send flit j of MOUT or of MRED as
originator, `msg` fills entry j of a message on its way, `unit` reads line k of a context-store write; `put` and `sum` are a write of
activation memory and an addition into a partial-sum word. -/
inductive TimedKind where
  | out (side : Side) (j : Nat)
  | red (side : Side) (j : Nat)
  | msg (j : Nat)
  | unit (serial k : Nat)
  | put (data : List Byte) (poison : Bool)
  | sum (v : W128) (poison : Bool)
  deriving DecidableEq, Repr

/-- An access that an issued instruction still owes: its access ac, its byte or word address, and whether it lost its
lanes (R348). -/
structure Timed where
  due : Nat
  addr : Nat
  lost : Bool
  kind : TimedKind
  deriving DecidableEq, Repr

/-- The phase of a DMA channel. -/
inductive DmaPhase where
  | idle | fetch | run | done | link | parked
  deriving DecidableEq, Repr

/-- A DMA channel (R408 to R431): its descriptor, its position in the loop nest and what has happened to it.  `since` is the
first ac of its phase, `bell` the ac after its last doorbell, `last` the ac of its last write or comparison, and `half` the
source chunk of a comparison that reads its two sides in two ac. -/
structure Dma where
  phase : DmaPhase
  job : Option Nat
  idx : BitVec 9
  desc : BitVec 512
  pos : Nat
  started : Nat
  poison : Bool
  jobPoison : Bool
  aborted : Bool
  mismatch : Option (Nat × Nat × Bool)
  pend : Bool
  stop : Bool
  accAc : Nat
  root : Option (Nat × Line)
  list : Option (Nat × Line)
  since : Nat
  bell : Nat
  last : Nat
  half : Option (List Byte × Bool)
  deriving DecidableEq, Repr

/-- A dynamic write of activation memory that waits for its lanes from ac `due` on (R347, R427). -/
structure LanePut where
  ch : Chan
  due : Nat
  addr : Nat
  data : List Byte
  poison : Bool
  deriving DecidableEq, Repr

/-- A fabric operation whose source is being read, with its descriptor, tag and poison: the port core to which its packet
travels, and how many of its lines have been read; `words` says that it reads partial-sum words, four in a line (R538). -/
structure FabSend where
  serial : Nat
  desc : BitVec 256
  tag : BitVec 16
  poison : Bool
  dest : Nat
  next : Nat
  total : Nat
  addr : Nat
  words : Bool
  deriving DecidableEq, Repr

/-- A write to the weight store that waits for a free ac (R336). -/
structure WsWrite where
  addr : Nat
  data : List Byte
  uce : Bool
  deriving DecidableEq, Repr

/-- A corrected-error record (R366, R669): kind or slice, bits corrected, address or row. -/
structure CeRec where
  kind : Nat
  bits : Nat
  addr : Nat
  deriving DecidableEq, Repr

/-- A row retirement in progress (R637). -/
structure Retiring where
  unit : Nat
  row : Nat
  spare : Nat
  copied : Nat
  turn : Bool
  deriving DecidableEq, Repr

/-- A STREAM binding at a port (R541). -/
structure Binding where
  serial : Nat
  tag : BitVec 16
  dst : Endpoint
  tcore : BitVec 10
  daddr : BitVec 17
  sem : Nat
  n : Nat
  total : Nat
  taken : List (Line × Bool)
  sent : Nat
  deriving DecidableEq, Repr

/-- What has met a partial-sum word in the present ac: a drain write, a fabric write, a vector read of 256 words from `word`,
or a read by MRED; a write keeps the contents it replaced (R111, R155, R276, R547). -/
inductive PsmKind where
  | drain | fabric | vread | mred
  deriving DecidableEq, Repr
structure PsmUse where
  at_ : Nat
  word : Nat
  kind : PsmKind
  val : W128
  poison : Bool
  err : List (Nat × MemErr)
  deriving DecidableEq, Repr

/-- One compute core with its array, vector unit, mesh router and DMA engine.  `oldRegs` holds what the registers written in an
ac held before (R183, R409), `wsFree` the first ac in which no write or scrub occupies the weight-store share (R336). -/
structure Core where
  mode : Mode
  bank : Bool
  index : BitVec 10
  banks : Store Bank
  preds : Byte
  lc : Store Nat
  sems : Store Nat
  semPend : List SemAdd
  queues : Store (List QEntry)
  skips : Store (List Token)
  desync : Store Bool
  ops : List DynOp
  nextSerial : Nat
  tagGen : Store Nat
  msgqs : Store (List Msg)
  msgWait : List MsgEntry
  chans : Store Channel
  credits : Store Nat
  poisoned : Bool
  ended : Bool
  aborted : Bool
  ending : Bool
  hold : Nat
  heldSince : Option Nat
  arrivals : List Nat
  endedAt : Nat
  gongMode : Option Bool
  vm : Store (BitVec 256)
  vres : List VRes
  arr : Arr
  moves : List Move
  fired : List Fired
  badTransit : List Nat
  dyn : List DynFlit
  here : List DynFlit
  dynHold : Store Nat
  dynDrop : List Nat
  dynUsed : List (Nat × Nat)
  laneFree : Store Nat
  asm : Option Asm
  fabIn : List Asm
  portIn : List DynFlit
  portOut : List DynFlit
  portAsm : Option Asm
  claims : List (Side × Nat × Nat)
  csReqs : List CsReq
  dmaP : Dma
  dmaQ : Dma
  wsPend : List WsWrite
  ceLog : List CeRec
  retired : Store Nat
  retiring : Option Retiring
  psmScrub : Nat
  psmLost : Store Nat
  wsScrub : Nat
  wsPassT0 : Nat
  amScrub : Nat
  binds : List Binding
  egress : List Flit
  rate : Nat
  putAt : Nat
  winAt : Nat
  echoed : Bool
  amUse : List (Nat × Nat × Bool)
  issueFrom : Nat
  wires : List Wire
  edge : List (Nat × Flit)
  creditPend : List SemAdd
  psmNow : List PsmUse
  timed : List Timed
  slotsAt : Nat
  slotsUsed : Nat
  qRoom : Store Nat
  oldRegs : List (Nat × Nat × Nat)
  dmaPuts : List LanePut
  fabSend : List FabSend
  fabNext : Nat
  wsFree : Nat
  psmScrubAt : Nat
  deriving DecidableEq, Repr

/-- The state and reference count of a context-store frame (R380). -/
structure FrameRec where
  state : Nat
  list : Bool
  count : Nat
  deriving DecidableEq, Repr

/-- A change the step journal records, with what it replaced (R393, R396). -/
inductive JRec where
  | mark
  | seq (s : Nat) (old : Word64)
  | entry (addr : Nat) (old : List Byte) (poison : Bool)
  | alloc (f : Nat)
  | frame (f : Nat) (old : FrameRec)
  deriving DecidableEq, Repr

/-- The page manager of a die (R380 to R407). -/
structure Pgm where
  size : Nat
  seqs : Store Word64
  frames : Store FrameRec
  freed : List Nat
  fresh : Nat
  quarantine : List Nat
  journal : List JRec
  cmdLo : Word32
  cmds : List Word64
  results : List Word32
  initReq : Bool
  ceLog : List CeRec
  retired : Store Nat
  retiring : Option Retiring
  lastSlice : Nat
  deriving DecidableEq, Repr

/-- A store-buffer entry of the control core (R446): address, width in bytes, data, and its MEM ac. -/
structure StEntry where
  addr : Nat
  width : Nat
  data : Nat
  from_ : Nat
  deriving DecidableEq, Repr

/-- A command block that the sequencer holds (R201, R460): header, body, and how many descriptors it has pushed. -/
structure Block where
  hdr : Nat
  body : List Line
  pushed : Nat
  soft : Bool
  expanding : Bool
  deriving DecidableEq, Repr

/-- A die armed by LAUNCH (R464). -/
structure Armed where
  ctx : Ctx
  peal : Word64
  seed : Word64
  step : Word32
  bank : Bool
  deriving DecidableEq, Repr

/-- One tile die: command sequencer, control core, page manager, crossbar.  `exFrom` is the first ac in which an instruction of
the control core may enter EX, `gFrom` that in which it may use a register's value (R442); `stFree` is the ac after the last
drain of the store buffer, `stLast` its address (R446, R449).  `seqFrom` is the first ac in which the
sequencer may start a block, `xfree` that in which a slice may serve a unit, `xback` says that a background request waits there. -/
structure Die where
  cmdq : List Line
  block : Option Block
  seqFrom : Nat
  armed : Option Armed
  copyEnd : Option Nat
  launched : Option Word32
  gregs : Store Word64
  pc : Word64
  epc : Word64
  ecause : BitVec 6
  resume : Word64
  eresume : Word64
  ie : Bool
  halted : Bool
  waiting : Bool
  stbuf : List StEntry
  exFrom : Nat
  gFrom : Store Nat
  stFree : Nat
  stLast : Nat
  timerDone : Bool
  push : Option (Bool × BitVec 6 × Token × BitVec 256)
  pushAc : Nat
  pgm : Pgm
  csScrub : Store Nat
  releasing : Option (Ctx × Encl)
  cleanAt : Word64
  tests : List (TestReq × TestOrigin)
  marginHits : List Nat
  csUces : List Nat
  handed : Bool
  xreqs : List XReq
  xfree : Store Nat
  xback : Store Bool
  deriving DecidableEq, Repr

/-- What an episode may exclude: a module, a die of a module or a link of a module (R652, R657). -/
inductive Suspect where
  | module (e : Endpoint)
  | die (e : Endpoint) (d : Nat)
  | link (e : Endpoint) (l : Nat)
  deriving DecidableEq, Repr

/-- A recovery episode (R649 to R654), with the policy records under which it opened (R695). -/
structure Episode where
  number : Word64
  failures : Nat
  replaying : Bool
  replacing : Bool
  records : List ElogRecord
  policy : List (BitVec 16 × List Byte)
  exclusion : List Suspect
  deriving DecidableEq, Repr

/-- A shard of a context on this module (R570, R580). -/
structure ShardRec where
  number : Nat
  core : Nat
  start : Nat
  len : Nat
  digest : Digest
  present : Bool
  lastOk : Word64
  deriving DecidableEq, Repr

/-- A context as the module knows it.  `active` says that a step is launched and not yet acted on; `hostLost` that its function
was reset since, `entriesLost` that a retained entry can no longer be read (R605, R623), `fencedOpen` that the module lost its
lease while the step was open (R668). -/
structure CtxState where
  step : Word32
  seed : Word64
  peal : Word64
  keyHiLocal : BitVec 96
  replay : Nat
  active : Bool
  gen : BitVec 24
  gongsDone : Nat
  waveAt : Option Nat
  releaseAt : Option Nat
  stepWave : Bool
  summary : Option GongSummary
  children : Store GongSummary
  sumSentAt : Option Nat
  notice : Option GongNotice
  actionAt : Nat
  flagged : Bool
  gongFault : Bool
  noticeLate : Bool
  gtcfg : Word32
  gtchild : BitVec 48
  episode : Option Episode
  program : Digest
  fixup : Digest
  stable : Bool
  binary : Option Binary
  image : List Byte
  lastOfJob : Bool
  inputs : List (Word64 × List Byte)
  firstInputs : Store Digest
  replaced : Bool
  shards : List ShardRec
  ranks : List RankPlace
  groups : List GroupAlloc
  maint : Option (Word64 × Word32)
  maintOpen : Bool
  ring : Option (VfId × RingId)
  reported : List Endpoint
  runRecords : List ElogRecord
  mergedAt : Option Nat
  waveDoneAt : Option Nat
  nextPeal : Option Word64
  hostLost : Bool
  entriesLost : Bool
  fencedOpen : Bool
  deriving DecidableEq, Repr

/-- A receipt entry with its chain value and, for a SIGN entry, its signature (R496 to R502). -/
structure Receipt where
  bytes : List Byte
  chain : Digest
  sign : Bool
  signature : Option (BitVec 768)
  at_ : Word64
  deriving DecidableEq, Repr

/-- The receipt chain of an enclave: the entries not yet acknowledged, oldest first, and how many were before them; `since` is
the Carillon count of the oldest entry without a later SIGN entry. -/
structure Chain where
  base : Nat
  entries : List Receipt
  h : Digest
  hold : Bool
  since : Option Nat
  deriving DecidableEq, Repr

/-- A Deusk link of the module.  Its transmit side: `ctl` holds the control blocks that wait, oldest first; `frameAt` is the time
at which its next frame begins; `cur` is the packet that its frames carry, with the header as sent and its Rimshot effect, and
`slots` the data slots that it still takes (R509, R512, R517); `held` is a packet that a REORDER rule holds back, true once it may
go (R562). -/
structure Link where
  cfg : Word32
  stat : Word32
  peer : Word32
  peerFabric : Word64
  peerDigest : Word64
  fecce : Word32
  fecue : Word32
  trainAt : Nat
  retrain : Bool
  rxHdr : Option (BitVec 256)
  freedRx : Store Nat
  sent : Store Nat
  acked : Store Nat
  creditSel : Nat
  ctl : List Nat
  frameAt : Nat
  slots : Nat
  cur : Option (Packet × Nat × Nat)
  txq : List (Packet × Nat)
  txPseq : BitVec 32
  rxPseq : BitVec 32
  mgStarts : Nat
  secret : Option Digest
  rekeyTx : BitVec 32
  rekeyRx : BitVec 32
  ready : Bool
  rekeying : Bool
  retryAt : Option Nat
  unpowered : Bool
  identAt : Nat
  identified : Bool
  held : Option (Packet × Bool)
  deriving DecidableEq, Repr

/-- An inbound operation that an I/O die tracks (R545): the cores it is for, and what has been written, 1024 × packet index
+ core. -/
structure Inbound where
  src : Endpoint
  tag : BitVec 16
  cores : List Nat
  got : List Nat
  marked : Bool
  poison : Bool
  lastAt : Nat
  deriving DecidableEq, Repr

/-- A shard transfer that a mover receives (R583): `next` is the packet expected, `arrived` counts the packets whose data have
reached the core. -/
structure Transfer where
  src : Endpoint
  tag : BitVec 16
  tcore : BitVec 10
  start : Nat
  total : Nat
  next : Nat
  arrived : Nat
  data : List Byte
  lastAt : Nat
  context : Ctx
  enclave : Encl
  dead : Bool
  deriving DecidableEq, Repr

/-- A record of the shard receive log (R588). -/
structure RxLog where
  status : Nat
  tcore : BitVec 10
  daddr : Nat
  digest : Digest
  deriving DecidableEq, Repr

/-- A shard-mover job (R585). -/
structure Job where
  verify : Bool
  ingest : Bool
  mc : Bool
  enclave : Encl
  context : Ctx
  ndest : Nat
  score : BitVec 10
  saddr : Nat
  dst : BitVec 16
  tcore : BitVec 10
  count : Nat
  daddr : Nat
  sent : Nat
  hashed : List Byte
  acks : Nat
  lastAt : Nat
  tag : BitVec 16
  deriving DecidableEq, Repr

/-- A Rimshot rule (R562). -/
structure Rim where
  cfg : Word32
  pat : Word32
  cnt : Word32
  seen : Nat
  deriving DecidableEq, Repr

/-- Where a packet goes that crosses the package ring (R524, R547, R548). -/
inductive RingTo where
  | link (l : LinkId)
  | copy
  | deliver
  | cores (mask : BitVec 12)
  deriving DecidableEq, Repr

/-- A packet that crosses the ring or waits for delivery, with the link on which it arrived, the time, the I/O die it goes to and
whether it goes clockwise (R525). -/
structure RingPkt where
  pkt : Packet
  via : RingTo
  arrival : Option LinkId
  since : Nat
  dest : IoId
  cw : Bool
  deriving DecidableEq, Repr

/-- The router and shard mover of an I/O die. -/
structure Router where
  routes : Store Word32
  mcasts : Store Word64
  drops : Store Nat
  lastChange : Nat
  ringq : List RingPkt
  localq : List Packet
  delivered : List RingPkt
  inbound : List Inbound
  rims : Store Rim
  job : Option Job
  transfers : List Transfer
  rxLog : List RxLog
  wxTag : BitVec 16
  deriving DecidableEq, Repr

/-- A round in flight of a reduction group (R551, R552). -/
structure Round where
  round : BitVec 16
  words : Store (BitVec 384)
  bad : List Nat
  fromLinks : List (Nat × Nat)
  locals : Nat
  started : Nat
  deriving DecidableEq, Repr

/-- A local contributor that waits for the result of a round: its operation, the words delivered so far (R551). -/
structure Waiter where
  core : Nat
  serial : Nat
  round : BitVec 16
  got : Nat
  poison : Bool
  deriving DecidableEq, Repr

/-- A reduction group (R550) with its rounds and the local contributors that wait for a result. -/
structure Group where
  cfg0 : Word32
  cfg1 : Word32
  child : BitVec 48
  rounds : List Round
  waiters : List Waiter
  deriving DecidableEq, Repr

/-- A result frame held in the egress buffer (R606 to R609). -/
structure Frame where
  vf : Nat
  ring : Nat
  context : Ctx
  seq : Word64
  data : List Byte
  poison : Bool
  released : Bool
  reported : Bool
  deriving DecidableEq, Repr

/-- A ring set of a VF (R599, R627): what its registers do not hold.  `fetch` counts the entries read, `sent` the lines of
a BLOCKS entry already delivered; `ended` says that the step's END has been read, `decided` that the step was decided before
it; `starvedAt` holds the time with the RB tail and the CQ head that the frame at the head found. -/
structure Ring where
  fetch : Word32
  stepNow : Option Word32
  ended : Bool
  decided : Bool
  sent : Nat
  blocks : List (Word32 × BitVec 12 × Digest)
  halted : Bool
  starvedAt : Option (Nat × Nat × Nat)
  gapCount : Nat
  gapFirst : Word64
  unsignalled : Nat
  firstUnsignalled : Nat
  records : List (Ctx × Word32 × List Byte)
  deriving DecidableEq, Repr

/-- What a function holds beside its registers (R591, R597, R619). -/
structure Func where
  ideSecure : Bool
  staging : Memory
  written : Store Bool
  deriving DecidableEq, Repr

/-- A history of error events (R632): class, key, event times newest first. -/
structure Hist where
  cls : Byte
  key : Nat
  times : List Nat
  deriving DecidableEq, Repr

/-- A debug or drill grant (R730 to R733). -/
structure Grant where
  until_ : Nat
  deriving DecidableEq, Repr

/-- A staged configuration change (R694). -/
structure StagedChange where
  number : Word32
  content : ChangeContent
  digest : Digest
  armedAt : Option Word64
  answers : List Endpoint
  coordinator : Bool
  since : Nat
  deriving DecidableEq, Repr

/-- What leaves the module, oldest first. -/
inductive Out where
  | packet (l : LinkId) (hdr : BitVec 256) (flits : List DFlit) (rimshot : Nat)
  | control (l : LinkId) (b : BitVec 256)
  | reachAsk (e : Endpoint)
  | reachAnswer (asker neighbour : Endpoint) (active : Bool)
  | change (sub : Nat) (number : Word32) (content : Option ChangeContent) (d : Option Digest) (t : Option Word64)
  | recordReq (e : Endpoint)
  | record (e : Endpoint) (policy : List (BitVec 16 × List Byte)) (plan : List Byte) (d : Digest)
  | hostWrite (v : VfId) (addr : Word64) (bytes : List Byte)
  | msix (f : Nat) (vector : Nat)
  | mail (f : Nat) (bytes : List Byte)
  | pldm (bytes : List Byte)
  | spdm (bytes : List Byte)
  | value (v : Word32)
  deriving DecidableEq, Repr

/-- What a register still owes to a register cycle to come (R18, R22): an increment of a counter, with the selector of its
table entry; an SC bit that clears; a remap that comes into force; a loaded Carillon count; the cores of a die, by position,
that abandon their step. -/
inductive LateKind where
  | count (key sel n : Nat)
  | clear (key mask : Nat)
  | remap (d : Nat)
  | carLoad (v : Nat)
  | abort (d : Nat) (mask : BitVec 64)
  | table (i cmd lo hi : Nat)
  | retag (i : Nat) (bank : Bool) (tag : Nat)
  deriving DecidableEq, Repr
/-- Its register cycle begins in ac `due`, or for a block in MCLK at the time `due` in tenths of a ns. -/
structure Late where
  mclk : Bool
  due : Nat
  kind : LateKind
  deriving DecidableEq, Repr

/-- What belongs to the module as a whole.  `dbg` holds the accesses through the debug window that wait, oldest first: the
offset, and the word of a write. -/
structure Mod where
  carillon : Nat
  carFrac : Nat
  carIn : Nat
  carOut : Nat
  carLastAt : Nat
  carHoldAt : Nat
  carStepped : Bool
  carAhead : Bool
  carDraw : Nat
  txTs : Word64
  opArmed : Option (Nat × Nat)
  powerCapPt : Option Nat
  thermalCapPt : Option Nat
  lowSamples : Nat
  lastMove : Option Nat
  lastThermal : Option Nat
  coolAt : Nat
  coolArmAt : Option Nat
  moves : List Nat
  under : Nat
  rails : Bool
  stby12 : Bool
  in48 : Bool
  rstLow : Bool
  rstFell : Nat
  fault : Bool
  dead : Bool
  smbus : BitVec 7
  inputMv : BitVec 16
  units : Store (Nat × Nat × Bool)
  resetCount : Nat
  elog : List ElogRecord
  hists : List Hist
  nor : Memory
  inUse : Bool
  securityVersion : Nat
  policy : List (BitVec 16 × List Byte)
  plan : List Byte
  dImg : Digest
  m1 : Digest
  m2 : Digest
  m3 : Digest
  m4 : Digest
  m5 : Digest
  otpOwner : Option Digest
  otpMin : Nat
  nonces : List (BitVec 256 × Nat)
  grant : Option Grant
  cfgArmed : Option (Digest × Nat)
  cfgAt : Nat
  prevDigest : Digest
  staged : Option StagedChange
  weights : Store Byte
  tieBreaker : Endpoint
  carSources : List Endpoint
  neighbours : Store Endpoint
  heard : Store (Nat × Nat)
  censusCar : Nat
  tsSeq : Byte
  tsAt : Nat
  askers : List (Endpoint × Endpoint)
  lastCensus : Nat
  leaseUntil : Nat
  fenced : Bool
  missed : Store Nat
  excluded : List Endpoint
  knells : List (Endpoint × Word64)
  queries : Store Nat
  chime : Nat
  chimePhase : Nat
  chimeMin : Digest
  chimeOk : Bool
  quorumNow : Bool
  enclavePlan : Store (Nat × Nat × Nat)
  quotas : Store Nat
  episodes : Nat
  frames : List Frame
  draining : Option (Bool × Word32)
  seen : Store Nat
  withdrawn : BitVec 12
  mrStarted : Nat
  dbg : List (Nat × Option Word32)
  deriving DecidableEq, Repr

/-- One PLM-4820 module.  `pending` is the queue of commands, first in, first out; `free` is the model's own counter of
free values drawn (Config), and `out` the model's own record of what has left the module. -/
structure State where
  pending : List Instr
  ac : Nat
  now : Nat
  free : Nat
  regs : Store Word32
  latches : Store Word32
  deferred : List Late
  ws : Memory
  am : Memory
  psm : Memory
  cs : Memory
  tb : Memory
  pm : Memory
  iram : Memory
  dram : Memory
  mail : Memory
  amPoison : Store Bool
  psmPoison : Store Bool
  csPoison : Store Bool
  tbPoison : Store Bool
  wsErr : Store MemErr
  amErr : Store MemErr
  psmErr : Store MemErr
  csErr : Store MemErr
  iramErr : Store MemErr
  dramErr : Store MemErr
  pmErr : Store MemErr
  cores : Store Core
  dies : Store Die
  ctxs : Store CtxState
  chains : Store Chain
  links : Store Link
  routers : Store Router
  rgroups : Store Group
  rings : Store Ring
  funcs : Store Func
  mod : Mod
  out : List Out
  deriving DecidableEq, Repr

def Tile.zero : Tile := ⟨false, 0, 0, 0, false, 0, 0, [], false, []⟩

def Arr.reset : Arr :=
  { queue := [], overflow := [], shapeNow := 0, ew := false, shadow := .free, shadowTile := Tile.zero, active := [],
    old := [], mark := none, feeder := [], ytop := [], lost := 0, flits := [], runs := [], slots := [], drains := [],
    outs := [], drainEnd := 0, freezeAt := none, thawAt := none, drainAt := none, lastDone := 0, nextRun := 0,
    frozenAc := 0, swapped := false, loadAt := 0, loadFrom := 0, readyAt := 0, lastRel := 0, lastRelAdv := 0,
    lastBf := false, slotAc := 0, slotAdv := 0, slotBf := false, crossUntil := 0, fetchAc := 0, yfetchAc := 0,
    enterAc := 0, drained := [] }

def Dma.reset : Dma :=
  { phase := .idle, job := none, idx := 0, desc := 0, pos := 0, started := 0, poison := false, jobPoison := false,
    aborted := false, mismatch := none, pend := false, stop := false, accAc := 0, root := none, list := none,
    since := 0, bell := 0, last := 0, half := none }

def Core.reset : Core :=
  { mode := .idle, bank := false, index := 0, banks := [], preds := 0, lc := [], sems := [], semPend := [],
    queues := [], skips := [], desync := [], ops := [], nextSerial := 0, tagGen := [], msgqs := [], msgWait := [],
    chans := [], credits := [], poisoned := false, ended := false, aborted := false, ending := false, hold := 0, heldSince := none,
    arrivals := [], endedAt := 0, gongMode := none, vm := [], vres := [], arr := Arr.reset, moves := [], fired := [], badTransit := [],
    dyn := [], here := [], dynHold := [], dynDrop := [], dynUsed := [], laneFree := [], asm := none, fabIn := [], portIn := [], portOut := [],
    portAsm := none, claims := [], csReqs := [], dmaP := Dma.reset, dmaQ := Dma.reset, wsPend := [], ceLog := [],
    retired := [], retiring := none, psmScrub := 0, psmLost := [], wsScrub := 0, wsPassT0 := 0, amScrub := 0, binds := [],
    egress := [], rate := 200000, putAt := 0, winAt := 0, echoed := false, amUse := [], issueFrom := 0, wires := [], edge := [],
    creditPend := [], psmNow := [], timed := [], slotsAt := 0, slotsUsed := 0, qRoom := [], oldRegs := [], dmaPuts := [],
    fabSend := [], fabNext := 0, wsFree := 0, psmScrubAt := 0 }

def Bank.reset : Bank := ⟨false, 0, 0, 0⟩
def FrameRec.reset : FrameRec := ⟨0, false, 0⟩

/-- PGM_CFG.frame_size resets to 0b10, 16 KiB (R406). -/
def Pgm.reset : Pgm :=
  { size := 2, seqs := [], frames := [], freed := [], fresh := 0, quarantine := [], journal := [], cmdLo := 0,
    cmds := [], results := [], initReq := false, ceLog := [], retired := [], retiring := none, lastSlice := 0 }

def Die.reset : Die :=
  { cmdq := [], block := none, seqFrom := 0, armed := none, copyEnd := none, pushAc := 0, launched := none, gregs := [], pc := 0, epc := 0,
    ecause := 0, resume := 0, eresume := 0, ie := false, halted := false, waiting := false, stbuf := [], exFrom := 0,
    gFrom := [], stFree := 0, stLast := 0,
    timerDone := false, push := none, pgm := Pgm.reset, csScrub := [], releasing := none,
    cleanAt := 0, tests := [], marginHits := [], csUces := [], handed := false,
    xreqs := [], xfree := [], xback := [] }

/-- FAB_GTCFG.parent resets to 0x3F (R567). -/
def CtxState.reset : CtxState :=
  { step := 0, seed := 0, peal := 0, keyHiLocal := 0, replay := 0, active := false, gen := 0, gongsDone := 0,
    waveAt := none, releaseAt := none, stepWave := false, summary := none, children := [], sumSentAt := none,
    notice := none, actionAt := 0, flagged := false, gongFault := false, noticeLate := false, gtcfg := 0x3F000000, gtchild := 0, episode := none,
    program := 0, fixup := 0, stable := false, binary := none, image := [], lastOfJob := false, inputs := [],
    firstInputs := [], replaced := false, shards := [], ranks := [], groups := [], maint := none, maintOpen := false,
    ring := none, reported := [], runRecords := [], mergedAt := none, waveDoneAt := none, nextPeal := none,
    hostLost := false, entriesLost := false, fencedOpen := false }

def Chain.reset : Chain := ⟨0, [], 0, false, none⟩

/-- FAB_LINKCFG.dim resets to 0b11; FAB_LINKPEER to endpoint 0xFFFF, link 0x3F (R565). -/
def Link.reset : Link :=
  { cfg := 0x0C000000, stat := 0, peer := 0xFFFF003F, peerFabric := 0, peerDigest := 0, fecce := 0, fecue := 0,
    trainAt := 0, retrain := false, rxHdr := none, freedRx := [], sent := [], acked := [], creditSel := 0,
    ctl := [], frameAt := 0, slots := 0, cur := none, txq := [],
    txPseq := 0, rxPseq := 0, mgStarts := 0, secret := none, rekeyTx := 0, rekeyRx := 0, ready := false,
    rekeying := false, retryAt := none, unpowered := false, identAt := 0, identified := false,
    held := none }

def Router.reset : Router :=
  { routes := [], mcasts := [], drops := [], lastChange := 0, ringq := [],
    localq := [], delivered := [], inbound := [], rims := [], job := none, transfers := [],
    rxLog := [], wxTag := 0 }

def Rim.reset : Rim := ⟨0, 0, 0, 0⟩

/-- FAB_RGCFG0.parent resets to 0x3F (R567). -/
def Group.reset : Group := ⟨0x07E00000, 0, 0, [], []⟩

def Ring.reset : Ring :=
  { fetch := 0, stepNow := none, ended := false, decided := false, sent := 0, blocks := [], halted := false, starvedAt := none, gapCount := 0, gapFirst := 0,
    unsignalled := 0, firstUnsignalled := 0, records := [] }

def Func.reset : Func := ⟨false, [], []⟩

/-- After power-on: STANDBY, no image, no owner key (R671, R773). -/
def Mod.reset : Mod :=
  { carillon := 0, carFrac := 0, carIn := 0, carOut := 0, carLastAt := 0, carHoldAt := 0, carStepped := false,
    carAhead := false, carDraw := 0,
    txTs := 0, opArmed := none, powerCapPt := none, thermalCapPt := none, lowSamples := 0, lastMove := none,
    lastThermal := none, coolAt := 0, coolArmAt := none, moves := [], under := 0, rails := false, stby12 := true, in48 := true,
    rstLow := false, rstFell := 0, fault := false, dead := false, smbus := 0, inputMv := 0, units := [], resetCount := 0, elog := [], hists := [],
    nor := [], inUse := false, securityVersion := 0, policy := [], plan := [],
    dImg := 0, m1 := 0, m2 := 0, m3 := 0, m4 := 0, m5 := 0, otpOwner := none, otpMin := 0, nonces := [],
    grant := none, cfgArmed := none, cfgAt := 0, prevDigest := 0, staged := none, weights := [], tieBreaker := 0xFFFF,
    carSources := [], neighbours := [], heard := [], censusCar := 0, tsSeq := 0, tsAt := 0, askers := [], lastCensus := 0, leaseUntil := 0, fenced := false, missed := [],
    excluded := [], knells := [], queries := [], chime := 0, chimePhase := 0, chimeMin := 0, chimeOk := false, quorumNow := false, enclavePlan := [], quotas := [],
    episodes := 0, frames := [], draining := none, seen := [], withdrawn := 0, mrStarted := 0, dbg := [] }

/-- The module right after reset, in STANDBY (R671, R752): every register at its reset value (an unlisted register reads
its reset value), every memory clear, no command pending. -/
def State.reset : State :=
  { pending := [], ac := 0, now := 0, free := 0, regs := [], latches := [], deferred := [], ws := [], am := [], psm := [],
    cs := [], tb := [], pm := [], iram := [], dram := [], mail := [], amPoison := [],
    psmPoison := [], csPoison := [], tbPoison := [], wsErr := [], amErr := [], psmErr := [], csErr := [],
    iramErr := [], dramErr := [], pmErr := [], cores := [], dies := [], ctxs := [], chains := [], links := [], routers := [],
    rgroups := [], rings := [], funcs := [], mod := Mod.reset, out := [] }

end Sys2Proof.Machine
end

