-- ==== Sys2Proof/Machine/Regs.lean ====
section
/-! DEFINITION. The register layout (R736 to R741): where each block lies, and for each register its reset value and
which of its bits are RW, W1C, SC and CNT (R16).  Bits in no mask are RO or reserved; hardware keeps them. -/

namespace Sys2Proof.Machine

/-- A register block of R740 with its instance. -/
inductive Blk where
  | mc | pwr | clk | sec | fab
  | router (i : IoId)
  | pf
  | vf (v : VfId)
  | cqDie (d : DieId) | meshDie (d : DieId) | pgm (d : DieId) | secDie (d : DieId)
  | mx (c : CoreId) | vu (c : CoreId) | cq (c : CoreId) | mesh (c : CoreId) | dma (c : CoreId)
  deriving DecidableEq, Repr

def dieOf (c : CoreId) : DieId := ⟨c.val / 64, by omega⟩
/-- The die position id[5:0] (R737). -/
def posOf (c : CoreId) : Nat := c.val % 64
def dieBase (d : DieId) : Nat := 0x01000000 * (d.val + 1)
def coreBase (c : CoreId) : Nat := dieBase (dieOf c) + 0x00800000 + 0x20000 * posOf c

/-- The layout offset of a block (R737, R740). -/
def Blk.base : Blk → Nat
  | .mc => 0x00000000
  | .pwr => 0x00001000
  | .clk => 0x00010000
  | .sec => 0x00020000
  | .fab => 0x00030000
  | .router i => 0x00040000 + 0x10000 * i.val
  | .pf => 0x00800000
  | .vf v => 0x00800000 + 0x10000 * (v.val + 1)
  | .cqDie d => dieBase d
  | .meshDie d => dieBase d + 0x1000
  | .pgm d => dieBase d + 0x2000
  | .secDie d => dieBase d + 0x3000
  | .mx c => coreBase c
  | .vu c => coreBase c + 0x1000
  | .cq c => coreBase c + 0x2000
  | .mesh c => coreBase c + 0x3000
  | .dma c => coreBase c + 0x10000

/-- The tile die in whose register blocks a block lies, if any. -/
def Blk.die : Blk → Option DieId
  | .cqDie d | .meshDie d | .pgm d | .secDie d => some d
  | .mx c | .vu c | .cq c | .mesh c | .dma c => some (dieOf c)
  | _ => none

def coreOf (d : DieId) (p : Fin 64) : CoreId := ⟨64 * d.val + p.val, by omega⟩

/-- The block that holds a layout offset, with the offset inside it (R736, R737, R740). -/
def blockOf (o : Nat) : Option (Blk × Nat) :=
  if o < 0x1000 then some (.mc, o)
  else if o < 0x2000 then some (.pwr, o - 0x1000)
  else if 0x10000 ≤ o ∧ o < 0x20000 then some (.clk, o - 0x10000)
  else if 0x20000 ≤ o ∧ o < 0x30000 then some (.sec, o - 0x20000)
  else if 0x30000 ≤ o ∧ o < 0x40000 then some (.fab, o - 0x30000)
  else if 0x40000 ≤ o ∧ o < 0x80000 then
    some (.router (Fin.ofNat 4 ((o - 0x40000) / 0x10000)), o % 0x10000)
  else if 0x800000 ≤ o ∧ o < 0x810000 then some (.pf, o - 0x800000)
  else if 0x810000 ≤ o ∧ o < 0xC10000 then
    some (.vf (Fin.ofNat 64 ((o - 0x810000) / 0x10000)), o % 0x10000)
  else if 0x01000000 ≤ o ∧ o < 0x0D000000 then
    let d : DieId := Fin.ofNat 12 (o / 0x01000000 - 1)
    let r := o % 0x01000000
    if r < 0x1000 then some (.cqDie d, r)
    else if r < 0x2000 then some (.meshDie d, r - 0x1000)
    else if r < 0x3000 then some (.pgm d, r - 0x2000)
    else if r < 0x4000 then some (.secDie d, r - 0x3000)
    else if 0x800000 ≤ r then
      let c := coreOf d (Fin.ofNat 64 ((r - 0x800000) / 0x20000))
      let q := r % 0x20000
      if q < 0x1000 then some (.mx c, q)
      else if q < 0x2000 then some (.vu c, q - 0x1000)
      else if q < 0x3000 then some (.cq c, q - 0x2000)
      else if q < 0x4000 then some (.mesh c, q - 0x3000)
      else if 0x10000 ≤ q then some (.dma c, q - 0x10000)
      else none
    else none
  else none

/-- The paths whose writes a block applies (R382, R740, R741).  R738 says which part of the layout a path reaches. -/
def Blk.writable (b : Blk) (off : Nat) (p : Path) : Bool :=
  match b, p with
  | .mc, .mc | .mc, .pf => off == 0x104
  | .pwr, .mc | .clk, .mc | .sec, .mc | .fab, .mc | .router _, .mc => true
  | .pf, .pf => true
  | .pf, .mc => off == 0x50 || off == 0x54
  | .vf v, .vf u => v == u
  | .cqDie d, .cc e | .meshDie d, .cc e | .pgm d, .cc e | .secDie d, .cc e => d == e
  | .pgm _, .mc => off != 0x1C && off != 0x20 && off != 0x28
  | .cqDie _, .mc | .meshDie _, .mc | .secDie _, .mc => true
  | .mx c, .cc e | .vu c, .cc e | .cq c, .cc e | .mesh c, .cc e | .dma c, .cc e => dieOf c == e
  | .mx _, .mc | .cq _, .mc | .mesh _, .mc => true
  | _, _ => false

/-- Whether a path can read a block (R738): the PF and the management controller the whole layout, a control core its own
die region, a VF its own HOST block. -/
def Blk.readable (b : Blk) (p : Path) : Bool :=
  match p with
  | .mc | .pf => true
  | .cc d => b.die == some d
  | .vf v => b == .vf v

/-- The clock of a register (R18, R740). -/
inductive Clock where
  | aclk | nclk | mclk
  deriving DecidableEq, Repr
def Blk.clock (b : Blk) (off : Nat) : Clock :=
  match b with
  | .mc | .pwr => .mclk
  | .clk | .sec | .fab | .router _ | .pf | .vf _ | .pgm _ | .secDie _ => .nclk
  | .meshDie _ => if off < 0x18 then .aclk else .nclk
  | .cqDie _ | .mx _ | .vu _ | .cq _ | .mesh _ | .dma _ => .aclk

/-- A register: its reset value and the masks of its RW, W1C, SC and CNT bits; `sat` says that the CNT field saturates
(R21). -/
structure RegDef where
  reset : Nat
  rw : Nat
  w1c : Nat
  sc : Nat
  cnt : Nat
  sat : Bool
  deriving DecidableEq, Repr

def roReg (reset : Nat) : RegDef := ⟨reset, 0, 0, 0, 0, false⟩
def rwReg (mask reset : Nat) : RegDef := ⟨reset, mask, 0, 0, 0, false⟩
def w1cReg (mask : Nat) : RegDef := ⟨0, 0, mask, 0, 0, false⟩
def cntReg : RegDef := ⟨0, 0, 0, 0, 0xFFFFFFFF, false⟩
def satReg : RegDef := ⟨0, 0, 0, 0, 0xFFFFFFFF, true⟩
def scReg (sc rw reset : Nat) : RegDef := ⟨reset, rw, 0, sc, 0, false⟩

def ones32 : Nat := 0xFFFFFFFF

/-- MX block (R73, R142 to R147, R367, R669). -/
def mxRegs : List (Nat × RegDef) :=
  [(0x00, roReg 0), (0x04, roReg 0), (0x08, w1cReg 0x7B), (0x0C, scReg 1 0 0), (0x10, w1cReg 0x1F),
   (0x14, roReg 0), (0x20, cntReg), (0x24, cntReg), (0x28, cntReg), (0x2C, satReg),
   (0x40, w1cReg 0x7E), (0x44, roReg 0), (0x48, roReg 0), (0x4C, roReg 0), (0x50, satReg),
   (0x60, scReg 0x80000000 0x7FFF 0), (0x64, w1cReg 0x60000000)]

/-- VU block (R181 to R184). -/
def vuRegs : List (Nat × RegDef) :=
  [(0x00, w1cReg 0x1F), (0x04, w1cReg 0x3), (0x08, rwReg ones32 0), (0x0C, rwReg ones32 0),
   (0x10, rwReg ones32 0), (0x14, roReg 0), (0x20, cntReg)]

/-- CQ core block (R243 to R248); CQ_SEM0 to CQ_SEM63 at 0x100 to 0x1FC are views. -/
def cqRegs : List (Nat × RegDef) :=
  [(0x00, roReg 0), (0x04, w1cReg 0x1FF), (0x08, roReg 0), (0x0C, rwReg 0x1F 0), (0x10, roReg 0), (0x14, roReg 0),
   (0x18, rwReg 0xFFFFFF 0x4000), (0x20, cntReg), (0x24, cntReg), (0x28, satReg)]

/-- MESH core block (R331). -/
def meshRegs : List (Nat × RegDef) := [(0x00, w1cReg 0x3F), (0x04, satReg)]

/-- DMA block (R437, R438); the descriptor memory lies at 0x8000 to 0xFFFF (R409). -/
def dmaRegs : List (Nat × RegDef) :=
  [(0x00, roReg 0), (0x04, w1cReg 0xFF), (0x08, roReg 0), (0x0C, rwReg 0x1FF 0), (0x10, roReg 0), (0x14, scReg 1 0 0),
   (0x18, roReg 0), (0x1C, cntReg), (0x20, roReg 0), (0x24, roReg 0), (0x28, roReg 0), (0x2C, roReg 0),
   (0x30, cntReg)]

/-- CQ die block (R249, R467, R670, R742); 0x80 to 0x9C are CQ_CCPUSH0 to 7, 0x100 to 0x13C are CQ_MBOX0 to 15. -/
def cqDieRegs : List (Nat × RegDef) :=
  [(0x00, roReg 0), (0x04, w1cReg 0x7), (0x40, roReg 0), (0x44, w1cReg 0xFF), (0x48, w1cReg 0x3D),
   (0x4C, rwReg 0x3F 0), (0x50, w1cReg ones32), (0x54, w1cReg ones32), (0x58, rwReg ones32 0),
   (0x5C, rwReg ones32 0xFFFFFFFF), (0x60, scReg 1 0 0), (0x64, cntReg), (0x68, cntReg),
   (0xA0, scReg 0x80000000 0x4FC00FFF 0), (0xA8, roReg 0), (0xAC, roReg 0), (0x140, roReg 0)]

/-- MESH die block (R332). -/
def meshDieRegs : List (Nat × RegDef) :=
  [(0x00, rwReg ones32 0xFFFFFFFF), (0x04, roReg 0xFFFFFFFF), (0x08, rwReg 0xF 0xF), (0x0C, rwReg 0xFFFFFF 0),
   (0x10, w1cReg 0x7), (0x14, rwReg 0xFFF 0x612), (0x18, w1cReg 0x3), (0x1C, cntReg)]

/-- PGM block (R406, R407, R669). -/
def pgmRegs : List (Nat × RegDef) :=
  [(0x00, rwReg 0x3 2), (0x04, scReg 1 0 0), (0x08, roReg 0x40000000), (0x0C, roReg 0), (0x10, roReg 0),
   (0x14, w1cReg 0x3EF), (0x18, roReg 0), (0x1C, roReg 0), (0x20, roReg 0), (0x24, roReg 0), (0x28, roReg 0),
   (0x2C, rwReg 0xFFFFF 0), (0x30, roReg 0), (0x34, rwReg 0x1FFF 0), (0x38, roReg 0), (0x3C, roReg 0), (0x40, cntReg),
   (0x44, roReg 0), (0x48, roReg 0), (0x4C, satReg), (0x50, scReg 0x80000000 0x7FFFF 0), (0x54, w1cReg 0x60000000)]

/-- SEC die block (R368). -/
def secDieRegs : List (Nat × RegDef) :=
  [(0x00, roReg 0x800000FF), (0x04, roReg 0), (0x08, w1cReg 0x3), (0x0C, roReg 0xFF), (0x10, roReg 0), (0x14, roReg 0)]

/-- MC block (R50, R670, R703). -/
def mcRegs : List (Nat × RegDef) :=
  [(0x00, roReg 0), (0x10, roReg 0), (0x14, roReg 0), (0x18, roReg 0), (0x100, ⟨0, 0, 0, 0, 0xFFFF, true⟩),
   (0x104, roReg 0)]

/-- PWR block (R734). -/
def pwrRegs : List (Nat × RegDef) :=
  [(0x00, roReg 0), (0x04, roReg 0), (0x08, rwReg 0xFFFF 0x12C0), (0x0C, ⟨0x60000000, 0, 0, 0, 0xFFFF, true⟩),
   (0x10, roReg 0), (0x14, rwReg 0x1F 0), (0x18, roReg 0), (0x1C, rwReg 0xFFF 0x28), (0x20, w1cReg 0x1F)]

/-- CLK block (R504, R701). -/
def clkRegs : List (Nat × RegDef) :=
  [(0x00, roReg 0), (0x04, roReg 0), (0x08, roReg 0x003F0000), (0x0C, scReg 0x80000000 0x600000FF 0x28),
   (0x10, rwReg ones32 0), (0x14, rwReg ones32 0), (0x18, w1cReg 0x3F), (0x1C, rwReg 0xFF 0), (0x20, roReg 0),
   (0x40, roReg 0xF0000000), (0x44, scReg 0x80000000 0x3 0x3), (0x48, rwReg ones32 0), (0x4C, rwReg ones32 0),
   (0x50, w1cReg 0x40000000), (0x54, w1cReg 0x3)]

/-- SEC module block (R505, R702, R735); SEC_CFGDIG at 0x40, SEC_CFGNEXT at 0x80, SEC_AKHASH at 0x140, twelve words
each. -/
def secRegs : List (Nat × RegDef) :=
  [(0x00, rwReg 0x3F 0), (0x04, roReg 0), (0x08, roReg 0), (0x0C, roReg 0), (0xB0, scReg 0xC0000000 0 0),
   (0xB4, rwReg ones32 0), (0xB8, rwReg ones32 0), (0xBC, w1cReg 0x3), (0xC0, rwReg 0x3F 0), (0x100, roReg 0),
   (0x104, scReg 1 0 0), (0x180, rwReg 0x3F 0), (0x184, roReg 0), (0x188, scReg 0x80000000 0 0), (0x18C, w1cReg 0x7)]

/-- FAB module block (R567); FAB_MRDATA at 0x80, FAB_MRRES at 0xC0. -/
def fabRegs : List (Nat × RegDef) :=
  [(0x00, rwReg ones32 0), (0x04, rwReg ones32 0), (0x08, rwReg 0xFFFF 0xFFFF), (0x0C, rwReg 0xFFFFF 0x3E8),
   (0x10, rwReg 0xFFFFF 0x64), (0x14, rwReg 0xFFFFFF 0x1F40), (0x18, rwReg ones32 0x10308040), (0x1C, rwReg 0x3F 0x3F),
   (0x20, rwReg 0xFF 0), (0x24, rwReg 0xBFFFFF00 0x3F000000), (0x28, rwReg ones32 0), (0x2C, rwReg 0xFFFF 0),
   (0x30, rwReg 0xFF 0), (0x34, rwReg ones32 0x07E00000), (0x38, rwReg ones32 0), (0x3C, rwReg ones32 0),
   (0x40, rwReg 0xFFFF 0), (0x44, scReg 0x80000000 0xFFFFFF 0), (0x48, w1cReg 0x7), (0x4C, w1cReg 0xF)]

/-- FAB router block (R565, R566, R588); FAB_WXDIG at 0x80, FAB_WXRDIG at 0xC0. -/
def routerRegs : List (Nat × RegDef) :=
  [(0x00, rwReg 0xF 0), (0x04, rwReg 0xFFFE0000 0x0C000000), (0x08, roReg 0), (0x0C, roReg 0xFFFF003F), (0x10, satReg),
   (0x14, satReg), (0x18, rwReg ones32 0), (0x1C, rwReg ones32 0), (0x20, scReg 0x80000000 0x7000FFFF 0),
   (0x24, roReg 0), (0x28, roReg 0), (0x2C, roReg 0x0000FF00), (0x30, roReg 0), (0x34, scReg 0x80000000 0xFF 0),
   (0x38, rwReg ones32 0), (0x3C, rwReg ones32 0), (0x40, w1cReg 0x3F7), (0x44, rwReg 0xF 0), (0x48, satReg),
   (0x4C, rwReg 0x3 0), (0x50, rwReg 0xFFFFFFFC 0), (0x54, rwReg 0xFF80FFFF 0), (0x58, cntReg),
   (0x60, scReg 0x80000000 0x7FFFFFFF 0), (0x64, rwReg 0xFFFFFF 0), (0x68, rwReg 0xFFFF03FF 0),
   (0x6C, rwReg 0xFFFE7FFF 0), (0x70, w1cReg 0x1F), (0xB0, roReg 0), (0xB4, roReg 0)]

/-- HOST PF block (R628, R741). -/
def pfRegs : List (Nat × RegDef) :=
  [(0x00, roReg 0x3F), (0x04, w1cReg 0x240), (0x08, w1cReg 0x7FF), (0x0C, rwReg 0x1F1F1F 0),
   (0x40, ⟨0, 0, 0x40000000, 0x80000000, 0, false⟩), (0x50, rwReg 0x3F 0), (0x54, rwReg 0x7F 0x40)]

/-- HOST VF block (R626): the registers that every VF has (R595). -/
def vfRegs : List (Nat × RegDef) :=
  [(0x00, roReg 0), (0x04, w1cReg 0x3BE), (0x08, w1cReg 0x7FF), (0x0C, rwReg 0x1F1F1F 0),
   (0x40, ⟨0, 0, 0x40000000, 0x80000000, 0, false⟩)]

/-- The registers that VF 64 lacks (R595, R626). -/
def vfMore : List (Nat × RegDef) :=
  [(0x10, rwReg 0xFFFFF 0x3E8), (0x14, roReg 0), (0x20, rwReg 0xFFFFF000 0), (0x24, rwReg ones32 0),
   (0x28, rwReg 0x9F000000 0x06000000), (0x2C, roReg 0), (0x30, rwReg ones32 0)]

/-- A ring set (R627). -/
def ringRegs : List (Nat × RegDef) :=
  [(0x00, rwReg 0xFFFFF000 0), (0x04, rwReg ones32 0), (0x08, rwReg 0x9F0000FF 0x060000FF), (0x0C, rwReg ones32 0),
   (0x10, roReg 0), (0x20, rwReg 0xFFFFF000 0), (0x24, rwReg ones32 0), (0x28, rwReg 0x9F000000 0x06000000),
   (0x2C, rwReg ones32 0), (0x30, roReg 0), (0x40, rwReg 0xFFFFF000 0), (0x44, rwReg ones32 0),
   (0x48, rwReg 0x9F1FFFFF 0x06000100), (0x4C, roReg 0), (0x50, rwReg ones32 0), (0x60, w1cReg 0x3), (0x64, satReg)]

/-- The definition in a list. -/
def findReg : List (Nat × RegDef) → Nat → Option RegDef
  | [], _ => none
  | (o, r) :: t, k => if o = k then some r else findReg t k

/-- Words of a wide register: `n` words from `base`. -/
def inWords (base n off : Nat) : Bool := base ≤ off && off < base + 4 * n && off % 4 == 0

/-- The register at an offset of a block; none for a reserved or unassigned offset (R743). -/
def Blk.reg (b : Blk) (off : Nat) : Option RegDef :=
  match b with
  | .mc => if inWords 0x120 8 off then some (roReg 0) else findReg mcRegs off
  | .pwr => findReg pwrRegs off
  | .clk => findReg clkRegs off
  | .sec =>
    if inWords 0x40 12 off || inWords 0x140 12 off then some (roReg 0)
    else if inWords 0x80 12 off then some (rwReg ones32 0)
    else findReg secRegs off
  | .fab =>
    if inWords 0x80 12 off then some (rwReg ones32 0)
    else if inWords 0xC0 12 off then some (roReg 0)
    else findReg fabRegs off
  | .router _ =>
    if inWords 0x80 12 off || inWords 0xC0 12 off then some (roReg 0) else findReg routerRegs off
  | .pf => findReg pfRegs off
  | .vf v =>
    match findReg vfRegs off with
    | some r => some r
    | none =>
      if v.val = 63 then none
      else if 0x1000 ≤ off ∧ off < 0x1400 then findReg ringRegs (off % 0x80)
      else findReg vfMore off
  | .cqDie _ =>
    if inWords 0x80 8 off || inWords 0x100 16 off then some (rwReg ones32 0) else findReg cqDieRegs off
  | .meshDie _ => findReg meshDieRegs off
  | .pgm _ => findReg pgmRegs off
  | .secDie _ => findReg secDieRegs off
  | .mx _ => findReg mxRegs off
  | .vu _ => findReg vuRegs off
  | .cq _ => if inWords 0x100 64 off then some (roReg 0) else findReg cqRegs off
  | .mesh _ => findReg meshRegs off
  | .dma _ => if 0x8000 ≤ off ∧ off < 0x10000 ∧ off % 4 = 0 then some (rwReg ones32 0) else findReg dmaRegs off

/-- The reset value of the register at an offset; 0 where there is none. -/
def Blk.resetOf (b : Blk) (off : Nat) : Nat := match b.reg off with | some r => r.reset | none => 0

/-- The register that `regs` holds, or a selected one of a table: an unlisted register holds its reset value, so a stored
word is the difference from it. -/
def State.reg (s : State) (b : Blk) (off : Nat) : Nat :=
  ((Store.get 0 s.regs (b.base + off)) ^^^ BitVec.ofNat 32 (b.resetOf off)).toNat

def State.setReg (s : State) (b : Blk) (off v : Nat) : State :=
  { s with regs := Store.set 0 s.regs (b.base + off) (BitVec.ofNat 32 v ^^^ BitVec.ofNat 32 (b.resetOf off)) }

/-- A field [hi:lo] of a register. -/
def State.fld (s : State) (b : Blk) (off hi lo : Nat) : Nat := bits (s.reg b off) hi lo

def State.setFld (s : State) (b : Blk) (off hi lo v : Nat) : State :=
  s.setReg b off (setBits (s.reg b off) hi lo v)

/-- Hardware sets bits of a W1C field. -/
def State.orReg (s : State) (b : Blk) (off mask : Nat) : State := s.setReg b off (s.reg b off ||| mask)

/-- Hardware sets a fault bit.  A fault bit of a tile die's blocks makes the die's FAULT interrupt pending (R457). -/
def State.raise (s : State) (b : Blk) (off bit : Nat) : State :=
  let t := s.orReg b off (2 ^ bit)
  match b.die with
  | some d => t.orReg (.cqDie d) 0x48 1
  | none => t

/-- A CNT field adds its increment; it wraps, or stops at its greatest value where its description says so (R16, R21). -/
def RegDef.add (r : RegDef) (old n : Nat) : Nat :=
  let f := old % (r.cnt + 1)
  let g := f + n
  let h := if r.sat then Nat.min g r.cnt else g % (r.cnt + 1)
  old - f + h

def State.count (s : State) (b : Blk) (off n : Nat) : State :=
  match b.reg off with
  | some r => s.setReg b off (r.add (s.reg b off) n)
  | none => s

end Sys2Proof.Machine
end

