-- ==== Sys2Proof/Machine/Ops.lean ====
section
/-! DEFINITION. The named operations over the tables and memories of the state: each table of units is read and written
through one pair of operations, each memory through its own. -/

namespace Sys2Proof.Machine

/-! ### Units -/

def State.core (s : State) (c : CoreId) : Core := Store.get Core.reset s.cores c.val
def State.setCore (s : State) (c : CoreId) (k : Core) : State :=
  { s with cores := Store.set Core.reset s.cores c.val k }
def State.onCore (s : State) (c : CoreId) (f : Core → Core) : State := s.setCore c (f (s.core c))

def State.die (s : State) (d : DieId) : Die := Store.get Die.reset s.dies d.val
def State.setDie (s : State) (d : DieId) (k : Die) : State := { s with dies := Store.set Die.reset s.dies d.val k }
def State.onDie (s : State) (d : DieId) (f : Die → Die) : State := s.setDie d (f (s.die d))

def State.arr (s : State) (c : CoreId) : Arr := (s.core c).arr
def State.onArr (s : State) (c : CoreId) (f : Arr → Arr) : State :=
  s.onCore c fun k => { k with arr := f k.arr }

def State.pgm (s : State) (d : DieId) : Pgm := (s.die d).pgm
def State.setPgm (s : State) (d : DieId) (p : Pgm) : State := s.onDie d fun k => { k with pgm := p }

def State.ctx (s : State) (x : Ctx) : CtxState := Store.get CtxState.reset s.ctxs x.toNat
def State.setCtx (s : State) (x : Ctx) (k : CtxState) : State :=
  { s with ctxs := Store.set CtxState.reset s.ctxs x.toNat k }
def State.onCtx (s : State) (x : Ctx) (f : CtxState → CtxState) : State := s.setCtx x (f (s.ctx x))

def State.chain (s : State) (e : Encl) : Chain := Store.get Chain.reset s.chains e.toNat
def State.setChain (s : State) (e : Encl) (k : Chain) : State :=
  { s with chains := Store.set Chain.reset s.chains e.toNat k }

def State.link (s : State) (l : LinkId) : Link := Store.get Link.reset s.links l.val
def State.setLink (s : State) (l : LinkId) (k : Link) : State := { s with links := Store.set Link.reset s.links l.val k }
def State.onLink (s : State) (l : LinkId) (f : Link → Link) : State := s.setLink l (f (s.link l))

def State.router (s : State) (i : IoId) : Router := Store.get Router.reset s.routers i.val
def State.setRouter (s : State) (i : IoId) (k : Router) : State :=
  { s with routers := Store.set Router.reset s.routers i.val k }
def State.onRouter (s : State) (i : IoId) (f : Router → Router) : State := s.setRouter i (f (s.router i))

def State.group (s : State) (g : Nat) : Group := Store.get Group.reset s.rgroups g
def State.setGroup (s : State) (g : Nat) (k : Group) : State := { s with rgroups := Store.set Group.reset s.rgroups g k }

def ringKey (v : VfId) (r : RingId) : Nat := 8 * v.val + r.val
def State.ring (s : State) (v : VfId) (r : RingId) : Ring := Store.get Ring.reset s.rings (ringKey v r)
def State.setRing (s : State) (v : VfId) (r : RingId) (k : Ring) : State :=
  { s with rings := Store.set Ring.reset s.rings (ringKey v r) k }
def State.onRing (s : State) (v : VfId) (r : RingId) (f : Ring → Ring) : State := s.setRing v r (f (s.ring v r))

/-- Functions: 0 the PF, v + 1 virtual function v + 1 (R592). -/
def State.func (s : State) (f : Nat) : Func := Store.get Func.reset s.funcs f
def State.setFunc (s : State) (f : Nat) (k : Func) : State := { s with funcs := Store.set Func.reset s.funcs f k }
def State.onFunc (s : State) (f : Nat) (g : Func → Func) : State := s.setFunc f (g (s.func f))

def State.onMod (s : State) (f : Mod → Mod) : State := { s with mod := f s.mod }
def State.emit (s : State) (o : Out) : State := { s with out := s.out ++ [o] }

/-- The cores of a die, in the order of die positions. -/
def coresOf (d : DieId) : List CoreId := (List.finRange 64).map (coreOf d)

/-! ### Bytes and words -/

def lineBytes (l : Line) : List Byte := leBytes 64 l.toNat
def bytesLine (b : List Byte) : Line := BitVec.ofNat 512 (leNat b)
/-- A list cut or filled with zero bytes to a length. -/
def padTo (n : Nat) (b : List Byte) : List Byte := (b ++ List.replicate n 0).take n
/-- Pieces of `k` bytes. -/
def chunksOf {α : Type} (k : Nat) : Nat → List α → List (List α)
  | 0, _ => []
  | n + 1, l => l.take k :: chunksOf k n (l.drop k)

/-! ### Placement of the memories (R25, R41, R333, R369) -/

def wsBase (c : CoreId) : Nat := c.val * (96 * 2 ^ 20)
def amBase (c : CoreId) : Nat := c.val * (4 * 2 ^ 20)
def psmBase (c : CoreId) : Nat := c.val * (2 * 2 ^ 20)
def pmBase (c : CoreId) (bank : Bool) : Nat := c.val * 65536 + (if bank then 32768 else 0)
def csBase (d : DieId) : Nat := d.val * (3 * 2 ^ 30)
def tbKey (c : CoreId) (b r : Nat) : Nat := c.val * 512 + 64 * b + r

def State.amBytes (s : State) (c : CoreId) (a n : Nat) : List Byte := s.am.bytes (amBase c + a) n
def State.amSet (s : State) (c : CoreId) (a : Nat) (b : List Byte) : State :=
  { s with am := s.am.setBytes (amBase c + a) b }
def amLineKey (c : CoreId) (line : Nat) : Nat := c.val * 65536 + line
def State.amPois (s : State) (c : CoreId) (line : Nat) : Bool := Store.get false s.amPoison (amLineKey c line)
def State.setAmPois (s : State) (c : CoreId) (line : Nat) (p : Bool) : State :=
  { s with amPoison := Store.set false s.amPoison (amLineKey c line) p }
/-- A write of a whole activation-memory line with its poison bit (R353). -/
def State.amLineSet (s : State) (c : CoreId) (line : Nat) (b : List Byte) (p : Bool) : State :=
  (s.amSet c (64 * line) (padTo 64 b)).setAmPois c line p

def psmKey (c : CoreId) (w : Nat) : Nat := c.val * 131072 + w
def State.psmWord (s : State) (c : CoreId) (w : Nat) : W128 := BitVec.ofNat 128 (s.psm.nat (psmBase c + 16 * w) 16)
def State.psmPois (s : State) (c : CoreId) (w : Nat) : Bool := Store.get false s.psmPoison (psmKey c w)
def State.psmSet (s : State) (c : CoreId) (w : Nat) (v : W128) (p : Bool) : State :=
  { s with psm := s.psm.setNat (psmBase c + 16 * w) 16 v.toNat
           psmPoison := Store.set false s.psmPoison (psmKey c w) p }

def State.setPsmPois (s : State) (c : CoreId) (w : Nat) (p : Bool) : State :=
  { s with psmPoison := Store.set false s.psmPoison (psmKey c w) p }

/-- A tile-buffer row: 256 lanes of 32 bits and a poison bit (R149, R150). -/
def State.tbRow (s : State) (c : CoreId) (b r : Nat) : List Nat :=
  (List.range 256).map fun j => s.tb.nat (1024 * tbKey c b r + 4 * j) 4
def State.tbLane (s : State) (c : CoreId) (b r j : Nat) : Nat := s.tb.nat (1024 * tbKey c b r + 4 * j) 4
def State.tbPois (s : State) (c : CoreId) (b r : Nat) : Bool := Store.get false s.tbPoison (tbKey c b r)
def State.setTbPois (s : State) (c : CoreId) (b r : Nat) (p : Bool) : State :=
  { s with tbPoison := Store.set false s.tbPoison (tbKey c b r) p }
def State.setTbLane (s : State) (c : CoreId) (b r j v : Nat) : State :=
  { s with tb := s.tb.setNat (1024 * tbKey c b r + 4 * j) 4 v }

def State.wsBytes (s : State) (c : CoreId) (a n : Nat) : List Byte := s.ws.bytes (wsBase c + a) n
def State.wsSet (s : State) (c : CoreId) (a : Nat) (b : List Byte) : State :=
  { s with ws := s.ws.setBytes (wsBase c + a) b }

/-- Frame size in bytes for a size code (R369, R406). -/
def frameBytes (size : Nat) : Nat := 4096 * 2 ^ size
/-- Frames of a die (R370): F. -/
def frameCount (size : Nat) : Nat := 3 * 2 ^ 30 / frameBytes size

/-- A context-store unit is named by its number in the die: byte address / 64. -/
def csUnitKey (d : DieId) (u : Nat) : Nat := d.val * (3 * 2 ^ 24) + u
def State.csUnit (s : State) (d : DieId) (u : Nat) : List Byte := s.cs.bytes (csBase d + 64 * u) 64
def State.csPois (s : State) (d : DieId) (u : Nat) : Bool := Store.get false s.csPoison (csUnitKey d u)
def State.csUnitSet (s : State) (d : DieId) (u : Nat) (b : List Byte) (p : Bool) : State :=
  { s with cs := s.cs.setBytes (csBase d + 64 * u) (padTo 64 b)
           csPoison := Store.set false s.csPoison (csUnitKey d u) p }

/-- Bytes of the context store at a byte address of the module's. -/
def State.csSet (s : State) (a : Nat) (b : List Byte) : State := { s with cs := s.cs.setBytes a b }
def State.psmBytesSet (s : State) (a : Nat) (b : List Byte) : State := { s with psm := s.psm.setBytes a b }
def State.tbSet (s : State) (a : Nat) (b : List Byte) : State := { s with tb := s.tb.setBytes a b }
def State.pmSet (s : State) (a : Nat) (b : List Byte) : State := { s with pm := s.pm.setBytes a b }
def State.iramSet (s : State) (a : Nat) (b : List Byte) : State := { s with iram := s.iram.setBytes a b }
def State.dramSet (s : State) (a : Nat) (b : List Byte) : State := { s with dram := s.dram.setBytes a b }
def State.mailSet (s : State) (a : Nat) (b : List Byte) : State := { s with mail := s.mail.setBytes a b }

/-! ### The state of code words -/

def State.setWsErr (s : State) (k : Nat) (e : MemErr) : State := { s with wsErr := Store.set .none s.wsErr k e }
def State.setAmErr (s : State) (k : Nat) (e : MemErr) : State := { s with amErr := Store.set .none s.amErr k e }
def State.setPsmErr (s : State) (k : Nat) (e : MemErr) : State := { s with psmErr := Store.set .none s.psmErr k e }
def State.setCsErr (s : State) (k : Nat) (e : MemErr) : State := { s with csErr := Store.set .none s.csErr k e }
def State.setDramErr (s : State) (k : Nat) (e : MemErr) : State := { s with dramErr := Store.set .none s.dramErr k e }
def State.setPmErr (s : State) (k : Nat) (e : MemErr) : State := { s with pmErr := Store.set .none s.pmErr k e }

/-- A copy of corrected data leaves sound what the code corrects, and what it does not correct as it is. -/
def soundAfterCopy (m : Store MemErr) (p : Nat → Bool) : Store MemErr := m.filter fun e => !(p e.1) || e.2 == .uce
def State.wsSound (s : State) (p : Nat → Bool) : State := { s with wsErr := soundAfterCopy s.wsErr p }
/-- Every code word of a range of data SRAM is sound. -/
def State.dramSound (s : State) (lo hi : Nat) : State := { s with dramErr := Store.clearRange s.dramErr lo hi }
def State.csSound (s : State) (p : Nat → Bool) : State := { s with csErr := soundAfterCopy s.csErr p }

/-! ### Latches and deferred increments (R22, R748) -/

def State.setLatch (s : State) (o : Nat) (v : Word32) : State := { s with latches := Store.set 0 s.latches o v }
def State.setDeferred (s : State) (l : List Late) : State := { s with deferred := l }
/-- What a register owes to the `n`-th register cycle after this one: a cycle is one ac, one nc, which is two ac, or one
cycle of MCLK, which is 6.4 ns (R12, R18, R683). -/
def State.owesIn (s : State) (n : Nat) (b : Blk) (off : Nat) (k : LateKind) : State :=
  s.setDeferred (s.deferred ++
    [match b.clock off with
     | .aclk => ⟨false, s.ac + n, k⟩
     | .nclk => ⟨false, 2 * (s.ac / 2 + n), k⟩
     | .mclk => ⟨true, 64 * (s.now / 64 + n), k⟩])
def State.owes (s : State) (b : Blk) (off : Nat) (k : LateKind) : State := s.owesIn 1 b off k

/-! ### Free values -/

/-- The next free value; the counter moves on, so each draw is its own. -/
def State.draw (s : State) (n : Nat) : State := { s with free := s.free + n }

/-! ### Time -/

/-- Tenths of a nanosecond per ac at an operating point (R684). -/
def acTenths (point : Nat) : Nat := if point = 0 then 8 else if point = 1 then 10 else if point = 2 then 12 else 16
/-- Whole microseconds since a module time, in tenths of a ns. -/
def State.sinceUs (s : State) (t : Nat) : Nat := (s.now - t) / 10000
/-- More than `n` µs have passed since a module time. -/
def State.over (s : State) (t n : Nat) : Bool := decide (10000 * n < s.now - t)
/-- The Carillon count in ns (R480), a 64-bit counter. -/
def State.car (s : State) : Nat := s.mod.carillon % 2 ^ 64

end Sys2Proof.Machine
end

