-- ==== Sys2Proof/Machine/Mem.lean ====
section
/-! DEFINITION. Accesses to the memories of a core: codes and their errors, poison, lanes and fixed-time conflicts
(R333 to R359, R366, R367). -/

namespace Sys2Proof.Machine

/-! ### Faults and marks of a core -/

/-- The step is marked poisoned on a core (CQ_STATUS.poisoned). -/
def State.markStep (s : State) (c : CoreId) : State := s.onCore c fun k => { k with poisoned := true }

/-- A fault bit of CQ_FAULT (R244). -/
def State.cqFault (s : State) (c : CoreId) (bit : Nat) : State := s.raise (.cq c) 0x04 bit
/-- A fault bit of MX_FAULT (R144). -/
def State.mxFault (s : State) (c : CoreId) (bit : Nat) : State := s.raise (.mx c) 0x08 bit
/-- A fault bit of MESH_FAULT (R331). -/
def State.meshFault (s : State) (c : CoreId) (bit : Nat) : State := s.raise (.mesh c) 0x00 bit
/-- An error bit of MX_MEMERR (R367). -/
def State.memErr (s : State) (c : CoreId) (bit : Nat) : State := s.orReg (.mx c) 0x40 (2 ^ bit)

/-- MX_FAULT bits. -/
def mxCheck : Nat := 0
def mxFormat : Nat := 1
def mxSwapOrder : Nat := 3
def mxShape : Nat := 4
def mxOverflow : Nat := 5
def mxBusy : Nat := 6
/-- CQ_FAULT bits. -/
def cqViol : Nat := 0
def cqLate : Nat := 1
def cqSem : Nat := 2
def cqCredit : Nat := 3
def cqMode : Nat := 4
def cqBundle : Nat := 5
def cqHold : Nat := 6
def cqDesync : Nat := 7
def cqId : Nat := 8

/-- A register of a core as it stood at the start of the ac: a seed of the vector unit or a word of descriptor memory, whose
offsets differ (R183, R409, R410). -/
def State.startReg (s : State) (c : CoreId) (b : Blk) (off : Nat) : Nat :=
  match (s.core c).oldRegs.find? fun u => u.1 == s.ac && u.2.1 == off with
  | some u => u.2.2
  | none => s.reg b off

/-! ### Error logs -/

/-- A correction: counted, and recorded when the 16-entry log has room (R366).  Kinds 0 weight store, 1 AM, 2 PSM. -/
def State.logCe (s : State) (c : CoreId) (kind nb addr : Nat) : State :=
  let s := s.count (.mx c) 0x50 1
  if (s.core c).ceLog.length < 16 then s.onCore c fun k => { k with ceLog := k.ceLog ++ [⟨kind, nb, addr⟩] }
  else s.memErr c 6

/-- An uncorrectable error: its bit of MX_MEMERR, and MX_UCELOG when no such bit stands yet (R339, R352, R358, R367). -/
def State.logUce (s : State) (c : CoreId) (kind addr : Nat) : State :=
  let first := bits (s.reg (.mx c) 0x40) 3 1 = 0
  let s := if first then s.setReg (.mx c) 0x44 (kind * 2 ^ 30 + addr % 2 ^ 22) else s
  s.memErr c (kind + 1)

/-- Two wrong bits or more are past correction in a SEC-DED code (R333, R441). -/
def MemErr.past : MemErr → Bool
  | .none | .one => false
  | .two | .uce => true

/-- The listed errors of code words `lo` up to but not `hi`. -/
def errsIn (m : Store MemErr) (lo hi : Nat) : List (Nat × MemErr) := m.filter fun e => lo ≤ e.1 && e.1 < hi

/-! ### Activation memory -/

def amWordKey (c : CoreId) (a : Nat) : Nat := c.val * 524288 + a / 8

/-- The lane of a byte address (R341). -/
def laneOf (a : Nat) : Nat :=
  let i := bits a 13 7
  let w := bits a 6 3
  16 * (i % 8) + (w + i / 8) % 16

/-- The lanes of the lane words that hold `n` bytes from `a`, as a mask. -/
def laneMask (a n : Nat) : Nat :=
  (List.range ((a + n + 7) / 8 - a / 8)).foldl (fun m k => m ||| 2 ^ laneOf (a / 8 * 8 + 8 * k)) 0

/-- One lane word as a read meets it: one wrong bit is corrected and logged, more mark the line poisoned (R351, R352). -/
def State.amReadWord (s : State) (c : CoreId) (e : Nat × MemErr) : State :=
  let a := 8 * (e.1 - c.val * 524288)
  match e.2 with
  | .none => s
  | .one => s.logCe c 1 1 (a / 8)
  | _ => (s.logUce c 1 (a / 8)).setAmPois c (a / 64) true

def anyLine (p : Nat → Bool) (a n : Nat) : Bool :=
  (List.range ((a + n + 63) / 64 - a / 64)).any fun k => p (a / 64 + k)

/-- A read of activation memory: the bytes, whether any line touched is poisoned, and the marks of the codes. -/
def State.amRead (s : State) (c : CoreId) (a n : Nat) : State × List Byte × Bool :=
  let s := (errsIn s.amErr (amWordKey c a) (amWordKey c (a + n + 7))).foldl (fun s e => s.amReadWord c e) s
  (s, s.amBytes c a n, anyLine (s.amPois c) a n)

/-- The code word of a lane word after a write: a whole word is valid again; a partial one is read first (R343). -/
def State.amWriteWord (s : State) (c : CoreId) (a n : Nat) (e : Nat × MemErr) : State :=
  let w := 8 * (e.1 - c.val * 524288)
  let s := if a ≤ w ∧ w + 8 ≤ a + n then s else s.amReadWord c e
  s.setAmErr e.1 .none

/-- A write of activation memory (R343, R353): whole lines take the poison of the data, partial lines stay poisoned. -/
def State.amWrite (s : State) (c : CoreId) (a : Nat) (b : List Byte) (p : Bool) : State :=
  let n := b.length
  let s := (errsIn s.amErr (amWordKey c a) (amWordKey c (a + n + 7))).foldl (fun s e => s.amWriteWord c a n e) s
  let s := (List.range ((a + n + 63) / 64 - a / 64)).foldl (fun s k =>
    let line := a / 64 + k
    if a ≤ 64 * line ∧ 64 * line + 64 ≤ a + n then s.setAmPois c line p
    else if p then s.setAmPois c line true else s) s
  s.amSet c a b

/-- Takes lanes in one ac for a fixed-time access; false when another fixed-time access holds one of them.  Fixed-time
accesses take their lanes before every dynamic one (R342, R347). -/
def State.claim (s : State) (c : CoreId) (at_ mask : Nat) : State × Bool :=
  if (s.core c).amUse.any fun u => u.1 = at_ && u.2.2 && (u.2.1 &&& mask) ≠ 0 then (s, false)
  else (s.onCore c fun k => { k with amUse := k.amUse ++ [(at_, mask, true)] }, true)

/-- Whether an access holds one of the lanes in an ac. -/
def Core.laneHeld (k : Core) (at_ mask : Nat) : Bool := k.amUse.any fun u => u.1 = at_ && (u.2.1 &&& mask) ≠ 0

/-- Takes lanes in one ac for a dynamic access, which waits while any other access holds one of them, or while one of them
is among the lanes `above` of the accesses that come before it in the order of R347 and are ready in this ac. -/
def State.claimDyn (s : State) (c : CoreId) (at_ mask above : Nat) : State × Bool :=
  if (s.core c).laneHeld at_ mask || (above &&& mask) ≠ 0 then (s, false)
  else (s.onCore c fun k => { k with amUse := k.amUse ++ [(at_, mask, false)] }, true)

/-- The lanes of a request that none of the accesses of its ac holds; none when one is held, since a dynamic access never
takes part of its lanes (R347). -/
def Core.freeLanes (k : Core) (at_ mask : Nat) : Nat := if k.laneHeld at_ mask then 0 else mask

/-- The lanes of a dynamic write, which holds them for two ac where it covers part of a lane word (R343).  A dynamic access
that waits for none of them has the lanes `above` 0. -/
def State.claimPut (s : State) (c : CoreId) (a n : Nat) : State × Bool :=
  if n % 8 = 0 then s.claimDyn c s.ac (laneMask a n) 0
  else if (s.core c).laneHeld (s.ac + 1) (laneMask a n) then (s, false)
  else
    match s.claimDyn c s.ac (laneMask a n) 0 with
    | (t, true) => t.claimDyn c (s.ac + 1) (laneMask a n) 0
    | (_, false) => (s, false)

/-- The marks of a fixed-time conflict (R348). -/
def State.amConflict (s : State) (c : CoreId) : State := (s.memErr c 4).markStep c

/-- Marks every line of a range poisoned. -/
def State.poisonLines (s : State) (c : CoreId) (a n : Nat) : State :=
  (List.range ((a + n + 63) / 64 - a / 64)).foldl (fun s k => s.setAmPois c (a / 64 + k) true) s

/-- A fixed-time access that follows its issue: its lanes are claimed at issue, and it takes place in its access ac
(R345, R346). -/
def State.addTimed (s : State) (c : CoreId) (t : Timed) : State := s.onCore c fun k => { k with timed := k.timed ++ [t] }
def State.timedAccess (s : State) (c : CoreId) (due a n : Nat) (kind : TimedKind) : State :=
  let t := s.claim c due (laneMask a n)
  t.1.addTimed c ⟨due, a, !t.2, kind⟩

/-- A dynamic write that has its lanes: the bytes are in place from the ac after its last access ac (R343, R345). -/
def State.amPut (s : State) (c : CoreId) (a : Nat) (b : List Byte) (p : Bool) : State :=
  s.addTimed c ⟨if b.length % 8 = 0 then s.ac else s.ac + 1, a, false, .put b p⟩

/-- The line of a timed read as it stands; one that lost its lanes returns poisoned zero bytes and takes no lane
(R348). -/
def State.timedLine (s : State) (c : CoreId) (t : Timed) : State × List Byte × Bool :=
  if t.lost then (s.amConflict c, List.replicate 64 0, true) else s.amRead c t.addr 64

/-- A timed write; one that lost its lanes is not performed and its lines are marked poisoned (R348). -/
def State.timedPut (s : State) (c : CoreId) (t : Timed) (b : List Byte) (p : Bool) : State :=
  if t.lost then (s.amConflict c).poisonLines c t.addr b.length else s.amWrite c t.addr b p

/-! ### Partial-sum memory -/

/-- The listed errors of the two halves of a word. -/
def State.psmErrs (s : State) (c : CoreId) (w : Nat) : List (Nat × MemErr) :=
  errsIn s.psmErr (2 * psmKey c w) (2 * psmKey c w + 2)

/-- The decoding of a word: corrected halves are logged, an uncorrectable half makes the read poisoned (R357, R358). -/
def State.psmDecode (s : State) (c : CoreId) (es : List (Nat × MemErr)) : State × Bool :=
  (es.foldl (fun s e =>
    match e.2 with
    | .none => s
    | .one => s.logCe c 2 1 (e.1 - 2 * (c.val * 131072))
    | _ => s.logUce c 2 (e.1 - 2 * (c.val * 131072))) s, es.any fun e => e.2.past)

/-- A read of a word as it stands. -/
def State.psmRead (s : State) (c : CoreId) (w : Nat) : State × W128 × Bool :=
  let (t, bad) := s.psmDecode c (s.psmErrs c w)
  (t, s.psmWord c w, s.psmPois c w || bad)

/-- The uses of a word that write it. -/
def PsmKind.writes : PsmKind → Bool
  | .drain | .fabric => true
  | .vread | .mred => false

/-- The first write of a word in this ac, which holds what the word was at the start of the ac. -/
def State.psmBefore (s : State) (c : CoreId) (w : Nat) : Option PsmUse :=
  (s.core c).psmNow.find? fun u => u.at_ == s.ac && u.word == w && u.kind.writes

/-- A read of a word as it stood at the start of the ac: neither a drain write nor a fabric write of this ac is seen
(R155, R156, R276). -/
def State.psmReadOld (s : State) (c : CoreId) (w : Nat) : State × W128 × Bool :=
  match s.psmBefore c w with
  | none => s.psmRead c w
  | some u => let (t, bad) := s.psmDecode c u.err; (t, u.val, u.poison || bad)

/-- A write of a whole word with its poison bit; its code is valid again. -/
def State.psmWrite (s : State) (c : CoreId) (w : Nat) (v : W128) (p : Bool) : State :=
  let s := (s.setPsmErr (2 * psmKey c w) .none).setPsmErr (2 * psmKey c w + 1) .none
  s.psmSet c w v p

/-- wrap128(word + t) with the poison bits joined (R74, R358). -/
def State.psmAdd (s : State) (c : CoreId) (w : Nat) (t : W128) (p : Bool) : State :=
  let (s, old, q) := s.psmRead c w
  s.psmWrite c w (old + t) (p || q)

/-- Records what meets a word in this ac; records of an earlier ac go. -/
def State.psmNote (s : State) (c : CoreId) (w : Nat) (k : PsmKind) : State :=
  let u : PsmUse := ⟨s.ac, w, k, s.psmWord c w, s.psmPois c w, s.psmErrs c w⟩
  s.onCore c fun x => { x with psmNow := (x.psmNow.filter fun v => v.at_ == s.ac) ++ [u] }

/-- Records a drain write or a fabric write of a word in this ac; true when the other kind meets it there (R547). -/
def State.psmMeet (s : State) (c : CoreId) (w : Nat) (k : PsmKind) : State × Bool :=
  (s.psmNote c w k,
    (s.core c).psmNow.any fun u => u.at_ == s.ac && u.word == w && u.kind != k && u.kind.writes)

/-- Whether MRED uses its port to partial-sum memory in this ac: it has read a word, or it adds one (R275, R276). -/
def State.mredBusy (s : State) (c : CoreId) : Bool :=
  ((s.core c).psmNow.any fun u => u.at_ == s.ac && u.kind == .mred) ||
    (s.core c).timed.any fun t => t.due == s.ac && (match t.kind with | .sum .. => true | _ => false)

/-- The bank of a word (R354). -/
def psmBank (w : Nat) : Nat := w % 2048

/-- Whether a vector read of the 256 words from `w₀` uses the bank of a word (R155, R354). -/
def vreadUses (w₀ w : Nat) : Bool := decide ((psmBank w + 2048 - psmBank w₀) % 2048 < 256)

/-- Whether a vector read of this ac uses the bank of a word. -/
def State.bankRead (s : State) (c : CoreId) (w : Nat) : Bool :=
  (s.core c).psmNow.any fun u => u.at_ == s.ac && u.kind == .vread && vreadUses u.word w

/-- PSM scrub runs in each ac whose count since reset is 63 modulo 64 (R356). -/
def State.psmScrubAc (s : State) : Bool := s.ac % 64 == 63

/-! ### Queue entries (R359) -/

/-- An entry whose parity fails is delivered poisoned, and MX_MEMERR.qpar is set. -/
def State.entryParity (s : State) (c : CoreId) (bad : Bool) : State := if bad then s.memErr c 5 else s

/-! ### Weight store -/

/-- The uncorrectable words and the corrections of a read of the weight store: words of 32 bytes, `lo` up to but not `hi`
(R338, R339). -/
def State.wsReadWords (s : State) (c : CoreId) (lo hi : Nat) : State × Bool :=
  let b := c.val * 3145728
  let es := errsIn s.wsErr (b + lo) (b + hi)
  let s := es.foldl (fun s e =>
    match e.2 with
    | .none => s
    | .one => s.logCe c 0 1 (e.1 - b)
    | .two => s.logCe c 0 2 (e.1 - b)
    | .uce => s.logUce c 0 (e.1 - b)) s
  (s, es.any fun e => e.2 == .uce)

end Sys2Proof.Machine
end

