-- ==== Sys2Proof/Machine/Queues.lean ====
section
/-! DEFINITION. The decoupling queues, dynamic operations, semaphores and predicates of a core (R199 to R229). -/

namespace Sys2Proof.Machine

/-! ### Queue identities (R207) -/

def qMSQ : Nat := 0
def qXSQ : Nat := 1
def qXIQ : Nat := 2
def qMCQ : Nat := 3
def qCSQ : Nat := 4
def qDMQ : Nat := 5
def qFBQ : Nat := 6
def qDepth (q : Nat) : Nat :=
  if q = 0 ∨ q = 1 ∨ q = 2 then 16 else if q = 3 then 8 else if q = 4 then 32 else if q = 5 then 16 else 32

def Core.queue (k : Core) (q : Nat) : List QEntry := Store.get [] k.queues q
def Core.setQueue (k : Core) (q : Nat) (l : List QEntry) : Core := { k with queues := Store.set [] k.queues q l }
def Core.skip (k : Core) (q : Nat) : List Token := Store.get [] k.skips q
def Core.setSkip (k : Core) (q : Nat) (l : List Token) : Core := { k with skips := Store.set [] k.skips q l }
def Core.isDesync (k : Core) (q : Nat) : Bool := Store.get false k.desync q
def Core.setDesync (k : Core) (q : Nat) (v : Bool) : Core := { k with desync := Store.set false k.desync q v }

/-- The head entry that a consumer sees in this ac (R211). -/
def State.head (s : State) (c : CoreId) (q : Nat) : Option QEntry :=
  match (s.core c).queue q with
  | [] => none
  | e :: _ => if e.vis ≤ s.ac then some e else none

/-- An entry reaches a queue: an entry whose token is the oldest of the skip list is discarded (R215); any other is
visible from the next ac (R211). -/
def State.qPush (s : State) (c : CoreId) (q : Nat) (token : Token) (poison : Bool) (body : BitVec 256) : State :=
  s.onCore c fun k =>
    match k.skip q with
    | t :: rest =>
      if t = token then k.setSkip q rest else k.setQueue q (k.queue q ++ [⟨token, poison, body, s.ac + 1, false⟩])
    | [] => k.setQueue q (k.queue q ++ [⟨token, poison, body, s.ac + 1, false⟩])

def State.qFull (s : State) (c : CoreId) (q : Nat) : Bool := qDepth q ≤ ((s.core c).queue q).length
/-- Whether a completion may be pushed: the queue has room, and not only since this ac (R209). -/
def State.qOpen (s : State) (c : CoreId) (q : Nat) : Bool := !s.qFull c q && decide (Store.get 0 (s.core c).qRoom q ≤ s.ac)

/-- A schedule-violation fault; CQ_SCHEDLOG keeps the first (R213, R245). -/
def State.violation (s : State) (c : CoreId) (q found expected : Nat) : State :=
  let s := if bits (s.reg (.cq c) 0x04) 0 0 = 0 then
      s.setReg (.cq c) 0x08 (q * 2 ^ 28 + found * 2 ^ 16 + expected) else s
  (s.cqFault c cqViol).markStep c

/-- A LATE fault without a skip-list entry (R214, R226, R238). -/
def State.late (s : State) (c : CoreId) : State := ((s.cqFault c cqLate).count (.cq c) 0x28 1).markStep c

def State.desyncQ (s : State) (c : CoreId) (q : Nat) : State :=
  ((s.cqFault c cqDesync).onCore c fun k => k.setDesync q true).markStep c

/-- A LATE fault of a queue consumer: its token joins the skip list, or the queue is desynchronised (R214, R215). -/
def State.lateToken (s : State) (c : CoreId) (q : Nat) (t : Token) : State :=
  let s := s.late c
  if 4 ≤ ((s.core c).skip q).length then s.desyncQ c q
  else s.onCore c fun k => k.setSkip q (k.skip q ++ [t])

/-- What a consuming instruction gets from a queue (R212 to R216). -/
inductive Take where
  | got (e : QEntry)
  | poisoned
  | hold
  deriving DecidableEq, Repr

/-- How an instruction issues: the mode and predicates at the start of its ac (R186), and whether its bundle issues on a
hold timeout (R219). -/
structure How where
  mode : Mode
  preds : Byte
  forced : Bool
  deriving DecidableEq, Repr

/-- The rule for a condition that is not met: LATE in lockstep, poisoned when forced, otherwise a hold. -/
def How.waits (h : How) : Bool := h.mode == .slack && !h.forced

/-- The head of a queue leaves it; a queue that was full has room for a held completion from the next ac (R209). -/
def State.qPop (s : State) (c : CoreId) (q : Nat) : State :=
  let full := s.qFull c q
  s.onCore c fun k =>
    { (k.setQueue q (k.queue q).tail) with qRoom := if full then Store.set 0 k.qRoom q (s.ac + 1) else k.qRoom }

/-- A consumer takes the head of a queue that carries its token (R212 to R216, R219); an entry whose parity fails is
delivered poisoned (R359). -/
def State.take (s : State) (c : CoreId) (q : Nat) (t : Token) (h : How) : State × Take :=
  if (s.core c).isDesync q then (s.markStep c, .poisoned)
  else
    match s.head c q with
    | some e =>
      if e.token = t then
        let s := (s.qPop c q).entryParity c e.bad
        let e := { e with poison := e.poison || e.bad }
        (if e.poison then s.markStep c else s, .got e)
      else (s.violation c q e.token.toNat t.toNat, .poisoned)
    | none =>
      if h.waits then (s, .hold)
      else if h.forced then (s.markStep c, .poisoned)
      else (s.lateToken c q t, .poisoned)

/-- Whether a consumer of a queue would be held (R216). -/
def State.takeHolds (s : State) (c : CoreId) (q : Nat) : Bool :=
  !(s.core c).isDesync q && (s.head c q).isNone

/-! ### Predicates (R199, R200, R253) -/

def predBit (p : Byte) (k : BitVec 3) : Bool := p.getLsbD k.toNat
def setPred (p : Byte) (k : BitVec 3) (v : Bool) : Byte :=
  if v then p ||| BitVec.twoPow 8 k.toNat else p &&& ~~~(BitVec.twoPow 8 k.toNat)
/-- An instruction whose predicate does not match is a no-op (R200). -/
def How.runs (h : How) (p : Pred) : Bool := !p.pen || predBit h.preds p.k == p.pol
def State.writePred (s : State) (c : CoreId) (k : BitVec 3) (v : Bool) : State :=
  s.onCore c fun x => { x with preds := setPred x.preds k v }

/-! ### Semaphores (R225 to R229) -/

def Core.sem (k : Core) (i : Nat) : Nat := Store.get 0 k.sems i
def Core.setSem (k : Core) (i v : Nat) : Core := { k with sems := Store.set 0 k.sems i v }

/-- An addition to a semaphore; one that would pass 0xFFFF leaves 0xFFFF and faults (R227). -/
def State.semAdd (s : State) (c : CoreId) (i n : Nat) : State :=
  let v := (s.core c).sem i + n
  if 0xFFFF < v then ((s.onCore c fun k => k.setSem i 0xFFFF).cqFault c cqSem).markStep c
  else s.onCore c fun k => k.setSem i v

/-- A signal that reaches a core from outside its bundle: the ac in which it arrives is one whose tests come after it, so it
belongs to the next ac when the core has issued in this one (R228). -/
def State.semSignal (s : State) (c : CoreId) (i n : Nat) : State :=
  if (s.core c).issueFrom = s.ac + 1 ∨ (s.core c).slotsAt = s.ac + 1 then
    s.onCore c fun k => { k with semPend := k.semPend ++ [⟨s.ac + 1, i, n⟩] }
  else s.semAdd c i n

/-- What a packet adds to a semaphore (R226). -/
def DynFlit.adds (p : DynFlit) : Option (Nat × Nat) := match p.body with | .sig _ i n => some (i, n) | _ => none

/-- The additions that are due, and the signals that have arrived, are in place before a test of this ac (R228, R229). -/
def State.semDue (s : State) (c : CoreId) : State :=
  let due := (s.core c).semPend.filter fun a => a.due ≤ s.ac
  let sigs := (s.core c).here.filterMap DynFlit.adds
  let s := s.onCore c fun k =>
    { k with semPend := k.semPend.filter fun a => s.ac < a.due, here := k.here.filter fun p => p.adds.isNone }
  let s := due.foldl (fun s a => s.semAdd c a.s a.n) s
  sigs.foldl (fun s a => s.semAdd c a.1 a.2) s

/-! ### Dynamic operations (R42, R207 to R210, R278, R279) -/

/-- The completion queue that a class names (R279). -/
def classQueue (cls : Nat) : Option Nat :=
  if cls = 1 ∨ cls = 2 then some qCSQ else if cls = 3 then some qDMQ else if cls = 4 then some qFBQ else none
/-- The completion queue of an XISSUE's cq field (R274). -/
def cqQueue (cq : Nat) : Nat := if cq = 0 then qCSQ else if cq = 1 then qDMQ else qFBQ

/-- The operations that wait in XIQ. -/
def Core.xiq (k : Core) : List DynOp := k.ops.filter fun o => o.stage == .xiq
/-- Whether an operation holds a tracking entry: from its leaving XIQ until its completion is pushed (R42, R209), and a DMA
job from its push into XIQ on (R412). -/
def DynOp.tracks (o : DynOp) : Bool := !o.bare && (o.stage != .xiq || o.cls == 3)
/-- The tracking entries in use. -/
def Core.tracked (k : Core) : Nat := (k.ops.filter DynOp.tracks).length

/-- The oldest operation that waits in XIQ, when it has the class and a tracking entry is free (R43). -/
def State.xiqHead (s : State) (c : CoreId) (cls : Nat) : Option DynOp :=
  match (s.core c).xiq with
  | [] => none
  | o :: _ => if o.cls.toNat = cls ∧ (s.core c).tracked < 128 + (if o.tracks then 1 else 0) then some o else none

def Core.setOp (k : Core) (serial : Nat) (f : DynOp → DynOp) : Core :=
  { k with ops := k.ops.map fun o => if o.serial = serial then f o else o }

/-- The lowest tracking entry that no operation uses (R42). -/
def Core.freeEntry (k : Core) : Nat :=
  ((List.range 128).find? fun e => !(k.ops.any fun o => o.stage != .xiq && !o.bare && o.entry.toNat = e)).getD 0

/-- An operation leaves XIQ and takes a tracking entry; one whose XIQ entry fails its parity goes on poisoned (R359). -/
def State.opIssue (s : State) (c : CoreId) (o : DynOp) : State :=
  let e := (s.core c).freeEntry
  (s.onCore c fun k => k.setOp o.serial fun o =>
    { o with stage := .issued, entry := BitVec.ofNat 7 e, issuedAt := s.car, poison := o.poison || o.bad }).entryParity c o.bad

/-- An operation finishes; its entry waits for its turn, and for the ac `at_` in which it may be pushed (R209). -/
def State.opFinish (s : State) (c : CoreId) (serial at_ : Nat) (poison : Bool) : State :=
  s.onCore c fun k => k.setOp serial fun o =>
    { o with stage := .finished, poison := o.poison || poison, readyAt := at_ }

/-- Adds an operation of a core in issue order. -/
def State.opAdd (s : State) (c : CoreId) (cls : BitVec 4) (q : Nat) (d : BitVec 256) (t : Token) (poison : Bool)
    (stage : OpStage) : State :=
  s.onCore c fun k =>
    { k with ops := k.ops ++ [⟨k.nextSerial, cls, q, d, t, poison, stage, 0, 0, stage == .finished, 0, false⟩]
             nextSerial := k.nextSerial + 1 }

/-- The core abandons its step: it issues nothing more, marks its step and reports itself quiesced (R190). -/
def State.abandon (s : State) (c : CoreId) : State :=
  (s.onCore c fun k =>
    { k with mode := .idle, ended := true, ending := false, hold := 0, heldSince := none, endedAt := s.ac }).markStep c

/-- Puts an array or vector fault's consequence: the core's step is marked poisoned. -/
def State.cqFaultMark (s : State) (c : CoreId) (bit : Nat) : State := (s.cqFault c bit).markStep c

end Sys2Proof.Machine
end

