-- ==== Sys2Proof/Machine/Mesh.lean ====
section
/-! DEFINITION. Mesh links, scheduled moves, transit entries and the routing of dynamic packets (R27 to R36, R275 to R277,
R289 to R315, R321). -/

namespace Sys2Proof.Machine

/-! ### Places (R27 to R30, R36) -/

def mrow (c : CoreId) : Nat := 8 * (c.val / 64 / 4) + c.val / 8 % 8
def mcol (c : CoreId) : Nat := 8 * (c.val / 64 % 4) + c.val % 8
/-- The core at mesh row `r` < 24 and column `m` < 32 (R29). -/
def coreAt (r m : Nat) : CoreId := Fin.ofNat 768 (64 * (4 * (r / 8) + m / 8) + 8 * (r % 8) + m % 8)

/-- What lies across a side of a core: a neighbour, a mesh port of an I/O die, or no link (R36). -/
inductive Across where
  | core (c : CoreId)
  | port (i : IoId)
  | none
  deriving DecidableEq, Repr

def across (c : CoreId) (d : Side) : Across :=
  let r := mrow c
  let m := mcol c
  match d with
  | .north => if 0 < r then .core (coreAt (r - 1) m) else if m % 2 = 0 then .port 0 else .none
  | .east => if m < 31 then .core (coreAt r (m + 1)) else if 4 ≤ r ∧ r ≤ 19 then .port 1 else .none
  | .south => if r < 23 then .core (coreAt (r + 1) m) else if m % 2 = 0 then .port 2 else .none
  | .west => if 0 < m then .core (coreAt r (m - 1)) else if 4 ≤ r ∧ r ≤ 19 then .port 3 else .none

def oppSide : Side → Side
  | .north => .south
  | .east => .west
  | .south => .north
  | .west => .east
/-- Side codes of R260 and bit places of MESH_FENCE. -/
def sideCode : Side → Nat
  | .north => 0
  | .east => 1
  | .south => 2
  | .west => 3
def sideOf (n : Nat) : Side := if n % 4 = 0 then .north else if n % 4 = 1 then .east else if n % 4 = 2 then .south else .west

/-- The cost of a hop in ac (R33). -/
def hopCost (c : CoreId) (d : Side) : Nat :=
  match across c d with
  | .core e => if dieOf e = dieOf c then 2 else 6
  | _ => 6

/-! ### Ownership of dies (R46, R47, R360, R368) -/

def dieClean : Nat := 0
def dieOwned : Nat := 1
def dieClearing : Nat := 2
def State.dieState (s : State) (d : DieId) : Nat := s.fld (.secDie d) 0x00 31 30
def State.dieCtx (s : State) (d : DieId) : Ctx := BitVec.ofNat 8 (s.fld (.secDie d) 0x00 7 0)
def State.dieEncl (s : State) (d : DieId) : Encl := BitVec.ofNat 6 (s.fld (.secDie d) 0x00 13 8)
def State.holds (s : State) (x : Ctx) (d : DieId) : Bool := s.dieState d = dieOwned && s.dieCtx d == x
/-- The dies that a context holds on this module (R46). -/
def State.diesOf (s : State) (x : Ctx) : List DieId := (List.finRange 12).filter fun d => s.holds x d
/-- The cores of a context on this module. -/
def State.coresOfCtx (s : State) (x : Ctx) : List CoreId := (s.diesOf x).flatMap coresOf

/-- Whether a flit offered on a side of a core is discarded at a bridge port: the fence bit is 1, the die clears, or the
dies across the bridge belong to different contexts (R47, R315, R364). -/
def State.fenced (s : State) (c : CoreId) (d : Side) : Bool :=
  match across c d with
  | .core e =>
    if dieOf e = dieOf c then false
    else bits (s.reg (.meshDie (dieOf c)) 0x08) (sideCode d) (sideCode d) = 1 || s.dieState (dieOf c) = dieClearing ||
      s.dieState (dieOf e) ≠ s.dieState (dieOf c) || s.dieCtx (dieOf e) ≠ s.dieCtx (dieOf c)
  | _ => false

/-- The MESH_FENCE error of a die (R47). -/
def State.fenceError (s : State) (d : DieId) : State := s.raise (.meshDie d) 0x10 0

/-! ### Scheduled flits -/

/-- The precedence of instructions and of PASS sides; transit entry e has precedence e (R299). -/
def rankInstr : Nat := 64
def rankPass : Nat := 65

/-- A collision of claims or of outputs (R299). -/
def State.meshConflict (s : State) (c : CoreId) : State := (s.meshFault c 2).markStep c

/-- Puts a flit in its place in the order of arrival at an I/O die. -/
def insertEdge (e : Nat × Flit) : List (Nat × Flit) → List (Nat × Flit)
  | [] => [e]
  | x :: t => if x.1 ≤ e.1 then x :: insertEdge e t else e :: x :: t

/-- A flit on the link of a side.  A flit offered to a fenced bridge or to a side without a link is discarded with a
MESH_FENCE error (R47, R277); a port link hands it to the I/O die (R321). -/
def State.placeFlit (s : State) (c : CoreId) (d : Side) (leave rank : Nat) (f : Flit) : State :=
  let due := leave + hopCost c d
  match across c d with
  | .none => s.fenceError (dieOf c)
  | .port _ => s.onCore c fun k => { k with edge := insertEdge (due, f) k.edge }
  | .core e =>
    if s.fenced c d then s.fenceError (dieOf c)
    else s.onCore e fun k => { k with wires := k.wires ++ [⟨oppSide d, due, rank, f⟩] }

/-- Takes back the flit of the source that lost a side to another (R299). -/
def State.takeBack (s : State) (c : CoreId) (d : Side) (leave : Nat) : State :=
  let due := leave + hopCost c d
  match across c d with
  | .none => s
  | .port _ => s.onCore c fun k => { k with edge := k.edge.filter fun e => e.1 != due }
  | .core e => s.onCore e fun k => { k with wires := k.wires.filter fun w => !(w.side == oppSide d && w.due == due) }

/-- A source sends a scheduled flit on a side in an ac.  On one side and ac the source of precedence sends, and the collision
is a fault (R299). -/
def State.sendFlit (s : State) (c : CoreId) (d : Side) (leave rank : Nat) (f : Flit) : State :=
  match (s.core c).claims.find? fun w => w.1 == d && w.2.1 == leave with
  | none => (s.onCore c fun k => { k with claims := k.claims ++ [(d, leave, rank)] }).placeFlit c d leave rank f
  | some w =>
    let s := s.meshConflict c
    if rank < w.2.2 then
      ((s.takeBack c d leave).onCore c fun k =>
        { k with claims := k.claims.map fun v => if v.1 == d && v.2.1 == leave then (d, leave, rank) else v }).placeFlit
          c d leave rank f
    else s

/-- The bytes of a flit slot that carries no valid flit: open, and poisoned (R277). -/
def State.emptyFlit (s : State) (seq : Nat) : State × Flit :=
  (s.draw 1, ⟨BitVec.ofNat 512 (Config.freeNat s.free), true, 0xF, BitVec.ofNat 6 seq⟩)

def flitWord (f : Flit) (q : Nat) : W128 := f.payload.extractLsb' (128 * q) 128
def ofWords (w : List W128) : Line := BitVec.ofNat 512 (packFields 128 (w.map BitVec.toNat))

/-- The line a move writes; one that lost its lanes is not written and is marked poisoned (R275, R348). -/
def State.moveWrite (s : State) (c : CoreId) (m : Move) (f : Flit) (p : Bool) : State :=
  let a := 64 * ((m.base + m.next) % 65536)
  if m.lost.contains m.next then (s.amConflict c).poisonLines c a 64 else s.amWrite c a (lineBytes f.payload) p

/-- The partial-sum word of a move. -/
def moveWord (m : Move) (q : Nat) : Nat := (m.base + 4 * m.next + q) % 131072

/-- A move takes the flit of its slot (R275, R277, R301, R307); `none` is a slot without a valid flit.  A sink adds in the
ac after the arrival, so that reads see the sums from the ac after that. -/
def State.moveTake (s : State) (c : CoreId) (m : Move) (o : Option Flit) : State :=
  let (s, f) := match o with | some f => (s, f) | none => s.emptyFlit m.next
  let bad := f.seq.toNat ≠ m.next % 64
  let s := if bad then s.meshFault c 4 else s
  let p := f.poison || bad
  let leave := m.start + 2 + m.next
  let seq := BitVec.ofNat 6 m.next
  match m.kind with
  | .min => s.moveWrite c m f p
  | .mpass => (s.moveWrite c m f p).sendFlit c m.dout leave rankInstr ⟨f.payload, p, f.wv, seq⟩
  | .relay =>
    let (s, ws) := (List.range 4).foldl (fun (a : State × List (W128 × Bool)) q =>
      let (s, v, vp) := a.1.psmReadOld c (moveWord m q)
      (s, a.2 ++ [(if f.wv.getLsbD q then v + flitWord f q else v, vp)])) (s.psmNote c (moveWord m 0) .mred, [])
    s.sendFlit c m.dout leave rankInstr ⟨ofWords (ws.map Prod.fst), p || ws.any Prod.snd, 0xF, seq⟩
  | .sink =>
    (List.range 4).foldl (fun s q =>
      if f.wv.getLsbD q then
        s.addTimed c ⟨m.start + 2 + m.next, moveWord m q, false, .sum (flitWord f q) p⟩
      else s) s

/-- The flit that a MERGE sends for the operands of its din and its side2 (R297). -/
def mergeFlits (a b : Option Flit) (j : Nat) : Flit × Bool :=
  let seqDiff := match a, b with | some x, some y => x.seq != y.seq | _, _ => false
  let p := (match a with | some x => x.poison | none => true) ||
    (match b with | some x => x.poison | none => true) || seqDiff
  let part (o : Option Flit) (q : Nat) : W128 :=
    match o with | some f => (if f.wv.getLsbD q then flitWord f q else 0) | none => 0
  let wv : BitVec 4 := (match a with | some x => x.wv | none => 0) ||| (match b with | some x => x.wv | none => 0)
  let seq := match a, b with
    | some x, _ => x.seq
    | none, some y => y.seq
    | none, none => BitVec.ofNat 6 j
  (⟨ofWords ((List.range 4).map fun q => part a q + part b q), p, if p then 0xF else wv, seq⟩, seqDiff)

/-- Fields of a transit entry (R294). -/
def Fired.kind (t : Fired) : Nat := bits t.word.toNat 29 28
def Fired.len (t : Fired) : Nat := bits t.word.toNat 47 36
def Fired.din (t : Fired) : Side := sideOf (bits t.word.toNat 35 34)
def Fired.dout (t : Fired) : Side := sideOf (bits t.word.toNat 33 32)
def Fired.side2 (t : Fired) : Side := sideOf (bits t.word.toNat 31 30)

/-- A MERGE sends in the ac after its slot, whatever has arrived of its operands (R296, R297). -/
def State.mergeSend (s : State) (c : CoreId) (t : Fired) (a b : Option Flit) : State × Fired :=
  let (f, seqDiff) := mergeFlits a b t.next
  let s := if seqDiff then s.meshFault c 4 else s
  (s.sendFlit c t.dout (t.t0 + t.next + 1) t.e f, { t with next := t.next + 1, held := none })

/-- A fired THRU, FORK or MERGE entry takes the flit of its slot on a side (R296, R297); `none` where another claimer takes
it. -/
def State.transitTake (s : State) (c : CoreId) (t : Fired) (side : Side) (o : Option Flit) : State × Fired :=
  let leave := t.t0 + t.next
  if t.kind = 3 then
    match t.held with
    | none => (s, { t with held := some (side, o) })
    | some (_, o₂) => if side = t.din then s.mergeSend c t o o₂ else s.mergeSend c t o₂ o
  else
    (match o with
     | none => s
     | some f =>
       let s := s.sendFlit c t.dout leave t.e f
       if t.kind = 2 then s.sendFlit c t.side2 leave t.e f else s, { t with next := t.next + 1 })

/-- A fired entry whose slot of this ac has ended without all of its flits (R296, R297). -/
def State.transitEnd (s : State) (c : CoreId) (t : Fired) : State × Fired :=
  if t.kind = 3 then
    match t.held with
    | none => s.mergeSend c t none none
    | some (d, o) => if d = t.din then s.mergeSend c t o none else s.mergeSend c t none o
  else (s, { t with next := t.next + 1 })

/-- The side a transit entry expects a flit on in this ac (R296). -/
def Fired.expects (t : Fired) (side : Side) (now : Nat) : Bool :=
  let ins := side == t.din || (t.kind == 3 && side == t.side2)
  let open_ := match t.held with | some (d, _) => d != side | none => true
  ins && open_ && t.next ≤ t.len && t.t0 + t.next == now

/-- The side a move expects a flit on in this ac (R275). -/
def Move.expects (m : Move) (side : Side) (now : Nat) : Bool :=
  m.din == side && m.next ≤ m.len && m.start + 1 + m.next == now

/-- The array command at the head of its queue, from the ac in which it reaches the head. -/
def Arr.headCmd (a : Arr) (now : Nat) : Option ArrCmd :=
  match a.queue with
  | q :: _ => (match q.headAt with | some h => if h ≤ now then some q else none | none => none)
  | [] => none

/-- Flits of a vector on a mesh side (R302). -/
def vectorFlits (k afmt : Nat) : Nat :=
  ceilDiv (k * (if afmt = 7 then 2 else 1) + (if afmt = 3 then ceilDiv k 32 else 0)) 64

/-- Whether a PASS or EWISE with src = 1 at the head of the queue still claims flits of a side, whether it has started or
not (R303). -/
def Arr.passClaims (a : Arr) (side : Side) (now : Nat) : Bool :=
  match a.headCmd now with
  | some q =>
    let d := q.desc.toNat
    let n := if q.op = 3 then bits d 215 204 else bits d 224 216
    q.op != 1 && !q.void && !q.faulted && bits d 242 242 == 1 && sideOf (bits d 239 238) == side &&
      bits d 215 204 != 0 && decide (q.claimed < bits d 203 188 * vectorFlits n (bits d 249 246))
  | none => false

/-- The PASS takes a flit and checks its seq against the flits it has claimed (R301, R303). -/
def State.passTake (s : State) (c : CoreId) (f : Flit) : State :=
  match (s.arr c).queue with
  | [] => s
  | q :: t =>
    let bad := f.seq.toNat ≠ q.claimed % 64
    let s := if bad then s.meshFault c 4 else s
    s.onArr c fun a =>
      { a with flits := a.flits ++ [(s.ac, { f with poison := f.poison || bad })]
               queue := { q with claimed := q.claimed + 1 } :: t }

/-- A valid scheduled flit on a side (R292, R299, R300): one claimer takes it, every other acts as if none had arrived, and a
flit that no one claims is discarded. -/
def State.flitSlot (s : State) (c : CoreId) (side : Side) (f : Flit) : State :=
  let k := s.core c
  let ts := (k.fired.filter fun t => t.expects side s.ac).map fun t => t.e
  let ms := k.moves.filter fun m => m.expects side s.ac
  let ps := k.arr.passClaims side s.ac
  let n := ts.length + ms.length + (if ps then 1 else 0)
  if n = 0 then (s.meshFault c 3).markStep c
  else
    let s := if 1 < n then s.meshConflict c else s
    let winner := ts.foldl min 64
    let (s, fs) := (s.core c).fired.foldl (fun (a : State × List Fired) t =>
      if t.expects side s.ac then
        let (s', t') := a.1.transitTake c t side (if t.e = winner then some f else none)
        (s', a.2 ++ [t'])
      else (a.1, a.2 ++ [t])) (s, [])
    let s := s.onCore c fun k => { k with fired := fs.filter fun t => t.next ≤ t.len }
    let first := if ts.isEmpty then ms.head? else none
    let s := ms.foldl (fun s m => s.moveTake c m (if some m = first then some f else none)) s
    let s := s.onCore c fun k =>
      let ms := k.moves.map fun m => if m.expects side s.ac then { m with next := m.next + 1 } else m
      { k with moves := ms.filter fun m => m.next ≤ m.len }
    if ps ∧ ts.isEmpty ∧ ms.isEmpty then s.passTake c f else s

/-- The flit that has arrived on a side of a core, if any. -/
def Core.arrived (k : Core) (side : Side) (now : Nat) : Option Wire :=
  k.wires.find? fun w => w.side == side && w.due ≤ now

/-- The arrived flit of a side reaches its claimer; a parity error makes it poisoned and is counted (R290). -/
def State.wireTake (s : State) (c : CoreId) (w : Wire) (parityError : Bool) : State :=
  let s := s.onCore c fun k => { k with wires := k.wires.erase w }
  let s := if parityError then (s.meshFault c 0).count (.mesh c) 0x04 1 else s
  s.flitSlot c w.side { w.flit with poison := w.flit.poison || parityError }

/-- The end of an ac at a router: a flit that arrived in it and that no command named reaches its claimer, and every transit
entry and move whose slot of this ac is empty acts without a valid flit (R275, R277, R296, R297). -/
def State.slotEnd (s : State) (c : CoreId) : State :=
  let s := ((s.core c).wires.filter fun w => w.due ≤ s.ac).foldl (fun s w => s.wireTake c w false) s
  let (s, fs) := (s.core c).fired.foldl (fun (a : State × List Fired) t =>
    if t.t0 + t.next ≤ s.ac then
      let (s', t') := a.1.transitEnd c t
      (s', a.2 ++ [t'])
    else (a.1, a.2 ++ [t])) (s, [])
  let s := s.onCore c fun k => { k with fired := fs.filter fun t => t.next ≤ t.len }
  let late (m : Move) : Bool := decide (m.start + 1 + m.next ≤ s.ac)
  let s := ((s.core c).moves.filter late).foldl (fun s m => s.moveTake c m none) s
  s.onCore c fun k =>
    { k with moves := (k.moves.map fun m => if late m then { m with next := m.next + 1 } else m).filter fun m => m.next ≤ m.len }

/-! ### The X-slot moves (R275) -/

/-- A scheduled mesh instruction in slack mode is not executed (R194). -/
def State.modeFault (s : State) (c : CoreId) : State := s.cqFaultMark c cqMode

/-- Whether a scheduled mesh instruction executes; in slack mode it raises a MODE fault (R194). -/
def State.scheduled (s : State) (c : CoreId) (h : How) (f : State → State) : State :=
  if h.mode == .lockstep then f s else if h.mode == .slack then s.modeFault c else s

/-- MOUT: line am + j is read in ac i + 1 + j, as it stands at the end of ac i + j (R275, R346). -/
def State.moutOp (s : State) (c : CoreId) (dout : Side) (am len : Nat) : State :=
  (List.range (len + 1)).foldl (fun s j =>
    s.timedAccess c (s.ac + 1 + j) (64 * ((am + j) % 65536)) 64 (.out dout j)) s

/-- The lines of a receiving move whose lanes are taken at issue (R346, R348). -/
def State.claimLines (s : State) (c : CoreId) (am len : Nat) : State × List Nat :=
  (List.range (len + 1)).foldl (fun (a : State × List Nat) j =>
    let (s, ok) := a.1.claim c (s.ac + 1 + j) (laneMask (64 * ((am + j) % 65536)) 64)
    (s, if ok then a.2 else a.2 ++ [j])) (s, [])

def State.addMove (s : State) (c : CoreId) (m : Move) : State :=
  s.onCore c fun k => { k with moves := k.moves ++ [m] }

/-- MIN and MPASS wait for their flits from ac i + 1 (R275). -/
def State.minOp (s : State) (c : CoreId) (kind : MoveKind) (din dout : Side) (am len : Nat) : State :=
  let (t, lost) := s.claimLines c am len
  t.addMove c ⟨kind, din, dout, am, len, 0, s.ac, lost⟩

/-- MRED originate: words w + 4j to w + 4j + 3 as they stand at the end of ac i + j (R275). -/
def State.mredOut (s : State) (c : CoreId) (dout : Side) (w len : Nat) : State :=
  (List.range (len + 1)).foldl (fun s j => s.addTimed c ⟨s.ac + 1 + j, w + 4 * j, false, .red dout j⟩) s

def State.mredOp (s : State) (c : CoreId) (din dout : Side) (w len role : Nat) : State :=
  if role = 0 then s.mredOut c dout w len
  else if role = 1 then s.addMove c ⟨.relay, din, dout, w, len, 0, s.ac, []⟩
  else if role = 2 then s.addMove c ⟨.sink, din, dout, w, len, 0, s.ac, []⟩
  else s

/-! ### Transit tables (R293 to R298) -/

/-- Transit entry e of a bank: bits [64(e mod 4) + 63 : 64(e mod 4)] of bundle 1008 + e div 4 (R293). -/
def State.transitWord (s : State) (c : CoreId) (bank : Bool) (e : Nat) : Word64 :=
  BitVec.ofNat 64 (s.pm.nat (pmBase c bank + 32 * (1008 + e / 4) + 8 * (e % 4)) 8)

/-- An illegal transit entry (R298). -/
def transitIllegal (w : Word64) : Bool :=
  let n := w.toNat
  let kind := bits n 29 28
  let two := kind == 2 || kind == 3
  kind != 0 && (1008 ≤ bits n 63 54 || bits n 35 34 == bits n 33 32 ||
    (two && (bits n 31 30 == bits n 35 34 || bits n 31 30 == bits n 33 32)))

/-- The check of a bank that becomes the executing bank (R298). -/
def State.checkTransit (s : State) (c : CoreId) (bank : Bool) : State :=
  let bad := (List.range 64).filter fun e => transitIllegal (s.transitWord c bank e)
  let s := s.onCore c fun k => { k with badTransit := bad }
  if bad.isEmpty then s else (s.meshFault c 1).markStep c

/-- The entries that a bundle of lockstep mode fires (R295). -/
def State.fireTransit (s : State) (c : CoreId) (bank : Bool) (index : Nat) : State :=
  s.onCore c fun k =>
    { k with fired := k.fired ++ (List.range 64).filterMap fun e =>
        let w := s.transitWord c bank e
        if bits w.toNat 29 28 ≠ 0 ∧ bits w.toNat 63 54 = index ∧ !(k.badTransit.contains e) then
          some ⟨e, w, s.ac + bits w.toNat 53 48, 0, none⟩
        else none }

/-- A bundle that the core has yet to issue in this ac fires an entry with delay 0 that expects a flit on the side: the
flits of the ac meet it first (R295, R296). -/
def State.firesNow (s : State) (c : CoreId) (side : Side) : Bool :=
  let k := s.core c
  k.mode == .lockstep && !k.ended && decide (k.issueFrom ≤ s.ac) &&
    (List.range 64).any fun e =>
      let t : Fired := ⟨e, s.transitWord c k.bank e, s.ac, 0, none⟩
      t.kind != 0 && bits t.word.toNat 63 54 == k.index.toNat && bits t.word.toNat 53 48 == 0 && !(k.badTransit.contains e) &&
        t.expects side s.ac

/-- MESH_FLIT_ARRIVE (R290, R292): the flit that arrives in this ac on one side reaches its claimer, with a parity error or
without. -/
def execMeshFlitArrive (c : CoreId) (side : Side) (parityError : Bool) (s : State) :
    Host.Outcome State Fault Refusal :=
  .next (
    match (s.core c).arrived side s.ac with
    | none => s
    | some w => if s.firesNow c side then s else s.wireTake c w parityError)

/-! ### Dynamic packets (R290, R308 to R313, R774) -/

/-- The port of a core (R36). -/
def portOf (c : CoreId) : Option (Side × IoId) :=
  [Side.north, .east, .south, .west].findSome? fun d => match across c d with | .port i => some (d, i) | _ => none

/-- The output local to a router. -/
def outLocal : Nat := 4

/-- The output of a dynamic packet at a router: a side, or the local port; none where it has no way (R310). -/
def State.dynOut (s : State) (c : CoreId) (f : DynFlit) : Option Nat :=
  if 768 ≤ f.dest then none
  else
    let dest : CoreId := Fin.ofNat 768 f.dest
    if dest = c then (if f.port then (portOf c).map fun p => sideCode p.1 else some outLocal)
    else if dieOf dest = dieOf c then
      some (if mcol c < mcol dest then 1 else if mcol dest < mcol c then 3 else if mrow c < mrow dest then 2 else 0)
    else some (bits (s.reg (.meshDie (dieOf c)) 0x0C) (2 * (dieOf dest).val + 1) (2 * (dieOf dest).val))

/-- A packet that a router discards: it is addressed to a die that its context does not hold, or its side leads nowhere or is
fenced (R311). -/
def State.dynRefused (s : State) (c : CoreId) (f : DynFlit) : Bool :=
  match s.dynOut c f with
  | none => true
  | some o =>
    let dest : CoreId := Fin.ofNat 768 f.dest
    s.dieState (dieOf dest) ≠ dieOwned || s.dieCtx (dieOf dest) ≠ s.dieCtx (dieOf c) ||
      (o != outLocal && (s.fenced c (sideOf o) ||
        (match across c (sideOf o) with | .core _ => false | .port _ => !(f.port && f.dest == c.val) | .none => true)))

/-- Whether a scheduled flit uses an output side in this ac: one that has been sent, or one that a THRU or FORK entry is
about to pass on (R296, R308). -/
def State.sideBusy (s : State) (c : CoreId) (d : Side) : Bool :=
  let k := s.core c
  (k.claims.any fun w => w.1 == d && w.2.1 == s.ac) ||
    k.fired.any fun t =>
      (t.kind == 1 || t.kind == 2) && (t.dout == d || (t.kind == 2 && t.side2 == d)) && t.expects t.din s.ac &&
        (k.arrived t.din s.ac).isSome

/-- The code by which a packet holds an output: its input and class. -/
def DynFlit.code (f : DynFlit) : Nat := 1 + 4 * f.inp + f.cls

/-- Room in the input buffer of the next router: 16 flits in each class (R309). -/
def State.dynRoom (s : State) (c : CoreId) (f : DynFlit) (o : Nat) : Bool :=
  match across c (sideOf o) with
  | .core e => decide (((s.core e).dyn.filter fun g => g.cls == f.cls && g.inp == sideCode (oppSide (sideOf o))).length < 16)
  | _ => true

/-- Whether a flit may leave on an output in this ac: its packet holds the output or no packet does, no flit has used it in
this ac, and the next router has room (R308, R309). -/
def State.dynCan (s : State) (c : CoreId) (f : DynFlit) (o : Nat) : Bool :=
  let k := s.core c
  let h := Store.get 0 k.dynHold o
  (if f.idx = 0 then h == 0 else h == f.code) && !(k.dynUsed.contains (s.ac, o)) &&
    (o == outLocal || (!s.sideBusy c (sideOf o) && s.dynRoom c f o))

/-- The flits at the head of a router's input buffers of a class. -/
def Core.dynHeads (k : Core) (cls now : Nat) : List DynFlit :=
  (List.range 5).filterMap fun i =>
    match k.dyn.find? fun f => f.cls == cls && f.inp == i with
    | some f => if f.due ≤ now then some f else none
    | none => none

/-- The priority of a background packet (R313, R332): the base of its subclass and its age. -/
def State.bgPriority (s : State) (d : DieId) (f : DynFlit) : Nat :=
  let v := s.reg (.meshDie d) 0x14
  let base := if f.sub = 0 then bits v 1 0 else if f.sub = 1 then bits v 5 4 else if f.sub = 2 then bits v 3 2 else bits v 7 6
  base + Nat.min 15 ((s.ac - f.born) / 2 ^ bits v 11 8)

/-- The order of two flits of one class: the earlier goes first; in the background class the higher priority, then the
subclasses scrub, page, telemetry and swap (R309, R313). -/
def State.dynBefore (s : State) (d : DieId) (f g : DynFlit) : Bool :=
  if f.cls = 3 ∧ s.bgPriority d f ≠ s.bgPriority d g then decide (s.bgPriority d g < s.bgPriority d f)
  else if f.cls = 3 ∧ f.sub ≠ g.sub then decide (f.sub < g.sub)
  else decide (f.due < g.due)

def State.dynBest (s : State) (d : DieId) (fs : List DynFlit) : Option DynFlit :=
  match fs with
  | [] => none
  | f :: t => some (t.foldl (fun b g => if s.dynBefore d g b then g else b) f)

/-- A packet of a higher class waits for the output and may take it (R309). -/
def State.dynAbove (s : State) (c : CoreId) (f : DynFlit) (o : Nat) : Bool :=
  f.idx == 0 && (List.range f.cls).any fun cls => ((s.core c).dynHeads cls s.ac).any fun g =>
    g.idx == 0 && s.dynOut c g == some o && !s.dynRefused c g && s.dynCan c g o

/-- The flit of a class that moves next: one of a packet that is being discarded, a header that is refused, or the first
that may leave. -/
def State.dynPick (s : State) (c : CoreId) (cls : Nat) : Option DynFlit :=
  let hs := (s.core c).dynHeads cls s.ac
  let go (f : DynFlit) : Bool :=
    (s.core c).dynDrop.contains f.code || (f.idx == 0 && s.dynRefused c f) ||
      (match s.dynOut c f with | some o => s.dynCan c f o && !s.dynAbove c f o | none => false)
  s.dynBest (dieOf c) (hs.filter go)

/-- A dynamic packet is discarded at a router (R311). -/
def State.routeError (s : State) (d : DieId) : State := s.raise (.meshDie d) 0x10 1

/-- The flit of a packet that is discarded leaves its buffer; the rest of its packet follows it. -/
def State.dynDiscard (s : State) (c : CoreId) (f : DynFlit) : State :=
  s.onCore c fun k =>
    let rest := k.dynDrop.filter fun n => n != f.code
    { k with dyn := k.dyn.erase f, dynDrop := if f.last then rest else rest ++ [f.code] }

/-- A packet of a shard transfer has reached its core (R583). -/
def Transfer.arrive (c : CoreId) (addr : Nat) (t : Transfer) : Transfer :=
  if t.tcore.toNat = c.val ∧ 4096 * t.start ≤ addr ∧ addr < 4096 * (t.start + t.total) then { t with arrived := t.arrived + 1 } else t

/-- A packet that brings data to its core is complete (R336, R547, R583). -/
def State.asmDone (s : State) (c : CoreId) (a : Asm) : State :=
  let p := a.head.poison || a.lines.any Prod.snd
  let s := s.onCore c fun k => { k with asm := none }
  match a.head.body with
  | .swap addr uce =>
    (List.finRange 4).foldl (fun s i => s.onRouter i fun r => { r with transfers := r.transfers.map (Transfer.arrive c addr) })
      (s.onCore c fun k =>
        { k with wsPend := k.wsPend ++ a.lines.zipIdx.map fun l => ⟨addr + 64 * l.2, lineBytes l.1.1, uce || p⟩ })
  | .write .. | .input .. => s.onCore c fun k => { k with fabIn := k.fabIn ++ [a] }
  | _ => s

/-- A flit leaves the mesh at the local port of its destination. -/
def State.dynLocal (s : State) (c : CoreId) (f : DynFlit) : State :=
  match f.body with
  | .head => s
  | .msg e => s.onCore c fun k => { k with here := k.here ++ [{ f with body := .msg { e with poison := e.poison || f.poison } }] }
  | .sig .. | .credit .. => s.onCore c fun k => { k with here := k.here ++ [f] }
  | .done n p =>
    if (s.core c).ops.any fun o => o.serial == n && (o.stage == .issued || o.stage == .answered) then s.opFinish c n s.ac (p || f.poison) else s
  | .line l =>
    match (s.core c).asm with
    | some a =>
      let a := { a with lines := a.lines ++ [(l, f.poison)] }
      if f.last then s.asmDone c a else s.onCore c fun k => { k with asm := some a }
    | none => s
  | .write .. | .input .. | .swap .. | .req .. =>
    if f.last then s.asmDone c ⟨f, []⟩ else s.onCore c fun k => { k with asm := some ⟨f, []⟩ }

/-- A flit leaves a router on an output. -/
def State.dynSendOut (s : State) (c : CoreId) (f : DynFlit) (o cost : Nat) : State :=
  if o = outLocal then s.dynLocal c f
  else
    match across c (sideOf o) with
    | .core e => s.onCore e fun k => { k with dyn := k.dyn ++ [{ f with inp := sideCode (oppSide (sideOf o)), due := s.ac + cost }] }
    | _ => s.onCore c fun k => { k with portOut := k.portOut ++ [{ f with due := s.ac + cost }] }

/-- A packet holds its output from its header to its last flit (R309). -/
def Core.dynHeld (k : Core) (f : DynFlit) (key : Nat) : Core :=
  { k with dynHold := Store.set 0 k.dynHold key (if f.last then 0 else f.code) }

/-- DYNAMIC_PACKET_HOP (R290, R308 to R311): a flit of a class moves one hop, or leaves the mesh at its destination.  A
header with a parity error, or without a way, takes its whole packet with it; another flit with a parity error goes on
poisoned. -/
def execDynamicPacketHop (c : CoreId) (cls : Fin 4) (parityError : Bool) (s : State) : Host.Outcome State Fault Refusal :=
  .next (
    match s.dynPick c cls.val with
    | none => s
    | some f =>
      let t := if parityError then (s.meshFault c 0).count (.mesh c) 0x04 1 else s
      if (s.core c).dynDrop.contains f.code then t.dynDiscard c f
      else if f.idx = 0 ∧ parityError then (t.markStep c).dynDiscard c f
      else
        match s.dynOut c f with
        | none => (t.routeError (dieOf c)).dynDiscard c f
        | some o =>
          if f.idx = 0 ∧ s.dynRefused c f then
            let t := if o ≠ outLocal ∧ s.fenced c (sideOf o) then t.fenceError (dieOf c) else t
            (t.routeError (dieOf c)).dynDiscard c f
          else
            let g := { f with poison := f.poison || parityError }
            (t.onCore c fun k =>
              { k.dynHeld f o with dyn := k.dyn.erase f, dynUsed := (k.dynUsed.filter fun u => u.1 == s.ac) ++ [(s.ac, o)] }).dynSendOut
                c g o (hopCost c (sideOf o)))

/-! ### The background lane (R289, R312) -/

/-- The background flit that a side's lane may take next: the lane carries the whole of a packet whose header it took. -/
def State.lanePick (s : State) (c : CoreId) (o : Nat) : Option DynFlit :=
  let h := Store.get 0 (s.core c).dynHold (8 + o)
  s.dynBest (dieOf c) (((s.core c).dynHeads 3 s.ac).filter fun f =>
    s.dynOut c f == some o && !s.dynRefused c f && s.dynRoom c f o && !((s.core c).dynDrop.contains f.code) &&
      (if f.idx = 0 then h == 0 else h == f.code))

/-- The lane of one side: a 64-byte background flit takes 64 ac, one byte in the bg field of each slot of the link. -/
def State.laneStep (s : State) (c : CoreId) (o : Nat) : State :=
  match across c (sideOf o) with
  | .core _ =>
    if s.ac < Store.get 0 (s.core c).laneFree o then s
    else
      match s.lanePick c o with
      | none => s
      | some f =>
        (s.onCore c fun k =>
          { k.dynHeld f (8 + o) with dyn := k.dyn.erase f, laneFree := Store.set 0 k.laneFree o (s.ac + 64) }).dynSendOut c f o
            (63 + hopCost c (sideOf o))
  | _ => s

/-- The lanes of a router in one ac. -/
def State.lanes (s : State) (c : CoreId) : State :=
  if (s.core c).dyn.any fun f => f.cls == 3 then (List.range 4).foldl (fun s o => s.laneStep c o) s else s

/-! ### Entering the mesh -/

/-- A flit enters a router at its local port (R291). -/
def State.dynEnter (s : State) (c : CoreId) (cls sub dest : Nat) (port : Bool) (idx : Nat) (last : Bool) (b : DynBody)
    (p : Bool) : State :=
  s.onCore c fun k => { k with dyn := k.dyn ++ [⟨cls, sub, dest, port, idx, last, b, p, outLocal, s.ac, s.ac⟩] }

/-- Entry `j` of a message takes its place behind the header; it may leave from the ac in which it is read. -/
def State.dynLater (s : State) (c : CoreId) (dest j : Nat) (last : Bool) (e : MsgEntry) : State :=
  s.onCore c fun k =>
    { k with dyn := k.dyn ++ [⟨1, 0, dest, false, j + 1, last, .msg e, false, outLocal, s.ac + 2 + j, s.ac⟩] }

/-- The line of entry `j` of a message, in the ac of its read. -/
def State.msgFill (s : State) (c : CoreId) (due j : Nat) (l : Line) (p : Bool) : State :=
  s.onCore c fun k =>
    { k with dyn := k.dyn.map fun f =>
        match f.body with
        | .msg e =>
          if f.inp = outLocal ∧ f.due = due ∧ e.j = j ∧ e.src = c.val then { f with body := .msg { e with payload := l, poison := p } }
          else f
        | _ => f }

/-- A packet of the message class that is a header alone leaves a core (R226, R238). -/
def State.dynSend (s : State) (c : CoreId) (dest : Nat) (b : DynBody) : State := s.dynEnter c 1 0 dest false 0 true b false

/-- The place in `dynHold` of the packet that holds a port link toward the cores. -/
def portHold : Nat := 16

/-- Flits of one packet from an I/O die toward a core wait for the port link (R321, R547). -/
def State.portEnter (s : State) (port : CoreId) (cls sub dest : Nat) (h : DynBody) (p : Bool) (ls : List (Line × Bool)) :
    State :=
  s.onCore port fun k =>
    { k with portIn := k.portIn ++ ⟨cls, sub, dest, false, 0, ls.isEmpty, h, p, 0, s.ac, s.ac⟩ ::
        ls.zipIdx.map fun l => ⟨cls, sub, dest, false, l.2 + 1, l.2 + 1 == ls.length, .line l.1.1, l.1.2, 0, s.ac, s.ac⟩ }

/-- The flit that a port link takes next toward the cores: of the packet that holds the link, or else of the first class with a
flit and room at the port core, in the order FRSP, MSG, FREQ, BG (R309, R321). -/
def State.portPick (s : State) (c : CoreId) (d : Side) : Option DynFlit :=
  let k := s.core c
  let h := Store.get 0 k.dynHold portHold
  let room (f : DynFlit) : Bool := decide ((k.dyn.filter fun g => g.cls == f.cls && g.inp == sideCode d).length < 16)
  (List.range 4).findSome? fun cls =>
    if h = 0 ∨ h = cls + 1 then (k.portIn.find? fun f => f.cls == cls).filter room else none

/-- The port link carries one flit in an ac toward the cores (R321). -/
def State.portStep (s : State) (c : CoreId) : State :=
  match portOf c with
  | none => s
  | some (d, _) =>
    match s.portPick c d with
    | none => s
    | some f =>
      s.onCore c fun k =>
        { k with portIn := k.portIn.erase f, dyn := k.dyn ++ [{ f with inp := sideCode d, due := s.ac + hopCost c d }]
                 dynHold := Store.set 0 k.dynHold portHold (if f.last then 0 else f.cls + 1) }

/-! ### Messages and channels (R230 to R239, R280 to R283) -/

def Core.chan (k : Core) (i : Nat) : Option Channel := Store.get none (k.chans.map fun e => (e.1, some e.2)) i
/-- The credits of a channel that an instruction of this ac sees (R238, R239). -/
def Core.credit (k : Core) (i : Nat) : Nat := Store.get 0 k.credits i
def State.creditsDue (s : State) (c : CoreId) : State :=
  s.onCore c fun k =>
    { k with credits := (k.creditPend.filter fun a => a.due ≤ s.ac).foldl
               (fun m a => Store.set 0 m a.s (Store.get 0 m a.s + a.n)) k.credits
             creditPend := k.creditPend.filter fun a => s.ac < a.due }

def Core.msgq (k : Core) (q : Nat) : List Msg := Store.get [] k.msgqs q
def Core.setMsgq (k : Core) (q : Nat) (l : List Msg) : Core := { k with msgqs := Store.set [] k.msgqs q l }
/-- Whether a queue is ready (R237). -/
def State.msgReady (s : State) (c : CoreId) (q : Nat) : Bool :=
  match (s.core c).msgq q with
  | m :: _ => m.entries.length == m.count && m.readyAt ≤ s.ac
  | [] => false

/-- An entry joins the message at the end of its queue. -/
def Core.admitEntry (k : Core) (q now : Nat) (e : MsgEntry) (rest : List Msg) (m : Msg) : Core :=
  let m' := { m with entries := m.entries ++ [(e.payload, e.poison)]
                     readyAt := if m.entries.length + 1 = m.count then now + 1 else m.readyAt }
  { (k.setMsgq q (rest ++ [m'])) with msgWait := k.msgWait.erase e }

/-- The waiting message whose first entry came earliest; of two in one ac, the one of the lower sender (R235). -/
def earliest (es : List MsgEntry) : Option MsgEntry :=
  match es with
  | [] => none
  | e :: t =>
    some (t.foldl (fun b e => if e.firstAt < b.firstAt ∨ (e.firstAt = b.firstAt ∧ e.src < b.src) then e else b) e)

/-- A queue admits one waiting entry, if it may: the next of its open message, or the first of a new one (R235). -/
def Core.admitOne (k : Core) (q now : Nat) : Core :=
  if 32 ≤ ((k.msgq q).map fun m => m.entries.length).foldl (· + ·) 0 then k
  else
    let open_ := match (k.msgq q).getLast? with
      | some m => if m.entries.length < m.count then some m else none
      | none => none
    match open_ with
    | some m =>
      match k.msgWait.find? fun e => e.q == q && e.src == m.src && e.tag == m.tag && e.j == m.entries.length with
      | some e => k.admitEntry q now e (k.msgq q).dropLast m
      | none => k
    | none =>
      match earliest (k.msgWait.filter fun e => e.q == q && e.j == 0) with
      | some e => k.admitEntry q now e (k.msgq q) ⟨e.src, e.chan, e.tag, e.count, [], 0, []⟩
      | none => k

/-- Admission goes on while it can; a queue holds 32 entries. -/
def Core.admitAll (k : Core) (q now : Nat) : Core := (List.range 32).foldl (fun k _ => k.admitOne q now) k

/-- Admission in all the queues of a core, at the end of an ac. -/
def Core.admitQueues (k : Core) (now : Nat) : Core :=
  if k.msgWait.isEmpty then k else (List.range 16).foldl (fun k q => k.admitAll q now) k

/-- Which kind of packet has arrived (R308). -/
def DynFlit.isMsg (p : DynFlit) : Bool := match p.body with | .msg _ => true | _ => false
def DynFlit.isSig (p : DynFlit) : Bool := match p.body with | .sig .. => true | _ => false
def DynFlit.isCredit (p : DynFlit) : Bool := match p.body with | .credit .. => true | _ => false

/-- MESSAGE_ENTRY_ARRIVE (R235, R237): the oldest arrived message entry joins those that wait at the router; what a queue
admits of them in this ac it admits at the end of the ac, when every entry of the ac is there. -/
def execMessageEntryArrive (c : CoreId) (s : State) : Host.Outcome State Fault Refusal :=
  .next (
    match (s.core c).here.find? DynFlit.isMsg with
    | none => s
    | some p =>
      match p.body with
      | .msg e => s.onCore c fun k => { k with here := k.here.erase p, msgWait := k.msgWait ++ [{ e with firstAt := p.due }] }
      | _ => s)

/-- SEM_SIGNAL_ARRIVE (R226, R227): a remote signal adds to its semaphore. -/
def execSemSignalArrive (c : CoreId) (s : State) : Host.Outcome State Fault Refusal :=
  .next (
    match (s.core c).here.find? DynFlit.isSig with
    | none => s
    | some p =>
      let s := s.onCore c fun k => { k with here := k.here.erase p }
      match p.body with
      | .sig _ i n => s.semSignal c i n
      | _ => s)

/-- CREDIT_RETURN (R238, R239): returned credits reach the sender's channel and may be used from the next ac. -/
def execCreditReturn (c : CoreId) (s : State) : Host.Outcome State Fault Refusal :=
  .next (
    match (s.core c).here.find? DynFlit.isCredit with
    | none => s
    | some p =>
      let s := s.onCore c fun k => { k with here := k.here.erase p }
      match p.body with
      | .credit chan n => s.onCore c fun k => { k with creditPend := k.creditPend ++ [⟨s.ac + 1, chan, n⟩] }
      | _ => s)

/-- MSEND (R230, R233, R280): credits are spent at issue, and the message enters the mesh as one packet; entry j is read in
ac i + 2 + j, as its line stands at the end of the ac before, and follows the header from then on. -/
def State.msendOp (s : State) (c : CoreId) (chan k am : Nat) (tag : Token) : State :=
  match (s.core c).chan chan with
  | none => s
  | some ch =>
    let s := s.onCore c fun x => { x with credits := Store.set 0 x.credits chan (x.credit chan - (k + 1)) }
    let s := s.dynEnter c 1 0 ch.dest.toNat false 0 false .head false
    (List.range (k + 1)).foldl (fun s j =>
      (s.dynLater c ch.dest.toNat j (j == k) ⟨c.val, chan, ch.q.toNat, tag, k + 1, j, 0, false, 0⟩).timedAccess c (s.ac + 2 + j)
        (64 * ((am + j) % 65536)) 64 (.msg j)) s

/-- The 8-byte header that MPOP writes (R282). -/
def msgHeader (m : Msg) : List Byte := leBytes 8 (m.tag.toNat * 2 ^ 16 + m.count * 2 ^ 10 + m.src)

/-- MPOP of a ready queue: entry j is written in ac i + 1 + j and the header after the last (R238, R281); an entry whose
parity fails is delivered poisoned (R359). -/
def State.mpopOp (s : State) (c : CoreId) (q am : Nat) : State :=
  match (s.core c).msgq q with
  | [] => s
  | m :: rest =>
    let i := s.ac
    let s := (s.onCore c fun k => k.setMsgq q rest).entryParity c (!m.bad.isEmpty)
    let s := m.entries.zipIdx.foldl (fun s e =>
      s.timedAccess c (i + 1 + e.2) (64 * ((am + e.2) % 65536)) 64
        (.put (lineBytes e.1.1) (e.1.2 || m.bad.contains e.2))) s
    let s := s.timedAccess c (i + 1 + m.count) (64 * ((am + m.count) % 65536)) 8 (.put (msgHeader m) false)
    s.dynSend c m.src (.credit m.chan m.count)

/-! ### Accesses in their ac (R275, R280, R281, R345, R346) -/

/-- Four partial-sum words from a word address, with poison. -/
def State.fourWords (s : State) (c : CoreId) (w : Nat) : State × List (W128 × Bool) :=
  (List.range 4).foldl (fun (a : State × List (W128 × Bool)) q =>
    let (s, v, p) := a.1.psmRead c ((w + q) % 131072)
    (s, a.2 ++ [(v, p)])) (s, [])

/-- A flit of MOUT or of MRED as originator leaves 6 ac after its read (R275). -/
def State.timedFlit (s : State) (c : CoreId) (side : Side) (due j : Nat) (l : Line) (p : Bool) : State :=
  s.sendFlit c side (due + 6) rankInstr ⟨l, p, 0xF, BitVec.ofNat 6 j⟩

/-- The accesses that write. -/
def Timed.isWrite (t : Timed) : Bool := match t.kind with | .put .. | .sum .. => true | _ => false

/-- A write whose access ac has passed is in place. -/
def State.timedWrite (s : State) (c : CoreId) (t : Timed) : State :=
  match t.kind with
  | .put b p => s.timedPut c t b p
  | .sum v p => s.psmAdd c t.addr v p
  | _ => s

end Sys2Proof.Machine
end

