-- ==== Sys2Proof/Machine/Operands.lean ====
section
/-! DEFINITION. The operand forms of the core's instructions: matrix descriptors, tile images and the geometry of the
array (R51, R61, R92 to R94, R104, R116 to R118, R257 to R263, R306, R335, R355). -/

namespace Sys2Proof.Machine

/-! ### Matrix descriptors -/

/-- The fields of a LOAD, PASS or EWISE descriptor (R259 to R261).  An EWISE has `wfmt` Y's format, `afmt` X's, `sw` and
`sa` their scales, shape SQUARE and K 1. -/
structure MDesc where
  shape : Nat
  wfmt : Nat
  afmt : Nat
  sparse : Bool
  acc : Bool
  swap : Bool
  src : Bool
  fwd : Bool
  dst : Bool
  srcDir : Nat
  fwdDir : Nat
  dstDir : Nat
  lbits : Nat
  k : Nat
  n : Nat
  m : Nat
  base : Nat
  stride : Nat
  sw : Nat
  sa : Nat
  am : Nat
  amStride : Nat
  sb : Nat
  sStride : Nat
  y : Nat
  yStride : Nat
  ySb : Nat
  ySStride : Nat
  ws : Nat

def opLoad : Nat := 1
def opPass : Nat := 2
def opEwise : Nat := 3

def bitAt (x i : Nat) : Bool := x / 2 ^ i % 2 == 1

def mdesc (op : Nat) (d : BitVec 256) : MDesc :=
  let x := d.toNat
  if op = opLoad then
    { shape := bits x 255 254, wfmt := bits x 253 250, afmt := bits x 249 246, sparse := bitAt x 245,
      k := bits x 244 236, n := bits x 235 224, ws := bits x 223 203,
      acc := false, swap := false, src := false, fwd := false, dst := false, srcDir := 0, fwdDir := 0, dstDir := 0,
      lbits := 0, m := 0, base := 0, stride := 0, sw := 0, sa := 0, am := 0, amStride := 0, sb := 0, sStride := 0,
      y := 0, yStride := 0, ySb := 0, ySStride := 0 }
  else
    let e := decide (op = opEwise)
    { shape := if e then 0 else bits x 255 254, wfmt := bits x 253 250, afmt := bits x 249 246,
      sparse := !e && bitAt x 245, acc := bitAt x 244, swap := !e && bitAt x 243, src := bitAt x 242,
      fwd := !e && bitAt x 241, dst := !e && bitAt x 240, srcDir := bits x 239 238, fwdDir := bits x 237 236,
      dstDir := bits x 235 234, lbits := bits x 233 225, k := if e then 1 else bits x 224 216, n := bits x 215 204,
      m := bits x 203 188, base := bits x 187 171, stride := bits x 170 154, sw := bits x 153 146, sa := bits x 145 138,
      am := bits x 137 122, amStride := bits x 121 106, sb := bits x 105 87, sStride := bits x 86 79,
      y := bits x 78 63, yStride := bits x 62 47, ySb := bits x 46 28, ySStride := bits x 27 20, ws := 0 }

/-- The signed window base of a 9-bit field (R68). -/
def windowBase (l : Nat) : Int := signedOf 9 l
/-- +128 to +255, which no operation may name (R68). -/
def badWindow (l : Nat) : Bool := decide (128 ≤ l) && decide (l < 256)

/-! ### Geometry (R92 to R94) -/

/-- Rows per block of a shape: 128, 64, 32 or 16. -/
def shapeH (shape : Nat) : Nat := 128 / 2 ^ shape
def lanesOf (wfmt : Nat) : Nat := if wfmt = 0 then 2 else 1
def kLimit (shape : Nat) (sparse : Bool) : Nat := if sparse then 2 * shapeH shape else shapeH shape
def nLimit (shape wfmt : Nat) : Nat := 128 * lanesOf wfmt * 2 ^ shape
/-- Dense positions per segment (R262). -/
def kseg (shape : Nat) (sparse : Bool) : Nat := if shape = 3 ∧ sparse = false then 16 else 32
def nseg (shape : Nat) (sparse : Bool) (k : Nat) : Nat := ceilDiv k (kseg shape sparse)
/-- Physical rows per segment (R94). -/
def segRows (shape : Nat) (sparse : Bool) : Nat := if sparse ∨ shape = 3 then 16 else 32
def blockOfCol (wfmt n : Nat) : Nat := n / (128 * lanesOf wfmt)
/-- The cell column of an output column (R93). -/
def cellCol (wfmt n : Nat) : Nat := n % (128 * lanesOf wfmt) / lanesOf wfmt
/-- The tap at which segment `s` of block `j` ends (R94). -/
def tapOf (shape : Nat) (sparse : Bool) (j s : Nat) : Nat :=
  (j * shapeH shape + (s + 1) * segRows shape sparse) / 16 - 1
/-- The last tap of a block, where its terms join (R94). -/
def lastTap (shape j : Nat) : Nat := (j + 1) * shapeH shape / 16 - 1
def blocksUsed (wfmt n : Nat) : Nat := ceilDiv n (128 * lanesOf wfmt)

/-! ### Format pairs (R51, R61, R62) -/

def pairOk (w a : Nat) : Bool := (w ≤ 6 && 3 ≤ a && a ≤ 5) || (w == 7 && a == 7)
/-- The E5M2 by E5M2 pair is narrowed by 7 bits each (R62). -/
def narrowed (w a : Nat) : Bool := w == 5 && a == 5
def sparseFmt (w : Nat) : Bool := w == 0 || w == 3 || w == 4 || w == 5 || w == 6

/-! ### The tile image (R104, R262) -/

def storedK (sparse : Bool) (k : Nat) : Nat := if sparse then k / 2 else k
def elemPlane (wfmt n ks : Nat) : Nat := ceilDiv (n * ks * elemBits wfmt) 8
def scalePlane (shape wfmt : Nat) (sparse : Bool) (k n : Nat) : Nat :=
  if isBlockFmt wfmt then n * nseg shape sparse k else 0
def indexPlane (sparse : Bool) (n ks : Nat) : Nat := if sparse then ceilDiv (n * ks) 4 else 0
/-- B, the bytes a LOAD reads (R262). -/
def tileBytes (shape wfmt : Nat) (sparse : Bool) (k n : Nat) : Nat :=
  elemPlane wfmt n (storedK sparse k) + scalePlane shape wfmt sparse k n + indexPlane sparse n (storedK sparse k)
/-- λ of a LOAD (R104). -/
def loadLatency (b : Nat) : Nat := ceilDiv b 512 + 8

/-! ### Faults at issue (R68, R116, R124, R139, R263, R306, R335, R355) -/

/-- The bank offsets D(n) of R355. -/
def bankOffset (wfmt stride n : Nat) : Nat :=
  (((n : Int) - (cellCol wfmt n : Int) * (stride : Int)) % 2048).toNat

def pastAm (base stride m bytes : Nat) : Bool := decide (4 * 2 ^ 20 < base + (m - 1) * stride + bytes)

/-- FORMAT and SHAPE faults that a command raises at issue. -/
def issueFaults (op : Nat) (d : MDesc) : Bool × Bool :=
  if op = opLoad then
    (!pairOk d.wfmt d.afmt || (d.sparse && !sparseFmt d.wfmt) || (d.wfmt == 7 && d.shape != 0),
     decide (kLimit d.shape d.sparse < d.k) || decide (nLimit d.shape d.wfmt < d.n) ||
       (d.sparse && d.k % 4 != 0) || d.ws % 8 != 0 ||
       decide (96 * 2 ^ 20 < 64 * d.ws + tileBytes d.shape d.wfmt d.sparse d.k d.n))
  else
    let run := decide (0 < d.m) && decide (0 < d.n) && decide (0 < d.k)
    let past := !d.dst && decide (0 < d.m) && decide (0 < d.n) &&
      decide (131071 < d.base + (d.m - 1) * d.stride + d.n - 1)
    let count := if op = opEwise then d.n else d.k
    let bytes := count * (if d.afmt = 7 then 2 else 1)
    let x := run && !d.src && (pastAm (64 * d.am) (64 * d.amStride) d.m bytes ||
      (d.afmt == 3 && pastAm (8 * d.sb) d.sStride d.m (ceilDiv count 32)))
    if op = opEwise then
      (badWindow d.lbits || !(3 ≤ d.wfmt && d.wfmt ≤ 5) || !(3 ≤ d.afmt && d.afmt ≤ 5),
       decide (128 < d.n) || past || x ||
         (run && (pastAm (64 * d.y) (64 * d.yStride) d.m d.n ||
           (d.wfmt == 3 && pastAm (8 * d.ySb) d.ySStride d.m (ceilDiv d.n 32)))))
    else
      (badWindow d.lbits || !pairOk d.wfmt d.afmt || (d.sparse && !sparseFmt d.wfmt) || (d.wfmt == 7 && d.shape != 0),
       decide (kLimit d.shape d.sparse < d.k) || decide (nLimit d.shape d.wfmt < d.n) || (d.sparse && d.k % 4 != 0) ||
         past || x || (d.dst && decide (4 < d.n)) ||
         (!d.dst && decide (2 ≤ d.m) &&
           !decide (((List.range d.n).map (bankOffset d.wfmt d.stride)).Nodup)))

end Sys2Proof.Machine
end

