-- ==== Sys2Proof/Machine/Bundle.lean ====
section
/-! DEFINITION. The bundle of a core: the fields of its slots, what is illegal in them, what holds it in slack mode, and the
vector operand that it reads as it issues (R152, R185 to R189, R216, R250 to R254, R264 to R271, R284). -/

namespace Sys2Proof.Machine

/-- Bytes of the element plane of 256 elements (R58, R172). -/
def planeBytes (f : Nat) : Nat := 32 * elemBits f

end Sys2Proof.Machine

namespace Sys2Proof

open Sys2Proof.Machine

/-! ### Fields of a V slot (R265, R266, R269) -/

def VSlot.kind (v : VSlot) : Nat := bits v.ext.toNat 34 33
def VSlot.imm (v : VSlot) : Nat := bits v.ext.toNat 31 0
def VSlot.psmW (v : VSlot) : Nat := bits v.ext.toNat 32 16
def VSlot.psmL (v : VSlot) : Nat := bits v.ext.toNat 8 0
def VSlot.amF (v : VSlot) : Nat := bits v.ext.toNat 32 29
def VSlot.amA (v : VSlot) : Nat := 128 * bits v.ext.toNat 28 14
def VSlot.aux (v : VSlot) : Nat := bits v.ext.toNat 13 0
def VSlot.dstB (v : VSlot) : Nat := bits v.dst.toNat 8 6
def VSlot.dstR (v : VSlot) : Nat := bits v.dst.toNat 5 0
/-- VCVT's C field: dam and target. -/
def VSlot.dam (v : VSlot) : Bool := v.c.getLsbD 10
def VSlot.target (v : VSlot) : Nat := bits v.c.toNat 9 6
/-- VCMP's C field: predicate and output mask register. -/
def VSlot.pred (v : VSlot) : Nat := bits v.c.toNat 10 8
def VSlot.cmpVm (v : VSlot) : Nat := bits v.c.toNat 7 5
/-- Bytes of the scale plane of the wide operand. -/
def VSlot.scaleBytes (v : VSlot) : Nat := if isBlockFmt v.amF then 8 else 0
/-- The AM latency class of the wide operand (R344). -/
def VSlot.amFar (v : VSlot) : Bool := decide (2 ^ 21 < v.amA + planeBytes v.amF)
/-- VRAND's block and mode. -/
def VSlot.block (v : VSlot) : Nat := v.a.toNat * 2 ^ 13 + v.b.toNat * 4 + bits v.c.toNat 10 9
def VSlot.symmetric (v : VSlot) : Bool := v.c.getLsbD 8

end Sys2Proof

namespace Sys2Proof.Machine

/-! ### Operand forms (R152, R265, R266, R269) -/

/-- V opcodes (R269). -/
inductive VOp where
  | add | sub | mul | fma | abs | neg | max | min | recip | rsqrt | exp | expd | cmp | sel | mov
  | scansum | scanmax | moments | cvt | rand
  deriving DecidableEq, Repr

/-- The sources of an opcode (R269). -/
def VOp.sources : VOp → VSlot → List (BitVec 11)
  | .add, v | .sub, v | .mul, v | .max, v | .min, v | .expd, v | .cmp, v | .sel, v => [v.a, v.b]
  | .fma, v => [v.a, v.b, v.c]
  | .rand, _ => []
  | _, v => [v.a]

def srcMode (x : BitVec 11) : Nat := bits x.toNat 10 9
def srcBuf (x : BitVec 11) : Nat := bits x.toNat 8 6
def srcRow (x : BitVec 11) : Nat := bits x.toNat 5 0


/-- The wide operand of a slot, when one of its sources uses it. -/
def VOp.wide (op : VOp) (v : VSlot) : Bool := (op.sources v).any fun x => srcMode x == 3
def VOp.fromAm (op : VOp) (v : VSlot) : Bool := op.wide v && v.kind == 2
def VOp.fromPsm (op : VOp) (v : VSlot) : Bool := op.wide v && decide (v.kind < 2)
def VOp.toAm (op : VOp) (v : VSlot) : Bool := op == .cvt && v.dam

/-! ### Faults at issue (R68, R154, R179, R268, R269, R271) -/

def vFormatFault (op : VOp) (v : VSlot) : Bool :=
  let ms := (op.sources v).map srcMode
  decide (1 < (ms.filter fun m => 2 ≤ m).length) ||
  (op.wide v && ((v.kind == 0 && badWindow v.psmL) ||
    (v.kind == 2 && (decide (8 ≤ v.amF) || (v.amF == 7 && v.aux != 0))))) ||
  (op == .rsqrt && decide (2 ≤ srcMode v.a)) || (op == .cmp && v.pred == 7) || (op == .sel && !v.maskEn) ||
  (op == .cvt &&
    (if v.dam then decide (2 ≤ srcMode v.a) || decide (8 ≤ v.target) || v.kind != 2 || v.amF != v.target
     else !(v.target == 7 || v.target == 8) || srcMode v.a == 2))

def vAddrFault (op : VOp) (v : VSlot) : Bool :=
  (op == .moments && v.dstR == 63) || (op.fromPsm v && decide (131071 < v.psmW + 255)) ||
  ((op.fromAm v || op.toAm v) && decide (v.amF < 8) && decide (4 * 2 ^ 20 < v.amA + planeBytes v.amF))

/-- A wide operand of kind 0b11 is illegal (R252, R266). -/
def VOp.illegal (op : VOp) (v : VSlot) : Bool := op.wide v && v.kind == 3

/-! ### Bundles (R185 to R189, R250 to R254, R293) -/

/-- How an instruction row issues: in the core's mode, with its predicates. -/
def State.how (s : State) (c : CoreId) : How := ⟨(s.core c).mode, (s.core c).preds, false⟩
/-- The slots of a bundle, by number: M, V, X, S and C. -/
def sM : Nat := 0
def sV : Nat := 1
def sX : Nat := 2
def sS : Nat := 3
def sC : Nat := 4
/-- Whether a slot has issued in this ac: a core issues one bundle an ac, and so one instruction a slot (R148, R185). -/
def Core.slotUsed (k : Core) (now slot : Nat) : Bool := k.slotsAt == now + 1 && k.slotsUsed.testBit slot
def State.useSlots (s : State) (c : CoreId) (mask : Nat) : State :=
  s.onCore c fun k => { k with slotsAt := s.ac + 1, slotsUsed := (if k.slotsAt = s.ac + 1 then k.slotsUsed else 0) ||| mask }
/-- An instruction of a core that runs (R191), when its slot has not issued in this ac; an idle core issues nothing. -/
def State.ifRuns (s : State) (c : CoreId) (slot : Nat) (f : State → State) : State :=
  if (s.core c).mode == .idle || (s.core c).slotUsed s.ac slot then s else f (s.useSlots c (2 ^ slot))

/-- WAIT names a completion queue (R284). -/
def waitLegal (q : BitVec 3) : Bool := decide (3 ≤ q.toNat) && decide (q.toNat ≤ 6)

/-- The bundle at an index of a bank. -/
def State.bundle (s : State) (c : CoreId) (bank : Bool) (i : Nat) : Nat := s.pm.nat (pmBase c bank + 32 * i) 32

/-- The slots of a bundle (R185). -/
def slotM (b : Nat) : Nat := bits b 255 192
def slotV (b : Nat) : Nat := bits b 191 96
def slotX (b : Nat) : Nat := bits b 95 48
def slotS (b : Nat) : Nat := bits b 47 24
def slotC (b : Nat) : Nat := bits b 23 0

/-- V opcode codes (R269); none for a reserved code, no-op is 0. -/
def vOpOf (n : Nat) : Option VOp :=
  match n with
  | 1 => some .add | 2 => some .sub | 3 => some .mul | 4 => some .fma | 5 => some .abs | 6 => some .neg
  | 7 => some .max | 8 => some .min | 9 => some .recip | 10 => some .rsqrt | 11 => some .exp | 12 => some .expd
  | 13 => some .cmp | 14 => some .sel | 15 => some .mov | 16 => some .scansum | 17 => some .scanmax
  | 18 => some .moments | 19 => some .cvt | 20 => some .rand
  | _ => none

/-- The fields of a V slot (R264). -/
def vSlotOf (x : Nat) : VSlot :=
  { prec := bitAt x 90, zm := bitAt x 89, maskEn := bitAt x 88, maskK := BitVec.ofNat 3 (bits x 87 85)
    dst := BitVec.ofNat 9 (bits x 84 76), a := BitVec.ofNat 11 (bits x 75 65), b := BitVec.ofNat 11 (bits x 64 54)
    c := BitVec.ofNat 11 (bits x 53 43), lane := BitVec.ofNat 8 (bits x 42 35), ext := BitVec.ofNat 35 (bits x 34 0) }

/-- A predicate field (R253). -/
def predOf (f : Nat) : Pred := ⟨bitAt f 4, bitAt f 3, BitVec.ofNat 3 (bits f 2 0)⟩

def xOp (x : Nat) : Nat := bits x 47 43
def xPred (x : Nat) : Nat := bits x 42 38
def sOp (x : Nat) : Nat := bits x 23 20
def sPred (x : Nat) : Nat := bits x 19 15

/-- A reserved opcode or an illegal operand of a slot (R252, R254). -/
def illegalM (x : Nat) : Bool := decide (3 < bits x 63 60)
def illegalV (x : Nat) : Bool :=
  let op := bits x 95 91
  decide (0x14 < op) || (match vOpOf op with | some o => o.illegal (vSlotOf x) | none => false)
def illegalX (x : Nat) : Bool :=
  let op := xOp x
  decide (8 < op) || (op == 4 && bits x 4 3 == 3) || (op == 5 && bits x 25 24 == 3) ||
    (op == 8 && bits (xPred x) 4 3 != 0)
def illegalS (x : Nat) : Bool :=
  let op := sOp x
  decide (10 < op) || (op == 1 && !waitLegal (BitVec.ofNat 3 (bits x 14 12))) || (op == 2 && bits x 14 12 == 7) ||
    ((op == 3 || op == 5 || op == 6) && bits x 7 0 == 0) || (op == 4 && bits x 3 0 == 0) ||
    ((op == 2 || op == 5 || op == 7) && bits (sPred x) 4 3 != 0) ||
    ((op == 8 || op == 9 || op == 10) && sPred x != 0)
def illegalC (x : Nat) : Bool := decide (4 < bits x 23 21)

/-- The predicate register that an X or S slot writes. -/
def xWrites (x : Nat) : Option Nat := if xOp x = 8 then some (bits (xPred x) 2 0) else none
def sWrites (x : Nat) : Option Nat :=
  if sOp x = 2 ∨ sOp x = 5 ∨ sOp x = 7 then some (bits (sPred x) 2 0) else none

/-- The conditions of a BUNDLE fault (R187, R252, R254, R293).  No two slots can consume from one queue or test one
semaphore, so only predicates can meet. -/
def bundleBad (b i : Nat) : Bool :=
  decide (1008 ≤ i) || illegalM (slotM b) || illegalV (slotV b) || illegalX (slotX b) || illegalS (slotS b) ||
    illegalC (slotC b) || (xWrites (slotX b)).any fun p => sWrites (slotS b) == some p

/-- Hold causes (R243). -/
def holdWait : Nat := 1
def holdSem : Nat := 2
def holdSend : Nat := 3
def holdXiq : Nat := 4
def holdGong : Nat := 5
def holdEnd : Nat := 6
def holdSwitch : Nat := 7
def holdPop : Nat := 8

def Core.bankOf (k : Core) (b : Bool) : Bank := Store.get Bank.reset k.banks (if b then 1 else 0)
/-- A bank that holds a complete load (R190, R460). -/
def Bank.loaded (b : Bank) (now : Nat) : Bool := b.complete && decide (b.from_ ≤ now)

/-- Whether XIQ is full while the head of XSQ carries the token (R218). -/
def State.xiqBlocks (s : State) (c : CoreId) (t : Token) : Bool :=
  decide (16 ≤ (s.core c).xiq.length) && !(s.core c).isDesync qXSQ &&
    (match s.head c qXSQ with | some e => e.token == t | none => false)

/-- The cause that holds a bundle in slack mode; 0 when every condition is met (R216, R218, R226, R233, R238, R243). -/
def State.holdCause (s : State) (c : CoreId) (b : Nat) (h : How) : Nat :=
  let k := s.core c
  let m := slotM b
  let x := slotX b
  let y := slotS b
  let xr := h.runs (predOf (xPred x))
  let sr := h.runs (predOf (sPred y))
  if bits m 63 60 ≠ 0 ∧ s.takeHolds c qMSQ then holdWait
  else if xr ∧ xOp x = 5 ∧ s.takeHolds c qXSQ then holdWait
  else if xr ∧ xOp x = 5 ∧ s.xiqBlocks c (BitVec.ofNat 12 (bits x 37 26)) then holdXiq
  else if xr ∧ xOp x = 6 ∧ k.credit (bits x 37 33) < bits x 32 30 + 1 then holdSend
  else if xr ∧ xOp x = 7 ∧ !s.msgReady c (bits x 37 34) then holdPop
  else if sr ∧ sOp y = 1 ∧ s.takeHolds c (bits y 14 12) then holdWait
  else if sr ∧ sOp y = 6 ∧ k.sem (bits y 13 8) < bits y 7 0 then holdSem
  else if bits (slotC b) 23 21 = 4 ∧ !(k.bankOf !k.bank).loaded s.ac then holdSwitch
  else 0

/-- Whether a core may issue in this ac. -/
def Core.mayIssue (k : Core) (now : Nat) : Bool :=
  k.mode != .idle && !k.ended && decide (k.issueFrom ≤ now) && k.slotsAt != now + 1

/-- A hold that a condition ends. -/
def Core.waiting (k : Core) : Bool := k.hold ≠ 0 && k.hold ≠ holdGong && k.hold ≠ holdEnd

/-- The hold cause of the bundle that is next. -/
def State.holdNow (s : State) (c : CoreId) : Nat :=
  let k := s.core c
  let i := k.index.toNat
  let b := s.bundle c k.bank i
  if k.mode == .slack && !bundleBad b i then s.holdCause c b (s.how c) else 0

/-- The vector instruction that a core issues in this ac, when its bundle has still to issue and nothing holds it. -/
def State.vNext (s : State) (c : CoreId) : Option (VOp × VSlot) :=
  let k := s.core c
  let t := (s.semDue c).creditsDue c
  let b := s.bundle c k.bank k.index.toNat
  if k.mayIssue s.ac && (k.hold == 0 || k.waiting) && !bundleBad b k.index.toNat && t.holdNow c == 0 then
    match vOpOf (bits (slotV b) 95 91) with
    | some op =>
      let v := vSlotOf (slotV b)
      if vFormatFault op v || vAddrFault op v then none else some (op, v)
    | none => none
  else none

/-- The lanes of the AM source of a vector instruction (R152, R346). -/
def vAmLanes (v : VSlot) : Nat :=
  laneMask v.amA (planeBytes v.amF) ||| (if v.scaleBytes = 0 then 0 else laneMask (8 * v.aux) v.scaleBytes)

/-- The lanes that the vector instruction of this ac takes before every dynamic access (R347). -/
def State.vLanes (s : State) (c : CoreId) : Nat :=
  match s.vNext c with
  | some (op, v) => if op.fromAm v then vAmLanes v else 0
  | none => 0

/-- Whether a vector read of this ac, done or about to issue, uses the bank of a word (R111, R155, R356). -/
def State.vBank (s : State) (c : CoreId) (w : Nat) : Bool :=
  s.bankRead c w ||
    (match s.vNext c with | some (op, v) => op.fromPsm v && vreadUses v.psmW w | none => false)

/-- The line of activation memory of the next unit of a request, once the unit is due. -/
def CsReq.dueLine (r : CsReq) (now : Nat) : Option Nat :=
  match r.data with
  | x :: _ => if x.2.2 + r.wait ≤ now then some (64 * (r.am + r.next)) else none
  | [] => none

/-- The lanes of the context-store read units that are due at a core, which come before those of every other dynamic access
(R347, R349). -/
def State.csLanes (s : State) (c : CoreId) : Nat :=
  (s.core c).csReqs.foldl (fun m r =>
    match r.dueLine s.ac with
    | some a => if (m &&& laneMask a 64) ≠ 0 then m else m ||| (s.core c).freeLanes s.ac (laneMask a 64)
    | none => m) 0

end Sys2Proof.Machine
end

