-- ==== Sys2Proof/Machine/Flags.lean ====
section
/-! DEFINITION. Flag computations: the sticky arithmetic flags of the array and of the vector unit (R62, R63, R70, R73,
R77, R78, R163, R181). -/

namespace Sys2Proof.Machine

/-- MX_AFLAGS bits (R73). -/
def afInexactTerm : Nat := 1
def afInexactNarrow : Nat := 2
def afRangeTerm : Nat := 4
def afRangeFinal : Nat := 8
def afNonfinite : Nat := 16

/-- Sticky flags of MX_AFLAGS. -/
def State.aflags (s : State) (c : CoreId) (mask : Nat) : State := s.orReg (.mx c) 0x10 mask
/-- Sticky flags of VU_FLAGS. -/
def State.vflags (s : State) (c : CoreId) (mask : Nat) : State := s.orReg (.vu c) 0x00 mask

/-- The INEXACT and RANGE flags of a core (R73). -/
def State.inexact (s : State) (c : CoreId) : Bool := s.reg (.mx c) 0x10 % 4 != 0
def State.rangeFlag (s : State) (c : CoreId) : Bool := bits (s.reg (.mx c) 0x10) 4 2 != 0

/-- A term with its flags: `c · 2^sh` rounded onto the window base `L` (R70). -/
def term (c sh L : Int) : Int × Nat :=
  let t := rneInt c sh L
  let exact : Bool := if L ≤ sh then true else decide (t * 2 ^ (L - sh).toNat = c)
  (t, (if exact then 0 else afInexactTerm) + (if outOfWindow t then afRangeTerm else 0))

/-- A narrowed significand (R62). -/
def narrow7 (i : Int) : Int := rneInt i 0 7

/-- The flags of an element that enters the array: non-finite values or scales, and narrowing that changes it (R62, R63). -/
def enterFlags (f scale code : Nat) (narrow : Bool) : Nat :=
  if f = 7 then 0
  else if scale = 0xFF ∨ !elemFinite f code then afNonfinite
  else if narrow ∧ narrow7 (elemSig f code) * 128 ≠ elemSig f code then afInexactNarrow
  else 0

/-- The integer that enters the array for an element (R62, R63). -/
def enterSig (f scale code : Nat) (narrow : Bool) : Int :=
  if scale = 0xFF then 0 else if narrow then narrow7 (elemSig f code) else elemSig f code

/-- Quantum of a format after narrowing. -/
def enterQ (f : Nat) (narrow : Bool) : Int := (elemFmt f).q + (if narrow then 7 else 0)

end Sys2Proof.Machine
end

