-- ==== Sys2Proof/Machine/Array.lean ====
section
/-! DEFINITION. The matrix array: its commands, stationary tiles, feeders, releases, terms, checks, drains and completions
(R88 to R147, R257 to R263, R302 to R306). -/

namespace Sys2Proof.Machine

/-! ### Issue (R138, R139, R255, R258) -/

/-- A command as it enters the array command queue. -/
def newCmd (s : State) (op : Nat) (void faulted : Bool) (desc : BitVec 256) (t : Token) (poison : Bool) : ArrCmd :=
  { op := BitVec.ofNat 2 op, void := void, faulted := faulted, desc := desc, token := t, poison := poison, issuedAt := s.ac
    headAt := none, started := false, swapTaken := false, fetched := 0, yfetched := 0, claimed := 0, spoiled := false
    bad := false }
def voidCmd (s : State) (op : Nat) (t : Token) : ArrCmd := newCmd s op true false 0 t true

/-- A command reaches the head of the queue in ac `t`, and no earlier than the ac after it entered the queue (R102). -/
def ArrCmd.reach (q : ArrCmd) (t : Nat) : ArrCmd := { q with headAt := some (max t (q.issuedAt + 1)) }
/-- A command enters the queue; in an empty queue it is the head. -/
def Arr.enqueue (a : Arr) (q : ArrCmd) : Arr := { a with queue := a.queue ++ [if a.queue.isEmpty then q.reach 0 else q] }
/-- The head leaves the queue in ac `t`, in which the next command reaches the head (R102). -/
def Arr.pop (a : Arr) (t : Nat) : Arr :=
  { a with queue := match a.queue.tail with | [] => [] | q :: r => q.reach t :: r }

/-- A void command enters the queue, or the overflow list, or is lost with MCQ desynchronised (R138, R255). -/
def State.enterVoid (s : State) (c : CoreId) (op : Nat) (t : Token) : State :=
  let a := s.arr c
  if 4 ≤ a.queue.length ∨ !a.overflow.isEmpty then
    if 4 ≤ a.overflow.length then s.desyncQ c qMCQ
    else s.onArr c fun a => { a with overflow := a.overflow ++ [voidCmd s op t] }
  else s.onArr c fun a => a.enqueue (voidCmd s op t)

/-- A descriptor taken from MSQ enters the array command queue (R138, R139, R258). -/
def State.enterCmd (s : State) (c : CoreId) (op : Nat) (t : Token) (e : QEntry) : State :=
  let a := s.arr c
  if 4 ≤ a.queue.length ∨ !a.overflow.isEmpty then
    let s := s.mxFault c mxOverflow
    if op = opLoad then s else s.enterVoid c op t
  else
    let (fm, sh) := issueFaults op (mdesc op e.body)
    let s := if fm then s.mxFault c mxFormat else s
    let s := if sh then s.mxFault c mxShape else s
    s.onArr c fun a => a.enqueue (newCmd s op false (fm || sh) e.body t e.poison)

/-- An M-slot instruction (R255, R258). -/
def State.mOp (s : State) (c : CoreId) (op : Nat) (t : Token) (h : How) : State :=
  match s.take c qMSQ t h with
  | (s, .got e) => s.enterCmd c op t e
  | (s, .poisoned) => if op = opLoad then s else s.enterVoid c op t
  | (s, .hold) => s

/-- LOAD (R257, R258). -/
def execLoad (c : CoreId) (token : Token) (s : State) : Host.Outcome State Fault Refusal :=
  .next (s.ifRuns c sM fun s => s.mOp c opLoad token (s.how c))
/-- PASS (R257, R258). -/
def execPass (c : CoreId) (token : Token) (s : State) : Host.Outcome State Fault Refusal :=
  .next (s.ifRuns c sM fun s => s.mOp c opPass token (s.how c))
/-- EWISE (R257, R258). -/
def execEwise (c : CoreId) (token : Token) (s : State) : Host.Outcome State Fault Refusal :=
  .next (s.ifRuns c sM fun s => s.mOp c opEwise token (s.how c))

/-- VOID_COMMAND_ENTER (R138): the oldest void command of the overflow list enters the queue as it gains room, at most one
in an ac. -/
def execVoidCommandEnter (c : CoreId) (s : State) : Host.Outcome State Fault Refusal :=
  .next (
    let a := s.arr c
    let fresh : Bool := match a.queue.getLast? with | some q => q.void && q.issuedAt == s.ac | none => false
    match a.overflow with
    | v :: rest =>
      if 4 ≤ a.queue.length ∨ fresh then s
      else s.onArr c fun a => { a.enqueue { v with issuedAt := s.ac } with overflow := rest }
    | [] => s)

/-! ### Time in the array (R112 to R115) -/

/-- The count of the advancing ac before `now` (R115): the index of this ac when the array advances in it. -/
def Arr.advAt (a : Arr) (now : Nat) : Nat := now - a.frozenAc
def State.adv (s : State) (c : CoreId) : Nat := (s.arr c).advAt s.ac
/-- Whether the array is frozen in this ac (R112, R113). -/
def Arr.frozen (a : Arr) (now : Nat) : Bool :=
  match a.freezeAt with
  | none => false
  | some f => f ≤ now && (match a.thawAt with | none => true | some u => now < u)
/-- Whether the advancing ac of index `n` has come. -/
def Arr.reached (a : Arr) (now n : Nat) : Bool := decide (n < a.advAt now) || (n == a.advAt now && !a.frozen now)

def ArrCmd.desc' (q : ArrCmd) : MDesc := mdesc q.op.toNat q.desc
def ArrCmd.isEw (q : ArrCmd) : Bool := q.op.toNat == opEwise
def ArrCmd.isBf (q : ArrCmd) : Bool := !q.isEw && q.desc'.wfmt == 7

/-- A degenerate command (R131). -/
def ArrCmd.isDegenerate (q : ArrCmd) : Bool :=
  let d := q.desc'
  d.m == 0 || d.n == 0 || (!q.isEw && d.k == 0)

/-! ### The head of the array command queue (R102, R136, R137, R140) -/

def Arr.setHead (a : Arr) (f : ArrCmd → ArrCmd) : Arr :=
  match a.queue with
  | [] => a
  | q :: t => { a with queue := f q :: t }

/-- A PASS or EWISE that takes its place in completion order. -/
def Arr.addRun (a : Arr) (q : ArrCmd) (headAt : Nat) (poison degenerate : Bool) : Arr :=
  { a with runs := a.runs ++ [{ serial := a.nextRun, cmd := q, headAt := headAt, released := 0, poison := poison
                                degenerate := degenerate, zeroed := false, words := [], doneAt := 0, firstAt := none
                                firstAc := 0, bf := q.isBf }]
           nextRun := a.nextRun + 1 }

/-- The vectors and the flits that a command has taken ahead of its start go with it. -/
def Arr.dropFetched (a : Arr) (q : ArrCmd) : Arr :=
  { a with feeder := a.feeder.drop (q.fetched - a.lost), ytop := a.ytop.drop q.yfetched, lost := 0, flits := [] }

/-- A command that never runs leaves the queue; a PASS or EWISE completes poisoned in its turn (R140). -/
def State.headRefuse (s : State) (c : CoreId) (q : ArrCmd) : State :=
  s.onArr c fun a =>
    if q.op.toNat = opLoad then a.pop s.ac
    else (((a.dropFetched q).addRun { q with void := true } s.ac true false).pop s.ac)

/-- A LOAD at the head (R106, R109, R137).  DESIGN CHOICE: it starts once a merge that occupies the share is over (log 196). -/
def State.headLoad (s : State) (c : CoreId) (q : ArrCmd) : State :=
  let d := q.desc'
  match (s.arr c).shadow with
  | .draining => s
  | .free =>
    if s.ac < (s.core c).wsFree then s
    else s.onArr c fun a =>
      { a.pop s.ac with shadow := .loading, loadAt := s.ac, loadFrom := 64 * d.ws
                        shadowTile := ⟨true, d.shape, d.wfmt, d.afmt, d.sparse, d.k, d.n,
                          s.wsBytes c (64 * d.ws) (tileBytes d.shape d.wfmt d.sparse d.k d.n), q.poison, []⟩ }
  | _ => (s.mxFault c mxSwapOrder).headRefuse c q

/-- The comparison of a PASS with the tile it uses: FORMAT and SHAPE (R136, R263). -/
def tileFaults (d : MDesc) (t : Tile) : Bool × Bool :=
  (d.wfmt != t.wfmt || d.afmt != t.afmt || d.sparse != t.sparse, d.swap && d.shape != t.shape)

/-- A command starts: it keeps its place at the head until its last release (R102). -/
def State.headStart (s : State) (c : CoreId) (q : ArrCmd) (h : Nat) (deg : Bool) : State :=
  s.onArr c fun a => (a.setHead fun q => { q with started := true }).addRun q h false deg

/-- The tile in the active registers, once a swap has put one there (R263). -/
def Arr.activeTile (a : Arr) : Tile := match a.active with | l :: _ => l.tile | [] => Tile.zero

/-- A PASS at the head. -/
def State.headPass (s : State) (c : CoreId) (q : ArrCmd) (h : Nat) : State :=
  let a := s.arr c
  let d := q.desc'
  if d.swap ∧ (a.shadow = .free ∨ a.shadow = .draining) then (s.mxFault c mxSwapOrder).headRefuse c q
  else if d.swap ∧ a.shadow = .loading then s
  else
    let (fm, sh) := if d.swap then tileFaults d a.shadowTile
      else if a.swapped then tileFaults d a.activeTile else (false, false)
    let s := if fm then s.mxFault c mxFormat else s
    let s := if sh then s.mxFault c mxShape else s
    if fm || sh then s.headRefuse c q else s.headStart c q h false

/-- The head is read: an entry whose parity fails is delivered poisoned (R359). -/
def State.headRead (s : State) (c : CoreId) (q : ArrCmd) : State :=
  if q.bad then (s.entryParity c true).onArr c fun a => a.setHead fun q => { q with poison := true, bad := false } else s

/-- ARRAY_COMMAND_HEAD (R102, R131, R136, R137, R140, R220): the command at the head is checked, started, discarded or
completed poisoned. -/
def execArrayCommandHead (c : CoreId) (s : State) : Host.Outcome State Fault Refusal :=
  .next (
    match (s.arr c).queue with
    | [] => s
    | p :: _ =>
      let h := p.headAt.getD s.ac
      if p.started ∨ s.ac < h then s
      else
        let s := s.headRead c p
        let q := { p with poison := p.poison || p.bad, bad := false }
        if q.void || q.faulted then s.headRefuse c q
        else if q.op.toNat = opLoad then s.headLoad c q
        else if q.isDegenerate then s.headStart c q h true
        else if q.isEw then s.headStart c q h false
        else s.headPass c q h)

/-! ### Tiles (R104, R117, R118, R262) -/

def Tile.ks (t : Tile) : Nat := storedK t.sparse t.k
/-- The code of stored element `i` of column `n`; zero outside the tile. -/
def Tile.elem (t : Tile) (n i : Nat) : Nat :=
  if t.valid ∧ n < t.n ∧ i < t.ks then bitField t.image (elemBits t.wfmt * (n * t.ks + i)) (elemBits t.wfmt) else 0
/-- The scale byte of segment `seg` of column `n`. -/
def Tile.scale (t : Tile) (n seg : Nat) : Nat :=
  if t.valid ∧ n < t.n ∧ seg < nseg t.shape t.sparse t.k then
    ((t.image.drop (elemPlane t.wfmt t.n t.ks + n * nseg t.shape t.sparse t.k + seg)).headD 0).toNat
  else 0
/-- The 2-bit index of stored element `i` of column `n`. -/
def Tile.index (t : Tile) (n i : Nat) : Nat :=
  if n < t.n ∧ i < t.ks then
    bitField t.image
      (8 * (elemPlane t.wfmt t.n t.ks + scalePlane t.shape t.wfmt t.sparse t.k t.n) + 2 * (n * t.ks + i)) 2
  else i % 2
/-- The first stored pair whose indices are out of order (R118), by its place in the index plane. -/
def Tile.badPair (t : Tile) : Option Nat :=
  if t.sparse then
    (List.range (t.n * t.ks / 2)).find? fun p =>
      let i := 2 * p
      t.index (i / t.ks) (i % t.ks + 1) ≤ t.index (i / t.ks) (i % t.ks)
  else none

/-- The flags of a tile as it is loaded (R62, R63). -/
def Tile.flags (t : Tile) : Nat :=
  (List.range t.n).foldl (fun f n =>
    (List.range t.ks).foldl (fun f i =>
      let sc := if isBlockFmt t.wfmt then t.scale n (i / (if t.sparse then 16 else kseg t.shape t.sparse)) else 0
      f ||| enterFlags t.wfmt sc (t.elem n i) (narrowed t.wfmt t.afmt)) f) 0

/-- The output column and the stored element of it that cell (p, c) holds in lane l (R92, R93). -/
def Tile.place (t : Tile) (p c l : Nat) : Nat × Nat :=
  (p / shapeH t.shape * (128 * lanesOf t.wfmt) + c * lanesOf t.wfmt + l, p % shapeH t.shape)
/-- The integer significand I_w of a cell, with `sw` the scale of a per-tensor format (R62, R63). -/
def Tile.sig (t : Tile) (sw p c l : Nat) : Int :=
  let (n, i) := t.place p c l
  enterSig t.wfmt (if isBlockFmt t.wfmt then t.scale n (i / segRows t.shape t.sparse) else sw) (t.elem n i)
    (narrowed t.wfmt t.afmt)
/-- The index of a cell of a 2:4 tile (R117). -/
def Tile.sel (t : Tile) (p c l : Nat) : Nat :=
  let (n, i) := t.place p c l
  t.index n i

/-- A sum over the 128 columns of a row and the lanes of each (R119, R121). -/
def rowSum (lanes : Nat) (f : Nat → Nat → Int) : Int :=
  (List.range 128).foldl (fun a c => (List.range lanes).foldl (fun a l => a + f c l) a) 0
/-- The sum, over all output columns, of the dense weights at position `q` of the group of physical rows 2g and 2g + 1; a
position that a column does not store counts as zero (R120). -/
def Tile.groupSum (t : Tile) (g q : Nat) : Int :=
  rowSum (lanesOf t.wfmt) fun c l =>
    (List.range 2).foldl (fun a r => if t.sel (2 * g + r) c l = q then a + t.sig 0 (2 * g + r) c l else a) 0
/-- What a LOAD writes into the check cell of physical row `p` (R119, R120); the check column of a BF16 tile computes nothing
(R126). -/
def Tile.checkOps (t : Tile) (p : Nat) : BitVec 40 × BitVec 40 :=
  if t.wfmt = 7 then (0, 0)
  else if t.sparse then
    (BitVec.ofInt 40 (t.groupSum (p / 2) (2 * (p % 2))), BitVec.ofInt 40 (t.groupSum (p / 2) (2 * (p % 2) + 1)))
  else (BitVec.ofInt 40 (rowSum (lanesOf t.wfmt) fun c l => t.sig 0 p c l), 0)
/-- The tile with its check column. -/
def Tile.checked (t : Tile) : Tile := { t with checks := (List.range 128).map t.checkOps }

/-- LOAD_COMPLETE (R104, R106, R119, R120, R338, R339): λ ac after its start the tile is READY, its check column with it. -/
def execLoadComplete (c : CoreId) (s : State) : Host.Outcome State Fault Refusal :=
  .next (
    let a := s.arr c
    let t := a.shadowTile
    if a.shadow ≠ .loading ∨ s.ac < a.loadAt + loadLatency t.image.length ∨ t.badPair.isSome then s
    else
      let lo := a.loadFrom / 32
      let (s, uce) := s.wsReadWords c lo (lo + ceilDiv t.image.length 32)
      let s := s.aflags c t.flags
      s.onArr c fun a => { a with shadow := .ready, readyAt := s.ac
                                  shadowTile := { t.checked with poison := t.poison || uce } })

/-- LOAD_ABANDON (R118): a 2:4 pair out of order ends the load in the ac in which it is read; the codes of the words read
so far have been decoded.  DESIGN CHOICE (log 190): it sets no arithmetic flag for the elements that it has read. -/
def execLoadAbandon (c : CoreId) (s : State) : Host.Outcome State Fault Refusal :=
  .next (
    let a := s.arr c
    let t := a.shadowTile
    match t.badPair with
    | some p =>
      let byte := elemPlane t.wfmt t.n t.ks + scalePlane t.shape t.wfmt t.sparse t.k t.n + p / 2
      if a.shadow ≠ .loading ∨ s.ac < a.loadAt + byte / 512 then s
      else
        let lo := a.loadFrom / 32
        let s := (s.wsReadWords c lo (lo + min (16 * (byte / 512 + 1)) (ceilDiv t.image.length 32))).1
        (s.mxFault c mxFormat).onArr c fun a => { a with shadow := .free, shadowTile := Tile.zero }
    | none => s)

/-! ### Feeding the rows (R96, R302 to R305, R350) -/

/-- The elements of a vector: K of them, or N in an EWISE. -/
def MDesc.count (d : MDesc) (ew : Bool) : Nat := if ew then d.n else d.k
def MDesc.elemBytes (d : MDesc) (ew : Bool) : Nat := d.count ew * (if d.afmt = 7 then 2 else 1)
def MDesc.scaleBytes (d : MDesc) (ew : Bool) : Nat := if d.afmt = 3 then ceilDiv (d.count ew) 32 else 0
/-- Flits of a vector (R302). -/
def MDesc.vflits (d : MDesc) (ew : Bool) : Nat := ceilDiv (d.elemBytes ew + d.scaleBytes ew) 64

def byteAt (b : List Byte) (i : Nat) : Nat := ((b.drop i).headD 0).toNat

/-- The code of activation element `k`. -/
def actCode (d : MDesc) (v : Vec) (k : Nat) : Nat :=
  if d.afmt = 7 then byteAt v.elems (2 * k) + 256 * byteAt v.elems (2 * k + 1) else byteAt v.elems k
/-- The scale code of activation element `k`: its block scale or the per-tensor scale (R56, R57). -/
def actScale (d : MDesc) (v : Vec) (k : Nat) : Nat := if d.afmt = 3 then byteAt v.scales (k / 32) else d.sa
def yScale (d : MDesc) (v : Vec) (k : Nat) : Nat := if d.wfmt = 3 then byteAt v.yscales (k / 32) else d.sw

/-- The flags that a vector sets as it enters the array (R62, R63; log 183); a per-tensor weight scale of 0xFF acts here too. -/
def feedFlags (q : ArrCmd) (v : Vec) : Nat :=
  let d := q.desc'
  let nr := narrowed d.wfmt d.afmt
  let f := (List.range (d.count q.isEw)).foldl (fun f k => f ||| enterFlags d.afmt (actScale d v k) (actCode d v k) nr) 0
  let g := if q.isEw then
      (List.range d.n).foldl (fun f k => f ||| enterFlags d.wfmt (yScale d v k) (byteAt v.y k) nr) 0
    else if isTensorFmt d.wfmt ∧ d.sw = 0xFF then afNonfinite else 0
  f ||| g

/-- A vector enters the feeder queues in ac `e`; with fwd = 1 no earlier than v ac after the one before, and its flits
leave from the next ac (R305). -/
def State.enterVec (s : State) (c : CoreId) (q : ArrCmd) (v : Vec) (e : Nat) : State :=
  let d := q.desc'
  let vf := d.vflits q.isEw
  let e := if d.fwd ∧ 0 < v.m then max e ((s.arr c).enterAc + vf) else e
  let out (f : Nat) : ArrOut :=
    .flit (e + 1 + f) d.fwdDir
      ⟨bytesLine (padTo 64 ((v.elems ++ v.scales).drop (64 * f))), v.poison, 0xF, BitVec.ofNat 6 (v.m * vf + f)⟩
  s.onArr c fun a =>
    { a with feeder := a.feeder ++ [{ v with from_ := e }], enterAc := e
             outs := a.outs ++ (if d.fwd then (List.range vf).map out else []) }

def Arr.onLastRun (a : Arr) (f : Run → Run) : Arr :=
  match a.runs.getLast? with
  | some r => { a with runs := a.runs.dropLast ++ [f r] }
  | none => a

/-- The started command at the head with its run, when it is not degenerate. -/
def Arr.feeding (a : Arr) : Option (ArrCmd × Run) :=
  match a.queue, a.runs.getLast? with
  | q :: _, some r => if q.started && !q.isDegenerate then some (q, r) else none
  | _, _ => none

def farOf (a n : Nat) : Bool := decide (0 < n) && decide (2 ^ 21 < a + n)

/-- The lanes of `n` bytes from `a`; none for no byte. -/
def lanesOfBytes (a n : Nat) : Nat := if n = 0 then 0 else laneMask a n
/-- A read of `n` bytes, none when `n` is 0. -/
def State.amReadAny (s : State) (c : CoreId) (a n : Nat) : State × List Byte × Bool :=
  if n = 0 then (s, [], false) else s.amRead c a n

/-- An operand in activation memory: where the elements and the scale bytes of a vector lie, and how many there are. -/
structure VecAt where
  a : Nat
  n : Nat
  sa : Nat
  sn : Nat
  deriving DecidableEq, Repr

/-- The X operand of vector `m` (R259), and the Y operand of an EWISE (R261). -/
def MDesc.xAt (d : MDesc) (ew : Bool) (m : Nat) : VecAt :=
  ⟨64 * d.am + 64 * m * d.amStride, d.elemBytes ew, 8 * d.sb + m * d.sStride, d.scaleBytes ew⟩
def MDesc.yAt (d : MDesc) (m : Nat) : VecAt :=
  ⟨64 * d.y + 64 * m * d.yStride, d.n, 8 * d.ySb + m * d.ySStride, if d.wfmt = 3 then ceilDiv d.n 32 else 0⟩
def VecAt.lanes (v : VecAt) : Nat := lanesOfBytes v.a v.n ||| lanesOfBytes v.sa v.sn
/-- The ac from the access to the entry into the queue (R344). -/
def VecAt.wait (v : VecAt) : Nat := if farOf v.a v.n || farOf v.sa v.sn then 6 else 3
/-- Reads an operand: elements, scale bytes, poison. -/
def State.readVec (s : State) (c : CoreId) (v : VecAt) : State × List Byte × List Byte × Bool :=
  let (s, x, p) := s.amReadAny c v.a v.n
  let (s, xs, q) := s.amReadAny c v.sa v.sn
  (s, x, xs, p || q)

/-- A command that has vectors to feed. -/
def ArrCmd.feeds (q : ArrCmd) : Bool := !q.void && !q.faulted && q.op.toNat != opLoad && !q.isDegenerate

/-- The command whose next X vector is fetched: the oldest of the queue that still has one to fetch.  DEDUCED: a command is
fetched for before it reaches the head, since R102 lets it release in the ac after (log 183). -/
def Arr.nextX (a : Arr) : Option ArrCmd := a.queue.find? fun q => q.feeds && decide (q.fetched < q.desc'.m)
/-- The EWISE whose next Y vector is fetched. -/
def Arr.nextY (a : Arr) : Option ArrCmd :=
  a.queue.find? fun q => q.feeds && q.isEw && decide (q.yfetched < q.desc'.m)

/-- Changes the first command of the queue that satisfies `p`. -/
def onFirstCmd (p : ArrCmd → Bool) (f : ArrCmd → ArrCmd) : List ArrCmd → List ArrCmd
  | [] => []
  | q :: t => if p q then f q :: t else q :: onFirstCmd p f t

/-- The X and the Y fetch that the feeder is ready to make in this ac (R350): room in the queues, no other fetch in this ac. -/
def State.xReady (s : State) (c : CoreId) : Option (ArrCmd × VecAt) :=
  let a := s.arr c
  match a.nextX with
  | some q =>
    if q.desc'.src ∨ s.ac ≤ q.issuedAt ∨ 16 ≤ a.feeder.length ∨ a.fetchAc = s.ac + 1 then none
    else some (q, q.desc'.xAt q.isEw q.fetched)
  | none => none
def State.yReady (s : State) (c : CoreId) : Option (ArrCmd × VecAt) :=
  let a := s.arr c
  match a.nextY with
  | some q =>
    if s.ac ≤ q.issuedAt ∨ 16 ≤ a.ytop.length ∨ a.yfetchAc = s.ac + 1 then none else some (q, q.desc'.yAt q.yfetched)
  | none => none

/-- The lanes that come before the feeder's in the order of R347. -/
def State.aboveFeed (s : State) (c : CoreId) : Nat := s.vLanes c ||| s.csLanes c
/-- The lanes that the feeder is ready to take in this ac. -/
def State.feedLanes (s : State) (c : CoreId) : Nat :=
  let f (o : Option (ArrCmd × VecAt)) : Nat :=
    match o with
    | some (_, v) => if (s.aboveFeed c &&& v.lanes) ≠ 0 then 0 else (s.core c).freeLanes s.ac v.lanes
    | none => 0
  f (s.xReady c) ||| f (s.yReady c)

/-- The next X vector is fetched from activation memory when all its lanes are free. -/
def State.fetchX (s : State) (c : CoreId) : State :=
  match s.xReady c with
  | none => s
  | some (q, v) =>
    match s.claimDyn c s.ac v.lanes (s.aboveFeed c) with
    | (_, false) => s
    | (s, true) =>
      let (s, x, xs, p) := s.readVec c v
      let s := s.onArr c fun a =>
        { a with queue := onFirstCmd (· == q) (fun q => { q with fetched := q.fetched + 1 }) a.queue, fetchAc := s.ac + 1 }
      s.enterVec c q ⟨q.fetched, x, xs, [], [], p, 0, false⟩ (s.ac + v.wait)
/-- The next Y vector of an EWISE goes into the column-top queue (R128). -/
def State.fetchY (s : State) (c : CoreId) : State :=
  match s.yReady c with
  | none => s
  | some (q, v) =>
    match s.claimDyn c s.ac v.lanes (s.aboveFeed c) with
    | (_, false) => s
    | (s, true) =>
      let (s, y, ys, p) := s.readVec c v
      s.onArr c fun a =>
        { a with queue := onFirstCmd (· == q) (fun q => { q with yfetched := q.yfetched + 1 }) a.queue, yfetchAc := s.ac + 1
                 ytop := a.ytop ++ [⟨q.yfetched, y, ys, p, s.ac + v.wait, false⟩] }

/-- FEEDER_FETCH (R96, R128, R346, R350): the next vector is fetched from activation memory when the queues have room and all
its lanes are free, and beside it the next Y vector of an EWISE. -/
def execFeederFetch (c : CoreId) (s : State) : Host.Outcome State Fault Refusal := .next ((s.fetchX c).fetchY c)

/-- MESH_VECTOR_ARRIVE (R303, R304): a whole vector of flits has arrived for the PASS or EWISE at the head, which has a mesh
source; it enters the feeder queues in the ac after its last flit, or is discarded with its place kept. -/
def execMeshVectorArrive (c : CoreId) (s : State) : Host.Outcome State Fault Refusal :=
  .next (
    let a := s.arr c
    match a.headCmd s.ac with
    | none => s
    | some q =>
      let d := q.desc'
      let v := d.vflits q.isEw
      if !d.src || !q.feeds || decide (d.m ≤ q.fetched) || decide (a.flits.length < v) then s
      else
        let fs := a.flits.take v
        let b := fs.flatMap fun f => lineBytes f.2.payload
        let xn := d.elemBytes q.isEw
        let e := (fs.map Prod.fst).foldl max 0 + 1
        let s := s.onArr c fun a =>
          { a.setHead fun q => { q with fetched := q.fetched + 1 } with flits := a.flits.drop v }
        if 16 ≤ a.feeder.length + a.lost then
          (s.meshFault c 5).onArr c fun a => { a.setHead fun q => { q with spoiled := true } with lost := a.lost + 1 }
        else
          s.enterVec c q ⟨q.fetched, b.take xn, (b.drop xn).take (d.scaleBytes q.isEw), [], [], fs.any fun f => f.2.poison,
            0, false⟩ e)

/-- Room in queue 0 lets the zero vector of an overrun enter, poisoned (R304). -/
def State.refill (s : State) (c : CoreId) : State :=
  let a := s.arr c
  match a.queue with
  | [] => s
  | q :: _ =>
    if 0 < a.lost ∧ a.feeder.length < 16 then
      (s.onArr c fun a => { a with lost := a.lost - 1 }).enterVec c q
        ⟨q.fetched - a.lost, List.replicate (q.desc'.elemBytes q.isEw) 0,
         List.replicate (q.desc'.scaleBytes q.isEw) 0, [], [], true, 0, false⟩ (s.ac + 1)
    else s

/-! ### Releases and swaps (R97, R98, R102, R107 to R110, R125, R129, R135, R222) -/

/-- Whether a command changes the shape in force (R135). -/
def Arr.changes (a : Arr) (q : ArrCmd) : Bool := q.isEw != a.ew || (!q.isEw && q.desc'.shape != a.shapeNow)

/-- The ac in which a run completed; 0 for one that never ran. -/
def Run.end_ (r : Run) : Nat := if r.cmd.void then 0 else if r.degenerate then r.headAt + 3 else r.doneAt

/-- The array is empty and 8 ac have passed since the previous pass completed (R135).  DESIGN CHOICE: a degenerate command
counts as one (log 186). -/
def Arr.emptyFor (a : Arr) (now : Nat) : Bool :=
  let d := (a.runs.dropLast.map Run.end_).foldl max a.lastDone
  a.slots.isEmpty && a.drains.isEmpty && a.outs.isEmpty && a.mark.isNone && decide (a.crossUntil ≤ a.advAt now) &&
    (d == 0 || decide (d + 8 ≤ now))

/-- MCQ has room for this completion after those of every earlier command (R222). -/
def State.mcqRoom (s : State) (c : CoreId) : Bool :=
  ((s.core c).queue qMCQ).length + (s.arr c).runs.length ≤ qDepth qMCQ

/-- The ac x of the swap mark (R107). -/
def Arr.markAc (a : Arr) (h : Nat) : Nat :=
  if h ≤ a.lastRel then max a.lastRel (a.readyAt - 1) else max (h + 1) (a.readyAt - 1)

/-- The active registers all hold one tile. -/
def fullLayer (t : Tile) (h : Nat) : Layer := ⟨t, h, h + 129⟩

/-- The tile exchange with a mark at advancing ac `at_`: the slots after it meet the new tile, and the shadow holds the
previous one until the wave has crossed (R106, R108, R109). -/
def Arr.swap (a : Arr) (at_ : Nat) (bf : Bool) : Arr :=
  let h := shapeH a.shapeNow
  { a.setHead fun q => { q with swapTaken := true } with
      active := [fullLayer a.shadowTile h], old := a.active, swapped := true, shadow := .draining, shadowTile := Tile.zero
      mark := some ⟨at_, bf, h⟩ }
/-- A swap in the empty array, with no mark (R135).  DESIGN CHOICE: the shadow is FREE at once (log 185). -/
def Arr.swapEmpty (a : Arr) (h : Nat) : Arr :=
  { a.setHead fun q => { q with swapTaken := true } with
      active := [fullLayer a.shadowTile h], old := [], swapped := true, shadow := .free, shadowTile := Tile.zero, mark := none }

/-- The command at the head whose release is due in this ac (R98, R102, R109, R135, R222), after any swap it takes. -/
inductive Due where
  | no
  | bubble
  | slot
  deriving DecidableEq, Repr

/-- The first release that R102 allows. -/
def Arr.earliest (a : Arr) (h : Nat) : Nat := if h = a.lastRel then h + 1 else h + 2

/-- A first slot may leave: R102 and R222 allow it, and the cells have finished a BF16 slot before it (R125). -/
def State.mayStart (s : State) (c : CoreId) (h : Nat) : Bool :=
  let a := s.arr c
  decide (a.earliest h ≤ s.ac) && s.mcqRoom c && (!a.slotBf || decide (a.slotAdv + 4 ≤ s.adv c))

/-- What a PASS with swap = 1 releases in the shape in force before its first slot (R107, R109).  DESIGN CHOICE: a bubble
that carries the mark leaves in the first ac from x on in which the array advances, and the bubbles of a BF16 PASS leave one
an ac (log 184). -/
def State.dueSwap (s : State) (c : CoreId) (q : ArrCmd) (h : Nat) : Due × Arr :=
  let a := s.arr c
  let now := s.ac
  let x := a.markAc h
  let ready := q.started && a.shadow == .ready
  if ready && x == a.lastRel then (if s.mayStart c h then .slot else .no, a.swap a.lastRelAdv a.lastBf)
  else if ready && decide (x + 1 ≤ a.slotAc) then (if s.mayStart c h then .slot else .no, a.swap a.slotAdv q.isBf)
  else if ready && decide (x ≤ now) then (.bubble, a.swap (s.adv c) q.isBf)
  else (if h < now then .bubble else .no, a)

/-- What falls due for the head of the queue in this ac, and the array after the swap it may take. -/
def State.due (s : State) (c : CoreId) : Due × Arr :=
  let a := s.arr c
  match a.queue with
  | [] => (.no, a)
  | q :: _ =>
    let h := q.headAt.getD (s.ac + 1)
    if s.ac < h ∨ a.frozen s.ac ∨ a.slotAc = s.ac + 1 ∨ !q.feeds then (.no, a)
    else
      let first := match a.feeding with | some (_, r) => r.firstAt | none => none
      match first with
      | some f => (if q.isBf && (s.adv c - f) % 4 != 0 then .no else .slot, a)
      | none =>
        if a.changes q then
          if q.started ∧ a.emptyFor s.ac ∧ s.mayStart c h then
            let d := q.desc'
            let a := if d.swap then a.swapEmpty (shapeH d.shape) else a
            (.slot, { a with shapeNow := if q.isEw then a.shapeNow else d.shape, ew := q.isEw })
          else (.no, a)
        else if q.desc'.swap ∧ !q.swapTaken then
          (if a.shadow = .loading ∨ a.shadow = .ready then s.dueSwap c q h else (.no, a))
        else (if q.started ∧ s.mayStart c h then .slot else .no, a)

/-- The advancing ac from which a slot or bubble released in advancing ac `x` has crossed the array (R99, R125, R129). -/
def crossEnd (x : Nat) (ew bf : Bool) (h : Nat) : Nat :=
  if ew then x + 129 else x + (if bf then 4 else 1) * (h + 128) + 1

/-- A slot leaves queue 0, with a vector or without. -/
def Arr.slotOut (a : Arr) (now : Nat) (bf : Bool) : Arr :=
  { a with slotAc := now + 1, slotAdv := a.advAt now
           crossUntil := max a.crossUntil (crossEnd (a.advAt now) a.ew bf (shapeH a.shapeNow)) }

/-- A bubble leaves queue 0 (R98); `slot` says that it is a slot of its pass and not a bubble before the mark (R107). -/
def State.bubble (s : State) (c : CoreId) (bf slot : Bool) : State :=
  (s.onArr c fun a => { a.slotOut s.ac bf with slotBf := bf && slot }).count (.mx c) 0x24 1

/-- A vector leaves queue 0 (R97, R102), joined with its Y vector in an EWISE; an entry whose parity fails is poisoned
(R359). -/
def State.releaseVec (s : State) (c : CoreId) (q : ArrCmd) (r : Run) (v : Vec) : State :=
  let last := r.released + 1 = q.desc'.m
  let s := (s.entryParity c v.bad).aflags c (feedFlags q v)
  let s := s.onArr c fun a =>
    let a := a.onLastRun fun r =>
      { r with released := r.released + 1
               poison := r.poison || q.spoiled || (!q.isEw && a.active.any fun l => l.tile.poison) }
    let a := { a.slotOut s.ac q.isBf with
                 slotBf := q.isBf, feeder := a.feeder.tail, ytop := if q.isEw then a.ytop.tail else a.ytop
                 lastRel := s.ac, lastRelAdv := a.advAt s.ac, lastBf := q.isBf
                 slots := a.slots ++ [⟨r.serial, q, { v with poison := v.poison || v.bad }, a.active, a.advAt s.ac, [], []⟩] }
    if last then a.pop s.ac else a
  s.refill c

/-- The vector that can leave in this ac: the head of the feeder queues, and with it the head of the column-top queue in an
EWISE (R97, R128). -/
def Arr.ready (a : Arr) (q : ArrCmd) (now : Nat) : Option Vec :=
  match a.feeder with
  | [] => none
  | v :: _ =>
    if now < v.from_ + 1 then none
    else if q.isEw then
      match a.ytop with
      | [] => none
      | y :: _ =>
        if now < y.from_ + 1 then none
        else some { v with y := y.elems, yscales := y.scales, poison := v.poison || y.poison, bad := v.bad || y.bad }
    else some v

/-- SLOT_RELEASE (R97, R98, R102, R107, R135): the release that is due in this ac, a vector or a bubble. -/
def execSlotRelease (c : CoreId) (s : State) : Host.Outcome State Fault Refusal :=
  .next (
    match s.due c with
    | (.no, a) => s.onArr c fun _ => a
    | (.bubble, a) =>
      let bf := match a.queue with | q :: _ => q.isBf | [] => false
      (s.onArr c fun _ => a).bubble c bf false
    | (.slot, a) =>
      let s := s.onArr c fun _ => a
      let s := s.onArr c fun a => a.onLastRun fun r =>
        match r.firstAt with
        | some _ => r
        | none => { r with firstAt := some (s.adv c), firstAc := s.ac }
      match (s.arr c).feeding with
      | some (q, r) =>
        match (s.arr c).ready q s.ac with
        | some v => s.releaseVec c q r v
        | none => s.bubble c q.isBf true
      | none => s)

/-- The advancing ac in which the shadow becomes FREE after a mark (R109). -/
def Mark.done (m : Mark) : Nat := if m.bf then m.at_ + 4 * (m.h + 128) + 1 else m.at_ + m.h + 129

/-- SWAP_WAVE_DONE (R106, R109, R114, R115): the swap wavefront has left column 128 of the last row. -/
def execSwapWaveDone (c : CoreId) (s : State) : Host.Outcome State Fault Refusal :=
  .next (
    match (s.arr c).mark with
    | some m =>
      if (s.arr c).reached s.ac m.done && !(s.arr c).frozen s.ac then
        s.onArr c fun a => { a with shadow := .free, mark := none, old := [] }
      else s
    | none => s)

/-! ### Terms (R64 to R70, R81 to R83, R94, R99, R100, R108, R127) -/

/-- The tile whose contents cell (p, c) holds in its active registers (R108). -/
def cellTile (ls : List Layer) (p c : Nat) : Tile :=
  match ls.find? fun l => decide (p % l.h + c < l.reach) with
  | some l => l.tile
  | none => Tile.zero

/-- The physical row of stored element `i` of output column `n`, its cell column and its lane (R92, R93). -/
def MDesc.row (d : MDesc) (n i : Nat) : Nat := blockOfCol d.wfmt n * shapeH d.shape + i
def laneOfCol (wfmt n : Nat) : Nat := n % lanesOf wfmt

/-- The scale byte that the tap at the end of segment `seg` of column `n` of a pass holds (R104). -/
def tapScale (ls : List Layer) (d : MDesc) (seg n : Nat) : Nat :=
  let p := d.row n ((seg + 1) * segRows d.shape d.sparse - 1)
  let t := cellTile ls p (cellCol d.wfmt n)
  let (n', i') := t.place p (cellCol d.wfmt n) (laneOfCol d.wfmt n)
  t.scale n' (i' / segRows t.shape t.sparse)

/-- The activation that the cell multiplies by, as its dense position (R117): row r of its block serves position r, or in a 2:4
tile the position of its group that its index names. -/
def Tile.position (t : Tile) (p c l r : Nat) : Nat := if t.sparse then 4 * (r / 2) + t.sel p c l else r

/-- The product of a cell, as an exact integer (R64, R66, R117). -/
def cellProd (d : MDesc) (ls : List Layer) (v : Vec) (p c l : Nat) : Int :=
  let t := cellTile ls p c
  let k := t.position p c l (p % shapeH d.shape)
  if d.k ≤ k then 0
  else t.sig d.sw p c l * enterSig d.afmt (actScale d v k) (actCode d v k) (narrowed d.wfmt d.afmt)

/-- The C56 sum of a segment of column `n` (R64, R66, R117). -/
def segSum (d : MDesc) (ls : List Layer) (v : Vec) (seg n : Nat) : Int :=
  (List.range (segRows d.shape d.sparse)).foldl (fun acc j =>
    acc + cellProd d ls v (d.row n (seg * segRows d.shape d.sparse + j)) (cellCol d.wfmt n) (laneOfCol d.wfmt n)) 0

/-- The term of segment `seg` of column `n`, with its flags (R70). -/
def passTerm (d : MDesc) (ls : List Layer) (v : Vec) (seg n : Nat) : Int × Nat :=
  let nr := narrowed d.wfmt d.afmt
  let sw := if isBlockFmt d.wfmt then tapScale ls d seg n else d.sw
  let sa := actScale d v (seg * kseg d.shape d.sparse)
  term (segSum d ls v seg n) (enterQ d.wfmt nr + enterQ d.afmt nr + ((sw : Int) - 127) + ((sa : Int) - 127))
    (windowBase d.lbits)

/-- The term of element `i` of an EWISE (R127, R128). -/
def ewTerm (d : MDesc) (v : Vec) (i : Nat) : Int × Nat :=
  let nr := narrowed d.wfmt d.afmt
  let sw := yScale d v i
  let sa := actScale d v i
  term (enterSig d.wfmt sw (byteAt v.y i) nr * enterSig d.afmt sa (actCode d v i) nr)
    (enterQ d.wfmt nr + enterQ d.afmt nr + ((sw : Int) - 127) + ((sa : Int) - 127)) (windowBase d.lbits)

/-- The FP32 sum of a column of a BF16 pass: products of rows 0 to K − 1 in row order (R81). -/
def bfSum (d : MDesc) (ls : List Layer) (v : Vec) (n : Nat) : Nat :=
  match (List.range d.k).map fun r => bfMul ((cellTile ls r n).elem n r) (actCode d v r) with
  | [] => 0
  | p :: ps => ps.foldl fp32Add p

/-- A slot's tap for a segment of a column, and the advancing ac after its release in which that cell processes it
(R94, R99, R125, R129).  DESIGN CHOICE: the scalers of tap 7 form the terms of an EWISE, which R146 then names (log 188). -/
def Slot.tap (sl : Slot) (seg n : Nat) : Nat :=
  let d := sl.cmd.desc'
  if sl.cmd.isEw then 7 else tapOf d.shape d.sparse (blockOfCol d.wfmt n) (if sl.cmd.isBf then 3 else seg)
def Slot.outTap (sl : Slot) (n : Nat) : Nat :=
  let d := sl.cmd.desc'
  if sl.cmd.isEw then 7 else lastTap d.shape (blockOfCol d.wfmt n)
def Slot.lane (sl : Slot) (n : Nat) : Nat := if sl.cmd.isEw then 0 else laneOfCol sl.cmd.desc'.wfmt n
def Slot.col (sl : Slot) (n : Nat) : Nat := if sl.cmd.isEw then n else cellCol sl.cmd.desc'.wfmt n
def Slot.rate (sl : Slot) : Nat := if sl.cmd.isBf then 4 else 1
def Slot.cellAt (sl : Slot) (seg n : Nat) : Nat :=
  if sl.cmd.isEw then sl.at_ + n + 1
  else sl.at_ + sl.rate * ((16 * sl.tap seg n + 15) % shapeH sl.cmd.desc'.shape + sl.col n + 1)
/-- The advancing ac in which the word of column `n` is written (R100, R125, R129). -/
def Slot.writeAt (sl : Slot) (n : Nat) : Nat :=
  if sl.cmd.isEw then sl.at_ + 134 else sl.at_ + sl.rate * (shapeH sl.cmd.desc'.shape + sl.col n + 6)
/-- Terms per column (R94). -/
def Slot.segs (sl : Slot) : Nat :=
  let d := sl.cmd.desc'
  if sl.cmd.isEw ∨ sl.cmd.isBf then 1 else nseg d.shape d.sparse d.k

def Slot.formedOf (sl : Slot) (n : Nat) : List (Nat × W128) := Store.get [] sl.chain n
/-- Whether a slot waits for the term of a segment of a column, and has reached its tap. -/
def Slot.wants (sl : Slot) (seg n now : Nat) : Bool :=
  decide (n < sl.cmd.desc'.n) && decide (seg < sl.segs) && !((sl.formedOf n).any fun p => p.1 == seg) &&
    decide (sl.cellAt seg n < now)
/-- The comparisons of the check column: one for each segment of each block used (R121, R126). -/
def Slot.checkTaps (sl : Slot) : List (Nat × Nat) :=
  let d := sl.cmd.desc'
  if sl.cmd.isEw ∨ sl.cmd.isBf then []
  else (List.range (blocksUsed d.wfmt d.n)).flatMap fun j =>
    (List.range sl.segs).map fun g => (g, tapOf d.shape d.sparse j g)
/-- A slot has left the array: every term is formed and every comparison made. -/
def Slot.finished (sl : Slot) : Bool :=
  ((List.range sl.cmd.desc'.n).all fun n => (sl.formedOf n).length == sl.segs) &&
    (sl.checkTaps.all fun p => sl.checks.contains p)

/-- Applies `f` to the first slot that satisfies `p`. -/
def onFirst (p : Slot → Bool) (f : Slot → Slot) : List Slot → List Slot
  | [] => []
  | x :: t => if p x then f x :: t else x :: onFirst p f t

def Arr.onRun (a : Arr) (n : Nat) (f : Run → Run) : Arr :=
  { a with runs := a.runs.map fun r => if r.serial = n then f r else r }

/-- A CHECK fault (R122, R123, R146). -/
def State.checkFault (s : State) (c : CoreId) (run m tap scaler : Nat) : State :=
  let before := ((s.arr c).runs.filter fun r => r.serial < run && !r.cmd.void).length
  let seq := (s.reg (.mx c) 0x20 + before + 1) % 256
  let s := if s.reg (.mx c) 0x08 % 2 = 0 then
      s.setReg (.mx c) 0x14 (seq * 2 ^ 24 + m % 65536 * 2 ^ 8 + tap * 2 ^ 5 + scaler) else s
  ((s.mxFault c mxCheck).count (.mx c) 0x2C 1).onArr c fun a => a.onRun run fun r => { r with poison := true }

/-- The contribution of a column and vector leaves its last tap: to the drain buffer, or towards the mesh (R90, R94, R306).
DESIGN CHOICE: a BF16 PASS with dst = 1 sends its FP32 sums as words (log 189). -/
def State.contribute (s : State) (c : CoreId) (sl : Slot) (n : Nat) (w : W128) (fp : Bool) : State :=
  let d := sl.cmd.desc'
  let p := sl.vec.poison || sl.cmd.poison || (!sl.cmd.isEw && sl.tile.any fun l => l.tile.poison)
  s.onArr c fun a =>
    if d.dst then { a with outs := a.outs ++ [.word sl.run (sl.writeAt n) d.dstDir n w p] }
    else { a with drains := a.drains ++ [⟨sl.run, sl.outTap n, sl.col n, sl.lane n, d.base + sl.vec.m * d.stride + n, w, fp, p,
                                         sl.writeAt n, 0, false⟩] }

/-- The advancing ac in which the last comparison of a slot's vector completes, in a dense pass whether or not its rows and
columns are all used (R100, R134). -/
def Slot.endAt (sl : Slot) : Nat := if sl.cmd.isEw ∨ sl.cmd.isBf then 0 else sl.at_ + shapeH sl.cmd.desc'.shape + 129

/-- The slots that have left the array by the end of an ac, and the ac in which their runs last did anything. -/
def Arr.sweep (a : Arr) (now : Nat) : Arr :=
  let gone (sl : Slot) : Bool := sl.finished && a.reached now sl.endAt
  let out := a.slots.filter gone
  if out.isEmpty then a
  else
    { a with slots := a.slots.filter fun sl => !gone sl
             runs := a.runs.map fun r => if out.any fun sl => sl.run == r.serial then { r with doneAt := max r.doneAt now } else r }

/-- The term that a scaler forms for a slot, as a W128 word with its flags. -/
def Slot.formTerm (sl : Slot) (seg n : Nat) : W128 × Nat :=
  let d := sl.cmd.desc'
  if sl.cmd.isBf then (BitVec.ofNat 128 (bfSum d sl.tile sl.vec n), 0)
  else
    let (t, f) := if sl.cmd.isEw then ewTerm d sl.vec n else passTerm d sl.tile sl.vec seg n
    (BitVec.ofInt 128 t, f)

/-- TERM_FORMATION (R70, R94, R123): the scaler forms the term of a segment of output column `n` for the oldest vector
that has reached its tap; the last term of a column sends its contribution. -/
def execTermFormation (c : CoreId) (seg : Fin 8) (n : Fin 2048) (scalerDiffers : Bool) (s : State) :
    Host.Outcome State Fault Refusal :=
  .next (
    let a := s.arr c
    if a.frozen s.ac then s
    else
      match a.slots.find? fun sl => sl.wants seg.val n.val (s.adv c) with
      | none => s
      | some sl =>
        let (w, f) := sl.formTerm seg.val n.val
        let s := s.aflags c f
        let s := if scalerDiffers ∧ !sl.cmd.isBf then s.checkFault c sl.run sl.vec.m (sl.tap seg.val n.val) 1 else s
        let terms := sl.formedOf n.val ++ [(seg.val, w)]
        let sl' := { sl with chain := Store.set [] sl.chain n.val terms }
        let s := s.onArr c fun a => { a with slots := onFirst (fun x => x == sl) (fun _ => sl') a.slots }
        if terms.length = sl.segs then s.contribute c sl n.val (terms.foldl (fun x p => x + p.2) 0) sl.cmd.isBf else s)

/-- The product of a check cell in physical row `p` (R119 to R121): its operands are those of the tile that the cell holds, and
in a 2:4 tile it multiplies two by the activations of their two positions. -/
def checkProd (d : MDesc) (ls : List Layer) (v : Vec) (p : Nat) : Int :=
  let t := cellTile ls p 128
  let ops := t.checks.getD p (0, 0)
  let act (k : Nat) : Int :=
    if d.k ≤ k then 0 else enterSig d.afmt (actScale d v k) (actCode d v k) (narrowed d.wfmt d.afmt)
  let r := p % shapeH d.shape
  if isTensorFmt d.wfmt ∧ d.sw = 0xFF then 0
  else if t.sparse then ops.1.toInt * act (2 * r) + ops.2.toInt * act (2 * r + 1)
  else ops.1.toInt * act r

/-- The two sums that are compared at a tap (R121), each on a 72-bit chain: that of the check column, and that of the C56 sums
of columns 0 to 127 and both lanes. -/
def Slot.checkSums (sl : Slot) (tap : Nat) : BitVec 72 × BitVec 72 :=
  let d := sl.cmd.desc'
  let rows := (List.range (segRows d.shape d.sparse)).map fun j => 16 * tap + 15 - j
  (BitVec.ofInt 72 ((rows.map fun p => checkProd d sl.tile sl.vec p).foldl (· + ·) 0),
   BitVec.ofInt 72 ((rows.map fun p => rowSum (lanesOf d.wfmt) fun c l => cellProd d sl.tile sl.vec p c l).foldl (· + ·) 0))

/-- CHECK_COMPARE (R121, R122): the comparison of one segment at one tap for the oldest vector that awaits it; `error` is
the difference that a physical fault has put between the two sums. -/
def execCheckCompare (c : CoreId) (seg : Fin 8) (tap : BitVec 3) (error : Int) (s : State) :
    Host.Outcome State Fault Refusal :=
  .next (
    let a := s.arr c
    let key := (seg.val, tap.toNat)
    let ready (sl : Slot) : Bool := sl.checkTaps.contains key && !sl.checks.contains key &&
      decide (sl.at_ + (16 * tap.toNat + 15) % shapeH sl.cmd.desc'.shape + 130 ≤ s.adv c)
    if a.frozen s.ac then s
    else
      match a.slots.find? ready with
      | none => s
      | some sl =>
        let s := s.onArr c fun a =>
          { a with slots := onFirst (fun x => x == sl) (fun x => { x with checks := x.checks ++ [key] }) a.slots }
        let sums := sl.checkSums tap.toNat
        if sums.1 + BitVec.ofInt 72 error ≠ sums.2 then s.checkFault c sl.run sl.vec.m tap.toNat 0 else s)

/-! ### Drains, freezes and completions (R90, R103, R111 to R115, R131, R221) -/

/-- One word of the drain: overwritten by the first write of a run with acc = 0, added to otherwise (R70, R82, R358). -/
def State.drainWord (s : State) (c : CoreId) (r : Run) (e : Drain) : State :=
  let ov := !r.cmd.desc'.acc && !(Store.get false r.words e.word)
  if ov then s.psmWrite c e.word e.val e.poison
  else if e.fp32 then
    let (s, old, q) := s.psmRead c e.word
    s.psmWrite c e.word (BitVec.ofNat 128 (fp32Add (old.toNat % 2 ^ 32) e.val.toNat)) (q || e.poison)
  else s.psmAdd c e.word e.val e.poison

/-- Whether an entry is in its drain buffer (log 182). -/
def Arr.inBuffer (a : Arr) (now : Nat) (e : Drain) : Bool := a.reached now (e.at_ - 1)
/-- The name of an entry's drain buffer. -/
def Drain.buffer (e : Drain) : Nat := 2 * (128 * e.tap + e.col) + e.lane
/-- The drain writes that a buffer and a bank have made in this ac: two at most in each (R354, section "Drain
back-pressure"). -/
def State.drainFull (s : State) (c : CoreId) (e : Drain) : Bool :=
  decide (2 ≤ ((s.arr c).drained.filter fun u => u.1 == s.ac && u.2 == e.buffer).length) ||
    decide (2 ≤ ((s.core c).psmNow.filter fun u => u.at_ == s.ac && u.kind == .drain && psmBank u.word == psmBank e.word).length)
/-- Whether the write of an entry may take place in this ac: nothing of R111 holds it. -/
def State.drainOpen (s : State) (c : CoreId) (e : Drain) : Bool :=
  decide (e.at_ ≤ s.adv c) && decide (e.wait ≤ s.ac) && !s.vBank c e.word && !s.psmScrubAc && !s.drainFull c e
/-- An accumulating write that finds a single-bit error waits 2 ac for its correction (R111). -/
def State.drainCorrects (s : State) (c : CoreId) (r : Run) (e : Drain) : Bool :=
  (r.cmd.desc'.acc || Store.get false r.words e.word) && e.wait == 0 && (s.psmErrs c e.word).any fun x => x.2 == .one

/-- The oldest entry of one of the two buffers of a tap's column that may be written in this ac. -/
def State.drainPick (s : State) (c : CoreId) (tap col : Nat) : Option Drain :=
  (List.range 2).findSome? fun lane =>
    match (s.arr c).drains.find? fun e => e.buffer == 2 * (128 * tap + col) + lane with
    | some e => if s.drainOpen c e then some e else none
    | none => none

/-- DRAIN_WRITE (R90, R100, R111, R354): the oldest entry of a drain buffer whose write is due goes to the partial-sum
memory. -/
def execDrainWrite (c : CoreId) (col : Fin 128) (tap : BitVec 3) (s : State) : Host.Outcome State Fault Refusal :=
  .next (
    match s.drainPick c tap.toNat col.val with
    | none => s
    | some e =>
      match (s.arr c).runs.find? fun r => r.serial == e.run with
      | none => s
      | some r =>
        if s.drainCorrects c r e then
          s.onArr c fun a => { a with drains := a.drains.map fun x => if x == e then { x with wait := s.ac + 2 } else x }
        else
          let (s, clash) := s.psmMeet c e.word .drain
          let s := s.entryParity c e.bad
          (s.drainWord c r { e with poison := e.poison || clash || e.bad }).onArr c fun a =>
            { a with drains := a.drains.erase e
                     drained := (a.drained.filter fun (u : Nat × Nat) => u.1 == s.ac) ++ [(s.ac, e.buffer)] }.onRun e.run fun r =>
              { r with words := Store.set false r.words e.word true, doneAt := max r.doneAt s.ac })

/-- The largest occupancy of a drain buffer. -/
def Arr.drainMax (a : Arr) (now : Nat) : Nat :=
  let es := a.drains.filter fun e => a.inBuffer now e
  (es.map fun e => (es.filter fun x => x.buffer == e.buffer).length).foldl max 0

/-- ARRAY_FREEZE (R112): at the end of the ac before, t, a drain buffer held 12 or more entries, so the array is frozen from
ac t + 2. -/
def execArrayFreeze (c : CoreId) (s : State) : Host.Outcome State Fault Refusal :=
  .next (
    let a := s.arr c
    if a.freezeAt.isNone ∧ 12 ≤ a.drainEnd then s.onArr c fun a => { a with freezeAt := some (s.ac + 1), thawAt := none }
    else s)

/-- ARRAY_THAW (R113): at the end of the ac before, u, in which the array was frozen, every drain buffer held 9 or fewer, so it
advances again from ac u + 2. -/
def execArrayThaw (c : CoreId) (s : State) : Host.Outcome State Fault Refusal :=
  .next (
    let a := s.arr c
    if a.frozen (s.ac - 1) ∧ a.thawAt.isNone ∧ a.drainEnd ≤ 9 then s.onArr c fun a => { a with thawAt := some (s.ac + 1) }
    else s)

/-- A word of a run that has yet to leave into the mesh. -/
def ArrOut.ofRun (o : ArrOut) (n : Nat) : Bool := match o with | .word r .. => r == n | .flit .. => false

/-- Whether the oldest command has completed and its completion may be signalled (R101, R103, R131, R140). -/
def State.runDone (s : State) (c : CoreId) (r : Run) : Bool :=
  let a := s.arr c
  r.cmd.void ||
    (if r.degenerate then r.zeroed && decide (r.headAt + 4 ≤ s.ac)
     else r.released == r.cmd.desc'.m && !(a.slots.any fun x => x.run == r.serial) &&
       !(a.drains.any fun e => e.run == r.serial) && !(a.outs.any fun o => o.ofRun r.serial) && decide (r.doneAt < s.ac))

/-- The output words of a degenerate command with acc = 0 read as exact +0 (R131). -/
def State.zeroWords (s : State) (c : CoreId) (d : MDesc) (p : Bool) : State :=
  if d.acc || d.dst then s
  else (List.range d.m).foldl (fun s m =>
    (List.range d.n).foldl (fun s n => s.psmWrite c ((d.base + m * d.stride + n) % 131072) 0 p) s) s

/-- From the fourth ac after its start on, the words of a degenerate command read +0, and the command is gone from the head
of the queue (R131). -/
def State.zeroStep (s : State) (c : CoreId) : State :=
  let dueNow (r : Run) : Bool := r.degenerate && !r.zeroed && decide (r.headAt + 4 ≤ s.ac)
  let rs := (s.arr c).runs.filter dueNow
  if rs.isEmpty then s
  else
    let s := rs.foldl (fun s r => s.zeroWords c r.cmd.desc' r.cmd.poison) s
    s.onArr c fun a =>
      { a with runs := a.runs.map fun r => if dueNow r then { r with zeroed := true } else r
               queue := match a.queue with
                 | q :: _ => if q.started && q.isDegenerate then (a.pop (q.headAt.getD 0 + 4)).queue else a.queue
                 | [] => [] }

/-! ### What a PASS sends into the mesh (R305, R306) -/

/-- Puts a word into a flit, beside words already there (R306). -/
def mergeWord (f : Flit) (n : Nat) (w : W128) (p : Bool) : Flit :=
  { f with payload := ofWords ((List.range 4).map fun q => if q = n then w else flitWord f q)
           poison := f.poison || p, wv := f.wv ||| BitVec.ofNat 4 (2 ^ n) }

/-- The words of one run that have reached their ac, oldest first: those of one flit. -/
def Arr.wordsDue (a : Arr) (now run : Nat) : List (Nat × Nat × W128 × Bool × Nat) :=
  let ws := a.outs.filterMap fun o =>
    match o with
    | .word r t side n w p => if r == run && a.reached now t then some (side, n, w, p, t) else none
    | _ => none
  match ws with
  | [] => []
  | w :: rest => let t := rest.foldl (fun m x => min m x.2.2.2.2) w.2.2.2.2; ws.filter fun x => x.2.2.2.2 == t

/-- The flit of a run with dst = 1 that leaves in the ac after this one; its seq counts from the first release of the pass
(R306). -/
def State.wordsOut (s : State) (c : CoreId) (r : Run) : State :=
  match (s.arr c).wordsDue s.ac r.serial with
  | [] => s
  | w :: rest =>
    let f := (w :: rest).foldl (fun f x => mergeWord f x.2.1 x.2.2.1 x.2.2.2.1) ⟨0, false, 0, BitVec.ofNat 6 (s.ac - r.firstAc)⟩
    let t := w.2.2.2.2
    let gone (o : ArrOut) : Bool := match o with | .word q u .. => q == r.serial && u == t | .flit .. => false
    let s := s.onArr c fun a =>
      { a with outs := a.outs.filter fun o => !gone o }.onRun r.serial fun r => { r with doneAt := max r.doneAt s.ac }
    s.sendFlit c (sideOf w.1) (s.ac + 1) rankPass f

/-- What the end of an ac sends from the array into the mesh for the next ac. -/
def State.arrOut (s : State) (c : CoreId) : State :=
  let s := (s.arr c).runs.foldl (fun s r => s.wordsOut c r) s
  let leaves (o : ArrOut) : Bool := match o with | .flit t .. => decide (t ≤ s.ac + 1) | .word .. => false
  let fs := (s.arr c).outs.filter leaves
  let s := s.onArr c fun a => { a with outs := a.outs.filter fun o => !leaves o }
  fs.foldl (fun s o => match o with | .flit _ side f => s.sendFlit c (sideOf side) (s.ac + 1) rankPass f | .word .. => s) s

/-- The end of an ac in the array: what leaves it, the slots that have crossed, and the occupancy that the freeze looks at. -/
def State.arrEnd (s : State) (c : CoreId) : State :=
  (s.arrOut c).onArr c fun a => let a := a.sweep s.ac; { a with drainEnd := a.drainMax s.ac }

/-- PASS_COMPLETE (R103, R131, R140, R147, R209, R221): the oldest command signals its completion and pushes its token into
MCQ. -/
def execPassComplete (c : CoreId) (s : State) : Host.Outcome State Fault Refusal :=
  .next (
    match (s.arr c).runs with
    | [] => s
    | r :: rest =>
      if !s.runDone c r || !s.qOpen c qMCQ then s
      else
        let s := s.onArr c fun a => { a with runs := rest, lastDone := max a.lastDone r.end_ }
        let s := if r.cmd.void then s else s.count (.mx c) 0x20 1
        s.qPush c qMCQ r.cmd.token (r.poison || r.cmd.poison) 0)

/-- MX_STATUS.busy (R143): a command is queued, or a slot, bubble, mark, term or load is in the array. -/
def Arr.busy (a : Arr) (now : Nat) : Bool :=
  !a.queue.isEmpty || !a.overflow.isEmpty || !a.slots.isEmpty || decide (a.advAt now < a.crossUntil) || !a.drains.isEmpty ||
    !a.outs.isEmpty || a.shadow == .loading || a.mark.isSome || a.drainAt.isSome
/-- The vectors in feeder queue 0 (R143). -/
def Arr.feedLevel (a : Arr) (now : Nat) : Nat := (a.feeder.filter fun v => decide (v.from_ ≤ now)).length

/-! ### MX_CTRL.drain (R20, R141, R145) -/

/-- The active registers when a drain stops a swap wavefront: the cells that the mark has passed hold the new tile, and the
others the old one (R108, R145). -/
def Arr.stopped (a : Arr) (now : Nat) : List Layer :=
  match a.mark, a.active with
  | some m, l :: _ =>
    let d := a.advAt now - m.at_ - 1
    { l with reach := if m.bf then d / 4 else d } :: a.old
  | _, ls => ls

/-- Everything in the array is discarded, what has yet to leave into the mesh with it. -/
def Arr.discard (a : Arr) (now : Nat) : Arr :=
  { Arr.reset with shapeNow := a.shapeNow, ew := a.ew, active := a.stopped now, swapped := a.swapped
                   lastDone := a.lastDone, nextRun := a.nextRun, frozenAc := a.frozenAc, slotAc := a.slotAc
                   drainAt := some (now + 4) }

/-- The array drains (R141). -/
def State.arrDrain (s : State) (c : CoreId) : State := (s.onArr c fun a => a.discard s.ac).orReg (.mx c) 0x0C 1

/-- A 1 written to MX_CTRL.drain (R20, R145).  DESIGN CHOICE: a command that issues while the field is busy is accepted and
runs (log 187). -/
def State.mxDrain (s : State) (c : CoreId) : State :=
  if s.reg (.mx c) 0x0C % 2 = 1 then s.mxFault c mxBusy else s.arrDrain c

/-- MX_CTRL_DRAIN (R20, R141, R145). -/
def execMxCtrlDrain (c : CoreId) (s : State) : Host.Outcome State Fault Refusal := .next (s.mxDrain c)

/-- ARRAY_DRAIN_DONE (R145): in the fourth ac after the write the discard is complete and the field clears. -/
def execArrayDrainDone (c : CoreId) (s : State) : Host.Outcome State Fault Refusal :=
  .next (
    match (s.arr c).drainAt with
    | some t =>
      if t ≤ s.ac then (s.onArr c fun a => { a with drainAt := none }).setFld (.mx c) 0x0C 0 0 0 else s
    | none => s)

end Sys2Proof.Machine
end

