-- ==== Sys2Proof/Machine/Vector.lean ====
section
/-! DEFINITION. The vector unit: operands, operations, latencies, faults and results (R148 to R184, R264 to R273). -/

namespace Sys2Proof.Machine

/-! ### Latency (R152, R154, R177) -/

def VOp.latency (op : VOp) (v : VSlot) : Nat :=
  match op with
  | .mov | .abs | .neg | .max | .min | .cmp | .sel => 2
  | .cvt => if v.dam ∧ isBlockFmt v.target then 5 else 3
  | .add | .sub | .mul | .fma => 4
  | .rand => 6
  | .recip | .rsqrt => 8
  | .scanmax | .exp | .expd => 10
  | .scansum | .moments => 14

/-- Λ of an instruction. -/
def VOp.lambda (op : VOp) (v : VSlot) : Nat :=
  (if op.fromAm v then (if v.amFar then 7 else 4) else if op.fromPsm v then 4 else 0) + op.latency v

/-! ### Reading the sources -/

/-- The lanes that an instruction evaluates; VSEL is never masked (R158, R166). -/
def State.vMask (s : State) (c : CoreId) (op : VOp) (v : VSlot) (j : Nat) : Bool :=
  op == .sel || !v.maskEn || ((Store.get 0 (s.core c).vm v.maskK.toNat).getLsbD j)

/-- The lanes of the wide operand, with poison; `m` says which lanes are evaluated and so raise flags (R153, R160).  A read of
partial-sum words sees them as they stood at the start of the ac, and is noted for the drain (R111, R155). -/
def State.wideLanes (s : State) (c : CoreId) (v : VSlot) (m : Nat → Bool) : State × List Nat × Bool :=
  if v.kind = 2 then
    let en := planeBytes v.amF
    let sn := v.scaleBytes
    let mask := laneMask v.amA en ||| (if sn = 0 then 0 else laneMask (8 * v.aux) sn)
    let (s, eb, sb, p) :=
      match s.claim c s.ac mask with
      | (s, true) =>
        let (s, eb, p) := s.amRead c v.amA en
        let (s, sb, q) := if sn = 0 then (s, [], false) else s.amRead c (8 * v.aux) sn
        (s, eb, sb, p || q)
      | (s, false) => (s.amConflict c, List.replicate en 0, List.replicate sn 0, true)
    let rs := (List.range 256).map fun j =>
      let sc := if isBlockFmt v.amF then byteAt sb (j / 32) else v.aux % 256
      fromElem v.amF sc (bitField eb (elemBits v.amF * j) (elemBits v.amF))
    let fl := (rs.zipIdx.filter fun r => m r.2).foldl (fun a r => a ||| r.1.fl) 0
    (s.vflags c fl, rs.map VR.bits, p)
  else
    let (s, ws, p) := (List.range 256).foldl (fun (a : State × List W128 × Bool) j =>
      let (s, w, q) := a.1.psmReadOld c (v.psmW + j)
      (s, a.2.1 ++ [w], a.2.2 || q)) (s.psmNote c v.psmW .vread, [], false)
    if v.kind = 1 then (s, ws.map fun w => w.toNat % 2 ^ 32, p)
    else
      let L := windowBase v.psmL
      let rs := ws.map fun w => w128ToFp w L
      let fl := (rs.zipIdx.filter fun r => m r.2).foldl (fun a r => a ||| r.1.fl) 0
      let out := ws.zipIdx.any fun w => m w.2 && outOfWindow w.1.toInt
      let s := if out then s.aflags c afRangeFinal else s
      (s.vflags c fl, rs.map VR.bits, p)

/-- The lanes of one source (R152). -/
def State.srcLanes (s : State) (c : CoreId) (v : VSlot) (wide : List Nat × Bool) (x : BitVec 11) : List Nat × Bool :=
  let b := srcBuf x
  let r := srcRow x
  if srcMode x = 0 then (s.tbRow c b r, s.tbPois c b r)
  else if srcMode x = 1 then (List.replicate 256 (s.tbLane c b r v.lane.toNat), s.tbPois c b r)
  else if srcMode x = 2 then (List.replicate 256 v.imm, false)
  else wide

/-! ### Operations (R162 to R169, R173 to R175) -/

/-- A NaN that an operation delivers is the canonical one (R60, R164). -/
def canonNaN (a : Nat) : Nat := if fpDecode a = .nan then fpNaN else a

/-- A lane-wise operation; `m` is the lane's selector bit of VSEL. -/
def VOp.lane (op : VOp) (v : VSlot) (m : Bool) (a b c : Nat) : VR :=
  let bf := v.prec
  match op with
  | .add => fpAdd bf a b
  | .sub => fpSub bf a b
  | .mul => fpMul bf a b
  | .fma => fpFma bf a b c
  | .abs => .ok (fpAbs a)
  | .neg => .ok (fpNeg a)
  | .max => .ok (fpMax a b)
  | .min => .ok (fpMin a b)
  | .recip => fpRecip bf a
  | .rsqrt => fpRsqrt bf a v.imm
  | .exp => fpExp bf a
  | .expd => fpExpd bf a b
  | .cmp => .ok (if fpCmp v.pred a b then fpOne else 0)
  | .sel => .ok (if m then a else b)
  | .cvt => if v.target = 7 then fpToBf a else .ok (canonNaN a)
  | _ => .ok a

/-- One stage of the scan network, with the flags of its additions (R167, R168). -/
def scanStage (op : Nat → Nat → VR) (d : Nat) (y : List Nat) : List Nat × Nat :=
  let rs := List.zipWith op y (y.drop d)
  (y.take d ++ rs.map VR.bits, rs.foldl (fun a r => a ||| r.fl) 0)

/-- The inclusive prefix of R167. -/
def scan (op : Nat → Nat → VR) (y : List Nat) : List Nat × Nat :=
  (List.range 8).foldl (fun a k => let (z, f) := scanStage op (2 ^ k) a.1; (z, a.2 ||| f)) (y, 0)

/-- Lane 0 meets no addition, so its NaN is made canonical before the network (R164). -/
def scanSum (bf : Bool) (y : List Nat) : List Nat × Nat := scan (fpAdd bf) (y.map canonNaN)
def scanMax (y : List Nat) : List Nat × Nat := scan (fun a b => .ok (fpMax a b)) (y.map canonNaN)

def rotl32 (v n : Nat) : Nat := v * 2 ^ n % 2 ^ 32 + v / 2 ^ (32 - n)

/-- One round of the generator (R174): rotations and the round number. -/
def rngRound (k : Nat) (x : Nat × Nat × Nat × Nat) (r : Nat × Nat × Nat) : Nat × Nat × Nat × Nat :=
  let (x0, x1, x2, x3) := x
  let (a, b, i) := r
  let x0 := (x0 + x1 + k) % 2 ^ 32
  let x3 := rotl32 (x3 ^^^ x0) a
  let x2 := (x2 + x3 + i) % 2 ^ 32
  let x1 := rotl32 (x1 ^^^ x2) b
  (x0, x1, x2, x3)

def rngRounds : List (Nat × Nat × Nat) :=
  [(7, 16, 0), (13, 12, 1), (19, 8, 2), (25, 24, 3), (11, 14, 4), (5, 6, 5), (17, 20, 6), (23, 10, 7), (9, 26, 8),
   (29, 18, 9)]

/-- u of R174. -/
def rngValue (seedLo seedHi posLo posHi stream : Nat) : Nat :=
  let x := rngRounds.foldl (fun x r => rngRound (if r.2.2 % 2 = 0 then seedLo else seedHi) x r)
    (posLo, posHi, stream, 0x9E6A3C15)
  x.1 ^^^ x.2.2.1

/-- The FP32 value that VRAND delivers (R175). -/
def rngFp (symmetric : Bool) (u : Nat) : Nat :=
  let n : Int := (u / 256 : Nat)
  let x : Int := if symmetric then n - 2 ^ 23 else n
  (fpRound false (x < 0) x.natAbs (if symmetric then -23 else -24)).bits

/-! ### Results (R150, R157 to R161, R172, R178, R180) -/

/-- Puts a result on its way. -/
def State.addRes (s : State) (c : CoreId) (due : Nat) (d : VDest) (lanes : List (Option Word32)) (p : Bool) : State :=
  s.onCore c fun k => { k with vres := k.vres ++ [⟨due, 0, d, lanes, p⟩] }

/-- The lanes that a result writes (R159, R161): evaluated lanes, and +0 in masked lanes when zm = 1. -/
def resLanes (zm : Bool) (m : Nat → Bool) (xs : List Nat) : List (Option Word32) :=
  xs.zipIdx.map fun x => if m x.2 then some (BitVec.ofNat 32 x.1) else if zm then some 0 else none

/-- A row result. -/
def State.rowRes (s : State) (c : CoreId) (op : VOp) (v : VSlot) (row : Nat) (m : Nat → Bool) (xs : List Nat)
    (p : Bool) : State :=
  s.addRes c (s.ac + op.lambda v) (.row v.dstB row) (resLanes (v.zm && op != .sel) m xs) p

/-- The codes and scale bytes of a conversion into activation memory (R79, R80, R160, R170 to R172). -/
def cvtCodes (f scale : Nat) (xs : List (Option Nat)) : List Nat × List Byte × Nat :=
  if isBlockFmt f then
    (chunksOf 32 8 xs).foldl (fun (a : List Nat × List Byte × Nat) g =>
      let (sc, es, fl) := toBlock f g
      (a.1 ++ es, a.2.1 ++ [BitVec.ofNat 8 sc], a.2.2 ||| fl)) ([], [], 0)
  else
    let rs := xs.map fun o =>
      match o with
      | some x => if f = 7 then (let r := fpToBf x; (⟨r.bits / 65536, r.fl⟩ : VR)) else toTensorElem f scale x
      | none => ⟨0, 0⟩
    (rs.map VR.bits, [], rs.foldl (fun a r => a ||| r.fl) 0)

/-- A VCVT into activation memory (R172, R178, R346, R348). -/
def State.cvtToAm (s : State) (c : CoreId) (v : VSlot) (m : Nat → Bool) (xs : List Nat) (p : Bool) : State :=
  let f := v.target
  let due := s.ac + VOp.cvt.lambda v
  let en := planeBytes f
  let sn := v.scaleBytes
  let (codes, scales, fl) := cvtCodes f (v.aux % 256) (xs.zipIdx.map fun x => if m x.2 then some x.1 else none)
  let s := s.vflags c fl
  let mask := laneMask v.amA en ||| (if sn = 0 then 0 else laneMask (8 * v.aux) sn)
  match s.claim c (due - 1) mask with
  | (s, true) =>
    s.addRes c due
      (.am v.amA (elemBits f) (codes.zipIdx.map fun x => if m x.2 then some x.1 else if v.zm then some 0 else none)
        (8 * v.aux) scales) [] p
  | (s, false) =>
    let s := s.addTimed c ⟨due - 1, v.amA, true, .put (List.replicate en 0) true⟩
    if sn = 0 then s else s.addTimed c ⟨due - 1, 8 * v.aux, true, .put (List.replicate sn 0) true⟩

/-- A seed register as a VRAND of this ac sees it: a write of the same ac is not seen (R183). -/
def State.vuReg (s : State) (c : CoreId) (off : Nat) : Nat := s.startReg c (.vu c) off

/-- The effect of a V instruction that does not fault (R272). -/
def State.vRun (s : State) (c : CoreId) (op : VOp) (v : VSlot) : State :=
  let m := s.vMask c op v
  let (s, w) : State × (List Nat × Bool) :=
    if op.wide v then (let (s, xs, p) := s.wideLanes c v m; (s, (xs, p))) else (s, ([], false))
  let src (x : BitVec 11) : List Nat × Bool := s.srcLanes c v w x
  let ps := (op.sources v).any fun x => (src x).2
  let a := (src v.a).1
  let b := if (op.sources v).length < 2 then List.replicate 256 0 else (src v.b).1
  let d := if (op.sources v).length < 3 then List.replicate 256 0 else (src v.c).1
  match op with
  | .scansum =>
    let (y, fl) := scanSum v.prec (a.zipIdx.map fun x => if m x.2 then x.1 else 0x80000000)
    (s.vflags c fl).rowRes c op v v.dstR m y ps
  | .scanmax =>
    let (y, _) := scanMax (a.zipIdx.map fun x => if m x.2 then x.1 else 0xFF800000)
    s.rowRes c op v v.dstR m y ps
  | .moments =>
    let sq := a.zipIdx.map fun x => if m x.2 then fpMul v.prec x.1 x.1 else ⟨0x80000000, 0⟩
    let (y, f₁) := scanSum v.prec (a.zipIdx.map fun x => if m x.2 then x.1 else 0x80000000)
    let (z, f₂) := scanSum v.prec (sq.map VR.bits)
    let s := s.vflags c (sq.foldl (fun n r => n ||| r.fl) 0 ||| f₁ ||| f₂)
    (s.rowRes c op v v.dstR m y ps).rowRes c op v (v.dstR + 1) m z ps
  | .rand =>
    let lo := s.vuReg c 0x08
    let hi := s.vuReg c 0x0C
    let step := s.vuReg c 0x10
    s.rowRes c op v v.dstR m ((List.range 256).map fun j =>
      rngFp v.symmetric (rngValue lo hi (v.block * 256 + j) step v.imm)) ps
  | _ =>
    if op.toAm v then s.cvtToAm c v m a ps
    else
      let sel (j : Nat) : Bool := (Store.get 0 (s.core c).vm v.maskK.toNat).getLsbD j
      let rs := (List.zip a (List.zip b d)).zipIdx.map fun x =>
        if m x.2 then op.lane v (sel x.2) x.1.1 x.1.2.1 x.1.2.2 else ⟨0, 0⟩
      let s := s.vflags c (rs.foldl (fun n r => n ||| r.fl) 0)
      let s := s.rowRes c op v v.dstR m (rs.map VR.bits) ps
      if op == .cmp then
        s.addRes c (s.ac + op.lambda v) (.mask v.cmpVm)
          (rs.zipIdx.map fun x => some (if m x.2 && x.1.bits == fpOne then 1 else 0)) false
      else s

/-- A V instruction that faults at issue (R180). -/
def State.vFault (s : State) (c : CoreId) (op : VOp) (v : VSlot) : State :=
  let s := if vFormatFault op v then s.raise (.vu c) 0x04 0 else s
  let s := if vAddrFault op v then s.raise (.vu c) 0x04 1 else s
  if op.toAm v then s.markStep c
  else
    let s := s.setTbPois c v.dstB v.dstR true
    if op == .moments ∧ v.dstR < 63 then s.setTbPois c v.dstB (v.dstR + 1) true else s

/-! ### Writing results -/

/-- A row result reaches its row; a row that is poisoned then sets VU_FLAGS.poison (R150, R181).  DESIGN CHOICE: a row that
keeps a masked lane (zm = 0) keeps its poison too (log 195). -/
def State.writeRow (s : State) (c : CoreId) (b r : Nat) (lanes : List (Option Word32)) (p : Bool) : State :=
  let s := lanes.zipIdx.foldl (fun s x =>
    match x.1 with | some w => s.setTbLane c b r x.2 w.toNat | none => s) s
  let p := p || (lanes.any Option.isNone && s.tbPois c b r)
  let s := if p then s.vflags c 16 else s
  s.setTbPois c b r p

/-- Element codes put in place of the old bits of a plane. -/
def mergeCodes (w : Nat) (old : List Byte) (codes : List (Option Nat)) : List Byte :=
  leBytes old.length (packFields w (codes.zipIdx.map fun x => x.1.getD (bitField old (w * x.2) w)))

/-- A write of an element plane: a line that keeps old elements keeps its poison too (R159, R353). -/
def State.writePlane (s : State) (c : CoreId) (a w : Nat) (codes : List (Option Nat)) (p : Bool) : State :=
  let n := codes.length * w / 8
  let new := mergeCodes w (s.amBytes c a n) codes
  (List.range (ceilDiv n 64)).foldl (fun s k =>
    let kept := codes.zipIdx.any fun x => x.1.isNone && decide (512 * k < w * x.2 + w) && decide (w * x.2 < 512 * k + 512)
    s.amWrite c (a + 64 * k) ((new.drop (64 * k)).take (min 64 (n - 64 * k)))
      (p || (kept && s.amPois c (a / 64 + k)))) s

/-- One result reaches its destination. -/
def State.writeRes (s : State) (c : CoreId) (r : VRes) : State :=
  match r.dest with
  | .row b row => s.writeRow c b row r.lanes r.poison
  | .mask k =>
    let v := r.lanes.zipIdx.foldl (fun n x => match x.1 with | some 1 => n + 2 ^ x.2 | _ => n) 0
    s.onCore c fun x => { x with vm := Store.set 0 x.vm k (BitVec.ofNat 256 v) }
  | .am a w codes sa scales =>
    let s := if r.poison then s.vflags c 16 else s
    let s := s.writePlane c a w codes r.poison
    if scales.isEmpty then s else s.amWrite c sa scales r.poison

/-- Puts a result in its place by due ac; results of one ac keep their issue order (R161). -/
def insertRes (r : VRes) : List VRes → List VRes
  | [] => [r]
  | x :: t => if x.due ≤ r.due then x :: insertRes r t else r :: x :: t

/-- The results of some kinds that are due in this ac are in place. -/
def State.vresOf (s : State) (c : CoreId) (p : VRes → Bool) : State :=
  let sel (r : VRes) : Bool := p r && decide (r.due ≤ s.ac)
  let due := ((s.core c).vres.filter sel).foldl (fun l r => insertRes r l) []
  let s := s.onCore c fun k => { k with vres := k.vres.filter fun r => !sel r }
  due.foldl (fun s r => s.writeRes c r) s
def State.vresDue (s : State) (c : CoreId) : State := s.vresOf c fun _ => true
/-- The results in activation memory that are due when an ac begins: an AM read of the same ac returns them (R178, R345). -/
def VRes.isAm (r : VRes) : Bool := match r.dest with | .am .. => true | _ => false
def State.vresAm (s : State) (c : CoreId) : State := s.vresOf c VRes.isAm

/-- A V instruction in its issue ac (R180, R184, R252, R272, R273). -/
def State.vOp (s : State) (c : CoreId) (op : VOp) (v : VSlot) : State :=
  if op.illegal v then s.cqFaultMark c cqBundle
  else
  let s := (s.vresDue c).count (.vu c) 0x20 1
  if vFormatFault op v || vAddrFault op v then s.vFault c op v else s.vRun c op v

/-- VECTOR_RESULT_WRITE (R157, R161, R178): every result of the core that is due becomes readable. -/
def execVectorResultWrite (c : CoreId) (s : State) : Host.Outcome State Fault Refusal := .next (s.vresDue c)

/-- VADD (R165, R269, R272): a + b. -/
def execVadd (c : CoreId) (v : VSlot) (s : State) : Host.Outcome State Fault Refusal :=
  .next (s.ifRuns c sV fun s => s.vOp c .add v)
/-- VSUB (R165, R269, R272): a − b. -/
def execVsub (c : CoreId) (v : VSlot) (s : State) : Host.Outcome State Fault Refusal :=
  .next (s.ifRuns c sV fun s => s.vOp c .sub v)
/-- VMUL (R165, R269, R272): a × b. -/
def execVmul (c : CoreId) (v : VSlot) (s : State) : Host.Outcome State Fault Refusal :=
  .next (s.ifRuns c sV fun s => s.vOp c .mul v)
/-- VFMA (R165, R269, R272): a × b + c, rounded once. -/
def execVfma (c : CoreId) (v : VSlot) (s : State) : Host.Outcome State Fault Refusal :=
  .next (s.ifRuns c sV fun s => s.vOp c .fma v)
/-- VABS (R165, R269, R272): |a|. -/
def execVabs (c : CoreId) (v : VSlot) (s : State) : Host.Outcome State Fault Refusal :=
  .next (s.ifRuns c sV fun s => s.vOp c .abs v)
/-- VNEG (R165, R269, R272): −a. -/
def execVneg (c : CoreId) (v : VSlot) (s : State) : Host.Outcome State Fault Refusal :=
  .next (s.ifRuns c sV fun s => s.vOp c .neg v)
/-- VMAX (R165, R269, R272): the larger. -/
def execVmax (c : CoreId) (v : VSlot) (s : State) : Host.Outcome State Fault Refusal :=
  .next (s.ifRuns c sV fun s => s.vOp c .max v)
/-- VMIN (R165, R269, R272): the smaller. -/
def execVmin (c : CoreId) (v : VSlot) (s : State) : Host.Outcome State Fault Refusal :=
  .next (s.ifRuns c sV fun s => s.vOp c .min v)
/-- VRECIP (R165, R269, R272): 1 / a. -/
def execVrecip (c : CoreId) (v : VSlot) (s : State) : Host.Outcome State Fault Refusal :=
  .next (s.ifRuns c sV fun s => s.vOp c .recip v)
/-- VRSQRT (R165, R269, R272): 1 / √(a + imm). -/
def execVrsqrt (c : CoreId) (v : VSlot) (s : State) : Host.Outcome State Fault Refusal :=
  .next (s.ifRuns c sV fun s => s.vOp c .rsqrt v)
/-- VEXP (R165, R269, R272): e^a. -/
def execVexp (c : CoreId) (v : VSlot) (s : State) : Host.Outcome State Fault Refusal :=
  .next (s.ifRuns c sV fun s => s.vOp c .exp v)
/-- VEXPD (R165, R269, R272): e^(rne(a − b)). -/
def execVexpd (c : CoreId) (v : VSlot) (s : State) : Host.Outcome State Fault Refusal :=
  .next (s.ifRuns c sV fun s => s.vOp c .expd v)
/-- VCMP (R165, R269, R272): 1.0 or +0 and a mask register (R166). -/
def execVcmp (c : CoreId) (v : VSlot) (s : State) : Host.Outcome State Fault Refusal :=
  .next (s.ifRuns c sV fun s => s.vOp c .cmp v)
/-- VSEL (R165, R269, R272): a where the selector bit is 1, else b (R166). -/
def execVsel (c : CoreId) (v : VSlot) (s : State) : Host.Outcome State Fault Refusal :=
  .next (s.ifRuns c sV fun s => s.vOp c .sel v)
/-- VMOV (R165, R269, R272): a, bit for bit. -/
def execVmov (c : CoreId) (v : VSlot) (s : State) : Host.Outcome State Fault Refusal :=
  .next (s.ifRuns c sV fun s => s.vOp c .mov v)
/-- VSCANSUM (R165, R269, R272): the inclusive prefix sum (R167, R168). -/
def execVscansum (c : CoreId) (v : VSlot) (s : State) : Host.Outcome State Fault Refusal :=
  .next (s.ifRuns c sV fun s => s.vOp c .scansum v)
/-- VSCANMAX (R165, R269, R272): the inclusive prefix maximum (R167, R168). -/
def execVscanmax (c : CoreId) (v : VSlot) (s : State) : Host.Outcome State Fault Refusal :=
  .next (s.ifRuns c sV fun s => s.vOp c .scanmax v)
/-- VMOMENTS (R165, R269, R272): the prefix sums of a and of a² into two rows (R169). -/
def execVmoments (c : CoreId) (v : VSlot) (s : State) : Host.Outcome State Fault Refusal :=
  .next (s.ifRuns c sV fun s => s.vOp c .moments v)
/-- VCVT (R165, R269, R272): conversion into lanes or into activation memory (R170 to R172, R271). -/
def execVcvt (c : CoreId) (v : VSlot) (s : State) : Host.Outcome State Fault Refusal :=
  .next (s.ifRuns c sV fun s => s.vOp c .cvt v)
/-- VRAND (R165, R269, R272): the counter-based generator (R173 to R175). -/
def execVrand (c : CoreId) (v : VSlot) (s : State) : Host.Outcome State Fault Refusal :=
  .next (s.ifRuns c sV fun s => s.vOp c .rand v)

end Sys2Proof.Machine
end

