-- ==== Sys2Proof/Machine/Issue.lean ====
section
/-! DEFINITION. The X, S and C slots, the issue of a bundle, holds, quiesce and completions (R185 to R200, R207 to R219,
R225 to R241, R250 to R256, R274 to R288, R295). -/

namespace Sys2Proof.Machine

/-! ### X slot (R274 to R283) -/

/-- Runs an X- or S-slot instruction under its predicate (R200). -/
def State.pred (s : State) (h : How) (p : Pred) (f : State → State) : State := if h.runs p then f s else s

/-- A poisoned completion entry that no operation stands behind (R210, R255). -/
def State.poisonDone (s : State) (c : CoreId) (q : Nat) (t : Token) : State := s.opAdd c 0 q 0 t true .finished

/-- The class of an operation descriptor (R279). -/
def descClass (d : BitVec 256) : Nat := bits d.toNat 255 252

/-- A PUT or STREAM descriptor whose tcore names no core (R28, R537). -/
def descBadId (d : BitVec 256) : Bool :=
  descClass d == 4 && (bits d.toNat 251 248 == 1 || bits d.toNat 251 248 == 3) && decide (768 ≤ bits d.toNat 229 220)

/-- XISSUE (R28, R210, R218, R242, R255, R278).  With XIQ full in lockstep it consumes nothing, and its completion goes to the
queue of its cq field.  A reserved class names no completion queue, so its operation completes poisoned in
the queue of the cq field. -/
def State.xissueOp (s : State) (c : CoreId) (t : Token) (cq : Nat) (h : How) : State :=
  if s.xiqBlocks c t then
    if h.waits then s
    else if h.forced then (s.markStep c).poisonDone c (cqQueue cq) t
    else (s.late c).poisonDone c (cqQueue cq) t
  else
    match s.take c qXSQ t h with
    | (s, .got e) =>
      let cls := descClass e.body
      if descBadId e.body then
        (s.cqFaultMark c cqId).poisonDone c ((classQueue cls).getD (cqQueue cq)) t
      else
        match classQueue cls with
        | none => s.poisonDone c (cqQueue cq) t
        | some q =>
          if q = cqQueue cq then s.opAdd c (BitVec.ofNat 4 cls) q e.body t e.poison .xiq
          else (s.violation c qXSQ e.token.toNat t.toNat).poisonDone c q t
    | (s, .poisoned) => s.poisonDone c (cqQueue cq) t
    | (s, .hold) => s

/-- MSEND with its credit rule (R233, R280). -/
def State.msendSlot (s : State) (c : CoreId) (chan k am : Nat) (tag : Token) (h : How) : State :=
  let s := s.creditsDue c
  if k + 1 ≤ (s.core c).credit chan then s.msendOp c chan k am tag
  else if h.waits then s
  else if h.forced then s.markStep c
  else s.cqFaultMark c cqCredit

/-- MPOP (R238, R281). -/
def State.mpopSlot (s : State) (c : CoreId) (q am : Nat) (h : How) : State :=
  if s.msgReady c q then s.mpopOp c q am
  else if h.waits then s
  else if h.forced then s.markStep c
  else s.late c

/-- CREDTEST reads the credits as they stand at the start of the ac (R239, R283). -/
def State.credtestOp (s : State) (c : CoreId) (pd : BitVec 3) (chan k : Nat) : State :=
  let s := s.creditsDue c
  s.writePred c pd (decide (k + 1 ≤ (s.core c).credit chan))

/-- MOUT (R275). -/
def execMout (c : CoreId) (p : Pred) (dout : Side) (am : BitVec 16) (len : BitVec 12) (s : State) :
    Host.Outcome State Fault Refusal :=
  .next (s.ifRuns c sX fun s => s.pred (s.how c) p fun s =>
    s.scheduled c (s.how c) fun s => s.moutOp c dout am.toNat len.toNat)
/-- MIN (R275). -/
def execMin (c : CoreId) (p : Pred) (din : Side) (am : BitVec 16) (len : BitVec 12) (s : State) :
    Host.Outcome State Fault Refusal :=
  .next (s.ifRuns c sX fun s => s.pred (s.how c) p fun s =>
    s.scheduled c (s.how c) fun s => s.minOp c .min din din am.toNat len.toNat)
/-- MPASS (R275). -/
def execMpass (c : CoreId) (p : Pred) (din dout : Side) (am : BitVec 16) (len : BitVec 12) (s : State) :
    Host.Outcome State Fault Refusal :=
  .next (s.ifRuns c sX fun s => s.pred (s.how c) p fun s =>
    s.scheduled c (s.how c) fun s => s.minOp c .mpass din dout am.toNat len.toNat)

/-- A BUNDLE fault (R187, R252). -/
def State.bundleFault (s : State) (c : CoreId) : State := s.cqFaultMark c cqBundle

/-- MRED (R275, R276); role 0b11 is illegal. -/
def execMred (c : CoreId) (p : Pred) (din dout : Side) (w : BitVec 17) (len : BitVec 12) (role : BitVec 2) (s : State) :
    Host.Outcome State Fault Refusal :=
  .next (s.ifRuns c sX fun s =>
    if role = 3 then s.bundleFault c
    else s.pred (s.how c) p fun s =>
      s.scheduled c (s.how c) fun s => s.mredOp c din dout w.toNat len.toNat role.toNat)
/-- XISSUE (R278); cq 0b11 is illegal. -/
def execXissue (c : CoreId) (p : Pred) (token : Token) (cq : BitVec 2) (s : State) : Host.Outcome State Fault Refusal :=
  .next (s.ifRuns c sX fun s =>
    if cq = 3 then s.bundleFault c
    else s.pred (s.how c) p fun s => s.xissueOp c token cq.toNat (s.how c))
/-- MSEND (R233, R280). -/
def execMsend (c : CoreId) (p : Pred) (chan : BitVec 5) (k : BitVec 3) (am : BitVec 16) (tag : Token) (s : State) :
    Host.Outcome State Fault Refusal :=
  .next (s.ifRuns c sX fun s => s.pred (s.how c) p fun s => s.msendSlot c chan.toNat k.toNat am.toNat tag (s.how c))
/-- MPOP (R238, R281). -/
def execMpop (c : CoreId) (p : Pred) (q : BitVec 4) (am : BitVec 16) (s : State) : Host.Outcome State Fault Refusal :=
  .next (s.ifRuns c sX fun s => s.pred (s.how c) p fun s => s.mpopSlot c q.toNat am.toNat (s.how c))
/-- CREDTEST (R234, R283). -/
def execCredtest (c : CoreId) (pd : BitVec 3) (chan : BitVec 5) (k : BitVec 3) (s : State) :
    Host.Outcome State Fault Refusal :=
  .next (s.ifRuns c sX fun s => s.credtestOp c pd chan.toNat k.toNat)

/-! ### S slot (R284, R285) -/

def State.waitOp (s : State) (c : CoreId) (q : Nat) (t : Token) (h : How) : State := (s.take c q t h).1

/-- The visible head token of a queue; on XIQ the oldest operation that waits there (R217, R285). -/
def State.headToken (s : State) (c : CoreId) (q : Nat) : Option Token :=
  if q = qXIQ then (s.core c).xiq.head?.map DynOp.token else (s.head c q).map QEntry.token

def State.qtestOp (s : State) (c : CoreId) (pd : BitVec 3) (q : Nat) (t : Token) : State :=
  s.writePred c pd (s.headToken c q == some t)

/-- SEMSIG: applied in the next ac (R285). -/
def State.semsigOp (s : State) (c : CoreId) (i n : Nat) : State :=
  s.onCore c fun k => { k with semPend := k.semPend ++ [⟨s.ac + 1, i, n⟩] }

/-- SEMSIGR: a signal to the destination core of a channel (R226, R285). -/
def State.semsigrOp (s : State) (c : CoreId) (chan i n : Nat) : State :=
  match (s.core c).chan chan with
  | some ch => s.dynSend c ch.dest.toNat (.sig c.val i n)
  | none => s.markStep c

/-- SEMTRY (R226, R228). -/
def State.semtryOp (s : State) (c : CoreId) (pd : BitVec 3) (i n : Nat) : State :=
  let s := s.semDue c
  let v := (s.core c).sem i
  if n ≤ v then (s.onCore c fun k => k.setSem i (v - n)).writePred c pd true else s.writePred c pd false

/-- SEMWAIT (R226, R228). -/
def State.semwaitOp (s : State) (c : CoreId) (i n : Nat) (h : How) : State :=
  let s := s.semDue c
  let v := (s.core c).sem i
  if n ≤ v then s.onCore c fun k => k.setSem i (v - n)
  else if h.waits then s
  else if h.forced then s.markStep c
  else s.late c

/-- GONG: the core leaves lockstep and is held until its release (R192, R195, R473). -/
def State.gongOp (s : State) (c : CoreId) (slackSel : Bool) : State :=
  s.onCore c fun k =>
    { k with mode := .slack, gongMode := some slackSel, arrivals := k.arrivals ++ [s.ac], hold := holdGong, heldSince := some (s.ac + 1) }

def State.slackOp (s : State) (c : CoreId) : State := s.onCore c fun k => { k with mode := .slack }

/-- ENDSTEP: the core is held until its work is done (R240). -/
def State.endstepOp (s : State) (c : CoreId) : State :=
  s.onCore c fun k => { k with ending := true, hold := holdEnd, heldSince := some (s.ac + 1) }

/-- WAIT (R212 to R216, R284). -/
def execWait (c : CoreId) (p : Pred) (q : BitVec 3) (token : Token) (s : State) : Host.Outcome State Fault Refusal :=
  .next (s.ifRuns c sS fun s =>
    if waitLegal q then s.pred (s.how c) p fun s => s.waitOp c q.toNat token (s.how c) else s.bundleFault c)
/-- QTEST (R217, R284). -/
def execQtest (c : CoreId) (pd : BitVec 3) (q : BitVec 3) (token : Token) (s : State) :
    Host.Outcome State Fault Refusal :=
  .next (s.ifRuns c sS fun s => if q = 7 then s.bundleFault c else s.qtestOp c pd q.toNat token)
/-- SEMSIG (R226, R285). -/
def execSemsig (c : CoreId) (p : Pred) (i : BitVec 6) (n : Byte) (s : State) : Host.Outcome State Fault Refusal :=
  .next (s.ifRuns c sS fun s =>
    if n = 0 then s.bundleFault c else s.pred (s.how c) p fun s => s.semsigOp c i.toNat n.toNat)
/-- SEMSIGR (R226, R285). -/
def execSemsigr (c : CoreId) (p : Pred) (chan : BitVec 5) (i : BitVec 6) (n : BitVec 4) (s : State) :
    Host.Outcome State Fault Refusal :=
  .next (s.ifRuns c sS fun s =>
    if n = 0 then s.bundleFault c else s.pred (s.how c) p fun s => s.semsigrOp c chan.toNat i.toNat n.toNat)
/-- SEMTRY (R226, R228). -/
def execSemtry (c : CoreId) (pd : BitVec 3) (i : BitVec 6) (n : Byte) (s : State) : Host.Outcome State Fault Refusal :=
  .next (s.ifRuns c sS fun s => if n = 0 then s.bundleFault c else s.semtryOp c pd i.toNat n.toNat)
/-- SEMWAIT (R226, R228). -/
def execSemwait (c : CoreId) (p : Pred) (i : BitVec 6) (n : Byte) (s : State) : Host.Outcome State Fault Refusal :=
  .next (s.ifRuns c sS fun s =>
    if n = 0 then s.bundleFault c else s.pred (s.how c) p fun s => s.semwaitOp c i.toNat n.toNat (s.how c))
/-- MPOLL (R237, R285). -/
def execMpoll (c : CoreId) (pd : BitVec 3) (q : BitVec 4) (s : State) : Host.Outcome State Fault Refusal :=
  .next (s.ifRuns c sS fun s => s.writePred c pd (s.msgReady c q.toNat))
/-- GONG (R192, R195, R285). -/
def execGong (c : CoreId) (slackSel : Bool) (s : State) : Host.Outcome State Fault Refusal :=
  .next (s.ifRuns c sS fun s => s.gongOp c slackSel)
/-- SLACK (R192, R285). -/
def execSlack (c : CoreId) (s : State) : Host.Outcome State Fault Refusal := .next (s.ifRuns c sS fun s => s.slackOp c)
/-- ENDSTEP (R240, R285). -/
def execEndstep (c : CoreId) (s : State) : Host.Outcome State Fault Refusal := .next (s.ifRuns c sS fun s => s.endstepOp c)

/-! ### C slot (R189, R190, R256, R286, R287) -/

def nextIndex (i : Nat) : BitVec 10 := BitVec.ofNat 10 (i + 1)

/-- LOOP: the counter and the next index (R287). -/
def State.loopOp (s : State) (c : CoreId) (n target count i : Nat) : State :=
  s.onCore c fun k =>
    let v := (let v := Store.get 0 k.lc n; if v = 0 then count else v) - 1
    { k with lc := Store.set 0 k.lc n v, index := if v ≠ 0 then BitVec.ofNat 10 target else nextIndex i }

def State.setIndex (s : State) (c : CoreId) (i : BitVec 10) : State := s.onCore c fun k => { k with index := i }

/-- BRP: taken in slack mode when the predicate matches; a MODE fault in lockstep (R194, R287). -/
def State.brpOp (s : State) (c : CoreId) (target : Nat) (k : BitVec 3) (pol : Bool) (i : Nat) (h : How) : State :=
  if h.mode == .lockstep then (s.modeFault c).setIndex c (nextIndex i)
  else s.setIndex c (if predBit h.preds k == pol then BitVec.ofNat 10 target else nextIndex i)

def Core.setBank (k : Core) (b : Bool) (v : Bank) : Core :=
  { k with banks := Store.set Bank.reset k.banks (if b then 1 else 0) v }

/-- SWITCHBANK (R190, R298). -/
def State.switchOp (s : State) (c : CoreId) (t : Token) (h : How) : State :=
  let k := s.core c
  let o := k.bankOf !k.bank
  if o.loaded s.ac ∧ o.token = t then
    (s.onCore c fun k => { k.setBank k.bank Bank.reset with bank := !k.bank, index := 0 }).checkTransit c (!k.bank)
  else if o.loaded s.ac then (s.violation c 0xF o.token.toNat t.toNat).abandon c
  else if h.waits then s
  else if h.forced then s.abandon c
  else (s.late c).abandon c

def State.indexOf (s : State) (c : CoreId) : Nat := (s.core c).index.toNat

/-- LOOP (R287). -/
def execLoop (c : CoreId) (n : BitVec 2) (target : BitVec 10) (countM1 : BitVec 9) (s : State) :
    Host.Outcome State Fault Refusal :=
  .next (s.ifRuns c sC fun s => s.loopOp c n.toNat target.toNat (countM1.toNat + 1) (s.indexOf c))
/-- JUMP (R287). -/
def execJump (c : CoreId) (target : BitVec 10) (s : State) : Host.Outcome State Fault Refusal :=
  .next (s.ifRuns c sC fun s => s.setIndex c target)
/-- BRP (R194, R287). -/
def execBrp (c : CoreId) (target : BitVec 10) (k : BitVec 3) (pol : Bool) (s : State) :
    Host.Outcome State Fault Refusal :=
  .next (s.ifRuns c sC fun s => s.brpOp c target.toNat k pol (s.indexOf c) (s.how c))
/-- SWITCHBANK (R190). -/
def execSwitchbank (c : CoreId) (token : Token) (s : State) : Host.Outcome State Fault Refusal :=
  .next (s.ifRuns c sC fun s => s.switchOp c token (s.how c))

/-! ### Bundles (R185 to R189, R250 to R254, R293) -/

/-- The effect of the slots (R186): the S slot comes first, since no other slot reads what it changes in this ac; every
test and predicate uses the state at the start of the ac. -/
def State.runM (s : State) (c : CoreId) (x : Nat) (h : How) : State :=
  if bits x 63 60 = 0 then s else s.mOp c (bits x 63 60) (BitVec.ofNat 12 (bits x 59 48)) h

def State.runV (s : State) (c : CoreId) (x : Nat) : State :=
  match vOpOf (bits x 95 91) with
  | some op => s.vOp c op (vSlotOf x)
  | none => s

def State.runX (s : State) (c : CoreId) (x : Nat) (h : How) : State :=
  let p := predOf (xPred x)
  match xOp x with
  | 1 => s.pred h p fun s => s.scheduled c h fun s => s.moutOp c (sideOf (bits x 37 36)) (bits x 35 20) (bits x 19 8)
  | 2 => s.pred h p fun s => s.scheduled c h fun s =>
      s.minOp c .min (sideOf (bits x 37 36)) (sideOf (bits x 37 36)) (bits x 35 20) (bits x 19 8)
  | 3 => s.pred h p fun s => s.scheduled c h fun s =>
      s.minOp c .mpass (sideOf (bits x 37 36)) (sideOf (bits x 35 34)) (bits x 33 18) (bits x 17 6)
  | 4 => s.pred h p fun s => s.scheduled c h fun s =>
      s.mredOp c (sideOf (bits x 37 36)) (sideOf (bits x 35 34)) (bits x 33 17) (bits x 16 5) (bits x 4 3)
  | 5 => s.pred h p fun s => s.xissueOp c (BitVec.ofNat 12 (bits x 37 26)) (bits x 25 24) h
  | 6 => s.pred h p fun s =>
      s.msendSlot c (bits x 37 33) (bits x 32 30) (bits x 29 14) (BitVec.ofNat 12 (bits x 13 2)) h
  | 7 => s.pred h p fun s => s.mpopSlot c (bits x 37 34) (bits x 33 18) h
  | 8 => s.credtestOp c p.k (bits x 37 33) (bits x 32 30)
  | _ => s

def State.runS (s : State) (c : CoreId) (x : Nat) (h : How) : State :=
  let p := predOf (sPred x)
  let t : Token := BitVec.ofNat 12 (bits x 11 0)
  match sOp x with
  | 1 => s.pred h p fun s => s.waitOp c (bits x 14 12) t h
  | 2 => s.qtestOp c p.k (bits x 14 12) t
  | 3 => s.pred h p fun s => s.semsigOp c (bits x 13 8) (bits x 7 0)
  | 4 => s.pred h p fun s => s.semsigrOp c (bits x 14 10) (bits x 9 4) (bits x 3 0)
  | 5 => s.semtryOp c p.k (bits x 13 8) (bits x 7 0)
  | 6 => s.pred h p fun s => s.semwaitOp c (bits x 13 8) (bits x 7 0) h
  | 7 => s.writePred c p.k (s.msgReady c (bits x 3 0))
  | 8 => s.gongOp c (bitAt x 0)
  | 9 => s.slackOp c
  | 10 => s.endstepOp c
  | _ => s

def State.runC (s : State) (c : CoreId) (x i : Nat) (h : How) : State :=
  match bits x 23 21 with
  | 1 => s.loopOp c (bits x 20 19) (bits x 18 9) (bits x 8 0 + 1) i
  | 2 => s.setIndex c (BitVec.ofNat 10 (bits x 18 9))
  | 3 => s.brpOp c (bits x 18 9) (BitVec.ofNat 3 (bits x 8 6)) (bitAt x 5) i h
  | 4 => (s.setIndex c (nextIndex i)).switchOp c (BitVec.ofNat 12 (bits x 11 0)) h
  | _ => s.setIndex c (nextIndex i)

/-- Everything that is due at the start of an ac is in place. -/
def State.startAc (s : State) (c : CoreId) : State := ((s.semDue c).creditsDue c).vresDue c

/-- A bundle issues (R185 to R189, R248, R295). -/
def State.issue (s : State) (c : CoreId) (forced : Bool) : State :=
  let k := s.core c
  let i := k.index.toNat
  let b := s.bundle c k.bank i
  let h : How := ⟨k.mode, k.preds, forced⟩
  let s := ((s.useSlots c 31).onCore c fun k => { k with issueFrom := s.ac + 1, hold := 0, heldSince := none }).count (.cq c) 0x20 1
  let s := if k.mode == .lockstep then s.fireTransit c k.bank i else s
  if bundleBad b i then (s.bundleFault c).setIndex c (nextIndex i)
  else ((((s.runS c (slotS b) h).runM c (slotM b) h).runV c (slotV b)).runX c (slotX b) h).runC c (slotC b) i h

/-- BUNDLE_ISSUE (R185, R193, R216): a core that is not held issues its next bundle, or is held in slack mode. -/
def execBundleIssue (c : CoreId) (s : State) : Host.Outcome State Fault Refusal :=
  .next (
    if !(s.core c).mayIssue s.ac ∨ (s.core c).hold ≠ 0 then s
    else
      let s := s.startAc c
      match s.holdNow c with
      | 0 => s.issue c false
      | n + 1 => s.onCore c fun k => { k with hold := n + 1, heldSince := some s.ac })

/-- HELD_BUNDLE_ISSUE (R216): a held bundle issues once every holding condition is met; until then its cause is kept. -/
def execHeldBundleIssue (c : CoreId) (s : State) : Host.Outcome State Fault Refusal :=
  .next (
    if !(s.core c).mayIssue s.ac ∨ !(s.core c).waiting then s
    else
      let s := s.startAc c
      match s.holdNow c with
      | 0 => s.issue c false
      | n + 1 => s.onCore c fun k => { k with hold := n + 1 })

/-! ### Quiesce (R240, R241, R219) -/

/-- The work that ENDSTEP waits for (R240). -/
def State.workDone (s : State) (c : CoreId) : Bool :=
  let k := s.core c
  let a := k.arr
  a.queue.isEmpty && a.overflow.isEmpty && a.runs.isEmpty && a.shadow != .loading && k.vres.isEmpty && k.ops.isEmpty

/-- Leftover entries of a queue at quiesce (R241). -/
def State.leftover (s : State) (c : CoreId) (q : Nat) : State :=
  match (s.core c).queue q with
  | [] => s
  | e :: _ => (s.violation c q e.token.toNat 0).onCore c fun k => k.setQueue q []

/-- The core reports itself quiesced. -/
def State.quiesce (s : State) (c : CoreId) : State :=
  let s := [qMSQ, qXSQ, qMCQ, qCSQ, qDMQ, qFBQ].foldl (fun s q => s.leftover c q) s
  s.onCore c fun k =>
    { k with mode := .idle, ended := true, ending := false, hold := 0, heldSince := none, endedAt := s.ac }

/-- CORE_QUIESCE (R240, R241). -/
def execCoreQuiesce (c : CoreId) (s : State) : Host.Outcome State Fault Refusal :=
  .next (
    if !(s.core c).ending then s
    else
      let s := s.startAc c
      if s.workDone c then s.quiesce c else s)

/-- HOLD_TIMEOUT (R219, R247): a bundle held for longer than CQ_HOLDLIMIT issues with its holding instructions poisoned; a
GONG goes on without its release, and an ENDSTEP quiesces at once. -/
def execHoldTimeout (c : CoreId) (s : State) : Host.Outcome State Fault Refusal :=
  .next (
    let k := s.core c
    let limit := s.fld (.cq c) 0x18 23 0
    match k.heldSince with
    | none => s
    | some t =>
      if limit = 0 ∨ s.ac ≤ t + 1024 * limit ∨ k.hold = 0 then s
      else
        let s := (s.startAc c).cqFaultMark c cqHold
        if k.hold = holdEnd then s.quiesce c
        else if k.hold = holdGong then
          s.onCore c fun k => { k with gongMode := none, hold := 0, heldSince := none }
        else s.issue c true)

/-! ### Completions (R209 to R211) -/

/-- The oldest operation of a completion queue, when it has finished. -/
def Core.oldestDone (k : Core) (q now : Nat) : Option DynOp :=
  match k.ops.find? fun o => o.queue == q with
  | some o => if o.stage == .finished && decide (o.readyAt ≤ now) then some o else none
  | none => none

/-- A crossbar request with sig = 1 adds 1 to its semaphore as its completion is pushed (R330). -/
def State.csSignal (s : State) (c : CoreId) (o : DynOp) : State :=
  if (o.cls = 1 ∨ o.cls = 2) ∧ bitAt o.desc.toNat 197 then s.semSignal c (bits o.desc.toNat 196 191) 1 else s

/-- COMPLETION_PUSH (R209, R211, R215): the oldest operation of a completion queue has finished and the queue has room. -/
def execCompletionPush (c : CoreId) (q : BitVec 3) (s : State) : Host.Outcome State Fault Refusal :=
  .next (
    match (s.core c).oldestDone q.toNat s.ac with
    | none => s
    | some o =>
      if !s.qOpen c q.toNat then s
      else
        let s := s.onCore c fun k => { k with ops := k.ops.filter fun x => x.serial ≠ o.serial }
        (s.qPush c q.toNat o.token o.poison (if o.cls = 3 then o.desc else 0)).csSignal c o)

end Sys2Proof.Machine
end

