-- ==== Sys2Proof/Machine/Crossbar.lean ====
section
/-! DEFINITION. The context store and its crossbar: units, their codes and poison, reads and writes of cores (R323 to
R330, R369 to R375). -/

namespace Sys2Proof.Machine

/-! ### Units (R323, R373, R635) -/

/-- The frame size in force, in bytes, and what follows from it (R369). -/
def State.frameSize (s : State) (d : DieId) : Nat := frameBytes (s.pgm d).size
def State.frameUnits (s : State) (d : DieId) : Nat := s.frameSize d / 64
def State.frames (s : State) (d : DieId) : Nat := frameCount (s.pgm d).size

/-- The slice and the row of a unit (R323, R636). -/
def unitSlice (fs u : Nat) : Nat := 64 * u / fs % 32
def unitRow (fs u : Nat) : Nat := (64 * u / fs / 32 * fs + 64 * u % fs) / 8192

/-- A correction in the context store: counted, and logged while the 16-entry log has room (R669). -/
def State.csCe (s : State) (d : DieId) (nb u : Nat) : State :=
  let s := s.count (.pgm d) 0x4C 1
  let p := s.pgm d
  if p.ceLog.length < 16 then
    s.setPgm d { p with ceLog := p.ceLog ++ [⟨unitSlice (s.frameSize d) u, nb, unitRow (s.frameSize d) u⟩] }
  else s

/-- A read of a unit: its bytes, and whether it is poisoned or uncorrectable (R330, R373). -/
def State.csRead (s : State) (d : DieId) (u : Nat) : State × List Byte × Bool :=
  let e := Store.get .none s.csErr (csUnitKey d u)
  let s := match e with
    | .one => s.csCe d 1 u
    | .two => s.csCe d 2 u
    | _ => s
  let s := if e = .uce then s.onDie d fun k => { k with csUces := k.csUces ++ [u] } else s
  let s := s.count (.meshDie d) 0x1C 1
  (s, s.csUnit d u, s.csPois d u || e == .uce)

/-- A write of a whole unit with its poison bit. -/
def State.csWrite (s : State) (d : DieId) (u : Nat) (b : List Byte) (p : Bool) : State :=
  let s := s.count (.meshDie d) 0x1C 1
  (s.setCsErr (csUnitKey d u) .none).csUnitSet d u b p

/-- The first unit of a frame. -/
def State.frameUnit (s : State) (d : DieId) (f : Nat) : Nat := f * s.frameUnits d

def State.frameRec (s : State) (d : DieId) (f : Nat) : FrameRec := Store.get FrameRec.reset (s.pgm d).frames f
/-- A LIST frame that the page manager holds (R375). -/
def State.isList (s : State) (d : DieId) (f : Nat) : Bool := (s.frameRec d f).state == 1 && (s.frameRec d f).list

/-! ### Requests of cores (R324 to R330) -/

def csFrame (d : BitVec 256) : Nat := bits d.toNat 251 232
def csOffset (d : BitVec 256) : Nat := bits d.toNat 231 223
def csUnits (d : BitVec 256) : Nat := bits d.toNat 222 214 + 1
def csAm (d : BitVec 256) : Nat := bits d.toNat 213 198

/-- The crossbar distance of a core to a slice (R327). -/
def csDistance (c : CoreId) (slice : Nat) : Nat :=
  let r := posOf c / 8
  let m := posOf c % 8
  let a : Int := (r / 2 : Nat) - (slice / 8 : Nat)
  let b : Int := (m / 4 : Nat) - (slice % 8 / 4 : Nat)
  a.natAbs + 2 * b.natAbs

/-- The ac of the completion of an uncontended request issued in ac `i` (R325, R327). -/
def csDoneAt (c : CoreId) (i frame u : Nat) : Nat := i + 41 + 10 * csDistance c (frame % 32) + 2 * (u - 1)

def State.xbFault (s : State) (d : DieId) (bit : Nat) : State := s.raise (.meshDie d) 0x18 bit

/-- The refusals of R325. -/
def State.csRefused (s : State) (d : DieId) (x : BitVec 256) : Option Nat :=
  if s.frames d ≤ csFrame x then some 0
  else if s.frameUnits d < csOffset x + csUnits x ∨ 65536 < csAm x + csUnits x then some 1
  else none

/-- A die's crossbar serves no one while the die clears (R364). -/
def State.csClosed (s : State) (d : DieId) : Bool := s.dieState d == dieClearing

/-! ### The slices (R323, R328) -/

/-- The ac from the issue of a request to its slice, and from the slice back.  DESIGN CHOICE: the two halves of R327's figures,
which state only their sum (log 197). -/
def csPath (c : CoreId) (slice : Nat) : Nat := 20 + 5 * csDistance c slice

/-- The nc that is reserved for background requests in each slice (R328). -/
def State.reservedNc (s : State) : Bool := s.ac / 2 % 64 == 63
/-- Whether a request of a core waits at a slice, or is being served there. -/
def State.sliceWaits (s : State) (d : DieId) (sl : Nat) : Bool :=
  (s.die d).xreqs.any fun r => r.slice == sl && decide (r.arrive ≤ s.ac)
/-- The slice serves one unit in an nc (R323). -/
def State.sliceBusy (s : State) (d : DieId) (sl : Nat) : State :=
  s.onDie d fun k => { k with xfree := Store.set 0 k.xfree sl (s.ac + 2) }

/-- A request of one unit, by a DMA channel, a walk or scrub, tries for a slice (R328, R413, R641).  A foreground one waits for
the cores' requests that came before it, and leaves the reserved nc to a background one that waits; a background one has the
reserved nc, and any other in which no foreground request waits. -/
def State.sliceTake (s : State) (d : DieId) (sl : Nat) (bg : Bool) : State × Bool :=
  let back := Store.get false (s.die d).xback sl
  let ok := decide (Store.get 0 (s.die d).xfree sl ≤ s.ac) &&
    (if bg then s.reservedNc || !s.sliceWaits d sl else !s.sliceWaits d sl && !(s.reservedNc && back))
  let mark (v : Bool) (s : State) : State :=
    if bg ∧ back ≠ v then s.onDie d fun k => { k with xback := Store.set false k.xback sl v } else s
  if ok then ((mark false s).sliceBusy d sl, true) else (mark true s, false)

/-- The request that a slice serves: the one it has begun, or else the one of the earliest arrival nc, and of two in one nc the
lower core (R328). -/
def XReq.before (r q : XReq) : Bool :=
  decide (0 < r.served) ||
    (q.served == 0 && (decide (r.arrive / 2 < q.arrive / 2) || (r.arrive / 2 == q.arrive / 2 && decide (r.core < q.core))))
def State.slicePick (s : State) (d : DieId) (sl : Nat) : Option XReq :=
  match (s.die d).xreqs.filter fun r => r.slice == sl && decide (r.arrive ≤ s.ac) with
  | [] => none
  | r :: t => some (t.foldl (fun b q => if q.before b then q else b) r)

/-- A unit that a read has been served goes back to its core (R327). -/
def State.unitBack (s : State) (r : XReq) (l : Line) (p : Bool) : State :=
  let c : CoreId := Fin.ofNat 768 r.core
  s.onCore c fun k =>
    { k with csReqs := k.csReqs.map fun q =>
        if q.serial = r.serial then { q with data := q.data ++ [(l, p, s.ac + csPath c r.slice)], poison := q.poison || p } else q }

/-- A slice serves the next unit of a request: the effects of the requests to one slice come in the order of R328 (R330). -/
def State.sliceServe (s : State) (d : DieId) (sl : Nat) : State :=
  if s.ac < Store.get 0 (s.die d).xfree sl ∨ (s.reservedNc ∧ Store.get false (s.die d).xback sl) then s
  else
    match s.slicePick d sl with
    | none => s
    | some r =>
      let c : CoreId := Fin.ofNat 768 r.core
      let s := s.sliceBusy d sl
      let s :=
        if r.write then
          let x := Store.get ((0 : Line), false) r.data r.served
          s.csWrite d (r.unit + r.served) (lineBytes x.1) (x.2 || r.poison)
        else
          let (s, b, p) := s.csRead d (r.unit + r.served)
          s.unitBack r (bytesLine b) p
      let last := decide (r.units ≤ r.served + 1)
      let s := s.onDie d fun k =>
        { k with xreqs := if last then k.xreqs.erase r
                          else k.xreqs.map fun q => if q == r then { q with served := q.served + 1 } else q }
      if r.write && last then s.opFinish c r.serial (s.ac + csPath c sl + 1) false else s

/-- The slices of a die in one ac. -/
def State.slices (s : State) (d : DieId) : State :=
  if (s.die d).xreqs.isEmpty then s else (List.range 32).foldl (fun s sl => s.sliceServe d sl) s

/-- Line `k` of a context-store write has been read (R326). -/
def State.unitFill (s : State) (c : CoreId) (n k : Nat) (b : List Byte) (p : Bool) : State :=
  s.onDie (dieOf c) fun d =>
    { d with xreqs := d.xreqs.map fun r =>
        if r.core = c.val ∧ r.serial = n then { r with data := Store.set ((0 : Line), false) r.data k (bytesLine b, p) } else r }

/-- A request leaves its core toward its slice. -/
def State.xSend (s : State) (c : CoreId) (o : DynOp) (write : Bool) : State :=
  let d := dieOf c
  let x := o.desc
  let sl := csFrame x % 32
  s.onDie d fun k =>
    { k with xreqs := k.xreqs ++ [⟨c.val, o.serial, write, s.frameUnit d (csFrame x) + csOffset x, csUnits x, 0, sl,
        s.ac + csPath c sl, write && (o.poison || o.bad), []⟩] }

/-- CS_READ (R325, R327, R328, R330, R375): the oldest operation of XIQ, a context-store read, leaves toward the
crossbar. -/
def execCsRead (c : CoreId) (s : State) : Host.Outcome State Fault Refusal :=
  .next (
    match s.xiqHead c 1 with
    | none => s
    | some o =>
      let d := dieOf c
      let x := o.desc
      let s := s.opIssue c o
      let done := csDoneAt c s.ac (csFrame x) (csUnits x)
      match s.csRefused d x with
      | some b => (s.xbFault d b).opFinish c o.serial done true
      | none =>
        if s.csClosed d then s.opFinish c o.serial done true
        else
          (s.xSend c o false).onCore c fun k =>
            { k with csReqs := k.csReqs ++ [⟨o.serial, csUnits x, 0, csAm x, 0, [], false⟩] })

/-- A unit of a read takes its place in activation memory: it is written in this ac, and in place from the next (R345). -/
def State.csUnitPut (s : State) (c : CoreId) (r : CsReq) (a : Nat) (x : Line × Bool × Nat) : State :=
  let s := s.addTimed c ⟨s.ac, a, false, .put (lineBytes x.1) x.2.1⟩
  let r' := { r with next := r.next + 1, data := r.data.tail, wait := s.ac - x.2.2 }
  if r.next + 1 = r.units then
    (s.onCore c fun k => { k with csReqs := k.csReqs.erase r, endedAt := if k.aborted then s.ac else k.endedAt }).opFinish c
      r.serial (s.ac + 1) r.poison
  else s.onCore c fun k => { k with csReqs := k.csReqs.map fun q => if q == r then r' else q }

/-- CS_UNIT_WRITE (R327, R330, R345, R349): the next unit of the oldest read that has one due is written to activation memory
when its lanes are free; the ac that it waited delay the later units of its request and its completion. -/
def execCsUnitWrite (c : CoreId) (s : State) : Host.Outcome State Fault Refusal :=
  .next (
    let free (r : CsReq) : Bool :=
      match r.dueLine s.ac with
      | some a => !(s.core c).laneHeld s.ac (laneMask a 64) && (s.vLanes c &&& laneMask a 64) == 0
      | none => false
    match (s.core c).csReqs.find? free with
    | none => s
    | some r =>
      let a := 64 * (r.am + r.next)
      match s.claimDyn c s.ac (laneMask a 64) (s.vLanes c), r.data with
      | (s, true), x :: _ => s.csUnitPut c r a x
      | _, _ => s)

/-- CS_WRITE (R325, R326, R330, R375): the oldest operation of XIQ, a context-store write, copies activation-memory lines
into its frame; line k is read in ac i + 2 + k. -/
def execCsWrite (c : CoreId) (s : State) : Host.Outcome State Fault Refusal :=
  .next (
    match s.xiqHead c 2 with
    | none => s
    | some o =>
      let d := dieOf c
      let x := o.desc
      let i := s.ac
      let s := s.opIssue c o
      let done := csDoneAt c i (csFrame x) (csUnits x)
      match s.csRefused d x with
      | some b => (s.xbFault d b).opFinish c o.serial done true
      | none =>
        if s.isList d (csFrame x) then (s.raise (.pgm d) 0x14 6).opFinish c o.serial done true
        else if s.csClosed d then s.opFinish c o.serial done true
        else
          (List.range (csUnits x)).foldl (fun s k =>
            s.timedAccess c (i + 2 + k) (64 * (csAm x + k)) 64 (.unit o.serial k)) (s.xSend c o true))

end Sys2Proof.Machine
end

