-- ==== Sys2Proof/Machine/Pager.lean ====
section
/-! DEFINITION. The page manager of a die: sequences, page lists, frames, the step journal, its command queue (R376 to
R396, R405 to R407). -/

namespace Sys2Proof.Machine

/-! ### Sequence entries and page-list entries (R376 to R378) -/

def Pgm.seq (p : Pgm) (i : Nat) : Nat := (Store.get 0 p.seqs i : Word64).toNat
def seqValid (e : Nat) : Bool := bitAt e 63
def seqRoot (e : Nat) : Nat := bits e 62 43
def seqBase (e : Nat) : Nat := bits e 42 23
def seqPages (e : Nat) : Nat := bits e 22 2
def seqWord (root base npages : Nat) : Word64 := BitVec.ofNat 64 (2 ^ 63 + root * 2 ^ 43 + base * 2 ^ 23 + npages * 4)
/-- A closed entry: no pages and not valid, its root and base as they stood (R384). -/
def seqShut (e : Nat) : Word64 := BitVec.ofNat 64 (seqRoot e * 2 ^ 43 + seqBase e * 2 ^ 23)

/-- Entries per list frame: E (R369). -/
def State.listLen (s : State) (d : DieId) : Nat := s.frameSize d / 4

/-- The address of entry `k` of a root or list frame in the context store. -/
def State.entryAddr (s : State) (d : DieId) (f k : Nat) : Nat := csBase d + f * s.frameSize d + 4 * k
def State.entry (s : State) (d : DieId) (f k : Nat) : Nat := s.cs.nat (s.entryAddr d f k) 4
def entryValid (e : Nat) : Bool := bitAt e 31
def entryFrame (e : Nat) : Nat := bits e 19 0

def State.onPgm (s : State) (d : DieId) (f : Pgm → Pgm) : State := s.setPgm d (f (s.pgm d))
def Pgm.note (p : Pgm) (j : JRec) : Pgm := { p with journal := p.journal ++ [j] }

/-- Writes a 32-bit entry and records what it replaces (R387, R396). -/
def State.setEntry (s : State) (d : DieId) (f k g : Nat) : State :=
  let a := s.entryAddr d f k
  let s := s.onPgm d fun p => p.note (.entry a (s.cs.bytes a 4) false)
  (s.count (.meshDie d) 0x1C 1).csSet a (leBytes 4 (2 ^ 31 + g))

/-- Writes a sequence entry and records what it replaces. -/
def State.setSeq (s : State) (d : DieId) (i : Nat) (e : Word64) : State :=
  s.onPgm d fun p => { (p.note (.seq i (BitVec.ofNat 64 (p.seq i)))) with seqs := Store.set 0 p.seqs i e }

/-- The list frame and the data frame of page `i` of a sequence (R378). -/
def State.listFrame (s : State) (d : DieId) (e i : Nat) : Nat := entryFrame (s.entry d (seqRoot e) (i / s.listLen d))
def State.pageFrame (s : State) (d : DieId) (e i : Nat) : Nat := entryFrame (s.entry d (s.listFrame d e i) (i % s.listLen d))

/-- The frame numbers that page `i` decodes are below F; a command that decodes any other is refused (R371, log 200). -/
def State.listOk (s : State) (d : DieId) (e i : Nat) : Bool :=
  decide (seqRoot e < s.frames d) && decide (s.listFrame d e i < s.frames d)
def State.pageOk (s : State) (d : DieId) (e i : Nat) : Bool := s.listOk d e i && decide (s.pageFrame d e i < s.frames d)

/-- The page manager reads an entry, a request of one unit of its crossbar (R371, R388, log 199). -/
def State.readEntry (s : State) (d : DieId) (f k : Nat) : State := (s.csRead d (s.frameUnit d f + k / 16)).1
def State.readPage (s : State) (d : DieId) (e i : Nat) : State :=
  (s.readEntry d (seqRoot e) (i / s.listLen d)).readEntry d (s.listFrame d e i) (i % s.listLen d)
def State.readPages (s : State) (d : DieId) (e : Nat) (is : List Nat) : State := is.foldl (fun s i => s.readPage d e i) s

/-! ### Frames (R380, R381, R393 to R396) -/

def frFree : Nat := 0
def frHeld : Nat := 1
def frQuar : Nat := 2

def Pgm.frameOf (p : Pgm) (f : Nat) : FrameRec := Store.get FrameRec.reset p.frames f
def Pgm.setRec (p : Pgm) (f : Nat) (r : FrameRec) : Pgm := { p with frames := Store.set FrameRec.reset p.frames f r }
/-- Free frames: those freed, and those never taken since the initialisation. -/
def Pgm.freeCount (p : Pgm) : Nat := p.freed.length + (frameCount p.size - p.fresh)

/-- The top of the free stack (R381). -/
def Pgm.pop (p : Pgm) : Nat × Pgm :=
  match p.freed with
  | f :: t => (f, { p with freed := t })
  | [] => (p.fresh, { p with fresh := p.fresh + 1 })
/-- Pushes a frame onto the free stack; the frames never taken lie below it in their order. -/
def Pgm.push (p : Pgm) (f : Nat) : Pgm :=
  if p.freed.isEmpty ∧ f + 1 = p.fresh then { p with fresh := f } else { p with freed := f :: p.freed }

/-- Allocates a frame with count 1 (R380). -/
def Pgm.alloc (p : Pgm) (list : Bool) : Nat × Pgm :=
  let (f, p) := p.pop
  (f, (p.note (.alloc f)).setRec f ⟨frHeld, list, 1⟩)

/-- "Free i" (R384): the count falls, and at 0 the frame enters quarantine. -/
def Pgm.freeFrame (p : Pgm) (f : Nat) : Pgm :=
  let r := p.frameOf f
  let p := p.note (.frame f r)
  if r.count ≤ 1 then { p.setRec f { r with state := frQuar, count := 0 } with quarantine := p.quarantine ++ [f] }
  else p.setRec f { r with count := r.count - 1 }

def Pgm.incr (p : Pgm) (f : Nat) : Pgm :=
  let r := p.frameOf f
  (p.note (.frame f r)).setRec f { r with count := r.count + 1 }

/-- Records in force: one for each command and one for each frame it changed (R393). -/
def JRec.counts : JRec → Bool
  | .mark | .alloc _ | .frame .. => true
  | _ => false
def Pgm.records (p : Pgm) : Nat := (p.journal.filter JRec.counts).length

/-- Writes a LIST frame with zeros. -/
def State.zeroFrame (s : State) (d : DieId) (f : Nat) : State :=
  (List.range (s.frameUnits d)).foldl (fun s k => s.csWrite d (s.frameUnit d f + k) (List.replicate 64 0) false) s

/-- Allocates a zeroed LIST frame, or a DATA frame. -/
def State.allocFrame (s : State) (d : DieId) (list : Bool) : State × Nat :=
  let (f, p) := (s.pgm d).alloc list
  let s := s.setPgm d p
  (if list then s.zeroFrame d f else s, f)

/-! ### Results (R385, R386) -/

def stOk : Nat := 0
def stFull : Nat := 1
def stRef : Nat := 2
def stIllegal : Nat := 3
def stJournal : Nat := 4

/-- A command's outcome: a status of refusal, or the state with the copied bit and the frame. -/
abbrev PgmOut := Except Nat (State × Bool × Nat)

/-- The checks of R386 that follow the conditions of R384: FULL, then REF, then JOURNAL. -/
def State.room (s : State) (d : DieId) (allocs changes : Nat) (refBad : Bool) : Option Nat :=
  let p := s.pgm d
  if p.freeCount < allocs then some stFull
  else if refBad then some stRef
  else if 4096 < p.records + 1 + allocs + changes then some stJournal
  else none

/-- Whether freeing these frames would take one below count 0. -/
def Pgm.under (p : Pgm) (fs : List Nat) : Bool := fs.any fun f => decide ((p.frameOf f).count < fs.count f)

def cmdOp (w : Word64) : Nat := bits w.toNat 63 60
def cmdTag (w : Word64) : Nat := bits w.toNat 54 48
def cmdS (w : Word64) : Nat := bits w.toNat 47 35
def cmdD (w : Word64) : Nat := bits w.toNat 34 22
def cmdArg (w : Word64) : Nat := bits w.toNat 21 0

/-- A result is pushed and the PGM interrupt becomes pending (R385, R407, R457). -/
def State.pgmResult (s : State) (d : DieId) (w : Word64) (status : Nat) (copied : Bool) (frame : Nat) : State :=
  let r := 2 ^ 31 + status * 2 ^ 28 + (if copied then 2 ^ 27 else 0) + cmdTag w * 2 ^ 20 + frame
  let s := (s.onPgm d fun p => { p with results := p.results ++ [BitVec.ofNat 32 r] }).count (.pgm d) 0x40 1
  s.orReg (.cqDie d) 0x48 4

/-- The head of the command queue, when the page manager may take it (R385, R405). -/
def State.pgmHead (s : State) (d : DieId) : Option Word64 :=
  let p := s.pgm d
  if p.initReq ∨ 64 ≤ p.results.length then none else p.cmds.head?

/-- Runs the head of the queue as one of the given opcodes (R386): a refused command changes nothing and sets
PGM_FAULT.op_refused. -/
def State.pgmRun (s : State) (d : DieId) (ok : Nat → Bool) (f : State → Word64 → PgmOut) : State :=
  match s.pgmHead d with
  | none => s
  | some w =>
    if !ok (cmdOp w) then s
    else
      let s := s.onPgm d fun p => { p with cmds := p.cmds.tail }
      match f s w with
      | .ok (s, copied, frame) => s.pgmResult d w stOk copied frame
      | .error st => (s.raise (.pgm d) 0x14 5).pgmResult d w st false 0

/-- A command that runs leaves its one record. -/
def State.pgmMark (s : State) (d : DieId) : State := s.onPgm d fun p => p.note .mark

/-! ### The operations (R384, R387, R390) -/

/-- SEQ_OPEN. -/
def State.pgmOpen (s : State) (d : DieId) (w : Word64) : PgmOut :=
  if seqValid ((s.pgm d).seq (cmdS w)) ∨ 2 ^ 20 ≤ cmdArg w then .error stIllegal
  else match s.room d 1 0 false with
    | some st => .error st
    | none =>
      let (s, f) := (s.pgmMark d).allocFrame d true
      .ok (s.setSeq d (cmdS w) (seqWord f (cmdArg w) 0), false, 0)

/-- One page of an APPEND: a LIST frame for a new root entry, then the page's DATA frame. -/
def State.appendPage (s : State) (d : DieId) (root i : Nat) : State × Nat :=
  let n := s.listLen d
  let s := if i % n = 0 then (let (s, l) := s.allocFrame d true; s.setEntry d root (i / n) l) else s.readEntry d root (i / n)
  let (s, f) := s.allocFrame d false
  (s.setEntry d (entryFrame (s.entry d root (i / n))) (i % n) f, f)

/-- APPEND. -/
def State.pgmAppend (s : State) (d : DieId) (w : Word64) : PgmOut :=
  let e := (s.pgm d).seq (cmdS w)
  let n := cmdArg w
  let old := seqPages e
  if !seqValid e ∨ n < 1 ∨ 256 < n ∨ 2 ^ 20 < seqBase e + old + n ∨ s.frames d ≤ seqRoot e ∨
      (old % s.listLen d ≠ 0 ∧ !s.listOk d e old) then .error stIllegal
  else
    let lists := ((List.range n).filter fun i => (old + i) % s.listLen d == 0).length
    match s.room d (n + lists) 0 false with
    | some st => .error st
    | none =>
      let (s, first) := (List.range n).foldl (fun (a : State × Option Nat) i =>
        let (s, f) := a.1.appendPage d (seqRoot e) (old + i)
        (s, some (a.2.getD f))) (s.pgmMark d, none)
      .ok (s.setSeq d (cmdS w) (seqWord (seqRoot e) (seqBase e) (old + n)), false, first.getD 0)

/-- SHARE. -/
def State.pgmShare (s : State) (d : DieId) (w : Word64) : PgmOut :=
  let p := s.pgm d
  let e := p.seq (cmdS w)
  let g := p.seq (cmdD w)
  let n := cmdArg w
  if !seqValid e ∨ !seqValid g ∨ seqPages g ≠ 0 ∨ seqBase g ≠ seqBase e ∨ n < 1 ∨ seqPages e < n ∨
      s.frames d ≤ seqRoot g ∨ !(List.range n).all (s.pageOk d e) then .error stIllegal
  else
    let len := s.listLen d
    let fs := (List.range n).map (s.pageFrame d e)
    let bad := fs.any fun f => decide (65535 < (p.frameOf f).count + fs.count f)
    match s.room d (ceilDiv n len) n bad with
    | some st => .error st
    | none =>
      let s := (List.range (ceilDiv n len)).foldl (fun s r =>
        let (s, l) := s.allocFrame d true
        s.setEntry d (seqRoot g) r l) ((s.pgmMark d).readPages d e (List.range n))
      let s := (fs.zip (List.range n)).foldl (fun s x =>
        (s.onPgm d fun p => p.incr x.1).setEntry d (entryFrame (s.entry d (seqRoot g) (x.2 / len))) (x.2 % len) x.1) s
      .ok (s.setSeq d (cmdD w) (seqWord (seqRoot g) (seqBase g) n), false, 0)

/-- Copies the units of a frame, poison included (R390, R403). -/
def State.copyFrame (s : State) (d : DieId) (f g : Nat) : State :=
  (List.range (s.frameUnits d)).foldl (fun s k =>
    let (s, b, p) := s.csRead d (s.frameUnit d f + k)
    s.csWrite d (s.frameUnit d g + k) b p) s

/-- COW (R390). -/
def State.pgmCow (s : State) (d : DieId) (w : Word64) : PgmOut :=
  let e := (s.pgm d).seq (cmdS w)
  let i := cmdArg w
  if !seqValid e ∨ seqPages e ≤ i ∨ !s.pageOk d e i then .error stIllegal
  else
    let f := s.pageFrame d e i
    let c := ((s.pgm d).frameOf f).count
    if c = 1 then
      match s.room d 0 0 false with
      | some st => .error st
      | none => .ok ((s.pgmMark d).readPage d e i, false, f)
    else match s.room d 1 1 (c == 0) with
      | some st => .error st
      | none =>
        let n := s.listLen d
        let (s, g) := ((s.pgmMark d).readPage d e i).allocFrame d false
        let s := (s.copyFrame d f g).setEntry d (entryFrame (s.entry d (seqRoot e) (i / n))) (i % n) g
        .ok (s.onPgm d fun p => p.freeFrame f, true, g)

/-- The frames that TRUNC to `n` frees: data frames of pages n and above, and list frames no page below n uses. -/
def State.truncFrames (s : State) (d : DieId) (e n : Nat) : List Nat :=
  let len := s.listLen d
  let old := seqPages e
  ((List.range (old - n)).map fun k => s.pageFrame d e (n + k)) ++
    (List.range (ceilDiv old len - ceilDiv n len)).map fun k => entryFrame (s.entry d (seqRoot e) (ceilDiv n len + k))

/-- The pages whose entries TRUNC to `n` reads, and the check of the frame numbers they decode (R371). -/
def truncPages (e n : Nat) : List Nat := (List.range (seqPages e - n)).map fun k => n + k
def State.truncOk (s : State) (d : DieId) (e n : Nat) : Bool := (truncPages e n).all (s.pageOk d e)

def State.freeAll (s : State) (d : DieId) (fs : List Nat) : State :=
  fs.foldl (fun s f => s.onPgm d fun p => p.freeFrame f) s

/-- TRUNC. -/
def State.pgmTrunc (s : State) (d : DieId) (w : Word64) : PgmOut :=
  let e := (s.pgm d).seq (cmdS w)
  let n := cmdArg w
  if !seqValid e ∨ seqPages e < n ∨ !s.truncOk d e n then .error stIllegal
  else
    let fs := s.truncFrames d e n
    match s.room d 0 fs.length ((s.pgm d).under fs) with
    | some st => .error st
    | none =>
      .ok ((((s.pgmMark d).setSeq d (cmdS w) (seqWord (seqRoot e) (seqBase e) n)).readPages d e (truncPages e n)).freeAll d fs,
        false, 0)

/-- CLOSE. -/
def State.pgmClose (s : State) (d : DieId) (w : Word64) : PgmOut :=
  let e := (s.pgm d).seq (cmdS w)
  if !seqValid e ∨ s.frames d ≤ seqRoot e ∨ !s.truncOk d e 0 then .error stIllegal
  else
    let fs := s.truncFrames d e 0 ++ [seqRoot e]
    match s.room d 0 fs.length ((s.pgm d).under fs) with
    | some st => .error st
    | none => .ok ((((s.pgmMark d).setSeq d (cmdS w) (seqShut e)).readPages d e (truncPages e 0)).freeAll d fs, false, 0)

/-- INCREF and DECREF name a HELD DATA frame (R384). -/
def State.refOk (s : State) (d : DieId) (f : Nat) : Bool :=
  let r := (s.pgm d).frameOf f
  decide (f < s.frames d) && r.state == frHeld && !r.list

def State.pgmIncref (s : State) (d : DieId) (w : Word64) : PgmOut :=
  let f := cmdArg w
  if !s.refOk d f then .error stIllegal
  else match s.room d 0 1 (decide (65535 ≤ ((s.pgm d).frameOf f).count)) with
    | some st => .error st
    | none => .ok ((s.pgmMark d).onPgm d fun p => p.incr f, false, 0)

def State.pgmDecref (s : State) (d : DieId) (w : Word64) : PgmOut :=
  let f := cmdArg w
  if !s.refOk d f then .error stIllegal
  else match s.room d 0 1 false with
    | some st => .error st
    | none => .ok ((s.pgmMark d).onPgm d fun p => p.freeFrame f, false, 0)

/-- COMMIT (R394). -/
def Pgm.commit (p : Pgm) : Pgm :=
  { p.quarantine.foldl (fun p f => (p.setRec f FrameRec.reset).push f) p with quarantine := [], journal := [] }

/-- One record undone (R396). -/
def State.undo (s : State) (d : DieId) (j : JRec) : State :=
  match j with
  | .mark => s
  | .seq i old => s.onPgm d fun p => { p with seqs := Store.set 0 p.seqs i old }
  | .entry a old _ => (s.count (.meshDie d) 0x1C 1).csSet a old
  | .alloc f => s.onPgm d fun p => (p.setRec f FrameRec.reset).push f
  | .frame f old => s.onPgm d fun p => { p.setRec f old with quarantine := p.quarantine.filter fun g => g ≠ f }

/-- ROLLBACK (R396): the journal is undone from its newest record to its oldest. -/
def State.rollbackPgm (s : State) (d : DieId) : State :=
  ((s.pgm d).journal.reverse.foldl (fun s j => s.undo d j) s).onPgm d fun p => { p with journal := [] }

def opIs (n : Nat) : Nat → Bool := fun k => k == n

/-- SEQ_OPEN (R384). -/
def execSeqOpen (d : DieId) (s : State) : Host.Outcome State Fault Refusal :=
  .next (s.pgmRun d (opIs 1) fun s w => s.pgmOpen d w)
/-- APPEND (R384, R387). -/
def execAppend (d : DieId) (s : State) : Host.Outcome State Fault Refusal :=
  .next (s.pgmRun d (opIs 2) fun s w => s.pgmAppend d w)
/-- SHARE (R384). -/
def execShare (d : DieId) (s : State) : Host.Outcome State Fault Refusal :=
  .next (s.pgmRun d (opIs 3) fun s w => s.pgmShare d w)
/-- COW (R390). -/
def execCow (d : DieId) (s : State) : Host.Outcome State Fault Refusal :=
  .next (s.pgmRun d (opIs 4) fun s w => s.pgmCow d w)
/-- TRUNC (R384, R387). -/
def execTrunc (d : DieId) (s : State) : Host.Outcome State Fault Refusal :=
  .next (s.pgmRun d (opIs 5) fun s w => s.pgmTrunc d w)
/-- CLOSE (R384). -/
def execClose (d : DieId) (s : State) : Host.Outcome State Fault Refusal :=
  .next (s.pgmRun d (opIs 6) fun s w => s.pgmClose d w)
/-- INCREF (R384). -/
def execIncref (d : DieId) (s : State) : Host.Outcome State Fault Refusal :=
  .next (s.pgmRun d (opIs 7) fun s w => s.pgmIncref d w)
/-- DECREF (R384). -/
def execDecref (d : DieId) (s : State) : Host.Outcome State Fault Refusal :=
  .next (s.pgmRun d (opIs 8) fun s w => s.pgmDecref d w)
/-- COMMIT (R394). -/
def execCommit (d : DieId) (s : State) : Host.Outcome State Fault Refusal :=
  .next (s.pgmRun d (opIs 14) fun s _ => .ok (s.onPgm d Pgm.commit, false, 0))
/-- ROLLBACK (R396). -/
def execRollback (d : DieId) (s : State) : Host.Outcome State Fault Refusal :=
  .next (s.pgmRun d (opIs 15) fun s _ => .ok (s.rollbackPgm d, false, 0))

/-- Opcodes that R384 gives no operation. -/
def opReserved (k : Nat) : Bool := k == 0 || (decide (9 ≤ k) && decide (k ≤ 13))
/-- PGM_ILLEGAL_OP (R384, R386): a reserved opcode is refused ILLEGAL. -/
def execPgmIllegalOp (d : DieId) (s : State) : Host.Outcome State Fault Refusal :=
  .next (s.pgmRun d opReserved fun _ _ => .error stIllegal)

/-! ### Initialisation and the queues' registers (R382, R405 to R407) -/

/-- The page manager after an initialisation at a frame size; its command and result queues stand (R405). -/
def Pgm.init (p : Pgm) (size : Nat) : Pgm :=
  { p with size := size, seqs := [], frames := [], freed := [], fresh := 0, quarantine := [], journal := [] }

/-- Whether an initialisation is refused. -/
def Pgm.inUse (p : Pgm) : Bool := p.seqs.any (fun e => seqValid e.2.toNat) || p.frames.any fun e => e.2.state ≠ frFree

/-- A 1 written to PGM_CTRL.init (R20, R406). -/
def State.pgmInitReq (s : State) (d : DieId) : State :=
  if s.reg (.pgm d) 0x04 % 2 = 1 then s.raise (.pgm d) 0x14 9
  else (s.onPgm d fun p => { p with initReq := true }).orReg (.pgm d) 0x04 1

/-- PGM_INIT (R20, R405, R406). -/
def execPgmInit (d : DieId) (s : State) : Host.Outcome State Fault Refusal := .next (s.pgmInitReq d)

/-- PGM_INITIALISATION (R405): the request is taken ahead of every queued command, and done or refused. -/
def execPgmInitialisation (d : DieId) (s : State) : Host.Outcome State Fault Refusal :=
  .next (
    if !(s.pgm d).initReq then s
    else
      let s := (s.onPgm d fun p => { p with initReq := false }).setFld (.pgm d) 0x04 0 0 0
      if (s.pgm d).inUse then s.raise (.pgm d) 0x14 8 else s.onPgm d fun p => p.init (s.fld (.pgm d) 0x00 1 0))

def State.pgmPopResult (s : State) (d : DieId) : State := s.onPgm d fun p => { p with results := p.results.tail }
def State.pgmPopCe (s : State) (d : DieId) : State := s.onPgm d fun p => { p with ceLog := p.ceLog.tail }

/-- PGM_RESPOP (R407): a 1 removes the head result. -/
def execPgmRespop (d : DieId) (s : State) : Host.Outcome State Fault Refusal := .next (s.pgmPopResult d)

/-- PGM_CEPOP (R669): a 1 removes the head record of the corrected-error log. -/
def execPgmCepop (d : DieId) (s : State) : Host.Outcome State Fault Refusal := .next (s.pgmPopCe d)

/-- A write of PGM_CMD_HI pushes the command; a push into a full queue is discarded (R382). -/
def State.pgmPush (s : State) (d : DieId) (w : Word64) : State :=
  if 64 ≤ (s.pgm d).cmds.length then s.raise (.pgm d) 0x14 7
  else s.onPgm d fun p => { p with cmds := p.cmds ++ [w] }

end Sys2Proof.Machine
end

