-- ==== Sys2Proof/Machine/Dma.lean ====
section
/-! DEFINITION. The DMA engine of a core: descriptors, chunks, walks, completions, chains and doorbells (R397 to R401, R408
to R438). -/

namespace Sys2Proof.Machine

/-! ### Descriptors (R409, R414) -/

def dOp (x : Nat) : Nat := bits x 511 508
def dSwap (x : Nat) : Nat := bits x 507 505
def dChunkCode (x : Nat) : Nat := bits x 504 502
def dChunk (x : Nat) : Nat := 8 * 2 ^ dChunkCode x
def dXpose (x : Nat) : Bool := bitAt x 501
def dBarrier (x : Nat) : Bool := bitAt x 500
def dSig (x : Nat) : Bool := bitAt x 499
def dSem (x : Nat) : Nat := bits x 498 493
def dIrq (x : Nat) : Bool := bitAt x 492
def dSrcSpace (x : Nat) : Nat := bits x 491 490
def dDstSpace (x : Nat) : Nat := bits x 489 488
def dN0 (x : Nat) : Nat := bits x 487 472 + 1
def dN1 (x : Nat) : Nat := bits x 471 456 + 1
def dN2 (x : Nat) : Nat := bits x 455 440 + 1
def dSrc (x : Nat) : Nat := bits x 439 400
def dDst (x : Nat) : Nat := bits x 399 360
def dSs (x : Nat) : Int × Int × Int :=
  (signedOf 28 (bits x 359 332), signedOf 28 (bits x 331 304), signedOf 28 (bits x 303 276))
def dDs (x : Nat) : Int × Int × Int :=
  (signedOf 28 (bits x 275 248), signedOf 28 (bits x 247 220), signedOf 28 (bits x 219 192))
def dPattern (x : Nat) : Nat := bits x 191 128
def dSeq (x : Nat) : Nat := bits x 127 115
def dP0 (x : Nat) : Nat := bits x 114 91
def dOff (x : Nat) : Nat := bits x 90 86
def linkEoc (x : Nat) : Bool := bitAt x 15
def linkNext (x : Nat) : Nat := bits x 8 0

def spAm : Nat := 0
def spWs : Nat := 1
def spCs : Nat := 2
def spWalk : Nat := 3
def opCopy : Nat := 1
def opFill : Nat := 2
def opCompare : Nat := 3

/-- An entry of descriptor memory, and its link word, as they stood at the start of the ac (R409, R410). -/
def State.descEntry (s : State) (c : CoreId) (i : Nat) : BitVec 512 :=
  BitVec.ofNat 512 (packFields 32 ((List.range 16).map fun k => s.startReg c (.dma c) (0x8000 + 64 * i + 4 * k)))
def State.linkWord (s : State) (c : CoreId) (i : Nat) : Nat := s.startReg c (.dma c) (0x8000 + 64 * i)

/-- DESC faults (R414, R417, R418, R420, R435). -/
def descFault (x : Nat) : Bool :=
  let cs (n : Nat) : Bool := n == spCs || n == spWalk
  let src := dSrcSpace x
  let dst := dDstSpace x
  let usesSrc := dOp x != opFill
  dOp x == 0 || decide (3 < dOp x) || decide (4 < dChunkCode x) || decide (5 < dSwap x) ||
  (dSwap x != 0 && dOp x != opCopy) ||
  (dXpose x && (dOp x == opFill || src != spAm || dChunkCode x != 4)) ||
  (((usesSrc && cs src) || cs dst) && dChunkCode x != 3) ||
  (usesSrc && src == spWalk && dst != spAm) || (dst == spWalk && usesSrc && src != spAm) ||
  (((usesSrc && src == spWalk) || dst == spWalk) && dN2 x != 1)

/-! ### Channels -/

def Core.chan' (k : Core) : Chan → Dma
  | .p => k.dmaP
  | .q => k.dmaQ
def State.dma (s : State) (c : CoreId) (ch : Chan) : Dma := (s.core c).chan' ch
def State.onDma (s : State) (c : CoreId) (ch : Chan) (f : Dma → Dma) : State :=
  s.onCore c fun k =>
    match ch with
    | .p => { k with dmaP := f k.dmaP }
    | .q => { k with dmaQ := f k.dmaQ }
def chanBit : Chan → Nat
  | .p => 0
  | .q => 1

/-- A DMA fault bit with its record (R437): codes 1 DESC, 2 ADDR, 3 CS, 4 WALK, 5 CHAIN. -/
def State.dmaFault (s : State) (c : CoreId) (ch : Chan) (code idx k0 : Nat) : State :=
  let s := if bits (s.reg (.dma c) 0x04) 4 0 = 0 then
      s.setReg (.dma c) 0x08 (chanBit ch * 2 ^ 31 + code * 2 ^ 27 + idx * 2 ^ 18 + k0) else s
  s.raise (.dma c) 0x04 (code - 1)

/-- The engine's interrupt to the control core (R434, R436, R459). -/
def State.dmaIrq (s : State) (c : CoreId) : State :=
  if posOf c < 32 then s.orReg (.cqDie (dieOf c)) 0x50 (2 ^ posOf c)
  else s.orReg (.cqDie (dieOf c)) 0x54 (2 ^ (posOf c - 32))

/-- The end of a P job: its completion may enter DMQ from ac `at_` on (R209, R426). -/
def State.jobEnd (s : State) (c : CoreId) (at_ : Nat) (poison : Bool) : State :=
  let k := s.dma c .p
  let s := s.onDma c .p fun k => { k with phase := .idle, job := none, jobPoison := false, poison := false, half := none }
  match k.job with
  | some n => s.opFinish c n at_ poison
  | none => s

/-- Q goes IDLE: pend and a stop are done with (R431, R437). -/
def State.qIdle (s : State) (c : CoreId) : State :=
  (s.onDma c .q fun k => { k with phase := .idle, pend := false, stop := false, half := none }).setFld (.dma c) 0x14 0 0 0

/-- A fault aborts a descriptor (R436). -/
def State.dmaAbort (s : State) (c : CoreId) (ch : Chan) : State :=
  let s := s.raise (.dma c) 0x04 5
  match ch with
  | .p => s.jobEnd c (s.ac + 1) true
  | .q => ((s.qIdle c).raise (.dma c) 0x04 6).dmaIrq c

/-! ### Jobs and fetches (R411, R412, R435) -/

/-- DMA_JOB (R411, R412): a class 0x3 operation leaves XIQ, and an idle P channel starts the oldest job. -/
def execDmaJob (c : CoreId) (s : State) : Host.Outcome State Fault Refusal :=
  .next (
    let s := match s.xiqHead c 3 with | some o => s.opIssue c o | none => s
    match (s.dma c .p).phase, (s.core c).ops.find? fun o => o.cls == 3 && o.stage == .issued with
    | .idle, some o =>
      (s.onDma c .p fun k =>
        { k with phase := .fetch, job := some o.serial, idx := BitVec.ofNat 9 (bits o.desc.toNat 251 243), started := 1
                 jobPoison := o.poison, poison := false, since := s.ac + 1 }).onCore c fun k =>
        k.setOp o.serial fun o => { o with desc := 0 }
    | _, _ => s)

/-- A channel fetches its descriptor and starts its loop nest; a descriptor with illegal fields is refused (R435). -/
def State.dmaFetch (s : State) (c : CoreId) (ch : Chan) (op : Nat) : State :=
  let k := s.dma c ch
  let x := s.descEntry c k.idx.toNat
  if k.phase ≠ .fetch ∨ s.ac < k.since ∨ (1 ≤ dOp x.toNat ∧ dOp x.toNat ≤ 3 ∧ dOp x.toNat ≠ op) then s
  else if descFault x.toNat then (s.dmaFault c ch 1 k.idx.toNat 0).dmaAbort c ch
  else s.onDma c ch fun k =>
    { k with phase := .run, desc := x, pos := 0, poison := false, mismatch := none, root := none, list := none
             half := none, last := 0 }

/-- COPY (R416). -/
def execCopy (c : CoreId) (ch : Chan) (s : State) : Host.Outcome State Fault Refusal := .next (s.dmaFetch c ch opCopy)
/-- FILL (R416). -/
def execFill (c : CoreId) (ch : Chan) (s : State) : Host.Outcome State Fault Refusal := .next (s.dmaFetch c ch opFill)
/-- COMPARE (R422). -/
def execCompare (c : CoreId) (ch : Chan) (s : State) : Host.Outcome State Fault Refusal :=
  .next (s.dmaFetch c ch opCompare)

/-! ### Addresses (R415 to R418) -/

/-- The loop indices of a chunk. -/
def dIdx (x pos : Nat) : Nat × Nat × Nat := (pos % dN0 x, pos / dN0 x % dN1 x, pos / (dN0 x * dN1 x))
def dTotal (x : Nat) : Nat := dN0 x * dN1 x * dN2 x
def dAddr (base : Nat) (st : Int × Int × Int) (i : Nat × Nat × Nat) : Int :=
  (base : Int) + i.1 * st.1 + i.2.1 * st.2.1 + i.2.2 * st.2.2

/-- Where one side of a chunk lies. -/
inductive Place where
  | am (a : Nat)
  | column (a : Nat)
  | ws (a : Nat)
  | unit (f u : Nat)
  deriving DecidableEq, Repr

/-- Fault codes of a chunk: 2 ADDR, 3 CS, or 4 WALK with its class. -/
inductive ChunkErr where
  | addr
  | cs
  | walk (cls : Nat)
  deriving DecidableEq, Repr

/-- An address of AM, WS or CS frame space (R415, R416). -/
def State.place (s : State) (d : DieId) (space chunk : Nat) (xpose : Bool) (a : Int) : Except ChunkErr Place :=
  if a < 0 then .error .addr
  else
    let n := a.toNat
    if space = spAm then
      if xpose then (if n < 2 ^ 22 ∧ bits n 13 7 = 0 then .ok (.column n) else .error .addr)
      else if n + chunk ≤ 2 ^ 22 ∧ n % chunk = 0 then .ok (.am n) else .error .addr
    else if space = spWs then
      if n + chunk ≤ 96 * 2 ^ 20 ∧ n % chunk = 0 then .ok (.ws n) else .error .addr
    else if 2 ^ 35 ≤ n ∨ n % 64 ≠ 0 ∨ s.frameSize d < n % 32768 + 64 then .error .addr
    else if s.frames d ≤ n / 32768 then .error .cs
    else .ok (.unit (n / 32768) (n % 32768 / 64))

/-! ### Page walks (R397 to R400) -/

/-- What one side of a chunk comes to: its place, a unit of a page list that the walk has still to read (its root unit, or
else its list unit), or a fault. -/
inductive Reach where
  | place (p : Place)
  | entry (root : Bool) (u : Nat)
  | fault (e : ChunkErr)
  deriving DecidableEq, Repr

/-- Entry `k` of a frame, from the unit that the walk holds (R398). -/
def heldEntry (held : Option (Nat × Line)) (u k : Nat) : Option Nat :=
  match held with
  | some (v, l) => if v = u then some (bits l.toNat (32 * (k % 16) + 31) (32 * (k % 16))) else none
  | none => none

/-- The place of unit `j` of the token slot of position `p` (R378, R397); the page is p[23:4]. -/
def State.walkPlace (s : State) (c : CoreId) (ch : Chan) (x p j : Nat) : Reach :=
  let d := dieOf c
  let e := (s.pgm d).seq (dSeq x)
  let n := s.listLen d
  let slot := s.frameUnits d / 16
  let pg := bits p 23 4
  let i := pg - seqBase e
  if slot < dOff x + dN0 x then .fault (.walk 3)
  else if !seqValid e then .fault (.walk 2)
  else if pg < seqBase e ∨ seqBase e + seqPages e ≤ pg then .fault (.walk 3)
  else if s.frames d ≤ seqRoot e then .fault (.walk 1)
  else
    let u := s.frameUnit d (seqRoot e) + i / n / 16
    match heldEntry (s.dma c ch).root u (i / n) with
    | none => .entry true u
    | some r =>
      if !entryValid r ∨ s.frames d ≤ entryFrame r then .fault (.walk 1)
      else
        let v := s.frameUnit d (entryFrame r) + i % n / 16
        match heldEntry (s.dma c ch).list v (i % n) with
        | none => .entry false v
        | some q =>
          if !entryValid q ∨ s.frames d ≤ entryFrame q then .fault (.walk 1)
          else .place (.unit (entryFrame q) (slot * (p % 16) + dOff x + j))

/-- One side of the chunk at a position. -/
def State.side (s : State) (c : CoreId) (ch : Chan) (x pos : Nat) (dst : Bool) : Reach :=
  let i := dIdx x pos
  let space := if dst then dDstSpace x else dSrcSpace x
  if space = spWalk then s.walkPlace c ch x (dP0 x + i.2.1) i.1
  else
    let a := if dst then dAddr (dDst x) (dDs x) i else dAddr (dSrc x) (dSs x) i
    match s.place (dieOf c) space (dChunk x) (dXpose x && !dst) a with
    | .ok p => .place p
    | .error e => .fault e

/-! ### Moving one chunk (R337, R343, R347, R413, R419, R420 to R423) -/

/-- The lanes of a side. -/
def Place.lanes (p : Place) (chunk : Nat) : Nat :=
  match p with
  | .am a => laneMask a chunk
  | .column _ => 2 ^ 128 - 1
  | _ => 0

/-- ℓ of a source (R427). -/
def Place.latency : Place → Nat
  | .am a => if a < 2 ^ 21 then 3 else 6
  | .column a => if a < 2 ^ 21 then 3 else 6
  | .ws _ => 4
  | .unit .. => 0

/-- The slice of a side in the context store. -/
def State.placeSlice (s : State) (c : CoreId) : Place → Option Nat
  | .unit f u => some (unitSlice (s.frameSize (dieOf c)) (s.frameUnit (dieOf c) f + u))
  | _ => none

/-- ℓ of a source: AM and WS as R427 gives it; a unit of the context store takes its way back from the slice (R327, log 197). -/
def State.placeLat (s : State) (c : CoreId) (p : Place) : Nat :=
  match s.placeSlice c p with
  | some sl => csPath c sl
  | none => p.latency

/-- Whether a side must wait for the share: a WS access waits for a LOAD, for a merge, and for pending writes that it could
read (R336, R423). -/
def State.shareBusy (s : State) (c : CoreId) (p : Place) (dst : Bool) : Bool :=
  match p with
  | .ws _ => (s.arr c).shadow == .loading || (!dst && (!(s.core c).wsPend.isEmpty || decide (s.ac < (s.core c).wsFree)))
  | _ => false

/-- Reads a side: its bytes and its poison. -/
def State.readPlace (s : State) (c : CoreId) (p : Place) (n : Nat) : State × List Byte × Bool :=
  match p with
  | .am a => s.amRead c a n
  | .column a =>
    (List.range 128).foldl (fun (r : State × List Byte × Bool) i =>
      let (s, b, q) := r.1.amRead c (a + 128 * i) 1
      (s, r.2.1 ++ b, r.2.2 || q)) (s, [], false)
  | .ws a =>
    let (s, q) := s.wsReadWords c (a / 32) (ceilDiv (a + n) 32)
    (s, s.wsBytes c a n, q)
  | .unit f u => s.csRead (dieOf c) (s.frameUnit (dieOf c) f + u)

/-- Writes a side: bytes of activation memory wait `lat` ac for their write, and a write to a LIST frame writes nothing and
poisons the descriptor (R375, R419). -/
def State.writePlace (s : State) (c : CoreId) (ch : Chan) (p : Place) (lat : Nat) (b : List Byte) (q : Bool) : State :=
  match p with
  | .am a | .column a => s.onCore c fun k => { k with dmaPuts := k.dmaPuts ++ [⟨ch, s.ac + lat, a, b, q⟩] }
  | .ws a => s.onCore c fun k => { k with wsPend := k.wsPend ++ [⟨a, b, q⟩] }
  | .unit f u =>
    let d := dieOf c
    if s.isList d f then (s.raise (.pgm d) 0x14 6).onDma c ch fun k => { k with poison := true }
    else s.csWrite d (s.frameUnit d f + u) b q

def swapPieces (n : Nat) (b : List Byte) : List Byte := (chunksOf n (b.length / n) b).flatMap List.reverse
/-- The byte-order modes (R420). -/
def swapBytes (mode : Nat) (b : List Byte) : List Byte :=
  if mode = 1 then swapPieces 2 b
  else if mode = 2 then swapPieces 4 b
  else if mode = 3 then swapPieces 8 b
  else if mode = 4 then swapPieces 2 (swapPieces 4 b)
  else if mode = 5 then swapPieces 2 (swapPieces 8 b)
  else b

/-- The AM lines that the faulting chunk and every later one would have written are marked poisoned (R401, R436). -/
def State.poisonRest (s : State) (c : CoreId) (x pos : Nat) : State :=
  if dDstSpace x ≠ spAm ∨ dOp x = opCompare then s
  else (List.range (dTotal x - pos)).foldl (fun s k =>
    match s.place (dieOf c) spAm (dChunk x) false (dAddr (dDst x) (dDs x) (dIdx x (pos + k))) with
    | .ok (.am a) => s.poisonLines c a (dChunk x)
    | _ => s) s

/-- A walk fault records its class and its first occurrence (R401, R406). -/
def State.walkFault (s : State) (c : CoreId) (cls seq : Nat) : State :=
  let d := dieOf c
  let s := if bits (s.reg (.pgm d) 0x14) 3 0 = 0 then
      s.setReg (.pgm d) 0x18 (cls * 2 ^ 28 + c.val * 2 ^ 16 + seq) else s
  s.raise (.pgm d) 0x14 (cls - 1)

/-- A chunk that faults (R401, R436). -/
def State.chunkFault (s : State) (c : CoreId) (ch : Chan) (e : ChunkErr) : State :=
  let k := s.dma c ch
  let x := k.desc.toNat
  let k0 := (dIdx x k.pos).1
  let s := match e with
    | .addr => s.dmaFault c ch 2 k.idx.toNat k0
    | .cs => s.dmaFault c ch 3 k.idx.toNat k0
    | .walk n => (s.dmaFault c ch 4 k.idx.toNat k0).walkFault c n (dSeq x)
  (s.poisonRest c x k.pos).dmaAbort c ch

/-- The lowest byte in which two chunks differ. -/
def firstDiff : List Byte → List Byte → Nat → Option Nat
  | a :: t, b :: u, n => if a = b then firstDiff t u (n + 1) else some n
  | _, _, _ => none

/-- One chunk is done; after the last, or a mismatch, the descriptor is.  `last` is the first ac in which it may complete. -/
def State.chunkDone (s : State) (c : CoreId) (ch : Chan) (last : Nat) (poison stop : Bool) : State :=
  (s.onDma c ch fun k =>
    { k with pos := k.pos + 1, poison := k.poison || poison, accAc := s.ac + 1, half := none, last := Nat.max k.last last
             phase := if stop || decide (dTotal k.desc.toNat ≤ k.pos + 1) then .done else k.phase }).count (.dma c) 0x30 1

/-- A channel's crossbar requests are foreground ones for P and background ones for Q (R413). -/
def chanBack : Chan → Bool
  | .p => false
  | .q => true
/-- A descriptor with barrier = 1 waits for its write responses (R424). -/
def barrierAc (x : Nat) : Nat := if dBarrier x then 1 else 0

/-- The dynamic accesses that come before the engine's next one: the vector unit's, the core's context-store reads, the feeder's
and the engine's own pending writes (R347, R427). -/
def State.putLanes (s : State) (c : CoreId) : Nat :=
  (s.core c).dmaPuts.foldl (fun m p => if p.due ≤ s.ac then m ||| laneMask p.addr p.data.length else m) 0
def State.aboveDma (s : State) (c : CoreId) : Nat := s.aboveFeed c ||| s.feedLanes c ||| s.putLanes c

/-- Takes what one access needs, its lanes and its slice, or nothing (R328, R347). -/
def State.access (s : State) (c : CoreId) (ch : Chan) (mask : Nat) (slice : Option Nat) : State × Bool :=
  if (s.core c).laneHeld s.ac mask || (s.aboveDma c &&& mask) ≠ 0 then (s, false)
  else
    let (s, ok) := match slice with
      | some sl => s.sliceTake (dieOf c) sl (chanBack ch)
      | none => (s, true)
    if ok then ((s.claimDyn c s.ac mask 0).1.onDma c ch fun k => { k with accAc := s.ac + 1 }, true) else (s, false)

/-- The bytes of a chunk: the source's, or the constant of a FILL (R416). -/
def fillBytes (x : Nat) : List Byte := (List.range (dChunk x)).map fun i => BitVec.ofNat 8 (dPattern x / 2 ^ (8 * (i % 8)) % 256)

/-- A comparison of two chunks (R422). -/
def State.compareDone (s : State) (c : CoreId) (ch : Chan) (last : Nat) (b e : List Byte) (p : Bool) : State :=
  let diff := firstDiff b e 0
  if p || diff.isSome then
    let pos := (s.dma c ch).pos
    (s.onDma c ch fun k => { k with mismatch := some (diff.getD 0, pos, p) }).chunkDone c ch last p true
  else s.chunkDone c ch last false false

/-- Whether the two sides of a chunk cannot be taken in one ac: they share a lane in a COMPARE, or both lie in the context
store. -/
def State.splits (s : State) (c : CoreId) (x : Nat) (src dst : Place) : Bool :=
  (dOp x == opCompare && (src.lanes (dChunk x) &&& dst.lanes (dChunk x)) != 0) ||
    ((s.placeSlice c src).isSome && (s.placeSlice c dst).isSome)

/-- The second access of a chunk that takes two: its source is read. -/
def State.chunkSecond (s : State) (c : CoreId) (ch : Chan) (x : Nat) (src dst : Place) (b : List Byte) (q : Bool) : State :=
  let n := dChunk x
  if s.shareBusy c dst (dOp x != opCompare) then s
  else if dOp x = opCompare then
    match s.access c ch (dst.lanes n) (s.placeSlice c dst) with
    | (s, false) => s
    | (s, true) =>
      let (s, e, r) := s.readPlace c dst n
      s.compareDone c ch (s.ac + Nat.max (s.placeLat c src) (s.placeLat c dst) + 1) b e (q || r)
  else
    let list := match dst with | .unit f _ => s.isList (dieOf c) f | _ => false
    match s.access c ch 0 (if list then none else s.placeSlice c dst) with
    | (s, false) => s
    | (s, true) => (s.writePlace c ch dst 0 (swapBytes (dSwap x) b) q).chunkDone c ch (s.ac + barrierAc x) q false

/-- The first access of a chunk, and the only one of most. -/
def State.chunkFirst (s : State) (c : CoreId) (ch : Chan) (x : Nat) (src : Option Place) (dst : Place) : State :=
  let n := dChunk x
  let cmp := dOp x == opCompare
  match src with
  | none =>
    let list := match dst with | .unit f _ => s.isList (dieOf c) f | _ => false
    if s.shareBusy c dst true then s
    else match s.access c ch 0 (if list then none else s.placeSlice c dst) with
      | (s, false) => s
      | (s, true) => (s.writePlace c ch dst 0 (fillBytes x) false).chunkDone c ch (s.ac + barrierAc x) false false
  | some p =>
    let split := s.splits c x p dst
    let list := !cmp && (match dst with | .unit f _ => s.isList (dieOf c) f | _ => false)
    let mask := if cmp && !split then p.lanes n ||| dst.lanes n else p.lanes n
    let slice := match s.placeSlice c p with
      | some sl => some sl
      | none => if split || list then none else s.placeSlice c dst
    if s.shareBusy c p false || (!split && s.shareBusy c dst (!cmp)) then s
    else match s.access c ch mask slice with
      | (s, false) => s
      | (s, true) =>
        let lat := s.placeLat c p
        let (s, b, q) := s.readPlace c p n
        if split then s.onDma c ch fun k => { k with half := some (b, q) }
        else if cmp then
          let (s, e, r) := s.readPlace c dst n
          s.compareDone c ch (s.ac + Nat.max lat (s.placeLat c dst) + 1) b e (q || r)
        else (s.writePlace c ch dst lat (swapBytes (dSwap x) b) q).chunkDone c ch (s.ac + barrierAc x) q false

/-- Whether the writes of a channel are all in place. -/
def State.putsDone (s : State) (c : CoreId) (ch : Chan) : Bool :=
  (s.core c).dmaPuts.all (fun p => p.ch ≠ ch) && decide ((s.dma c ch).last ≤ s.ac)
/-- Whether the writes of the weight store are all in place (R336). -/
def State.shareDone (s : State) (c : CoreId) : Bool := (s.core c).wsPend.isEmpty && decide ((s.core c).wsFree ≤ s.ac)

/-- A walk reads a unit of a page list; a poisoned or uncorrectable one is WALK_UCE (R398, R399). -/
def State.walkRead (s : State) (c : CoreId) (ch : Chan) (root : Bool) (u : Nat) : State :=
  let d := dieOf c
  let bad := s.csPois d u || Store.get .none s.csErr (csUnitKey d u) == .uce
  if bad && !s.putsDone c ch then s
  else match s.access c ch 0 (some (unitSlice (s.frameSize d) u)) with
  | (s, false) => s
  | (s, true) =>
    let (s, b, p) := s.csRead d u
    if p then s.chunkFault c ch (.walk 4)
    else s.onDma c ch fun k =>
      if root then { k with root := some (u, bytesLine b) } else { k with list := some (u, bytesLine b) }

/-- The least and greatest byte that a side touches over the whole loop nest (R421). -/
def dSpan (base : Nat) (st : Int × Int × Int) (x bytes : Nat) : Int × Int :=
  let f (k : Nat) (t : Int) : Int × Int := (min 0 (k * t), max 0 (k * t))
  let a := f (dN0 x - 1) st.1
  let b := f (dN1 x - 1) st.2.1
  let e := f (dN2 x - 1) st.2.2
  (base + a.1 + b.1 + e.1, base + a.2 + b.2 + e.2 + bytes - 1)
/-- Serial mode: a COPY whose two sides meet in one space (R421). -/
def dSerial (x : Nat) : Bool :=
  let p := dSpan (dSrc x) (dSs x) x (if dXpose x then 127 * 128 + 1 else dChunk x)
  let q := dSpan (dDst x) (dDs x) x (dChunk x)
  dOp x == opCopy && dSrcSpace x == dDstSpace x && dSrcSpace x != spWalk && decide (p.1 ≤ q.2) && decide (q.1 ≤ p.2)

/-- The next access of a running descriptor, or the fault of its next chunk, which waits for the earlier chunks' writes. -/
def State.chunkStep (s : State) (c : CoreId) (ch : Chan) : State :=
  let k := s.dma c ch
  let x := k.desc.toNat
  let src := if dOp x = opFill then none else some (s.side c ch x k.pos false)
  let dst := s.side c ch x k.pos true
  if k.phase ≠ .run ∨ k.accAc = s.ac + 1 ∨ s.csClosed (dieOf c) then s
  else if dSerial x ∧ k.half.isNone ∧ !(s.putsDone c ch && s.shareDone c) then s
  else
    match src, dst with
    | some (.fault e), _ => if s.putsDone c ch then s.chunkFault c ch e else s
    | some (.entry r u), _ => s.walkRead c ch r u
    | _, .fault e => if s.putsDone c ch then s.chunkFault c ch e else s
    | _, .entry r u => s.walkRead c ch r u
    | some (.place p), .place q =>
      match k.half with
      | some (b, v) => s.chunkSecond c ch x p q b v
      | none => s.chunkFirst c ch x (some p) q
    | none, .place q => s.chunkFirst c ch x none q

/-- Whether a channel makes, or has made, an access in this ac. -/
def State.accesses (s : State) (c : CoreId) (ch : Chan) : Bool := ((s.chunkStep c ch).dma c ch).accAc == s.ac + 1

/-- DMA_CHUNK (R397, R413, R416, R417, R419, R422, R423): the next access of a running descriptor.  Q accesses memory only in an
ac in which P makes no access. -/
def execDmaChunk (c : CoreId) (ch : Chan) (s : State) : Host.Outcome State Fault Refusal :=
  .next (
    match ch with
    | .p => s.chunkStep c .p
    | .q => if s.accesses c .p then s else s.chunkStep c .q)

/-- The engine's writes whose time has come take their lanes, in their order (R345, R347). -/
def State.dmaPut (s : State) (c : CoreId) (p : LanePut) : State :=
  if s.ac < p.due then s
  else
    match s.claimPut c p.addr p.data.length with
    | (_, false) => s
    | (s, true) =>
      (s.onCore c fun k => { k with dmaPuts := k.dmaPuts.erase p }).amPut c p.addr p.data p.poison |>.onDma c p.ch fun k =>
        { k with last := Nat.max k.last (if p.data.length % 8 = 0 then s.ac + 1 else s.ac + 2) }
def State.dmaPutsDue (s : State) (c : CoreId) : State := (s.core c).dmaPuts.foldl (fun s p => s.dmaPut c p) s

/-- The lanes that the engine takes in this ac, or would take (R347). -/
def State.dmaLanes (s : State) (c : CoreId) : Nat :=
  let t := s.chunkStep c .p
  let t := if s.accesses c .p then t else t.chunkStep c .q
  (t.core c).amUse.foldl (fun m u => if u.1 = s.ac then m ||| u.2.1 else m) (s.putLanes c)

/-! ### The lines of fabric operations (R538, R547, R603): the engine's rank, after the engine -/

/-- The activation-memory line that line `i` of arriving data is for; the words of a result are for partial-sum memory. -/
def Asm.lineAt (a : Asm) (i : Nat) : Option Nat :=
  match a.head.body with
  | .write _ _ h => if h.kind = 6 then none else some (h.taddr.toNat + 64 * h.fa.toNat + i)
  | .input am _ _ => some (am + i)
  | _ => none

/-- The lanes of the next line that arrives, and of the next that an outgoing operation reads. -/
def Core.fabLanes (k : Core) : Nat :=
  (match k.fabIn with
   | a :: _ => (match a.lineAt k.fabNext with | some l => if l < 65536 then laneMask (64 * l) 64 else 0 | none => 0)
   | [] => 0) |||
  (match k.fabSend with
   | f :: _ => if !f.words && decide (f.addr + f.next < 65536) then laneMask (64 * (f.addr + f.next)) 64 else 0
   | [] => 0)
/-- The lanes of every dynamic access of an ac that comes before patrol scrub (R347). -/
def State.aboveScrub (s : State) (c : CoreId) : Nat := s.aboveDma c ||| s.dmaLanes c ||| (s.core c).fabLanes

/-! ### Completion, links and doorbells (R411, R424 to R426, R429 to R434, R437, R438) -/

/-- The compare registers of a channel (R422, R438). -/
def State.compareRegs (s : State) (c : CoreId) (ch : Chan) (x : Nat) (m : Option (Nat × Nat × Bool)) : State :=
  let o := match ch with | .p => 0x20 | .q => 0x28
  match m with
  | some (byte, pos, p) =>
    let i := dIdx x pos
    (s.setReg (.dma c) o (2 ^ 31 + (if p then 2 ^ 30 else 0) + byte * 2 ^ 23 + i.1)).setReg (.dma c) (o + 4)
      (i.2.2 * 2 ^ 16 + i.2.1)
  | none => (s.setReg (.dma c) o 0).setReg (.dma c) (o + 4) 0

/-- DMA_DESC_COMPLETE (R424 to R426, R434): the last write of a descriptor is in place. -/
def execDmaDescComplete (c : CoreId) (ch : Chan) (s : State) : Host.Outcome State Fault Refusal :=
  .next (
    let k := s.dma c ch
    let x := k.desc.toNat
    if k.phase ≠ .done ∨ !s.putsDone c ch ∨ (dDstSpace x = spWs ∧ dOp x ≠ opCompare ∧ !s.shareDone c) then s
    else
      let cmp := dOp x == opCompare
      let s := if k.poison then s.raise (.dma c) 0x04 5 else s
      let s := if dSig x && !(cmp && k.mismatch.isSome) then s.semSignal c (dSem x) 1 else s
      let s := if cmp then s.compareRegs c ch x k.mismatch else s
      match ch with
      | .p =>
        let s := match k.job with
          | some n => s.onCore c fun j => j.setOp n fun o =>
              { o with desc := if cmp then BitVec.ofNat 256 (s.reg (.dma c) 0x20 + s.reg (.dma c) 0x24 * 2 ^ 32) else 0 }
          | none => s
        s.onDma c .p fun k => { k with phase := .link, since := s.ac + 1, jobPoison := k.jobPoison || k.poison }
      | .q =>
        let s := (s.setReg (.dma c) 0x18 k.idx.toNat).count (.dma c) 0x1C 1
        let s := if dIrq x then s.dmaIrq c else s
        if k.stop then s.qIdle c else s.onDma c .q fun k => { k with phase := .link, since := s.ac + 1 })

/-- DMA_LINK_READ (R411, R430, R431): the engine reads the link word of the completed descriptor.  A doorbell of this ac leaves
pend at 1; an earlier one makes Q read the word again. -/
def execDmaLinkRead (c : CoreId) (ch : Chan) (s : State) : Host.Outcome State Fault Refusal :=
  .next (
    let k := s.dma c ch
    let w := s.linkWord c k.idx.toNat
    if k.phase ≠ .link ∨ s.ac < k.since then s
    else
      match ch with
      | .p =>
        if linkEoc w then s.jobEnd c s.ac k.jobPoison
        else if 64 ≤ k.started then ((s.dmaFault c .p 5 (linkNext w) 0).raise (.dma c) 0x04 5).jobEnd c s.ac true
        else s.onDma c .p fun k =>
          { k with phase := .fetch, idx := BitVec.ofNat 9 (linkNext w), started := k.started + 1, since := s.ac + 1 }
      | .q =>
        let rung := k.bell == s.ac + 1
        if linkEoc w then
          s.onDma c .q fun k => { k with phase := if k.pend then .link else .parked, pend := rung, since := s.ac + 1 }
        else s.onDma c .q fun k => { k with phase := .fetch, idx := BitVec.ofNat 9 (linkNext w), pend := rung, since := s.ac + 1 })

/-- A write of DMA_DOORBELL (R429, R431): Q is still RUNNING in the ac of the link read that parks it. -/
def State.doorbell (s : State) (c : CoreId) : State :=
  s.onDma c .q fun k =>
    let k := { k with bell := s.ac + 1 }
    match k.phase with
    | .idle => { k with phase := .fetch, idx := BitVec.ofNat 9 (s.reg (.dma c) 0x0C), since := s.ac + 1 }
    | .parked => { k with phase := .link, pend := decide (s.ac < k.since), since := s.ac + 1 }
    | _ => { k with pend := true }

/-- DMA_DOORBELL (R429, R431). -/
def execDmaDoorbell (c : CoreId) (s : State) : Host.Outcome State Fault Refusal := .next (s.doorbell c)

/-- A 1 written to DMA_QCTRL.stop: Q completes its descriptor and goes IDLE (R20, R437). -/
def State.qStop (s : State) (c : CoreId) : State :=
  if s.reg (.dma c) 0x14 % 2 = 1 then s.raise (.dma c) 0x04 7
  else
    match (s.dma c .q).phase with
    | .idle | .parked | .link => s.qIdle c
    | _ => (s.onDma c .q fun k => { k with stop := true }).orReg (.dma c) 0x14 1

/-- DMA_QCTRL_STOP (R20, R437). -/
def execDmaQctrlStop (c : CoreId) (s : State) : Host.Outcome State Fault Refusal := .next (s.qStop c)

end Sys2Proof.Machine
end

