-- ==== Sys2Proof/Machine/Binary.lean ====
section
/-! DEFINITION. Fauno binaries: their tables, legal translations, fix-ups and what loading one leaves in its context (R231,
R370, R568 to R576, R579). -/

namespace Sys2Proof.Machine

/-- The endpoint of the module (FAB_ENDPOINT). -/
def State.self (s : State) : Endpoint := BitVec.ofNat 16 (s.reg .fab 0x08)

/-! ### Sections (R568, R570, R573) -/

/-- The bytes of a section. -/
def binPart (b : Binary) (p : Nat × Nat) : List Byte := (b.bytes.drop p.1).take p.2
/-- A little-endian field of an entry. -/
def entryNat (e : List Byte) (at_ n : Nat) : Nat := leNat ((e.drop at_).take n)

/-- A fix-up entry (R573). -/
structure FixUp where
  offset : Nat
  lo : Nat
  kind : Nat
  rank : Nat
  arg : Nat
  deriving DecidableEq, Repr

def FixUp.of (e : List Byte) : FixUp :=
  ⟨entryNat e 0 4, entryNat e 4 1, entryNat e 5 1, entryNat e 6 2, entryNat e 8 2⟩
def binFixUps (b : Binary) : List FixUp := (chunksOf 16 (b.fixups.2 / 16) (binPart b b.fixups)).map FixUp.of

/-- A shard table entry (R570): rank, template core, start and length in 4 KiB, digest. -/
structure ShardEntry where
  rank : Nat
  core : Nat
  start : Nat
  len : Nat
  digest : Digest
  deriving DecidableEq, Repr

def ShardEntry.of (e : List Byte) : ShardEntry :=
  ⟨entryNat e 0 2, entryNat e 2 2, entryNat e 4 4, entryNat e 8 4,
    bytesDigest (e.drop 16)⟩
def binShards (b : Binary) : List ShardEntry := (chunksOf 64 (b.shards.2 / 64) (binPart b b.shards)).map ShardEntry.of

/-! ### Translations (R569, R572) -/

/-- The die at a grid place under a translation, when the grid has it (R24). -/
def landDie (row col : Nat) (p : RankPlace) : Option DieId :=
  let r : Int := row + p.dr.toInt
  let c : Int := col + p.dc.toInt
  if 0 ≤ r ∧ r < 3 ∧ 0 ≤ c ∧ c < 4 then some (Fin.ofNat 12 (4 * r + c).toNat) else none

/-- The in-die positions of a die's ports of an I/O die (R36). -/
def diePorts (d : DieId) (i : IoId) : List Nat :=
  ((List.finRange 64).filter fun p => (portOf (coreOf d p)).map Prod.snd == some i).map fun p => p.val

/-- Whether a die may stand for a template die: it has ports of every I/O die of the entry, at the in-die positions of the
template position's own ports where that position has any (R572; DEDUCED, log 205). -/
def portsFit (t : TemplateDie) (own : Option DieId) (d : DieId) : Bool :=
  (List.finRange 4).all fun i =>
    !t.ios.getLsbD i.val ||
      (!(diePorts d i).isEmpty &&
        (match own with | some e => (diePorts e i).all fun p => (diePorts d i).contains p | none => true))

/-- A legal translation of the template onto the dies of a context (R572). -/
def State.landsOn (s : State) (x : Ctx) (b : Binary) (p : RankPlace) : Bool :=
  !b.template.isEmpty && decide (b.template.length ≤ 12) && b.template.all fun t =>
    match landDie t.row.toNat t.col.toNat p with
    | some d => s.holds x d && portsFit t (landDie t.row.toNat t.col.toNat ⟨0, 0, 0, []⟩) d
    | none => false

/-- The core of a template logical core ID under a translation: its die field d becomes d + 4Δr + Δc (R572). -/
def relocate (p : RankPlace) (id : Nat) : Nat :=
  ((id / 64 + 4 * p.dr.toInt + p.dc.toInt) % 16).toNat * 64 + id % 64

/-! ### Fix-ups (R573 to R575) -/

/-- The width of a fix-up kind; none for a reserved kind (R574). -/
def fixWidth (kind : Nat) : Option Nat :=
  if kind = 1 then some 16 else if kind = 2 then some 10 else if kind = 3 then some 12 else if kind = 4 ∨ kind = 5 then some 8
  else none

/-- The kind is none of the reserved ones, and the field does not run past bit 63. -/
def FixUp.ok (f : FixUp) : Bool := match fixWidth f.kind with | some w => decide (f.lo + w ≤ 64) | none => false

/-- The allocated group of a binary's group. -/
def groupOf (gs : List GroupAlloc) (kind arg : Nat) : Option Nat :=
  (gs.find? fun g => g.kind.toNat == kind && g.binary.toNat == arg).map fun g => g.allocated.toNat

/-- The value that an entry writes over a field that holds `old`. -/
def FixUp.value (f : FixUp) (x : Ctx) (ranks : List RankPlace) (gs : List GroupAlloc) (p : RankPlace) (old : Nat) :
    Option Nat :=
  if f.kind = 1 then (ranks[f.arg]?).map fun r => r.endpoint.toNat
  else if f.kind = 2 then some (relocate p old)
  else if f.kind = 5 then some x.toNat
  else groupOf gs f.kind f.arg

/-- One entry patches an image; the values written so far. -/
def FixUp.apply (x : Ctx) (ranks : List RankPlace) (gs : List GroupAlloc) (p : RankPlace)
    (a : Option (List Byte × List Nat)) (f : FixUp) : Option (List Byte × List Nat) :=
  match a, fixWidth f.kind with
  | some (img, vs), some w =>
    let q := entryNat img f.offset 8
    match f.value x ranks gs p (bits q (f.lo + w - 1) f.lo) with
    | some v =>
      some (img.take f.offset ++ leBytes 8 (setBits q (f.lo + w - 1) f.lo v) ++ img.drop (f.offset + 8), vs ++ [v % 2 ^ w])
    | none => none
  | _, _ => none

/-- The patched image of a rank and the values written, in table order; none when some entry names nothing (R575). -/
def binPatch (b : Binary) (x : Ctx) (ranks : List RankPlace) (gs : List GroupAlloc) (r : Nat) :
    Option (List Byte × List Nat) :=
  match ranks[r]? with
  | some p =>
    ((binFixUps b).filter fun f => f.rank == r).foldl (FixUp.apply x ranks gs p) (some (binPart b ((b.images[r]?).getD (0, 0)), []))
  | none => none

/-- The digest of the fix-up values, 2 bytes each (R500, R575). -/
def fixDigest (vs : List Nat) : Digest := sha384 (vs.flatMap fun v => leBytes 2 v)

/-! ### Loading (R231, R370, R575, R576) -/

/-- The rank whose owner, or else whose replica, this module is (R579). -/
def State.rankOf (s : State) (ranks : List RankPlace) : Option Nat :=
  match ranks.findIdx? fun r => r.endpoint == s.self with
  | some r => some r
  | none => ranks.findIdx? fun r => r.replicas.contains s.self

/-- The patched image and the fix-up values follow the ranks of a context (R575, R658). -/
def State.repatch (s : State) (x : Ctx) : State :=
  let k := s.ctx x
  match k.binary, s.rankOf k.ranks with
  | some b, some r =>
    match binPatch b x k.ranks k.groups r with
    | some (img, vs) => s.onCtx x fun k => { k with image := img, fixup := fixDigest vs }
    | none => s
  | _, _ => s

def State.setRanks (s : State) (x : Ctx) (ranks : List RankPlace) : State :=
  (s.onCtx x fun k => { k with ranks := ranks }).repatch x

/-- The shards of a rank on this module; one that it holds already stays present. -/
def shardRecs (old : List ShardRec) (b : Binary) (r : Nat) (p : RankPlace) : List ShardRec :=
  ((binShards b).filter fun e => e.rank == r).map fun e =>
    let h : ShardRec := ⟨1024 * e.rank + e.core, relocate p e.core, e.start, e.len, e.digest, false, 0⟩
    match old.find? fun g => g.number == h.number && g.core == h.core && g.start == h.start && g.digest == h.digest with
    | some g => g
    | none => h

/-- Lumef sets the binary's frame size on the dies of the context, and initialises their page managers (R370, R405). -/
def State.setFrameSize (s : State) (x : Ctx) (n : BitVec 2) : State :=
  (s.diesOf x).foldl (fun s d =>
    let t := s.setFld (.pgm d) 0x00 1 0 n.toNat
    if (s.pgm d).size = n.toNat then t else t.pgmInitReq d) s

/-- A binary with a placement is loaded, or the whole load is refused: a reserved fix-up kind, a field past bit 63, a rank
without a place or a die set without a legal translation (R572, R574). -/
def State.loadBinary (s : State) (x : Ctx) (l : Placement) : Option State :=
  let b := l.binary
  if !(binFixUps b).all FixUp.ok ∨ l.ranks.length ≠ b.modules.toNat then none
  else
    match s.rankOf l.ranks with
    | none => none
    | some r =>
      match l.ranks[r]?, binPatch b x l.ranks l.groups r with
      | some p, some (img, vs) =>
        if !s.landsOn x b p then none
        else
          some ((s.onCtx x fun k =>
            { k with binary := some b, ranks := l.ranks, groups := l.groups, program := sha384 b.bytes, stable := b.stable
                     image := img, fixup := fixDigest vs, shards := shardRecs k.shards b r p }).setFrameSize x b.frameSize)
      | _, _ => none

/-- The channel table of a core, which the binary gives at each launch (R231). -/
def State.chansOf (s : State) (x : Ctx) (c : CoreId) : Store Channel :=
  let k := s.ctx x
  match k.binary, s.rankOf k.ranks with
  | some b, some r =>
    match k.ranks[r]? with
    | some p =>
      (b.chans.filter fun e => e.rank.toNat == r && relocate p e.core.toNat == c.val).foldl (fun m e =>
        Store.set ⟨0, 0, 0⟩ m e.chan.toNat ⟨BitVec.ofNat 10 (relocate p e.dest.toNat), e.q, e.init.toNat⟩) []
    | none => (s.core c).chans
  | _, _ => (s.core c).chans

end Sys2Proof.Machine
end

