-- ==== Sys2Proof/Machine/Launch.lean ====
section
/-! DEFINITION. The command sequencer of a die and the step launch (R197, R201 to R206, R231, R232, R298, R316 to R320,
R428, R460 to R466, R485, R486, R543, R640). -/

namespace Sys2Proof.Machine

/-! ### Flags and faults -/

/-- The step of a context is flagged: its summary will hold poison (R204, R460, R463). -/
def State.flagStep (s : State) (x : Ctx) : State := s.onCtx x fun k => { k with flagged := true }

/-- A CMD fault: bit 0 type, 1 length, 2 core (R204, R249). -/
def State.cmdFault (s : State) (d : DieId) (bit : Nat) (x : Ctx) : State := (s.raise (.cqDie d) 0x04 bit).flagStep x
/-- A fault of the control-core block (R467). -/
def State.ccFault (s : State) (d : DieId) (bit : Nat) : State := s.raise (.cqDie d) 0x44 bit
def ccBusyWrite : Nat := 7
def ccXclass : Nat := 6
def ccLate : Nat := 5
def ccRule : Nat := 4
def ccProgOver : Nat := 3
def ccDouble : Nat := 2
def ccIramUce : Nat := 1
def ccDramUce : Nat := 0
/-- An interrupt cause 8 + b becomes pending (R457, R467). -/
def State.ccIrq (s : State) (d : DieId) (b : Nat) : State := s.orReg (.cqDie d) 0x48 (2 ^ b)

/-! ### Command blocks (R202, R203) -/

def hCtx (h : Nat) : Ctx := BitVec.ofNat 8 (bits h 63 56)
def hBcast (h : Nat) : Bool := bitAt h 43
def hLast (h : Nat) : Bool := bitAt h 42
def hCore (h : Nat) : Nat := bits h 41 32
def hToken (h : Nat) : Token := BitVec.ofNat 12 (bits h 27 16)
def hLen (h : Nat) : Nat := bits h 15 8
def hType (h : Nat) : Nat := bits h 7 0

/-- The target cores of a block, in ascending logical core ID; none when the core field or the die lies outside the dies
of the block's context (R28, R204). -/
def State.targets (s : State) (d : DieId) (h : Nat) : Option (List CoreId) :=
  if hBcast h then (if s.holds (hCtx h) d then some (coresOf d) else none)
  else if hCore h < 768 then
    let c : CoreId := Fin.ofNat 768 (hCore h)
    if s.holds (hCtx h) (dieOf c) then some [c] else none
  else none

/-- The next block of a die, when the block before it is complete and all its entries have arrived: its header, its body and
the state without it.  CQ_CCDONE.done clears as it starts (R201, R467). -/
def State.nextBlock (s : State) (d : DieId) : Option (Nat × List Line × State) :=
  match (s.die d).block, (s.die d).cmdq with
  | none, e :: rest =>
    let n := hLen e.toNat
    if rest.length < n ∨ s.ac < (s.die d).seqFrom then none
    else some (e.toNat, rest.take n,
      (s.onDie d fun k => { k with cmdq := rest.drop n }).setFld (.cqDie d) 0x60 0 0 0)
  | _, _ => none

/-- Starts the next block when it has the type `ty`; a block of a reserved type, or with targets outside its context, is
discarded (R204). -/
def State.startBlock (s : State) (d : DieId) (ty : Nat) (f : Nat → List Line → List CoreId → State → State) : State :=
  match s.nextBlock d with
  | none => s
  | some (h, body, t) =>
    if hType h = 0 ∨ 4 < hType h then t.cmdFault d 0 (hCtx h)
    else if hType h ≠ ty then s
    else
      match t.targets d h with
      | some cs => f h body cs t
      | none => t.cmdFault d 2 (hCtx h)

/-! ### PROGRAM (R188, R203, R460) -/

def pmKey (c : CoreId) (bank : Bool) (i : Nat) : Nat := c.val * 2048 + (if bank then 1024 else 0) + i

/-- Writes a bundle at an index of a bank. -/
def State.putBundle (s : State) (c : CoreId) (bank : Bool) (i v : Nat) : State :=
  (s.pmSet (pmBase c bank + 32 * i) (leBytes 32 v)).setPmErr (pmKey c bank i) .none

/-- The next bundle of a load into the inactive bank; false past index 1023. -/
def State.progWrite (s : State) (c : CoreId) (v : Nat) : State × Bool :=
  let b := !(s.core c).bank
  let k := (s.core c).bankOf b
  let i := if k.complete then 0 else k.cursor
  if 1023 < i then (s, false)
  else ((s.putBundle c b i v).onCore c fun x => x.setBank b ⟨false, 0, i + 1, 0⟩, true)

/-- The bundles of a body, the lower half of each entry first. -/
def bundlesOf (body : List Line) : List Nat :=
  body.flatMap fun e => [bits e.toNat 255 0, bits e.toNat 511 256]

/-- Writes bundles into every target core; stops at the first that would pass index 1023. -/
def State.progAll (s : State) (cs : List CoreId) : List Nat → State × Bool
  | [] => (s, true)
  | v :: rest =>
    let (t, ok) := cs.foldl (fun (a : State × Bool) c => let (t, o) := a.1.progWrite c v; (t, a.2 && o)) (s, true)
    if ok then t.progAll cs rest else (t, false)

/-- The load completes under the block's token in ac `at_` (R202, R203). -/
def State.progDone (s : State) (cs : List CoreId) (t : Token) (at_ : Nat) : State :=
  cs.foldl (fun s c => s.onCore c fun k => k.setBank (!k.bank) ⟨true, t, 0, at_⟩) s

/-- A PROGRAM block runs for 1 ac a body entry, in which every target core takes that entry (R460; DEDUCED, log 52). -/
def State.programRun (s : State) (d : DieId) (h : Nat) (body : List Line) (cs : List CoreId) : State :=
  let done := s.ac + body.length
  let (t, ok) := (s.onDie d fun k => { k with seqFrom := done }).progAll cs (bundlesOf body)
  if !ok then (t.ccFault d ccProgOver).flagStep (hCtx h)
  else if hLast h then t.progDone cs (hToken h) done else t

/-- PROGRAM_BLOCK (R203, R460). -/
def execProgramBlock (d : DieId) (s : State) : Host.Outcome State Fault Refusal :=
  .next (s.startBlock d 1 fun h body cs t => t.programRun d h body cs)

/-! ### STREAM (R461 to R463) -/

def line0 (body : List Line) : Nat := (body.headD 0).toNat
def stSoft (x : Nat) : Bool := bitAt x 511
def stXsq (x : Nat) : Bool := bitAt x 510
def stRules (x : Nat) : Nat := bits x 509 506
def stStep (x : Nat) : Nat := bits x 505 494
def stN0 (x : Nat) : Nat := bits x 493 478 + 1
def stN1 (x : Nat) : Nat := bits x 477 462 + 1
def stN2 (x : Nat) : Nat := bits x 461 446 + 1
def stTemplate (x : Nat) : Nat := bits x 255 0

/-- A field rule: lowest bit, width and the three steps (R462). -/
structure StreamRule where
  lo : Nat
  width : Nat
  s0 : Int
  s1 : Int
  s2 : Int

/-- The rules of a stream program. -/
def rulesOf (body : List Line) : List StreamRule :=
  (List.range (stRules (line0 body))).map fun q =>
    let x := bits ((body.drop (q / 4 + 1)).headD 0).toNat (128 * (q % 4) + 127) (128 * (q % 4))
    ⟨bits x 7 0, bits x 13 8 + 1, signedOf 32 (bits x 63 32), signedOf 32 (bits x 95 64), signedOf 32 (bits x 127 96)⟩

def StreamRule.meets (a b : StreamRule) : Bool := decide (a.lo < b.lo + b.width) && decide (b.lo < a.lo + a.width)

/-- A rule past bit 255, or two rules that overlap (R463). -/
def rulesBad : List StreamRule → Bool
  | [] => false
  | r :: rest => decide (256 < r.lo + r.width) || rest.any r.meets || rulesBad rest

/-- Descriptor x of a stream program (R463). -/
def streamDesc (body : List Line) (x : Nat) : Nat :=
  let w := line0 body
  let k0 : Int := x % stN0 w
  let k1 : Int := x / stN0 w % stN1 w
  let k2 : Int := x / (stN0 w * stN1 w)
  (rulesOf body).foldl (fun d r =>
    let f : Int := bits d (r.lo + r.width - 1) r.lo
    setBits d (r.lo + r.width - 1) r.lo ((f + k0 * r.s0 + k1 * r.s1 + k2 * r.s2) % 2 ^ r.width).toNat) (stTemplate w)

def streamCount (body : List Line) : Nat := stN0 (line0 body) * stN1 (line0 body) * stN2 (line0 body)

/-- A stream program occupies at most 3 body entries, so one of more than 8 rules has no right length (R462). -/
def State.streamRun (s : State) (d : DieId) (h : Nat) (body : List Line) : State :=
  if body.length ≠ 1 + ceilDiv (stRules (line0 body)) 4 ∨ 8 < stRules (line0 body) then s.cmdFault d 1 (hCtx h)
  else if rulesBad (rulesOf body) then (s.ccFault d ccRule).flagStep (hCtx h)
  else if stSoft (line0 body) then
    (s.onDie d fun k => { k with block := some ⟨h, body, 0, true, false⟩ }).ccIrq d 3
  else s.onDie d fun k => { k with block := some ⟨h, body, 0, false, true⟩ }

/-- STREAM_BLOCK (R461 to R463): the stream program is checked and its expansion begins, or the soft block stands open. -/
def execStreamBlock (d : DieId) (s : State) : Host.Outcome State Fault Refusal :=
  .next (s.startBlock d 2 fun h body _ t => t.streamRun d h body)

/-- Pushes a descriptor into MSQ or XSQ; a reserved class goes poisoned (R205, R465). -/
def State.seqPush (s : State) (d : DieId) (c : CoreId) (xsq : Bool) (t : Token) (desc : Nat) : State :=
  let bad := xsq && decide (bits desc 255 252 = 0 ∨ 4 < bits desc 255 252)
  let s := if bad then s.ccFault d ccXclass else s
  (s.qPush c (if xsq then qXSQ else qMSQ) t bad (BitVec.ofNat 256 desc)).onDie d fun k => { k with pushAc := s.ac + 1 }

/-- The next push of the expansion in progress: core, token and descriptor. -/
def State.streamNext (s : State) (d : DieId) : Option (Block × CoreId × Token × Nat) :=
  match (s.die d).block with
  | some b =>
    if !b.expanding then none
    else
      match s.targets d b.hdr with
      | some cs =>
        let n := cs.length
        match cs[b.pushed % n]? with
        | some c =>
          let x := b.pushed / n
          some (b, c, hToken b.hdr + BitVec.ofNat 12 (x * stStep (line0 b.body)), streamDesc b.body x)
        | none => none
      | none => none
  | none => none

/-- The expansion moves on; after its last push the block is complete. -/
def State.streamMoved (s : State) (d : DieId) (b : Block) : State :=
  let n := ((s.targets d b.hdr).getD []).length
  s.onDie d fun k =>
    { k with block := if b.pushed + 1 < streamCount b.body * n then some { b with pushed := b.pushed + 1 } else none }

/-- The window push of R466, when its queue has room. -/
def State.windowPush (s : State) (d : DieId) : State :=
  match (s.die d).push with
  | none => s
  | some (xsq, pos, t, desc) =>
    let c := coreOf d (Fin.ofNat 64 pos.toNat)
    if s.qFull c (if xsq then qXSQ else qMSQ) then s
    else ((s.seqPush d c xsq t desc.toNat).onDie d fun k => { k with push := none }).setFld (.cqDie d) 0xA0 31 31 0

/-- STREAM_PUSH (R205, R463, R466): at most one push of a die per ac, the expansion in progress first; a full queue makes
its push wait. -/
def execStreamPush (d : DieId) (s : State) : Host.Outcome State Fault Refusal :=
  .next (
    if s.ac < (s.die d).pushAc then s
    else
      match s.streamNext d with
      | some (b, c, t, desc) =>
        let xsq := stXsq (line0 b.body)
        if s.qFull c (if xsq then qXSQ else qMSQ) then s.windowPush d
        else (s.seqPush d c xsq t desc).streamMoved d b
      | none => s.windowPush d)

/-- Lumef's 1 to CQ_CCDONE.done: it closes the soft block (R461, R467). -/
def State.ccDone (s : State) (d : DieId) : State :=
  if s.fld (.cqDie d) 0x60 0 0 = 1 then s.ccFault d ccBusyWrite
  else
    (s.setFld (.cqDie d) 0x60 0 0 1).onDie d fun k =>
      { k with block := match k.block with | some b => if b.soft then none else some b | none => none }

/-- CQ_CCDONE (R461). -/
def execCqCcdone (d : DieId) (s : State) : Host.Outcome State Fault Refusal := .next (s.ccDone d)

/-- The 256 bits of CQ_CCPUSH0 to CQ_CCPUSH7 (R466). -/
def State.pushWindow (s : State) (d : DieId) : Nat :=
  (List.range 8).foldl (fun v i => v + s.reg (.cqDie d) (0x80 + 4 * i) * 2 ^ (32 * i)) 0

/-- A 1 written to CQ_CCPUSHCTL.go, with the RW fields as the write sets them (R20, R466, R750). -/
def State.pushGo (s : State) (d : DieId) (queue : Bool) (pos : BitVec 6) (t : Token) : State :=
  if s.fld (.cqDie d) 0xA0 31 31 = 1 then s.ccFault d ccBusyWrite
  else
    (s.setReg (.cqDie d) 0xA0 (2 ^ 31 + (if queue then 2 ^ 30 else 0) + pos.toNat * 2 ^ 22 + t.toNat)).onDie d fun k =>
      { k with push := some (queue, pos, t, BitVec.ofNat 256 (s.pushWindow d)) }

/-- CQ_CCPUSHCTL_GO (R466). -/
def execCqCcpushctlGo (d : DieId) (queue : Bool) (pos : BitVec 6) (token : Token) (s : State) :
    Host.Outcome State Fault Refusal := .next (s.pushGo d queue pos token)

/-! ### FENCE (R203) -/

/-- FENCE_BLOCK: passed once every descriptor of earlier blocks has been pushed; one whose core field names a core outside the
context's dies is discarded (R28, R204). -/
def execFenceBlock (d : DieId) (s : State) : Host.Outcome State Fault Refusal :=
  .next (
    match s.nextBlock d with
    | none => s
    | some (h, _, t) =>
      if hType h = 0 ∨ 4 < hType h then t.cmdFault d 0 (hCtx h)
      else if hType h ≠ 4 then s
      else if (t.targets d h).isNone then t.cmdFault d 2 (hCtx h)
      else if (s.die d).push.isNone then t else s)

/-- The header of the block whose body is not all in the queue, with the entries of the blocks before it; `n` bounds the
number of blocks. -/
def cutBlock : Nat → List Line → List Line → Option (Nat × List Line)
  | n + 1, kept, e :: rest =>
    if rest.length < hLen e.toNat then some (e.toNat, kept)
    else cutBlock n (kept ++ e :: rest.take (hLen e.toNat)) (rest.drop (hLen e.toNat))
  | _, _, _ => none

/-- At a step boundary a block whose body is not all queued is discarded (R204). -/
def State.cmdBoundary (s : State) (d : DieId) : State :=
  match cutBlock (s.die d).cmdq.length [] (s.die d).cmdq with
  | some (h, kept) => (s.onDie d fun k => { k with cmdq := kept }).cmdFault d 1 (hCtx h)
  | none => s

/-! ### LAUNCH (R197, R464) -/

/-- The body of a LAUNCH; a block without one leaves its contents open. -/
def State.launchBody (s : State) (body : List Line) : State × Nat :=
  match body with
  | e :: _ => (s, e.toNat)
  | [] => (s.draw 1, Config.freeNat s.free % 2 ^ 512)

/-- Seeds, step index and empty stream queues of a target core. -/
def State.armCore (s : State) (x : Nat) (c : CoreId) : State :=
  (((s.setReg (.vu c) 0x08 (bits x 95 64)).setReg (.vu c) 0x0C (bits x 127 96)).setReg (.vu c) 0x10
    (bits x 159 128)).onCore c fun k => (k.setQueue qMSQ []).setQueue qXSQ []

/-- A module without a lease arms no launch (R666). -/
def State.leased (s : State) : Bool := decide (s.car < s.mod.leaseUntil)

/-- The die is armed at the Peal, unless the Carillon count has reached it (R464).  A replay arms with the new Peal of its
notice (R494). -/
def State.launchRun (s : State) (d : DieId) (h : Nat) (body : List Line) (cs : List CoreId) : State :=
  let (s, x) := s.launchBody body
  let s := cs.foldl (fun s c => s.armCore x c) s
  let peal := match (s.ctx (hCtx h)).nextPeal with | some p => p.toNat | none => bits x 63 0
  if peal ≤ s.car then s.ccFault d ccLate
  else if !s.leased then s
  else s.onDie d fun k =>
    { k with armed := some ⟨hCtx h, BitVec.ofNat 64 peal, BitVec.ofNat 64 (bits x 127 64),
                            BitVec.ofNat 32 (bits x 159 128), bitAt x 160⟩
             copyEnd := none }

/-- LAUNCH_BLOCK (R464). -/
def execLaunchBlock (d : DieId) (s : State) : Host.Outcome State Fault Refusal :=
  .next (s.startBlock d 3 fun h body cs t => t.launchRun d h body cs)

/-! ### Remap (R316 to R320, R640) -/

def remapField (v r : Nat) : Nat := bits v (4 * r + 3) (4 * r)
/-- No field is 0x9 to 0xE (R316). -/
def remapLegal (v : Nat) : Bool :=
  (List.range 8).all fun r => decide (remapField v r ≤ 8) || decide (remapField v r = 15)
/-- The physical column of logical column k under a field (R317). -/
def physCol (f k : Nat) : Nat := if f < 8 ∧ f ≤ k then k + 1 else k
/-- The positions whose physical core changes. -/
def remapMoves (old new : Nat) : List (Nat × Nat) :=
  (List.range 8).flatMap fun r =>
    ((List.range 8).filter fun k => physCol (remapField old r) k ≠ physCol (remapField new r) k).map fun k => (r, k)

/-- What a written remap puts in force: every field but the illegal ones, in whose place the field in force stays (R316). -/
def State.remapNext (s : State) (d : DieId) : Nat :=
  let v := s.reg (.meshDie d) 0x00
  let old := s.reg (.meshDie d) 0x04
  (List.range 8).foldl (fun n r =>
    let f := remapField v r
    n + (if f ≤ 8 ∨ f = 15 then f else remapField old r) * 2 ^ (4 * r)) 0

/-- The written remap comes into force (R316, R320). -/
def State.forceRemap (s : State) (d : DieId) : State :=
  let t := s.setReg (.meshDie d) 0x04 (s.remapNext d)
  if remapLegal (s.reg (.meshDie d) 0x00) then t else t.raise (.meshDie d) 0x10 2

/-- The bank copies that an armed die owes before its Peal (R640). -/
def State.remapOwed (s : State) (d : DieId) : List (Nat × Nat) :=
  remapMoves (s.reg (.meshDie d) 0x04) (s.remapNext d)

/-- Whether a program bank of a position holds an uncorrectable word. -/
def State.bankUce (s : State) (c : CoreId) : Bool :=
  (errsIn s.pmErr (c.val * 2048) (c.val * 2048 + 2048)).any fun e => e.2 == .uce

/-- BANK_COPY (R640): the banks of every position that moves are copied, 256 ac each.  Banks are held by logical position,
so a completed copy leaves the banks of every position as they were; an uncorrectable word disarms the die. -/
def execBankCopy (d : DieId) (s : State) : Host.Outcome State Fault Refusal :=
  .next (
    let k := s.die d
    let moves := s.remapOwed d
    if k.armed.isNone ∨ k.copyEnd.isSome ∨ moves.isEmpty then s
    else if moves.any fun p => s.bankUce (coreOf d (Fin.ofNat 64 (8 * p.1 + p.2))) then
      s.onDie d fun k => { k with armed := none }
    else s.onDie d fun k => { k with copyEnd := some (s.ac + 256 * moves.length) })

/-! ### The launch (R197, R231, R232, R485, R486, R543) -/

/-- Whether a die is ready to launch: armed, with every owed copy ended (R640). -/
def State.ready (s : State) (x : Ctx) (d : DieId) : Option Armed :=
  match (s.die d).armed with
  | some a =>
    if a.ctx ≠ x then none
    else if (s.remapOwed d).isEmpty then some a
    else
      match (s.die d).copyEnd with
      | some t => if t ≤ s.ac then some a else none
      | none => none
  | none => none

/-- A running P job stops after its current chunk and pushes no completion (R428). -/
def State.stopP (s : State) (c : CoreId) : State :=
  s.onDma c .p fun k => { k with phase := .idle, job := none, jobPoison := false, poison := false, half := none }

/-- The reset of a core's step state at a launch (R197, R199, R225, R231, R256, R158). -/
def Core.fresh (k : Core) (bank : Bool) (now : Nat) : Core :=
  { ((((((k.setQueue qMCQ []).setQueue qCSQ []).setQueue qDMQ []).setQueue qFBQ []))) with
    mode := .lockstep, bank := bank, index := 0, preds := 0, lc := [], sems := [], semPend := [], skips := []
    desync := [], ops := [], msgqs := [], msgWait := [], creditPend := [], poisoned := false, ended := false, aborted := false
    ending := false, hold := 0, heldSince := none, arrivals := [], gongMode := none, issueFrom := now, qRoom := []
    credits := k.chans.foldl (fun m e => Store.set 0 m e.1 e.2.init) []
    vm := (List.range 8).foldl (fun m i => Store.set 0 m i (BitVec.allOnes 256)) [] }

def State.launchCore (s : State) (bank : Bool) (c : CoreId) : State :=
  ((s.stopP c).onCore c fun k => k.fresh bank s.ac).checkTransit c bank

/-- The step does not start on a core (R28, R232). -/
def State.refuseCore (s : State) (c : CoreId) : State :=
  s.onCore c fun k =>
    { k with mode := .idle, ended := true, poisoned := true, hold := 0, heldSince := none, ending := false, arrivals := []
             endedAt := s.ac, gongMode := none }

/-- All channels of a context: destination, queue and initial credits (R231). -/
def State.channels (s : State) (cs : List CoreId) : List Channel :=
  cs.flatMap fun c => (s.core c).chans.map Prod.snd

/-- Some queue is the target of more than 32 initial credits (R232). -/
def creditsBad (l : List Channel) : Bool :=
  l.any fun a => decide (32 < (l.foldl (fun n b => if b.dest = a.dest ∧ b.q = a.q then n + b.init else n) 0))

def Core.badChan (k : Core) : Bool := k.chans.any fun e => decide (768 ≤ e.2.dest.toNat)

/-- (step index, seed) as one number (R490). -/
def Armed.key (a : Armed) : Nat := a.step.toNat * 2 ^ 64 + a.seed.toNat
def minNat (d : Nat) (l : List Nat) : Nat := match l with | [] => d | h :: t => t.foldl Nat.min h
def maxNat (l : List Nat) : Nat := l.foldl Nat.max 0

/-- What the module records of a launch: the keys of its LAUNCH blocks and the Peal (R490, R498). -/
def State.recordLaunch (s : State) (x : Ctx) (as : List Armed) : State :=
  let lo := minNat 0 (as.map Armed.key)
  s.onCtx x fun k =>
    { k with step := BitVec.ofNat 32 (lo / 2 ^ 64), seed := BitVec.ofNat 64 (lo % 2 ^ 64)
             keyHiLocal := BitVec.ofNat 96 (maxNat (as.map Armed.key))
             peal := match as with | a :: _ => a.peal | [] => 0
             active := true, gongsDone := 0, waveAt := none, releaseAt := none, stepWave := false, summary := none
             children := [], sumSentAt := none, notice := none, gongFault := false, noticeLate := false, reported := []
             runRecords := [], mergedAt := none, waveDoneAt := none }

/-- A summary of this module (R490): flag bits of a STEP entry, poison in bit 2. -/
def State.moduleSummary (s : State) (x : Ctx) (flags : Nat) : GongSummary :=
  let k := s.ctx x
  ⟨BitVec.ofNat 8 flags, BitVec.ofNat 96 (k.step.toNat * 2 ^ 64 + k.seed.toNat), k.keyHiLocal, 1⟩

def State.disarm (s : State) (x : Ctx) : State :=
  (List.finRange 12).foldl (fun s d =>
    match (s.die d).armed with
    | some a => if a.ctx = x then s.onDie d fun k => { k with armed := none, copyEnd := none } else s
    | none => s) s

/-- Every die starts its cores with the channel tables of the binary; the generation changes (R231, R543). -/
def State.launchAll (s : State) (x : Ctx) (as : List (DieId × Armed)) : State :=
  let s := as.foldl (fun s a =>
    (s.forceRemap a.1).onDie a.1 fun k => { k with launched := some a.2.step, copyEnd := none }) s
  let cs := as.flatMap fun a => coresOf a.1
  let s := cs.foldl (fun s c => s.onCore c fun k => { k with chans := s.chansOf x c }) s
  let s := s.onCtx x fun k => { k with gen := BitVec.ofNat 24 (4 * (k.step.toNat % 2 ^ 22) + k.replay % 4) }
  if creditsBad (s.channels cs) then
    cs.foldl (fun s c =>
      let s := (s.cqFault c cqCredit).refuseCore c
      if (s.core c).badChan then s.cqFault c cqId else s) s
  else if cs.any fun c => (s.core c).badChan then
    cs.foldl (fun s c => let s := s.refuseCore c; if (s.core c).badChan then s.cqFault c cqId else s) s
  else as.foldl (fun s a => (coresOf a.1).foldl (fun s c => s.launchCore a.2.bank c) s) s

/-- STEP_LAUNCH (R49, R197, R485, R486): in the Peal ac of the earliest armed die of a context, every die of the context
launches when all are armed with the same Peal count; otherwise none does and the step is not clean.  DESIGN CHOICE: while a
step of the context is undecided no other starts; its armed dies are disarmed with CQ_CCFAULT.late_launch (log 208). -/
def execStepLaunch (x : Ctx) (s : State) : Host.Outcome State Fault Refusal :=
  .next (
    let armed := (List.finRange 12).filterMap fun d =>
      match (s.die d).armed with | some a => if a.ctx = x then some a else none | none => none
    if !(armed.any fun a => decide (a.peal.toNat ≤ s.car)) then s
    else if (s.ctx x).active then
      ((List.finRange 12).foldl (fun t d =>
        match (s.die d).armed with | some a => if a.ctx = x then t.ccFault d ccLate else t | none => t) s).disarm x
    else
      let dies := s.diesOf x
      let as := dies.filterMap fun d => (s.ready x d).map fun a => (d, a)
      let p := minNat 0 (armed.map fun a => a.peal.toNat)
      let s := (s.disarm x).recordLaunch x armed
      if dies.isEmpty ∨ as.length ≠ dies.length ∨ as.any (fun a => decide (a.2.peal.toNat ≠ p)) then
        (s.raise .clk 0x18 1).onCtx x fun k =>
          { k with stepWave := true, summary := some (s.moduleSummary x 4), flagged := false }
      else s.launchAll x as)

end Sys2Proof.Machine
end

