-- ==== Sys2Proof/Machine/Receipt.lean ====
section
/-! DEFINITION. Receipt chains and measurement registers (R496 to R503, R722 to R725). -/

namespace Sys2Proof.Machine

/-- A digest in twelve register words, word i holding digest bytes 4i + 3 to 4i. -/
def State.digestReg (s : State) (b : Blk) (off : Nat) : Digest :=
  bytesDigest ((List.range 12).flatMap fun i => leBytes 4 (s.reg b (off + 4 * i)))
def State.setDigestReg (s : State) (b : Blk) (off : Nat) (d : Digest) : State :=
  (List.range 12).foldl (fun s i => s.setReg b (off + 4 * i) (leNat (((digestBytes d).drop (4 * i)).take 4))) s

/-! ### Measurements (R722, R724) -/

/-- The boot measurement digest. -/
def Mod.boot (m : Mod) : Digest :=
  sha384 (digestBytes m.m1 ++ digestBytes m.m2 ++ digestBytes m.m3 ++ digestBytes m.m4 ++ digestBytes m.m5)

/-- An extension of a measurement register. -/
def extend (m d : Digest) : Digest := sha384 (digestBytes m ++ digestBytes d)

/-! ### Entries (R496 to R499) -/

def unackedMax : Nat := 16384
def tyGenesis : Nat := 0
def tyStep : Nat := 1
def tyClear : Nat := 2
def tyAssign : Nat := 3
def tySign : Nat := 4

/-- The next sequence number. -/
def Chain.next (k : Chain) : Nat := k.base + k.entries.length

/-- An entry of 384 bytes: the header of R497 and the body from byte 32. -/
def State.entryBytes (s : State) (e : Encl) (ty x n : Nat) (body : List Byte) : List Byte :=
  padTo 384 (leBytes 1 ty ++ [0x01] ++ leBytes 2 s.self.toNat ++ leBytes 1 e.toNat ++ leBytes 1 x ++ leBytes 2 0 ++
    leBytes 8 n ++ leBytes 8 s.car ++ leBytes 8 0 ++ body)

/-- Appends an entry: H_0 = SHA-384(E_0), H_n = SHA-384(H_(n-1) ‖ E_n) (R496). -/
def State.append (s : State) (e : Encl) (ty x : Nat) (body : List Byte) : State :=
  let k := s.chain e
  let b := s.entryBytes e ty x k.next body
  let h := if k.next = 0 then sha384 b else sha384 (digestBytes k.h ++ b)
  let sign := ty == tySign
  s.setChain e { k with entries := k.entries ++ [⟨b, h, sign, none, BitVec.ofNat 64 s.car⟩], h := h
                        since := if sign then none else match k.since with | none => some s.car | some t => some t }

/-- A chain begins with its GENESIS entry (R496, R499). -/
def State.genesis (s : State) (e : Encl) : State :=
  if (s.chain e).next = 0 then
    s.append e tyGenesis 0xFF (digestBytes Config.identity ++ digestBytes s.mod.boot ++ leBytes 8 s.mod.resetCount)
  else s

/-- A SIGN entry (R499, R501). -/
def State.appendSign (s : State) (e : Encl) : State :=
  s.append e tySign 0xFF (digestBytes (s.digestReg .sec 0x140))

/-- The signature of every unsigned SIGN entry of a chain, under the key in force. -/
def Chain.signAll (k : Chain) (boot : Digest) : Chain :=
  { k with entries := k.entries.map fun r =>
      if r.sign && r.signature.isNone then { r with signature := some (Config.sign boot r.chain) } else r }

/-- SIGN_APPEND (R501): an entry has been without a later SIGN entry for 1 s of Carillon time. -/
def execSignAppend (e : Encl) (s : State) : Host.Outcome State Fault Refusal :=
  .next (
    match (s.chain e).since with
    | some t => if t + 1000000000 ≤ s.car then s.appendSign e else s
    | none => s)

/-- The oldest unsigned SIGN entry takes its signature. -/
def signFirst (boot : Digest) : List Receipt → List Receipt
  | [] => []
  | r :: rest =>
    if r.sign && r.signature.isNone then { r with signature := some (Config.sign boot r.chain) } :: rest
    else r :: signFirst boot rest

/-- SIGNATURE_COMPLETE (R501, R502, R726). -/
def execSignatureComplete (e : Encl) (s : State) : Host.Outcome State Fault Refusal :=
  .next (s.setChain e { s.chain e with entries := signFirst s.mod.boot (s.chain e).entries })

/-- The host's acknowledgement of every entry below a count (R503, R618). -/
def Chain.ack (k : Chain) (upto : Nat) : Chain :=
  { k with base := k.base + ((upto - k.base).min k.entries.length), entries := k.entries.drop (upto - k.base) }

/-- Extends M5 and derives the attestation key again; chains with unsigned entries are signed with the old key first
(R724, R725). -/
def State.extendDebug (s : State) (d : Digest) : State :=
  let s := s.chains.foldl (fun (t : State) e =>
    let i : Encl := BitVec.ofNat 6 e.1
    let t := if (t.chain i).since.isSome then t.appendSign i else t
    t.setChain i ((t.chain i).signAll s.mod.boot)) s
  let s := s.onMod fun m => { m with m5 := extend m.m5 d }
  s.setDigestReg .sec 0x140 (Config.akHash s.mod.boot)

end Sys2Proof.Machine
end

