-- ==== Sys2Proof/Machine/Upkeep.lean ====
section
/-! DEFINITION. Corrected-error logs, row retirement, patrol scrub and the writes of the weight store (R336, R340, R352,
R356, R366, R633, R636 to R638, R641, R669). -/

namespace Sys2Proof.Machine

/-! ### Logs (R366, R669) -/

/-- A 1 written to MX_CEPOP.pop. -/
def State.popCe (s : State) (c : CoreId) : State := s.onCore c fun k => { k with ceLog := k.ceLog.tail }

/-- MX_CEPOP (R366, R367). -/
def execMxCepop (c : CoreId) (s : State) : Host.Outcome State Fault Refusal := .next (s.popCe c)

/-! ### Retirement (R636 to R638, R669) -/

def rowKey (unit row : Nat) : Nat := unit * 16384 + row
/-- Rows of a layer or slice. -/
def rowCount : Nat := 12288
/-- Spares used in a layer or slice. -/
def sparesUsed (m : Store Nat) (unit : Nat) : Nat := (m.filter fun e => e.1 / 16384 = unit).length

/-- Whether a retirement is refused: no such row, a row already retired, or no unused spare (R638). -/
def retireRefused (m : Store Nat) (unit row spares : Nat) : Bool :=
  decide (rowCount ≤ row) || decide (Store.get 0 m (rowKey unit row) ≠ 0) || decide (spares ≤ sparesUsed m unit)

/-- A 1 written to MX_RETIRE.go, with the layer and row as the write sets them (R20, R637, R750). -/
def State.mxRetire (s : State) (c : CoreId) (layer row : Nat) : State :=
  if s.fld (.mx c) 0x60 31 31 = 1 then s.mxFault c mxBusy
  else
    let s := s.setReg (.mx c) 0x60 (layer * 16384 + row)
    let k := s.core c
    if retireRefused k.retired layer row 32 then s.orReg (.mx c) 0x64 (2 ^ 30)
    else (s.onCore c fun k => { k with retiring := some ⟨layer, row, sparesUsed k.retired layer + 1, 0, false⟩ }).orReg (.mx c)
      0x60 (2 ^ 31)

/-- A 1 written to PGM_RETIRE.go (R20, R637, R750). -/
def State.pgmRetire (s : State) (d : DieId) (slice row : Nat) : State :=
  if s.fld (.pgm d) 0x50 31 31 = 1 then s.raise (.pgm d) 0x14 9
  else
    let s := (s.setReg (.pgm d) 0x50 (slice * 16384 + row)).onPgm d fun p => { p with lastSlice := slice }
    let p := s.pgm d
    if retireRefused p.retired slice row 64 then s.orReg (.pgm d) 0x54 (2 ^ 30)
    else (s.onPgm d fun p => { p with retiring := some ⟨slice, row, sparesUsed p.retired slice + 1, 0, false⟩ }).orReg (.pgm d)
      0x50 (2 ^ 31)

/-- MX_RETIRE (R637, R638). -/
def execMxRetire (c : CoreId) (layer : Bool) (row : BitVec 14) (s : State) : Host.Outcome State Fault Refusal :=
  .next (s.mxRetire c (if layer then 1 else 0) row.toNat)
/-- PGM_RETIRE (R637, R638). -/
def execPgmRetire (d : DieId) (slice : BitVec 5) (row : BitVec 14) (s : State) : Host.Outcome State Fault Refusal :=
  .next (s.pgmRetire d slice.toNat row.toNat)

/-- The weight-store words of a share: 32 bytes each. -/
def wsWords : Nat := 3145728
/-- Whether word w lies in a row of a layer (R636). -/
def inRow (w layer row : Nat) : Bool := w / 8 % 2 == layer && bits w 21 8 == row

/-- Slice and place in its slice of a context-store unit. -/
def unitInSlice (fs u : Nat) : Nat := (64 * u / fs / 32) * (fs / 64) + u % (fs / 64)
def unitAt (fs slice n : Nat) : Nat := (slice + 32 * (n / (fs / 64))) * (fs / 64) + n % (fs / 64)

/-- A row has 128 words or units; the copy of a context-store row takes a request to read and one to write each. -/
def wsCopyLen : Nat := 128
def csCopyLen : Nat := 256

/-- A weight-store copy goes on by one word in an ac in which no LOAD reads the share (R637). -/
def State.wsCopy (s : State) (c : CoreId) : State :=
  match (s.core c).retiring with
  | some r =>
    if (s.arr c).shadow = .loading ∨ wsCopyLen ≤ r.copied then s
    else s.onCore c fun k => { k with retiring := some { r with copied := r.copied + 1 } }
  | none => s

/-- A context-store copy makes its next background request of the slice, which it gives up to scrub in turn (R332, R637, R641). -/
def State.csCopy (s : State) (d : DieId) : State :=
  match (s.pgm d).retiring with
  | some r =>
    if csCopyLen ≤ r.copied then s
    else
      match s.sliceTake d r.unit true with
      | (s, true) =>
        (s.count (.meshDie d) 0x1C 1).onPgm d fun p => { p with retiring := some { r with copied := r.copied + 1, turn := false } }
      | (s, false) => s
  | none => s

/-- Whether the next background request of a slice is its copy's, after one of scrub. -/
def State.copyTurn (s : State) (d : DieId) (sl : Nat) : Bool :=
  match (s.pgm d).retiring with
  | some r => r.unit == sl && r.turn && decide (r.copied < csCopyLen)
  | none => false
def State.scrubTurn (s : State) (d : DieId) (sl : Nat) : State :=
  match (s.pgm d).retiring with
  | some r => if r.unit = sl then s.onPgm d fun p => { p with retiring := some { r with turn := true } } else s
  | none => s

/-- ROW_SWITCH (R637): once the copy is complete, the row's mapping switches to its spare in an ac or nc in which it is not
accessed. -/
def execRowSwitch (u : RetireUnit) (s : State) : Host.Outcome State Fault Refusal :=
  .next (
    match u with
    | .mx c =>
      match (s.core c).retiring with
      | none => s
      | some r =>
        if (s.arr c).shadow = .loading ∨ r.copied < wsCopyLen then s
        else
          let lo := c.val * wsWords
          let hit (k : Nat) : Bool := decide (lo ≤ k) && decide (k < lo + wsWords) && inRow (k - lo) r.unit r.row
          let s := s.wsSound hit
          ((s.onCore c fun k =>
            { k with retiring := none, retired := Store.set 0 k.retired (rowKey r.unit r.row) r.spare }).setFld (.mx c)
            0x60 31 31 0).orReg (.mx c) 0x64 (2 ^ 29)
    | .pgm d =>
      match (s.pgm d).retiring with
      | none => s
      | some r =>
        if r.copied < csCopyLen ∨ s.ac < Store.get 0 (s.die d).xfree r.unit then s
        else
        let fs := s.frameSize d
        let lo := csUnitKey d 0
        let hit (k : Nat) : Bool :=
          decide (lo ≤ k) && decide (k < lo + 3 * 2 ^ 24) && unitSlice fs (k - lo) == r.unit &&
            unitRow fs (k - lo) == r.row
        let s := s.csSound hit
        ((s.onPgm d fun p =>
          { p with retiring := none, retired := Store.set 0 p.retired (rowKey r.unit r.row) r.spare }).setFld (.pgm d)
          0x50 31 31 0).orReg (.pgm d) 0x54 (2 ^ 29))

/-! ### Patrol scrub (R340, R352, R356, R641) -/

/-- Patrol scrub stops on a die for the whole of CLEARING (R365). -/
def State.scrubStops (s : State) (d : DieId) : Bool := s.dieState d == dieClearing

/-- One weight-store word: a correction is written back, an uncorrectable error is recorded (R340). -/
def State.wsScrubWord (s : State) (c : CoreId) (w : Nat) : State :=
  let k := c.val * wsWords + w
  let e := Store.get .none s.wsErr k
  let s := (s.wsReadWords c w (w + 1)).1
  if e = .uce then s else s.setWsErr k .none

/-- The next word of a share's pass; a pass that ends begins the next. -/
def Core.wsNext (k : Core) (car : Nat) : Core :=
  if k.wsScrub + 1 < wsWords then { k with wsScrub := k.wsScrub + 1 } else { k with wsScrub := 0, wsPassT0 := car }

/-- Whether the share is free in this ac: no LOAD reads it, and no write or scrub occupies it (R105, R336). -/
def State.shareFree (s : State) (c : CoreId) : Bool :=
  (s.arr c).shadow != .loading && decide ((s.core c).wsFree ≤ s.ac)

/-- WS_SCRUB (R105, R340). -/
def execWsScrub (c : CoreId) (s : State) : Host.Outcome State Fault Refusal :=
  .next (
    if s.scrubStops (dieOf c) ∨ !s.shareFree c then s
    else (s.wsScrubWord c (s.core c).wsScrub).onCore c fun k => { k.wsNext s.car with wsFree := s.ac + 1 })

/-- A whole pass of a share that no LOAD reads, at once (R105, R642). -/
def State.wsScrubShare (s : State) (c : CoreId) : State :=
  if (s.arr c).shadow = .loading then s
  else
  let t := s.wsReadWords c 0 wsWords
  let lo := c.val * wsWords
  let u := t.1.wsSound fun k => decide (lo ≤ k) && decide (k < lo + wsWords)
  u.onCore c fun k => { k with wsScrub := 0, wsPassT0 := s.car }

/-- AM_SCRUB (R346, R347, R351, R352): the next lane word, in an ac in which its lane is free. -/
def execAmScrub (c : CoreId) (s : State) : Host.Outcome State Fault Refusal :=
  .next (
    let a := 8 * (s.core c).amScrub
    if s.scrubStops (dieOf c) then s
    else
      match s.claimDyn c s.ac (laneMask a 8) (s.aboveScrub c) with
      | (_, false) => s
      | (t, true) =>
        let key := amWordKey c a
        let e := Store.get .none t.amErr key
        let t := if e = .none then t else t.amReadWord c (key, e)
        let t := if e = .one then t.setAmErr key .none else t
        t.onCore c fun k => { k with amScrub := (k.amScrub + 1) % 524288 })

/-- One half word that PSM scrub reads (R356, R358): a correction is written back unless the word's other half is
uncorrectable. -/
def State.psmScrubHalf (s : State) (c : CoreId) (e : Nat × MemErr) : State :=
  let i := e.1 - 2 * (c.val * 131072)
  let other := Store.get .none s.psmErr (if e.1 % 2 = 0 then e.1 + 1 else e.1 - 1)
  match e.2 with
  | .none => s
  | .one =>
    let t := s.logCe c 2 1 i
    if other = .two ∨ other = .uce then t else t.setPsmErr e.1 .none
  | _ =>
    let s := s.logUce c 2 i
    s.setPsmPois c (i / 2) true

/-- PSM_SCRUB (R356): in each ac counted 63 modulo 64, one word of every bank that no vector-unit read uses in it. -/
def execPsmScrub (d : DieId) (pos : Fin 64) (s : State) : Host.Outcome State Fault Refusal :=
  .next (
    let c := coreOf d pos
    let k := s.core c
    if s.ac % 64 ≠ 63 ∨ s.scrubStops d ∨ k.psmScrubAt = s.ac + 1 then s
    else
      let busy := (List.range 2048).filter fun b => s.vBank c b
      let lo := 2 * (c.val * 131072)
      let hit (e : Nat × MemErr) : Bool :=
        let w := (e.1 - lo) / 2
        let b := w % 2048
        !(busy.contains b) && w / 2048 == (k.psmScrub - Store.get 0 k.psmLost b) % 64
      let es := (errsIn s.psmErr lo (lo + 262144)).filter hit
      (es.foldl (fun s e => s.psmScrubHalf c e) s).onCore c fun k =>
        { k with psmScrub := k.psmScrub + 1, psmScrubAt := s.ac + 1
                 psmLost := busy.foldl (fun m b => Store.set 0 m b (Store.get 0 m b + 1)) k.psmLost })

/-- CS_SCRUB (R328, R340, R641): a background request for the next unit of a slice, which it reads once it is served; it alternates
with the copy of a row of the slice. -/
def execCsScrub (d : DieId) (slice : BitVec 5) (s : State) : Host.Outcome State Fault Refusal :=
  .next (
    if s.scrubStops d ∨ s.copyTurn d slice.toNat then s
    else match s.sliceTake d slice.toNat true with
    | (s, false) => s
    | (s, true) =>
      let s := s.scrubTurn d slice.toNat
      let n := Store.get 0 (s.die d).csScrub slice.toNat
      let u := unitAt (s.frameSize d) slice.toNat n
      let e := Store.get .none s.csErr (csUnitKey d u)
      let s := (s.csRead d u).1
      let s := if e = .uce then s else s.setCsErr (csUnitKey d u) .none
      s.onDie d fun k => { k with csScrub := Store.set 0 k.csScrub slice.toNat ((n + 1) % 1572864) })

/-! ### Writes of the weight store (R336, R337, R364, R423) -/

/-- One 32-byte word of a write: a partial word is read and merged, and stays uncorrectable if it was. -/
def State.wsWriteWord (s : State) (c : CoreId) (lo hi : Nat) (uce : Bool) (w : Nat) : State :=
  let whole := decide (lo ≤ 32 * w) && decide (32 * w + 32 ≤ hi)
  let k := c.val * wsWords + w
  let (s, bad) := if whole then (s, false) else s.wsReadWords c w (w + 1)
  s.setWsErr k (if uce || bad then MemErr.uce else .none)

def State.wsPut (s : State) (c : CoreId) (q : WsWrite) : State :=
  let hi := q.addr + q.data.length
  let s := (List.range ((hi + 31) / 32 - q.addr / 32)).foldl
    (fun s i => s.wsWriteWord c q.addr hi q.uce (q.addr / 32 + i)) s
  s.wsSet c q.addr q.data

/-- Whether a write covers only part of some 32-byte word: its merge occupies the share for two ac (R336). -/
def WsWrite.merges (q : WsWrite) : Bool := q.addr % 32 != 0 || q.data.length % 32 != 0

/-- WEIGHT_STORE_WRITE (R336): the oldest waiting write of a share, in an ac in which the share is free.  A die that clears
discards it (R364). -/
def execWeightStoreWrite (c : CoreId) (s : State) : Host.Outcome State Fault Refusal :=
  .next (
    match (s.core c).wsPend with
    | [] => s
    | q :: rest =>
      if !s.shareFree c then s
      else
        let t := s.onCore c fun k => { k with wsPend := rest, wsFree := s.ac + (if q.merges then 2 else 1) }
        if s.scrubStops (dieOf c) then t else t.wsPut c q)

end Sys2Proof.Machine
end

