-- ==== Sys2Proof/Machine/Owner.lean ====
section
/-! DEFINITION. Ownership and clearing of dies, remap writes and aborts (R316, R320, R360 to R365, R368, R655). -/

namespace Sys2Proof.Machine

/-! ### Assign (R360, R364, R496, R499) -/

def State.setOwn (s : State) (d : DieId) (state encl ctx : Nat) : State :=
  s.setReg (.secDie d) 0x00 (state * 2 ^ 30 + encl * 2 ^ 8 + ctx)
/-- A request that the state does not allow (R364). -/
def State.orderErr (s : State) (d : DieId) : State := s.raise (.secDie d) 0x08 1

/-- Whether a bridge joins two dies of the grid (R24). -/
def bridged (d e : DieId) : Bool :=
  (d.val / 4 == e.val / 4 && (d.val % 4 == e.val % 4 + 1 || e.val % 4 == d.val % 4 + 1)) ||
    (d.val % 4 == e.val % 4 && (d.val / 4 == e.val / 4 + 1 || e.val / 4 == d.val / 4 + 1))
/-- A die that touches a mesh port of R36 (R48). -/
def touchesPort (d : DieId) : Bool := (List.finRange 64).any fun p => (portOf (coreOf d p)).isSome

/-- The dies of a context stay connected through bridges, and one of them touches a mesh port: the first does, and each later
one joins a die that the context holds (R46, R48; DESIGN CHOICE, log 209). -/
def State.joins (s : State) (x : Ctx) (d : DieId) : Bool :=
  if (s.diesOf x).isEmpty then touchesPort d else (s.diesOf x).any fun e => bridged e d

/-- Lumef requests no assign during a drain (R659), to an enclave that the plan does not hold in use, to a Chime enclave,
beyond the enclave's dies, or of a die withdrawn from placement (R319, R727); entry 63 is ignored. -/
def State.planAllows (s : State) (d : DieId) (e : Encl) : Bool :=
  let p := Store.get (0, 0, 0) s.mod.enclavePlan e.toNat
  let held := ((List.finRange 12).filter fun k => s.dieState k == dieOwned && s.dieEncl k == e).length
  s.mod.draining.isNone && e != 63 && bitAt p.1 0 && !bitAt p.1 3 && decide (held < p.2.2) && !s.mod.withdrawn.getLsbD d.val

/-- SCAN granted (R730). -/
def State.scanOpen (s : State) : Bool := s.fld .sec 0x100 31 30 == 1 && s.fld .sec 0x100 29 29 == 1

/-- An assign request at the die, with its ASSIGN entry: the Carillon count of the die's last CLEAN, the die, the context
(R364, R499). -/
def State.assignReq (s : State) (d : DieId) (x : Ctx) (e : Encl) : State :=
  if s.dieState d ≠ dieClean ∨ s.scanOpen then s.orderErr d
  else if x = 0xFF then s
  else
    ((s.setOwn d dieOwned e.toNat x.toNat).genesis e).append e tyAssign x.toNat
      (leBytes 8 (s.die d).cleanAt.toNat ++ leBytes 1 d.val ++ leBytes 1 x.toNat)

/-- Lumef's assign, which it makes only where the plan allows it. -/
def State.assign (s : State) (d : DieId) (x : Ctx) (e : Encl) : State :=
  if s.planAllows d e && s.joins x d then s.assignReq d x e else s

/-- ASSIGN (R364). -/
def execAssign (d : DieId) (x : Ctx) (e : Encl) (s : State) : Host.Outcome State Fault Refusal := .next (s.assign d x e)

/-! ### Abort (R655) -/

/-- The lines that a context-store write has yet to read. -/
def Timed.isUnit (t : Timed) : Bool := match t.kind with | .unit .. => true | _ => false

/-- The crossbar and DMA operations of a core in flight are discarded and complete poisoned, a context-store write that is on
its way with them; the lines of its fabric operations are discarded, and a packet of them that has begun ends
poisoned (R361, R364). -/
def State.poisonOps (s : State) (c : CoreId) : State :=
  (s.onCore c fun k =>
    { k with csReqs := [], dmaPuts := [], fabSend := [], fabIn := [], fabNext := 0
             dyn := k.dyn ++ (match k.fabSend with
               | f :: _ =>
                 if f.next = 0 then [] else [⟨2, 0, f.dest, true, f.next + 1, true, .line 0, true, outLocal, s.ac, s.ac⟩]
               | [] => [])
             timed := k.timed.filter (fun t => !t.isUnit)
             ops := k.ops.map fun o =>
        if o.cls != 4 && (o.stage == .issued || (o.stage == .finished && decide (s.ac < o.readyAt))) then
          { o with stage := .finished, poison := true, readyAt := s.ac } else o }).onDie (dieOf c) fun d =>
    { d with xreqs := d.xreqs.filter fun r => r.core != c.val }

/-- A core abandons its step under CQ_ABORT: its array drains, its XIQ entries go, its P channel stops (R655). -/
def State.abortCore (s : State) (c : CoreId) : State :=
  let running := (s.core c).mode != .idle
  let s := if running then (s.abandon c).onCore c fun k => { k with aborted := true } else s
  ((s.arrDrain c).stopP c).onCore c fun k => { k with ops := k.ops.filter fun o => o.stage != .xiq }

/-- The named die positions abandon their steps (R655). -/
def State.abortMask (s : State) (d : DieId) (mask : Word64) : State :=
  (List.finRange 64).foldl (fun s p => if mask.getLsbD p.val then s.abortCore (coreOf d p) else s) s
/-- A write of CQ_ABORT_LO or CQ_ABORT_HI acts in the register cycle after it (R655, R670). -/
def State.abortWrite (s : State) (d : DieId) (mask : Word64) : State := s.owes (.cqDie d) 0xA8 (.abort d.val mask)

/-- CORE_ABORT (R655). -/
def execCoreAbort (d : DieId) (mask : Word64) (s : State) : Host.Outcome State Fault Refusal := .next (s.abortWrite d mask)

/-! ### Release and clear (R361, R362, R365) -/

/-- Q stops and goes IDLE (R428). -/
def State.stopQ (s : State) (c : CoreId) : State := s.qIdle c

def State.releaseCore (s : State) (c : CoreId) : State :=
  ((((s.abandon c).arrDrain c).poisonOps c).stopP c).stopQ c

def State.release (s : State) (d : DieId) : State :=
  if s.dieState d ≠ dieOwned then s.orderErr d
  else
    let s₁ := s.onDie d fun k => { k with releasing := some (s.dieCtx d, s.dieEncl d), armed := none, copyEnd := none }
    ((coresOf d).foldl (fun s c => s.releaseCore c) s₁).setOwn d dieClearing 0 0xFF

/-- RELEASE (R361). -/
def execRelease (d : DieId) (s : State) : Host.Outcome State Fault Refusal := .next (s.release d)

/-- What a clear leaves of a core: its logs, its retired rows, its scrub positions and what belongs to no memory of
R362. -/
def Core.cleared (k : Core) : Core :=
  { Core.reset with
    tagGen := k.tagGen, nextSerial := k.nextSerial, chans := k.chans, poisoned := k.poisoned, ended := k.ended
    ceLog := k.ceLog, retired := k.retired, retiring := k.retiring, psmScrub := k.psmScrub, psmLost := k.psmLost
    wsScrub := k.wsScrub, wsPassT0 := k.wsPassT0, amScrub := k.amScrub, binds := k.binds, rate := k.rate, putAt := k.putAt
    echoed := k.echoed, wires := k.wires, edge := k.edge, egress := k.egress, dyn := k.dyn, dynHold := k.dynHold
    dynDrop := k.dynDrop, dynUsed := k.dynUsed, laneFree := k.laneFree, portIn := k.portIn, portOut := k.portOut
    portAsm := k.portAsm, claims := k.claims, psmScrubAt := k.psmScrubAt
    arr := { Arr.reset with drainAt := k.arr.drainAt, nextRun := k.arr.nextRun, frozenAc := k.arr.frozenAc
                            lastDone := k.arr.lastDone } }

/-- Every memory of a die is zero with valid check bits and no poison (R362). -/
def State.clearMemories (s : State) (d : DieId) : State :=
  let lo := d.val * 64
  let hi := lo + 64
  { s with
    ws := Store.clearRange s.ws (lo * (96 * 2 ^ 20)) (hi * (96 * 2 ^ 20))
    am := Store.clearRange s.am (lo * (4 * 2 ^ 20)) (hi * (4 * 2 ^ 20))
    psm := Store.clearRange s.psm (lo * (2 * 2 ^ 20)) (hi * (2 * 2 ^ 20))
    cs := Store.clearRange s.cs (csBase d) (csBase d + 3 * 2 ^ 30)
    tb := Store.clearRange s.tb (lo * 512 * 1024) (hi * 512 * 1024)
    pm := Store.clearRange s.pm (lo * 65536) (hi * 65536)
    amPoison := Store.clearRange s.amPoison (lo * 65536) (hi * 65536)
    psmPoison := Store.clearRange s.psmPoison (lo * 131072) (hi * 131072)
    csPoison := Store.clearRange s.csPoison (csUnitKey d 0) (csUnitKey d (3 * 2 ^ 24))
    tbPoison := Store.clearRange s.tbPoison (lo * 512) (hi * 512)
    wsErr := Store.clearRange s.wsErr (lo * wsWords) (hi * wsWords)
    amErr := Store.clearRange s.amErr (lo * 524288) (hi * 524288)
    psmErr := Store.clearRange s.psmErr (lo * 262144) (hi * 262144)
    csErr := Store.clearRange s.csErr (csUnitKey d 0) (csUnitKey d (3 * 2 ^ 24))
    pmErr := Store.clearRange s.pmErr (lo * 2048) (hi * 2048) }

/-- The die after a clear: command queue empty, page manager initialised at the size in PGM_CFG (R362, R405). -/
def State.clearDie (s : State) (d : DieId) : State :=
  let s := (coresOf d).foldl (fun s c => s.onCore c Core.cleared) (s.clearMemories d)
  s.onDie d fun k =>
    { k with cmdq := [], block := none, armed := none, copyEnd := none, releasing := none
             pgm := { k.pgm.init (s.fld (.pgm d) 0x00 1 0) with initReq := k.pgm.initReq } }

/-- The clear record, and the CLEAR entry of the enclave that released the die (R365, R499). -/
def State.clearRecord (s : State) (d : DieId) (r : Option (Ctx × Encl)) : State :=
  let t := (((s.setReg (.secDie d) 0x0C (match r with | some (x, e) => e.toNat * 256 + x.toNat | none => 0xFF)).setReg
    (.secDie d) 0x10 (s.car % 2 ^ 32)).setReg (.secDie d) 0x14 (s.car / 2 ^ 32)).orReg (.secDie d) 0x08 1
  let t := t.onDie d fun k => { k with cleanAt := BitVec.ofNat 64 s.car }
  match r with
  | some (x, e) => t.append e tyClear x.toNat (leBytes 8 s.car ++ leBytes 1 d.val ++ leBytes 1 x.toNat)
  | none => t

/-- A die clear finishes (R362, R365). -/
def State.clearComplete (s : State) (d : DieId) : State :=
  if s.dieState d ≠ dieClearing then s
  else ((s.clearDie d).setOwn d dieClean 0 0xFF).clearRecord d (s.die d).releasing

/-! ### Remap (R316, R320) -/

/-- A write of MESH_REMAP: on a die that no context holds it comes into force in the next register cycle. -/
def State.remapWrite (s : State) (d : DieId) (v : Word32) : State :=
  let s := s.setReg (.meshDie d) 0x00 v.toNat
  if s.dieState d = dieOwned then s else s.owes (.meshDie d) 0x00 (.remap d.val)

/-- MESH_REMAP_WRITE (R316, R320). -/
def execMeshRemapWrite (d : DieId) (v : Word32) (s : State) : Host.Outcome State Fault Refusal :=
  .next (s.remapWrite d v)

end Sys2Proof.Machine
end

