-- ==== Sys2Proof/Machine/Mail.lean ====
section
/-! DEFINITION. What Lumef sends: messages to the mailboxes of the functions, interrupts of a function and packets of
its own (R519, R520, R532, R619, R621, R622). -/

namespace Sys2Proof.Machine

/-! ### Functions (R592) -/

/-- The HOST block of a function: 0 the PF, n virtual function n. -/
def fnBlk (f : Nat) : Blk := if f = 0 then .pf else .vf (Fin.ofNat 64 (f - 1))
/-- The function of an enclave. -/
def fnOf (e : Encl) : Nat := e.toNat + 1

/-- The vector of a pending bit of HOST_IRQ (R621). -/
def State.irqVector (s : State) (f bit : Nat) : Nat :=
  if bit = 10 then s.fld (fnBlk f) 0x0C 4 0
  else if bit = 9 then s.fld (fnBlk f) 0x0C 12 8
  else if bit = 8 then s.fld (fnBlk f) 0x0C 20 16
  else s.fld (fnBlk f) (0x1000 + 0x80 * bit + 0x48) 20 16

/-- A pending bit set from 0 sends one MSI-X message (R622). -/
def State.hostIrq (s : State) (f bit : Nat) : State :=
  if s.fld (fnBlk f) 0x08 bit bit = 1 then s
  else (s.orReg (fnBlk f) 0x08 (2 ^ bit)).emit (.msix f (s.irqVector f bit))

/-- A HOST_FAULT bit and its interrupt cause (R621, R626). -/
def State.hostFault (s : State) (f bit : Nat) : State := (s.orReg (fnBlk f) 0x04 (2 ^ bit)).hostIrq f 10

/-! ### Mailboxes (R619) -/

def inboxBase (f : Nat) : Nat := 8192 * f
def outboxBase (f : Nat) : Nat := 8192 * f + 4096

/-- A message: type, length with its header, tag, body. -/
def mailBytes (ty tag : Nat) (body : List Byte) : List Byte :=
  leBytes 2 ty ++ leBytes 2 (8 + body.length) ++ leBytes 4 tag ++ body

/-- Lumef puts a message into the outbox of a function, and the mailbox cause becomes pending. -/
def State.mailTo (s : State) (f ty tag : Nat) (body : List Byte) : State :=
  let b := mailBytes ty tag body
  let s := s.mailSet (outboxBase f) b
  ((s.orReg (fnBlk f) 0x40 (2 ^ 30)).hostIrq f 9).emit (.mail f b)

/-- Lumef has taken a message: HOST_MBOXCTL.send clears (R626). -/
def State.mailTaken (s : State) (f : Nat) : State := s.setFld (fnBlk f) 0x40 31 31 0

/-! ### Packets of Lumef (R520, R532) -/

/-- Flits that hold a byte string, one at least. -/
def flitsOf (b : List Byte) : List DFlit :=
  (List.range (Nat.max 1 ((b.length + 255) / 256))).map fun i => BitVec.ofNat 2048 (leNat ((b.drop (256 * i)).take 256))

/-- An MG packet of enclave 63; its source, epoch and sequence number are written where it enters and leaves. -/
def State.mgPacket (s : State) (dst : Endpoint) (mc : Bool) (x : Ctx) (tag fa fb fc : Nat) (b : List Byte) : Packet :=
  let fl := flitsOf b
  { hdr := { vc := 3, dl := false, nflits := BitVec.ofNat 4 (fl.length - 1), mark := false, start := 1, enclave := 63
             hops := 0, epoch := 0, mc := mc, dst := dst, src := s.self, kind := 7, echo := false, poison := false
             context := x, gen := (s.ctx x).gen, tcore := 0, taddr := 0, tag := BitVec.ofNat 16 tag, pseq := 0
             fa := BitVec.ofNat 16 fa, fb := BitVec.ofNat 16 fb, fc := BitVec.ofNat 16 fc }
    flits := fl }

/-- Lumef's packets enter at IO-W, the I/O die of the management controller. -/
def State.lumefSend (s : State) (p : Packet) : State := s.onRouter 3 fun r => { r with localq := r.localq ++ [p] }

end Sys2Proof.Machine
end

