-- ==== Sys2Proof/Machine/Elog.lean ====
section
/-! DEFINITION. The module error log, the policy in force, counting windows and repairs (R629 to R639, R717). -/

namespace Sys2Proof.Machine

/-! ### Policy records (R717) -/

def policyBody (l : List (BitVec 16 × List Byte)) (id : Nat) : Option (List Byte) :=
  (l.find? fun r => r.1.toNat == id).map Prod.snd

def State.policyNat (s : State) (id n dflt : Nat) : Nat :=
  match policyBody s.mod.policy id with | some b => leNat (b.take n) | none => dflt

/-- Replay limit of a policy (R653): 1 to 3. -/
def replayLimit (l : List (BitVec 16 × List Byte)) : Nat :=
  match policyBody l 3 with | some b => leNat (b.take 1) | none => 3
/-- T_lease in ns of the Carillon count (R666). -/
def State.tLease (s : State) : Nat := 1000000 * s.policyNat 4 2 300
def State.verifySeconds (s : State) : Nat := s.policyNat 6 4 3600

/-! ### Classes (R629, R634) -/

def clsCeWs : Nat := 0x01
def clsCeCs : Nat := 0x02
def clsCeAm : Nat := 0x03
def clsCePsm : Nat := 0x04
def clsUceWs : Nat := 0x08
def clsUceCs : Nat := 0x09
def clsUceAm : Nat := 0x0A
def clsUcePsm : Nat := 0x0B
def clsQpar : Nat := 0x0C
def clsMeshPar : Nat := 0x0D
def clsCheck : Nat := 0x10
def clsProgram : Nat := 0x11
def clsTiming : Nat := 0x12
def clsLinkFec : Nat := 0x18
def clsLinkRetrain : Nat := 0x19
def clsLinkDown : Nat := 0x1A
def clsFabTimeout : Nat := 0x1B
def clsGongLink : Nat := 0x1C
def clsSync : Nat := 0x1D
def clsDieFatal : Nat := 0x20
def clsMargin : Nat := 0x21
def clsDigest : Nat := 0x28
def clsScrubLate : Nat := 0x29
def clsSelftest : Nat := 0x2A
def clsDeferred : Nat := 0x2B
def clsKnell : Nat := 0x30
def clsPartition : Nat := 0x31
def clsEpisodeEnd : Nat := 0x3F

/-- The default threshold and window in seconds; none for a class that is counted only (R634). -/
def defaultWindow (cls : Nat) : Option (Nat × Nat) :=
  if cls = 0x01 ∨ cls = 0x02 then some (3, 86400)
  else if cls = 0x03 ∨ cls = 0x04 then some (15, 86400)
  else if cls = 0x08 ∨ cls = 0x09 ∨ cls = 0x2A ∨ cls = 0x20 ∨ cls = 0x28 ∨ cls = 0x30 then some (0, 0)
  else if cls = 0x0A ∨ cls = 0x0B ∨ cls = 0x0C ∨ cls = 0x10 then some (1, 3600)
  else if cls = 0x0D ∨ cls = 0x1B then some (3, 3600)
  else if cls = 0x18 then some (100, 10)
  else if cls = 0x19 ∨ cls = 0x1A ∨ cls = 0x1C then some (2, 3600)
  else none

/-- Records of `n` bytes. -/
def recordsOf (n : Nat) (b : List Byte) : List (List Byte) := chunksOf n (b.length / n) b

/-- The threshold and window in force (R632, R717). -/
def State.window (s : State) (cls : Nat) : Option (Nat × Nat) :=
  match policyBody s.mod.policy 1 with
  | some b =>
    match (recordsOf 7 b).find? fun r => leNat (r.take 1) == cls with
    | some r => some (leNat ((r.drop 1).take 2), leNat ((r.drop 3).take 4))
    | none => defaultWindow cls
  | none => defaultWindow cls

/-- Default step actions: 0 none, 1 REPLAY, 2 REPORT (R629). -/
def defaultAction (cls : Nat) : Nat :=
  if cls = 0x09 ∨ cls = 0x11 ∨ cls = 0x31 then 2
  else if (0x08 ≤ cls ∧ cls ≤ 0x0D) ∨ cls = 0x10 ∨ cls = 0x12 ∨ (0x1B ≤ cls ∧ cls ≤ 0x1D) ∨ cls = 0x20 ∨ cls = 0x28 ∨
      cls = 0x29 ∨ cls = 0x30 then 1
  else 0

/-- The action of a class under a policy; PROGRAM and PARTITION are fixed. -/
def policyAction (l : List (BitVec 16 × List Byte)) (cls : Nat) : Nat :=
  if cls = 0x11 ∨ cls = 0x31 then 2
  else
    match policyBody l 2 with
    | some b =>
      match (recordsOf 2 b).find? fun r => leNat (r.take 1) == cls with
      | some r => leNat ((r.drop 1).take 1)
      | none => defaultAction cls
    | none => defaultAction cls

/-! ### Counting windows (R632, R633) -/

def histMax : Nat := 4096 * 12

/-- A history after an event at count `t`: the histories, whether the fault is lasting, the events in the window. -/
def judge (hs : List Hist) (cls key n window t : Nat) : List Hist × Bool × Nat :=
  let mine (h : Hist) : Bool := h.cls.toNat == cls && h.key == key
  let h := t :: (match hs.find? mine with | some h => h.times | none => [])
  let h := h.take (n + 1)
  let rest := hs.filter fun h => !mine h
  let rest := if histMax ≤ rest.length then rest.drop 1 else rest
  let count := (h.filter fun u => decide (t - u ≤ window)).length
  let lasting := h.length == n + 1 && decide (t - h.getLastD t ≤ window)
  (rest ++ [⟨BitVec.ofNat 8 cls, key, if lasting then [] else h⟩], lasting, count)

/-! ### Records (R630, R631) -/

/-- Appends a record; a full log of 4,096 loses its oldest. -/
def State.elogAppend (s : State) (r : ElogRecord) : State :=
  let s := if 4096 ≤ s.mod.elog.length then
      (s.onMod fun m => { m with elog := m.elog.drop 1 }).count .mc 0x100 1 else s
  s.onMod fun m => { m with elog := m.elog ++ [r] }

/-- The 32 bytes of a record. -/
def ElogRecord.bytes (r : ElogRecord) : List Byte :=
  [r.cls, BitVec.ofNat 8 (r.state.toNat + if r.repaired then 4 else 0)] ++ leBytes 2 r.endpoint.toNat ++
    [r.unit, r.context] ++ leBytes 2 r.events.toNat ++ leBytes 8 r.carillon.toNat ++ leBytes 8 r.location.toNat ++
    leBytes 8 r.episode.toNat

def State.episodeNo (s : State) (x : Ctx) : Word64 :=
  match (s.ctx x).episode with | some e => e.number | none => 0

def unitModule : Nat := 0xFF
def noCtx : Ctx := 0xFF

/-- A record as Lumef forms it. -/
def State.record (s : State) (cls state : Nat) (repaired : Bool) (unit : Nat) (x : Ctx) (events loc : Nat) : ElogRecord :=
  { cls := BitVec.ofNat 8 cls, state := BitVec.ofNat 2 state, repaired := repaired, endpoint := s.self
    unit := BitVec.ofNat 8 unit, context := x, events := BitVec.ofNat 16 (Nat.min events 0xFFFF)
    carillon := BitVec.ofNat 64 s.car, location := BitVec.ofNat 64 loc, episode := s.episodeNo x }

/-- Classes of faults of a link. -/
def linkClass (c : Nat) : Bool := c == clsLinkFec || c == clsLinkRetrain || c == clsLinkDown || c == clsGongLink

/-- A record joins the log and the records of the context's run; one of a link that names no context joins every run of the module
(R651, R652, R654). -/
def State.logRecord (s : State) (r : ElogRecord) : State :=
  let s := s.elogAppend r
  let join (s : State) (x : Ctx) : State := s.onCtx x fun k => { k with runRecords := k.runRecords ++ [r] }
  if r.context ≠ noCtx then join s r.context
  else if linkClass r.cls.toNat then
    (s.ctxs.filter fun k => k.2.active).foldl (fun s k => join s (BitVec.ofNat 8 k.1)) s
  else s

/-! ### Locations (R30, R317, R630) -/

/-- The physical column behind a logical position, under the remap in force. -/
def State.physColOf (s : State) (c : CoreId) : Nat :=
  physCol (remapField (s.reg (.meshDie (dieOf c)) 0x04) (posOf c / 8)) (posOf c % 8)
def locLogical (c : CoreId) (word : Nat) : Nat := c.val * 2 ^ 48 + word % 2 ^ 48
def State.locPhysical (s : State) (c : CoreId) (word : Nat) : Nat :=
  (2 ^ 15 + 9 * (posOf c / 8) + s.physColOf c) * 2 ^ 48 + word % 2 ^ 48
/-- A key for a physical core. -/
def State.physKey (s : State) (c : CoreId) : Nat := (dieOf c).val * 128 + 9 * (posOf c / 8) + s.physColOf c

/-! ### Repairs (R634, R637, R639, R657) -/

inductive Repair where
  | none
  | wsRow (c : CoreId) (layer row : Nat)
  | wsFetch (c : CoreId) (layer row word : Nat)
  | csRow (d : DieId) (slice row : Nat)
  | core (c : CoreId)
  | link (l : LinkId)
  | module (e : Endpoint)
  | die (d : DieId)
  | shard (x : Ctx) (n : Nat)
  deriving DecidableEq, Repr

def State.withdraw (s : State) (d : DieId) : State :=
  s.onMod fun m => { m with withdrawn := m.withdrawn ||| BitVec.twoPow 12 d.val }

/-- Lumef spares the physical core by writing the row's remap field, once per row (R319, R639). -/
def State.spareCore (s : State) (c : CoreId) : State :=
  let d := dieOf c
  let r := posOf c / 8
  let v := s.reg (.meshDie d) 0x00
  if remapField v r = 15 then
    s.remapWrite d (BitVec.ofNat 32 (setBits v (4 * r + 3) (4 * r) (s.physColOf c)))
  else s.withdraw d

/-- A retirement that the row's block refuses withdraws the die (R638). -/
def State.retireWs (s : State) (c : CoreId) (layer row : Nat) : State :=
  if retireRefused (s.core c).retired layer row 32 then (s.mxRetire c layer row).withdraw (dieOf c)
  else s.mxRetire c layer row
def State.retireCs (s : State) (d : DieId) (slice row : Nat) : State :=
  if retireRefused (s.pgm d).retired slice row 64 then (s.pgmRetire d slice row).withdraw d
  else s.pgmRetire d slice row

/-- A shard loses its present mark until it is fetched again (R643). -/
def State.unpresent (s : State) (x : Ctx) (n : Nat) : State :=
  s.onCtx x fun k => { k with shards := k.shards.map fun h => if h.number = n then { h with present := false } else h }

/-- The shards of a context that hold a weight-store word of a core. -/
def State.shardsAt (s : State) (x : Ctx) (c : CoreId) (word : Nat) : List Nat :=
  ((s.ctx x).shards.filter fun h =>
    h.core == c.val && decide (h.start ≤ word / 128) && decide (word / 128 < h.start + h.len)).map fun h => h.number

def State.repair (s : State) : Repair → State
  | .none => s
  | .wsRow c layer row => s.retireWs c layer row
  | .wsFetch c layer row word =>
    let x := s.dieCtx (dieOf c)
    (s.shardsAt x c word).foldl (fun s n => s.unpresent x n) (s.retireWs c layer row)
  | .csRow d slice row => s.retireCs d slice row
  | .core c => s.spareCore c
  | .link l => s.onLink l fun k => { k with cfg := k.cfg &&& 0x7FFFFFFF }
  | .module e => s.onMod fun m => { m with excluded := if m.excluded.contains e then m.excluded else m.excluded ++ [e] }
  | .die d => s.withdraw d
  | .shard x n => s.unpresent x n

/-- Lumef logs a fault: it counts in its window, and a lasting one is repaired (R629, R632, R634).  `zero` says that the
class has threshold 0 here (a weight-store word of which two bits were corrected). -/
def State.fault (s : State) (cls key : Nat) (zero : Bool) (unit : Nat) (x : Ctx) (loc : Nat) (rep : Repair) : State :=
  match (if zero then some (0, 0) else s.window cls) with
  | none => s.logRecord (s.record cls 0 false unit x 1 loc)
  | some (n, w) =>
    let (hs, lasting, count) := judge s.mod.hists cls key n (w * 1000000000) s.car
    let s := s.onMod fun m => { m with hists := hs }
    if lasting then
      let s := s.repair rep
      s.logRecord (s.record cls (if cls = clsDieFatal then 2 else 1) (rep != .none) unit x count loc)
    else s.logRecord (s.record cls 0 false unit x count loc)

/-! ### The faults of a context's dies (R629) -/

/-- Fault bits not yet counted: their mask. -/
def State.unseen (s : State) (b : Blk) (off mask : Nat) : Nat :=
  s.reg b off &&& mask &&& (0xFFFFFFFF ^^^ Store.get 0 s.mod.seen (b.base + off))
/-- Lumef has looked at a register. -/
def State.look (s : State) (b : Blk) (off : Nat) : State :=
  s.onMod fun m => { m with seen := Store.set 0 m.seen (b.base + off) (s.reg b off) }

/-- One class of bits of a register of a core. -/
def State.scanReg (s : State) (b : Blk) (off mask cls key unit : Nat) (x : Ctx) (loc : Nat) (rep : Repair) : State :=
  if s.unseen b off mask = 0 then s else s.fault cls key false unit x loc rep

/-- The registers of a core. -/
def State.scanCore (s : State) (x : Ctx) (c : CoreId) : State :=
  let u := (dieOf c).val
  let log := s.reg (.mx c) 0x44
  let a := bits log 21 0
  let pk := s.physKey c
  let s := s.scanReg (.cq c) 0x04 0x139 clsProgram c.val u x (locLogical c 0) .none
  let s := s.scanReg (.cq c) 0x04 0xC6 clsTiming c.val u x (locLogical c 0) .none
  let s := s.look (.cq c) 0x04
  let s := s.scanReg (.mx c) 0x08 0x3A clsProgram c.val u x (locLogical c 0) .none
  let s := s.scanReg (.mx c) 0x08 0x01 clsCheck pk u x (s.locPhysical c (s.fld (.mx c) 0x14 31 0)) (.core c)
  let s := s.look (.mx c) 0x08
  let s := s.scanReg (.vu c) 0x04 0x3 clsProgram c.val u x (locLogical c 0) .none
  let s := s.look (.vu c) 0x04
  let s := s.scanReg (.mesh c) 0x00 0x0E clsProgram c.val u x (locLogical c 0) .none
  let s := s.scanReg (.mesh c) 0x00 0x30 clsTiming c.val u x (locLogical c 0) .none
  let s := s.scanReg (.mesh c) 0x00 0x01 clsMeshPar pk u x (s.locPhysical c 0) (.core c)
  let s := s.look (.mesh c) 0x00
  let s := s.scanReg (.mx c) 0x40 0x10 clsProgram c.val u x (locLogical c 0) .none
  let s := s.scanReg (.mx c) 0x40 0x02 clsUceWs (c.val * 2 ^ 22 + a / 256 * 2 + a / 8 % 2) u x (locLogical c a)
    (.wsFetch c (a / 8 % 2) (bits a 21 8) a)
  let s := s.scanReg (.mx c) 0x40 0x04 clsUceAm pk u x (s.locPhysical c a) (.core c)
  let s := s.scanReg (.mx c) 0x40 0x08 clsUcePsm pk u x (s.locPhysical c a) (.core c)
  let s := s.scanReg (.mx c) 0x40 0x20 clsQpar pk u x (s.locPhysical c 0) (.core c)
  let s := s.look (.mx c) 0x40
  let s := s.scanReg (.dma c) 0x04 0x17 clsProgram c.val u x (locLogical c 0) .none
  s.look (.dma c) 0x04

/-- The context-store units that read uncorrectable since the last look. -/
def State.scanCs (s : State) (x : Ctx) (d : DieId) : State :=
  let us := (s.die d).csUces
  let fs := s.frameSize d
  (us.foldl (fun (s : State) u =>
    let sl := unitSlice fs u
    let row := unitRow fs u
    s.fault clsUceCs (d.val * 2 ^ 20 + rowKey sl row) false d.val x (rowKey sl row) (.csRow d sl row)) s).onDie d fun k =>
    { k with csUces := [] }

/-- The registers of a die. -/
def State.scanDie (s : State) (x : Ctx) (d : DieId) : State :=
  let s := s.scanReg (.pgm d) 0x14 0x47 clsProgram (1000 + d.val) d.val x 0 .none
  let s := s.scanReg (.pgm d) 0x14 0x08 clsUceCs (d.val * 2 ^ 20) d.val x 0 .none
  let s := s.look (.pgm d) 0x14
  let s := s.scanReg (.meshDie d) 0x18 0x3 clsProgram (1000 + d.val) d.val x 0 .none
  let s := s.look (.meshDie d) 0x18
  let s := s.scanReg (.cqDie d) 0x04 0x7 clsProgram (1000 + d.val) d.val x 0 .none
  let s := s.look (.cqDie d) 0x04
  let s := s.scanReg (.cqDie d) 0x44 0x58 clsProgram (1000 + d.val) d.val x 0 .none
  let s := s.scanReg (.cqDie d) 0x44 0x20 clsSync (1000 + d.val) d.val x 0 .none
  let s := s.scanReg (.cqDie d) 0x44 0x06 clsDieFatal d.val d.val x 0 (.die d)
  let s := s.look (.cqDie d) 0x44
  s.scanCs x d

/-- Lumef looks at every fault of a context's dies and of the module's synchronisation (R629, R651). -/
def State.scanFaults (s : State) (x : Ctx) : State :=
  let dies := s.diesOf x
  let s := (s.coresOfCtx x).foldl (fun s c => s.scanCore x c) s
  let s := dies.foldl (fun s d => s.scanDie x d) s
  let s := s.scanReg .clk 0x18 0x0A clsSync 2000 unitModule x 0 .none
  s.look .clk 0x18

end Sys2Proof.Machine
end

