-- ==== Sys2Proof/Machine/Link.lean ====
section
/-! DEFINITION. Deusk links: control blocks, credits, the transmit queue, Rimshot, link states, discovery and link
sessions (R507 to R521, R526, R527, R533, R536, R553, R558 to R563, R664, R728, R729, R760). -/

namespace Sys2Proof

/-- sel = 2 × vc + dl. -/
def Header.sel (h : Header) : Nat := 2 * h.vc.toNat + if h.dl then 1 else 0
def Packet.size (p : Packet) : Nat := p.hdr.nflits.toNat + 1

/-- The HDR block with its credit field (R518). -/
def Header.word (h : Header) (credit : Nat) : BitVec 256 :=
  let b (x : Bool) : Nat := if x then 1 else 0
  BitVec.ofNat 256 (0x01 + h.vc.toNat * 2 ^ 8 + b h.dl * 2 ^ 10 + h.nflits.toNat * 2 ^ 11 + b h.mark * 2 ^ 15 +
    h.start.toNat * 2 ^ 16 + h.enclave.toNat * 2 ^ 21 + h.hops.toNat * 2 ^ 27 + h.epoch.toNat * 2 ^ 33 + b h.mc * 2 ^ 41 +
    h.dst.toNat * 2 ^ 42 + h.src.toNat * 2 ^ 58 + h.kind.toNat * 2 ^ 74 + b h.echo * 2 ^ 78 + b h.poison * 2 ^ 79 +
    h.context.toNat * 2 ^ 80 + h.gen.toNat % 256 * 2 ^ 88 + h.tcore.toNat * 2 ^ 96 + h.taddr.toNat * 2 ^ 106 +
    h.tag.toNat * 2 ^ 123 + h.pseq.toNat * 2 ^ 139 + h.fa.toNat * 2 ^ 171 + h.fb.toNat * 2 ^ 187 + h.fc.toNat * 2 ^ 203 +
    h.gen.toNat / 256 * 2 ^ 219 + credit * 2 ^ 240)

end Sys2Proof

namespace Sys2Proof.Machine

/-! ### Fields of a link (R507, R565) -/

def ioOf (l : LinkId) : IoId := ⟨l.val / 12, by omega⟩
def Link.on (k : Link) : Bool := bitAt k.cfg.toNat 31
def Link.admitted (k : Link) : Bool := bitAt k.cfg.toNat 30
def Link.crypt (k : Link) : Bool := bitAt k.cfg.toNat 29
def Link.dateline (k : Link) : Bool := bitAt k.cfg.toNat 28
def Link.dim (k : Link) : Nat := bits k.cfg.toNat 27 26
def Link.mgmtOk (k : Link) : Bool := bitAt k.cfg.toNat 25
def Link.encl (k : Link) : Nat := bits k.cfg.toNat 24 19
def Link.maxWidth (k : Link) : Nat := bits k.cfg.toNat 18 17
def Link.state (k : Link) : Nat := bits k.stat.toNat 31 30
def Link.width (k : Link) : Nat := bits k.stat.toNat 29 28
def Link.setStat (k : Link) (state width : Nat) (mismatch : Bool) : Link :=
  { k with stat := BitVec.ofNat 32 (state * 2 ^ 30 + width * 2 ^ 28 + if mismatch then 2 ^ 27 else 0) }
def Link.mismatch (k : Link) : Bool := bitAt k.stat.toNat 27
def lkDown : Nat := 0
def lkTrain : Nat := 1
def lkProbe : Nat := 2
def lkActive : Nat := 3

/-- A link whose transmit side takes packets: ACTIVE, or on its way back to ACTIVE without having gone DOWN (R515). -/
def Link.open_ (k : Link) : Bool := k.state == lkActive || k.retrain

def Link.peerEp (k : Link) : Endpoint := BitVec.ofNat 16 (bits k.peer.toNat 31 16)

/-! ### Drops and faults of a router (R566) -/

def dropEnclave : Nat := 0
def dropEpoch : Nat := 1
def dropResidence : Nat := 2
def dropHops : Nat := 3
def dropDown : Nat := 4
def dropFrame : Nat := 5
def dropAuth : Nat := 6
def dropKind : Nat := 7
def dropStale : Nat := 8
def dropLate : Nat := 9
def dropRefused : Nat := 10
def dropEgress : Nat := 11

/-- A discard counts under its cause; the count saturates. -/
def State.drop (s : State) (i : IoId) (cause : Nat) : State :=
  s.onRouter i fun r => { r with drops := Store.set 0 r.drops cause (Nat.min (Store.get 0 r.drops cause + 1) 0xFFFFFFFF) }
/-- A bit of FAB_FAULT. -/
def State.routerFault (s : State) (i : IoId) (bit : Nat) : State := s.orReg (.router i) 0x40 (2 ^ bit)

/-- A saturating 32-bit count. -/
def satInc (v : Word32) : Word32 := if v = BitVec.allOnes 32 then v else v + 1

/-! ### Control blocks and credits (R512, R513, R518) -/

/-- Buffer sizes in flits by virtual channel: SD, RQ, RS, MG. -/
def vcBuffer (vc : Nat) : Nat := if vc = 0 then 64 else if vc = 3 then 16 else 32
/-- The next credit field of a link; consecutive blocks cycle sel through 0 to 7. -/
def State.credit (s : State) (l : LinkId) : State × Nat :=
  let k := s.link l
  (s.setLink l { k with creditSel := (k.creditSel + 1) % 8 },
    k.creditSel * 2 ^ 13 + Store.get 0 k.freedRx k.creditSel % 8192)

/-- Queues a control block; a link carries it in PROBE and ACTIVE. -/
def State.sendControl (s : State) (l : LinkId) (body : Nat) : State :=
  if lkProbe ≤ (s.link l).state then s.onLink l fun k => { k with ctl := k.ctl ++ [body % 2 ^ 240] } else s

/-- A control block leaves in a control slot, with the next credit field. -/
def State.putControl (s : State) (l : LinkId) (body : Nat) : State :=
  let (s, c) := s.credit l
  s.emit (.control l (BitVec.ofNat 256 (body + c * 2 ^ 240)))

/-- The receiver has freed a packet's flits (R513). -/
def State.freeRx (s : State) (l : LinkId) (p : Packet) : State :=
  s.onLink l fun k => { k with freedRx := Store.set 0 k.freedRx p.hdr.sel ((Store.get 0 k.freedRx p.hdr.sel + p.size) % 8192) }

/-! ### Rimshot (R562, R563) -/

def rimEn (c : Nat) : Bool := bitAt c 31
def rimAction (c : Nat) : Nat := bits c 30 28
def rimPattern (c : Nat) : Bool := bitAt c 27

/-- Whether Rimshot rules act: DEBUG or DRILL with the RIMSHOT scope (R730). -/
def State.rimAllowed (s : State) : Bool := s.fld .sec 0x100 27 27 == 1

def Rim.matches (r : Rim) (h : Header) : Bool :=
  let m := r.pat.toNat
  (!bitAt m 31 || bits m 28 27 == h.vc.toNat) && (!bitAt m 30 || bits m 26 23 == h.kind.toNat) &&
    (!bitAt m 29 || bits m 15 0 == h.dst.toNat)

/-- A rule meets a packet of its link: the rule with its event counted, and whether it fires. -/
def Rim.meet (r : Rim) (l : Nat) (h : Header) : Rim × Bool :=
  let c := r.cfg.toNat
  if !rimEn c || bits c 21 18 != l % 12 || (rimPattern c && !r.matches h) then (r, false)
  else
    let n := r.seen + 1
    let fires :=
      if rimPattern c then
        let nth := bits c 17 10
        let m := bits c 9 2
        n == nth || (m != 0 && decide (nth < n) && (n - nth) % m == 0)
      else r.seen % 2 ^ bits c 26 22 == Config.rimSequence (r.seen / 2 ^ bits c 26 22) % 2 ^ bits c 26 22
    ({ r with seen := n, cnt := if fires then r.cnt + 1 else r.cnt }, fires)

/-- The rules of the link's router meet a packet; the actions that fire. -/
def State.rimshot (s : State) (l : LinkId) (h : Header) : State × List Nat :=
  if !s.rimAllowed then (s, [])
  else
    (List.range 4).foldl (fun (a : State × List Nat) i =>
      let r := Store.get Rim.reset (a.1.router (ioOf l)).rims i
      let (r', f) := r.meet l.val h
      (a.1.onRouter (ioOf l) fun k => { k with rims := Store.set Rim.reset k.rims i r' },
        if f then a.2 ++ [rimAction r.cfg.toNat] else a.2)) (s, [])

/-! ### The transmit queue (R521, R527, R533, R536, R553) -/

/-- A link sends and accepts a packet of its enclave, or management when mgmt_ok = 1 (R533). -/
def Link.allows (k : Link) (p : Packet) : Bool :=
  p.hdr.enclave.toNat == k.encl || (p.hdr.vc == 3 && p.hdr.enclave == 63 && k.mgmtOk)

/-- Until the session of a link with crypt = 1 completes, it starts no packet of its enclave (R728). -/
def Link.sessionOk (k : Link) (p : Packet) : Bool :=
  !k.crypt || k.ready || p.hdr.enclave.toNat != k.encl

/-- Whether the credits allow every flit of a packet (R513). -/
def Link.creditOk (k : Link) (p : Packet) : Bool :=
  let n := (Store.get 0 k.sent p.hdr.sel + 8192 - Store.get 0 k.acked p.hdr.sel) % 8192
  decide (n + p.size ≤ vcBuffer p.hdr.vc.toNat)

/-- The first waiting packet of a virtual channel and class, when it may start. -/
def Link.startable (k : Link) (sel : Nat) : Option (Packet × Nat) :=
  match k.txq.find? fun e => e.1.hdr.sel == sel with
  | some e => if k.creditOk e.1 && k.sessionOk e.1 then some e else none
  | none => none

/-- The next packet start: RS, SD, RQ, then MG; MG first when 63 others have started while it waited (R521). -/
def Link.nextStart (k : Link) : Option (Packet × Nat) :=
  let order := if 63 ≤ k.mgStarts then [6, 7, 4, 5, 0, 1, 2, 3] else [4, 5, 0, 1, 2, 3, 6, 7]
  order.findSome? k.startable

/-- A packet starts on a link in data slot `start`: it takes the next pseq, and the sender's count moves to the next key when
pseq wraps (R518, R729). -/
def State.startPacket (s : State) (l : LinkId) (e : Packet × Nat) (start : Nat) : State × Packet :=
  let k := s.link l
  let p : Packet := { e.1 with hdr := { e.1.hdr with pseq := k.txPseq, start := BitVec.ofNat 5 start } }
  let mgWaits := (k.txq.erase e).any fun q => q.1.hdr.vc == 3
  (s.setLink l { k with
    txq := k.txq.erase e
    sent := Store.set 0 k.sent p.hdr.sel ((Store.get 0 k.sent p.hdr.sel + p.size) % 8192)
    txPseq := k.txPseq + 1
    rekeyTx := if k.txPseq + 1 = 0 then k.rekeyTx + 1 else k.rekeyTx
    mgStarts := if p.hdr.vc = 3 then 0 else if mgWaits then k.mgStarts + 1 else 0 }, p)

/-- Whether a copy of a packet of this module still waits somewhere in the module. -/
def State.stillHere (s : State) (h : Header) : Bool :=
  let same (p : Packet) : Bool :=
    p.hdr.kind == h.kind && p.hdr.src == h.src && p.hdr.tag == h.tag && p.hdr.context == h.context && p.hdr.fa == h.fa
  (s.links.any fun l => (l.2.txq.any fun e => same e.1) || (l.2.cur.any fun e => same e.1) || l.2.held.any fun e => same e.1) ||
    s.routers.any fun r => r.2.localq.any same || r.2.ringq.any fun e => same e.pkt

/-- The tag of a tracked operation (R542): the entry and its generation. -/
def Core.tagOf (k : Core) (o : DynOp) : BitVec 16 :=
  BitVec.ofNat 16 (o.entry.toNat + Store.get 0 k.tagGen o.entry.toNat % 512 * 128)

/-- The issued fabric operation of a context that a tag names. -/
def State.findOp (s : State) (x : Ctx) (tag : BitVec 16) (ok : DynOp → Bool) : Option (CoreId × DynOp) :=
  (s.coresOfCtx x).findSome? fun c =>
    ((s.core c).ops.find? fun o => o.cls == 4 && o.stage == .issued && (s.core c).tagOf o == tag && ok o).map fun o => (c, o)

def opKind (o : DynOp) : Nat := bits o.desc.toNat 251 248

/-- A data packet of a shard transfer (R581). -/
def shardHdr (h : Header) : Bool := h.kind == 7 && decide (h.fa.toNat / 4096 < 6)

/-- An MCAST or STREAM completes when its last packet has left (R540, R541); the timer of a shard mover's job runs from the moment
at which none of its packets waits in the module (R585). -/
def State.opLeft (s : State) (h : Header) : State :=
  if h.src = s.self ∧ shardHdr h ∧ !s.stillHere h then
    (List.finRange 4).foldl (fun s i =>
      s.onRouter i fun r => { r with job := r.job.map fun b => if b.tag = h.tag then { b with lastAt := s.car } else b }) s
  else if h.src = s.self ∧ (h.kind = 3 ∨ h.kind = 4) ∧ h.fa = h.fb ∧ !s.stillHere h then
    match s.findOp h.context h.tag fun o => opKind o == (if h.kind = 3 then 2 else 3) with
    | some (c, o) => s.opFinish c o.serial s.ac false
    | none => s
  else s

/-! ### Frames (R509 to R513, R517, R521, R562) -/

/-- Data slots of a frame. -/
def frameSlots : Nat := 19
/-- The length of a frame in tenths of a ns, by width (R509). -/
def frameTenths (width : Nat) : Nat := if width = 0 then 32 else if width = 1 then 64 else 128
/-- The data slots of a packet, with the tag block of a link with crypt = 1 (R511, R536). -/
def Link.slotsOf (k : Link) (p : Packet) : Nat := 8 * p.size + if k.crypt then 1 else 0

/-- The packet of a link's frames has left: what the wire carries is the packet with its header, and 0 or 1 plus the Rimshot action
that marks it (CORRUPT, KILL). -/
def State.packetSent (s : State) (l : LinkId) : State :=
  match (s.link l).cur with
  | some (p, w, effect) =>
    ((s.onLink l fun k => { k with cur := none }).emit (.packet l (BitVec.ofNat 256 w) p.flits effect)).opLeft p.hdr
  | none => s

/-- A packet takes its data slots from `start` on, behind its header in the control slot. -/
def State.putPacket (s : State) (l : LinkId) (p : Packet) (effect start : Nat) : State :=
  let (s, c) := s.credit l
  let n := (s.link l).slotsOf p
  let free := frameSlots + 1 - start
  let t := s.onLink l fun k => { k with cur := some (p, (p.hdr.word c).toNat, effect), slots := n - free }
  if n ≤ free then t.packetSent l else t

/-- A held packet is free to go once a packet of its channel has gone. -/
def State.unhold (s : State) (l : LinkId) (vc : BitVec 2) : State :=
  s.onLink l fun k => { k with held := k.held.map fun e => (e.1, e.2 || e.1.hdr.vc == vc) }

/-- A packet that starts passes the Rimshot rules: DROP discards it, REORDER holds it until the next packet of its channel has
gone, CORRUPT and KILL mark it.  What a slot without a header carries instead is an IDLE block. -/
def State.wirePacket (s : State) (l : LinkId) (p : Packet) (start : Nat) : State :=
  let (s, fs) := s.rimshot l p.hdr
  if fs.contains 0 then (s.putControl l 0).opLeft p.hdr
  else if fs.contains 3 ∧ (s.link l).held.isNone then (s.onLink l fun k => { k with held := some (p, false) }).putControl l 0
  else (s.unhold l p.hdr.vc).putPacket l p (if fs.contains 2 then 3 else if fs.contains 1 then 2 else 0) start

/-- The first control block that waits, of a type in the order given. -/
def Link.firstCtl (k : Link) (types : List Nat) : Option Nat :=
  types.findSome? fun t => k.ctl.find? fun b => b % 256 == t

/-- Timestamps in units of 0.125 ns (R558): the count and the fraction behind it. -/
def State.stamp (s : State) : Nat := (8 * s.car + 8 * s.mod.carFrac / 10000000) % 2 ^ 64

/-- A control block that waited is sent; a TS_REQ takes its transmit time here (R558). -/
def State.takeCtl (s : State) (l : LinkId) (b : Nat) : State :=
  let s := s.onLink l fun k => { k with ctl := k.ctl.erase b }
  if b % 256 = 3 then
    (s.onMod fun m => { m with txTs := BitVec.ofNat 64 s.stamp }).putControl l (b + s.stamp * 2 ^ 16)
  else s.putControl l b

/-- A header, when a packet may start: a held one that may go first, or the next start of the queue (R521, R562). -/
def State.headerSlot (s : State) (l : LinkId) (start : Nat) : Option State :=
  let k := s.link l
  if k.state ≠ lkActive ∨ frameSlots < start then none
  else
    match k.held, k.nextStart with
    | some (p, true), _ =>
      some ((s.onLink l fun k => { k with held := none }).putPacket l { p with hdr := { p.hdr with start := BitVec.ofNat 5 start } }
        0 start)
    | _, some e => let (t, p) := s.startPacket l e start; some (t.wirePacket l p start)
    | _, none => none

/-- A frame: its control slot takes the first waiting block in the order of R512, and its data slots go on with the packet in
progress. -/
def State.frame (s : State) (l : LinkId) : State :=
  let n := (s.link l).slots
  let s := s.onLink l fun k => { k with slots := n - frameSlots }
  let s := if n ≤ frameSlots then s.packetSent l else s
  let k := s.link l
  match k.firstCtl [6, 5, 4, 3] with
  | some b => s.takeCtl l b
  | none =>
    match s.headerSlot l (n + 1) with
    | some t => t
    | none => s.takeCtl l ((k.firstCtl [2]).getD 0)

/-- The frames that begin: a link in PROBE or ACTIVE sends one after the other (R514). -/
def State.linkFrame (s : State) (l : LinkId) : State :=
  let k := s.link l
  if lkProbe ≤ k.state ∧ k.frameAt ≤ s.now then
    (s.onLink l fun k => { k with frameAt := k.frameAt + frameTenths k.width }).frame l
  else s
def State.linkFrames (s : State) : State := s.links.foldl (fun s e => s.linkFrame (Fin.ofNat 48 e.1)) s

/-- The dateline class in which a packet crosses a link (R526); the dimension code 0b11 names no dimension. -/
def State.classOn (s : State) (l : LinkId) (arrival : Option LinkId) (p : Packet) : Bool :=
  (s.link l).dateline ||
    match arrival with
    | some a => (s.link l).dim == (s.link a).dim && (s.link l).dim != 3 && p.hdr.dl
    | none => false

/-- Flits of a channel in an output queue. -/
def Link.queued (k : Link) (vc : BitVec 2) : Nat :=
  (k.txq.filter fun e => e.1.hdr.vc == vc).foldl (fun n e => n + e.1.size) 0

/-- A packet joins the output queue of a link (R526, R527, R533, R553, R561). -/
def State.linkJoin (s : State) (l : LinkId) (arrival : Option LinkId) (p : Packet) : State :=
  let k := s.link l
  let i := ioOf l
  if 62 ≤ p.hdr.hops.toNat then s.drop i dropHops
  else if !k.allows p then (s.drop i dropEnclave).routerFault i 0
  else if !k.open_ then s.drop i dropDown
  else
    let th := s.fld .fab 0x18 11 0
    let h := { p.hdr with hops := p.hdr.hops + 1, dl := s.classOn l arrival p
                          mark := p.hdr.mark || decide (th < k.queued p.hdr.vc) }
    s.setLink l { k with txq := k.txq ++ [({ p with hdr := h }, s.now)] }

/-! ### Management floods (R520, R661, R664) -/

/-- The links over which Lumef floods: ACTIVE with mgmt_ok = 1. -/
def State.floodLinks (s : State) (skip : Option LinkId) : List LinkId :=
  (List.finRange 48).filter fun l => (s.link l).state == lkActive && (s.link l).mgmtOk && skip != some l

/-- One copy of a management packet to the peer of each flooding link. -/
def State.flood (s : State) (skip : Option LinkId) (fa fb fc : Nat) (body : List Byte) : State :=
  (s.floodLinks skip).foldl (fun s l => s.linkJoin l none (s.mgPacket (s.link l).peerEp false 0 0 fa fb fc body)) s

/-- Bytes 7:0 of the configuration digest in force. -/
def State.cfgDigest8 (s : State) : Nat := leNat ((digestBytes (s.digestReg .sec 0x40)).take 8)
def State.ownWeight (s : State) : Nat := (Store.get 0 s.mod.weights s.self.toNat : Byte).toNat

/-- The CENSUS packet of an endpoint (R664): endpoint, weight, digest bytes. -/
def State.floodCensus (s : State) (skip : Option LinkId) (e weight dig : Nat) : State :=
  s.flood skip 0xD000 0 0 (leBytes 2 e ++ leBytes 1 weight ++ leBytes 8 dig)

/-- Lumef begins a census of its own. -/
def State.ownCensus (s : State) : State :=
  (s.onMod fun m => { m with lastCensus := s.now, censusCar := s.car }).floodCensus none s.self.toNat s.ownWeight s.cfgDigest8

/-! ### Link states (R514, R515, R561) -/

/-- All counts restart at 0 when a link enters ACTIVE (R513); a link with crypt = 1 begins without a session (R728). -/
def Link.enterActive (k : Link) : Link :=
  { (k.setStat lkActive k.width false) with
    retrain := false, cur := none, slots := 0, sent := [], acked := [], freedRx := [], creditSel := 0, txPseq := 0, rxPseq := 0, mgStarts := 0
    secret := none, rekeyTx := 0, rekeyRx := 0, ready := false, rekeying := false, retryAt := none, rxHdr := none }

def unitIo (i : IoId) : Nat := 0x10 + i.val

/-- Whether some ACTIVE link reaches a neighbour of the expected topology. -/
def State.reaches (s : State) (e : Endpoint) : Bool :=
  (List.finRange 48).any fun l =>
    (s.link l).state == lkActive && Store.get 0xFFFF s.mod.neighbours l.val == e

/-- A module that loses its last ACTIVE link to a neighbour asks who still reaches it (R660). -/
def State.askReach (s : State) (l : LinkId) : State :=
  let e : Endpoint := Store.get 0xFFFF s.mod.neighbours l.val
  if e = 0xFFFF ∨ s.reaches e then s
  else (s.onMod fun m => { m with queries := Store.set 0 m.queries e.toNat (s.now + 1) }).emit (.reachAsk e)

/-- A link goes DOWN: its queued packets are discarded, and the loss of an ACTIVE link is logged (R561, R629, R660,
R664). -/
def State.linkToDown (s : State) (l : LinkId) : State :=
  let k := s.link l
  if k.state = lkDown then s
  else
    let n := k.txq.length + (if k.held.isSome then 1 else 0)
    let s := (List.range n).foldl (fun s _ => s.drop (ioOf l) dropDown) s
    let s := s.setLink l { (k.setStat lkDown 0 false) with
      txq := [], held := none, ctl := [], cur := none, slots := 0, retrain := false, rxHdr := none, secret := none, ready := false, rekeying := false
      retryAt := none, identified := false }
    if k.open_ then
      let s := s.fault clsLinkDown l.val false (unitIo (ioOf l)) noCtx l.val (.link l)
      (s.askReach l).ownCensus
    else s

/-- LINK_SIGNAL_DETECT (R514, R760): an enabled DOWN link whose cable is powered enters TRAIN. -/
def execLinkSignalDetect (l : LinkId) (s : State) : Host.Outcome State Fault Refusal :=
  .next (
    let k := s.link l
    if k.state = lkDown ∧ k.on ∧ !k.unpowered then
      s.setLink l { (k.setStat lkTrain 0 false) with trainAt := s.now, retrain := false }
    else s)

/-- The widest width that passes, that max_width permits, and that is narrower when the link retrains. -/
def Link.bestWidth (k : Link) (passes : List (BitVec 2)) : Option Nat :=
  ([0, 1, 2].filter fun w => decide (k.maxWidth ≤ w) && (!k.retrain || decide (k.width < w))).find? fun w =>
    passes.any fun p => p.toNat == w

/-- LINK_TRAIN_DONE (R514, R515): training ends within its time at the best width, or the link goes DOWN. -/
def execLinkTrainDone (l : LinkId) (passes : List (BitVec 2)) (s : State) : Host.Outcome State Fault Refusal :=
  .next (
    let k := s.link l
    if k.state ≠ lkTrain then s
    else
      match k.bestWidth passes with
      | some w =>
        if !s.over k.trainAt (if k.retrain then 2000 else 100000) then
          s.setLink l { (k.setStat lkProbe w false) with identAt := s.now, frameAt := s.now }
        else s.linkToDown l
      | none => s.linkToDown l)

/-- LINK_TRAIN_TIMEOUT (R514). -/
def execLinkTrainTimeout (l : LinkId) (s : State) : Host.Outcome State Fault Refusal :=
  .next (
    let k := s.link l
    if k.state = lkTrain ∧ !k.retrain ∧ 100000 ≤ s.sinceUs k.trainAt then s.linkToDown l else s)

/-- FAB_ID (R567). -/
def State.fabricId (s : State) : Nat := s.reg .fab 0x00 + s.reg .fab 0x04 * 2 ^ 32

/-- An admitted PROBE link enters ACTIVE when its peer's fabric ID matches; an admit on a mismatch is refused (R560). -/
def State.linkAdmit (s : State) (l : LinkId) : State :=
  let k := s.link l
  if k.state ≠ lkProbe ∨ !k.admitted ∨ !k.identified then s
  else if k.peerFabric.toNat = s.fabricId then s.setLink l k.enterActive
  else (s.setLink l (k.setStat lkProbe k.width true)).routerFault (ioOf l) 9

/-- LINK_ADMIT (R560). -/
def execLinkAdmit (l : LinkId) (s : State) : Host.Outcome State Fault Refusal := .next (s.linkAdmit l)

/-- A packet that was partly sent is lost; it has left the module (R515). -/
def State.loseCur (s : State) (l : LinkId) : State :=
  match (s.link l).cur with
  | some e => (s.onLink l fun k => { k with cur := none, slots := 0 }).opLeft e.1.hdr
  | none => s

/-- LANE_FAILURE (R515): an ACTIVE link retrains narrower; at 2 lanes it goes DOWN.  A packet partly sent or received is lost. -/
def execLaneFailure (l : LinkId) (s : State) : Host.Outcome State Fault Refusal :=
  .next (
    let k := s.link l
    if k.state ≠ lkActive then s
    else if 2 ≤ k.width then s.linkToDown l
    else
      let s := if k.rxHdr.isSome then s.drop (ioOf l) dropFrame else s
      let s := s.loseCur l
      let s := s.onLink l fun k => { (k.setStat lkTrain k.width false) with retrain := true, trainAt := s.now, rxHdr := none }
      s.fault clsLinkRetrain l.val false (unitIo (ioOf l)) noCtx l.val (.link l))

/-- LINK_RETRAIN_TIMEOUT (R515). -/
def execLinkRetrainTimeout (l : LinkId) (s : State) : Host.Outcome State Fault Refusal :=
  .next (
    let k := s.link l
    if k.state = lkTrain ∧ k.retrain ∧ 2000 ≤ s.sinceUs k.trainAt then s.linkToDown l else s)

/-- LINK_DOWN (R514, R561): signal loss, or enable = 0. -/
def execLinkDown (l : LinkId) (s : State) : Host.Outcome State Fault Refusal := .next (s.linkToDown l)

/-- CABLE_INSERT (R760): a cable that asks for more than 3.0 W is left unpowered, and its links stay DOWN. -/
def execCableInsert (dk : Fin 12) (milliwatts : Nat) (s : State) : Host.Outcome State Fault Refusal :=
  .next ((List.range 4).foldl (fun s i =>
    s.onLink (Fin.ofNat 48 (4 * dk.val + i)) fun k => { k with unpowered := decide (3000 < milliwatts) }) s)

/-! ### Reception (R510, R512, R513) -/

/-- The credit field of a received control block updates the sender's count (R513). -/
def State.takeCredit (s : State) (l : LinkId) (control : Nat) : State :=
  s.onLink l fun k => { k with acked := Store.set 0 k.acked (bits control 255 253) (bits control 252 240) }

/-- FRAME_RECEIVE (R510 to R513): an uncorrectable frame is discarded with the packet it belongs to; a good frame's
control block is taken. -/
def execFrameReceive (l : LinkId) (corrected uncorrectable : Bool) (control : BitVec 256) (s : State) :
    Host.Outcome State Fault Refusal :=
  .next (
    let k := s.link l
    let i := ioOf l
    let ty := bits control.toNat 7 0
    if k.state < lkProbe then s
    else if uncorrectable then
      let s := if k.rxHdr.isSome then s.drop i dropFrame else s
      let s := s.setLink l { k with fecue := satInc k.fecue, rxHdr := none }
      s.fault clsLinkFec l.val false (unitIo i) noCtx l.val (.link l)
    else
      let s := if corrected then s.onLink l fun k => { k with fecce := satInc k.fecce } else s
      if 6 < ty then s.drop i dropKind
      else
        let s := if ty = 1 ∧ k.state = lkActive then s.onLink l fun k => { k with rxHdr := some control } else s
        s.takeCredit l control.toNat)

/-- IDENT (R559, R560). -/
def execIdent (l : LinkId) (peerLink : BitVec 6) (e : Endpoint) (fabricId idDigest : Word64) (s : State) :
    Host.Outcome State Fault Refusal :=
  .next (
    let k := s.link l
    if k.state < lkProbe then s
    else
      let mm := if k.state = lkProbe then decide (fabricId.toNat ≠ s.fabricId) else k.mismatch
      s.setLink l { (k.setStat k.state k.width mm) with
        peer := BitVec.ofNat 32 (e.toNat * 65536 + peerLink.toNat), peerFabric := fabricId, peerDigest := idDigest
        identified := true })

/-- The body of an IDENT block (R559). -/
def State.identBlock (s : State) (l : LinkId) : Nat :=
  0x02 + l.val * 2 ^ 8 + s.self.toNat * 2 ^ 16 + s.fabricId * 2 ^ 48 +
    leNat ((digestBytes Config.identity).take 8) * 2 ^ 112

/-- IDENT_TIMER (R512): every 1 µs in PROBE, every 1 ms in ACTIVE. -/
def execIdentTimer (l : LinkId) (s : State) : Host.Outcome State Fault Refusal :=
  .next (
    let k := s.link l
    let due := if k.state = lkProbe then 1 else 1000
    if lkProbe ≤ k.state ∧ due ≤ s.sinceUs k.identAt then
      (s.setLink l { k with identAt := s.now }).sendControl l (s.identBlock l)
    else s)

/-- PACKET_RESIDENCE_EXPIRE (R527): packets that have waited longer than FAB_RESIDENCE in the output queue of a link, in its input
buffers, or at its router on their way over the ring, are discarded. -/
def execPacketResidenceExpire (l : LinkId) (s : State) : Host.Outcome State Fault Refusal :=
  .next (
    let max := s.fld .fab 0x10 19 0
    let i := ioOf l
    let k := s.link l
    let old (t : Nat) : Bool := decide (10000 * max < s.now - t)
    let gone := (k.txq.filter fun e => old e.2).length
    let s := s.setLink l { k with txq := k.txq.filter fun e => !old e.2 }
    let s := (List.range gone).foldl (fun s _ => s.drop i dropResidence) s
    let lost := (s.router i).ringq.filter fun d => old d.since
    let s := s.onRouter i fun r => { r with ringq := r.ringq.filter fun d => !old d.since }
    let s := lost.foldl (fun s d =>
      let s := s.drop i dropResidence
      match d.via, d.arrival with
      | .deliver, some a => s.freeRx a d.pkt
      | .cores _, some a => s.freeRx a d.pkt
      | _, _ => s) s
    (List.finRange 4).foldl (fun s j =>
      let late := (s.router j).delivered.filter fun d => d.arrival == some l && old d.since
      let s := s.onRouter j fun r => { r with delivered := r.delivered.filter fun d => !(d.arrival == some l && old d.since) }
      late.foldl (fun s d => (s.drop j dropResidence).freeRx l d.pkt) s) s)

/-! ### Sessions (R728, R729) -/

def secSessionFail : Nat := 1

/-- The outcome of KEY_EXCHANGE and FINISH on a link with crypt = 1: a master secret, or a failure that is tried again
100 ms later. -/
def State.session (s : State) (l : LinkId) (secret : Option Digest) : State :=
  let k := s.link l
  if k.state ≠ lkActive ∨ !k.crypt then s
  else
    match secret with
    | some m =>
      s.setLink l { k with secret := some m, ready := true, rekeying := false, rekeyTx := 0, rekeyRx := 0
                           retryAt := none }
    | none =>
      (s.setLink l { k with rekeying := false, retryAt := some (s.now + 1000000000) }).orReg .sec 0x18C (2 ^ secSessionFail)

/-- LINK_SECURITY_SESSION (R728): a session is due after ACTIVE or a rekey request. -/
def execLinkSecuritySession (l : LinkId) (secret : Option Digest) (s : State) : Host.Outcome State Fault Refusal :=
  .next (
    let k := s.link l
    if (!k.ready || k.rekeying) && k.retryAt.isNone then s.session l secret else s)

/-- LINK_SESSION_RETRY (R728). -/
def execLinkSessionRetry (l : LinkId) (secret : Option Digest) (s : State) : Host.Outcome State Fault Refusal :=
  .next (
    match (s.link l).retryAt with
    | some t => if t ≤ s.now then s.session l secret else s
    | none => s)

/-- A 1 written to SEC_LKCTL.rekey (R20, R729). -/
def State.rekey (s : State) (l : LinkId) : State :=
  if (s.link l).rekeying then s.orReg .sec 0x18C 4 else s.onLink l fun k => { k with rekeying := true, retryAt := none }

/-- LINK_REKEY (R729). -/
def execLinkRekey (l : LinkId) (s : State) : Host.Outcome State Fault Refusal := .next (s.rekey l)

end Sys2Proof.Machine
end

