-- ==== Sys2Proof/Machine/Carillon.lean ====
section
/-! DEFINITION. The Carillon: its load, its timestamp exchanges and its states (R480 to R484, R504, R558). -/

namespace Sys2Proof.Machine

def carUnlocked : Nat := 0
def carAcquire : Nat := 1
def carLocked : Nat := 2
def carHoldover : Nat := 3

def State.carState (s : State) : Nat := s.fld .clk 0x08 31 30
def State.carSource (s : State) : Bool := s.fld .clk 0x0C 30 30 == 1
def State.discipline (s : State) : Bool := s.fld .clk 0x0C 29 29 == 1
/-- The parent link; none for 0x3F (R558). -/
def State.carParent (s : State) : Option LinkId :=
  let l := s.fld .fab 0x1C 5 0
  if l < 48 then some (Fin.ofNat 48 l) else none

/-- A state is entered: the runs of exchanges start again, and ACQUIRE may step forward once (R482). -/
def State.carEnter (s : State) (st : Nat) : State :=
  (s.setFld .clk 0x08 31 30 st).onMod fun m =>
    { m with carIn := 0, carOut := 0, carStepped := if st = carAcquire then false else m.carStepped
             carHoldAt := if st = carHoldover then s.now else m.carHoldAt }

/-- A source whose discipline is enabled is LOCKED (R482). -/
def State.carDiscipline (s : State) : State :=
  if s.carState = carUnlocked ∧ s.discipline ∧ s.carSource then s.carEnter carLocked else s

/-- A 1 written to CLK_CARCFG.load (R20, R484, R504): the count takes CLK_CARLOAD, as it stands, in the next nc, in which the
field clears. -/
def State.carLoad (s : State) : State :=
  if s.fld .clk 0x0C 31 31 = 1 then s.raise .clk 0x18 5
  else if s.carSource ∧ s.carState = carUnlocked then
    (s.setFld .clk 0x0C 31 31 1).owes .clk 0x0C (.carLoad (s.reg .clk 0x10 + s.reg .clk 0x14 * 2 ^ 32))
  else s.raise .clk 0x18 4

/-- CARILLON_LOAD (R484). -/
def execCarillonLoad (s : State) : Host.Outcome State Fault Refusal := .next s.carLoad

/-- TS_EXCHANGE_TIMER (R481, R558): every 10 µs on the Carillon parent link; the block takes its transmit time at its control
slot. -/
def execTsExchangeTimer (s : State) : Host.Outcome State Fault Refusal :=
  .next (
    match s.carParent with
    | some l =>
      if s.discipline ∧ !s.carSource ∧ 10 ≤ s.sinceUs s.mod.tsAt then
        let q := s.mod.tsSeq + 1
        (s.onMod fun m => { m with tsSeq := q, tsAt := s.now }).sendControl l (0x03 + q.toNat * 2 ^ 8)
      else s
    | none => s)

/-- TS_REQ (R558): the answer repeats the sequence byte and t1. -/
def execTsReq (l : LinkId) (seq : Byte) (t1 t2 t3 : Word64) (s : State) : Host.Outcome State Fault Refusal :=
  .next (s.sendControl l
    (0x04 + seq.toNat * 2 ^ 8 + t1.toNat * 2 ^ 16 + t2.toNat * 2 ^ 80 + t3.toNat * 2 ^ 144))

/-- Twice the offset from the parent, in 0.125 ns: (t2 − t1) − (t4 − t3), positive when the follower is behind. -/
def twiceOffset (t1 t2 t3 t4 : Word64) : Int := ((t2 - t1) - (t4 - t3)).toInt

/-- CLK_CARSTAT.offset: half of it.  Which way an odd value is rounded, and what a value outside 16 bits shows, is open. -/
def State.showOffset (s : State) (d : Int) : State :=
  let v : Int := if d % 2 = 0 then d / 2 else d / 2 + (Config.freeNat s.free % 2 : Nat)
  if -32768 ≤ v ∧ v ≤ 32767 then (s.setFld .clk 0x08 15 0 (v % 65536).toNat).draw 1
  else (s.setFld .clk 0x08 15 0 (Config.freeNat s.free % 65536)).draw 1

/-- An exchange steers the state (R482): twice ±2 ns is ±32 units of 0.125 ns, twice ±3 ns is ±48. -/
def State.carExchange (s : State) (d : Int) : State :=
  let near := -32 ≤ d ∧ d ≤ 32
  let far := d < -48 ∨ 48 < d
  let s := s.onMod fun m =>
    { m with carLastAt := s.now, carAhead := decide (d < 0), carIn := if near then m.carIn + 1 else 0, carOut := if far then m.carOut + 1 else 0 }
  if s.carState = carAcquire then
    if 16000 < d ∧ !s.mod.carStepped then
      s.onMod fun m => { m with carillon := m.carillon + (d / 16).toNat, carStepped := true, carIn := 0 }
    else if 16 ≤ s.mod.carIn then s.carEnter carLocked
    else s
  else if s.carState = carLocked then (if 3 ≤ s.mod.carOut then s.carEnter carHoldover else s)
  else if s.carState = carHoldover then (if 16 ≤ s.mod.carIn then s.carEnter carLocked else s)
  else s

/-- TS_RSP (R481, R482, R558): a follower takes the answer of its parent link. -/
def execTsRsp (l : LinkId) (seq : Byte) (t1 t2 t3 t4 : Word64) (s : State) : Host.Outcome State Fault Refusal :=
  .next (
    if s.carSource ∨ !s.discipline ∨ s.carParent ≠ some l ∨ seq ≠ s.mod.tsSeq ∨ t1 ≠ s.mod.txTs then s
    else
      let s := if s.carState = carUnlocked then s.carEnter carAcquire else s
      let d := twiceOffset t1 t2 t3 t4
      (s.showOffset d).carExchange d)

/-- CARILLON_EXCHANGE_LOSS (R482): no exchange for 100 µs. -/
def execCarillonExchangeLoss (s : State) : Host.Outcome State Fault Refusal :=
  .next (
    if s.carState = carLocked ∧ !s.carSource ∧ 100 ≤ s.sinceUs s.mod.carLastAt then s.carEnter carHoldover else s)

/-- HOLDOVER_EXPIRE (R482): 10 ms in HOLDOVER. -/
def execHoldoverExpire (s : State) : Host.Outcome State Fault Refusal :=
  .next (
    if s.carState = carHoldover ∧ 10000 ≤ s.sinceUs s.mod.carHoldAt then (s.carEnter carAcquire).raise .clk 0x18 3
    else s)

end Sys2Proof.Machine
end

