-- ==== Sys2Proof/Machine/Route.lean ====
section
/-! DEFINITION. Routing: tables, epochs, multicast copies, the package ring and delivery (R38, R519, R520, R522 to R534,
R547, R548, R553, R555, R565, R566). -/

namespace Sys2Proof.Machine

/-! ### Epochs and tables (R523, R528 to R530, R548) -/

def State.epoch (s : State) (i : IoId) : Nat := s.fld (.router i) 0x2C 31 24
def State.bankTag (s : State) (i : IoId) (bank : Bool) : Nat :=
  if bank then s.fld (.router i) 0x2C 15 8 else s.fld (.router i) 0x2C 7 0
/-- The bank whose tag equals an epoch. -/
def State.bankOf (s : State) (i : IoId) (epoch : Nat) : Option Bool :=
  if s.bankTag i false = epoch then some false else if s.bankTag i true = epoch then some true else none

def routeKey (bank : Bool) (dst : Nat) : Nat := (if bank then 65536 else 0) + dst
def groupKey (bank : Bool) (g : Nat) : Nat := (if bank then 4096 else 0) + g
def State.route (s : State) (i : IoId) (bank : Bool) (dst : Nat) : Nat :=
  (Store.get 0 (s.router i).routes (routeKey bank dst) : Word32).toNat
/-- A group entry: valid in bit 63, internal mask in [59:48], links in [47:0]. -/
def State.mgroup (s : State) (i : IoId) (bank : Bool) (g : Nat) : Nat :=
  (Store.get 0 (s.router i).mcasts (groupKey bank g) : Word64).toNat

/-- A write of a routing or group entry; one to the bank of the current epoch is ignored and flagged (R530).  The group
table has no entry above 4,095. -/
def State.tableWrite (s : State) (i : IoId) (table bank : Bool) (index lo hi : Nat) : State :=
  if s.bankTag i bank = s.epoch i then s.routerFault i 5
  else
    if table then
      if 4096 ≤ index then s
      else
        let v : Word64 := BitVec.ofNat 64 ((lo + hi * 2 ^ 32) % 2 ^ 60 +
          (if bitAt hi 31 then 2 ^ 63 else 0))
        s.onRouter i fun r => { r with mcasts := Store.set 0 r.mcasts (groupKey bank index) v }
    else s.onRouter i fun r => { r with routes := Store.set 0 r.routes (routeKey bank index) (BitVec.ofNat 32 lo) }

/-- A read of an entry into FAB_TBLVIEW. -/
def State.tableRead (s : State) (i : IoId) (table bank : Bool) (index : Nat) : State :=
  let v := if table then (if 4096 ≤ index then 0 else s.mgroup i bank index) else s.route i bank index
  (s.setReg (.router i) 0x24 (v % 2 ^ 32)).setReg (.router i) 0x28 (v / 2 ^ 32)

/-- The RW fields of FAB_TBLCMD as the write that starts a command sets them (R750). -/
def tblCmd (write table bank : Bool) (index : Nat) : Nat :=
  (if write then 2 ^ 30 else 0) + (if table then 2 ^ 29 else 0) + (if bank then 2 ^ 28 else 0) + index

/-- A write of FAB_TBLCMD with go = 1 (R20, R565, R750): go reads 1 until the command ends, within 4 nc.  DESIGN CHOICE: it ends
one to four nc later, a free value, and takes effect then, with the FAB_TBLDATA of the write (log 210). -/
def State.tableGo (s : State) (i : IoId) (v : Nat) : State :=
  if s.fld (.router i) 0x20 31 31 = 1 then s.routerFault i 7
  else
    (((s.setReg (.router i) 0x20 (2 ^ 31 + (v &&& 0x7000FFFF))).owesIn (1 + Config.freeNat s.free % 4) (.router i) 0x20
      (.table i.val (v &&& 0x7000FFFF) (s.reg (.router i) 0x18) (s.reg (.router i) 0x1C)))).draw 1

/-- A table command ends, at the start of an nc (R528, R565). -/
def State.tableEnd (s : State) (i : IoId) (v lo hi : Nat) : State :=
  let s := s.setFld (.router i) 0x20 31 31 0
  if bitAt v 30 then s.tableWrite i (bitAt v 29) (bitAt v 28) (v % 65536) lo hi
  else s.tableRead i (bitAt v 29) (bitAt v 28) (v % 65536)

/-- TABLE_WRITE (R530, R565). -/
def execTableWrite (i : IoId) (table bank : Bool) (index : BitVec 16) (s : State) : Host.Outcome State Fault Refusal :=
  .next (s.tableGo i (tblCmd true table bank index.toNat))
/-- TABLE_READ (R565). -/
def execTableRead (i : IoId) (table bank : Bool) (index : BitVec 16) (s : State) : Host.Outcome State Fault Refusal :=
  .next (s.tableGo i (tblCmd false table bank index.toNat))

/-- The bit of FAB_FAULT with which a retag is refused (R530). -/
def State.retagRefused (s : State) (i : IoId) (bank : Bool) (tag : Nat) : Option Nat :=
  if s.bankTag i (!bank) = tag then some 5
  else if s.bankTag i bank ≠ s.epoch i ∧ (s.router i).lastChange ≠ 0 ∧
      s.now + 1 - (s.router i).lastChange < 10000 * s.fld .fab 0x14 23 0 then some 4
  else none
/-- A retag takes place at the start of an nc, unless the bank's new tag has meanwhile become the other's (R528, R530). -/
def State.retagEnd (s : State) (i : IoId) (bank : Bool) (tag : Nat) : State :=
  if s.bankTag i (!bank) = tag then s.routerFault i 5
  else if bank then s.setFld (.router i) 0x2C 15 8 tag
  else s.setFld (.router i) 0x2C 7 0 tag
/-- A retag arrives (R530): packets of this nc still see the old tag (R528). -/
def State.retag (s : State) (i : IoId) (bank : Bool) (tag : Nat) : State :=
  match s.retagRefused i bank tag with
  | some b => s.routerFault i b
  | none => s.owes (.router i) 0x30 (.retag i.val bank tag)

/-- FAB_RETAG (R530). -/
def execFabRetag (i : IoId) (bank : Bool) (tag : Byte) (s : State) : Host.Outcome State Fault Refusal :=
  .next (s.retag i bank tag.toNat)

/-- A 1 written to FAB_EPOCHCTL.arm (R20, R529). -/
def State.epochArm (s : State) (i : IoId) (staged : Nat) : State :=
  if s.fld (.router i) 0x34 31 31 = 1 then s.routerFault i 7 else s.setReg (.router i) 0x34 (2 ^ 31 + staged)

/-- EPOCH_ARM (R529). -/
def execEpochArm (i : IoId) (staged : Byte) (s : State) : Host.Outcome State Fault Refusal :=
  .next (s.epochArm i staged.toNat)

def State.epochAt (s : State) (i : IoId) : Nat := s.reg (.router i) 0x38 + s.reg (.router i) 0x3C * 2 ^ 32

/-- EPOCH_ACTIVATE (R529). -/
def execEpochActivate (i : IoId) (s : State) : Host.Outcome State Fault Refusal :=
  .next (
    if s.fld (.router i) 0x34 31 31 = 0 ∨ s.car < s.epochAt i then s
    else
      let e := s.fld (.router i) 0x34 7 0
      let s := s.setFld (.router i) 0x34 31 31 0
      if (s.bankOf i e).isNone then s.routerFault i 6
      else (s.setFld (.router i) 0x2C 31 24 e).onRouter i fun r => { r with lastChange := s.now + 1 })

/-! ### Ports (R36, R547) -/

def portsOf (i : IoId) : List CoreId :=
  (List.range 16).map fun k =>
    if i.val = 0 then coreAt 0 (2 * k) else if i.val = 1 then coreAt (4 + k) 31
    else if i.val = 2 then coreAt 23 (2 * k) else coreAt (4 + k) 0

def absDiff (a b : Nat) : Nat := (a - b) + (b - a)
def meshHops (a b : CoreId) : Nat := absDiff (mrow a) (mrow b) + absDiff (mcol a) (mcol b)

/-- The port with the fewest mesh hops to a core, among the ports of some I/O dies on dies of a context; the lowest mesh
position on a tie (R547). -/
def State.portNear (s : State) (x : Ctx) (c : CoreId) (is : List IoId) : Option (IoId × CoreId) :=
  let ps := is.flatMap fun i => ((portsOf i).filter fun p => s.holds x (dieOf p)).map fun p => (i, p)
  let rank (p : CoreId) : Nat := 1024 * meshHops p c + 32 * mrow p + mcol p
  match ps with
  | [] => none
  | q :: rest => some (rest.foldl (fun b e => if rank e.2 < rank b.2 then e else b) q)
/-- The I/O die of that port. -/
def State.nearPort (s : State) (x : Ctx) (c : CoreId) : Option IoId := (s.portNear x c (List.finRange 4)).map Prod.fst
/-- The port of an I/O die over which a core's fabric operation leaves (R538); DESIGN CHOICE: of several, the one that R547
would take (log 198). -/
def State.portOut (s : State) (x : Ctx) (c : CoreId) (i : IoId) : Option CoreId := (s.portNear x c [i]).map Prod.snd

/-! ### Kinds (R519, R520) -/

def kPut : Nat := 1
def kAck : Nat := 2
def kMcast : Nat := 3
def kStream : Nat := 4
def kRedUp : Nat := 5
def kRedDown : Nat := 6
def kMgmt : Nat := 7

/-- A kind on its own channel. -/
def kindOk (p : Packet) : Bool :=
  let k := p.hdr.kind.toNat
  let v := p.hdr.vc.toNat
  (k == kPut && v == 1) || (k == kAck && v == 2) || (k == kMcast && v == 1) || (k == kStream && v == 0) ||
    (k == kRedUp && v == 0) || (k == kRedDown && v == 0) || (k == kMgmt && v == 3)

def mgClass (p : Packet) : Nat := p.hdr.fa.toNat / 4096
/-- A data packet of a shard transfer (R581). -/
def isShard (p : Packet) : Bool := p.hdr.kind == 7 && mgClass p < 6

/-! ### Delivery -/

/-- The buffers a packet held on its arrival link are freed (R513); a packet for this module holds them until it is taken
(R545). -/
def State.freeArrival (s : State) (a : Option LinkId) (p : Packet) : State :=
  match a with | some l => s.freeRx l p | none => s

def State.toDelivered (s : State) (i : IoId) (p : Packet) (via : RingTo) (a : Option LinkId) : State :=
  s.onRouter i fun r => { r with delivered := r.delivered ++ [⟨p, via, a, s.now, i, false⟩] }

/-- The neighbour on the package ring: N, E, S, W clockwise (R38, R525). -/
def ringNext (i : IoId) (cw : Bool) : IoId := if cw then i + 1 else i - 1
/-- Whether a transfer runs clockwise: the one segment to a neighbour; across the ring by bit 0 of the destination (R525). -/
def ringCw (i j : IoId) (p : Packet) : Bool :=
  if j = i + 1 then true else if j = i - 1 then false else p.hdr.dst.toNat % 2 == 0
/-- A packet goes over one segment of the ring. -/
def State.ringStep (s : State) (i : IoId) (e : RingPkt) : State :=
  s.onRouter (ringNext i e.cw) fun r => { r with ringq := r.ringq ++ [{ e with since := s.now }] }
/-- A packet sets out over the ring. -/
def State.toRing (s : State) (i j : IoId) (p : Packet) (via : RingTo) (a : Option LinkId) : State :=
  s.ringStep i ⟨p, via, a, s.now, j, ringCw i j p⟩

/-- A packet for this module reaches the I/O die that handles it (R547, R550, R581): the die of the target core's port, the
home of its reduction group, or the router it is at.  Management other than shard transfers goes to Lumef, which takes it
as its own command. -/
def State.deliver (s : State) (i : IoId) (p : Packet) (via : RingTo) (a : Option LinkId) : State :=
  let k := p.hdr.kind.toNat
  let target : IoId :=
    if k = kPut ∨ k = kStream ∨ isShard p then
      (if p.hdr.tcore.toNat < 768 then (s.nearPort p.hdr.context (Fin.ofNat 768 p.hdr.tcore.toNat)).getD i else i)
    else if k = kRedUp then Fin.ofNat 4 (bits (s.group (p.hdr.fc.toNat % 256)).cfg0.toNat 28 27)
    else i
  if k = kMgmt ∧ mgClass p = 8 then
    match (List.finRange 4).find? fun j => match (s.router j).job with | some b => b.tag == p.hdr.tag | none => false with
    | some j => if j = i then s.toDelivered i p via a else s.toRing i j p .deliver a
    | none => (s.drop i dropLate).freeArrival a p
  else if k = kMgmt ∧ !isShard p then
    let s := s.freeArrival a p
    if mgClass p = 6 ∨ mgClass p = 7 ∨ mgClass p = 9 ∨ mgClass p = 11 then s.drop i dropKind else s
  else if target = i then s.toDelivered i p via a
  else s.toRing i target p .deliver a

/-! ### Forwarding (R524, R525, R548) -/

def linkOfMask (m : Nat) : List LinkId := (List.finRange 48).filter fun l => bitAt m l.val

/-- Copies on the masked links of one I/O die other than the arrival link. -/
def State.copies (s : State) (i : IoId) (mask : Nat) (a : Option LinkId) (p : Packet) : State :=
  ((linkOfMask mask).filter fun l => ioOf l == i && a != some l).foldl (fun s l => s.linkJoin l a p) s

/-- A multicast packet at the router where it enters the module (R540, R548, R551). -/
def State.routeMcast (s : State) (i : IoId) (bank : Bool) (a : Option LinkId) (p : Packet) : State :=
  let e := s.mgroup i bank (p.hdr.dst.toNat % 4096)
  if !bitAt e 63 then (s.drop i dropEpoch).freeArrival a p
  else
    let inner := bits e 59 48
    let s := s.copies i e a p
    let others := (List.finRange 4).filter fun j => j != i && (linkOfMask e).any fun l => ioOf l == j
    let s := others.foldl (fun s j => s.toRing i j p .copy a) s
    let here := if isShard p then p.hdr.tcore.toNat < 768 && bitAt inner (p.hdr.tcore.toNat / 64)
      else p.hdr.kind == 6 || inner != 0
    if here then s.deliver i p (if p.hdr.kind = 3 then .cores (BitVec.ofNat 12 inner) else .deliver) a
    else s.freeArrival a p

/-- A packet with one destination (R523, R524): forward, deliver or discard. -/
def State.routeUni (s : State) (i : IoId) (bank : Bool) (a : Option LinkId) (p : Packet) : State :=
  let e := s.route i bank p.hdr.dst.toNat
  if !bitAt e 31 then (s.drop i dropEpoch).freeArrival a p
  else if bits e 30 29 = 1 then s.deliver i p .deliver a
  else if bits e 30 29 = 0 then
    let n := bits e 28 23 + (p.hdr.src.toNat % 256 ^^^ p.hdr.tag.toNat % 256) % (bits e 22 20 + 1)
    if 48 ≤ n then (s.drop i dropDown).freeArrival a p
    else
      let l : LinkId := Fin.ofNat 48 n
      if ioOf l = i then (s.linkJoin l a p).freeArrival a p
      else (s.toRing i (ioOf l) p (.link l) a).freeArrival a p
  else s.freeArrival a p

/-- Routing by the bank whose tag equals the packet's epoch (R528). -/
def State.routePacket (s : State) (i : IoId) (a : Option LinkId) (p : Packet) : State :=
  match s.bankOf i p.hdr.epoch.toNat with
  | none => (s.drop i dropEpoch).freeArrival a p
  | some b => (if p.hdr.mc then s.routeMcast i b a p else s.routeUni i b a p).opLeft p.hdr

/-- What the ingress router writes into the header (R522, R543): src, epoch and the context's generation. -/
def State.stampHeader (s : State) (i : IoId) (h : Header) : Header :=
  { h with src := s.self, epoch := BitVec.ofNat 8 (s.epoch i), gen := (s.ctx h.context).gen }

/-- A packet that arrived on a link (R519, R533, R536, R729). -/
def State.arrive (s : State) (l : LinkId) (p : Packet) (tagOk : Bool) : State :=
  let k := s.link l
  let i := ioOf l
  if k.state ≠ lkActive then s
  else
    let low := k.crypt && decide (p.hdr.pseq.toNat < k.rxPseq.toNat)
    let s := s.setLink l { k with rxHdr := none, rxPseq := p.hdr.pseq, rekeyRx := if low then k.rekeyRx + 1 else k.rekeyRx }
    if k.crypt ∧ !tagOk then (s.drop i dropAuth).freeRx l p
    else if !k.allows p then ((s.drop i dropEnclave).routerFault i 0).freeRx l p
    else if !kindOk p then (s.drop i dropKind).freeRx l p
    else s.routePacket i (some l) p

/-- A packet on the package ring: it goes on to the die it is for, and never crosses the ring again (R525). -/
def State.ringTake (s : State) (i : IoId) : State :=
  match (s.router i).ringq with
  | [] => s
  | e :: rest =>
    let s := s.onRouter i fun r => { r with ringq := rest }
    if e.dest ≠ i then s.ringStep i e else
    (match e.via with
     | .link l => s.linkJoin l e.arrival e.pkt
     | .copy =>
       match s.bankOf i e.pkt.hdr.epoch.toNat with
       | some b => s.copies i (s.mgroup i b (e.pkt.hdr.dst.toNat % 4096)) e.arrival e.pkt
       | none => s.drop i dropEpoch
     | v => s.toDelivered i e.pkt v e.arrival).opLeft e.pkt.hdr

/-- The link rate in bytes per µs; a rate of ρ flits per µs is held as 256 ρ. -/
def linkRate : Nat := 200000

/-- The core of a PUT packet that enters the fabric here, whose rate limits it (R555). -/
def State.putCore (s : State) (p : Packet) : Option CoreId :=
  if p.hdr.kind.toNat = kPut then (s.findOp p.hdr.context p.hdr.tag fun o => opKind o == 1).map Prod.fst else none
def State.mayLeave (s : State) (p : Packet) : Bool :=
  match s.putCore p with
  | some c => (s.core c).rate != 0 && decide ((s.core c).putAt ≤ s.now)
  | none => true
/-- The next PUT packet of the core waits until this one's flits have passed at the core's rate. -/
def State.putLeft (s : State) (p : Packet) : State :=
  match s.putCore p with
  | some c => s.onCore c fun k => { k with putAt := s.now + (p.hdr.nflits.toNat + 1) * 2560000 / k.rate }
  | none => s

/-- PACKET_ROUTE (R522 to R528, R532, R533, R548, R555). -/
def execPacketRoute (i : IoId) (src : RouteSrc) (s : State) : Host.Outcome State Fault Refusal :=
  .next (
    match src with
    | .link l p tagOk => if ioOf l = i then s.arrive l p tagOk else s
    | .ring => s.ringTake i
    | .localq =>
      match (s.router i).localq.find? s.mayLeave with
      | none => s
      | some p =>
        ((s.onRouter i fun r => { r with localq := r.localq.erase p }).putLeft p).routePacket i none
          { p with hdr := s.stampHeader i p.hdr })

/-! ### Congestion (R555) -/

/-- An echo lowers the rate of its core, once per window (R555). -/
def State.echo (s : State) (c : CoreId) : State :=
  s.onCore c fun k =>
    if k.echoed then k else { k with echoed := true, rate := k.rate - k.rate / 2 ^ s.fld .fab 0x18 23 20 }

/-- CC_WINDOW_EXPIRE (R555): after a window, of FAB_CCCFG.window µs, without an echo the rate grows. -/
def execCcWindowExpire (c : CoreId) (s : State) : Host.Outcome State Fault Refusal :=
  .next (
    if s.now - (s.core c).winAt < 10000 * s.fld .fab 0x18 19 12 then s
    else
      s.onCore c fun k =>
        { k with winAt := s.now, echoed := false
                 rate := if k.echoed then k.rate else Nat.min (k.rate + 256 * s.fld .fab 0x18 31 24) linkRate })

end Sys2Proof.Machine
end

