-- ==== Sys2Proof/Machine/FabOps.lean ====
section
/-! DEFINITION. Fabric operations of a core and their reception, emits, reduction groups and their timeouts (R321, R519,
R532 to R554, R567, R606 to R609). -/

namespace Sys2Proof.Machine

/-! ### Descriptor fields (R537) -/

def fIo (o : DynOp) : IoId := Fin.ofNat 4 (bits o.desc.toNat 247 246)
def fDst (o : DynOp) : Nat := bits o.desc.toNat 245 230
def fTcore (o : DynOp) : Nat := bits o.desc.toNat 229 220
def fSaddr (o : DynOp) : Nat := bits o.desc.toNat 219 203
def fDaddr (o : DynOp) : Nat := bits o.desc.toNat 202 186
def fLen (o : DynOp) : Nat := bits o.desc.toNat 185 170 + 1
def fSem (o : DynOp) : Nat := bits o.desc.toNat 169 164
def fN (o : DynOp) : Nat := bits o.desc.toNat 163 160
def fGroup (o : DynOp) : Nat := bits o.desc.toNat 159 152
def fRound (o : DynOp) : BitVec 16 := BitVec.ofNat 16 (bits o.desc.toNat 151 136)

/-- FAB_TIMEOUT in µs, used as sat(us, 1, 1,000,000) (R567). -/
def State.fabTimeout (s : State) : Nat := Nat.max 1 (Nat.min (s.fld .fab 0x0C 19 0) 1000000)
/-- FAB_MFAULT bits: 0 op, 1 no_port, 2 length, 3 busy_write. -/
def State.fabFault (s : State) (bit : Nat) : State := s.orReg .fab 0x4C (2 ^ bit)
/-- A FAB_TIMEOUT event at a peer endpoint (R629, R634). -/
def State.timeoutEvent (s : State) (x : Ctx) (e : Nat) : State :=
  s.fault clsFabTimeout e false unitModule x e (.module (BitVec.ofNat 16 e))

def State.isEmit (s : State) (o : DynOp) : Bool := opKind o == 1 && fDst o == s.self.toNat && 65536 ≤ fDaddr o

/-- Whether the context of a core holds a die with a port of an I/O die (R538). -/
def State.hasPort (s : State) (c : CoreId) (i : IoId) : Bool :=
  (portsOf i).any fun p => s.holds (s.dieCtx (dieOf c)) (dieOf p)

/-- The oldest operation of XIQ, when it is the fabric operation that the command names; a reserved op completes poisoned
(R537), and so does one without a port (R538). -/
def State.fabRun (s : State) (c : CoreId) (mine : DynOp → Bool) (port : DynOp → Bool) (f : State → DynOp → State) : State :=
  match s.xiqHead c 4 with
  | none => s
  | some o =>
    if opKind o = 0 ∨ 4 < opKind o then ((s.opIssue c o).fabFault 0).opFinish c o.serial s.ac true
    else if !mine o then s
    else if !port o then ((s.opIssue c o).fabFault 1).opFinish c o.serial s.ac true
    else f (s.opIssue c o) o

/-- The operation as it stands after it left XIQ: its tag. -/
def State.tagNow (s : State) (c : CoreId) (serial : Nat) : BitVec 16 :=
  match (s.core c).ops.find? fun o => o.serial == serial with
  | some o => (s.core c).tagOf o
  | none => 0

/-! ### Lines and packets (R517 to R519) -/

/-- Four lines in each flit. -/
def lineFlits (ls : List Line) : List DFlit :=
  (List.range ((ls.length + 3) / 4)).map fun i =>
    BitVec.ofNat 2048 (packFields 512 (((ls.drop (4 * i)).take 4).map BitVec.toNat))
def flitLines (p : Packet) (n : Nat) : List Line :=
  (List.range n).map fun k => ((p.flits.getD (k / 4) 0).extractLsb' (512 * (k % 4)) 512)
/-- Lines in a packet: four in each flit, fc[1:0] + 1 in the last. -/
def packetLines (p : Packet) : Nat := 4 * p.hdr.nflits.toNat + p.hdr.fc.toNat % 4 + 1

/-- A header of a core's operation; its ingress router stamps it again (R522, R532). -/
def State.coreHeader (s : State) (c : CoreId) (kind vc : Nat) (n : Nat) (tag : BitVec 16) : Header :=
  let x := s.dieCtx (dieOf c)
  { vc := BitVec.ofNat 2 vc, dl := false, nflits := BitVec.ofNat 4 (n - 1), mark := false, start := 1
    enclave := s.dieEncl (dieOf c), hops := 0, epoch := 0, mc := false, dst := 0, src := s.self, kind := BitVec.ofNat 4 kind
    echo := false, poison := false, context := x, gen := (s.ctx x).gen, tcore := 0, taddr := 0, tag := tag, pseq := 0
    fa := 0, fb := 0, fc := 0 }

/-- One packet of lines: index `i` of `n`. -/
def State.linePacket (s : State) (c : CoreId) (o : DynOp) (tag : BitVec 16) (kind vc i n : Nat) (mc : Bool)
    (ls : List (Line × Bool)) : Packet :=
  let fl := lineFlits (ls.map Prod.fst)
  { hdr := { s.coreHeader c kind vc fl.length tag with
      mc := mc, dst := BitVec.ofNat 16 (if mc then fDst o % 4096 else fDst o), poison := o.poison || ls.any Prod.snd
      tcore := BitVec.ofNat 10 (if mc then fTcore o % 64 else fTcore o), taddr := BitVec.ofNat 17 (fDaddr o)
      fa := BitVec.ofNat 16 i, fb := BitVec.ofNat 16 (n - 1)
      fc := BitVec.ofNat 16 (fSem o * 1024 + fN o * 64 + (ls.length + 3) % 4) }
    flits := fl }

def State.inject (s : State) (i : IoId) (p : Packet) : State := s.onRouter i fun r => { r with localq := r.localq ++ [p] }

/-! ### From the core to its port (R538 to R540, R606) -/

/-- The operation as its packet names it. -/
def reqOp (serial : Nat) (desc : BitVec 256) (p : Bool) : DynOp := ⟨serial, 4, 0, desc, 0, p, .issued, 0, 0, false, 0, false⟩

/-- A core's operation leaves as a FREQ packet of the mesh, toward a port of its I/O die (R538). -/
def State.fabOut (s : State) (c : CoreId) (o : DynOp) (words : Bool) : State :=
  match s.portOut (s.dieCtx (dieOf c)) c (fIo o) with
  | some p =>
    s.onCore c fun k =>
      { k with fabSend := k.fabSend ++ [⟨o.serial, o.desc, s.tagNow c o.serial, o.poison || o.bad, p.val, 0,
                 if words then ceilDiv (fLen o) 4 else fLen o, fSaddr o, words⟩] }
  | none => s

/-- PUT (R538, R539). -/
def execPut (c : CoreId) (s : State) : Host.Outcome State Fault Refusal :=
  .next (s.fabRun c (fun o => opKind o == 1 && !s.isEmit o) (fun o => s.hasPort c (fIo o)) fun s o => s.fabOut c o false)

/-- MCAST (R538, R540). -/
def execMcast (c : CoreId) (s : State) : Host.Outcome State Fault Refusal :=
  .next (s.fabRun c (fun o => opKind o == 2) (fun o => s.hasPort c (fIo o)) fun s o => s.fabOut c o false)

/-- A line of the source enters the mesh behind the header of its operation. -/
def State.fabLine (s : State) (c : CoreId) (f : FabSend) (l : Line) (p : Bool) : State :=
  let s := if f.next = 0 then s.dynEnter c 2 0 f.dest true 0 false (.req c.val f.serial f.desc f.tag) f.poison else s
  let last := f.next + 1 == f.total
  (s.dynEnter c 2 0 f.dest true (f.next + 1) last (.line l) p).onCore c fun k =>
    { k with fabSend := if last then k.fabSend.erase f
                        else k.fabSend.map fun g => if g == f then { g with next := g.next + 1 } else g }

/-- Four partial-sum words as a line, the first in the low bits; a word beyond the memory is open. -/
def State.wordLine (s : State) (c : CoreId) (w n : Nat) : State × Line × Bool :=
  let (s, ws) := (List.range n).foldl (fun (r : State × List (W128 × Bool)) k =>
    if w + k < 131072 then
      let (s, v, p) := r.1.psmReadOld c (w + k)
      (s, r.2 ++ [(v, p)])
    else (r.1.draw 1, r.2 ++ [(BitVec.ofNat 128 (Config.freeNat r.1.free), false)])) (s, [])
  (s, ofWords (ws.map Prod.fst), ws.any Prod.snd)

/-- The oldest operation that is being sent reads its next line, in an ac in which its lanes are free, or its next words, in one
in which no MRED uses the port (R276, R538); a line beyond the activation memory is open. -/
def State.fabRead (s : State) (c : CoreId) : State :=
  match (s.core c).fabSend with
  | [] => s
  | f :: _ =>
    if 15 ≤ ((s.core c).dyn.filter fun g => g.cls == 2 && g.inp == outLocal).length then s
    else if f.words then
      if s.mredBusy c then s
      else
        let (s, l, p) := s.wordLine c (f.addr + 4 * f.next) (Nat.min 4 (fLen (reqOp f.serial f.desc false) - 4 * f.next))
        s.fabLine c f l p
    else if f.addr + f.next < 65536 then
      let a := 64 * (f.addr + f.next)
      match s.claimDyn c s.ac (laneMask a 64) 0 with
      | (s, false) => s
      | (s, true) =>
        let (s, b, p) := s.amRead c a 64
        s.fabLine c f (bytesLine b) p
    else (s.draw 1).fabLine c f (BitVec.ofNat 512 (Config.freeNat s.free)) false

/-! ### STREAM (R321, R541) -/

/-- A binding's packet leaves the port: its next 64 lines, or its last. -/
def State.bindSend (s : State) (c : CoreId) (b : Binding) : State :=
  match (s.core c).ops.find? fun o => o.serial == b.serial with
  | some o =>
    s.inject (fIo o) (s.linePacket c o b.tag kStream 0 (b.sent / 64) ((b.total + 63) / 64) false b.taken)
  | none => s

/-- One waiting flit of a port joins the oldest binding. -/
def State.bindFlit (s : State) (c : CoreId) : State :=
  let k := s.core c
  match k.binds, k.egress with
  | b :: bs, f :: fs =>
    let b := { b with taken := b.taken ++ [(f.payload, f.poison)] }
    let done := b.sent + b.taken.length = b.total
    if done ∨ b.taken.length = 64 then
      let b' := { b with sent := b.sent + b.taken.length, taken := [] }
      (s.bindSend c b).onCore c fun k => { k with egress := fs, binds := if done then bs else b' :: bs }
    else s.onCore c fun k => { k with egress := fs, binds := b :: bs }
  | _, _ => s
def State.bindPump (s : State) (c : CoreId) : State :=
  (List.range (s.core c).egress.length).foldl (fun s _ => s.bindFlit c) s

/-- STREAM (R538, R541): the issuing core is the port; a fifth binding waits. -/
def execStream (c : CoreId) (s : State) : Host.Outcome State Fault Refusal :=
  .next (
    if 4 ≤ (s.core c).binds.length then s
    else
      s.fabRun c (fun o => opKind o == 3) (fun o => (portsOf (fIo o)).contains c) fun s o =>
        (s.onCore c fun k =>
          { k with binds := k.binds ++ [⟨o.serial, s.tagNow c o.serial, BitVec.ofNat 16 (fDst o), BitVec.ofNat 10 (fTcore o),
                                         BitVec.ofNat 17 (fDaddr o), fSem o, fN o, fLen o, [], 0⟩] }).bindPump c)

/-- The next scheduled flit of a port core, which its I/O die accepts in its arrival ac. -/
def State.edgeTake (s : State) (c : CoreId) (parityError : Bool) : State :=
  match (s.core c).edge with
  | [] => s
  | (due, f) :: rest =>
    if s.ac < due then s
    else
      let s := s.onCore c fun k => { k with edge := rest }
      if 1024 ≤ (s.core c).egress.length then
        match (List.finRange 4).find? fun i => (portsOf i).contains c with
        | some i => ((s.drop i dropEgress).routerFault i 2).flagStep (s.dieCtx (dieOf c))
        | none => s
      else
        (s.onCore c fun k => { k with egress := k.egress ++ [{ f with poison := f.poison || parityError }] }).bindPump c

/-- EGRESS_FLIT_ARRIVE (R290, R321, R541): the next scheduled flit of a port core reaches its I/O die. -/
def execEgressFlitArrive (c : CoreId) (parityError : Bool) (s : State) : Host.Outcome State Fault Refusal :=
  .next (s.edgeTake c parityError)

/-- The flits that have arrived at the end of an ac (R321). -/
def State.edgeEnd (s : State) (c : CoreId) : State :=
  ((s.core c).edge.filter fun e => e.1 ≤ s.ac).foldl (fun s _ => s.edgeTake c false) s

/-! ### Emits (R606 to R609) -/

def frameLen (f : Frame) : Nat := f.data.length
/-- The egress quota of an enclave in bytes (R608, R628); values above 64 act as 64. -/
def State.quota (s : State) (e : Encl) : Nat := Nat.min (Store.get 64 s.mod.quotas e.toNat) 64 * 2 ^ 20

/-- The lines of a result frame have crossed to IO-N: the frame enters the egress buffer, or does not (R608). -/
def State.emitFrame (s : State) (c : CoreId) (o : DynOp) (ls : List (Line × Bool)) : State :=
  let d := dieOf c
  let x := s.dieCtx d
  let e := s.dieEncl d
  let v := fnOf e
  let ring := bits (fDaddr o) 15 13
  let seq : Word64 := BitVec.ofNat 64 ((s.ctx x).step.toNat * 2 ^ 32 + bits (fDaddr o) 12 0)
  let p := o.poison || ls.any Prod.snd
  let mine := s.mod.frames.filter fun f => f.vf == v
  let total := (s.mod.frames.map frameLen).foldl (· + ·) 0
  let own := (mine.map frameLen).foldl (· + ·) 0
  let n := 64 * fLen o
  if s.mod.frames.any fun f => f.context == x && f.seq == seq && !f.released then
    ((s.onMod fun m => { m with frames := m.frames.map fun f =>
        if f.context = x ∧ f.seq = seq ∧ !f.released then { f with poison := true } else f }).hostFault v 2).opFinish c
      o.serial s.ac true
  else if 64 * 2 ^ 20 < total + n ∨ s.quota e < own + n then (s.hostFault v 3).opFinish c o.serial s.ac true
  else
    (s.onMod fun m =>
      { m with frames := m.frames ++ [⟨v, ring, x, seq, ls.flatMap fun l => lineBytes l.1, p, false, false⟩] }).opFinish c
      o.serial s.ac p

/-- EMIT (R606 to R608). -/
def execEmit (c : CoreId) (s : State) : Host.Outcome State Fault Refusal :=
  .next (s.fabRun c s.isEmit (fun o => s.hasPort c (fIo o)) fun s o => s.fabOut c o false)

/-! ### Reception (R28, R534, R539 to R546, R554) -/

/-- The oldest delivered packet of a kind at an I/O die. -/
def State.nextDelivered (s : State) (i : IoId) (kind : Nat) : Option RingPkt :=
  (s.router i).delivered.find? fun e => e.pkt.hdr.kind.toNat == kind
/-- The packet leaves its buffers. -/
def State.takeDelivered (s : State) (i : IoId) (e : RingPkt) : State :=
  (s.onRouter i fun r => { r with delivered := r.delivered.erase e }).freeArrival e.arrival e.pkt

/-- A core on a die that the packet's context holds in the packet's enclave (R534). -/
def State.mayReach (s : State) (h : Header) (tcore : Nat) : Option CoreId :=
  if tcore < 768 then
    let c : CoreId := Fin.ofNat 768 tcore
    if s.holds h.context (dieOf c) && s.dieEncl (dieOf c) == h.enclave then some c else none
  else none
def State.genOk (s : State) (h : Header) : Bool := h.gen == (s.ctx h.context).gen

/-- The ACK of a PUT packet (R519, R554); it repeats the target core, by which the source knows its operation. -/
def State.sendAck (s : State) (i : IoId) (h : Header) (status received : Nat) (echo : Bool) : State :=
  s.inject i
    { hdr := { h with vc := 2, dl := false, nflits := 0, mark := false, start := 1, hops := 0, epoch := 0, mc := false
                      dst := h.src, src := s.self, kind := 2, echo := echo, poison := false, pseq := 0, taddr := 0
                      fa := BitVec.ofNat 16 status, fb := BitVec.ofNat 16 received, fc := 0 }
      flits := [0] }

def State.inboundOf (s : State) (i : IoId) (h : Header) : Option Inbound :=
  (s.router i).inbound.find? fun n => n.src == h.src && n.tag == h.tag
/-- No tracking entry is free for a packet of a new operation (R545). -/
def State.inboundFull (s : State) (i : IoId) (h : Header) : Bool :=
  (s.inboundOf i h).isNone && decide (8192 ≤ (s.router i).inbound.length)

/-- Whether a packet of the operation was marked (R554). -/
def State.putMarked (s : State) (i : IoId) (h : Header) : Bool :=
  h.mark || (match s.inboundOf i h with | some n => n.marked | none => false)

/-- A packet of an operation for some cores joins its operation's entry (R545). -/
def State.track (s : State) (i : IoId) (h : Header) (cs : List CoreId) : State :=
  let n := (s.inboundOf i h).getD ⟨h.src, h.tag, cs.map fun c => c.val, [], false, false, 0⟩
  s.onRouter i fun r =>
    { r with inbound := (r.inbound.filter fun m => !(m.src == h.src && m.tag == h.tag)) ++
               [{ n with marked := n.marked || h.mark, poison := n.poison || h.poison, lastAt := s.now }] }
def State.setInbound (s : State) (i : IoId) (n : Inbound) : State :=
  s.onRouter i fun r => { r with inbound := r.inbound.map fun m => if m.src = n.src ∧ m.tag = n.tag then n else m }
def State.untrack (s : State) (i : IoId) (h : Header) : State :=
  s.onRouter i fun r => { r with inbound := r.inbound.filter fun m => !(m.src == h.src && m.tag == h.tag) }

/-- A packet enters the mesh toward a core, as a FREQ packet through the port of R547. -/
def State.toCore (s : State) (i : IoId) (c : CoreId) (x : Ctx) (serial : Nat) (h : Header) (ls : List Line) : State :=
  match s.portNear x c (List.finRange 4) with
  | some (_, p) => s.portEnter p 2 0 c.val (.write i.val serial h) h.poison (ls.map fun l => (l, h.poison))
  | none => s
def State.linesTo (s : State) (i : IoId) (c : CoreId) (p : Packet) : State :=
  s.toCore i c p.hdr.context 0 p.hdr (flitLines p (packetLines p))

/-- The semaphore addition of a complete operation: fc[9:6] to fc[15:10]. -/
def State.arrivalSignal (s : State) (c : CoreId) (h : Header) : State :=
  if bits h.fc.toNat 9 6 = 0 then s else s.semSignal c (bits h.fc.toNat 15 10) (bits h.fc.toNat 9 6)

/-- PUT_RECEIVE (R28, R534, R539, R543, R545, R547, R554): an accepted packet goes on to its core. -/
def execPutReceive (i : IoId) (s : State) : Host.Outcome State Fault Refusal :=
  .next (
    match s.nextDelivered i kPut with
    | none => s
    | some e =>
      let p := e.pkt
      match s.mayReach p.hdr p.hdr.tcore.toNat with
      | none => ((s.takeDelivered i e).drop i dropRefused).sendAck i p.hdr 1 0 (s.putMarked i p.hdr)
      | some c =>
        if !s.genOk p.hdr then ((s.takeDelivered i e).drop i dropStale).sendAck i p.hdr 3 0 (s.putMarked i p.hdr)
        else if s.inboundFull i p.hdr then s
        else ((s.takeDelivered i e).track i p.hdr [c]).linesTo i c p)

/-- One-way data for some cores goes on to each (R540, R541, R547). -/
def State.oneWay (s : State) (i : IoId) (e : RingPkt) (cs : List CoreId) : State :=
  let p := e.pkt
  if cs.isEmpty then (s.takeDelivered i e).drop i dropRefused
  else if !s.genOk p.hdr then (s.takeDelivered i e).drop i dropStale
  else if s.inboundFull i p.hdr then s
  else cs.foldl (fun s c => s.linesTo i c p) ((s.takeDelivered i e).track i p.hdr cs)

/-- A packet is written at its core.  With the last packet of its operation the core's semaphore counts; with the last at every
core the entry is freed, and a PUT is answered (R539 to R541, R546, R554). -/
def State.dataWritten (s : State) (c : CoreId) (i : IoId) (h : Header) (poison : Bool) : State :=
  match s.inboundOf i h with
  | none => s
  | some n =>
    let key := 1024 * h.fa.toNat + c.val
    let n := { n with got := if n.got.contains key then n.got else n.got ++ [key], poison := n.poison || poison }
    let all := h.fb.toNat + 1
    let s := if (n.got.filter fun k => k % 1024 = c.val).length = all then (s.setInbound i n).arrivalSignal c h else s.setInbound i n
    if n.got.length = all * n.cores.length then
      let s := s.untrack i h
      if h.kind = 1 then s.sendAck i h (if n.poison then 2 else 0) all n.marked else s
    else s

/-- MCAST_RECEIVE (R540): core 64 × d + tcore[5:0] of every die d of the internal mask; a die that the packet may not
reach counts one refused delivery. -/
def execMcastReceive (i : IoId) (s : State) : Host.Outcome State Fault Refusal :=
  .next (
    match s.nextDelivered i kMcast with
    | none => s
    | some e =>
      let mask : BitVec 12 := match e.via with | .cores m => m | _ => 0
      let ds := (List.finRange 12).filter fun d => mask.getLsbD d.val
      let tgt := ds.map fun d => s.mayReach e.pkt.hdr (64 * d.val + e.pkt.hdr.tcore.toNat % 64)
      let cs := tgt.filterMap id
      let s := if cs.isEmpty then s else (tgt.filter Option.isNone).foldl (fun s _ => s.drop i dropRefused) s
      s.oneWay i e cs)

/-- STREAM_RECEIVE (R541). -/
def execStreamReceive (i : IoId) (s : State) : Host.Outcome State Fault Refusal :=
  .next (
    match s.nextDelivered i kStream with
    | none => s
    | some e => s.oneWay i e (s.mayReach e.pkt.hdr e.pkt.hdr.tcore.toNat).toList)

/-- ACK_RECEIVE (R539, R542, R543, R547, R555): an ACK goes on to its core as an FRSP packet, and the timer of its operation stops;
one whose tag names no waiting PUT is late. -/
def execAckReceive (i : IoId) (s : State) : Host.Outcome State Fault Refusal :=
  .next (
    match s.nextDelivered i kAck with
    | none => s
    | some e =>
      let h := e.pkt.hdr
      let s := s.takeDelivered i e
      if !s.genOk h then s.drop i dropStale
      else
        match s.findOp h.context h.tag fun o =>
            opKind o == 1 && fDst o == h.src.toNat && fTcore o == h.tcore.toNat && !s.isEmit o with
        | none => s.drop i dropLate
        | some (c, o) =>
          let s := (if h.echo then s.echo c else s).onCore c fun k =>
            { k with ops := k.ops.map fun q => if q.serial = o.serial then { q with stage := .answered } else q }
          match s.portNear h.context c (List.finRange 4) with
          | some (_, p) => s.portEnter p 0 0 c.val (.done o.serial (h.fa != 0)) false []
          | none => s)

/-- INBOUND_ENTRY_TIMEOUT (R545, R584): entries and transfers that have received no packet for FAB_TIMEOUT. -/
def execInboundEntryTimeout (i : IoId) (s : State) : Host.Outcome State Fault Refusal :=
  .next (
    let t := s.fabTimeout
    let old (u : Nat) : Bool := decide (t ≤ s.sinceUs u)
    let gone := ((s.router i).inbound.filter fun n => old n.lastAt).map fun n => n.src.toNat
    let gone := gone ++ ((s.router i).transfers.filter fun n => old n.lastAt).map fun n => n.src.toNat
    let s := s.onRouter i fun r =>
      { r with inbound := r.inbound.filter fun n => !old n.lastAt
               transfers := r.transfers.filter fun n => !old n.lastAt }
    gone.foldl (fun s e => s.timeoutEvent noCtx e) s)

/-! ### Reduction groups (R550 to R552, R699) -/

def rgValid (g : Group) : Bool := bitAt g.cfg0.toNat 31
def rgOp (g : Group) : Nat := bits g.cfg0.toNat 30 29
def rgHome (g : Group) : IoId := Fin.ofNat 4 (bits g.cfg0.toNat 28 27)
def rgParent (g : Group) : Nat := bits g.cfg0.toNat 26 21
def rgLocal (g : Group) : Nat := bits g.cfg0.toNat 20 11
def rgWords (g : Group) : Nat := if rgOp g = 0 then bits g.cfg0.toNat 10 0 + 1 else 1
def rgContext (g : Group) : Ctx := BitVec.ofNat 8 (bits g.cfg1.toNat 31 24)
def rgResult (g : Group) : Nat := bits g.cfg1.toNat 23 12
def rgChildren (g : Group) : List Nat := (List.range 48).filter fun l => g.child.getLsbD l

/-- The combination of two words: wrap128 sums, the lesser or the greater of unsigned 384-bit words (R74, R550). -/
def rgCombine (op : Nat) (first : Bool) (a b : BitVec 384) : BitVec 384 :=
  if first then b
  else if op = 0 then BitVec.ofNat 384 ((a.toNat + b.toNat) % 2 ^ 128)
  else if op = 1 then (if a.toNat ≤ b.toNat then a else b)
  else (if a.toNat ≤ b.toNat then b else a)

/-- One contribution of consecutive words from `off` to a round; a second one from a link to a word is ignored. -/
def Round.add (r : Round) (op : Nat) (link : Option Nat) (off : Nat) (ws : List (BitVec 384 × Bool)) : Round :=
  let seen (w : Nat) : Bool := match link with | some l => r.fromLinks.contains (l, w) | none => false
  let r := (ws.zipIdx).foldl (fun (r : Round) e =>
    let w := off + e.2
    if seen w then r
    else
      let first := r.locals == 0 && !(r.fromLinks.any fun f => f.2 == w)
      { r with words := Store.set 0 r.words w (rgCombine op first (Store.get 0 r.words w) e.1.1)
               bad := if e.1.2 then r.bad ++ [w] else r.bad
               fromLinks := match link with | some l => r.fromLinks ++ [(l, w)] | none => r.fromLinks }) r
  match link with | some _ => r | none => { r with locals := r.locals + 1 }

/-- Every word has its contribution from each child link and from every local contributor. -/
def roundDone (g : Group) (r : Round) : Bool :=
  decide (rgLocal g ≤ r.locals) && (rgChildren g).all fun l => (List.range (rgWords g)).all fun w => r.fromLinks.contains (l, w)

/-- The header of a packet that the home forms (R532, R699): the Chime enclave for MIN384 and MAX384 groups. -/
def State.redHeader (s : State) (n : Nat) (g : Group) (kind nflits : Nat) (r : BitVec 16) : Header :=
  let x := rgContext g
  let e : Nat := if rgOp g = 0 then (match s.diesOf x with | d :: _ => (s.dieEncl d).toNat | [] => 0) else s.fld .sec 0xC0 5 0
  { vc := 0, dl := false, nflits := BitVec.ofNat 4 (nflits - 1), mark := false, start := 1, enclave := BitVec.ofNat 6 e
    hops := 0, epoch := 0, mc := false, dst := 0, src := s.self, kind := BitVec.ofNat 4 kind, echo := false, poison := false
    context := x, gen := (s.ctx x).gen, tcore := 0, taddr := 0, tag := r, pseq := 0, fa := 0, fb := r
    fc := BitVec.ofNat 16 n }

/-- Words in a flit: 16 of 128 bits, or 5 of 384 bits (R519). -/
def redPerFlit (op : Nat) : Nat := if op = 0 then 16 else 5
def redWidth (op : Nat) : Nat := if op = 0 then 128 else 384

/-- The packets of a complete round. -/
def State.redPackets (s : State) (n : Nat) (g : Group) (kind : Nat) (r : Round) : List Packet :=
  let per := redPerFlit (rgOp g)
  let total := rgWords g
  (List.range ((total + 16 * per - 1) / (16 * per))).map fun i =>
    let off := 16 * per * i
    let m := Nat.min (16 * per) (total - off)
    let ws := (List.range m).map fun k => (Store.get 0 r.words (off + k)).toNat
    let fl : List DFlit := (List.range ((m + per - 1) / per)).map fun k =>
      BitVec.ofNat 2048 (packFields (redWidth (rgOp g)) ((ws.drop (per * k)).take per))
    { hdr := { s.redHeader n g kind fl.length r.round with
                 fa := BitVec.ofNat 16 off, poison := (List.range m).any fun k => r.bad.contains (off + k) }
      flits := fl }

/-- The words that a RED packet carries. -/
def redWords (g : Group) (p : Packet) : List (BitVec 384) :=
  let per := redPerFlit (rgOp g)
  let m := Nat.min (16 * per) (rgWords g - p.hdr.fa.toNat)
  (List.range m).map fun k =>
    BitVec.ofNat 384 (((p.flits.getD (k / per) 0).extractLsb' (redWidth (rgOp g) * (k % per)) (redWidth (rgOp g))).toNat)

/-- A complete round goes up to the parent, or from the root to the result group (R551). -/
def State.sendRound (s : State) (n : Nat) (g : Group) (r : Round) : State :=
  let home := rgHome g
  if rgParent g < 48 then
    let l : LinkId := Fin.ofNat 48 (rgParent g)
    (s.redPackets n g 5 r).foldl (fun s p =>
      let p : Packet := { p with hdr := { s.stampHeader home p.hdr with dst := (s.link l).peerEp } }
      if ioOf l = home then s.linkJoin l none p else s.toRing home (ioOf l) p (.link l) none) s
  else
    (s.redPackets n g 6 r).foldl (fun s p =>
      s.inject home { p with hdr := { p.hdr with mc := true, dst := BitVec.ofNat 16 (rgResult g) } }) s

/-- A contribution to a round of a group at its home; a fifth round in flight is discarded (R551, R552). -/
def State.contributeRound (s : State) (n : Nat) (round : BitVec 16) (link : Option Nat) (off : Nat)
    (ws : List (BitVec 384 × Bool)) : State :=
  let g := s.group n
  let old := g.rounds.find? fun r => r.round == round
  if old.isNone ∧ 4 ≤ g.rounds.length then s.routerFault (rgHome g) 1
  else
    let r := (old.getD ⟨round, [], [], [], 0, s.now⟩).add (rgOp g) link off ws
    let rest := g.rounds.filter fun r => r.round != round
    if roundDone g r then (s.setGroup n { g with rounds := rest }).sendRound n g r
    else s.setGroup n { g with rounds := rest ++ [r] }

/-- REDUCE (R538, R551): the word count must equal the group's; a group that is not in use, that is not a SUM128 group or
that belongs to another context takes no contribution of the core. -/
def execReduce (c : CoreId) (s : State) : Host.Outcome State Fault Refusal :=
  .next (s.fabRun c (fun o => opKind o == 4) (fun o => s.hasPort c (fIo o)) fun s o =>
    let n := fGroup o
    let g := s.group n
    if !rgValid g || rgOp g != 0 || rgContext g != s.dieCtx (dieOf c) then s.opFinish c o.serial s.ac true
    else if fLen o ≠ rgWords g then (s.fabFault 2).opFinish c o.serial s.ac true
    else (s.setGroup n { g with waiters := g.waiters ++ [⟨c.val, o.serial, fRound o, 0, false⟩] }).fabOut c o true)

/-- The words of the lines of a REDUCE. -/
def reduceWords (n : Nat) (poison : Bool) (ls : List (Line × Bool)) : List (BitVec 384 × Bool) :=
  ((ls.flatMap fun l => (List.range 4).map fun q =>
    (BitVec.ofNat 384 (l.1.extractLsb' (128 * q) 128).toNat, l.2 || poison))).take n

/-! ### At the port (R321, R538 to R540, R551, R606) -/

/-- A packet of a core's operation has reached its I/O die as far as `ls`; `last` says that it ends, and one that ends short goes
no further.  A Deusk packet of a PUT or an MCAST leaves with every 64 lines and with the last; an emit and a REDUCE wait for the
whole of their lines. -/
def State.reqLines (s : State) (c : CoreId) (o : DynOp) (tag : BitVec 16) (ls : List (Line × Bool)) (last : Bool) : State :=
  if last && ls.length != (if opKind o = 4 then ceilDiv (fLen o) 4 else fLen o) then s
  else if s.isEmit o then (if last then s.emitFrame c o ls else s)
  else if opKind o = 4 then
    (if last then s.contributeRound (fGroup o) (fRound o) none 0 (reduceWords (fLen o) o.poison ls) else s)
  else if last ∨ ls.length % 64 = 0 then
    let i := (ls.length - 1) / 64
    let mc := opKind o == 2
    s.inject (fIo o) (s.linePacket c o tag (if mc then kMcast else kPut) 1 i ((fLen o + 63) / 64) mc (ls.drop (64 * i)))
  else s

/-- A flit of a core's packet reaches the I/O die of a port. -/
def State.portTake (s : State) (port : CoreId) (f : DynFlit) : State :=
  match f.body with
  | .req .. => s.onCore port fun k => { k with portAsm := some ⟨f, []⟩ }
  | .line l =>
    match (s.core port).portAsm with
    | some a =>
      let ls := a.lines ++ [(l, f.poison)]
      let s := s.onCore port fun k => { k with portAsm := if f.last then none else some { a with lines := ls } }
      match a.head.body with
      | .req c n d tag => s.reqLines (Fin.ofNat 768 c) (reqOp n d a.head.poison) tag ls f.last
      | _ => s
    | none => s
  | _ => s

/-- The flits that the port link has brought by the end of an ac (R321). -/
def State.portEnd (s : State) (c : CoreId) : State :=
  let fs := (s.core c).portOut.filter fun f => f.due ≤ s.ac
  if fs.isEmpty then s
  else fs.foldl (fun s f => s.portTake c f) (s.onCore c fun k => { k with portOut := k.portOut.filter fun f => s.ac < f.due })

/-- RED_UP (R543, R546, R551): a child's words reach the home. -/
def execRedUp (i : IoId) (s : State) : Host.Outcome State Fault Refusal :=
  .next (
    match s.nextDelivered i kRedUp with
    | none => s
    | some e =>
      let p := e.pkt
      let n := p.hdr.fc.toNat % 256
      let g := s.group n
      let s := s.takeDelivered i e
      match e.arrival with
      | some l =>
        if !rgValid g || !g.child.getLsbD l.val then s.drop i dropRefused
        else if !s.genOk p.hdr then s.drop i dropStale
        else s.contributeRound n p.hdr.fb (some l.val) p.hdr.fa.toNat ((redWords g p).map fun w => (w, p.hdr.poison))
      | none => s.drop i dropRefused)

/-- A result word reaches a core (R547): where a drain write meets it, it is written poisoned. -/
def State.resultWord (s : State) (c : CoreId) (w : Nat) (v : BitVec 384) (p : Bool) : State :=
  if w < 131072 then
    let (s, clash) := s.psmMeet c w .fabric
    s.psmWrite c w (BitVec.ofNat 128 v.toNat) (p || clash)
  else s

/-- Words in lines, four in each. -/
def wordLines (ws : List (BitVec 384)) : List Line :=
  (List.range (ceilDiv ws.length 4)).map fun k =>
    BitVec.ofNat 512 (packFields 128 (((ws.drop (4 * k)).take 4).map fun w => w.toNat % 2 ^ 128))

/-- The words of a result packet go on to a waiting contributor, their number in the tcore field of the header. -/
def State.resultTo (s : State) (i : IoId) (g : Group) (p : Packet) (w : Waiter) : State :=
  let ws := redWords g p
  match s.mayReach p.hdr w.core with
  | none => s.drop i dropRefused
  | some c => s.toCore i c p.hdr.context w.serial { p.hdr with tcore := BitVec.ofNat 10 ws.length } (wordLines ws)

/-- A line of a result is written; its words are those that lie in the memory (R547, R551). -/
def State.resultLine (s : State) (c : CoreId) (serial : Nat) (h : Header) (k : Nat) (l : Line) (p : Bool) : State :=
  match (s.core c).ops.find? fun o => o.serial == serial && o.stage == .issued with
  | none => s
  | some o =>
    (List.range (Nat.min 4 (h.tcore.toNat - 4 * k))).foldl (fun s q =>
      s.resultWord c (fDaddr o + h.fa.toNat + 4 * k + q) (BitVec.ofNat 384 (l.extractLsb' (128 * q) 128).toNat) p) s

/-- A result packet is written: the operation completes with the last of its words. -/
def State.resultWritten (s : State) (c : CoreId) (serial : Nat) (h : Header) (p : Bool) : State :=
  let n := h.fc.toNat % 256
  let g := s.group n
  match g.waiters.find? fun w => w.core == c.val && w.serial == serial with
  | none => s
  | some w =>
    let v := { w with got := w.got + h.tcore.toNat, poison := w.poison || p }
    if rgWords g ≤ v.got then (s.setGroup n { g with waiters := g.waiters.erase w }).opFinish c serial s.ac v.poison
    else s.setGroup n { g with waiters := g.waiters.map fun u => if u == w then v else u }

/-! ### At the core (R547, R603) -/

/-- The data of the oldest packet at a core are all written. -/
def State.fabDone (s : State) (c : CoreId) (a : Asm) : State :=
  let p := a.head.poison || a.lines.any Prod.snd
  let s := s.onCore c fun k => { k with fabIn := k.fabIn.drop 1, fabNext := 0 }
  match a.head.body with
  | .write i serial h => if h.kind = 6 then s.resultWritten c serial h p else s.dataWritten c (Fin.ofNat 4 i) h p
  | .input _ sem n => if n = 0 then s else s.semSignal c sem n
  | _ => s

/-- The next line of the oldest packet at a core is written, in an ac in which its lanes are free, or its words, in one in which
no MRED uses the port; lines beyond the activation memory do not exist. -/
def State.fabStore (s : State) (c : CoreId) : State :=
  match (s.core c).fabIn with
  | [] => s
  | a :: _ =>
    let k := (s.core c).fabNext
    let x := (a.lines[k]?).getD (0, false)
    let p := x.2 || a.head.poison
    let next (s : State) : State :=
      if a.lines.length ≤ k + 1 then s.fabDone c a else s.onCore c fun q => { q with fabNext := k + 1 }
    match a.lineAt k, a.head.body with
    | some l, _ =>
      if 65536 ≤ l ∨ a.lines.isEmpty then next s
      else
        match s.claimDyn c s.ac (laneMask (64 * l) 64) 0 with
        | (s, false) => s
        | (s, true) => next (s.amWrite c (64 * l) (lineBytes x.1) p)
    | none, .write _ serial h => if s.mredBusy c then s else next (s.resultLine c serial h k x.1 p)
    | none, _ => next s

/-! ### Lumef's contributions (R552, R567) -/

/-- FAB_MRDATA0 to FAB_MRDATA11 as one word. -/
def State.mrData (s : State) : BitVec 384 :=
  BitVec.ofNat 384 ((List.range 12).foldl (fun v k => v + s.reg .fab (0x80 + 4 * k) * 2 ^ (32 * k)) 0)

/-- A 1 written to FAB_MRCTL.go (R20, R552). -/
def State.mrGo (s : State) (n : Nat) (round : BitVec 16) : State :=
  if s.fld .fab 0x44 31 31 = 1 then s.fabFault 3
  else
    let s := (s.setReg .fab 0x44 (2 ^ 31 + n * 65536 + round.toNat)).onMod fun m => { m with mrStarted := s.now }
    let g := s.group n
    if rgValid g && rgOp g != 0 then s.contributeRound n round none 0 [(s.mrData, false)] else s

/-! ### Chime (R668, R698 to R700) -/

/-- The Chime group of an operation: the lowest valid MIN384 (1) or MAX384 (2) group. -/
def State.chimeGroup (s : State) (op : Nat) : Option Nat :=
  (List.range 256).find? fun n => rgValid (s.group n) && rgOp (s.group n) == op

/-- A contribution of the digest that FAB_MRDATA holds to a Chime group; none while there is no such group. -/
def State.chimeGo (s : State) (op : Nat) (round : BitVec 16) (phase : Nat) : State :=
  match s.chimeGroup op with
  | some n => (s.onMod fun m => { m with chimePhase := phase }).mrGo n round
  | none => s.onMod fun m => { m with chimePhase := 0 }

/-- A consistent round readmits a fenced module that a census has placed in the quorum component, and the modules heard with
an equal digest (R668, R700). -/
def State.chimeAgree (s : State) : State :=
  s.onMod fun m =>
    { m with
      chimeOk := true, fenced := m.fenced && !m.quorumNow
      excluded := m.excluded.filter fun e => (Store.get ((0, 0) : Nat × Nat) m.heard e.toNat).1 = 0 }

/-- The result of a round of which Lumef waits for the MIN384 word (phase 1) or the MAX384 word (phase 2).  A poisoned word
says nothing of the digests. -/
def State.chimeResult (s : State) (v : Digest) (poison : Bool) (round : BitVec 16) : State :=
  if s.mod.chimePhase = 1 then
    if poison then s.onMod fun m => { m with chimePhase := 0 }
    else (s.onMod fun m => { m with chimeMin := v }).chimeGo 2 round 2
  else if s.mod.chimePhase = 2 then
    let s := s.onMod fun m => { m with chimePhase := 0 }
    if poison then s else if s.mod.chimeMin = v then s.chimeAgree else s.ownCensus
  else s

/-- The result of a MIN384 or MAX384 round that Lumef waits for (R567). -/
def State.mrResult (s : State) (n : Nat) (g : Group) (p : Packet) : State :=
  if s.fld .fab 0x44 31 31 = 1 ∧ s.fld .fab 0x44 23 16 = n ∧ s.fld .fab 0x44 15 0 = p.hdr.fb.toNat then
    let v := ((redWords g p).headD 0).toNat
    let s := (List.range 12).foldl (fun s k => s.setReg .fab (0xC0 + 4 * k) (v / 2 ^ (32 * k) % 2 ^ 32)) s
    ((s.orReg .fab 0x48 (1 + if p.hdr.poison then 2 else 0)).setFld .fab 0x44 31 31 0).chimeResult (BitVec.ofNat 384 v)
      p.hdr.poison p.hdr.fb
  else s

/-- RED_DOWN (R543, R547, R551, R567): the result goes on to each waiting contributor. -/
def execRedDown (i : IoId) (s : State) : Host.Outcome State Fault Refusal :=
  .next (
    match s.nextDelivered i kRedDown with
    | none => s
    | some e =>
      let p := e.pkt
      let n := p.hdr.fc.toNat % 256
      let g := s.group n
      let s := s.takeDelivered i e
      if !rgValid g then s.drop i dropRefused
      else if !s.genOk p.hdr then s.drop i dropStale
      else if rgOp g ≠ 0 then s.mrResult n g p
      else
        (g.waiters.filter fun w => w.round == p.hdr.fb).foldl (fun s w => s.resultTo i g p w) s)

/-- ROUND_TIMEOUT (R552): rounds that have stayed incomplete for FAB_TIMEOUT are freed; the event is counted at the peers
whose words are missing. -/
def execRoundTimeout (n : Byte) (s : State) : Host.Outcome State Fault Refusal :=
  .next (
    let g := s.group n.toNat
    let t := s.fabTimeout
    let old := g.rounds.filter fun r => decide (t ≤ s.sinceUs r.started)
    let s := s.setGroup n.toNat { g with rounds := g.rounds.filter fun r => !decide (t ≤ s.sinceUs r.started) }
    old.foldl (fun s r =>
      ((rgChildren g).filter fun l => !(List.range (rgWords g)).all fun w => r.fromLinks.contains (l, w)).foldl (fun s l =>
        s.timeoutEvent (rgContext g) (s.link (Fin.ofNat 48 l)).peerEp.toNat) s) s)

/-- The point in force (R701). -/
def State.point (s : State) : Nat := s.fld .clk 0x40 31 30
def State.agreed (s : State) : Nat := s.fld .clk 0x40 29 28
/-- The cap in force: the slower of the power cap and the thermal cap (R709). -/
def Mod.cap (m : Mod) : Option Nat :=
  match m.powerCapPt, m.thermalCapPt with
  | some a, some b => some (Nat.max a b)
  | some a, none => some a
  | none, b => b
/-- The point becomes the slower of the cap and the agreed point (R690). -/
def State.movePoint (s : State) : State :=
  s.setFld .clk 0x40 31 30 (match s.mod.cap with | some p => Nat.max p s.agreed | none => s.agreed)
/-- An nc in whole ns, rounded up. -/
def State.ncNs (s : State) : Nat := (2 * acTenths s.point + 9) / 10

/-- FABRIC_OP_TIMEOUT (R542): a poisoned completion, and the entry's generation advances; in the nc of expiry an answer is still
taken. -/
def execFabricOpTimeout (c : CoreId) (entry : BitVec 7) (s : State) : Host.Outcome State Fault Refusal :=
  .next (
    match (s.core c).ops.find? fun o => o.cls == 4 && o.stage == .issued && o.entry == entry && !s.isEmit o with
    | none => s
    | some o =>
      if s.car - o.issuedAt < 1000 * s.fabTimeout + s.ncNs then s
      else
        let s := (s.onCore c fun k =>
          { k with tagGen := Store.set 0 k.tagGen entry.toNat ((Store.get 0 k.tagGen entry.toNat + 1) % 512)
                   binds := k.binds.filter fun b => b.serial != o.serial }).opFinish c o.serial s.ac true
        let s := if opKind o = 4 then
            s.setGroup (fGroup o) { s.group (fGroup o) with
              waiters := (s.group (fGroup o)).waiters.filter fun w => !(w.core == c.val && w.serial == o.serial) }
          else s
        let peer := if opKind o = 1 ∨ opKind o = 3 then fDst o else 0xFFFF
        s.timeoutEvent (s.dieCtx (dieOf c)) peer)

/-- MR_CONTRIBUTE (R552, R567). -/
def execMrContribute (group : Byte) (round : BitVec 16) (s : State) : Host.Outcome State Fault Refusal :=
  .next (s.mrGo group.toNat round)

/-- MR_TIMEOUT (R567). -/
def execMrTimeout (s : State) : Host.Outcome State Fault Refusal :=
  .next (
    if s.fld .fab 0x44 31 31 = 1 ∧ s.fabTimeout ≤ s.sinceUs s.mod.mrStarted then
      ((s.orReg .fab 0x48 4).setFld .fab 0x44 31 31 0).onMod fun m => { m with chimePhase := 0 }
    else s)

end Sys2Proof.Machine
end

