-- ==== Sys2Proof/Machine/Mover.lean ====
section
/-! DEFINITION. The shard mover of an I/O die: its jobs, the transfers it receives and its receive log (R577 to R588,
R596 to R598). -/

namespace Sys2Proof.Machine

/-! ### Jobs (R585, R587, R588, R598) -/

def wxDone : Nat := 0
def wxSrcErr : Nat := 1
def wxRefused : Nat := 2
def wxTimeout : Nat := 3
def wxBusyWrite : Nat := 4

/-- A bit of FAB_WXSTAT. -/
def State.wxStat (s : State) (i : IoId) (bit : Nat) : State := s.orReg (.router i) 0x70 (2 ^ bit)

/-- The job ends: FAB_WXCTL.go clears. -/
def State.wxEnd (s : State) (i : IoId) : State :=
  (s.onRouter i fun r => { r with job := none }).setFld (.router i) 0x60 31 31 0

/-- Whether a job may read its source core: a valid ID on a die that is OWNED by the job's context and enclave (R28, R577,
R585). -/
def State.sourceOk (s : State) (b : Job) : Bool :=
  b.ingest || (b.score.toNat < 768 &&
    (let d := dieOf (Fin.ofNat 768 b.score.toNat)
     s.holds b.context d && s.dieEncl d == b.enclave))

/-- The job that FAB_WXCTL, FAB_WXSRC, FAB_WXDST and FAB_WXLEN describe. -/
def State.wxJob (s : State) (i : IoId) : Job :=
  let ctl := s.reg (.router i) 0x60
  let dst := s.reg (.router i) 0x68
  let len := s.reg (.router i) 0x6C
  { verify := bitAt ctl 30, ingest := bitAt ctl 29, mc := bitAt ctl 28, enclave := BitVec.ofNat 6 (bits ctl 27 22)
    context := BitVec.ofNat 8 (bits ctl 21 14), ndest := bits ctl 13 10 + 1, score := BitVec.ofNat 10 (bits ctl 9 0)
    saddr := s.fld (.router i) 0x64 23 0, dst := BitVec.ofNat 16 (bits dst 31 16), tcore := BitVec.ofNat 10 (bits dst 9 0)
    count := bits len 31 17 + 1, daddr := bits len 14 0, sent := 0, hashed := [], acks := 0, lastAt := s.car
    tag := (s.router i).wxTag }

/-- A 1 written to FAB_WXCTL.go with the other fields as the write sets them (R28, R585, R588); tags of the four movers
differ in their low bits. -/
def State.wxGo (s : State) (i : IoId) (v : Nat) : State :=
  let t := s.setReg (.router i) 0x60 (v % 2 ^ 31)
  let b := t.wxJob i
  if 24576 < b.count ∨ !t.sourceOk b ∨ (!b.verify ∧ 768 ≤ b.tcore.toNat) then t.wxStat i wxSrcErr
  else
    ((t.setFld (.router i) 0x60 31 31 1).onRouter i fun r =>
      { r with job := some { b with tag := b.tag * 4 + BitVec.ofNat 16 i.val }, wxTag := r.wxTag + 1 })

/-- The function whose ingest window a job reads: that of the enclave of the job. -/
def jobFn (b : Job) : Nat := fnOf b.enclave

/-- Page readiness (R597): each of its 64 lines has been written. -/
def Func.pageReady (f : Func) (page : Nat) : Bool := (List.range 64).all fun k => Store.get false f.written (64 * page + k)

/-- The lowest page that no job has read moves on, and a read page is no longer ready (R598). -/
def State.pageRead (s : State) (fn page : Nat) : State :=
  let s := s.onFunc fn fun f => { f with written := Store.clearRange f.written (64 * page) (64 * page + 64) }
  if fn = 0 then s
  else if s.fld (fnBlk fn) 0x14 23 0 = page then s.setFld (fnBlk fn) 0x14 23 0 (page + 1) else s

/-- The next 4 KiB of a job's source with its poison; none while an ingest page is not ready. -/
def State.jobUnit (s : State) (b : Job) : Option (State × List Byte × Bool) :=
  let k := b.saddr + b.sent
  if b.ingest then
    if (s.func (jobFn b)).pageReady k then
      some (s.pageRead (jobFn b) k, (s.func (jobFn b)).staging.bytes (4096 * k) 4096, false)
    else none
  else
    let c : CoreId := Fin.ofNat 768 b.score.toNat
    if 24576 ≤ k then some (s.draw 1, leBytes 4096 (Config.freeNat s.free), false)
    else
      let (s, bad) := s.wsReadWords c (128 * k) (128 * k + 128)
      some (s, s.wsBytes c (4096 * k) 4096, bad)

/-- A data packet of a transfer (R581). -/
def State.shardPacket (s : State) (b : Job) (data : List Byte) (poison : Bool) : Packet :=
  let p := s.mgPacket b.dst b.mc b.context b.tag.toNat (b.count - 1) b.sent (b.enclave.toNat * 1024) data
  { p with hdr := { p.hdr with tcore := b.tcore, taddr := BitVec.ofNat 17 b.daddr, poison := poison } }

def State.setJob (s : State) (i : IoId) (b : Job) : State := s.onRouter i fun r => { r with job := some b }

/-- The digest of what a job hashed goes to FAB_WXDIG. -/
def State.wxDigest (s : State) (i : IoId) (b : Job) : State := s.setDigestReg (.router i) 0x80 (sha384 b.hashed)

/-- The job moves on by one unit; false when it cannot. -/
def State.jobStep (s : State) (i : IoId) (b : Job) : State × Bool :=
  if !s.sourceOk b then ((s.wxStat i wxSrcErr).wxEnd i, false)
  else
    match s.jobUnit b with
    | none => (s, false)
    | some (t, data, p) =>
      let t := if b.verify then t else t.inject i (t.shardPacket b data p)
      let b := { b with sent := b.sent + 1, hashed := b.hashed ++ data, lastAt := t.car }
      let t := t.setJob i b
      (if b.sent = b.count then t.wxDigest i b else t, true)

def State.jobLoop (s : State) (i : IoId) : Nat → State
  | 0 => s
  | n + 1 =>
    match (s.router i).job with
    | some b =>
      if b.sent < b.count then
        let (t, go) := s.jobStep i b
        if go then t.jobLoop i n else t
      else s
    | none => s

/-- SEND (R581, R585, R598): the running job sends every packet whose source is ready. -/
def execSend (i : IoId) (s : State) : Host.Outcome State Fault Refusal :=
  .next (
    match (s.router i).job with
    | some b => if b.verify then s else s.jobLoop i (b.count - b.sent)
    | none => s)

/-- VERIFY (R585): the running job hashes its source range and completes. -/
def execVerify (i : IoId) (s : State) : Host.Outcome State Fault Refusal :=
  .next (
    match (s.router i).job with
    | some b =>
      if !b.verify then s
      else
        let t := s.jobLoop i (b.count - b.sent)
        match (t.router i).job with
        | some b => if b.sent = b.count then (t.wxStat i wxDone).wxEnd i else t
        | none => t
    | none => s)

/-- Whether packets of a job wait in the module. -/
def State.jobHere (s : State) (b : Job) : Bool :=
  s.stillHere (s.shardPacket b [] false).hdr

/-- WX_SEND_TIMEOUT (R585): FAB_TIMEOUT after the last packet left. -/
def execWxSendTimeout (i : IoId) (s : State) : Host.Outcome State Fault Refusal :=
  .next (
    match (s.router i).job with
    | some b =>
      if !b.verify ∧ b.sent = b.count ∧ !s.jobHere b ∧ 1000 * s.fabTimeout ≤ s.car - b.lastAt then
        ((s.wxStat i wxTimeout).wxStat i wxDone).wxEnd i
      else s
    | none => s)

/-- INGEST_PAGE_TIMEOUT (R598). -/
def execIngestPageTimeout (i : IoId) (s : State) : Host.Outcome State Fault Refusal :=
  .next (
    match (s.router i).job with
    | some b =>
      if b.ingest ∧ b.sent < b.count ∧ !(s.func (jobFn b)).pageReady (b.saddr + b.sent) ∧
          1000 * s.fabTimeout ≤ s.car - b.lastAt then (s.wxStat i wxSrcErr).wxEnd i
      else s
    | none => s)

/-! ### Transfers (R578, R580, R583, R584) -/

def stComplete : Nat := 0
def stRefused : Nat := 1
def stPoisoned : Nat := 2
def stOrder : Nat := 3

/-- A delivered management packet of a kind that a predicate names. -/
def State.nextMgmt (s : State) (i : IoId) (ok : Packet → Bool) : Option RingPkt :=
  (s.router i).delivered.find? fun e => e.pkt.hdr.kind == 7 && ok e.pkt

def Transfer.is (t : Transfer) (h : Header) : Bool := t.src == h.src && t.tag == h.tag
def State.setTransfer (s : State) (i : IoId) (t : Transfer) : State :=
  s.onRouter i fun r =>
    { r with transfers := (r.transfers.filter fun u => !(u.src == t.src && u.tag == t.tag)) ++ [t] }

/-- The die of a transfer's core is held by the shard's context in its enclave (R578). -/
def State.shardHome (s : State) (t : Transfer) : Bool :=
  t.tcore.toNat < 768 &&
    (let d := dieOf (Fin.ofNat 768 t.tcore.toNat)
     s.holds t.context d && s.dieEncl d == t.enclave)

/-- A transfer to an overlapping range of the same core is in flight. -/
def State.shardClash (s : State) (t : Transfer) : Bool :=
  s.routers.any fun r => r.2.transfers.any fun u =>
    !u.dead && u.tcore == t.tcore && !(u.src == t.src && u.tag == t.tag) && u.start < t.start + t.total &&
      t.start < u.start + u.total

/-- The answer to the source (R581). -/
def State.shardReply (s : State) (i : IoId) (t : Transfer) (status : Nat) : State :=
  let p := s.mgPacket t.src false t.context t.tag.toNat 0x8000 0 (t.enclave.toNat * 1024 + status) []
  s.inject i { p with hdr := { p.hdr with tcore := t.tcore, taddr := BitVec.ofNat 17 t.start } }

/-- Lumef marks a shard present when its transfer is COMPLETE and the digests agree (R580). -/
def State.markPresent (s : State) (t : Transfer) (d : Digest) : State :=
  s.onCtx t.context fun k => { k with shards := k.shards.map fun h =>
    if h.core = t.tcore.toNat ∧ h.start = t.start ∧ h.len = t.total ∧ h.digest = d then
      { h with present := true, lastOk := BitVec.ofNat 64 s.car } else h }

/-- A transfer ends: one answer, and one record while the log has room. -/
def State.transferEnd (s : State) (i : IoId) (t : Transfer) (status : Nat) : State :=
  let d := sha384 t.data
  let s := s.onRouter i fun r =>
    { r with transfers := (r.transfers.filter fun u => !(u.src == t.src && u.tag == t.tag)) ++
               (if status = stComplete ∨ t.total ≤ t.next + 1 then [] else [{ t with dead := true }])
             rxLog := if r.rxLog.length < 64 then r.rxLog ++ [⟨status, t.tcore, t.start, d⟩] else r.rxLog }
  let s := s.shardReply i t status
  if status = stComplete then s.markPresent t d else s

/-- The data of a packet go to the core as a BG packet of the swap class, through the port of R547, and from there to the weight
store (R313, R336, R583); a poisoned packet's words are written uncorrectable (R423). -/
def State.shardWrite (s : State) (t : Transfer) (data : List Byte) (poison : Bool) : State :=
  let c : CoreId := Fin.ofNat 768 t.tcore.toNat
  match s.portNear t.context c (List.finRange 4) with
  | some (_, p) =>
    s.portEnter p 3 3 c.val (.swap (4096 * (t.start + t.next)) poison) false
      ((chunksOf 64 64 data).map fun l => (bytesLine l, false))
  | none => s

def packetBytes (p : Packet) : List Byte := p.flits.flatMap fun f => leBytes 256 f.toNat

/-- A packet of a transfer in flight (R583). -/
def State.shardTake (s : State) (i : IoId) (t : Transfer) (p : Packet) : State :=
  let t := { t with lastAt := s.now }
  if !s.shardHome t then s.transferEnd i t stRefused
  else if p.hdr.fb.toNat ≠ t.next then s.transferEnd i t stOrder
  else
    let data := packetBytes p
    let s := s.shardWrite t data p.hdr.poison
    if p.hdr.poison then s.transferEnd i t stPoisoned
    else s.setTransfer i { t with next := t.next + 1, data := t.data ++ data }

/-- The first packet of a transfer. -/
def State.shardBegin (s : State) (i : IoId) (p : Packet) : State :=
  let h := p.hdr
  let t : Transfer := ⟨h.src, h.tag, h.tcore, h.taddr.toNat % 32768, h.fa.toNat + 1, 0, 0, [], s.now, h.context,
    BitVec.ofNat 6 (h.fc.toNat / 1024), false⟩
  if !s.shardHome t ∨ (s.nearPort t.context (Fin.ofNat 768 t.tcore.toNat)).isNone ∨ s.shardClash t ∨
      64 ≤ (s.router i).rxLog.length ∨ 24576 < t.start + t.total then
    s.transferEnd i t stRefused
  else s.shardTake i t p

/-- A transfer whose packets are all in and whose writes are all in place. -/
def State.transferDue (s : State) (i : IoId) : Option Transfer :=
  (s.router i).transfers.find? fun t =>
    !t.dead && t.next == t.total && decide (t.total ≤ t.arrived) && s.shareDone (Fin.ofNat 768 t.tcore.toNat)

/-- SHARD_DATA (R578, R583, R584): a transfer that is due ends; otherwise the oldest data packet is taken. -/
def execShardData (i : IoId) (s : State) : Host.Outcome State Fault Refusal :=
  .next (
    match s.transferDue i with
    | some t => s.transferEnd i t stComplete
    | none =>
      match s.nextMgmt i isShard with
      | none => s
      | some e =>
        let p := e.pkt
        let s := s.takeDelivered i e
        match (s.router i).transfers.find? fun t => t.is p.hdr with
        | none => s.shardBegin i p
        | some t =>
          if t.dead ∧ p.hdr.fb = 0 then s.shardBegin i p
          else if t.dead then
            let s := s.drop i dropRefused
            if p.hdr.fb.toNat + 1 = t.total then
              s.onRouter i fun r => { r with transfers := r.transfers.filter fun u => !u.is p.hdr }
            else s
          else s.shardTake i t p)

/-- SHARD_ANSWER (R585): an answer to the running job counts; with the last of ndest the job completes. -/
def execShardAnswer (i : IoId) (s : State) : Host.Outcome State Fault Refusal :=
  .next (
    match s.nextMgmt i fun p => mgClass p == 8 with
    | none => s
    | some e =>
      let s := s.takeDelivered i e
      match (s.router i).job with
      | none => s.drop i dropLate
      | some b =>
        if b.tag ≠ e.pkt.hdr.tag ∨ b.verify then s.drop i dropLate
        else
          let s := if e.pkt.hdr.fc.toNat % 4 ≠ 0 then s.wxStat i wxRefused else s
          let b := { b with acks := b.acks + 1 }
          let s := s.setJob i b
          if b.ndest ≤ b.acks ∧ b.sent = b.count then (s.wxStat i wxDone).wxEnd i else s)

/-- FAB_WXRPOP.pop (R588). -/
def State.wxrPop (s : State) (i : IoId) : State := s.onRouter i fun r => { r with rxLog := r.rxLog.drop 1 }

/-- FAB_WXRPOP (R588). -/
def execFabWxrpop (i : IoId) (s : State) : Host.Outcome State Fault Refusal := .next (s.wxrPop i)

end Sys2Proof.Machine
end

