-- ==== Sys2Proof/Machine/Host.lean ====
section
/-! DEFINITION. The host interface: submission rings, result frames, completion and receipt rings, the ingest window, the
mailboxes and the resets of functions (R591 to R628). -/

namespace Sys2Proof.Machine

/-! ### Registers of a ring set (R599, R626, R627) -/

def rOff (r : RingId) (k : Nat) : Nat := 0x1000 + 0x80 * r.val + k
def State.rreg (s : State) (v : VfId) (r : RingId) (k : Nat) : Nat := s.reg (.vf v) (rOff r k)
def State.setR (s : State) (v : VfId) (r : RingId) (k n : Nat) : State := s.setReg (.vf v) (rOff r k) (n % 2 ^ 32)
def rSqHead : Nat := 0x10
def rRbTail : Nat := 0x2C
def rRbHead : Nat := 0x30
def rCqCfg : Nat := 0x48
def rCqTail : Nat := 0x4C
def rCqHead : Nat := 0x50
def rStat : Nat := 0x60

/-- The function of a VF. -/
def vfFn (v : VfId) : Nat := v.val + 1
def vfEncl (v : VfId) : Encl := BitVec.ofNat 6 v.val
/-- The context bound to a submission ring. -/
def State.sqCtx (s : State) (v : VfId) (r : RingId) : Ctx := BitVec.ofNat 8 (bits (s.rreg v r 0x08) 7 0)
/-- tail − head of two free-running counters. -/
def span (tail head : Nat) : Nat := (tail + 2 ^ 32 - head) % 2 ^ 32

/-- A function whose enclave requires IDE waits for its Secure stream (R591, R727). -/
def State.ideWait (s : State) (v : VfId) : Bool :=
  bitAt (Store.get (0, 0, 0) s.mod.enclavePlan v.val).1 2 && !(s.func (vfFn v)).ideSecure

/-- MC_BOOTSTAT.stage (R671, R703). -/
def State.stage (s : State) : Nat := s.fld .mc 0x10 31 28
def stReady : Nat := 6
def stRecovery : Nat := 15

/-! ### Submission (R600 to R605) -/

/-- The engine may read the next entry of a ring: the module is READY (R674), the ring is in use, not halted, holds an entry, and the step before is
decided. -/
def State.mayFetch (s : State) (v : VfId) (r : RingId) : Bool :=
  let k := s.ring v r
  s.stage == stReady && bitAt (s.rreg v r 0x08) 31 && !k.halted && !k.ended && !s.ideWait v && k.fetch.toNat != s.rreg v r 0x0C

/-- A retained entry of a context's step can no longer be read (R605). -/
def State.loseEntries (s : State) (x : Ctx) : State := s.onCtx x fun k => { k with entriesLost := true }

/-- A refused entry halts its ring (R601). -/
def State.sqRefuse (s : State) (v : VfId) (r : RingId) : State :=
  (((s.hostFault (vfFn v) 1).setR v r rStat (s.rreg v r rStat ||| 8)).onRing v r fun k => { k with halted := true }).loseEntries
    (s.sqCtx v r)

/-- A die is OWNED by a ring's context in the function's enclave (R360, R601). -/
def State.sqOwns (s : State) (v : VfId) (r : RingId) (d : DieId) : Bool :=
  s.holds (s.sqCtx v r) d && s.dieEncl d == vfEncl v

/-- The entry's step differs from that of its ring. -/
def State.stepBad (s : State) (v : VfId) (r : RingId) (step : Word32) : Bool :=
  match (s.ring v r).stepNow with
  | some t => t != step
  | none => false

/-- Every block header names the context; at most `n` blocks. -/
def headersOk (x : Ctx) : Nat → List Line → Bool
  | _, [] => true
  | 0, _ => true
  | n + 1, e :: rest => hCtx e.toNat == x && headersOk x n (rest.drop (hLen e.toNat))

def maskDies (m : BitVec 12) : List DieId := (List.finRange 12).filter fun d => m.getLsbD d.val

/-- Delivers entries in order to every die, while every queue has room (R201, R602). -/
def State.deliverLines (s : State) (dies : List DieId) : List Line → State × Nat
  | [] => (s, 0)
  | l :: rest =>
    if dies.any fun d => decide (1024 ≤ (s.die d).cmdq.length) then (s, 0)
    else
      let (t, n) := (dies.foldl (fun s d => s.onDie d fun k => { k with cmdq := k.cmdq ++ [l] }) s).deliverLines dies rest
      (t, n + 1)

/-- The entry at the front of a ring has been read. -/
def Ring.next (k : Ring) (step : Word32) : Ring := { k with fetch := k.fetch + 1, sent := 0, stepNow := some step }

/-- The step of a context belongs to a ring (R613). -/
def State.bindRing (s : State) (v : VfId) (r : RingId) : State :=
  s.onCtx (s.sqCtx v r) fun k => { k with ring := some (v, r) }

/-- Whether the bytes of a BLOCKS entry differ from those read before at its place (R605). -/
def Ring.changed (k : Ring) (d : Digest) : Bool :=
  match k.blocks.find? fun b => b.1 == k.fetch with
  | some b => b.2.2 != d
  | none => false
def Ring.note (k : Ring) (dies : BitVec 12) (d : Digest) : Ring :=
  if k.blocks.any fun b => b.1 == k.fetch then k else { k with blocks := k.blocks ++ [(k.fetch, dies, d)] }

def State.blocks (s : State) (v : VfId) (r : RingId) (step : Word32) (dies : BitVec 12) (entries : List Line) : State :=
  let k := s.ring v r
  let dg := sha384 (entries.flatMap lineBytes)
  if !s.mayFetch v r then s
  else if s.stepBad v r step ∨ !((maskDies dies).all fun d => s.sqOwns v r d) ∨
      !headersOk (s.sqCtx v r) entries.length entries ∨ k.changed dg then s.sqRefuse v r
  else if k.decided then s.setRing v r (k.next step)
  else
    let (t, n) := s.deliverLines (maskDies dies) (entries.drop k.sent)
    let k := k.note dies dg
    let k := if k.sent + n = entries.length then k.next step else { k with sent := k.sent + n, stepNow := some step }
    (t.setRing v r k).bindRing v r

/-- BLOCKS (R602, R605): delivers what the queues hold; the entry stays at the front until all of it is delivered. -/
def execBlocks (v : VfId) (r : RingId) (step : Word32) (dies : BitVec 12) (entries : List Line) (s : State) :
    Host.Outcome State Fault Refusal := .next (s.blocks v r step dies entries)

/-- The input frame as it is delivered joins the step's inputs; the first run's digest stays (R500, R605, R607). -/
def State.noteInput (s : State) (x : Ctx) (e : InputEntry) (b : List Byte) : State :=
  let seq : Word64 := BitVec.ofNat 64 (e.step.toNat * 2 ^ 32 + e.index.toNat)
  s.onCtx x fun k =>
    { k with inputs := (k.inputs.filter fun i => i.1 != seq) ++ [(seq, b)]
             firstInputs := if Store.get 0 k.firstInputs e.index.toNat = 0 then
                 Store.set 0 k.firstInputs e.index.toNat (sha384 b) else k.firstInputs }

/-- The lines of an INPUT go to the core through the port of R547; they are written in the DMA engine's rank, and then the
semaphore counts (R603). -/
def State.inputWrite (s : State) (c : CoreId) (e : InputEntry) (b : List Byte) (poison : Bool) : State :=
  match s.portNear (s.dieCtx (dieOf c)) c (List.finRange 4) with
  | some (_, p) =>
    s.portEnter p 2 0 c.val (.input e.am.toNat e.sem.toNat e.n.toNat) false
      ((chunksOf 64 (b.length / 64) b).map fun l => (bytesLine l, poison))
  | none => s

def State.input (s : State) (v : VfId) (r : RingId) (e : InputEntry) (lines : List Line) (readError : Bool) : State :=
  let k := s.ring v r
  let x := s.sqCtx v r
  let c : CoreId := Fin.ofNat 768 e.tcore.toNat
  if !s.mayFetch v r then s
  else if s.stepBad v r e.step ∨ 768 ≤ e.tcore.toNat ∨ !s.sqOwns v r (dieOf c) ∨ 65536 < e.am.toNat + lines.length then
    s.sqRefuse v r
  else if k.decided then s.setRing v r (k.next e.step)
  else if (s.die (dieOf c)).launched ≠ some e.step then s
  else
    let b := swapBytes e.swap.toNat (lines.flatMap lineBytes)
    let first : Digest := Store.get 0 (s.ctx x).firstInputs e.index.toNat
    let changed := first != 0 && first != sha384 b
    let s := s.setRing v r (k.next e.step)
    let s := if readError then s.hostFault (vfFn v) 7 else s
    let s := if changed then s.hostFault (vfFn v) 4 else s
    ((s.bindRing v r).noteInput x e b).inputWrite c e b (readError || changed)

/-- INPUT (R603, R605): it waits for the launch of its step on the target die. -/
def execInput (v : VfId) (r : RingId) (e : InputEntry) (lines : List Line) (readError : Bool) (s : State) :
    Host.Outcome State Fault Refusal := .next (s.input v r e lines readError)

/-- The entries of a decided step are retired: the head passes its END (R605). -/
def State.retire (s : State) (v : VfId) (r : RingId) : State :=
  let k := s.ring v r
  if k.ended then
    (s.setR v r rSqHead k.fetch.toNat).setRing v r
      { k with stepNow := none, ended := false, decided := false, sent := 0, blocks := [] }
  else s.setRing v r { k with decided := true }

/-- END (R604, R605). -/
def execHostEnd (v : VfId) (r : RingId) (step : Word32) (last : Bool) (s : State) : Host.Outcome State Fault Refusal :=
  .next (
    let k := s.ring v r
    if !s.mayFetch v r then s
    else if s.stepBad v r step then s.sqRefuse v r
    else
      let s := s.setRing v r { k.next step with ended := true }
      if k.decided then s.retire v r
      else (s.bindRing v r).onCtx (s.sqCtx v r) fun c => { c with lastOfJob := c.lastOfJob || last })

/-- The rings that are reading the step of a context. -/
def State.stepRings (s : State) (x : Ctx) (step : Word32) : List (VfId × RingId) :=
  s.rings.filterMap fun e =>
    let v : VfId := Fin.ofNat 64 (e.1 / 8)
    let r : RingId := Fin.ofNat 8 e.1
    if e.2.stepNow = some step ∧ s.sqCtx v r = x then some (v, r) else none

/-- On REPLAY the engine reads the step again from its first entry (R605). -/
def State.rereadStep (s : State) (x : Ctx) (step : Word32) : State :=
  (s.stepRings x step).foldl (fun s q =>
    s.onRing q.1 q.2 fun k =>
      { k with fetch := BitVec.ofNat 32 (s.rreg q.1 q.2 rSqHead), ended := false, sent := 0 }) s
def State.retireStep (s : State) (x : Ctx) (step : Word32) : State :=
  (s.stepRings x step).foldl (fun s q => s.retire q.1 q.2) s

/-! ### Completion records (R611, R613, R622) -/

/-- A record sets its ring's interrupt bit once enough are unsignalled, or leaves it to the timer (R622). -/
def State.coalesce (s : State) (v : VfId) (r : RingId) : State :=
  let k := s.ring v r
  let n := k.unsignalled + 1
  if Nat.max 1 (bits (s.rreg v r rCqCfg) 15 8) ≤ n then
    (s.hostIrq (vfFn v) r.val).onRing v r fun k => { k with unsignalled := 0 }
  else
    s.onRing v r fun k =>
      { k with unsignalled := n, firstUnsignalled := if k.unsignalled = 0 then s.now else k.firstUnsignalled }

def State.base64 (s : State) (v : VfId) (off : Nat) : Nat := s.reg (.vf v) off + s.reg (.vf v) (off + 4) * 2 ^ 32
/-- Host memory takes bytes at an address. -/
def State.toHost (s : State) (v : VfId) (a : Nat) (b : List Byte) : State :=
  s.emit (.hostWrite v (BitVec.ofNat 64 a) b)

def State.cqRoom (s : State) (v : VfId) (r : RingId) : Bool :=
  bitAt (s.rreg v r rCqCfg) 31 &&
    decide (span (s.rreg v r rCqTail) (s.rreg v r rCqHead) < 2 ^ bits (s.rreg v r rCqCfg) 28 24)

/-- Writes a record with its phase and the gap state of the ring, which then clears (R611, R615): `flags` holds bits 1 and
3 of byte 1, `mid` bytes 2 to 19. -/
def State.cqWrite (s : State) (v : VfId) (r : RingId) (ty flags : Nat) (mid : List Byte) : State :=
  let k := s.ring v r
  let c := s.rreg v r rCqTail
  let n := 2 ^ bits (s.rreg v r rCqCfg) 28 24
  let phase := if c / n % 2 = 0 then 1 else 0
  let gap := if k.gapCount = 0 then 0 else 4
  let b := leBytes 1 ty ++ leBytes 1 (phase + flags + gap) ++ padTo 18 mid ++ leBytes 4 k.gapCount ++
    leBytes 8 k.gapFirst.toNat
  (((s.toHost v (s.base64 v (rOff r 0x40) + 32 * (c % n)) b).setR v r rCqTail (c + 1)).onRing v r fun k =>
    { k with gapCount := 0, gapFirst := 0 }).coalesce v r

/-- Bytes 1 (poison and reported) and 2 to 19 of a STEP record stand in `records` until they are written. -/
def State.stepRecord (s : State) (v : VfId) (r : RingId) : State :=
  match (s.ring v r).records with
  | [] => s
  | (_, _, b) :: rest =>
    if !s.cqRoom v r ∨ s.ideWait v then s
    else (s.onRing v r fun k => { k with records := rest }).cqWrite v r 2 (leNat (b.take 1)) (b.drop 1)

/-- STEP_RECORD_WRITE (R613): it waits for a free record. -/
def execStepRecordWrite (v : VfId) (r : RingId) (s : State) : Host.Outcome State Fault Refusal :=
  .next (s.stepRecord v r)

/-! ### Result frames (R609 to R616) -/

def Frame.step (f : Frame) : Word32 := BitVec.ofNat 32 (f.seq.toNat / 2 ^ 32)

/-- The frame at the head of a ring: the first released one, once the STEP record of its step is written on whatever ring
of the function (R613). -/
def State.headFrame (s : State) (v : VfId) (r : RingId) : Option Frame :=
  match s.mod.frames.find? fun f => f.vf == vfFn v && f.ring == r.val && f.released with
  | some f =>
    if (List.finRange 8).any fun q => (s.ring v q).records.any fun e => e.1 == f.context && e.2.1 == f.step then none
    else some f
  | none => none

def State.freeFrame (s : State) (f : Frame) : State := s.onMod fun m => { m with frames := m.frames.erase f }

/-- A frame is dropped: its space is freed and the ring's gap state counts it (R615). -/
def State.dropFrame (s : State) (f : Frame) : State :=
  let v : VfId := Fin.ofNat 64 (f.vf - 1)
  let r : RingId := Fin.ofNat 8 f.ring
  let n := s.rreg v r 0x64
  (((s.freeFrame f).setR v r 0x64 (if n = 0xFFFFFFFF then n else n + 1)).setR v r rStat
    ((s.rreg v r rStat ||| 2) &&& 0xB)).onRing v r fun k =>
      { k with gapCount := k.gapCount + 1, gapFirst := if k.gapCount = 0 then f.seq else k.gapFirst, starvedAt := none }

/-- What the posted descriptors give a frame of `n` bytes (R610, R612). -/
inductive Bufs where
  | short
  | bad (used : Nat)
  | ok (l : List (Word64 × Nat))
  deriving DecidableEq, Repr

def pickBufs (n : Nat) : List (Word64 × BitVec 16) → Bufs
  | [] => if n = 0 then .ok [] else .short
  | (a, l) :: rest =>
    let len := l.toNat % 8192
    if n = 0 then .ok []
    else if len = 0 ∨ 4096 < len then .bad 1
    else
      match pickBufs (n - 4096 * len) rest with
      | .short => .short
      | .bad u => .bad (u + 1)
      | .ok t => .ok ((a, 4096 * len) :: t)

/-- The frame's bytes fill each buffer before the next (R612). -/
def State.fillBufs (s : State) (v : VfId) : List (Word64 × Nat) → List Byte → State
  | [], _ => s
  | (a, n) :: rest, b => (s.toHost v a.toNat (b.take n)).fillBufs v rest (b.drop n)

/-- A frame finds no buffers or no record (R614, R622). -/
def State.starve (s : State) (v : VfId) (r : RingId) : State :=
  let seen := (s.rreg v r rRbTail, s.rreg v r rCqHead)
  match (s.ring v r).starvedAt with
  | some (t, _) => s.onRing v r fun k => { k with starvedAt := some (t, seen) }
  | none =>
    ((s.setR v r rStat (s.rreg v r rStat ||| 5)).onRing v r fun k => { k with starvedAt := some (s.now, seen) }).hostIrq
      (vfFn v) r.val

def State.frameWrite (s : State) (v : VfId) (r : RingId) (buffers : List (Word64 × BitVec 16)) : State :=
  match s.headFrame v r with
  | none => s
  | some f =>
    if s.ideWait v then s
    else
      let head := s.rreg v r rRbHead
      let posted := if bitAt (s.rreg v r 0x28) 31 then span (s.rreg v r rRbTail) head else 0
      match pickBufs f.data.length (buffers.take posted) with
      | .short => s.starve v r
      | .bad u => ((s.dropFrame f).setR v r rRbHead (head + u)).hostFault (vfFn v) 8
      | .ok l =>
        if !s.cqRoom v r then s.starve v r
        else
          let flags := (if f.poison || f.reported then 2 else 0) + (if f.reported then 8 else 0)
          let t := ((s.fillBufs v l f.data).setR v r rRbHead (head + l.length)).freeFrame f
          let t := (t.setR v r rStat (t.rreg v r rStat &&& 0xB)).onRing v r fun k => { k with starvedAt := none }
          t.cqWrite v r 1 flags (leBytes 2 l.length ++ leBytes 4 head ++ leBytes 8 f.seq.toNat ++
            leBytes 4 f.data.length)

/-- FRAME_WRITE (R612, R614, R615): `buffers` are the descriptors that the engine reads from the ring's RB head. -/
def execFrameWrite (v : VfId) (r : RingId) (buffers : List (Word64 × BitVec 16)) (s : State) :
    Host.Outcome State Fault Refusal := .next (s.frameWrite v r buffers)

/-- HOST_STARVE in µs, used as sat(us, 1, 1,000,000) (R626). -/
def State.starveUs (s : State) (v : VfId) : Nat := Nat.max 1 (Nat.min (s.fld (.vf v) 0x10 19 0) 1000000)

/-- STARVE_EXPIRE (R614 to R616): the frame is dropped, unless a descriptor or a record became available since the frame
was last tried. -/
def execStarveExpire (v : VfId) (r : RingId) (s : State) : Host.Outcome State Fault Refusal :=
  .next (
    match (s.ring v r).starvedAt, s.headFrame v r with
    | some (t, tail, head), some f =>
      if s.sinceUs t < s.starveUs v ∨ tail ≠ s.rreg v r rRbTail ∨ head ≠ s.rreg v r rCqHead then s else s.dropFrame f
    | _, _ => s)

/-- COALESCE_TIMER (R622). -/
def execCoalesceTimer (v : VfId) (r : RingId) (s : State) : Host.Outcome State Fault Refusal :=
  .next (
    let k := s.ring v r
    let us := bits (s.rreg v r rCqCfg) 7 0
    if k.unsignalled = 0 ∨ us = 0 ∨ s.sinceUs k.firstUnsignalled < us then s
    else (s.hostIrq (vfFn v) r.val).onRing v r fun k => { k with unsignalled := 0 })

/-- Where a frame stands in the ascending order of R609. -/
def insertFrame (f : Frame) : List Frame → List Frame
  | [] => [f]
  | g :: t => if f.seq.toNat < g.seq.toNat then f :: g :: t else g :: insertFrame f t

/-- Action 4 of R493 and its form under REPORT (R495, R609): the unreleased frames of a context become releasable; a
function that was reset since the launch has them dropped (R623). -/
def State.releaseFrames (s : State) (x : Ctx) (reported : Bool) : State :=
  let mine (f : Frame) : Bool := f.context == x && !f.released
  let fs := ((s.mod.frames.filter mine).foldl (fun l f => insertFrame f l) []).map fun f =>
    { f with released := true, reported := reported }
  let s := s.onMod fun m =>
    { m with frames := (m.frames.filter fun f => f.released) ++ fs ++ m.frames.filter fun f => !f.released && !mine f }
  if (s.ctx x).hostLost then fs.foldl (fun s f => s.dropFrame f) s else s

/-- Held frames of a context are discarded on REPLAY (R494, R609). -/
def State.discardFrames (s : State) (x : Ctx) : State :=
  s.onMod fun m => { m with frames := m.frames.filter fun f => !(f.context == x && !f.released) }

/-! ### Receipt ring (R503, R617, R618) -/

/-- RECEIPT_SLOT_WRITE (R617): the next entry of the enclave's chain; a SIGN entry waits for its signature. -/
def execReceiptSlotWrite (v : VfId) (s : State) : Host.Outcome State Fault Refusal :=
  .next (
    let cfg := s.reg (.vf v) 0x28
    let tail := s.reg (.vf v) 0x2C
    let n := 2 ^ bits cfg 28 24
    let used := span tail (s.reg (.vf v) 0x30)
    if v.val = 63 ∨ !bitAt cfg 31 ∨ n ≤ used ∨ s.ideWait v then s
    else
      match (s.chain (vfEncl v)).entries[used]? with
      | none => s
      | some e =>
        if e.sign && e.signature.isNone then s
        else
          let phase := if tail / n % 2 = 0 then 1 else 0
          let sig := match e.signature with | some g => beBytes 96 g.toNat | none => List.replicate 96 0
          let slot := padTo 512 (padTo 384 e.bytes ++ sig ++ leBytes 1 phase)
          ((s.toHost v (s.base64 v 0x20 + 512 * (tail % n)) slot).setReg (.vf v) 0x2C ((tail + 1) % 2 ^ 32)).hostIrq
            (vfFn v) 8)

/-- The host moves HOST_RCPTHEAD: the entries it passes are acknowledged and leave the chain (R503, R618). -/
def State.receiptAck (s : State) (v : VfId) (head : Nat) : State :=
  let old := s.reg (.vf v) 0x30
  let n := Nat.min (span head old) (span (s.reg (.vf v) 0x2C) old)
  let k := s.chain (vfEncl v)
  (s.setReg (.vf v) 0x30 head).setChain (vfEncl v) (k.ack (k.base + n))

/-! ### Ingest (R596, R597) -/

/-- One byte of a write to the ingest window. -/
def State.ingestByte (s : State) (v : VfId) (a : Nat) (b : Byte) : State :=
  let page := a / 4096
  let lo := s.fld (.vf v) 0x14 23 0
  if lo ≤ page ∧ page < lo + 4096 then
    s.onFunc (vfFn v) fun f =>
      { f with staging := f.staging.setByte a b, written := Store.set false f.written (a / 64) true }
  else s.hostFault (vfFn v) 5

def State.ingest (s : State) (v : VfId) (a : Nat) : List Byte → State
  | [] => s
  | b :: rest => (s.ingestByte v a b).ingest v (a + 1) rest

/-- INGEST_WRITE (R597, R674). -/
def execIngestWrite (v : VfId) (addr : BitVec 36) (bytes : List Byte) (s : State) : Host.Outcome State Fault Refusal :=
  .next (if v.val = 63 ∨ s.stage ≠ stReady then s else s.ingest v addr.toNat bytes)

/-! ### Mailboxes (R619, R620, R644, R648, R718) -/

/-- HOST_MBOX_SEND (R626): a 1 written while a message waits is a busy write. -/
def State.mboxSend (s : State) (f : Nat) : State :=
  if s.fld (fnBlk f) 0x40 31 31 = 1 then s.hostFault f 9 else s.setFld (fnBlk f) 0x40 31 31 1

def fnIndex (f : Option VfId) : Nat := match f with | none => 0 | some v => vfFn v

/-- HOST_MBOX_SEND (R626). -/
def execHostMboxSend (f : Option VfId) (s : State) : Host.Outcome State Fault Refusal := .next (s.mboxSend (fnIndex f))

/-- A context of a function's enclave on this module (R619). -/
def State.ctxOfVf (s : State) (v : VfId) (x : Ctx) : Bool := (s.diesOf x).any fun d => s.dieEncl d == vfEncl v

def mOk : Nat := 0
def mRefused : Nat := 1

/-- The body of PLACE_RSP. -/
def placeBody (status : Nat) (rs : List RankPlace) (gs : List GroupAlloc) : List Byte :=
  leBytes 2 status ++ leBytes 2 rs.length ++ leBytes 2 gs.length ++ leBytes 2 0 ++
    (rs.flatMap fun k => leBytes 2 k.endpoint.toNat ++ [k.dr, k.dc]) ++
    gs.flatMap fun g => [g.kind] ++ leBytes 2 g.binary.toNat ++ leBytes 2 g.allocated.toNat ++ [0]

/-- Lumef loads the binary that a request names, where it holds it with a placement of the context; none when it refuses the
load (R572, R574). -/
def State.placeLoad (s : State) (x : Ctx) (dig : Digest) (load : Option Placement) : Option State :=
  match load with
  | some l => if sha384 l.binary.bytes = dig then s.loadBinary x l else some s
  | none => some s

def State.placeReq (s : State) (v : VfId) (x : Ctx) (first : Nat) (dig : Digest) (tag : Nat) (load : Option Placement) :
    State :=
  let s := s.mailTaken (vfFn v)
  if !s.ctxOfVf v x then s.mailTo (vfFn v) 0x8001 tag (placeBody mRefused [] [])
  else match s.placeLoad x dig load with
  | none => s.mailTo (vfFn v) 0x8001 tag (placeBody mRefused [] [])
  | some s =>
  let k := s.ctx x
  if k.ranks.isEmpty ∨ k.program ≠ dig then s.mailTo (vfFn v) 0x8001 tag (placeBody 2 [] [])
  else s.mailTo (vfFn v) 0x8001 tag (placeBody mOk ((k.ranks.drop first).take 896) k.groups)

/-- PLACE_REQ (R568 to R576, R619, R620). -/
def execPlaceReq (v : VfId) (x : Ctx) (first : BitVec 16) (dig : Digest) (req : PlaceArg) (s : State) :
    Host.Outcome State Fault Refusal := .next (s.placeReq v x first.toNat dig req.tag.toNat req.load)

/-- MAINT_DECL (R619, R644). -/
def execMaintDecl (v : VfId) (x : Ctx) (start : Word64) (lenUs tag : Word32) (s : State) :
    Host.Outcome State Fault Refusal :=
  .next (
    let s := s.mailTaken (vfFn v)
    if s.ctxOfVf v x then
      (s.onCtx x fun k => { k with maint := some (start, lenUs), maintOpen := false }).mailTo (vfFn v) 0x8002 tag.toNat
        (leBytes 1 mOk)
    else s.mailTo (vfFn v) 0x8002 tag.toNat (leBytes 1 mRefused))

/-- A self-test request joins its die's queue; the status of SELFTEST_RSP (R646, R648). -/
def State.selftestQueue (s : State) (q : TestReq) (o : TestOrigin) : State × Nat :=
  if 12 ≤ q.unit.toNat then (s, 1)
  else
    let d : DieId := Fin.ofNat 12 q.unit.toNat
    if 16 ≤ (s.die d).tests.length then (s, 1)
    else if q.kind = 0 ∨ 3 < q.kind.toNat then (s, 2)
    else (s.onDie d fun k => { k with tests := k.tests ++ [(q, o)] }, 0)

/-- SELFTEST_REQ (R648). -/
def execSelftestReq (q : TestReq) (s : State) : Host.Outcome State Fault Refusal :=
  .next (
    let (s, st) := (s.mailTaken 0).selftestQueue q .pf
    s.mailTo 0 0x8008 q.tag.toNat (leBytes 1 st))

/-- PWR_CAP in W; values above 4,800 act as 4,800 (R734). -/
def State.powerCap (s : State) : Nat := Nat.min (s.fld .pwr 0x08 15 0) 4800

/-- POWER_REQ (R717, R718): a cap of 0 reads the cap without changing it. -/
def execPowerReq (watts : BitVec 16) (tag : Word32) (s : State) : Host.Outcome State Fault Refusal :=
  .next (
    let s := s.mailTaken 0
    let s := if watts = 0 then s else s.setFld .pwr 0x08 15 0 watts.toNat
    s.mailTo 0 0x8006 tag.toNat (leBytes 2 mOk ++ leBytes 2 s.powerCap ++ leBytes 2 (s.fld .pwr 0x04 15 0) ++
      leBytes 1 s.point))

/-! ### Resets of functions (R623, R624, R764) -/

/-- The registers of a ring set but HOST_DROPCNT. -/
def ringKept : List Nat := [0x00, 0x04, 0x08, 0x0C, 0x10, 0x20, 0x24, 0x28, 0x2C, 0x30, 0x40, 0x44, 0x48, 0x4C, 0x50, 0x60]

def State.resetReg (s : State) (b : Blk) (off : Nat) : State := s.setReg b off (b.resetOf off)

/-- A ring set after a reset of its function: the gap state and the STEP records that wait stay. -/
def State.flrRing (s : State) (v : VfId) (r : RingId) : State :=
  let k := s.ring v r
  let x := s.sqCtx v r
  let s := if k.stepNow.isSome ∨ (s.ctx x).ring = some (v, r) then s.loseEntries x else s
  (ringKept.foldl (fun s o => s.resetReg (.vf v) (rOff r o)) s).setRing v r
    { Ring.reset with gapCount := k.gapCount, gapFirst := k.gapFirst, records := k.records }

/-- Contexts of an enclave with a step in flight. -/
def State.openOf (s : State) (e : Encl) : List Ctx :=
  (s.ctxs.filter fun k => k.2.active || k.2.nextPeal.isSome).map (fun k => (BitVec.ofNat 8 k.1 : Ctx)) |>.filter fun x =>
    (s.diesOf x).any fun d => s.dieEncl d == e

/-- Function Level Reset of a VF (R623): released frames are dropped, those of steps in flight when they are decided. -/
def State.flr (s : State) (v : VfId) : State :=
  let s := (s.mod.frames.filter fun f => f.vf == vfFn v && f.released).foldl (fun s f => s.dropFrame f) s
  let s := (s.openOf (vfEncl v)).foldl (fun s x => s.onCtx x fun k => { k with hostLost := true }) s
  let s := if v.val = 63 then s else (List.finRange 8).foldl (fun s r => s.flrRing v r) s
  let s := if v.val = 63 then s else [0x20, 0x24, 0x28, 0x2C, 0x30].foldl (fun s o => s.resetReg (.vf v) o) s
  s.resetReg (.vf v) 0x40

/-- FUNCTION_LEVEL_RESET (R623). -/
def execFunctionLevelReset (v : VfId) (s : State) : Host.Outcome State Fault Refusal := .next (s.flr v)

/-- Every function is reset (R624). -/
def State.flrAll (s : State) : State := ((List.finRange 64).foldl (fun s v => s.flr v) s).resetReg .pf 0x40

/-- HOT_RESET (R624). -/
def execHotReset (s : State) : Host.Outcome State Fault Refusal := .next s.flrAll
/-- HOST_LINK_LOSS (R624). -/
def execHostLinkLoss (s : State) : Host.Outcome State Fault Refusal := .next s.flrAll
/-- PCIE_PERST_N (R764). -/
def execPciePerstN (s : State) : Host.Outcome State Fault Refusal := .next s.flrAll

/-- IDE_KM (R591): the selective stream of a function is in the Secure state. -/
def execIdeKm (f : Option VfId) (s : State) : Host.Outcome State Fault Refusal :=
  .next (s.onFunc (fnIndex f) fun k => { k with ideSecure := true })

end Sys2Proof.Machine
end

