-- ==== Sys2Proof/Machine/Recovery.lean ====
section
/-! DEFINITION. The Gong, the step decision and its actions, and recovery episodes (R473 to R479, R490 to R503, R556, R635,
R649 to R659, R666, R668). -/

namespace Sys2Proof

/-- The merge of two summaries (R490). -/
def GongSummary.join (a b : GongSummary) : GongSummary :=
  ⟨a.flags ||| b.flags, if a.keyLo.toNat ≤ b.keyLo.toNat then a.keyLo else b.keyLo,
    if a.keyHi.toNat ≤ b.keyHi.toNat then b.keyHi else a.keyHi, a.modules + b.modules⟩

/-- The control blocks of R556, without the credit field. -/
def GongSummary.word (m : GongSummary) (x : Ctx) : Nat :=
  0x05 + x.toNat * 2 ^ 8 + m.flags.toNat * 2 ^ 16 + m.keyLo.toNat * 2 ^ 32 + m.keyHi.toNat * 2 ^ 128 +
    m.modules.toNat * 2 ^ 224
def GongNotice.word (n : GongNotice) (x : Ctx) : Nat :=
  0x06 + x.toNat * 2 ^ 8 + n.decision.toNat * 2 ^ 16 + n.flags.toNat * 2 ^ 24 + n.reason.toNat * 2 ^ 32 +
    n.modules.toNat * 2 ^ 48 + n.peal.toNat * 2 ^ 64 + n.episode.toNat * 2 ^ 128 + n.action.toNat * 2 ^ 192

/-- R491. -/
def GongSummary.clean (m : GongSummary) : Bool := m.flags &&& 0x84 == 0 && m.keyLo == m.keyHi

end Sys2Proof

namespace Sys2Proof.Machine

/-! ### The tree of a context (R477, R557) -/

def CtxState.parent (k : CtxState) : Nat := bits k.gtcfg.toNat 29 24
def CtxState.isRoot (k : CtxState) : Bool := k.parent == 0x3F
def CtxState.dmax (k : CtxState) : Nat := bits k.gtcfg.toNat 15 8
def CtxState.childLinks (k : CtxState) : List LinkId := (List.finRange 48).filter fun l => k.gtchild.getLsbD l.val
/-- The modules of a context, this one when the placement names none. -/
def State.modulesOf (s : State) (x : Ctx) : List Endpoint :=
  match ((s.ctx x).ranks.map fun r => r.endpoint).eraseDups with
  | [] => [s.self]
  | l => l
/-- The step root: the module of lowest endpoint (R477), of those that are not excluded (R654). -/
def State.rootOf (s : State) (x : Ctx) : Endpoint :=
  BitVec.ofNat 16 (minNat s.self.toNat (((s.modulesOf x).filter fun e => !s.mod.excluded.contains e).map fun e => e.toNat))
/-- The enclave of a context on this module. -/
def State.ctxEncl (s : State) (x : Ctx) : Encl := match s.diesOf x with | d :: _ => s.dieEncl d | [] => 63

/-! ### The Gong on the module (R473 to R476) -/

/-- The ac in which a core arrived at Gong `n`; a core that ended its step counts as arrived, an aborted one once its
crossbar requests have completed (R473, R655). -/
def Core.arrivedAt (k : Core) (n : Nat) : Option Nat :=
  match k.arrivals[n]? with
  | some t => some t
  | none => if k.ended && (!k.aborted || k.csReqs.isEmpty) then some k.endedAt else none

/-- The step-end wave completes only when every participant has ended. -/
def State.allEnded (s : State) (cs : List CoreId) : Bool :=
  cs.all fun c => let k := s.core c; k.ended && (!k.aborted || k.csReqs.isEmpty)

/-- The flags of one core in the layout of R498. -/
def State.coreFlags (s : State) (c : CoreId) : Nat :=
  let a := s.reg (.mx c) 0x10
  let v := s.reg (.vu c) 0x00
  (if bits a 1 0 = 0 then 0 else 1) ||| (if bits a 4 2 = 0 then 0 else 2) |||
    (if (s.core c).poisoned || bitAt v 4 then 4 else 0) ||| bits v 3 0 * 8

/-- A poisoned result frame of the context's step is held (R490). -/
def State.framePoison (s : State) (x : Ctx) : Bool :=
  s.mod.frames.any fun f => f.context == x && !f.released && f.poison

/-- The capture of the step-end wave, with its clears (R476, R490). -/
def State.capture (s : State) (x : Ctx) (cs : List CoreId) : State :=
  let f := cs.foldl (fun n c => n ||| s.coreFlags c) (if (s.ctx x).flagged || s.framePoison x then 4 else 0)
  let s := cs.foldl (fun s c => (s.setReg (.mx c) 0x10 0).setReg (.vu c) 0x00 0) s
  s.onCtx x fun k => { k with stepWave := true, summary := some (s.moduleSummary x f), flagged := false }

/-! ### Summaries and the notice (R478, R490, R556) -/

def gongFaultBit : Byte := 0x80

/-- The merged summary of a module and the children that answered; gong_fault joins it (R479, R490). -/
def CtxState.merged (k : CtxState) (own : GongSummary) : GongSummary :=
  let m := k.children.foldl (fun m c => m.join c.2) own
  if k.gongFault then { m with flags := m.flags ||| gongFaultBit } else m

def CtxState.missing (k : CtxState) : List LinkId :=
  k.childLinks.filter fun l => !(k.children.any fun c => c.1 == l.val)

/-- When the own wave is complete and no child is missing, the merge goes to the parent, or the root holds it (R478);
`late` goes on without the missing children (R479). -/
def State.sumTry (s : State) (x : Ctx) (late : Bool) : State :=
  let k := s.ctx x
  match k.summary with
  | none => s
  | some own =>
    if !k.stepWave ∨ k.sumSentAt.isSome ∨ k.mergedAt.isSome ∨ (!late && !k.missing.isEmpty) then s
    else if k.isRoot then s.onCtx x fun k => { k with mergedAt := some s.now }
    else
      (s.sendControl (Fin.ofNat 48 k.parent) ((k.merged own).word x)).onCtx x fun k => { k with sumSentAt := some s.now }

/-- The records of a fault report: at most eight, lasting ones first (R651). -/
def reportRecords (l : List ElogRecord) : List ElogRecord :=
  ((l.filter fun r => r.state != 0) ++ l.filter fun r => r.state == 0).take 8

/-- The fault report after a step-end wave (R651). -/
def State.faultReport (s : State) (x : Ctx) : State :=
  let rs := reportRecords (s.ctx x).runRecords
  if (s.ctx x).isRoot then s.onCtx x fun k => { k with reported := k.reported ++ [s.self] }
  else s.lumefSend (s.mgPacket (s.rootOf x) false x 0 (0xE000 + rs.length) 0 0 (rs.flatMap ElogRecord.bytes))

/-- What follows the step-end wave, once. -/
def State.afterWave (s : State) (x : Ctx) : State :=
  if (s.ctx x).waveDoneAt.isSome then s.sumTry x false
  else
    (((s.scanFaults x).faultReport x).onCtx x fun k => { k with waveDoneAt := some s.now }).sumTry x false

/-- GONG_WAVE_COMPLETE (R473 to R476): 20 ac after the last arrival at the next Gong; when every participant has ended, it
is the step-end wave. -/
def execGongWaveComplete (x : Ctx) (s : State) : Host.Outcome State Fault Refusal :=
  .next (
    let k := s.ctx x
    let cs := s.coresOfCtx x
    if !k.active then s
    else if k.stepWave then s.afterWave x
    else
      let at_ := cs.map fun c => (s.core c).arrivedAt k.gongsDone
      if cs.isEmpty ∨ at_.any (fun a => a.isNone) then s
      else
        let last := maxNat (at_.filterMap id)
        if s.ac < last + 20 then s
        else if s.allEnded cs then ((s.capture x cs).onCtx x fun k => { k with waveAt := some s.ac }).afterWave x
        else s.onCtx x fun k =>
          { k with gongsDone := k.gongsDone + 1, waveAt := some s.ac, releaseAt := some (last + 28) })

/-- A core leaves its GONG in the mode that the GONG selected (R195). -/
def Core.releaseGong (k : Core) (now : Nat) : Core :=
  if k.hold = holdGong then
    { k with mode := if k.gongMode = some true then .slack else .lockstep
             gongMode := none, hold := 0, heldSince := none, issueFrom := now }
  else k

/-- GONG_RELEASE (R195, R475): the release ac is 28 ac after the last arrival. -/
def execGongRelease (x : Ctx) (s : State) : Host.Outcome State Fault Refusal :=
  .next (
    match (s.ctx x).releaseAt with
    | some t =>
      if s.ac < t then s
      else
        ((s.coresOfCtx x).foldl (fun s c => s.onCore c fun k => k.releaseGong s.ac) s).onCtx x fun k =>
          { k with releaseAt := none }
    | none => s)

/-- GONG_SUM (R478, R490). -/
def execGongSum (x : Ctx) (l : LinkId) (m : GongSummary) (s : State) : Host.Outcome State Fault Refusal :=
  .next (
    if (s.ctx x).gtchild.getLsbD l.val then
      (s.onCtx x fun k => { k with children := (k.children.filter fun c => c.1 != l.val) ++ [(l.val, m)] }).sumTry x false
    else s)

/-- The 64-bit count nearest this module's own whose low 48 bits are the field (R556). -/
def nearestCount (car a : Nat) : Nat :=
  let b := car / 2 ^ 48 * 2 ^ 48 + a
  if b + 2 ^ 47 < car then b + 2 ^ 48
  else if car + 2 ^ 47 < b ∧ 2 ^ 48 ≤ b then b - 2 ^ 48
  else b

/-- The notice goes to every child, and this module will act on it (R478). -/
def State.takeNotice (s : State) (x : Ctx) (n : GongNotice) (action : Nat) : State :=
  ((s.ctx x).childLinks.foldl (fun s l => s.sendControl l (n.word x)) s).onCtx x fun k =>
    { k with notice := some n, actionAt := action }

def decCommit : Byte := 1
def decReplay : Byte := 2
def decReport : Byte := 3

/-- A module that is not the root knows the episode from the notice (R650, R654). -/
def CtxState.hear (k : CtxState) (n : GongNotice) (policy : List (BitVec 16 × List Byte)) : CtxState :=
  if n.episode = 0 then k
  else
    match k.episode with
    | some e => { k with episode := some { e with number := n.episode, failures := k.replay + 1 } }
    | none => { k with episode := some ⟨n.episode, k.replay + 1, false, false, [], policy, []⟩ }

/-- GONG_DEC (R478, R556). -/
def execGongDec (x : Ctx) (n : GongNotice) (s : State) : Host.Outcome State Fault Refusal :=
  .next ((s.onCtx x fun k => k.hear n s.mod.policy).takeNotice x n (nearestCount s.car n.action.toNat))

/-- A GONG_LINK fault on a tree edge (R629, R634). -/
def State.gongLinkFault (s : State) (x : Ctx) (l : LinkId) : State :=
  s.fault clsGongLink l.val false (unitIo (ioOf l)) x l.val (.link l)

/-- GONG_TIMEOUT (R479): a child's summary, or the notice after the own summary, is missing beyond FAB_TIMEOUT. -/
def execGongTimeout (x : Ctx) (s : State) : Host.Outcome State Fault Refusal :=
  .next (
    let k := s.ctx x
    let sync (s : State) (late : Bool) : State :=
      (s.raise .clk 0x18 2).onCtx x fun k => { k with gongFault := true, noticeLate := late }
    if !k.active then s else
    match k.waveDoneAt, k.sumSentAt with
    | some t, none =>
      if k.mergedAt.isSome ∨ k.missing.isEmpty ∨ !s.over t s.fabTimeout then s
      else (k.missing.foldl (fun s l => s.gongLinkFault x l) (sync s false)).sumTry x true
    | _, some t =>
      if k.notice.isSome ∨ k.noticeLate ∨ !s.over t s.fabTimeout then s
      else (sync s true).gongLinkFault x (Fin.ofNat 48 k.parent)
    | none, none => s)

/-! ### Fault reports (R651) -/

/-- FAULT_REPORT (R651, R654). -/
def execFaultReport (x : Ctx) (e : Endpoint) (records : List ElogRecord) (s : State) : Host.Outcome State Fault Refusal :=
  .next (
    if (s.ctx x).active ∧ (s.ctx x).isRoot then
      s.onCtx x fun k =>
        { k with reported := if k.reported.contains e then k.reported else k.reported ++ [e]
                 runRecords := k.runRecords ++ records }
    else s)

/-- A module without a report counts as a FAB_TIMEOUT event at its endpoint. -/
def State.noReport (s : State) (x : Ctx) (e : Endpoint) : State :=
  if (s.ctx x).reported.contains e then s
  else (s.timeoutEvent x e.toNat).onCtx x fun k => { k with reported := k.reported ++ [e] }

def State.reportsLate (s : State) (x : Ctx) : Bool :=
  match (s.ctx x).mergedAt with | some t => (s.ctx x).active && decide (1000 ≤ s.sinceUs t) | none => false

/-- FAULT_REPORT_TIMEOUT (R651). -/
def execFaultReportTimeout (x : Ctx) (e : Endpoint) (s : State) : Host.Outcome State Fault Refusal :=
  .next (if s.reportsLate x ∧ (s.modulesOf x).contains e then s.noReport x e else s)

/-! ### Suspects and exclusion (R652, R657) -/

def moduleClass (c : Nat) : Bool := c == clsKnell || c == clsFabTimeout

/-- The module, die or link that a record names. -/
def ElogRecord.names (r : ElogRecord) : Suspect :=
  let c := r.cls.toNat
  if moduleClass c then .module (BitVec.ofNat 16 r.location.toNat)
  else if linkClass c then .link r.endpoint (r.location.toNat % 2 ^ 48)
  else if r.unit.toNat < 12 then .die r.endpoint r.unit.toNat
  else .module r.endpoint

/-- A record of a lasting module, die or link fault. -/
def ElogRecord.suspects (r : ElogRecord) : Bool :=
  let c := r.cls.toNat
  r.state != 0 && (moduleClass c || linkClass c || c == clsDieFatal)

/-- The unit named in the most records; on a tie, in the earliest (R652). -/
def mostNamed (l : List ElogRecord) : Option Suspect :=
  let n := l.map ElogRecord.names
  n.foldl (fun b q =>
    match b with
    | none => some q
    | some p => if n.count p < n.count q then some q else some p) none

/-- The dies of a context that Lumef has withdrawn from placement (R654). -/
def State.withdrawnOf (s : State) (x : Ctx) : List Suspect :=
  ((s.diesOf x).filter fun d => s.mod.withdrawn.getLsbD d.val).map fun d => .die s.self d.val

/-- What a suspect takes from placement. -/
def Suspect.lost : Suspect → Option Endpoint
  | .module e => some e
  | .die e _ => some e
  | .link _ _ => none

/-- A link at either end of which this module sits. -/
def State.linkEnds (s : State) (e : Endpoint) (l : Nat) : List LinkId :=
  (List.finRange 48).filter fun k =>
    (e == s.self && k.val == l) || ((s.link k).peerEp == e && bits (s.link k).peer.toNat 5 0 == l)

/-- R657. -/
def State.exclude (s : State) : Suspect → State
  | .link e l => (s.linkEnds e l).foldl (fun s k => s.onLink k fun q => { q with cfg := q.cfg &&& 0x7FFFFFFF }) s
  | .die e d =>
    if e = s.self ∧ d < 12 then (s.release (Fin.ofNat 12 d)).withdraw (Fin.ofNat 12 d) else s
  | .module e => s.repair (.module e)

/-- Ranks whose owner is lost pass to their replicas; none when a lost rank has no replica left (R657, R659). -/
def replaceRanks (lost : List Endpoint) : List RankPlace → Option (List RankPlace)
  | [] => some []
  | r :: t =>
    match replaceRanks lost t with
    | none => none
    | some t' =>
      if lost.contains r.endpoint then
        match r.replicas.filter fun e => !lost.contains e with
        | e :: rest => some ({ r with endpoint := e, replicas := rest } :: t')
        | [] => none
      else some (r :: t')

/-- RESUBMIT to the host driver of the context's function (R658). -/
def State.resubmit (s : State) (x : Ctx) (step peal : Nat) (episode : Word64) : State :=
  s.mailTo (fnOf (s.ctxEncl x)) 0x8004 0
    ([x] ++ leBytes 3 0 ++ leBytes 4 step ++ leBytes 8 peal ++ leBytes 8 episode.toNat)

/-! ### The decision (R491, R492, R649 to R654, R666, R668) -/

/-- The Peal that a REPLAY names: at most 2 ms ahead (R656), or at least 1.2 s ahead when the step is submitted again (R658). -/
def State.replayPeal (s : State) (peal : Word64) : Word64 := BitVec.ofNat 64 (Nat.min peal.toNat (s.car + 2000000))
def State.resubmitPeal (s : State) (peal : Word64) : Word64 := BitVec.ofNat 64 (Nat.max peal.toNat (s.car + 1200000000))

/-- CLK_CARCFG.hop_pad in ns (R504). -/
def State.hopPad (s : State) : Nat := 10 * s.fld .clk 0x0C 7 0

/-- The root sends its notice (R478, R492, R556). -/
def State.announce (s : State) (x : Ctx) (dec : Byte) (reason : Nat) (m : GongSummary) (peal : Word64) : State :=
  let a := s.car + (s.ctx x).dmax * s.hopPad
  s.takeNotice x
    ⟨dec, m.flags &&& 0x7F, BitVec.ofNat 8 reason, m.modules, if dec = decReplay then peal else 0, s.episodeNo x,
      BitVec.ofNat 48 a⟩ a

/-- An episode opens, or its next run has failed (R649, R650, R652). -/
def State.openEpisode (s : State) (x : Ctx) : State :=
  let k := s.ctx x
  let s := if k.episode.isNone then s.onMod fun m => { m with episodes := m.episodes + 1 } else s
  let e := match k.episode with
    | some e => e
    | none => ⟨BitVec.ofNat 64 (s.self.toNat * 2 ^ 48 + s.mod.episodes % 2 ^ 48), 0, false, false, [], s.mod.policy, []⟩
  let lasting := (k.runRecords.filter ElogRecord.suspects).map ElogRecord.names ++ s.withdrawnOf x
  s.onCtx x fun k =>
    { k with episode := some { e with failures := e.failures + 1, records := e.records ++ k.runRecords, replaying := false
                                      exclusion := (e.exclusion ++ lasting).eraseDups } }

/-- REPLACING: exclusion, re-placement and RESUBMIT; without a replica the step is reported (R657 to R659). -/
def State.replaceStep (s : State) (x : Ctx) (m : GongSummary) (peal : Word64) (ex : List Suspect) : State :=
  match replaceRanks (ex.filterMap Suspect.lost) (s.ctx x).ranks with
  | none => s.announce x decReport 1 m peal
  | some ranks =>
    let step := (s.ctx x).step
    let s := s.retireStep x step
    let s := s.resubmit x step.toNat peal.toNat (s.episodeNo x)
    let s := ex.foldl (fun s q => s.exclude q) s
    let s := (s.setRanks x ranks).onCtx x fun k =>
      { k with replaced := true
               episode := k.episode.map fun e => { e with replacing := true, exclusion := [] } }
    s.announce x decReplay 0 m peal

/-- The decision on a run that ended not clean (R492, R652, R653). -/
def State.decideDirty (s : State) (x : Ctx) (m : GongSummary) (peal : Word64) : State :=
  let run := (s.ctx x).runRecords
  let s := s.openEpisode x
  let e := match (s.ctx x).episode with | some e => e | none => ⟨0, 0, false, false, [], [], []⟩
  let limit := replayLimit e.policy
  if m.keyLo ≠ m.keyHi then (s.raise .clk 0x18 0).announce x decReport 2 m peal
  else if (run.any fun r => policyAction e.policy r.cls.toNat == 2) ∨ (s.ctx x).entriesLost then s.announce x decReport 1 m peal
  else if limit + 1 ≤ e.failures then s.announce x decReport 3 m peal
  else if !e.exclusion.isEmpty then s.replaceStep x m (s.resubmitPeal peal) e.exclusion
  else if limit ≤ e.failures then
    match mostNamed e.records with
    | some q => s.replaceStep x m (s.resubmitPeal peal) [q]
    | none => s.announce x decReplay 0 m (s.replayPeal peal)
  else s.announce x decReplay 0 m (s.replayPeal peal)

/-- STEP_DECIDE (R491, R492, R651, R652, R666, R668): the root decides while it holds a lease; a step that was open when the
lease was lost is reported.  `peal` is the new Peal count that a REPLAY would name. -/
def execStepDecide (x : Ctx) (peal : Word64) (s : State) : Host.Outcome State Fault Refusal :=
  .next (
    let k := s.ctx x
    match k.mergedAt, k.summary with
    | some _, some own =>
      let waiting := (s.modulesOf x).filter fun e => !k.reported.contains e
      if !k.active ∨ k.notice.isSome ∨ !s.leased ∨ (!waiting.isEmpty && !s.reportsLate x) then s
      else
        let s := waiting.foldl (fun s e => s.noReport x e) s
        let m := k.merged own
        if k.fencedOpen then s.announce x decReport 4 m peal
        else if m.clean then s.announce x decCommit 0 m peal
        else s.decideDirty x m peal
    | _, _ => s)

/-! ### The actions (R493 to R495, R498, R500) -/

/-- Insertion in ascending order of a key. -/
def insertBy {α : Type} (key : α → Nat) (a : α) : List α → List α
  | [] => [a]
  | b :: t => if key a < key b then a :: b :: t else b :: insertBy key a t
def sortBy {α : Type} (key : α → Nat) (l : List α) : List α := l.foldl (fun t a => insertBy key a t) []

/-- Frames in ascending sequence number, each after its number (R500, R607). -/
def frameDigest (l : List (Word64 × List Byte)) : Digest :=
  sha384 ((sortBy (fun f => f.1.toNat) l).flatMap fun f => leBytes 8 f.1.toNat ++ f.2)

def State.weightsDigest (s : State) (x : Ctx) : Digest :=
  sha384 ((sortBy (fun h => h.number) (s.ctx x).shards).flatMap fun h => digestBytes h.digest)
def State.outputDigest (s : State) (x : Ctx) : Digest :=
  frameDigest ((s.mod.frames.filter fun f => f.context == x && !f.released).map fun f => (f.seq, f.data))

/-- The body of a STEP entry from byte 32 (R498). -/
def State.stepBody (s : State) (x : Ctx) (n : GongNotice) (outcome reason : Nat) : List Byte :=
  let k := s.ctx x
  let loc := match k.summary with | some m => m.flags.toNat % 128 | none => 0
  leBytes 4 k.step.toNat ++ leBytes 2 n.modules.toNat ++ leBytes 2 k.replay ++ leBytes 1 outcome ++ leBytes 1 loc ++
    leBytes 1 n.flags.toNat ++ leBytes 1 (if k.stable then 1 else 0) ++ leBytes 4 reason ++ leBytes 8 k.seed.toNat ++
    leBytes 8 k.peal.toNat ++ digestBytes k.program ++ digestBytes k.fixup ++ digestBytes (s.weightsDigest x) ++
    digestBytes (frameDigest k.inputs) ++ digestBytes (s.outputDigest x) ++ digestBytes (s.digestReg .sec 0x40) ++
    leBytes 8 n.episode.toNat

/-- Action 1: the STEP entry and the STEP record that names it (R493, R498, R611, R613). -/
def State.stepEntry (s : State) (x : Ctx) (n : GongNotice) (outcome reason : Nat) : State :=
  let e := s.ctxEncl x
  let s := s.genesis e
  let k := s.ctx x
  let i := (s.chain e).next
  let s := s.append e tyStep x.toNat (s.stepBody x n outcome reason)
  match k.ring with
  | some (v, r) =>
    let flags := (if bitAt n.flags.toNat 2 then 2 else 0) + (if outcome = 1 then 8 else 0)
    s.onRing v r fun q =>
      { q with records := q.records ++ [(x, k.step, leBytes 1 flags ++ leBytes 2 k.replay ++ leBytes 4 k.step.toNat ++
          leBytes 8 i ++ leBytes 1 outcome ++ leBytes 1 n.flags.toNat ++ leBytes 1 reason)] }
  | none => s

/-- COMMIT or ROLLBACK to the page manager of every die of a context (R394, R396). -/
def State.pgmAll (s : State) (x : Ctx) (op : Nat) : State :=
  (s.diesOf x).foldl (fun s d => s.pgmPush d (BitVec.ofNat 64 (op * 2 ^ 60))) s
def pgmCommitOp : Nat := 14
def pgmRollbackOp : Nat := 15

/-- The close of an episode is logged by its root (R652). -/
def State.closeEpisode (s : State) (x : Ctx) (outcome reason : Nat) : State :=
  let k := s.ctx x
  match k.episode with
  | some e =>
    let s := if k.isRoot then
        s.elogAppend (s.record clsEpisodeEnd 0 false unitModule x 1
          (outcome + reason * 2 ^ 8 + k.replay % 65536 * 2 ^ 16 + e.failures % 65536 * 2 ^ 32)) else s
    s.onCtx x fun k => { k with episode := none }
  | none => s

/-- No die counts a step as launched (R603). -/
def State.unlaunch (s : State) (x : Ctx) : State :=
  (s.diesOf x).foldl (fun s d => s.onDie d fun k => { k with launched := none }) s

/-- The step is over on this module; its summary and notice stay in CLK_STEPSUM until the next launch. -/
def State.closeStep (s : State) (x : Ctx) : State :=
  ((s.diesOf x).foldl (fun s d => s.cmdBoundary d) (s.unlaunch x)).onCtx x fun k =>
    { k with active := false, replay := 0, nextPeal := none, inputs := [], firstInputs := [], replaced := false
             hostLost := false, entriesLost := false, fencedOpen := false, lastOfJob := false, runRecords := []
             ring := none }

/-- A job's last step is followed by a SIGN entry (R501). -/
def State.signLast (s : State) (x : Ctx) : State :=
  if (s.ctx x).lastOfJob then s.appendSign (s.ctxEncl x) else s

/-! ### The planned removal (R625, R659) -/

def hasWork (k : CtxState) : Bool := k.active || k.nextPeal.isSome

/-- A context is handed over: its ranks pass to replicas, RESUBMIT names the next step, and its dies are released. -/
def State.handOver (s : State) (x : Ctx) : State :=
  let k := s.ctx x
  let s := s.resubmit x (k.step.toNat + 1) (s.car + 1200000000) 0
  let s := match replaceRanks [s.self] k.ranks with | some r => s.setRanks x r | none => s
  (s.diesOf x).foldl (fun s d => s.release d) s

/-- Every die is free: the module's vote weight goes, admit is cleared on its links, and DRAIN_DONE is sent. -/
def State.drainEnd (s : State) (q : Bool × Word32) : State :=
  let s := s.onMod fun m => { m with weights := Store.set 0 m.weights s.self.toNat 0, draining := none }
  let s := (List.finRange 48).foldl (fun s l => s.onLink l fun k => { k with cfg := k.cfg &&& 0xBFFFFFFF }) s
  if q.1 then s.emit (.pldm (leBytes 4 q.2.toNat)) else s.mailTo 0 0x8005 q.2.toNat []

/-- The drain moves on: contexts without a step in flight are handed over, and it ends once no die is OWNED or
CLEARING. -/
def State.drainAdvance (s : State) : State :=
  match s.mod.draining with
  | none => s
  | some q =>
    let idle := (List.finRange 256).filter fun x =>
      let c : Ctx := BitVec.ofNat 8 x.val
      !(s.diesOf c).isEmpty && !hasWork (s.ctx c)
    let s := idle.foldl (fun s x => s.handOver (BitVec.ofNat 8 x.val)) s
    if (List.finRange 12).all fun d => s.dieState d != dieOwned && s.dieState d != dieClearing then s.drainEnd q else s

/-- DRAIN_REQ (R659). -/
def execDrainReq (tag : Word32) (s : State) : Host.Outcome State Fault Refusal :=
  .next (((s.mailTaken 0).onMod fun m => { m with draining := some (false, tag) }).drainAdvance)

/-- PLDM_DRAIN (R715); RECOVERY serves no drain (R675). -/
def execPldmDrain (s : State) : Host.Outcome State Fault Refusal :=
  .next (if s.stage = stRecovery then s else (s.onMod fun m => { m with draining := some (true, 0) }).drainAdvance)

/-- CLEAR_COMPLETE (R362, R365): a drain ends with the last clear. -/
def execClearComplete (d : DieId) (s : State) : Host.Outcome State Fault Refusal :=
  .next (if s.dieState d ≠ dieClearing then s else (s.clearComplete d).drainAdvance)

/-! ### COMMIT, REPLAY, REPORT -/

/-- The notice of a decision whose action count has come. -/
def State.dueAction (s : State) (x : Ctx) (dec : Byte) : Option GongNotice :=
  match (s.ctx x).notice with
  | some n => if (s.ctx x).active ∧ n.decision = dec ∧ (s.ctx x).actionAt ≤ s.car then some n else none
  | none => none

/-- A full chain holds the commit (R503). -/
def State.chainFull (s : State) (e : Encl) : Bool := decide (unackedMax ≤ (s.chain e).entries.length)
def State.setHold (s : State) (e : Encl) (v : Bool) : State := s.setChain e { s.chain e with hold := v }

/-- The rest of the step's actions after the receipt entry (R493, R495, R605). -/
def State.endStep (s : State) (x : Ctx) (op : Nat) (reported : Bool) (outcome reason : Nat) : State :=
  let s := s.pgmAll x op
  let s := s.retireStep x (s.ctx x).step
  let s := s.releaseFrames x reported
  let s := (s.signLast x).closeEpisode x outcome reason
  (s.closeStep x).drainAdvance

def State.reportStep (s : State) (x : Ctx) (n : GongNotice) (reason : Nat) : State :=
  (s.stepEntry x n 1 reason).endStep x pgmRollbackOp true 1 reason

/-- A lease has at least 10 ms left (R666). -/
def State.leaseLong (s : State) : Bool := decide (s.car + 10000000 ≤ s.mod.leaseUntil)

/-- STEP_COMMIT (R493, R503, R666). -/
def execStepCommit (x : Ctx) (s : State) : Host.Outcome State Fault Refusal :=
  .next (
    match s.dueAction x decCommit with
    | none => s
    | some n =>
      let e := s.ctxEncl x
      if !s.leased then s
      else if s.chainFull e then s.setHold e true
      else
        let s := s.setHold e false
        if !s.leaseLong ∨ (s.ctx x).fencedOpen then s.reportStep x n 4
        else (s.stepEntry x n 0 0).endStep x pgmCommitOp false 0 0)

/-- STEP_REPLAY (R494, R605). -/
def execStepReplay (x : Ctx) (s : State) : Host.Outcome State Fault Refusal :=
  .next (
    match s.dueAction x decReplay with
    | none => s
    | some n =>
      let s := (s.discardFrames x).pgmAll x pgmRollbackOp
      let s := (s.rereadStep x (s.ctx x).step).unlaunch x
      s.onCtx x fun k =>
        { k with active := false, summary := none, stepWave := false, notice := none, mergedAt := none, sumSentAt := none
                 waveDoneAt := none, children := [], inputs := [], nextPeal := some n.peal, replay := k.replay + 1
                 gongFault := false, noticeLate := false
                 episode := k.episode.map fun e => { e with replaying := true, replacing := false } })

/-- STEP_REPORT (R495, R503, R668). -/
def execStepReport (x : Ctx) (s : State) : Host.Outcome State Fault Refusal :=
  .next (
    match s.dueAction x decReport with
    | none => s
    | some n =>
      let e := s.ctxEncl x
      if !s.leased then s
      else if s.chainFull e then s.setHold e true
      else (s.setHold e false).reportStep x n n.reason.toNat)

end Sys2Proof.Machine
end

