-- ==== Sys2Proof/Machine/Census.lean ====
section
/-! DEFINITION. The census, quorum, leases, exclusion of modules and the Knell (R654, R660 to R668). -/

namespace Sys2Proof.Machine

/-! ### Quorum (R663 to R666) -/

/-- The module's component: the endpoints heard within 10 ms of its own census, itself included (R664). -/
def State.component (s : State) : List (Nat × Nat) :=
  (s.self.toNat, s.ownWeight) ::
    ((s.mod.heard.filter fun h =>
      h.1 != s.self.toNat && s.mod.lastCensus < h.2.1 + 100000000 && h.2.1 ≤ s.mod.lastCensus + 100000001).map fun h => (h.1, h.2.2))

/-- W: the weights of the modules admitted in the configuration. -/
def State.totalWeight (s : State) : Nat := s.mod.weights.foldl (fun n w => n + w.2.toNat) 0

/-- A component with V > W/2, or V = W/2 and the tie-breaker (R665). -/
def State.quorum (s : State) : Bool :=
  let v := s.component.foldl (fun n h => n + h.2) 0
  decide (s.totalWeight < 2 * v) ||
    (decide (s.totalWeight = 2 * v) && s.component.any fun h => h.1 == s.mod.tieBreaker.toNat)

/-- A census that finds quorum renews the lease, unless the module is fenced (R662, R666, R668). -/
def State.judgeQuorum (s : State) : State :=
  let q := s.quorum
  s.onMod fun m =>
    { m with quorumNow := q
             leaseUntil := if q && !m.fenced && decide (s.now ≤ m.lastCensus + 100000000) then m.censusCar + s.tLease
                           else m.leaseUntil }

/-- The modules of the configuration that the last census missed, with the count of the first census that missed each
(R667). -/
def State.noteMissed (s : State) : State :=
  let c := s.component
  s.onMod fun m =>
    { m with missed := m.weights.foldl (fun t w =>
        if c.any fun h => h.1 == w.1 then Store.set 0 t w.1 0
        else if Store.get 0 t w.1 = 0 then Store.set 0 t w.1 (m.censusCar + 1) else t) m.missed }

/-- A fenced module, or one that joins a running fabric, asks a neighbour for the records (R697). -/
def State.askRecord (s : State) : State :=
  if s.mod.fenced ∨ (s.stage = 5 ∧ !s.mod.chimeOk ∧ !s.mod.quorumNow) then
    match (List.finRange 48).find? fun l => (s.link l).state == lkActive with
    | some l => s.emit (.recordReq (s.link l).peerEp)
    | none => s
  else s

/-- CENSUS_TIMER (R664): every 100 ms; the census before it is closed first. -/
def execCensusTimer (s : State) : Host.Outcome State Fault Refusal :=
  .next (
    if s.sinceUs s.mod.lastCensus < 100000 then s
    else
      let s := if s.mod.quorumNow then s.noteMissed else s
      s.ownCensus.judgeQuorum.askRecord)

/-- CENSUS (R664 to R666): a packet whose digest bytes equal the own ones counts; a packet not yet passed on in this census
is flooded. -/
def execCensus (e : Endpoint) (weight : Byte) (dig : Word64) (s : State) : Host.Outcome State Fault Refusal :=
  .next (
    let old := Store.get ((0, 0) : Nat × Nat) s.mod.heard e.toNat
    let fresh := old.1 = 0 ∨ old.1 + 100000000 ≤ s.now + 1
    let v : Nat × Nat := if dig.toNat = s.cfgDigest8 then (s.now + 1, weight.toNat) else (0, 0)
    let s := if fresh ∧ e ≠ s.self then s.floodCensus none e.toNat weight.toNat dig.toNat else s
    (s.onMod fun m => { m with heard := Store.set (0, 0) m.heard e.toNat v }).judgeQuorum)

/-- The contexts with a step that is not decided on this module. -/
def State.openCtxs (s : State) : List Ctx :=
  (s.ctxs.filter fun k => hasWork k.2).map fun k => BitVec.ofNat 8 k.1

/-- The module fences itself: no lease, and every open step will end REPORTED with reason 0x4 (R662, R666, R668). -/
def State.fence (s : State) : State :=
  (s.openCtxs.foldl (fun s x => s.onCtx x fun k => { k with fencedOpen := true }) s).onMod fun m =>
    { m with fenced := true, leaseUntil := 0 }

/-- LEASE_EXPIRE (R629, R666). -/
def execLeaseExpire (s : State) : Host.Outcome State Fault Refusal :=
  .next (
    if s.mod.leaseUntil = 0 ∨ s.leased ∨ s.mod.fenced then s
    else s.fence.fault clsPartition 0 false unitModule noCtx 0 .none)

/-! ### Exclusion (R654, R667) -/

/-- The lowest module that remains in a context becomes its step root when the root is lost (R654). -/
def State.becomeRoot (s : State) (x : Ctx) : State :=
  if s.rootOf x = s.self ∧ (s.modulesOf x).contains s.self ∧ !(s.ctx x).isRoot then
    s.onCtx x fun k => { k with gtcfg := (k.gtcfg &&& 0xC0FFFFFF) ||| 0x3F000000 }
  else s

/-- Ranks of a lost module pass to replicas in every context; where a rank has none its place stays (R657, R667). -/
def State.replaceAll (s : State) (e : Endpoint) : State :=
  s.ctxs.foldl (fun (t : State) k =>
    let x : Ctx := BitVec.ofNat 8 k.1
    if (t.ctx x).ranks.any fun r => r.endpoint == e then
      match replaceRanks [e] (t.ctx x).ranks with
      | some rs => (t.setRanks x rs).becomeRoot x
      | none => t
    else t) s

/-- MODULE_EXCLUDE (R657, R667): T_lease + 10 ms after the census that first missed the module. -/
def execModuleExclude (e : Endpoint) (s : State) : Host.Outcome State Fault Refusal :=
  .next (
    let t := Store.get 0 s.mod.missed e.toNat
    if t = 0 ∨ !s.leased ∨ !s.mod.quorumNow ∨ e = s.self ∨ s.mod.excluded.contains e ∨
        s.car + 1 < t + s.tLease + 10000000 then s
    else (s.repair (.module e)).replaceAll e)

/-! ### The Knell (R660 to R662) -/

def knellLost : Nat := 0x80

/-- Routes to an endpoint leave the bank that is not current; the epoch procedure brings it into force (R528, R662). -/
def State.dropRoutes (s : State) (e : Endpoint) : State :=
  (List.finRange 4).foldl (fun s i =>
    let bank := s.bankTag i false == s.epoch i
    s.onRouter i fun r => { r with routes := Store.set 0 r.routes (routeKey bank e.toNat) 0 }) s

/-- The last record of the log. -/
def State.lastRecord (s : State) : List ElogRecord := match s.mod.elog.getLast? with | some r => [r] | none => []

/-- A context with a step in flight loses a module: its cores abort, the unit joins the episode, and another module becomes root
when it was the root (R654, R662). -/
def State.knellCtx (s : State) (x : Ctx) (e : Endpoint) : State :=
  let rs := s.lastRecord
  let s := if (s.ctx x).active ∧ !(s.ctx x).stepWave then
      ((s.coresOfCtx x).foldl (fun s c => s.abortCore c) s).flagStep x else s
  (s.becomeRoot x).onCtx x fun k =>
    { k with runRecords := k.runRecords ++ rs
             episode := k.episode.map fun q => { q with exclusion := (q.exclusion ++ [Suspect.module e]).eraseDups } }

/-- A Knell at a module (R661, R662). -/
def State.knell (s : State) (arrival : Option LinkId) (e : Endpoint) (cause : Nat) (count : Word64) (sender : Endpoint) :
    State :=
  if s.mod.knells.contains (e, count) then s
  else
    let s := s.onMod fun m =>
      { m with knells := m.knells ++ [(e, count)], heard := Store.set (0, 0) m.heard e.toNat (0, 0)
               queries := Store.set 0 m.queries e.toNat 0, askers := m.askers.filter fun a => a.2 != e }
    let s := s.flood arrival (0xF000 + cause) e.toNat 0 (leBytes 8 count.toNat ++ leBytes 2 sender.toNat)
    let s := s.fault clsKnell e.toNat true unitModule noCtx e.toNat (.module e)
    let s := s.dropRoutes e
    let s := (s.openCtxs.filter fun x => (s.modulesOf x).contains e).foldl (fun s x => s.knellCtx x e) s
    let s := if e = s.self then s.fence else s
    s.ownCensus

/-- KNELL (R661, R662). -/
def execKnell (arrival : Option LinkId) (e : Endpoint) (cause : Byte) (count : Word64) (sender : Endpoint) (s : State) :
    Host.Outcome State Fault Refusal := .next (s.knell arrival e cause.toNat count sender)

/-- REACH_QUERY (R660): the answer tells whether an ACTIVE link reaches the neighbour. -/
def execReachQuery (asker neighbour : Endpoint) (s : State) : Host.Outcome State Fault Refusal :=
  .next (
    let a := s.reaches neighbour
    (s.onMod fun m =>
      { m with askers := if m.askers.contains (asker, neighbour) then m.askers else m.askers ++ [(asker, neighbour)] }).emit
      (.reachAnswer asker neighbour a))

/-- KNELL_QUERY_TIMEOUT (R660): no neighbour answered within 10 ms; the lowest asking module with a lease sends the
Knell. -/
def execKnellQueryTimeout (e : Endpoint) (s : State) : Host.Outcome State Fault Refusal :=
  .next (
    let q := Store.get 0 s.mod.queries e.toNat
    if q = 0 ∨ s.now + 1 < q + 100000000 ∨ s.reaches e ∨ !s.leased ∨
        s.mod.askers.any fun a => a.2 == e && decide (a.1.toNat < s.self.toNat) then s
    else s.knell none e knellLost (BitVec.ofNat 64 s.car) s.self)

end Sys2Proof.Machine
end

