-- ==== Sys2Proof/Machine/Maintain.lean ====
section
/-! DEFINITION. Upkeep by Lumef: the error log's readers, the corrected-error logs, scrub deadlines, shard verification,
maintenance windows and self-tests (R631, R633, R636, R642 to R648, R670, R715). -/

namespace Sys2Proof.Machine

/-! ### The error log (R631, R670, R715) -/

def State.elogPop (s : State) (n : Nat) : State := s.onMod fun m => { m with elog := m.elog.drop n }

/-- MC_ELOGPOP (R670, R740): the management controller and the PF write it. -/
def execMcElogpop (p : Path) (s : State) : Host.Outcome State Fault Refusal :=
  .next (if Blk.mc.writable 0x104 p then s.elogPop 1 else s)

/-- GET_ELOG (R715): up to eight records from the oldest. -/
def execGetElog (tag : Word32) (s : State) : Host.Outcome State Fault Refusal :=
  .next (s.emit (.pldm (leBytes 4 tag.toNat ++ (s.mod.elog.take 8).flatMap ElogRecord.bytes)))

/-- POP_ELOG (R715): 1 to 8 records. -/
def execPopElog (n : BitVec 4) (s : State) : Host.Outcome State Fault Refusal :=
  .next (if 1 ≤ n.toNat ∧ n.toNat ≤ 8 then s.elogPop n.toNat else s)

/-! ### Corrected-error logs (R366, R629, R633, R634) -/

/-- The context that holds a die, for a record. -/
def State.recCtx (s : State) (d : DieId) : Ctx := if s.dieState d = dieOwned then s.dieCtx d else noCtx

/-- One record of MX_CELOG. -/
def State.ceRecord (s : State) (c : CoreId) (r : CeRec) : State :=
  let u := (dieOf c).val
  let x := s.recCtx (dieOf c)
  let layer := r.addr / 8 % 2
  let row := bits r.addr 21 8
  if r.kind = 0 then
    s.fault clsCeWs (c.val * 2 ^ 22 + row * 2 + layer) (r.bits == 2) u x (locLogical c r.addr) (.wsRow c layer row)
  else if r.kind = 1 then s.fault clsCeAm (s.physKey c) false u x (s.locPhysical c r.addr) (.core c)
  else s.fault clsCePsm (s.physKey c) false u x (s.locPhysical c r.addr) (.core c)

/-- A set ce_lost counts as one CE_AM event, and Lumef clears it. -/
def State.ceLost (s : State) (c : CoreId) : State :=
  if s.fld (.mx c) 0x40 6 6 = 1 then
    (s.fault clsCeAm (s.physKey c) false (dieOf c).val (s.recCtx (dieOf c)) (s.locPhysical c 0) (.core c)).setFld (.mx c)
      0x40 6 6 0
  else s

def State.ceCore (s : State) (c : CoreId) : State :=
  let l := (s.core c).ceLog
  (l.foldl (fun s r => s.ceRecord c r) (s.onCore c fun k => { k with ceLog := [] })).ceLost c

/-- CE_LOG_POLL (R633). -/
def execCeLogPoll (d : DieId) (s : State) : Host.Outcome State Fault Refusal :=
  .next (
    let s := (coresOf d).foldl (fun s c => s.ceCore c) s
    let l := (s.pgm d).ceLog
    l.foldl (fun (s : State) r =>
      s.fault clsCeCs (d.val * 2 ^ 20 + rowKey r.kind r.addr) false d.val (s.recCtx d) (rowKey r.kind r.addr)
        (.csRow d r.kind r.addr)) (s.onPgm d fun p => { p with ceLog := [] }))

/-! ### Aborts by Lumef -/

/-- The cores of a list abandon the context's step, which ends not clean (R642, R643, R655). -/
def State.abortStep (s : State) (x : Ctx) (cs : List CoreId) : State :=
  if (s.ctx x).active ∧ !(s.ctx x).stepWave then (cs.foldl (fun s c => s.abortCore c) s).flagStep x else s

/-! ### Scrub deadlines (R642, R645) -/

/-- MAINT_REQ to the function of a context. -/
def State.maintReq (s : State) (x : Ctx) (cause deadline lenUs : Nat) : State :=
  s.mailTo (fnOf (s.ctxEncl x)) 0x8003 0
    ([x] ++ leBytes 1 cause ++ leBytes 6 0 ++ leBytes 8 deadline ++ leBytes 4 lenUs)

/-- Whether no Peal of a context falls on a die within the gap that a pass needs, 400 µs (R642). -/
def State.pealFar (s : State) (d : DieId) : Bool :=
  match (s.die d).armed with | some a => decide (s.car + 400000 ≤ a.peal.toNat) | none => true

/-- SCRUB_DEADLINE (R642): a pass not complete after 480 s is made up at once in a gap between the steps of the context or in a
window, and asks for a window otherwise; a step launched after 570 s is aborted. -/
def execScrubDeadline (c : CoreId) (s : State) : Host.Outcome State Fault Refusal :=
  .next (
    let t0 := (s.core c).wsPassT0
    let d := dieOf c
    let x := s.recCtx d
    if s.scrubStops d ∨ s.car < t0 + 480000000000 then s
    else if x = noCtx ∨ (!(s.ctx x).active ∧ s.pealFar d) ∨ (s.ctx x).maintOpen then s.wsScrubShare c
    else if s.car < t0 + 570000000000 then s.maintReq x 1 (t0 + 570000000000) 315
    else if !(s.ctx x).active ∨ (s.ctx x).peal.toNat < t0 + 570000000000 then s
    else
      ((s.abortStep x (coresOf d)).wsScrubShare c).fault clsScrubLate c.val false d.val x (locLogical c 0) .none)

/-! ### Shard verification (R643) -/

/-- The first present shard at a core whose period has passed, with its context. -/
def State.shardDue (s : State) (c : CoreId) : Option (Ctx × ShardRec) :=
  let x := s.recCtx (dieOf c)
  ((s.ctx x).shards.find? fun h =>
    h.core == c.val && h.present && decide (h.lastOk.toNat + 1000000000 * s.verifySeconds ≤ s.car)).map fun h => (x, h)

/-- A record of another time. -/
def State.digestRecord (s : State) (x : Ctx) (h : ShardRec) (at_ : Word64) : State :=
  s.logRecord { s.record clsDigest 0 false (h.core / 64) x 1 h.number with carillon := at_ }

/-- SHARD_VERIFY_PERIOD (R643): `found` is the digest that the VERIFY job of the period took over the shard. -/
def execShardVerifyPeriod (c : CoreId) (found : Digest) (s : State) : Host.Outcome State Fault Refusal :=
  .next (
    match s.shardDue c with
    | none => s
    | some (x, h) =>
      if found = h.digest then
        s.onCtx x fun k => { k with shards := k.shards.map fun g =>
          if g.number = h.number then { g with lastOk := BitVec.ofNat 64 s.car } else g }
      else
        (((s.abortStep x (s.coresOfCtx x)).unpresent x h.number).fault clsDigest h.number false (h.core / 64) x h.number (.shard x h.number)).digestRecord
          x h h.lastOk)

/-! ### Maintenance windows (R644) -/

/-- MAINT_WINDOW_START (R644): the queued maintenance of the context's dies may run. -/
def execMaintWindowStart (x : Ctx) (s : State) : Host.Outcome State Fault Refusal :=
  .next (
    match (s.ctx x).maint with
    | some (t, _) => if t.toNat ≤ s.car then s.onCtx x fun k => { k with maintOpen := true } else s
    | none => s)

/-- MAINT_WINDOW_END (R644): what is unfinished stays in its queue. -/
def execMaintWindowEnd (x : Ctx) (s : State) : Host.Outcome State Fault Refusal :=
  .next (
    match (s.ctx x).maint with
    | some (t, n) =>
      if t.toNat + 1000 * n.toNat ≤ s.car then s.onCtx x fun k => { k with maint := none, maintOpen := false } else s
    | none => s)

/-! ### Self-tests (R646 to R648) -/

def outPassed : Nat := 0
def outFailed : Nat := 1
def outDeferred : Nat := 2

/-- SELFTEST_DONE to the mailbox that sent the request (R648). -/
def State.testDone (s : State) (q : TestReq) (o : TestOrigin) (outcome : Nat) : State :=
  match o with
  | .pf =>
    s.mailTo 0 0x8009 q.tag.toNat (leBytes 1 outcome ++ [q.kind, q.unit] ++ leBytes 5 0 ++ leBytes 8 s.car)
  | .pldm | .lumef => s

/-- What a LOGIC test leaves in the activation memory, the partial-sum memory and the tile buffers of a core is open. -/
def State.scramble (s : State) (c : CoreId) : State :=
  let f := s.free
  let line (i : Nat) : List Byte := leBytes 64 (Config.freeNat (f + i))
  let s := (List.range 65536).foldl (fun s i => s.amSet c (64 * i) (line i)) s
  let s := (List.range 32768).foldl (fun s i => s.psmBytesSet (psmBase c + 64 * i) (line (65536 + i))) s
  let s := (List.range 8192).foldl (fun s i => s.tbSet (1024 * tbKey c 0 0 + 64 * i) (line (98304 + i))) s
  s.draw 106496

/-- Whether a request may run on a die: no context holds it, or a window of its context is open (R647). -/
def State.mayTest (s : State) (d : DieId) : Bool :=
  if s.dieState d = dieOwned then (s.ctx (s.dieCtx d)).maintOpen else s.dieState d == dieClean

/-- SELFTEST_RUN (R646, R648): the head of a die's queue. -/
def execSelftestRun (d : DieId) (passed : Bool) (s : State) : Host.Outcome State Fault Refusal :=
  .next (
    match (s.die d).tests with
    | [] => s
    | (q, o) :: rest =>
      if !s.mayTest d then s
      else
        let s := if q.kind = 1 then (coresOf d).foldl (fun s c => s.scramble c) s else s
        let s := if passed then s
          else s.fault clsSelftest (4096 + d.val) false d.val noCtx (d.val * 2 ^ 54) (.die d)
        let out := (if passed then outPassed else outFailed) + if (s.die d).handed then 3 else 0
        (s.onDie d fun k => { k with tests := rest, handed := false }).testDone q o out)

/-- A request that did not run by its deadline (R647). -/
def State.deferTest (s : State) (d : DieId) (q : TestReq) (o : TestOrigin) : State :=
  let s := s.onDie d fun k => { k with tests := k.tests.erase (q, o) }
  (s.logRecord (s.record clsDeferred 0 false d.val noCtx 1 d.val)).testDone q o outDeferred

/-- SELFTEST_DEADLINE (R647): an urgent request frees the die at the context's next step boundary, when every rank of the
context on this module has a replica. -/
def execSelftestDeadline (d : DieId) (s : State) : Host.Outcome State Fault Refusal :=
  .next (
    match (s.die d).tests.find? fun t => decide (t.1.deadline.toNat ≤ s.car) with
    | none => s
    | some (q, o) =>
      if s.dieState d ≠ dieOwned ∨ s.mayTest d then s
      else
        let x := s.dieCtx d
        if !q.urgent then s.deferTest d q o
        else if hasWork (s.ctx x) then s
        else
          match replaceRanks [s.self] (s.ctx x).ranks with
          | none => s.deferTest d q o
          | some _ => (s.handOver x).onDie d fun k => { k with handed := true })

/-- PLDM_SELFTEST (R648, R715); RECOVERY serves none (R675). -/
def execPldmSelftest (q : TestReq) (s : State) : Host.Outcome State Fault Refusal :=
  .next (
    if s.stage = stRecovery then s
    else
      let (s, st) := s.selftestQueue q .pldm
      s.emit (.pldm (leBytes 1 st)))

end Sys2Proof.Machine
end

