-- ==== Sys2Proof/Machine/Power.lean ====
section
/-! DEFINITION. Operating points, power and thermal limits, supplies, resets and module-fatal events (R488, R489, R660, R671,
R672, R683 to R691, R704 to R712, R752, R758, R761, R762, R764). -/

namespace Sys2Proof.Machine

/-! ### Operating points (R488, R689, R690, R701, R709) -/

/-- CLK_OPSTAT and PWR_LIMSTAT follow the cap and the agreed point; the point itself changes at an ac boundary that begins an
nc (R488, R690). -/
def State.setPoint (s : State) : State :=
  let c := s.mod.cap
  let on := if c.isSome then 1 else 0
  let t := ((s.setFld .clk 0x40 27 27 on).setFld .pwr 0x0C 31 31 on).setFld .pwr 0x0C 30 29 (c.getD 3)
  if s.ac % 2 = 0 then t.movePoint else t

def State.usable (s : State) (p : Nat) : Bool := bitAt (s.fld .clk 0x40 3 0) p
def State.opAt (s : State) : Nat := s.reg .clk 0x48 + s.reg .clk 0x4C * 2 ^ 32

/-- A 1 written to CLK_OPSTAGE.arm (R20, R689, R750). -/
def State.opArm (s : State) (p : Nat) : State :=
  if s.fld .clk 0x44 31 31 = 1 then s.raise .clk 0x54 1
  else
    let s := s.setFld .clk 0x44 1 0 p
    if !s.usable p then s.raise .clk 0x54 0
    else (s.setFld .clk 0x44 31 31 1).onMod fun m => { m with opArmed := some (p, s.opAt) }

/-- OP_ARM (R689). -/
def execOpArm (point : BitVec 2) (s : State) : Host.Outcome State Fault Refusal := .next (s.opArm point.toNat)

/-- OP_SWITCH (R488, R689, R690): at an ac boundary that begins an nc. -/
def execOpSwitch (s : State) : Host.Outcome State Fault Refusal :=
  .next (
    match s.mod.opArmed with
    | some (p, t) =>
      if s.car < t ∨ s.ac % 2 ≠ 0 then s
      else
        (((s.setFld .clk 0x44 31 31 0).setFld .clk 0x40 29 28 p).onMod fun m => { m with opArmed := none }).setPoint
    | none => s)

/-- Lumef arms an agreed change to a point at a count (R689, R710). -/
def State.lumefArm (s : State) (p at_ : Nat) : State :=
  if s.agreed = p then s else ((s.setReg .clk 0x48 (at_ % 2 ^ 32)).setReg .clk 0x4C (at_ / 2 ^ 32 % 2 ^ 32)).opArm p

/-! ### Hardware caps (R707 to R709) -/

/-- A cap moves: counted, flagged in PWR_FAULT, and the point follows. -/
def State.capMoved (s : State) (bit : Nat) : State := ((s.count .pwr 0x0C 1).orReg .pwr 0x20 (2 ^ bit)).setPoint

/-- A move is due: none within the last ms. -/
def msSince (now : Nat) : Option Nat → Bool
  | some t => decide (10000000 ≤ now - t)
  | none => true

/-- The second move of the power cap within 1 s: Lumef arms the slower of the cap point and the agreed point (R710). -/
def State.steady (s : State) : State :=
  match s.mod.moves with
  | t :: u :: _ =>
    if t - u ≤ 1000000000 then
      (s.lumefArm (Nat.max s.agreed (s.mod.powerCapPt.getD s.agreed)) (s.car + 1000000)).onMod fun m => { m with moves := [] }
    else s
  | _ => s

/-- P10_SAMPLE (R707): the mean input power, and the input voltage that the sensor of R714 shows. -/
def execP10Sample (obs : PowerObs) (s : State) : Host.Outcome State Fault Refusal :=
  .next (
    let w := obs.watts.toNat
    let s := (s.setReg .pwr 0x04 w).onMod fun m => { m with inputMv := obs.millivolts }
    if 5400 < w then
      let s := s.onMod fun m => { m with lowSamples := 0 }
      if s.mod.powerCapPt = some 3 ∨ !msSince s.now s.mod.lastMove then s
      else
        let p := Nat.min 3 (s.point + 1)
        ((s.onMod fun m => { m with powerCapPt := some p, lastMove := some s.now
                                    moves := (s.car :: m.moves).take 2 }).capMoved 2).steady
    else if w ≤ 4800 then
      let n := s.mod.lowSamples + 1
      if 100 ≤ n then (s.onMod fun m => { m with powerCapPt := none, lowSamples := 0, lastMove := none }).setPoint
      else s.onMod fun m => { m with lowSamples := n }
    else s.onMod fun m => { m with lowSamples := 0 })

/-! ### Junctions (R708, R712, R734) -/

def unitOk (u : Nat) : Bool := decide (u < 12) || (decide (16 ≤ u) && decide (u < 20))
/-- Junction in 0.25 °C, least slack in ps, warning. -/
def State.unit (s : State) (u : Nat) : Nat × Nat × Bool := Store.get (0, 0, false) s.mod.units u
def State.setUnit (s : State) (u : Nat) (v : Nat × Nat × Bool) : State :=
  s.onMod fun m => { m with units := Store.set (0, 0, false) m.units u v }

/-- A junction is read; `coolAt` is the last time at which some junction was above 100 °C. -/
def State.junction (s : State) (u tj : Nat) : State :=
  if unitOk u then
    let old := s.unit u
    let s := s.setUnit u (tj, old.2)
    if 400 < old.1 ∨ 400 < tj then s.onMod fun m => { m with coolAt := s.now } else s
  else s

/-- THERMAL_CAP (R708): the cap moves once per ms while a junction is at or above 105 °C. -/
def execThermalCap (unit : Byte) (tj : BitVec 10) (s : State) : Host.Outcome State Fault Refusal :=
  .next (
    let s := s.junction unit.toNat tj.toNat
    if !unitOk unit.toNat ∨ tj.toNat < 420 then s
    else
      let s := s.orReg .pwr 0x20 8
      if s.mod.thermalCapPt = some 3 ∨ !msSince s.now s.mod.lastThermal then s
      else
        let p := Nat.min 3 (s.point + 1)
        (s.onMod fun m => { m with thermalCapPt := some p, lastThermal := some s.now }).capMoved 3)

/-- THERMAL_CAP_CLEAR (R708). -/
def execThermalCapClear (s : State) : Host.Outcome State Fault Refusal :=
  .next (
    if s.mod.thermalCapPt.isNone ∨ s.mod.units.any (fun u => decide (400 < u.2.1)) ∨ s.sinceUs s.mod.coolAt < 10000 then s
    else (s.onMod fun m => { m with thermalCapPt := none, lastThermal := none }).setPoint)

/-! ### PLDM numeric sensors (R714) -/

/-- The unit of PWR_DIESEL whose junction a sensor shows: T0 to T11, IO-N to IO-W. -/
def sensorUnit (id : Nat) : Option Nat :=
  if 0x10 ≤ id ∧ id ≤ 0x1B then some (id - 0x10) else if 0x20 ≤ id ∧ id ≤ 0x23 then some (id - 0x20 + 16) else none

/-- The least margin over all dies in ps. -/
def State.leastMargin (s : State) : Nat :=
  match ((List.range 20).filter unitOk).map fun u => (s.unit u).2.1 with
  | [] => 0
  | m :: t => t.foldl Nat.min m

/-- The reading of a sensor: mV, W, 0.1 °C of the coolant, 0.1 L/min, 0.25 °C of a junction, an operating point, ps; none for an
identifier without a sensor. -/
def State.sensor (s : State) (id : Nat) : Option Nat :=
  match sensorUnit id with
  | some u => some (s.unit u).1
  | none =>
    if id = 0x01 then some s.mod.inputMv.toNat
    else if id = 0x02 then some (s.fld .pwr 0x04 15 0)
    else if id = 0x03 then some (s.fld .pwr 0x10 29 20)
    else if id = 0x04 then some (s.fld .pwr 0x10 19 10)
    else if id = 0x05 then some (s.fld .pwr 0x10 9 0)
    else if id = 0x30 then some s.point
    else if id = 0x31 then some s.leastMargin
    else none

/-- The state of a sensor: 0 normal, 1 warning, 2 critical, 3 fatal. -/
def State.sensorState (s : State) (id : Nat) : Nat :=
  match s.sensor id with
  | none => 0
  | some v =>
    if (sensorUnit id).isSome then (if 460 ≤ v then 3 else if 420 ≤ v then 2 else if 400 ≤ v then 1 else 0)
    else if id = 0x01 then (if v < 40000 ∨ 58000 < v then 2 else if v < 42000 ∨ 56000 < v then 1 else 0)
    else if id = 0x02 then (if 5400 < v then 2 else if s.powerCap < v then 1 else 0)
    else if id = 0x03 then (if 450 < v then 2 else if 400 < v then 1 else 0)
    else if id = 0x05 then (if v < 40 then 2 else if v < 60 then 1 else 0)
    else if id = 0x31 then (if v < s.fld .pwr 0x1C 11 0 then 1 else 0)
    else 0

/-! ### Power-down and resets (R671, R672, R705, R706, R708, R752, R758, R762, R764) -/

/-- What a loss of the rails or a module reset leaves: every field at its reset value, but what the standby supply and the
non-volatile memories hold (R672, R752). -/
def State.standby (s : State) : State :=
  let m := s.mod
  let t : State := { State.reset with
    pending := s.pending, ac := s.ac, now := s.now, free := s.free, out := s.out
    mod := { Mod.reset with
      elog := m.elog, resetCount := m.resetCount, nor := m.nor
      otpOwner := m.otpOwner, otpMin := m.otpMin, stby12 := m.stby12, in48 := m.in48
      rstLow := m.rstLow, rstFell := m.rstFell, fault := m.fault } }
  t.setReg .mc 0x100 (s.reg .mc 0x100)

/-- A module reset begins at STANDBY (R672). -/
def State.moduleReset (s : State) : State := s.standby.onMod fun m => { m with resetCount := m.resetCount + 1 }

/-- A module-fatal event: the Knell, then every rail but standby off; MOD_FAULT_N is asserted (R660, R708, R758). -/
def State.fatal (s : State) (cause : Nat) : State :=
  let t := s.flood none (0xF000 + cause) s.self.toNat 0 (leBytes 8 s.car ++ leBytes 2 s.self.toNat)
  t.standby.onMod fun m => { m with fault := true, dead := true }

/-- THERMAL_TRIP (R708). -/
def execThermalTrip (unit : Byte) (tj : BitVec 10) (s : State) : Host.Outcome State Fault Refusal :=
  .next (if unitOk unit.toNat ∧ 460 ≤ tj.toNat then (s.junction unit.toNat tj.toNat).fatal 1 else s)
/-- RAIL_OVERCURRENT (R708). -/
def execRailOvercurrent (s : State) : Host.Outcome State Fault Refusal := .next (s.fatal 2)
/-- PLL_LOCK_LOSS (R683). -/
def execPllLockLoss (s : State) : Host.Outcome State Fault Refusal := .next (s.fatal 3)
/-- FIFO_SLIP (R688). -/
def execFifoSlip (s : State) : Host.Outcome State Fault Refusal :=
  .next (((s.raise .clk 0x50 30).fatal 3).raise .clk 0x50 30)
/-- MANAGEMENT_CONTROLLER_FAULT (R660). -/
def execManagementControllerFault (s : State) : Host.Outcome State Fault Refusal := .next (s.fatal 4)

/-- INPUT_RANGE_LOSS (R706): no Knell; PWR_FAULT.input_range records it. -/
def execInputRangeLoss (s : State) : Host.Outcome State Fault Refusal :=
  .next ((s.standby.onMod fun m => { m with in48 := false }).orReg .pwr 0x20 1)

/-- MODULE_RESET (R672). -/
def execModuleReset (s : State) : Host.Outcome State Fault Refusal := .next s.moduleReset
/-- WATCHDOG_EXPIRE (R672). -/
def execWatchdogExpire (s : State) : Host.Outcome State Fault Refusal := .next s.moduleReset
/-- PLDM_RESET (R715). -/
def execPldmReset (s : State) : Host.Outcome State Fault Refusal := .next s.moduleReset

/-- MOD_RST_N (R764): low for 1 ms or more resets the module when it returns high; what a pulse between 100 µs and 1 ms does
is open. -/
def execModRstN (level : Bool) (s : State) : Host.Outcome State Fault Refusal :=
  .next (
    let m := s.mod
    if !level then if m.rstLow then s else s.onMod fun m => { m with rstLow := true, rstFell := s.now }
    else if !m.rstLow then s
    else
      let t := s.onMod fun m => { m with rstLow := false }
      let n := s.sinceUs m.rstFell
      if 1000 ≤ n then t.moduleReset
      else if n < 100 then t
      else if Config.freeNat s.free % 2 = 0 then t.draw 1
      else (t.draw 1).moduleReset)

/-- What no supply keeps: only the flash devices and the OTP (R672, R719, R762). -/
def State.cold (s : State) (on : Bool) : State :=
  let m := s.mod
  { State.reset with
    pending := s.pending, ac := s.ac, now := s.now, free := s.free, out := s.out
    mod := { Mod.reset with
      nor := m.nor, otpOwner := m.otpOwner, otpMin := m.otpMin
      rstLow := m.rstLow, rstFell := m.rstFell, stby12 := on, in48 := on } }

/-- POWER_ON (R671). -/
def execPowerOn (s : State) : Host.Outcome State Fault Refusal := .next (s.cold true)
/-- STANDBY_SUPPLY_LOSS (R762). -/
def execStandbySupplyLoss (s : State) : Host.Outcome State Fault Refusal := .next (s.cold false)

/-! ### Lumef's control of power (R710 to R712) -/

def State.defaultPoint (s : State) : Nat := s.policyNat 8 1 0

/-- POWER_CAP_CHECK (R710): every 10 ms; `fasterAllows` is the power that the cap would allow one point faster. -/
def execPowerCapCheck (mean fasterAllows : BitVec 16) (s : State) : Host.Outcome State Fault Refusal :=
  .next (
    let a := s.agreed
    let low := decide (10 * mean.toNat < 9 * fasterAllows.toNat)
    let n := if low then s.mod.under + 1 else 0
    let s := s.onMod fun m => { m with under := n }
    if s.powerCap < mean.toNat ∧ a < 3 then s.lumefArm (a + 1) (s.car + 1000000)
    else if 100 ≤ n ∧ 0 < a ∧ s.defaultPoint ≤ a - 1 then
      (s.lumefArm (a - 1) (s.car + 1000000)).onMod fun m => { m with under := 0 }
    else s)

/-- COOLING_CHECK (R711): readings in 0.1 °C and 0.1 L/min. -/
def execCoolingCheck (inlet outlet flow : BitVec 10) (s : State) : Host.Outcome State Fault Refusal :=
  .next (
    let s := s.setReg .pwr 0x10 (inlet.toNat * 2 ^ 20 + outlet.toNat * 2 ^ 10 + flow.toNat)
    if inlet.toNat ≤ 400 ∧ 60 ≤ flow.toNat then s.onMod fun m => { m with coolArmAt := none }
    else
      let s := s.orReg .pwr 0x20 2
      let go := match s.mod.coolArmAt with | some t => decide (1000000 ≤ s.sinceUs t) | none => true
      if !go then s
      else
        let s := s.onMod fun m => { m with coolArmAt := some s.now }
        if s.agreed < 3 then s.lumefArm (s.agreed + 1) (s.car + 1000000) else s)

/-- The third MARGIN record of a die within an hour: the next slower point, and a MARGIN self-test (R712). -/
def State.marginHit (s : State) (d : DieId) : State :=
  let hits := ((s.die d).marginHits.filter fun t => decide (s.car - t ≤ 3600000000000)) ++ [s.car]
  if hits.length < 3 then s.onDie d fun k => { k with marginHits := hits }
  else
    let s := s.onDie d fun k => { k with marginHits := [] }
    let s := if s.agreed < 3 then s.lumefArm (s.agreed + 1) (s.car + 1000000) else s
    (s.selftestQueue ⟨3, false, BitVec.ofNat 8 d.val, BitVec.allOnes 64, 0⟩ .lumef).1

/-- MARGIN_SAMPLE (R712): the least slack of a die in ps. -/
def execMarginSample (unit : Byte) (slack : BitVec 12) (s : State) : Host.Outcome State Fault Refusal :=
  .next (
    let u := unit.toNat
    if !unitOk u then s
    else
      let old := s.unit u
      let low := decide (slack.toNat < s.fld .pwr 0x1C 11 0)
      let s := s.setUnit u (old.1, slack.toNat, low)
      if !low ∨ old.2.2 then s
      else
        let s := (s.orReg .pwr 0x20 16).fault clsMargin u false u noCtx (u * 2 ^ 54) .none
        if u < 12 then s.marginHit (Fin.ofNat 12 u) else s)

end Sys2Proof.Machine
end

