-- ==== Sys2Proof/Machine/Boot.lean ====
section
/-! DEFINITION. Start-up: the Zarist image and its checks, measured boot, the stages and what Lumef applies in them (R671 to
R687, R692, R693, R717 to R724, R727). -/

namespace Sys2Proof.Machine

/-! ### The image (R676 to R680) -/

/-- Bytes of a flash device: `false` A, `true` B; each holds 64 MiB. -/
def norBase (dev : Bool) : Nat := if dev then 2 ^ 26 else 0
def State.img (s : State) (dev : Bool) (a n : Nat) : List Byte := s.mod.nor.bytes (norBase dev + a) n
def State.imgN (s : State) (dev : Bool) (a n : Nat) : Nat := leNat (s.img dev a n)

/-- A directory entry. -/
structure ImgSec where
  ty : Nat
  off : Nat
  len : Nat
  digest : Digest
  deriving DecidableEq, Repr

def State.imgCount (s : State) (dev : Bool) : Nat := s.imgN dev 6 2
def State.imgLen (s : State) (dev : Bool) : Nat := s.imgN dev 8 4
def State.imgGen (s : State) (dev : Bool) : Nat := s.imgN dev 16 8
def State.imgSecs (s : State) (dev : Bool) : List ImgSec :=
  (List.range (Nat.min 32 (s.imgCount dev))).map fun i =>
    let a := 256 + 64 * i
    ⟨s.imgN dev a 2, s.imgN dev (a + 8) 4, s.imgN dev (a + 12) 4, bytesDigest (s.img dev (a + 16) 48)⟩

def secIdentity : Nat := 1
def secTopology : Nat := 2
def secFwCc : Nat := 3
def secFwMc : Nat := 4
def secPolicy : Nat := 5
def secKeys : Nat := 6
def secPlan : Nat := 7
def secSignature : Nat := 15

/-- A section's bytes. -/
def State.secBytes (s : State) (dev : Bool) (ty : Nat) : List Byte :=
  match (s.imgSecs dev).find? fun e => e.ty == ty with
  | some e => s.img dev e.off e.len
  | none => []

def at2 (b : List Byte) (a n : Nat) : Nat := leNat ((b.drop a).take n)

/-! ### The checks (R681, R719 to R721) -/

def secPlaced (len : Nat) (e : ImgSec) : Bool :=
  e.off % 4096 == 0 && decide (4096 ≤ e.off) && decide (e.off + e.len ≤ len)
def secsApart : List ImgSec → Bool
  | [] => true
  | e :: t => (t.all fun f => decide (e.off + e.len ≤ f.off) || decide (f.off + f.len ≤ e.off)) && secsApart t

/-- Check 0x4. -/
def State.checkDirectory (s : State) (dev : Bool) : Bool :=
  sha384 (s.img dev 256 (64 * s.imgCount dev)) == bytesDigest (s.img dev 32 48) &&
    ((s.imgSecs dev).all fun e => secPlaced (s.imgLen dev) e) && secsApart (s.imgSecs dev)

/-- An ECDSA signature r ‖ s, each big-endian. -/
def sigOf (b : List Byte) : BitVec 768 := BitVec.ofNat 768 (beNat (b.take 96))

/-- Item 1 of R720: the 256-byte trailer of a firmware section. -/
def fwSigned (b : List Byte) : Bool :=
  let body := b.take (b.length - 256)
  let tr := b.drop (b.length - 256)
  decide (256 ≤ b.length) && sha384 (tr.take 97) == Config.rootHash &&
    Config.verifies Config.rootHash (sha384 body) (sigOf (tr.drop 97))

/-- What the owner's signature covers (R721). -/
def State.signedBytes (s : State) (dev : Bool) : List Byte :=
  s.img dev 0 24 ++
    ((List.range (Nat.min 32 (s.imgCount dev))).flatMap fun i =>
      if s.imgN dev (256 + 64 * i) 2 = secSignature then [] else s.img dev (256 + 64 * i) 64) ++
    (s.secBytes dev secSignature).take 16

def State.secVersion (s : State) (dev : Bool) : Nat := at2 (s.secBytes dev secSignature) 8 8

/-- Item 2 of R720, R721. -/
def State.ownerSigned (s : State) (dev : Bool) : Bool :=
  let b := s.secBytes dev secSignature
  let key := sha384 ((b.drop 112).take 97)
  at2 b 0 2 == 1 && s.mod.otpOwner == some key &&
    Config.verifies key (sha384 (s.signedBytes dev)) (sigOf (b.drop 16))

/-- Check 0x6. -/
def State.checkSignature (s : State) (dev : Bool) : Bool :=
  fwSigned (s.secBytes dev secFwMc) && fwSigned (s.secBytes dev secFwCc) && s.ownerSigned dev &&
    decide (s.mod.otpMin ≤ s.secVersion dev)

def secMax (ty : Nat) : Nat :=
  if ty = secIdentity ∨ ty = secSignature then 2 ^ 12 else if ty = secFwCc then 2 ^ 18 else if ty = secFwMc then 2 ^ 22
  else 2 ^ 20

/-- The endpoints and weights of TOPOLOGY, and its link entries. -/
def topoModules (b : List Byte) : List (Nat × Nat) :=
  (List.range (at2 b 8 2)).map fun i => (at2 b (64 + 4 * i) 2, at2 b (64 + 4 * i + 2) 1)
def topoLinks (b : List Byte) : List (List Byte) :=
  (List.range (at2 b 10 2)).map fun i => (b.drop (64 + 4 * at2 b 8 2 + 8 * i)).take 8

/-- Check 0x7. -/
def State.checkSet (s : State) (dev : Bool) : Bool :=
  let l := s.imgSecs dev
  ((List.range 7).all fun i => (l.filter fun e => e.ty == i + 1).length == 1) &&
    (l.filter fun e => e.ty == secSignature).length == 1 &&
    (match l.getLast? with | some e => e.ty == secSignature | none => false) &&
    (l.all fun e => decide (e.len ≤ secMax e.ty)) &&
    (topoModules (s.secBytes dev secTopology)).any fun m => m.1 == at2 (s.secBytes dev secIdentity) 0 2

/-- The first check that fails; 0 when the copy is valid (R681). -/
def State.imgCheck (s : State) (dev answers : Bool) : Nat :=
  if !answers then 1
  else if s.imgN dev 0 4 ≠ 0x5453525A ∨ s.imgN dev 4 2 ≠ 1 then 2
  else if s.imgCount dev = 0 ∨ 32 < s.imgCount dev ∨ 50331648 < s.imgLen dev then 3
  else if !s.checkDirectory dev then 4
  else if !((s.imgSecs dev).all fun e => sha384 (s.img dev e.off e.len) == e.digest) then 5
  else if !s.checkSignature dev then 6
  else if !s.checkSet dev then 7
  else 0

/-! ### IMAGE (R682, R692, R722, R724) -/

/-- RECOVERY, with MOD_FAULT_N asserted (R675, R758). -/
def State.enterRecovery (s : State) : State :=
  (s.setFld .mc 0x10 31 28 stRecovery).onMod fun m => { m with fault := true }

/-- D_img (R692). -/
def State.imgDigest (s : State) (dev : Bool) : Digest :=
  sha384 ((List.range 6).flatMap fun i =>
    match (s.imgSecs dev).find? fun e => e.ty == i + 2 with | some e => digestBytes e.digest | none => [])

/-- The chosen image is measured, and the attestation key derived (R722, R724). -/
def State.measureImage (s : State) (dev : Bool) : State :=
  let di := s.imgDigest dev
  let s := s.onMod fun m =>
    { m with inUse := dev, dImg := di, securityVersion := s.secVersion dev
             m2 := extend m.m2 (sha384 (s.secBytes dev secFwMc)), m3 := extend m.m3 (sha384 (s.secBytes dev secFwCc))
             m4 := extend m.m4 di }
  s.setDigestReg .sec 0x140 (Config.akHash s.mod.boot)

/-- IMAGE_SELECT (R681, R682): a copy that shows no header has no generation. -/
def State.imageSelect (s : State) (norA norB : Bool) : State :=
  let ea := s.imgCheck false norA
  let eb := s.imgCheck true norB
  let ga := if ea = 1 ∨ ea = 2 then 0 else s.imgGen false
  let gb := if eb = 1 ∨ eb = 2 then 0 else s.imgGen true
  let first := decide (ga < gb)
  let s := (s.setFld .mc 0x10 7 4 ea).setFld .mc 0x10 3 0 eb
  if ea ≠ 0 ∧ eb ≠ 0 then s.enterRecovery
  else
    let dev := if first then eb == 0 else ea != 0
    let g := s.imgGen dev
    let s := (s.setFld .mc 0x10 9 9 (if dev then 1 else 0)).setFld .mc 0x10 8 8 (if dev = first then 0 else 1)
    (((s.setReg .mc 0x14 (g % 2 ^ 32)).setReg .mc 0x18 (g / 2 ^ 32)).measureImage dev).setFld .mc 0x10 31 28 3

/-! ### TILE (R686, R687) -/

/-- FIFO_ALIGN, and the start of the tile dies at point 3. -/
def State.fifoAlign (s : State) (o : BootObs) : State :=
  let s := (s.setReg .clk 0x50 (2 ^ 31 + o.margin.toNat * 2 ^ 8 + o.failed.toNat)).setFld .clk 0x40 3 0 o.usable.toNat
  s.onMod fun m => { m with rails := true }

/-! ### FIRMWARE (R679, R680, R692, R693, R717, R727) -/

/-- The records of POLICY; at most `n`. -/
def policyRecs : Nat → List Byte → List (BitVec 16 × List Byte)
  | 0, _ => []
  | n + 1, b =>
    if b.length < 4 then []
    else
      let l := at2 b 2 2
      (BitVec.ofNat 16 (at2 b 0 2), (b.drop 4).take l) :: policyRecs n (b.drop (4 + l))

/-- D_pol (R717): the records with their headers. -/
def policyDigest (l : List (BitVec 16 × List Byte)) : Digest :=
  sha384 (l.flatMap fun r => leBytes 2 r.1.toNat ++ leBytes 2 r.2.length ++ r.2)

/-- The configuration digest of a policy and a table plan on this module (R692). -/
def State.cfgDigestOf (s : State) (policy : List (BitVec 16 × List Byte)) (plan : List Byte) : Digest :=
  sha384 (digestBytes s.mod.dImg ++ digestBytes (sha384 plan) ++
    digestBytes (sha384 (digestBytes s.mod.m2 ++ digestBytes s.mod.m3)) ++ digestBytes (policyDigest policy))

/-- ENCLAVE_PLAN (R727): flags, quota and dies of each enclave. -/
def planEntries (b : List Byte) : Store (Nat × Nat × Nat) :=
  (List.range 63).foldl (fun m i =>
    let a := 64 + 32 * i
    Store.set (0, 0, 0) m i (at2 b a 1, at2 b (a + 1) 1, at2 b (a + 2) 1)) []

/-- The instruction SRAM of a die takes FW_CC; G0 to G31 and the state words are at reset, and the core starts. -/
def iramBase (d : DieId) : Nat := d.val * 2 ^ 18
def State.loadCc (s : State) (b : List Byte) : State :=
  (List.finRange 12).foldl (fun s d => s.iramSet (iramBase d) (b.take (2 ^ 18))) s

/-- The ends of a link entry on this module: link, the other end's endpoint. -/
def State.linkHere (s : State) (b : List Byte) : List (LinkId × Nat) :=
  let e := s.self.toNat
  let mk (l o : Nat) : List (LinkId × Nat) := if l < 48 then [(Fin.ofNat 48 l, o)] else []
  (if at2 b 0 2 = e then mk (at2 b 2 1) (at2 b 3 2) else []) ++ (if at2 b 3 2 = e then mk (at2 b 5 1) (at2 b 0 2) else [])

/-- The neighbours of this module in a topology. -/
def State.neighboursOf (s : State) (topo : List Byte) : Store Endpoint :=
  ((topoLinks topo).flatMap s.linkHere).foldl (fun n e => Store.set 0xFFFF n e.1.val (BitVec.ofNat 16 e.2)) []

/-- A table plan comes into force: fabric ID, weights, tie-breaker, Carillon sources, neighbours (R663, R680, R693). -/
def State.applyPlan (s : State) (topo : List Byte) : State :=
  let s := (s.setReg .fab 0x00 (at2 topo 0 4)).setReg .fab 0x04 (at2 topo 4 4)
  let nb := s.neighboursOf topo
  s.onMod fun m =>
    { m with
      plan := topo
      weights := (topoModules topo).foldl (fun w e => Store.set 0 w e.1 (BitVec.ofNat 8 e.2)) []
      tieBreaker := BitVec.ofNat 16 (at2 topo 12 2)
      carSources := (List.range 16).map fun i => BitVec.ofNat 16 (at2 topo (16 + 2 * i) 2)
      neighbours := nb }

/-- A 1 written to SEC_CFGCTL.load: SEC_CFGNEXT into SEC_CFGDIG at once; the field clears in the next nc (R20, R697, R702). -/
def State.cfgLoad (s : State) : State :=
  if s.fld .sec 0xB0 30 30 = 1 then s.raise .sec 0xBC 1
  else
    let d := s.digestReg .sec 0x80
    (((s.setFld .sec 0xB0 30 30 1).owes .sec 0xB0 (.clear ((Blk.sec).base + 0xB0) (2 ^ 30))).setDigestReg .sec 0x40 d).onMod
      fun m => { m with prevDigest := d }

/-- Lumef applies its tables (R522, R628, R663, R679, R680, R717, R727). -/
def State.applyImage (s : State) : State :=
  let dev := s.mod.inUse
  let topo := s.secBytes dev secTopology
  let pol := s.secBytes dev secPolicy
  let recs := policyRecs pol.length pol
  let plan := planEntries (s.secBytes dev secPlan)
  let s := s.setReg .fab 0x08 (at2 (s.secBytes dev secIdentity) 0 2)
  let s := (s.applyPlan topo).onMod fun m =>
    { m with
      policy := recs, enclavePlan := plan
      quotas := (List.range 63).foldl (fun q i => Store.set 0x40 q i (Store.get (0, 0, 0) plan i).2.1) [] }
  let s := (s.setFld .pwr 0x08 15 0 (s.policyNat 7 2 4800)).loadCc (s.secBytes dev secFwCc)
  (s.setDigestReg .sec 0x80 (s.cfgDigestOf recs topo)).cfgLoad

/-! ### FABRIC (R482, R536, R671, R680) -/

/-- A link of the topology is enabled and admitted, with the attributes of its entry. -/
def State.linkSetup (s : State) (b : List Byte) : State :=
  (s.linkHere b).foldl (fun s e =>
    let x := at2 b 7 1 % 64
    let crypt := if bitAt (Store.get (0, 0, 0) s.mod.enclavePlan x).1 1 then 2 ^ 29 else 0
    let at6 := at2 b 6 1
    s.onLink e.1 fun k =>
      { k with cfg := BitVec.ofNat 32 (2 ^ 31 + 2 ^ 30 + crypt + bits at6 2 2 * 2 ^ 28 + bits at6 1 0 * 2 ^ 26 + 2 ^ 25 +
          x * 2 ^ 19) ||| (k.cfg &&& 0x60000) }) s

/-- The Carillon source is the first endpoint of the priority list. -/
def State.isFirstSource (s : State) : Bool := s.mod.carSources.head? == some s.self

def State.enterFabric (s : State) : State :=
  let s := (topoLinks (s.secBytes s.mod.inUse secTopology)).foldl (fun s b => s.linkSetup b) s
  ((s.setFld .clk 0x0C 30 30 (if s.isFirstSource then 1 else 0)).setFld .clk 0x0C 29 29 1).carDiscipline

/-- READY: the OTP minimum rises where the policy says so (R720). -/
def State.enterReady (s : State) : State :=
  if s.policyNat 11 1 0 = 1 then s.onMod fun m => { m with otpMin := Nat.max m.otpMin m.securityVersion } else s

def State.single (s : State) : Bool := (topoModules (s.secBytes s.mod.inUse secTopology)).length == 1

/-- The address straps are sampled once in STANDBY: an open strap reads 1 (R757). -/
def Mod.strapped (m : Mod) (straps : BitVec 3) : Mod :=
  if m.smbus = 0 then { m with smbus := BitVec.ofNat 7 (0x60 + straps.toNat) } else m

/-- BOOT_STAGE_ADVANCE (R671, R675, R687, R705, R722, R757, R758): the stage's work and its exit, when the exit's condition
holds; after a module-fatal event only a module reset starts again. -/
def execBootStageAdvance (o : BootObs) (s : State) : Host.Outcome State Fault Refusal :=
  .next (
    let go (s : State) (n : Nat) : State := s.setFld .mc 0x10 31 28 n
    if s.mod.dead ∨ s.mod.rstLow then s
    else
      match s.stage with
      | 0 =>
        let s := s.onMod fun m => m.strapped o.straps
        if !o.inputOk then s
        else
          go (s.onMod fun m =>
            { m with in48 := true, fault := false, m1 := extend m.m1 (Config.romDigest m.otpMin) }) 1
      | 1 => go s 2
      | 2 => s.imageSelect o.norA o.norB
      | 3 =>
        if !s.mod.rails then
          let s := s.fifoAlign o
          if s.usable 3 then s else s.enterRecovery
        else if (List.finRange 12).all fun d => s.dieState d != dieClearing then go s 4 else s
      | 4 => (go s.applyImage 5).enterFabric
      | 5 => if s.single ∨ s.mod.chimeOk then (go s 6).enterReady else s
      | _ => s)

end Sys2Proof.Machine
end

