-- ==== Sys2Proof/Machine/Stage.lean ====
section
/-! DEFINITION. Configuration changes: the armed digest, the staged change of the quorum component, records for a joining
module and the Chime rounds (R692 to R702). -/

namespace Sys2Proof.Machine

/-! ### The armed digest (R694, R695, R697, R702) -/

def State.cfgAt (s : State) : Nat := s.reg .sec 0xB4 + s.reg .sec 0xB8 * 2 ^ 32

/-- A 1 written to SEC_CFGCTL.arm samples SEC_CFGNEXT and SEC_CFGAT (R20, R702, R751). -/
def State.cfgArm (s : State) : State :=
  if s.fld .sec 0xB0 31 31 = 1 then s.raise .sec 0xBC 1
  else
    let d := s.digestReg .sec 0x80
    let t := s.cfgAt
    (s.setFld .sec 0xB0 31 31 1).onMod fun m => { m with cfgArmed := some (d, t) }

/-- CFG_ARM (R694, R702). -/
def execCfgArm (s : State) : Host.Outcome State Fault Refusal := .next s.cfgArm
/-- CFG_LOAD (R697, R702). -/
def execCfgLoad (s : State) : Host.Outcome State Fault Refusal := .next s.cfgLoad

/-! ### Content (R692 to R695) -/

/-- A record takes its place in ascending identifier order, in the stead of one with its identifier (R717). -/
def putRecord (r : BitVec 16 × List Byte) : List (BitVec 16 × List Byte) → List (BitVec 16 × List Byte)
  | [] => [r]
  | q :: t =>
    if r.1.toNat < q.1.toNat then r :: q :: t else if r.1 = q.1 then r :: t else q :: putRecord r t
def putRecords (new old : List (BitVec 16 × List Byte)) : List (BitVec 16 × List Byte) :=
  new.foldl (fun l r => putRecord r l) old

/-- A vote weight in the topology of a table plan. -/
def putWeight (plan : List Byte) (e : Endpoint) (w : Byte) : List Byte :=
  match (topoModules plan).findIdx? fun m => m.1 == e.toNat with
  | some i => plan.set (64 + 4 * i + 2) w
  | none => plan

/-- The policy records and the table plan that a change leaves. -/
def ChangeContent.apply (c : ChangeContent) (policy : List (BitVec 16 × List Byte)) (plan : List Byte) :
    List (BitVec 16 × List Byte) × List Byte :=
  match c with
  | .policy l => (putRecords l policy, plan)
  | .plan b => (policy, b)
  | .weights w => (policy, w.foldl (fun p e => putWeight p e.1 e.2) plan)
  | .restart => (policy, plan)

def State.changeDigest (s : State) (c : ChangeContent) : Digest :=
  let r := ChangeContent.apply c s.mod.policy s.mod.plan
  s.cfgDigestOf r.1 r.2

/-- Lumef puts a change in force (R694, R695). -/
def State.inForce (s : State) (c : ChangeContent) : State :=
  let r := ChangeContent.apply c s.mod.policy s.mod.plan
  match c with
  | .policy _ => s.onMod fun m => { m with policy := r.1 }
  | .plan _ | .weights _ => s.applyPlan r.2
  | .restart => s.moduleReset

/-- CFG_ACTIVATE (R695). -/
def execCfgActivate (s : State) : Host.Outcome State Fault Refusal :=
  .next (
    match s.mod.cfgArmed with
    | some (d, t) =>
      if s.car < t then s
      else
        let old := s.digestReg .sec 0x40
        let c := s.mod.staged
        let s := ((s.setDigestReg .sec 0x40 d).orReg .sec 0xBC 1).setFld .sec 0xB0 31 31 0
        let s := s.onMod fun m => { m with cfgArmed := none, cfgAt := t, prevDigest := old }
        match c with
        | some k => if k.armedAt = some (BitVec.ofNat 64 t) then (s.onMod fun m => { m with staged := none }).inForce k.content else s
        | none => s
    | none => s)

/-! ### The staged change (R694, R696) -/

/-- The coordinator: the module of lowest endpoint in the quorum component. -/
def State.coordinates (s : State) : Bool :=
  s.mod.quorumNow && s.component.all fun h => decide (s.self.toNat ≤ h.1)

def State.sendChange (s : State) (sub : Nat) (k : StagedChange) (t : Option Word64) : State :=
  s.emit (.change sub k.number (if sub = 1 then some k.content else none) (if sub = 1 then some k.digest else none) t)

/-- A module arms its staged change: SEC_CFGNEXT, SEC_CFGAT and SEC_CFGCTL; for a table plan the routers arm the next epoch
at T. -/
def State.armChange (s : State) (k : StagedChange) (t : Word64) : State :=
  let n := t.toNat
  let s := ((s.setDigestReg .sec 0x80 k.digest).setReg .sec 0xB4 (n % 2 ^ 32)).setReg .sec 0xB8 (n / 2 ^ 32)
  let s := s.cfgArm.onMod fun m => { m with staged := some { k with armedAt := some t } }
  match k.content with
  | .plan _ =>
    (List.finRange 4).foldl (fun s i =>
      ((s.setReg (.router i) 0x38 (n % 2 ^ 32)).setReg (.router i) 0x3C (n / 2 ^ 32)).epochArm i ((s.epoch i + 1) % 256)) s
  | _ => s

/-- The coordinator floods ARM when every module of the component has answered; the count T is Lumef's choice, at least
100 ms ahead. -/
def State.armWhenAll (s : State) (k : StagedChange) : State :=
  if s.component.all fun h => k.answers.contains (BitVec.ofNat 16 h.1) then
    let t : Word64 := BitVec.ofNat 64 (s.car + 100000000 + Config.freeNat s.free)
    ((s.draw 1).sendChange 4 k (some t)).armChange k t
  else s

/-- The coordinator floods ABORT; every module discards its staging copy. -/
def State.abortChange (s : State) (k : StagedChange) : State :=
  (s.sendChange 5 k none).onMod fun m => { m with staged := none }

/-- STAGE (R694, R696): at the coordinator the change begins; elsewhere it is answered. -/
def execStage (change : Word32) (content : ChangeContent) (d : Digest) (s : State) : Host.Outcome State Fault Refusal :=
  .next (
    let same := s.changeDigest content == d
    let k : StagedChange := ⟨change, content, d, none, [s.self], s.coordinates, s.now⟩
    if s.coordinates then
      if s.mod.cfgArmed.isSome then s
      else
        let s := (s.sendChange 1 k none).onMod fun m => { m with staged := some k }
        if same then s.armWhenAll k else s.abortChange k
    else if same then (s.onMod fun m => { m with staged := some k }).sendChange 2 k none
    else s.sendChange 3 k none)

/-- The change that this coordinator waits on. -/
def State.collecting (s : State) (change : Word32) : Option StagedChange :=
  match s.mod.staged with
  | some k => if k.coordinator ∧ k.number = change ∧ k.armedAt.isNone then some k else none
  | none => none

/-- STAGED (R694). -/
def execStaged (change : Word32) (e : Endpoint) (s : State) : Host.Outcome State Fault Refusal :=
  .next (
    match s.collecting change with
    | some k =>
      let k := { k with answers := if k.answers.contains e then k.answers else k.answers ++ [e] }
      if !s.over k.since 1000000 then (s.onMod fun m => { m with staged := some k }).armWhenAll k else s
    | none => s)

/-- STAGE_REFUSED (R694). -/
def execStageRefused (change : Word32) (e : Endpoint) (s : State) : Host.Outcome State Fault Refusal :=
  .next (
    match s.collecting change with
    | some k => if s.component.any fun h => h.1 == e.toNat then s.abortChange k else s
    | none => s)

/-- STAGE_TIMEOUT (R694). -/
def execStageTimeout (s : State) : Host.Outcome State Fault Refusal :=
  .next (
    match s.mod.staged with
    | some k =>
      if k.coordinator ∧ k.armedAt.isNone ∧ 1000000 ≤ s.sinceUs k.since then s.abortChange k else s
    | none => s)

/-- ARM (R694). -/
def execArm (change : Word32) (t : Word64) (s : State) : Host.Outcome State Fault Refusal :=
  .next (
    match s.mod.staged with
    | some k => if k.number = change ∧ k.armedAt.isNone then s.armChange k t else s
    | none => s)

/-- ABORT (R694). -/
def execAbort (change : Word32) (s : State) : Host.Outcome State Fault Refusal :=
  .next (
    match s.mod.staged with
    | some k => if k.number = change ∧ k.armedAt.isNone then s.onMod fun m => { m with staged := none } else s
    | none => s)

/-! ### Records (R697) -/

/-- RECORD_REQ (R697): an admitted module answers. -/
def execRecordReq (e : Endpoint) (s : State) : Host.Outcome State Fault Refusal :=
  .next (
    if s.mod.fenced then s else s.emit (.record e s.mod.policy s.mod.plan (s.digestReg .sec 0x40)))

/-- RECORD (R697): a joining or fenced module takes the records; it stays fenced while its digest differs. -/
def execRecord (policy : List (BitVec 16 × List Byte)) (plan : List Byte) (d : Digest) (s : State) :
    Host.Outcome State Fault Refusal :=
  .next (
    if !s.mod.fenced ∧ s.mod.chimeOk then s
    else
      let s := (s.applyPlan plan).onMod fun m => { m with policy := policy }
      let own := s.cfgDigestOf policy plan
      let s := (s.setDigestReg .sec 0x80 own).cfgLoad
      if own = d then s else s.onMod fun m => { m with fenced := true })

/-! ### Chime (R698, R699) -/

def State.chimePeriod (s : State) : Nat := 1000000000 * s.policyNat 5 4 10

/-- The configuration digest in force at a reference count (R698). -/
def State.digestAt (s : State) (c : Nat) : Digest :=
  match s.mod.cfgArmed with
  | some (d, t) => if t ≤ c then d else s.digestReg .sec 0x40
  | none => if s.mod.cfgAt ≤ c then s.digestReg .sec 0x40 else s.mod.prevDigest

/-- CHIME_ROUND (R698, R700). -/
def execChimeRound (s : State) : Host.Outcome State Fault Refusal :=
  .next (
    let p := s.chimePeriod
    let r := (s.car - 1000000) / p
    if p = 0 ∨ s.car < 1000000 ∨ r < s.mod.chime ∨ s.stage < 5 ∨ s.stage = stRecovery ∨ s.mod.chimePhase ≠ 0 ∨
        s.fld .fab 0x44 31 31 = 1 then s
    else
      ((s.onMod fun m => { m with chime := r + 1 }).setDigestReg .fab 0x80 (s.digestAt (r * p))).chimeGo 1
        (BitVec.ofNat 16 r) 1)

end Sys2Proof.Machine
end

