-- ==== Sys2Proof/Machine/Security.lean ====
section
/-! DEFINITION. Firmware update, enrolment, measurements and the debug and drill grants (R716, R717, R719, R722, R724, R730 to
R733, R735). -/

namespace Sys2Proof.Machine

/-! ### Firmware (R675, R682, R716, R719) -/

/-- PLDM_FIRMWARE_UPDATE (R682, R716): the device that is not in use takes the image. -/
def execPldmFirmwareUpdate (image : List Byte) (s : State) : Host.Outcome State Fault Refusal :=
  .next (s.onMod fun m => { m with nor := m.nor.setBytes (norBase (!m.inUse)) (image.take (2 ^ 26)) })

/-- ACTIVATE_FIRMWARE (R716): checks 0x2 to 0x7 on the written copy; the answer is 0 or the check that failed. -/
def execActivateFirmware (s : State) : Host.Outcome State Fault Refusal :=
  .next (s.emit (.pldm (leBytes 1 (s.imgCheck (!s.mod.inUse) true))))

/-- ENROLL (R715, R719): once, in RECOVERY. -/
def execEnroll (ownerHash : Digest) (s : State) : Host.Outcome State Fault Refusal :=
  .next (
    if s.stage = stRecovery ∧ s.mod.otpOwner.isNone then
      (s.onMod fun m => { m with otpOwner := some ownerHash }).emit (.pldm (leBytes 1 0))
    else s.emit (.pldm (leBytes 1 1)))

/-- GET_MEASUREMENTS (R722): M1 to M5 under indices 1 to 5, with a fresh nonce of the engine, which a DEBUG_AUTH may
name. -/
def execGetMeasurements (s : State) : Host.Outcome State Fault Refusal :=
  .next (
    let n : BitVec 256 := BitVec.ofNat 256 (Config.freeNat s.free)
    let m := s.mod
    ((s.draw 1).onMod fun q => { q with nonces := (n, s.now) :: q.nonces.filter fun e => !s.over e.2 60000000 }).emit
      (.spdm (([m.m1, m.m2, m.m3, m.m4, m.m5].zipIdx.flatMap fun e => leBytes 1 (e.2 + 1) ++ digestBytes e.1) ++
        leBytes 32 n.toNat)))

/-! ### Grants (R730 to R733, R735) -/

def dbgLocked : Nat := 0
def dbgDebug : Nat := 1
def dbgDrill : Nat := 2
def State.dbgMode (s : State) : Nat := s.fld .sec 0x100 31 30
def State.bar2Granted (s : State) : Bool := s.fld .sec 0x100 28 28 == 1
def State.rimGranted (s : State) : Bool := s.fld .sec 0x100 27 27 == 1

/-- The 16-byte debug record (R732): state, scope and enclave, then the Carillon count. -/
def debugRecord (mode scopes enclave car : Nat) : List Byte :=
  padTo 16 (leBytes 1 mode ++ leBytes 1 scopes ++ leBytes 1 enclave ++ [0] ++ leBytes 8 car)

/-- FAB_RIMCFG.en of every rule clears. -/
def State.clearRims (s : State) : State :=
  (List.finRange 4).foldl (fun s i => s.onRouter i fun r =>
    { r with rims := r.rims.foldl (fun t e =>
        Store.set Rim.reset t e.1 { e.2 with cfg := e.2.cfg &&& 0x7FFFFFFF }) r.rims }) s

/-- The security state changes: shown, and measured (R722, R732).  Scope bits: 0 SCAN, 1 BAR2, 2 RIMSHOT. -/
def State.setDebug (s : State) (mode scopes enclave : Nat) (until_ : Option Nat) : State :=
  let v := mode * 2 ^ 30 + (if bitAt scopes 0 then 2 ^ 29 else 0) + (if bitAt scopes 1 then 2 ^ 28 + enclave * 2 ^ 8 else 0) +
    (if bitAt scopes 2 then 2 ^ 27 else 0)
  let s := if bitAt scopes 2 then s else s.clearRims
  ((s.setReg .sec 0x100 v).onMod fun m => { m with grant := until_.map fun t => ⟨t⟩ }).extendDebug
    (sha384 (debugRecord mode scopes enclave s.car))

/-- A grant ends (R733). -/
def State.grantEnd (s : State) : State := if s.dbgMode = dbgLocked then s else s.setDebug dbgLocked 0 0 none

/-- A debug authorisation or a drill is refused (R735). -/
def State.dbgDeny (s : State) : State := s.raise .sec 0x18C 0

/-- Records of KEYS (R729): type, body. -/
def keyRecs : Nat → List Byte → List (Nat × List Byte)
  | 0, _ => []
  | n + 1, b =>
    if b.length < 4 then [] else (at2 b 0 2, (b.drop 4).take (at2 b 2 2)) :: keyRecs n (b.drop (4 + at2 b 2 2))
/-- The debug keys of the image in use. -/
def State.debugKeys (s : State) : List (List Byte) :=
  let b := s.secBytes s.mod.inUse secKeys
  ((keyRecs b.length b).filter fun r => r.1 == 2).map Prod.snd

/-- What a DEBUG_AUTH signature covers (R731). -/
def authBytes (scopes e seconds : Nat) (nonce : BitVec 256) : List Byte :=
  leBytes 1 scopes ++ leBytes 1 e ++ leBytes 4 seconds ++ leBytes 32 nonce.toNat

/-- DEBUG_AUTH (R730 to R732); `key` counts the debug keys of KEYS. -/
def execDebugAuth (scopes : BitVec 3) (e : Encl) (seconds : Word32) (nonce : BitVec 256) (key : Fin 256) (sig : BitVec 768)
    (s : State) : Host.Outcome State Fault Refusal :=
  .next (
    let n := seconds.toNat
    let fresh := s.mod.nonces.any fun q => q.1 == nonce && !s.over q.2 60000000
    let signed := match s.debugKeys[key.val]? with
      | some k => Config.verifies (sha384 k) (sha384 (authBytes scopes.toNat e.toNat n nonce)) sig
      | none => false
    let clean := !bitAt scopes.toNat 0 || (List.finRange 12).all fun d => s.dieState d == dieClean
    if n = 0 ∨ 86400 < n ∨ !fresh ∨ !signed ∨ !clean then s.dbgDeny
    else
      (s.onMod fun m => { m with nonces := m.nonces.filter fun q => q.1 != nonce }).setDebug dbgDebug scopes.toNat e.toNat
        (some (s.now + 10000000000 * n)))

/-- The longest drill in s; 0 where the policy allows none (R717). -/
def State.drillMax (s : State) : Nat :=
  match policyBody s.mod.policy 10 with
  | some b => if leNat (b.take 1) = 1 then leNat ((b.drop 1).take 4) else 0
  | none => 0

/-- DRILL_REQ (R717, R731). -/
def execDrillReq (start : Bool) (seconds : Word32) (tag : Word32) (s : State) : Host.Outcome State Fault Refusal :=
  .next (
    let s := s.mailTaken 0
    let n := seconds.toNat
    if start then
      if n = 0 ∨ s.drillMax < n then s.dbgDeny.mailTo 0 0x8007 tag.toNat [1]
      else (s.setDebug dbgDrill 4 0 (some (s.now + 10000000000 * n))).mailTo 0 0x8007 tag.toNat [0]
    else if s.dbgMode = dbgDrill then s.grantEnd.mailTo 0 0x8007 tag.toNat [0]
    else s.dbgDeny.mailTo 0 0x8007 tag.toNat [1])

/-- DEBUG_GRANT_END (R733): the duration has passed. -/
def execDebugGrantEnd (s : State) : Host.Outcome State Fault Refusal :=
  .next (
    match s.mod.grant with
    | some g => if g.until_ ≤ s.now then s.grantEnd else s
    | none => s)

/-- SPDM_SESSION_END (R733): a DEBUG grant ends with its session. -/
def execSpdmSessionEnd (s : State) : Host.Outcome State Fault Refusal :=
  .next (if s.dbgMode = dbgDebug then s.grantEnd else s)

/-- A 1 written to SEC_DBGCTL.end (R20, R733); the field clears when LOCKED.  DESIGN CHOICE: the grant ends inside the write, so
the field never reads 1; how long it is busy the manual leaves open (log 89). -/
def State.dbgCtlEnd (s : State) : State :=
  if s.fld .sec 0x104 0 0 = 1 then s.raise .sec 0x18C 2 else s.grantEnd

/-- SEC_DBGCTL_END (R733, R735). -/
def execSecDbgctlEnd (s : State) : Host.Outcome State Fault Refusal := .next s.dbgCtlEnd

end Sys2Proof.Machine
end

