-- ==== Sys2Proof/Machine/Access.lean ====
section
/-! DEFINITION. Register access: what each register shows, what a write does, latching reads and the debug window (R16 to R22,
R594, R738 to R752; the views of the register tables of each chapter). -/

namespace Sys2Proof.Machine

def b2n (b : Bool) : Nat := if b then 1 else 0

/-! ### Views of a core's blocks (R142, R143, R184, R243, R246, R247, R367, R437, R669) -/

def shadowCode : Shadow → Nat
  | .free => 0
  | .loading => 1
  | .ready => 2
  | .draining => 3

/-- The head record of a corrected-error log with its level. -/
def ceView (l : List CeRec) (kindAt addrBits : Nat) : Nat :=
  match l with
  | [] => 0
  | r :: _ => 2 ^ 31 + r.kind * 2 ^ kindAt + r.bits * 2 ^ 27 + l.length * 2 ^ 22 + r.addr % 2 ^ addrBits

def State.mxView (s : State) (c : CoreId) (off : Nat) : Nat :=
  let a := s.arr c
  let k := s.core c
  let v := s.reg (.mx c) off
  match off with
  | 0x00 => Nat.min 4 a.queue.length * 2 ^ 8 + shadowCode a.shadow * 2 ^ 4 + b2n a.ew * 4 + a.shapeNow % 4
  | 0x04 =>
    Nat.min 16 (a.drainMax s.ac) * 2 ^ 16 + Nat.min 16 (a.feedLevel s.ac) * 2 ^ 6 + b2n (a.frozen s.ac) * 2 + b2n (a.busy s.ac)
  | 0x48 => ceView k.ceLog 29 22
  | 0x64 => v % 2 ^ 31 + b2n k.retiring.isSome * 2 ^ 31 + sparesUsed k.retired 1 * 2 ^ 6 + sparesUsed k.retired 0
  | _ => v

def State.vuView (s : State) (c : CoreId) (off : Nat) : Nat :=
  if off = 0x14 then
    (List.range 8).foldl (fun n b =>
      n + b2n (s.tbPoison.any fun e => decide (tbKey c b 0 ≤ e.1) && decide (e.1 < tbKey c b 64) && e.2) * 2 ^ b) 0
  else s.reg (.vu c) off

def modeCode : Mode → Nat
  | .idle => 0
  | .lockstep => 1
  | .slack => 2

/-- CQ_QVIEW of a queue (R246). -/
def State.queueView (s : State) (c : CoreId) (q : Nat) : Nat :=
  let k := s.core c
  let show_ (poison : Bool) (n skip src tag : Nat) : Nat :=
    b2n poison * 2 ^ 31 + n % 64 * 2 ^ 25 + skip % 8 * 2 ^ 22 + src % 1024 * 2 ^ 12 + tag
  if q = qXIQ then
    match k.xiq with
    | o :: _ => show_ o.poison k.xiq.length (k.skip q).length 0 o.token.toNat
    | [] => show_ false 0 (k.skip q).length 0 0
  else if q < 7 then
    match k.queue q with
    | e :: _ => show_ e.poison (k.queue q).length (k.skip q).length 0 e.token.toNat
    | [] => show_ false 0 (k.skip q).length 0 0
  else if 8 ≤ q ∧ q < 24 then
    match k.msgq (q - 8) with
    | m :: rest =>
      show_ (match m.entries with | e :: _ => e.2 | [] => false) ((m :: rest).foldl (fun n m => n + m.entries.length) 0) 0 m.src m.tag.toNat
    | [] => 0
  else 0

def State.cqView (s : State) (c : CoreId) (off : Nat) : Nat :=
  let k := s.core c
  if off = 0x00 then
    k.hold * 2 ^ 16 + b2n k.bank * 2 ^ 15 + k.index.toNat * 2 ^ 5 + b2n k.poisoned * 2 ^ 4 + b2n k.ended * 2 ^ 3 +
      b2n (k.hold != 0) * 2 ^ 2 + modeCode k.mode
  else if off = 0x10 then s.queueView c (s.fld (.cq c) 0x0C 4 0)
  else if off = 0x14 then (List.range 16).foldl (fun n q => n + b2n (s.msgReady c q) * 2 ^ q) 0
  else if 0x100 ≤ off then k.sem ((off - 0x100) / 4)
  else s.reg (.cq c) off

/-- A P job: a class 0x3 operation that waits or runs (R411). -/
def DynOp.isJob (o : DynOp) : Bool := o.cls == 3 && o.stage == .issued

def State.dmaView (s : State) (c : CoreId) (off : Nat) : Nat :=
  let k := s.core c
  let q := k.dmaQ
  match off with
  | 0x00 =>
    b2n q.pend * 2 ^ 31 + (match q.phase with | .idle => 0 | .parked => if s.ac < q.since then 1 else 2 | _ => 1) * 2 ^ 29 + q.idx.toNat * 2 ^ 20 +
      Nat.min 128 (k.ops.filter DynOp.isJob).length * 2 ^ 8 + b2n (k.dmaP.phase != .idle)
  | _ => s.reg (.dma c) off

/-! ### Views of a die's blocks (R249, R332, R368, R406, R407, R467, R669) -/

/-- CQ_CCIRQ: the DMA cause is a view of CQ_CCDMAIRQ (R459, R467). -/
def State.irqBits (s : State) (d : DieId) : Nat :=
  let v := s.reg (.cqDie d) 0x48
  let dma := s.reg (.cqDie d) 0x50 != 0 || s.reg (.cqDie d) 0x54 != 0
  setBits v 1 1 (b2n dma)

/-- A soft STREAM block is held open (R461). -/
def Die.softOpen (k : Die) : Bool := match k.block with | some b => b.soft | none => false

def State.cqDieView (s : State) (d : DieId) (off : Nat) : Nat :=
  let k := s.die d
  match off with
  | 0x00 => k.cmdq.length * 2 ^ 10 + b2n (k.block.isSome || decide (s.ac < k.seqFrom))
  | 0x40 => b2n k.softOpen * 4 + b2n k.halted * 2 + b2n k.ie
  | 0x48 => s.irqBits d
  | _ => s.reg (.cqDie d) off

def State.pgmView (s : State) (d : DieId) (off : Nat) : Nat :=
  let p := s.pgm d
  let v := s.reg (.pgm d) off
  match off with
  | 0x08 =>
    b2n (p.initReq || (!p.cmds.isEmpty && decide (p.results.length < 64))) * 2 ^ 31 + p.size * 2 ^ 29 + Nat.min 64 p.cmds.length * 2 ^ 22 +
      Nat.min 64 p.results.length * 2 ^ 15 + p.records
  | 0x0C => p.freeCount
  | 0x10 => p.quarantine.length
  | 0x24 => (p.results.headD 0).toNat
  | 0x30 =>
    let f := s.fld (.pgm d) 0x2C 19 0
    if s.frames d ≤ f then 3 * 2 ^ 30
    else
      let r := p.frameOf f
      r.state * 2 ^ 30 + b2n r.list * 2 ^ 29 + r.count
  | 0x38 => p.seq (s.fld (.pgm d) 0x34 12 0) % 2 ^ 32
  | 0x3C => p.seq (s.fld (.pgm d) 0x34 12 0) / 2 ^ 32
  | 0x44 => ceView p.ceLog 14 14
  | 0x54 => v % 2 ^ 31 + b2n p.retiring.isSome * 2 ^ 31 + sparesUsed p.retired p.lastSlice
  | _ => v

/-! ### Views of the module's blocks (R50, R504, R505, R565 to R567, R588, R626, R628, R670, R734, R735) -/

def State.mcView (s : State) (off : Nat) : Nat :=
  let e := s.mod.elog
  if off = 0x00 then 0x4820 * 2 ^ 16 + Config.siliconRev.toNat * 2 ^ 8 + 0xC * 2 ^ 4 + 4
  else if off = 0x100 then b2n (!e.isEmpty) * 2 ^ 31 + e.length * 2 ^ 16 + s.reg .mc off
  else if 0x120 ≤ off then
    match e with
    | r :: _ => leNat (((ElogRecord.bytes r).drop (off - 0x120)).take 4)
    | [] => 0
  else s.reg .mc off

def State.pwrView (s : State) (off : Nat) : Nat :=
  if off = 0x18 then
    let u := s.unit (s.fld .pwr 0x14 4 0)
    u.1 * 2 ^ 22 + b2n u.2.2 * 2 ^ 21 + u.2.1
  else s.reg .pwr off

/-- CLK_STEPSUM (R504). -/
def CtxState.stepSum (k : CtxState) : Nat :=
  match k.summary with
  | none => 0
  | some own =>
    let m := k.merged own
    let n := match k.notice with
      | some n => 2 ^ 30 + n.decision.toNat % 4 * 2 ^ 28 + n.flags.toNat * 2 ^ 8
      | none => 0
    2 ^ 31 + n + b2n (m.keyLo != m.keyHi) * 2 ^ 17 + b2n (bitAt m.flags.toNat 7) * 2 ^ 16 + own.flags.toNat % 128

def State.clkView (s : State) (off : Nat) : Nat :=
  match off with
  | 0x00 => s.car % 2 ^ 32
  | 0x04 => s.car / 2 ^ 32
  | 0x08 =>
    let p := match s.carParent with | some l => if s.carSource then 0x3F else l.val | none => 0x3F
    setBits (s.reg .clk off) 21 16 p
  | 0x20 => (s.ctx (BitVec.ofNat 8 (s.fld .clk 0x1C 7 0))).stepSum
  | _ => s.reg .clk off

/-- The chain that SEC_RCPTSEL selects, and the link that SEC_LKSEL selects. -/
def State.selChain (s : State) : Chain := s.chain (BitVec.ofNat 6 (s.fld .sec 0x00 5 0))
def State.selLink (s : State) : Option LinkId :=
  let l := s.fld .sec 0x180 5 0
  if l < 48 then some (Fin.ofNat 48 l) else none

def Chain.unsigned (k : Chain) : Bool := k.since.isSome || k.entries.any fun e => e.sign && e.signature.isNone

def State.secView (s : State) (off : Nat) : Nat :=
  match off with
  | 0x04 => (s.selChain.next - 1) % 2 ^ 32
  | 0x08 => (s.selChain.next - 1) / 2 ^ 32 % 2 ^ 32
  | 0x0C => b2n s.selChain.hold * 2 ^ 31 + b2n s.selChain.unsigned * 2 ^ 30 + s.selChain.entries.length % 2 ^ 15
  | 0x184 => match s.selLink with | some l => b2n (s.link l).ready * 2 ^ 31 | none => 0
  | 0x188 => match s.selLink with | some l => b2n (s.link l).rekeying * 2 ^ 31 | none => 0
  | _ => s.reg .sec off

def State.gtSel (s : State) : Ctx := BitVec.ofNat 8 (s.fld .fab 0x20 7 0)
def State.rgSel (s : State) : Nat := s.fld .fab 0x30 7 0

def State.fabView (s : State) (off : Nat) : Nat :=
  let k := s.ctx s.gtSel
  let g := s.group s.rgSel
  match off with
  | 0x24 => k.gtcfg.toNat
  | 0x28 => k.gtchild.toNat % 2 ^ 32
  | 0x2C => k.gtchild.toNat / 2 ^ 32
  | 0x34 => g.cfg0.toNat
  | 0x38 => g.cfg1.toNat
  | 0x3C => g.child.toNat % 2 ^ 32
  | 0x40 => g.child.toNat / 2 ^ 32
  | _ => s.reg .fab off

/-- The link that FAB_LINKSEL selects. -/
def State.linkSel (s : State) (i : IoId) : Option LinkId :=
  let l := s.fld (.router i) 0x00 3 0
  if l < 12 then some (Fin.ofNat 48 (12 * i.val + l)) else none
def State.rimSel (s : State) (i : IoId) : Nat := s.fld (.router i) 0x4C 1 0
def State.dropSel (s : State) (i : IoId) : Nat := s.fld (.router i) 0x44 3 0
def State.rim (s : State) (i : IoId) : Rim := Store.get Rim.reset (s.router i).rims (s.rimSel i)

def State.routerView (s : State) (i : IoId) (off : Nat) : Nat :=
  let onSel (f : Link → Nat) : Nat := match s.linkSel i with | some l => f (s.link l) | none => 0
  let r := s.router i
  if off = 0x04 then onSel fun k => k.cfg.toNat
  else if off = 0x08 then onSel fun k => k.stat.toNat
  else if off = 0x0C then onSel fun k => k.peer.toNat
  else if off = 0x10 then onSel fun k => k.fecce.toNat
  else if off = 0x14 then onSel fun k => k.fecue.toNat
  else if off = 0x48 then Store.get 0 r.drops (s.dropSel i)
  else if off = 0x50 then (s.rim i).cfg.toNat
  else if off = 0x54 then (s.rim i).pat.toNat
  else if off = 0x58 then (s.rim i).cnt.toNat
  else if off = 0x70 then
    match r.job with
    | some b => s.reg (.router i) off + 2 ^ 31 + Nat.min 16 b.acks * 2 ^ 24
    | none => s.reg (.router i) off
  else if off = 0xB0 then
    match r.rxLog with
    | e :: _ => 2 ^ 31 + e.status % 4 * 2 ^ 29 + e.tcore.toNat * 2 ^ 15 + e.daddr % 2 ^ 15
    | [] => 0
  else if 0xC0 ≤ off then
    match r.rxLog with
    | e :: _ => leNat (((digestBytes e.digest).drop (off - 0xC0)).take 4)
    | [] => 0
  else s.reg (.router i) off

def State.pfView (s : State) (off : Nat) : Nat :=
  if off = 0x00 then b2n (!(s.func 0).ideSecure) * 2 ^ 8 + 0x3F
  else if off = 0x54 then Store.get 64 s.mod.quotas (s.fld .pf 0x50 5 0)
  else s.reg .pf off

def State.vfView (s : State) (v : VfId) (off : Nat) : Nat :=
  if off = 0x00 then b2n (s.ideWait v) * 2 ^ 8 + v.val else s.reg (.vf v) off

/-! ### Reads (R738, R743 to R748) -/

/-- The function whose mailbox an offset of its block lies in. -/
def Blk.mailFn : Blk → Option Nat
  | .pf => some 0
  | .vf v => some (v.val + 1)
  | _ => none

def inMail (off : Nat) : Bool := decide (0x8000 ≤ off) && decide (off < 0xA000) && off % 4 == 0

/-- What a register shows now (R16, R743): write-only fields, reserved and unassigned offsets read 0. -/
def State.view (s : State) (b : Blk) (off : Nat) : Nat :=
  match b.mailFn, inMail off with
  | some f, true => s.mail.nat (inboxBase f + (off - 0x8000)) 4
  | _, _ =>
    if (b.reg off).isNone then 0
    else
      match b with
      | .mc => s.mcView off
      | .pwr => s.pwrView off
      | .clk => s.clkView off
      | .sec => s.secView off
      | .fab => s.fabView off
      | .router i => s.routerView i off
      | .pf => s.pfView off
      | .vf v => s.vfView v off
      | .cqDie d => s.cqDieView d off
      | .pgm d => s.pgmView d off
      | .mx c => s.mxView c off
      | .vu c => s.vuView c off
      | .cq c => s.cqView c off
      | .dma c => s.dmaView c off
      | b => s.reg b off

/-- The words after the lowest of a multi-word value (R748): lowest offset, number of words. -/
def latchWords (b : Blk) : List (Nat × Nat) :=
  match b with
  | .mc => [(0x14, 2), (0x120, 8)]
  | .clk => [(0x00, 2)]
  | .sec => [(0x04, 2), (0x40, 12), (0x140, 12)]
  | .fab => [(0xC0, 12)]
  | .router _ => [(0x80, 12), (0xC0, 12)]
  | .pgm _ => [(0x38, 2)]
  | .secDie _ => [(0x10, 2)]
  | _ => []

/-- A read: the value, with the latches of R748. -/
def State.regRead (s : State) (b : Blk) (off : Nat) : State × Nat :=
  match (latchWords b).find? fun w => decide (w.1 ≤ off) && decide (off < w.1 + 4 * w.2) with
  | none => (s, s.view b off)
  | some (lo, n) =>
    if off = lo then
      ((List.range (n - 1)).foldl (fun t i =>
          let o := lo + 4 * (i + 1)
          t.setLatch (b.base + o) (BitVec.ofNat 32 (s.view b o))) s, s.view b off)
    else (s, (Store.get 0 s.latches (b.base + off)).toNat)

/-- What the PF does not see (R745): descriptor memory, and the mailboxes of the virtual functions. -/
def hiddenFrom (p : Path) (b : Blk) (off : Nat) : Bool :=
  match p, b with
  | .pf, .dma _ => decide (0x8000 ≤ off)
  | .pf, .vf _ => inMail off
  | _, _ => false

/-- A read at a layout offset along a path. -/
def State.layoutRead (s : State) (p : Path) (o : Nat) : State × Nat :=
  match blockOf o with
  | none => (s, 0)
  | some (b, off) =>
    if o % 4 ≠ 0 ∨ !b.readable p ∨ hiddenFrom p b off then (s, 0) else s.regRead b off

/-- LATCHING_READ (R747, R748): a read of a register along a path. -/
def execLatchingRead (p : Path) (offset : BitVec 28) (s : State) : Host.Outcome State Fault Refusal :=
  let r := s.layoutRead p offset.toNat
  .next (r.1.emit (.value (BitVec.ofNat 32 r.2)))

/-! ### Writes of plain fields (R16, R17, R750) -/

/-- The first value in this ac of a register that its unit reads as it stood at the start of the ac: a seed of the vector unit,
a word of descriptor memory (R183, R409, R410). -/
def State.noteOld (s : State) (b : Blk) (off : Nat) : State :=
  let note (c : CoreId) : State :=
    s.onCore c fun k =>
      let l := k.oldRegs.filter fun u => u.1 == s.ac
      { k with oldRegs := if l.any fun u => u.2.1 == off then l else l ++ [(s.ac, off, s.reg b off)] }
  match b with
  | .vu c => if off = 0x08 ∨ off = 0x0C ∨ off = 0x10 then note c else s
  | .dma c => if 0x8000 ≤ off then note c else s
  | _ => s

/-- A write loads RW and CNT fields and clears W1C bits; RO and reserved bits keep their value.  A fault bit that is cleared
can be logged anew. -/
def State.plainWrite (s : State) (b : Blk) (off v : Nat) : State :=
  match b.reg off with
  | none => s
  | some r =>
    let s := s.noteOld b off
    let m := r.rw ||| r.cnt
    let n := (s.reg b off &&& (ones32 ^^^ m)) ||| (v &&& m)
    let c := ones32 ^^^ (v &&& r.w1c)
    let key := b.base + off
    (s.setReg b off (n &&& c)).onMod fun q =>
      { q with seen := if r.w1c = 0 then q.seen else Store.set 0 q.seen key (Store.get 0 q.seen key &&& c) }

/-! ### Host blocks (R618, R626 to R628, R741) -/

/-- The SQ part of a ring set starts anew, from counter 0 (R627). -/
def Ring.sqNew (k : Ring) : Ring :=
  { k with fetch := 0, stepNow := none, ended := false, decided := false, sent := 0, blocks := [], halted := false }

/-- A write of HOST_SQCFG, HOST_RBCFG or HOST_CQCFG (R601, R605, R627). -/
def State.ringCfg (s : State) (v : VfId) (r : RingId) (k n : Nat) : State :=
  let was := bitAt (s.rreg v r k) 31
  let now := bitAt n 31
  let q := s.ring v r
  let s := if k = 0x08 ∧ was ∧ !now ∧ (q.stepNow.isSome ∨ (s.ctx (s.sqCtx v r)).ring = some (v, r)) then
      s.loseEntries (s.sqCtx v r) else s
  let s := s.plainWrite (.vf v) (rOff r k) n
  if was = now then s
  else if k = 0x08 then
    let s := ((s.onRing v r Ring.sqNew).setR v r rSqHead 0).setFld (.vf v) (rOff r rStat) 3 3 0
    if now then s.onCtx (s.sqCtx v r) fun x => { x with entriesLost := x.entriesLost && x.active } else s
  else if k = 0x28 then (s.onRing v r fun q => { q with starvedAt := none }).setR v r rRbHead 0
  else if now then s.setR v r rCqTail 0
  else s

/-- A write of HOST_MBOXCTL (R20, R626, R750). -/
def State.mboxCtl (s : State) (b : Blk) (f v : Nat) : State :=
  if bitAt v 31 then
    if s.fld b 0x40 31 31 = 1 then s.mboxSend f else (s.plainWrite b 0x40 v).mboxSend f
  else s.plainWrite b 0x40 v

def State.mailWrite (s : State) (f off v : Nat) : State :=
  if off < 0x9000 then s.mailSet (inboxBase f + (off - 0x8000)) (leBytes 4 v) else s

def State.pfWrite (s : State) (off v : Nat) : State :=
  if inMail off then s.mailWrite 0 off v
  else if off = 0x40 then s.mboxCtl .pf 0 v
  else if off = 0x54 then
    s.onMod fun m => { m with quotas := Store.set 64 m.quotas (s.fld .pf 0x50 5 0) (v % 128) }
  else s.plainWrite .pf off v

def State.vfWrite (s : State) (u : VfId) (off v : Nat) : State :=
  if inMail off then s.mailWrite (vfFn u) off v
  else if off = 0x40 then s.mboxCtl (.vf u) (vfFn u) v
  else if u.val = 63 then s.plainWrite (.vf u) off v
  else if off = 0x28 then
    let was := bitAt (s.reg (.vf u) 0x28) 31
    let s := s.plainWrite (.vf u) 0x28 v
    if !was ∧ bitAt v 31 then s.setReg (.vf u) 0x2C 0 else s
  else if off = 0x30 ∧ bitAt (s.reg (.vf u) 0x28) 31 then s.receiptAck u (v % 2 ^ 32)
  else if 0x1000 ≤ off ∧ off < 0x1400 then
    let r : RingId := Fin.ofNat 8 ((off - 0x1000) / 0x80)
    let k := off % 0x80
    if k = 0x08 ∨ k = 0x28 ∨ k = 0x48 then s.ringCfg u r k v else s.plainWrite (.vf u) off v
  else s.plainWrite (.vf u) off v

/-! ### Module blocks -/

def State.clkWrite (s : State) (off v : Nat) : State :=
  if off = 0x0C then
    let s := s.plainWrite .clk off v
    (if bitAt v 31 then s.carLoad else s).carDiscipline
  else if off = 0x44 ∧ bitAt v 31 then s.opArm (v % 4)
  else s.plainWrite .clk off v

def State.secWrite (s : State) (off v : Nat) : State :=
  if off = 0xB0 then
    let s := if bitAt v 30 then s.cfgLoad else s
    if bitAt v 31 then s.cfgArm else s
  else if off = 0x104 then (if bitAt v 0 then s.dbgCtlEnd else s)
  else if off = 0x188 then
    match s.selLink with
    | some l => if bitAt v 31 then s.rekey l else s
    | none => s
  else s.plainWrite .sec off v

/-- The writable bits `mask` of a selected register take a value. -/
def masked (mask old v : Nat) : Nat := (old &&& (ones32 ^^^ mask)) ||| (v &&& mask)

def State.fabWrite (s : State) (off v : Nat) : State :=
  let x := s.gtSel
  let n := s.rgSel
  let g := s.group n
  if off = 0x24 then s.onCtx x fun k => { k with gtcfg := BitVec.ofNat 32 (masked 0xBFFFFF00 k.gtcfg.toNat v) }
  else if off = 0x28 then s.onCtx x fun k => { k with gtchild := BitVec.ofNat 48 (setBits k.gtchild.toNat 31 0 v) }
  else if off = 0x2C then s.onCtx x fun k => { k with gtchild := BitVec.ofNat 48 (setBits k.gtchild.toNat 47 32 v) }
  else if off = 0x34 then s.setGroup n { g with cfg0 := BitVec.ofNat 32 v }
  else if off = 0x38 then s.setGroup n { g with cfg1 := BitVec.ofNat 32 v }
  else if off = 0x3C then s.setGroup n { g with child := BitVec.ofNat 48 (setBits g.child.toNat 31 0 v) }
  else if off = 0x40 then s.setGroup n { g with child := BitVec.ofNat 48 (setBits g.child.toNat 47 32 v) }
  else if off = 0x44 ∧ bitAt v 31 then s.mrGo (bits v 23 16) (BitVec.ofNat 16 v)
  else s.plainWrite .fab off v

/-- A write of FAB_LINKCFG of the selected link (R514, R560). -/
def State.linkCfg (s : State) (l : LinkId) (v : Nat) : State :=
  let s := s.onLink l fun k => { k with cfg := BitVec.ofNat 32 (masked 0xFFFE0000 k.cfg.toNat v) }
  if !bitAt v 31 then s.linkToDown l else if bitAt v 30 then s.linkAdmit l else s

def State.setRim (s : State) (i : IoId) (r : Rim) : State :=
  let n := s.rimSel i
  s.onRouter i fun k => { k with rims := Store.set Rim.reset k.rims n r }

/-- A write of FAB_RIMCFG (R563): setting en needs a RIMSHOT grant; a rule that is enabled counts its matches anew. -/
def State.rimCfg (s : State) (i : IoId) (v : Nat) : State :=
  if bitAt v 31 ∧ !s.rimGranted then s.routerFault i 8
  else
    let r := s.rim i
    s.setRim i { r with cfg := BitVec.ofNat 32 (masked 0xFFFFFFFC r.cfg.toNat v)
                        seen := if bitAt v 31 && !bitAt r.cfg.toNat 31 then 0 else r.seen }

def State.routerWrite (s : State) (i : IoId) (off v : Nat) : State :=
  let onSel (f : LinkId → State) : State := match s.linkSel i with | some l => f l | none => s
  if off = 0x04 then onSel fun l => s.linkCfg l v
  else if off = 0x10 then onSel fun l => s.onLink l fun k => { k with fecce := BitVec.ofNat 32 v }
  else if off = 0x14 then onSel fun l => s.onLink l fun k => { k with fecue := BitVec.ofNat 32 v }
  else if off = 0x20 ∧ bitAt v 31 then s.tableGo i v
  else if off = 0x30 then s.retag i (bitAt v 8) (v % 256)
  else if off = 0x34 ∧ bitAt v 31 then s.epochArm i (v % 256)
  else if off = 0x48 then s.onRouter i fun r => { r with drops := Store.set 0 r.drops (s.dropSel i) (v % 2 ^ 32) }
  else if off = 0x50 then s.rimCfg i v
  else if off = 0x54 then s.setRim i { s.rim i with pat := BitVec.ofNat 32 (v &&& 0xFF80FFFF) }
  else if off = 0x58 then s.setRim i { s.rim i with cnt := BitVec.ofNat 32 v }
  else if off = 0x60 ∧ bitAt v 31 then
    if s.fld (.router i) 0x60 31 31 = 1 then s.wxStat i wxBusyWrite else s.wxGo i v
  else if off = 0xB4 then (if bitAt v 0 then s.wxrPop i else s)
  else s.plainWrite (.router i) off v

/-! ### Blocks of a die (R742) -/

/-- CQ_MBOXDOOR.ring: only the management controller's 1 raises the MAILBOX cause (R742). -/
def State.mboxDoor (s : State) (d : DieId) (fromMc : Bool) : State := if fromMc then s.orReg (.cqDie d) 0x48 32 else s

/-- CQ_MBOXDOOR (R457, R742). -/
def execCqMboxdoor (d : DieId) (fromMc : Bool) (s : State) : Host.Outcome State Fault Refusal := .next (s.mboxDoor d fromMc)

def State.cqDieWrite (s : State) (d : DieId) (fromMc : Bool) (off v : Nat) : State :=
  let b : Blk := .cqDie d
  if off = 0x58 ∨ off = 0x5C then (s.plainWrite b off v).onDie d fun k => { k with timerDone := false }
  else if off = 0x60 then (if bitAt v 0 then s.ccDone d else s)
  else if off = 0xA0 ∧ bitAt v 31 then s.pushGo d (bitAt v 30) (BitVec.ofNat 6 (bits v 27 22)) (BitVec.ofNat 12 v)
  else if off = 0xA8 then s.abortWrite d (BitVec.ofNat 64 (v % 2 ^ 32))
  else if off = 0xAC then s.abortWrite d (BitVec.ofNat 64 (v % 2 ^ 32 * 2 ^ 32))
  else if off = 0x140 then (if bitAt v 0 then s.mboxDoor d fromMc else s)
  else s.plainWrite b off v

def State.pgmWrite (s : State) (d : DieId) (off v : Nat) : State :=
  if off = 0x04 then (if bitAt v 0 then s.pgmInitReq d else s)
  else if off = 0x1C then s.onPgm d fun p => { p with cmdLo := BitVec.ofNat 32 v }
  else if off = 0x20 then s.pgmPush d (BitVec.ofNat 64 ((s.pgm d).cmdLo.toNat + v * 2 ^ 32))
  else if off = 0x28 then (if bitAt v 0 then s.pgmPopResult d else s)
  else if off = 0x48 then (if bitAt v 0 then s.pgmPopCe d else s)
  else if off = 0x50 ∧ bitAt v 31 then s.pgmRetire d (bits v 18 14) (bits v 13 0)
  else s.plainWrite (.pgm d) off v

/-- SEC_DIEREQ (R361, R364, R368). -/
def State.secDieWrite (s : State) (d : DieId) (off v : Nat) : State :=
  if off = 0x04 then
    if bits v 31 30 = 1 then s.assignReq d (BitVec.ofNat 8 v) (BitVec.ofNat 6 (bits v 13 8))
    else if bits v 31 30 = 2 then s.release d
    else s
  else s.plainWrite (.secDie d) off v

def State.mxWrite (s : State) (c : CoreId) (off v : Nat) : State :=
  if off = 0x0C then (if bitAt v 0 then s.mxDrain c else s)
  else if off = 0x4C then (if bitAt v 0 then s.popCe c else s)
  else if off = 0x60 ∧ bitAt v 31 then s.mxRetire c (bits v 14 14) (bits v 13 0)
  else s.plainWrite (.mx c) off v

def State.dmaWrite (s : State) (c : CoreId) (off v : Nat) : State :=
  if off = 0x10 then (if bitAt v 0 then s.doorbell c else s)
  else if off = 0x14 then (if bitAt v 0 then s.qStop c else s)
  else s.plainWrite (.dma c) off v

/-! ### A write and what meets it (R16 to R22, R743, R746, R750) -/

/-- What a write does that its block applies. -/
def State.blkWrite (s : State) (b : Blk) (p : Path) (off v : Nat) : State :=
  match b with
  | .mc => if off = 0x104 ∧ bitAt v 0 then s.elogPop 1 else s
  | .clk => s.clkWrite off v
  | .sec => s.secWrite off v
  | .fab => s.fabWrite off v
  | .router i => s.routerWrite i off v
  | .pf => s.pfWrite off v
  | .vf u => s.vfWrite u off v
  | .cqDie d => s.cqDieWrite d (p == .mc) off v
  | .meshDie d => if off = 0x00 then s.remapWrite d (BitVec.ofNat 32 v) else s.plainWrite b off v
  | .pgm d => s.pgmWrite d off v
  | .secDie d => s.secDieWrite d off v
  | .mx c => s.mxWrite c off v
  | .dma c => s.dmaWrite c off v
  | .pwr | .vu _ | .cq _ | .mesh _ => s.plainWrite b off v

/-- The busy-write error of the block that owns an SC field (R20). -/
def State.busyWrite (s : State) (b : Blk) (off : Nat) : State :=
  match b with
  | .clk => s.raise .clk (if off = 0x44 then 0x54 else 0x18) (if off = 0x44 then 1 else 5)
  | .sec => s.raise .sec (if off = 0xB0 then 0xBC else 0x18C) (if off = 0xB0 then 1 else 2)
  | .fab => s.fabFault 3
  | .router i => if off = 0x60 then s.wxStat i wxBusyWrite else s.routerFault i 7
  | .pf => s.hostFault 0 9
  | .vf u => s.hostFault (vfFn u) 9
  | .cqDie d => s.ccFault d ccBusyWrite
  | .pgm _ => s.raise b 0x14 9
  | .mx c => s.mxFault c mxBusy
  | .dma _ => s.raise b 0x04 7
  | _ => s

/-- The fault registers of a die's blocks, whose bits make the FAULT interrupt pending (R457). -/
def isFaultReg (b : Blk) (off : Nat) : Bool :=
  match b with
  | .mx _ => off == 0x08
  | .vu _ | .cq _ | .dma _ => off == 0x04
  | .mesh _ => off == 0x00
  | .cqDie _ => off == 0x04 || off == 0x44
  | .meshDie _ => off == 0x10 || off == 0x18
  | .pgm _ => off == 0x14
  | _ => false

/-- W1C bits that hardware sets. -/
def State.hwSetBits (s : State) (b : Blk) (off m : Nat) : State :=
  if m = 0 then s
  else
    match b.mailFn with
    | some f =>
      if off = 0x08 then (List.range 11).foldl (fun s i => if bitAt m i then s.hostIrq f i else s) s
      else
        let s := s.orReg b off m
        if off = 0x04 then s.hostIrq f 10 else s
    | none =>
      let s := s.orReg b off m
      if isFaultReg b off then match b.die with | some d => s.orReg (.cqDie d) 0x48 1 | none => s else s

/-- The selector that a counter of a table is seen through. -/
def State.cntSel (s : State) (b : Blk) (off : Nat) : Nat :=
  match b with
  | .router i =>
    if off = 0x10 ∨ off = 0x14 then s.fld b 0x00 3 0 else if off = 0x48 then s.dropSel i else if off = 0x58 then s.rimSel i else 0
  | _ => 0

/-- An increment of a counter (R21); `sel` names the entry of a table. -/
def State.countSel (s : State) (b : Blk) (off sel n : Nat) : State :=
  let satAdd (v : Nat) : Nat := Nat.min (v + n) ones32
  match b with
  | .router i =>
    let l : LinkId := Fin.ofNat 48 (12 * i.val + sel)
    if off = 0x10 then s.onLink l fun k => { k with fecce := BitVec.ofNat 32 (satAdd k.fecce.toNat) }
    else if off = 0x14 then s.onLink l fun k => { k with fecue := BitVec.ofNat 32 (satAdd k.fecue.toNat) }
    else if off = 0x48 then
      s.onRouter i fun r => { r with drops := Store.set 0 r.drops sel (satAdd (Store.get 0 r.drops sel)) }
    else if off = 0x58 then
      s.onRouter i fun r =>
        let q := Store.get Rim.reset r.rims sel
        { r with rims := Store.set Rim.reset r.rims sel { q with cnt := q.cnt + BitVec.ofNat 32 n } }
    else s.count b off n
  | _ => s.count b off n

/-- An increment that meets a write is added in the next register cycle (R19, R22). -/
def State.hwCount (s : State) (b : Blk) (off n : Nat) (written : Bool) : State :=
  if n = 0 then s
  else if written then s.owes b off (.count (b.base + off) (s.cntSel b off) n)
  else s.countSel b off (s.cntSel b off) n

/-- What a register owes takes place. -/
def State.lateDo (s : State) (k : LateKind) : State :=
  match k with
  | .count key sel n => match blockOf key with | some (b, off) => s.countSel b off sel n | none => s
  | .clear key mask =>
    match blockOf key with
    | some (b, off) => s.setReg b off (s.reg b off &&& (ones32 ^^^ mask))
    | none => s
  | .remap d => s.forceRemap (Fin.ofNat 12 d)
  | .carLoad v => (s.setFld .clk 0x0C 31 31 0).onMod fun m => { m with carillon := v, carFrac := 0 }
  | .abort d mask => s.abortMask (Fin.ofNat 12 d) mask
  | .table i v lo hi => s.tableEnd (Fin.ofNat 4 i) v lo hi
  | .retag i bank tag => s.retagEnd (Fin.ofNat 4 i) bank tag

/-- Whether the register cycle of what is owed has begun. -/
def State.lateDue (s : State) (l : Late) : Bool := if l.mclk then decide (l.due ≤ s.now) else decide (l.due ≤ s.ac)
/-- What registers owe to the cycles that have begun takes place, in the order in which it arose (R18, R22). -/
def State.undefer (s : State) : State :=
  (s.deferred.filter s.lateDue).foldl (fun s l => s.lateDo l.kind)
    (s.setDeferred (s.deferred.filter fun l => !s.lateDue l))

/-- A write of a 32-bit word at a layout offset along a path.  `hwSet` and `hwInc` are what the hardware does to the same
register in the same register cycle: the W1C bits that it sets, the SC bit whose operation it completes, the increment of a
counter (R19). -/
def State.layoutWrite (s : State) (p : Path) (o v hwSet hwInc : Nat) : State :=
  match blockOf o with
  | none => s
  | some (b, off) =>
    if o % 4 ≠ 0 then s
    else
      let applied := b.writable off p
      let r := (b.reg off).getD (roReg 0)
      let s :=
        if !applied then s
        else if v &&& (hwSet ||| s.reg b off) &&& r.sc ≠ 0 then s.busyWrite b off
        else s.blkWrite b p off v
      (s.hwSetBits b off (hwSet &&& r.w1c)).hwCount b off (if r.cnt = 0 then 0 else hwInc) applied

/-- REGISTER_WRITE (R16 to R22, R738 to R752). -/
def execRegisterWrite (p : Path) (offset : BitVec 28) (value hwSet hwInc : Word32) (s : State) :
    Host.Outcome State Fault Refusal :=
  .next (s.layoutWrite p offset.toNat value.toNat hwSet.toNat hwInc.toNat)

/-! ### The debug window (R594, R730, R739) -/

/-- Where an offset of PF BAR2 lies. -/
inductive DbgPlace where
  | cs (d : DieId) (a : Nat)
  | am (c : CoreId) (a : Nat)
  | psm (c : CoreId) (a : Nat)
  deriving DecidableEq, Repr

def dbgPlace (addr : Nat) : Option DbgPlace :=
  let d := addr / 2 ^ 32
  let a := addr % 2 ^ 32
  if 12 ≤ d then none
  else
    let d : DieId := Fin.ofNat 12 d
    if a < 0xC0000000 then some (.cs d a)
    else if a < 0xD0000000 then some (.am (coreOf d (Fin.ofNat 64 ((a - 0xC0000000) / 2 ^ 22))) (a % 2 ^ 22))
    else if a < 0xD8000000 then some (.psm (coreOf d (Fin.ofNat 64 ((a - 0xD0000000) / 2 ^ 21))) (a % 2 ^ 21))
    else none

def DbgPlace.die : DbgPlace → DieId
  | .cs d _ => d
  | .am c _ | .psm c _ => dieOf c

/-- A die that the grant reaches: OWNED by the named enclave, or CLEAN (R730). -/
def State.dbgReaches (s : State) (d : DieId) : Bool :=
  s.dieState d == dieClean || (s.dieState d == dieOwned && (s.dieEncl d).toNat == s.fld .sec 0x100 13 8)

/-- Bytes of a list replaced. -/
def splice (b : List Byte) (a : Nat) (new : List Byte) : List Byte := b.take a ++ new ++ b.drop (a + new.length)

def State.answer (s : State) (write : Option Word32) (v : Nat) : State :=
  if write.isNone then s.emit (.value (BitVec.ofNat 32 v)) else s

/-- The dynamic accesses of an ac that come before the debug window's: all of R347, and patrol scrub's next word.  At the end of
the ac they hold their lanes. -/
def State.aboveDebug (s : State) (c : CoreId) (late : Bool) : Nat :=
  if late then 0
  else s.aboveScrub c ||| (if s.scrubStops (dieOf c) then 0 else laneMask (8 * (s.core c).amScrub) 8)

/-- A debug access to activation memory: a dynamic access that ranks after scrub (R739). -/
def State.dbgAm (s : State) (late : Bool) (c : CoreId) (a : Nat) (write : Option Word32) : State × Bool :=
  if (s.aboveDebug c late &&& laneMask a 4) ≠ 0 then (s, false)
  else
    match write with
    | some v =>
      let r := s.claimPut c a 4
      if r.2 then (r.1.amPut c a (leBytes 4 v.toNat) false, true) else (s, false)
    | none =>
      let r := s.claimDyn c s.ac (laneMask a 4) 0
      if r.2 then
        let q := r.1.amRead c a 4
        (q.1.answer none (leNat q.2.1), true)
      else (s, false)

/-- A debug access to the context store: a background request for one unit (R739); a part of a poisoned unit stays poisoned. -/
def State.dbgCs (s : State) (d : DieId) (a : Nat) (write : Option Word32) : State × Bool :=
  let t := s.sliceTake d (unitSlice (s.frameSize d) (a / 64)) true
  if t.2 then
    let r := t.1.csRead d (a / 64)
    match write with
    | some v => (r.1.csWrite d (a / 64) (splice r.2.1 (a % 64) (leBytes 4 v.toNat)) r.2.2, true)
    | none => (r.1.answer none (leNat ((r.2.1.drop (a % 64)).take 4)), true)
  else (t.1, false)

/-- A debug access to partial-sum memory; a part of a poisoned word stays poisoned. -/
def State.dbgPsm (s : State) (c : CoreId) (a : Nat) (write : Option Word32) : State :=
  let r := s.psmRead c (a / 16)
  let lo := 8 * (a % 16)
  match write with
  | some v => r.1.psmWrite c (a / 16) (BitVec.ofNat 128 (setBits r.2.1.toNat (lo + 31) lo v.toNat)) r.2.2
  | none => r.1.answer none (bits r.2.1.toNat (lo + 31) lo)

/-- An access through the debug window; false while it waits for its lanes or its slice.  Without a grant it is denied, and
outside what the grant reaches it reads all ones and discards (R594, R730, R739). -/
def State.dbgServe (s : State) (late : Bool) (addr : Nat) (write : Option Word32) : State × Bool :=
  if !s.bar2Granted then ((s.hostFault 0 6).answer write ones32, true)
  else
    match dbgPlace addr with
    | none => (s.answer write ones32, true)
    | some p =>
      if addr % 4 ≠ 0 ∨ !s.dbgReaches p.die then (s.answer write ones32, true)
      else
        match p with
        | .cs d a => s.dbgCs d a write
        | .am c a => s.dbgAm late c a write
        | .psm c a => (s.dbgPsm c a write, true)

/-- The accesses that wait, in their order, at the end of an ac. -/
def State.dbgEnd (s : State) : State :=
  match s.mod.dbg with
  | [] => s
  | e :: t =>
    let r := s.dbgServe true e.1 e.2
    if r.2 then r.1.onMod fun m => { m with dbg := t } else r.1

/-- DEBUG_WINDOW_ACCESS (R594, R739): served at once, or queued until its lanes or its slice are free. -/
def execDebugWindowAccess (addr : BitVec 36) (write : Option Word32) (s : State) : Host.Outcome State Fault Refusal :=
  .next (
    let wait (s : State) : State := s.onMod fun m => { m with dbg := m.dbg ++ [(addr.toNat, write)] }
    if !s.mod.dbg.isEmpty then wait s
    else
      let r := s.dbgServe false addr.toNat write
      if r.2 then r.1 else wait r.1)

end Sys2Proof.Machine
end

