-- ==== Sys2Proof/Machine/Control.lean ====
section
/-! DEFINITION. The control core of a tile die: its registers and state words, exceptions and interrupts, memory accesses, the
store buffer and the long instructions (R439 to R459, R467, R468). -/

namespace Sys2Proof.Machine

/-! ### Registers and state words (R440, R453, R468) -/

/-- A general register; G0 reads as 0. -/
def Die.greg (k : Die) (r : BitVec 5) : Word64 := if r = 0 then 0 else Store.get 0 k.gregs r.toNat
/-- A write of a general register; one to G0 is discarded. -/
def Die.setGreg (k : Die) (r : BitVec 5) (v : Word64) : Die :=
  if r = 0 then k else { k with gregs := Store.set 0 k.gregs r.toNat v }

/-- The bits of a resume word that are not reserved (R453). -/
def resumeMask : Word64 := 0xE000000000003FFF
def resumeOp (w : Word64) : Nat := bits w.toNat 62 61
def resumeDone (w : Word64) : Nat := bits w.toNat 13 0
def resumeWord (op done : Nat) : Word64 := BitVec.ofNat 64 (2 ^ 63 + op * 2 ^ 61 + done % 2 ^ 14)

def Die.csr (k : Die) : CcCsr → Word64
  | .status => if k.ie then 1 else 0
  | .epc => k.epc
  | .ecause => k.ecause.zeroExtend 64
  | .resume => k.resume
  | .eresume => k.eresume

/-- A CSRW; CQ_ECAUSE is read only to it. -/
def Die.setCsr (k : Die) (r : CcCsr) (v : Word64) : Die :=
  match r with
  | .status => { k with ie := v.getLsbD 0 }
  | .epc => { k with epc := v }
  | .ecause => k
  | .resume => { k with resume := v &&& resumeMask }
  | .eresume => { k with eresume := v &&& resumeMask }

/-! ### Interrupts and exceptions (R455 to R458) -/

def causeAlign : Nat := 1
def causeAccess : Nat := 2
def causeMemory : Nat := 3

/-- The interrupt sources that are pending and enabled. -/
def State.irqReady (s : State) (d : DieId) : Nat := s.irqBits d &&& s.fld (.cqDie d) 0x4C 5 0
/-- The lowest of them. -/
def lowestBit (v : Nat) : Option Nat := (List.range 6).find? fun i => bitAt v i

/-- Entry to the handler of a cause in ac `now`: the pc, the cause and the resume word are saved, interrupts are off.  DEDUCED:
the first instruction of the handler enters EX three ac later, as the target of a taken transfer does (R443, R456; log 211). -/
def Die.enter (k : Die) (cause now : Nat) : Die :=
  { k with epc := k.pc, ecause := BitVec.ofNat 6 cause, eresume := k.resume, resume := 0, ie := false, waiting := false
           pc := BitVec.ofNat 64 (64 * cause), exFrom := now + 3 }

/-- Instructions fetched and completed (R444, R467). -/
def State.fetched (s : State) (d : DieId) (n : Nat) : State := s.count (.cqDie d) 0x64 n
def State.retired (s : State) (d : DieId) : State := s.count (.cqDie d) 0x68 1

/-- The die's fatal error: logged as DIE_FATAL, the step of its context flagged (R458, R629). -/
def State.dieFatal (s : State) (d : DieId) (bit : Nat) : State :=
  let x := s.recCtx d
  let s := s.ccFault d bit
  let s := if s.unseen (.cqDie d) 0x44 (2 ^ bit) = 0 then s else
    (s.fault clsDieFatal d.val false d.val x 0 (.die d)).onMod fun m =>
      let key := (Blk.cqDie d).base + 0x44
      { m with seen := Store.set 0 m.seen key (Store.get 0 m.seen key ||| 2 ^ bit) }
  if x = noCtx then s else s.flagStep x

/-- An exception at the instruction at the pc; with interrupts off, inside a handler, it halts the core (R457, R458). -/
def State.ccExcept (s : State) (d : DieId) (cause : Nat) : State :=
  if (s.die d).ie then s.onDie d fun k => k.enter cause s.ac
  else (s.onDie d fun k => { k with halted := true }).dieFatal d 2

/-- The core runs instructions: not halted, and not waiting unless an enabled source is pending (R442, R458). -/
def State.ccRuns (s : State) (d : DieId) : Bool :=
  let k := s.die d
  !k.halted && (!k.waiting || s.irqReady d != 0)
/-- An interrupt is taken before the next instruction (R456). -/
def State.irqFirst (s : State) (d : DieId) : Bool := (s.die d).ie && s.irqReady d != 0
/-- An instruction that reads the registers `rs` may enter EX in ac `now` (R439, R442). -/
def Die.mayEnter (k : Die) (now : Nat) (rs : List (BitVec 5)) : Bool :=
  decide (k.exFrom ≤ now) && rs.all fun r => r == 0 || decide (Store.get 0 k.gFrom r.toNat ≤ now)

def iramSize : Nat := 0x40000
def dramBase : Nat := 0x10000000
def dramSize : Nat := 0x100000
def dramAt (d : DieId) (a : Nat) : Nat := d.val * dramSize + (a - dramBase)

/-- The fetch of the instruction at the pc, and what it does in its EX ac; one that holds, or whose operands are not ready,
leaves everything as it stands (R441, R442, R444). -/
def State.ccRun (s : State) (d : DieId) (rs : List (BitVec 5)) (holds : Bool) (f : State → State) : State :=
  if !s.ccRuns d ∨ !(s.die d).mayEnter s.ac rs ∨ holds then s
  else
    let pc := (s.die d).pc.toNat
    let s := (s.onDie d fun k => { k with waiting := false }).fetched d 1
    if iramSize ≤ pc then s.ccExcept d causeAccess
    else if (Store.get .none s.iramErr (iramBase d / 8 + pc / 8)).past then (s.dieFatal d 1).ccExcept d causeMemory
    else f s

/-- The instruction completes and the next one follows. -/
def State.ccNext (s : State) (d : DieId) : State :=
  (s.onDie d fun k => { k with pc := k.pc + 4, exFrom := s.ac + 1 }).retired d

/-- A taken transfer: the two instructions behind it are squashed, and its target enters EX three ac later (R443).  What a
target that is not aligned to 4 bytes does is open. -/
def State.ccGo (s : State) (d : DieId) (target : Word64) : State :=
  let s := (s.fetched d 2).onDie d fun k => { k with exFrom := s.ac + 3 }
  let s := if target.toNat % 4 = 0 then s.onDie d fun k => { k with pc := target }
    else (s.onDie d fun k => { k with pc := BitVec.ofNat 64 (Config.freeNat s.free) }).draw 1
  s.retired d

/-- A register's value is ready `lat` ac after the EX ac of the instruction that writes it (R442). -/
def Die.readyAt (k : Die) (rd : BitVec 5) (at_ : Nat) : Die := { k with gFrom := Store.set 0 k.gFrom rd.toNat at_ }
/-- A result into a register, and the next instruction. -/
def State.ccPut (s : State) (d : DieId) (rd : BitVec 5) (v : Word64) (lat : Nat) : State :=
  (s.onDie d fun k => (k.setGreg rd v).readyAt rd (s.ac + lat)).ccNext d

/-- A result that the manual does not state: the register takes a free value. -/
def State.ccFree (s : State) (d : DieId) (rd : BitVec 5) (lat : Nat) : State :=
  (s.ccPut d rd (BitVec.ofNat 64 (Config.freeNat s.free)) lat).draw 1

/-! ### Integer, multiply, divide (R442) -/

def Die.src (k : Die) : CcSrc → Word64
  | .reg r => k.greg r
  | .imm v => v
def srcRegs : CcSrc → List (BitVec 5)
  | .reg r => [r]
  | .imm _ => []

/-- A result of the integer class; a shift of 64 or more has none that the manual states. -/
def ccInt (op : CcInt) (a b : Word64) : Option Word64 :=
  match op with
  | .add => some (a + b)
  | .sub => some (a - b)
  | .and => some (a &&& b)
  | .or => some (a ||| b)
  | .xor => some (a ^^^ b)
  | .shl => if b.toNat < 64 then some (a <<< b.toNat) else none
  | .shr => if b.toNat < 64 then some (a >>> b.toNat) else none
  | .sar => if b.toNat < 64 then some (a.sshiftRight b.toNat) else none
  | .slt => some (if a.toInt < b.toInt then 1 else 0)
  | .sltu => some (if a.toNat < b.toNat then 1 else 0)
  | .lui => some b

/-- CC_INTEGER_OP (R440, R442). -/
def execCcIntegerOp (d : DieId) (op : CcInt) (rd rs : BitVec 5) (src : CcSrc) (s : State) :
    Host.Outcome State Fault Refusal :=
  .next (s.ccRun d (rs :: srcRegs src) (s.irqFirst d) fun s =>
    match ccInt op ((s.die d).greg rs) ((s.die d).src src) with
    | some v => s.ccPut d rd v 1
    | none => s.ccFree d rd 1)

def ccMul (op : CcMul) (a b : Word64) : Word64 :=
  match op with
  | .mul => a * b
  | .mulh => BitVec.ofInt 64 (a.toInt * b.toInt / 2 ^ 64)
  | .mulhu => BitVec.ofNat 64 (a.toNat * b.toNat / 2 ^ 64)

/-- CC_MULTIPLY (R442). -/
def execCcMultiply (d : DieId) (op : CcMul) (rd rs rt : BitVec 5) (s : State) : Host.Outcome State Fault Refusal :=
  .next (s.ccRun d [rs, rt] (s.irqFirst d) fun s => s.ccPut d rd (ccMul op ((s.die d).greg rs) ((s.die d).greg rt)) 3)

/-- Division by zero gives all ones or the dividend; a quotient that does not fit has no stated value. -/
def ccDiv (op : CcDiv) (a b : Word64) : Option Word64 :=
  match op with
  | .div =>
    if b = 0 then some (BitVec.allOnes 64)
    else if a.toInt = -2 ^ 63 ∧ b.toInt = -1 then none else some (BitVec.ofInt 64 (a.toInt.tdiv b.toInt))
  | .divu => if b = 0 then some (BitVec.allOnes 64) else some (BitVec.ofNat 64 (a.toNat / b.toNat))
  | .rem => if b = 0 then some a else some (BitVec.ofInt 64 (a.toInt.tmod b.toInt))
  | .remu => if b = 0 then some a else some (BitVec.ofNat 64 (a.toNat % b.toNat))

/-- CC_DIVIDE (R442). -/
def execCcDivide (d : DieId) (op : CcDiv) (rd rs rt : BitVec 5) (s : State) : Host.Outcome State Fault Refusal :=
  .next (s.ccRun d [rs, rt] (s.irqFirst d) fun s =>
    match ccDiv op ((s.die d).greg rs) ((s.die d).greg rt) with
    | some v => s.ccPut d rd v 36
    | none => s.ccFree d rd 36)

/-! ### The address space (R441) -/

def widthOf : CcWidth → Nat
  | .b => 1
  | .h => 2
  | .w => 4
  | .d => 8

/-- The ranges of R441. -/
inductive CcPlace where
  | iram | dram | window | body | none
  deriving DecidableEq, Repr

def ccPlace (a : Nat) : CcPlace :=
  if a < iramSize then .iram
  else if dramBase ≤ a ∧ a < dramBase + dramSize then .dram
  else if 0x20000000 ≤ a ∧ a < 0x30000000 then .window
  else if 0x30000000 ≤ a ∧ a < 0x30001000 then .body
  else .none

/-- The layout offset behind an address of the window; none beyond the die region (R738). -/
def windowOff (d : DieId) (a : Nat) : Option Nat :=
  if 0x20000000 ≤ a ∧ a < 0x21000000 then some (dieBase d + a % 0x01000000) else none
/-- The register block behind an address of the window. -/
def windowBlk (d : DieId) (a : Nat) : Option Blk :=
  match windowOff d a with
  | some o => (blockOf o).map Prod.fst
  | none => none

/-- The exception of an access: alignment first, then the place. -/
def ccBad (a w : Nat) (store : Bool) : Option Nat :=
  if a % w ≠ 0 then some causeAlign
  else
    match ccPlace a with
    | .dram => none
    | .window => if w = 4 then none else some causeAccess
    | .iram | .body => if store then some causeAccess else none
    | .none => some causeAccess

/-! ### Loads and stores (R446 to R450) -/

def StEntry.overlaps (e : StEntry) (a w : Nat) : Bool := decide (e.addr < a + w) && decide (a < e.addr + e.width)
def StEntry.covers (e : StEntry) (a w : Nat) : Bool := decide (e.addr ≤ a) && decide (a + w ≤ e.addr + e.width)
/-- The newest buffered store that overlaps a load. -/
def Die.newest (k : Die) (a w : Nat) : Option StEntry := k.stbuf.reverse.find? fun e => e.overlaps a w

/-- A load that must wait for the store buffer: a partial overlap in data SRAM, or a store to the same register block, which the
load follows by an ac at least (R447, R449). -/
def State.loadHolds (s : State) (d : DieId) (a w : Nat) : Bool :=
  (ccBad a w false).isNone &&
    match ccPlace a with
    | .dram => match (s.die d).newest a w with | some e => !e.covers a w | none => false
    | .window =>
      let same (b : Nat) : Bool := ccPlace b == .window && windowBlk d b == windowBlk d a
      ((s.die d).stbuf.any fun e => same e.addr) || (decide (s.ac < (s.die d).stFree) && same (s.die d).stLast)
    | _ => false

/-- Whether a register of the window lies in an ACLK block. -/
def inAclk (d : DieId) (a : Nat) : Bool :=
  match (windowOff d a).bind blockOf with
  | some (b, off) => b.clock off == .aclk
  | none => true
/-- The latency of a load (R442, R447, R449).  DESIGN CHOICE: a load from instruction SRAM takes 2 ac, as one from data SRAM,
and one from the body window 6 ac, as one from a block in ACLK (log 211). -/
def loadTime (d : DieId) (a : Nat) : Nat :=
  match ccPlace a with
  | .window => if inAclk d a then 6 else 10
  | .body => 6
  | _ => 2

/-- The loaded number, sign or zero extended to 64 bits. -/
def extendTo (w : Nat) (unsigned : Bool) (v : Nat) : Word64 :=
  if unsigned then BitVec.ofNat 64 v else BitVec.ofInt 64 (signedOf (8 * w) v)

/-- The bytes of a body window; beyond the body that the sequencer holds open they are open. -/
def State.bodyNat (s : State) (d : DieId) (a w : Nat) : State × Nat :=
  let o := a % 0x10000000
  match (s.die d).block with
  | some b =>
    match b.body[o / 64]? with
    | some l => (s, l.toNat / 2 ^ (8 * (o % 64)) % 2 ^ (8 * w))
    | none => (s.draw 1, Config.freeNat s.free % 2 ^ (8 * w))
  | none => (s.draw 1, Config.freeNat s.free % 2 ^ (8 * w))

/-- The value of a load, or none for an uncorrectable error; the flag says that the error is the instruction SRAM's. -/
def State.loadValue (s : State) (d : DieId) (a w : Nat) : State × Option Nat :=
  match ccPlace a with
  | .iram =>
    if (Store.get .none s.iramErr (iramBase d / 8 + a / 8)).past then (s.dieFatal d 1, none)
    else (s, some (s.iram.nat (iramBase d + a) w))
  | .dram =>
    match (s.die d).newest a w with
    | some e => (s, some (e.data / 2 ^ (8 * (a - e.addr)) % 2 ^ (8 * w)))
    | none =>
      if (Store.get .none s.dramErr (dramAt d a / 8)).past then (s.ccFault d 0, none)
      else (s, some (s.dram.nat (dramAt d a) w))
  | .window =>
    match windowOff d a with
    | some o =>
      let r := s.layoutRead (.cc d) o
      (r.1, some r.2)
    | none => (s, some 0)
  | .body =>
    let r := s.bodyNat d a w
    (r.1, some r.2)
  | .none => (s, some 0)

/-- CC_LOAD (R441, R442, R447 to R449). -/
def execCcLoad (d : DieId) (wd : CcWidth) (unsigned : Bool) (rd rs : BitVec 5) (off : Word64) (s : State) :
    Host.Outcome State Fault Refusal :=
  let a := ((s.die d).greg rs + off).toNat
  let w := widthOf wd
  .next (s.ccRun d [rs] (s.irqFirst d || s.loadHolds d a w) fun s =>
    match ccBad a w false with
    | some c => s.ccExcept d c
    | none =>
      let r := s.loadValue d a w
      match r.2 with
      | some v => r.1.ccPut d rd (extendTo w unsigned v) (loadTime d a)
      | none => r.1.ccExcept d causeMemory)

/-- CC_STORE (R441, R442, R446): a store that meets a buffer of 8 entries holds. -/
def execCcStore (d : DieId) (wd : CcWidth) (rt rs : BitVec 5) (off : Word64) (s : State) :
    Host.Outcome State Fault Refusal :=
  let a := ((s.die d).greg rs + off).toNat
  let w := widthOf wd
  .next (s.ccRun d [rs, rt] (s.irqFirst d || ((ccBad a w true).isNone && decide (8 ≤ (s.die d).stbuf.length))) fun s =>
    match ccBad a w true with
    | some c => s.ccExcept d c
    | none =>
      (s.onDie d fun k =>
        { k with stbuf := k.stbuf ++ [⟨a, w, (k.greg rt).toNat % 2 ^ (8 * w), s.ac + 1⟩] }).ccNext d)

/-- A store reaches data SRAM: a whole code word is sound again, a part of one is merged with what the code corrects. -/
def State.dramWrite (s : State) (d : DieId) (a w v : Nat) : State :=
  let key := dramAt d a / 8
  let e := Store.get .none s.dramErr key
  (s.dramSet (dramAt d a) (leBytes w v)).setDramErr key (if w = 8 ∨ !e.past then .none else e)

/-- The drain time of a store: 1 ac to data SRAM, 2 to a register in ACLK, 4 to one in NCLK (R446). -/
def drainTime (d : DieId) (a : Nat) : Nat :=
  if ccPlace a = .dram then 1 else if inAclk d a then 2 else 4

/-- STORE_DRAIN (R410, R446): the oldest entry reaches data SRAM or its register block in the last ac of its drain time, which
begins in its MEM ac or after the drain of the entry before it. -/
def execStoreDrain (d : DieId) (s : State) : Host.Outcome State Fault Refusal :=
  .next (
    match (s.die d).stbuf with
    | [] => s
    | e :: rest =>
      if s.ac + 1 < Nat.max e.from_ (s.die d).stFree + drainTime d e.addr then s else
      let s := s.onDie d fun k => { k with stbuf := rest, stFree := s.ac + 1, stLast := e.addr }
      if ccPlace e.addr = .dram then s.dramWrite d e.addr e.width e.data
      else
        match windowOff d e.addr with
        | some o => s.layoutWrite (.cc d) o e.data 0 0
        | none => s)

/-- CC_FENCE (R450). -/
def execCcFence (d : DieId) (s : State) : Host.Outcome State Fault Refusal :=
  .next (s.ccRun d [] (s.irqFirst d || !(s.die d).stbuf.isEmpty) fun s => s.ccNext d)

/-! ### Control flow and system (R442, R443, R454 to R458, R468) -/

def ccTaken (c : CcCond) (a b : Word64) : Bool :=
  match c with
  | .eq => a == b
  | .ne => a != b
  | .lt => decide (a.toInt < b.toInt)
  | .ge => decide (b.toInt ≤ a.toInt)
  | .ltu => decide (a.toNat < b.toNat)
  | .geu => decide (b.toNat ≤ a.toNat)

/-- CC_BRANCH (R442, R443). -/
def execCcBranch (d : DieId) (cond : CcCond) (rs rt : BitVec 5) (off : Word64) (s : State) :
    Host.Outcome State Fault Refusal :=
  .next (s.ccRun d [rs, rt] (s.irqFirst d) fun s =>
    let k := s.die d
    if ccTaken cond (k.greg rs) (k.greg rt) then s.ccGo d (k.pc + off) else s.ccNext d)

/-- CC_JUMP (R443): JAL, or JALR through a register; the register named takes the return address. -/
def execCcJump (d : DieId) (rd : BitVec 5) (base : Option (BitVec 5)) (off : Word64) (s : State) :
    Host.Outcome State Fault Refusal :=
  .next (s.ccRun d base.toList (s.irqFirst d) fun s =>
    let k := s.die d
    let t := (match base with | some r => k.greg r | none => k.pc) + off
    (s.onDie d fun k => (k.setGreg rd (k.pc + 4)).readyAt rd (s.ac + 1)).ccGo d t)

/-- CSRR (R468). -/
def execCsrr (d : DieId) (rd : BitVec 5) (csr : CcCsr) (s : State) : Host.Outcome State Fault Refusal :=
  .next (s.ccRun d [] (s.irqFirst d) fun s => s.ccPut d rd ((s.die d).csr csr) 1)

/-- CSRW (R468). -/
def execCsrw (d : DieId) (csr : CcCsr) (rs : BitVec 5) (s : State) : Host.Outcome State Fault Refusal :=
  .next (s.ccRun d [rs] (s.irqFirst d) fun s => (s.onDie d fun k => k.setCsr csr (k.greg rs)).ccNext d)

/-- ERET (R443, R455, R468). -/
def execEret (d : DieId) (s : State) : Host.Outcome State Fault Refusal :=
  .next (s.ccRun d [] (s.irqFirst d) fun s =>
    (s.onDie d fun k => { k with resume := k.eresume, ie := true }).ccGo d (s.die d).epc)

/-- WFI (R442): with no enabled source pending the core waits. -/
def execWfi (d : DieId) (s : State) : Host.Outcome State Fault Refusal :=
  .next (s.ccRun d [] (s.irqFirst d) fun s =>
    let s := s.ccNext d
    if s.irqReady d = 0 then s.onDie d fun k => { k with waiting := true } else s)

/-- INTERRUPT_ENTRY (R455 to R458): the lowest enabled pending cause; the instructions in ID and EX are squashed. -/
def execInterruptEntry (d : DieId) (s : State) : Host.Outcome State Fault Refusal :=
  .next (
    let k := s.die d
    match lowestBit (s.irqReady d) with
    | some b => if k.ie ∧ !k.halted ∧ k.exFrom ≤ s.ac then (s.onDie d fun k => k.enter (8 + b) s.ac).fetched d 2 else s
    | none => s)

/-- CARILLON_TIMER_MATCH (R457): the TIMER cause becomes pending once for a value of CQ_CCTIMER. -/
def execCarillonTimerMatch (d : DieId) (s : State) : Host.Outcome State Fault Refusal :=
  .next (
    let t := s.reg (.cqDie d) 0x58 + s.reg (.cqDie d) 0x5C * 2 ^ 32
    if s.car < t ∨ (s.die d).timerDone then s
    else (s.orReg (.cqDie d) 0x48 16).onDie d fun k => { k with timerDone := true })

/-! ### Long instructions (R451 to R454) -/

def opCopyLong : Nat := 1
def opFillLong : Nat := 2
def opDigest : Nat := 3

/-- An operand range: 64-byte alignment, then its place. -/
def rangeBad (a n : Nat) : Option Nat :=
  if a % 64 ≠ 0 ∨ n % 64 ≠ 0 then some causeAlign
  else if a < dramBase ∨ dramBase + dramSize < a + n then some causeAccess
  else none

def firstSome : List (Option Nat) → Option Nat
  | [] => none
  | some c :: _ => some c
  | none :: t => firstSome t

/-- A unit of data SRAM with an uncorrectable error. -/
def State.unitUce (s : State) (d : DieId) (a : Nat) : Bool :=
  (List.range 8).any fun i => (Store.get .none s.dramErr (dramAt d a / 8 + i)).past

def State.unitRead (s : State) (d : DieId) (a n : Nat) : List Byte := s.dram.bytes (dramAt d a) n
def State.unitWrite (s : State) (d : DieId) (a : Nat) (b : List Byte) : State :=
  (s.dramSet (dramAt d a) b).dramSound (dramAt d a / 8) (dramAt d a / 8 + b.length / 8)

/-- Units `u` to `u + n - 1` of a long instruction; none when a unit cannot be read. -/
def State.units (s : State) (f : State → Nat → Option State) (u : Nat) : Nat → Option State × State
  | 0 => (some s, s)
  | n + 1 =>
    match f s u with
    | some t => State.units t f (u + 1) n
    | none => (none, s)

/-- A long instruction of `total` units: it begins at the saved unit, and where an enabled interrupt is pending it breaks off
after `limit` units and the interrupt is taken (R454).  `n` units from unit `u` on take `time u n` ac, and what `fin` does
takes `last` (R451). -/
def State.ccLong (s : State) (d : DieId) (op total : Nat) (limit : Option (BitVec 14)) (f : State → Nat → Option State)
    (time : Nat → Nat) (fin : State → State × Nat) : State :=
  let k := s.die d
  let first := if k.resume.getLsbD 63 ∧ resumeOp k.resume = op then resumeDone k.resume else 0
  let left := total - first
  let stop := match limit with
    | some n => if k.ie ∧ s.irqReady d ≠ 0 ∧ Nat.max 1 n.toNat < left then some (Nat.max 1 n.toNat) else none
    | none => none
  let r := s.units f first (stop.getD left)
  match r.1 with
  | none => (r.2.ccFault d 0).ccExcept d causeMemory
  | some t =>
    match stop, lowestBit (t.irqReady d) with
    | some n, some b =>
      (t.onDie d fun k => Die.enter { k with resume := resumeWord op (first + n) } (8 + b) (s.ac + time n)).fetched d 2
    | _, _ =>
      let (t, last) := fin t
      ((t.onDie d fun k => { k with resume := 0 }).ccNext d).onDie d fun k =>
        { k with exFrom := s.ac + Nat.max 1 (time left + last) }

def Die.gnat (k : Die) (r : BitVec 5) : Nat := (k.greg r).toNat

/-- A long instruction enters EX when the store buffer is empty (R451); one that an interrupt is to break off begins before
the interrupt is taken (R454). -/
def State.longHolds (s : State) (d : DieId) (units : Option (BitVec 14)) : Bool :=
  !(s.die d).stbuf.isEmpty || (units.isNone && s.irqFirst d)

/-- PAGE_COPY (R451): 2 ac a unit. -/
def execPageCopy (d : DieId) (ga gb gc : BitVec 5) (units : Option (BitVec 14)) (s : State) :
    Host.Outcome State Fault Refusal :=
  .next (s.ccRun d [ga, gb, gc] (s.longHolds d units) fun s =>
    let k := s.die d
    let n := k.gnat gc
    match firstSome [rangeBad (k.gnat ga) n, rangeBad (k.gnat gb) n] with
    | some c => s.ccExcept d c
    | none =>
      s.ccLong d opCopyLong (n / 64) units (fun s u =>
        if s.unitUce d (k.gnat ga + 64 * u) then none
        else some (s.unitWrite d (k.gnat gb + 64 * u) (s.unitRead d (k.gnat ga + 64 * u) 64)))
        (2 * ·) fun s => (s, 0))

/-- FILL_LONG (R451): 1 ac a unit. -/
def execFillLong (d : DieId) (ga gb gc : BitVec 5) (units : Option (BitVec 14)) (s : State) :
    Host.Outcome State Fault Refusal :=
  .next (s.ccRun d [ga, gb, gc] (s.longHolds d units) fun s =>
    let k := s.die d
    let n := k.gnat gc
    match rangeBad (k.gnat ga) n with
    | some c => s.ccExcept d c
    | none =>
      s.ccLong d opFillLong (n / 64) units (fun s u =>
        some (s.unitWrite d (k.gnat ga + 64 * u) ((List.replicate 8 (leBytes 8 (k.gnat gb))).flatten)))
        id fun s => (s, 0))

/-- The hash words of a DIGEST state (R452). -/
def State.dgWords (s : State) (d : DieId) (a : Nat) : List Word64 :=
  (List.range 8).map fun i => BitVec.ofNat 64 (s.dram.nat (dramAt d a + 8 * i) 8)
def State.setDgWords (s : State) (d : DieId) (a : Nat) (h : List Word64) : State :=
  s.dramSet (dramAt d a) (h.flatMap fun w => leBytes 8 w.toNat)
def State.dgFill (s : State) (d : DieId) (a : Nat) : Nat := s.dram.nat (dramAt d a + 208) 1
def State.dgLen (s : State) (d : DieId) (a : Nat) : Nat := s.dram.nat (dramAt d a + 192) 16

/-- A state whose fill is neither 0 nor 64 is none that DIGEST leaves; what an update makes of it is open. -/
def State.dgOpen (s : State) (d : DieId) (a : Nat) : State :=
  (s.dramSet (dramAt d a) (leBytes 209 (Config.freeNat s.free))).draw 1

/-- One 64-byte unit joins a DIGEST state; every second one completes a block. -/
def State.dgUnit (s : State) (d : DieId) (a : Nat) (b : List Byte) : State :=
  let n := s.dgFill d a
  let m := dramAt d a
  let s := s.dramSet (m + 192) (leBytes 16 ((s.dgLen d a + 512) % 2 ^ 128))
  if n = 0 then (s.dramSet (m + 64) b).dramSet (m + 208) (leBytes 1 64)
  else if n = 64 then
    let t := (s.dramSet (m + 128) b).dramSet (m + 208) (leBytes 1 0)
    t.setDgWords d a (shaCompress (t.dgWords d a) (t.dram.bytes (m + 64) 128))
  else s.dgOpen d a

/-- fin = 1: the padding, and the digest in bytes 0 to 47. -/
def State.dgFinish (s : State) (d : DieId) (a : Nat) : State :=
  let n := s.dgFill d a
  if n = 0 ∨ n = 64 then
    let m := s.dram.bytes (dramAt d a + 64) n ++ [0x80] ++ List.replicate (111 - n) 0 ++ beBytes 16 (s.dgLen d a)
    s.dramSet (dramAt d a) (digestBytes (shaOut (shaCompress (s.dgWords d a) m)))
  else s.dgOpen d a

/-- The ac that `n` units of DIGEST take on a state with fill `fill`: 1 for the first of a block, 80 for the second (R451). -/
def digestTime (fill n : Nat) : Nat :=
  let k := (n + (if fill = 64 then 1 else 0)) / 2
  80 * k + (n - k)
/-- The padding takes at most 162 ac (R452), a free value. -/
def State.finTime (s : State) : State × Nat := (s.draw 1, 1 + Config.freeNat s.free % 162)

/-- DIGEST (R451, R452). -/
def execDigest (d : DieId) (ga gb gc : BitVec 5) (fin : Bool) (units : Option (BitVec 14)) (s : State) :
    Host.Outcome State Fault Refusal :=
  .next (s.ccRun d [ga, gb, gc] (s.longHolds d units) fun s =>
    let k := s.die d
    let n := k.gnat gc
    let st := k.gnat gb
    let stBad := if st % 256 ≠ 0 then some causeAlign else rangeBad st 256
    match firstSome [rangeBad (k.gnat ga) n, stBad] with
    | some c => s.ccExcept d c
    | none =>
      if (List.range 4).any fun i => s.unitUce d (st + 64 * i) then (s.ccFault d 0).ccExcept d causeMemory
      else
        s.ccLong d opDigest (n / 64) units (fun s u =>
          if s.unitUce d (k.gnat ga + 64 * u) then none
          else some (s.dgUnit d st (s.unitRead d (k.gnat ga + 64 * u) 64)))
          (digestTime (s.dgFill d st)) (fun s => if fin then (s.dgFinish d st).finTime else (s, 0)))

end Sys2Proof.Machine
end

