-- ==== Sys2Proof/Machine/Dispatch.lean ====
section
/-! DEFINITION. One arm per command: its meaning, called once (rigid form). -/

namespace Sys2Proof.Machine

def exec (i : Instr) (s : State) : Host.Outcome State Fault Refusal :=
  match i with
  | .bundleIssue c => Sys2Proof.Machine.execBundleIssue c s
  | .heldBundleIssue c => Sys2Proof.Machine.execHeldBundleIssue c s
  | .holdTimeout c => Sys2Proof.Machine.execHoldTimeout c s
  | .load c token => Sys2Proof.Machine.execLoad c token s
  | .pass c token => Sys2Proof.Machine.execPass c token s
  | .ewise c token => Sys2Proof.Machine.execEwise c token s
  | .voidCommandEnter c => Sys2Proof.Machine.execVoidCommandEnter c s
  | .arrayCommandHead c => Sys2Proof.Machine.execArrayCommandHead c s
  | .loadComplete c => Sys2Proof.Machine.execLoadComplete c s
  | .loadAbandon c => Sys2Proof.Machine.execLoadAbandon c s
  | .feederFetch c => Sys2Proof.Machine.execFeederFetch c s
  | .meshVectorArrive c => Sys2Proof.Machine.execMeshVectorArrive c s
  | .slotRelease c => Sys2Proof.Machine.execSlotRelease c s
  | .termFormation c seg n scalerDiffers => Sys2Proof.Machine.execTermFormation c seg n scalerDiffers s
  | .checkCompare c seg tap error => Sys2Proof.Machine.execCheckCompare c seg tap error s
  | .drainWrite c col tap => Sys2Proof.Machine.execDrainWrite c col tap s
  | .arrayFreeze c => Sys2Proof.Machine.execArrayFreeze c s
  | .arrayThaw c => Sys2Proof.Machine.execArrayThaw c s
  | .passComplete c => Sys2Proof.Machine.execPassComplete c s
  | .swapWaveDone c => Sys2Proof.Machine.execSwapWaveDone c s
  | .mxCtrlDrain c => Sys2Proof.Machine.execMxCtrlDrain c s
  | .arrayDrainDone c => Sys2Proof.Machine.execArrayDrainDone c s
  | .vadd c v => Sys2Proof.Machine.execVadd c v s
  | .vsub c v => Sys2Proof.Machine.execVsub c v s
  | .vmul c v => Sys2Proof.Machine.execVmul c v s
  | .vfma c v => Sys2Proof.Machine.execVfma c v s
  | .vabs c v => Sys2Proof.Machine.execVabs c v s
  | .vneg c v => Sys2Proof.Machine.execVneg c v s
  | .vmax c v => Sys2Proof.Machine.execVmax c v s
  | .vmin c v => Sys2Proof.Machine.execVmin c v s
  | .vrecip c v => Sys2Proof.Machine.execVrecip c v s
  | .vrsqrt c v => Sys2Proof.Machine.execVrsqrt c v s
  | .vexp c v => Sys2Proof.Machine.execVexp c v s
  | .vexpd c v => Sys2Proof.Machine.execVexpd c v s
  | .vcmp c v => Sys2Proof.Machine.execVcmp c v s
  | .vsel c v => Sys2Proof.Machine.execVsel c v s
  | .vmov c v => Sys2Proof.Machine.execVmov c v s
  | .vscansum c v => Sys2Proof.Machine.execVscansum c v s
  | .vscanmax c v => Sys2Proof.Machine.execVscanmax c v s
  | .vmoments c v => Sys2Proof.Machine.execVmoments c v s
  | .vcvt c v => Sys2Proof.Machine.execVcvt c v s
  | .vrand c v => Sys2Proof.Machine.execVrand c v s
  | .vectorResultWrite c => Sys2Proof.Machine.execVectorResultWrite c s
  | .mout c p dout am len => Sys2Proof.Machine.execMout c p dout am len s
  | .min c p din am len => Sys2Proof.Machine.execMin c p din am len s
  | .mpass c p din dout am len => Sys2Proof.Machine.execMpass c p din dout am len s
  | .mred c p din dout w len role => Sys2Proof.Machine.execMred c p din dout w len role s
  | .xissue c p token cq => Sys2Proof.Machine.execXissue c p token cq s
  | .msend c p chan k am tag => Sys2Proof.Machine.execMsend c p chan k am tag s
  | .mpop c p q am => Sys2Proof.Machine.execMpop c p q am s
  | .credtest c pd chan k => Sys2Proof.Machine.execCredtest c pd chan k s
  | .wait c p q token => Sys2Proof.Machine.execWait c p q token s
  | .qtest c pd q token => Sys2Proof.Machine.execQtest c pd q token s
  | .semsig c p ix n => Sys2Proof.Machine.execSemsig c p ix n s
  | .semsigr c p chan ix n => Sys2Proof.Machine.execSemsigr c p chan ix n s
  | .semtry c pd ix n => Sys2Proof.Machine.execSemtry c pd ix n s
  | .semwait c p ix n => Sys2Proof.Machine.execSemwait c p ix n s
  | .mpoll c pd q => Sys2Proof.Machine.execMpoll c pd q s
  | .gong c slackSel => Sys2Proof.Machine.execGong c slackSel s
  | .slack c => Sys2Proof.Machine.execSlack c s
  | .endstep c => Sys2Proof.Machine.execEndstep c s
  | .coreQuiesce c => Sys2Proof.Machine.execCoreQuiesce c s
  | .loop c n target countM1 => Sys2Proof.Machine.execLoop c n target countM1 s
  | .jump c target => Sys2Proof.Machine.execJump c target s
  | .brp c target k pol => Sys2Proof.Machine.execBrp c target k pol s
  | .switchbank c token => Sys2Proof.Machine.execSwitchbank c token s
  | .meshFlitArrive c side parityError => Sys2Proof.Machine.execMeshFlitArrive c side parityError s
  | .dynamicPacketHop c cls parityError => Sys2Proof.Machine.execDynamicPacketHop c cls parityError s
  | .messageEntryArrive c => Sys2Proof.Machine.execMessageEntryArrive c s
  | .semSignalArrive c => Sys2Proof.Machine.execSemSignalArrive c s
  | .creditReturn c => Sys2Proof.Machine.execCreditReturn c s
  | .completionPush c q => Sys2Proof.Machine.execCompletionPush c q s
  | .csRead c => Sys2Proof.Machine.execCsRead c s
  | .csWrite c => Sys2Proof.Machine.execCsWrite c s
  | .csUnitWrite c => Sys2Proof.Machine.execCsUnitWrite c s
  | .dmaJob c => Sys2Proof.Machine.execDmaJob c s
  | .copy c ch => Sys2Proof.Machine.execCopy c ch s
  | .fill c ch => Sys2Proof.Machine.execFill c ch s
  | .compare c ch => Sys2Proof.Machine.execCompare c ch s
  | .dmaChunk c ch => Sys2Proof.Machine.execDmaChunk c ch s
  | .dmaDescComplete c ch => Sys2Proof.Machine.execDmaDescComplete c ch s
  | .dmaLinkRead c ch => Sys2Proof.Machine.execDmaLinkRead c ch s
  | .dmaDoorbell c => Sys2Proof.Machine.execDmaDoorbell c s
  | .dmaQctrlStop c => Sys2Proof.Machine.execDmaQctrlStop c s
  | .stepLaunch x => Sys2Proof.Machine.execStepLaunch x s
  | .bankCopy d => Sys2Proof.Machine.execBankCopy d s
  | .programBlock d => Sys2Proof.Machine.execProgramBlock d s
  | .streamBlock d => Sys2Proof.Machine.execStreamBlock d s
  | .launchBlock d => Sys2Proof.Machine.execLaunchBlock d s
  | .fenceBlock d => Sys2Proof.Machine.execFenceBlock d s
  | .streamPush d => Sys2Proof.Machine.execStreamPush d s
  | .cqCcdone d => Sys2Proof.Machine.execCqCcdone d s
  | .cqCcpushctlGo d queue pos token => Sys2Proof.Machine.execCqCcpushctlGo d queue pos token s
  | .ccIntegerOp d op rd rs src => Sys2Proof.Machine.execCcIntegerOp d op rd rs src s
  | .ccMultiply d op rd rs rt => Sys2Proof.Machine.execCcMultiply d op rd rs rt s
  | .ccDivide d op rd rs rt => Sys2Proof.Machine.execCcDivide d op rd rs rt s
  | .ccLoad d wd unsigned rd rs off => Sys2Proof.Machine.execCcLoad d wd unsigned rd rs off s
  | .ccStore d wd rt rs off => Sys2Proof.Machine.execCcStore d wd rt rs off s
  | .ccBranch d cond rs rt off => Sys2Proof.Machine.execCcBranch d cond rs rt off s
  | .ccJump d rd base off => Sys2Proof.Machine.execCcJump d rd base off s
  | .csrr d rd csr => Sys2Proof.Machine.execCsrr d rd csr s
  | .csrw d csr rs => Sys2Proof.Machine.execCsrw d csr rs s
  | .ccFence d => Sys2Proof.Machine.execCcFence d s
  | .eret d => Sys2Proof.Machine.execEret d s
  | .wfi d => Sys2Proof.Machine.execWfi d s
  | .pageCopy d ga gb gc units => Sys2Proof.Machine.execPageCopy d ga gb gc units s
  | .fillLong d ga gb gc units => Sys2Proof.Machine.execFillLong d ga gb gc units s
  | .digest d ga gb gc fin units => Sys2Proof.Machine.execDigest d ga gb gc fin units s
  | .storeDrain d => Sys2Proof.Machine.execStoreDrain d s
  | .interruptEntry d => Sys2Proof.Machine.execInterruptEntry d s
  | .carillonTimerMatch d => Sys2Proof.Machine.execCarillonTimerMatch d s
  | .cqMboxdoor d fromMc => Sys2Proof.Machine.execCqMboxdoor d fromMc s
  | .seqOpen d => Sys2Proof.Machine.execSeqOpen d s
  | .append d => Sys2Proof.Machine.execAppend d s
  | .share d => Sys2Proof.Machine.execShare d s
  | .cow d => Sys2Proof.Machine.execCow d s
  | .trunc d => Sys2Proof.Machine.execTrunc d s
  | .close d => Sys2Proof.Machine.execClose d s
  | .incref d => Sys2Proof.Machine.execIncref d s
  | .decref d => Sys2Proof.Machine.execDecref d s
  | .commit d => Sys2Proof.Machine.execCommit d s
  | .rollback d => Sys2Proof.Machine.execRollback d s
  | .pgmIllegalOp d => Sys2Proof.Machine.execPgmIllegalOp d s
  | .pgmInit d => Sys2Proof.Machine.execPgmInit d s
  | .pgmInitialisation d => Sys2Proof.Machine.execPgmInitialisation d s
  | .pgmRespop d => Sys2Proof.Machine.execPgmRespop d s
  | .pgmCepop d => Sys2Proof.Machine.execPgmCepop d s
  | .mxCepop c => Sys2Proof.Machine.execMxCepop c s
  | .mxRetire c layer row => Sys2Proof.Machine.execMxRetire c layer row s
  | .pgmRetire d slice row => Sys2Proof.Machine.execPgmRetire d slice row s
  | .rowSwitch u => Sys2Proof.Machine.execRowSwitch u s
  | .psmScrub d pos => Sys2Proof.Machine.execPsmScrub d pos s
  | .wsScrub c => Sys2Proof.Machine.execWsScrub c s
  | .amScrub c => Sys2Proof.Machine.execAmScrub c s
  | .csScrub d slice => Sys2Proof.Machine.execCsScrub d slice s
  | .weightStoreWrite c => Sys2Proof.Machine.execWeightStoreWrite c s
  | .assign d x e => Sys2Proof.Machine.execAssign d x e s
  | .release d => Sys2Proof.Machine.execRelease d s
  | .clearComplete d => Sys2Proof.Machine.execClearComplete d s
  | .meshRemapWrite d v => Sys2Proof.Machine.execMeshRemapWrite d v s
  | .coreAbort d mask => Sys2Proof.Machine.execCoreAbort d mask s
  | .gongWaveComplete x => Sys2Proof.Machine.execGongWaveComplete x s
  | .gongRelease x => Sys2Proof.Machine.execGongRelease x s
  | .gongSum x l m => Sys2Proof.Machine.execGongSum x l m s
  | .gongDec x n => Sys2Proof.Machine.execGongDec x n s
  | .gongTimeout x => Sys2Proof.Machine.execGongTimeout x s
  | .stepDecide x peal => Sys2Proof.Machine.execStepDecide x peal s
  | .faultReportTimeout x e => Sys2Proof.Machine.execFaultReportTimeout x e s
  | .stepCommit x => Sys2Proof.Machine.execStepCommit x s
  | .stepReplay x => Sys2Proof.Machine.execStepReplay x s
  | .stepReport x => Sys2Proof.Machine.execStepReport x s
  | .signAppend e => Sys2Proof.Machine.execSignAppend e s
  | .signatureComplete e => Sys2Proof.Machine.execSignatureComplete e s
  | .carillonLoad => Sys2Proof.Machine.execCarillonLoad s
  | .tsExchangeTimer => Sys2Proof.Machine.execTsExchangeTimer s
  | .tsReq l seq t1 t2 t3 => Sys2Proof.Machine.execTsReq l seq t1 t2 t3 s
  | .tsRsp l seq t1 t2 t3 t4 => Sys2Proof.Machine.execTsRsp l seq t1 t2 t3 t4 s
  | .carillonExchangeLoss => Sys2Proof.Machine.execCarillonExchangeLoss s
  | .holdoverExpire => Sys2Proof.Machine.execHoldoverExpire s
  | .opArm point => Sys2Proof.Machine.execOpArm point s
  | .opSwitch => Sys2Proof.Machine.execOpSwitch s
  | .p10Sample obs => Sys2Proof.Machine.execP10Sample obs s
  | .thermalCap unit tj => Sys2Proof.Machine.execThermalCap unit tj s
  | .thermalCapClear => Sys2Proof.Machine.execThermalCapClear s
  | .thermalTrip unit tj => Sys2Proof.Machine.execThermalTrip unit tj s
  | .railOvercurrent => Sys2Proof.Machine.execRailOvercurrent s
  | .pllLockLoss => Sys2Proof.Machine.execPllLockLoss s
  | .fifoSlip => Sys2Proof.Machine.execFifoSlip s
  | .inputRangeLoss => Sys2Proof.Machine.execInputRangeLoss s
  | .powerCapCheck mean fasterAllows => Sys2Proof.Machine.execPowerCapCheck mean fasterAllows s
  | .coolingCheck inlet outlet flow => Sys2Proof.Machine.execCoolingCheck inlet outlet flow s
  | .marginSample unit slack => Sys2Proof.Machine.execMarginSample unit slack s
  | .moduleReset => Sys2Proof.Machine.execModuleReset s
  | .modRstN level => Sys2Proof.Machine.execModRstN level s
  | .pciePerstN => Sys2Proof.Machine.execPciePerstN s
  | .watchdogExpire => Sys2Proof.Machine.execWatchdogExpire s
  | .bootStageAdvance o => Sys2Proof.Machine.execBootStageAdvance o s
  | .cfgArm => Sys2Proof.Machine.execCfgArm s
  | .cfgLoad => Sys2Proof.Machine.execCfgLoad s
  | .cfgActivate => Sys2Proof.Machine.execCfgActivate s
  | .stage change content d => Sys2Proof.Machine.execStage change content d s
  | .staged change e => Sys2Proof.Machine.execStaged change e s
  | .stageRefused change e => Sys2Proof.Machine.execStageRefused change e s
  | .arm change t => Sys2Proof.Machine.execArm change t s
  | .abort change => Sys2Proof.Machine.execAbort change s
  | .stageTimeout => Sys2Proof.Machine.execStageTimeout s
  | .recordReq e => Sys2Proof.Machine.execRecordReq e s
  | .record policy plan d => Sys2Proof.Machine.execRecord policy plan d s
  | .chimeRound => Sys2Proof.Machine.execChimeRound s
  | .censusTimer => Sys2Proof.Machine.execCensusTimer s
  | .census e weight dig => Sys2Proof.Machine.execCensus e weight dig s
  | .leaseExpire => Sys2Proof.Machine.execLeaseExpire s
  | .moduleExclude e => Sys2Proof.Machine.execModuleExclude e s
  | .knell arrival e cause count sender => Sys2Proof.Machine.execKnell arrival e cause count sender s
  | .knellQueryTimeout e => Sys2Proof.Machine.execKnellQueryTimeout e s
  | .faultReport x e records => Sys2Proof.Machine.execFaultReport x e records s
  | .linkSignalDetect l => Sys2Proof.Machine.execLinkSignalDetect l s
  | .linkTrainDone l passes => Sys2Proof.Machine.execLinkTrainDone l passes s
  | .linkTrainTimeout l => Sys2Proof.Machine.execLinkTrainTimeout l s
  | .linkAdmit l => Sys2Proof.Machine.execLinkAdmit l s
  | .laneFailure l => Sys2Proof.Machine.execLaneFailure l s
  | .linkRetrainTimeout l => Sys2Proof.Machine.execLinkRetrainTimeout l s
  | .linkDown l => Sys2Proof.Machine.execLinkDown l s
  | .cableInsert dk milliwatts => Sys2Proof.Machine.execCableInsert dk milliwatts s
  | .frameReceive l corrected uncorrectable control => Sys2Proof.Machine.execFrameReceive l corrected uncorrectable control s
  | .ident l peerLink e fabricId idDigest => Sys2Proof.Machine.execIdent l peerLink e fabricId idDigest s
  | .packetRoute ix src => Sys2Proof.Machine.execPacketRoute ix src s
  | .packetResidenceExpire l => Sys2Proof.Machine.execPacketResidenceExpire l s
  | .put c => Sys2Proof.Machine.execPut c s
  | .mcast c => Sys2Proof.Machine.execMcast c s
  | .stream c => Sys2Proof.Machine.execStream c s
  | .reduce c => Sys2Proof.Machine.execReduce c s
  | .emit c => Sys2Proof.Machine.execEmit c s
  | .egressFlitArrive c parityError => Sys2Proof.Machine.execEgressFlitArrive c parityError s
  | .putReceive ix => Sys2Proof.Machine.execPutReceive ix s
  | .mcastReceive ix => Sys2Proof.Machine.execMcastReceive ix s
  | .streamReceive ix => Sys2Proof.Machine.execStreamReceive ix s
  | .ackReceive ix => Sys2Proof.Machine.execAckReceive ix s
  | .redUp ix => Sys2Proof.Machine.execRedUp ix s
  | .redDown ix => Sys2Proof.Machine.execRedDown ix s
  | .fabricOpTimeout c entry => Sys2Proof.Machine.execFabricOpTimeout c entry s
  | .inboundEntryTimeout ix => Sys2Proof.Machine.execInboundEntryTimeout ix s
  | .roundTimeout g => Sys2Proof.Machine.execRoundTimeout g s
  | .ccWindowExpire c => Sys2Proof.Machine.execCcWindowExpire c s
  | .tableWrite ix table bank index => Sys2Proof.Machine.execTableWrite ix table bank index s
  | .tableRead ix table bank index => Sys2Proof.Machine.execTableRead ix table bank index s
  | .fabRetag ix bank tag => Sys2Proof.Machine.execFabRetag ix bank tag s
  | .epochArm ix staged => Sys2Proof.Machine.execEpochArm ix staged s
  | .epochActivate ix => Sys2Proof.Machine.execEpochActivate ix s
  | .mrContribute group round => Sys2Proof.Machine.execMrContribute group round s
  | .mrTimeout => Sys2Proof.Machine.execMrTimeout s
  | .send ix => Sys2Proof.Machine.execSend ix s
  | .verify ix => Sys2Proof.Machine.execVerify ix s
  | .wxSendTimeout ix => Sys2Proof.Machine.execWxSendTimeout ix s
  | .shardData ix => Sys2Proof.Machine.execShardData ix s
  | .shardAnswer ix => Sys2Proof.Machine.execShardAnswer ix s
  | .fabWxrpop ix => Sys2Proof.Machine.execFabWxrpop ix s
  | .linkSecuritySession l secret => Sys2Proof.Machine.execLinkSecuritySession l secret s
  | .linkRekey l => Sys2Proof.Machine.execLinkRekey l s
  | .blocks v r step dies entries => Sys2Proof.Machine.execBlocks v r step dies entries s
  | .input v r e lines readError => Sys2Proof.Machine.execInput v r e lines readError s
  | .hostEnd v r step last => Sys2Proof.Machine.execHostEnd v r step last s
  | .frameWrite v r buffers => Sys2Proof.Machine.execFrameWrite v r buffers s
  | .stepRecordWrite v r => Sys2Proof.Machine.execStepRecordWrite v r s
  | .starveExpire v r => Sys2Proof.Machine.execStarveExpire v r s
  | .receiptSlotWrite v => Sys2Proof.Machine.execReceiptSlotWrite v s
  | .ingestWrite v addr bytes => Sys2Proof.Machine.execIngestWrite v addr bytes s
  | .coalesceTimer v r => Sys2Proof.Machine.execCoalesceTimer v r s
  | .hostMboxSend f => Sys2Proof.Machine.execHostMboxSend f s
  | .placeReq v x first dig req => Sys2Proof.Machine.execPlaceReq v x first dig req s
  | .maintDecl v x start lenUs tag => Sys2Proof.Machine.execMaintDecl v x start lenUs tag s
  | .selftestReq q => Sys2Proof.Machine.execSelftestReq q s
  | .drainReq tag => Sys2Proof.Machine.execDrainReq tag s
  | .powerReq watts tag => Sys2Proof.Machine.execPowerReq watts tag s
  | .drillReq start seconds tag => Sys2Proof.Machine.execDrillReq start seconds tag s
  | .functionLevelReset v => Sys2Proof.Machine.execFunctionLevelReset v s
  | .hotReset => Sys2Proof.Machine.execHotReset s
  | .hostLinkLoss => Sys2Proof.Machine.execHostLinkLoss s
  | .debugWindowAccess addr write => Sys2Proof.Machine.execDebugWindowAccess addr write s
  | .latchingRead p offset => Sys2Proof.Machine.execLatchingRead p offset s
  | .mcElogpop p => Sys2Proof.Machine.execMcElogpop p s
  | .ceLogPoll d => Sys2Proof.Machine.execCeLogPoll d s
  | .scrubDeadline c => Sys2Proof.Machine.execScrubDeadline c s
  | .shardVerifyPeriod c found => Sys2Proof.Machine.execShardVerifyPeriod c found s
  | .maintWindowStart x => Sys2Proof.Machine.execMaintWindowStart x s
  | .maintWindowEnd x => Sys2Proof.Machine.execMaintWindowEnd x s
  | .selftestRun d passed => Sys2Proof.Machine.execSelftestRun d passed s
  | .selftestDeadline d => Sys2Proof.Machine.execSelftestDeadline d s
  | .getElog tag => Sys2Proof.Machine.execGetElog tag s
  | .popElog n => Sys2Proof.Machine.execPopElog n s
  | .pldmReset => Sys2Proof.Machine.execPldmReset s
  | .enroll ownerHash => Sys2Proof.Machine.execEnroll ownerHash s
  | .pldmDrain => Sys2Proof.Machine.execPldmDrain s
  | .pldmSelftest q => Sys2Proof.Machine.execPldmSelftest q s
  | .activateFirmware => Sys2Proof.Machine.execActivateFirmware s
  | .getMeasurements => Sys2Proof.Machine.execGetMeasurements s
  | .debugAuth scopes e seconds nonce key sig => Sys2Proof.Machine.execDebugAuth scopes e seconds nonce key sig s
  | .debugGrantEnd => Sys2Proof.Machine.execDebugGrantEnd s
  | .secDbgctlEnd => Sys2Proof.Machine.execSecDbgctlEnd s
  | .registerWrite p offset value hwSet hwInc => Sys2Proof.Machine.execRegisterWrite p offset value hwSet hwInc s
  | .powerOn => Sys2Proof.Machine.execPowerOn s
  | .standbySupplyLoss => Sys2Proof.Machine.execStandbySupplyLoss s
  | .managementControllerFault => Sys2Proof.Machine.execManagementControllerFault s
  | .reachQuery asker neighbour => Sys2Proof.Machine.execReachQuery asker neighbour s
  | .identTimer l => Sys2Proof.Machine.execIdentTimer l s
  | .linkSessionRetry l secret => Sys2Proof.Machine.execLinkSessionRetry l secret s
  | .ingestPageTimeout ix => Sys2Proof.Machine.execIngestPageTimeout ix s
  | .ideKm f => Sys2Proof.Machine.execIdeKm f s
  | .pldmFirmwareUpdate image => Sys2Proof.Machine.execPldmFirmwareUpdate image s
  | .spdmSessionEnd => Sys2Proof.Machine.execSpdmSessionEnd s

end Sys2Proof.Machine
end

