-- ==== Sys2Proof/Machine/Tick.lean ====
section
/-! DEFINITION. What one ac does when no command waits: what the units of the module do on their own at the end of the ac, then
module time, the Carillon count, held and frozen ac, what registers owe, the timed accesses of the new ac and the frames of the
links that begin in it (R22, R112, R113, R115, R248, R345, R480, R509, R684). -/

namespace Sys2Proof.Machine

/-- What the end of an ac leaves of a core: the claims and the first values of that ac go, a thaw that is due takes place. -/
def Core.tick (k : Core) (now : Nat) : Core :=
  let a := k.arr
  let thaws := match a.thawAt with | some u => decide (u ≤ now + 1) | none => false
  { k with
    amUse := k.amUse.filter (fun u => decide (now < u.1)), claims := k.claims.filter (fun w => decide (now < w.2.1))
    psmNow := [], oldRegs := [], dynUsed := []
    arr := { a with frozenAc := a.frozenAc + b2n (a.frozen now), freezeAt := if thaws then none else a.freezeAt
                    thawAt := if thaws then none else a.thawAt, drained := [] } }

/-- The end of an ac in a core: the writes and reads of the engine and of fabric operations take the lanes that are left, the
flits of the ac reach their claimers, the links carry what waits, and the message queues admit what has arrived (R235, R275,
R296, R312, R321, R347). -/
def State.coreEnd (s : State) (c : CoreId) : State :=
  let s := (s.dmaPutsDue c).fabRead c
  let s := ((s.slotEnd c).lanes c).portStep c
  let s := ((s.portEnd c).edgeEnd c).arrEnd c
  ((s.fabStore c).wsCopy c).onCore c fun k => k.admitQueues s.ac

def State.coreTick (s : State) (c : CoreId) : State :=
  let k := s.core c
  let s := s.onCore c fun q => q.tick s.ac
  let held := k.hold ≠ 0 && (match k.heldSince with | some t => decide (t ≤ s.ac) | none => true)
  let s := if held then s.count (.cq c) 0x24 1 else s
  if k.arr.frozen s.ac then s.count (.mx c) 0x28 1 else s

/-- A read whose access ac has come: the flit or the entry leaves, or the unit is filled (R275, R280, R326). -/
def State.timedRead (s : State) (c : CoreId) (t : Timed) : State :=
  match t.kind with
  | .out side j => let (s, b, p) := s.timedLine c t; s.timedFlit c side t.due j (bytesLine b) p
  | .red side j =>
    let (s, ws) := (s.psmNote c t.addr .mred).fourWords c t.addr
    s.timedFlit c side t.due j (ofWords (ws.map Prod.fst)) (ws.any Prod.snd)
  | .msg j => let (s, b, p) := s.timedLine c t; s.msgFill c t.due j (bytesLine b) p
  | .unit n j => let (s, b, p) := s.timedLine c t; s.unitFill c n j b p
  | _ => s

/-- Takes the accesses of a core that satisfy `sel` from its list and performs them, oldest first. -/
def State.timedRun (s : State) (c : CoreId) (sel : Timed → Bool) (f : State → CoreId → Timed → State) : State :=
  let ts := (s.core c).timed.filter sel
  if ts.isEmpty then s
  else ts.foldl (fun s t => f s c t) (s.onCore c fun k => { k with timed := k.timed.filter fun t => !sel t })

/-- The cores that are not as reset leaves them. -/
def State.live (s : State) : List CoreId := s.cores.map fun e => Fin.ofNat 768 e.1

/-- What a new ac finds in a core: the writes of the ac before are in place, and with them the vector results that are due and
the words of a degenerate command (R131, R178, R345). -/
def State.coreBegin (s : State) (c : CoreId) : State :=
  ((s.timedRun c (fun t => t.isWrite && decide (t.due < s.ac)) State.timedWrite).vresAm c).zeroStep c
/-- Then the reads of the ac take place (R345). -/
def State.timedAll (s : State) : State :=
  let s := s.live.foldl (fun s c => s.coreBegin c) s
  s.live.foldl (fun s c => s.timedRun c (fun t => !t.isWrite && decide (t.due ≤ s.ac)) State.timedRead) s

/-- The end of an ac: the slices serve, with the copies of retiring rows, then each core, then the debug window (R328, R637, R739). -/
def State.acEnd (s : State) : State :=
  let s := s.dies.foldl (fun s e => (s.slices (Fin.ofNat 12 e.1)).csCopy (Fin.ofNat 12 e.1)) s
  (s.live.foldl (fun s c => s.coreEnd c) s).dbgEnd

/-- The draw behind the rate of this ac: HOLDOVER runs on at its last rate (R482). -/
def State.carDraw (s : State) : Nat := if s.carState = carHoldover then s.mod.carDraw else Config.freeNat s.free

/-- The rate of the Carillon count in this ac, in parts per 10^6: the manual bounds it (R480), within 100 ppm while LOCKED and
from there in HOLDOVER, and not above 1 in ACQUIRE with the follower ahead of its parent (R482; log 174). -/
def State.carRate (s : State) : Nat :=
  let v := s.carDraw
  if s.carState = carLocked ∨ s.carState = carHoldover then 999900 + v % 201
  else if s.carState = carAcquire ∧ s.mod.carAhead then 999000 + v % 1001
  else 999000 + v % 2001

/-- The Carillon count after `t` tenths of a ns at a rate; `carFrac` holds the fraction in 10^-7 ns. -/
def Mod.carTick (m : Mod) (t rate : Nat) : Mod :=
  let f := m.carFrac + t * rate
  { m with carillon := (m.carillon + f / 10000000) % 2 ^ 64, carFrac := f % 10000000 }

/-- The clock moves on by one ac of `t` tenths of a ns. -/
def State.passAc (s : State) (t : Nat) : State := { s with ac := s.ac + 1, now := s.now + t }

/-- One ac. -/
def State.tick (s : State) : State :=
  let t := acTenths s.point
  let s := s.acEnd
  let s := s.live.foldl (fun s c => s.coreTick c) s
  let s := (s.onMod fun m => { m.carTick t s.carRate with carDraw := s.carDraw }).draw 1
  let s := s.passAc t
  let s := if s.ac % 2 = 0 then s.movePoint else s
  (s.timedAll).undefer.linkFrames

end Sys2Proof.Machine
end

