-- ==== Sys2Proof/Safety.lean ====
section
/-! DEFINITION. What a safe run is: every table and memory of the module keeps its canonical form, and a command changes
only the parts of the state that are its own. -/

namespace Sys2Proof.Machine

/-- Every table and every byte memory of the module is in canonical form: keys strictly rising, no default listed. -/
def State.canonical (s : State) : Prop :=
  (s.ws.wf ∧ s.am.wf ∧ s.psm.wf ∧ s.cs.wf ∧ s.tb.wf ∧ s.pm.wf ∧ s.iram.wf ∧ s.dram.wf ∧ s.mail.wf) ∧
  (Store.wf false s.amPoison ∧ Store.wf false s.psmPoison ∧ Store.wf false s.csPoison ∧ Store.wf false s.tbPoison) ∧
  (Store.wf .none s.wsErr ∧ Store.wf .none s.amErr ∧ Store.wf .none s.psmErr ∧ Store.wf .none s.csErr ∧
    Store.wf .none s.iramErr ∧ Store.wf .none s.dramErr ∧ Store.wf .none s.pmErr) ∧
  (Store.wf 0 s.regs ∧ Store.wf 0 s.latches ∧ Store.wf Core.reset s.cores ∧ Store.wf Die.reset s.dies ∧ Store.wf CtxState.reset s.ctxs ∧
    Store.wf Chain.reset s.chains ∧ Store.wf Link.reset s.links ∧ Store.wf Router.reset s.routers ∧
    Store.wf Group.reset s.rgroups ∧ Store.wf Ring.reset s.rings ∧ Store.wf Func.reset s.funcs)

/-- A part of the state: one memory with its marks, one table of units, or one of the module's own records. -/
inductive Part where
  | regs | latches | deferred | ws | am | psm | cs | tb | pm | iram | dram | mail
  | cores | dies | ctxs | chains | links | routers | rgroups | rings | funcs | mod
  deriving DecidableEq, Repr

/-- A part is the same in two states. -/
def Part.same (s t : State) : Part → Prop
  | .regs => t.regs = s.regs
  | .latches => t.latches = s.latches
  | .deferred => t.deferred = s.deferred
  | .ws => t.ws = s.ws ∧ t.wsErr = s.wsErr
  | .am => t.am = s.am ∧ t.amPoison = s.amPoison ∧ t.amErr = s.amErr
  | .psm => t.psm = s.psm ∧ t.psmPoison = s.psmPoison ∧ t.psmErr = s.psmErr
  | .cs => t.cs = s.cs ∧ t.csPoison = s.csPoison ∧ t.csErr = s.csErr
  | .tb => t.tb = s.tb ∧ t.tbPoison = s.tbPoison
  | .pm => t.pm = s.pm ∧ t.pmErr = s.pmErr
  | .iram => t.iram = s.iram ∧ t.iramErr = s.iramErr
  | .dram => t.dram = s.dram ∧ t.dramErr = s.dramErr
  | .mail => t.mail = s.mail
  | .cores => t.cores = s.cores
  | .dies => t.dies = s.dies
  | .ctxs => t.ctxs = s.ctxs
  | .chains => t.chains = s.chains
  | .links => t.links = s.links
  | .routers => t.routers = s.routers
  | .rgroups => t.rgroups = s.rgroups
  | .rings => t.rings = s.rings
  | .funcs => t.funcs = s.funcs
  | .mod => t.mod = s.mod

/-- What a command may do to the state as a whole: it leaves the queue of commands and the time as they are, takes
back nothing that has left the module, keeps every table and memory canonical, and changes no part but those named. -/
def Within (parts : List Part) (s t : State) : Prop :=
  (t.pending = s.pending ∧ t.ac = s.ac ∧ t.now = s.now ∧ s.free ≤ t.free ∧ s.out <+: t.out) ∧
  (s.canonical → t.canonical) ∧ ∀ p, p ∉ parts → p.same s t

/-- The parts of the state that a command may change: its frame.  Every other memory, table and record stays as it is. -/
def footprint : Instr → List Part
  | .bundleIssue .. | .heldBundleIssue .. | .holdTimeout .. | .vadd .. | .vsub .. | .vmul .. | .vfma ..
  | .vabs .. | .vneg .. | .vmax .. | .vmin .. | .vrecip .. | .vrsqrt .. | .vexp .. | .vexpd .. | .vcmp ..
  | .vsel .. | .vmov .. | .vscansum .. | .vscanmax .. | .vmoments .. | .vcvt .. | .vrand ..
  | .vectorResultWrite .. | .coreQuiesce .. =>
    [.regs, .am, .tb, .cores]
  | .load .. | .pass .. | .ewise .. | .arrayCommandHead .. | .loadComplete .. | .loadAbandon ..
  | .meshVectorArrive .. | .slotRelease .. | .termFormation .. | .checkCompare .. | .passComplete ..
  | .mxCtrlDrain .. | .arrayDrainDone .. | .mout .. | .min .. | .mpass .. | .mred .. | .xissue .. | .msend ..
  | .mpop .. | .wait .. | .qtest .. | .semsig .. | .semsigr .. | .semtry .. | .semwait .. | .brp ..
  | .switchbank .. | .semSignalArrive .. | .completionPush .. | .dmaJob .. | .copy .. | .fill .. | .compare ..
  | .dmaDescComplete .. | .dmaLinkRead .. | .dmaQctrlStop .. | .mxRetire .. | .put .. | .mcast .. | .emit .. =>
    [.regs, .cores]
  | .voidCommandEnter .. | .arrayFreeze .. | .arrayThaw .. | .swapWaveDone .. | .credtest .. | .mpoll ..
  | .gong .. | .slack .. | .endstep .. | .loop .. | .jump .. | .messageEntryArrive .. | .creditReturn ..
  | .csUnitWrite .. | .dmaDoorbell .. | .mxCepop .. | .ccWindowExpire .. =>
    [.cores]
  | .feederFetch .. | .meshFlitArrive .. | .amScrub .. =>
    [.regs, .am, .cores]
  | .drainWrite .. | .psmScrub .. =>
    [.regs, .psm, .cores]
  | .dynamicPacketHop .. | .stream .. =>
    [.regs, .cores, .routers]
  | .csRead .. | .csWrite .. | .streamPush .. | .release .. =>
    [.regs, .cores, .dies]
  | .dmaChunk .. =>
    [.regs, .am, .cs, .cores, .dies]
  | .stepLaunch .. | .launchBlock .. =>
    [.regs, .cores, .dies, .ctxs]
  | .bankCopy .. | .pgmRespop .. | .pgmCepop .. | .pldmSelftest .. =>
    [.dies]
  | .programBlock .. =>
    [.regs, .pm, .cores, .dies, .ctxs]
  | .streamBlock .. | .fenceBlock .. =>
    [.regs, .dies, .ctxs]
  | .cqCcdone .. | .cqCcpushctlGo .. | .interruptEntry .. | .carillonTimerMatch .. | .trunc .. | .close ..
  | .incref .. | .decref .. | .commit .. | .pgmIllegalOp .. | .pgmInit .. | .pgmInitialisation ..
  | .pgmRetire .. =>
    [.regs, .dies]
  | .ccIntegerOp .. | .ccMultiply .. | .ccDivide .. | .ccStore .. | .ccBranch .. | .ccJump .. | .csrr ..
  | .csrw .. | .ccFence .. | .eret .. | .wfi .. | .gongTimeout .. | .faultReportTimeout .. | .marginSample ..
  | .leaseExpire | .moduleExclude .. | .ceLogPoll .. | .shardVerifyPeriod .. =>
    [.regs, .deferred, .cores, .dies, .ctxs, .links, .mod]
  | .ccLoad .. =>
    [.regs, .latches, .deferred, .cores, .dies, .ctxs, .links, .mod]
  | .pageCopy .. | .fillLong .. | .digest .. =>
    [.regs, .deferred, .dram, .cores, .dies, .ctxs, .links, .mod]
  | .storeDrain .. =>
    [.regs, .deferred, .dram, .mail, .cores, .dies, .ctxs, .chains, .links, .routers, .rgroups, .rings, .mod]
  | .cqMboxdoor .. | .epochArm .. | .receiptSlotWrite .. | .hostMboxSend .. =>
    [.regs]
  | .seqOpen .. | .append .. | .share .. | .cow .. | .rollback .. | .csScrub .. =>
    [.regs, .cs, .dies]
  | .rowSwitch .. =>
    [.regs, .ws, .cs, .cores, .dies]
  | .wsScrub .. | .weightStoreWrite .. =>
    [.regs, .ws, .cores]
  | .assign .. =>
    [.regs, .chains]
  | .clearComplete .. =>
    [.regs, .ws, .am, .psm, .cs, .tb, .pm, .mail, .cores, .dies, .ctxs, .chains, .links, .mod]
  | .meshRemapWrite .. | .carillonLoad | .tableWrite .. | .tableRead .. | .fabRetag .. =>
    [.regs, .deferred]
  | .coreAbort .. =>
    [.deferred]
  | .gongWaveComplete .. | .knell .. | .knellQueryTimeout .. | .linkTrainDone .. | .linkTrainTimeout ..
  | .laneFailure .. | .linkRetrainTimeout .. | .linkDown .. | .frameReceive .. | .inboundEntryTimeout .. =>
    [.regs, .deferred, .cores, .dies, .ctxs, .links, .routers, .mod]
  | .gongRelease .. =>
    [.cores, .ctxs]
  | .gongSum .. | .gongDec .. =>
    [.ctxs, .links]
  | .stepDecide .. =>
    [.regs, .deferred, .mail, .cores, .dies, .ctxs, .links, .rings, .mod]
  | .stepCommit .. | .stepReport .. =>
    [.regs, .mail, .cores, .dies, .ctxs, .chains, .links, .rings, .mod]
  | .stepReplay .. =>
    [.regs, .dies, .ctxs, .rings, .mod]
  | .signAppend .. | .signatureComplete .. =>
    [.chains]
  | .tsExchangeTimer =>
    [.links, .mod]
  | .tsReq .. | .linkSignalDetect .. | .cableInsert .. | .ident .. | .identTimer .. =>
    [.links]
  | .tsRsp .. | .carillonExchangeLoss | .holdoverExpire | .opArm .. | .opSwitch | .p10Sample ..
  | .thermalCap .. | .thermalCapClear | .powerCapCheck .. | .coolingCheck .. | .cfgArm | .stage .. | .staged ..
  | .arm .. | .mrTimeout =>
    [.regs, .mod]
  | .thermalTrip .. | .railOvercurrent | .pllLockLoss | .fifoSlip | .inputRangeLoss | .moduleReset
  | .modRstN .. | .watchdogExpire | .cfgActivate | .pldmReset | .powerOn | .standbySupplyLoss
  | .managementControllerFault =>
    [.regs, .latches, .deferred, .ws, .am, .psm, .cs, .tb, .pm, .iram, .dram, .mail, .cores, .dies, .ctxs, .chains, .links, .routers, .rgroups, .rings, .funcs, .mod]
  | .pciePerstN | .functionLevelReset .. | .hotReset | .hostLinkLoss =>
    [.regs, .ctxs, .rings, .mod]
  | .bootStageAdvance .. =>
    [.regs, .deferred, .iram, .links, .mod]
  | .cfgLoad | .record .. =>
    [.regs, .deferred, .mod]
  | .stageRefused .. | .abort .. | .stageTimeout | .mcElogpop .. | .popElog .. | .enroll .. | .getMeasurements
  | .reachQuery .. | .pldmFirmwareUpdate .. =>
    [.mod]
  | .recordReq .. | .getElog .. | .activateFirmware =>
    []
  | .chimeRound | .mrContribute .. =>
    [.regs, .links, .routers, .rgroups, .mod]
  | .censusTimer | .census .. =>
    [.regs, .links, .routers, .mod]
  | .faultReport .. | .maintWindowStart .. | .maintWindowEnd .. =>
    [.ctxs]
  | .linkAdmit .. | .linkSecuritySession .. | .linkRekey .. | .linkSessionRetry .. =>
    [.regs, .links]
  | .packetRoute .. =>
    [.regs, .cores, .links, .routers]
  | .packetResidenceExpire .. =>
    [.links, .routers]
  | .reduce .. =>
    [.regs, .cores, .rgroups]
  | .egressFlitArrive .. =>
    [.regs, .cores, .ctxs, .routers]
  | .putReceive .. | .mcastReceive .. | .streamReceive .. | .ackReceive .. =>
    [.cores, .links, .routers]
  | .redUp .. =>
    [.regs, .links, .routers, .rgroups]
  | .redDown .. =>
    [.regs, .cores, .links, .routers, .rgroups, .mod]
  | .fabricOpTimeout .. | .roundTimeout .. =>
    [.regs, .deferred, .cores, .dies, .ctxs, .links, .rgroups, .mod]
  | .epochActivate .. | .wxSendTimeout .. | .ingestPageTimeout .. =>
    [.regs, .routers]
  | .send .. | .verify .. =>
    [.regs, .cores, .routers, .funcs]
  | .shardData .. =>
    [.cores, .ctxs, .links, .routers]
  | .shardAnswer .. =>
    [.regs, .links, .routers]
  | .fabWxrpop .. =>
    [.routers]
  | .blocks .. =>
    [.regs, .dies, .ctxs, .rings]
  | .input .. =>
    [.regs, .cores, .ctxs, .rings]
  | .hostEnd .. =>
    [.regs, .ctxs, .rings]
  | .frameWrite .. | .starveExpire .. =>
    [.regs, .rings, .mod]
  | .stepRecordWrite .. | .coalesceTimer .. =>
    [.regs, .rings]
  | .ingestWrite .. =>
    [.regs, .funcs]
  | .placeReq .. =>
    [.regs, .mail, .dies, .ctxs]
  | .maintDecl .. =>
    [.regs, .mail, .ctxs]
  | .selftestReq .. =>
    [.regs, .mail, .dies]
  | .drainReq .. | .pldmDrain =>
    [.regs, .mail, .cores, .dies, .ctxs, .links, .mod]
  | .powerReq .. =>
    [.regs, .mail]
  | .drillReq .. =>
    [.regs, .mail, .chains, .routers, .mod]
  | .debugWindowAccess .. =>
    [.regs, .am, .psm, .cs, .cores, .dies, .mod]
  | .latchingRead .. =>
    [.latches]
  | .scrubDeadline .. =>
    [.regs, .deferred, .ws, .mail, .cores, .dies, .ctxs, .links, .mod]
  | .selftestRun .. =>
    [.regs, .deferred, .am, .psm, .tb, .mail, .cores, .dies, .ctxs, .links, .mod]
  | .selftestDeadline .. =>
    [.regs, .mail, .cores, .dies, .ctxs, .mod]
  | .debugAuth .. | .debugGrantEnd | .secDbgctlEnd | .spdmSessionEnd =>
    [.regs, .chains, .routers, .mod]
  | .registerWrite .. =>
    [.regs, .deferred, .mail, .cores, .dies, .ctxs, .chains, .links, .routers, .rgroups, .rings, .mod]
  | .ideKm .. =>
    [.funcs]

/-- The command answers a next state, and what holds of that state. -/
def Gives (i : Instr) (s : State) (post : State → Prop) : Prop := ∃ t, exec i s = .next t ∧ post t

end Sys2Proof.Machine
end

