-- ==== Sys2Proof/Certificates/Slice0/Obligations.lean ====
section
/-! DEFINITION. The statements for the provers.  `Gives c s post` says that command `c` answers a next state from `s`, of
which `post` holds. -/

namespace Sys2Proof.Machine

/-- A core runs, and the slot of an instruction has not issued in this ac (R148, R185, R191). -/
def Free (s : State) (c : CoreId) (slot : Nat) : Prop := (s.core c).mode ≠ .idle ∧ (s.core c).slotUsed s.ac slot = false

/-- The core as it stands once a slot has issued in this ac. -/
def inSlot (s : State) (c : CoreId) (slot : Nat) : Core := (s.useSlots c (2 ^ slot)).core c

/-- An M-slot instruction finds its token at the head of MSQ, and room in the array command queue. -/
def MsqReady (s : State) (c : CoreId) (token : Token) (e : QEntry) : Prop :=
  Free s c sM ∧ (s.core c).isDesync qMSQ = false ∧ s.head c qMSQ = some e ∧ e.token = token ∧
    (s.arr c).queue.length < 4 ∧ (s.arr c).overflow = []

/-- The command that a descriptor from MSQ becomes (R139, R258); in an empty queue it is the head from the next ac on (R102). -/
def matrixCmd (s : State) (c : CoreId) (op : Nat) (token : Token) (e : QEntry) : ArrCmd :=
  { op := BitVec.ofNat 2 op, void := false
    faulted := (issueFaults op (mdesc op e.body)).1 || (issueFaults op (mdesc op e.body)).2
    desc := e.body, token := token, poison := e.poison || e.bad, issuedAt := s.ac
    headAt := if (s.arr c).queue.isEmpty then some (s.ac + 1) else none, started := false, swapTaken := false
    fetched := 0, yfetched := 0, claimed := 0, spoiled := false, bad := false }

/-- The queue behind a head that leaves it in an ac: the next command is the head, no earlier than the ac after it entered
the queue (R102). -/
def headedAt (ac : Nat) : List ArrCmd → List ArrCmd
  | [] => []
  | n :: more => { n with headAt := some (max ac (n.issuedAt + 1)) } :: more

/-- What the M-slot instruction with opcode `op` leaves: its command in the queue, its descriptor consumed. -/
def MatrixEntered (s : State) (c : CoreId) (op : Nat) (token : Token) (e : QEntry) (t : State) : Prop :=
  (t.arr c).queue = (s.arr c).queue ++ [matrixCmd s c op token e] ∧
  (t.core c).queue qMSQ = ((s.core c).queue qMSQ).tail ∧
  ((t.core c).poisoned ↔ (s.core c).poisoned ∨ e.poison ∨ e.bad) ∧
  (∀ c', c' ≠ c → t.core c' = s.core c') ∧ t.am = s.am ∧ t.ws = s.ws ∧ t.psm = s.psm

/-- Every core but `c`, and every memory, is as before. -/
def OtherCores (s : State) (c : CoreId) (t : State) : Prop :=
  (∀ c', c' ≠ c → t.core c' = s.core c') ∧ t.am = s.am ∧ t.ws = s.ws ∧ t.psm = s.psm ∧ t.tb = s.tb ∧ t.cs = s.cs

/-- The command of a V opcode (R269). -/
def vInstr : VOp → CoreId → VSlot → Instr
  | .add, c, v => .vadd c v
  | .sub, c, v => .vsub c v
  | .mul, c, v => .vmul c v
  | .fma, c, v => .vfma c v
  | .abs, c, v => .vabs c v
  | .neg, c, v => .vneg c v
  | .max, c, v => .vmax c v
  | .min, c, v => .vmin c v
  | .recip, c, v => .vrecip c v
  | .rsqrt, c, v => .vrsqrt c v
  | .exp, c, v => .vexp c v
  | .expd, c, v => .vexpd c v
  | .cmp, c, v => .vcmp c v
  | .sel, c, v => .vsel c v
  | .mov, c, v => .vmov c v
  | .scansum, c, v => .vscansum c v
  | .scanmax, c, v => .vscanmax c v
  | .moments, c, v => .vmoments c v
  | .cvt, c, v => .vcvt c v
  | .rand, c, v => .vrand c v

/-- The V instructions that work lane by lane into a row. -/
def VOp.laneWise (op : VOp) (v : VSlot) : Bool :=
  match op with
  | .scansum | .scanmax | .moments | .rand => false
  | .cvt => !v.dam
  | _ => true

/-- A packet of the message class that is a header alone, as it enters the mesh at its core (R226, R238). -/
def headerAlone (dest : Nat) (b : DynBody) (now : Nat) : DynFlit :=
  ⟨1, 0, dest, false, 0, true, b, false, outLocal, now, now⟩

/-- A V instruction issues on a core that runs, and neither its form nor its addresses fault (R180, R252). -/
def VReady (s : State) (c : CoreId) (op : VOp) (v : VSlot) : Prop :=
  Free s c sV ∧ op.illegal v = false ∧ vFormatFault op v = false ∧ vAddrFault op v = false

/-- The state a V instruction reads at issue: due results in place, the instruction counted (R161, R184). -/
def vIssue (s : State) (c : CoreId) : State := ((s.useSlots c (2 ^ sV)).vresDue c).count (.vu c) 0x20 1

/-- The 256 lanes of a source and its poison, read with every due result in place (R152, R161). -/
def vSource (s : State) (c : CoreId) (op : VOp) (v : VSlot) (x : BitVec 11) : List Nat × Bool :=
  let d := vIssue s c
  if srcMode x = 3 then (d.wideLanes c v (d.vMask c op v)).2 else d.srcLanes c v ([], false) x

/-- Lane `j` of a source; the lane of an absent source is not used. -/
def vLane (s : State) (c : CoreId) (op : VOp) (v : VSlot) (n j : Nat) : Nat :=
  ((op.sources v)[n]?.map fun x => ((vSource s c op v x).1.getD j 0)).getD 0

/-- The poison of the sources. -/
def vPoison (s : State) (c : CoreId) (op : VOp) (v : VSlot) : Bool := (op.sources v).any fun x => (vSource s c op v x).2

/-- What a lane of a result holds (R159): the value when the lane is evaluated, else +0 with zm = 1 or nothing. -/
def laneOut (op : VOp) (v : VSlot) (evaluated : Bool) (x : Nat) : Option Word32 :=
  if evaluated then some (BitVec.ofNat 32 x) else if v.zm && op != .sel then some 0 else none

/-- A row result of a V instruction, as its issue leaves it (R157). -/
def RowResult (s : State) (c : CoreId) (op : VOp) (v : VSlot) (row : Nat) (val : Nat → Nat) (r : VRes) : Prop :=
  r.due = s.ac + op.lambda v ∧ r.dest = .row v.dstB row ∧ r.poison = vPoison s c op v ∧ r.lanes.length = 256 ∧
  ∀ j < 256, r.lanes[j]? = some (laneOut op v ((vIssue s c).vMask c op v j) (val j))

/-- An instruction of the X or S slot of a core issues, and its predicate matches (R191, R200). -/
def RunsUnder (s : State) (c : CoreId) (slot : Nat) (p : Pred) : Prop := Free s c slot ∧ (s.how c).runs p = true

/-- Core `c` becomes `k`, and nothing else of the state changes. -/
def OnlyCore (s : State) (c : CoreId) (k : Core) (t : State) : Prop :=
  t.core c = k ∧ (∀ c', c' ≠ c → t.core c' = s.core c') ∧ { t with cores := s.cores } = s

/-- A queue that is not desynchronised shows entry `e`, with the token asked for, at its head (R211, R212). -/
def HeadIs (s : State) (c : CoreId) (q : Nat) (token : Token) (e : QEntry) : Prop :=
  (s.core c).isDesync q = false ∧ s.head c q = some e ∧ e.token = token

/-- The row of an instruction that issues in a slot of a core's bundle. -/
def slotRow : Instr → Option (CoreId × Nat)
  | .load c _ | .pass c _ | .ewise c _ => some (c, sM)
  | .vadd c _ | .vsub c _ | .vmul c _ | .vfma c _ | .vabs c _ | .vneg c _ | .vmax c _ | .vmin c _ | .vrecip c _
  | .vrsqrt c _ | .vexp c _ | .vexpd c _ | .vcmp c _ | .vsel c _ | .vmov c _ | .vscansum c _ | .vscanmax c _
  | .vmoments c _ | .vcvt c _ | .vrand c _ => some (c, sV)
  | .mout c .. | .min c .. | .mpass c .. | .mred c .. | .xissue c .. | .msend c .. | .mpop c .. | .credtest c .. => some (c, sX)
  | .wait c .. | .qtest c .. | .semsig c .. | .semsigr c .. | .semtry c .. | .semwait c .. | .mpoll c .. | .gong c _
  | .slack c | .endstep c => some (c, sS)
  | .loop c .. | .jump c _ | .brp c .. | .switchbank c _ => some (c, sC)
  | _ => none

/-- A bundle issues: counted, its transit entries fired in lockstep, its slots run (R185, R186, R248, R295). -/
def BundleRun (s : State) (c : CoreId) (forced : Bool) (t : State) : Prop :=
  let d := s.startAc c
  let k := d.core c
  let i := k.index.toNat
  let b := d.bundle c k.bank i
  let h : How := ⟨k.mode, k.preds, forced⟩
  let d1 := ((d.useSlots c 31).onCore c fun k => { k with issueFrom := d.ac + 1, hold := 0, heldSince := none }).count (.cq c) 0x20 1
  let d2 := if k.mode = .lockstep then d1.fireTransit c k.bank i else d1
  if bundleBad b i then t = (d2.cqFaultMark c cqBundle).setIndex c (nextIndex i)
  else t = (((((d2.runS c (slotS b) h).runM c (slotM b) h).runV c (slotV b)).runX c (slotX b) h).runC c (slotC b) i h)

/-- The queues that a quiescing core empties (R241). -/
def quietQueues : List Nat := [qMSQ, qXSQ, qMCQ, qCSQ, qDMQ, qFBQ]

/-- A scheduled mesh instruction executes: lockstep, and its predicate matches (R194, R200). -/
def InLockstep (s : State) (c : CoreId) (p : Pred) : Prop :=
  (s.core c).mode = .lockstep ∧ (s.core c).slotUsed s.ac sX = false ∧ (s.how c).runs p = true

/-- Flits offered on a side of core `c` reach core `e`, whose wires are free. -/
def OpenTo (s : State) (c : CoreId) (d : Side) (e : CoreId) : Prop :=
  across c d = .core e ∧ s.fenced c d = false ∧ (s.core e).wires = [] ∧ (s.core c).claims = []

/-- No lane of the core's activation memory is taken, and its code words are sound. -/
def QuietAm (s : State) (c : CoreId) : Prop := (s.core c).amUse = [] ∧ s.amErr = []

/-- Nothing of a core moves on its own at the end of an ac: no flit, result, packet or array word is on its way. -/
def Core.Quiet (k : Core) : Prop :=
  k.wires = [] ∧ k.fired = [] ∧ k.moves = [] ∧ k.vres = [] ∧ k.portIn = [] ∧ k.portOut = [] ∧ k.edge = [] ∧ k.dmaPuts = [] ∧
  k.fabSend = [] ∧ k.fabIn = [] ∧ k.msgWait = [] ∧ k.arr.runs = [] ∧ k.arr.outs = [] ∧ k.arr.slots = [] ∧
  ∀ f ∈ k.dyn, f.cls ≠ 3

/-- No link sends frames, and no row is copied to a spare (R509, R637). -/
def State.NoUpkeep (s : State) : Prop :=
  (∀ l, (s.link l).state < lkProbe) ∧ (∀ c, (s.core c).retiring = none) ∧ ∀ d, (s.pgm d).retiring = none

/-- Core `c` alone owes an access; nothing else of the module acts in this ac. -/
def OwesOnly (s : State) (c : CoreId) (x : Timed) : Prop :=
  s.NoUpkeep ∧ (s.core c).timed = [x] ∧ (∀ c', c' ≠ c → (s.core c').timed = []) ∧ (∀ c', (s.core c').Quiet) ∧
  (∀ d : DieId, ∀ r ∈ (s.die d).xreqs, s.ac < r.arrive) ∧ s.deferred = [] ∧ s.mod.dbg = []

/-- No core owes an access, and nothing of the module acts on its own in this ac. -/
def State.Still (s : State) : Prop :=
  s.NoUpkeep ∧ (∀ c', (s.core c').timed = [] ∧ (s.core c').Quiet) ∧ (∀ d : DieId, ∀ r ∈ (s.die d).xreqs, s.ac < r.arrive) ∧
    s.deferred = [] ∧ s.mod.dbg = []

/-- A context-store write with its line `k` read (R326). -/
def XReq.filled (r : XReq) (k : Nat) (l : Line) (p : Bool) : XReq := { r with data := Store.set (0, false) r.data k (l, p) }

/-- One ac passes on an empty queue, and `post` holds of the next state. -/
def Passes (s : State) (post : State → Prop) : Prop := s.pending = [] → ∃ t, step s = .next t ∧ post t

/-- No memory of cores and dies has changed. -/
def SameMemories (s t : State) : Prop := t.am = s.am ∧ t.ws = s.ws ∧ t.psm = s.psm ∧ t.tb = s.tb ∧ t.cs = s.cs

/-- The command that starts a descriptor of an operation code (R409). -/
def dmaStart : Nat → CoreId → Chan → Instr
  | 1, c, ch => .copy c ch
  | 2, c, ch => .fill c ch
  | _, c, ch => .compare c ch

/-- A channel of core `c` becomes `k`, and no other core, register or memory changes. -/
def OnlyDma (s : State) (c : CoreId) (ch : Chan) (k : Dma) (t : State) : Prop :=
  t.dma c ch = k ∧ (∀ ch', ch' ≠ ch → t.dma c ch' = s.dma c ch') ∧ t.regs = s.regs ∧ OtherCores s c t

/-- A channel may make an access for its next chunk, into activation memory: it has made none in this ac, P makes none when
it is Q, and no access that comes before the engine's is ready (R347, R413, R415). -/
def ChunkReady (s : State) (c : CoreId) (ch : Chan) (op : Nat) : Prop :=
  (s.dma c ch).phase = .run ∧ (s.dma c ch).accAc ≤ s.ac ∧ (ch = .q → s.accesses c .p = false) ∧ s.aboveDma c = 0 ∧
    s.csClosed (dieOf c) = false ∧ dOp (s.dma c ch).desc.toNat = op ∧ dDstSpace (s.dma c ch).desc.toNat = spAm ∧
    dXpose (s.dma c ch).desc.toNat = false ∧ QuietAm s c

/-- Whether a core has issued in this ac: a signal that reaches it now belongs to the next ac (R228). -/
def Issued (s : State) (c : CoreId) : Prop := (s.core c).issueFrom = s.ac + 1 ∨ (s.core c).slotsAt = s.ac + 1

/-- A chunk of activation memory at address `a` exists and is aligned (R416). -/
def ChunkAt (x : Nat) (a : Nat) : Prop := a + dChunk x ≤ 2 ^ 22 ∧ a % dChunk x = 0

/-- The source and the destination address of the next chunk (R415). -/
def chunkSrc (k : Dma) : Int := dAddr (dSrc k.desc.toNat) (dSs k.desc.toNat) (dIdx k.desc.toNat k.pos)
def chunkDst (k : Dma) : Int := dAddr (dDst k.desc.toNat) (dDs k.desc.toNat) (dIdx k.desc.toNat k.pos)

/-- The index of the next bundle that a load writes into the inactive bank of a core (R188, R460). -/
def loadIndex (s : State) (c : CoreId) : Nat :=
  let k := (s.core c).bankOf (!(s.core c).bank)
  if k.complete then 0 else k.cursor

/-- Bundle `i` of a program bank. -/
def bundleAt (s : State) (c : CoreId) (bank : Bool) (i : Nat) : Nat := s.pm.nat (pmBase c bank + 32 * i) 32

/-- The next command block of a die has type `ty`, with header `h`, body `body` and target cores `cs`; `t` is the state
without it (R201 to R204). -/
def BlockIs (s : State) (d : DieId) (ty h : Nat) (body : List Line) (cs : List CoreId) (t : State) : Prop :=
  s.nextBlock d = some (h, body, t) ∧ hType h = ty ∧ t.targets d h = some cs

/-- Every core of a context has arrived at its next Gong, the last of them in ac `last`, and the step has no step-end
wave (R473). -/
def AllArrived (s : State) (x : Ctx) (last : Nat) : Prop :=
  (s.ctx x).active = true ∧ (s.ctx x).stepWave = false ∧ s.coresOfCtx x ≠ [] ∧
    (∀ c ∈ s.coresOfCtx x, ((s.core c).arrivedAt (s.ctx x).gongsDone).isSome = true) ∧
    last = maxNat (((s.coresOfCtx x).map fun c => (s.core c).arrivedAt (s.ctx x).gongsDone).filterMap id)

/-- The root of a context may decide: its merge is complete, its step has no notice, the module holds a lease and every
module of the context has reported (R491, R651, R666). -/
def MayDecide (s : State) (x : Ctx) (own : GongSummary) : Prop :=
  (s.ctx x).mergedAt.isSome = true ∧ (s.ctx x).summary = some own ∧ (s.ctx x).active = true ∧ (s.ctx x).notice = none ∧
    s.leased = true ∧ ∀ e ∈ s.modulesOf x, e ∈ (s.ctx x).reported

/-- The context holds a notice with a decision, a reason and a flags field (R556). -/
def Announced (t : State) (x : Ctx) (dec reason : Byte) (flags : Byte) : Prop :=
  ∃ n, (t.ctx x).notice = some n ∧ n.decision = dec ∧ n.reason = reason ∧ n.flags = flags

/-- The page manager of a die has taken the head command `w` and answered it (R385, R407). -/
def Answered (s : State) (d : DieId) (w : Word64) (status : Nat) (copied : Bool) (frame : Nat) (t : State) : Prop :=
  (t.pgm d).results = (s.pgm d).results ++
    [BitVec.ofNat 32 (2 ^ 31 + status * 2 ^ 28 + (if copied then 2 ^ 27 else 0) + cmdTag w * 2 ^ 20 + frame)] ∧
  (t.pgm d).cmds = (s.pgm d).cmds.tail ∧ t.cores = s.cores

/-- Command `w` with opcode `op` stands at the head of a die's queue, and the page manager may take it (R385, R386). -/
def HeadCmd (s : State) (d : DieId) (op : Nat) (w : Word64) : Prop := s.pgmHead d = some w ∧ cmdOp w = op

/-- The sequence entry that a command's S field names. -/
def seqOf (s : State) (d : DieId) (w : Word64) : Nat := (s.pgm d).seq (cmdS w)

/-- The control core of a die runs the instruction at its pc, which reads the registers `rs`: not halted, not waiting, EX and
the registers are ready, no interrupt comes first, and the instruction's code word is sound (R439, R441, R442, R456). -/
def CcReady (s : State) (d : DieId) (rs : List (BitVec 5)) : Prop :=
  s.ccRuns d = true ∧ (s.die d).mayEnter s.ac rs = true ∧ s.irqFirst d = false ∧ (s.die d).pc.toNat < iramSize ∧
    (Store.get .none s.iramErr (iramBase d / 8 + (s.die d).pc.toNat / 8)).past = false

/-- The registers that an instruction of the control core of a die reads, but for the long ones (R442). -/
def ccReads (d : DieId) : Instr → Option (List (BitVec 5))
  | .ccIntegerOp e _ _ rs src => if e = d then some (rs :: srcRegs src) else none
  | .ccMultiply e _ _ rs rt | .ccDivide e _ _ rs rt | .ccBranch e _ rs rt _ => if e = d then some [rs, rt] else none
  | .ccLoad e _ _ _ rs _ => if e = d then some [rs] else none
  | .ccStore e _ rt rs _ => if e = d then some [rs, rt] else none
  | .ccJump e _ base _ => if e = d then some base.toList else none
  | .csrw e _ rs => if e = d then some [rs] else none
  | .ccFence e | .csrr e _ _ | .eret e | .wfi e => if e = d then some [] else none
  | _ => none

/-- The control core of a die becomes `k`; no other die, no compute core and no other memory changes. -/
def CcBecomes (s : State) (d : DieId) (k : Die) (t : State) : Prop :=
  t.die d = { k with waiting := false } ∧ (∀ d', d' ≠ d → t.die d' = s.die d') ∧ t.cores = s.cores ∧ t.cs = s.cs

/-- The next instruction follows, and may enter EX in ac `at_` (R442). -/
def ccAfter (k : Die) (at_ : Nat) : Die := { k with pc := k.pc + 4, exFrom := at_ }

/-- A register takes a value that is ready `lat` ac later; the next instruction follows in the next ac (R442). -/
def ccWrites (s : State) (k : Die) (rd : BitVec 5) (v : Word64) (lat : Nat) : Die :=
  ccAfter ((k.setGreg rd v).readyAt rd (s.ac + lat)) (s.ac + 1)

/-- A taken transfer to an aligned target, which enters EX three ac later (R443). -/
def ccTo (s : State) (k : Die) (target : Word64) : Die := { k with pc := target, exFrom := s.ac + 3 }

/-- Both operands of a long instruction are aligned ranges of data SRAM, and nothing breaks it off (R451, R454). -/
def LongReady (s : State) (d : DieId) (rs : List (BitVec 5)) : Prop :=
  CcReady s d rs ∧ (s.die d).stbuf = [] ∧ (s.die d).resume = 0 ∧ ((s.die d).ie = false ∨ s.irqReady d = 0) ∧ s.dramErr = []

/-- The answer of an exchange fits the request that a follower has open on its parent link (R481, R558). -/
def ExchangeFits (s : State) (l : LinkId) (seq : Byte) (t1 : Word64) : Prop :=
  s.carSource = false ∧ s.discipline = true ∧ s.carParent = some l ∧ seq = s.mod.tsSeq ∧ t1 = s.mod.txTs

/-- The module is in STANDBY: no unit works and every memory is clear; the log and the flash are kept (R672, R752). -/
def InStandby (s t : State) : Prop :=
  t.cores = [] ∧ t.dies = [] ∧ t.ctxs = [] ∧ t.links = [] ∧ t.ws = [] ∧ t.am = [] ∧ t.psm = [] ∧ t.cs = [] ∧
    t.mod.elog = s.mod.elog ∧ t.mod.nor = s.mod.nor ∧ t.mod.otpMin = s.mod.otpMin

/-- The events that take every rail but standby off (R660, R683, R688, R708). -/
def fatalEvents : List Instr := [.railOvercurrent, .pllLockLoss, .fifoSlip, .managementControllerFault]

/-- A module holds `s` but for what it has sent, and has sent the change message last (R694). -/
def SentChange (s t : State) (sub : Nat) : Prop := ∃ n c d u, t.out = s.out ++ [.change sub n c d u]

/-- A register owes an effect to the start of an nc, at most `n` nc ahead (R18, R528, R565). -/
def Owes (s t : State) (l : Late) (n : Nat) : Prop :=
  t.deferred = s.deferred ++ [l] ∧ l.mclk = false ∧ s.ac < l.due ∧ l.due ≤ s.ac + 2 * n ∧ l.due % 2 = 0

/-- A discard of a router is counted once under its cause (R566). -/
def DropCounted (s t : State) (i : IoId) (cause : Nat) : Prop :=
  Store.get 0 (t.router i).drops cause = Nat.min (Store.get 0 (s.router i).drops cause + 1) 0xFFFFFFFF

/-- A link is DOWN with nothing queued (R561). -/
def LinkIsDown (t : State) (l : LinkId) : Prop :=
  (t.link l).state = lkDown ∧ (t.link l).txq = [] ∧ (t.link l).rxHdr = none ∧ (t.link l).ready = false

/-- A session of a link has completed with a master secret, or has failed (R728). -/
def SessionOutcome (s t : State) (l : LinkId) (m : Option Digest) : Prop :=
  (∀ k, m = some k → (t.link l).secret = some k ∧ (t.link l).ready = true ∧ (t.link l).rekeying = false ∧
    (t.link l).retryAt = none) ∧
  (m = none → (t.link l).retryAt = some (s.now + 1000000000) ∧ (t.link l).ready = (s.link l).ready ∧
    t.reg .sec 0x18C / 2 % 2 = 1)

/-- Every operation of a core with a serial has finished; it is poisoned if `p`. -/
def OpFinished (t : State) (c : CoreId) (serial : Nat) (p : Bool) : Prop :=
  ∀ o ∈ (t.core c).ops, o.serial = serial → o.stage = .finished ∧ (p = true → o.poison = true)

/-- The fabric commands of a core (R537). -/
def fabricCommands (c : CoreId) : List Instr := [.put c, .mcast c, .stream c, .reduce c, .emit c]

/-- A packet of lines of a fabric operation: index `i` of `n` (R519, R539, R540). -/
def LinePacketOf (s : State) (c : CoreId) (o : DynOp) (n : Nat) (p : Packet) : Prop :=
  p.hdr.tcore.toNat % 64 = fTcore o % 64 ∧ p.hdr.taddr.toNat = fDaddr o ∧ p.hdr.fb.toNat + 1 = n ∧
  p.hdr.context = s.dieCtx (dieOf c) ∧ p.hdr.enclave = s.dieEncl (dieOf c) ∧ bits p.hdr.fc.toNat 15 10 = fSem o ∧
  bits p.hdr.fc.toNat 9 6 = fN o

/-- What a core's fabric operation leaves while its lines or words are still to be read: the operation is issued, and nothing
has reached a router (R538). -/
def LeavesCore (s : State) (c : CoreId) (o : DynOp) (words : Bool) (t : State) : Prop :=
  (∃ (p : CoreId) (f : FabSend), s.portOut (s.dieCtx (dieOf c)) c (fIo o) = some p ∧
    (t.core c).fabSend = (s.core c).fabSend ++ [f] ∧ f.serial = o.serial ∧ f.desc = o.desc ∧ f.dest = p.val ∧ f.next = 0 ∧
    f.total = (if words then ceilDiv (fLen o) 4 else fLen o) ∧ f.addr = fSaddr o ∧ f.words = words) ∧
  (∀ q ∈ (t.core c).ops, q.serial = o.serial → q.stage = .issued) ∧ OtherCores s c t ∧ t.routers = s.routers ∧
  t.mod.frames = s.mod.frames

/-- The flits of one packet on its way from an I/O die to a core: a header, then its lines (R321, R547). -/
def PacketFlits (fs : List DynFlit) (cls sub dest now : Nat) (h : DynBody) (p : Bool) (ls : List (Line × Bool)) : Prop :=
  fs.map (fun f => (f.body, f.poison)) = (h, p) :: ls.map (fun l => (DynBody.line l.1, l.2)) ∧
  (∀ f ∈ fs, f.cls = cls ∧ f.sub = sub ∧ f.dest = dest ∧ f.port = false ∧ f.due = now) ∧
  ∀ k f, fs[k]? = some f → f.idx = k ∧ (f.last = true ↔ k + 1 = fs.length)

/-- A packet waits for the link of the port from which the mesh brings it to core `c`, behind what waits there (R547). -/
def Toward (s t : State) (x : Ctx) (c : CoreId) (cls sub : Nat) (h : DynBody) (p : Bool) (ls : List (Line × Bool)) : Prop :=
  ∀ io port, s.portNear x c (List.finRange 4) = some (io, port) → ∃ fs,
    (t.core port).portIn = (s.core port).portIn ++ fs ∧ PacketFlits fs cls sub c.val s.ac h p ls

/-- The same where the command sends several packets, of which this is one. -/
def AmongToward (s t : State) (x : Ctx) (c : CoreId) (cls sub : Nat) (h : DynBody) (p : Bool) (ls : List (Line × Bool)) :
    Prop :=
  ∀ io port, s.portNear x c (List.finRange 4) = some (io, port) → ∃ a fs b,
    (t.core port).portIn = (s.core port).portIn ++ (a ++ fs ++ b) ∧ PacketFlits fs cls sub c.val s.ac h p ls

/-- The lines of a Deusk packet with its poison (R519). -/
def packetData (p : Packet) : List (Line × Bool) := (flitLines p (packetLines p)).map fun l => (l, p.hdr.poison)

/-- A packet of an operation for some cores has joined the operation's entry (R545, R554). -/
def Tracked (s t : State) (i : IoId) (h : Header) (cs : List CoreId) : Prop :=
  ∃ n, t.inboundOf i h = some n ∧ n.lastAt = s.now ∧ n.marked = s.putMarked i h ∧
    (s.inboundOf i h = none → n.cores = cs.map (fun c => c.val) ∧ n.got = [] ∧ n.poison = h.poison)

/-- The answer at the end of a router's local queue (R519, R554). -/
def PutAnswered (s t : State) (i : IoId) (h : Header) (status : Nat) : Prop :=
  ∃ q : Packet, (t.router i).localq = (s.router i).localq ++ [q] ∧ q.hdr.kind = 2 ∧ q.hdr.vc = 2 ∧ q.hdr.dst = h.src ∧
    q.hdr.tag = h.tag ∧ q.hdr.context = h.context ∧ q.hdr.tcore = h.tcore ∧ q.hdr.fa.toNat = status

/-- The PUT that an ACK answers (R542). -/
def State.ackedOp (s : State) (h : Header) : Option (CoreId × DynOp) :=
  s.findOp h.context h.tag fun o => opKind o == 1 && fDst o == h.src.toNat && fTcore o == h.tcore.toNat && !s.isEmit o

/-- The round that a contribution meets or begins (R551). -/
def State.roundNow (s : State) (n : Nat) (round : BitVec 16) : Round :=
  ((s.group n).rounds.find? fun r => r.round == round).getD ⟨round, [], [], [], 0, s.now⟩

/-- A transfer has ended with a status: one answer to its source, and one record while the log has room (R583). -/
def ShardEnded (s t : State) (i : IoId) (src : Endpoint) (tag : BitVec 16) (status : Nat) : Prop :=
  (∃ q : Packet, (t.router i).localq = (s.router i).localq ++ [q] ∧ q.hdr.kind = 7 ∧ q.hdr.dst = src ∧ q.hdr.tag = tag ∧
    q.hdr.fa = 0x8000 ∧ q.hdr.fc.toNat % 4 = status) ∧
  ((s.router i).rxLog.length < 64 → ∃ r, (t.router i).rxLog = (s.router i).rxLog ++ [r] ∧ r.status = status) ∧
  (64 ≤ (s.router i).rxLog.length → (t.router i).rxLog = (s.router i).rxLog)

/-- A job has ended: go is clear and the status bits stand (R585, R588). -/
def JobEnded (t : State) (i : IoId) (bits_ : List Nat) : Prop :=
  (t.router i).job = none ∧ t.fld (.router i) 0x60 31 31 = 0 ∧ ∀ b ∈ bits_, t.reg (.router i) 0x70 / 2 ^ b % 2 = 1

/-- A BLOCKS entry passes the checks of the engine (R601, R605). -/
def BlocksFit (s : State) (v : VfId) (r : RingId) (step : Word32) (dies : BitVec 12) (entries : List Line) : Prop :=
  s.stepBad v r step = false ∧ (∀ d ∈ maskDies dies, s.sqOwns v r d = true) ∧
  headersOk (s.sqCtx v r) entries.length entries = true ∧
  (s.ring v r).changed (sha384 (entries.flatMap lineBytes)) = false

/-- A refused entry: its ring halts with HOST_FAULT.sq_entry and HOST_RSTAT.sq_halt (R601). -/
def SqRefused (s t : State) (v : VfId) (r : RingId) : Prop :=
  (t.ring v r).halted = true ∧ (t.ring v r).fetch = (s.ring v r).fetch ∧ t.reg (.vf v) 0x04 / 2 % 2 = 1 ∧
  t.rreg v r rStat / 2 ^ 3 % 2 = 1 ∧ t.dies = s.dies ∧ t.am = s.am ∧ (t.ctx (s.sqCtx v r)).entriesLost = true

/-- The bytes that an INPUT delivers (R603). -/
def inputBytes (e : InputEntry) (lines : List Line) : List Byte := swapBytes e.swap.toNat (lines.flatMap lineBytes)

/-- The buffers that the ring's posted descriptors give the frame at its head (R610, R612). -/
def State.bufsFor (s : State) (v : VfId) (r : RingId) (f : Frame) (buffers : List (Word64 × BitVec 16)) : Bufs :=
  pickBufs f.data.length
    (buffers.take (if bitAt (s.rreg v r 0x28) 31 then span (s.rreg v r rRbTail) (s.rreg v r rRbHead) else 0))

/-- Lumef has taken a message of a function and answered it last (R619, R626). -/
def MailAnswered (t : State) (f ty tag : Nat) (body : List Byte) : Prop :=
  t.out.getLast? = some (.mail f (mailBytes ty tag body)) ∧ t.fld (fnBlk f) 0x40 31 31 = 0 ∧
  t.fld (fnBlk f) 0x40 30 30 = 1

/-- A function has been reset (R623). -/
def FunctionReset (s t : State) (v : VfId) : Prop :=
  (∀ f ∈ t.mod.frames, f.vf = vfFn v → f.released = false) ∧
  (∀ f ∈ s.mod.frames, (f.vf ≠ vfFn v ∨ f.released = false) → t.mod.frames.count f = s.mod.frames.count f) ∧
  t.fld (.vf v) 0x40 31 31 = 0 ∧
  (v.val ≠ 63 → ∀ r : RingId, (t.ring v r).fetch = 0 ∧ (t.ring v r).stepNow = none ∧ (t.ring v r).halted = false ∧
    (t.ring v r).records = (s.ring v r).records ∧ bitAt (t.rreg v r 0x08) 31 = false)

/-- A register of which a read latches nothing (R748). -/
def Unlatched (b : Blk) (off : Nat) : Prop := ∀ w ∈ latchWords b, off < w.1 ∨ w.1 + 4 * w.2 ≤ off

/-- The layout offset `o` is register `off` of block `b`, and path `p` may write it (R740). -/
def WritableAt (p : Path) (o : BitVec 28) (b : Blk) (off : Nat) : Prop :=
  blockOf o.toNat = some (b, off) ∧ o.toNat % 4 = 0 ∧ b.writable off p = true

/-- Commands that read activation memory, or send lines toward it, and store nothing there (R345, R539, R603, R739). -/
def onlyReadsAm : Instr → Bool
  | .mout .. | .msend .. | .feederFetch .. | .put .. | .mcast .. | .emit .. | .putReceive _ | .mcastReceive _ | .streamReceive _
  | .input .. | .debugWindowAccess .. => true
  | _ => false

/-- A byte of activation memory outside `n` bytes from address `a` of a core is as before. -/
def AmKept (s t : State) (c : CoreId) (a n : Nat) : Prop :=
  ∀ x, (x < amBase c + a ∨ amBase c + a + n ≤ x) → t.am.byte x = s.am.byte x

/-- A byte of data SRAM outside `n` bytes from address `a` of a die is as before. -/
def DramKept (s t : State) (d : DieId) (a n : Nat) : Prop :=
  ∀ x, (x < dramAt d a ∨ dramAt d a + n ≤ x) → t.dram.byte x = s.dram.byte x

/-- No packet of a kind that an I/O die holds may reach a core through any of the core numbers it names (R534). -/
def NoneReaches (s : State) (i : IoId) (c : CoreId) : Prop :=
  ∀ e ∈ (s.router i).delivered, ∀ n, s.mayReach e.pkt.hdr n ≠ some c

/-- The core holds what it held, and no flit for it waits that did not wait before; all activation memory is as before. -/
def CoreUntouched (s t : State) (c : CoreId) : Prop :=
  t.core c = { s.core c with portIn := (t.core c).portIn } ∧ t.am = s.am ∧
    ∀ p : CoreId, ∀ f ∈ (t.core p).portIn, f.dest = c.val → f ∈ (s.core p).portIn

/-- No transfer of an I/O die, and no shard packet delivered there, names a core in a context and enclave that own its die
(R578). -/
def NoShardFor (s : State) (i : IoId) (c : CoreId) : Prop :=
  (∀ u ∈ (s.router i).transfers, u.tcore.toNat = c.val → s.shardHome u = false) ∧
  (∀ e ∈ (s.router i).delivered, e.pkt.hdr.tcore.toNat = c.val →
    ¬(s.holds e.pkt.hdr.context (dieOf c) = true ∧ (s.dieEncl (dieOf c)).toNat = e.pkt.hdr.fc.toNat / 1024))

end Sys2Proof.Machine

open Sys2Proof Sys2Proof.Machine

/-- R258: an M-slot instruction consumes its MSQ descriptor and appends its command to the array command queue. -/
def Obligations.MatrixCommandsEnterTheArrayQueue : Prop :=
  ∀ (s : State) (c : CoreId) (token : Token) (e : QEntry), MsqReady s c token e →
    Gives (.load c token) s (MatrixEntered s c opLoad token e) ∧
    Gives (.pass c token) s (MatrixEntered s c opPass token e) ∧
    Gives (.ewise c token) s (MatrixEntered s c opEwise token e)

/-- R103, R109, R112, R113, R138, R145, R147. -/
def Obligations.ArrayStateCommandsMoveTheArray : Prop :=
  (∀ (s : State) (c : CoreId) (v : ArrCmd) (rest : List ArrCmd),
    (s.arr c).overflow = v :: rest → (s.arr c).queue.length < 4 →
    (∀ q, (s.arr c).queue.getLast? = some q → ¬(q.void ∧ q.issuedAt = s.ac)) →
    Gives (.voidCommandEnter c) s fun t =>
      (t.arr c).queue = (s.arr c).queue ++ [{ v with
        issuedAt := s.ac, headAt := if (s.arr c).queue.isEmpty then some (s.ac + 1) else v.headAt }] ∧
      (t.arr c).overflow = rest ∧ OtherCores s c t) ∧
  (∀ (s : State) (c : CoreId), (s.arr c).freezeAt = none → 12 ≤ (s.arr c).drainEnd →
    Gives (.arrayFreeze c) s fun t =>
      (t.arr c).frozen s.ac = false ∧ (t.arr c).frozen (s.ac + 1) = true ∧ OtherCores s c t) ∧
  (∀ (s : State) (c : CoreId), (s.arr c).frozen (s.ac - 1) = true → (s.arr c).thawAt = none → (s.arr c).drainEnd ≤ 9 →
    Gives (.arrayThaw c) s fun t =>
      (t.arr c).frozen s.ac = true ∧ (t.arr c).frozen (s.ac + 1) = false ∧ OtherCores s c t) ∧
  (∀ (s : State) (c : CoreId) (m : Mark), (s.arr c).mark = some m →
    (if m.bf then m.at_ + 4 * (m.h + 128) + 1 else m.at_ + m.h + 129) ≤ s.adv c → (s.arr c).frozen s.ac = false →
    Gives (.swapWaveDone c) s fun t =>
      (t.arr c).shadow = .free ∧ (t.arr c).mark = none ∧ (t.arr c).active = (s.arr c).active ∧ OtherCores s c t) ∧
  (∀ (s : State) (c : CoreId) (m : Mark), (s.arr c).mark = some m →
    (s.arr c).frozen s.ac = true ∨ s.adv c < (if m.bf then m.at_ + 4 * (m.h + 128) + 1 else m.at_ + m.h + 129) →
    Gives (.swapWaveDone c) s fun t => t = s) ∧
  (∀ (s : State) (c : CoreId), s.reg (.mx c) 0x0C = 0 →
    Gives (.mxCtrlDrain c) s fun t =>
      (t.arr c).queue = [] ∧ (t.arr c).overflow = [] ∧ (t.arr c).runs = [] ∧ (t.arr c).slots = [] ∧
      (t.arr c).drains = [] ∧ (t.arr c).outs = [] ∧ (t.arr c).feeder = [] ∧ (t.arr c).shadow = .free ∧
      t.reg (.mx c) 0x0C = 1 ∧ (t.arr c).drainAt = some (s.ac + 4) ∧ OtherCores s c t) ∧
  (∀ (s : State) (c : CoreId), s.reg (.mx c) 0x0C = 1 →
    Gives (.mxCtrlDrain c) s fun t =>
      t.reg (.mx c) 0x08 = s.reg (.mx c) 0x08 ||| 0x40 ∧ t.arr c = s.arr c ∧ OtherCores s c t) ∧
  (∀ (s : State) (c : CoreId) (a : Nat), (s.arr c).drainAt = some a → a ≤ s.ac → s.reg (.mx c) 0x0C = 1 →
    Gives (.arrayDrainDone c) s fun t =>
      t.reg (.mx c) 0x0C = 0 ∧ (t.arr c).drainAt = none ∧ OtherCores s c t) ∧
  (∀ (s : State) (c : CoreId) (r : Run) (rest : List Run),
    (s.arr c).runs = r :: rest → s.runDone c r = true → s.qOpen c qMCQ = true → r.cmd.void = false →
    (s.core c).skip qMCQ = [] → s.reg (.mx c) 0x20 < 2 ^ 32 - 1 →
    Gives (.passComplete c) s fun t =>
      (t.core c).queue qMCQ =
        (s.core c).queue qMCQ ++ [⟨r.cmd.token, r.poison || r.cmd.poison, 0, s.ac + 1, false⟩] ∧
      (t.arr c).runs = rest ∧ t.reg (.mx c) 0x20 = s.reg (.mx c) 0x20 + 1 ∧ OtherCores s c t) ∧
  (∀ (s : State) (c : CoreId) (r : Run) (rest : List Run),
    (s.arr c).runs = r :: rest → s.qOpen c qMCQ = true → r.cmd.void = true → (s.core c).skip qMCQ = [] →
    Gives (.passComplete c) s fun t =>
      (t.core c).queue qMCQ =
        (s.core c).queue qMCQ ++ [⟨r.cmd.token, r.poison || r.cmd.poison, 0, s.ac + 1, false⟩] ∧
      (t.arr c).runs = rest ∧ t.regs = s.regs ∧ OtherCores s c t)

/-- R104, R106, R118 to R120, R140. -/
def Obligations.TileLoadsAndPassesStartAtTheHead : Prop :=
  (∀ (s : State) (c : CoreId) (q : ArrCmd) (rest : List ArrCmd),
    (s.arr c).queue = q :: rest → q.started = false → q.headAt.getD 0 ≤ s.ac → q.void = false → q.faulted = false →
    q.op = 1 → (s.arr c).shadow = .free → (s.core c).wsFree ≤ s.ac →
    Gives (.arrayCommandHead c) s fun t =>
      (t.arr c).queue = headedAt s.ac rest ∧ (t.arr c).shadow = .loading ∧ (t.arr c).loadAt = s.ac ∧
      (t.arr c).shadowTile.image =
        s.wsBytes c (64 * q.desc'.ws) (tileBytes q.desc'.shape q.desc'.wfmt q.desc'.sparse q.desc'.k q.desc'.n) ∧
      OtherCores s c t) ∧
  (∀ (s : State) (c : CoreId) (q : ArrCmd) (rest : List ArrCmd),
    (s.arr c).queue = q :: rest → q.started = false → q.headAt.getD 0 ≤ s.ac → q.void = false → q.faulted = false →
    q.op = 2 → q.isDegenerate = false → q.desc'.swap = false →
    ((s.arr c).swapped = true → (tileFaults q.desc' (s.arr c).activeTile).1 = false) →
    Gives (.arrayCommandHead c) s fun t =>
      let q' := { q with poison := q.poison || q.bad, bad := false }
      (t.arr c).queue = { q' with started := true } :: rest ∧
      (∃ r, (t.arr c).runs = (s.arr c).runs ++ [r] ∧ r.cmd = q' ∧ r.released = 0 ∧ r.poison = false ∧
        r.degenerate = false) ∧
      (t.arr c).shadow = (s.arr c).shadow ∧ OtherCores s c t) ∧
  (∀ (s : State) (c : CoreId) (q : ArrCmd) (rest : List ArrCmd),
    (s.arr c).queue = q :: rest → q.started = false → q.headAt.getD 0 ≤ s.ac → q.faulted = true → q.op = 2 →
    Gives (.arrayCommandHead c) s fun t =>
      (t.arr c).queue = headedAt s.ac rest ∧
      (∃ r, (t.arr c).runs = (s.arr c).runs ++ [r] ∧ r.cmd.token = q.token ∧ r.cmd.void = true ∧ r.poison = true) ∧
      OtherCores s c t) ∧
  (∀ (s : State) (c : CoreId),
    (s.arr c).shadow = .loading → (s.arr c).loadAt + loadLatency (s.arr c).shadowTile.image.length ≤ s.ac →
    (s.arr c).shadowTile.badPair = none → s.wsErr = [] →
    Gives (.loadComplete c) s fun t =>
      (t.arr c).shadow = .ready ∧ (t.arr c).readyAt = s.ac ∧
      (t.arr c).shadowTile.image = (s.arr c).shadowTile.image ∧
      (t.arr c).shadowTile.checks = (List.range 128).map (s.arr c).shadowTile.checkOps ∧
      t.reg (.mx c) 0x10 = (s.reg (.mx c) 0x10 ||| (s.arr c).shadowTile.flags) % 2 ^ 32 ∧ OtherCores s c t) ∧
  (∀ (t : Tile) (r : Nat), r < 128 → t.wfmt ≠ 7 → t.sparse = false →
    t.checkOps r = (BitVec.ofInt 40 (rowSum (lanesOf t.wfmt) fun col l => t.sig 0 r col l), 0)) ∧
  (∀ (t : Tile) (g : Nat), g < 64 → t.wfmt ≠ 7 → t.sparse = true →
    t.checkOps (2 * g) = (BitVec.ofInt 40 (t.groupSum g 0), BitVec.ofInt 40 (t.groupSum g 1)) ∧
    t.checkOps (2 * g + 1) = (BitVec.ofInt 40 (t.groupSum g 2), BitVec.ofInt 40 (t.groupSum g 3))) ∧
  (∀ (s : State) (c : CoreId) (p : Nat),
    (s.arr c).shadow = .loading → (s.arr c).shadowTile.badPair = some p →
    (s.arr c).loadAt + (elemPlane (s.arr c).shadowTile.wfmt (s.arr c).shadowTile.n (s.arr c).shadowTile.ks +
      scalePlane (s.arr c).shadowTile.shape (s.arr c).shadowTile.wfmt (s.arr c).shadowTile.sparse (s.arr c).shadowTile.k
        (s.arr c).shadowTile.n + p / 2) / 512 ≤ s.ac →
    Gives (.loadAbandon c) s fun t =>
      (t.arr c).shadow = .free ∧ t.reg (.mx c) 0x08 = s.reg (.mx c) 0x08 ||| 2 ∧ OtherCores s c t)

/-- R70, R74, R90, R94, R96, R97, R121, R122, R128. -/
def Obligations.FeedersReleasesAndTermsFollowThePass : Prop :=
  (∀ (s : State) (c : CoreId) (q : ArrCmd),
    (s.arr c).nextX = some q → q.desc'.src = false → q.issuedAt < s.ac → (s.arr c).feeder.length < 16 →
    (s.arr c).fetchAc ≤ s.ac → (s.core c).amUse = [] → s.amErr = [] →
    (s.aboveFeed c &&& (q.desc'.xAt q.isEw q.fetched).lanes) = 0 →
    Gives (.feederFetch c) s fun t =>
      (∃ v, (t.arr c).feeder = (s.arr c).feeder ++ [v] ∧ v.m = q.fetched ∧
        v.elems = s.amBytes c (64 * q.desc'.am + 64 * q.fetched * q.desc'.amStride) (q.desc'.elemBytes q.isEw) ∧
        v.scales = s.amBytes c (8 * q.desc'.sb + q.fetched * q.desc'.sStride) (q.desc'.scaleBytes q.isEw) ∧
        (q.desc'.fwd = false → v.from_ = s.ac + (q.desc'.xAt q.isEw q.fetched).wait)) ∧ OtherCores s c t) ∧
  (∀ (s : State) (c : CoreId) (q : ArrCmd) (y : VecAt),
    s.yReady c = some (q, y) → s.xReady c = none → (s.core c).amUse = [] → s.amErr = [] → (s.aboveFeed c &&& y.lanes) = 0 →
    Gives (.feederFetch c) s fun t =>
      (∃ v, (t.arr c).ytop = (s.arr c).ytop ++ [v] ∧ v.m = q.yfetched ∧
        v.elems = s.amBytes c (64 * q.desc'.y + 64 * q.yfetched * q.desc'.yStride) q.desc'.n) ∧
      (t.arr c).feeder = (s.arr c).feeder ∧ OtherCores s c t) ∧
  (∀ (s : State) (c : CoreId) (q : ArrCmd),
    (s.arr c).headCmd s.ac = some q → q.feeds = true → q.desc'.src = true → q.fetched < q.desc'.m →
    q.desc'.vflits q.isEw ≤ (s.arr c).flits.length → (s.arr c).feeder.length + (s.arr c).lost < 16 →
    Gives (.meshVectorArrive c) s fun t =>
      (∃ v, (t.arr c).feeder = (s.arr c).feeder ++ [v] ∧ v.m = q.fetched ∧
        v.elems = (((s.arr c).flits.take (q.desc'.vflits q.isEw)).flatMap fun f => lineBytes f.2.payload).take
          (q.desc'.elemBytes q.isEw)) ∧
      (t.arr c).flits = (s.arr c).flits.drop (q.desc'.vflits q.isEw) ∧ OtherCores s c t) ∧
  (∀ (s : State) (c : CoreId) (q : ArrCmd) (rest : List ArrCmd) (r : Run) (f h : Nat) (v : Vec) (vs : List Vec),
    (s.arr c).queue = q :: rest → q.started = true → q.headAt = some h → h ≤ s.ac → q.feeds = true → q.isEw = false →
    q.isBf = false → (s.arr c).runs.getLast? = some r → r.firstAt = some f → (s.arr c).frozen s.ac = false →
    (s.arr c).slotAc ≤ s.ac → (s.arr c).feeder = v :: vs → v.from_ < s.ac → r.released + 1 < q.desc'.m →
    (s.arr c).lost = 0 →
    Gives (.slotRelease c) s fun t =>
      (t.arr c).feeder = vs ∧
      (t.arr c).slots = (s.arr c).slots ++
        [⟨r.serial, q, { v with poison := v.poison || v.bad }, (s.arr c).active, s.adv c, [], []⟩] ∧
      (t.arr c).lastRel = s.ac ∧ (t.arr c).queue = q :: rest ∧ OtherCores s c t) ∧
  (∀ (s : State) (c : CoreId) (seg : Fin 8) (n : Fin 2048) (sl : Slot) (rest : List Slot),
    (s.arr c).frozen s.ac = false → (s.arr c).slots = sl :: rest → sl.wants seg.val n.val (s.adv c) = true →
    (sl.formedOf n.val).length + 1 < sl.segs →
    Gives (.termFormation c seg n false) s fun t =>
      (∃ sl' ∈ (t.arr c).slots, sl'.formedOf n.val = sl.formedOf n.val ++ [(seg.val, (sl.formTerm seg.val n.val).1)]) ∧
      t.reg (.mx c) 0x10 = (s.reg (.mx c) 0x10 ||| (sl.formTerm seg.val n.val).2) % 2 ^ 32 ∧ OtherCores s c t) ∧
  (∀ (s : State) (c : CoreId) (seg : Fin 8) (tap : BitVec 3) (error : Int) (sl : Slot) (rest : List Slot),
    (s.arr c).frozen s.ac = false → (s.arr c).slots = sl :: rest → (seg.val, tap.toNat) ∈ sl.checkTaps →
    (seg.val, tap.toNat) ∉ sl.checks →
    sl.at_ + (16 * tap.toNat + 15) % shapeH sl.cmd.desc'.shape + 130 ≤ s.adv c →
    ((sl.checkSums tap.toNat).1 + BitVec.ofInt 72 error ≠ (sl.checkSums tap.toNat).2 →
      Gives (.checkCompare c seg tap error) s fun t =>
        t.reg (.mx c) 0x08 = s.reg (.mx c) 0x08 ||| 1 ∧
        t.reg (.mx c) 0x2C = Nat.min (s.reg (.mx c) 0x2C + 1) 0xFFFFFFFF ∧
        (∀ r ∈ (t.arr c).runs, r.serial = sl.run → r.poison = true) ∧ OtherCores s c t) ∧
    ((sl.checkSums tap.toNat).1 + BitVec.ofInt 72 error = (sl.checkSums tap.toNat).2 →
      Gives (.checkCompare c seg tap error) s fun t =>
        (t.arr c).slots = { sl with checks := sl.checks ++ [(seg.val, tap.toNat)] } :: rest ∧ t.regs = s.regs ∧
        (t.arr c).runs = (s.arr c).runs ∧ OtherCores s c t)) ∧
  (∀ (s : State) (c : CoreId) (col : Fin 128) (tap : BitVec 3) (e : Drain) (r : Run),
    s.drainPick c tap.toNat col.val = some e → ((s.arr c).runs.find? fun r => r.serial == e.run) = some r →
    e.fp32 = false → s.psmErr = [] → (s.core c).psmNow = [] →
    Gives (.drainWrite c col tap) s fun t =>
      (r.cmd.desc'.acc = true ∨ Store.get false r.words e.word = true →
        t.psmWord c e.word = s.psmWord c e.word + e.val ∧
        t.psmPois c e.word = (e.poison || e.bad || s.psmPois c e.word)) ∧
      (r.cmd.desc'.acc = false → Store.get false r.words e.word = false →
        t.psmWord c e.word = e.val ∧ t.psmPois c e.word = (e.poison || e.bad)) ∧
      (∀ w, w ≠ e.word → t.psmWord c w = s.psmWord c w) ∧ (t.arr c).drains = (s.arr c).drains.erase e ∧
      (∀ c', c' ≠ c → t.core c' = s.core c') ∧ t.am = s.am ∧ t.ws = s.ws)

/-- R152, R157, R159, R161, R165, R166, R172, R272. -/
def Obligations.LaneOperationsDeliverTheirLanes : Prop :=
  ∀ (s : State) (c : CoreId) (op : VOp) (v : VSlot), VReady s c op v → op.laneWise v = true →
    Gives (vInstr op c v) s fun t => ∃ r more, (t.core c).vres = ((vIssue s c).core c).vres ++ r :: more ∧
      RowResult s c op v v.dstR (fun j => (op.lane v ((Store.get 0 ((vIssue s c).core c).vm v.maskK.toNat).getLsbD j)
          (vLane s c op v 0 j) (vLane s c op v 1 j) (vLane s c op v 2 j)).bits) r ∧
      (op ≠ .cmp → more = []) ∧
      (op = .cmp → ∃ k, more = [k] ∧ k.due = s.ac + op.lambda v ∧ k.dest = .mask v.cmpVm ∧
        ∀ j < 256, k.lanes[j]? = some (some (if (vIssue s c).vMask c op v j ∧
          fpCmp v.pred (vLane s c op v 0 j) (vLane s c op v 1 j) = true then 1 else 0)))

/-- R167 to R169, R171 to R175, R272. -/
def Obligations.ScansConversionsAndRandomNumbersDeliver : Prop :=
  (∀ (s : State) (c : CoreId) (v : VSlot), VReady s c .scansum v →
    Gives (.vscansum c v) s fun t => ∃ r, (t.core c).vres = ((vIssue s c).core c).vres ++ [r] ∧
      RowResult s c .scansum v v.dstR (fun j => ((scanSum v.prec ((List.range 256).map fun j =>
        if (vIssue s c).vMask c .scansum v j then vLane s c .scansum v 0 j else 0x80000000)).1.getD j 0)) r) ∧
  (∀ (s : State) (c : CoreId) (v : VSlot), VReady s c .scanmax v →
    Gives (.vscanmax c v) s fun t => ∃ r, (t.core c).vres = ((vIssue s c).core c).vres ++ [r] ∧
      RowResult s c .scanmax v v.dstR (fun j => ((scanMax ((List.range 256).map fun j =>
        if (vIssue s c).vMask c .scanmax v j then vLane s c .scanmax v 0 j else 0xFF800000)).1.getD j 0)) r) ∧
  (∀ (s : State) (c : CoreId) (v : VSlot), VReady s c .moments v →
    Gives (.vmoments c v) s fun t => ∃ r q, (t.core c).vres = ((vIssue s c).core c).vres ++ [r, q] ∧
      RowResult s c .moments v v.dstR (fun j => ((scanSum v.prec ((List.range 256).map fun j =>
        if (vIssue s c).vMask c .moments v j then vLane s c .moments v 0 j else 0x80000000)).1.getD j 0)) r ∧
      RowResult s c .moments v (v.dstR + 1) (fun j => ((scanSum v.prec ((List.range 256).map fun j =>
        if (vIssue s c).vMask c .moments v j
        then (fpMul v.prec (vLane s c .moments v 0 j) (vLane s c .moments v 0 j)).bits else 0x80000000)).1.getD j 0)) q) ∧
  (∀ (s : State) (c : CoreId) (v : VSlot), VReady s c .rand v →
    Gives (.vrand c v) s fun t => ∃ r, (t.core c).vres = ((vIssue s c).core c).vres ++ [r] ∧
      RowResult s c .rand v v.dstR (fun j => rngFp v.symmetric (rngValue ((vIssue s c).vuReg c 0x08)
        ((vIssue s c).vuReg c 0x0C) (v.block * 256 + j) ((vIssue s c).vuReg c 0x10) v.imm)) r) ∧
  (∀ (s : State) (c : CoreId) (v : VSlot), VReady s c .cvt v → v.dam = true →
    ((vIssue s c).core c).amUse = [] →
    let m := (vIssue s c).vMask c .cvt v
    let k := cvtCodes v.target (v.aux % 256)
      ((List.range 256).map fun j => if m j then some (vLane s c .cvt v 0 j) else none)
    Gives (.vcvt c v) s fun t => ∃ r, (t.core c).vres = ((vIssue s c).core c).vres ++ [r] ∧
      r.due = s.ac + VOp.cvt.lambda v ∧ r.poison = vPoison s c .cvt v ∧
      r.dest = .am v.amA (elemBits v.target)
        (k.1.zipIdx.map fun x => if m x.2 then some x.1 else if v.zm then some 0 else none) (8 * v.aux) k.2.1)

/-- R150, R157, R159, R161, R172, R178, R180. -/
def Obligations.VectorFaultsAndResultWrites : Prop :=
  (∀ (s : State) (c : CoreId) (op : VOp) (v : VSlot), Free s c sV → op.illegal v = true →
    Gives (vInstr op c v) s fun t =>
      t.reg (.cq c) 0x04 / 2 ^ 5 % 2 = 1 ∧ (t.core c).poisoned = true ∧ (t.core c).vres = (s.core c).vres ∧
      OtherCores s c t) ∧
  (∀ (s : State) (c : CoreId) (v : VSlot), Free s c sV → VOp.cvt.illegal v = false → v.dam = true →
    (vFormatFault .cvt v || vAddrFault .cvt v) = true →
    Gives (.vcvt c v) s fun t =>
      (t.core c).poisoned = true ∧ (t.core c).vres = ((vIssue s c).core c).vres ∧ t.am = (vIssue s c).am ∧
      (vFormatFault .cvt v = true → t.reg (.vu c) 0x04 % 2 = 1) ∧
      (vAddrFault .cvt v = true → t.reg (.vu c) 0x04 / 2 % 2 = 1)) ∧
  (∀ (s : State) (c : CoreId) (op : VOp) (v : VSlot), Free s c sV → op.illegal v = false → op.toAm v = false →
    (vFormatFault op v || vAddrFault op v) = true →
    Gives (vInstr op c v) s fun t =>
      t.tbPois c v.dstB v.dstR = true ∧ (t.core c).vres = ((vIssue s c).core c).vres ∧
      (vFormatFault op v = true → t.reg (.vu c) 0x04 % 2 = 1) ∧ (vAddrFault op v = true → t.reg (.vu c) 0x04 / 2 % 2 = 1) ∧
      (∀ j, t.tbLane c v.dstB v.dstR j = (vIssue s c).tbLane c v.dstB v.dstR j)) ∧
  (∀ (s : State) (c : CoreId) (r : VRes) (b row : Nat), ((s.core c).vres.filter fun r => r.due ≤ s.ac) = [r] →
    r.dest = .row b row → r.lanes.length = 256 →
    Gives (.vectorResultWrite c) s fun t =>
      (∀ j < 256, t.tbLane c b row j = ((r.lanes.getD j none).map BitVec.toNat).getD (s.tbLane c b row j)) ∧
      t.tbPois c b row = (r.poison || (r.lanes.any Option.isNone && s.tbPois c b row)) ∧
      (∀ k j, k ≠ tbKey c b row → j < 256 → t.tb.nat (1024 * k + 4 * j) 4 = s.tb.nat (1024 * k + 4 * j) 4) ∧
      (t.core c).vres = (s.core c).vres.filter (fun r => s.ac < r.due)) ∧
  (∀ (s : State) (c : CoreId) (r : VRes) (k : Nat), ((s.core c).vres.filter fun r => r.due ≤ s.ac) = [r] →
    r.dest = .mask k → r.lanes.length = 256 →
    Gives (.vectorResultWrite c) s fun t =>
      (∀ j < 256, (Store.get 0 (t.core c).vm k).getLsbD j = decide (r.lanes[j]? = some (some 1))) ∧
      (∀ k', k' ≠ k → Store.get 0 (t.core c).vm k' = Store.get 0 (s.core c).vm k') ∧ t.tb = s.tb ∧
      (t.core c).vres = (s.core c).vres.filter (fun r => s.ac < r.due)) ∧
  (∀ (s : State) (c : CoreId) (r : VRes) (a w sa : Nat) (codes : List (Option Nat)) (scales : List Byte),
    ((s.core c).vres.filter fun r => r.due ≤ s.ac) = [r] → r.dest = .am a w codes sa scales →
    (a + codes.length * w / 8 ≤ sa ∨ sa + scales.length ≤ a) →
    Gives (.vectorResultWrite c) s fun t =>
      t.amBytes c a (codes.length * w / 8) = mergeCodes w (s.amBytes c a (codes.length * w / 8)) codes ∧
      t.amBytes c sa scales.length = scales ∧
      (∀ x, (x < amBase c + a ∨ amBase c + a + codes.length * w / 8 ≤ x) →
        (x < amBase c + sa ∨ amBase c + sa + scales.length ≤ x) → t.am.byte x = s.am.byte x) ∧
      (t.core c).vres = (s.core c).vres.filter (fun r => s.ac < r.due))

/-- R199, R200, R212, R217, R225, R226, R228, R237, R255, R278, R284, R285, R359. -/
def Obligations.QueueAndSemaphoreInstructionsComplete : Prop :=
  (∀ (s : State) (c : CoreId) (p : Pred) (q : BitVec 3) (token : Token) (e : QEntry), RunsUnder s c sS p →
    waitLegal q = true → HeadIs s c q.toNat token e →
    (e.bad = false → Gives (.wait c p q token) s fun t =>
      OnlyCore s c { (inSlot s c sS).setQueue q.toNat ((s.core c).queue q.toNat).tail with
        qRoom := if s.qFull c q.toNat then Store.set 0 (s.core c).qRoom q.toNat (s.ac + 1) else (s.core c).qRoom
        poisoned := (s.core c).poisoned || e.poison } t) ∧
    (e.bad = true → Gives (.wait c p q token) s fun t =>
      (t.core c).queue q.toNat = ((s.core c).queue q.toNat).tail ∧ (t.core c).poisoned = true ∧
      t.reg (.mx c) 0x40 / 2 ^ 5 % 2 = 1 ∧ OtherCores s c t)) ∧
  (∀ (s : State) (c : CoreId) (p : Pred) (token : Token) (cq : BitVec 2) (e : QEntry), RunsUnder s c sX p → cq ≠ 3 →
    HeadIs s c qXSQ token e → (s.core c).xiq.length < 16 → descBadId e.body = false →
    classQueue (descClass e.body) = some (cqQueue cq.toNat) →
    Gives (.xissue c p token cq) s fun t =>
      (t.core c).queue qXSQ = ((s.core c).queue qXSQ).tail ∧
      (∃ o, (t.core c).ops = (s.core c).ops ++ [o] ∧ o.serial = (s.core c).nextSerial ∧ o.cls.toNat = descClass e.body ∧
        o.queue = cqQueue cq.toNat ∧ o.desc = e.body ∧ o.token = token ∧ o.poison = (e.poison || e.bad) ∧ o.stage = .xiq) ∧
      (t.core c).poisoned = ((s.core c).poisoned || e.poison || e.bad) ∧ OtherCores s c t) ∧
  (∀ (s : State) (c : CoreId) (p : Pred) (token : Token) (cq : BitVec 2) (e : QEntry), RunsUnder s c sX p → cq ≠ 3 →
    (s.core c).mode = .lockstep → HeadIs s c qXSQ token e → 16 ≤ (s.core c).xiq.length →
    Gives (.xissue c p token cq) s fun t =>
      (t.core c).queue qXSQ = (s.core c).queue qXSQ ∧ t.reg (.cq c) 0x04 / 2 % 2 = 1 ∧
      (∃ o, (t.core c).ops = (s.core c).ops ++ [o] ∧ o.queue = cqQueue cq.toNat ∧ o.token = token ∧ o.poison = true ∧
        o.stage = .finished) ∧
      (t.core c).poisoned = true ∧ OtherCores s c t) ∧
  (∀ (s : State) (c : CoreId) (pd q : BitVec 3) (token : Token), Free s c sS → q ≠ 7 →
    Gives (.qtest c pd q token) s fun t =>
      OnlyCore s c { inSlot s c sS with preds := setPred (s.core c).preds pd (s.headToken c q.toNat == some token) } t) ∧
  (∀ (s : State) (c : CoreId) (pd : BitVec 3) (q : BitVec 4), Free s c sS →
    Gives (.mpoll c pd q) s fun t =>
      OnlyCore s c { inSlot s c sS with preds := setPred (s.core c).preds pd (s.msgReady c q.toNat) } t) ∧
  (∀ (s : State) (c : CoreId) (p : Pred) (i : BitVec 6) (n : Byte), RunsUnder s c sS p → n ≠ 0 →
    Gives (.semsig c p i n) s fun t =>
      OnlyCore s c { inSlot s c sS with semPend := (s.core c).semPend ++ [⟨s.ac + 1, i.toNat, n.toNat⟩] } t) ∧
  (∀ (s : State) (c : CoreId) (p : Pred) (chan : BitVec 5) (i : BitVec 6) (n : BitVec 4) (ch : Channel),
    RunsUnder s c sS p → n ≠ 0 → (s.core c).chan chan.toNat = some ch →
    Gives (.semsigr c p chan i n) s fun t =>
      OnlyCore s c { inSlot s c sS with dyn := (s.core c).dyn ++
        [headerAlone ch.dest.toNat (.sig c.val i.toNat n.toNat) s.ac] } t) ∧
  (∀ (s : State) (c : CoreId) (pd : BitVec 3) (i : BitVec 6) (n : Byte), Free s c sS → n ≠ 0 →
    let d := (s.useSlots c (2 ^ sS)).semDue c
    let k := d.core c
    let v := k.sem i.toNat
    Gives (.semtry c pd i n) s fun t =>
      OnlyCore d c { (if n.toNat ≤ v then k.setSem i.toNat (v - n.toNat) else k) with
        preds := setPred k.preds pd (decide (n.toNat ≤ v)) } t) ∧
  (∀ (s : State) (c : CoreId) (p : Pred) (i : BitVec 6) (n : Byte), RunsUnder s c sS p → n ≠ 0 →
    let d := (s.useSlots c (2 ^ sS)).semDue c
    let k := d.core c
    n.toNat ≤ k.sem i.toNat →
    Gives (.semwait c p i n) s fun t => OnlyCore d c (k.setSem i.toNat (k.sem i.toNat - n.toNat)) t) ∧
  (∀ (s : State) (c : CoreId) (pd : BitVec 3) (chan : BitVec 5) (k : BitVec 3), Free s c sX →
    let d := (s.useSlots c (2 ^ sX)).creditsDue c
    let x := d.core c
    Gives (.credtest c pd chan k) s fun t =>
      OnlyCore d c { x with preds := setPred x.preds pd (decide (k.toNat + 1 ≤ x.credit chan.toNat)) } t) ∧
  (∀ (s : State) (c : CoreId) (p : Pred), (s.how c).runs p = false →
    (Free s c sS →
      (∀ q token, waitLegal q = true → Gives (.wait c p q token) s fun t => t = s.useSlots c (2 ^ sS)) ∧
      (∀ i n, n ≠ 0 → Gives (.semsig c p i n) s fun t => t = s.useSlots c (2 ^ sS)) ∧
      (∀ ch i n, n ≠ 0 → Gives (.semsigr c p ch i n) s fun t => t = s.useSlots c (2 ^ sS)) ∧
      (∀ i n, n ≠ 0 → Gives (.semwait c p i n) s fun t => t = s.useSlots c (2 ^ sS))) ∧
    (Free s c sX →
      (∀ token cq, cq ≠ 3 → Gives (.xissue c p token cq) s fun t => t = s.useSlots c (2 ^ sX)) ∧
      (∀ d a l, Gives (.mout c p d a l) s fun t => t = s.useSlots c (2 ^ sX)) ∧
      (∀ d a l, Gives (.min c p d a l) s fun t => t = s.useSlots c (2 ^ sX)) ∧
      (∀ d e a l, Gives (.mpass c p d e a l) s fun t => t = s.useSlots c (2 ^ sX)) ∧
      (∀ d e w l r, r ≠ 3 → Gives (.mred c p d e w l r) s fun t => t = s.useSlots c (2 ^ sX)) ∧
      (∀ ch k a tag, Gives (.msend c p ch k a tag) s fun t => t = s.useSlots c (2 ^ sX)) ∧
      (∀ q a, Gives (.mpop c p q a) s fun t => t = s.useSlots c (2 ^ sX))))

/-- R189, R190, R192, R194, R240, R285 to R287. -/
def Obligations.ControlInstructionsMoveTheIndex : Prop :=
  ∀ (s : State) (c : CoreId),
  (Free s c sS →
    let k := inSlot s c sS
    (∀ sel, Gives (.gong c sel) s fun t => OnlyCore s c { k with
        mode := .slack, gongMode := some sel, arrivals := (s.core c).arrivals ++ [s.ac], hold := holdGong,
        heldSince := some (s.ac + 1) } t) ∧
    Gives (.slack c) s (fun t => OnlyCore s c { k with mode := .slack } t) ∧
    Gives (.endstep c) s (fun t => OnlyCore s c { k with ending := true, hold := holdEnd, heldSince := some (s.ac + 1) } t)) ∧
  (Free s c sC →
    let k := inSlot s c sC
    (∀ n target countM1,
      let old := Store.get 0 (s.core c).lc n.toNat
      let v := if old = 0 then countM1.toNat else old - 1
      Gives (.loop c n target countM1) s fun t => OnlyCore s c { k with
        lc := Store.set 0 (s.core c).lc n.toNat v
        index := if v ≠ 0 then target else (s.core c).index + 1 } t) ∧
    (∀ target, Gives (.jump c target) s fun t => OnlyCore s c { k with index := target } t) ∧
    ((s.core c).mode = .slack → ∀ target j pol, Gives (.brp c target j pol) s fun t => OnlyCore s c { k with
        index := if (s.core c).preds.getLsbD j.toNat = pol then target else (s.core c).index + 1 } t) ∧
    ((s.core c).mode = .lockstep → ∀ target j pol, Gives (.brp c target j pol) s fun t =>
        t.core c = { k with index := (s.core c).index + 1, poisoned := true } ∧
        t.reg (.cq c) 0x04 / 16 % 2 = 1 ∧ OtherCores s c t) ∧
    (∀ token, ((s.core c).bankOf !(s.core c).bank).complete = true → ((s.core c).bankOf !(s.core c).bank).token = token →
      Gives (.switchbank c token) s fun t =>
        (t.core c).bank = (!(s.core c).bank) ∧ (t.core c).index = 0 ∧
        ((t.core c).bankOf (s.core c).bank).complete = false ∧ (t.core c).mode = (s.core c).mode ∧
        (t.core c).lc = (s.core c).lc ∧ OtherCores s c t))

/-- R148, R185 to R187, R191, R193, R209, R211, R216, R219, R228, R240, R241. -/
def Obligations.BundlesIssueHoldAndQuiesce : Prop :=
  (∀ (s : State) (i : Instr) (c : CoreId) (slot : Nat), slotRow i = some (c, slot) →
    (s.core c).mode = .idle ∨ (s.core c).slotUsed s.ac slot = true → Gives i s fun t => t = s) ∧
  (∀ (s : State) (c : CoreId), (s.core c).mayIssue s.ac = true → (s.core c).hold = 0 → (s.startAc c).holdNow c = 0 →
    Gives (.bundleIssue c) s (BundleRun s c false)) ∧
  (∀ (s : State) (c : CoreId), (s.core c).mayIssue s.ac = true → (s.core c).hold = 0 → (s.startAc c).holdNow c ≠ 0 →
    Gives (.bundleIssue c) s fun t => OnlyCore (s.startAc c) c { (s.startAc c).core c with
      hold := (s.startAc c).holdNow c, heldSince := some s.ac } t) ∧
  (∀ (s : State) (c : CoreId), (s.core c).mayIssue s.ac = true → (s.core c).hold = 0 → (s.core c).mode = .lockstep →
    let d := s.startAc c
    (d.core c).mode = .lockstep → d.bundle c (d.core c).bank (d.core c).index.toNat = 0 → (d.core c).index.toNat < 1008 →
    Gives (.bundleIssue c) s fun t =>
      (t.core c).index = (d.core c).index + 1 ∧ (t.core c).issueFrom = d.ac + 1 ∧ (t.core c).queues = (d.core c).queues ∧
      (t.core c).poisoned = (d.core c).poisoned ∧ (t.core c).preds = (d.core c).preds ∧ (t.core c).sems = (d.core c).sems ∧
      t.reg (.cq c) 0x20 = (d.reg (.cq c) 0x20 + 1) % 2 ^ 32 ∧ t.reg (.cq c) 0x04 = d.reg (.cq c) 0x04 ∧
      OtherCores d c t) ∧
  (∀ (s : State) (c : CoreId), (s.core c).mayIssue s.ac = true → (s.core c).waiting = true → (s.startAc c).holdNow c = 0 →
    Gives (.heldBundleIssue c) s (BundleRun s c false)) ∧
  (∀ (s : State) (c : CoreId) (since : Nat), (s.core c).heldSince = some since → s.fld (.cq c) 0x18 23 0 ≠ 0 →
    since + 1024 * s.fld (.cq c) 0x18 23 0 < s.ac → (s.core c).hold ≠ 0 →
    Gives (.holdTimeout c) s fun t =>
      let f := (s.startAc c).cqFaultMark c cqHold
      ((s.core c).hold = holdGong → OnlyCore f c { f.core c with gongMode := none, hold := 0, heldSince := none } t) ∧
      ((s.core c).hold = holdEnd → (t.core c).ended = true ∧ (t.core c).mode = .idle) ∧
      ((s.core c).hold ≠ holdGong → (s.core c).hold ≠ holdEnd → t = f.issue c true)) ∧
  (∀ (s : State) (c : CoreId), (s.core c).ending = true → (s.startAc c).workDone c = true →
    Gives (.coreQuiesce c) s fun t =>
      (t.core c).mode = .idle ∧ (t.core c).ended = true ∧ (t.core c).ending = false ∧ (t.core c).hold = 0 ∧
      (t.core c).endedAt = (s.startAc c).ac ∧ ∀ q ∈ quietQueues, (t.core c).queue q = []) ∧
  (∀ (s : State) (c : CoreId) (q : BitVec 3) (o : DynOp), (s.core c).oldestDone q.toNat s.ac = some o →
    s.qOpen c q.toNat = true → (s.core c).skip q.toNat = [] →
    let i := bits o.desc.toNat 196 191
    let signals := (o.cls = 1 ∨ o.cls = 2) ∧ bits o.desc.toNat 197 197 = 1
    Gives (.completionPush c q) s fun t =>
      (t.core c).queue q.toNat =
        (s.core c).queue q.toNat ++ [⟨o.token, o.poison, if o.cls = 3 then o.desc else 0, s.ac + 1, false⟩] ∧
      (t.core c).ops = (s.core c).ops.filter (fun x => x.serial ≠ o.serial) ∧ OtherCores s c t ∧
      (¬signals → (t.core c).sems = (s.core c).sems ∧ (t.core c).semPend = (s.core c).semPend) ∧
      (signals → ¬Issued s c → (s.core c).sem i < 0xFFFF → (t.core c).sem i = (s.core c).sem i + 1) ∧
      (signals → Issued s c → (t.core c).semPend = (s.core c).semPend ++ [⟨s.ac + 1, i, 1⟩] ∧ (t.core c).sems = (s.core c).sems)) ∧
  (∀ (s : State) (c : CoreId) (q : BitVec 3), s.qOpen c q.toNat = false → Gives (.completionPush c q) s fun t => t = s)

/-- R275 to R277, R292, R300, R346. -/
def Obligations.MeshMovesSendAndReceive : Prop :=
  (∀ (s : State) (c : CoreId) (p : Pred) (d : Side) (am : BitVec 16) (len : BitVec 12), InLockstep s c p →
    (s.core c).amUse = [] →
    Gives (.mout c p d am len) s fun t => ∃ use, OnlyCore s c { inSlot s c sX with
      amUse := use
      timed := (s.core c).timed ++ (List.range (len.toNat + 1)).map fun j =>
        ⟨s.ac + 1 + j, 64 * ((am.toNat + j) % 65536), false, .out d j⟩ } t) ∧
  (∀ (s : State) (c : CoreId) (p : Pred) (d : Side) (am : BitVec 16) (len : BitVec 12), InLockstep s c p →
    Gives (.min c p d am len) s fun t =>
      ∃ lost, (t.core c).moves = (s.core c).moves ++ [⟨.min, d, d, am.toNat, len.toNat, 0, s.ac, lost⟩] ∧
        ((s.core c).amUse = [] → lost = []) ∧ OtherCores s c t) ∧
  (∀ (s : State) (c : CoreId) (p : Pred) (d d' : Side) (am : BitVec 16) (len : BitVec 12), InLockstep s c p →
    Gives (.mpass c p d d' am len) s fun t =>
      ∃ lost, (t.core c).moves = (s.core c).moves ++ [⟨.mpass, d, d', am.toNat, len.toNat, 0, s.ac, lost⟩] ∧
        ((s.core c).amUse = [] → lost = []) ∧ OtherCores s c t) ∧
  (∀ (s : State) (c : CoreId) (p : Pred) (d d' : Side) (w : BitVec 17) (len : BitVec 12), InLockstep s c p →
    Gives (.mred c p d d' w len 1) s (fun t => OnlyCore s c { inSlot s c sX with
      moves := (s.core c).moves ++ [⟨.relay, d, d', w.toNat, len.toNat, 0, s.ac, []⟩] } t) ∧
    Gives (.mred c p d d' w len 2) s (fun t => OnlyCore s c { inSlot s c sX with
      moves := (s.core c).moves ++ [⟨.sink, d, d', w.toNat, len.toNat, 0, s.ac, []⟩] } t) ∧
    Gives (.mred c p d d' w len 0) s (fun t => OnlyCore s c { inSlot s c sX with
      timed := (s.core c).timed ++ (List.range (len.toNat + 1)).map fun j =>
        ⟨s.ac + 1 + j, w.toNat + 4 * j, false, .red d' j⟩ } t)) ∧
  (∀ (s : State) (c : CoreId) (d : Side) (w : Wire), (s.core c).arrived d s.ac = some w → (s.core c).fired = [] →
    (s.core c).moves = [] → (s.core c).arr.passClaims d s.ac = false → s.firesNow c d = false →
    Gives (.meshFlitArrive c d false) s fun t =>
      (t.core c).wires = (s.core c).wires.erase w ∧ (t.core c).poisoned = true ∧
      t.reg (.mesh c) 0x00 / 8 % 2 = 1 ∧ OtherCores s c t) ∧
  (∀ (s : State) (c : CoreId) (d : Side) (w : Wire) (m : Move), (s.core c).arrived d s.ac = some w → (s.core c).fired = [] →
    (s.core c).moves = [m] → m.kind = .min → m.expects d s.ac = true → m.lost = [] →
    (s.core c).arr.passClaims d s.ac = false → s.firesNow c d = false → s.amErr = [] → w.flit.seq.toNat = m.next % 64 →
    Gives (.meshFlitArrive c d false) s fun t =>
      let line := (m.base + m.next) % 65536
      t.amBytes c (64 * line) 64 = lineBytes w.flit.payload ∧ t.amPois c line = w.flit.poison ∧
      (∀ x, (x < amBase c + 64 * line ∨ amBase c + 64 * line + 64 ≤ x) → t.am.byte x = s.am.byte x) ∧
      (t.core c).wires = (s.core c).wires.erase w ∧
      (t.core c).moves = (if m.next < m.len then [{ m with next := m.next + 1 }] else []) ∧
      (∀ c', c' ≠ c → t.core c' = s.core c') ∧ t.psm = s.psm)

/-- R226, R227, R228, R233, R235, R238, R239, R280 to R282, R309 to R311. -/
def Obligations.MessagesSignalsAndCreditsTravel : Prop :=
  (∀ (s : State) (c : CoreId) (p : Pred) (chan : BitVec 5) (k : BitVec 3) (am : BitVec 16) (tag : Token) (ch : Channel),
    RunsUnder s c sX p → (s.core c).chan chan.toNat = some ch → (s.core c).amUse = [] →
    k.toNat + 1 ≤ ((s.creditsDue c).core c).credit chan.toNat →
    let x := ((s.useSlots c (2 ^ sX)).creditsDue c).core c
    Gives (.msend c p chan k am tag) s fun t => ∃ use, OnlyCore s c { x with
      amUse := use
      credits := Store.set 0 x.credits chan.toNat (x.credit chan.toNat - (k.toNat + 1))
      dyn := (s.core c).dyn ++ ⟨1, 0, ch.dest.toNat, false, 0, false, .head, false, outLocal, s.ac, s.ac⟩ ::
        (List.range (k.toNat + 1)).map fun j =>
          ⟨1, 0, ch.dest.toNat, false, j + 1, j == k.toNat,
            .msg ⟨c.val, chan.toNat, ch.q.toNat, tag, k.toNat + 1, j, 0, false, 0⟩, false, outLocal, s.ac + 2 + j, s.ac⟩
      timed := (s.core c).timed ++ (List.range (k.toNat + 1)).map fun j =>
        ⟨s.ac + 2 + j, 64 * ((am.toNat + j) % 65536), false, .msg j⟩ } t) ∧
  (∀ (s : State) (c : CoreId) (p : Pred) (q : BitVec 4) (am : BitVec 16) (m : Msg) (rest : List Msg),
    RunsUnder s c sX p → (s.core c).msgq q.toNat = m :: rest → s.msgReady c q.toNat = true → (s.core c).amUse = [] →
    Gives (.mpop c p q am) s fun t => ∃ use, t.core c = { (inSlot s c sX).setMsgq q.toNat rest with
        amUse := use
        dyn := (s.core c).dyn ++ [headerAlone m.src (.credit m.chan m.count) s.ac]
        timed := (s.core c).timed ++ (m.entries.zipIdx.map fun e =>
            ⟨s.ac + 1 + e.2, 64 * ((am.toNat + e.2) % 65536), false, .put (lineBytes e.1.1) (e.1.2 || m.bad.contains e.2)⟩) ++
          [⟨s.ac + 1 + m.count, 64 * ((am.toNat + m.count) % 65536), false, .put (msgHeader m) false⟩] } ∧
      (m.bad ≠ [] → t.reg (.mx c) 0x40 / 2 ^ 5 % 2 = 1) ∧ (m.bad = [] → t.regs = s.regs) ∧ OtherCores s c t) ∧
  (∀ (s : State) (c : CoreId) (cls : Fin 4) (f : DynFlit), s.dynPick c cls.val = some f →
    (s.core c).dynDrop.contains f.code = false → f.dest = c.val → f.port = false → s.dynRefused c f = false →
    Gives (.dynamicPacketHop c cls false) s fun t =>
      (t.core c).dyn = (s.core c).dyn.erase f ∧
      (∀ src i n, f.body = .sig src i n → (t.core c).here = (s.core c).here ++ [f]) ∧
      (∀ ch n, f.body = .credit ch n → (t.core c).here = (s.core c).here ++ [f]) ∧
      (∀ e, f.body = .msg e →
        (t.core c).here = (s.core c).here ++ [{ f with body := .msg { e with poison := e.poison || f.poison } }]) ∧
      (∀ c', c' ≠ c → t.core c' = s.core c')) ∧
  (∀ (s : State) (c e : CoreId) (cls : Fin 4) (f : DynFlit) (o : Nat), s.dynPick c cls.val = some f →
    (s.core c).dynDrop.contains f.code = false → s.dynOut c f = some o → o ≠ outLocal → s.dynRefused c f = false →
    across c (sideOf o) = .core e → e ≠ c →
    Gives (.dynamicPacketHop c cls false) s fun t =>
      (t.core c).dyn = (s.core c).dyn.erase f ∧
      t.core e = { s.core e with dyn := (s.core e).dyn ++
        [{ f with inp := sideCode (oppSide (sideOf o)), due := s.ac + hopCost c (sideOf o) }] } ∧
      (∀ c', c' ≠ c → c' ≠ e → t.core c' = s.core c') ∧ { t with cores := s.cores } = s) ∧
  (∀ (s : State) (c : CoreId) (cls : Fin 4) (f : DynFlit), s.dynPick c cls.val = some f → f.idx = 0 →
    (s.core c).dynDrop.contains f.code = false → s.dynRefused c f = true →
    Gives (.dynamicPacketHop c cls false) s fun t =>
      (t.core c).dyn = (s.core c).dyn.erase f ∧ t.reg (.meshDie (dieOf c)) 0x10 / 2 % 2 = 1 ∧ OtherCores s c t) ∧
  (∀ (s : State) (c : CoreId) (cls : Fin 4) (f : DynFlit), s.dynPick c cls.val = some f → f.idx = 0 →
    (s.core c).dynDrop.contains f.code = false →
    Gives (.dynamicPacketHop c cls true) s fun t =>
      (t.core c).dyn = (s.core c).dyn.erase f ∧ (t.core c).poisoned = true ∧ t.reg (.mesh c) 0x00 % 2 = 1 ∧
      OtherCores s c t) ∧
  (∀ (s : State) (c : CoreId) (p : DynFlit) (e : MsgEntry),
    ((s.core c).here.find? DynFlit.isMsg) = some p → p.body = .msg e →
    Gives (.messageEntryArrive c) s fun t => OnlyCore s c { s.core c with
      here := (s.core c).here.erase p, msgWait := (s.core c).msgWait ++ [{ e with firstAt := p.due }] } t) ∧
  (∀ (k : Core) (now : Nat) (e : MsgEntry), k.msgWait = [e] → e.j = 0 → e.q < 16 → k.msgq e.q = [] →
    (k.admitQueues now).msgWait = [] ∧ (k.admitQueues now).msgq e.q =
      [⟨e.src, e.chan, e.tag, e.count, [(e.payload, e.poison)], if e.count = 1 then now + 1 else 0, []⟩]) ∧
  (∀ (k : Core) (now : Nat) (a b : MsgEntry), k.msgWait = [a, b] → a.j = 0 → b.j = 0 → b.q < 16 → a.q = b.q →
    a.firstAt = b.firstAt → b.src < a.src → k.msgq b.q = [] →
    ∃ m, ((k.admitQueues now).msgq b.q).head? = some m ∧ m.src = b.src) ∧
  (∀ (s : State) (c : CoreId) (p : DynFlit) (src i n : Nat),
    ((s.core c).here.find? DynFlit.isSig) = some p → p.body = .sig src i n →
    Gives (.semSignalArrive c) s fun t =>
      (t.core c).here = (s.core c).here.erase p ∧ OtherCores s c t ∧
      (Issued s c → (t.core c).semPend = (s.core c).semPend ++ [⟨s.ac + 1, i, n⟩] ∧ (t.core c).sems = (s.core c).sems) ∧
      (¬Issued s c → (t.core c).sem i = Nat.min ((s.core c).sem i + n) 0xFFFF ∧
        (∀ i', i' ≠ i → (t.core c).sem i' = (s.core c).sem i') ∧
        (0xFFFF < (s.core c).sem i + n → (t.core c).poisoned = true ∧ t.reg (.cq c) 0x04 / 4 % 2 = 1) ∧
        ((s.core c).sem i + n ≤ 0xFFFF → (t.core c).poisoned = (s.core c).poisoned ∧ t.regs = s.regs))) ∧
  (∀ (s : State) (c : CoreId) (p : DynFlit) (chan n : Nat),
    ((s.core c).here.find? DynFlit.isCredit) = some p → p.body = .credit chan n →
    Gives (.creditReturn c) s fun t => OnlyCore s c { s.core c with
      here := (s.core c).here.erase p, creditPend := (s.core c).creditPend ++ [⟨s.ac + 1, chan, n⟩] } t)

/-- R323, R325 to R328, R330, R345, R349, R375. -/
def Obligations.CrossbarRequestsReadAndWriteFrames : Prop :=
  (∀ (s : State) (c : CoreId) (o : DynOp), s.xiqHead c 1 = some o → s.csRefused (dieOf c) o.desc = none →
    s.csClosed (dieOf c) = false →
    Gives (.csRead c) s fun t =>
      (t.core c).csReqs = (s.core c).csReqs ++ [⟨o.serial, csUnits o.desc, 0, csAm o.desc, 0, [], false⟩] ∧
      (t.die (dieOf c)).xreqs = (s.die (dieOf c)).xreqs ++ [⟨c.val, o.serial, false,
        s.frameUnit (dieOf c) (csFrame o.desc) + csOffset o.desc, csUnits o.desc, 0, csFrame o.desc % 32,
        s.ac + 20 + 5 * csDistance c (csFrame o.desc % 32), false, []⟩] ∧
      (∀ x ∈ (t.core c).ops, x.serial = o.serial → x.stage = .issued) ∧ OtherCores s c t) ∧
  (∀ (s : State) (c : CoreId) (o : DynOp) (bit : Nat), s.xiqHead c 1 = some o → s.csRefused (dieOf c) o.desc = some bit →
    bit < 32 →
    Gives (.csRead c) s fun t =>
      (∀ x ∈ (t.core c).ops, x.serial = o.serial → x.stage = .finished ∧ x.poison = true) ∧
      t.reg (.meshDie (dieOf c)) 0x18 / 2 ^ bit % 2 = 1 ∧ OtherCores s c t) ∧
  (∀ (s : State) (d : DieId) (sl : Nat) (r : XReq), s.slicePick d sl = some r → r.served = 0 →
    ∀ q ∈ (s.die d).xreqs, q.slice = sl → q.arrive ≤ s.ac →
      q.served = 0 ∧ (r.arrive / 2 < q.arrive / 2 ∨ (r.arrive / 2 = q.arrive / 2 ∧ r.core ≤ q.core))) ∧
  (∀ (s : State) (d : DieId) (sl : Nat) (r : XReq), s.slicePick d sl = some r → r.write = false → s.csErr = [] →
    Store.get 0 (s.die d).xfree sl ≤ s.ac → ¬(s.reservedNc ∧ Store.get false (s.die d).xback sl) →
    let u := r.unit + r.served
    let c : CoreId := Fin.ofNat 768 r.core
    (∀ q ∈ (s.core c).csReqs, q.serial = r.serial →
      { q with
        data := q.data ++ [(bytesLine (s.csUnit d u), s.csPois d u, s.ac + csPath c r.slice)]
        poison := q.poison || s.csPois d u } ∈ ((s.sliceServe d sl).core c).csReqs) ∧
    (s.sliceServe d sl).cs = s.cs ∧ Store.get 0 ((s.sliceServe d sl).die d).xfree sl = s.ac + 2) ∧
  (∀ (s : State) (d : DieId) (sl : Nat) (r : XReq), s.slicePick d sl = some r → r.write = true →
    Store.get 0 (s.die d).xfree sl ≤ s.ac → ¬(s.reservedNc ∧ Store.get false (s.die d).xback sl) →
    let u := r.unit + r.served
    let x := Store.get ((0 : Line), false) r.data r.served
    (s.sliceServe d sl).csUnit d u = lineBytes x.1 ∧ (s.sliceServe d sl).csPois d u = (x.2 || r.poison) ∧
    ∀ a, (a < csBase d + 64 * u ∨ csBase d + 64 * u + 64 ≤ a) → (s.sliceServe d sl).cs.byte a = s.cs.byte a) ∧
  (∀ (s : State) (c : CoreId) (r : CsReq) (rest : List CsReq) (x : Line × Bool × Nat) (more : List (Line × Bool × Nat)),
    (s.core c).csReqs = r :: rest → r ∉ rest → r.data = x :: more → x.2.2 + r.wait ≤ s.ac → (s.core c).amUse = [] →
    (s.vLanes c &&& laneMask (64 * (r.am + r.next)) 64) = 0 →
    Gives (.csUnitWrite c) s fun t =>
      (t.core c).timed = (s.core c).timed ++ [⟨s.ac, 64 * (r.am + r.next), false, .put (lineBytes x.1) x.2.1⟩] ∧
      (r.next + 1 < r.units → (t.core c).csReqs =
        { r with next := r.next + 1, data := more, wait := s.ac - x.2.2 } :: rest) ∧
      (r.next + 1 = r.units → (t.core c).csReqs = rest ∧
        ∀ y ∈ (t.core c).ops, y.serial = r.serial → y.stage = .finished ∧ y.readyAt = s.ac + 1) ∧
      OtherCores s c t) ∧
  (∀ (s : State) (c : CoreId), (∀ r ∈ (s.core c).csReqs, ∀ a, r.dueLine s.ac = some a →
      (s.core c).laneHeld s.ac (laneMask a 64) = true) → Gives (.csUnitWrite c) s fun t => t = s) ∧
  (∀ (s : State) (c : CoreId) (o : DynOp), s.xiqHead c 2 = some o → s.csRefused (dieOf c) o.desc = none →
    s.isList (dieOf c) (csFrame o.desc) = false → s.csClosed (dieOf c) = false → (s.core c).amUse = [] →
    Gives (.csWrite c) s fun t =>
      (t.core c).timed = (s.core c).timed ++ (List.range (csUnits o.desc)).map (fun k =>
        ⟨s.ac + 2 + k, 64 * (csAm o.desc + k), false, .unit o.serial k⟩) ∧
      (t.die (dieOf c)).xreqs = (s.die (dieOf c)).xreqs ++ [⟨c.val, o.serial, true,
        s.frameUnit (dieOf c) (csFrame o.desc) + csOffset o.desc, csUnits o.desc, 0, csFrame o.desc % 32,
        s.ac + 20 + 5 * csDistance c (csFrame o.desc % 32), o.poison || o.bad, []⟩] ∧
      (∀ x ∈ (t.core c).ops, x.serial = o.serial → x.stage = .issued) ∧ OtherCores s c t) ∧
  (∀ (s : State) (c : CoreId) (o : DynOp), s.xiqHead c 2 = some o → s.csRefused (dieOf c) o.desc = none →
    s.isList (dieOf c) (csFrame o.desc) = true →
    Gives (.csWrite c) s fun t =>
      (∀ x ∈ (t.core c).ops, x.serial = o.serial → x.stage = .finished ∧ x.poison = true) ∧
      t.reg (.pgm (dieOf c)) 0x14 / 2 ^ 6 % 2 = 1 ∧ (t.core c).timed = (s.core c).timed ∧ OtherCores s c t)

/-- R275, R280, R281, R326, R345, R346, R348: what an access that is still owed does when its ac comes. -/
def Obligations.TimedAccessesTakePlaceInTheirAc : Prop :=
  (∀ (s : State) (c : CoreId) (x : Timed), OwesOnly s c x → x.isWrite = false → s.ac + 1 < x.due →
    Passes s fun t => (t.core c).timed = [x] ∧ SameMemories s t) ∧
  (∀ (s : State) (c e : CoreId) (d : Side) (line j : Nat), OwesOnly s c ⟨s.ac + 1, 64 * line, false, .out d j⟩ →
    OpenTo s c d e → s.amErr = [] →
    Passes s fun t =>
      (t.core e).wires = [⟨oppSide d, s.ac + 7 + hopCost c d, rankInstr,
        ⟨bytesLine (s.amBytes c (64 * line) 64), s.amPois c line, 0xF, BitVec.ofNat 6 j⟩⟩] ∧
      (t.core c).timed = [] ∧ SameMemories s t) ∧
  (∀ (s : State) (c e : CoreId) (d : Side) (a j : Nat), OwesOnly s c ⟨s.ac + 1, a, true, .out d j⟩ →
    OpenTo s c d e →
    Passes s fun t =>
      (t.core e).wires = [⟨oppSide d, s.ac + 7 + hopCost c d, rankInstr,
        ⟨bytesLine (List.replicate 64 0), true, 0xF, BitVec.ofNat 6 j⟩⟩] ∧
      (t.core c).timed = [] ∧ (t.core c).poisoned = true ∧ t.reg (.mx c) 0x40 / 2 ^ 4 % 2 = 1 ∧ SameMemories s t) ∧
  (∀ (s : State) (c e : CoreId) (d : Side) (w j : Nat), OwesOnly s c ⟨s.ac + 1, w, false, .red d j⟩ →
    OpenTo s c d e → s.psmErr = [] →
    Passes s fun t =>
      (t.core e).wires = [⟨oppSide d, s.ac + 7 + hopCost c d, rankInstr,
        ⟨ofWords ((List.range 4).map fun q => s.psmWord c ((w + q) % 131072)),
          (List.range 4).any fun q => s.psmPois c ((w + q) % 131072), 0xF, BitVec.ofNat 6 j⟩⟩] ∧
      (t.core c).timed = [] ∧ SameMemories s t) ∧
  (∀ (s : State) (c : CoreId) (line j : Nat), OwesOnly s c ⟨s.ac + 1, 64 * line, false, .msg j⟩ → s.amErr = [] →
    Passes s fun t =>
      (∀ f ∈ (s.core c).dyn, ∀ e, f.body = .msg e → f.inp = outLocal → f.due = s.ac + 1 → e.j = j → e.src = c.val →
        { f with body := .msg { e with payload := bytesLine (s.amBytes c (64 * line) 64), poison := s.amPois c line } } ∈
          (t.core c).dyn) ∧
      (t.core c).dyn.length = (s.core c).dyn.length ∧ (t.core c).timed = [] ∧ SameMemories s t) ∧
  (∀ (s : State) (c : CoreId) (line n k : Nat), OwesOnly s c ⟨s.ac + 1, 64 * line, false, .unit n k⟩ → s.amErr = [] →
    Passes s fun t =>
      (∀ r ∈ (s.die (dieOf c)).xreqs, r.core = c.val → r.serial = n →
        r.filled k (bytesLine (s.amBytes c (64 * line) 64)) (s.amPois c line) ∈ (t.die (dieOf c)).xreqs) ∧
      (t.core c).timed = [] ∧ SameMemories s t) ∧
  (∀ (s : State) (c : CoreId) (a : Nat) (b : List Byte) (p : Bool),
    (OwesOnly s c ⟨s.ac + 1, a, false, .put b p⟩ →
      Passes s fun t => (t.core c).timed = [⟨s.ac + 1, a, false, .put b p⟩] ∧ SameMemories s t) ∧
    (OwesOnly s c ⟨s.ac, a, false, .put b p⟩ →
      Passes s fun t => t.amBytes c a b.length = b ∧ (t.core c).timed = [] ∧
        (∀ line, a = 64 * line → b.length = 64 → t.amPois c line = p) ∧
        ∀ x, (x < amBase c + a ∨ amBase c + a + b.length ≤ x) → t.am.byte x = s.am.byte x) ∧
    (OwesOnly s c ⟨s.ac, a, true, .put b p⟩ →
      Passes s fun t => t.am = s.am ∧ (t.core c).timed = [] ∧ (t.core c).poisoned = true ∧
        (∀ line, a = 64 * line → b.length = 64 → t.amPois c line = true) ∧ t.reg (.mx c) 0x40 / 2 ^ 4 % 2 = 1)) ∧
  (∀ (s : State) (c : CoreId) (w : Nat) (v : W128) (p : Bool), OwesOnly s c ⟨s.ac, w, false, .sum v p⟩ → s.psmErr = [] →
    Passes s fun t => t.psmWord c w = s.psmWord c w + v ∧ t.psmPois c w = (s.psmPois c w || p) ∧ (t.core c).timed = [] ∧
      t.am = s.am)

/-- R345, R347, R411, R413, R416, R420, R422, R424, R426, R429 to R431, R435, R437. -/
def Obligations.DmaDescriptorsRunFromFetchToLink : Prop :=
  (∀ (s : State) (c : CoreId) (o : DynOp), s.xiqHead c 3 = some o → (s.dma c .p).phase ≠ .idle →
    Gives (.dmaJob c) s fun t => t.core c = (s.core c).setOp o.serial (fun y =>
      { y with
        stage := .issued, entry := BitVec.ofNat 7 (s.core c).freeEntry, issuedAt := s.car
        poison := y.poison || y.bad }) ∧
      (o.bad = false → t.regs = s.regs) ∧ (o.bad = true → t.reg (.mx c) 0x40 / 2 ^ 5 % 2 = 1) ∧ OtherCores s c t) ∧
  (∀ (s : State) (c : CoreId) (o : DynOp), s.xiqHead c 3 = none → (s.dma c .p).phase = .idle →
    ((s.core c).ops.find? fun o => o.cls == 3 && o.stage == .issued) = some o →
    Gives (.dmaJob c) s (OnlyDma s c .p { s.dma c .p with
      phase := .fetch, job := some o.serial, idx := BitVec.ofNat 9 (bits o.desc.toNat 251 243), started := 1
      jobPoison := o.poison, poison := false, since := s.ac + 1 })) ∧
  (∀ (s : State) (c : CoreId) (ch : Chan) (op : Nat), 1 ≤ op → op ≤ 3 → (s.dma c ch).phase = .fetch →
    (s.dma c ch).since ≤ s.ac → dOp (s.descEntry c (s.dma c ch).idx.toNat).toNat = op →
    descFault (s.descEntry c (s.dma c ch).idx.toNat).toNat = false →
    Gives (dmaStart op c ch) s (OnlyDma s c ch { s.dma c ch with
      phase := .run, desc := s.descEntry c (s.dma c ch).idx.toNat, pos := 0, poison := false, mismatch := none
      root := none, list := none, half := none, last := 0 })) ∧
  (∀ (s : State) (c : CoreId) (ch : Chan) (op : Nat), 1 ≤ op → op ≤ 3 → (s.dma c ch).phase = .fetch →
    (s.dma c ch).since ≤ s.ac →
    (let n := dOp (s.descEntry c (s.dma c ch).idx.toNat).toNat; n = op ∨ n < 1 ∨ 3 < n) →
    descFault (s.descEntry c (s.dma c ch).idx.toNat).toNat = true →
    Gives (dmaStart op c ch) s fun t => (t.dma c ch).phase = .idle ∧ OtherCores s c t) ∧
  (∀ (s : State) (c : CoreId) (ch : Chan) (a b : Nat), ChunkReady s c ch opCopy →
    let k := s.dma c ch
    let x := k.desc.toNat
    k.half = none → (dSerial x = true → s.putsDone c ch = true ∧ s.shareDone c = true) →
    dSrcSpace x = spAm → chunkSrc k = a → chunkDst k = b → ChunkAt x a → ChunkAt x b →
    Gives (.dmaChunk c ch) s fun t =>
      (t.core c).dmaPuts = (s.core c).dmaPuts ++ [⟨ch, s.ac + (if a < 2 ^ 21 then 3 else 6), b,
        swapBytes (dSwap x) (s.amBytes c a (dChunk x)), anyLine (s.amPois c) a (dChunk x)⟩] ∧
      (t.dma c ch).pos = k.pos + 1 ∧ (t.dma c ch).phase = (if dTotal x ≤ k.pos + 1 then .done else .run) ∧
      OtherCores s c t) ∧
  (∀ (s : State) (c : CoreId) (ch : Chan) (b : Nat), ChunkReady s c ch opFill →
    let k := s.dma c ch
    let x := k.desc.toNat
    k.half = none → chunkDst k = b → ChunkAt x b →
    Gives (.dmaChunk c ch) s fun t =>
      (t.core c).dmaPuts = (s.core c).dmaPuts ++ [⟨ch, s.ac, b,
        (List.range (dChunk x)).map (fun i => BitVec.ofNat 8 (dPattern x / 2 ^ (8 * (i % 8)) % 256)), false⟩] ∧
      (t.dma c ch).pos = k.pos + 1 ∧ (t.dma c ch).phase = (if dTotal x ≤ k.pos + 1 then .done else .run) ∧
      OtherCores s c t) ∧
  (∀ (s : State) (c : CoreId) (p : LanePut), p ∈ (s.core c).dmaPuts → p.due ≤ s.ac → (s.core c).amUse = [] →
    ((s.dmaPut c p).core c).timed = (s.core c).timed ++
      [⟨if p.data.length % 8 = 0 then s.ac else s.ac + 1, p.addr, false, .put p.data p.poison⟩] ∧
    ((s.dmaPut c p).core c).dmaPuts = (s.core c).dmaPuts.erase p ∧ OtherCores s c (s.dmaPut c p)) ∧
  (∀ (s : State) (c : CoreId) (ch : Chan) (a b : Nat), ChunkReady s c ch opCompare →
    let k := s.dma c ch
    let x := k.desc.toNat
    dSrcSpace x = spAm → chunkSrc k = a → chunkDst k = b → ChunkAt x a → ChunkAt x b →
    anyLine (s.amPois c) b (dChunk x) = false →
    (k.half = none → (laneMask a (dChunk x) &&& laneMask b (dChunk x)) = 0 → anyLine (s.amPois c) a (dChunk x) = false →
      Gives (.dmaChunk c ch) s fun t =>
        let diff := firstDiff (s.amBytes c a (dChunk x)) (s.amBytes c b (dChunk x)) 0
        (t.dma c ch).mismatch = (match diff with | some i => some (i, k.pos, false) | none => k.mismatch) ∧
        (t.dma c ch).phase = (if diff ≠ none ∨ dTotal x ≤ k.pos + 1 then .done else .run) ∧
        (t.dma c ch).pos = k.pos + 1 ∧ OtherCores s c t) ∧
    (k.half = none → (laneMask a (dChunk x) &&& laneMask b (dChunk x)) ≠ 0 →
      Gives (.dmaChunk c ch) s fun t =>
        (t.dma c ch).half = some (s.amBytes c a (dChunk x), anyLine (s.amPois c) a (dChunk x)) ∧
        (t.dma c ch).pos = k.pos ∧ (t.dma c ch).phase = .run ∧ OtherCores s c t) ∧
    (∀ e, k.half = some (e, false) →
      Gives (.dmaChunk c ch) s fun t =>
        let diff := firstDiff e (s.amBytes c b (dChunk x)) 0
        (t.dma c ch).mismatch = (match diff with | some i => some (i, k.pos, false) | none => k.mismatch) ∧
        (t.dma c ch).phase = (if diff ≠ none ∨ dTotal x ≤ k.pos + 1 then .done else .run) ∧
        (t.dma c ch).pos = k.pos + 1 ∧ OtherCores s c t)) ∧
  (∀ (s : State) (c : CoreId), (s.dma c .p).phase = .done → s.putsDone c .p = true →
    (dDstSpace (s.dma c .p).desc.toNat = spWs → s.shareDone c = true) → dOp (s.dma c .p).desc.toNat ≠ opCompare →
    Gives (.dmaDescComplete c .p) s fun t => (t.dma c .p).phase = .link ∧
      (t.dma c .p).jobPoison = ((s.dma c .p).jobPoison || (s.dma c .p).poison) ∧
      (dSig (s.dma c .p).desc.toNat = true → ¬Issued s c → (s.core c).sem (dSem (s.dma c .p).desc.toNat) < 0xFFFF →
        (t.core c).sem (dSem (s.dma c .p).desc.toNat) = (s.core c).sem (dSem (s.dma c .p).desc.toNat) + 1) ∧
      (dSig (s.dma c .p).desc.toNat = true → Issued s c →
        (t.core c).semPend = (s.core c).semPend ++ [⟨s.ac + 1, dSem (s.dma c .p).desc.toNat, 1⟩]) ∧
      (dSig (s.dma c .p).desc.toNat = false → (t.core c).sems = (s.core c).sems) ∧ OtherCores s c t) ∧
  (∀ (s : State) (c : CoreId), (s.dma c .p).phase = .done → s.putsDone c .p = true →
    dOp (s.dma c .p).desc.toNat = opCompare → (s.dma c .p).mismatch = none →
    Gives (.dmaDescComplete c .p) s fun t => (t.dma c .p).phase = .link ∧
      t.reg (.dma c) 0x20 = 0 ∧ t.reg (.dma c) 0x24 = 0 ∧ OtherCores s c t) ∧
  (∀ (s : State) (c : CoreId), (s.dma c .q).phase = .done → s.putsDone c .q = true →
    (dDstSpace (s.dma c .q).desc.toNat = spWs → s.shareDone c = true) →
    dOp (s.dma c .q).desc.toNat ≠ opCompare → dSig (s.dma c .q).desc.toNat = false →
    Gives (.dmaDescComplete c .q) s fun t =>
      (t.dma c .q).phase = (if (s.dma c .q).stop then .idle else .link) ∧ OtherCores s c t) ∧
  (∀ (s : State) (c : CoreId), (s.dma c .p).phase = .link → (s.dma c .p).since ≤ s.ac →
    let w := s.linkWord c (s.dma c .p).idx.toNat
    Gives (.dmaLinkRead c .p) s fun t =>
      (linkEoc w = true → (t.dma c .p).phase = .idle ∧ (t.dma c .p).job = none ∧
        ∀ n, (s.dma c .p).job = some n → ∀ y ∈ (t.core c).ops, y.serial = n → y.stage = .finished) ∧
      (linkEoc w = false → (s.dma c .p).started < 64 → OnlyDma s c .p { s.dma c .p with
        phase := .fetch, idx := BitVec.ofNat 9 (linkNext w), started := (s.dma c .p).started + 1, since := s.ac + 1 } t) ∧
      (linkEoc w = false → 64 ≤ (s.dma c .p).started →
        (t.dma c .p).phase = .idle ∧ t.reg (.dma c) 0x04 / 2 ^ 4 % 2 = 1)) ∧
  (∀ (s : State) (c : CoreId), (s.dma c .q).phase = .link → (s.dma c .q).since ≤ s.ac →
    let w := s.linkWord c (s.dma c .q).idx.toNat
    let rung := (s.dma c .q).bell == s.ac + 1
    Gives (.dmaLinkRead c .q) s fun t =>
      (linkEoc w = true → OnlyDma s c .q { s.dma c .q with
        phase := if (s.dma c .q).pend then .link else .parked, pend := rung, since := s.ac + 1 } t) ∧
      (linkEoc w = false → OnlyDma s c .q { s.dma c .q with
        phase := .fetch, idx := BitVec.ofNat 9 (linkNext w), pend := rung, since := s.ac + 1 } t)) ∧
  (∀ (s : State) (c : CoreId), Gives (.dmaDoorbell c) s fun t =>
    ((s.dma c .q).phase = .idle → OnlyDma s c .q { s.dma c .q with
      phase := .fetch, idx := BitVec.ofNat 9 (s.reg (.dma c) 0x0C), bell := s.ac + 1, since := s.ac + 1 } t) ∧
    ((s.dma c .q).phase = .parked → OnlyDma s c .q { s.dma c .q with
      phase := .link, pend := decide (s.ac < (s.dma c .q).since), bell := s.ac + 1, since := s.ac + 1 } t) ∧
    ((s.dma c .q).phase ≠ .idle → (s.dma c .q).phase ≠ .parked → OnlyDma s c .q { s.dma c .q with
      pend := true, bell := s.ac + 1 } t)) ∧
  (∀ (s : State) (c : CoreId), s.reg (.dma c) 0x14 % 2 = 0 → Gives (.dmaQctrlStop c) s fun t =>
    ((s.dma c .q).phase = .idle ∨ (s.dma c .q).phase = .parked ∨ (s.dma c .q).phase = .link →
      (t.dma c .q).phase = .idle) ∧
    ((s.dma c .q).phase = .fetch ∨ (s.dma c .q).phase = .run ∨ (s.dma c .q).phase = .done →
      (t.dma c .q).stop = true ∧ (t.dma c .q).phase = (s.dma c .q).phase ∧ t.reg (.dma c) 0x14 % 2 = 1) ∧
    OtherCores s c t)

/-- R188, R202, R203, R205, R460 to R466, R640. -/
def Obligations.CommandBlocksProgramStreamAndArm : Prop :=
  (∀ (s : State) (d : DieId) (h : Nat) (body : List Line) (cs : List CoreId) (t : State),
    BlockIs s d 1 h body cs t → body ≠ [] →
    ((∀ c ∈ cs, loadIndex s c + 2 * body.length ≤ 1024) → Gives (.programBlock d) s fun u => ∀ c ∈ cs,
      (∀ j v, (bundlesOf body)[j]? = some v → bundleAt u c (!(s.core c).bank) (loadIndex s c + j) = v) ∧
      (u.core c).bankOf (!(s.core c).bank) =
        (if hLast h then ⟨true, hToken h, 0, s.ac + body.length⟩
         else ⟨false, 0, loadIndex s c + 2 * body.length, 0⟩) ∧ (u.die d).seqFrom = s.ac + body.length ∧
      (u.core c).bank = (s.core c).bank ∧ (u.die d).cmdq = (t.die d).cmdq) ∧
    ((∃ c ∈ cs, 1024 < loadIndex s c + 2 * body.length) → Gives (.programBlock d) s fun u =>
      u.reg (.cqDie d) 0x44 / 2 ^ 3 % 2 = 1 ∧ (u.ctx (hCtx h)).flagged = true ∧ (u.die d).cmdq = (t.die d).cmdq)) ∧
  (∀ (s : State) (d : DieId) (h : Nat) (body : List Line) (cs : List CoreId) (t : State),
    BlockIs s d 2 h body cs t →
    ((body.length ≠ 1 + ceilDiv (stRules (line0 body)) 4 ∨ 8 < stRules (line0 body)) → Gives (.streamBlock d) s fun u =>
      u.reg (.cqDie d) 0x04 / 2 % 2 = 1 ∧ (u.die d).block = none) ∧
    (body.length = 1 + ceilDiv (stRules (line0 body)) 4 → stRules (line0 body) ≤ 8 → Gives (.streamBlock d) s fun u =>
      (rulesBad (rulesOf body) = false →
        (u.die d).block = some ⟨h, body, 0, stSoft (line0 body), !stSoft (line0 body)⟩) ∧
      (rulesBad (rulesOf body) = true → (u.die d).block = none ∧ u.reg (.cqDie d) 0x44 / 2 ^ 4 % 2 = 1 ∧
        (u.ctx (hCtx h)).flagged = true) ∧ OtherCores s (coreOf d 0) u)) ∧
  (∀ (s : State) (d : DieId) (b : Block) (c : CoreId) (tok : Token) (x : Nat), (s.die d).pushAc ≤ s.ac →
    s.streamNext d = some (b, c, tok, x) → (s.core c).skips = [] →
    let q := if stXsq (line0 b.body) then qXSQ else qMSQ
    s.qFull c q = false →
    Gives (.streamPush d) s fun t =>
      (t.core c).queue q = (s.core c).queue q ++ [⟨tok, stXsq (line0 b.body) && decide (bits x 255 252 = 0 ∨ 4 < bits x 255 252),
        BitVec.ofNat 256 x, s.ac + 1, false⟩] ∧ (t.die d).pushAc = s.ac + 1 ∧ OtherCores s c t) ∧
  (∀ (s : State) (d : DieId) (xsq : Bool) (pos : BitVec 6) (tok : Token) (desc : BitVec 256), (s.die d).pushAc ≤ s.ac →
    s.streamNext d = none → (s.die d).push = some (xsq, pos, tok, desc) →
    let q := if xsq then qXSQ else qMSQ
    let c := coreOf d (Fin.ofNat 64 pos.toNat)
    (s.qFull c q = true → Gives (.streamPush d) s fun t => t = s) ∧
    (s.qFull c q = false → (s.core c).skips = [] → Gives (.streamPush d) s fun t =>
      (∃ p, (t.core c).queue q = (s.core c).queue q ++ [⟨tok, p, desc, s.ac + 1, false⟩]) ∧ (t.die d).push = none ∧
      t.fld (.cqDie d) 0xA0 31 31 = 0 ∧ OtherCores s c t)) ∧
  (∀ (s : State) (d : DieId), Gives (.cqCcdone d) s fun t =>
    (s.fld (.cqDie d) 0x60 0 0 = 0 → t.fld (.cqDie d) 0x60 0 0 = 1 ∧
      ∀ b, (s.die d).block = some b → (t.die d).block = if b.soft then none else some b) ∧
    (s.fld (.cqDie d) 0x60 0 0 = 1 → t.reg (.cqDie d) 0x44 / 2 ^ 7 % 2 = 1 ∧ (t.die d).block = (s.die d).block)) ∧
  (∀ (s : State) (d : DieId) (xsq : Bool) (pos : BitVec 6) (tok : Token), Gives (.cqCcpushctlGo d xsq pos tok) s fun t =>
    (s.fld (.cqDie d) 0xA0 31 31 = 0 →
      (t.die d).push = some (xsq, pos, tok, BitVec.ofNat 256 (s.pushWindow d)) ∧ t.fld (.cqDie d) 0xA0 31 31 = 1) ∧
    (s.fld (.cqDie d) 0xA0 31 31 = 1 → t.reg (.cqDie d) 0x44 / 2 ^ 7 % 2 = 1 ∧ (t.die d).push = (s.die d).push)) ∧
  (∀ (s : State) (d : DieId) (h : Nat) (body : List Line) (t : State), s.nextBlock d = some (h, body, t) → hType h = 4 →
    ((t.targets d h).isSome = true → (s.die d).push = none → Gives (.fenceBlock d) s fun u => u = t) ∧
    (t.targets d h = none → Gives (.fenceBlock d) s fun u =>
      u.reg (.cqDie d) 0x04 / 4 % 2 = 1 ∧ (u.ctx (hCtx h)).flagged = true ∧ u.cores = t.cores)) ∧
  (∀ (s : State) (d : DieId) (h : Nat) (e : Line) (rest : List Line) (cs : List CoreId) (t : State),
    BlockIs s d 3 h (e :: rest) cs t → (s.ctx (hCtx h)).nextPeal = none →
    Gives (.launchBlock d) s fun u =>
      let x := e.toNat
      (s.car < bits x 63 0 → s.car < s.mod.leaseUntil →
        (u.die d).armed = some ⟨hCtx h, BitVec.ofNat 64 (bits x 63 0), BitVec.ofNat 64 (bits x 127 64),
          BitVec.ofNat 32 (bits x 159 128), bitAt x 160⟩) ∧
      (bits x 63 0 ≤ s.car → (u.die d).armed = (s.die d).armed ∧ u.reg (.cqDie d) 0x44 / 2 ^ 5 % 2 = 1) ∧
      ∀ c ∈ cs, (u.core c).queue qMSQ = [] ∧ (u.core c).queue qXSQ = []) ∧
  (∀ (s : State) (d : DieId) (a : Armed), (s.die d).armed = some a → (s.die d).copyEnd = none → s.remapOwed d ≠ [] →
    let bad := (s.remapOwed d).any fun p => s.bankUce (coreOf d (Fin.ofNat 64 (8 * p.1 + p.2)))
    Gives (.bankCopy d) s fun t =>
      (bad = false → (t.die d).copyEnd = some (s.ac + 256 * (s.remapOwed d).length) ∧ (t.die d).armed = some a) ∧
      (bad = true → (t.die d).armed = none) ∧ t.cores = s.cores ∧ t.pm = s.pm)

/-- R195, R473 to R476, R478, R479, R490, R556, R651. -/
def Obligations.GongWavesSummariesAndReportsAdvance : Prop :=
  (∀ (s : State) (x : Ctx) (last : Nat), AllArrived s x last → last + 20 ≤ s.ac →
    Gives (.gongWaveComplete x) s fun t =>
      (s.allEnded (s.coresOfCtx x) = false → t.cores = s.cores ∧ t.ctx x = { s.ctx x with
        gongsDone := (s.ctx x).gongsDone + 1, waveAt := some s.ac, releaseAt := some (last + 28) }) ∧
      (s.allEnded (s.coresOfCtx x) = true → (t.ctx x).stepWave = true ∧ ∃ m, (t.ctx x).summary = some m ∧
        ∀ c ∈ s.coresOfCtx x, (s.core c).poisoned = true → m.flags.getLsbD 2 = true)) ∧
  (∀ (s : State) (x : Ctx) (u : Nat), (s.ctx x).releaseAt = some u → u ≤ s.ac →
    Gives (.gongRelease x) s fun t =>
      (∀ c ∈ s.coresOfCtx x, (s.core c).hold = holdGong →
        (t.core c).mode = (if (s.core c).gongMode = some true then .slack else .lockstep) ∧ (t.core c).hold = 0 ∧
        (t.core c).issueFrom = s.ac) ∧
      (∀ c, c ∉ s.coresOfCtx x ∨ (s.core c).hold ≠ holdGong → t.core c = s.core c) ∧
      (t.ctx x).releaseAt = none ∧ t.regs = s.regs) ∧
  (∀ (s : State) (x : Ctx) (l : LinkId) (m : GongSummary), (s.ctx x).gtchild.getLsbD l.val = true →
    Gives (.gongSum x l m) s fun t =>
      (t.ctx x).children = ((s.ctx x).children.filter fun c => c.1 != l.val) ++ [(l.val, m)] ∧ t.cores = s.cores ∧
      ((s.ctx x).isRoot = true → (s.ctx x).stepWave = true → (s.ctx x).summary ≠ none → (s.ctx x).sumSentAt = none →
        (s.ctx x).mergedAt = none → (∀ k ∈ (s.ctx x).childLinks, k = l ∨ ∃ c ∈ (s.ctx x).children, c.1 = k.val) →
        (t.ctx x).mergedAt = some s.now)) ∧
  (∀ (s : State) (x : Ctx) (n : GongNotice), Gives (.gongDec x n) s fun t =>
    (t.ctx x).notice = some n ∧ (t.ctx x).actionAt = nearestCount s.car n.action.toNat ∧ t.cores = s.cores) ∧
  (∀ (s : State) (x : Ctx) (t0 : Nat), (s.ctx x).active = true → (s.ctx x).waveDoneAt = some t0 →
    (s.ctx x).sumSentAt = none → (s.ctx x).mergedAt = none → (s.ctx x).missing ≠ [] → s.over t0 s.fabTimeout = true →
    Gives (.gongTimeout x) s fun t => (t.ctx x).gongFault = true) ∧
  (∀ (s : State) (x : Ctx) (e : Endpoint) (rs : List ElogRecord), (s.ctx x).active = true → (s.ctx x).isRoot = true →
    Gives (.faultReport x e rs) s fun t => e ∈ (t.ctx x).reported ∧ (∀ e' ∈ (s.ctx x).reported, e' ∈ (t.ctx x).reported) ∧
      (t.ctx x).runRecords = (s.ctx x).runRecords ++ rs ∧ t.mod = s.mod) ∧
  (∀ (s : State) (x : Ctx) (e : Endpoint), s.reportsLate x = true → e ∈ s.modulesOf x →
    Gives (.faultReportTimeout x e) s fun t => e ∈ (t.ctx x).reported)

/-- R197, R485, R486, R491 to R495, R503, R652, R666, R668. -/
def Obligations.StepLaunchDecisionAndActions : Prop :=
  (∀ (s : State) (x : Ctx) (p : Nat), s.diesOf x ≠ [] → p ≤ s.car → (s.ctx x).active = false →
    (∀ d ∈ s.diesOf x, ∃ a, s.ready x d = some a ∧ a.peal.toNat = p) →
    (∀ d a, (s.die d).armed = some a → a.ctx = x → a.peal.toNat = p) →
    creditsBad ((s.coresOfCtx x).flatMap fun c => (s.chansOf x c).map Prod.snd) = false →
    (∀ c ∈ s.coresOfCtx x, ∀ e ∈ s.chansOf x c, e.2.dest.toNat < 768) →
    Gives (.stepLaunch x) s fun t => ∀ d ∈ s.diesOf x, ∀ a, s.ready x d = some a →
      (t.die d).armed = none ∧ (t.die d).launched = some a.step ∧
      ∀ c ∈ coresOf d, (t.core c).mode = .lockstep ∧ (t.core c).index = 0 ∧ (t.core c).bank = a.bank ∧
        (t.core c).preds = 0 ∧ (t.core c).sems = [] ∧ (t.core c).ended = false ∧ (t.core c).issueFrom = s.ac ∧
        (t.core c).chans = s.chansOf x c) ∧
  (∀ (s : State) (x : Ctx) (d d' : DieId) (a : Armed), (s.die d).armed = some a → a.ctx = x → a.peal.toNat ≤ s.car →
    (s.ctx x).active = false → d' ∈ s.diesOf x → s.ready x d' = none →
    Gives (.stepLaunch x) s fun t => t.cores = s.cores ∧ (t.ctx x).stepWave = true ∧
      (∃ m, (t.ctx x).summary = some m ∧ m.flags = 4) ∧ t.reg .clk 0x18 / 2 % 2 = 1) ∧
  (∀ (s : State) (x : Ctx) (d : DieId) (a : Armed), (s.die d).armed = some a → a.ctx = x → a.peal.toNat ≤ s.car →
    (s.ctx x).active = true →
    Gives (.stepLaunch x) s fun t => t.cores = s.cores ∧ t.ctx x = s.ctx x ∧ (t.die d).armed = none ∧
      t.reg (.cqDie d) 0x44 / 2 ^ 5 % 2 = 1) ∧
  (∀ (s : State) (x : Ctx) (peal : Word64) (own : GongSummary), MayDecide s x own →
    let m := (s.ctx x).merged own
    Gives (.stepDecide x peal) s fun t =>
      ((s.ctx x).fencedOpen = true → Announced t x 3 4 (m.flags &&& 0x7F)) ∧
      ((s.ctx x).fencedOpen = false → m.clean = true → Announced t x 1 0 (m.flags &&& 0x7F)) ∧
      ((s.ctx x).fencedOpen = false → m.keyLo ≠ m.keyHi → Announced t x 3 2 (m.flags &&& 0x7F)) ∧
      ((s.ctx x).fencedOpen = false → m.clean = false → m.keyLo = m.keyHi → (s.ctx x).entriesLost = false →
        (s.ctx x).runRecords = [] → s.withdrawnOf x = [] → (s.ctx x).episode = none → 2 ≤ replayLimit s.mod.policy →
        Announced t x 2 0 (m.flags &&& 0x7F) ∧ ∃ n, (t.ctx x).notice = some n ∧ n.peal = s.replayPeal peal)) ∧
  (∀ (s : State) (x : Ctx) (n : GongNotice), s.dueAction x decCommit = some n → s.leased = true →
    Gives (.stepCommit x) s fun t =>
      (s.chainFull (s.ctxEncl x) = true → (t.chain (s.ctxEncl x)).hold = true ∧ (t.ctx x).active = true) ∧
      (s.chainFull (s.ctxEncl x) = false → (t.ctx x).active = false ∧ (t.ctx x).replay = 0 ∧ (t.ctx x).episode = none)) ∧
  (∀ (s : State) (x : Ctx) (n : GongNotice), s.dueAction x decReplay = some n →
    Gives (.stepReplay x) s fun t =>
      (t.ctx x).active = false ∧ (t.ctx x).replay = (s.ctx x).replay + 1 ∧ (t.ctx x).nextPeal = some n.peal ∧
      (t.ctx x).summary = none ∧ (t.ctx x).notice = none ∧ (t.ctx x).inputs = [] ∧
      (∀ d ∈ s.diesOf x, (t.die d).launched = none) ∧
      ∀ f ∈ t.mod.frames, f ∈ s.mod.frames ∧ (f.context = x → f.released = true)) ∧
  (∀ (s : State) (x : Ctx) (n : GongNotice), s.dueAction x decReport = some n → s.leased = true →
    Gives (.stepReport x) s fun t =>
      (s.chainFull (s.ctxEncl x) = true → (t.chain (s.ctxEncl x)).hold = true ∧ (t.ctx x).active = true) ∧
      (s.chainFull (s.ctxEncl x) = false → (t.ctx x).active = false ∧ (t.ctx x).replay = 0 ∧ (t.ctx x).episode = none))

/-- R380, R381, R384 to R387, R390, R394, R396, R405 to R407. -/
def Obligations.PageManagerCommandsRunAndAnswer : Prop :=
  (∀ (s : State) (d : DieId) (w : Word64), HeadCmd s d 1 w →
    (seqValid (seqOf s d w) = false → cmdArg w < 2 ^ 20 → s.room d 1 0 false = none →
      Gives (.seqOpen d) s fun t => Answered s d w 0 false 0 t ∧
        let f := (s.pgm d).pop.1
        seqOf t d w = (seqWord f (cmdArg w) 0).toNat ∧ (t.pgm d).frameOf f = ⟨1, true, 1⟩ ∧
        (∀ i, i ≠ cmdS w → (t.pgm d).seq i = (s.pgm d).seq i)) ∧
    (seqValid (seqOf s d w) = true → Gives (.seqOpen d) s fun t => Answered s d w 3 false 0 t ∧
      (t.pgm d).seqs = (s.pgm d).seqs ∧ (t.pgm d).frames = (s.pgm d).frames ∧ t.cs = s.cs ∧
      t.reg (.pgm d) 0x14 / 2 ^ 5 % 2 = 1)) ∧
  (∀ (s : State) (d : DieId) (w : Word64), HeadCmd s d 2 w → seqValid (seqOf s d w) = true →
    let e := seqOf s d w
    let n := cmdArg w
    1 ≤ n → n ≤ 256 → seqBase e + seqPages e + n ≤ 2 ^ 20 → seqRoot e < s.frames d →
    (seqPages e % s.listLen d ≠ 0 → s.listOk d e (seqPages e) = true) →
    s.room d (n + ((List.range n).filter fun i => (seqPages e + i) % s.listLen d == 0).length) 0 false = none →
    Gives (.append d) s fun t => ∃ f, Answered s d w 0 false f t ∧ ((t.pgm d).frameOf f).state = 1 ∧
      ((t.pgm d).frameOf f).count = 1 ∧ seqOf t d w = (seqWord (seqRoot e) (seqBase e) (seqPages e + n)).toNat) ∧
  (∀ (s : State) (d : DieId) (w : Word64), HeadCmd s d 3 w → seqValid (seqOf s d w) = true →
    let e := seqOf s d w
    let g := (s.pgm d).seq (cmdD w)
    let n := cmdArg w
    let fs := (List.range n).map (s.pageFrame d e)
    seqValid g = true → seqPages g = 0 → seqBase g = seqBase e → 1 ≤ n → n ≤ seqPages e →
    seqRoot g < s.frames d → (∀ i < n, s.pageOk d e i = true) →
    (∀ f ∈ fs, ((s.pgm d).frameOf f).count + fs.count f ≤ 65535) →
    s.room d (ceilDiv n (s.listLen d)) n false = none →
    Gives (.share d) s fun t => Answered s d w 0 false 0 t ∧
      (t.pgm d).seq (cmdD w) = (seqWord (seqRoot g) (seqBase g) n).toNat ∧ seqOf t d w = e) ∧
  (∀ (s : State) (d : DieId) (w : Word64), HeadCmd s d 4 w → seqValid (seqOf s d w) = true →
    cmdArg w < seqPages (seqOf s d w) → s.pageOk d (seqOf s d w) (cmdArg w) = true →
    let f := s.pageFrame d (seqOf s d w) (cmdArg w)
    let n := ((s.pgm d).frameOf f).count
    (n = 1 → s.room d 0 0 false = none → Gives (.cow d) s fun t => Answered s d w 0 false f t ∧
      (t.pgm d).frames = (s.pgm d).frames ∧ t.cs = s.cs) ∧
    (2 ≤ n → s.room d 1 1 false = none → (s.pgm d).pop.1 ≠ f → Gives (.cow d) s fun t =>
      Answered s d w 0 true (s.pgm d).pop.1 t ∧ (t.pgm d).frameOf (s.pgm d).pop.1 = ⟨1, false, 1⟩ ∧
      ((t.pgm d).frameOf f).count + 1 = n ∧ (t.pgm d).seqs = (s.pgm d).seqs)) ∧
  (∀ (s : State) (d : DieId) (w : Word64), HeadCmd s d 5 w → seqValid (seqOf s d w) = true →
    let e := seqOf s d w
    let fs := s.truncFrames d e (cmdArg w)
    cmdArg w ≤ seqPages e → s.truncOk d e (cmdArg w) = true → s.room d 0 fs.length ((s.pgm d).under fs) = none →
    Gives (.trunc d) s fun t => Answered s d w 0 false 0 t ∧
      seqOf t d w = (seqWord (seqRoot e) (seqBase e) (cmdArg w)).toNat ∧ t.cs = s.cs) ∧
  (∀ (s : State) (d : DieId) (w : Word64), HeadCmd s d 6 w → seqValid (seqOf s d w) = true →
    let e := seqOf s d w
    let fs := s.truncFrames d e 0 ++ [seqRoot e]
    seqRoot e < s.frames d → s.truncOk d e 0 = true → s.room d 0 fs.length ((s.pgm d).under fs) = none →
    Gives (.close d) s fun t => Answered s d w 0 false 0 t ∧ seqValid (seqOf t d w) = false ∧ seqPages (seqOf t d w) = 0 ∧
      seqRoot (seqOf t d w) = seqRoot e ∧ seqBase (seqOf t d w) = seqBase e ∧ t.cs = s.cs) ∧
  (∀ (s : State) (d : DieId) (w : Word64), HeadCmd s d 7 w → s.refOk d (cmdArg w) = true →
    let r := (s.pgm d).frameOf (cmdArg w)
    r.count < 65535 → s.room d 0 1 false = none →
    Gives (.incref d) s fun t => Answered s d w 0 false 0 t ∧
      (t.pgm d).frameOf (cmdArg w) = { r with count := r.count + 1 } ∧
      ∀ f, f ≠ cmdArg w → (t.pgm d).frameOf f = (s.pgm d).frameOf f) ∧
  (∀ (s : State) (d : DieId) (w : Word64), HeadCmd s d 8 w → s.refOk d (cmdArg w) = true →
    let r := (s.pgm d).frameOf (cmdArg w)
    s.room d 0 1 false = none →
    Gives (.decref d) s fun t => Answered s d w 0 false 0 t ∧
      (1 < r.count → (t.pgm d).frameOf (cmdArg w) = { r with count := r.count - 1 }) ∧
      (r.count ≤ 1 → ((t.pgm d).frameOf (cmdArg w)).state = 2 ∧ cmdArg w ∈ (t.pgm d).quarantine) ∧
      ∀ f, f ≠ cmdArg w → (t.pgm d).frameOf f = (s.pgm d).frameOf f) ∧
  (∀ (s : State) (d : DieId) (w : Word64), HeadCmd s d 14 w →
    Gives (.commit d) s fun t => Answered s d w 0 false 0 t ∧ (t.pgm d).quarantine = [] ∧ (t.pgm d).journal = [] ∧
      (∀ f ∈ (s.pgm d).quarantine, (t.pgm d).frameOf f = FrameRec.reset) ∧ (t.pgm d).seqs = (s.pgm d).seqs) ∧
  (∀ (s : State) (d : DieId) (w : Word64), HeadCmd s d 15 w →
    Gives (.rollback d) s fun t => Answered s d w 0 false 0 t ∧ (t.pgm d).journal = [] ∧
      (∀ i old, (s.pgm d).journal = [.mark, .seq i old] → (t.pgm d).seq i = old.toNat) ∧
      ((s.pgm d).journal = [] → (t.pgm d).seqs = (s.pgm d).seqs ∧ (t.pgm d).frames = (s.pgm d).frames ∧ t.cs = s.cs)) ∧
  (∀ (s : State) (d : DieId) (w : Word64), s.pgmHead d = some w → opReserved (cmdOp w) = true →
    Gives (.pgmIllegalOp d) s fun t => Answered s d w 3 false 0 t ∧ t.reg (.pgm d) 0x14 / 2 ^ 5 % 2 = 1 ∧
      (t.pgm d).seqs = (s.pgm d).seqs ∧ (t.pgm d).frames = (s.pgm d).frames ∧ t.cs = s.cs) ∧
  (∀ (s : State) (d : DieId),
    Gives (.pgmInit d) s (fun t =>
      (s.reg (.pgm d) 0x04 % 2 = 0 → (t.pgm d).initReq = true ∧ t.reg (.pgm d) 0x04 % 2 = 1) ∧
      (s.reg (.pgm d) 0x04 % 2 = 1 → t.pgm d = s.pgm d ∧ t.reg (.pgm d) 0x14 / 2 ^ 9 % 2 = 1)) ∧
    Gives (.pgmRespop d) s (fun t => (t.pgm d).results = (s.pgm d).results.tail ∧ t.regs = s.regs) ∧
    Gives (.pgmCepop d) s fun t => (t.pgm d).ceLog = (s.pgm d).ceLog.tail ∧ t.regs = s.regs) ∧
  (∀ (s : State) (d : DieId), (s.pgm d).initReq = true →
    Gives (.pgmInitialisation d) s fun t => (t.pgm d).initReq = false ∧
      ((s.pgm d).inUse = false → (t.pgm d).seqs = [] ∧ (t.pgm d).frames = [] ∧ (t.pgm d).freed = [] ∧
        (t.pgm d).fresh = 0 ∧ (t.pgm d).journal = [] ∧ (t.pgm d).cmds = (s.pgm d).cmds) ∧
      ((s.pgm d).inUse = true → (t.pgm d).frames = (s.pgm d).frames ∧ (t.pgm d).seqs = (s.pgm d).seqs ∧
        t.reg (.pgm d) 0x14 / 2 ^ 8 % 2 = 1))

/-- R336, R340, R352, R356, R364, R366, R636 to R638, R641. -/
def Obligations.UpkeepRetiresScrubsAndWrites : Prop :=
  (∀ (s : State) (c : CoreId), Gives (.mxCepop c) s fun t =>
    (t.core c).ceLog = (s.core c).ceLog.tail ∧ (∀ c', c' ≠ c → t.core c' = s.core c') ∧ t.regs = s.regs) ∧
  (∀ (s : State) (c : CoreId) (layer : Bool) (row : BitVec 14), let u := if layer then 1 else 0
    Gives (.mxRetire c layer row) s fun t =>
      (s.fld (.mx c) 0x60 31 31 = 0 → retireRefused (s.core c).retired u row.toNat 32 = false →
        (t.core c).retiring = some ⟨u, row.toNat, sparesUsed (s.core c).retired u + 1, 0, false⟩ ∧ t.fld (.mx c) 0x60 31 31 = 1) ∧
      (s.fld (.mx c) 0x60 31 31 = 0 → retireRefused (s.core c).retired u row.toNat 32 = true →
        (t.core c).retiring = (s.core c).retiring ∧ t.fld (.mx c) 0x60 31 31 = 0 ∧ t.fld (.mx c) 0x64 30 30 = 1) ∧
      (s.fld (.mx c) 0x60 31 31 = 1 → t.core c = s.core c ∧ t.reg (.mx c) 0x60 = s.reg (.mx c) 0x60)) ∧
  (∀ (s : State) (d : DieId) (slice : BitVec 5) (row : BitVec 14), Gives (.pgmRetire d slice row) s fun t =>
    (s.fld (.pgm d) 0x50 31 31 = 0 → retireRefused (s.pgm d).retired slice.toNat row.toNat 64 = false →
      (t.pgm d).retiring = some ⟨slice.toNat, row.toNat, sparesUsed (s.pgm d).retired slice.toNat + 1, 0, false⟩ ∧
      t.fld (.pgm d) 0x50 31 31 = 1) ∧
    (s.fld (.pgm d) 0x50 31 31 = 0 → retireRefused (s.pgm d).retired slice.toNat row.toNat 64 = true →
      (t.pgm d).retiring = (s.pgm d).retiring ∧ t.fld (.pgm d) 0x54 30 30 = 1) ∧
    (s.fld (.pgm d) 0x50 31 31 = 1 → t.pgm d = s.pgm d ∧ t.reg (.pgm d) 0x14 / 2 ^ 9 % 2 = 1)) ∧
  (∀ (s : State) (c : CoreId) (r : Retiring), (s.core c).retiring = some r → (s.arr c).shadow ≠ .loading → r.spare ≠ 0 →
    wsCopyLen ≤ r.copied → Gives (.rowSwitch (.mx c)) s fun t => (t.core c).retiring = none ∧
      Store.get 0 (t.core c).retired (rowKey r.unit r.row) = r.spare ∧ t.fld (.mx c) 0x60 31 31 = 0 ∧ t.ws = s.ws ∧
      ∀ w < wsWords, inRow w r.unit r.row = false →
        Store.get .none t.wsErr (c.val * wsWords + w) = Store.get .none s.wsErr (c.val * wsWords + w)) ∧
  (∀ (s : State) (d : DieId) (r : Retiring), (s.pgm d).retiring = some r → r.spare ≠ 0 →
    csCopyLen ≤ r.copied → Store.get 0 (s.die d).xfree r.unit ≤ s.ac → Gives (.rowSwitch (.pgm d)) s fun t => (t.pgm d).retiring = none ∧
      Store.get 0 (t.pgm d).retired (rowKey r.unit r.row) = r.spare ∧ t.fld (.pgm d) 0x50 31 31 = 0 ∧ t.cs = s.cs) ∧
  (∀ (s : State) (c : CoreId) (r : Retiring), (s.core c).retiring = some r → r.copied < wsCopyLen →
    Gives (.rowSwitch (.mx c)) s fun t => t = s) ∧
  (∀ (s : State) (d : DieId) (r : Retiring), (s.pgm d).retiring = some r → r.copied < csCopyLen →
    Gives (.rowSwitch (.pgm d)) s fun t => t = s) ∧
  (∀ (s : State) (c : CoreId), s.scrubStops (dieOf c) = false → s.shareFree c = true →
    let w := (s.core c).wsScrub
    let key := c.val * wsWords + w
    Gives (.wsScrub c) s fun t =>
      Store.get .none t.wsErr key = (if Store.get .none s.wsErr key = .uce then .uce else .none) ∧
      (∀ k, k ≠ key → Store.get .none t.wsErr k = Store.get .none s.wsErr k) ∧ t.ws = s.ws ∧
      (t.core c).wsScrub = (if w + 1 < wsWords then w + 1 else 0) ∧ (t.core c).wsFree = s.ac + 1) ∧
  (∀ (s : State) (c : CoreId), s.shareFree c = false →
    Gives (.wsScrub c) s (fun t => t = s) ∧ Gives (.weightStoreWrite c) s fun t => t = s) ∧
  (∀ (s : State) (c : CoreId), s.scrubStops (dieOf c) = false → (s.core c).amUse = [] →
    (s.aboveScrub c &&& laneMask (8 * (s.core c).amScrub) 8) = 0 →
    let key := amWordKey c (8 * (s.core c).amScrub)
    Gives (.amScrub c) s fun t =>
      (Store.get .none s.amErr key = .one → Store.get .none t.amErr key = .none) ∧
      (∀ k, k ≠ key → Store.get .none t.amErr k = Store.get .none s.amErr k) ∧ t.am = s.am ∧
      (t.core c).amScrub = ((s.core c).amScrub + 1) % 524288) ∧
  (∀ (s : State) (d : DieId) (pos : Fin 64), let c := coreOf d pos
    s.ac % 64 = 63 → s.scrubStops d = false → (s.core c).psmScrubAt ≤ s.ac → Gives (.psmScrub d pos) s fun t => (t.core c).psmScrub = (s.core c).psmScrub + 1 ∧ t.psm = s.psm ∧
      (∀ b < 2048, s.vBank c b = false → Store.get 0 (t.core c).psmLost b = Store.get 0 (s.core c).psmLost b) ∧
      (∀ b < 2048, s.vBank c b = true → Store.get 0 (t.core c).psmLost b = Store.get 0 (s.core c).psmLost b + 1) ∧
      (s.psmErr = [] → t.psmErr = [] ∧ t.psmPoison = s.psmPoison)) ∧
  (∀ (s : State) (d : DieId) (slice : BitVec 5), s.scrubStops d = false → s.copyTurn d slice.toNat = false →
    Store.get 0 (s.die d).xfree slice.toNat ≤ s.ac → s.reservedNc = true ∨ s.sliceWaits d slice.toNat = false →
    let n := Store.get 0 (s.die d).csScrub slice.toNat
    let key := csUnitKey d (unitAt (s.frameSize d) slice.toNat n)
    Gives (.csScrub d slice) s fun t =>
      Store.get .none t.csErr key = (if Store.get .none s.csErr key = .uce then .uce else .none) ∧
      (∀ k, k ≠ key → Store.get .none t.csErr k = Store.get .none s.csErr k) ∧ t.cs = s.cs ∧
      Store.get 0 (t.die d).csScrub slice.toNat = (n + 1) % 1572864) ∧
  (∀ (s : State) (c : CoreId) (q : WsWrite) (rest : List WsWrite), (s.core c).wsPend = q :: rest →
    s.shareFree c = true →
    Gives (.weightStoreWrite c) s fun t => (t.core c).wsPend = rest ∧
      (t.core c).wsFree = s.ac + (if q.addr % 32 = 0 ∧ q.data.length % 32 = 0 then 1 else 2) ∧
      (s.scrubStops (dieOf c) = true → t.ws = s.ws) ∧
      (s.scrubStops (dieOf c) = false → t.wsBytes c q.addr q.data.length = q.data ∧
        ∀ a, (a < wsBase c + q.addr ∨ wsBase c + q.addr + q.data.length ≤ a) → t.ws.byte a = s.ws.byte a))

/-- R316, R320, R360 to R362, R364, R365, R499, R655, R659. -/
def Obligations.OwnershipMovesThroughItsStates : Prop :=
  (∀ (s : State) (d : DieId) (x : Ctx) (e : Encl), s.planAllows d e = true → s.joins x d = true →
    (x ≠ 0xFF → s.dieState d = dieClean → s.scanOpen = false → Gives (.assign d x e) s fun t =>
      t.dieState d = dieOwned ∧ t.dieCtx d = x ∧ t.dieEncl d = e ∧
      (∃ r, (t.chain e).entries.getLast? = some r ∧ r.bytes.head? = some 3) ∧ ∀ e', e' ≠ e → t.chain e' = s.chain e') ∧
    (s.dieState d ≠ dieClean ∨ s.scanOpen = true → Gives (.assign d x e) s fun t =>
      t.reg (.secDie d) 0x00 = s.reg (.secDie d) 0x00 ∧ t.reg (.secDie d) 0x08 / 2 % 2 = 1 ∧ t.chains = s.chains)) ∧
  (∀ (s : State) (d : DieId) (x : Ctx) (e : Encl), s.planAllows d e = false ∨ s.joins x d = false →
    Gives (.assign d x e) s fun t => t = s) ∧
  (∀ (s : State) (d : DieId), s.dieState d = dieOwned → Gives (.release d) s fun t =>
    t.dieState d = dieClearing ∧ t.dieCtx d = 0xFF ∧ (t.die d).armed = none ∧
    (t.die d).releasing = some (s.dieCtx d, s.dieEncl d) ∧
    (∀ c ∈ coresOf d, (t.core c).mode = .idle ∧ (t.core c).csReqs = [] ∧ (t.core c).dmaP.phase = .idle ∧
      (t.core c).dmaQ.phase = .idle) ∧
    ∀ c, dieOf c ≠ d → t.core c = s.core c) ∧
  (∀ (s : State) (d : DieId), s.dieState d ≠ dieOwned → Gives (.release d) s fun t =>
    t.cores = s.cores ∧ t.dies = s.dies ∧ t.reg (.secDie d) 0x08 / 2 % 2 = 1) ∧
  (∀ (s : State) (d : DieId), s.dieState d = dieClearing → s.mod.draining = none → Gives (.clearComplete d) s fun t =>
    t.dieState d = dieClean ∧ (t.die d).cmdq = [] ∧ (t.die d).block = none ∧ (t.die d).cleanAt = BitVec.ofNat 64 s.car ∧
    (∀ c ∈ coresOf d, (t.core c).mode = .idle ∧ (∀ a < 2 ^ 22, t.am.byte (amBase c + a) = 0) ∧
      (∀ a < 2 ^ 21, t.psm.byte (psmBase c + a) = 0) ∧ ∀ a < 96 * 2 ^ 20, t.ws.byte (wsBase c + a) = 0) ∧
    (∀ a < 3 * 2 ^ 30, t.cs.byte (csBase d + a) = 0) ∧
    (∀ c, dieOf c ≠ d → t.core c = s.core c ∧ ∀ a < 2 ^ 22, t.am.byte (amBase c + a) = s.am.byte (amBase c + a)) ∧
    ∀ x e, (s.die d).releasing = some (x, e) → ∃ r, (t.chain e).entries.getLast? = some r ∧ r.bytes.head? = some 2) ∧
  (∀ (s : State) (d : DieId) (mask : Word64), Gives (.coreAbort d mask) s fun t =>
    t.deferred = s.deferred ++ [⟨false, s.ac + 1, .abort d.val mask⟩] ∧ { t with deferred := s.deferred } = s) ∧
  (∀ (s : State) (d : DieId) (mask : Word64), let t := s.lateDo (.abort d.val mask)
    (∀ p : Fin 64, mask.getLsbD p.val = true → let c := coreOf d p
      (t.core c).mode = .idle ∧ (∀ o ∈ (t.core c).ops, o.stage ≠ .xiq) ∧ (t.core c).dmaP.phase = .idle ∧
      ((s.core c).mode ≠ .idle → (t.core c).aborted = true ∧ (t.core c).poisoned = true)) ∧
    ∀ c, (dieOf c ≠ d ∨ mask.getLsbD (posOf c) = false) → t.core c = s.core c) ∧
  (∀ (s : State) (d : DieId) (v : Word32), Gives (.meshRemapWrite d v) s fun t =>
    t.reg (.meshDie d) 0x00 = v.toNat ∧ t.reg (.meshDie d) 0x04 = s.reg (.meshDie d) 0x04 ∧
    (s.dieState d = dieOwned → t.deferred = s.deferred) ∧
    (s.dieState d ≠ dieOwned → t.deferred = s.deferred ++ [⟨false, s.ac + 1, .remap d.val⟩])) ∧
  (∀ (s : State) (d : DieId), let t := s.lateDo (.remap d.val)
    (∀ r < 8, let f := remapField (s.reg (.meshDie d) 0x00) r
      remapField (t.reg (.meshDie d) 0x04) r =
        if f ≤ 8 ∨ f = 15 then f else remapField (s.reg (.meshDie d) 0x04) r) ∧
    (remapLegal (s.reg (.meshDie d) 0x00) = false → t.reg (.meshDie d) 0x10 / 4 % 2 = 1)) ∧
  (∀ (s : State) (tag : Word32), (∀ d, s.dieState d ≠ dieOwned ∧ s.dieState d ≠ dieClearing) →
    Gives (.drainReq tag) s (fun t => t.mod.draining = none ∧ Store.get 0 t.mod.weights s.self.toNat = 0) ∧
    (s.stage ≠ stRecovery → Gives .pldmDrain s fun t => t.mod.draining = none ∧
      Store.get 0 t.mod.weights s.self.toNat = 0 ∧ t.out = s.out ++ [.pldm [0, 0, 0, 0]]))

/-- R496, R497, R499, R501, R502. -/
def Obligations.ReceiptChainsSignTheirEntries : Prop :=
  (∀ (s : State) (e : Encl) (t0 : Nat), (s.chain e).since = some t0 → t0 + 1000000000 ≤ s.car → 0 < (s.chain e).next →
    Gives (.signAppend e) s fun t => ∃ r, (t.chain e).entries = (s.chain e).entries ++ [r] ∧ r.sign = true ∧
      r.signature = none ∧ r.bytes.length = 384 ∧ r.bytes.head? = some 4 ∧
      r.chain = sha384 (digestBytes (s.chain e).h ++ r.bytes) ∧ (t.chain e).h = r.chain ∧ (t.chain e).since = none ∧
      ∀ e', e' ≠ e → t.chain e' = s.chain e') ∧
  (∀ (s : State) (e : Encl) (l rest : List Receipt) (r : Receipt), (s.chain e).entries = l ++ r :: rest →
    (∀ q ∈ l, ¬(q.sign = true ∧ q.signature = none)) → r.sign = true → r.signature = none →
    Gives (.signatureComplete e) s fun t =>
      (t.chain e).entries = l ++ { r with signature := some (Config.sign s.mod.boot r.chain) } :: rest ∧
      (t.chain e).h = (s.chain e).h ∧ ∀ e', e' ≠ e → t.chain e' = s.chain e')

/-- R440 to R443, R446, R447, R450, R455 to R458, R468. -/
def Obligations.ControlCoreInstructionsComplete : Prop :=
  (∀ (s : State) (d : DieId) (op : CcInt) (rd rs : BitVec 5) (src : CcSrc), CcReady s d (rs :: srcRegs src) →
    let k := s.die d
    let r := ccInt op (k.greg rs) (k.src src)
    Gives (.ccIntegerOp d op rd rs src) s fun t => ∃ v, (r = some v ∨ r = none) ∧
      CcBecomes s d (ccWrites s k rd v 1) t ∧ t.dram = s.dram) ∧
  (∀ (s : State) (d : DieId) (op : CcMul) (rd rs rt : BitVec 5), CcReady s d [rs, rt] →
    let k := s.die d
    Gives (.ccMultiply d op rd rs rt) s fun t =>
      CcBecomes s d (ccWrites s k rd (ccMul op (k.greg rs) (k.greg rt)) 3) t ∧ t.dram = s.dram) ∧
  (∀ (s : State) (d : DieId) (op : CcDiv) (rd rs rt : BitVec 5), CcReady s d [rs, rt] →
    let k := s.die d
    let r := ccDiv op (k.greg rs) (k.greg rt)
    Gives (.ccDivide d op rd rs rt) s fun t => ∃ v, (r = some v ∨ r = none) ∧
      CcBecomes s d (ccWrites s k rd v 36) t ∧ t.dram = s.dram) ∧
  (∀ (s : State) (d : DieId) (wd : CcWidth) (u : Bool) (rd rs : BitVec 5) (off : Word64), CcReady s d [rs] →
    let k := s.die d
    let a := (k.greg rs + off).toNat
    let w := widthOf wd
    (ccBad a w false = none → ccPlace a = .dram → k.newest a w = none →
      (Store.get .none s.dramErr (dramAt d a / 8)).past = false →
      Gives (.ccLoad d wd u rd rs off) s fun t =>
        CcBecomes s d (ccWrites s k rd (extendTo w u (s.dram.nat (dramAt d a) w)) 2) t ∧ t.dram = s.dram) ∧
    (∀ e, ccBad a w false = none → ccPlace a = .dram → k.newest a w = some e → e.covers a w = true →
      Gives (.ccLoad d wd u rd rs off) s fun t =>
        CcBecomes s d (ccWrites s k rd (extendTo w u (e.data / 2 ^ (8 * (a - e.addr)) % 2 ^ (8 * w))) 2) t) ∧
    (∀ cause, ccBad a w false = some cause → k.ie = true →
      Gives (.ccLoad d wd u rd rs off) s fun t => CcBecomes s d (k.enter cause s.ac) t ∧ t.dram = s.dram)) ∧
  (∀ (s : State) (d : DieId) (wd : CcWidth) (rt rs : BitVec 5) (off : Word64), CcReady s d [rs, rt] →
    let k := s.die d
    let a := (k.greg rs + off).toNat
    let w := widthOf wd
    (ccBad a w true = none → k.stbuf.length < 8 → Gives (.ccStore d wd rt rs off) s fun t =>
      CcBecomes s d (ccAfter { k with stbuf := k.stbuf ++ [⟨a, w, (k.greg rt).toNat % 2 ^ (8 * w), s.ac + 1⟩] } (s.ac + 1)) t ∧
      t.dram = s.dram) ∧
    (ccBad a w true = none → 8 ≤ k.stbuf.length → Gives (.ccStore d wd rt rs off) s fun t => t = s) ∧
    (∀ cause, ccBad a w true = some cause → k.ie = true → Gives (.ccStore d wd rt rs off) s fun t =>
      CcBecomes s d (k.enter cause s.ac) t)) ∧
  (∀ (s : State) (d : DieId) (e : StEntry) (rest : List StEntry), (s.die d).stbuf = e :: rest →
    s.ac + 1 < max e.from_ (s.die d).stFree + drainTime d e.addr → Gives (.storeDrain d) s fun t => t = s) ∧
  (∀ (s : State) (d : DieId) (e : StEntry) (rest : List StEntry), (s.die d).stbuf = e :: rest → ccPlace e.addr = .dram →
    max e.from_ (s.die d).stFree ≤ s.ac →
    Gives (.storeDrain d) s fun t => (t.die d).stbuf = rest ∧ (t.die d).stFree = s.ac + 1 ∧ (t.die d).stLast = e.addr ∧
      t.dram.nat (dramAt d e.addr) e.width = e.data % 256 ^ e.width ∧
      (∀ a, (a < dramAt d e.addr ∨ dramAt d e.addr + e.width ≤ a) → t.dram.byte a = s.dram.byte a) ∧ t.regs = s.regs) ∧
  (∀ (s : State) (d : DieId), CcReady s d [] → Gives (.ccFence d) s fun t =>
    ((s.die d).stbuf = [] → CcBecomes s d (ccAfter (s.die d) (s.ac + 1)) t) ∧ ((s.die d).stbuf ≠ [] → t = s)) ∧
  (∀ (s : State) (d : DieId) (cond : CcCond) (rs rt : BitVec 5) (off : Word64), CcReady s d [rs, rt] →
    let k := s.die d
    let taken := ccTaken cond (k.greg rs) (k.greg rt)
    Gives (.ccBranch d cond rs rt off) s fun t =>
      (taken = false → CcBecomes s d (ccAfter k (s.ac + 1)) t) ∧
      (taken = true → (k.pc + off).toNat % 4 = 0 → CcBecomes s d (ccTo s k (k.pc + off)) t)) ∧
  (∀ (s : State) (d : DieId) (rd : BitVec 5) (base : Option (BitVec 5)) (off : Word64), CcReady s d base.toList →
    let k := s.die d
    let target := (match base with | some r => k.greg r | none => k.pc) + off
    target.toNat % 4 = 0 → Gives (.ccJump d rd base off) s
      (CcBecomes s d (ccTo s ((k.setGreg rd (k.pc + 4)).readyAt rd (s.ac + 1)) target))) ∧
  (∀ (s : State) (d : DieId) (r : BitVec 5) (csr : CcCsr), CcReady s d [r] →
    let k := s.die d
    Gives (.csrr d r csr) s (CcBecomes s d (ccWrites s k r (k.csr csr) 1)) ∧
    Gives (.csrw d csr r) s (CcBecomes s d (ccAfter (k.setCsr csr (k.greg r)) (s.ac + 1)))) ∧
  (∀ (s : State) (d : DieId), CcReady s d [] → (s.die d).epc.toNat % 4 = 0 →
    Gives (.eret d) s (CcBecomes s d (ccTo s { s.die d with resume := (s.die d).eresume, ie := true } (s.die d).epc))) ∧
  (∀ (s : State) (d : DieId) (rs : List (BitVec 5)) (i : Instr), ccReads d i = some rs →
    (s.irqFirst d = true ∨ (s.die d).mayEnter s.ac rs = false) → Gives i s fun t => t = s) ∧
  (∀ (s : State) (d : DieId), CcReady s d [] → Gives (.wfi d) s fun t => (t.die d).pc = (s.die d).pc + 4 ∧
    (t.die d).waiting = decide (s.irqReady d = 0) ∧ ∀ d', d' ≠ d → t.die d' = s.die d')

/-- R451, R452, R454 to R457. -/
def Obligations.ControlCoreInterruptsAndLongInstructions : Prop :=
  (∀ (s : State) (d : DieId) (b : Nat), lowestBit (s.irqReady d) = some b → (s.die d).ie = true →
    (s.die d).halted = false → (s.die d).exFrom ≤ s.ac →
    Gives (.interruptEntry d) s fun t => CcBecomes s d ((s.die d).enter (8 + b) s.ac) t ∧
      (t.die d).pc = BitVec.ofNat 64 (64 * (8 + b)) ∧ (t.die d).epc = (s.die d).pc ∧ (t.die d).ie = false) ∧
  (∀ (s : State) (d : DieId), (s.die d).timerDone = false →
    s.reg (.cqDie d) 0x58 + s.reg (.cqDie d) 0x5C * 2 ^ 32 ≤ s.car →
    Gives (.carillonTimerMatch d) s fun t => t.reg (.cqDie d) 0x48 / 16 % 2 = 1 ∧ (t.die d).timerDone = true) ∧
  (∀ (s : State) (d : DieId) (ga gb gc : BitVec 5) (units : Option (BitVec 14)), LongReady s d [ga, gb, gc] →
    let k := s.die d
    let n := k.gnat gc
    rangeBad (k.gnat ga) n = none → rangeBad (k.gnat gb) n = none →
    (k.gnat ga + n ≤ k.gnat gb ∨ k.gnat gb + n ≤ k.gnat ga) →
    Gives (.pageCopy d ga gb gc units) s fun t =>
      CcBecomes s d (ccAfter k (s.ac + max 1 (2 * (n / 64)))) t ∧ t.dram.bytes (dramAt d (k.gnat gb)) n = s.dram.bytes (dramAt d (k.gnat ga)) n ∧
      ∀ y, (y < dramAt d (k.gnat gb) ∨ dramAt d (k.gnat gb) + n ≤ y) → t.dram.byte y = s.dram.byte y) ∧
  (∀ (s : State) (d : DieId) (ga gb gc : BitVec 5) (units : Option (BitVec 14)), LongReady s d [ga, gb, gc] →
    let k := s.die d
    let n := k.gnat gc
    rangeBad (k.gnat ga) n = none →
    Gives (.fillLong d ga gb gc units) s fun t => CcBecomes s d (ccAfter k (s.ac + max 1 (n / 64))) t ∧
      (∀ i < n, t.dram.byte (dramAt d (k.gnat ga) + i) = BitVec.ofNat 8 (k.gnat gb / 256 ^ (i % 8) % 256)) ∧
      ∀ y, (y < dramAt d (k.gnat ga) ∨ dramAt d (k.gnat ga) + n ≤ y) → t.dram.byte y = s.dram.byte y) ∧
  (∀ (s : State) (d : DieId) (ga gb gc : BitVec 5) (fin : Bool) (units : Option (BitVec 14)), LongReady s d [ga, gb, gc] →
    let k := s.die d
    let n := k.gnat gc
    let st := k.gnat gb
    let m := dramAt d st
    rangeBad (k.gnat ga) n = none → rangeBad st 256 = none → st % 256 = 0 →
    Gives (.digest d ga gb gc fin units) s fun t =>
      (∃ more ≤ 162, (fin = false → more = 0) ∧
        CcBecomes s d (ccAfter k (s.ac + max 1 (digestTime (s.dgFill d st) (n / 64) + more))) t) ∧
      (fin = false → n = 64 → s.dgFill d st = 0 →
        t.dgFill d st = 64 ∧ t.dgLen d st = (s.dgLen d st + 512) % 2 ^ 128 ∧
        t.dram.bytes (m + 64) 64 = s.dram.bytes (dramAt d (k.gnat ga)) 64 ∧ t.dgWords d st = s.dgWords d st) ∧
      (fin = false → n = 64 → s.dgFill d st = 64 → t.dgFill d st = 0 ∧
        t.dgWords d st = shaCompress (s.dgWords d st)
          (s.dram.bytes (m + 64) 64 ++ s.dram.bytes (dramAt d (k.gnat ga)) 64)) ∧
      (fin = true → n = 0 → s.dgFill d st = 0 → t.dram.bytes m 48 =
        digestBytes (shaOut (shaCompress (s.dgWords d st) ([0x80] ++ List.replicate 111 0 ++ beBytes 16 (s.dgLen d st))))) ∧
      ∀ y, (y < m ∨ m + 256 ≤ y) → t.dram.byte y = s.dram.byte y)

/-- R480 to R482, R484, R504, R558. -/
def Obligations.CarillonLoadsExchangesAndStates : Prop :=
  (∀ (s : State), let busy := s.fld .clk 0x0C 31 31
    Gives .carillonLoad s fun t => t.mod = s.mod ∧
      (busy = 0 → s.carSource = true → s.carState = carUnlocked → t.fld .clk 0x0C 31 31 = 1 ∧
        t.deferred = s.deferred ++
          [⟨false, 2 * (s.ac / 2 + 1), .carLoad (s.reg .clk 0x10 + s.reg .clk 0x14 * 2 ^ 32)⟩]) ∧
      (busy = 0 → ¬(s.carSource = true ∧ s.carState = carUnlocked) → t.deferred = s.deferred ∧
        t.reg .clk 0x18 / 2 ^ 4 % 2 = 1) ∧
      (busy = 1 → t.deferred = s.deferred ∧ t.reg .clk 0x18 / 2 ^ 5 % 2 = 1)) ∧
  (∀ (s : State) (v : Nat), let t := s.lateDo (.carLoad v)
    t.mod.carillon = v ∧ t.fld .clk 0x0C 31 31 = 0 ∧ t.cores = s.cores ∧ t.dies = s.dies) ∧
  (∀ (s : State) (l : LinkId), s.carParent = some l → s.discipline = true → s.carSource = false →
    10 ≤ s.sinceUs s.mod.tsAt → Gives .tsExchangeTimer s fun t =>
      t.mod.tsSeq = s.mod.tsSeq + 1 ∧ t.mod.tsAt = s.now ∧ t.mod.txTs = s.mod.txTs ∧ t.out = s.out ∧
      (lkProbe ≤ (s.link l).state → ∃ b, (t.link l).ctl = (s.link l).ctl ++ [b] ∧ b = 3 + (s.mod.tsSeq + 1).toNat * 2 ^ 8)) ∧
  (∀ (s : State) (l : LinkId) (b : Nat), b % 256 = 3 → b < 2 ^ 16 →
    let t := s.takeCtl l b
    t.mod.txTs = BitVec.ofNat 64 s.stamp ∧ (t.link l).ctl = (s.link l).ctl.erase b ∧
      ∃ v, t.out = s.out ++ [.control l v] ∧ bits v.toNat 15 0 = b ∧ bits v.toNat 79 16 = s.stamp ∧
        bits v.toNat 255 253 = (s.link l).creditSel % 8) ∧
  (∀ (s : State) (l : LinkId) (seq : Byte) (t1 t2 t3 : Word64), lkProbe ≤ (s.link l).state →
    Gives (.tsReq l seq t1 t2 t3) s fun t => t.out = s.out ∧ ∃ b, (t.link l).ctl = (s.link l).ctl ++ [b] ∧
      bits b 7 0 = 4 ∧ bits b 15 8 = seq.toNat ∧ bits b 79 16 = t1.toNat ∧ bits b 143 80 = t2.toNat ∧
      bits b 207 144 = t3.toNat) ∧
  (∀ (s : State) (l : LinkId) (seq : Byte) (t1 t2 t3 t4 : Word64), ExchangeFits s l seq t1 →
    let d := twiceOffset t1 t2 t3 t4
    Gives (.tsRsp l seq t1 t2 t3 t4) s fun t => t.mod.carLastAt = s.now ∧
      (d % 2 = 0 → -65536 ≤ d → d < 65536 → t.fld .clk 0x08 15 0 = ((d / 2) % 65536).toNat) ∧
      (s.carState = carUnlocked → t.carState = carAcquire) ∧
      (s.carState = carAcquire → -32 ≤ d → d ≤ 32 → 15 ≤ s.mod.carIn → t.carState = carLocked) ∧
      (s.carState = carAcquire → 16000 < d → s.mod.carStepped = false →
        t.mod.carillon = s.mod.carillon + (d / 16).toNat ∧ t.mod.carStepped = true) ∧
      (s.carState = carLocked → (d < -48 ∨ 48 < d) → 2 ≤ s.mod.carOut → t.carState = carHoldover) ∧
      (s.carState = carHoldover → -32 ≤ d → d ≤ 32 → 15 ≤ s.mod.carIn → t.carState = carLocked)) ∧
  (∀ (s : State), s.carState = carLocked → s.carSource = false → 100 ≤ s.sinceUs s.mod.carLastAt →
    Gives .carillonExchangeLoss s fun t => t.carState = carHoldover ∧ t.mod.carHoldAt = s.now) ∧
  (∀ (s : State), s.carState = carHoldover → 10000 ≤ s.sinceUs s.mod.carHoldAt →
    Gives .holdoverExpire s fun t => t.carState = carAcquire ∧ t.reg .clk 0x18 / 2 ^ 3 % 2 = 1)

/-- R660 to R662, R664 to R668. -/
def Obligations.CensusLeaseAndKnellCommands : Prop :=
  (∀ (s : State), 100000 ≤ s.sinceUs s.mod.lastCensus → Gives .censusTimer s fun t =>
    t.mod.lastCensus = s.now ∧ t.mod.censusCar = s.car) ∧
  (∀ (s : State) (e : Endpoint) (weight : Byte) (dig : Word64), Gives (.census e weight dig) s fun t =>
    (dig.toNat = s.cfgDigest8 → Store.get (0, 0) t.mod.heard e.toNat = (s.now + 1, weight.toNat)) ∧
    (dig.toNat ≠ s.cfgDigest8 → Store.get (0, 0) t.mod.heard e.toNat = (0, 0)) ∧ t.mod.quorumNow = t.quorum) ∧
  (∀ (s : State), s.mod.leaseUntil ≠ 0 → s.leased = false → s.mod.fenced = false → Gives .leaseExpire s fun t =>
    t.mod.fenced = true ∧ t.mod.leaseUntil = 0 ∧ ∀ x ∈ s.openCtxs, (t.ctx x).fencedOpen = true) ∧
  (∀ (s : State) (e : Endpoint), let m := Store.get 0 s.mod.missed e.toNat
    m ≠ 0 → s.leased = true → s.mod.quorumNow = true → e ≠ s.self → m + s.tLease + 10000000 ≤ s.car + 1 →
    Gives (.moduleExclude e) s fun t => e ∈ t.mod.excluded) ∧
  (∀ (s : State) (a : Option LinkId) (e : Endpoint) (cause : Byte) (count : Word64) (sender : Endpoint),
    Gives (.knell a e cause count sender) s fun t => (e, count) ∈ t.mod.knells ∧
      ((e, count) ∈ s.mod.knells → t = s) ∧
      ((e, count) ∉ s.mod.knells → e = s.self → t.mod.fenced = true ∧ t.mod.leaseUntil = 0)) ∧
  (∀ (s : State) (asker neighbour : Endpoint), Gives (.reachQuery asker neighbour) s fun t =>
    t.out = s.out ++ [.reachAnswer asker neighbour (s.reaches neighbour)] ∧ (asker, neighbour) ∈ t.mod.askers) ∧
  (∀ (s : State) (e : Endpoint), let q := Store.get 0 s.mod.queries e.toNat
    q ≠ 0 → q + 100000000 ≤ s.now + 1 → s.reaches e = false → s.leased = true →
    (∀ a ∈ s.mod.askers, a.2 = e → s.self.toNat ≤ a.1.toNat) →
    Gives (.knellQueryTimeout e) s fun t => (e, BitVec.ofNat 64 s.car) ∈ t.mod.knells)

/-- R488, R689, R690, R707 to R712. -/
def Obligations.OperatingPointsAndLimitsMove : Prop :=
  (∀ (s : State) (p : BitVec 2), Gives (.opArm p) s fun t =>
    (s.fld .clk 0x44 31 31 = 0 → s.usable p.toNat = true →
      t.mod.opArmed = some (p.toNat, s.opAt) ∧ t.fld .clk 0x44 31 31 = 1) ∧
    (s.fld .clk 0x44 31 31 = 0 → s.usable p.toNat = false → t.mod = s.mod ∧ t.reg .clk 0x54 % 2 = 1) ∧
    (s.fld .clk 0x44 31 31 = 1 → t.mod = s.mod ∧ t.reg .clk 0x54 / 2 % 2 = 1)) ∧
  (∀ (s : State) (p u : Nat), s.mod.opArmed = some (p, u) → p < 4 → u ≤ s.car → s.ac % 2 = 0 →
    (∀ c, s.mod.cap = some c → c < 4) →
    Gives .opSwitch s fun t => t.agreed = p ∧ t.mod.opArmed = none ∧
      t.point = (match s.mod.cap with | some c => Nat.max c p | none => p)) ∧
  (∀ (s : State) (w mv : BitVec 16), Gives (.p10Sample ⟨w, mv⟩) s fun t => t.reg .pwr 0x04 = w.toNat ∧
    t.sensor 0x01 = some mv.toNat ∧ t.sensor 0x02 = some w.toNat ∧
    t.sensorState 0x01 = (if mv.toNat < 40000 ∨ 58000 < mv.toNat then 2
      else if mv.toNat < 42000 ∨ 56000 < mv.toNat then 1 else 0) ∧
    t.sensorState 0x02 = (if 5400 < w.toNat then 2 else if t.powerCap < w.toNat then 1 else 0) ∧
    (5400 < w.toNat → s.mod.powerCapPt ≠ some 3 → msSince s.now s.mod.lastMove = true →
      t.mod.powerCapPt = some (Nat.min 3 (s.point + 1)) ∧ t.mod.lastMove = some s.now ∧ t.reg .pwr 0x20 / 2 ^ 2 % 2 = 1) ∧
    (w.toNat ≤ 4800 → 99 ≤ s.mod.lowSamples → t.mod.powerCapPt = none) ∧
    (4800 < w.toNat → w.toNat ≤ 5400 → t.mod.powerCapPt = s.mod.powerCapPt ∧ t.mod.lowSamples = 0)) ∧
  (∀ (s : State) (u : Byte) (tj : BitVec 10), unitOk u.toNat = true → Gives (.thermalCap u tj) s fun t =>
    (t.unit u.toNat).1 = tj.toNat ∧
    (∀ n, sensorUnit n = some u.toNat → t.sensor n = some tj.toNat ∧
      t.sensorState n = if 460 ≤ tj.toNat then 3 else if 420 ≤ tj.toNat then 2 else if 400 ≤ tj.toNat then 1 else 0) ∧
    (420 ≤ tj.toNat → t.reg .pwr 0x20 / 2 ^ 3 % 2 = 1 ∧
      (s.mod.thermalCapPt ≠ some 3 → msSince s.now s.mod.lastThermal = true →
        t.mod.thermalCapPt = some (Nat.min 3 (s.point + 1)))) ∧
    (tj.toNat < 420 → t.mod.thermalCapPt = s.mod.thermalCapPt)) ∧
  (∀ (s : State), s.mod.thermalCapPt ≠ none → (∀ u ∈ s.mod.units, u.2.1 ≤ 400) → 10000 ≤ s.sinceUs s.mod.coolAt →
    Gives .thermalCapClear s fun t => t.mod.thermalCapPt = none ∧ t.mod.lastThermal = none) ∧
  (∀ (s : State) (o : PowerObs) (u : Nat) (rest : List Nat), 5400 < o.watts.toNat → s.mod.powerCapPt ≠ some 3 →
    msSince s.now s.mod.lastMove = true → s.mod.moves = u :: rest → s.car - u ≤ 1000000000 →
    let p := max s.agreed (min 3 (s.point + 1))
    s.agreed ≠ p → s.fld .clk 0x44 31 31 = 0 → s.usable p = true → Gives (.p10Sample o) s fun t =>
      t.mod.opArmed = some (p, (s.car + 1000000) % 2 ^ 64) ∧ t.mod.powerCapPt = some (min 3 (s.point + 1))) ∧
  (∀ (s : State) (mean f : BitVec 16), s.powerCap < mean.toNat → s.agreed < 3 →
    s.fld .clk 0x44 31 31 = 0 → s.usable (s.agreed + 1) = true →
    Gives (.powerCapCheck mean f) s fun t =>
      t.mod.opArmed = some (s.agreed + 1, (s.car + 1000000) % 2 ^ 64) ∧
      t.mod.under = (if 10 * mean.toNat < 9 * f.toNat then s.mod.under + 1 else 0)) ∧
  (∀ (s : State) (i o f : BitVec 10), Gives (.coolingCheck i o f) s fun t =>
    t.reg .pwr 0x10 = i.toNat * 2 ^ 20 + o.toNat * 2 ^ 10 + f.toNat ∧
    (i.toNat ≤ 400 → 60 ≤ f.toNat → t.mod.coolArmAt = none) ∧
    (400 < i.toNat ∨ f.toNat < 60 → t.reg .pwr 0x20 / 2 % 2 = 1)) ∧
  (∀ (s : State) (u : Byte) (slack : BitVec 12), unitOk u.toNat = true →
    let low := decide (slack.toNat < s.fld .pwr 0x1C 11 0)
    Gives (.marginSample u slack) s fun t =>
      t.unit u.toNat = ((s.unit u.toNat).1, slack.toNat, low) ∧
      (low = true → (s.unit u.toNat).2.2 = false → t.reg .pwr 0x20 / 2 ^ 4 % 2 = 1))

/-- R660, R671, R672, R675, R682, R683, R687, R688, R705, R706, R708, R762. -/
def Obligations.SuppliesResetsAndBootStages : Prop :=
  (∀ (s : State), (∀ i ∈ fatalEvents, Gives i s fun t => InStandby s t ∧ t.mod.fault = true ∧ t.mod.dead = true)) ∧
  (∀ (s : State) (u : Byte) (tj : BitVec 10), unitOk u.toNat = true → Gives (.thermalTrip u tj) s fun t =>
    (460 ≤ tj.toNat → InStandby s t ∧ t.mod.fault = true ∧ t.mod.dead = true) ∧ (tj.toNat < 460 → t = s)) ∧
  (∀ (s : State), Gives .inputRangeLoss s fun t => InStandby s t ∧ t.mod.in48 = false ∧ t.reg .pwr 0x20 % 2 = 1) ∧
  (∀ (s : State), ∀ i ∈ [Instr.moduleReset, .watchdogExpire, .pldmReset], Gives i s fun t =>
    InStandby s t ∧ t.mod.resetCount = s.mod.resetCount + 1 ∧ t.mod.dead = false) ∧
  (∀ (s : State), Gives (.modRstN false) s (fun t => t.mod.rstLow = true ∧ t.cores = s.cores ∧
      (s.mod.rstLow = false → t.mod.rstFell = s.now)) ∧
    (s.mod.rstLow = true → Gives (.modRstN true) s fun t => t.mod.rstLow = false ∧
      (1000 ≤ s.sinceUs s.mod.rstFell → InStandby s t ∧ t.mod.resetCount = s.mod.resetCount + 1) ∧
      (s.sinceUs s.mod.rstFell < 100 → t.cores = s.cores ∧ t.mod.resetCount = s.mod.resetCount))) ∧
  (∀ (s : State), Gives .powerOn s (fun t => t.cores = [] ∧ t.regs = [] ∧ t.mod.elog = [] ∧ t.mod.resetCount = 0 ∧
      t.mod.nor = s.mod.nor ∧ t.mod.otpOwner = s.mod.otpOwner ∧ t.mod.stby12 = true) ∧
    Gives .standbySupplyLoss s fun t => t.cores = [] ∧ t.regs = [] ∧ t.mod.elog = [] ∧ t.mod.resetCount = 0 ∧
      t.mod.nor = s.mod.nor ∧ t.mod.otpOwner = s.mod.otpOwner ∧ t.mod.stby12 = false) ∧
  (∀ (s : State) (o : BootObs), s.mod.dead = false → s.mod.rstLow = false → Gives (.bootStageAdvance o) s fun t =>
    (s.stage = 0 → s.mod.smbus = 0 → t.mod.smbus.toNat = 0x60 + o.straps.toNat) ∧
    ((s.stage ≠ 0 ∨ s.mod.smbus ≠ 0) → t.mod.smbus = s.mod.smbus) ∧
    (s.stage = 0 → o.inputOk = true → t.stage = 1 ∧ t.mod.fault = false ∧
      t.mod.m1 = extend s.mod.m1 (Config.romDigest s.mod.otpMin)) ∧
    (s.stage = 0 → o.inputOk = false → t = s.onMod fun m => m.strapped o.straps) ∧
    (s.stage = 1 → t.stage = 2) ∧
    (s.stage = 2 → (s.imgCheck false o.norA ≠ 0 ∧ s.imgCheck true o.norB ≠ 0 → t.stage = 15 ∧ t.mod.fault = true) ∧
      (s.imgCheck false o.norA = 0 ∨ s.imgCheck true o.norB = 0 → t.stage = 3 ∧
        s.imgCheck t.mod.inUse (if t.mod.inUse then o.norB else o.norA) = 0)) ∧
    (s.stage = 3 → s.mod.rails = false → t.mod.rails = true ∧ t.stage = (if o.usable.getLsbD 3 then 3 else 15)) ∧
    (s.stage = 3 → s.mod.rails = true → (∀ d, s.dieState d ≠ dieClearing) → t.stage = 4) ∧
    (s.stage = 4 → t.stage = 5) ∧
    (s.stage = 5 → s.mod.chimeOk = true → t.stage = 6) ∧
    (s.stage = 5 → s.mod.chimeOk = false → s.single = false → t = s))

/-- R694 to R698, R702. -/
def Obligations.ConfigurationChangesStageAndArm : Prop :=
  (∀ (s : State), Gives .cfgArm s fun t =>
    (s.fld .sec 0xB0 31 31 = 0 → t.mod.cfgArmed = some (s.digestReg .sec 0x80, s.cfgAt) ∧ t.fld .sec 0xB0 31 31 = 1) ∧
    (s.fld .sec 0xB0 31 31 = 1 → t.mod = s.mod ∧ t.reg .sec 0xBC / 2 % 2 = 1)) ∧
  (∀ (s : State), Gives .cfgLoad s fun t => t.fld .sec 0xB0 30 30 = 1 ∧
    (s.fld .sec 0xB0 30 30 = 0 → t.digestReg .sec 0x40 = s.digestReg .sec 0x80 ∧
      t.mod.prevDigest = s.digestReg .sec 0x80 ∧
      t.deferred = s.deferred ++ [⟨false, 2 * (s.ac / 2 + 1), .clear ((Blk.sec).base + 0xB0) (2 ^ 30)⟩]) ∧
    (s.fld .sec 0xB0 30 30 = 1 → t.digestReg .sec 0x40 = s.digestReg .sec 0x40 ∧ t.mod = s.mod ∧
      t.reg .sec 0xBC / 2 % 2 = 1)) ∧
  (∀ (s : State), let t := s.lateDo (.clear ((Blk.sec).base + 0xB0) (2 ^ 30))
    t.fld .sec 0xB0 30 30 = 0 ∧ t.fld .sec 0xB0 31 31 = s.fld .sec 0xB0 31 31 ∧ t.mod = s.mod) ∧
  (∀ (s : State) (d : Digest) (u : Nat), s.mod.cfgArmed = some (d, u) → u ≤ s.car →
    (s.mod.staged = none → Gives .cfgActivate s fun t => t.digestReg .sec 0x40 = d ∧ t.mod.cfgArmed = none ∧
      t.mod.cfgAt = u ∧ t.mod.prevDigest = s.digestReg .sec 0x40 ∧ t.mod.policy = s.mod.policy ∧ t.cores = s.cores) ∧
    (∀ k l, s.mod.staged = some k → k.armedAt = some (BitVec.ofNat 64 u) → k.content = .policy l →
      Gives .cfgActivate s fun t => t.digestReg .sec 0x40 = d ∧ t.mod.staged = none ∧
        t.mod.policy = putRecords l s.mod.policy ∧ t.cores = s.cores)) ∧
  (∀ (s : State) (n : Word32) (c : ChangeContent) (d : Digest),
    (s.coordinates = false → s.changeDigest c = d → Gives (.stage n c d) s fun t => SentChange s t 2 ∧
      ∃ k, t.mod.staged = some k ∧ k.number = n ∧ k.content = c ∧ k.digest = d ∧ k.armedAt = none) ∧
    (s.coordinates = false → s.changeDigest c ≠ d → Gives (.stage n c d) s fun t => SentChange s t 3 ∧ t.mod = s.mod) ∧
    (s.coordinates = true → s.mod.cfgArmed = none → s.changeDigest c ≠ d → Gives (.stage n c d) s fun t =>
      t.mod.staged = none) ∧
    (s.coordinates = true → s.mod.cfgArmed = none → s.changeDigest c = d →
      (∃ h ∈ s.component, BitVec.ofNat 16 h.1 ≠ s.self) → Gives (.stage n c d) s fun t => SentChange s t 1 ∧
        ∃ k, t.mod.staged = some k ∧ k.number = n ∧ k.answers = [s.self] ∧ k.coordinator = true)) ∧
  (∀ (s : State) (n : Word32) (e : Endpoint) (k : StagedChange), s.collecting n = some k →
    s.over k.since 1000000 = false → Gives (.staged n e) s fun t => ∃ k', t.mod.staged = some k' ∧ e ∈ k'.answers ∧
      (∀ a ∈ k.answers, a ∈ k'.answers) ∧
      ((∀ h ∈ s.component, BitVec.ofNat 16 h.1 ∈ k.answers ∨ BitVec.ofNat 16 h.1 = e) → k'.armedAt.isSome = true)) ∧
  (∀ (s : State) (n : Word32) (e : Endpoint) (k : StagedChange), s.collecting n = some k →
    (∃ h ∈ s.component, h.1 = e.toNat) →
    Gives (.stageRefused n e) s fun t => t.mod.staged = none ∧ SentChange s t 5) ∧
  (∀ (s : State) (k : StagedChange), s.mod.staged = some k → k.armedAt = none →
    (k.coordinator = true → 1000000 ≤ s.sinceUs k.since → Gives .stageTimeout s fun t =>
      t.mod.staged = none ∧ SentChange s t 5) ∧
    (∀ u, Gives (.arm k.number u) s fun t => t.mod.staged = some { k with armedAt := some u } ∧
      (s.fld .sec 0xB0 31 31 = 0 → t.mod.cfgArmed = some (k.digest, u.toNat))) ∧
    Gives (.abort k.number) s fun t => t.mod.staged = none ∧ t.regs = s.regs) ∧
  (∀ (s : State) (e : Endpoint), Gives (.recordReq e) s fun t =>
    (s.mod.fenced = false → t.out = s.out ++ [.record e s.mod.policy s.mod.plan (s.digestReg .sec 0x40)]) ∧
    (s.mod.fenced = true → t = s)) ∧
  (∀ (s : State) (pol : List (BitVec 16 × List Byte)) (plan : List Byte) (d : Digest),
    (s.mod.fenced = true ∨ s.mod.chimeOk = false) → Gives (.record pol plan d) s fun t =>
      t.mod.policy = pol ∧ t.mod.plan = plan ∧ t.digestReg .sec 0x40 = s.cfgDigestOf pol plan ∧
      (s.cfgDigestOf pol plan ≠ d → t.mod.fenced = true)) ∧
  (∀ (s : State), let r := (s.car - 1000000) / s.chimePeriod
    s.chimePeriod ≠ 0 → 1000000 ≤ s.car → s.mod.chime ≤ r → 5 ≤ s.stage → s.stage ≠ stRecovery →
    s.mod.chimePhase = 0 → s.fld .fab 0x44 31 31 = 0 → Gives .chimeRound s fun t => t.mod.chime = r + 1)

/-- R682, R715, R716, R719, R722, R730, R731, R733, R735. -/
def Obligations.FirmwareMeasurementsAndGrants : Prop :=
  (∀ (s : State) (img : List Byte), img.length ≤ 2 ^ 26 → Gives (.pldmFirmwareUpdate img) s fun t =>
    t.mod.nor.bytes (norBase (!s.mod.inUse)) img.length = img ∧
    ∀ a < 2 ^ 26, t.mod.nor.byte (norBase s.mod.inUse + a) = s.mod.nor.byte (norBase s.mod.inUse + a)) ∧
  (∀ (s : State), Gives .activateFirmware s fun t =>
    t.out = s.out ++ [.pldm [BitVec.ofNat 8 (s.imgCheck (!s.mod.inUse) true % 256)]]) ∧
  (∀ (s : State) (h : Digest), Gives (.enroll h) s fun t =>
    (s.stage = stRecovery → s.mod.otpOwner = none → t.mod.otpOwner = some h ∧ t.out = s.out ++ [.pldm [0]]) ∧
    (s.stage ≠ stRecovery ∨ s.mod.otpOwner ≠ none → t.mod = s.mod ∧ t.out = s.out ++ [.pldm [1]])) ∧
  (∀ (s : State), Gives .getMeasurements s fun t => ∃ n b, (n, s.now) ∈ t.mod.nonces ∧ t.out = s.out ++ [.spdm b] ∧
    (b.drop 1).take 48 = digestBytes s.mod.m1 ∧ b.drop 245 = leBytes 32 n.toNat) ∧
  (∀ (s : State) (sc : BitVec 3) (e : Encl) (sec : Word32) (nonce : BitVec 256) (key : Fin 256) (sig : BitVec 768)
    (k : List Byte) (u : Nat), (nonce, u) ∈ s.mod.nonces → s.over u 60000000 = false → s.debugKeys[key.val]? = some k →
    Config.verifies (sha384 k) (sha384 (authBytes sc.toNat e.toNat sec.toNat nonce)) sig = true →
    (sc.getLsbD 0 = false ∨ ∀ d, s.dieState d = dieClean) → sec ≠ 0 → sec.toNat ≤ 86400 →
    Gives (.debugAuth sc e sec nonce key sig) s fun t => t.dbgMode = dbgDebug ∧
      t.mod.grant = some ⟨s.now + 10000000000 * sec.toNat⟩ ∧ ∀ q ∈ t.mod.nonces, q.1 ≠ nonce) ∧
  (∀ (s : State) (sc : BitVec 3) (e : Encl) (sec : Word32) (nonce : BitVec 256) (key : Fin 256) (sig : BitVec 768),
    (∀ q ∈ s.mod.nonces, q.1 ≠ nonce) ∨ sec = 0 ∨ 86400 < sec.toNat →
    Gives (.debugAuth sc e sec nonce key sig) s fun t => t.mod = s.mod ∧ t.dbgMode = s.dbgMode ∧
      t.reg .sec 0x18C % 2 = 1) ∧
  (∀ (s : State) (sec tag : Word32), (sec ≠ 0 → sec.toNat ≤ s.drillMax → Gives (.drillReq true sec tag) s fun t =>
      t.dbgMode = dbgDrill ∧ t.mod.grant = some ⟨s.now + 10000000000 * sec.toNat⟩) ∧
    (s.drillMax < sec.toNat → Gives (.drillReq true sec tag) s fun t => t.dbgMode = s.dbgMode ∧
      t.mod.grant = s.mod.grant ∧ t.reg .sec 0x18C % 2 = 1) ∧
    (s.dbgMode = dbgDrill → Gives (.drillReq false sec tag) s fun t => t.dbgMode = dbgLocked ∧ t.mod.grant = none)) ∧
  (∀ (s : State), s.dbgMode ≠ dbgLocked →
    (∀ g, s.mod.grant = some g → g.until_ ≤ s.now → Gives .debugGrantEnd s fun t => t.dbgMode = dbgLocked ∧ t.mod.grant = none) ∧
    (s.dbgMode = dbgDebug → Gives .spdmSessionEnd s fun t => t.dbgMode = dbgLocked ∧ t.mod.grant = none) ∧
    (s.fld .sec 0x104 0 0 = 0 → Gives .secDbgctlEnd s fun t => t.dbgMode = dbgLocked ∧ t.mod.grant = none))

/-- R631, R633, R642 to R644, R646 to R648, R670, R715. -/
def Obligations.UpkeepOfLogsWindowsAndSelfTests : Prop :=
  (∀ (s : State) (p : Path), Blk.mc.writable 0x104 p = true → Gives (.mcElogpop p) s fun t =>
    t.mod.elog = s.mod.elog.drop 1 ∧ t.regs = s.regs) ∧
  (∀ (s : State) (tag : Word32), Gives (.getElog tag) s fun t => t.mod = s.mod ∧
    t.out = s.out ++ [.pldm (leBytes 4 tag.toNat ++ (s.mod.elog.take 8).flatMap ElogRecord.bytes)]) ∧
  (∀ (s : State) (n : BitVec 4), Gives (.popElog n) s fun t =>
    (1 ≤ n.toNat → n.toNat ≤ 8 → t.mod.elog = s.mod.elog.drop n.toNat) ∧ (n = 0 ∨ 8 < n.toNat → t = s)) ∧
  (∀ (s : State) (d : DieId), Gives (.ceLogPoll d) s fun t =>
    (∀ c ∈ coresOf d, (t.core c).ceLog = []) ∧ (t.pgm d).ceLog = [] ∧
    ∀ c, dieOf c ≠ d → (t.core c).ceLog = (s.core c).ceLog) ∧
  (∀ (s : State) (c : CoreId), s.scrubStops (dieOf c) = false → s.recCtx (dieOf c) = noCtx →
    (s.core c).wsPassT0 + 480000000000 ≤ s.car → (s.arr c).shadow ≠ .loading → Gives (.scrubDeadline c) s fun t =>
      (t.core c).wsPassT0 = s.car ∧ (t.core c).wsScrub = 0 ∧ t.ws = s.ws ∧
      ∀ w < wsWords, Store.get .none s.wsErr (c.val * wsWords + w) = .one →
        Store.get .none t.wsErr (c.val * wsWords + w) = .none) ∧
  (∀ (s : State) (c : CoreId) (found : Digest) (x : Ctx) (h : ShardRec), s.shardDue c = some (x, h) →
    Gives (.shardVerifyPeriod c found) s fun t =>
      (found = h.digest → (t.ctx x).shards = (s.ctx x).shards.map fun g =>
        if g.number = h.number then { g with lastOk := BitVec.ofNat 64 s.car } else g) ∧
      (found ≠ h.digest → ∃ r, t.mod.elog.getLast? = some r ∧ r.cls.toNat = clsDigest ∧ r.carillon = h.lastOk ∧
        r.context = x)) ∧
  (∀ (s : State) (x : Ctx) (u : Word64) (n : Word32), (s.ctx x).maint = some (u, n) →
    (u.toNat ≤ s.car → Gives (.maintWindowStart x) s fun t => t.ctx x = { s.ctx x with maintOpen := true }) ∧
    (u.toNat + 1000 * n.toNat ≤ s.car → Gives (.maintWindowEnd x) s fun t =>
      t.ctx x = { s.ctx x with maint := none, maintOpen := false })) ∧
  (∀ (s : State) (d : DieId) (q : TestReq) (o : TestOrigin) (rest : List (TestReq × TestOrigin)) (passed : Bool),
    (s.die d).tests = (q, o) :: rest → s.mayTest d = true → Gives (.selftestRun d passed) s fun t =>
      (t.die d).tests = rest ∧ (t.die d).handed = false ∧ (q.kind ≠ 1 → t.am = s.am ∧ t.psm = s.psm ∧ t.tb = s.tb)) ∧
  (∀ (s : State) (d : DieId) (q : TestReq) (o : TestOrigin),
    ((s.die d).tests.find? fun t => decide (t.1.deadline.toNat ≤ s.car)) = some (q, o) → s.dieState d = dieOwned →
    s.mayTest d = false → q.urgent = false → Gives (.selftestDeadline d) s fun t =>
      (t.die d).tests = (s.die d).tests.erase (q, o) ∧
      ∃ r, t.mod.elog.getLast? = some r ∧ r.cls.toNat = clsDeferred ∧ r.unit.toNat = d.val) ∧
  (∀ (s : State) (q : TestReq), q.unit.toNat < 12 → s.stage ≠ stRecovery →
    let d : DieId := Fin.ofNat 12 q.unit.toNat
    (s.die d).tests.length < 16 → 1 ≤ q.kind.toNat → q.kind.toNat ≤ 3 → Gives (.pldmSelftest q) s fun t =>
      (t.die d).tests = (s.die d).tests ++ [(q, .pldm)] ∧ t.out = s.out ++ [.pldm [0]])

/-- R510, R512 to R515, R527, R559 to R561, R565, R760. -/
def Obligations.LinksTrainAdmitRetrainAndGoDown : Prop :=
  (∀ (s : State) (l : LinkId), (s.link l).state = lkDown → (s.link l).on = true → (s.link l).unpowered = false →
    Gives (.linkSignalDetect l) s fun t => (t.link l).state = lkTrain ∧ (t.link l).trainAt = s.now ∧
      (t.link l).retrain = false ∧ ∀ l', l' ≠ l → t.link l' = s.link l') ∧
  (∀ (s : State) (l : LinkId) (passes : List (BitVec 2)), (s.link l).state = lkTrain →
    Gives (.linkTrainDone l passes) s fun t =>
      (∀ w, (s.link l).bestWidth passes = some w →
        s.over (s.link l).trainAt (if (s.link l).retrain then 2000 else 100000) = false →
        (t.link l).state = lkProbe ∧ (t.link l).width = w ∧ (t.link l).txq = (s.link l).txq ∧ (t.link l).frameAt = s.now) ∧
      ((s.link l).bestWidth passes = none ∨
        s.over (s.link l).trainAt (if (s.link l).retrain then 2000 else 100000) = true → LinkIsDown t l)) ∧
  (∀ (s : State) (l : LinkId), (s.link l).state = lkTrain →
    ((s.link l).retrain = false → 100000 ≤ s.sinceUs (s.link l).trainAt →
      Gives (.linkTrainTimeout l) s fun t => LinkIsDown t l) ∧
    ((s.link l).retrain = true → 2000 ≤ s.sinceUs (s.link l).trainAt →
      Gives (.linkRetrainTimeout l) s fun t => LinkIsDown t l)) ∧
  (∀ (s : State) (l : LinkId), (s.link l).state = lkProbe → (s.link l).admitted = true → (s.link l).identified = true →
    Gives (.linkAdmit l) s fun t =>
      ((s.link l).peerFabric.toNat = s.fabricId → (t.link l).state = lkActive ∧ (t.link l).width = (s.link l).width ∧
        (t.link l).acked = [] ∧ (t.link l).rxPseq = 0 ∧ (t.link l).cur = none) ∧
      ((s.link l).peerFabric.toNat ≠ s.fabricId → (t.link l).state = lkProbe ∧ (t.link l).mismatch = true ∧
        t.reg (.router (ioOf l)) 0x40 / 2 ^ 9 % 2 = 1)) ∧
  (∀ (s : State) (l : LinkId), (s.link l).state = lkActive → Gives (.laneFailure l) s fun t =>
    (2 ≤ (s.link l).width → LinkIsDown t l) ∧
    ((s.link l).width < 2 → (t.link l).state = lkTrain ∧ (t.link l).retrain = true ∧ (t.link l).trainAt = s.now ∧
      (t.link l).txq = (s.link l).txq ∧ (t.link l).rxHdr = none ∧ (t.link l).cur = none)) ∧
  (∀ (s : State) (l : LinkId), Gives (.linkDown l) s fun t =>
    (t.link l).state = lkDown ∧ ((s.link l).state ≠ lkDown → LinkIsDown t l) ∧ ((s.link l).state = lkDown → t = s)) ∧
  (∀ (s : State) (dk : Fin 12) (mw : Nat), Gives (.cableInsert dk mw) s fun t =>
    ∀ l : LinkId, (l.val / 4 = dk.val → t.link l = { s.link l with unpowered := decide (3000 < mw) }) ∧
      (l.val / 4 ≠ dk.val → t.link l = s.link l)) ∧
  (∀ (s : State) (l : LinkId) (corrected bad : Bool) (control : BitVec 256), lkProbe ≤ (s.link l).state →
    Gives (.frameReceive l corrected bad control) s fun t =>
      (bad = true → (t.link l).fecue = satInc (s.link l).fecue ∧ (t.link l).rxHdr = none ∧
        (t.link l).acked = (s.link l).acked) ∧
      (bad = false → (t.link l).fecce = (if corrected then satInc (s.link l).fecce else (s.link l).fecce) ∧
        (t.link l).fecue = (s.link l).fecue ∧
        (bits control.toNat 7 0 ≤ 6 →
          Store.get 0 (t.link l).acked (bits control.toNat 255 253) = bits control.toNat 252 240) ∧
        (bits control.toNat 7 0 = 1 → (s.link l).state = lkActive → (t.link l).rxHdr = some control))) ∧
  (∀ (s : State) (l : LinkId) (peerLink : BitVec 6) (e : Endpoint) (fabricId idDigest : Word64),
    lkProbe ≤ (s.link l).state → Gives (.ident l peerLink e fabricId idDigest) s fun t =>
      (t.link l).peerEp = e ∧ bits (t.link l).peer.toNat 5 0 = peerLink.toNat ∧ (t.link l).peerFabric = fabricId ∧
      (t.link l).peerDigest = idDigest ∧ (t.link l).state = (s.link l).state ∧ t.out = s.out) ∧
  (∀ (s : State) (l : LinkId), lkProbe ≤ (s.link l).state →
    (if (s.link l).state = lkProbe then 1 else 1000) ≤ s.sinceUs (s.link l).identAt →
    Gives (.identTimer l) s fun t => (t.link l).identAt = s.now ∧ t.out = s.out ∧
      ∃ b, (t.link l).ctl = (s.link l).ctl ++ [b] ∧
      bits b 7 0 = 2 ∧ bits b 15 8 = l.val ∧ bits b 31 16 = s.self.toNat ∧ bits b 111 48 = s.fabricId) ∧
  (∀ (s : State) (l : LinkId) (b : Nat), (s.link l).cur = none → (s.link l).slots = 0 →
    (s.link l).firstCtl [6, 5, 4] = some b →
    let t := s.frame l
    (t.link l).ctl = (s.link l).ctl.erase b ∧ (t.link l).txq = (s.link l).txq ∧
      ∃ v, t.out = s.out ++ [.control l v] ∧ v.toNat % 2 ^ 240 = b % 2 ^ 240) ∧
  (∀ (s : State) (l : LinkId) (e : Packet × Nat), (s.link l).state = lkActive → (s.link l).cur = none →
    (s.link l).slots = 0 → (s.link l).held = none → (s.link l).firstCtl [6, 5, 4, 3] = none →
    (s.link l).nextStart = some e → s.rimAllowed = false →
    let t := s.frame l
    (t.link l).txq = (s.link l).txq.erase e ∧ (t.link l).txPseq = (s.link l).txPseq + 1 ∧
      Store.get 0 (t.link l).sent e.1.hdr.sel = (Store.get 0 (s.link l).sent e.1.hdr.sel + e.1.size) % 8192 ∧
      (frameSlots < (s.link l).slotsOf e.1 → t.out = s.out ∧ (t.link l).slots = (s.link l).slotsOf e.1 - frameSlots ∧
        ∃ w x, (t.link l).cur = some ({ e.1 with hdr := { e.1.hdr with pseq := (s.link l).txPseq, start := 1 } }, w, x)) ∧
      ((s.link l).slotsOf e.1 ≤ frameSlots → (t.link l).cur = none ∧ ∃ w, t.out = s.out ++ [.packet l w e.1.flits 0])) ∧
  (∀ (s : State) (l : LinkId), lkProbe ≤ (s.link l).state → (s.link l).frameAt ≤ s.now →
    ((s.linkFrame l).link l).frameAt = (s.link l).frameAt + frameTenths (s.link l).width) ∧
  (∀ (s : State) (l : LinkId), ((s.link l).state < lkProbe ∨ s.now < (s.link l).frameAt) → s.linkFrame l = s) ∧
  (∀ (s : State) (l : LinkId), Gives (.packetResidenceExpire l) s fun t =>
    (t.link l).txq = (s.link l).txq.filter (fun e => decide (s.now - e.2 ≤ 10000 * s.fld .fab 0x10 19 0)) ∧
    (t.router (ioOf l)).ringq =
      (s.router (ioOf l)).ringq.filter (fun e => decide (s.now - e.since ≤ 10000 * s.fld .fab 0x10 19 0)) ∧
    ∀ l', l' ≠ l → (t.link l').txq = (s.link l').txq)

/-- R728, R729. -/
def Obligations.LinkSessionsComeIntoForce : Prop :=
  (∀ (s : State) (l : LinkId) (m : Option Digest), (s.link l).state = lkActive → (s.link l).crypt = true →
    ((s.link l).ready = false ∨ (s.link l).rekeying = true) → (s.link l).retryAt = none →
    Gives (.linkSecuritySession l m) s fun t => SessionOutcome s t l m) ∧
  (∀ (s : State) (l : LinkId) (m : Option Digest) (due : Nat), (s.link l).state = lkActive → (s.link l).crypt = true →
    (s.link l).retryAt = some due → due ≤ s.now → Gives (.linkSessionRetry l m) s fun t => SessionOutcome s t l m) ∧
  (∀ (s : State) (l : LinkId), Gives (.linkRekey l) s fun t =>
    ((s.link l).rekeying = false → (t.link l).rekeying = true ∧ t.regs = s.regs) ∧
    ((s.link l).rekeying = true → t.links = s.links ∧ t.reg .sec 0x18C / 2 ^ 2 % 2 = 1))

/-- R522, R523, R528 to R530, R533, R543, R555, R565, R566. -/
def Obligations.TablesEpochsAndPacketsOfARouter : Prop :=
  (∀ (s : State) (i : IoId) (table bank : Bool) (index : BitVec 16),
    s.fld (.router i) 0x20 31 31 = 1 → ∀ c ∈ [Instr.tableWrite i table bank index, .tableRead i table bank index],
      Gives c s fun t => t.routers = s.routers ∧ t.reg (.router i) 0x40 / 2 ^ 7 % 2 = 1 ∧ t.deferred = s.deferred ∧
        t.reg (.router i) 0x24 = s.reg (.router i) 0x24 ∧ t.reg (.router i) 0x28 = s.reg (.router i) 0x28) ∧
  (∀ (s : State) (i : IoId) (table bank : Bool) (index : BitVec 16), s.fld (.router i) 0x20 31 31 = 0 →
    Gives (.tableWrite i table bank index) s fun t => t.fld (.router i) 0x20 31 31 = 1 ∧ t.routers = s.routers ∧
    ∃ l, Owes s t l 4 ∧ ∀ u : State, let v := u.lateDo l.kind
      v.fld (.router i) 0x20 31 31 = 0 ∧
      (u.bankTag i bank = u.epoch i → v.routers = u.routers ∧ v.reg (.router i) 0x40 / 2 ^ 5 % 2 = 1) ∧
      (u.bankTag i bank ≠ u.epoch i →
        (table = false → v.route i bank index.toNat = s.reg (.router i) 0x18 ∧ (v.router i).mcasts = (u.router i).mcasts ∧
          ∀ b d, d < 65536 → (b, d) ≠ (bank, index.toNat) → v.route i b d = u.route i b d) ∧
        (table = true → index.toNat < 4096 → (v.router i).routes = (u.router i).routes ∧
          bits (v.mgroup i bank index.toNat) 31 0 = s.reg (.router i) 0x18 ∧
          bits (v.mgroup i bank index.toNat) 59 32 = bits (s.reg (.router i) 0x1C) 27 0 ∧
          bitAt (v.mgroup i bank index.toNat) 63 = bitAt (s.reg (.router i) 0x1C) 31))) ∧
  (∀ (s : State) (i : IoId) (table bank : Bool) (index : BitVec 16), s.fld (.router i) 0x20 31 31 = 0 →
    Gives (.tableRead i table bank index) s fun t => t.fld (.router i) 0x20 31 31 = 1 ∧ t.routers = s.routers ∧
    ∃ l, Owes s t l 4 ∧ ∀ u : State, let v := u.lateDo l.kind
      v.fld (.router i) 0x20 31 31 = 0 ∧ v.routers = u.routers ∧
      v.reg (.router i) 0x24 + v.reg (.router i) 0x28 * 2 ^ 32 =
        (if table then (if index.toNat < 4096 then u.mgroup i bank index.toNat else 0) else u.route i bank index.toNat)) ∧
  (∀ (s : State) (i : IoId) (bank : Bool) (tag : Byte), Gives (.fabRetag i bank tag) s fun t =>
    let drained := (s.router i).lastChange = 0 ∨ 10000 * s.fld .fab 0x14 23 0 ≤ s.now + 1 - (s.router i).lastChange
    t.epoch i = s.epoch i ∧ (∀ b, t.bankTag i b = s.bankTag i b) ∧
    (s.bankTag i (!bank) = tag.toNat → t.deferred = s.deferred ∧ t.reg (.router i) 0x40 / 2 ^ 5 % 2 = 1) ∧
    (s.bankTag i (!bank) ≠ tag.toNat → s.bankTag i bank ≠ s.epoch i → drained → ∃ l, Owes s t l 1 ∧
      ∀ u : State, u.bankTag i (!bank) ≠ tag.toNat → (u.lateDo l.kind).bankTag i bank = tag.toNat ∧
        (u.lateDo l.kind).bankTag i (!bank) = u.bankTag i (!bank) ∧ (u.lateDo l.kind).epoch i = u.epoch i) ∧
    (s.bankTag i (!bank) ≠ tag.toNat → s.bankTag i bank ≠ s.epoch i → ¬drained →
      t.deferred = s.deferred ∧ t.reg (.router i) 0x40 / 2 ^ 4 % 2 = 1)) ∧
  (∀ (s : State) (i : IoId) (staged : Byte), Gives (.epochArm i staged) s fun t =>
    (s.fld (.router i) 0x34 31 31 = 0 → t.fld (.router i) 0x34 31 31 = 1 ∧ t.fld (.router i) 0x34 7 0 = staged.toNat) ∧
    (s.fld (.router i) 0x34 31 31 = 1 → t.reg (.router i) 0x34 = s.reg (.router i) 0x34 ∧
      t.reg (.router i) 0x40 / 2 ^ 7 % 2 = 1)) ∧
  (∀ (s : State) (i : IoId), s.fld (.router i) 0x34 31 31 = 1 → Gives (.epochActivate i) s fun t =>
    let e := s.fld (.router i) 0x34 7 0
    (s.epochAt i ≤ s.car → t.fld (.router i) 0x34 31 31 = 0 ∧
      (s.bankOf i e ≠ none → t.epoch i = e ∧ (t.router i).lastChange = s.now + 1) ∧
      (s.bankOf i e = none → t.epoch i = s.epoch i ∧ t.reg (.router i) 0x40 / 2 ^ 6 % 2 = 1)) ∧
    (s.car < s.epochAt i → t = s)) ∧
  (∀ (s : State) (i : IoId) (l : LinkId) (p : Packet) (tagOk : Bool), ioOf l = i → (s.link l).state = lkActive →
    Gives (.packetRoute i (.link l p tagOk)) s fun t =>
      ((s.link l).crypt = true → tagOk = false → DropCounted s t i dropAuth) ∧
      (((s.link l).crypt = false ∨ tagOk = true) → (s.link l).allows p = false →
        DropCounted s t i dropEnclave ∧ t.reg (.router i) 0x40 % 2 = 1) ∧
      (((s.link l).crypt = false ∨ tagOk = true) → (s.link l).allows p = true →
        (kindOk p = false → DropCounted s t i dropKind) ∧
        (kindOk p = true → s.bankOf i p.hdr.epoch.toNat = none → DropCounted s t i dropEpoch) ∧
        (∀ b, kindOk p = true → s.bankOf i p.hdr.epoch.toNat = some b → p.hdr.mc = false → p.hdr.kind = 2 →
          bits (s.route i b p.hdr.dst.toNat) 31 29 = 5 →
          (t.router i).delivered = (s.router i).delivered ++ [⟨p, .deliver, some l, s.now, i, false⟩]))) ∧
  (∀ (s : State) (i : IoId), (s.router i).localq.find? s.mayLeave = none → Gives (.packetRoute i .localq) s fun t => t = s) ∧
  (∀ (s : State) (i : IoId) (p : Packet), (s.router i).localq.find? s.mayLeave = some p →
    Gives (.packetRoute i .localq) s fun t => (t.router i).localq = (s.router i).localq.erase p ∧
      (∀ c, s.putCore p = some c →
        (t.core c).putAt = s.now + (p.hdr.nflits.toNat + 1) * 2560000 / (s.core c).rate) ∧
      (∀ b, s.bankOf i (s.epoch i) = some b → p.hdr.mc = false → p.hdr.kind = 2 →
        bits (s.route i b p.hdr.dst.toNat) 31 29 = 5 →
        ∃ q : Packet, (t.router i).delivered = (s.router i).delivered ++ [⟨q, .deliver, none, s.now, i, false⟩] ∧
          q.hdr.src = s.self ∧ q.hdr.epoch.toNat = s.epoch i ∧ q.hdr.gen = (s.ctx p.hdr.context).gen ∧
          q.flits = p.flits ∧ q.hdr.dst = p.hdr.dst)) ∧
  (∀ (s : State) (i : IoId) (e : RingPkt) (rest : List RingPkt), (s.router i).ringq = e :: rest →
    Gives (.packetRoute i .ring) s fun t => (t.router i).ringq = rest ∧
      (e.dest ≠ i → (t.router (ringNext i e.cw)).ringq = (s.router (ringNext i e.cw)).ringq ++ [{ e with since := s.now }] ∧
        (t.router i).delivered = (s.router i).delivered) ∧
      (e.dest = i → e.via = .deliver →
        (t.router i).delivered = (s.router i).delivered ++ [⟨e.pkt, .deliver, e.arrival, s.now, i, false⟩])) ∧
  (∀ (s : State) (c : CoreId), s.now - (s.core c).winAt < 10000 * s.fld .fab 0x18 19 12 →
    Gives (.ccWindowExpire c) s fun t => t = s) ∧
  (∀ (s : State) (c : CoreId), 10000 * s.fld .fab 0x18 19 12 ≤ s.now - (s.core c).winAt →
    Gives (.ccWindowExpire c) s fun t => (t.core c).echoed = false ∧ (t.core c).winAt = s.now ∧
      ((s.core c).echoed = true → (t.core c).rate = (s.core c).rate) ∧
      ((s.core c).echoed = false → (t.core c).rate = Nat.min ((s.core c).rate + 256 * s.fld .fab 0x18 31 24) linkRate) ∧
      OtherCores s c t)

/-- R517, R537 to R541, R551, R606 to R608. -/
def Obligations.FabricOperationsLeaveTheirCore : Prop :=
  (∀ (s : State) (c : CoreId) (o : DynOp), s.xiqHead c 4 = some o → (opKind o = 0 ∨ 4 < opKind o) →
    (s.core c).binds.length < 4 → ∀ i ∈ fabricCommands c, Gives i s fun t =>
      OpFinished t c o.serial true ∧ t.reg .fab 0x4C % 2 = 1 ∧ OtherCores s c t) ∧
  (∀ (s : State) (c : CoreId) (o : DynOp), s.xiqHead c 4 = some o → s.hasPort c (fIo o) = false →
    let r (t : State) : Prop := OpFinished t c o.serial true ∧ t.reg .fab 0x4C / 2 % 2 = 1 ∧ OtherCores s c t
    (opKind o = 1 → s.isEmit o = false → Gives (.put c) s r) ∧ (opKind o = 2 → Gives (.mcast c) s r) ∧
    (opKind o = 4 → Gives (.reduce c) s r) ∧ (s.isEmit o = true → Gives (.emit c) s r)) ∧
  (∀ (s : State) (c : CoreId) (o : DynOp), s.xiqHead c 4 = some o → s.hasPort c (fIo o) = true →
    (opKind o = 1 → Gives (if s.isEmit o then .emit c else .put c) s (LeavesCore s c o false)) ∧
    (opKind o = 2 → Gives (.mcast c) s (LeavesCore s c o false))) ∧
  (∀ (s : State) (c : CoreId) (f : FabSend) (rest : List FabSend), (s.core c).fabSend = f :: rest →
    ((s.core c).dyn.filter fun g => g.cls == 2 && g.inp == outLocal).length < 15 →
    let t := s.fabRead c
    let sent (l : Line) : Prop := ∃ g, (t.core c).dyn = (s.core c).dyn ++
        ((if f.next = 0 then [⟨2, 0, f.dest, true, 0, false, .req c.val f.serial f.desc f.tag, f.poison, outLocal, s.ac, s.ac⟩]
          else []) ++ [g]) ∧
      g.cls = 2 ∧ g.dest = f.dest ∧ g.port = true ∧ g.idx = f.next + 1 ∧ g.last = (f.next + 1 == f.total) ∧ g.body = .line l
    (f.words = false → f.addr + f.next < 65536 → (s.core c).laneHeld s.ac (laneMask (64 * (f.addr + f.next)) 64) = false →
      sent (bytesLine (s.amBytes c (64 * (f.addr + f.next)) 64)) ∧ t.am = s.am ∧ t.routers = s.routers) ∧
    (f.words = false → f.addr + f.next < 65536 → (s.core c).laneHeld s.ac (laneMask (64 * (f.addr + f.next)) 64) = true →
      t = s) ∧
    (f.words = true → s.mredBusy c = true → t = s)) ∧
  (∀ (s : State) (c : CoreId) (o : DynOp) (tag : BitVec 16) (ls : List (Line × Bool)) (last : Bool),
    (opKind o = 1 ∧ s.isEmit o = false ∨ opKind o = 2) → ls ≠ [] → ls.length ≤ fLen o → (last = true → ls.length = fLen o) →
    let t := s.reqLines c o tag ls last
    (last = false → ls.length % 64 ≠ 0 → t = s) ∧
    (last = true ∨ ls.length % 64 = 0 → ∃ p : Packet, (t.router (fIo o)).localq = (s.router (fIo o)).localq ++ [p] ∧
      LinePacketOf s c o ((fLen o + 63) / 64) p ∧ p.hdr.fa.toNat = (ls.length - 1) / 64 ∧ p.hdr.vc = 1 ∧ p.hdr.tag = tag ∧
      p.hdr.kind = (if opKind o = 2 then 3 else 1) ∧ p.hdr.mc = decide (opKind o = 2) ∧
      p.hdr.dst.toNat = (if opKind o = 2 then fDst o % 4096 else fDst o) ∧ p.flits.length = p.hdr.nflits.toNat + 1 ∧
      packetLines p = ls.length - 64 * ((ls.length - 1) / 64))) ∧
  (∀ (s : State) (c : CoreId) (o : DynOp), s.xiqHead c 4 = some o → opKind o = 3 → (s.core c).binds.length < 4 →
    Gives (.stream c) s fun t =>
      (c ∉ portsOf (fIo o) → OpFinished t c o.serial true ∧ t.reg .fab 0x4C / 2 % 2 = 1) ∧
      (c ∈ portsOf (fIo o) → (s.core c).egress = [] → ∃ b, (t.core c).binds = (s.core c).binds ++ [b] ∧
        b.serial = o.serial ∧ b.dst.toNat = fDst o ∧ b.total = fLen o ∧ b.sent = 0 ∧ b.taken = [])) ∧
  (∀ (s : State) (c : CoreId) (o : DynOp) (tag : BitVec 16) (ls : List (Line × Bool)), s.isEmit o = true →
    ls.length = fLen o →
    let x := s.dieCtx (dieOf c)
    let e := s.dieEncl (dieOf c)
    let seq := BitVec.ofNat 64 ((s.ctx x).step.toNat * 2 ^ 32 + bits (fDaddr o) 12 0)
    let dup := s.mod.frames.any fun f => f.context == x && f.seq == seq && !f.released
    let used := (s.mod.frames.map frameLen).foldl (· + ·) 0
    let own := ((s.mod.frames.filter fun f => f.vf == fnOf e).map frameLen).foldl (· + ·) 0
    let full := 64 * 2 ^ 20 < used + 64 * fLen o ∨ s.quota e < own + 64 * fLen o
    let t := s.reqLines c o tag ls true
    (dup = true → OpFinished t c o.serial true ∧ t.mod.frames.length = s.mod.frames.length ∧
      (∀ f ∈ t.mod.frames, f.context = x → f.seq = seq → f.released = false → f.poison = true) ∧
      t.reg (fnBlk (fnOf e)) 0x04 / 2 ^ 2 % 2 = 1) ∧
    (dup = false → full → OpFinished t c o.serial true ∧ t.mod.frames = s.mod.frames ∧
      t.reg (fnBlk (fnOf e)) 0x04 / 2 ^ 3 % 2 = 1) ∧
    (dup = false → ¬full → OpFinished t c o.serial false ∧ ∃ f, t.mod.frames = s.mod.frames ++ [f] ∧ f.context = x ∧
      f.vf = fnOf e ∧ f.seq = seq ∧ f.ring = bits (fDaddr o) 15 13 ∧ f.data.length = 64 * fLen o ∧ f.released = false)) ∧
  (∀ (s : State) (c : CoreId) (o : DynOp), s.xiqHead c 4 = some o → opKind o = 4 → s.hasPort c (fIo o) = true →
    let g := s.group (fGroup o)
    let mine := rgValid g = true ∧ rgOp g = 0 ∧ rgContext g = s.dieCtx (dieOf c)
    Gives (.reduce c) s fun t =>
      (¬mine → OpFinished t c o.serial true ∧ t.group (fGroup o) = g) ∧
      (mine → fLen o ≠ rgWords g → OpFinished t c o.serial true ∧ t.group (fGroup o) = g ∧
        t.reg .fab 0x4C / 2 ^ 2 % 2 = 1) ∧
      (mine → fLen o = rgWords g → LeavesCore s c o true t ∧
        t.group (fGroup o) = { g with waiters := g.waiters ++ [⟨c.val, o.serial, fRound o, 0, false⟩] })) ∧
  (∀ (s : State) (c : CoreId) (o : DynOp) (tag : BitVec 16) (ls : List (Line × Bool)), opKind o = 4 →
    ls.length = ceilDiv (fLen o) 4 →
    let g := s.group (fGroup o)
    let known := ∃ q ∈ g.rounds, q.round = fRound o
    let r := (s.roundNow (fGroup o) (fRound o)).add (rgOp g) none 0 (reduceWords (fLen o) o.poison ls)
    let t := s.reqLines c o tag ls true
    (¬known → 4 ≤ g.rounds.length → t.rgroups = s.rgroups ∧ t.reg (.router (rgHome g)) 0x40 / 2 % 2 = 1) ∧
    (known ∨ g.rounds.length < 4 →
      (roundDone g r = false → r ∈ (t.group (fGroup o)).rounds) ∧
      (roundDone g r = true → (t.group (fGroup o)).rounds = g.rounds.filter (fun q => q.round != fRound o))))

/-- R28, R321, R534, R539 to R543, R545, R554, R567. -/
def Obligations.PacketsArriveAtTheirCores : Prop :=
  (∀ (s : State) (i : IoId) (e : RingPkt), s.nextDelivered i kPut = some e → Gives (.putReceive i) s fun t =>
    let h := e.pkt.hdr
    (s.mayReach h h.tcore.toNat = none → PutAnswered s t i h 1 ∧ DropCounted s t i dropRefused ∧ t.am = s.am ∧
      (t.router i).delivered = (s.router i).delivered.erase e) ∧
    (∀ c, s.mayReach h h.tcore.toNat = some c → s.genOk h = false → PutAnswered s t i h 3 ∧ DropCounted s t i dropStale ∧
      t.am = s.am ∧ (t.router i).delivered = (s.router i).delivered.erase e) ∧
    (∀ c, s.mayReach h h.tcore.toNat = some c → s.genOk h = true → s.inboundFull i h = true → t = s) ∧
    (∀ c, s.mayReach h h.tcore.toNat = some c → s.genOk h = true → s.inboundFull i h = false →
      Toward s t h.context c 2 0 (.write i.val 0 h) h.poison (packetData e.pkt) ∧ Tracked s t i h [c] ∧
      (t.router i).delivered = (s.router i).delivered.erase e ∧ (t.router i).localq = (s.router i).localq ∧ t.am = s.am)) ∧
  (∀ (s : State) (i : IoId) (e : RingPkt) (m : BitVec 12), s.nextDelivered i kMcast = some e → e.via = .cores m →
    Gives (.mcastReceive i) s fun t =>
      let h := e.pkt.hdr
      let reach (d : DieId) := s.mayReach h (64 * d.val + h.tcore.toNat % 64)
      ((∀ d : DieId, m.getLsbD d.val = true → reach d = none) → DropCounted s t i dropRefused ∧ t.am = s.am ∧
        (t.router i).delivered = (s.router i).delivered.erase e) ∧
      (∀ (d : DieId) c, m.getLsbD d.val = true → reach d = some c → s.genOk h = true → s.inboundFull i h = false →
        AmongToward s t h.context c 2 0 (.write i.val 0 h) h.poison (packetData e.pkt) ∧
        (∃ cs, c ∈ cs ∧ Tracked s t i h cs) ∧ (t.router i).delivered = (s.router i).delivered.erase e ∧
        (t.router i).localq = (s.router i).localq ∧ t.am = s.am)) ∧
  (∀ (s : State) (i : IoId) (e : RingPkt), s.nextDelivered i kStream = some e → Gives (.streamReceive i) s fun t =>
    let h := e.pkt.hdr
    (s.mayReach h h.tcore.toNat = none → DropCounted s t i dropRefused ∧ t.am = s.am) ∧
    (∀ c, s.mayReach h h.tcore.toNat = some c →
      (s.genOk h = false → DropCounted s t i dropStale ∧ t.am = s.am) ∧
      (s.genOk h = true → s.inboundFull i h = false →
        Toward s t h.context c 2 0 (.write i.val 0 h) h.poison (packetData e.pkt) ∧ Tracked s t i h [c] ∧
        (t.router i).localq = (s.router i).localq ∧ t.am = s.am))) ∧
  (∀ (s : State) (i : IoId) (e : RingPkt), s.nextDelivered i kAck = some e → Gives (.ackReceive i) s fun t =>
    let h := e.pkt.hdr
    (t.router i).delivered = (s.router i).delivered.erase e ∧
    (s.genOk h = false → DropCounted s t i dropStale ∧ t.cores = s.cores) ∧
    (s.genOk h = true → s.ackedOp h = none → DropCounted s t i dropLate ∧ t.cores = s.cores) ∧
    (∀ c o, s.genOk h = true → s.ackedOp h = some (c, o) →
      (t.core c).ops = (s.core c).ops.map (fun q => if q.serial = o.serial then { q with stage := .answered } else q) ∧
      (t.core c).echoed = ((s.core c).echoed || h.echo) ∧
      (t.core c).rate = (if h.echo = true ∧ (s.core c).echoed = false then
        (s.core c).rate - (s.core c).rate / 2 ^ s.fld .fab 0x18 23 20 else (s.core c).rate) ∧
      Toward s t h.context c 0 0 (.done o.serial (h.fa != 0)) false [])) ∧
  (∀ (s : State) (c : CoreId) (f : DynFlit) (n : Nat) (p : Bool), f.body = .done n p →
    ((s.core c).ops.any fun o => o.serial == n && (o.stage == .issued || o.stage == .answered)) = true →
    OpFinished (s.dynLocal c f) c n (p || f.poison) ∧ OtherCores s c (s.dynLocal c f)) ∧
  (∀ (s : State) (c : CoreId) (a : Asm) (rest : List Asm) (l : Nat) (v : Line) (p : Bool), (s.core c).fabIn = a :: rest →
    let k := (s.core c).fabNext
    a.lineAt k = some l → l < 65536 → a.lines[k]? = some (v, p) →
    let t := s.fabStore c
    ((s.core c).laneHeld s.ac (laneMask (64 * l) 64) = true → t = s) ∧
    ((s.core c).laneHeld s.ac (laneMask (64 * l) 64) = false → t.amBytes c (64 * l) 64 = lineBytes v ∧
      AmKept s t c (64 * l) 64 ∧ (k + 1 < a.lines.length → (t.core c).fabNext = k + 1 ∧ (t.core c).fabIn = a :: rest) ∧
      (a.lines.length ≤ k + 1 → (t.core c).fabNext = 0 ∧ (t.core c).fabIn = rest))) ∧
  (∀ (s : State) (c : CoreId) (i : IoId) (h : Header) (p : Bool) (n : Inbound), s.inboundOf i h = some n →
    n.cores = [c.val] → (∀ k ∈ n.got, k % 1024 = c.val) → (1024 * h.fa.toNat + c.val) ∉ n.got →
    let t := s.dataWritten c i h p
    let sum := (s.core c).sem (bits h.fc.toNat 15 10) + bits h.fc.toNat 9 6
    (n.got.length + 1 < h.fb.toNat + 1 → (t.router i).localq = (s.router i).localq ∧ t.cores = s.cores ∧
      ∃ m, t.inboundOf i h = some m ∧ m.got = n.got ++ [1024 * h.fa.toNat + c.val] ∧ m.marked = n.marked ∧
        m.poison = (n.poison || p)) ∧
    (n.got.length + 1 = h.fb.toNat + 1 → t.inboundOf i h = none ∧
      (h.kind = 1 → PutAnswered s t i h (if n.poison || p then 2 else 0)) ∧
      (h.kind ≠ 1 → (t.router i).localq = (s.router i).localq) ∧
      (¬Issued s c → sum ≤ 0xFFFF → (t.core c).sem (bits h.fc.toNat 15 10) = sum) ∧
      (Issued s c → bits h.fc.toNat 9 6 ≠ 0 → (t.core c).semPend = (s.core c).semPend ++
        [⟨s.ac + 1, bits h.fc.toNat 15 10, bits h.fc.toNat 9 6⟩]))) ∧
  (∀ (s : State) (c : CoreId) (bad : Bool) (due : Nat) (f : Flit) (rest : List (Nat × Flit)),
    (s.core c).edge = (due, f) :: rest → s.ac < due → Gives (.egressFlitArrive c bad) s fun t => t = s) ∧
  (∀ (s : State) (c : CoreId) (bad : Bool) (due : Nat) (f : Flit) (rest : List (Nat × Flit)),
    (s.core c).edge = (due, f) :: rest → due ≤ s.ac → Gives (.egressFlitArrive c bad) s fun t =>
      (t.core c).edge = rest ∧
      ((s.core c).egress.length < 1024 → (s.core c).binds = [] →
        (t.core c).egress = (s.core c).egress ++ [{ f with poison := f.poison || bad }]) ∧
      (1024 ≤ (s.core c).egress.length → ∀ i, c ∈ portsOf i → DropCounted s t i dropEgress ∧
        (t.core c).egress = (s.core c).egress ∧ t.reg (.router i) 0x40 / 2 ^ 2 % 2 = 1)) ∧
  (∀ (s : State) (i : IoId), Gives (.inboundEntryTimeout i) s fun t =>
    (t.router i).inbound = (s.router i).inbound.filter (fun n => decide (s.sinceUs n.lastAt < s.fabTimeout)) ∧
    (t.router i).transfers = (s.router i).transfers.filter (fun n => decide (s.sinceUs n.lastAt < s.fabTimeout)) ∧
    (t.router i).localq = (s.router i).localq)

/-- R542, R543, R550 to R552, R567. -/
def Obligations.ReductionRoundsAndTheirTimeouts : Prop :=
  (∀ (s : State) (i : IoId) (e : RingPkt) (l : LinkId), s.nextDelivered i kRedUp = some e → e.arrival = some l →
    let h := e.pkt.hdr
    let n := h.fc.toNat % 256
    let g := s.group n
    let ok := rgValid g = true ∧ g.child.getLsbD l.val = true
    let r := (s.roundNow n h.fb).add (rgOp g) (some l.val) h.fa.toNat ((redWords g e.pkt).map fun w => (w, h.poison))
    let known := ∃ q ∈ g.rounds, q.round = h.fb
    Gives (.redUp i) s fun t => (t.router i).delivered = (s.router i).delivered.erase e ∧
      (¬ok → DropCounted s t i dropRefused ∧ t.rgroups = s.rgroups) ∧
      (ok → s.genOk h = false → DropCounted s t i dropStale ∧ t.rgroups = s.rgroups) ∧
      (ok → s.genOk h = true → ¬known → 4 ≤ g.rounds.length → t.rgroups = s.rgroups ∧
        t.reg (.router (rgHome g)) 0x40 / 2 % 2 = 1) ∧
      (ok → s.genOk h = true → (known ∨ g.rounds.length < 4) →
        (roundDone g r = false → r ∈ (t.group n).rounds) ∧
        (roundDone g r = true → (t.group n).rounds = g.rounds.filter (fun q => q.round != h.fb)))) ∧
  (∀ (s : State) (i : IoId) (e : RingPkt), s.nextDelivered i kRedDown = some e →
    let h := e.pkt.hdr
    let n := h.fc.toNat % 256
    let g := s.group n
    Gives (.redDown i) s fun t => (t.router i).delivered = (s.router i).delivered.erase e ∧
      (rgValid g = false → DropCounted s t i dropRefused ∧ t.rgroups = s.rgroups) ∧
      (rgValid g = true → s.genOk h = false → DropCounted s t i dropStale ∧ t.rgroups = s.rgroups) ∧
      (rgValid g = true → s.genOk h = true → rgOp g = 0 →
        t.rgroups = s.rgroups ∧ t.psm = s.psm ∧
        ∀ w ∈ g.waiters, w.round = h.fb → ∀ c, s.mayReach h w.core = some c →
          AmongToward s t h.context c 2 0
            (.write i.val w.serial { h with tcore := BitVec.ofNat 10 (redWords g e.pkt).length }) h.poison
            ((wordLines (redWords g e.pkt)).map fun l => (l, h.poison))) ∧
      (rgValid g = true → s.genOk h = true → rgOp g ≠ 0 → s.mod.chimePhase = 0 → s.fld .fab 0x44 31 31 = 1 →
        s.fld .fab 0x44 23 16 = n → s.fld .fab 0x44 15 0 = h.fb.toNat →
        t.fld .fab 0x44 31 31 = 0 ∧ t.reg .fab 0x48 % 2 = 1 ∧
        t.reg .fab 0xC0 = ((redWords g e.pkt).headD 0).toNat % 2 ^ 32)) ∧
  (∀ (s : State) (c : CoreId) (serial k q : Nat) (h : Header) (l : Line) (p : Bool) (o : DynOp),
    ((s.core c).ops.find? fun o => o.serial == serial && o.stage == .issued) = some o → (s.core c).psmNow = [] →
    let w := fDaddr o + h.fa.toNat + 4 * k + q
    q < 4 → q < h.tcore.toNat - 4 * k → w < 131072 →
    let t := s.resultLine c serial h k l p
    t.psmWord c w = BitVec.ofNat 128 (l.extractLsb' (128 * q) 128).toNat ∧ t.psmPois c w = p) ∧
  (∀ (s : State) (c : CoreId) (serial : Nat) (h : Header) (p : Bool) (w : Waiter),
    let n := h.fc.toNat % 256
    ((s.group n).waiters.find? fun w => w.core == c.val && w.serial == serial) = some w →
    let t := s.resultWritten c serial h p
    (rgWords (s.group n) ≤ w.got + h.tcore.toNat → OpFinished t c serial (w.poison || p) ∧
      (t.group n).waiters = (s.group n).waiters.erase w ∧ OtherCores s c t) ∧
    (w.got + h.tcore.toNat < rgWords (s.group n) → t.cores = s.cores ∧
      { w with got := w.got + h.tcore.toNat, poison := w.poison || p } ∈ (t.group n).waiters)) ∧
  (∀ (s : State) (n : Byte), Gives (.roundTimeout n) s fun t =>
    t.group n.toNat = { s.group n.toNat with
      rounds := (s.group n.toNat).rounds.filter fun r => decide (s.sinceUs r.started < s.fabTimeout) }) ∧
  (∀ (s : State) (c : CoreId) (entry : BitVec 7) (o : DynOp),
    ((s.core c).ops.find? fun o => o.cls == 4 && o.stage == .issued && o.entry == entry && !s.isEmit o) = some o →
    Gives (.fabricOpTimeout c entry) s fun t =>
      (s.car - o.issuedAt < 1000 * s.fabTimeout + s.ncNs → t = s) ∧
      (1000 * s.fabTimeout + s.ncNs ≤ s.car - o.issuedAt → OpFinished t c o.serial true ∧
        Store.get 0 (t.core c).tagGen entry.toNat = (Store.get 0 (s.core c).tagGen entry.toNat + 1) % 512 ∧
        ∀ c', c' ≠ c → t.core c' = s.core c')) ∧
  (∀ (s : State) (n : Byte) (round : BitVec 16), Gives (.mrContribute n round) s fun t =>
    (s.fld .fab 0x44 31 31 = 0 → t.fld .fab 0x44 31 31 = 1 ∧ t.fld .fab 0x44 23 16 = n.toNat ∧
      t.fld .fab 0x44 15 0 = round.toNat ∧ t.mod.mrStarted = s.now) ∧
    (s.fld .fab 0x44 31 31 = 1 → t.rgroups = s.rgroups ∧ t.mod = s.mod ∧ t.reg .fab 0x4C / 2 ^ 3 % 2 = 1)) ∧
  (∀ (s : State), s.fld .fab 0x44 31 31 = 1 → Gives .mrTimeout s fun t =>
    (s.fabTimeout ≤ s.sinceUs s.mod.mrStarted → t.fld .fab 0x44 31 31 = 0 ∧ t.reg .fab 0x48 / 2 ^ 2 % 2 = 1 ∧
      t.mod.chimePhase = 0) ∧
    (s.sinceUs s.mod.mrStarted < s.fabTimeout → t = s))

/-- R578, R581, R583, R585, R587, R588, R598. -/
def Obligations.ShardJobsAndTransfersOfAnIoDie : Prop :=
  (∀ (s : State) (i : IoId) (b : Job), (s.router i).job = some b → b.verify = false → b.sent < b.count →
    Gives (.send i) s fun t =>
      (s.sourceOk b = false → JobEnded t i [wxSrcErr] ∧ (t.router i).localq = (s.router i).localq) ∧
      (s.sourceOk b = true → b.ingest = false → ∃ (ps : List Packet) (b' : Job),
        (t.router i).localq = (s.router i).localq ++ ps ∧ ps.length = b.count - b.sent ∧
        (∀ p ∈ ps, p.hdr.kind = 7 ∧ p.hdr.dst = b.dst ∧ p.hdr.tag = b.tag ∧ p.hdr.context = b.context ∧
          p.hdr.tcore = b.tcore ∧ p.flits.length = 16) ∧
        (t.router i).job = some b' ∧ b'.sent = b.count ∧ b'.tag = b.tag) ∧
      (s.sourceOk b = true → b.ingest = true → (s.func (jobFn b)).pageReady (b.saddr + b.sent) = false → t = s)) ∧
  (∀ (s : State) (i : IoId) (b : Job), (s.router i).job = some b → b.verify = true → b.ingest = false →
    s.sourceOk b = true → b.count = b.sent + 1 → b.saddr + b.sent < 24576 → Gives (.verify i) s fun t =>
      JobEnded t i [wxDone] ∧ (t.router i).localq = (s.router i).localq ∧
      t.digestReg (.router i) 0x80 =
        sha384 (b.hashed ++ s.wsBytes (Fin.ofNat 768 b.score.toNat) (4096 * (b.saddr + b.sent)) 4096)) ∧
  (∀ (s : State) (i : IoId) (b : Job), (s.router i).job = some b → 1000 * s.fabTimeout ≤ s.car - b.lastAt →
    (b.verify = false → b.sent = b.count → s.jobHere b = false → Gives (.wxSendTimeout i) s fun t => JobEnded t i [wxDone, wxTimeout]) ∧
    (b.ingest = true → b.sent < b.count → (s.func (jobFn b)).pageReady (b.saddr + b.sent) = false →
      Gives (.ingestPageTimeout i) s fun t => JobEnded t i [wxSrcErr])) ∧
  (∀ (s : State) (i : IoId) (u : Transfer), s.transferDue i = some u → Gives (.shardData i) s fun t =>
    ShardEnded s t i u.src u.tag stComplete ∧ ∀ w ∈ (t.router i).transfers, ¬(w.src = u.src ∧ w.tag = u.tag)) ∧
  (∀ (s : State) (i : IoId) (e : RingPkt) (u : Transfer), s.transferDue i = none → s.nextMgmt i isShard = some e →
    ((s.router i).transfers.find? fun t => t.is e.pkt.hdr) = some u → u.dead = false →
    Gives (.shardData i) s fun t => (t.router i).delivered = (s.router i).delivered.erase e ∧
      (s.shardHome u = false → ShardEnded s t i u.src u.tag stRefused) ∧
      (s.shardHome u = true → e.pkt.hdr.fb.toNat ≠ u.next → ShardEnded s t i u.src u.tag stOrder) ∧
      (s.shardHome u = true → e.pkt.hdr.fb.toNat = u.next →
        Toward s t u.context (Fin.ofNat 768 u.tcore.toNat) 3 3 (.swap (4096 * (u.start + u.next)) e.pkt.hdr.poison) false
          ((chunksOf 64 64 (packetBytes e.pkt)).map fun l => (bytesLine l, false)) ∧
        (e.pkt.hdr.poison = true → ShardEnded s t i u.src u.tag stPoisoned) ∧
        (e.pkt.hdr.poison = false → { u with next := u.next + 1, data := u.data ++ packetBytes e.pkt, lastAt := s.now } ∈
          (t.router i).transfers ∧ (t.router i).localq = (s.router i).localq))) ∧
  (∀ (s : State) (i : IoId) (e : RingPkt), s.transferDue i = none → s.nextMgmt i isShard = some e →
    ((s.router i).transfers.find? fun t => t.is e.pkt.hdr) = none → Gives (.shardData i) s fun t =>
      (64 ≤ (s.router i).rxLog.length → ShardEnded s t i e.pkt.hdr.src e.pkt.hdr.tag stRefused ∧ t.cores = s.cores) ∧
      (∀ u ∈ (t.router i).transfers, u.is e.pkt.hdr = true → u.total = e.pkt.hdr.fa.toNat + 1 ∧ u.tcore = e.pkt.hdr.tcore)) ∧
  (∀ (s : State) (c : CoreId) (a : Asm) (addr : Nat) (uce : Bool), a.head.body = .swap addr uce →
    let t := s.asmDone c a
    (t.core c).wsPend = (s.core c).wsPend ++
      a.lines.zipIdx.map (fun l => ⟨addr + 64 * l.2, lineBytes l.1.1, uce || (a.head.poison || a.lines.any Prod.snd)⟩) ∧
    t.ws = s.ws ∧
    ∀ (i : IoId), ∀ u ∈ (s.router i).transfers, u.tcore.toNat = c.val → 4096 * u.start ≤ addr →
      addr < 4096 * (u.start + u.total) → { u with arrived := u.arrived + 1 } ∈ (t.router i).transfers) ∧
  (∀ (s : State) (i : IoId) (e : RingPkt), (s.nextMgmt i fun p => mgClass p == 8) = some e →
    Gives (.shardAnswer i) s fun t => (t.router i).delivered = (s.router i).delivered.erase e ∧
      ((∀ b, (s.router i).job = some b → b.tag ≠ e.pkt.hdr.tag ∨ b.verify = true) →
        DropCounted s t i dropLate ∧ (t.router i).job = (s.router i).job) ∧
      (∀ b, (s.router i).job = some b → b.tag = e.pkt.hdr.tag → b.verify = false →
        (e.pkt.hdr.fc.toNat % 4 ≠ 0 → t.reg (.router i) 0x70 / 2 ^ 2 % 2 = 1) ∧
        (b.acks + 1 < b.ndest → (t.router i).job = some { b with acks := b.acks + 1 }) ∧
        (b.ndest ≤ b.acks + 1 → b.sent = b.count → JobEnded t i [wxDone]))) ∧
  (∀ (s : State) (i : IoId), Gives (.fabWxrpop i) s fun t => (t.router i).rxLog = (s.router i).rxLog.tail ∧
    t.regs = s.regs)

/-- R601 to R605, R626. -/
def Obligations.SubmissionEntriesAreDeliveredOrRefused : Prop :=
  (∀ (s : State) (v : VfId) (r : RingId) (step : Word32) (dies : BitVec 12) (entries : List Line),
    Gives (.blocks v r step dies entries) s fun t =>
      (s.mayFetch v r = false → t = s) ∧
      (s.mayFetch v r = true → ¬BlocksFit s v r step dies entries → SqRefused s t v r) ∧
      (s.mayFetch v r = true → BlocksFit s v r step dies entries → (s.ring v r).decided = true →
        t.dies = s.dies ∧ (t.ring v r).fetch = (s.ring v r).fetch + 1) ∧
      (s.mayFetch v r = true → BlocksFit s v r step dies entries → (s.ring v r).decided = false →
        (s.ring v r).sent ≤ entries.length →
        (∀ d ∈ maskDies dies, (s.die d).cmdq.length + entries.length ≤ 1024) →
        (∀ d ∈ maskDies dies, (t.die d).cmdq = (s.die d).cmdq ++ entries.drop (s.ring v r).sent) ∧
        (∀ d, d ∉ maskDies dies → (t.die d).cmdq = (s.die d).cmdq) ∧
        (t.ring v r).fetch = (s.ring v r).fetch + 1 ∧ (t.ring v r).sent = 0 ∧ (t.ring v r).stepNow = some step)) ∧
  (∀ (s : State) (v : VfId) (r : RingId) (e : InputEntry) (lines : List Line) (bad : Bool),
    let c : CoreId := Fin.ofNat 768 e.tcore.toNat
    let fits := s.stepBad v r e.step = false ∧ e.tcore.toNat < 768 ∧ s.sqOwns v r (dieOf c) = true ∧
      e.am.toNat + lines.length ≤ 65536
    Gives (.input v r e lines bad) s fun t =>
      (s.mayFetch v r = false → t = s) ∧
      (s.mayFetch v r = true → ¬fits → SqRefused s t v r) ∧
      (s.mayFetch v r = true → fits → (s.ring v r).decided = false → (s.die (dieOf c)).launched ≠ some e.step → t = s) ∧
      (s.mayFetch v r = true → fits → (s.ring v r).decided = false → (s.die (dieOf c)).launched = some e.step →
        (∃ q, (bad = true → q = true) ∧ Toward s t (s.dieCtx (dieOf c)) c 2 0 (.input e.am.toNat e.sem.toNat e.n.toNat) false
          ((chunksOf 64 lines.length (inputBytes e lines)).map fun l => (bytesLine l, q))) ∧
        (t.ring v r).fetch = (s.ring v r).fetch + 1 ∧ (t.ring v r).stepNow = some e.step ∧ t.am = s.am ∧
        (bad = true → t.reg (.vf v) 0x04 / 2 ^ 7 % 2 = 1))) ∧
  (∀ (s : State) (c : CoreId) (a : Asm) (rest : List Asm) (am sem n : Nat), (s.core c).fabIn = a :: rest →
    a.head.body = .input am sem n →
    let t := s.fabDone c a
    (t.core c).fabIn = rest ∧ t.am = s.am ∧
    (¬Issued s c → (s.core c).sem sem + n ≤ 0xFFFF → (t.core c).sem sem = (s.core c).sem sem + n) ∧
    (Issued s c → n ≠ 0 → (t.core c).semPend = (s.core c).semPend ++ [⟨s.ac + 1, sem, n⟩])) ∧
  (∀ (s : State) (v : VfId) (r : RingId) (step : Word32) (last : Bool), Gives (.hostEnd v r step last) s fun t =>
    (s.mayFetch v r = false → t = s) ∧
    (s.mayFetch v r = true → s.stepBad v r step = true → SqRefused s t v r) ∧
    (s.mayFetch v r = true → s.stepBad v r step = false → (s.ring v r).decided = false →
      (t.ring v r).ended = true ∧ (t.ring v r).fetch = (s.ring v r).fetch + 1 ∧ (t.ring v r).stepNow = some step ∧
      (t.ctx (s.sqCtx v r)).lastOfJob = ((s.ctx (s.sqCtx v r)).lastOfJob || last) ∧
      t.rreg v r rSqHead = s.rreg v r rSqHead) ∧
    (s.mayFetch v r = true → s.stepBad v r step = false → (s.ring v r).decided = true →
      t.rreg v r rSqHead = ((s.ring v r).fetch + 1).toNat ∧ (t.ring v r).stepNow = none ∧ (t.ring v r).ended = false))

/-- R597, R610 to R617, R622, R626. -/
def Obligations.ResultsAndReceiptsReachTheHost : Prop :=
  (∀ (s : State) (v : VfId) (r : RingId) (x : Ctx) (n : Word32) (b : List Byte) (rest : List (Ctx × Word32 × List Byte)),
    (s.ring v r).records = (x, n, b) :: rest → Gives (.stepRecordWrite v r) s fun t =>
      (s.cqRoom v r = true → s.ideWait v = false → (t.ring v r).records = rest ∧
        t.rreg v r rCqTail = (s.rreg v r rCqTail + 1) % 2 ^ 32 ∧ (t.ring v r).gapCount = 0 ∧
        ∃ a w more, t.out = s.out ++ .hostWrite v a w :: more ∧ w.head? = some 2 ∧ w.length = 32) ∧
      (s.cqRoom v r = false ∨ s.ideWait v = true → t = s)) ∧
  (∀ (s : State) (v : VfId) (r : RingId) (f : Frame) (buffers : List (Word64 × BitVec 16)),
    s.headFrame v r = some f → s.ideWait v = false → Gives (.frameWrite v r buffers) s fun t =>
      (s.bufsFor v r f buffers = .short → t.mod.frames = s.mod.frames ∧ (t.ring v r).starvedAt ≠ none) ∧
      (∀ u, s.bufsFor v r f buffers = .bad u → t.mod.frames = s.mod.frames.erase f ∧
        t.rreg v r rRbHead = (s.rreg v r rRbHead + u) % 2 ^ 32 ∧ t.reg (.vf v) 0x04 / 2 ^ 8 % 2 = 1) ∧
      (∀ l, s.bufsFor v r f buffers = .ok l →
        (s.cqRoom v r = false → t.mod.frames = s.mod.frames ∧ (t.ring v r).starvedAt ≠ none) ∧
        (s.cqRoom v r = true → t.mod.frames = s.mod.frames.erase f ∧ (t.ring v r).starvedAt = none ∧
          t.rreg v r rRbHead = (s.rreg v r rRbHead + l.length) % 2 ^ 32 ∧
          t.rreg v r rCqTail = (s.rreg v r rCqTail + 1) % 2 ^ 32))) ∧
  (∀ (s : State) (v : VfId) (r : RingId) (f : Frame) (since tail head : Nat), s.headFrame v r = some f →
    (s.ring v r).starvedAt = some (since, tail, head) → Gives (.starveExpire v r) s fun t =>
      (s.starveUs v ≤ s.sinceUs since → tail = s.rreg v r rRbTail → head = s.rreg v r rCqHead →
        t.mod.frames = s.mod.frames.erase f ∧ (t.ring v r).gapCount = (s.ring v r).gapCount + 1 ∧
        t.rreg v r 0x64 = Nat.min (s.rreg v r 0x64 + 1) 0xFFFFFFFF ∧ (t.ring v r).starvedAt = none) ∧
      (s.sinceUs since < s.starveUs v ∨ tail ≠ s.rreg v r rRbTail ∨ head ≠ s.rreg v r rCqHead → t = s)) ∧
  (∀ (s : State) (v : VfId) (r : RingId), (s.ring v r).unsignalled ≠ 0 → bits (s.rreg v r rCqCfg) 7 0 ≠ 0 →
    bits (s.rreg v r rCqCfg) 7 0 ≤ s.sinceUs (s.ring v r).firstUnsignalled →
    Gives (.coalesceTimer v r) s fun t => (t.ring v r).unsignalled = 0 ∧ t.reg (.vf v) 0x08 / 2 ^ r.val % 2 = 1) ∧
  (∀ (s : State) (v : VfId) (e : Receipt), v.val ≠ 63 → bitAt (s.reg (.vf v) 0x28) 31 = true → s.ideWait v = false →
    span (s.reg (.vf v) 0x2C) (s.reg (.vf v) 0x30) < 2 ^ bits (s.reg (.vf v) 0x28) 28 24 →
    (s.chain (vfEncl v)).entries[span (s.reg (.vf v) 0x2C) (s.reg (.vf v) 0x30)]? = some e →
    Gives (.receiptSlotWrite v) s fun t =>
      (e.sign = true → e.signature = none → t = s) ∧
      (e.sign = false ∨ e.signature ≠ none → t.reg (.vf v) 0x2C = (s.reg (.vf v) 0x2C + 1) % 2 ^ 32 ∧
        t.reg (.vf v) 0x08 / 2 ^ 8 % 2 = 1 ∧ ∃ a w more, t.out = s.out ++ .hostWrite v a w :: more ∧ w.length = 512)) ∧
  (∀ (s : State) (v : VfId) (addr : BitVec 36) (b : List Byte), Gives (.ingestWrite v addr b) s fun t =>
    let inside (k : Nat) : Prop := s.fld (.vf v) 0x14 23 0 ≤ (addr.toNat + k) / 4096 ∧
      (addr.toNat + k) / 4096 < s.fld (.vf v) 0x14 23 0 + 4096
    (v.val = 63 ∨ s.stage ≠ stReady → t = s) ∧
    (v.val ≠ 63 → s.stage = stReady → (∀ k, k < b.length → inside k) →
      (t.func (vfFn v)).staging.bytes addr.toNat b.length = b ∧
      (∀ k, k < b.length → Store.get false (t.func (vfFn v)).written ((addr.toNat + k) / 64) = true) ∧ t.regs = s.regs) ∧
    (v.val ≠ 63 → s.stage = stReady → (∃ k, k < b.length ∧ ¬inside k) → t.reg (.vf v) 0x04 / 2 ^ 5 % 2 = 1))

/-- R591, R619, R623, R624, R626, R644, R648, R717, R718, R764. -/
def Obligations.MailboxRequestsAndFunctionResets : Prop :=
  (∀ (s : State) (f : Option VfId), let b := fnBlk (fnIndex f)
    Gives (.hostMboxSend f) s fun t =>
      (s.fld b 0x40 31 31 = 0 → t.fld b 0x40 31 31 = 1 ∧ t.reg b 0x04 = s.reg b 0x04) ∧
      (s.fld b 0x40 31 31 = 1 → t.reg b 0x40 = s.reg b 0x40 ∧ t.reg b 0x04 / 2 ^ 9 % 2 = 1)) ∧
  (∀ (s : State) (v : VfId) (x : Ctx) (first : BitVec 16) (dig : Digest) (tag : Word32) (load : Option Placement),
    Gives (.placeReq v x first dig ⟨tag, load⟩) s fun t =>
      MailAnswered t (vfFn v) 0x8001 tag.toNat
        (if s.ctxOfVf v x = false then placeBody 1 [] []
         else match s.placeLoad x dig load with
           | none => placeBody mRefused [] []
           | some u =>
             if (u.ctx x).ranks = [] ∨ (u.ctx x).program ≠ dig then placeBody 2 [] []
             else placeBody 0 (((u.ctx x).ranks.drop first.toNat).take 896) (u.ctx x).groups) ∧
      (s.ctxOfVf v x = true → ∀ u, s.placeLoad x dig load = some u → t.ctx x = u.ctx x)) ∧
  (∀ (s : State) (v : VfId) (x : Ctx) (start : Word64) (len tag : Word32), Gives (.maintDecl v x start len tag) s fun t =>
    (s.ctxOfVf v x = true → (t.ctx x).maint = some (start, len) ∧
      MailAnswered t (vfFn v) 0x8002 tag.toNat (leBytes 1 mOk)) ∧
    (s.ctxOfVf v x = false → t.ctx x = s.ctx x ∧ MailAnswered t (vfFn v) 0x8002 tag.toNat (leBytes 1 mRefused))) ∧
  (∀ (s : State) (q : TestReq), Gives (.selftestReq q) s fun t =>
    (12 ≤ q.unit.toNat → MailAnswered t 0 0x8008 q.tag.toNat (leBytes 1 1) ∧ t.dies = s.dies) ∧
    (∀ d : DieId, d.val = q.unit.toNat →
      (16 ≤ (s.die d).tests.length → MailAnswered t 0 0x8008 q.tag.toNat (leBytes 1 1) ∧ t.dies = s.dies) ∧
      ((s.die d).tests.length < 16 → q.kind = 0 ∨ 3 < q.kind.toNat →
        MailAnswered t 0 0x8008 q.tag.toNat (leBytes 1 2) ∧ t.dies = s.dies) ∧
      ((s.die d).tests.length < 16 → q.kind ≠ 0 → q.kind.toNat ≤ 3 →
        MailAnswered t 0 0x8008 q.tag.toNat (leBytes 1 0) ∧ (t.die d).tests = (s.die d).tests ++ [(q, .pf)]))) ∧
  (∀ (s : State) (watts : BitVec 16) (tag : Word32), Gives (.powerReq watts tag) s fun t =>
    let cap := if watts = 0 then s.fld .pwr 0x08 15 0 else watts.toNat
    t.fld .pwr 0x08 15 0 = cap ∧
    MailAnswered t 0 0x8006 tag.toNat (leBytes 2 mOk ++ leBytes 2 (Nat.min cap 4800) ++
      leBytes 2 (s.fld .pwr 0x04 15 0) ++ leBytes 1 s.point)) ∧
  (∀ (s : State) (v : VfId), Gives (.functionLevelReset v) s fun t => FunctionReset s t v) ∧
  (∀ (s : State), ∀ i ∈ [Instr.hotReset, .hostLinkLoss, .pciePerstN], Gives i s fun t =>
    t.fld .pf 0x40 31 31 = 0 ∧ ∀ v : VfId, t.fld (.vf v) 0x40 31 31 = 0 ∧
      (∀ f ∈ t.mod.frames, f.vf = vfFn v → f.released = false) ∧
      (v.val ≠ 63 → ∀ r : RingId, (t.ring v r).fetch = 0 ∧ (t.ring v r).stepNow = none)) ∧
  (∀ (s : State) (f : Option VfId), Gives (.ideKm f) s fun t =>
    t.func (fnIndex f) = { s.func (fnIndex f) with ideSecure := true } ∧ t.regs = s.regs)

/-- R16, R17, R19, R594, R730, R738 to R740, R742, R743, R747, R748. -/
def Obligations.RegisterReadsAndWritesMeetTheirFields : Prop :=
  (∀ (s : State) (p : Path) (o : BitVec 28) (b : Blk) (off : Nat), blockOf o.toNat = some (b, off) → o.toNat % 4 = 0 →
    Gives (.latchingRead p o) s fun t =>
      (b.readable p = false ∨ hiddenFrom p b off = true → t = s.emit (.value 0)) ∧
      (b.readable p = true → hiddenFrom p b off = false →
        (Unlatched b off → t = s.emit (.value (BitVec.ofNat 32 (s.view b off)))) ∧
        (∀ lo n, (lo, n) ∈ latchWords b →
          (off = lo → t.out = s.out ++ [.value (BitVec.ofNat 32 (s.view b off))] ∧
            ∀ k, k < n → k ≠ 0 → Store.get 0 t.latches (b.base + (lo + 4 * k)) = BitVec.ofNat 32 (s.view b (lo + 4 * k))) ∧
          (lo < off → off < lo + 4 * n → t = s.emit (.value (Store.get 0 s.latches (b.base + off))))))) ∧
  (∀ (s : State) (p : Path) (o : BitVec 28) (v : Word32) (b : Blk) (off : Nat), blockOf o.toNat = some (b, off) →
    b.writable off p = false ∨ o.toNat % 4 ≠ 0 → Gives (.registerWrite p o v 0 0) s fun t => t = s) ∧
  (∀ (s : State) (p : Path) (o : BitVec 28) (v hw : Word32) (b : Blk) (off : Nat) (r : RegDef), WritableAt p o b off →
    b.reg off = some r → r.sc = 0 → (b = .pwr ∨ (∃ c, b = .cq c) ∨ (∃ c, b = .mesh c) ∨ (∃ c, b = .vu c)) →
    Gives (.registerWrite p o v hw 0) s fun t =>
      t.reg b off = (((s.reg b off &&& (ones32 ^^^ (r.rw ||| r.cnt))) ||| (v.toNat &&& (r.rw ||| r.cnt))) &&&
        (ones32 ^^^ (v.toNat &&& r.w1c))) ||| (hw.toNat &&& r.w1c)) ∧
  (∀ (s : State) (addr : BitVec 36) (w : Option Word32), s.mod.dbg ≠ [] → Gives (.debugWindowAccess addr w) s fun t =>
    t = s.onMod fun m => { m with dbg := m.dbg ++ [(addr.toNat, w)] }) ∧
  (∀ (s : State) (addr : BitVec 36) (w : Option Word32), s.mod.dbg = [] → s.bar2Granted = false →
    Gives (.debugWindowAccess addr w) s fun t => t.reg .pf 0x04 / 2 ^ 6 % 2 = 1 ∧ t.am = s.am ∧ t.psm = s.psm ∧ t.cs = s.cs ∧
      t.cores = s.cores ∧ (w = none → t.out.getLast? = some (.value (BitVec.allOnes 32)))) ∧
  (∀ (s : State) (addr : BitVec 36) (c : CoreId) (a : Nat), s.mod.dbg = [] → s.bar2Granted = true → addr.toNat % 4 = 0 →
    dbgPlace addr.toNat = some (.am c a) → s.dbgReaches (dieOf c) = true →
    let free := (s.aboveDebug c false &&& laneMask a 4) = 0
    ((s.core c).amUse = [] → free →
      (∀ v : Word32, Gives (.debugWindowAccess addr (some v)) s fun t => t.am = s.am ∧ t.psm = s.psm ∧ t.cs = s.cs ∧
        (t.core c).timed = (s.core c).timed ++ [⟨s.ac + 1, a, false, .put (leBytes 4 v.toNat) false⟩]) ∧
      Gives (.debugWindowAccess addr none) s fun t => t.am = s.am ∧
        t.out = s.out ++ [.value (BitVec.ofNat 32 (leNat (s.amBytes c a 4)))]) ∧
    (¬free → ∀ w, Gives (.debugWindowAccess addr w) s fun t => t = s.onMod fun m => { m with dbg := [(addr.toNat, w)] })) ∧
  (∀ (s : State) (addr : BitVec 36) (c : CoreId) (a : Nat), s.mod.dbg = [] → s.bar2Granted = true → addr.toNat % 4 = 0 →
    dbgPlace addr.toNat = some (.psm c a) → s.dbgReaches (dieOf c) = true → s.psmErr = [] →
    Gives (.debugWindowAccess addr none) s fun t => t.psm = s.psm ∧
      t.out = s.out ++ [.value (BitVec.ofNat 32 (bits (s.psmWord c (a / 16)).toNat (8 * (a % 16) + 31) (8 * (a % 16))))]) ∧
  (∀ (s : State) (d : DieId), Gives (.cqMboxdoor d true) s (fun t => t.reg (.cqDie d) 0x48 / 2 ^ 5 % 2 = 1) ∧
    Gives (.cqMboxdoor d false) s fun t => t = s)

/-- R16, R20, R145, R405, R437, R461, R466, R530, R567, R588, R733, R741. -/
def Obligations.WritesOfGoFieldsRunTheirCommands : Prop :=
  ∀ (s : State) (p : Path) (o : BitVec 28) (v : Word32) (b : Blk) (off : Nat), WritableAt p o b off →
    let same (i : Instr) : Prop := exec (.registerWrite p o v 0 0) s = exec i s
    (v.getLsbD 0 = true →
      (∀ c, b = .mx c → (off = 0x0C → same (.mxCtrlDrain c)) ∧ (off = 0x4C → same (.mxCepop c))) ∧
      (∀ c, b = .dma c → (off = 0x10 → same (.dmaDoorbell c)) ∧ (off = 0x14 → same (.dmaQctrlStop c))) ∧
      (∀ d, b = .pgm d → (off = 0x04 → same (.pgmInit d)) ∧ (off = 0x28 → same (.pgmRespop d)) ∧
        (off = 0x48 → same (.pgmCepop d))) ∧
      (∀ d, b = .cqDie d → (off = 0x60 → same (.cqCcdone d)) ∧ (off = 0x140 → same (.cqMboxdoor d (p == .mc)))) ∧
      (b = .sec → off = 0x104 → same .secDbgctlEnd) ∧ (b = .mc → off = 0x104 → same (.mcElogpop p)) ∧
      (∀ i, b = .router i → off = 0xB4 → same (.fabWxrpop i))) ∧
    (v.getLsbD 31 = true →
      (b = .clk → off = 0x44 → same (.opArm (v.setWidth 2))) ∧
      (b = .fab → off = 0x44 → same (.mrContribute (v.extractLsb' 16 8) (v.setWidth 16))) ∧
      (b = .sec → off = 0xB0 → v.getLsbD 30 = false → same .cfgArm) ∧
      (∀ i, b = .router i → (off = 0x34 → same (.epochArm i (v.setWidth 8))) ∧
        (off = 0x20 → same (if v.getLsbD 30 then .tableWrite i (v.getLsbD 29) (v.getLsbD 28) (v.setWidth 16)
          else .tableRead i (v.getLsbD 29) (v.getLsbD 28) (v.setWidth 16)))) ∧
      (∀ d, b = .cqDie d → off = 0xA0 →
        same (.cqCcpushctlGo d (v.getLsbD 30) (v.extractLsb' 22 6) (v.setWidth 12))) ∧
      (∀ c, b = .mx c → off = 0x60 → same (.mxRetire c (v.getLsbD 14) (v.setWidth 14))) ∧
      (∀ d, b = .pgm d → off = 0x50 → same (.pgmRetire d (v.extractLsb' 14 5) (v.setWidth 14)))) ∧
    (b = .sec → off = 0xB0 → v.getLsbD 30 = true → v.getLsbD 31 = false → same .cfgLoad) ∧
    (∀ i, b = .router i → off = 0x30 → same (.fabRetag i (v.getLsbD 8) (v.setWidth 8)))

/-- R738: the commands of the block, one at a time.  The queue is the model's own. -/
def Obligations.StepRunsTheFrontCommand : Prop :=
  ∀ (s : State) (c : Instr) (rest : List Instr), s.pending = c :: rest → step s = exec c { s with pending := rest }

/-- R12, R22, R684; that an empty queue stands for one ac is the model's choice (log 2). -/
def Obligations.AnEmptyQueueLetsOneAcPass : Prop :=
  ∀ s : State, s.pending = [] → ∃ t, step s = .next t ∧ t.pending = [] ∧ t.ac = s.ac + 1 ∧
    t.now = s.now + acTenths s.point ∧ (∀ l ∈ t.deferred, t.lateDue l = false) ∧ t.rings = s.rings ∧ s.out <+: t.out ∧
    (s.Still → t.out = s.out ∧ t.ctxs = s.ctxs ∧ t.links = s.links ∧ t.routers = s.routers ∧ SameMemories s t)

/-- R247, R368, R565, R567, R671: the values stated for reset. -/
def Obligations.ResetLeavesTheStatedValues : Prop :=
  State.reset.stage = 0 ∧ State.reset.pending = [] ∧ State.reset.self = 0xFFFF ∧ State.reset.reg .fab 0x0C = 0x3E8 ∧
  State.reset.reg .fab 0x10 = 0x64 ∧ State.reset.reg .fab 0x14 = 0x1F40 ∧
  (∀ l : LinkId, (State.reset.link l).state = lkDown ∧ (State.reset.link l).peer = 0xFFFF003F) ∧
  (∀ n, rgParent (State.reset.group n) = 0x3F) ∧ (∀ d : DieId, State.reset.dieState d = dieClearing) ∧
  (∀ c : CoreId, State.reset.reg (.cq c) 0x18 = 0x4000)

/-- R333, R752: the reset state satisfies the invariant of `Obligations.EveryStepKeepsTheCanonicalForm`. -/
def Obligations.ResetIsCanonical : Prop := State.reset.canonical

/-- R16, R333, R369, R565. -/
def Obligations.EveryStepKeepsTheCanonicalForm : Prop :=
  ∀ s t : State, s.canonical → step s = .next t → t.canonical

/-- R16, R75, R333, R545, R738: the frame of every command. -/
def Obligations.CommandsStayInTheirParts : Prop :=
  ∀ (i : Instr) (s t : State), exec i s = .next t → Within (footprint i) s t

/-- R187, R210, R738. -/
def Obligations.EveryCommandCompletes : Prop :=
  ∀ (i : Instr) (s : State), Gives i s fun t => t.pending = s.pending ∧ t.ac = s.ac ∧ t.now = s.now

/-- R74, R75, R358. -/
def Obligations.SumsOfW128WordsAreOrderFree : Prop :=
  (∀ (s : State) (c : CoreId) (w : Nat) (x : W128) (p : Bool),
    ((s.psmAdd c w x p).psmWord c w).toNat = ((s.psmWord c w).toNat + x.toNat) % 2 ^ 128 ∧
    (s.psmErr = [] → (s.psmAdd c w x p).regs = s.regs)) ∧
  (∀ a b : BitVec 384, (rgCombine 0 false a b).toNat = (a.toNat + b.toNat) % 2 ^ 128) ∧
  (∀ (s : State) (c : CoreId) (w : Nat) (l m : List (W128 × Bool)), l.Perm m →
    (l.foldl (fun s x => s.psmAdd c w x.1 x.2) s).psmWord c w = (m.foldl (fun s x => s.psmAdd c w x.1 x.2) s).psmWord c w)

/-- R227. -/
def Obligations.SemaphoreOverflowIsFlagged : Prop :=
  ∀ (s : State) (c : CoreId) (i : Fin 64) (n : Nat), 0xFFFF < (s.core c).sem i.val + n →
    let t := s.semAdd c i.val n
    (t.core c).sem i.val = 0xFFFF ∧ t.reg (.cq c) 0x04 / 2 ^ 2 % 2 = 1 ∧ (t.core c).poisoned = true ∧
    (∀ j : Fin 64, j ≠ i → (t.core c).sem j.val = (s.core c).sem j.val) ∧ (∀ c', c' ≠ c → t.core c' = s.core c')

/-- R554. -/
def Obligations.AcksEchoTheMarksOfTheirPut : Prop :=
  (∀ (s : State) (i : IoId) (e : RingPkt), s.nextDelivered i kPut = some e → Gives (.putReceive i) s fun t =>
    ∀ q, (t.router i).localq = (s.router i).localq ++ [q] →
      (q.hdr.echo = true ↔ e.pkt.hdr.mark = true ∨ ∃ n, s.inboundOf i e.pkt.hdr = some n ∧ n.marked = true)) ∧
  (∀ (s : State) (i : IoId) (e : RingPkt) (c : CoreId), s.nextDelivered i kPut = some e →
    s.mayReach e.pkt.hdr e.pkt.hdr.tcore.toNat = some c → s.genOk e.pkt.hdr = true → s.inboundFull i e.pkt.hdr = false →
    Gives (.putReceive i) s fun t => ∃ n, t.inboundOf i e.pkt.hdr = some n ∧
      (n.marked = true ↔ e.pkt.hdr.mark = true ∨ ∃ m, s.inboundOf i e.pkt.hdr = some m ∧ m.marked = true)) ∧
  (∀ (s : State) (c : CoreId) (i : IoId) (h : Header) (p : Bool) (n : Inbound) (q : Packet), s.inboundOf i h = some n →
    ((s.dataWritten c i h p).router i).localq = (s.router i).localq ++ [q] → q.hdr.echo = n.marked)

/-- R616. -/
def Obligations.LatePostsSaveAStarvedFrame : Prop :=
  ∀ (s : State) (v : VfId) (r : RingId) (since tail head : Nat), (s.ring v r).starvedAt = some (since, tail, head) →
    (tail ≠ s.rreg v r rRbTail ∨ head ≠ s.rreg v r rCqHead) →
    Gives (.starveExpire v r) s fun t => t.mod.frames = s.mod.frames ∧ (t.ring v r).gapCount = (s.ring v r).gapCount

/-- R518. -/
def Obligations.HeaderWordsHoldTheirFields : Prop :=
  ∀ (h : Header) (credit : Nat), credit < 2 ^ 16 →
    let w := (h.word credit).toNat
    (bits w 7 0 = 1 ∧ bits w 9 8 = h.vc.toNat ∧ bitAt w 10 = h.dl ∧ bits w 14 11 = h.nflits.toNat ∧ bitAt w 15 = h.mark ∧
      bits w 20 16 = h.start.toNat ∧ bits w 26 21 = h.enclave.toNat ∧ bits w 32 27 = h.hops.toNat ∧
      bits w 40 33 = h.epoch.toNat ∧ bitAt w 41 = h.mc) ∧
    (bits w 57 42 = h.dst.toNat ∧ bits w 73 58 = h.src.toNat ∧ bits w 77 74 = h.kind.toNat ∧ bitAt w 78 = h.echo ∧
      bitAt w 79 = h.poison ∧ bits w 87 80 = h.context.toNat ∧ bits w 95 88 = h.gen.toNat % 256 ∧
      bits w 105 96 = h.tcore.toNat ∧ bits w 122 106 = h.taddr.toNat ∧ bits w 138 123 = h.tag.toNat) ∧
    (bits w 170 139 = h.pseq.toNat ∧ bits w 186 171 = h.fa.toNat ∧ bits w 202 187 = h.fb.toNat ∧
      bits w 218 203 = h.fc.toNat ∧ bits w 234 219 = h.gen.toNat / 256 ∧ bits w 239 235 = 0 ∧ bits w 255 240 = credit)

/-- R29. -/
def Obligations.MeshCoordinatesConvertBothWays : Prop :=
  ∀ c : CoreId, let die := bits c.val 9 6
    mrow c = 8 * (die / 4) + bits c.val 5 3 ∧ mcol c = 8 * (die - 4 * (die / 4)) + bits c.val 2 0 ∧
    mrow c < 24 ∧ mcol c < 32 ∧
    c.val = 64 * (4 * (mrow c / 8) + mcol c / 8) + 8 * (mrow c - 8 * (mrow c / 8)) + (mcol c - 8 * (mcol c / 8)) ∧
    coreAt (mrow c) (mcol c) = c

/-- R28, R534, R578, R583. -/
def Obligations.PacketsReachOnlyDiesOfTheirContext : Prop :=
  (∀ (s : State) (i : IoId) (c : CoreId), NoneReaches s i c →
    Gives (.putReceive i) s (fun t => CoreUntouched s t c) ∧ Gives (.mcastReceive i) s (fun t => CoreUntouched s t c) ∧
    Gives (.streamReceive i) s fun t => CoreUntouched s t c) ∧
  (∀ (s : State) (i : IoId) (c : CoreId), NoShardFor s i c → Gives (.shardData i) s fun t => CoreUntouched s t c)

/-- R345, R446, R451, R539, R541, R594, R603. -/
def Obligations.StoresKeepEveryOtherByte : Prop :=
  (∀ (i : Instr) (s : State), onlyReadsAm i = true → Gives i s fun t => t.am = s.am) ∧
  (∀ (s : State) (c : CoreId), (∀ a rest, (s.core c).fabIn = a :: rest → a.lineAt (s.core c).fabNext = none) →
    (s.fabStore c).am = s.am) ∧
  (∀ (s : State) (c : CoreId) (a : Asm) (rest : List Asm) (l : Nat), (s.core c).fabIn = a :: rest →
    a.lineAt (s.core c).fabNext = some l → AmKept s (s.fabStore c) c (64 * l) 64) ∧
  (∀ (s : State) (c : CoreId) (t : Timed) (b : List Byte) (p : Bool),
    (t.lost = true → (s.timedPut c t b p).am = s.am) ∧
    (t.lost = false → AmKept s (s.timedPut c t b p) c t.addr b.length)) ∧
  (∀ (s : State) (d : DieId) (e : StEntry) (rest : List StEntry), (s.die d).stbuf = e :: rest →
    max e.from_ (s.die d).stFree + drainTime d e.addr ≤ s.ac + 1 → Gives (.storeDrain d) s fun t => (t.die d).stbuf = rest ∧
      (ccPlace e.addr = .dram → DramKept s t d e.addr e.width) ∧ (ccPlace e.addr ≠ .dram → t.dram = s.dram)) ∧
  (∀ (s : State) (d : DieId) (ga gb gc : BitVec 5) (units : Option (BitVec 14)),
    Gives (.pageCopy d ga gb gc units) s (fun t => DramKept s t d ((s.die d).gnat gb) ((s.die d).gnat gc)) ∧
    Gives (.fillLong d ga gb gc units) s fun t => DramKept s t d ((s.die d).gnat ga) ((s.die d).gnat gc))

/-- R569, R572 to R575. -/
def Obligations.BinariesArePatchedRelocatedOrRefused : Prop :=
  (∀ (p : RankPlace) (row col k : Nat) (e d : DieId), row < 3 → col < 4 → k < 64 → e.val = 4 * row + col →
    landDie row col p = some d → relocate p (64 * e.val + k) = 64 * d.val + k) ∧
  (∀ (x : Ctx) (ranks : List RankPlace) (gs : List GroupAlloc) (p : RankPlace) (img : List Byte) (vs : List Nat) (f : FixUp)
    (w v : Nat), fixWidth f.kind = some w → f.lo + w ≤ 64 → f.offset + 8 ≤ img.length →
    let old := entryNat img f.offset 8
    (f.kind = 1 → ∃ r, ranks[f.arg]? = some r ∧ v = r.endpoint.toNat) →
    (f.kind = 2 → v = relocate p (bits old (f.lo + 9) f.lo)) → (f.kind = 5 → v = x.toNat) →
    (f.kind = 3 ∨ f.kind = 4 → groupOf gs f.kind f.arg = some v) →
    ∃ img', FixUp.apply x ranks gs p (some (img, vs)) f = some (img', vs ++ [v % 2 ^ w]) ∧ img'.length = img.length ∧
      bits (entryNat img' f.offset 8) (f.lo + w - 1) f.lo = v % 2 ^ w ∧
      (∀ b < 64, (b < f.lo ∨ f.lo + w ≤ b) → bitAt (entryNat img' f.offset 8) b = bitAt old b) ∧
      ∀ k, (k < f.offset ∨ f.offset + 8 ≤ k) → img'[k]? = img[k]?) ∧
  (∀ (s : State) (x : Ctx) (l : Placement),
    ((∃ f ∈ binFixUps l.binary, fixWidth f.kind = none ∨ ∃ w, fixWidth f.kind = some w ∧ 64 < f.lo + w) →
      s.loadBinary x l = none) ∧
    (∀ r p, s.rankOf l.ranks = some r → l.ranks[r]? = some p → s.landsOn x l.binary p = false → s.loadBinary x l = none) ∧
    (∀ t, s.loadBinary x l = some t → t.cores = s.cores ∧ t.am = s.am ∧ (t.ctx x).binary = some l.binary ∧
      (t.ctx x).ranks = l.ranks ∧ (t.ctx x).groups = l.groups ∧ (t.ctx x).program = sha384 l.binary.bytes ∧
      (t.ctx x).stable = l.binary.stable ∧ (∀ d ∈ s.diesOf x, t.fld (.pgm d) 0x00 1 0 = l.binary.frameSize.toNat) ∧
      ∃ r p img vs, s.rankOf l.ranks = some r ∧ l.ranks[r]? = some p ∧ s.landsOn x l.binary p = true ∧
        binPatch l.binary x l.ranks l.groups r = some (img, vs) ∧ (t.ctx x).image = img ∧ (t.ctx x).fixup = fixDigest vs ∧
        ∀ h ∈ (t.ctx x).shards, ∃ e ∈ binShards l.binary, e.rank = r ∧ h.core = relocate p e.core ∧ h.start = e.start ∧
          h.digest = e.digest)) ∧
  (∀ (s : State) (x : Ctx) (b : Binary) (ranks : List RankPlace) (r : Nat) (img : List Byte) (vs : List Nat),
    (s.ctx x).binary = some b → s.rankOf ranks = some r → binPatch b x ranks (s.ctx x).groups r = some (img, vs) →
    let t := s.setRanks x ranks
    (t.ctx x).ranks = ranks ∧ (t.ctx x).image = img ∧ (t.ctx x).fixup = fixDigest vs ∧
      (t.ctx x).program = (s.ctx x).program ∧ ∀ y, y ≠ x → t.ctx y = s.ctx y)

/-- R312, R313, R321. -/
def Obligations.LanesAndPortLinksCarryOneFlit : Prop :=
  (∀ (s : State) (c e : CoreId) (o : Nat), o < 4 → across c (sideOf o) = .core e → e ≠ c →
    (s.ac < Store.get 0 (s.core c).laneFree o → s.laneStep c o = s) ∧
    (∀ f, Store.get 0 (s.core c).laneFree o ≤ s.ac → s.lanePick c o = some f →
      let t := s.laneStep c o
      (t.core c).dyn = (s.core c).dyn.erase f ∧ Store.get 0 (t.core c).laneFree o = s.ac + 64 ∧
      t.core e = { s.core e with dyn := (s.core e).dyn ++
        [{ f with inp := sideCode (oppSide (sideOf o)), due := s.ac + (63 + hopCost c (sideOf o)) }] } ∧
      (∀ c', c' ≠ c → c' ≠ e → t.core c' = s.core c') ∧ { t with cores := s.cores } = s)) ∧
  (∀ (s : State) (d : DieId) (f g : DynFlit), f.cls = 3 → g.cls = 3 →
    s.bgPriority d g < s.bgPriority d f ∨ s.bgPriority d g = s.bgPriority d f ∧ f.sub < g.sub →
    s.dynBefore d f g = true ∧ s.dynBefore d g f = false) ∧
  (∀ (s : State) (d : DieId) (l : List DynFlit) (f : DynFlit), (∀ g ∈ l, g.cls = 3) → s.dynBest d l = some f →
    f ∈ l ∧ ∀ g ∈ l, s.dynBefore d g f = false) ∧
  (∀ (s : State) (c : CoreId) (d : Side) (i : IoId), portOf c = some (d, i) →
    (s.portPick c d = none → s.portStep c = s) ∧
    (∀ f, s.portPick c d = some f → f ∈ (s.core c).portIn ∧
      let t := s.portStep c
      (t.core c).portIn = (s.core c).portIn.erase f ∧
      (t.core c).dyn = (s.core c).dyn ++ [{ f with inp := sideCode d, due := s.ac + hopCost c d }] ∧
      (∀ c', c' ≠ c → t.core c' = s.core c') ∧ { t with cores := s.cores } = s))
end

