-- ==== Sys2Proof/Laws/Store.lean ====
section
/-! SUPPORT. What the operations on sparse tables and byte memories do. -/

namespace Sys2Proof.Machine

section
variable {α : Type}

theorem Store.get_put (d : α) (m : Store α) (k j : Nat) (v : α) :
    Store.get d (Store.put m k v) j = if j = k then v else Store.get d m j := by
  induction m with
  | nil => simp [Store.put, Store.get, eq_comm]
  | cons e t ih =>
    obtain ⟨i, w⟩ := e
    unfold Store.put
    by_cases h1 : k < i
    · by_cases h : j = k
      · simp [Store.get, h1, h]
      · simp [Store.get, h1, h, Ne.symm h]
    · by_cases h2 : k = i
      · subst h2
        by_cases h : j = k
        · simp [Store.get, h]
        · simp [Store.get, h, Ne.symm h]
      · simp only [h1, h2, if_false, Store.get, ih]
        by_cases h3 : i = j
        · have : ¬ j = k := by omega
          simp [h3, this]
        · simp [h3]

theorem Store.get_drop (d : α) (m : Store α) (k j : Nat) :
    Store.get d (m.filter fun e => e.1 != k) j = if j = k then d else Store.get d m j := by
  induction m with
  | nil => simp [Store.get]
  | cons e t ih =>
    obtain ⟨i, w⟩ := e
    by_cases h : i = k
    · subst h
      simp only [List.filter_cons, bne_self_eq_false, Bool.false_eq_true, if_false, ih, Store.get]
      by_cases h2 : j = i
      · simp [h2]
      · simp [h2, Ne.symm h2]
    · simp only [List.filter_cons, bne_iff_ne, ne_eq, h, not_false_eq_true, if_true, Store.get, ih]
      by_cases h3 : i = j
      · have : ¬ j = k := by omega
        simp [h3, this]
      · simp [h3]


/-- A read after a write. -/
theorem Store.get_set [DecidableEq α] (d : α) (m : Store α) (k j : Nat) (v : α) :
    Store.get d (Store.set d m k v) j = if j = k then v else Store.get d m j := by
  unfold Store.set
  split
  · rename_i h; rw [Store.get_drop, h]
  · rw [Store.get_put]

@[simp] theorem Store.get_set_same [DecidableEq α] (d : α) (m : Store α) (k : Nat) (v : α) :
    Store.get d (Store.set d m k v) k = v := by simp [Store.get_set]

theorem Store.get_set_ne [DecidableEq α] (d : α) (m : Store α) {k j : Nat} (v : α) (h : j ≠ k) :
    Store.get d (Store.set d m k v) j = Store.get d m j := by simp [Store.get_set, h]

@[simp] theorem Store.get_nil (d : α) (k : Nat) : Store.get d ([] : Store α) k = d := rfl

/-- The canonical form, said of all pairs. -/
theorem Store.wf_iff [DecidableEq α] (d : α) (m : Store α) :
    Store.wf d m = true ↔ m.Pairwise (fun a b => a.1 < b.1) ∧ ∀ e ∈ m, e.2 ≠ d := by
  induction m with
  | nil => simp [Store.wf]
  | cons e t ih =>
    obtain ⟨j, v⟩ := e
    cases t with
    | nil => simp [Store.wf]
    | cons e2 t =>
      obtain ⟨k, w⟩ := e2
      simp only [Store.wf, Bool.and_eq_true, decide_eq_true_eq, ih]
      constructor
      · rintro ⟨⟨h1, h2⟩, h3, h4⟩
        refine ⟨?_, ?_⟩
        · rw [List.pairwise_cons]
          refine ⟨?_, h3⟩
          intro e he
          rcases List.mem_cons.mp he with rfl | he
          · exact h1
          · exact Nat.lt_trans h1 (List.rel_of_pairwise_cons h3 he)
        · intro e he
          rcases List.mem_cons.mp he with rfl | he
          · simpa using h2
          · exact h4 e he
      · rintro ⟨h1, h2⟩
        refine ⟨⟨List.rel_of_pairwise_cons h1 (List.mem_cons_self ..), ?_⟩, (List.pairwise_cons.mp h1).2, ?_⟩
        · simpa using h2 (j, v) (List.mem_cons_self ..)
        · exact fun e he => h2 e (List.mem_cons_of_mem _ he)

theorem Store.mem_put {m : Store α} {k : Nat} {v : α} {e : Nat × α} (h : e ∈ Store.put m k v) :
    e = (k, v) ∨ e ∈ m := by
  induction m with
  | nil => simpa [Store.put] using h
  | cons a t ih =>
    obtain ⟨j, w⟩ := a
    unfold Store.put at h
    split at h
    · simpa using h
    · split at h
      · rcases List.mem_cons.mp h with h | h
        · exact .inl h
        · exact .inr (List.mem_cons_of_mem _ h)
      · rcases List.mem_cons.mp h with h | h
        · exact .inr (h ▸ List.mem_cons_self ..)
        · exact (ih h).imp_right (List.mem_cons_of_mem _)

theorem Store.pairwise_put {m : Store α} (k : Nat) (v : α) (h : m.Pairwise fun a b => a.1 < b.1) :
    (Store.put m k v).Pairwise fun a b => a.1 < b.1 := by
  induction m with
  | nil => simp [Store.put]
  | cons a t ih =>
    obtain ⟨j, w⟩ := a
    have h' := List.pairwise_cons.mp h
    unfold Store.put
    split
    · rename_i hk
      refine List.pairwise_cons.mpr ⟨?_, h⟩
      intro e he
      rcases List.mem_cons.mp he with rfl | he
      · exact hk
      · exact Nat.lt_trans hk (h'.1 e he)
    · split
      · rename_i hk; subst hk
        exact List.pairwise_cons.mpr ⟨h'.1, h'.2⟩
      · refine List.pairwise_cons.mpr ⟨?_, ih h'.2⟩
        intro e he
        rcases Store.mem_put he with rfl | he
        · show j < k; omega
        · exact h'.1 e he

/-- A write keeps the canonical form. -/
@[simp] theorem Store.set_wf [DecidableEq α] {d : α} {m : Store α} (k : Nat) (v : α) (h : Store.wf d m = true) :
    Store.wf d (Store.set d m k v) = true := by
  rw [Store.wf_iff] at h ⊢
  unfold Store.set
  split
  · exact ⟨h.1.filter _, fun e he => h.2 e (List.mem_filter.mp he).1⟩
  · rename_i hv
    refine ⟨Store.pairwise_put k v h.1, ?_⟩
    intro e he
    rcases Store.mem_put he with rfl | he
    · exact hv
    · exact h.2 e he

@[simp] theorem Store.clearRange_wf [DecidableEq α] {d : α} {m : Store α} (lo hi : Nat) (h : Store.wf d m = true) :
    Store.wf d (Store.clearRange m lo hi) = true := by
  rw [Store.wf_iff] at h ⊢
  exact ⟨h.1.filter _, fun e he => h.2 e (List.mem_filter.mp he).1⟩

/-- Clearing a range leaves the default there and every other key alone. -/
theorem Store.get_clearRange (d : α) (m : Store α) (lo hi j : Nat) :
    Store.get d (Store.clearRange m lo hi) j = if lo ≤ j ∧ j < hi then d else Store.get d m j := by
  unfold Store.clearRange
  induction m with
  | nil => simp [Store.get]
  | cons e t ih =>
    obtain ⟨i, w⟩ := e
    by_cases h : i < lo ∨ hi ≤ i
    · have : (decide (i < lo) || decide (hi ≤ i)) = true := by simpa using h
      simp only [List.filter_cons, this, if_true, Store.get, ih]
      by_cases h3 : i = j
      · have : ¬ (lo ≤ j ∧ j < hi) := by omega
        simp [h3, this]
      · simp [h3]
    · have : (decide (i < lo) || decide (hi ≤ i)) = false := by simpa using h
      simp only [List.filter_cons, this, Bool.false_eq_true, if_false, ih, Store.get]
      by_cases h3 : i = j
      · have : lo ≤ j ∧ j < hi := by omega
        simp [this]
      · simp [h3]

end

/-! ### Byte memories -/

theorem Memory.byte_setByte (m : Memory) (a b : Nat) (v : Byte) :
    (m.setByte a v).byte b = if b = a then v else m.byte b := Store.get_set ..

@[simp] theorem Memory.setByte_wf {m : Memory} (a : Nat) (v : Byte) (h : Memory.wf m = true) :
    Memory.wf (m.setByte a v) = true := Store.set_wf a v h

@[simp] theorem Memory.setBytes_wf {m : Memory} (l : List Byte) (a : Nat) (h : Memory.wf m = true) :
    Memory.wf (m.setBytes a l) = true := by
  induction l generalizing m a with
  | nil => exact h
  | cons b t ih => exact ih _ (Memory.setByte_wf a b h)

@[simp] theorem Memory.setNat_wf {m : Memory} (a n v : Nat) (h : Memory.wf m = true) :
    Memory.wf (m.setNat a n v) = true := Memory.setBytes_wf _ _ h

@[simp] theorem Memory.clearRange_wf {m : Memory} (lo hi : Nat) (h : Memory.wf m = true) :
    Memory.wf (Store.clearRange m lo hi) = true := Store.clearRange_wf lo hi h

@[simp] theorem leBytes_length (n v : Nat) : (leBytes n v).length = n := by
  induction n generalizing v with
  | zero => rfl
  | succ n ih => simp [leBytes, ih]

/-- A write of bytes: the bytes written, and every other byte as before. -/
theorem Memory.byte_setBytes (m : Memory) (a b : Nat) (l : List Byte) :
    (m.setBytes a l).byte b = if a ≤ b ∧ b < a + l.length then l.getD (b - a) 0 else m.byte b := by
  induction l generalizing m a with
  | nil => simp [Memory.setBytes]
  | cons x t ih =>
    simp only [Memory.setBytes, ih, Memory.byte_setByte, List.length_cons]
    by_cases h1 : b = a
    · subst h1; simp
    · by_cases h2 : a + 1 ≤ b ∧ b < a + 1 + t.length
      · have h3 : a ≤ b ∧ b < a + (t.length + 1) := by omega
        obtain ⟨q, rfl⟩ : ∃ q, b = a + 1 + q := ⟨b - (a + 1), by omega⟩
        have e1 : a + 1 + q - (a + 1) = q := by omega
        have e2 : a + 1 + q - a = q + 1 := by omega
        simp [h2, h3, e1, e2]
      · have h3 : ¬ (a ≤ b ∧ b < a + (t.length + 1)) := by omega
        rw [if_neg h2, if_neg h1, if_neg h3]

theorem Memory.byte_setBytes_out (m : Memory) {a b : Nat} (l : List Byte) (h : b < a ∨ a + l.length ≤ b) :
    (m.setBytes a l).byte b = m.byte b := by
  rw [Memory.byte_setBytes]
  have : ¬ (a ≤ b ∧ b < a + l.length) := by omega
  simp [this]

/-- What was written reads back. -/
theorem Memory.bytes_setBytes (m : Memory) (a : Nat) (l : List Byte) :
    (m.setBytes a l).bytes a l.length = l := by
  unfold Memory.bytes
  apply List.ext_getElem
  · simp
  · intro i h1 h2
    simp only [List.length_map, List.length_range] at h1
    simp only [List.getElem_map, List.getElem_range, Memory.byte_setBytes]
    have : a ≤ a + i ∧ a + i < a + l.length := by omega
    simp [h1]

theorem Memory.bytes_setBytes_out (m : Memory) {a b n : Nat} (l : List Byte) (h : b + n ≤ a ∨ a + l.length ≤ b) :
    (m.setBytes a l).bytes b n = m.bytes b n := by
  unfold Memory.bytes
  apply List.map_congr_left
  intro i hi
  exact Memory.byte_setBytes_out m l (by have := List.mem_range.mp hi; omega)

theorem leNat_leBytes (n v : Nat) : leNat (leBytes n v) = v % 256 ^ n := by
  induction n generalizing v with
  | zero => simp [leBytes, leNat, Nat.mod_one]
  | succ n ih =>
    simp only [leBytes, leNat, ih, BitVec.toNat_ofNat]
    have : v % 256 % 2 ^ 8 = v % 256 := Nat.mod_eq_of_lt (by omega)
    rw [this, Nat.pow_succ, Nat.mul_comm (256 ^ n) 256, Nat.mod_mul]

/-- A little-endian value reads back. -/
theorem Memory.nat_setNat (m : Memory) (a n v : Nat) : (m.setNat a n v).nat a n = v % 256 ^ n := by
  unfold Memory.nat Memory.setNat
  have h := Memory.bytes_setBytes m a (leBytes n v)
  rw [leBytes_length] at h
  rw [h, leNat_leBytes]

theorem Memory.nat_setNat_out (m : Memory) {a b n k v : Nat} (h : b + k ≤ a ∨ a + n ≤ b) :
    (m.setNat a n v).nat b k = m.nat b k := by
  unfold Memory.nat Memory.setNat
  rw [Memory.bytes_setBytes_out m _ (by simpa using h)]

end Sys2Proof.Machine
end

