-- ==== Sys2Proof/Laws/State.lean ====
section
/-! SUPPORT. Each update of the state and what it leaves alone, and reads after writes of the tables of units. -/

namespace Sys2Proof.Machine

section
variable (s : State)

@[simp] theorem State.setCore_frame (c : CoreId) (k : Core) :
    (s.setCore c k).pending = s.pending ∧ (s.setCore c k).ac = s.ac ∧ (s.setCore c k).now = s.now ∧
    (s.setCore c k).free = s.free ∧ (s.setCore c k).regs = s.regs ∧ (s.setCore c k).latches = s.latches ∧
    (s.setCore c k).deferred = s.deferred ∧ (s.setCore c k).ws = s.ws ∧ (s.setCore c k).am = s.am ∧
    (s.setCore c k).psm = s.psm ∧ (s.setCore c k).cs = s.cs ∧ (s.setCore c k).tb = s.tb ∧
    (s.setCore c k).pm = s.pm ∧ (s.setCore c k).iram = s.iram ∧ (s.setCore c k).dram = s.dram ∧
    (s.setCore c k).mail = s.mail ∧ (s.setCore c k).amPoison = s.amPoison ∧ (s.setCore c k).psmPoison = s.psmPoison ∧
    (s.setCore c k).csPoison = s.csPoison ∧ (s.setCore c k).tbPoison = s.tbPoison ∧ (s.setCore c k).wsErr = s.wsErr ∧
    (s.setCore c k).amErr = s.amErr ∧ (s.setCore c k).psmErr = s.psmErr ∧ (s.setCore c k).csErr = s.csErr ∧
    (s.setCore c k).iramErr = s.iramErr ∧ (s.setCore c k).dramErr = s.dramErr ∧ (s.setCore c k).pmErr = s.pmErr ∧
    (s.setCore c k).dies = s.dies ∧ (s.setCore c k).ctxs = s.ctxs ∧ (s.setCore c k).chains = s.chains ∧
    (s.setCore c k).links = s.links ∧ (s.setCore c k).routers = s.routers ∧ (s.setCore c k).rgroups = s.rgroups ∧
    (s.setCore c k).rings = s.rings ∧ (s.setCore c k).funcs = s.funcs ∧ (s.setCore c k).mod = s.mod ∧
    (s.setCore c k).out = s.out ∧ (∀ (c' : CoreId) (w' : Nat), (s.setCore c k).psmWord c' w' = s.psmWord c' w') ∧ (∀ (c' : CoreId) (w' : Nat), (s.setCore c k).psmPois c' w' = s.psmPois c' w') ∧
    (∀ (c' : CoreId) (a' n' : Nat), (s.setCore c k).amBytes c' a' n' = s.amBytes c' a' n') ∧ (∀ (c' : CoreId) (l' : Nat), (s.setCore c k).amPois c' l' = s.amPois c' l') ∧ (∀ (c' : CoreId) (a' n' : Nat), (s.setCore c k).wsBytes c' a' n' = s.wsBytes c' a' n') ∧
    (∀ (c' : CoreId) (b' r' j' : Nat), (s.setCore c k).tbLane c' b' r' j' = s.tbLane c' b' r' j') ∧ (∀ (d' : DieId) (u' : Nat), (s.setCore c k).csUnit d' u' = s.csUnit d' u') ∧ (∀ (d' : DieId), (s.setCore c k).die d' = s.die d') ∧
    (∀ (d' : DieId), (s.setCore c k).pgm d' = s.pgm d') ∧ (∀ (x' : Ctx), (s.setCore c k).ctx x' = s.ctx x') ∧ (∀ (e' : Encl), (s.setCore c k).chain e' = s.chain e') ∧
    (∀ (l' : LinkId), (s.setCore c k).link l' = s.link l') ∧ (∀ (i' : IoId), (s.setCore c k).router i' = s.router i') ∧ (∀ (g' : Nat), (s.setCore c k).group g' = s.group g') ∧
    (∀ (v' : VfId) (r' : RingId), (s.setCore c k).ring v' r' = s.ring v' r') ∧ (∀ (f' : Nat), (s.setCore c k).func f' = s.func f') ∧ (∀ (b' : Blk) (o' : Nat), (s.setCore c k).reg b' o' = s.reg b' o') ∧
    (∀ (b' : Blk) (o' h' l' : Nat), (s.setCore c k).fld b' o' h' l' = s.fld b' o' h' l') :=
  ⟨rfl, rfl, rfl, rfl, rfl, rfl, rfl, rfl, rfl, rfl, rfl, rfl, rfl, rfl, rfl, rfl, rfl, rfl, rfl, rfl, rfl, rfl, rfl, rfl, rfl, rfl, rfl, rfl, rfl, rfl, rfl, rfl, rfl, rfl, rfl, rfl, rfl, fun _ _ => rfl, fun _ _ => rfl, fun _ _ _ => rfl, fun _ _ => rfl, fun _ _ _ => rfl, fun _ _ _ _ => rfl, fun _ _ => rfl, fun _ => rfl, fun _ => rfl, fun _ => rfl, fun _ => rfl, fun _ => rfl, fun _ => rfl, fun _ => rfl, fun _ _ => rfl, fun _ => rfl, fun _ _ => rfl, fun _ _ _ _ => rfl⟩

@[simp] theorem State.setDie_frame (d : DieId) (k : Die) :
    (s.setDie d k).pending = s.pending ∧ (s.setDie d k).ac = s.ac ∧ (s.setDie d k).now = s.now ∧
    (s.setDie d k).free = s.free ∧ (s.setDie d k).regs = s.regs ∧ (s.setDie d k).latches = s.latches ∧
    (s.setDie d k).deferred = s.deferred ∧ (s.setDie d k).ws = s.ws ∧ (s.setDie d k).am = s.am ∧
    (s.setDie d k).psm = s.psm ∧ (s.setDie d k).cs = s.cs ∧ (s.setDie d k).tb = s.tb ∧
    (s.setDie d k).pm = s.pm ∧ (s.setDie d k).iram = s.iram ∧ (s.setDie d k).dram = s.dram ∧
    (s.setDie d k).mail = s.mail ∧ (s.setDie d k).amPoison = s.amPoison ∧ (s.setDie d k).psmPoison = s.psmPoison ∧
    (s.setDie d k).csPoison = s.csPoison ∧ (s.setDie d k).tbPoison = s.tbPoison ∧ (s.setDie d k).wsErr = s.wsErr ∧
    (s.setDie d k).amErr = s.amErr ∧ (s.setDie d k).psmErr = s.psmErr ∧ (s.setDie d k).csErr = s.csErr ∧
    (s.setDie d k).iramErr = s.iramErr ∧ (s.setDie d k).dramErr = s.dramErr ∧ (s.setDie d k).pmErr = s.pmErr ∧
    (s.setDie d k).cores = s.cores ∧ (s.setDie d k).ctxs = s.ctxs ∧ (s.setDie d k).chains = s.chains ∧
    (s.setDie d k).links = s.links ∧ (s.setDie d k).routers = s.routers ∧ (s.setDie d k).rgroups = s.rgroups ∧
    (s.setDie d k).rings = s.rings ∧ (s.setDie d k).funcs = s.funcs ∧ (s.setDie d k).mod = s.mod ∧
    (s.setDie d k).out = s.out ∧ (∀ (c' : CoreId) (w' : Nat), (s.setDie d k).psmWord c' w' = s.psmWord c' w') ∧ (∀ (c' : CoreId) (w' : Nat), (s.setDie d k).psmPois c' w' = s.psmPois c' w') ∧
    (∀ (c' : CoreId) (a' n' : Nat), (s.setDie d k).amBytes c' a' n' = s.amBytes c' a' n') ∧ (∀ (c' : CoreId) (l' : Nat), (s.setDie d k).amPois c' l' = s.amPois c' l') ∧ (∀ (c' : CoreId) (a' n' : Nat), (s.setDie d k).wsBytes c' a' n' = s.wsBytes c' a' n') ∧
    (∀ (c' : CoreId) (b' r' j' : Nat), (s.setDie d k).tbLane c' b' r' j' = s.tbLane c' b' r' j') ∧ (∀ (d' : DieId) (u' : Nat), (s.setDie d k).csUnit d' u' = s.csUnit d' u') ∧ (∀ (c' : CoreId), (s.setDie d k).core c' = s.core c') ∧
    (∀ (c' : CoreId), (s.setDie d k).arr c' = s.arr c') ∧ (∀ (x' : Ctx), (s.setDie d k).ctx x' = s.ctx x') ∧ (∀ (e' : Encl), (s.setDie d k).chain e' = s.chain e') ∧
    (∀ (l' : LinkId), (s.setDie d k).link l' = s.link l') ∧ (∀ (i' : IoId), (s.setDie d k).router i' = s.router i') ∧ (∀ (g' : Nat), (s.setDie d k).group g' = s.group g') ∧
    (∀ (v' : VfId) (r' : RingId), (s.setDie d k).ring v' r' = s.ring v' r') ∧ (∀ (f' : Nat), (s.setDie d k).func f' = s.func f') ∧ (∀ (b' : Blk) (o' : Nat), (s.setDie d k).reg b' o' = s.reg b' o') ∧
    (∀ (b' : Blk) (o' h' l' : Nat), (s.setDie d k).fld b' o' h' l' = s.fld b' o' h' l') :=
  ⟨rfl, rfl, rfl, rfl, rfl, rfl, rfl, rfl, rfl, rfl, rfl, rfl, rfl, rfl, rfl, rfl, rfl, rfl, rfl, rfl, rfl, rfl, rfl, rfl, rfl, rfl, rfl, rfl, rfl, rfl, rfl, rfl, rfl, rfl, rfl, rfl, rfl, fun _ _ => rfl, fun _ _ => rfl, fun _ _ _ => rfl, fun _ _ => rfl, fun _ _ _ => rfl, fun _ _ _ _ => rfl, fun _ _ => rfl, fun _ => rfl, fun _ => rfl, fun _ => rfl, fun _ => rfl, fun _ => rfl, fun _ => rfl, fun _ => rfl, fun _ _ => rfl, fun _ => rfl, fun _ _ => rfl, fun _ _ _ _ => rfl⟩

@[simp] theorem State.setCtx_frame (x : Ctx) (k : CtxState) :
    (s.setCtx x k).pending = s.pending ∧ (s.setCtx x k).ac = s.ac ∧ (s.setCtx x k).now = s.now ∧
    (s.setCtx x k).free = s.free ∧ (s.setCtx x k).regs = s.regs ∧ (s.setCtx x k).latches = s.latches ∧
    (s.setCtx x k).deferred = s.deferred ∧ (s.setCtx x k).ws = s.ws ∧ (s.setCtx x k).am = s.am ∧
    (s.setCtx x k).psm = s.psm ∧ (s.setCtx x k).cs = s.cs ∧ (s.setCtx x k).tb = s.tb ∧
    (s.setCtx x k).pm = s.pm ∧ (s.setCtx x k).iram = s.iram ∧ (s.setCtx x k).dram = s.dram ∧
    (s.setCtx x k).mail = s.mail ∧ (s.setCtx x k).amPoison = s.amPoison ∧ (s.setCtx x k).psmPoison = s.psmPoison ∧
    (s.setCtx x k).csPoison = s.csPoison ∧ (s.setCtx x k).tbPoison = s.tbPoison ∧ (s.setCtx x k).wsErr = s.wsErr ∧
    (s.setCtx x k).amErr = s.amErr ∧ (s.setCtx x k).psmErr = s.psmErr ∧ (s.setCtx x k).csErr = s.csErr ∧
    (s.setCtx x k).iramErr = s.iramErr ∧ (s.setCtx x k).dramErr = s.dramErr ∧ (s.setCtx x k).pmErr = s.pmErr ∧
    (s.setCtx x k).cores = s.cores ∧ (s.setCtx x k).dies = s.dies ∧ (s.setCtx x k).chains = s.chains ∧
    (s.setCtx x k).links = s.links ∧ (s.setCtx x k).routers = s.routers ∧ (s.setCtx x k).rgroups = s.rgroups ∧
    (s.setCtx x k).rings = s.rings ∧ (s.setCtx x k).funcs = s.funcs ∧ (s.setCtx x k).mod = s.mod ∧
    (s.setCtx x k).out = s.out ∧ (∀ (c' : CoreId) (w' : Nat), (s.setCtx x k).psmWord c' w' = s.psmWord c' w') ∧ (∀ (c' : CoreId) (w' : Nat), (s.setCtx x k).psmPois c' w' = s.psmPois c' w') ∧
    (∀ (c' : CoreId) (a' n' : Nat), (s.setCtx x k).amBytes c' a' n' = s.amBytes c' a' n') ∧ (∀ (c' : CoreId) (l' : Nat), (s.setCtx x k).amPois c' l' = s.amPois c' l') ∧ (∀ (c' : CoreId) (a' n' : Nat), (s.setCtx x k).wsBytes c' a' n' = s.wsBytes c' a' n') ∧
    (∀ (c' : CoreId) (b' r' j' : Nat), (s.setCtx x k).tbLane c' b' r' j' = s.tbLane c' b' r' j') ∧ (∀ (d' : DieId) (u' : Nat), (s.setCtx x k).csUnit d' u' = s.csUnit d' u') ∧ (∀ (c' : CoreId), (s.setCtx x k).core c' = s.core c') ∧
    (∀ (c' : CoreId), (s.setCtx x k).arr c' = s.arr c') ∧ (∀ (d' : DieId), (s.setCtx x k).die d' = s.die d') ∧ (∀ (d' : DieId), (s.setCtx x k).pgm d' = s.pgm d') ∧
    (∀ (e' : Encl), (s.setCtx x k).chain e' = s.chain e') ∧ (∀ (l' : LinkId), (s.setCtx x k).link l' = s.link l') ∧ (∀ (i' : IoId), (s.setCtx x k).router i' = s.router i') ∧
    (∀ (g' : Nat), (s.setCtx x k).group g' = s.group g') ∧ (∀ (v' : VfId) (r' : RingId), (s.setCtx x k).ring v' r' = s.ring v' r') ∧ (∀ (f' : Nat), (s.setCtx x k).func f' = s.func f') ∧
    (∀ (b' : Blk) (o' : Nat), (s.setCtx x k).reg b' o' = s.reg b' o') ∧ (∀ (b' : Blk) (o' h' l' : Nat), (s.setCtx x k).fld b' o' h' l' = s.fld b' o' h' l') :=
  ⟨rfl, rfl, rfl, rfl, rfl, rfl, rfl, rfl, rfl, rfl, rfl, rfl, rfl, rfl, rfl, rfl, rfl, rfl, rfl, rfl, rfl, rfl, rfl, rfl, rfl, rfl, rfl, rfl, rfl, rfl, rfl, rfl, rfl, rfl, rfl, rfl, rfl, fun _ _ => rfl, fun _ _ => rfl, fun _ _ _ => rfl, fun _ _ => rfl, fun _ _ _ => rfl, fun _ _ _ _ => rfl, fun _ _ => rfl, fun _ => rfl, fun _ => rfl, fun _ => rfl, fun _ => rfl, fun _ => rfl, fun _ => rfl, fun _ => rfl, fun _ => rfl, fun _ _ => rfl, fun _ => rfl, fun _ _ => rfl, fun _ _ _ _ => rfl⟩

@[simp] theorem State.setChain_frame (e : Encl) (k : Chain) :
    (s.setChain e k).pending = s.pending ∧ (s.setChain e k).ac = s.ac ∧ (s.setChain e k).now = s.now ∧
    (s.setChain e k).free = s.free ∧ (s.setChain e k).regs = s.regs ∧ (s.setChain e k).latches = s.latches ∧
    (s.setChain e k).deferred = s.deferred ∧ (s.setChain e k).ws = s.ws ∧ (s.setChain e k).am = s.am ∧
    (s.setChain e k).psm = s.psm ∧ (s.setChain e k).cs = s.cs ∧ (s.setChain e k).tb = s.tb ∧
    (s.setChain e k).pm = s.pm ∧ (s.setChain e k).iram = s.iram ∧ (s.setChain e k).dram = s.dram ∧
    (s.setChain e k).mail = s.mail ∧ (s.setChain e k).amPoison = s.amPoison ∧ (s.setChain e k).psmPoison = s.psmPoison ∧
    (s.setChain e k).csPoison = s.csPoison ∧ (s.setChain e k).tbPoison = s.tbPoison ∧ (s.setChain e k).wsErr = s.wsErr ∧
    (s.setChain e k).amErr = s.amErr ∧ (s.setChain e k).psmErr = s.psmErr ∧ (s.setChain e k).csErr = s.csErr ∧
    (s.setChain e k).iramErr = s.iramErr ∧ (s.setChain e k).dramErr = s.dramErr ∧ (s.setChain e k).pmErr = s.pmErr ∧
    (s.setChain e k).cores = s.cores ∧ (s.setChain e k).dies = s.dies ∧ (s.setChain e k).ctxs = s.ctxs ∧
    (s.setChain e k).links = s.links ∧ (s.setChain e k).routers = s.routers ∧ (s.setChain e k).rgroups = s.rgroups ∧
    (s.setChain e k).rings = s.rings ∧ (s.setChain e k).funcs = s.funcs ∧ (s.setChain e k).mod = s.mod ∧
    (s.setChain e k).out = s.out ∧ (∀ (c' : CoreId) (w' : Nat), (s.setChain e k).psmWord c' w' = s.psmWord c' w') ∧ (∀ (c' : CoreId) (w' : Nat), (s.setChain e k).psmPois c' w' = s.psmPois c' w') ∧
    (∀ (c' : CoreId) (a' n' : Nat), (s.setChain e k).amBytes c' a' n' = s.amBytes c' a' n') ∧ (∀ (c' : CoreId) (l' : Nat), (s.setChain e k).amPois c' l' = s.amPois c' l') ∧ (∀ (c' : CoreId) (a' n' : Nat), (s.setChain e k).wsBytes c' a' n' = s.wsBytes c' a' n') ∧
    (∀ (c' : CoreId) (b' r' j' : Nat), (s.setChain e k).tbLane c' b' r' j' = s.tbLane c' b' r' j') ∧ (∀ (d' : DieId) (u' : Nat), (s.setChain e k).csUnit d' u' = s.csUnit d' u') ∧ (∀ (c' : CoreId), (s.setChain e k).core c' = s.core c') ∧
    (∀ (c' : CoreId), (s.setChain e k).arr c' = s.arr c') ∧ (∀ (d' : DieId), (s.setChain e k).die d' = s.die d') ∧ (∀ (d' : DieId), (s.setChain e k).pgm d' = s.pgm d') ∧
    (∀ (x' : Ctx), (s.setChain e k).ctx x' = s.ctx x') ∧ (∀ (l' : LinkId), (s.setChain e k).link l' = s.link l') ∧ (∀ (i' : IoId), (s.setChain e k).router i' = s.router i') ∧
    (∀ (g' : Nat), (s.setChain e k).group g' = s.group g') ∧ (∀ (v' : VfId) (r' : RingId), (s.setChain e k).ring v' r' = s.ring v' r') ∧ (∀ (f' : Nat), (s.setChain e k).func f' = s.func f') ∧
    (∀ (b' : Blk) (o' : Nat), (s.setChain e k).reg b' o' = s.reg b' o') ∧ (∀ (b' : Blk) (o' h' l' : Nat), (s.setChain e k).fld b' o' h' l' = s.fld b' o' h' l') :=
  ⟨rfl, rfl, rfl, rfl, rfl, rfl, rfl, rfl, rfl, rfl, rfl, rfl, rfl, rfl, rfl, rfl, rfl, rfl, rfl, rfl, rfl, rfl, rfl, rfl, rfl, rfl, rfl, rfl, rfl, rfl, rfl, rfl, rfl, rfl, rfl, rfl, rfl, fun _ _ => rfl, fun _ _ => rfl, fun _ _ _ => rfl, fun _ _ => rfl, fun _ _ _ => rfl, fun _ _ _ _ => rfl, fun _ _ => rfl, fun _ => rfl, fun _ => rfl, fun _ => rfl, fun _ => rfl, fun _ => rfl, fun _ => rfl, fun _ => rfl, fun _ => rfl, fun _ _ => rfl, fun _ => rfl, fun _ _ => rfl, fun _ _ _ _ => rfl⟩

@[simp] theorem State.setLink_frame (l : LinkId) (k : Link) :
    (s.setLink l k).pending = s.pending ∧ (s.setLink l k).ac = s.ac ∧ (s.setLink l k).now = s.now ∧
    (s.setLink l k).free = s.free ∧ (s.setLink l k).regs = s.regs ∧ (s.setLink l k).latches = s.latches ∧
    (s.setLink l k).deferred = s.deferred ∧ (s.setLink l k).ws = s.ws ∧ (s.setLink l k).am = s.am ∧
    (s.setLink l k).psm = s.psm ∧ (s.setLink l k).cs = s.cs ∧ (s.setLink l k).tb = s.tb ∧
    (s.setLink l k).pm = s.pm ∧ (s.setLink l k).iram = s.iram ∧ (s.setLink l k).dram = s.dram ∧
    (s.setLink l k).mail = s.mail ∧ (s.setLink l k).amPoison = s.amPoison ∧ (s.setLink l k).psmPoison = s.psmPoison ∧
    (s.setLink l k).csPoison = s.csPoison ∧ (s.setLink l k).tbPoison = s.tbPoison ∧ (s.setLink l k).wsErr = s.wsErr ∧
    (s.setLink l k).amErr = s.amErr ∧ (s.setLink l k).psmErr = s.psmErr ∧ (s.setLink l k).csErr = s.csErr ∧
    (s.setLink l k).iramErr = s.iramErr ∧ (s.setLink l k).dramErr = s.dramErr ∧ (s.setLink l k).pmErr = s.pmErr ∧
    (s.setLink l k).cores = s.cores ∧ (s.setLink l k).dies = s.dies ∧ (s.setLink l k).ctxs = s.ctxs ∧
    (s.setLink l k).chains = s.chains ∧ (s.setLink l k).routers = s.routers ∧ (s.setLink l k).rgroups = s.rgroups ∧
    (s.setLink l k).rings = s.rings ∧ (s.setLink l k).funcs = s.funcs ∧ (s.setLink l k).mod = s.mod ∧
    (s.setLink l k).out = s.out ∧ (∀ (c' : CoreId) (w' : Nat), (s.setLink l k).psmWord c' w' = s.psmWord c' w') ∧ (∀ (c' : CoreId) (w' : Nat), (s.setLink l k).psmPois c' w' = s.psmPois c' w') ∧
    (∀ (c' : CoreId) (a' n' : Nat), (s.setLink l k).amBytes c' a' n' = s.amBytes c' a' n') ∧ (∀ (c' : CoreId) (l' : Nat), (s.setLink l k).amPois c' l' = s.amPois c' l') ∧ (∀ (c' : CoreId) (a' n' : Nat), (s.setLink l k).wsBytes c' a' n' = s.wsBytes c' a' n') ∧
    (∀ (c' : CoreId) (b' r' j' : Nat), (s.setLink l k).tbLane c' b' r' j' = s.tbLane c' b' r' j') ∧ (∀ (d' : DieId) (u' : Nat), (s.setLink l k).csUnit d' u' = s.csUnit d' u') ∧ (∀ (c' : CoreId), (s.setLink l k).core c' = s.core c') ∧
    (∀ (c' : CoreId), (s.setLink l k).arr c' = s.arr c') ∧ (∀ (d' : DieId), (s.setLink l k).die d' = s.die d') ∧ (∀ (d' : DieId), (s.setLink l k).pgm d' = s.pgm d') ∧
    (∀ (x' : Ctx), (s.setLink l k).ctx x' = s.ctx x') ∧ (∀ (e' : Encl), (s.setLink l k).chain e' = s.chain e') ∧ (∀ (i' : IoId), (s.setLink l k).router i' = s.router i') ∧
    (∀ (g' : Nat), (s.setLink l k).group g' = s.group g') ∧ (∀ (v' : VfId) (r' : RingId), (s.setLink l k).ring v' r' = s.ring v' r') ∧ (∀ (f' : Nat), (s.setLink l k).func f' = s.func f') ∧
    (∀ (b' : Blk) (o' : Nat), (s.setLink l k).reg b' o' = s.reg b' o') ∧ (∀ (b' : Blk) (o' h' l' : Nat), (s.setLink l k).fld b' o' h' l' = s.fld b' o' h' l') :=
  ⟨rfl, rfl, rfl, rfl, rfl, rfl, rfl, rfl, rfl, rfl, rfl, rfl, rfl, rfl, rfl, rfl, rfl, rfl, rfl, rfl, rfl, rfl, rfl, rfl, rfl, rfl, rfl, rfl, rfl, rfl, rfl, rfl, rfl, rfl, rfl, rfl, rfl, fun _ _ => rfl, fun _ _ => rfl, fun _ _ _ => rfl, fun _ _ => rfl, fun _ _ _ => rfl, fun _ _ _ _ => rfl, fun _ _ => rfl, fun _ => rfl, fun _ => rfl, fun _ => rfl, fun _ => rfl, fun _ => rfl, fun _ => rfl, fun _ => rfl, fun _ => rfl, fun _ _ => rfl, fun _ => rfl, fun _ _ => rfl, fun _ _ _ _ => rfl⟩

@[simp] theorem State.setRouter_frame (i : IoId) (k : Router) :
    (s.setRouter i k).pending = s.pending ∧ (s.setRouter i k).ac = s.ac ∧ (s.setRouter i k).now = s.now ∧
    (s.setRouter i k).free = s.free ∧ (s.setRouter i k).regs = s.regs ∧ (s.setRouter i k).latches = s.latches ∧
    (s.setRouter i k).deferred = s.deferred ∧ (s.setRouter i k).ws = s.ws ∧ (s.setRouter i k).am = s.am ∧
    (s.setRouter i k).psm = s.psm ∧ (s.setRouter i k).cs = s.cs ∧ (s.setRouter i k).tb = s.tb ∧
    (s.setRouter i k).pm = s.pm ∧ (s.setRouter i k).iram = s.iram ∧ (s.setRouter i k).dram = s.dram ∧
    (s.setRouter i k).mail = s.mail ∧ (s.setRouter i k).amPoison = s.amPoison ∧ (s.setRouter i k).psmPoison = s.psmPoison ∧
    (s.setRouter i k).csPoison = s.csPoison ∧ (s.setRouter i k).tbPoison = s.tbPoison ∧ (s.setRouter i k).wsErr = s.wsErr ∧
    (s.setRouter i k).amErr = s.amErr ∧ (s.setRouter i k).psmErr = s.psmErr ∧ (s.setRouter i k).csErr = s.csErr ∧
    (s.setRouter i k).iramErr = s.iramErr ∧ (s.setRouter i k).dramErr = s.dramErr ∧ (s.setRouter i k).pmErr = s.pmErr ∧
    (s.setRouter i k).cores = s.cores ∧ (s.setRouter i k).dies = s.dies ∧ (s.setRouter i k).ctxs = s.ctxs ∧
    (s.setRouter i k).chains = s.chains ∧ (s.setRouter i k).links = s.links ∧ (s.setRouter i k).rgroups = s.rgroups ∧
    (s.setRouter i k).rings = s.rings ∧ (s.setRouter i k).funcs = s.funcs ∧ (s.setRouter i k).mod = s.mod ∧
    (s.setRouter i k).out = s.out ∧ (∀ (c' : CoreId) (w' : Nat), (s.setRouter i k).psmWord c' w' = s.psmWord c' w') ∧ (∀ (c' : CoreId) (w' : Nat), (s.setRouter i k).psmPois c' w' = s.psmPois c' w') ∧
    (∀ (c' : CoreId) (a' n' : Nat), (s.setRouter i k).amBytes c' a' n' = s.amBytes c' a' n') ∧ (∀ (c' : CoreId) (l' : Nat), (s.setRouter i k).amPois c' l' = s.amPois c' l') ∧ (∀ (c' : CoreId) (a' n' : Nat), (s.setRouter i k).wsBytes c' a' n' = s.wsBytes c' a' n') ∧
    (∀ (c' : CoreId) (b' r' j' : Nat), (s.setRouter i k).tbLane c' b' r' j' = s.tbLane c' b' r' j') ∧ (∀ (d' : DieId) (u' : Nat), (s.setRouter i k).csUnit d' u' = s.csUnit d' u') ∧ (∀ (c' : CoreId), (s.setRouter i k).core c' = s.core c') ∧
    (∀ (c' : CoreId), (s.setRouter i k).arr c' = s.arr c') ∧ (∀ (d' : DieId), (s.setRouter i k).die d' = s.die d') ∧ (∀ (d' : DieId), (s.setRouter i k).pgm d' = s.pgm d') ∧
    (∀ (x' : Ctx), (s.setRouter i k).ctx x' = s.ctx x') ∧ (∀ (e' : Encl), (s.setRouter i k).chain e' = s.chain e') ∧ (∀ (l' : LinkId), (s.setRouter i k).link l' = s.link l') ∧
    (∀ (g' : Nat), (s.setRouter i k).group g' = s.group g') ∧ (∀ (v' : VfId) (r' : RingId), (s.setRouter i k).ring v' r' = s.ring v' r') ∧ (∀ (f' : Nat), (s.setRouter i k).func f' = s.func f') ∧
    (∀ (b' : Blk) (o' : Nat), (s.setRouter i k).reg b' o' = s.reg b' o') ∧ (∀ (b' : Blk) (o' h' l' : Nat), (s.setRouter i k).fld b' o' h' l' = s.fld b' o' h' l') :=
  ⟨rfl, rfl, rfl, rfl, rfl, rfl, rfl, rfl, rfl, rfl, rfl, rfl, rfl, rfl, rfl, rfl, rfl, rfl, rfl, rfl, rfl, rfl, rfl, rfl, rfl, rfl, rfl, rfl, rfl, rfl, rfl, rfl, rfl, rfl, rfl, rfl, rfl, fun _ _ => rfl, fun _ _ => rfl, fun _ _ _ => rfl, fun _ _ => rfl, fun _ _ _ => rfl, fun _ _ _ _ => rfl, fun _ _ => rfl, fun _ => rfl, fun _ => rfl, fun _ => rfl, fun _ => rfl, fun _ => rfl, fun _ => rfl, fun _ => rfl, fun _ => rfl, fun _ _ => rfl, fun _ => rfl, fun _ _ => rfl, fun _ _ _ _ => rfl⟩

@[simp] theorem State.setGroup_frame (g : Nat) (k : Group) :
    (s.setGroup g k).pending = s.pending ∧ (s.setGroup g k).ac = s.ac ∧ (s.setGroup g k).now = s.now ∧
    (s.setGroup g k).free = s.free ∧ (s.setGroup g k).regs = s.regs ∧ (s.setGroup g k).latches = s.latches ∧
    (s.setGroup g k).deferred = s.deferred ∧ (s.setGroup g k).ws = s.ws ∧ (s.setGroup g k).am = s.am ∧
    (s.setGroup g k).psm = s.psm ∧ (s.setGroup g k).cs = s.cs ∧ (s.setGroup g k).tb = s.tb ∧
    (s.setGroup g k).pm = s.pm ∧ (s.setGroup g k).iram = s.iram ∧ (s.setGroup g k).dram = s.dram ∧
    (s.setGroup g k).mail = s.mail ∧ (s.setGroup g k).amPoison = s.amPoison ∧ (s.setGroup g k).psmPoison = s.psmPoison ∧
    (s.setGroup g k).csPoison = s.csPoison ∧ (s.setGroup g k).tbPoison = s.tbPoison ∧ (s.setGroup g k).wsErr = s.wsErr ∧
    (s.setGroup g k).amErr = s.amErr ∧ (s.setGroup g k).psmErr = s.psmErr ∧ (s.setGroup g k).csErr = s.csErr ∧
    (s.setGroup g k).iramErr = s.iramErr ∧ (s.setGroup g k).dramErr = s.dramErr ∧ (s.setGroup g k).pmErr = s.pmErr ∧
    (s.setGroup g k).cores = s.cores ∧ (s.setGroup g k).dies = s.dies ∧ (s.setGroup g k).ctxs = s.ctxs ∧
    (s.setGroup g k).chains = s.chains ∧ (s.setGroup g k).links = s.links ∧ (s.setGroup g k).routers = s.routers ∧
    (s.setGroup g k).rings = s.rings ∧ (s.setGroup g k).funcs = s.funcs ∧ (s.setGroup g k).mod = s.mod ∧
    (s.setGroup g k).out = s.out ∧ (∀ (c' : CoreId) (w' : Nat), (s.setGroup g k).psmWord c' w' = s.psmWord c' w') ∧ (∀ (c' : CoreId) (w' : Nat), (s.setGroup g k).psmPois c' w' = s.psmPois c' w') ∧
    (∀ (c' : CoreId) (a' n' : Nat), (s.setGroup g k).amBytes c' a' n' = s.amBytes c' a' n') ∧ (∀ (c' : CoreId) (l' : Nat), (s.setGroup g k).amPois c' l' = s.amPois c' l') ∧ (∀ (c' : CoreId) (a' n' : Nat), (s.setGroup g k).wsBytes c' a' n' = s.wsBytes c' a' n') ∧
    (∀ (c' : CoreId) (b' r' j' : Nat), (s.setGroup g k).tbLane c' b' r' j' = s.tbLane c' b' r' j') ∧ (∀ (d' : DieId) (u' : Nat), (s.setGroup g k).csUnit d' u' = s.csUnit d' u') ∧ (∀ (c' : CoreId), (s.setGroup g k).core c' = s.core c') ∧
    (∀ (c' : CoreId), (s.setGroup g k).arr c' = s.arr c') ∧ (∀ (d' : DieId), (s.setGroup g k).die d' = s.die d') ∧ (∀ (d' : DieId), (s.setGroup g k).pgm d' = s.pgm d') ∧
    (∀ (x' : Ctx), (s.setGroup g k).ctx x' = s.ctx x') ∧ (∀ (e' : Encl), (s.setGroup g k).chain e' = s.chain e') ∧ (∀ (l' : LinkId), (s.setGroup g k).link l' = s.link l') ∧
    (∀ (i' : IoId), (s.setGroup g k).router i' = s.router i') ∧ (∀ (v' : VfId) (r' : RingId), (s.setGroup g k).ring v' r' = s.ring v' r') ∧ (∀ (f' : Nat), (s.setGroup g k).func f' = s.func f') ∧
    (∀ (b' : Blk) (o' : Nat), (s.setGroup g k).reg b' o' = s.reg b' o') ∧ (∀ (b' : Blk) (o' h' l' : Nat), (s.setGroup g k).fld b' o' h' l' = s.fld b' o' h' l') :=
  ⟨rfl, rfl, rfl, rfl, rfl, rfl, rfl, rfl, rfl, rfl, rfl, rfl, rfl, rfl, rfl, rfl, rfl, rfl, rfl, rfl, rfl, rfl, rfl, rfl, rfl, rfl, rfl, rfl, rfl, rfl, rfl, rfl, rfl, rfl, rfl, rfl, rfl, fun _ _ => rfl, fun _ _ => rfl, fun _ _ _ => rfl, fun _ _ => rfl, fun _ _ _ => rfl, fun _ _ _ _ => rfl, fun _ _ => rfl, fun _ => rfl, fun _ => rfl, fun _ => rfl, fun _ => rfl, fun _ => rfl, fun _ => rfl, fun _ => rfl, fun _ => rfl, fun _ _ => rfl, fun _ => rfl, fun _ _ => rfl, fun _ _ _ _ => rfl⟩

@[simp] theorem State.setRing_frame (v : VfId) (r : RingId) (k : Ring) :
    (s.setRing v r k).pending = s.pending ∧ (s.setRing v r k).ac = s.ac ∧ (s.setRing v r k).now = s.now ∧
    (s.setRing v r k).free = s.free ∧ (s.setRing v r k).regs = s.regs ∧ (s.setRing v r k).latches = s.latches ∧
    (s.setRing v r k).deferred = s.deferred ∧ (s.setRing v r k).ws = s.ws ∧ (s.setRing v r k).am = s.am ∧
    (s.setRing v r k).psm = s.psm ∧ (s.setRing v r k).cs = s.cs ∧ (s.setRing v r k).tb = s.tb ∧
    (s.setRing v r k).pm = s.pm ∧ (s.setRing v r k).iram = s.iram ∧ (s.setRing v r k).dram = s.dram ∧
    (s.setRing v r k).mail = s.mail ∧ (s.setRing v r k).amPoison = s.amPoison ∧ (s.setRing v r k).psmPoison = s.psmPoison ∧
    (s.setRing v r k).csPoison = s.csPoison ∧ (s.setRing v r k).tbPoison = s.tbPoison ∧ (s.setRing v r k).wsErr = s.wsErr ∧
    (s.setRing v r k).amErr = s.amErr ∧ (s.setRing v r k).psmErr = s.psmErr ∧ (s.setRing v r k).csErr = s.csErr ∧
    (s.setRing v r k).iramErr = s.iramErr ∧ (s.setRing v r k).dramErr = s.dramErr ∧ (s.setRing v r k).pmErr = s.pmErr ∧
    (s.setRing v r k).cores = s.cores ∧ (s.setRing v r k).dies = s.dies ∧ (s.setRing v r k).ctxs = s.ctxs ∧
    (s.setRing v r k).chains = s.chains ∧ (s.setRing v r k).links = s.links ∧ (s.setRing v r k).routers = s.routers ∧
    (s.setRing v r k).rgroups = s.rgroups ∧ (s.setRing v r k).funcs = s.funcs ∧ (s.setRing v r k).mod = s.mod ∧
    (s.setRing v r k).out = s.out ∧ (∀ (c' : CoreId) (w' : Nat), (s.setRing v r k).psmWord c' w' = s.psmWord c' w') ∧ (∀ (c' : CoreId) (w' : Nat), (s.setRing v r k).psmPois c' w' = s.psmPois c' w') ∧
    (∀ (c' : CoreId) (a' n' : Nat), (s.setRing v r k).amBytes c' a' n' = s.amBytes c' a' n') ∧ (∀ (c' : CoreId) (l' : Nat), (s.setRing v r k).amPois c' l' = s.amPois c' l') ∧ (∀ (c' : CoreId) (a' n' : Nat), (s.setRing v r k).wsBytes c' a' n' = s.wsBytes c' a' n') ∧
    (∀ (c' : CoreId) (b' r' j' : Nat), (s.setRing v r k).tbLane c' b' r' j' = s.tbLane c' b' r' j') ∧ (∀ (d' : DieId) (u' : Nat), (s.setRing v r k).csUnit d' u' = s.csUnit d' u') ∧ (∀ (c' : CoreId), (s.setRing v r k).core c' = s.core c') ∧
    (∀ (c' : CoreId), (s.setRing v r k).arr c' = s.arr c') ∧ (∀ (d' : DieId), (s.setRing v r k).die d' = s.die d') ∧ (∀ (d' : DieId), (s.setRing v r k).pgm d' = s.pgm d') ∧
    (∀ (x' : Ctx), (s.setRing v r k).ctx x' = s.ctx x') ∧ (∀ (e' : Encl), (s.setRing v r k).chain e' = s.chain e') ∧ (∀ (l' : LinkId), (s.setRing v r k).link l' = s.link l') ∧
    (∀ (i' : IoId), (s.setRing v r k).router i' = s.router i') ∧ (∀ (g' : Nat), (s.setRing v r k).group g' = s.group g') ∧ (∀ (f' : Nat), (s.setRing v r k).func f' = s.func f') ∧
    (∀ (b' : Blk) (o' : Nat), (s.setRing v r k).reg b' o' = s.reg b' o') ∧ (∀ (b' : Blk) (o' h' l' : Nat), (s.setRing v r k).fld b' o' h' l' = s.fld b' o' h' l') :=
  ⟨rfl, rfl, rfl, rfl, rfl, rfl, rfl, rfl, rfl, rfl, rfl, rfl, rfl, rfl, rfl, rfl, rfl, rfl, rfl, rfl, rfl, rfl, rfl, rfl, rfl, rfl, rfl, rfl, rfl, rfl, rfl, rfl, rfl, rfl, rfl, rfl, rfl, fun _ _ => rfl, fun _ _ => rfl, fun _ _ _ => rfl, fun _ _ => rfl, fun _ _ _ => rfl, fun _ _ _ _ => rfl, fun _ _ => rfl, fun _ => rfl, fun _ => rfl, fun _ => rfl, fun _ => rfl, fun _ => rfl, fun _ => rfl, fun _ => rfl, fun _ => rfl, fun _ => rfl, fun _ => rfl, fun _ _ => rfl, fun _ _ _ _ => rfl⟩

@[simp] theorem State.setFunc_frame (n : Nat) (k : Func) :
    (s.setFunc n k).pending = s.pending ∧ (s.setFunc n k).ac = s.ac ∧ (s.setFunc n k).now = s.now ∧
    (s.setFunc n k).free = s.free ∧ (s.setFunc n k).regs = s.regs ∧ (s.setFunc n k).latches = s.latches ∧
    (s.setFunc n k).deferred = s.deferred ∧ (s.setFunc n k).ws = s.ws ∧ (s.setFunc n k).am = s.am ∧
    (s.setFunc n k).psm = s.psm ∧ (s.setFunc n k).cs = s.cs ∧ (s.setFunc n k).tb = s.tb ∧
    (s.setFunc n k).pm = s.pm ∧ (s.setFunc n k).iram = s.iram ∧ (s.setFunc n k).dram = s.dram ∧
    (s.setFunc n k).mail = s.mail ∧ (s.setFunc n k).amPoison = s.amPoison ∧ (s.setFunc n k).psmPoison = s.psmPoison ∧
    (s.setFunc n k).csPoison = s.csPoison ∧ (s.setFunc n k).tbPoison = s.tbPoison ∧ (s.setFunc n k).wsErr = s.wsErr ∧
    (s.setFunc n k).amErr = s.amErr ∧ (s.setFunc n k).psmErr = s.psmErr ∧ (s.setFunc n k).csErr = s.csErr ∧
    (s.setFunc n k).iramErr = s.iramErr ∧ (s.setFunc n k).dramErr = s.dramErr ∧ (s.setFunc n k).pmErr = s.pmErr ∧
    (s.setFunc n k).cores = s.cores ∧ (s.setFunc n k).dies = s.dies ∧ (s.setFunc n k).ctxs = s.ctxs ∧
    (s.setFunc n k).chains = s.chains ∧ (s.setFunc n k).links = s.links ∧ (s.setFunc n k).routers = s.routers ∧
    (s.setFunc n k).rgroups = s.rgroups ∧ (s.setFunc n k).rings = s.rings ∧ (s.setFunc n k).mod = s.mod ∧
    (s.setFunc n k).out = s.out ∧ (∀ (c' : CoreId) (w' : Nat), (s.setFunc n k).psmWord c' w' = s.psmWord c' w') ∧ (∀ (c' : CoreId) (w' : Nat), (s.setFunc n k).psmPois c' w' = s.psmPois c' w') ∧
    (∀ (c' : CoreId) (a' n' : Nat), (s.setFunc n k).amBytes c' a' n' = s.amBytes c' a' n') ∧ (∀ (c' : CoreId) (l' : Nat), (s.setFunc n k).amPois c' l' = s.amPois c' l') ∧ (∀ (c' : CoreId) (a' n' : Nat), (s.setFunc n k).wsBytes c' a' n' = s.wsBytes c' a' n') ∧
    (∀ (c' : CoreId) (b' r' j' : Nat), (s.setFunc n k).tbLane c' b' r' j' = s.tbLane c' b' r' j') ∧ (∀ (d' : DieId) (u' : Nat), (s.setFunc n k).csUnit d' u' = s.csUnit d' u') ∧ (∀ (c' : CoreId), (s.setFunc n k).core c' = s.core c') ∧
    (∀ (c' : CoreId), (s.setFunc n k).arr c' = s.arr c') ∧ (∀ (d' : DieId), (s.setFunc n k).die d' = s.die d') ∧ (∀ (d' : DieId), (s.setFunc n k).pgm d' = s.pgm d') ∧
    (∀ (x' : Ctx), (s.setFunc n k).ctx x' = s.ctx x') ∧ (∀ (e' : Encl), (s.setFunc n k).chain e' = s.chain e') ∧ (∀ (l' : LinkId), (s.setFunc n k).link l' = s.link l') ∧
    (∀ (i' : IoId), (s.setFunc n k).router i' = s.router i') ∧ (∀ (g' : Nat), (s.setFunc n k).group g' = s.group g') ∧ (∀ (v' : VfId) (r' : RingId), (s.setFunc n k).ring v' r' = s.ring v' r') ∧
    (∀ (b' : Blk) (o' : Nat), (s.setFunc n k).reg b' o' = s.reg b' o') ∧ (∀ (b' : Blk) (o' h' l' : Nat), (s.setFunc n k).fld b' o' h' l' = s.fld b' o' h' l') :=
  ⟨rfl, rfl, rfl, rfl, rfl, rfl, rfl, rfl, rfl, rfl, rfl, rfl, rfl, rfl, rfl, rfl, rfl, rfl, rfl, rfl, rfl, rfl, rfl, rfl, rfl, rfl, rfl, rfl, rfl, rfl, rfl, rfl, rfl, rfl, rfl, rfl, rfl, fun _ _ => rfl, fun _ _ => rfl, fun _ _ _ => rfl, fun _ _ => rfl, fun _ _ _ => rfl, fun _ _ _ _ => rfl, fun _ _ => rfl, fun _ => rfl, fun _ => rfl, fun _ => rfl, fun _ => rfl, fun _ => rfl, fun _ => rfl, fun _ => rfl, fun _ => rfl, fun _ => rfl, fun _ _ => rfl, fun _ _ => rfl, fun _ _ _ _ => rfl⟩

@[simp] theorem State.onMod_frame (g : Mod → Mod) :
    (s.onMod g).pending = s.pending ∧ (s.onMod g).ac = s.ac ∧ (s.onMod g).now = s.now ∧
    (s.onMod g).free = s.free ∧ (s.onMod g).regs = s.regs ∧ (s.onMod g).latches = s.latches ∧
    (s.onMod g).deferred = s.deferred ∧ (s.onMod g).ws = s.ws ∧ (s.onMod g).am = s.am ∧
    (s.onMod g).psm = s.psm ∧ (s.onMod g).cs = s.cs ∧ (s.onMod g).tb = s.tb ∧
    (s.onMod g).pm = s.pm ∧ (s.onMod g).iram = s.iram ∧ (s.onMod g).dram = s.dram ∧
    (s.onMod g).mail = s.mail ∧ (s.onMod g).amPoison = s.amPoison ∧ (s.onMod g).psmPoison = s.psmPoison ∧
    (s.onMod g).csPoison = s.csPoison ∧ (s.onMod g).tbPoison = s.tbPoison ∧ (s.onMod g).wsErr = s.wsErr ∧
    (s.onMod g).amErr = s.amErr ∧ (s.onMod g).psmErr = s.psmErr ∧ (s.onMod g).csErr = s.csErr ∧
    (s.onMod g).iramErr = s.iramErr ∧ (s.onMod g).dramErr = s.dramErr ∧ (s.onMod g).pmErr = s.pmErr ∧
    (s.onMod g).cores = s.cores ∧ (s.onMod g).dies = s.dies ∧ (s.onMod g).ctxs = s.ctxs ∧
    (s.onMod g).chains = s.chains ∧ (s.onMod g).links = s.links ∧ (s.onMod g).routers = s.routers ∧
    (s.onMod g).rgroups = s.rgroups ∧ (s.onMod g).rings = s.rings ∧ (s.onMod g).funcs = s.funcs ∧
    (s.onMod g).out = s.out ∧ (∀ (c' : CoreId) (w' : Nat), (s.onMod g).psmWord c' w' = s.psmWord c' w') ∧ (∀ (c' : CoreId) (w' : Nat), (s.onMod g).psmPois c' w' = s.psmPois c' w') ∧
    (∀ (c' : CoreId) (a' n' : Nat), (s.onMod g).amBytes c' a' n' = s.amBytes c' a' n') ∧ (∀ (c' : CoreId) (l' : Nat), (s.onMod g).amPois c' l' = s.amPois c' l') ∧ (∀ (c' : CoreId) (a' n' : Nat), (s.onMod g).wsBytes c' a' n' = s.wsBytes c' a' n') ∧
    (∀ (c' : CoreId) (b' r' j' : Nat), (s.onMod g).tbLane c' b' r' j' = s.tbLane c' b' r' j') ∧ (∀ (d' : DieId) (u' : Nat), (s.onMod g).csUnit d' u' = s.csUnit d' u') ∧ (∀ (c' : CoreId), (s.onMod g).core c' = s.core c') ∧
    (∀ (c' : CoreId), (s.onMod g).arr c' = s.arr c') ∧ (∀ (d' : DieId), (s.onMod g).die d' = s.die d') ∧ (∀ (d' : DieId), (s.onMod g).pgm d' = s.pgm d') ∧
    (∀ (x' : Ctx), (s.onMod g).ctx x' = s.ctx x') ∧ (∀ (e' : Encl), (s.onMod g).chain e' = s.chain e') ∧ (∀ (l' : LinkId), (s.onMod g).link l' = s.link l') ∧
    (∀ (i' : IoId), (s.onMod g).router i' = s.router i') ∧ (∀ (g' : Nat), (s.onMod g).group g' = s.group g') ∧ (∀ (v' : VfId) (r' : RingId), (s.onMod g).ring v' r' = s.ring v' r') ∧
    (∀ (f' : Nat), (s.onMod g).func f' = s.func f') ∧ (∀ (b' : Blk) (o' : Nat), (s.onMod g).reg b' o' = s.reg b' o') ∧ (∀ (b' : Blk) (o' h' l' : Nat), (s.onMod g).fld b' o' h' l' = s.fld b' o' h' l') :=
  ⟨rfl, rfl, rfl, rfl, rfl, rfl, rfl, rfl, rfl, rfl, rfl, rfl, rfl, rfl, rfl, rfl, rfl, rfl, rfl, rfl, rfl, rfl, rfl, rfl, rfl, rfl, rfl, rfl, rfl, rfl, rfl, rfl, rfl, rfl, rfl, rfl, rfl, fun _ _ => rfl, fun _ _ => rfl, fun _ _ _ => rfl, fun _ _ => rfl, fun _ _ _ => rfl, fun _ _ _ _ => rfl, fun _ _ => rfl, fun _ => rfl, fun _ => rfl, fun _ => rfl, fun _ => rfl, fun _ => rfl, fun _ => rfl, fun _ => rfl, fun _ => rfl, fun _ => rfl, fun _ _ => rfl, fun _ => rfl, fun _ _ => rfl, fun _ _ _ _ => rfl⟩

@[simp] theorem State.emit_frame (o : Out) :
    (s.emit o).pending = s.pending ∧ (s.emit o).ac = s.ac ∧ (s.emit o).now = s.now ∧
    (s.emit o).free = s.free ∧ (s.emit o).regs = s.regs ∧ (s.emit o).latches = s.latches ∧
    (s.emit o).deferred = s.deferred ∧ (s.emit o).ws = s.ws ∧ (s.emit o).am = s.am ∧
    (s.emit o).psm = s.psm ∧ (s.emit o).cs = s.cs ∧ (s.emit o).tb = s.tb ∧
    (s.emit o).pm = s.pm ∧ (s.emit o).iram = s.iram ∧ (s.emit o).dram = s.dram ∧
    (s.emit o).mail = s.mail ∧ (s.emit o).amPoison = s.amPoison ∧ (s.emit o).psmPoison = s.psmPoison ∧
    (s.emit o).csPoison = s.csPoison ∧ (s.emit o).tbPoison = s.tbPoison ∧ (s.emit o).wsErr = s.wsErr ∧
    (s.emit o).amErr = s.amErr ∧ (s.emit o).psmErr = s.psmErr ∧ (s.emit o).csErr = s.csErr ∧
    (s.emit o).iramErr = s.iramErr ∧ (s.emit o).dramErr = s.dramErr ∧ (s.emit o).pmErr = s.pmErr ∧
    (s.emit o).cores = s.cores ∧ (s.emit o).dies = s.dies ∧ (s.emit o).ctxs = s.ctxs ∧
    (s.emit o).chains = s.chains ∧ (s.emit o).links = s.links ∧ (s.emit o).routers = s.routers ∧
    (s.emit o).rgroups = s.rgroups ∧ (s.emit o).rings = s.rings ∧ (s.emit o).funcs = s.funcs ∧
    (s.emit o).mod = s.mod ∧ (∀ (c' : CoreId) (w' : Nat), (s.emit o).psmWord c' w' = s.psmWord c' w') ∧ (∀ (c' : CoreId) (w' : Nat), (s.emit o).psmPois c' w' = s.psmPois c' w') ∧
    (∀ (c' : CoreId) (a' n' : Nat), (s.emit o).amBytes c' a' n' = s.amBytes c' a' n') ∧ (∀ (c' : CoreId) (l' : Nat), (s.emit o).amPois c' l' = s.amPois c' l') ∧ (∀ (c' : CoreId) (a' n' : Nat), (s.emit o).wsBytes c' a' n' = s.wsBytes c' a' n') ∧
    (∀ (c' : CoreId) (b' r' j' : Nat), (s.emit o).tbLane c' b' r' j' = s.tbLane c' b' r' j') ∧ (∀ (d' : DieId) (u' : Nat), (s.emit o).csUnit d' u' = s.csUnit d' u') ∧ (∀ (c' : CoreId), (s.emit o).core c' = s.core c') ∧
    (∀ (c' : CoreId), (s.emit o).arr c' = s.arr c') ∧ (∀ (d' : DieId), (s.emit o).die d' = s.die d') ∧ (∀ (d' : DieId), (s.emit o).pgm d' = s.pgm d') ∧
    (∀ (x' : Ctx), (s.emit o).ctx x' = s.ctx x') ∧ (∀ (e' : Encl), (s.emit o).chain e' = s.chain e') ∧ (∀ (l' : LinkId), (s.emit o).link l' = s.link l') ∧
    (∀ (i' : IoId), (s.emit o).router i' = s.router i') ∧ (∀ (g' : Nat), (s.emit o).group g' = s.group g') ∧ (∀ (v' : VfId) (r' : RingId), (s.emit o).ring v' r' = s.ring v' r') ∧
    (∀ (f' : Nat), (s.emit o).func f' = s.func f') ∧ (∀ (b' : Blk) (o' : Nat), (s.emit o).reg b' o' = s.reg b' o') ∧ (∀ (b' : Blk) (o' h' l' : Nat), (s.emit o).fld b' o' h' l' = s.fld b' o' h' l') :=
  ⟨rfl, rfl, rfl, rfl, rfl, rfl, rfl, rfl, rfl, rfl, rfl, rfl, rfl, rfl, rfl, rfl, rfl, rfl, rfl, rfl, rfl, rfl, rfl, rfl, rfl, rfl, rfl, rfl, rfl, rfl, rfl, rfl, rfl, rfl, rfl, rfl, rfl, fun _ _ => rfl, fun _ _ => rfl, fun _ _ _ => rfl, fun _ _ => rfl, fun _ _ _ => rfl, fun _ _ _ _ => rfl, fun _ _ => rfl, fun _ => rfl, fun _ => rfl, fun _ => rfl, fun _ => rfl, fun _ => rfl, fun _ => rfl, fun _ => rfl, fun _ => rfl, fun _ => rfl, fun _ _ => rfl, fun _ => rfl, fun _ _ => rfl, fun _ _ _ _ => rfl⟩

@[simp] theorem State.draw_frame (n : Nat) :
    (s.draw n).pending = s.pending ∧ (s.draw n).ac = s.ac ∧ (s.draw n).now = s.now ∧
    (s.draw n).regs = s.regs ∧ (s.draw n).latches = s.latches ∧ (s.draw n).deferred = s.deferred ∧
    (s.draw n).ws = s.ws ∧ (s.draw n).am = s.am ∧ (s.draw n).psm = s.psm ∧
    (s.draw n).cs = s.cs ∧ (s.draw n).tb = s.tb ∧ (s.draw n).pm = s.pm ∧
    (s.draw n).iram = s.iram ∧ (s.draw n).dram = s.dram ∧ (s.draw n).mail = s.mail ∧
    (s.draw n).amPoison = s.amPoison ∧ (s.draw n).psmPoison = s.psmPoison ∧ (s.draw n).csPoison = s.csPoison ∧
    (s.draw n).tbPoison = s.tbPoison ∧ (s.draw n).wsErr = s.wsErr ∧ (s.draw n).amErr = s.amErr ∧
    (s.draw n).psmErr = s.psmErr ∧ (s.draw n).csErr = s.csErr ∧ (s.draw n).iramErr = s.iramErr ∧
    (s.draw n).dramErr = s.dramErr ∧ (s.draw n).pmErr = s.pmErr ∧ (s.draw n).cores = s.cores ∧
    (s.draw n).dies = s.dies ∧ (s.draw n).ctxs = s.ctxs ∧ (s.draw n).chains = s.chains ∧
    (s.draw n).links = s.links ∧ (s.draw n).routers = s.routers ∧ (s.draw n).rgroups = s.rgroups ∧
    (s.draw n).rings = s.rings ∧ (s.draw n).funcs = s.funcs ∧ (s.draw n).mod = s.mod ∧
    (s.draw n).out = s.out ∧ (∀ (c' : CoreId) (w' : Nat), (s.draw n).psmWord c' w' = s.psmWord c' w') ∧ (∀ (c' : CoreId) (w' : Nat), (s.draw n).psmPois c' w' = s.psmPois c' w') ∧
    (∀ (c' : CoreId) (a' n' : Nat), (s.draw n).amBytes c' a' n' = s.amBytes c' a' n') ∧ (∀ (c' : CoreId) (l' : Nat), (s.draw n).amPois c' l' = s.amPois c' l') ∧ (∀ (c' : CoreId) (a' n' : Nat), (s.draw n).wsBytes c' a' n' = s.wsBytes c' a' n') ∧
    (∀ (c' : CoreId) (b' r' j' : Nat), (s.draw n).tbLane c' b' r' j' = s.tbLane c' b' r' j') ∧ (∀ (d' : DieId) (u' : Nat), (s.draw n).csUnit d' u' = s.csUnit d' u') ∧ (∀ (c' : CoreId), (s.draw n).core c' = s.core c') ∧
    (∀ (c' : CoreId), (s.draw n).arr c' = s.arr c') ∧ (∀ (d' : DieId), (s.draw n).die d' = s.die d') ∧ (∀ (d' : DieId), (s.draw n).pgm d' = s.pgm d') ∧
    (∀ (x' : Ctx), (s.draw n).ctx x' = s.ctx x') ∧ (∀ (e' : Encl), (s.draw n).chain e' = s.chain e') ∧ (∀ (l' : LinkId), (s.draw n).link l' = s.link l') ∧
    (∀ (i' : IoId), (s.draw n).router i' = s.router i') ∧ (∀ (g' : Nat), (s.draw n).group g' = s.group g') ∧ (∀ (v' : VfId) (r' : RingId), (s.draw n).ring v' r' = s.ring v' r') ∧
    (∀ (f' : Nat), (s.draw n).func f' = s.func f') ∧ (∀ (b' : Blk) (o' : Nat), (s.draw n).reg b' o' = s.reg b' o') ∧ (∀ (b' : Blk) (o' h' l' : Nat), (s.draw n).fld b' o' h' l' = s.fld b' o' h' l') :=
  ⟨rfl, rfl, rfl, rfl, rfl, rfl, rfl, rfl, rfl, rfl, rfl, rfl, rfl, rfl, rfl, rfl, rfl, rfl, rfl, rfl, rfl, rfl, rfl, rfl, rfl, rfl, rfl, rfl, rfl, rfl, rfl, rfl, rfl, rfl, rfl, rfl, rfl, fun _ _ => rfl, fun _ _ => rfl, fun _ _ _ => rfl, fun _ _ => rfl, fun _ _ _ => rfl, fun _ _ _ _ => rfl, fun _ _ => rfl, fun _ => rfl, fun _ => rfl, fun _ => rfl, fun _ => rfl, fun _ => rfl, fun _ => rfl, fun _ => rfl, fun _ => rfl, fun _ => rfl, fun _ _ => rfl, fun _ => rfl, fun _ _ => rfl, fun _ _ _ _ => rfl⟩

@[simp] theorem State.setReg_frame (b : Blk) (off v : Nat) :
    (s.setReg b off v).pending = s.pending ∧ (s.setReg b off v).ac = s.ac ∧ (s.setReg b off v).now = s.now ∧
    (s.setReg b off v).free = s.free ∧ (s.setReg b off v).latches = s.latches ∧ (s.setReg b off v).deferred = s.deferred ∧
    (s.setReg b off v).ws = s.ws ∧ (s.setReg b off v).am = s.am ∧ (s.setReg b off v).psm = s.psm ∧
    (s.setReg b off v).cs = s.cs ∧ (s.setReg b off v).tb = s.tb ∧ (s.setReg b off v).pm = s.pm ∧
    (s.setReg b off v).iram = s.iram ∧ (s.setReg b off v).dram = s.dram ∧ (s.setReg b off v).mail = s.mail ∧
    (s.setReg b off v).amPoison = s.amPoison ∧ (s.setReg b off v).psmPoison = s.psmPoison ∧ (s.setReg b off v).csPoison = s.csPoison ∧
    (s.setReg b off v).tbPoison = s.tbPoison ∧ (s.setReg b off v).wsErr = s.wsErr ∧ (s.setReg b off v).amErr = s.amErr ∧
    (s.setReg b off v).psmErr = s.psmErr ∧ (s.setReg b off v).csErr = s.csErr ∧ (s.setReg b off v).iramErr = s.iramErr ∧
    (s.setReg b off v).dramErr = s.dramErr ∧ (s.setReg b off v).pmErr = s.pmErr ∧ (s.setReg b off v).cores = s.cores ∧
    (s.setReg b off v).dies = s.dies ∧ (s.setReg b off v).ctxs = s.ctxs ∧ (s.setReg b off v).chains = s.chains ∧
    (s.setReg b off v).links = s.links ∧ (s.setReg b off v).routers = s.routers ∧ (s.setReg b off v).rgroups = s.rgroups ∧
    (s.setReg b off v).rings = s.rings ∧ (s.setReg b off v).funcs = s.funcs ∧ (s.setReg b off v).mod = s.mod ∧
    (s.setReg b off v).out = s.out ∧ (∀ (c' : CoreId) (w' : Nat), (s.setReg b off v).psmWord c' w' = s.psmWord c' w') ∧ (∀ (c' : CoreId) (w' : Nat), (s.setReg b off v).psmPois c' w' = s.psmPois c' w') ∧
    (∀ (c' : CoreId) (a' n' : Nat), (s.setReg b off v).amBytes c' a' n' = s.amBytes c' a' n') ∧ (∀ (c' : CoreId) (l' : Nat), (s.setReg b off v).amPois c' l' = s.amPois c' l') ∧ (∀ (c' : CoreId) (a' n' : Nat), (s.setReg b off v).wsBytes c' a' n' = s.wsBytes c' a' n') ∧
    (∀ (c' : CoreId) (b' r' j' : Nat), (s.setReg b off v).tbLane c' b' r' j' = s.tbLane c' b' r' j') ∧ (∀ (d' : DieId) (u' : Nat), (s.setReg b off v).csUnit d' u' = s.csUnit d' u') ∧ (∀ (c' : CoreId), (s.setReg b off v).core c' = s.core c') ∧
    (∀ (c' : CoreId), (s.setReg b off v).arr c' = s.arr c') ∧ (∀ (d' : DieId), (s.setReg b off v).die d' = s.die d') ∧ (∀ (d' : DieId), (s.setReg b off v).pgm d' = s.pgm d') ∧
    (∀ (x' : Ctx), (s.setReg b off v).ctx x' = s.ctx x') ∧ (∀ (e' : Encl), (s.setReg b off v).chain e' = s.chain e') ∧ (∀ (l' : LinkId), (s.setReg b off v).link l' = s.link l') ∧
    (∀ (i' : IoId), (s.setReg b off v).router i' = s.router i') ∧ (∀ (g' : Nat), (s.setReg b off v).group g' = s.group g') ∧ (∀ (v' : VfId) (r' : RingId), (s.setReg b off v).ring v' r' = s.ring v' r') ∧
    (∀ (f' : Nat), (s.setReg b off v).func f' = s.func f') :=
  ⟨rfl, rfl, rfl, rfl, rfl, rfl, rfl, rfl, rfl, rfl, rfl, rfl, rfl, rfl, rfl, rfl, rfl, rfl, rfl, rfl, rfl, rfl, rfl, rfl, rfl, rfl, rfl, rfl, rfl, rfl, rfl, rfl, rfl, rfl, rfl, rfl, rfl, fun _ _ => rfl, fun _ _ => rfl, fun _ _ _ => rfl, fun _ _ => rfl, fun _ _ _ => rfl, fun _ _ _ _ => rfl, fun _ _ => rfl, fun _ => rfl, fun _ => rfl, fun _ => rfl, fun _ => rfl, fun _ => rfl, fun _ => rfl, fun _ => rfl, fun _ => rfl, fun _ => rfl, fun _ _ => rfl, fun _ => rfl⟩

@[simp] theorem State.amSet_frame (c : CoreId) (a : Nat) (b : List Byte) :
    (s.amSet c a b).pending = s.pending ∧ (s.amSet c a b).ac = s.ac ∧ (s.amSet c a b).now = s.now ∧
    (s.amSet c a b).free = s.free ∧ (s.amSet c a b).regs = s.regs ∧ (s.amSet c a b).latches = s.latches ∧
    (s.amSet c a b).deferred = s.deferred ∧ (s.amSet c a b).ws = s.ws ∧ (s.amSet c a b).psm = s.psm ∧
    (s.amSet c a b).cs = s.cs ∧ (s.amSet c a b).tb = s.tb ∧ (s.amSet c a b).pm = s.pm ∧
    (s.amSet c a b).iram = s.iram ∧ (s.amSet c a b).dram = s.dram ∧ (s.amSet c a b).mail = s.mail ∧
    (s.amSet c a b).amPoison = s.amPoison ∧ (s.amSet c a b).psmPoison = s.psmPoison ∧ (s.amSet c a b).csPoison = s.csPoison ∧
    (s.amSet c a b).tbPoison = s.tbPoison ∧ (s.amSet c a b).wsErr = s.wsErr ∧ (s.amSet c a b).amErr = s.amErr ∧
    (s.amSet c a b).psmErr = s.psmErr ∧ (s.amSet c a b).csErr = s.csErr ∧ (s.amSet c a b).iramErr = s.iramErr ∧
    (s.amSet c a b).dramErr = s.dramErr ∧ (s.amSet c a b).pmErr = s.pmErr ∧ (s.amSet c a b).cores = s.cores ∧
    (s.amSet c a b).dies = s.dies ∧ (s.amSet c a b).ctxs = s.ctxs ∧ (s.amSet c a b).chains = s.chains ∧
    (s.amSet c a b).links = s.links ∧ (s.amSet c a b).routers = s.routers ∧ (s.amSet c a b).rgroups = s.rgroups ∧
    (s.amSet c a b).rings = s.rings ∧ (s.amSet c a b).funcs = s.funcs ∧ (s.amSet c a b).mod = s.mod ∧
    (s.amSet c a b).out = s.out ∧ (∀ (c' : CoreId) (w' : Nat), (s.amSet c a b).psmWord c' w' = s.psmWord c' w') ∧ (∀ (c' : CoreId) (w' : Nat), (s.amSet c a b).psmPois c' w' = s.psmPois c' w') ∧
    (∀ (c' : CoreId) (l' : Nat), (s.amSet c a b).amPois c' l' = s.amPois c' l') ∧ (∀ (c' : CoreId) (a' n' : Nat), (s.amSet c a b).wsBytes c' a' n' = s.wsBytes c' a' n') ∧ (∀ (c' : CoreId) (b' r' j' : Nat), (s.amSet c a b).tbLane c' b' r' j' = s.tbLane c' b' r' j') ∧
    (∀ (d' : DieId) (u' : Nat), (s.amSet c a b).csUnit d' u' = s.csUnit d' u') ∧ (∀ (c' : CoreId), (s.amSet c a b).core c' = s.core c') ∧ (∀ (c' : CoreId), (s.amSet c a b).arr c' = s.arr c') ∧
    (∀ (d' : DieId), (s.amSet c a b).die d' = s.die d') ∧ (∀ (d' : DieId), (s.amSet c a b).pgm d' = s.pgm d') ∧ (∀ (x' : Ctx), (s.amSet c a b).ctx x' = s.ctx x') ∧
    (∀ (e' : Encl), (s.amSet c a b).chain e' = s.chain e') ∧ (∀ (l' : LinkId), (s.amSet c a b).link l' = s.link l') ∧ (∀ (i' : IoId), (s.amSet c a b).router i' = s.router i') ∧
    (∀ (g' : Nat), (s.amSet c a b).group g' = s.group g') ∧ (∀ (v' : VfId) (r' : RingId), (s.amSet c a b).ring v' r' = s.ring v' r') ∧ (∀ (f' : Nat), (s.amSet c a b).func f' = s.func f') ∧
    (∀ (b' : Blk) (o' : Nat), (s.amSet c a b).reg b' o' = s.reg b' o') ∧ (∀ (b' : Blk) (o' h' l' : Nat), (s.amSet c a b).fld b' o' h' l' = s.fld b' o' h' l') :=
  ⟨rfl, rfl, rfl, rfl, rfl, rfl, rfl, rfl, rfl, rfl, rfl, rfl, rfl, rfl, rfl, rfl, rfl, rfl, rfl, rfl, rfl, rfl, rfl, rfl, rfl, rfl, rfl, rfl, rfl, rfl, rfl, rfl, rfl, rfl, rfl, rfl, rfl, fun _ _ => rfl, fun _ _ => rfl, fun _ _ => rfl, fun _ _ _ => rfl, fun _ _ _ _ => rfl, fun _ _ => rfl, fun _ => rfl, fun _ => rfl, fun _ => rfl, fun _ => rfl, fun _ => rfl, fun _ => rfl, fun _ => rfl, fun _ => rfl, fun _ => rfl, fun _ _ => rfl, fun _ => rfl, fun _ _ => rfl, fun _ _ _ _ => rfl⟩

@[simp] theorem State.setAmPois_frame (c : CoreId) (line : Nat) (p : Bool) :
    (s.setAmPois c line p).pending = s.pending ∧ (s.setAmPois c line p).ac = s.ac ∧ (s.setAmPois c line p).now = s.now ∧
    (s.setAmPois c line p).free = s.free ∧ (s.setAmPois c line p).regs = s.regs ∧ (s.setAmPois c line p).latches = s.latches ∧
    (s.setAmPois c line p).deferred = s.deferred ∧ (s.setAmPois c line p).ws = s.ws ∧ (s.setAmPois c line p).am = s.am ∧
    (s.setAmPois c line p).psm = s.psm ∧ (s.setAmPois c line p).cs = s.cs ∧ (s.setAmPois c line p).tb = s.tb ∧
    (s.setAmPois c line p).pm = s.pm ∧ (s.setAmPois c line p).iram = s.iram ∧ (s.setAmPois c line p).dram = s.dram ∧
    (s.setAmPois c line p).mail = s.mail ∧ (s.setAmPois c line p).psmPoison = s.psmPoison ∧ (s.setAmPois c line p).csPoison = s.csPoison ∧
    (s.setAmPois c line p).tbPoison = s.tbPoison ∧ (s.setAmPois c line p).wsErr = s.wsErr ∧ (s.setAmPois c line p).amErr = s.amErr ∧
    (s.setAmPois c line p).psmErr = s.psmErr ∧ (s.setAmPois c line p).csErr = s.csErr ∧ (s.setAmPois c line p).iramErr = s.iramErr ∧
    (s.setAmPois c line p).dramErr = s.dramErr ∧ (s.setAmPois c line p).pmErr = s.pmErr ∧ (s.setAmPois c line p).cores = s.cores ∧
    (s.setAmPois c line p).dies = s.dies ∧ (s.setAmPois c line p).ctxs = s.ctxs ∧ (s.setAmPois c line p).chains = s.chains ∧
    (s.setAmPois c line p).links = s.links ∧ (s.setAmPois c line p).routers = s.routers ∧ (s.setAmPois c line p).rgroups = s.rgroups ∧
    (s.setAmPois c line p).rings = s.rings ∧ (s.setAmPois c line p).funcs = s.funcs ∧ (s.setAmPois c line p).mod = s.mod ∧
    (s.setAmPois c line p).out = s.out ∧ (∀ (c' : CoreId) (w' : Nat), (s.setAmPois c line p).psmWord c' w' = s.psmWord c' w') ∧ (∀ (c' : CoreId) (w' : Nat), (s.setAmPois c line p).psmPois c' w' = s.psmPois c' w') ∧
    (∀ (c' : CoreId) (a' n' : Nat), (s.setAmPois c line p).amBytes c' a' n' = s.amBytes c' a' n') ∧ (∀ (c' : CoreId) (a' n' : Nat), (s.setAmPois c line p).wsBytes c' a' n' = s.wsBytes c' a' n') ∧ (∀ (c' : CoreId) (b' r' j' : Nat), (s.setAmPois c line p).tbLane c' b' r' j' = s.tbLane c' b' r' j') ∧
    (∀ (d' : DieId) (u' : Nat), (s.setAmPois c line p).csUnit d' u' = s.csUnit d' u') ∧ (∀ (c' : CoreId), (s.setAmPois c line p).core c' = s.core c') ∧ (∀ (c' : CoreId), (s.setAmPois c line p).arr c' = s.arr c') ∧
    (∀ (d' : DieId), (s.setAmPois c line p).die d' = s.die d') ∧ (∀ (d' : DieId), (s.setAmPois c line p).pgm d' = s.pgm d') ∧ (∀ (x' : Ctx), (s.setAmPois c line p).ctx x' = s.ctx x') ∧
    (∀ (e' : Encl), (s.setAmPois c line p).chain e' = s.chain e') ∧ (∀ (l' : LinkId), (s.setAmPois c line p).link l' = s.link l') ∧ (∀ (i' : IoId), (s.setAmPois c line p).router i' = s.router i') ∧
    (∀ (g' : Nat), (s.setAmPois c line p).group g' = s.group g') ∧ (∀ (v' : VfId) (r' : RingId), (s.setAmPois c line p).ring v' r' = s.ring v' r') ∧ (∀ (f' : Nat), (s.setAmPois c line p).func f' = s.func f') ∧
    (∀ (b' : Blk) (o' : Nat), (s.setAmPois c line p).reg b' o' = s.reg b' o') ∧ (∀ (b' : Blk) (o' h' l' : Nat), (s.setAmPois c line p).fld b' o' h' l' = s.fld b' o' h' l') :=
  ⟨rfl, rfl, rfl, rfl, rfl, rfl, rfl, rfl, rfl, rfl, rfl, rfl, rfl, rfl, rfl, rfl, rfl, rfl, rfl, rfl, rfl, rfl, rfl, rfl, rfl, rfl, rfl, rfl, rfl, rfl, rfl, rfl, rfl, rfl, rfl, rfl, rfl, fun _ _ => rfl, fun _ _ => rfl, fun _ _ _ => rfl, fun _ _ _ => rfl, fun _ _ _ _ => rfl, fun _ _ => rfl, fun _ => rfl, fun _ => rfl, fun _ => rfl, fun _ => rfl, fun _ => rfl, fun _ => rfl, fun _ => rfl, fun _ => rfl, fun _ => rfl, fun _ _ => rfl, fun _ => rfl, fun _ _ => rfl, fun _ _ _ _ => rfl⟩

@[simp] theorem State.psmSet_frame (c : CoreId) (w : Nat) (v : W128) (p : Bool) :
    (s.psmSet c w v p).pending = s.pending ∧ (s.psmSet c w v p).ac = s.ac ∧ (s.psmSet c w v p).now = s.now ∧
    (s.psmSet c w v p).free = s.free ∧ (s.psmSet c w v p).regs = s.regs ∧ (s.psmSet c w v p).latches = s.latches ∧
    (s.psmSet c w v p).deferred = s.deferred ∧ (s.psmSet c w v p).ws = s.ws ∧ (s.psmSet c w v p).am = s.am ∧
    (s.psmSet c w v p).cs = s.cs ∧ (s.psmSet c w v p).tb = s.tb ∧ (s.psmSet c w v p).pm = s.pm ∧
    (s.psmSet c w v p).iram = s.iram ∧ (s.psmSet c w v p).dram = s.dram ∧ (s.psmSet c w v p).mail = s.mail ∧
    (s.psmSet c w v p).amPoison = s.amPoison ∧ (s.psmSet c w v p).csPoison = s.csPoison ∧ (s.psmSet c w v p).tbPoison = s.tbPoison ∧
    (s.psmSet c w v p).wsErr = s.wsErr ∧ (s.psmSet c w v p).amErr = s.amErr ∧ (s.psmSet c w v p).psmErr = s.psmErr ∧
    (s.psmSet c w v p).csErr = s.csErr ∧ (s.psmSet c w v p).iramErr = s.iramErr ∧ (s.psmSet c w v p).dramErr = s.dramErr ∧
    (s.psmSet c w v p).pmErr = s.pmErr ∧ (s.psmSet c w v p).cores = s.cores ∧ (s.psmSet c w v p).dies = s.dies ∧
    (s.psmSet c w v p).ctxs = s.ctxs ∧ (s.psmSet c w v p).chains = s.chains ∧ (s.psmSet c w v p).links = s.links ∧
    (s.psmSet c w v p).routers = s.routers ∧ (s.psmSet c w v p).rgroups = s.rgroups ∧ (s.psmSet c w v p).rings = s.rings ∧
    (s.psmSet c w v p).funcs = s.funcs ∧ (s.psmSet c w v p).mod = s.mod ∧ (s.psmSet c w v p).out = s.out ∧
    (∀ (c' : CoreId) (a' n' : Nat), (s.psmSet c w v p).amBytes c' a' n' = s.amBytes c' a' n') ∧ (∀ (c' : CoreId) (l' : Nat), (s.psmSet c w v p).amPois c' l' = s.amPois c' l') ∧ (∀ (c' : CoreId) (a' n' : Nat), (s.psmSet c w v p).wsBytes c' a' n' = s.wsBytes c' a' n') ∧
    (∀ (c' : CoreId) (b' r' j' : Nat), (s.psmSet c w v p).tbLane c' b' r' j' = s.tbLane c' b' r' j') ∧ (∀ (d' : DieId) (u' : Nat), (s.psmSet c w v p).csUnit d' u' = s.csUnit d' u') ∧ (∀ (c' : CoreId), (s.psmSet c w v p).core c' = s.core c') ∧
    (∀ (c' : CoreId), (s.psmSet c w v p).arr c' = s.arr c') ∧ (∀ (d' : DieId), (s.psmSet c w v p).die d' = s.die d') ∧ (∀ (d' : DieId), (s.psmSet c w v p).pgm d' = s.pgm d') ∧
    (∀ (x' : Ctx), (s.psmSet c w v p).ctx x' = s.ctx x') ∧ (∀ (e' : Encl), (s.psmSet c w v p).chain e' = s.chain e') ∧ (∀ (l' : LinkId), (s.psmSet c w v p).link l' = s.link l') ∧
    (∀ (i' : IoId), (s.psmSet c w v p).router i' = s.router i') ∧ (∀ (g' : Nat), (s.psmSet c w v p).group g' = s.group g') ∧ (∀ (v' : VfId) (r' : RingId), (s.psmSet c w v p).ring v' r' = s.ring v' r') ∧
    (∀ (f' : Nat), (s.psmSet c w v p).func f' = s.func f') ∧ (∀ (b' : Blk) (o' : Nat), (s.psmSet c w v p).reg b' o' = s.reg b' o') ∧ (∀ (b' : Blk) (o' h' l' : Nat), (s.psmSet c w v p).fld b' o' h' l' = s.fld b' o' h' l') :=
  ⟨rfl, rfl, rfl, rfl, rfl, rfl, rfl, rfl, rfl, rfl, rfl, rfl, rfl, rfl, rfl, rfl, rfl, rfl, rfl, rfl, rfl, rfl, rfl, rfl, rfl, rfl, rfl, rfl, rfl, rfl, rfl, rfl, rfl, rfl, rfl, rfl, fun _ _ _ => rfl, fun _ _ => rfl, fun _ _ _ => rfl, fun _ _ _ _ => rfl, fun _ _ => rfl, fun _ => rfl, fun _ => rfl, fun _ => rfl, fun _ => rfl, fun _ => rfl, fun _ => rfl, fun _ => rfl, fun _ => rfl, fun _ => rfl, fun _ _ => rfl, fun _ => rfl, fun _ _ => rfl, fun _ _ _ _ => rfl⟩

@[simp] theorem State.setTbPois_frame (c : CoreId) (b r : Nat) (p : Bool) :
    (s.setTbPois c b r p).pending = s.pending ∧ (s.setTbPois c b r p).ac = s.ac ∧ (s.setTbPois c b r p).now = s.now ∧
    (s.setTbPois c b r p).free = s.free ∧ (s.setTbPois c b r p).regs = s.regs ∧ (s.setTbPois c b r p).latches = s.latches ∧
    (s.setTbPois c b r p).deferred = s.deferred ∧ (s.setTbPois c b r p).ws = s.ws ∧ (s.setTbPois c b r p).am = s.am ∧
    (s.setTbPois c b r p).psm = s.psm ∧ (s.setTbPois c b r p).cs = s.cs ∧ (s.setTbPois c b r p).tb = s.tb ∧
    (s.setTbPois c b r p).pm = s.pm ∧ (s.setTbPois c b r p).iram = s.iram ∧ (s.setTbPois c b r p).dram = s.dram ∧
    (s.setTbPois c b r p).mail = s.mail ∧ (s.setTbPois c b r p).amPoison = s.amPoison ∧ (s.setTbPois c b r p).psmPoison = s.psmPoison ∧
    (s.setTbPois c b r p).csPoison = s.csPoison ∧ (s.setTbPois c b r p).wsErr = s.wsErr ∧ (s.setTbPois c b r p).amErr = s.amErr ∧
    (s.setTbPois c b r p).psmErr = s.psmErr ∧ (s.setTbPois c b r p).csErr = s.csErr ∧ (s.setTbPois c b r p).iramErr = s.iramErr ∧
    (s.setTbPois c b r p).dramErr = s.dramErr ∧ (s.setTbPois c b r p).pmErr = s.pmErr ∧ (s.setTbPois c b r p).cores = s.cores ∧
    (s.setTbPois c b r p).dies = s.dies ∧ (s.setTbPois c b r p).ctxs = s.ctxs ∧ (s.setTbPois c b r p).chains = s.chains ∧
    (s.setTbPois c b r p).links = s.links ∧ (s.setTbPois c b r p).routers = s.routers ∧ (s.setTbPois c b r p).rgroups = s.rgroups ∧
    (s.setTbPois c b r p).rings = s.rings ∧ (s.setTbPois c b r p).funcs = s.funcs ∧ (s.setTbPois c b r p).mod = s.mod ∧
    (s.setTbPois c b r p).out = s.out ∧ (∀ (c' : CoreId) (w' : Nat), (s.setTbPois c b r p).psmWord c' w' = s.psmWord c' w') ∧ (∀ (c' : CoreId) (w' : Nat), (s.setTbPois c b r p).psmPois c' w' = s.psmPois c' w') ∧
    (∀ (c' : CoreId) (a' n' : Nat), (s.setTbPois c b r p).amBytes c' a' n' = s.amBytes c' a' n') ∧ (∀ (c' : CoreId) (l' : Nat), (s.setTbPois c b r p).amPois c' l' = s.amPois c' l') ∧ (∀ (c' : CoreId) (a' n' : Nat), (s.setTbPois c b r p).wsBytes c' a' n' = s.wsBytes c' a' n') ∧
    (∀ (c' : CoreId) (b' r' j' : Nat), (s.setTbPois c b r p).tbLane c' b' r' j' = s.tbLane c' b' r' j') ∧ (∀ (d' : DieId) (u' : Nat), (s.setTbPois c b r p).csUnit d' u' = s.csUnit d' u') ∧ (∀ (c' : CoreId), (s.setTbPois c b r p).core c' = s.core c') ∧
    (∀ (c' : CoreId), (s.setTbPois c b r p).arr c' = s.arr c') ∧ (∀ (d' : DieId), (s.setTbPois c b r p).die d' = s.die d') ∧ (∀ (d' : DieId), (s.setTbPois c b r p).pgm d' = s.pgm d') ∧
    (∀ (x' : Ctx), (s.setTbPois c b r p).ctx x' = s.ctx x') ∧ (∀ (e' : Encl), (s.setTbPois c b r p).chain e' = s.chain e') ∧ (∀ (l' : LinkId), (s.setTbPois c b r p).link l' = s.link l') ∧
    (∀ (i' : IoId), (s.setTbPois c b r p).router i' = s.router i') ∧ (∀ (g' : Nat), (s.setTbPois c b r p).group g' = s.group g') ∧ (∀ (v' : VfId) (r' : RingId), (s.setTbPois c b r p).ring v' r' = s.ring v' r') ∧
    (∀ (f' : Nat), (s.setTbPois c b r p).func f' = s.func f') ∧ (∀ (b' : Blk) (o' : Nat), (s.setTbPois c b r p).reg b' o' = s.reg b' o') ∧ (∀ (b' : Blk) (o' h' l' : Nat), (s.setTbPois c b r p).fld b' o' h' l' = s.fld b' o' h' l') :=
  ⟨rfl, rfl, rfl, rfl, rfl, rfl, rfl, rfl, rfl, rfl, rfl, rfl, rfl, rfl, rfl, rfl, rfl, rfl, rfl, rfl, rfl, rfl, rfl, rfl, rfl, rfl, rfl, rfl, rfl, rfl, rfl, rfl, rfl, rfl, rfl, rfl, rfl, fun _ _ => rfl, fun _ _ => rfl, fun _ _ _ => rfl, fun _ _ => rfl, fun _ _ _ => rfl, fun _ _ _ _ => rfl, fun _ _ => rfl, fun _ => rfl, fun _ => rfl, fun _ => rfl, fun _ => rfl, fun _ => rfl, fun _ => rfl, fun _ => rfl, fun _ => rfl, fun _ => rfl, fun _ _ => rfl, fun _ => rfl, fun _ _ => rfl, fun _ _ _ _ => rfl⟩

@[simp] theorem State.setTbLane_frame (c : CoreId) (b r j v : Nat) :
    (s.setTbLane c b r j v).pending = s.pending ∧ (s.setTbLane c b r j v).ac = s.ac ∧ (s.setTbLane c b r j v).now = s.now ∧
    (s.setTbLane c b r j v).free = s.free ∧ (s.setTbLane c b r j v).regs = s.regs ∧ (s.setTbLane c b r j v).latches = s.latches ∧
    (s.setTbLane c b r j v).deferred = s.deferred ∧ (s.setTbLane c b r j v).ws = s.ws ∧ (s.setTbLane c b r j v).am = s.am ∧
    (s.setTbLane c b r j v).psm = s.psm ∧ (s.setTbLane c b r j v).cs = s.cs ∧ (s.setTbLane c b r j v).pm = s.pm ∧
    (s.setTbLane c b r j v).iram = s.iram ∧ (s.setTbLane c b r j v).dram = s.dram ∧ (s.setTbLane c b r j v).mail = s.mail ∧
    (s.setTbLane c b r j v).amPoison = s.amPoison ∧ (s.setTbLane c b r j v).psmPoison = s.psmPoison ∧ (s.setTbLane c b r j v).csPoison = s.csPoison ∧
    (s.setTbLane c b r j v).tbPoison = s.tbPoison ∧ (s.setTbLane c b r j v).wsErr = s.wsErr ∧ (s.setTbLane c b r j v).amErr = s.amErr ∧
    (s.setTbLane c b r j v).psmErr = s.psmErr ∧ (s.setTbLane c b r j v).csErr = s.csErr ∧ (s.setTbLane c b r j v).iramErr = s.iramErr ∧
    (s.setTbLane c b r j v).dramErr = s.dramErr ∧ (s.setTbLane c b r j v).pmErr = s.pmErr ∧ (s.setTbLane c b r j v).cores = s.cores ∧
    (s.setTbLane c b r j v).dies = s.dies ∧ (s.setTbLane c b r j v).ctxs = s.ctxs ∧ (s.setTbLane c b r j v).chains = s.chains ∧
    (s.setTbLane c b r j v).links = s.links ∧ (s.setTbLane c b r j v).routers = s.routers ∧ (s.setTbLane c b r j v).rgroups = s.rgroups ∧
    (s.setTbLane c b r j v).rings = s.rings ∧ (s.setTbLane c b r j v).funcs = s.funcs ∧ (s.setTbLane c b r j v).mod = s.mod ∧
    (s.setTbLane c b r j v).out = s.out ∧ (∀ (c' : CoreId) (w' : Nat), (s.setTbLane c b r j v).psmWord c' w' = s.psmWord c' w') ∧ (∀ (c' : CoreId) (w' : Nat), (s.setTbLane c b r j v).psmPois c' w' = s.psmPois c' w') ∧
    (∀ (c' : CoreId) (a' n' : Nat), (s.setTbLane c b r j v).amBytes c' a' n' = s.amBytes c' a' n') ∧ (∀ (c' : CoreId) (l' : Nat), (s.setTbLane c b r j v).amPois c' l' = s.amPois c' l') ∧ (∀ (c' : CoreId) (a' n' : Nat), (s.setTbLane c b r j v).wsBytes c' a' n' = s.wsBytes c' a' n') ∧
    (∀ (d' : DieId) (u' : Nat), (s.setTbLane c b r j v).csUnit d' u' = s.csUnit d' u') ∧ (∀ (c' : CoreId), (s.setTbLane c b r j v).core c' = s.core c') ∧ (∀ (c' : CoreId), (s.setTbLane c b r j v).arr c' = s.arr c') ∧
    (∀ (d' : DieId), (s.setTbLane c b r j v).die d' = s.die d') ∧ (∀ (d' : DieId), (s.setTbLane c b r j v).pgm d' = s.pgm d') ∧ (∀ (x' : Ctx), (s.setTbLane c b r j v).ctx x' = s.ctx x') ∧
    (∀ (e' : Encl), (s.setTbLane c b r j v).chain e' = s.chain e') ∧ (∀ (l' : LinkId), (s.setTbLane c b r j v).link l' = s.link l') ∧ (∀ (i' : IoId), (s.setTbLane c b r j v).router i' = s.router i') ∧
    (∀ (g' : Nat), (s.setTbLane c b r j v).group g' = s.group g') ∧ (∀ (v' : VfId) (r' : RingId), (s.setTbLane c b r j v).ring v' r' = s.ring v' r') ∧ (∀ (f' : Nat), (s.setTbLane c b r j v).func f' = s.func f') ∧
    (∀ (b' : Blk) (o' : Nat), (s.setTbLane c b r j v).reg b' o' = s.reg b' o') ∧ (∀ (b' : Blk) (o' h' l' : Nat), (s.setTbLane c b r j v).fld b' o' h' l' = s.fld b' o' h' l') :=
  ⟨rfl, rfl, rfl, rfl, rfl, rfl, rfl, rfl, rfl, rfl, rfl, rfl, rfl, rfl, rfl, rfl, rfl, rfl, rfl, rfl, rfl, rfl, rfl, rfl, rfl, rfl, rfl, rfl, rfl, rfl, rfl, rfl, rfl, rfl, rfl, rfl, rfl, fun _ _ => rfl, fun _ _ => rfl, fun _ _ _ => rfl, fun _ _ => rfl, fun _ _ _ => rfl, fun _ _ => rfl, fun _ => rfl, fun _ => rfl, fun _ => rfl, fun _ => rfl, fun _ => rfl, fun _ => rfl, fun _ => rfl, fun _ => rfl, fun _ => rfl, fun _ _ => rfl, fun _ => rfl, fun _ _ => rfl, fun _ _ _ _ => rfl⟩

@[simp] theorem State.wsSet_frame (c : CoreId) (a : Nat) (b : List Byte) :
    (s.wsSet c a b).pending = s.pending ∧ (s.wsSet c a b).ac = s.ac ∧ (s.wsSet c a b).now = s.now ∧
    (s.wsSet c a b).free = s.free ∧ (s.wsSet c a b).regs = s.regs ∧ (s.wsSet c a b).latches = s.latches ∧
    (s.wsSet c a b).deferred = s.deferred ∧ (s.wsSet c a b).am = s.am ∧ (s.wsSet c a b).psm = s.psm ∧
    (s.wsSet c a b).cs = s.cs ∧ (s.wsSet c a b).tb = s.tb ∧ (s.wsSet c a b).pm = s.pm ∧
    (s.wsSet c a b).iram = s.iram ∧ (s.wsSet c a b).dram = s.dram ∧ (s.wsSet c a b).mail = s.mail ∧
    (s.wsSet c a b).amPoison = s.amPoison ∧ (s.wsSet c a b).psmPoison = s.psmPoison ∧ (s.wsSet c a b).csPoison = s.csPoison ∧
    (s.wsSet c a b).tbPoison = s.tbPoison ∧ (s.wsSet c a b).wsErr = s.wsErr ∧ (s.wsSet c a b).amErr = s.amErr ∧
    (s.wsSet c a b).psmErr = s.psmErr ∧ (s.wsSet c a b).csErr = s.csErr ∧ (s.wsSet c a b).iramErr = s.iramErr ∧
    (s.wsSet c a b).dramErr = s.dramErr ∧ (s.wsSet c a b).pmErr = s.pmErr ∧ (s.wsSet c a b).cores = s.cores ∧
    (s.wsSet c a b).dies = s.dies ∧ (s.wsSet c a b).ctxs = s.ctxs ∧ (s.wsSet c a b).chains = s.chains ∧
    (s.wsSet c a b).links = s.links ∧ (s.wsSet c a b).routers = s.routers ∧ (s.wsSet c a b).rgroups = s.rgroups ∧
    (s.wsSet c a b).rings = s.rings ∧ (s.wsSet c a b).funcs = s.funcs ∧ (s.wsSet c a b).mod = s.mod ∧
    (s.wsSet c a b).out = s.out ∧ (∀ (c' : CoreId) (w' : Nat), (s.wsSet c a b).psmWord c' w' = s.psmWord c' w') ∧ (∀ (c' : CoreId) (w' : Nat), (s.wsSet c a b).psmPois c' w' = s.psmPois c' w') ∧
    (∀ (c' : CoreId) (a' n' : Nat), (s.wsSet c a b).amBytes c' a' n' = s.amBytes c' a' n') ∧ (∀ (c' : CoreId) (l' : Nat), (s.wsSet c a b).amPois c' l' = s.amPois c' l') ∧ (∀ (c' : CoreId) (b' r' j' : Nat), (s.wsSet c a b).tbLane c' b' r' j' = s.tbLane c' b' r' j') ∧
    (∀ (d' : DieId) (u' : Nat), (s.wsSet c a b).csUnit d' u' = s.csUnit d' u') ∧ (∀ (c' : CoreId), (s.wsSet c a b).core c' = s.core c') ∧ (∀ (c' : CoreId), (s.wsSet c a b).arr c' = s.arr c') ∧
    (∀ (d' : DieId), (s.wsSet c a b).die d' = s.die d') ∧ (∀ (d' : DieId), (s.wsSet c a b).pgm d' = s.pgm d') ∧ (∀ (x' : Ctx), (s.wsSet c a b).ctx x' = s.ctx x') ∧
    (∀ (e' : Encl), (s.wsSet c a b).chain e' = s.chain e') ∧ (∀ (l' : LinkId), (s.wsSet c a b).link l' = s.link l') ∧ (∀ (i' : IoId), (s.wsSet c a b).router i' = s.router i') ∧
    (∀ (g' : Nat), (s.wsSet c a b).group g' = s.group g') ∧ (∀ (v' : VfId) (r' : RingId), (s.wsSet c a b).ring v' r' = s.ring v' r') ∧ (∀ (f' : Nat), (s.wsSet c a b).func f' = s.func f') ∧
    (∀ (b' : Blk) (o' : Nat), (s.wsSet c a b).reg b' o' = s.reg b' o') ∧ (∀ (b' : Blk) (o' h' l' : Nat), (s.wsSet c a b).fld b' o' h' l' = s.fld b' o' h' l') :=
  ⟨rfl, rfl, rfl, rfl, rfl, rfl, rfl, rfl, rfl, rfl, rfl, rfl, rfl, rfl, rfl, rfl, rfl, rfl, rfl, rfl, rfl, rfl, rfl, rfl, rfl, rfl, rfl, rfl, rfl, rfl, rfl, rfl, rfl, rfl, rfl, rfl, rfl, fun _ _ => rfl, fun _ _ => rfl, fun _ _ _ => rfl, fun _ _ => rfl, fun _ _ _ _ => rfl, fun _ _ => rfl, fun _ => rfl, fun _ => rfl, fun _ => rfl, fun _ => rfl, fun _ => rfl, fun _ => rfl, fun _ => rfl, fun _ => rfl, fun _ => rfl, fun _ _ => rfl, fun _ => rfl, fun _ _ => rfl, fun _ _ _ _ => rfl⟩

@[simp] theorem State.csUnitSet_frame (d : DieId) (u : Nat) (b : List Byte) (p : Bool) :
    (s.csUnitSet d u b p).pending = s.pending ∧ (s.csUnitSet d u b p).ac = s.ac ∧ (s.csUnitSet d u b p).now = s.now ∧
    (s.csUnitSet d u b p).free = s.free ∧ (s.csUnitSet d u b p).regs = s.regs ∧ (s.csUnitSet d u b p).latches = s.latches ∧
    (s.csUnitSet d u b p).deferred = s.deferred ∧ (s.csUnitSet d u b p).ws = s.ws ∧ (s.csUnitSet d u b p).am = s.am ∧
    (s.csUnitSet d u b p).psm = s.psm ∧ (s.csUnitSet d u b p).tb = s.tb ∧ (s.csUnitSet d u b p).pm = s.pm ∧
    (s.csUnitSet d u b p).iram = s.iram ∧ (s.csUnitSet d u b p).dram = s.dram ∧ (s.csUnitSet d u b p).mail = s.mail ∧
    (s.csUnitSet d u b p).amPoison = s.amPoison ∧ (s.csUnitSet d u b p).psmPoison = s.psmPoison ∧ (s.csUnitSet d u b p).tbPoison = s.tbPoison ∧
    (s.csUnitSet d u b p).wsErr = s.wsErr ∧ (s.csUnitSet d u b p).amErr = s.amErr ∧ (s.csUnitSet d u b p).psmErr = s.psmErr ∧
    (s.csUnitSet d u b p).csErr = s.csErr ∧ (s.csUnitSet d u b p).iramErr = s.iramErr ∧ (s.csUnitSet d u b p).dramErr = s.dramErr ∧
    (s.csUnitSet d u b p).pmErr = s.pmErr ∧ (s.csUnitSet d u b p).cores = s.cores ∧ (s.csUnitSet d u b p).dies = s.dies ∧
    (s.csUnitSet d u b p).ctxs = s.ctxs ∧ (s.csUnitSet d u b p).chains = s.chains ∧ (s.csUnitSet d u b p).links = s.links ∧
    (s.csUnitSet d u b p).routers = s.routers ∧ (s.csUnitSet d u b p).rgroups = s.rgroups ∧ (s.csUnitSet d u b p).rings = s.rings ∧
    (s.csUnitSet d u b p).funcs = s.funcs ∧ (s.csUnitSet d u b p).mod = s.mod ∧ (s.csUnitSet d u b p).out = s.out ∧
    (∀ (c' : CoreId) (w' : Nat), (s.csUnitSet d u b p).psmWord c' w' = s.psmWord c' w') ∧ (∀ (c' : CoreId) (w' : Nat), (s.csUnitSet d u b p).psmPois c' w' = s.psmPois c' w') ∧ (∀ (c' : CoreId) (a' n' : Nat), (s.csUnitSet d u b p).amBytes c' a' n' = s.amBytes c' a' n') ∧
    (∀ (c' : CoreId) (l' : Nat), (s.csUnitSet d u b p).amPois c' l' = s.amPois c' l') ∧ (∀ (c' : CoreId) (a' n' : Nat), (s.csUnitSet d u b p).wsBytes c' a' n' = s.wsBytes c' a' n') ∧ (∀ (c' : CoreId) (b' r' j' : Nat), (s.csUnitSet d u b p).tbLane c' b' r' j' = s.tbLane c' b' r' j') ∧
    (∀ (c' : CoreId), (s.csUnitSet d u b p).core c' = s.core c') ∧ (∀ (c' : CoreId), (s.csUnitSet d u b p).arr c' = s.arr c') ∧ (∀ (d' : DieId), (s.csUnitSet d u b p).die d' = s.die d') ∧
    (∀ (d' : DieId), (s.csUnitSet d u b p).pgm d' = s.pgm d') ∧ (∀ (x' : Ctx), (s.csUnitSet d u b p).ctx x' = s.ctx x') ∧ (∀ (e' : Encl), (s.csUnitSet d u b p).chain e' = s.chain e') ∧
    (∀ (l' : LinkId), (s.csUnitSet d u b p).link l' = s.link l') ∧ (∀ (i' : IoId), (s.csUnitSet d u b p).router i' = s.router i') ∧ (∀ (g' : Nat), (s.csUnitSet d u b p).group g' = s.group g') ∧
    (∀ (v' : VfId) (r' : RingId), (s.csUnitSet d u b p).ring v' r' = s.ring v' r') ∧ (∀ (f' : Nat), (s.csUnitSet d u b p).func f' = s.func f') ∧ (∀ (b' : Blk) (o' : Nat), (s.csUnitSet d u b p).reg b' o' = s.reg b' o') ∧
    (∀ (b' : Blk) (o' h' l' : Nat), (s.csUnitSet d u b p).fld b' o' h' l' = s.fld b' o' h' l') :=
  ⟨rfl, rfl, rfl, rfl, rfl, rfl, rfl, rfl, rfl, rfl, rfl, rfl, rfl, rfl, rfl, rfl, rfl, rfl, rfl, rfl, rfl, rfl, rfl, rfl, rfl, rfl, rfl, rfl, rfl, rfl, rfl, rfl, rfl, rfl, rfl, rfl, fun _ _ => rfl, fun _ _ => rfl, fun _ _ _ => rfl, fun _ _ => rfl, fun _ _ _ => rfl, fun _ _ _ _ => rfl, fun _ => rfl, fun _ => rfl, fun _ => rfl, fun _ => rfl, fun _ => rfl, fun _ => rfl, fun _ => rfl, fun _ => rfl, fun _ => rfl, fun _ _ => rfl, fun _ => rfl, fun _ _ => rfl, fun _ _ _ _ => rfl⟩

@[simp] theorem State.setPsmPois_frame (c : CoreId) (w : Nat) (p : Bool) :
    (s.setPsmPois c w p).pending = s.pending ∧ (s.setPsmPois c w p).ac = s.ac ∧ (s.setPsmPois c w p).now = s.now ∧
    (s.setPsmPois c w p).free = s.free ∧ (s.setPsmPois c w p).regs = s.regs ∧ (s.setPsmPois c w p).latches = s.latches ∧
    (s.setPsmPois c w p).deferred = s.deferred ∧ (s.setPsmPois c w p).ws = s.ws ∧ (s.setPsmPois c w p).am = s.am ∧
    (s.setPsmPois c w p).psm = s.psm ∧ (s.setPsmPois c w p).cs = s.cs ∧ (s.setPsmPois c w p).tb = s.tb ∧
    (s.setPsmPois c w p).pm = s.pm ∧ (s.setPsmPois c w p).iram = s.iram ∧ (s.setPsmPois c w p).dram = s.dram ∧
    (s.setPsmPois c w p).mail = s.mail ∧ (s.setPsmPois c w p).amPoison = s.amPoison ∧ (s.setPsmPois c w p).csPoison = s.csPoison ∧
    (s.setPsmPois c w p).tbPoison = s.tbPoison ∧ (s.setPsmPois c w p).wsErr = s.wsErr ∧ (s.setPsmPois c w p).amErr = s.amErr ∧
    (s.setPsmPois c w p).psmErr = s.psmErr ∧ (s.setPsmPois c w p).csErr = s.csErr ∧ (s.setPsmPois c w p).iramErr = s.iramErr ∧
    (s.setPsmPois c w p).dramErr = s.dramErr ∧ (s.setPsmPois c w p).pmErr = s.pmErr ∧ (s.setPsmPois c w p).cores = s.cores ∧
    (s.setPsmPois c w p).dies = s.dies ∧ (s.setPsmPois c w p).ctxs = s.ctxs ∧ (s.setPsmPois c w p).chains = s.chains ∧
    (s.setPsmPois c w p).links = s.links ∧ (s.setPsmPois c w p).routers = s.routers ∧ (s.setPsmPois c w p).rgroups = s.rgroups ∧
    (s.setPsmPois c w p).rings = s.rings ∧ (s.setPsmPois c w p).funcs = s.funcs ∧ (s.setPsmPois c w p).mod = s.mod ∧
    (s.setPsmPois c w p).out = s.out ∧ (∀ (c' : CoreId) (w' : Nat), (s.setPsmPois c w p).psmWord c' w' = s.psmWord c' w') ∧ (∀ (c' : CoreId) (a' n' : Nat), (s.setPsmPois c w p).amBytes c' a' n' = s.amBytes c' a' n') ∧
    (∀ (c' : CoreId) (l' : Nat), (s.setPsmPois c w p).amPois c' l' = s.amPois c' l') ∧ (∀ (c' : CoreId) (a' n' : Nat), (s.setPsmPois c w p).wsBytes c' a' n' = s.wsBytes c' a' n') ∧ (∀ (c' : CoreId) (b' r' j' : Nat), (s.setPsmPois c w p).tbLane c' b' r' j' = s.tbLane c' b' r' j') ∧
    (∀ (d' : DieId) (u' : Nat), (s.setPsmPois c w p).csUnit d' u' = s.csUnit d' u') ∧ (∀ (c' : CoreId), (s.setPsmPois c w p).core c' = s.core c') ∧ (∀ (c' : CoreId), (s.setPsmPois c w p).arr c' = s.arr c') ∧
    (∀ (d' : DieId), (s.setPsmPois c w p).die d' = s.die d') ∧ (∀ (d' : DieId), (s.setPsmPois c w p).pgm d' = s.pgm d') ∧ (∀ (x' : Ctx), (s.setPsmPois c w p).ctx x' = s.ctx x') ∧
    (∀ (e' : Encl), (s.setPsmPois c w p).chain e' = s.chain e') ∧ (∀ (l' : LinkId), (s.setPsmPois c w p).link l' = s.link l') ∧ (∀ (i' : IoId), (s.setPsmPois c w p).router i' = s.router i') ∧
    (∀ (g' : Nat), (s.setPsmPois c w p).group g' = s.group g') ∧ (∀ (v' : VfId) (r' : RingId), (s.setPsmPois c w p).ring v' r' = s.ring v' r') ∧ (∀ (f' : Nat), (s.setPsmPois c w p).func f' = s.func f') ∧
    (∀ (b' : Blk) (o' : Nat), (s.setPsmPois c w p).reg b' o' = s.reg b' o') ∧ (∀ (b' : Blk) (o' h' l' : Nat), (s.setPsmPois c w p).fld b' o' h' l' = s.fld b' o' h' l') :=
  ⟨rfl, rfl, rfl, rfl, rfl, rfl, rfl, rfl, rfl, rfl, rfl, rfl, rfl, rfl, rfl, rfl, rfl, rfl, rfl, rfl, rfl, rfl, rfl, rfl, rfl, rfl, rfl, rfl, rfl, rfl, rfl, rfl, rfl, rfl, rfl, rfl, rfl, fun _ _ => rfl, fun _ _ _ => rfl, fun _ _ => rfl, fun _ _ _ => rfl, fun _ _ _ _ => rfl, fun _ _ => rfl, fun _ => rfl, fun _ => rfl, fun _ => rfl, fun _ => rfl, fun _ => rfl, fun _ => rfl, fun _ => rfl, fun _ => rfl, fun _ => rfl, fun _ _ => rfl, fun _ => rfl, fun _ _ => rfl, fun _ _ _ _ => rfl⟩

@[simp] theorem State.psmBytesSet_frame (a : Nat) (b : List Byte) :
    (s.psmBytesSet a b).pending = s.pending ∧ (s.psmBytesSet a b).ac = s.ac ∧ (s.psmBytesSet a b).now = s.now ∧
    (s.psmBytesSet a b).free = s.free ∧ (s.psmBytesSet a b).regs = s.regs ∧ (s.psmBytesSet a b).latches = s.latches ∧
    (s.psmBytesSet a b).deferred = s.deferred ∧ (s.psmBytesSet a b).ws = s.ws ∧ (s.psmBytesSet a b).am = s.am ∧
    (s.psmBytesSet a b).cs = s.cs ∧ (s.psmBytesSet a b).tb = s.tb ∧ (s.psmBytesSet a b).pm = s.pm ∧
    (s.psmBytesSet a b).iram = s.iram ∧ (s.psmBytesSet a b).dram = s.dram ∧ (s.psmBytesSet a b).mail = s.mail ∧
    (s.psmBytesSet a b).amPoison = s.amPoison ∧ (s.psmBytesSet a b).psmPoison = s.psmPoison ∧ (s.psmBytesSet a b).csPoison = s.csPoison ∧
    (s.psmBytesSet a b).tbPoison = s.tbPoison ∧ (s.psmBytesSet a b).wsErr = s.wsErr ∧ (s.psmBytesSet a b).amErr = s.amErr ∧
    (s.psmBytesSet a b).psmErr = s.psmErr ∧ (s.psmBytesSet a b).csErr = s.csErr ∧ (s.psmBytesSet a b).iramErr = s.iramErr ∧
    (s.psmBytesSet a b).dramErr = s.dramErr ∧ (s.psmBytesSet a b).pmErr = s.pmErr ∧ (s.psmBytesSet a b).cores = s.cores ∧
    (s.psmBytesSet a b).dies = s.dies ∧ (s.psmBytesSet a b).ctxs = s.ctxs ∧ (s.psmBytesSet a b).chains = s.chains ∧
    (s.psmBytesSet a b).links = s.links ∧ (s.psmBytesSet a b).routers = s.routers ∧ (s.psmBytesSet a b).rgroups = s.rgroups ∧
    (s.psmBytesSet a b).rings = s.rings ∧ (s.psmBytesSet a b).funcs = s.funcs ∧ (s.psmBytesSet a b).mod = s.mod ∧
    (s.psmBytesSet a b).out = s.out ∧ (∀ (c' : CoreId) (w' : Nat), (s.psmBytesSet a b).psmPois c' w' = s.psmPois c' w') ∧ (∀ (c' : CoreId) (a' n' : Nat), (s.psmBytesSet a b).amBytes c' a' n' = s.amBytes c' a' n') ∧
    (∀ (c' : CoreId) (l' : Nat), (s.psmBytesSet a b).amPois c' l' = s.amPois c' l') ∧ (∀ (c' : CoreId) (a' n' : Nat), (s.psmBytesSet a b).wsBytes c' a' n' = s.wsBytes c' a' n') ∧ (∀ (c' : CoreId) (b' r' j' : Nat), (s.psmBytesSet a b).tbLane c' b' r' j' = s.tbLane c' b' r' j') ∧
    (∀ (d' : DieId) (u' : Nat), (s.psmBytesSet a b).csUnit d' u' = s.csUnit d' u') ∧ (∀ (c' : CoreId), (s.psmBytesSet a b).core c' = s.core c') ∧ (∀ (c' : CoreId), (s.psmBytesSet a b).arr c' = s.arr c') ∧
    (∀ (d' : DieId), (s.psmBytesSet a b).die d' = s.die d') ∧ (∀ (d' : DieId), (s.psmBytesSet a b).pgm d' = s.pgm d') ∧ (∀ (x' : Ctx), (s.psmBytesSet a b).ctx x' = s.ctx x') ∧
    (∀ (e' : Encl), (s.psmBytesSet a b).chain e' = s.chain e') ∧ (∀ (l' : LinkId), (s.psmBytesSet a b).link l' = s.link l') ∧ (∀ (i' : IoId), (s.psmBytesSet a b).router i' = s.router i') ∧
    (∀ (g' : Nat), (s.psmBytesSet a b).group g' = s.group g') ∧ (∀ (v' : VfId) (r' : RingId), (s.psmBytesSet a b).ring v' r' = s.ring v' r') ∧ (∀ (f' : Nat), (s.psmBytesSet a b).func f' = s.func f') ∧
    (∀ (b' : Blk) (o' : Nat), (s.psmBytesSet a b).reg b' o' = s.reg b' o') ∧ (∀ (b' : Blk) (o' h' l' : Nat), (s.psmBytesSet a b).fld b' o' h' l' = s.fld b' o' h' l') :=
  ⟨rfl, rfl, rfl, rfl, rfl, rfl, rfl, rfl, rfl, rfl, rfl, rfl, rfl, rfl, rfl, rfl, rfl, rfl, rfl, rfl, rfl, rfl, rfl, rfl, rfl, rfl, rfl, rfl, rfl, rfl, rfl, rfl, rfl, rfl, rfl, rfl, rfl, fun _ _ => rfl, fun _ _ _ => rfl, fun _ _ => rfl, fun _ _ _ => rfl, fun _ _ _ _ => rfl, fun _ _ => rfl, fun _ => rfl, fun _ => rfl, fun _ => rfl, fun _ => rfl, fun _ => rfl, fun _ => rfl, fun _ => rfl, fun _ => rfl, fun _ => rfl, fun _ _ => rfl, fun _ => rfl, fun _ _ => rfl, fun _ _ _ _ => rfl⟩

@[simp] theorem State.tbSet_frame (a : Nat) (b : List Byte) :
    (s.tbSet a b).pending = s.pending ∧ (s.tbSet a b).ac = s.ac ∧ (s.tbSet a b).now = s.now ∧
    (s.tbSet a b).free = s.free ∧ (s.tbSet a b).regs = s.regs ∧ (s.tbSet a b).latches = s.latches ∧
    (s.tbSet a b).deferred = s.deferred ∧ (s.tbSet a b).ws = s.ws ∧ (s.tbSet a b).am = s.am ∧
    (s.tbSet a b).psm = s.psm ∧ (s.tbSet a b).cs = s.cs ∧ (s.tbSet a b).pm = s.pm ∧
    (s.tbSet a b).iram = s.iram ∧ (s.tbSet a b).dram = s.dram ∧ (s.tbSet a b).mail = s.mail ∧
    (s.tbSet a b).amPoison = s.amPoison ∧ (s.tbSet a b).psmPoison = s.psmPoison ∧ (s.tbSet a b).csPoison = s.csPoison ∧
    (s.tbSet a b).tbPoison = s.tbPoison ∧ (s.tbSet a b).wsErr = s.wsErr ∧ (s.tbSet a b).amErr = s.amErr ∧
    (s.tbSet a b).psmErr = s.psmErr ∧ (s.tbSet a b).csErr = s.csErr ∧ (s.tbSet a b).iramErr = s.iramErr ∧
    (s.tbSet a b).dramErr = s.dramErr ∧ (s.tbSet a b).pmErr = s.pmErr ∧ (s.tbSet a b).cores = s.cores ∧
    (s.tbSet a b).dies = s.dies ∧ (s.tbSet a b).ctxs = s.ctxs ∧ (s.tbSet a b).chains = s.chains ∧
    (s.tbSet a b).links = s.links ∧ (s.tbSet a b).routers = s.routers ∧ (s.tbSet a b).rgroups = s.rgroups ∧
    (s.tbSet a b).rings = s.rings ∧ (s.tbSet a b).funcs = s.funcs ∧ (s.tbSet a b).mod = s.mod ∧
    (s.tbSet a b).out = s.out ∧ (∀ (c' : CoreId) (w' : Nat), (s.tbSet a b).psmWord c' w' = s.psmWord c' w') ∧ (∀ (c' : CoreId) (w' : Nat), (s.tbSet a b).psmPois c' w' = s.psmPois c' w') ∧
    (∀ (c' : CoreId) (a' n' : Nat), (s.tbSet a b).amBytes c' a' n' = s.amBytes c' a' n') ∧ (∀ (c' : CoreId) (l' : Nat), (s.tbSet a b).amPois c' l' = s.amPois c' l') ∧ (∀ (c' : CoreId) (a' n' : Nat), (s.tbSet a b).wsBytes c' a' n' = s.wsBytes c' a' n') ∧
    (∀ (d' : DieId) (u' : Nat), (s.tbSet a b).csUnit d' u' = s.csUnit d' u') ∧ (∀ (c' : CoreId), (s.tbSet a b).core c' = s.core c') ∧ (∀ (c' : CoreId), (s.tbSet a b).arr c' = s.arr c') ∧
    (∀ (d' : DieId), (s.tbSet a b).die d' = s.die d') ∧ (∀ (d' : DieId), (s.tbSet a b).pgm d' = s.pgm d') ∧ (∀ (x' : Ctx), (s.tbSet a b).ctx x' = s.ctx x') ∧
    (∀ (e' : Encl), (s.tbSet a b).chain e' = s.chain e') ∧ (∀ (l' : LinkId), (s.tbSet a b).link l' = s.link l') ∧ (∀ (i' : IoId), (s.tbSet a b).router i' = s.router i') ∧
    (∀ (g' : Nat), (s.tbSet a b).group g' = s.group g') ∧ (∀ (v' : VfId) (r' : RingId), (s.tbSet a b).ring v' r' = s.ring v' r') ∧ (∀ (f' : Nat), (s.tbSet a b).func f' = s.func f') ∧
    (∀ (b' : Blk) (o' : Nat), (s.tbSet a b).reg b' o' = s.reg b' o') ∧ (∀ (b' : Blk) (o' h' l' : Nat), (s.tbSet a b).fld b' o' h' l' = s.fld b' o' h' l') :=
  ⟨rfl, rfl, rfl, rfl, rfl, rfl, rfl, rfl, rfl, rfl, rfl, rfl, rfl, rfl, rfl, rfl, rfl, rfl, rfl, rfl, rfl, rfl, rfl, rfl, rfl, rfl, rfl, rfl, rfl, rfl, rfl, rfl, rfl, rfl, rfl, rfl, rfl, fun _ _ => rfl, fun _ _ => rfl, fun _ _ _ => rfl, fun _ _ => rfl, fun _ _ _ => rfl, fun _ _ => rfl, fun _ => rfl, fun _ => rfl, fun _ => rfl, fun _ => rfl, fun _ => rfl, fun _ => rfl, fun _ => rfl, fun _ => rfl, fun _ => rfl, fun _ _ => rfl, fun _ => rfl, fun _ _ => rfl, fun _ _ _ _ => rfl⟩

@[simp] theorem State.csSet_frame (a : Nat) (b : List Byte) :
    (s.csSet a b).pending = s.pending ∧ (s.csSet a b).ac = s.ac ∧ (s.csSet a b).now = s.now ∧
    (s.csSet a b).free = s.free ∧ (s.csSet a b).regs = s.regs ∧ (s.csSet a b).latches = s.latches ∧
    (s.csSet a b).deferred = s.deferred ∧ (s.csSet a b).ws = s.ws ∧ (s.csSet a b).am = s.am ∧
    (s.csSet a b).psm = s.psm ∧ (s.csSet a b).tb = s.tb ∧ (s.csSet a b).pm = s.pm ∧
    (s.csSet a b).iram = s.iram ∧ (s.csSet a b).dram = s.dram ∧ (s.csSet a b).mail = s.mail ∧
    (s.csSet a b).amPoison = s.amPoison ∧ (s.csSet a b).psmPoison = s.psmPoison ∧ (s.csSet a b).csPoison = s.csPoison ∧
    (s.csSet a b).tbPoison = s.tbPoison ∧ (s.csSet a b).wsErr = s.wsErr ∧ (s.csSet a b).amErr = s.amErr ∧
    (s.csSet a b).psmErr = s.psmErr ∧ (s.csSet a b).csErr = s.csErr ∧ (s.csSet a b).iramErr = s.iramErr ∧
    (s.csSet a b).dramErr = s.dramErr ∧ (s.csSet a b).pmErr = s.pmErr ∧ (s.csSet a b).cores = s.cores ∧
    (s.csSet a b).dies = s.dies ∧ (s.csSet a b).ctxs = s.ctxs ∧ (s.csSet a b).chains = s.chains ∧
    (s.csSet a b).links = s.links ∧ (s.csSet a b).routers = s.routers ∧ (s.csSet a b).rgroups = s.rgroups ∧
    (s.csSet a b).rings = s.rings ∧ (s.csSet a b).funcs = s.funcs ∧ (s.csSet a b).mod = s.mod ∧
    (s.csSet a b).out = s.out ∧ (∀ (c' : CoreId) (w' : Nat), (s.csSet a b).psmWord c' w' = s.psmWord c' w') ∧ (∀ (c' : CoreId) (w' : Nat), (s.csSet a b).psmPois c' w' = s.psmPois c' w') ∧
    (∀ (c' : CoreId) (a' n' : Nat), (s.csSet a b).amBytes c' a' n' = s.amBytes c' a' n') ∧ (∀ (c' : CoreId) (l' : Nat), (s.csSet a b).amPois c' l' = s.amPois c' l') ∧ (∀ (c' : CoreId) (a' n' : Nat), (s.csSet a b).wsBytes c' a' n' = s.wsBytes c' a' n') ∧
    (∀ (c' : CoreId) (b' r' j' : Nat), (s.csSet a b).tbLane c' b' r' j' = s.tbLane c' b' r' j') ∧ (∀ (c' : CoreId), (s.csSet a b).core c' = s.core c') ∧ (∀ (c' : CoreId), (s.csSet a b).arr c' = s.arr c') ∧
    (∀ (d' : DieId), (s.csSet a b).die d' = s.die d') ∧ (∀ (d' : DieId), (s.csSet a b).pgm d' = s.pgm d') ∧ (∀ (x' : Ctx), (s.csSet a b).ctx x' = s.ctx x') ∧
    (∀ (e' : Encl), (s.csSet a b).chain e' = s.chain e') ∧ (∀ (l' : LinkId), (s.csSet a b).link l' = s.link l') ∧ (∀ (i' : IoId), (s.csSet a b).router i' = s.router i') ∧
    (∀ (g' : Nat), (s.csSet a b).group g' = s.group g') ∧ (∀ (v' : VfId) (r' : RingId), (s.csSet a b).ring v' r' = s.ring v' r') ∧ (∀ (f' : Nat), (s.csSet a b).func f' = s.func f') ∧
    (∀ (b' : Blk) (o' : Nat), (s.csSet a b).reg b' o' = s.reg b' o') ∧ (∀ (b' : Blk) (o' h' l' : Nat), (s.csSet a b).fld b' o' h' l' = s.fld b' o' h' l') :=
  ⟨rfl, rfl, rfl, rfl, rfl, rfl, rfl, rfl, rfl, rfl, rfl, rfl, rfl, rfl, rfl, rfl, rfl, rfl, rfl, rfl, rfl, rfl, rfl, rfl, rfl, rfl, rfl, rfl, rfl, rfl, rfl, rfl, rfl, rfl, rfl, rfl, rfl, fun _ _ => rfl, fun _ _ => rfl, fun _ _ _ => rfl, fun _ _ => rfl, fun _ _ _ => rfl, fun _ _ _ _ => rfl, fun _ => rfl, fun _ => rfl, fun _ => rfl, fun _ => rfl, fun _ => rfl, fun _ => rfl, fun _ => rfl, fun _ => rfl, fun _ => rfl, fun _ _ => rfl, fun _ => rfl, fun _ _ => rfl, fun _ _ _ _ => rfl⟩

@[simp] theorem State.pmSet_frame (a : Nat) (b : List Byte) :
    (s.pmSet a b).pending = s.pending ∧ (s.pmSet a b).ac = s.ac ∧ (s.pmSet a b).now = s.now ∧
    (s.pmSet a b).free = s.free ∧ (s.pmSet a b).regs = s.regs ∧ (s.pmSet a b).latches = s.latches ∧
    (s.pmSet a b).deferred = s.deferred ∧ (s.pmSet a b).ws = s.ws ∧ (s.pmSet a b).am = s.am ∧
    (s.pmSet a b).psm = s.psm ∧ (s.pmSet a b).cs = s.cs ∧ (s.pmSet a b).tb = s.tb ∧
    (s.pmSet a b).iram = s.iram ∧ (s.pmSet a b).dram = s.dram ∧ (s.pmSet a b).mail = s.mail ∧
    (s.pmSet a b).amPoison = s.amPoison ∧ (s.pmSet a b).psmPoison = s.psmPoison ∧ (s.pmSet a b).csPoison = s.csPoison ∧
    (s.pmSet a b).tbPoison = s.tbPoison ∧ (s.pmSet a b).wsErr = s.wsErr ∧ (s.pmSet a b).amErr = s.amErr ∧
    (s.pmSet a b).psmErr = s.psmErr ∧ (s.pmSet a b).csErr = s.csErr ∧ (s.pmSet a b).iramErr = s.iramErr ∧
    (s.pmSet a b).dramErr = s.dramErr ∧ (s.pmSet a b).pmErr = s.pmErr ∧ (s.pmSet a b).cores = s.cores ∧
    (s.pmSet a b).dies = s.dies ∧ (s.pmSet a b).ctxs = s.ctxs ∧ (s.pmSet a b).chains = s.chains ∧
    (s.pmSet a b).links = s.links ∧ (s.pmSet a b).routers = s.routers ∧ (s.pmSet a b).rgroups = s.rgroups ∧
    (s.pmSet a b).rings = s.rings ∧ (s.pmSet a b).funcs = s.funcs ∧ (s.pmSet a b).mod = s.mod ∧
    (s.pmSet a b).out = s.out ∧ (∀ (c' : CoreId) (w' : Nat), (s.pmSet a b).psmWord c' w' = s.psmWord c' w') ∧ (∀ (c' : CoreId) (w' : Nat), (s.pmSet a b).psmPois c' w' = s.psmPois c' w') ∧
    (∀ (c' : CoreId) (a' n' : Nat), (s.pmSet a b).amBytes c' a' n' = s.amBytes c' a' n') ∧ (∀ (c' : CoreId) (l' : Nat), (s.pmSet a b).amPois c' l' = s.amPois c' l') ∧ (∀ (c' : CoreId) (a' n' : Nat), (s.pmSet a b).wsBytes c' a' n' = s.wsBytes c' a' n') ∧
    (∀ (c' : CoreId) (b' r' j' : Nat), (s.pmSet a b).tbLane c' b' r' j' = s.tbLane c' b' r' j') ∧ (∀ (d' : DieId) (u' : Nat), (s.pmSet a b).csUnit d' u' = s.csUnit d' u') ∧ (∀ (c' : CoreId), (s.pmSet a b).core c' = s.core c') ∧
    (∀ (c' : CoreId), (s.pmSet a b).arr c' = s.arr c') ∧ (∀ (d' : DieId), (s.pmSet a b).die d' = s.die d') ∧ (∀ (d' : DieId), (s.pmSet a b).pgm d' = s.pgm d') ∧
    (∀ (x' : Ctx), (s.pmSet a b).ctx x' = s.ctx x') ∧ (∀ (e' : Encl), (s.pmSet a b).chain e' = s.chain e') ∧ (∀ (l' : LinkId), (s.pmSet a b).link l' = s.link l') ∧
    (∀ (i' : IoId), (s.pmSet a b).router i' = s.router i') ∧ (∀ (g' : Nat), (s.pmSet a b).group g' = s.group g') ∧ (∀ (v' : VfId) (r' : RingId), (s.pmSet a b).ring v' r' = s.ring v' r') ∧
    (∀ (f' : Nat), (s.pmSet a b).func f' = s.func f') ∧ (∀ (b' : Blk) (o' : Nat), (s.pmSet a b).reg b' o' = s.reg b' o') ∧ (∀ (b' : Blk) (o' h' l' : Nat), (s.pmSet a b).fld b' o' h' l' = s.fld b' o' h' l') :=
  ⟨rfl, rfl, rfl, rfl, rfl, rfl, rfl, rfl, rfl, rfl, rfl, rfl, rfl, rfl, rfl, rfl, rfl, rfl, rfl, rfl, rfl, rfl, rfl, rfl, rfl, rfl, rfl, rfl, rfl, rfl, rfl, rfl, rfl, rfl, rfl, rfl, rfl, fun _ _ => rfl, fun _ _ => rfl, fun _ _ _ => rfl, fun _ _ => rfl, fun _ _ _ => rfl, fun _ _ _ _ => rfl, fun _ _ => rfl, fun _ => rfl, fun _ => rfl, fun _ => rfl, fun _ => rfl, fun _ => rfl, fun _ => rfl, fun _ => rfl, fun _ => rfl, fun _ => rfl, fun _ _ => rfl, fun _ => rfl, fun _ _ => rfl, fun _ _ _ _ => rfl⟩

@[simp] theorem State.iramSet_frame (a : Nat) (b : List Byte) :
    (s.iramSet a b).pending = s.pending ∧ (s.iramSet a b).ac = s.ac ∧ (s.iramSet a b).now = s.now ∧
    (s.iramSet a b).free = s.free ∧ (s.iramSet a b).regs = s.regs ∧ (s.iramSet a b).latches = s.latches ∧
    (s.iramSet a b).deferred = s.deferred ∧ (s.iramSet a b).ws = s.ws ∧ (s.iramSet a b).am = s.am ∧
    (s.iramSet a b).psm = s.psm ∧ (s.iramSet a b).cs = s.cs ∧ (s.iramSet a b).tb = s.tb ∧
    (s.iramSet a b).pm = s.pm ∧ (s.iramSet a b).dram = s.dram ∧ (s.iramSet a b).mail = s.mail ∧
    (s.iramSet a b).amPoison = s.amPoison ∧ (s.iramSet a b).psmPoison = s.psmPoison ∧ (s.iramSet a b).csPoison = s.csPoison ∧
    (s.iramSet a b).tbPoison = s.tbPoison ∧ (s.iramSet a b).wsErr = s.wsErr ∧ (s.iramSet a b).amErr = s.amErr ∧
    (s.iramSet a b).psmErr = s.psmErr ∧ (s.iramSet a b).csErr = s.csErr ∧ (s.iramSet a b).iramErr = s.iramErr ∧
    (s.iramSet a b).dramErr = s.dramErr ∧ (s.iramSet a b).pmErr = s.pmErr ∧ (s.iramSet a b).cores = s.cores ∧
    (s.iramSet a b).dies = s.dies ∧ (s.iramSet a b).ctxs = s.ctxs ∧ (s.iramSet a b).chains = s.chains ∧
    (s.iramSet a b).links = s.links ∧ (s.iramSet a b).routers = s.routers ∧ (s.iramSet a b).rgroups = s.rgroups ∧
    (s.iramSet a b).rings = s.rings ∧ (s.iramSet a b).funcs = s.funcs ∧ (s.iramSet a b).mod = s.mod ∧
    (s.iramSet a b).out = s.out ∧ (∀ (c' : CoreId) (w' : Nat), (s.iramSet a b).psmWord c' w' = s.psmWord c' w') ∧ (∀ (c' : CoreId) (w' : Nat), (s.iramSet a b).psmPois c' w' = s.psmPois c' w') ∧
    (∀ (c' : CoreId) (a' n' : Nat), (s.iramSet a b).amBytes c' a' n' = s.amBytes c' a' n') ∧ (∀ (c' : CoreId) (l' : Nat), (s.iramSet a b).amPois c' l' = s.amPois c' l') ∧ (∀ (c' : CoreId) (a' n' : Nat), (s.iramSet a b).wsBytes c' a' n' = s.wsBytes c' a' n') ∧
    (∀ (c' : CoreId) (b' r' j' : Nat), (s.iramSet a b).tbLane c' b' r' j' = s.tbLane c' b' r' j') ∧ (∀ (d' : DieId) (u' : Nat), (s.iramSet a b).csUnit d' u' = s.csUnit d' u') ∧ (∀ (c' : CoreId), (s.iramSet a b).core c' = s.core c') ∧
    (∀ (c' : CoreId), (s.iramSet a b).arr c' = s.arr c') ∧ (∀ (d' : DieId), (s.iramSet a b).die d' = s.die d') ∧ (∀ (d' : DieId), (s.iramSet a b).pgm d' = s.pgm d') ∧
    (∀ (x' : Ctx), (s.iramSet a b).ctx x' = s.ctx x') ∧ (∀ (e' : Encl), (s.iramSet a b).chain e' = s.chain e') ∧ (∀ (l' : LinkId), (s.iramSet a b).link l' = s.link l') ∧
    (∀ (i' : IoId), (s.iramSet a b).router i' = s.router i') ∧ (∀ (g' : Nat), (s.iramSet a b).group g' = s.group g') ∧ (∀ (v' : VfId) (r' : RingId), (s.iramSet a b).ring v' r' = s.ring v' r') ∧
    (∀ (f' : Nat), (s.iramSet a b).func f' = s.func f') ∧ (∀ (b' : Blk) (o' : Nat), (s.iramSet a b).reg b' o' = s.reg b' o') ∧ (∀ (b' : Blk) (o' h' l' : Nat), (s.iramSet a b).fld b' o' h' l' = s.fld b' o' h' l') :=
  ⟨rfl, rfl, rfl, rfl, rfl, rfl, rfl, rfl, rfl, rfl, rfl, rfl, rfl, rfl, rfl, rfl, rfl, rfl, rfl, rfl, rfl, rfl, rfl, rfl, rfl, rfl, rfl, rfl, rfl, rfl, rfl, rfl, rfl, rfl, rfl, rfl, rfl, fun _ _ => rfl, fun _ _ => rfl, fun _ _ _ => rfl, fun _ _ => rfl, fun _ _ _ => rfl, fun _ _ _ _ => rfl, fun _ _ => rfl, fun _ => rfl, fun _ => rfl, fun _ => rfl, fun _ => rfl, fun _ => rfl, fun _ => rfl, fun _ => rfl, fun _ => rfl, fun _ => rfl, fun _ _ => rfl, fun _ => rfl, fun _ _ => rfl, fun _ _ _ _ => rfl⟩

@[simp] theorem State.dramSet_frame (a : Nat) (b : List Byte) :
    (s.dramSet a b).pending = s.pending ∧ (s.dramSet a b).ac = s.ac ∧ (s.dramSet a b).now = s.now ∧
    (s.dramSet a b).free = s.free ∧ (s.dramSet a b).regs = s.regs ∧ (s.dramSet a b).latches = s.latches ∧
    (s.dramSet a b).deferred = s.deferred ∧ (s.dramSet a b).ws = s.ws ∧ (s.dramSet a b).am = s.am ∧
    (s.dramSet a b).psm = s.psm ∧ (s.dramSet a b).cs = s.cs ∧ (s.dramSet a b).tb = s.tb ∧
    (s.dramSet a b).pm = s.pm ∧ (s.dramSet a b).iram = s.iram ∧ (s.dramSet a b).mail = s.mail ∧
    (s.dramSet a b).amPoison = s.amPoison ∧ (s.dramSet a b).psmPoison = s.psmPoison ∧ (s.dramSet a b).csPoison = s.csPoison ∧
    (s.dramSet a b).tbPoison = s.tbPoison ∧ (s.dramSet a b).wsErr = s.wsErr ∧ (s.dramSet a b).amErr = s.amErr ∧
    (s.dramSet a b).psmErr = s.psmErr ∧ (s.dramSet a b).csErr = s.csErr ∧ (s.dramSet a b).iramErr = s.iramErr ∧
    (s.dramSet a b).dramErr = s.dramErr ∧ (s.dramSet a b).pmErr = s.pmErr ∧ (s.dramSet a b).cores = s.cores ∧
    (s.dramSet a b).dies = s.dies ∧ (s.dramSet a b).ctxs = s.ctxs ∧ (s.dramSet a b).chains = s.chains ∧
    (s.dramSet a b).links = s.links ∧ (s.dramSet a b).routers = s.routers ∧ (s.dramSet a b).rgroups = s.rgroups ∧
    (s.dramSet a b).rings = s.rings ∧ (s.dramSet a b).funcs = s.funcs ∧ (s.dramSet a b).mod = s.mod ∧
    (s.dramSet a b).out = s.out ∧ (∀ (c' : CoreId) (w' : Nat), (s.dramSet a b).psmWord c' w' = s.psmWord c' w') ∧ (∀ (c' : CoreId) (w' : Nat), (s.dramSet a b).psmPois c' w' = s.psmPois c' w') ∧
    (∀ (c' : CoreId) (a' n' : Nat), (s.dramSet a b).amBytes c' a' n' = s.amBytes c' a' n') ∧ (∀ (c' : CoreId) (l' : Nat), (s.dramSet a b).amPois c' l' = s.amPois c' l') ∧ (∀ (c' : CoreId) (a' n' : Nat), (s.dramSet a b).wsBytes c' a' n' = s.wsBytes c' a' n') ∧
    (∀ (c' : CoreId) (b' r' j' : Nat), (s.dramSet a b).tbLane c' b' r' j' = s.tbLane c' b' r' j') ∧ (∀ (d' : DieId) (u' : Nat), (s.dramSet a b).csUnit d' u' = s.csUnit d' u') ∧ (∀ (c' : CoreId), (s.dramSet a b).core c' = s.core c') ∧
    (∀ (c' : CoreId), (s.dramSet a b).arr c' = s.arr c') ∧ (∀ (d' : DieId), (s.dramSet a b).die d' = s.die d') ∧ (∀ (d' : DieId), (s.dramSet a b).pgm d' = s.pgm d') ∧
    (∀ (x' : Ctx), (s.dramSet a b).ctx x' = s.ctx x') ∧ (∀ (e' : Encl), (s.dramSet a b).chain e' = s.chain e') ∧ (∀ (l' : LinkId), (s.dramSet a b).link l' = s.link l') ∧
    (∀ (i' : IoId), (s.dramSet a b).router i' = s.router i') ∧ (∀ (g' : Nat), (s.dramSet a b).group g' = s.group g') ∧ (∀ (v' : VfId) (r' : RingId), (s.dramSet a b).ring v' r' = s.ring v' r') ∧
    (∀ (f' : Nat), (s.dramSet a b).func f' = s.func f') ∧ (∀ (b' : Blk) (o' : Nat), (s.dramSet a b).reg b' o' = s.reg b' o') ∧ (∀ (b' : Blk) (o' h' l' : Nat), (s.dramSet a b).fld b' o' h' l' = s.fld b' o' h' l') :=
  ⟨rfl, rfl, rfl, rfl, rfl, rfl, rfl, rfl, rfl, rfl, rfl, rfl, rfl, rfl, rfl, rfl, rfl, rfl, rfl, rfl, rfl, rfl, rfl, rfl, rfl, rfl, rfl, rfl, rfl, rfl, rfl, rfl, rfl, rfl, rfl, rfl, rfl, fun _ _ => rfl, fun _ _ => rfl, fun _ _ _ => rfl, fun _ _ => rfl, fun _ _ _ => rfl, fun _ _ _ _ => rfl, fun _ _ => rfl, fun _ => rfl, fun _ => rfl, fun _ => rfl, fun _ => rfl, fun _ => rfl, fun _ => rfl, fun _ => rfl, fun _ => rfl, fun _ => rfl, fun _ _ => rfl, fun _ => rfl, fun _ _ => rfl, fun _ _ _ _ => rfl⟩

@[simp] theorem State.mailSet_frame (a : Nat) (b : List Byte) :
    (s.mailSet a b).pending = s.pending ∧ (s.mailSet a b).ac = s.ac ∧ (s.mailSet a b).now = s.now ∧
    (s.mailSet a b).free = s.free ∧ (s.mailSet a b).regs = s.regs ∧ (s.mailSet a b).latches = s.latches ∧
    (s.mailSet a b).deferred = s.deferred ∧ (s.mailSet a b).ws = s.ws ∧ (s.mailSet a b).am = s.am ∧
    (s.mailSet a b).psm = s.psm ∧ (s.mailSet a b).cs = s.cs ∧ (s.mailSet a b).tb = s.tb ∧
    (s.mailSet a b).pm = s.pm ∧ (s.mailSet a b).iram = s.iram ∧ (s.mailSet a b).dram = s.dram ∧
    (s.mailSet a b).amPoison = s.amPoison ∧ (s.mailSet a b).psmPoison = s.psmPoison ∧ (s.mailSet a b).csPoison = s.csPoison ∧
    (s.mailSet a b).tbPoison = s.tbPoison ∧ (s.mailSet a b).wsErr = s.wsErr ∧ (s.mailSet a b).amErr = s.amErr ∧
    (s.mailSet a b).psmErr = s.psmErr ∧ (s.mailSet a b).csErr = s.csErr ∧ (s.mailSet a b).iramErr = s.iramErr ∧
    (s.mailSet a b).dramErr = s.dramErr ∧ (s.mailSet a b).pmErr = s.pmErr ∧ (s.mailSet a b).cores = s.cores ∧
    (s.mailSet a b).dies = s.dies ∧ (s.mailSet a b).ctxs = s.ctxs ∧ (s.mailSet a b).chains = s.chains ∧
    (s.mailSet a b).links = s.links ∧ (s.mailSet a b).routers = s.routers ∧ (s.mailSet a b).rgroups = s.rgroups ∧
    (s.mailSet a b).rings = s.rings ∧ (s.mailSet a b).funcs = s.funcs ∧ (s.mailSet a b).mod = s.mod ∧
    (s.mailSet a b).out = s.out ∧ (∀ (c' : CoreId) (w' : Nat), (s.mailSet a b).psmWord c' w' = s.psmWord c' w') ∧ (∀ (c' : CoreId) (w' : Nat), (s.mailSet a b).psmPois c' w' = s.psmPois c' w') ∧
    (∀ (c' : CoreId) (a' n' : Nat), (s.mailSet a b).amBytes c' a' n' = s.amBytes c' a' n') ∧ (∀ (c' : CoreId) (l' : Nat), (s.mailSet a b).amPois c' l' = s.amPois c' l') ∧ (∀ (c' : CoreId) (a' n' : Nat), (s.mailSet a b).wsBytes c' a' n' = s.wsBytes c' a' n') ∧
    (∀ (c' : CoreId) (b' r' j' : Nat), (s.mailSet a b).tbLane c' b' r' j' = s.tbLane c' b' r' j') ∧ (∀ (d' : DieId) (u' : Nat), (s.mailSet a b).csUnit d' u' = s.csUnit d' u') ∧ (∀ (c' : CoreId), (s.mailSet a b).core c' = s.core c') ∧
    (∀ (c' : CoreId), (s.mailSet a b).arr c' = s.arr c') ∧ (∀ (d' : DieId), (s.mailSet a b).die d' = s.die d') ∧ (∀ (d' : DieId), (s.mailSet a b).pgm d' = s.pgm d') ∧
    (∀ (x' : Ctx), (s.mailSet a b).ctx x' = s.ctx x') ∧ (∀ (e' : Encl), (s.mailSet a b).chain e' = s.chain e') ∧ (∀ (l' : LinkId), (s.mailSet a b).link l' = s.link l') ∧
    (∀ (i' : IoId), (s.mailSet a b).router i' = s.router i') ∧ (∀ (g' : Nat), (s.mailSet a b).group g' = s.group g') ∧ (∀ (v' : VfId) (r' : RingId), (s.mailSet a b).ring v' r' = s.ring v' r') ∧
    (∀ (f' : Nat), (s.mailSet a b).func f' = s.func f') ∧ (∀ (b' : Blk) (o' : Nat), (s.mailSet a b).reg b' o' = s.reg b' o') ∧ (∀ (b' : Blk) (o' h' l' : Nat), (s.mailSet a b).fld b' o' h' l' = s.fld b' o' h' l') :=
  ⟨rfl, rfl, rfl, rfl, rfl, rfl, rfl, rfl, rfl, rfl, rfl, rfl, rfl, rfl, rfl, rfl, rfl, rfl, rfl, rfl, rfl, rfl, rfl, rfl, rfl, rfl, rfl, rfl, rfl, rfl, rfl, rfl, rfl, rfl, rfl, rfl, rfl, fun _ _ => rfl, fun _ _ => rfl, fun _ _ _ => rfl, fun _ _ => rfl, fun _ _ _ => rfl, fun _ _ _ _ => rfl, fun _ _ => rfl, fun _ => rfl, fun _ => rfl, fun _ => rfl, fun _ => rfl, fun _ => rfl, fun _ => rfl, fun _ => rfl, fun _ => rfl, fun _ => rfl, fun _ _ => rfl, fun _ => rfl, fun _ _ => rfl, fun _ _ _ _ => rfl⟩

@[simp] theorem State.setWsErr_frame (k : Nat) (e : MemErr) :
    (s.setWsErr k e).pending = s.pending ∧ (s.setWsErr k e).ac = s.ac ∧ (s.setWsErr k e).now = s.now ∧
    (s.setWsErr k e).free = s.free ∧ (s.setWsErr k e).regs = s.regs ∧ (s.setWsErr k e).latches = s.latches ∧
    (s.setWsErr k e).deferred = s.deferred ∧ (s.setWsErr k e).ws = s.ws ∧ (s.setWsErr k e).am = s.am ∧
    (s.setWsErr k e).psm = s.psm ∧ (s.setWsErr k e).cs = s.cs ∧ (s.setWsErr k e).tb = s.tb ∧
    (s.setWsErr k e).pm = s.pm ∧ (s.setWsErr k e).iram = s.iram ∧ (s.setWsErr k e).dram = s.dram ∧
    (s.setWsErr k e).mail = s.mail ∧ (s.setWsErr k e).amPoison = s.amPoison ∧ (s.setWsErr k e).psmPoison = s.psmPoison ∧
    (s.setWsErr k e).csPoison = s.csPoison ∧ (s.setWsErr k e).tbPoison = s.tbPoison ∧ (s.setWsErr k e).amErr = s.amErr ∧
    (s.setWsErr k e).psmErr = s.psmErr ∧ (s.setWsErr k e).csErr = s.csErr ∧ (s.setWsErr k e).iramErr = s.iramErr ∧
    (s.setWsErr k e).dramErr = s.dramErr ∧ (s.setWsErr k e).pmErr = s.pmErr ∧ (s.setWsErr k e).cores = s.cores ∧
    (s.setWsErr k e).dies = s.dies ∧ (s.setWsErr k e).ctxs = s.ctxs ∧ (s.setWsErr k e).chains = s.chains ∧
    (s.setWsErr k e).links = s.links ∧ (s.setWsErr k e).routers = s.routers ∧ (s.setWsErr k e).rgroups = s.rgroups ∧
    (s.setWsErr k e).rings = s.rings ∧ (s.setWsErr k e).funcs = s.funcs ∧ (s.setWsErr k e).mod = s.mod ∧
    (s.setWsErr k e).out = s.out ∧ (∀ (c' : CoreId) (w' : Nat), (s.setWsErr k e).psmWord c' w' = s.psmWord c' w') ∧ (∀ (c' : CoreId) (w' : Nat), (s.setWsErr k e).psmPois c' w' = s.psmPois c' w') ∧
    (∀ (c' : CoreId) (a' n' : Nat), (s.setWsErr k e).amBytes c' a' n' = s.amBytes c' a' n') ∧ (∀ (c' : CoreId) (l' : Nat), (s.setWsErr k e).amPois c' l' = s.amPois c' l') ∧ (∀ (c' : CoreId) (a' n' : Nat), (s.setWsErr k e).wsBytes c' a' n' = s.wsBytes c' a' n') ∧
    (∀ (c' : CoreId) (b' r' j' : Nat), (s.setWsErr k e).tbLane c' b' r' j' = s.tbLane c' b' r' j') ∧ (∀ (d' : DieId) (u' : Nat), (s.setWsErr k e).csUnit d' u' = s.csUnit d' u') ∧ (∀ (c' : CoreId), (s.setWsErr k e).core c' = s.core c') ∧
    (∀ (c' : CoreId), (s.setWsErr k e).arr c' = s.arr c') ∧ (∀ (d' : DieId), (s.setWsErr k e).die d' = s.die d') ∧ (∀ (d' : DieId), (s.setWsErr k e).pgm d' = s.pgm d') ∧
    (∀ (x' : Ctx), (s.setWsErr k e).ctx x' = s.ctx x') ∧ (∀ (e' : Encl), (s.setWsErr k e).chain e' = s.chain e') ∧ (∀ (l' : LinkId), (s.setWsErr k e).link l' = s.link l') ∧
    (∀ (i' : IoId), (s.setWsErr k e).router i' = s.router i') ∧ (∀ (g' : Nat), (s.setWsErr k e).group g' = s.group g') ∧ (∀ (v' : VfId) (r' : RingId), (s.setWsErr k e).ring v' r' = s.ring v' r') ∧
    (∀ (f' : Nat), (s.setWsErr k e).func f' = s.func f') ∧ (∀ (b' : Blk) (o' : Nat), (s.setWsErr k e).reg b' o' = s.reg b' o') ∧ (∀ (b' : Blk) (o' h' l' : Nat), (s.setWsErr k e).fld b' o' h' l' = s.fld b' o' h' l') :=
  ⟨rfl, rfl, rfl, rfl, rfl, rfl, rfl, rfl, rfl, rfl, rfl, rfl, rfl, rfl, rfl, rfl, rfl, rfl, rfl, rfl, rfl, rfl, rfl, rfl, rfl, rfl, rfl, rfl, rfl, rfl, rfl, rfl, rfl, rfl, rfl, rfl, rfl, fun _ _ => rfl, fun _ _ => rfl, fun _ _ _ => rfl, fun _ _ => rfl, fun _ _ _ => rfl, fun _ _ _ _ => rfl, fun _ _ => rfl, fun _ => rfl, fun _ => rfl, fun _ => rfl, fun _ => rfl, fun _ => rfl, fun _ => rfl, fun _ => rfl, fun _ => rfl, fun _ => rfl, fun _ _ => rfl, fun _ => rfl, fun _ _ => rfl, fun _ _ _ _ => rfl⟩

@[simp] theorem State.setAmErr_frame (k : Nat) (e : MemErr) :
    (s.setAmErr k e).pending = s.pending ∧ (s.setAmErr k e).ac = s.ac ∧ (s.setAmErr k e).now = s.now ∧
    (s.setAmErr k e).free = s.free ∧ (s.setAmErr k e).regs = s.regs ∧ (s.setAmErr k e).latches = s.latches ∧
    (s.setAmErr k e).deferred = s.deferred ∧ (s.setAmErr k e).ws = s.ws ∧ (s.setAmErr k e).am = s.am ∧
    (s.setAmErr k e).psm = s.psm ∧ (s.setAmErr k e).cs = s.cs ∧ (s.setAmErr k e).tb = s.tb ∧
    (s.setAmErr k e).pm = s.pm ∧ (s.setAmErr k e).iram = s.iram ∧ (s.setAmErr k e).dram = s.dram ∧
    (s.setAmErr k e).mail = s.mail ∧ (s.setAmErr k e).amPoison = s.amPoison ∧ (s.setAmErr k e).psmPoison = s.psmPoison ∧
    (s.setAmErr k e).csPoison = s.csPoison ∧ (s.setAmErr k e).tbPoison = s.tbPoison ∧ (s.setAmErr k e).wsErr = s.wsErr ∧
    (s.setAmErr k e).psmErr = s.psmErr ∧ (s.setAmErr k e).csErr = s.csErr ∧ (s.setAmErr k e).iramErr = s.iramErr ∧
    (s.setAmErr k e).dramErr = s.dramErr ∧ (s.setAmErr k e).pmErr = s.pmErr ∧ (s.setAmErr k e).cores = s.cores ∧
    (s.setAmErr k e).dies = s.dies ∧ (s.setAmErr k e).ctxs = s.ctxs ∧ (s.setAmErr k e).chains = s.chains ∧
    (s.setAmErr k e).links = s.links ∧ (s.setAmErr k e).routers = s.routers ∧ (s.setAmErr k e).rgroups = s.rgroups ∧
    (s.setAmErr k e).rings = s.rings ∧ (s.setAmErr k e).funcs = s.funcs ∧ (s.setAmErr k e).mod = s.mod ∧
    (s.setAmErr k e).out = s.out ∧ (∀ (c' : CoreId) (w' : Nat), (s.setAmErr k e).psmWord c' w' = s.psmWord c' w') ∧ (∀ (c' : CoreId) (w' : Nat), (s.setAmErr k e).psmPois c' w' = s.psmPois c' w') ∧
    (∀ (c' : CoreId) (a' n' : Nat), (s.setAmErr k e).amBytes c' a' n' = s.amBytes c' a' n') ∧ (∀ (c' : CoreId) (l' : Nat), (s.setAmErr k e).amPois c' l' = s.amPois c' l') ∧ (∀ (c' : CoreId) (a' n' : Nat), (s.setAmErr k e).wsBytes c' a' n' = s.wsBytes c' a' n') ∧
    (∀ (c' : CoreId) (b' r' j' : Nat), (s.setAmErr k e).tbLane c' b' r' j' = s.tbLane c' b' r' j') ∧ (∀ (d' : DieId) (u' : Nat), (s.setAmErr k e).csUnit d' u' = s.csUnit d' u') ∧ (∀ (c' : CoreId), (s.setAmErr k e).core c' = s.core c') ∧
    (∀ (c' : CoreId), (s.setAmErr k e).arr c' = s.arr c') ∧ (∀ (d' : DieId), (s.setAmErr k e).die d' = s.die d') ∧ (∀ (d' : DieId), (s.setAmErr k e).pgm d' = s.pgm d') ∧
    (∀ (x' : Ctx), (s.setAmErr k e).ctx x' = s.ctx x') ∧ (∀ (e' : Encl), (s.setAmErr k e).chain e' = s.chain e') ∧ (∀ (l' : LinkId), (s.setAmErr k e).link l' = s.link l') ∧
    (∀ (i' : IoId), (s.setAmErr k e).router i' = s.router i') ∧ (∀ (g' : Nat), (s.setAmErr k e).group g' = s.group g') ∧ (∀ (v' : VfId) (r' : RingId), (s.setAmErr k e).ring v' r' = s.ring v' r') ∧
    (∀ (f' : Nat), (s.setAmErr k e).func f' = s.func f') ∧ (∀ (b' : Blk) (o' : Nat), (s.setAmErr k e).reg b' o' = s.reg b' o') ∧ (∀ (b' : Blk) (o' h' l' : Nat), (s.setAmErr k e).fld b' o' h' l' = s.fld b' o' h' l') :=
  ⟨rfl, rfl, rfl, rfl, rfl, rfl, rfl, rfl, rfl, rfl, rfl, rfl, rfl, rfl, rfl, rfl, rfl, rfl, rfl, rfl, rfl, rfl, rfl, rfl, rfl, rfl, rfl, rfl, rfl, rfl, rfl, rfl, rfl, rfl, rfl, rfl, rfl, fun _ _ => rfl, fun _ _ => rfl, fun _ _ _ => rfl, fun _ _ => rfl, fun _ _ _ => rfl, fun _ _ _ _ => rfl, fun _ _ => rfl, fun _ => rfl, fun _ => rfl, fun _ => rfl, fun _ => rfl, fun _ => rfl, fun _ => rfl, fun _ => rfl, fun _ => rfl, fun _ => rfl, fun _ _ => rfl, fun _ => rfl, fun _ _ => rfl, fun _ _ _ _ => rfl⟩

@[simp] theorem State.setPsmErr_frame (k : Nat) (e : MemErr) :
    (s.setPsmErr k e).pending = s.pending ∧ (s.setPsmErr k e).ac = s.ac ∧ (s.setPsmErr k e).now = s.now ∧
    (s.setPsmErr k e).free = s.free ∧ (s.setPsmErr k e).regs = s.regs ∧ (s.setPsmErr k e).latches = s.latches ∧
    (s.setPsmErr k e).deferred = s.deferred ∧ (s.setPsmErr k e).ws = s.ws ∧ (s.setPsmErr k e).am = s.am ∧
    (s.setPsmErr k e).psm = s.psm ∧ (s.setPsmErr k e).cs = s.cs ∧ (s.setPsmErr k e).tb = s.tb ∧
    (s.setPsmErr k e).pm = s.pm ∧ (s.setPsmErr k e).iram = s.iram ∧ (s.setPsmErr k e).dram = s.dram ∧
    (s.setPsmErr k e).mail = s.mail ∧ (s.setPsmErr k e).amPoison = s.amPoison ∧ (s.setPsmErr k e).psmPoison = s.psmPoison ∧
    (s.setPsmErr k e).csPoison = s.csPoison ∧ (s.setPsmErr k e).tbPoison = s.tbPoison ∧ (s.setPsmErr k e).wsErr = s.wsErr ∧
    (s.setPsmErr k e).amErr = s.amErr ∧ (s.setPsmErr k e).csErr = s.csErr ∧ (s.setPsmErr k e).iramErr = s.iramErr ∧
    (s.setPsmErr k e).dramErr = s.dramErr ∧ (s.setPsmErr k e).pmErr = s.pmErr ∧ (s.setPsmErr k e).cores = s.cores ∧
    (s.setPsmErr k e).dies = s.dies ∧ (s.setPsmErr k e).ctxs = s.ctxs ∧ (s.setPsmErr k e).chains = s.chains ∧
    (s.setPsmErr k e).links = s.links ∧ (s.setPsmErr k e).routers = s.routers ∧ (s.setPsmErr k e).rgroups = s.rgroups ∧
    (s.setPsmErr k e).rings = s.rings ∧ (s.setPsmErr k e).funcs = s.funcs ∧ (s.setPsmErr k e).mod = s.mod ∧
    (s.setPsmErr k e).out = s.out ∧ (∀ (c' : CoreId) (w' : Nat), (s.setPsmErr k e).psmWord c' w' = s.psmWord c' w') ∧ (∀ (c' : CoreId) (w' : Nat), (s.setPsmErr k e).psmPois c' w' = s.psmPois c' w') ∧
    (∀ (c' : CoreId) (a' n' : Nat), (s.setPsmErr k e).amBytes c' a' n' = s.amBytes c' a' n') ∧ (∀ (c' : CoreId) (l' : Nat), (s.setPsmErr k e).amPois c' l' = s.amPois c' l') ∧ (∀ (c' : CoreId) (a' n' : Nat), (s.setPsmErr k e).wsBytes c' a' n' = s.wsBytes c' a' n') ∧
    (∀ (c' : CoreId) (b' r' j' : Nat), (s.setPsmErr k e).tbLane c' b' r' j' = s.tbLane c' b' r' j') ∧ (∀ (d' : DieId) (u' : Nat), (s.setPsmErr k e).csUnit d' u' = s.csUnit d' u') ∧ (∀ (c' : CoreId), (s.setPsmErr k e).core c' = s.core c') ∧
    (∀ (c' : CoreId), (s.setPsmErr k e).arr c' = s.arr c') ∧ (∀ (d' : DieId), (s.setPsmErr k e).die d' = s.die d') ∧ (∀ (d' : DieId), (s.setPsmErr k e).pgm d' = s.pgm d') ∧
    (∀ (x' : Ctx), (s.setPsmErr k e).ctx x' = s.ctx x') ∧ (∀ (e' : Encl), (s.setPsmErr k e).chain e' = s.chain e') ∧ (∀ (l' : LinkId), (s.setPsmErr k e).link l' = s.link l') ∧
    (∀ (i' : IoId), (s.setPsmErr k e).router i' = s.router i') ∧ (∀ (g' : Nat), (s.setPsmErr k e).group g' = s.group g') ∧ (∀ (v' : VfId) (r' : RingId), (s.setPsmErr k e).ring v' r' = s.ring v' r') ∧
    (∀ (f' : Nat), (s.setPsmErr k e).func f' = s.func f') ∧ (∀ (b' : Blk) (o' : Nat), (s.setPsmErr k e).reg b' o' = s.reg b' o') ∧ (∀ (b' : Blk) (o' h' l' : Nat), (s.setPsmErr k e).fld b' o' h' l' = s.fld b' o' h' l') :=
  ⟨rfl, rfl, rfl, rfl, rfl, rfl, rfl, rfl, rfl, rfl, rfl, rfl, rfl, rfl, rfl, rfl, rfl, rfl, rfl, rfl, rfl, rfl, rfl, rfl, rfl, rfl, rfl, rfl, rfl, rfl, rfl, rfl, rfl, rfl, rfl, rfl, rfl, fun _ _ => rfl, fun _ _ => rfl, fun _ _ _ => rfl, fun _ _ => rfl, fun _ _ _ => rfl, fun _ _ _ _ => rfl, fun _ _ => rfl, fun _ => rfl, fun _ => rfl, fun _ => rfl, fun _ => rfl, fun _ => rfl, fun _ => rfl, fun _ => rfl, fun _ => rfl, fun _ => rfl, fun _ _ => rfl, fun _ => rfl, fun _ _ => rfl, fun _ _ _ _ => rfl⟩

@[simp] theorem State.setCsErr_frame (k : Nat) (e : MemErr) :
    (s.setCsErr k e).pending = s.pending ∧ (s.setCsErr k e).ac = s.ac ∧ (s.setCsErr k e).now = s.now ∧
    (s.setCsErr k e).free = s.free ∧ (s.setCsErr k e).regs = s.regs ∧ (s.setCsErr k e).latches = s.latches ∧
    (s.setCsErr k e).deferred = s.deferred ∧ (s.setCsErr k e).ws = s.ws ∧ (s.setCsErr k e).am = s.am ∧
    (s.setCsErr k e).psm = s.psm ∧ (s.setCsErr k e).cs = s.cs ∧ (s.setCsErr k e).tb = s.tb ∧
    (s.setCsErr k e).pm = s.pm ∧ (s.setCsErr k e).iram = s.iram ∧ (s.setCsErr k e).dram = s.dram ∧
    (s.setCsErr k e).mail = s.mail ∧ (s.setCsErr k e).amPoison = s.amPoison ∧ (s.setCsErr k e).psmPoison = s.psmPoison ∧
    (s.setCsErr k e).csPoison = s.csPoison ∧ (s.setCsErr k e).tbPoison = s.tbPoison ∧ (s.setCsErr k e).wsErr = s.wsErr ∧
    (s.setCsErr k e).amErr = s.amErr ∧ (s.setCsErr k e).psmErr = s.psmErr ∧ (s.setCsErr k e).iramErr = s.iramErr ∧
    (s.setCsErr k e).dramErr = s.dramErr ∧ (s.setCsErr k e).pmErr = s.pmErr ∧ (s.setCsErr k e).cores = s.cores ∧
    (s.setCsErr k e).dies = s.dies ∧ (s.setCsErr k e).ctxs = s.ctxs ∧ (s.setCsErr k e).chains = s.chains ∧
    (s.setCsErr k e).links = s.links ∧ (s.setCsErr k e).routers = s.routers ∧ (s.setCsErr k e).rgroups = s.rgroups ∧
    (s.setCsErr k e).rings = s.rings ∧ (s.setCsErr k e).funcs = s.funcs ∧ (s.setCsErr k e).mod = s.mod ∧
    (s.setCsErr k e).out = s.out ∧ (∀ (c' : CoreId) (w' : Nat), (s.setCsErr k e).psmWord c' w' = s.psmWord c' w') ∧ (∀ (c' : CoreId) (w' : Nat), (s.setCsErr k e).psmPois c' w' = s.psmPois c' w') ∧
    (∀ (c' : CoreId) (a' n' : Nat), (s.setCsErr k e).amBytes c' a' n' = s.amBytes c' a' n') ∧ (∀ (c' : CoreId) (l' : Nat), (s.setCsErr k e).amPois c' l' = s.amPois c' l') ∧ (∀ (c' : CoreId) (a' n' : Nat), (s.setCsErr k e).wsBytes c' a' n' = s.wsBytes c' a' n') ∧
    (∀ (c' : CoreId) (b' r' j' : Nat), (s.setCsErr k e).tbLane c' b' r' j' = s.tbLane c' b' r' j') ∧ (∀ (d' : DieId) (u' : Nat), (s.setCsErr k e).csUnit d' u' = s.csUnit d' u') ∧ (∀ (c' : CoreId), (s.setCsErr k e).core c' = s.core c') ∧
    (∀ (c' : CoreId), (s.setCsErr k e).arr c' = s.arr c') ∧ (∀ (d' : DieId), (s.setCsErr k e).die d' = s.die d') ∧ (∀ (d' : DieId), (s.setCsErr k e).pgm d' = s.pgm d') ∧
    (∀ (x' : Ctx), (s.setCsErr k e).ctx x' = s.ctx x') ∧ (∀ (e' : Encl), (s.setCsErr k e).chain e' = s.chain e') ∧ (∀ (l' : LinkId), (s.setCsErr k e).link l' = s.link l') ∧
    (∀ (i' : IoId), (s.setCsErr k e).router i' = s.router i') ∧ (∀ (g' : Nat), (s.setCsErr k e).group g' = s.group g') ∧ (∀ (v' : VfId) (r' : RingId), (s.setCsErr k e).ring v' r' = s.ring v' r') ∧
    (∀ (f' : Nat), (s.setCsErr k e).func f' = s.func f') ∧ (∀ (b' : Blk) (o' : Nat), (s.setCsErr k e).reg b' o' = s.reg b' o') ∧ (∀ (b' : Blk) (o' h' l' : Nat), (s.setCsErr k e).fld b' o' h' l' = s.fld b' o' h' l') :=
  ⟨rfl, rfl, rfl, rfl, rfl, rfl, rfl, rfl, rfl, rfl, rfl, rfl, rfl, rfl, rfl, rfl, rfl, rfl, rfl, rfl, rfl, rfl, rfl, rfl, rfl, rfl, rfl, rfl, rfl, rfl, rfl, rfl, rfl, rfl, rfl, rfl, rfl, fun _ _ => rfl, fun _ _ => rfl, fun _ _ _ => rfl, fun _ _ => rfl, fun _ _ _ => rfl, fun _ _ _ _ => rfl, fun _ _ => rfl, fun _ => rfl, fun _ => rfl, fun _ => rfl, fun _ => rfl, fun _ => rfl, fun _ => rfl, fun _ => rfl, fun _ => rfl, fun _ => rfl, fun _ _ => rfl, fun _ => rfl, fun _ _ => rfl, fun _ _ _ _ => rfl⟩

@[simp] theorem State.setDramErr_frame (k : Nat) (e : MemErr) :
    (s.setDramErr k e).pending = s.pending ∧ (s.setDramErr k e).ac = s.ac ∧ (s.setDramErr k e).now = s.now ∧
    (s.setDramErr k e).free = s.free ∧ (s.setDramErr k e).regs = s.regs ∧ (s.setDramErr k e).latches = s.latches ∧
    (s.setDramErr k e).deferred = s.deferred ∧ (s.setDramErr k e).ws = s.ws ∧ (s.setDramErr k e).am = s.am ∧
    (s.setDramErr k e).psm = s.psm ∧ (s.setDramErr k e).cs = s.cs ∧ (s.setDramErr k e).tb = s.tb ∧
    (s.setDramErr k e).pm = s.pm ∧ (s.setDramErr k e).iram = s.iram ∧ (s.setDramErr k e).dram = s.dram ∧
    (s.setDramErr k e).mail = s.mail ∧ (s.setDramErr k e).amPoison = s.amPoison ∧ (s.setDramErr k e).psmPoison = s.psmPoison ∧
    (s.setDramErr k e).csPoison = s.csPoison ∧ (s.setDramErr k e).tbPoison = s.tbPoison ∧ (s.setDramErr k e).wsErr = s.wsErr ∧
    (s.setDramErr k e).amErr = s.amErr ∧ (s.setDramErr k e).psmErr = s.psmErr ∧ (s.setDramErr k e).csErr = s.csErr ∧
    (s.setDramErr k e).iramErr = s.iramErr ∧ (s.setDramErr k e).pmErr = s.pmErr ∧ (s.setDramErr k e).cores = s.cores ∧
    (s.setDramErr k e).dies = s.dies ∧ (s.setDramErr k e).ctxs = s.ctxs ∧ (s.setDramErr k e).chains = s.chains ∧
    (s.setDramErr k e).links = s.links ∧ (s.setDramErr k e).routers = s.routers ∧ (s.setDramErr k e).rgroups = s.rgroups ∧
    (s.setDramErr k e).rings = s.rings ∧ (s.setDramErr k e).funcs = s.funcs ∧ (s.setDramErr k e).mod = s.mod ∧
    (s.setDramErr k e).out = s.out ∧ (∀ (c' : CoreId) (w' : Nat), (s.setDramErr k e).psmWord c' w' = s.psmWord c' w') ∧ (∀ (c' : CoreId) (w' : Nat), (s.setDramErr k e).psmPois c' w' = s.psmPois c' w') ∧
    (∀ (c' : CoreId) (a' n' : Nat), (s.setDramErr k e).amBytes c' a' n' = s.amBytes c' a' n') ∧ (∀ (c' : CoreId) (l' : Nat), (s.setDramErr k e).amPois c' l' = s.amPois c' l') ∧ (∀ (c' : CoreId) (a' n' : Nat), (s.setDramErr k e).wsBytes c' a' n' = s.wsBytes c' a' n') ∧
    (∀ (c' : CoreId) (b' r' j' : Nat), (s.setDramErr k e).tbLane c' b' r' j' = s.tbLane c' b' r' j') ∧ (∀ (d' : DieId) (u' : Nat), (s.setDramErr k e).csUnit d' u' = s.csUnit d' u') ∧ (∀ (c' : CoreId), (s.setDramErr k e).core c' = s.core c') ∧
    (∀ (c' : CoreId), (s.setDramErr k e).arr c' = s.arr c') ∧ (∀ (d' : DieId), (s.setDramErr k e).die d' = s.die d') ∧ (∀ (d' : DieId), (s.setDramErr k e).pgm d' = s.pgm d') ∧
    (∀ (x' : Ctx), (s.setDramErr k e).ctx x' = s.ctx x') ∧ (∀ (e' : Encl), (s.setDramErr k e).chain e' = s.chain e') ∧ (∀ (l' : LinkId), (s.setDramErr k e).link l' = s.link l') ∧
    (∀ (i' : IoId), (s.setDramErr k e).router i' = s.router i') ∧ (∀ (g' : Nat), (s.setDramErr k e).group g' = s.group g') ∧ (∀ (v' : VfId) (r' : RingId), (s.setDramErr k e).ring v' r' = s.ring v' r') ∧
    (∀ (f' : Nat), (s.setDramErr k e).func f' = s.func f') ∧ (∀ (b' : Blk) (o' : Nat), (s.setDramErr k e).reg b' o' = s.reg b' o') ∧ (∀ (b' : Blk) (o' h' l' : Nat), (s.setDramErr k e).fld b' o' h' l' = s.fld b' o' h' l') :=
  ⟨rfl, rfl, rfl, rfl, rfl, rfl, rfl, rfl, rfl, rfl, rfl, rfl, rfl, rfl, rfl, rfl, rfl, rfl, rfl, rfl, rfl, rfl, rfl, rfl, rfl, rfl, rfl, rfl, rfl, rfl, rfl, rfl, rfl, rfl, rfl, rfl, rfl, fun _ _ => rfl, fun _ _ => rfl, fun _ _ _ => rfl, fun _ _ => rfl, fun _ _ _ => rfl, fun _ _ _ _ => rfl, fun _ _ => rfl, fun _ => rfl, fun _ => rfl, fun _ => rfl, fun _ => rfl, fun _ => rfl, fun _ => rfl, fun _ => rfl, fun _ => rfl, fun _ => rfl, fun _ _ => rfl, fun _ => rfl, fun _ _ => rfl, fun _ _ _ _ => rfl⟩

@[simp] theorem State.setPmErr_frame (k : Nat) (e : MemErr) :
    (s.setPmErr k e).pending = s.pending ∧ (s.setPmErr k e).ac = s.ac ∧ (s.setPmErr k e).now = s.now ∧
    (s.setPmErr k e).free = s.free ∧ (s.setPmErr k e).regs = s.regs ∧ (s.setPmErr k e).latches = s.latches ∧
    (s.setPmErr k e).deferred = s.deferred ∧ (s.setPmErr k e).ws = s.ws ∧ (s.setPmErr k e).am = s.am ∧
    (s.setPmErr k e).psm = s.psm ∧ (s.setPmErr k e).cs = s.cs ∧ (s.setPmErr k e).tb = s.tb ∧
    (s.setPmErr k e).pm = s.pm ∧ (s.setPmErr k e).iram = s.iram ∧ (s.setPmErr k e).dram = s.dram ∧
    (s.setPmErr k e).mail = s.mail ∧ (s.setPmErr k e).amPoison = s.amPoison ∧ (s.setPmErr k e).psmPoison = s.psmPoison ∧
    (s.setPmErr k e).csPoison = s.csPoison ∧ (s.setPmErr k e).tbPoison = s.tbPoison ∧ (s.setPmErr k e).wsErr = s.wsErr ∧
    (s.setPmErr k e).amErr = s.amErr ∧ (s.setPmErr k e).psmErr = s.psmErr ∧ (s.setPmErr k e).csErr = s.csErr ∧
    (s.setPmErr k e).iramErr = s.iramErr ∧ (s.setPmErr k e).dramErr = s.dramErr ∧ (s.setPmErr k e).cores = s.cores ∧
    (s.setPmErr k e).dies = s.dies ∧ (s.setPmErr k e).ctxs = s.ctxs ∧ (s.setPmErr k e).chains = s.chains ∧
    (s.setPmErr k e).links = s.links ∧ (s.setPmErr k e).routers = s.routers ∧ (s.setPmErr k e).rgroups = s.rgroups ∧
    (s.setPmErr k e).rings = s.rings ∧ (s.setPmErr k e).funcs = s.funcs ∧ (s.setPmErr k e).mod = s.mod ∧
    (s.setPmErr k e).out = s.out ∧ (∀ (c' : CoreId) (w' : Nat), (s.setPmErr k e).psmWord c' w' = s.psmWord c' w') ∧ (∀ (c' : CoreId) (w' : Nat), (s.setPmErr k e).psmPois c' w' = s.psmPois c' w') ∧
    (∀ (c' : CoreId) (a' n' : Nat), (s.setPmErr k e).amBytes c' a' n' = s.amBytes c' a' n') ∧ (∀ (c' : CoreId) (l' : Nat), (s.setPmErr k e).amPois c' l' = s.amPois c' l') ∧ (∀ (c' : CoreId) (a' n' : Nat), (s.setPmErr k e).wsBytes c' a' n' = s.wsBytes c' a' n') ∧
    (∀ (c' : CoreId) (b' r' j' : Nat), (s.setPmErr k e).tbLane c' b' r' j' = s.tbLane c' b' r' j') ∧ (∀ (d' : DieId) (u' : Nat), (s.setPmErr k e).csUnit d' u' = s.csUnit d' u') ∧ (∀ (c' : CoreId), (s.setPmErr k e).core c' = s.core c') ∧
    (∀ (c' : CoreId), (s.setPmErr k e).arr c' = s.arr c') ∧ (∀ (d' : DieId), (s.setPmErr k e).die d' = s.die d') ∧ (∀ (d' : DieId), (s.setPmErr k e).pgm d' = s.pgm d') ∧
    (∀ (x' : Ctx), (s.setPmErr k e).ctx x' = s.ctx x') ∧ (∀ (e' : Encl), (s.setPmErr k e).chain e' = s.chain e') ∧ (∀ (l' : LinkId), (s.setPmErr k e).link l' = s.link l') ∧
    (∀ (i' : IoId), (s.setPmErr k e).router i' = s.router i') ∧ (∀ (g' : Nat), (s.setPmErr k e).group g' = s.group g') ∧ (∀ (v' : VfId) (r' : RingId), (s.setPmErr k e).ring v' r' = s.ring v' r') ∧
    (∀ (f' : Nat), (s.setPmErr k e).func f' = s.func f') ∧ (∀ (b' : Blk) (o' : Nat), (s.setPmErr k e).reg b' o' = s.reg b' o') ∧ (∀ (b' : Blk) (o' h' l' : Nat), (s.setPmErr k e).fld b' o' h' l' = s.fld b' o' h' l') :=
  ⟨rfl, rfl, rfl, rfl, rfl, rfl, rfl, rfl, rfl, rfl, rfl, rfl, rfl, rfl, rfl, rfl, rfl, rfl, rfl, rfl, rfl, rfl, rfl, rfl, rfl, rfl, rfl, rfl, rfl, rfl, rfl, rfl, rfl, rfl, rfl, rfl, rfl, fun _ _ => rfl, fun _ _ => rfl, fun _ _ _ => rfl, fun _ _ => rfl, fun _ _ _ => rfl, fun _ _ _ _ => rfl, fun _ _ => rfl, fun _ => rfl, fun _ => rfl, fun _ => rfl, fun _ => rfl, fun _ => rfl, fun _ => rfl, fun _ => rfl, fun _ => rfl, fun _ => rfl, fun _ _ => rfl, fun _ => rfl, fun _ _ => rfl, fun _ _ _ _ => rfl⟩

@[simp] theorem State.wsSound_frame (p : Nat → Bool) :
    (s.wsSound p).pending = s.pending ∧ (s.wsSound p).ac = s.ac ∧ (s.wsSound p).now = s.now ∧
    (s.wsSound p).free = s.free ∧ (s.wsSound p).regs = s.regs ∧ (s.wsSound p).latches = s.latches ∧
    (s.wsSound p).deferred = s.deferred ∧ (s.wsSound p).ws = s.ws ∧ (s.wsSound p).am = s.am ∧
    (s.wsSound p).psm = s.psm ∧ (s.wsSound p).cs = s.cs ∧ (s.wsSound p).tb = s.tb ∧
    (s.wsSound p).pm = s.pm ∧ (s.wsSound p).iram = s.iram ∧ (s.wsSound p).dram = s.dram ∧
    (s.wsSound p).mail = s.mail ∧ (s.wsSound p).amPoison = s.amPoison ∧ (s.wsSound p).psmPoison = s.psmPoison ∧
    (s.wsSound p).csPoison = s.csPoison ∧ (s.wsSound p).tbPoison = s.tbPoison ∧ (s.wsSound p).amErr = s.amErr ∧
    (s.wsSound p).psmErr = s.psmErr ∧ (s.wsSound p).csErr = s.csErr ∧ (s.wsSound p).iramErr = s.iramErr ∧
    (s.wsSound p).dramErr = s.dramErr ∧ (s.wsSound p).pmErr = s.pmErr ∧ (s.wsSound p).cores = s.cores ∧
    (s.wsSound p).dies = s.dies ∧ (s.wsSound p).ctxs = s.ctxs ∧ (s.wsSound p).chains = s.chains ∧
    (s.wsSound p).links = s.links ∧ (s.wsSound p).routers = s.routers ∧ (s.wsSound p).rgroups = s.rgroups ∧
    (s.wsSound p).rings = s.rings ∧ (s.wsSound p).funcs = s.funcs ∧ (s.wsSound p).mod = s.mod ∧
    (s.wsSound p).out = s.out ∧ (∀ (c' : CoreId) (w' : Nat), (s.wsSound p).psmWord c' w' = s.psmWord c' w') ∧ (∀ (c' : CoreId) (w' : Nat), (s.wsSound p).psmPois c' w' = s.psmPois c' w') ∧
    (∀ (c' : CoreId) (a' n' : Nat), (s.wsSound p).amBytes c' a' n' = s.amBytes c' a' n') ∧ (∀ (c' : CoreId) (l' : Nat), (s.wsSound p).amPois c' l' = s.amPois c' l') ∧ (∀ (c' : CoreId) (a' n' : Nat), (s.wsSound p).wsBytes c' a' n' = s.wsBytes c' a' n') ∧
    (∀ (c' : CoreId) (b' r' j' : Nat), (s.wsSound p).tbLane c' b' r' j' = s.tbLane c' b' r' j') ∧ (∀ (d' : DieId) (u' : Nat), (s.wsSound p).csUnit d' u' = s.csUnit d' u') ∧ (∀ (c' : CoreId), (s.wsSound p).core c' = s.core c') ∧
    (∀ (c' : CoreId), (s.wsSound p).arr c' = s.arr c') ∧ (∀ (d' : DieId), (s.wsSound p).die d' = s.die d') ∧ (∀ (d' : DieId), (s.wsSound p).pgm d' = s.pgm d') ∧
    (∀ (x' : Ctx), (s.wsSound p).ctx x' = s.ctx x') ∧ (∀ (e' : Encl), (s.wsSound p).chain e' = s.chain e') ∧ (∀ (l' : LinkId), (s.wsSound p).link l' = s.link l') ∧
    (∀ (i' : IoId), (s.wsSound p).router i' = s.router i') ∧ (∀ (g' : Nat), (s.wsSound p).group g' = s.group g') ∧ (∀ (v' : VfId) (r' : RingId), (s.wsSound p).ring v' r' = s.ring v' r') ∧
    (∀ (f' : Nat), (s.wsSound p).func f' = s.func f') ∧ (∀ (b' : Blk) (o' : Nat), (s.wsSound p).reg b' o' = s.reg b' o') ∧ (∀ (b' : Blk) (o' h' l' : Nat), (s.wsSound p).fld b' o' h' l' = s.fld b' o' h' l') :=
  ⟨rfl, rfl, rfl, rfl, rfl, rfl, rfl, rfl, rfl, rfl, rfl, rfl, rfl, rfl, rfl, rfl, rfl, rfl, rfl, rfl, rfl, rfl, rfl, rfl, rfl, rfl, rfl, rfl, rfl, rfl, rfl, rfl, rfl, rfl, rfl, rfl, rfl, fun _ _ => rfl, fun _ _ => rfl, fun _ _ _ => rfl, fun _ _ => rfl, fun _ _ _ => rfl, fun _ _ _ _ => rfl, fun _ _ => rfl, fun _ => rfl, fun _ => rfl, fun _ => rfl, fun _ => rfl, fun _ => rfl, fun _ => rfl, fun _ => rfl, fun _ => rfl, fun _ => rfl, fun _ _ => rfl, fun _ => rfl, fun _ _ => rfl, fun _ _ _ _ => rfl⟩

@[simp] theorem State.csSound_frame (p : Nat → Bool) :
    (s.csSound p).pending = s.pending ∧ (s.csSound p).ac = s.ac ∧ (s.csSound p).now = s.now ∧
    (s.csSound p).free = s.free ∧ (s.csSound p).regs = s.regs ∧ (s.csSound p).latches = s.latches ∧
    (s.csSound p).deferred = s.deferred ∧ (s.csSound p).ws = s.ws ∧ (s.csSound p).am = s.am ∧
    (s.csSound p).psm = s.psm ∧ (s.csSound p).cs = s.cs ∧ (s.csSound p).tb = s.tb ∧
    (s.csSound p).pm = s.pm ∧ (s.csSound p).iram = s.iram ∧ (s.csSound p).dram = s.dram ∧
    (s.csSound p).mail = s.mail ∧ (s.csSound p).amPoison = s.amPoison ∧ (s.csSound p).psmPoison = s.psmPoison ∧
    (s.csSound p).csPoison = s.csPoison ∧ (s.csSound p).tbPoison = s.tbPoison ∧ (s.csSound p).wsErr = s.wsErr ∧
    (s.csSound p).amErr = s.amErr ∧ (s.csSound p).psmErr = s.psmErr ∧ (s.csSound p).iramErr = s.iramErr ∧
    (s.csSound p).dramErr = s.dramErr ∧ (s.csSound p).pmErr = s.pmErr ∧ (s.csSound p).cores = s.cores ∧
    (s.csSound p).dies = s.dies ∧ (s.csSound p).ctxs = s.ctxs ∧ (s.csSound p).chains = s.chains ∧
    (s.csSound p).links = s.links ∧ (s.csSound p).routers = s.routers ∧ (s.csSound p).rgroups = s.rgroups ∧
    (s.csSound p).rings = s.rings ∧ (s.csSound p).funcs = s.funcs ∧ (s.csSound p).mod = s.mod ∧
    (s.csSound p).out = s.out ∧ (∀ (c' : CoreId) (w' : Nat), (s.csSound p).psmWord c' w' = s.psmWord c' w') ∧ (∀ (c' : CoreId) (w' : Nat), (s.csSound p).psmPois c' w' = s.psmPois c' w') ∧
    (∀ (c' : CoreId) (a' n' : Nat), (s.csSound p).amBytes c' a' n' = s.amBytes c' a' n') ∧ (∀ (c' : CoreId) (l' : Nat), (s.csSound p).amPois c' l' = s.amPois c' l') ∧ (∀ (c' : CoreId) (a' n' : Nat), (s.csSound p).wsBytes c' a' n' = s.wsBytes c' a' n') ∧
    (∀ (c' : CoreId) (b' r' j' : Nat), (s.csSound p).tbLane c' b' r' j' = s.tbLane c' b' r' j') ∧ (∀ (d' : DieId) (u' : Nat), (s.csSound p).csUnit d' u' = s.csUnit d' u') ∧ (∀ (c' : CoreId), (s.csSound p).core c' = s.core c') ∧
    (∀ (c' : CoreId), (s.csSound p).arr c' = s.arr c') ∧ (∀ (d' : DieId), (s.csSound p).die d' = s.die d') ∧ (∀ (d' : DieId), (s.csSound p).pgm d' = s.pgm d') ∧
    (∀ (x' : Ctx), (s.csSound p).ctx x' = s.ctx x') ∧ (∀ (e' : Encl), (s.csSound p).chain e' = s.chain e') ∧ (∀ (l' : LinkId), (s.csSound p).link l' = s.link l') ∧
    (∀ (i' : IoId), (s.csSound p).router i' = s.router i') ∧ (∀ (g' : Nat), (s.csSound p).group g' = s.group g') ∧ (∀ (v' : VfId) (r' : RingId), (s.csSound p).ring v' r' = s.ring v' r') ∧
    (∀ (f' : Nat), (s.csSound p).func f' = s.func f') ∧ (∀ (b' : Blk) (o' : Nat), (s.csSound p).reg b' o' = s.reg b' o') ∧ (∀ (b' : Blk) (o' h' l' : Nat), (s.csSound p).fld b' o' h' l' = s.fld b' o' h' l') :=
  ⟨rfl, rfl, rfl, rfl, rfl, rfl, rfl, rfl, rfl, rfl, rfl, rfl, rfl, rfl, rfl, rfl, rfl, rfl, rfl, rfl, rfl, rfl, rfl, rfl, rfl, rfl, rfl, rfl, rfl, rfl, rfl, rfl, rfl, rfl, rfl, rfl, rfl, fun _ _ => rfl, fun _ _ => rfl, fun _ _ _ => rfl, fun _ _ => rfl, fun _ _ _ => rfl, fun _ _ _ _ => rfl, fun _ _ => rfl, fun _ => rfl, fun _ => rfl, fun _ => rfl, fun _ => rfl, fun _ => rfl, fun _ => rfl, fun _ => rfl, fun _ => rfl, fun _ => rfl, fun _ _ => rfl, fun _ => rfl, fun _ _ => rfl, fun _ _ _ _ => rfl⟩

@[simp] theorem State.dramSound_frame (lo hi : Nat) :
    (s.dramSound lo hi).pending = s.pending ∧ (s.dramSound lo hi).ac = s.ac ∧ (s.dramSound lo hi).now = s.now ∧
    (s.dramSound lo hi).free = s.free ∧ (s.dramSound lo hi).regs = s.regs ∧ (s.dramSound lo hi).latches = s.latches ∧
    (s.dramSound lo hi).deferred = s.deferred ∧ (s.dramSound lo hi).ws = s.ws ∧ (s.dramSound lo hi).am = s.am ∧
    (s.dramSound lo hi).psm = s.psm ∧ (s.dramSound lo hi).cs = s.cs ∧ (s.dramSound lo hi).tb = s.tb ∧
    (s.dramSound lo hi).pm = s.pm ∧ (s.dramSound lo hi).iram = s.iram ∧ (s.dramSound lo hi).dram = s.dram ∧
    (s.dramSound lo hi).mail = s.mail ∧ (s.dramSound lo hi).amPoison = s.amPoison ∧ (s.dramSound lo hi).psmPoison = s.psmPoison ∧
    (s.dramSound lo hi).csPoison = s.csPoison ∧ (s.dramSound lo hi).tbPoison = s.tbPoison ∧ (s.dramSound lo hi).wsErr = s.wsErr ∧
    (s.dramSound lo hi).amErr = s.amErr ∧ (s.dramSound lo hi).psmErr = s.psmErr ∧ (s.dramSound lo hi).csErr = s.csErr ∧
    (s.dramSound lo hi).iramErr = s.iramErr ∧ (s.dramSound lo hi).pmErr = s.pmErr ∧ (s.dramSound lo hi).cores = s.cores ∧
    (s.dramSound lo hi).dies = s.dies ∧ (s.dramSound lo hi).ctxs = s.ctxs ∧ (s.dramSound lo hi).chains = s.chains ∧
    (s.dramSound lo hi).links = s.links ∧ (s.dramSound lo hi).routers = s.routers ∧ (s.dramSound lo hi).rgroups = s.rgroups ∧
    (s.dramSound lo hi).rings = s.rings ∧ (s.dramSound lo hi).funcs = s.funcs ∧ (s.dramSound lo hi).mod = s.mod ∧
    (s.dramSound lo hi).out = s.out ∧ (∀ (c' : CoreId) (w' : Nat), (s.dramSound lo hi).psmWord c' w' = s.psmWord c' w') ∧ (∀ (c' : CoreId) (w' : Nat), (s.dramSound lo hi).psmPois c' w' = s.psmPois c' w') ∧
    (∀ (c' : CoreId) (a' n' : Nat), (s.dramSound lo hi).amBytes c' a' n' = s.amBytes c' a' n') ∧ (∀ (c' : CoreId) (l' : Nat), (s.dramSound lo hi).amPois c' l' = s.amPois c' l') ∧ (∀ (c' : CoreId) (a' n' : Nat), (s.dramSound lo hi).wsBytes c' a' n' = s.wsBytes c' a' n') ∧
    (∀ (c' : CoreId) (b' r' j' : Nat), (s.dramSound lo hi).tbLane c' b' r' j' = s.tbLane c' b' r' j') ∧ (∀ (d' : DieId) (u' : Nat), (s.dramSound lo hi).csUnit d' u' = s.csUnit d' u') ∧ (∀ (c' : CoreId), (s.dramSound lo hi).core c' = s.core c') ∧
    (∀ (c' : CoreId), (s.dramSound lo hi).arr c' = s.arr c') ∧ (∀ (d' : DieId), (s.dramSound lo hi).die d' = s.die d') ∧ (∀ (d' : DieId), (s.dramSound lo hi).pgm d' = s.pgm d') ∧
    (∀ (x' : Ctx), (s.dramSound lo hi).ctx x' = s.ctx x') ∧ (∀ (e' : Encl), (s.dramSound lo hi).chain e' = s.chain e') ∧ (∀ (l' : LinkId), (s.dramSound lo hi).link l' = s.link l') ∧
    (∀ (i' : IoId), (s.dramSound lo hi).router i' = s.router i') ∧ (∀ (g' : Nat), (s.dramSound lo hi).group g' = s.group g') ∧ (∀ (v' : VfId) (r' : RingId), (s.dramSound lo hi).ring v' r' = s.ring v' r') ∧
    (∀ (f' : Nat), (s.dramSound lo hi).func f' = s.func f') ∧ (∀ (b' : Blk) (o' : Nat), (s.dramSound lo hi).reg b' o' = s.reg b' o') ∧ (∀ (b' : Blk) (o' h' l' : Nat), (s.dramSound lo hi).fld b' o' h' l' = s.fld b' o' h' l') :=
  ⟨rfl, rfl, rfl, rfl, rfl, rfl, rfl, rfl, rfl, rfl, rfl, rfl, rfl, rfl, rfl, rfl, rfl, rfl, rfl, rfl, rfl, rfl, rfl, rfl, rfl, rfl, rfl, rfl, rfl, rfl, rfl, rfl, rfl, rfl, rfl, rfl, rfl, fun _ _ => rfl, fun _ _ => rfl, fun _ _ _ => rfl, fun _ _ => rfl, fun _ _ _ => rfl, fun _ _ _ _ => rfl, fun _ _ => rfl, fun _ => rfl, fun _ => rfl, fun _ => rfl, fun _ => rfl, fun _ => rfl, fun _ => rfl, fun _ => rfl, fun _ => rfl, fun _ => rfl, fun _ _ => rfl, fun _ => rfl, fun _ _ => rfl, fun _ _ _ _ => rfl⟩

@[simp] theorem State.setLatch_frame (o : Nat) (v : Word32) :
    (s.setLatch o v).pending = s.pending ∧ (s.setLatch o v).ac = s.ac ∧ (s.setLatch o v).now = s.now ∧
    (s.setLatch o v).free = s.free ∧ (s.setLatch o v).regs = s.regs ∧ (s.setLatch o v).deferred = s.deferred ∧
    (s.setLatch o v).ws = s.ws ∧ (s.setLatch o v).am = s.am ∧ (s.setLatch o v).psm = s.psm ∧
    (s.setLatch o v).cs = s.cs ∧ (s.setLatch o v).tb = s.tb ∧ (s.setLatch o v).pm = s.pm ∧
    (s.setLatch o v).iram = s.iram ∧ (s.setLatch o v).dram = s.dram ∧ (s.setLatch o v).mail = s.mail ∧
    (s.setLatch o v).amPoison = s.amPoison ∧ (s.setLatch o v).psmPoison = s.psmPoison ∧ (s.setLatch o v).csPoison = s.csPoison ∧
    (s.setLatch o v).tbPoison = s.tbPoison ∧ (s.setLatch o v).wsErr = s.wsErr ∧ (s.setLatch o v).amErr = s.amErr ∧
    (s.setLatch o v).psmErr = s.psmErr ∧ (s.setLatch o v).csErr = s.csErr ∧ (s.setLatch o v).iramErr = s.iramErr ∧
    (s.setLatch o v).dramErr = s.dramErr ∧ (s.setLatch o v).pmErr = s.pmErr ∧ (s.setLatch o v).cores = s.cores ∧
    (s.setLatch o v).dies = s.dies ∧ (s.setLatch o v).ctxs = s.ctxs ∧ (s.setLatch o v).chains = s.chains ∧
    (s.setLatch o v).links = s.links ∧ (s.setLatch o v).routers = s.routers ∧ (s.setLatch o v).rgroups = s.rgroups ∧
    (s.setLatch o v).rings = s.rings ∧ (s.setLatch o v).funcs = s.funcs ∧ (s.setLatch o v).mod = s.mod ∧
    (s.setLatch o v).out = s.out ∧ (∀ (c' : CoreId) (w' : Nat), (s.setLatch o v).psmWord c' w' = s.psmWord c' w') ∧ (∀ (c' : CoreId) (w' : Nat), (s.setLatch o v).psmPois c' w' = s.psmPois c' w') ∧
    (∀ (c' : CoreId) (a' n' : Nat), (s.setLatch o v).amBytes c' a' n' = s.amBytes c' a' n') ∧ (∀ (c' : CoreId) (l' : Nat), (s.setLatch o v).amPois c' l' = s.amPois c' l') ∧ (∀ (c' : CoreId) (a' n' : Nat), (s.setLatch o v).wsBytes c' a' n' = s.wsBytes c' a' n') ∧
    (∀ (c' : CoreId) (b' r' j' : Nat), (s.setLatch o v).tbLane c' b' r' j' = s.tbLane c' b' r' j') ∧ (∀ (d' : DieId) (u' : Nat), (s.setLatch o v).csUnit d' u' = s.csUnit d' u') ∧ (∀ (c' : CoreId), (s.setLatch o v).core c' = s.core c') ∧
    (∀ (c' : CoreId), (s.setLatch o v).arr c' = s.arr c') ∧ (∀ (d' : DieId), (s.setLatch o v).die d' = s.die d') ∧ (∀ (d' : DieId), (s.setLatch o v).pgm d' = s.pgm d') ∧
    (∀ (x' : Ctx), (s.setLatch o v).ctx x' = s.ctx x') ∧ (∀ (e' : Encl), (s.setLatch o v).chain e' = s.chain e') ∧ (∀ (l' : LinkId), (s.setLatch o v).link l' = s.link l') ∧
    (∀ (i' : IoId), (s.setLatch o v).router i' = s.router i') ∧ (∀ (g' : Nat), (s.setLatch o v).group g' = s.group g') ∧ (∀ (v' : VfId) (r' : RingId), (s.setLatch o v).ring v' r' = s.ring v' r') ∧
    (∀ (f' : Nat), (s.setLatch o v).func f' = s.func f') ∧ (∀ (b' : Blk) (o' : Nat), (s.setLatch o v).reg b' o' = s.reg b' o') ∧ (∀ (b' : Blk) (o' h' l' : Nat), (s.setLatch o v).fld b' o' h' l' = s.fld b' o' h' l') :=
  ⟨rfl, rfl, rfl, rfl, rfl, rfl, rfl, rfl, rfl, rfl, rfl, rfl, rfl, rfl, rfl, rfl, rfl, rfl, rfl, rfl, rfl, rfl, rfl, rfl, rfl, rfl, rfl, rfl, rfl, rfl, rfl, rfl, rfl, rfl, rfl, rfl, rfl, fun _ _ => rfl, fun _ _ => rfl, fun _ _ _ => rfl, fun _ _ => rfl, fun _ _ _ => rfl, fun _ _ _ _ => rfl, fun _ _ => rfl, fun _ => rfl, fun _ => rfl, fun _ => rfl, fun _ => rfl, fun _ => rfl, fun _ => rfl, fun _ => rfl, fun _ => rfl, fun _ => rfl, fun _ _ => rfl, fun _ => rfl, fun _ _ => rfl, fun _ _ _ _ => rfl⟩

@[simp] theorem State.setDeferred_frame (l : List Late) :
    (s.setDeferred l).pending = s.pending ∧ (s.setDeferred l).ac = s.ac ∧ (s.setDeferred l).now = s.now ∧
    (s.setDeferred l).free = s.free ∧ (s.setDeferred l).regs = s.regs ∧ (s.setDeferred l).latches = s.latches ∧
    (s.setDeferred l).ws = s.ws ∧ (s.setDeferred l).am = s.am ∧ (s.setDeferred l).psm = s.psm ∧
    (s.setDeferred l).cs = s.cs ∧ (s.setDeferred l).tb = s.tb ∧ (s.setDeferred l).pm = s.pm ∧
    (s.setDeferred l).iram = s.iram ∧ (s.setDeferred l).dram = s.dram ∧ (s.setDeferred l).mail = s.mail ∧
    (s.setDeferred l).amPoison = s.amPoison ∧ (s.setDeferred l).psmPoison = s.psmPoison ∧ (s.setDeferred l).csPoison = s.csPoison ∧
    (s.setDeferred l).tbPoison = s.tbPoison ∧ (s.setDeferred l).wsErr = s.wsErr ∧ (s.setDeferred l).amErr = s.amErr ∧
    (s.setDeferred l).psmErr = s.psmErr ∧ (s.setDeferred l).csErr = s.csErr ∧ (s.setDeferred l).iramErr = s.iramErr ∧
    (s.setDeferred l).dramErr = s.dramErr ∧ (s.setDeferred l).pmErr = s.pmErr ∧ (s.setDeferred l).cores = s.cores ∧
    (s.setDeferred l).dies = s.dies ∧ (s.setDeferred l).ctxs = s.ctxs ∧ (s.setDeferred l).chains = s.chains ∧
    (s.setDeferred l).links = s.links ∧ (s.setDeferred l).routers = s.routers ∧ (s.setDeferred l).rgroups = s.rgroups ∧
    (s.setDeferred l).rings = s.rings ∧ (s.setDeferred l).funcs = s.funcs ∧ (s.setDeferred l).mod = s.mod ∧
    (s.setDeferred l).out = s.out ∧ (∀ (c' : CoreId) (w' : Nat), (s.setDeferred l).psmWord c' w' = s.psmWord c' w') ∧ (∀ (c' : CoreId) (w' : Nat), (s.setDeferred l).psmPois c' w' = s.psmPois c' w') ∧
    (∀ (c' : CoreId) (a' n' : Nat), (s.setDeferred l).amBytes c' a' n' = s.amBytes c' a' n') ∧ (∀ (c' : CoreId) (l' : Nat), (s.setDeferred l).amPois c' l' = s.amPois c' l') ∧ (∀ (c' : CoreId) (a' n' : Nat), (s.setDeferred l).wsBytes c' a' n' = s.wsBytes c' a' n') ∧
    (∀ (c' : CoreId) (b' r' j' : Nat), (s.setDeferred l).tbLane c' b' r' j' = s.tbLane c' b' r' j') ∧ (∀ (d' : DieId) (u' : Nat), (s.setDeferred l).csUnit d' u' = s.csUnit d' u') ∧ (∀ (c' : CoreId), (s.setDeferred l).core c' = s.core c') ∧
    (∀ (c' : CoreId), (s.setDeferred l).arr c' = s.arr c') ∧ (∀ (d' : DieId), (s.setDeferred l).die d' = s.die d') ∧ (∀ (d' : DieId), (s.setDeferred l).pgm d' = s.pgm d') ∧
    (∀ (x' : Ctx), (s.setDeferred l).ctx x' = s.ctx x') ∧ (∀ (e' : Encl), (s.setDeferred l).chain e' = s.chain e') ∧ (∀ (l' : LinkId), (s.setDeferred l).link l' = s.link l') ∧
    (∀ (i' : IoId), (s.setDeferred l).router i' = s.router i') ∧ (∀ (g' : Nat), (s.setDeferred l).group g' = s.group g') ∧ (∀ (v' : VfId) (r' : RingId), (s.setDeferred l).ring v' r' = s.ring v' r') ∧
    (∀ (f' : Nat), (s.setDeferred l).func f' = s.func f') ∧ (∀ (b' : Blk) (o' : Nat), (s.setDeferred l).reg b' o' = s.reg b' o') ∧ (∀ (b' : Blk) (o' h' l' : Nat), (s.setDeferred l).fld b' o' h' l' = s.fld b' o' h' l') :=
  ⟨rfl, rfl, rfl, rfl, rfl, rfl, rfl, rfl, rfl, rfl, rfl, rfl, rfl, rfl, rfl, rfl, rfl, rfl, rfl, rfl, rfl, rfl, rfl, rfl, rfl, rfl, rfl, rfl, rfl, rfl, rfl, rfl, rfl, rfl, rfl, rfl, rfl, fun _ _ => rfl, fun _ _ => rfl, fun _ _ _ => rfl, fun _ _ => rfl, fun _ _ _ => rfl, fun _ _ _ _ => rfl, fun _ _ => rfl, fun _ => rfl, fun _ => rfl, fun _ => rfl, fun _ => rfl, fun _ => rfl, fun _ => rfl, fun _ => rfl, fun _ => rfl, fun _ => rfl, fun _ _ => rfl, fun _ => rfl, fun _ _ => rfl, fun _ _ _ _ => rfl⟩

@[simp] theorem State.raise_frame (b : Blk) (off bit : Nat) :
    (s.raise b off bit).pending = s.pending ∧ (s.raise b off bit).ac = s.ac ∧ (s.raise b off bit).now = s.now ∧
    (s.raise b off bit).free = s.free ∧ (s.raise b off bit).latches = s.latches ∧ (s.raise b off bit).deferred = s.deferred ∧
    (s.raise b off bit).ws = s.ws ∧ (s.raise b off bit).am = s.am ∧ (s.raise b off bit).psm = s.psm ∧
    (s.raise b off bit).cs = s.cs ∧ (s.raise b off bit).tb = s.tb ∧ (s.raise b off bit).pm = s.pm ∧
    (s.raise b off bit).iram = s.iram ∧ (s.raise b off bit).dram = s.dram ∧ (s.raise b off bit).mail = s.mail ∧
    (s.raise b off bit).amPoison = s.amPoison ∧ (s.raise b off bit).psmPoison = s.psmPoison ∧ (s.raise b off bit).csPoison = s.csPoison ∧
    (s.raise b off bit).tbPoison = s.tbPoison ∧ (s.raise b off bit).wsErr = s.wsErr ∧ (s.raise b off bit).amErr = s.amErr ∧
    (s.raise b off bit).psmErr = s.psmErr ∧ (s.raise b off bit).csErr = s.csErr ∧ (s.raise b off bit).iramErr = s.iramErr ∧
    (s.raise b off bit).dramErr = s.dramErr ∧ (s.raise b off bit).pmErr = s.pmErr ∧ (s.raise b off bit).cores = s.cores ∧
    (s.raise b off bit).dies = s.dies ∧ (s.raise b off bit).ctxs = s.ctxs ∧ (s.raise b off bit).chains = s.chains ∧
    (s.raise b off bit).links = s.links ∧ (s.raise b off bit).routers = s.routers ∧ (s.raise b off bit).rgroups = s.rgroups ∧
    (s.raise b off bit).rings = s.rings ∧ (s.raise b off bit).funcs = s.funcs ∧ (s.raise b off bit).mod = s.mod ∧
    (s.raise b off bit).out = s.out ∧ (∀ (c' : CoreId) (w' : Nat), (s.raise b off bit).psmWord c' w' = s.psmWord c' w') ∧ (∀ (c' : CoreId) (w' : Nat), (s.raise b off bit).psmPois c' w' = s.psmPois c' w') ∧
    (∀ (c' : CoreId) (a' n' : Nat), (s.raise b off bit).amBytes c' a' n' = s.amBytes c' a' n') ∧ (∀ (c' : CoreId) (l' : Nat), (s.raise b off bit).amPois c' l' = s.amPois c' l') ∧ (∀ (c' : CoreId) (a' n' : Nat), (s.raise b off bit).wsBytes c' a' n' = s.wsBytes c' a' n') ∧
    (∀ (c' : CoreId) (b' r' j' : Nat), (s.raise b off bit).tbLane c' b' r' j' = s.tbLane c' b' r' j') ∧ (∀ (d' : DieId) (u' : Nat), (s.raise b off bit).csUnit d' u' = s.csUnit d' u') ∧ (∀ (c' : CoreId), (s.raise b off bit).core c' = s.core c') ∧
    (∀ (c' : CoreId), (s.raise b off bit).arr c' = s.arr c') ∧ (∀ (d' : DieId), (s.raise b off bit).die d' = s.die d') ∧ (∀ (d' : DieId), (s.raise b off bit).pgm d' = s.pgm d') ∧
    (∀ (x' : Ctx), (s.raise b off bit).ctx x' = s.ctx x') ∧ (∀ (e' : Encl), (s.raise b off bit).chain e' = s.chain e') ∧ (∀ (l' : LinkId), (s.raise b off bit).link l' = s.link l') ∧
    (∀ (i' : IoId), (s.raise b off bit).router i' = s.router i') ∧ (∀ (g' : Nat), (s.raise b off bit).group g' = s.group g') ∧ (∀ (v' : VfId) (r' : RingId), (s.raise b off bit).ring v' r' = s.ring v' r') ∧
    (∀ (f' : Nat), (s.raise b off bit).func f' = s.func f') := by
  unfold State.raise
  cases b.die <;>
  exact ⟨rfl, rfl, rfl, rfl, rfl, rfl, rfl, rfl, rfl, rfl, rfl, rfl, rfl, rfl, rfl, rfl, rfl, rfl, rfl, rfl, rfl, rfl, rfl, rfl, rfl, rfl, rfl, rfl, rfl, rfl, rfl, rfl, rfl, rfl, rfl, rfl, rfl, fun _ _ => rfl, fun _ _ => rfl, fun _ _ _ => rfl, fun _ _ => rfl, fun _ _ _ => rfl, fun _ _ _ _ => rfl, fun _ _ => rfl, fun _ => rfl, fun _ => rfl, fun _ => rfl, fun _ => rfl, fun _ => rfl, fun _ => rfl, fun _ => rfl, fun _ => rfl, fun _ => rfl, fun _ _ => rfl, fun _ => rfl⟩

@[simp] theorem State.count_frame (b : Blk) (off n : Nat) :
    (s.count b off n).pending = s.pending ∧ (s.count b off n).ac = s.ac ∧ (s.count b off n).now = s.now ∧
    (s.count b off n).free = s.free ∧ (s.count b off n).latches = s.latches ∧ (s.count b off n).deferred = s.deferred ∧
    (s.count b off n).ws = s.ws ∧ (s.count b off n).am = s.am ∧ (s.count b off n).psm = s.psm ∧
    (s.count b off n).cs = s.cs ∧ (s.count b off n).tb = s.tb ∧ (s.count b off n).pm = s.pm ∧
    (s.count b off n).iram = s.iram ∧ (s.count b off n).dram = s.dram ∧ (s.count b off n).mail = s.mail ∧
    (s.count b off n).amPoison = s.amPoison ∧ (s.count b off n).psmPoison = s.psmPoison ∧ (s.count b off n).csPoison = s.csPoison ∧
    (s.count b off n).tbPoison = s.tbPoison ∧ (s.count b off n).wsErr = s.wsErr ∧ (s.count b off n).amErr = s.amErr ∧
    (s.count b off n).psmErr = s.psmErr ∧ (s.count b off n).csErr = s.csErr ∧ (s.count b off n).iramErr = s.iramErr ∧
    (s.count b off n).dramErr = s.dramErr ∧ (s.count b off n).pmErr = s.pmErr ∧ (s.count b off n).cores = s.cores ∧
    (s.count b off n).dies = s.dies ∧ (s.count b off n).ctxs = s.ctxs ∧ (s.count b off n).chains = s.chains ∧
    (s.count b off n).links = s.links ∧ (s.count b off n).routers = s.routers ∧ (s.count b off n).rgroups = s.rgroups ∧
    (s.count b off n).rings = s.rings ∧ (s.count b off n).funcs = s.funcs ∧ (s.count b off n).mod = s.mod ∧
    (s.count b off n).out = s.out ∧ (∀ (c' : CoreId) (w' : Nat), (s.count b off n).psmWord c' w' = s.psmWord c' w') ∧ (∀ (c' : CoreId) (w' : Nat), (s.count b off n).psmPois c' w' = s.psmPois c' w') ∧
    (∀ (c' : CoreId) (a' n' : Nat), (s.count b off n).amBytes c' a' n' = s.amBytes c' a' n') ∧ (∀ (c' : CoreId) (l' : Nat), (s.count b off n).amPois c' l' = s.amPois c' l') ∧ (∀ (c' : CoreId) (a' n' : Nat), (s.count b off n).wsBytes c' a' n' = s.wsBytes c' a' n') ∧
    (∀ (c' : CoreId) (b' r' j' : Nat), (s.count b off n).tbLane c' b' r' j' = s.tbLane c' b' r' j') ∧ (∀ (d' : DieId) (u' : Nat), (s.count b off n).csUnit d' u' = s.csUnit d' u') ∧ (∀ (c' : CoreId), (s.count b off n).core c' = s.core c') ∧
    (∀ (c' : CoreId), (s.count b off n).arr c' = s.arr c') ∧ (∀ (d' : DieId), (s.count b off n).die d' = s.die d') ∧ (∀ (d' : DieId), (s.count b off n).pgm d' = s.pgm d') ∧
    (∀ (x' : Ctx), (s.count b off n).ctx x' = s.ctx x') ∧ (∀ (e' : Encl), (s.count b off n).chain e' = s.chain e') ∧ (∀ (l' : LinkId), (s.count b off n).link l' = s.link l') ∧
    (∀ (i' : IoId), (s.count b off n).router i' = s.router i') ∧ (∀ (g' : Nat), (s.count b off n).group g' = s.group g') ∧ (∀ (v' : VfId) (r' : RingId), (s.count b off n).ring v' r' = s.ring v' r') ∧
    (∀ (f' : Nat), (s.count b off n).func f' = s.func f') := by
  unfold State.count
  cases b.reg off <;>
  exact ⟨rfl, rfl, rfl, rfl, rfl, rfl, rfl, rfl, rfl, rfl, rfl, rfl, rfl, rfl, rfl, rfl, rfl, rfl, rfl, rfl, rfl, rfl, rfl, rfl, rfl, rfl, rfl, rfl, rfl, rfl, rfl, rfl, rfl, rfl, rfl, rfl, rfl, fun _ _ => rfl, fun _ _ => rfl, fun _ _ _ => rfl, fun _ _ => rfl, fun _ _ _ => rfl, fun _ _ _ _ => rfl, fun _ _ => rfl, fun _ => rfl, fun _ => rfl, fun _ => rfl, fun _ => rfl, fun _ => rfl, fun _ => rfl, fun _ => rfl, fun _ => rfl, fun _ => rfl, fun _ _ => rfl, fun _ => rfl⟩

@[simp] theorem State.core_setCore (c c' : CoreId) (k : Core) : (s.setCore c k).core c' = if c' = c then k else s.core c' := by
  simp [State.core, State.setCore, Store.get_set, Fin.ext_iff]

@[simp] theorem State.die_setDie (d d' : DieId) (k : Die) : (s.setDie d k).die d' = if d' = d then k else s.die d' := by
  simp [State.die, State.setDie, Store.get_set, Fin.ext_iff]

@[simp] theorem State.ctx_setCtx (x x' : Ctx) (k : CtxState) : (s.setCtx x k).ctx x' = if x' = x then k else s.ctx x' := by
  simp [State.ctx, State.setCtx, Store.get_set, BitVec.toNat_inj]

@[simp] theorem State.chain_setChain (e e' : Encl) (k : Chain) : (s.setChain e k).chain e' = if e' = e then k else s.chain e' := by
  simp [State.chain, State.setChain, Store.get_set, BitVec.toNat_inj]

@[simp] theorem State.link_setLink (l l' : LinkId) (k : Link) : (s.setLink l k).link l' = if l' = l then k else s.link l' := by
  simp [State.link, State.setLink, Store.get_set, Fin.ext_iff]

@[simp] theorem State.router_setRouter (i i' : IoId) (k : Router) : (s.setRouter i k).router i' = if i' = i then k else s.router i' := by
  simp [State.router, State.setRouter, Store.get_set, Fin.ext_iff]

@[simp] theorem State.group_setGroup (g g' : Nat) (k : Group) : (s.setGroup g k).group g' = if g' = g then k else s.group g' := by
  simp [State.group, State.setGroup, Store.get_set]

@[simp] theorem State.func_setFunc (f f' : Nat) (k : Func) : (s.setFunc f k).func f' = if f' = f then k else s.func f' := by
  simp [State.func, State.setFunc, Store.get_set]

@[simp] theorem State.ring_setRing (v v' : VfId) (r r' : RingId) (k : Ring) :
    (s.setRing v r k).ring v' r' = if v' = v ∧ r' = r then k else s.ring v' r' := by
  have : ringKey v' r' = ringKey v r ↔ v' = v ∧ r' = r := by
    simp only [ringKey, Fin.ext_iff]; omega
  simp [State.ring, State.setRing, Store.get_set, this]

@[simp] theorem State.onCore_eq (c : CoreId) (f : Core → Core) : s.onCore c f = s.setCore c (f (s.core c)) := rfl
@[simp] theorem State.onArr_eq (c : CoreId) (f : Arr → Arr) : s.onArr c f = s.setCore c { s.core c with arr := f (s.arr c) } := rfl
@[simp] theorem State.onDie_eq (d : DieId) (f : Die → Die) : s.onDie d f = s.setDie d (f (s.die d)) := rfl
@[simp] theorem State.setPgm_eq (d : DieId) (p : Pgm) : s.setPgm d p = s.setDie d { s.die d with pgm := p } := rfl
@[simp] theorem State.onCtx_eq (x : Ctx) (f : CtxState → CtxState) : s.onCtx x f = s.setCtx x (f (s.ctx x)) := rfl
@[simp] theorem State.onLink_eq (l : LinkId) (f : Link → Link) : s.onLink l f = s.setLink l (f (s.link l)) := rfl
@[simp] theorem State.onRouter_eq (i : IoId) (f : Router → Router) : s.onRouter i f = s.setRouter i (f (s.router i)) := rfl
@[simp] theorem State.onRing_eq (v : VfId) (r : RingId) (f : Ring → Ring) : s.onRing v r f = s.setRing v r (f (s.ring v r)) := rfl
@[simp] theorem State.onFunc_eq (n : Nat) (g : Func → Func) : s.onFunc n g = s.setFunc n (g (s.func n)) := rfl
@[simp] theorem State.orReg_eq (b : Blk) (off m : Nat) : s.orReg b off m = s.setReg b off (s.reg b off ||| m) := rfl
@[simp] theorem State.setFld_eq (b : Blk) (off hi lo v : Nat) : s.setFld b off hi lo v = s.setReg b off (setBits (s.reg b off) hi lo v) := rfl

@[simp] theorem State.onMod_mod (g : Mod → Mod) : (s.onMod g).mod = g s.mod := rfl
@[simp] theorem State.emit_out (o : Out) : (s.emit o).out = s.out ++ [o] := rfl
@[simp] theorem State.draw_free (n : Nat) : (s.draw n).free = s.free + n := rfl
theorem State.arr_eq (c : CoreId) : s.arr c = (s.core c).arr := rfl
@[simp] theorem State.arr_setCore (c c' : CoreId) (k : Core) :
    (s.setCore c k).arr c' = if c' = c then k.arr else s.arr c' := by
  simp only [State.arr, State.core_setCore]; split <;> rfl
@[simp] theorem State.pgm_setDie (d d' : DieId) (k : Die) :
    (s.setDie d k).pgm d' = if d' = d then k.pgm else s.pgm d' := by
  simp only [State.pgm, State.die_setDie]; split <;> rfl

/-! ### Registers -/

/-- A register reads back what was written to it, modulo its width. -/
@[simp] theorem State.reg_setReg_same (b : Blk) (off v : Nat) : (s.setReg b off v).reg b off = v % 2 ^ 32 := by
  simp [State.reg, State.setReg]

/-- A register at another offset keeps its value. -/
theorem State.reg_setReg_ne (b b' : Blk) {off off' : Nat} (v : Nat) (h : b'.base + off' ≠ b.base + off) :
    (s.setReg b off v).reg b' off' = s.reg b' off' := by
  simp [State.reg, State.setReg, Store.get_set, h]

@[simp] theorem State.reg_setReg_off (b : Blk) (off off' v : Nat) :
    (s.setReg b off v).reg b off' = if off' = off then v % 2 ^ 32 else s.reg b off' := by
  by_cases h : off' = off
  · subst h; simp
  · rw [if_neg h, State.reg_setReg_ne]; omega

/-- A fault bit of a core's block is set; the block's other registers keep their values. -/
theorem State.reg_raise_core (b : Blk) (c : CoreId) (hd : b.die = some (dieOf c)) (hb : coreBase c ≤ b.base) (off bit o : Nat) :
    (s.raise b off bit).reg b o = if o = off then (s.reg b off ||| 2 ^ bit) % 2 ^ 32 else s.reg b o := by
  have h : b.base + o ≠ (Blk.cqDie (dieOf c)).base + 0x48 := by
    unfold coreBase at hb; simp only [Blk.base] at hb ⊢; omega
  simp only [State.raise, hd, State.orReg_eq]
  rw [State.reg_setReg_ne _ _ _ _ h, State.reg_setReg_off]

@[simp] theorem State.reg_raise_mx (c : CoreId) (off bit o : Nat) : (s.raise (.mx c) off bit).reg (.mx c) o =
    if o = off then (s.reg (.mx c) off ||| 2 ^ bit) % 2 ^ 32 else s.reg (.mx c) o :=
  s.reg_raise_core _ c rfl (by simp [Blk.base]) off bit o
@[simp] theorem State.reg_raise_cq (c : CoreId) (off bit o : Nat) : (s.raise (.cq c) off bit).reg (.cq c) o =
    if o = off then (s.reg (.cq c) off ||| 2 ^ bit) % 2 ^ 32 else s.reg (.cq c) o :=
  s.reg_raise_core _ c rfl (by simp [Blk.base]) off bit o
@[simp] theorem State.reg_raise_mesh (c : CoreId) (off bit o : Nat) : (s.raise (.mesh c) off bit).reg (.mesh c) o =
    if o = off then (s.reg (.mesh c) off ||| 2 ^ bit) % 2 ^ 32 else s.reg (.mesh c) o :=
  s.reg_raise_core _ c rfl (by simp [Blk.base]) off bit o
@[simp] theorem State.reg_raise_vu (c : CoreId) (off bit o : Nat) : (s.raise (.vu c) off bit).reg (.vu c) o =
    if o = off then (s.reg (.vu c) off ||| 2 ^ bit) % 2 ^ 32 else s.reg (.vu c) o :=
  s.reg_raise_core _ c rfl (by simp [Blk.base]) off bit o
@[simp] theorem State.reg_raise_dma (c : CoreId) (off bit o : Nat) : (s.raise (.dma c) off bit).reg (.dma c) o =
    if o = off then (s.reg (.dma c) off ||| 2 ^ bit) % 2 ^ 32 else s.reg (.dma c) o :=
  s.reg_raise_core _ c rfl (by simp [Blk.base]) off bit o

theorem State.reg_lt (b : Blk) (off : Nat) : s.reg b off < 2 ^ 32 := BitVec.isLt _

/-- A counter that wraps adds its increment modulo 2^32 (R16, R21). -/
theorem State.reg_count_wrap (b : Blk) (off n : Nat) (h : b.reg off = some cntReg) :
    (s.count b off n).reg b off = (s.reg b off + n) % 2 ^ 32 := by
  have := s.reg_lt b off
  simp only [State.count, h, State.reg_setReg_same, RegDef.add, cntReg]
  simp only [Bool.false_eq_true, if_false]
  omega
/-- A counter that saturates stops at its greatest value (R21). -/
theorem State.reg_count_sat (b : Blk) (off n : Nat) (h : b.reg off = some satReg) :
    (s.count b off n).reg b off = Nat.min (s.reg b off + n) 0xFFFFFFFF := by
  have := s.reg_lt b off
  simp only [State.count, h, State.reg_setReg_same, RegDef.add, satReg]
  simp only [if_true, Nat.min_def]
  split <;> split <;> omega
theorem State.reg_count_ne (b b' : Blk) {off off' : Nat} (n : Nat) (h : b'.base + off' ≠ b.base + off) :
    (s.count b off n).reg b' off' = s.reg b' off' := by
  unfold State.count
  split
  · exact s.reg_setReg_ne _ _ _ h
  · rfl
theorem State.reg_count_off (b : Blk) {off off' : Nat} (n : Nat) (h : off' ≠ off) :
    (s.count b off n).reg b off' = s.reg b off' := s.reg_count_ne _ _ _ (by omega)

/-! ### Memories of a core -/

/-- A byte of activation memory after a write of bytes. -/
theorem State.am_amSet (c : CoreId) (a : Nat) (b : List Byte) (i : Nat) :
    (s.amSet c a b).am.byte i =
      if amBase c + a ≤ i ∧ i < amBase c + a + b.length then b.getD (i - (amBase c + a)) 0 else s.am.byte i :=
  Memory.byte_setBytes ..

@[simp] theorem State.amPois_setAmPois (c : CoreId) (l l' : Nat) (p : Bool) :
    (s.setAmPois c l p).amPois c l' = if l' = l then p else s.amPois c l' := by
  have : amLineKey c l' = amLineKey c l ↔ l' = l := by unfold amLineKey; omega
  simp [State.amPois, State.setAmPois, Store.get_set, this]

@[simp] theorem State.psmPois_psmSet (c : CoreId) (w w' : Nat) (v : W128) (p : Bool) :
    (s.psmSet c w v p).psmPois c w' = if w' = w then p else s.psmPois c w' := by
  have : psmKey c w' = psmKey c w ↔ w' = w := by unfold psmKey; omega
  simp [State.psmPois, State.psmSet, Store.get_set, this]

/-- A partial-sum word reads back what was written. -/
@[simp] theorem State.psmWord_psmSet_same (c : CoreId) (w : Nat) (v : W128) (p : Bool) :
    (s.psmSet c w v p).psmWord c w = v := by
  unfold State.psmWord State.psmSet
  simp only [Memory.nat_setNat]
  have : v.toNat % 256 ^ 16 = v.toNat := Nat.mod_eq_of_lt (by have := v.isLt; norm_num; omega)
  rw [this]; simp

theorem State.psmWord_psmSet_ne (c : CoreId) {w w' : Nat} (v : W128) (p : Bool) (h : w' ≠ w) :
    (s.psmSet c w v p).psmWord c w' = s.psmWord c w' := by
  unfold State.psmWord State.psmSet
  rw [Memory.nat_setNat_out]; omega

end

end Sys2Proof.Machine
end

