-- ==== Sys2Proof/Laws/Within.lean ====
section
/-! SUPPORT. Such bounds compose, and each primitive update of the state stays in the frame of its part. -/

namespace Sys2Proof.Machine

variable {P : List Part} {r s t : State}

theorem Within.refl (P : List Part) (s : State) : Within P s s :=
  ⟨⟨rfl, rfl, rfl, Nat.le_refl _, List.prefix_refl _⟩, id, fun p _ => by cases p <;> simp [Part.same]⟩

theorem Part.same_trans {p : Part} (h : p.same r s) (g : p.same s t) : p.same r t := by
  cases p <;> simp_all [Part.same]

theorem Within.trans (h : Within P r s) (g : Within P s t) : Within P r t := by
  obtain ⟨⟨h1, h2, h3, h4, h5⟩, hc, hp⟩ := h
  obtain ⟨⟨g1, g2, g3, g4, g5⟩, gc, gp⟩ := g
  exact ⟨⟨g1.trans h1, g2.trans h2, g3.trans h3, h4.trans g4, h5.trans g5⟩, fun h => gc (hc h),
    fun p hn => Part.same_trans (hp p hn) (gp p hn)⟩

theorem Within.mono {Q : List Part} (h : Within P s t) (sub : ∀ p ∈ P, p ∈ Q) : Within Q s t :=
  ⟨h.1, h.2.1, fun p hn => h.2.2 p fun hp => hn (sub p hp)⟩

theorem Within.ite {c : Prop} [Decidable c] {a b : State} (ha : c → Within P r a) (hb : ¬c → Within P r b) :
    Within P r (if c then a else b) := by
  split
  · exact ha ‹_›
  · exact hb ‹_›

theorem Within.foldl {α : Type} (f : State → α → State) (l : List α) (h : Within P r s)
    (hf : ∀ s a, Within P r s → Within P r (f s a)) : Within P r (l.foldl f s) := by
  induction l generalizing s with
  | nil => exact h
  | cons a t ih => exact ih (hf s a h)

theorem Within.foldl_fst {α β : Type} (f : State × β → α → State × β) (l : List α) {a : State × β} (h : Within P r a.1)
    (hf : ∀ a e, Within P r a.1 → Within P r (f a e).1) : Within P r (l.foldl f a).1 := by
  induction l generalizing a with
  | nil => exact h
  | cons e t ih => exact ih (hf a e h)

theorem Within.of_eq {α : Type} {a : State × α} {b : α} (e : a = (t, b)) (h : Within P r a.1) : Within P r t := by
  rw [e] at h; exact h

@[simp] theorem soundAfterCopy_wf {m : Store MemErr} (f : Nat → Bool) (h : Store.wf .none m = true) :
    Store.wf .none (soundAfterCopy m f) = true := by
  rw [Store.wf_iff] at h ⊢
  exact ⟨h.1.filter _, fun e he => h.2 e (List.mem_filter.mp he).1⟩

/-- An update within one part that the frame names. -/
theorem Within.one {p : Part} (h : Within P r s) (hp : p ∈ P) (g : Within [p] s t) : Within P r t :=
  h.trans (g.mono fun q hq => by simp at hq; exact hq ▸ hp)

theorem State.setCore_within (c : CoreId) (k : Core) (h : Within P r s) (hp : .cores ∈ P) : Within P r (s.setCore c k) := by
  refine h.one hp ⟨⟨rfl, rfl, rfl, Nat.le_refl _, List.prefix_refl _⟩, ?_, ?_⟩
  · simp only [State.canonical, State.setCore]; intro h; simp_all
  · intro p hp; cases p <;> simp_all [Part.same]

theorem State.setDie_within (d : DieId) (k : Die) (h : Within P r s) (hp : .dies ∈ P) : Within P r (s.setDie d k) := by
  refine h.one hp ⟨⟨rfl, rfl, rfl, Nat.le_refl _, List.prefix_refl _⟩, ?_, ?_⟩
  · simp only [State.canonical, State.setDie]; intro h; simp_all
  · intro p hp; cases p <;> simp_all [Part.same]

theorem State.setCtx_within (x : Ctx) (k : CtxState) (h : Within P r s) (hp : .ctxs ∈ P) : Within P r (s.setCtx x k) := by
  refine h.one hp ⟨⟨rfl, rfl, rfl, Nat.le_refl _, List.prefix_refl _⟩, ?_, ?_⟩
  · simp only [State.canonical, State.setCtx]; intro h; simp_all
  · intro p hp; cases p <;> simp_all [Part.same]

theorem State.setChain_within (e : Encl) (k : Chain) (h : Within P r s) (hp : .chains ∈ P) : Within P r (s.setChain e k) := by
  refine h.one hp ⟨⟨rfl, rfl, rfl, Nat.le_refl _, List.prefix_refl _⟩, ?_, ?_⟩
  · simp only [State.canonical, State.setChain]; intro h; simp_all
  · intro p hp; cases p <;> simp_all [Part.same]

theorem State.setLink_within (l : LinkId) (k : Link) (h : Within P r s) (hp : .links ∈ P) : Within P r (s.setLink l k) := by
  refine h.one hp ⟨⟨rfl, rfl, rfl, Nat.le_refl _, List.prefix_refl _⟩, ?_, ?_⟩
  · simp only [State.canonical, State.setLink]; intro h; simp_all
  · intro p hp; cases p <;> simp_all [Part.same]

theorem State.setRouter_within (i : IoId) (k : Router) (h : Within P r s) (hp : .routers ∈ P) : Within P r (s.setRouter i k) := by
  refine h.one hp ⟨⟨rfl, rfl, rfl, Nat.le_refl _, List.prefix_refl _⟩, ?_, ?_⟩
  · simp only [State.canonical, State.setRouter]; intro h; simp_all
  · intro p hp; cases p <;> simp_all [Part.same]

theorem State.setGroup_within (g : Nat) (k : Group) (h : Within P r s) (hp : .rgroups ∈ P) : Within P r (s.setGroup g k) := by
  refine h.one hp ⟨⟨rfl, rfl, rfl, Nat.le_refl _, List.prefix_refl _⟩, ?_, ?_⟩
  · simp only [State.canonical, State.setGroup]; intro h; simp_all
  · intro p hp; cases p <;> simp_all [Part.same]

theorem State.setRing_within (v : VfId) (q : RingId) (k : Ring) (h : Within P r s) (hp : .rings ∈ P) : Within P r (s.setRing v q k) := by
  refine h.one hp ⟨⟨rfl, rfl, rfl, Nat.le_refl _, List.prefix_refl _⟩, ?_, ?_⟩
  · simp only [State.canonical, State.setRing]; intro h; simp_all
  · intro p hp; cases p <;> simp_all [Part.same]

theorem State.setFunc_within (n : Nat) (k : Func) (h : Within P r s) (hp : .funcs ∈ P) : Within P r (s.setFunc n k) := by
  refine h.one hp ⟨⟨rfl, rfl, rfl, Nat.le_refl _, List.prefix_refl _⟩, ?_, ?_⟩
  · simp only [State.canonical, State.setFunc]; intro h; simp_all
  · intro p hp; cases p <;> simp_all [Part.same]

theorem State.onMod_within (g : Mod → Mod) (h : Within P r s) (hp : .mod ∈ P) : Within P r (s.onMod g) := by
  refine h.one hp ⟨⟨rfl, rfl, rfl, Nat.le_refl _, List.prefix_refl _⟩, ?_, ?_⟩
  · simp only [State.canonical, State.onMod]; intro h; simp_all
  · intro p hp; cases p <;> simp_all [Part.same]

theorem State.setReg_within (b : Blk) (off v : Nat) (h : Within P r s) (hp : .regs ∈ P) : Within P r (s.setReg b off v) := by
  refine h.one hp ⟨⟨rfl, rfl, rfl, Nat.le_refl _, List.prefix_refl _⟩, ?_, ?_⟩
  · simp only [State.canonical, State.setReg]; intro h; simp_all
  · intro p hp; cases p <;> simp_all [Part.same]

theorem State.amSet_within (c : CoreId) (a : Nat) (b : List Byte) (h : Within P r s) (hp : .am ∈ P) : Within P r (s.amSet c a b) := by
  refine h.one hp ⟨⟨rfl, rfl, rfl, Nat.le_refl _, List.prefix_refl _⟩, ?_, ?_⟩
  · simp only [State.canonical, State.amSet]; intro h; simp_all
  · intro p hp; cases p <;> simp_all [Part.same]

theorem State.setAmPois_within (c : CoreId) (line : Nat) (p : Bool) (h : Within P r s) (hp : .am ∈ P) : Within P r (s.setAmPois c line p) := by
  refine h.one hp ⟨⟨rfl, rfl, rfl, Nat.le_refl _, List.prefix_refl _⟩, ?_, ?_⟩
  · simp only [State.canonical, State.setAmPois]; intro h; simp_all
  · intro p hp; cases p <;> simp_all [Part.same]

theorem State.psmSet_within (c : CoreId) (w : Nat) (v : W128) (p : Bool) (h : Within P r s) (hp : .psm ∈ P) : Within P r (s.psmSet c w v p) := by
  refine h.one hp ⟨⟨rfl, rfl, rfl, Nat.le_refl _, List.prefix_refl _⟩, ?_, ?_⟩
  · simp only [State.canonical, State.psmSet]; intro h; simp_all
  · intro p hp; cases p <;> simp_all [Part.same]

theorem State.setTbPois_within (c : CoreId) (b q : Nat) (p : Bool) (h : Within P r s) (hp : .tb ∈ P) : Within P r (s.setTbPois c b q p) := by
  refine h.one hp ⟨⟨rfl, rfl, rfl, Nat.le_refl _, List.prefix_refl _⟩, ?_, ?_⟩
  · simp only [State.canonical, State.setTbPois]; intro h; simp_all
  · intro p hp; cases p <;> simp_all [Part.same]

theorem State.setTbLane_within (c : CoreId) (b q j v : Nat) (h : Within P r s) (hp : .tb ∈ P) : Within P r (s.setTbLane c b q j v) := by
  refine h.one hp ⟨⟨rfl, rfl, rfl, Nat.le_refl _, List.prefix_refl _⟩, ?_, ?_⟩
  · simp only [State.canonical, State.setTbLane]; intro h; simp_all
  · intro p hp; cases p <;> simp_all [Part.same]

theorem State.wsSet_within (c : CoreId) (a : Nat) (b : List Byte) (h : Within P r s) (hp : .ws ∈ P) : Within P r (s.wsSet c a b) := by
  refine h.one hp ⟨⟨rfl, rfl, rfl, Nat.le_refl _, List.prefix_refl _⟩, ?_, ?_⟩
  · simp only [State.canonical, State.wsSet]; intro h; simp_all
  · intro p hp; cases p <;> simp_all [Part.same]

theorem State.csUnitSet_within (d : DieId) (u : Nat) (b : List Byte) (p : Bool) (h : Within P r s) (hp : .cs ∈ P) : Within P r (s.csUnitSet d u b p) := by
  refine h.one hp ⟨⟨rfl, rfl, rfl, Nat.le_refl _, List.prefix_refl _⟩, ?_, ?_⟩
  · simp only [State.canonical, State.csUnitSet]; intro h; simp_all
  · intro p hp; cases p <;> simp_all [Part.same]

theorem State.setPsmPois_within (c : CoreId) (w : Nat) (p : Bool) (h : Within P r s) (hp : .psm ∈ P) : Within P r (s.setPsmPois c w p) := by
  refine h.one hp ⟨⟨rfl, rfl, rfl, Nat.le_refl _, List.prefix_refl _⟩, ?_, ?_⟩
  · simp only [State.canonical, State.setPsmPois]; intro h; simp_all
  · intro p hp; cases p <;> simp_all [Part.same]

theorem State.csSet_within (a : Nat) (b : List Byte) (h : Within P r s) (hp : .cs ∈ P) : Within P r (s.csSet a b) := by
  refine h.one hp ⟨⟨rfl, rfl, rfl, Nat.le_refl _, List.prefix_refl _⟩, ?_, ?_⟩
  · simp only [State.canonical, State.csSet]; intro h; simp_all
  · intro p hp; cases p <;> simp_all [Part.same]

theorem State.psmBytesSet_within (a : Nat) (b : List Byte) (h : Within P r s) (hp : .psm ∈ P) : Within P r (s.psmBytesSet a b) := by
  refine h.one hp ⟨⟨rfl, rfl, rfl, Nat.le_refl _, List.prefix_refl _⟩, ?_, ?_⟩
  · simp only [State.canonical, State.psmBytesSet]; intro h; simp_all
  · intro p hp; cases p <;> simp_all [Part.same]

theorem State.tbSet_within (a : Nat) (b : List Byte) (h : Within P r s) (hp : .tb ∈ P) : Within P r (s.tbSet a b) := by
  refine h.one hp ⟨⟨rfl, rfl, rfl, Nat.le_refl _, List.prefix_refl _⟩, ?_, ?_⟩
  · simp only [State.canonical, State.tbSet]; intro h; simp_all
  · intro p hp; cases p <;> simp_all [Part.same]

theorem State.pmSet_within (a : Nat) (b : List Byte) (h : Within P r s) (hp : .pm ∈ P) : Within P r (s.pmSet a b) := by
  refine h.one hp ⟨⟨rfl, rfl, rfl, Nat.le_refl _, List.prefix_refl _⟩, ?_, ?_⟩
  · simp only [State.canonical, State.pmSet]; intro h; simp_all
  · intro p hp; cases p <;> simp_all [Part.same]

theorem State.iramSet_within (a : Nat) (b : List Byte) (h : Within P r s) (hp : .iram ∈ P) : Within P r (s.iramSet a b) := by
  refine h.one hp ⟨⟨rfl, rfl, rfl, Nat.le_refl _, List.prefix_refl _⟩, ?_, ?_⟩
  · simp only [State.canonical, State.iramSet]; intro h; simp_all
  · intro p hp; cases p <;> simp_all [Part.same]

theorem State.dramSet_within (a : Nat) (b : List Byte) (h : Within P r s) (hp : .dram ∈ P) : Within P r (s.dramSet a b) := by
  refine h.one hp ⟨⟨rfl, rfl, rfl, Nat.le_refl _, List.prefix_refl _⟩, ?_, ?_⟩
  · simp only [State.canonical, State.dramSet]; intro h; simp_all
  · intro p hp; cases p <;> simp_all [Part.same]

theorem State.mailSet_within (a : Nat) (b : List Byte) (h : Within P r s) (hp : .mail ∈ P) : Within P r (s.mailSet a b) := by
  refine h.one hp ⟨⟨rfl, rfl, rfl, Nat.le_refl _, List.prefix_refl _⟩, ?_, ?_⟩
  · simp only [State.canonical, State.mailSet]; intro h; simp_all
  · intro p hp; cases p <;> simp_all [Part.same]

theorem State.setWsErr_within (k : Nat) (e : MemErr) (h : Within P r s) (hp : .ws ∈ P) : Within P r (s.setWsErr k e) := by
  refine h.one hp ⟨⟨rfl, rfl, rfl, Nat.le_refl _, List.prefix_refl _⟩, ?_, ?_⟩
  · simp only [State.canonical, State.setWsErr]; intro h; simp_all
  · intro p hp; cases p <;> simp_all [Part.same]

theorem State.setAmErr_within (k : Nat) (e : MemErr) (h : Within P r s) (hp : .am ∈ P) : Within P r (s.setAmErr k e) := by
  refine h.one hp ⟨⟨rfl, rfl, rfl, Nat.le_refl _, List.prefix_refl _⟩, ?_, ?_⟩
  · simp only [State.canonical, State.setAmErr]; intro h; simp_all
  · intro p hp; cases p <;> simp_all [Part.same]

theorem State.setPsmErr_within (k : Nat) (e : MemErr) (h : Within P r s) (hp : .psm ∈ P) : Within P r (s.setPsmErr k e) := by
  refine h.one hp ⟨⟨rfl, rfl, rfl, Nat.le_refl _, List.prefix_refl _⟩, ?_, ?_⟩
  · simp only [State.canonical, State.setPsmErr]; intro h; simp_all
  · intro p hp; cases p <;> simp_all [Part.same]

theorem State.setCsErr_within (k : Nat) (e : MemErr) (h : Within P r s) (hp : .cs ∈ P) : Within P r (s.setCsErr k e) := by
  refine h.one hp ⟨⟨rfl, rfl, rfl, Nat.le_refl _, List.prefix_refl _⟩, ?_, ?_⟩
  · simp only [State.canonical, State.setCsErr]; intro h; simp_all
  · intro p hp; cases p <;> simp_all [Part.same]

theorem State.setDramErr_within (k : Nat) (e : MemErr) (h : Within P r s) (hp : .dram ∈ P) : Within P r (s.setDramErr k e) := by
  refine h.one hp ⟨⟨rfl, rfl, rfl, Nat.le_refl _, List.prefix_refl _⟩, ?_, ?_⟩
  · simp only [State.canonical, State.setDramErr]; intro h; simp_all
  · intro p hp; cases p <;> simp_all [Part.same]

theorem State.setPmErr_within (k : Nat) (e : MemErr) (h : Within P r s) (hp : .pm ∈ P) : Within P r (s.setPmErr k e) := by
  refine h.one hp ⟨⟨rfl, rfl, rfl, Nat.le_refl _, List.prefix_refl _⟩, ?_, ?_⟩
  · simp only [State.canonical, State.setPmErr]; intro h; simp_all
  · intro p hp; cases p <;> simp_all [Part.same]

theorem State.wsSound_within (f : Nat → Bool) (h : Within P r s) (hp : .ws ∈ P) : Within P r (s.wsSound f) := by
  refine h.one hp ⟨⟨rfl, rfl, rfl, Nat.le_refl _, List.prefix_refl _⟩, ?_, ?_⟩
  · simp only [State.canonical, State.wsSound]; intro h; simp_all
  · intro p hp; cases p <;> simp_all [Part.same]

theorem State.csSound_within (f : Nat → Bool) (h : Within P r s) (hp : .cs ∈ P) : Within P r (s.csSound f) := by
  refine h.one hp ⟨⟨rfl, rfl, rfl, Nat.le_refl _, List.prefix_refl _⟩, ?_, ?_⟩
  · simp only [State.canonical, State.csSound]; intro h; simp_all
  · intro p hp; cases p <;> simp_all [Part.same]

theorem State.dramSound_within (lo hi : Nat) (h : Within P r s) (hp : .dram ∈ P) : Within P r (s.dramSound lo hi) := by
  refine h.one hp ⟨⟨rfl, rfl, rfl, Nat.le_refl _, List.prefix_refl _⟩, ?_, ?_⟩
  · simp only [State.canonical, State.dramSound]; intro h; simp_all
  · intro p hp; cases p <;> simp_all [Part.same]

theorem State.setLatch_within (o : Nat) (v : Word32) (h : Within P r s) (hp : .latches ∈ P) : Within P r (s.setLatch o v) := by
  refine h.one hp ⟨⟨rfl, rfl, rfl, Nat.le_refl _, List.prefix_refl _⟩, ?_, ?_⟩
  · simp only [State.canonical, State.setLatch]; intro h; simp_all
  · intro p hp; cases p <;> simp_all [Part.same]

theorem State.setDeferred_within (l : List Late) (h : Within P r s) (hp : .deferred ∈ P) : Within P r (s.setDeferred l) := by
  refine h.one hp ⟨⟨rfl, rfl, rfl, Nat.le_refl _, List.prefix_refl _⟩, ?_, ?_⟩
  · simp only [State.canonical, State.setDeferred]; intro h; simp_all
  · intro p hp; cases p <;> simp_all [Part.same]

theorem State.emit_within (o : Out) (h : Within P r s) : Within P r (s.emit o) :=
  h.trans ⟨⟨rfl, rfl, rfl, Nat.le_refl _, List.prefix_append _ _⟩, id, fun p _ => by cases p <;> simp [Part.same]⟩
theorem State.draw_within (n : Nat) (h : Within P r s) : Within P r (s.draw n) :=
  h.trans ⟨⟨rfl, rfl, rfl, Nat.le_add_right _ _, List.prefix_refl _⟩, id, fun p _ => by cases p <;> simp [Part.same]⟩

end Sys2Proof.Machine
end

