-- ==== Sys2Proof/Laws/WithinRegs.lean ====
section
/-! SUPPORT. What the operations of Machine/Regs.lean may change. -/

set_option linter.unusedTactic false
set_option linter.unreachableTactic false
set_option linter.unusedVariables false

namespace Sys2Proof.Machine

variable {Ps : List Part} {s₀ : State}

theorem State.setFld_within {s : State} (b : Blk) (off : ℕ) (hi : ℕ) (lo : ℕ) (v : ℕ) (hW : Within Ps s₀ s) (_ : .regs ∈ Ps) :
    Within Ps s₀ (State.setFld s b off hi lo v) := by
  unfold State.setFld
  repeat' first
    | with_reducible assumption
    | with_reducible apply State.setReg_within
    | with_reducible apply Within.ite
    | with_reducible apply Within.foldl
    | with_reducible apply Within.foldl_fst
    | with_reducible apply Within.of_eq (by with_reducible assumption)
    | intro _
    | split
    | dsimp only

theorem State.orReg_within {s : State} (b : Blk) (off : ℕ) (mask : ℕ) (hW : Within Ps s₀ s) (_ : .regs ∈ Ps) :
    Within Ps s₀ (State.orReg s b off mask) := by
  unfold State.orReg
  repeat' first
    | with_reducible assumption
    | with_reducible apply State.setReg_within
    | with_reducible apply Within.ite
    | with_reducible apply Within.foldl
    | with_reducible apply Within.foldl_fst
    | with_reducible apply Within.of_eq (by with_reducible assumption)
    | intro _
    | split
    | dsimp only

theorem State.raise_within {s : State} (b : Blk) (off : ℕ) (bit : ℕ) (hW : Within Ps s₀ s) (_ : .regs ∈ Ps) :
    Within Ps s₀ (State.raise s b off bit) := by
  unfold State.raise
  repeat' first
    | with_reducible assumption
    | with_reducible apply State.orReg_within
    | with_reducible apply Within.ite
    | with_reducible apply Within.foldl
    | with_reducible apply Within.foldl_fst
    | with_reducible apply Within.of_eq (by with_reducible assumption)
    | intro _
    | split
    | dsimp only

theorem State.count_within {s : State} (b : Blk) (off : ℕ) (n : ℕ) (hW : Within Ps s₀ s) (_ : .regs ∈ Ps) :
    Within Ps s₀ (State.count s b off n) := by
  unfold State.count
  repeat' first
    | with_reducible assumption
    | with_reducible apply State.setReg_within
    | with_reducible apply Within.ite
    | with_reducible apply Within.foldl
    | with_reducible apply Within.foldl_fst
    | with_reducible apply Within.of_eq (by with_reducible assumption)
    | intro _
    | split
    | dsimp only

end Sys2Proof.Machine
end

