-- ==== Sys2Proof/Laws/WithinOps.lean ====
section
/-! SUPPORT. What the operations of Machine/Ops.lean may change. -/

set_option linter.unusedTactic false
set_option linter.unreachableTactic false
set_option linter.unusedVariables false

namespace Sys2Proof.Machine

variable {Ps : List Part} {s₀ : State}

theorem State.onCore_within {s : State} (c : CoreId) (f : Core → Core) (hW : Within Ps s₀ s) (_ : .cores ∈ Ps) :
    Within Ps s₀ (State.onCore s c f) := by
  unfold State.onCore
  repeat' first
    | with_reducible assumption
    | with_reducible apply State.setCore_within
    | with_reducible apply Within.ite
    | with_reducible apply Within.foldl
    | with_reducible apply Within.foldl_fst
    | with_reducible apply Within.of_eq (by with_reducible assumption)
    | intro _
    | split
    | dsimp only

theorem State.onDie_within {s : State} (d : DieId) (f : Die → Die) (hW : Within Ps s₀ s) (_ : .dies ∈ Ps) :
    Within Ps s₀ (State.onDie s d f) := by
  unfold State.onDie
  repeat' first
    | with_reducible assumption
    | with_reducible apply State.setDie_within
    | with_reducible apply Within.ite
    | with_reducible apply Within.foldl
    | with_reducible apply Within.foldl_fst
    | with_reducible apply Within.of_eq (by with_reducible assumption)
    | intro _
    | split
    | dsimp only

theorem State.onArr_within {s : State} (c : CoreId) (f : Arr → Arr) (hW : Within Ps s₀ s) (_ : .cores ∈ Ps) :
    Within Ps s₀ (State.onArr s c f) := by
  unfold State.onArr
  repeat' first
    | with_reducible assumption
    | with_reducible apply State.onCore_within
    | with_reducible apply Within.ite
    | with_reducible apply Within.foldl
    | with_reducible apply Within.foldl_fst
    | with_reducible apply Within.of_eq (by with_reducible assumption)
    | intro _
    | split
    | dsimp only

theorem State.setPgm_within {s : State} (d : DieId) (p : Pgm) (hW : Within Ps s₀ s) (_ : .dies ∈ Ps) :
    Within Ps s₀ (State.setPgm s d p) := by
  unfold State.setPgm
  repeat' first
    | with_reducible assumption
    | with_reducible apply State.onDie_within
    | with_reducible apply Within.ite
    | with_reducible apply Within.foldl
    | with_reducible apply Within.foldl_fst
    | with_reducible apply Within.of_eq (by with_reducible assumption)
    | intro _
    | split
    | dsimp only

theorem State.onCtx_within {s : State} (x : Ctx) (f : CtxState → CtxState) (hW : Within Ps s₀ s) (_ : .ctxs ∈ Ps) :
    Within Ps s₀ (State.onCtx s x f) := by
  unfold State.onCtx
  repeat' first
    | with_reducible assumption
    | with_reducible apply State.setCtx_within
    | with_reducible apply Within.ite
    | with_reducible apply Within.foldl
    | with_reducible apply Within.foldl_fst
    | with_reducible apply Within.of_eq (by with_reducible assumption)
    | intro _
    | split
    | dsimp only

theorem State.onLink_within {s : State} (l : LinkId) (f : Link → Link) (hW : Within Ps s₀ s) (_ : .links ∈ Ps) :
    Within Ps s₀ (State.onLink s l f) := by
  unfold State.onLink
  repeat' first
    | with_reducible assumption
    | with_reducible apply State.setLink_within
    | with_reducible apply Within.ite
    | with_reducible apply Within.foldl
    | with_reducible apply Within.foldl_fst
    | with_reducible apply Within.of_eq (by with_reducible assumption)
    | intro _
    | split
    | dsimp only

theorem State.onRouter_within {s : State} (i : IoId) (f : Router → Router) (hW : Within Ps s₀ s) (_ : .routers ∈ Ps) :
    Within Ps s₀ (State.onRouter s i f) := by
  unfold State.onRouter
  repeat' first
    | with_reducible assumption
    | with_reducible apply State.setRouter_within
    | with_reducible apply Within.ite
    | with_reducible apply Within.foldl
    | with_reducible apply Within.foldl_fst
    | with_reducible apply Within.of_eq (by with_reducible assumption)
    | intro _
    | split
    | dsimp only

theorem State.onRing_within {s : State} (v : VfId) (r : RingId) (f : Ring → Ring) (hW : Within Ps s₀ s) (_ : .rings ∈ Ps) :
    Within Ps s₀ (State.onRing s v r f) := by
  unfold State.onRing
  repeat' first
    | with_reducible assumption
    | with_reducible apply State.setRing_within
    | with_reducible apply Within.ite
    | with_reducible apply Within.foldl
    | with_reducible apply Within.foldl_fst
    | with_reducible apply Within.of_eq (by with_reducible assumption)
    | intro _
    | split
    | dsimp only

theorem State.onFunc_within {s : State} (f : ℕ) (g : Func → Func) (hW : Within Ps s₀ s) (_ : .funcs ∈ Ps) :
    Within Ps s₀ (State.onFunc s f g) := by
  unfold State.onFunc
  repeat' first
    | with_reducible assumption
    | with_reducible apply State.setFunc_within
    | with_reducible apply Within.ite
    | with_reducible apply Within.foldl
    | with_reducible apply Within.foldl_fst
    | with_reducible apply Within.of_eq (by with_reducible assumption)
    | intro _
    | split
    | dsimp only

theorem State.amLineSet_within {s : State} (c : CoreId) (line : ℕ) (b : List Byte) (p : Bool) (hW : Within Ps s₀ s) (_ : .am ∈ Ps) :
    Within Ps s₀ (State.amLineSet s c line b p) := by
  unfold State.amLineSet
  repeat' first
    | with_reducible assumption
    | with_reducible apply State.setAmPois_within
    | with_reducible apply State.amSet_within
    | with_reducible apply Within.ite
    | with_reducible apply Within.foldl
    | with_reducible apply Within.foldl_fst
    | with_reducible apply Within.of_eq (by with_reducible assumption)
    | intro _
    | split
    | dsimp only

theorem State.owesIn_within {s : State} (n : ℕ) (b : Blk) (off : ℕ) (k : LateKind) (hW : Within Ps s₀ s) (_ : .deferred ∈ Ps) :
    Within Ps s₀ (State.owesIn s n b off k) := by
  unfold State.owesIn
  repeat' first
    | with_reducible assumption
    | with_reducible apply State.setDeferred_within
    | with_reducible apply Within.ite
    | with_reducible apply Within.foldl
    | with_reducible apply Within.foldl_fst
    | with_reducible apply Within.of_eq (by with_reducible assumption)
    | intro _
    | split
    | dsimp only

theorem State.owes_within {s : State} (b : Blk) (off : ℕ) (k : LateKind) (hW : Within Ps s₀ s) (_ : .deferred ∈ Ps) :
    Within Ps s₀ (State.owes s b off k) := by
  unfold State.owes
  repeat' first
    | with_reducible assumption
    | with_reducible apply State.owesIn_within
    | with_reducible apply Within.ite
    | with_reducible apply Within.foldl
    | with_reducible apply Within.foldl_fst
    | with_reducible apply Within.of_eq (by with_reducible assumption)
    | intro _
    | split
    | dsimp only

end Sys2Proof.Machine
end

