-- ==== Sys2Proof/Laws/WithinMem.lean ====
section
/-! SUPPORT. What the operations of Machine/Mem.lean may change. -/

set_option linter.unusedTactic false
set_option linter.unreachableTactic false
set_option linter.unusedVariables false

namespace Sys2Proof.Machine

variable {Ps : List Part} {s₀ : State}

theorem State.markStep_within {s : State} (c : CoreId) (hW : Within Ps s₀ s) (_ : .cores ∈ Ps) :
    Within Ps s₀ (State.markStep s c) := by
  unfold State.markStep
  repeat' first
    | with_reducible assumption
    | with_reducible apply State.onCore_within
    | with_reducible apply Within.ite
    | with_reducible apply Within.foldl
    | with_reducible apply Within.foldl_fst
    | with_reducible apply Within.of_eq (by with_reducible assumption)
    | intro _
    | split
    | dsimp only

theorem State.cqFault_within {s : State} (c : CoreId) (bit : ℕ) (hW : Within Ps s₀ s) (_ : .regs ∈ Ps) :
    Within Ps s₀ (State.cqFault s c bit) := by
  unfold State.cqFault
  repeat' first
    | with_reducible assumption
    | with_reducible apply State.raise_within
    | with_reducible apply Within.ite
    | with_reducible apply Within.foldl
    | with_reducible apply Within.foldl_fst
    | with_reducible apply Within.of_eq (by with_reducible assumption)
    | intro _
    | split
    | dsimp only

theorem State.mxFault_within {s : State} (c : CoreId) (bit : ℕ) (hW : Within Ps s₀ s) (_ : .regs ∈ Ps) :
    Within Ps s₀ (State.mxFault s c bit) := by
  unfold State.mxFault
  repeat' first
    | with_reducible assumption
    | with_reducible apply State.raise_within
    | with_reducible apply Within.ite
    | with_reducible apply Within.foldl
    | with_reducible apply Within.foldl_fst
    | with_reducible apply Within.of_eq (by with_reducible assumption)
    | intro _
    | split
    | dsimp only

theorem State.meshFault_within {s : State} (c : CoreId) (bit : ℕ) (hW : Within Ps s₀ s) (_ : .regs ∈ Ps) :
    Within Ps s₀ (State.meshFault s c bit) := by
  unfold State.meshFault
  repeat' first
    | with_reducible assumption
    | with_reducible apply State.raise_within
    | with_reducible apply Within.ite
    | with_reducible apply Within.foldl
    | with_reducible apply Within.foldl_fst
    | with_reducible apply Within.of_eq (by with_reducible assumption)
    | intro _
    | split
    | dsimp only

theorem State.memErr_within {s : State} (c : CoreId) (bit : ℕ) (hW : Within Ps s₀ s) (_ : .regs ∈ Ps) :
    Within Ps s₀ (State.memErr s c bit) := by
  unfold State.memErr
  repeat' first
    | with_reducible assumption
    | with_reducible apply State.orReg_within
    | with_reducible apply Within.ite
    | with_reducible apply Within.foldl
    | with_reducible apply Within.foldl_fst
    | with_reducible apply Within.of_eq (by with_reducible assumption)
    | intro _
    | split
    | dsimp only

theorem State.logCe_within {s : State} (c : CoreId) (kind : ℕ) (nb : ℕ) (addr : ℕ) (hW : Within Ps s₀ s) (_ : .regs ∈ Ps) (_ : .cores ∈ Ps) :
    Within Ps s₀ (State.logCe s c kind nb addr) := by
  unfold State.logCe
  repeat' first
    | with_reducible assumption
    | with_reducible apply State.count_within
    | with_reducible apply State.onCore_within
    | with_reducible apply State.memErr_within
    | with_reducible apply Within.ite
    | with_reducible apply Within.foldl
    | with_reducible apply Within.foldl_fst
    | with_reducible apply Within.of_eq (by with_reducible assumption)
    | intro _
    | split
    | dsimp only

theorem State.logUce_within {s : State} (c : CoreId) (kind : ℕ) (addr : ℕ) (hW : Within Ps s₀ s) (_ : .regs ∈ Ps) :
    Within Ps s₀ (State.logUce s c kind addr) := by
  unfold State.logUce
  repeat' first
    | with_reducible assumption
    | with_reducible apply State.setReg_within
    | with_reducible apply State.memErr_within
    | with_reducible apply Within.ite
    | with_reducible apply Within.foldl
    | with_reducible apply Within.foldl_fst
    | with_reducible apply Within.of_eq (by with_reducible assumption)
    | intro _
    | split
    | dsimp only

theorem State.amReadWord_within {s : State} (c : CoreId) (e : ℕ × MemErr) (hW : Within Ps s₀ s) (_ : .regs ∈ Ps) (_ : .am ∈ Ps) (_ : .cores ∈ Ps) :
    Within Ps s₀ (State.amReadWord s c e) := by
  unfold State.amReadWord
  repeat' first
    | with_reducible assumption
    | with_reducible apply State.logCe_within
    | with_reducible apply State.setAmPois_within
    | with_reducible apply State.logUce_within
    | with_reducible apply Within.ite
    | with_reducible apply Within.foldl
    | with_reducible apply Within.foldl_fst
    | with_reducible apply Within.of_eq (by with_reducible assumption)
    | intro _
    | split
    | dsimp only

theorem State.amRead_within {s : State} (c : CoreId) (a : ℕ) (n : ℕ) (hW : Within Ps s₀ s) (_ : .regs ∈ Ps) (_ : .am ∈ Ps) (_ : .cores ∈ Ps) :
    Within Ps s₀ (State.amRead s c a n).1 := by
  unfold State.amRead
  repeat' first
    | with_reducible assumption
    | with_reducible apply State.amReadWord_within
    | with_reducible apply Within.ite
    | with_reducible apply Within.foldl
    | with_reducible apply Within.foldl_fst
    | with_reducible apply Within.of_eq (by with_reducible assumption)
    | intro _
    | split
    | dsimp only

theorem State.amWriteWord_within {s : State} (c : CoreId) (a : ℕ) (n : ℕ) (e : ℕ × MemErr) (hW : Within Ps s₀ s) (_ : .regs ∈ Ps) (_ : .am ∈ Ps) (_ : .cores ∈ Ps) :
    Within Ps s₀ (State.amWriteWord s c a n e) := by
  unfold State.amWriteWord
  repeat' first
    | with_reducible assumption
    | with_reducible apply State.amReadWord_within
    | with_reducible apply State.setAmErr_within
    | with_reducible apply Within.ite
    | with_reducible apply Within.foldl
    | with_reducible apply Within.foldl_fst
    | with_reducible apply Within.of_eq (by with_reducible assumption)
    | intro _
    | split
    | dsimp only

theorem State.amWrite_within {s : State} (c : CoreId) (a : ℕ) (b : List Byte) (p : Bool) (hW : Within Ps s₀ s) (_ : .regs ∈ Ps) (_ : .am ∈ Ps) (_ : .cores ∈ Ps) :
    Within Ps s₀ (State.amWrite s c a b p) := by
  unfold State.amWrite
  repeat' first
    | with_reducible assumption
    | with_reducible apply State.amWriteWord_within
    | with_reducible apply State.setAmPois_within
    | with_reducible apply State.amSet_within
    | with_reducible apply Within.ite
    | with_reducible apply Within.foldl
    | with_reducible apply Within.foldl_fst
    | with_reducible apply Within.of_eq (by with_reducible assumption)
    | intro _
    | split
    | dsimp only

theorem State.claim_within {s : State} (c : CoreId) (at_ : ℕ) (mask : ℕ) (hW : Within Ps s₀ s) (_ : .cores ∈ Ps) :
    Within Ps s₀ (State.claim s c at_ mask).1 := by
  unfold State.claim
  repeat' first
    | with_reducible assumption
    | with_reducible apply State.onCore_within
    | with_reducible apply Within.ite
    | with_reducible apply Within.foldl
    | with_reducible apply Within.foldl_fst
    | with_reducible apply Within.of_eq (by with_reducible assumption)
    | intro _
    | split
    | dsimp only

theorem State.claimDyn_within {s : State} (c : CoreId) (at_ : ℕ) (mask : ℕ) (above : ℕ) (hW : Within Ps s₀ s) (_ : .cores ∈ Ps) :
    Within Ps s₀ (State.claimDyn s c at_ mask above).1 := by
  unfold State.claimDyn
  repeat' first
    | with_reducible assumption
    | with_reducible apply State.onCore_within
    | with_reducible apply Within.ite
    | with_reducible apply Within.foldl
    | with_reducible apply Within.foldl_fst
    | with_reducible apply Within.of_eq (by with_reducible assumption)
    | intro _
    | split
    | dsimp only

theorem State.claimPut_within {s : State} (c : CoreId) (a : ℕ) (n : ℕ) (hW : Within Ps s₀ s) (_ : .cores ∈ Ps) :
    Within Ps s₀ (State.claimPut s c a n).1 := by
  unfold State.claimPut
  repeat' first
    | with_reducible assumption
    | with_reducible apply State.claimDyn_within
    | with_reducible apply Within.ite
    | with_reducible apply Within.foldl
    | with_reducible apply Within.foldl_fst
    | with_reducible apply Within.of_eq (by with_reducible assumption)
    | intro _
    | split
    | dsimp only

theorem State.amConflict_within {s : State} (c : CoreId) (hW : Within Ps s₀ s) (_ : .regs ∈ Ps) (_ : .cores ∈ Ps) :
    Within Ps s₀ (State.amConflict s c) := by
  unfold State.amConflict
  repeat' first
    | with_reducible assumption
    | with_reducible apply State.markStep_within
    | with_reducible apply State.memErr_within
    | with_reducible apply Within.ite
    | with_reducible apply Within.foldl
    | with_reducible apply Within.foldl_fst
    | with_reducible apply Within.of_eq (by with_reducible assumption)
    | intro _
    | split
    | dsimp only

theorem State.poisonLines_within {s : State} (c : CoreId) (a : ℕ) (n : ℕ) (hW : Within Ps s₀ s) (_ : .am ∈ Ps) :
    Within Ps s₀ (State.poisonLines s c a n) := by
  unfold State.poisonLines
  repeat' first
    | with_reducible assumption
    | with_reducible apply State.setAmPois_within
    | with_reducible apply Within.ite
    | with_reducible apply Within.foldl
    | with_reducible apply Within.foldl_fst
    | with_reducible apply Within.of_eq (by with_reducible assumption)
    | intro _
    | split
    | dsimp only

theorem State.addTimed_within {s : State} (c : CoreId) (t : Timed) (hW : Within Ps s₀ s) (_ : .cores ∈ Ps) :
    Within Ps s₀ (State.addTimed s c t) := by
  unfold State.addTimed
  repeat' first
    | with_reducible assumption
    | with_reducible apply State.onCore_within
    | with_reducible apply Within.ite
    | with_reducible apply Within.foldl
    | with_reducible apply Within.foldl_fst
    | with_reducible apply Within.of_eq (by with_reducible assumption)
    | intro _
    | split
    | dsimp only

theorem State.timedAccess_within {s : State} (c : CoreId) (due : ℕ) (a : ℕ) (n : ℕ) (kind : TimedKind) (hW : Within Ps s₀ s) (_ : .cores ∈ Ps) :
    Within Ps s₀ (State.timedAccess s c due a n kind) := by
  unfold State.timedAccess
  repeat' first
    | with_reducible assumption
    | with_reducible apply State.claim_within
    | with_reducible apply State.addTimed_within
    | with_reducible apply Within.ite
    | with_reducible apply Within.foldl
    | with_reducible apply Within.foldl_fst
    | with_reducible apply Within.of_eq (by with_reducible assumption)
    | intro _
    | split
    | dsimp only

theorem State.amPut_within {s : State} (c : CoreId) (a : ℕ) (b : List Byte) (p : Bool) (hW : Within Ps s₀ s) (_ : .cores ∈ Ps) :
    Within Ps s₀ (State.amPut s c a b p) := by
  unfold State.amPut
  repeat' first
    | with_reducible assumption
    | with_reducible apply State.addTimed_within
    | with_reducible apply Within.ite
    | with_reducible apply Within.foldl
    | with_reducible apply Within.foldl_fst
    | with_reducible apply Within.of_eq (by with_reducible assumption)
    | intro _
    | split
    | dsimp only

theorem State.timedLine_within {s : State} (c : CoreId) (t : Timed) (hW : Within Ps s₀ s) (_ : .regs ∈ Ps) (_ : .am ∈ Ps) (_ : .cores ∈ Ps) :
    Within Ps s₀ (State.timedLine s c t).1 := by
  unfold State.timedLine
  repeat' first
    | with_reducible assumption
    | with_reducible apply State.amConflict_within
    | with_reducible apply State.amRead_within
    | with_reducible apply Within.ite
    | with_reducible apply Within.foldl
    | with_reducible apply Within.foldl_fst
    | with_reducible apply Within.of_eq (by with_reducible assumption)
    | intro _
    | split
    | dsimp only

theorem State.timedPut_within {s : State} (c : CoreId) (t : Timed) (b : List Byte) (p : Bool) (hW : Within Ps s₀ s) (_ : .regs ∈ Ps) (_ : .am ∈ Ps) (_ : .cores ∈ Ps) :
    Within Ps s₀ (State.timedPut s c t b p) := by
  unfold State.timedPut
  repeat' first
    | with_reducible assumption
    | with_reducible apply State.poisonLines_within
    | with_reducible apply State.amConflict_within
    | with_reducible apply State.amWrite_within
    | with_reducible apply Within.ite
    | with_reducible apply Within.foldl
    | with_reducible apply Within.foldl_fst
    | with_reducible apply Within.of_eq (by with_reducible assumption)
    | intro _
    | split
    | dsimp only

theorem State.psmDecode_within {s : State} (c : CoreId) (es : List (ℕ × MemErr)) (hW : Within Ps s₀ s) (_ : .regs ∈ Ps) (_ : .cores ∈ Ps) :
    Within Ps s₀ (State.psmDecode s c es).1 := by
  unfold State.psmDecode
  repeat' first
    | with_reducible assumption
    | with_reducible apply State.logCe_within
    | with_reducible apply State.logUce_within
    | with_reducible apply Within.ite
    | with_reducible apply Within.foldl
    | with_reducible apply Within.foldl_fst
    | with_reducible apply Within.of_eq (by with_reducible assumption)
    | intro _
    | split
    | dsimp only

theorem State.psmRead_within {s : State} (c : CoreId) (w : ℕ) (hW : Within Ps s₀ s) (_ : .regs ∈ Ps) (_ : .cores ∈ Ps) :
    Within Ps s₀ (State.psmRead s c w).1 := by
  unfold State.psmRead
  repeat' first
    | with_reducible assumption
    | with_reducible apply State.psmDecode_within
    | with_reducible apply Within.ite
    | with_reducible apply Within.foldl
    | with_reducible apply Within.foldl_fst
    | with_reducible apply Within.of_eq (by with_reducible assumption)
    | intro _
    | split
    | dsimp only

theorem State.psmReadOld_within {s : State} (c : CoreId) (w : ℕ) (hW : Within Ps s₀ s) (_ : .regs ∈ Ps) (_ : .cores ∈ Ps) :
    Within Ps s₀ (State.psmReadOld s c w).1 := by
  unfold State.psmReadOld
  repeat' first
    | with_reducible assumption
    | with_reducible apply State.psmRead_within
    | with_reducible apply State.psmDecode_within
    | with_reducible apply Within.ite
    | with_reducible apply Within.foldl
    | with_reducible apply Within.foldl_fst
    | with_reducible apply Within.of_eq (by with_reducible assumption)
    | intro _
    | split
    | dsimp only

theorem State.psmWrite_within {s : State} (c : CoreId) (w : ℕ) (v : W128) (p : Bool) (hW : Within Ps s₀ s) (_ : .psm ∈ Ps) :
    Within Ps s₀ (State.psmWrite s c w v p) := by
  unfold State.psmWrite
  repeat' first
    | with_reducible assumption
    | with_reducible apply State.setPsmErr_within
    | with_reducible apply State.psmSet_within
    | with_reducible apply Within.ite
    | with_reducible apply Within.foldl
    | with_reducible apply Within.foldl_fst
    | with_reducible apply Within.of_eq (by with_reducible assumption)
    | intro _
    | split
    | dsimp only

theorem State.psmAdd_within {s : State} (c : CoreId) (w : ℕ) (t : W128) (p : Bool) (hW : Within Ps s₀ s) (_ : .regs ∈ Ps) (_ : .psm ∈ Ps) (_ : .cores ∈ Ps) :
    Within Ps s₀ (State.psmAdd s c w t p) := by
  unfold State.psmAdd
  repeat' first
    | with_reducible assumption
    | with_reducible apply State.psmRead_within
    | with_reducible apply State.psmWrite_within
    | with_reducible apply Within.ite
    | with_reducible apply Within.foldl
    | with_reducible apply Within.foldl_fst
    | with_reducible apply Within.of_eq (by with_reducible assumption)
    | intro _
    | split
    | dsimp only

theorem State.psmNote_within {s : State} (c : CoreId) (w : ℕ) (k : PsmKind) (hW : Within Ps s₀ s) (_ : .cores ∈ Ps) :
    Within Ps s₀ (State.psmNote s c w k) := by
  unfold State.psmNote
  repeat' first
    | with_reducible assumption
    | with_reducible apply State.onCore_within
    | with_reducible apply Within.ite
    | with_reducible apply Within.foldl
    | with_reducible apply Within.foldl_fst
    | with_reducible apply Within.of_eq (by with_reducible assumption)
    | intro _
    | split
    | dsimp only

theorem State.psmMeet_within {s : State} (c : CoreId) (w : ℕ) (k : PsmKind) (hW : Within Ps s₀ s) (_ : .cores ∈ Ps) :
    Within Ps s₀ (State.psmMeet s c w k).1 := by
  unfold State.psmMeet
  repeat' first
    | with_reducible assumption
    | with_reducible apply State.psmNote_within
    | with_reducible apply Within.ite
    | with_reducible apply Within.foldl
    | with_reducible apply Within.foldl_fst
    | with_reducible apply Within.of_eq (by with_reducible assumption)
    | intro _
    | split
    | dsimp only

theorem State.entryParity_within {s : State} (c : CoreId) (bad : Bool) (hW : Within Ps s₀ s) (_ : .regs ∈ Ps) :
    Within Ps s₀ (State.entryParity s c bad) := by
  unfold State.entryParity
  repeat' first
    | with_reducible assumption
    | with_reducible apply State.memErr_within
    | with_reducible apply Within.ite
    | with_reducible apply Within.foldl
    | with_reducible apply Within.foldl_fst
    | with_reducible apply Within.of_eq (by with_reducible assumption)
    | intro _
    | split
    | dsimp only

theorem State.wsReadWords_within {s : State} (c : CoreId) (lo : ℕ) (hi : ℕ) (hW : Within Ps s₀ s) (_ : .regs ∈ Ps) (_ : .cores ∈ Ps) :
    Within Ps s₀ (State.wsReadWords s c lo hi).1 := by
  unfold State.wsReadWords
  repeat' first
    | with_reducible assumption
    | with_reducible apply State.logCe_within
    | with_reducible apply State.logUce_within
    | with_reducible apply Within.ite
    | with_reducible apply Within.foldl
    | with_reducible apply Within.foldl_fst
    | with_reducible apply Within.of_eq (by with_reducible assumption)
    | intro _
    | split
    | dsimp only

end Sys2Proof.Machine
end

