-- ==== Sys2Proof/Laws/WithinQueues.lean ====
section
/-! SUPPORT. What the operations of Machine/Queues.lean may change. -/

set_option linter.unusedTactic false
set_option linter.unreachableTactic false
set_option linter.unusedVariables false

namespace Sys2Proof.Machine

variable {Ps : List Part} {s₀ : State}

theorem State.qPush_within {s : State} (c : CoreId) (q : ℕ) (token : Token) (poison : Bool) (body : BitVec 256) (hW : Within Ps s₀ s) (_ : .cores ∈ Ps) :
    Within Ps s₀ (State.qPush s c q token poison body) := by
  unfold State.qPush
  repeat' first
    | with_reducible assumption
    | with_reducible apply State.onCore_within
    | with_reducible apply Within.ite
    | with_reducible apply Within.foldl
    | with_reducible apply Within.foldl_fst
    | with_reducible apply Within.of_eq (by with_reducible assumption)
    | intro _
    | split
    | dsimp only

theorem State.violation_within {s : State} (c : CoreId) (q : ℕ) (found : ℕ) (expected : ℕ) (hW : Within Ps s₀ s) (_ : .regs ∈ Ps) (_ : .cores ∈ Ps) :
    Within Ps s₀ (State.violation s c q found expected) := by
  unfold State.violation
  repeat' first
    | with_reducible assumption
    | with_reducible apply State.setReg_within
    | with_reducible apply State.markStep_within
    | with_reducible apply State.cqFault_within
    | with_reducible apply Within.ite
    | with_reducible apply Within.foldl
    | with_reducible apply Within.foldl_fst
    | with_reducible apply Within.of_eq (by with_reducible assumption)
    | intro _
    | split
    | dsimp only

theorem State.late_within {s : State} (c : CoreId) (hW : Within Ps s₀ s) (_ : .regs ∈ Ps) (_ : .cores ∈ Ps) :
    Within Ps s₀ (State.late s c) := by
  unfold State.late
  repeat' first
    | with_reducible assumption
    | with_reducible apply State.markStep_within
    | with_reducible apply State.count_within
    | with_reducible apply State.cqFault_within
    | with_reducible apply Within.ite
    | with_reducible apply Within.foldl
    | with_reducible apply Within.foldl_fst
    | with_reducible apply Within.of_eq (by with_reducible assumption)
    | intro _
    | split
    | dsimp only

theorem State.desyncQ_within {s : State} (c : CoreId) (q : ℕ) (hW : Within Ps s₀ s) (_ : .regs ∈ Ps) (_ : .cores ∈ Ps) :
    Within Ps s₀ (State.desyncQ s c q) := by
  unfold State.desyncQ
  repeat' first
    | with_reducible assumption
    | with_reducible apply State.markStep_within
    | with_reducible apply State.onCore_within
    | with_reducible apply State.cqFault_within
    | with_reducible apply Within.ite
    | with_reducible apply Within.foldl
    | with_reducible apply Within.foldl_fst
    | with_reducible apply Within.of_eq (by with_reducible assumption)
    | intro _
    | split
    | dsimp only

theorem State.lateToken_within {s : State} (c : CoreId) (q : ℕ) (t : Token) (hW : Within Ps s₀ s) (_ : .regs ∈ Ps) (_ : .cores ∈ Ps) :
    Within Ps s₀ (State.lateToken s c q t) := by
  unfold State.lateToken
  repeat' first
    | with_reducible assumption
    | with_reducible apply State.late_within
    | with_reducible apply State.desyncQ_within
    | with_reducible apply State.onCore_within
    | with_reducible apply Within.ite
    | with_reducible apply Within.foldl
    | with_reducible apply Within.foldl_fst
    | with_reducible apply Within.of_eq (by with_reducible assumption)
    | intro _
    | split
    | dsimp only

theorem State.qPop_within {s : State} (c : CoreId) (q : ℕ) (hW : Within Ps s₀ s) (_ : .cores ∈ Ps) :
    Within Ps s₀ (State.qPop s c q) := by
  unfold State.qPop
  repeat' first
    | with_reducible assumption
    | with_reducible apply State.onCore_within
    | with_reducible apply Within.ite
    | with_reducible apply Within.foldl
    | with_reducible apply Within.foldl_fst
    | with_reducible apply Within.of_eq (by with_reducible assumption)
    | intro _
    | split
    | dsimp only

theorem State.take_within {s : State} (c : CoreId) (q : ℕ) (t : Token) (h : How) (hW : Within Ps s₀ s) (_ : .regs ∈ Ps) (_ : .cores ∈ Ps) :
    Within Ps s₀ (State.take s c q t h).1 := by
  unfold State.take
  repeat' first
    | with_reducible assumption
    | with_reducible apply State.markStep_within
    | with_reducible apply State.entryParity_within
    | with_reducible apply State.qPop_within
    | with_reducible apply State.violation_within
    | with_reducible apply State.lateToken_within
    | with_reducible apply Within.ite
    | with_reducible apply Within.foldl
    | with_reducible apply Within.foldl_fst
    | with_reducible apply Within.of_eq (by with_reducible assumption)
    | intro _
    | split
    | dsimp only

theorem State.writePred_within {s : State} (c : CoreId) (k : BitVec 3) (v : Bool) (hW : Within Ps s₀ s) (_ : .cores ∈ Ps) :
    Within Ps s₀ (State.writePred s c k v) := by
  unfold State.writePred
  repeat' first
    | with_reducible assumption
    | with_reducible apply State.onCore_within
    | with_reducible apply Within.ite
    | with_reducible apply Within.foldl
    | with_reducible apply Within.foldl_fst
    | with_reducible apply Within.of_eq (by with_reducible assumption)
    | intro _
    | split
    | dsimp only

theorem State.semAdd_within {s : State} (c : CoreId) (i : ℕ) (n : ℕ) (hW : Within Ps s₀ s) (_ : .regs ∈ Ps) (_ : .cores ∈ Ps) :
    Within Ps s₀ (State.semAdd s c i n) := by
  unfold State.semAdd
  repeat' first
    | with_reducible assumption
    | with_reducible apply State.markStep_within
    | with_reducible apply State.cqFault_within
    | with_reducible apply State.onCore_within
    | with_reducible apply Within.ite
    | with_reducible apply Within.foldl
    | with_reducible apply Within.foldl_fst
    | with_reducible apply Within.of_eq (by with_reducible assumption)
    | intro _
    | split
    | dsimp only

theorem State.semSignal_within {s : State} (c : CoreId) (i : ℕ) (n : ℕ) (hW : Within Ps s₀ s) (_ : .regs ∈ Ps) (_ : .cores ∈ Ps) :
    Within Ps s₀ (State.semSignal s c i n) := by
  unfold State.semSignal
  repeat' first
    | with_reducible assumption
    | with_reducible apply State.onCore_within
    | with_reducible apply State.semAdd_within
    | with_reducible apply Within.ite
    | with_reducible apply Within.foldl
    | with_reducible apply Within.foldl_fst
    | with_reducible apply Within.of_eq (by with_reducible assumption)
    | intro _
    | split
    | dsimp only

theorem State.semDue_within {s : State} (c : CoreId) (hW : Within Ps s₀ s) (_ : .regs ∈ Ps) (_ : .cores ∈ Ps) :
    Within Ps s₀ (State.semDue s c) := by
  unfold State.semDue
  repeat' first
    | with_reducible assumption
    | with_reducible apply State.onCore_within
    | with_reducible apply State.semAdd_within
    | with_reducible apply Within.ite
    | with_reducible apply Within.foldl
    | with_reducible apply Within.foldl_fst
    | with_reducible apply Within.of_eq (by with_reducible assumption)
    | intro _
    | split
    | dsimp only

theorem State.opIssue_within {s : State} (c : CoreId) (o : DynOp) (hW : Within Ps s₀ s) (_ : .regs ∈ Ps) (_ : .cores ∈ Ps) :
    Within Ps s₀ (State.opIssue s c o) := by
  unfold State.opIssue
  repeat' first
    | with_reducible assumption
    | with_reducible apply State.entryParity_within
    | with_reducible apply State.onCore_within
    | with_reducible apply Within.ite
    | with_reducible apply Within.foldl
    | with_reducible apply Within.foldl_fst
    | with_reducible apply Within.of_eq (by with_reducible assumption)
    | intro _
    | split
    | dsimp only

theorem State.opFinish_within {s : State} (c : CoreId) (serial : ℕ) (at_ : ℕ) (poison : Bool) (hW : Within Ps s₀ s) (_ : .cores ∈ Ps) :
    Within Ps s₀ (State.opFinish s c serial at_ poison) := by
  unfold State.opFinish
  repeat' first
    | with_reducible assumption
    | with_reducible apply State.onCore_within
    | with_reducible apply Within.ite
    | with_reducible apply Within.foldl
    | with_reducible apply Within.foldl_fst
    | with_reducible apply Within.of_eq (by with_reducible assumption)
    | intro _
    | split
    | dsimp only

theorem State.opAdd_within {s : State} (c : CoreId) (cls : BitVec 4) (q : ℕ) (d : BitVec 256) (t : Token) (poison : Bool) (stage : OpStage) (hW : Within Ps s₀ s) (_ : .cores ∈ Ps) :
    Within Ps s₀ (State.opAdd s c cls q d t poison stage) := by
  unfold State.opAdd
  repeat' first
    | with_reducible assumption
    | with_reducible apply State.onCore_within
    | with_reducible apply Within.ite
    | with_reducible apply Within.foldl
    | with_reducible apply Within.foldl_fst
    | with_reducible apply Within.of_eq (by with_reducible assumption)
    | intro _
    | split
    | dsimp only

theorem State.abandon_within {s : State} (c : CoreId) (hW : Within Ps s₀ s) (_ : .cores ∈ Ps) :
    Within Ps s₀ (State.abandon s c) := by
  unfold State.abandon
  repeat' first
    | with_reducible assumption
    | with_reducible apply State.markStep_within
    | with_reducible apply State.onCore_within
    | with_reducible apply Within.ite
    | with_reducible apply Within.foldl
    | with_reducible apply Within.foldl_fst
    | with_reducible apply Within.of_eq (by with_reducible assumption)
    | intro _
    | split
    | dsimp only

theorem State.cqFaultMark_within {s : State} (c : CoreId) (bit : ℕ) (hW : Within Ps s₀ s) (_ : .regs ∈ Ps) (_ : .cores ∈ Ps) :
    Within Ps s₀ (State.cqFaultMark s c bit) := by
  unfold State.cqFaultMark
  repeat' first
    | with_reducible assumption
    | with_reducible apply State.markStep_within
    | with_reducible apply State.cqFault_within
    | with_reducible apply Within.ite
    | with_reducible apply Within.foldl
    | with_reducible apply Within.foldl_fst
    | with_reducible apply Within.of_eq (by with_reducible assumption)
    | intro _
    | split
    | dsimp only

end Sys2Proof.Machine
end

