-- ==== Sys2Proof/Laws/WithinMesh.lean ====
section
/-! SUPPORT. What the operations of Machine/Mesh.lean may change. -/

set_option linter.unusedTactic false
set_option linter.unreachableTactic false
set_option linter.unusedVariables false

namespace Sys2Proof.Machine

variable {Ps : List Part} {s₀ : State}

theorem State.fenceError_within {s : State} (d : DieId) (hW : Within Ps s₀ s) (_ : .regs ∈ Ps) :
    Within Ps s₀ (State.fenceError s d) := by
  unfold State.fenceError
  repeat' first
    | with_reducible assumption
    | with_reducible apply State.raise_within
    | with_reducible apply Within.ite
    | with_reducible apply Within.foldl
    | with_reducible apply Within.foldl_fst
    | with_reducible apply Within.of_eq (by with_reducible assumption)
    | intro _
    | split
    | dsimp only

theorem State.meshConflict_within {s : State} (c : CoreId) (hW : Within Ps s₀ s) (_ : .regs ∈ Ps) (_ : .cores ∈ Ps) :
    Within Ps s₀ (State.meshConflict s c) := by
  unfold State.meshConflict
  repeat' first
    | with_reducible assumption
    | with_reducible apply State.markStep_within
    | with_reducible apply State.meshFault_within
    | with_reducible apply Within.ite
    | with_reducible apply Within.foldl
    | with_reducible apply Within.foldl_fst
    | with_reducible apply Within.of_eq (by with_reducible assumption)
    | intro _
    | split
    | dsimp only

theorem State.placeFlit_within {s : State} (c : CoreId) (d : Side) (leave : ℕ) (rank : ℕ) (f : Flit) (hW : Within Ps s₀ s) (_ : .regs ∈ Ps) (_ : .cores ∈ Ps) :
    Within Ps s₀ (State.placeFlit s c d leave rank f) := by
  unfold State.placeFlit
  repeat' first
    | with_reducible assumption
    | with_reducible apply State.fenceError_within
    | with_reducible apply State.onCore_within
    | with_reducible apply Within.ite
    | with_reducible apply Within.foldl
    | with_reducible apply Within.foldl_fst
    | with_reducible apply Within.of_eq (by with_reducible assumption)
    | intro _
    | split
    | dsimp only

theorem State.takeBack_within {s : State} (c : CoreId) (d : Side) (leave : ℕ) (hW : Within Ps s₀ s) (_ : .cores ∈ Ps) :
    Within Ps s₀ (State.takeBack s c d leave) := by
  unfold State.takeBack
  repeat' first
    | with_reducible assumption
    | with_reducible apply State.onCore_within
    | with_reducible apply Within.ite
    | with_reducible apply Within.foldl
    | with_reducible apply Within.foldl_fst
    | with_reducible apply Within.of_eq (by with_reducible assumption)
    | intro _
    | split
    | dsimp only

theorem State.sendFlit_within {s : State} (c : CoreId) (d : Side) (leave : ℕ) (rank : ℕ) (f : Flit) (hW : Within Ps s₀ s) (_ : .regs ∈ Ps) (_ : .cores ∈ Ps) :
    Within Ps s₀ (State.sendFlit s c d leave rank f) := by
  unfold State.sendFlit
  repeat' first
    | with_reducible assumption
    | with_reducible apply State.placeFlit_within
    | with_reducible apply State.onCore_within
    | with_reducible apply State.meshConflict_within
    | with_reducible apply State.takeBack_within
    | with_reducible apply Within.ite
    | with_reducible apply Within.foldl
    | with_reducible apply Within.foldl_fst
    | with_reducible apply Within.of_eq (by with_reducible assumption)
    | intro _
    | split
    | dsimp only

theorem State.emptyFlit_within {s : State} (seq : ℕ) (hW : Within Ps s₀ s) :
    Within Ps s₀ (State.emptyFlit s seq).1 := by
  unfold State.emptyFlit
  repeat' first
    | with_reducible assumption
    | with_reducible apply State.draw_within
    | with_reducible apply Within.ite
    | with_reducible apply Within.foldl
    | with_reducible apply Within.foldl_fst
    | with_reducible apply Within.of_eq (by with_reducible assumption)
    | intro _
    | split
    | dsimp only

theorem State.moveWrite_within {s : State} (c : CoreId) (m : Move) (f : Flit) (p : Bool) (hW : Within Ps s₀ s) (_ : .regs ∈ Ps) (_ : .am ∈ Ps) (_ : .cores ∈ Ps) :
    Within Ps s₀ (State.moveWrite s c m f p) := by
  unfold State.moveWrite
  repeat' first
    | with_reducible assumption
    | with_reducible apply State.poisonLines_within
    | with_reducible apply State.amConflict_within
    | with_reducible apply State.amWrite_within
    | with_reducible apply Within.ite
    | with_reducible apply Within.foldl
    | with_reducible apply Within.foldl_fst
    | with_reducible apply Within.of_eq (by with_reducible assumption)
    | intro _
    | split
    | dsimp only

theorem State.moveTake_within {s : State} (c : CoreId) (m : Move) (o : Option Flit) (hW : Within Ps s₀ s) (_ : .regs ∈ Ps) (_ : .am ∈ Ps) (_ : .cores ∈ Ps) :
    Within Ps s₀ (State.moveTake s c m o) := by
  unfold State.moveTake
  repeat' first
    | with_reducible assumption
    | with_reducible apply State.emptyFlit_within
    | with_reducible apply State.meshFault_within
    | with_reducible apply State.moveWrite_within
    | with_reducible apply State.sendFlit_within
    | with_reducible apply State.psmReadOld_within
    | with_reducible apply State.psmNote_within
    | with_reducible apply State.addTimed_within
    | with_reducible apply Within.ite
    | with_reducible apply Within.foldl
    | with_reducible apply Within.foldl_fst
    | with_reducible apply Within.of_eq (by with_reducible assumption)
    | intro _
    | split
    | dsimp only

theorem State.mergeSend_within {s : State} (c : CoreId) (t : Fired) (a : Option Flit) (b : Option Flit) (hW : Within Ps s₀ s) (_ : .regs ∈ Ps) (_ : .cores ∈ Ps) :
    Within Ps s₀ (State.mergeSend s c t a b).1 := by
  unfold State.mergeSend
  repeat' first
    | with_reducible assumption
    | with_reducible apply State.meshFault_within
    | with_reducible apply State.sendFlit_within
    | with_reducible apply Within.ite
    | with_reducible apply Within.foldl
    | with_reducible apply Within.foldl_fst
    | with_reducible apply Within.of_eq (by with_reducible assumption)
    | intro _
    | split
    | dsimp only

theorem State.transitTake_within {s : State} (c : CoreId) (t : Fired) (side : Side) (o : Option Flit) (hW : Within Ps s₀ s) (_ : .regs ∈ Ps) (_ : .cores ∈ Ps) :
    Within Ps s₀ (State.transitTake s c t side o).1 := by
  unfold State.transitTake
  repeat' first
    | with_reducible assumption
    | with_reducible apply State.mergeSend_within
    | with_reducible apply State.sendFlit_within
    | with_reducible apply Within.ite
    | with_reducible apply Within.foldl
    | with_reducible apply Within.foldl_fst
    | with_reducible apply Within.of_eq (by with_reducible assumption)
    | intro _
    | split
    | dsimp only

theorem State.transitEnd_within {s : State} (c : CoreId) (t : Fired) (hW : Within Ps s₀ s) (_ : .regs ∈ Ps) (_ : .cores ∈ Ps) :
    Within Ps s₀ (State.transitEnd s c t).1 := by
  unfold State.transitEnd
  repeat' first
    | with_reducible assumption
    | with_reducible apply State.mergeSend_within
    | with_reducible apply Within.ite
    | with_reducible apply Within.foldl
    | with_reducible apply Within.foldl_fst
    | with_reducible apply Within.of_eq (by with_reducible assumption)
    | intro _
    | split
    | dsimp only

theorem State.passTake_within {s : State} (c : CoreId) (f : Flit) (hW : Within Ps s₀ s) (_ : .regs ∈ Ps) (_ : .cores ∈ Ps) :
    Within Ps s₀ (State.passTake s c f) := by
  unfold State.passTake
  repeat' first
    | with_reducible assumption
    | with_reducible apply State.meshFault_within
    | with_reducible apply State.onArr_within
    | with_reducible apply Within.ite
    | with_reducible apply Within.foldl
    | with_reducible apply Within.foldl_fst
    | with_reducible apply Within.of_eq (by with_reducible assumption)
    | intro _
    | split
    | dsimp only

theorem State.flitSlot_within {s : State} (c : CoreId) (side : Side) (f : Flit) (hW : Within Ps s₀ s) (_ : .regs ∈ Ps) (_ : .am ∈ Ps) (_ : .cores ∈ Ps) :
    Within Ps s₀ (State.flitSlot s c side f) := by
  unfold State.flitSlot
  repeat' first
    | with_reducible assumption
    | with_reducible apply State.markStep_within
    | with_reducible apply State.meshFault_within
    | with_reducible apply State.meshConflict_within
    | with_reducible apply State.transitTake_within
    | with_reducible apply State.onCore_within
    | with_reducible apply State.moveTake_within
    | with_reducible apply State.passTake_within
    | with_reducible apply Within.ite
    | with_reducible apply Within.foldl
    | with_reducible apply Within.foldl_fst
    | with_reducible apply Within.of_eq (by with_reducible assumption)
    | intro _
    | split
    | dsimp only

theorem State.wireTake_within {s : State} (c : CoreId) (w : Wire) (parityError : Bool) (hW : Within Ps s₀ s) (_ : .regs ∈ Ps) (_ : .am ∈ Ps) (_ : .cores ∈ Ps) :
    Within Ps s₀ (State.wireTake s c w parityError) := by
  unfold State.wireTake
  repeat' first
    | with_reducible assumption
    | with_reducible apply State.onCore_within
    | with_reducible apply State.count_within
    | with_reducible apply State.meshFault_within
    | with_reducible apply State.flitSlot_within
    | with_reducible apply Within.ite
    | with_reducible apply Within.foldl
    | with_reducible apply Within.foldl_fst
    | with_reducible apply Within.of_eq (by with_reducible assumption)
    | intro _
    | split
    | dsimp only

theorem State.slotEnd_within {s : State} (c : CoreId) (hW : Within Ps s₀ s) (_ : .regs ∈ Ps) (_ : .am ∈ Ps) (_ : .cores ∈ Ps) :
    Within Ps s₀ (State.slotEnd s c) := by
  unfold State.slotEnd
  repeat' first
    | with_reducible assumption
    | with_reducible apply State.wireTake_within
    | with_reducible apply State.transitEnd_within
    | with_reducible apply State.onCore_within
    | with_reducible apply State.moveTake_within
    | with_reducible apply Within.ite
    | with_reducible apply Within.foldl
    | with_reducible apply Within.foldl_fst
    | with_reducible apply Within.of_eq (by with_reducible assumption)
    | intro _
    | split
    | dsimp only

theorem State.modeFault_within {s : State} (c : CoreId) (hW : Within Ps s₀ s) (_ : .regs ∈ Ps) (_ : .cores ∈ Ps) :
    Within Ps s₀ (State.modeFault s c) := by
  unfold State.modeFault
  repeat' first
    | with_reducible assumption
    | with_reducible apply State.cqFaultMark_within
    | with_reducible apply Within.ite
    | with_reducible apply Within.foldl
    | with_reducible apply Within.foldl_fst
    | with_reducible apply Within.of_eq (by with_reducible assumption)
    | intro _
    | split
    | dsimp only

theorem State.scheduled_within {s : State} (c : CoreId) (h : How) (f : State → State) (hW : Within Ps s₀ s) (_ : .regs ∈ Ps) (_ : .cores ∈ Ps) (hf : ∀ v0, Within Ps s₀ v0 → Within Ps s₀ (f v0)) :
    Within Ps s₀ (State.scheduled s c h f) := by
  unfold State.scheduled
  repeat' first
    | with_reducible assumption
    | with_reducible apply hf
    | with_reducible apply State.modeFault_within
    | with_reducible apply Within.ite
    | with_reducible apply Within.foldl
    | with_reducible apply Within.foldl_fst
    | with_reducible apply Within.of_eq (by with_reducible assumption)
    | intro _
    | split
    | dsimp only

theorem State.moutOp_within {s : State} (c : CoreId) (dout : Side) (am : ℕ) (len : ℕ) (hW : Within Ps s₀ s) (_ : .cores ∈ Ps) :
    Within Ps s₀ (State.moutOp s c dout am len) := by
  unfold State.moutOp
  repeat' first
    | with_reducible assumption
    | with_reducible apply State.timedAccess_within
    | with_reducible apply Within.ite
    | with_reducible apply Within.foldl
    | with_reducible apply Within.foldl_fst
    | with_reducible apply Within.of_eq (by with_reducible assumption)
    | intro _
    | split
    | dsimp only

theorem State.claimLines_within {s : State} (c : CoreId) (am : ℕ) (len : ℕ) (hW : Within Ps s₀ s) (_ : .cores ∈ Ps) :
    Within Ps s₀ (State.claimLines s c am len).1 := by
  unfold State.claimLines
  repeat' first
    | with_reducible assumption
    | with_reducible apply State.claim_within
    | with_reducible apply Within.ite
    | with_reducible apply Within.foldl
    | with_reducible apply Within.foldl_fst
    | with_reducible apply Within.of_eq (by with_reducible assumption)
    | intro _
    | split
    | dsimp only

theorem State.addMove_within {s : State} (c : CoreId) (m : Move) (hW : Within Ps s₀ s) (_ : .cores ∈ Ps) :
    Within Ps s₀ (State.addMove s c m) := by
  unfold State.addMove
  repeat' first
    | with_reducible assumption
    | with_reducible apply State.onCore_within
    | with_reducible apply Within.ite
    | with_reducible apply Within.foldl
    | with_reducible apply Within.foldl_fst
    | with_reducible apply Within.of_eq (by with_reducible assumption)
    | intro _
    | split
    | dsimp only

theorem State.minOp_within {s : State} (c : CoreId) (kind : MoveKind) (din : Side) (dout : Side) (am : ℕ) (len : ℕ) (hW : Within Ps s₀ s) (_ : .cores ∈ Ps) :
    Within Ps s₀ (State.minOp s c kind din dout am len) := by
  unfold State.minOp
  repeat' first
    | with_reducible assumption
    | with_reducible apply State.claimLines_within
    | with_reducible apply State.addMove_within
    | with_reducible apply Within.ite
    | with_reducible apply Within.foldl
    | with_reducible apply Within.foldl_fst
    | with_reducible apply Within.of_eq (by with_reducible assumption)
    | intro _
    | split
    | dsimp only

theorem State.mredOut_within {s : State} (c : CoreId) (dout : Side) (w : ℕ) (len : ℕ) (hW : Within Ps s₀ s) (_ : .cores ∈ Ps) :
    Within Ps s₀ (State.mredOut s c dout w len) := by
  unfold State.mredOut
  repeat' first
    | with_reducible assumption
    | with_reducible apply State.addTimed_within
    | with_reducible apply Within.ite
    | with_reducible apply Within.foldl
    | with_reducible apply Within.foldl_fst
    | with_reducible apply Within.of_eq (by with_reducible assumption)
    | intro _
    | split
    | dsimp only

theorem State.mredOp_within {s : State} (c : CoreId) (din : Side) (dout : Side) (w : ℕ) (len : ℕ) (role : ℕ) (hW : Within Ps s₀ s) (_ : .cores ∈ Ps) :
    Within Ps s₀ (State.mredOp s c din dout w len role) := by
  unfold State.mredOp
  repeat' first
    | with_reducible assumption
    | with_reducible apply State.mredOut_within
    | with_reducible apply State.addMove_within
    | with_reducible apply Within.ite
    | with_reducible apply Within.foldl
    | with_reducible apply Within.foldl_fst
    | with_reducible apply Within.of_eq (by with_reducible assumption)
    | intro _
    | split
    | dsimp only

theorem State.checkTransit_within {s : State} (c : CoreId) (bank : Bool) (hW : Within Ps s₀ s) (_ : .regs ∈ Ps) (_ : .cores ∈ Ps) :
    Within Ps s₀ (State.checkTransit s c bank) := by
  unfold State.checkTransit
  repeat' first
    | with_reducible assumption
    | with_reducible apply State.onCore_within
    | with_reducible apply State.markStep_within
    | with_reducible apply State.meshFault_within
    | with_reducible apply Within.ite
    | with_reducible apply Within.foldl
    | with_reducible apply Within.foldl_fst
    | with_reducible apply Within.of_eq (by with_reducible assumption)
    | intro _
    | split
    | dsimp only

theorem State.fireTransit_within {s : State} (c : CoreId) (bank : Bool) (index : ℕ) (hW : Within Ps s₀ s) (_ : .cores ∈ Ps) :
    Within Ps s₀ (State.fireTransit s c bank index) := by
  unfold State.fireTransit
  repeat' first
    | with_reducible assumption
    | with_reducible apply State.onCore_within
    | with_reducible apply Within.ite
    | with_reducible apply Within.foldl
    | with_reducible apply Within.foldl_fst
    | with_reducible apply Within.of_eq (by with_reducible assumption)
    | intro _
    | split
    | dsimp only

theorem State.routeError_within {s : State} (d : DieId) (hW : Within Ps s₀ s) (_ : .regs ∈ Ps) :
    Within Ps s₀ (State.routeError s d) := by
  unfold State.routeError
  repeat' first
    | with_reducible assumption
    | with_reducible apply State.raise_within
    | with_reducible apply Within.ite
    | with_reducible apply Within.foldl
    | with_reducible apply Within.foldl_fst
    | with_reducible apply Within.of_eq (by with_reducible assumption)
    | intro _
    | split
    | dsimp only

theorem State.dynDiscard_within {s : State} (c : CoreId) (f : DynFlit) (hW : Within Ps s₀ s) (_ : .cores ∈ Ps) :
    Within Ps s₀ (State.dynDiscard s c f) := by
  unfold State.dynDiscard
  repeat' first
    | with_reducible assumption
    | with_reducible apply State.onCore_within
    | with_reducible apply Within.ite
    | with_reducible apply Within.foldl
    | with_reducible apply Within.foldl_fst
    | with_reducible apply Within.of_eq (by with_reducible assumption)
    | intro _
    | split
    | dsimp only

theorem State.asmDone_within {s : State} (c : CoreId) (a : Asm) (hW : Within Ps s₀ s) (_ : .cores ∈ Ps) (_ : .routers ∈ Ps) :
    Within Ps s₀ (State.asmDone s c a) := by
  unfold State.asmDone
  repeat' first
    | with_reducible assumption
    | with_reducible apply State.onCore_within
    | with_reducible apply State.onRouter_within
    | with_reducible apply Within.ite
    | with_reducible apply Within.foldl
    | with_reducible apply Within.foldl_fst
    | with_reducible apply Within.of_eq (by with_reducible assumption)
    | intro _
    | split
    | dsimp only

theorem State.dynLocal_within {s : State} (c : CoreId) (f : DynFlit) (hW : Within Ps s₀ s) (_ : .cores ∈ Ps) (_ : .routers ∈ Ps) :
    Within Ps s₀ (State.dynLocal s c f) := by
  unfold State.dynLocal
  repeat' first
    | with_reducible assumption
    | with_reducible apply State.onCore_within
    | with_reducible apply State.opFinish_within
    | with_reducible apply State.asmDone_within
    | with_reducible apply Within.ite
    | with_reducible apply Within.foldl
    | with_reducible apply Within.foldl_fst
    | with_reducible apply Within.of_eq (by with_reducible assumption)
    | intro _
    | split
    | dsimp only

theorem State.dynSendOut_within {s : State} (c : CoreId) (f : DynFlit) (o : ℕ) (cost : ℕ) (hW : Within Ps s₀ s) (_ : .cores ∈ Ps) (_ : .routers ∈ Ps) :
    Within Ps s₀ (State.dynSendOut s c f o cost) := by
  unfold State.dynSendOut
  repeat' first
    | with_reducible assumption
    | with_reducible apply State.dynLocal_within
    | with_reducible apply State.onCore_within
    | with_reducible apply Within.ite
    | with_reducible apply Within.foldl
    | with_reducible apply Within.foldl_fst
    | with_reducible apply Within.of_eq (by with_reducible assumption)
    | intro _
    | split
    | dsimp only

theorem State.laneStep_within {s : State} (c : CoreId) (o : ℕ) (hW : Within Ps s₀ s) (_ : .cores ∈ Ps) (_ : .routers ∈ Ps) :
    Within Ps s₀ (State.laneStep s c o) := by
  unfold State.laneStep
  repeat' first
    | with_reducible assumption
    | with_reducible apply State.dynSendOut_within
    | with_reducible apply State.onCore_within
    | with_reducible apply Within.ite
    | with_reducible apply Within.foldl
    | with_reducible apply Within.foldl_fst
    | with_reducible apply Within.of_eq (by with_reducible assumption)
    | intro _
    | split
    | dsimp only

theorem State.lanes_within {s : State} (c : CoreId) (hW : Within Ps s₀ s) (_ : .cores ∈ Ps) (_ : .routers ∈ Ps) :
    Within Ps s₀ (State.lanes s c) := by
  unfold State.lanes
  repeat' first
    | with_reducible assumption
    | with_reducible apply State.laneStep_within
    | with_reducible apply Within.ite
    | with_reducible apply Within.foldl
    | with_reducible apply Within.foldl_fst
    | with_reducible apply Within.of_eq (by with_reducible assumption)
    | intro _
    | split
    | dsimp only

theorem State.dynEnter_within {s : State} (c : CoreId) (cls : ℕ) (sub : ℕ) (dest : ℕ) (port : Bool) (idx : ℕ) (last : Bool) (b : DynBody) (p : Bool) (hW : Within Ps s₀ s) (_ : .cores ∈ Ps) :
    Within Ps s₀ (State.dynEnter s c cls sub dest port idx last b p) := by
  unfold State.dynEnter
  repeat' first
    | with_reducible assumption
    | with_reducible apply State.onCore_within
    | with_reducible apply Within.ite
    | with_reducible apply Within.foldl
    | with_reducible apply Within.foldl_fst
    | with_reducible apply Within.of_eq (by with_reducible assumption)
    | intro _
    | split
    | dsimp only

theorem State.dynLater_within {s : State} (c : CoreId) (dest : ℕ) (j : ℕ) (last : Bool) (e : MsgEntry) (hW : Within Ps s₀ s) (_ : .cores ∈ Ps) :
    Within Ps s₀ (State.dynLater s c dest j last e) := by
  unfold State.dynLater
  repeat' first
    | with_reducible assumption
    | with_reducible apply State.onCore_within
    | with_reducible apply Within.ite
    | with_reducible apply Within.foldl
    | with_reducible apply Within.foldl_fst
    | with_reducible apply Within.of_eq (by with_reducible assumption)
    | intro _
    | split
    | dsimp only

theorem State.msgFill_within {s : State} (c : CoreId) (due : ℕ) (j : ℕ) (l : Line) (p : Bool) (hW : Within Ps s₀ s) (_ : .cores ∈ Ps) :
    Within Ps s₀ (State.msgFill s c due j l p) := by
  unfold State.msgFill
  repeat' first
    | with_reducible assumption
    | with_reducible apply State.onCore_within
    | with_reducible apply Within.ite
    | with_reducible apply Within.foldl
    | with_reducible apply Within.foldl_fst
    | with_reducible apply Within.of_eq (by with_reducible assumption)
    | intro _
    | split
    | dsimp only

theorem State.dynSend_within {s : State} (c : CoreId) (dest : ℕ) (b : DynBody) (hW : Within Ps s₀ s) (_ : .cores ∈ Ps) :
    Within Ps s₀ (State.dynSend s c dest b) := by
  unfold State.dynSend
  repeat' first
    | with_reducible assumption
    | with_reducible apply State.dynEnter_within
    | with_reducible apply Within.ite
    | with_reducible apply Within.foldl
    | with_reducible apply Within.foldl_fst
    | with_reducible apply Within.of_eq (by with_reducible assumption)
    | intro _
    | split
    | dsimp only

theorem State.portEnter_within {s : State} (port : CoreId) (cls : ℕ) (sub : ℕ) (dest : ℕ) (h : DynBody) (p : Bool) (ls : List (Line × Bool)) (hW : Within Ps s₀ s) (_ : .cores ∈ Ps) :
    Within Ps s₀ (State.portEnter s port cls sub dest h p ls) := by
  unfold State.portEnter
  repeat' first
    | with_reducible assumption
    | with_reducible apply State.onCore_within
    | with_reducible apply Within.ite
    | with_reducible apply Within.foldl
    | with_reducible apply Within.foldl_fst
    | with_reducible apply Within.of_eq (by with_reducible assumption)
    | intro _
    | split
    | dsimp only

theorem State.portStep_within {s : State} (c : CoreId) (hW : Within Ps s₀ s) (_ : .cores ∈ Ps) :
    Within Ps s₀ (State.portStep s c) := by
  unfold State.portStep
  repeat' first
    | with_reducible assumption
    | with_reducible apply State.onCore_within
    | with_reducible apply Within.ite
    | with_reducible apply Within.foldl
    | with_reducible apply Within.foldl_fst
    | with_reducible apply Within.of_eq (by with_reducible assumption)
    | intro _
    | split
    | dsimp only

theorem State.creditsDue_within {s : State} (c : CoreId) (hW : Within Ps s₀ s) (_ : .cores ∈ Ps) :
    Within Ps s₀ (State.creditsDue s c) := by
  unfold State.creditsDue
  repeat' first
    | with_reducible assumption
    | with_reducible apply State.onCore_within
    | with_reducible apply Within.ite
    | with_reducible apply Within.foldl
    | with_reducible apply Within.foldl_fst
    | with_reducible apply Within.of_eq (by with_reducible assumption)
    | intro _
    | split
    | dsimp only

theorem State.msendOp_within {s : State} (c : CoreId) (chan : ℕ) (k : ℕ) (am : ℕ) (tag : Token) (hW : Within Ps s₀ s) (_ : .cores ∈ Ps) :
    Within Ps s₀ (State.msendOp s c chan k am tag) := by
  unfold State.msendOp
  repeat' first
    | with_reducible assumption
    | with_reducible apply State.onCore_within
    | with_reducible apply State.dynEnter_within
    | with_reducible apply State.timedAccess_within
    | with_reducible apply State.dynLater_within
    | with_reducible apply Within.ite
    | with_reducible apply Within.foldl
    | with_reducible apply Within.foldl_fst
    | with_reducible apply Within.of_eq (by with_reducible assumption)
    | intro _
    | split
    | dsimp only

theorem State.mpopOp_within {s : State} (c : CoreId) (q : ℕ) (am : ℕ) (hW : Within Ps s₀ s) (_ : .regs ∈ Ps) (_ : .cores ∈ Ps) :
    Within Ps s₀ (State.mpopOp s c q am) := by
  unfold State.mpopOp
  repeat' first
    | with_reducible assumption
    | with_reducible apply State.entryParity_within
    | with_reducible apply State.onCore_within
    | with_reducible apply State.timedAccess_within
    | with_reducible apply State.dynSend_within
    | with_reducible apply Within.ite
    | with_reducible apply Within.foldl
    | with_reducible apply Within.foldl_fst
    | with_reducible apply Within.of_eq (by with_reducible assumption)
    | intro _
    | split
    | dsimp only

theorem State.fourWords_within {s : State} (c : CoreId) (w : ℕ) (hW : Within Ps s₀ s) (_ : .regs ∈ Ps) (_ : .cores ∈ Ps) :
    Within Ps s₀ (State.fourWords s c w).1 := by
  unfold State.fourWords
  repeat' first
    | with_reducible assumption
    | with_reducible apply State.psmRead_within
    | with_reducible apply Within.ite
    | with_reducible apply Within.foldl
    | with_reducible apply Within.foldl_fst
    | with_reducible apply Within.of_eq (by with_reducible assumption)
    | intro _
    | split
    | dsimp only

theorem State.timedFlit_within {s : State} (c : CoreId) (side : Side) (due : ℕ) (j : ℕ) (l : Line) (p : Bool) (hW : Within Ps s₀ s) (_ : .regs ∈ Ps) (_ : .cores ∈ Ps) :
    Within Ps s₀ (State.timedFlit s c side due j l p) := by
  unfold State.timedFlit
  repeat' first
    | with_reducible assumption
    | with_reducible apply State.sendFlit_within
    | with_reducible apply Within.ite
    | with_reducible apply Within.foldl
    | with_reducible apply Within.foldl_fst
    | with_reducible apply Within.of_eq (by with_reducible assumption)
    | intro _
    | split
    | dsimp only

theorem State.timedWrite_within {s : State} (c : CoreId) (t : Timed) (hW : Within Ps s₀ s) (_ : .regs ∈ Ps) (_ : .am ∈ Ps) (_ : .psm ∈ Ps) (_ : .cores ∈ Ps) :
    Within Ps s₀ (State.timedWrite s c t) := by
  unfold State.timedWrite
  repeat' first
    | with_reducible assumption
    | with_reducible apply State.timedPut_within
    | with_reducible apply State.psmAdd_within
    | with_reducible apply Within.ite
    | with_reducible apply Within.foldl
    | with_reducible apply Within.foldl_fst
    | with_reducible apply Within.of_eq (by with_reducible assumption)
    | intro _
    | split
    | dsimp only

end Sys2Proof.Machine
end

