-- ==== Sys2Proof/Laws/WithinBundle.lean ====
section
/-! SUPPORT. What the operations of Machine/Bundle.lean may change. -/

set_option linter.unusedTactic false
set_option linter.unreachableTactic false
set_option linter.unusedVariables false

namespace Sys2Proof.Machine

variable {Ps : List Part} {s₀ : State}

theorem State.useSlots_within {s : State} (c : CoreId) (mask : ℕ) (hW : Within Ps s₀ s) (_ : .cores ∈ Ps) :
    Within Ps s₀ (State.useSlots s c mask) := by
  unfold State.useSlots
  repeat' first
    | with_reducible assumption
    | with_reducible apply State.onCore_within
    | with_reducible apply Within.ite
    | with_reducible apply Within.foldl
    | with_reducible apply Within.foldl_fst
    | with_reducible apply Within.of_eq (by with_reducible assumption)
    | intro _
    | split
    | dsimp only

theorem State.ifRuns_within {s : State} (c : CoreId) (slot : ℕ) (f : State → State) (hW : Within Ps s₀ s) (_ : .cores ∈ Ps) (hf : ∀ v0, Within Ps s₀ v0 → Within Ps s₀ (f v0)) :
    Within Ps s₀ (State.ifRuns s c slot f) := by
  unfold State.ifRuns
  repeat' first
    | with_reducible assumption
    | with_reducible apply hf
    | with_reducible apply State.useSlots_within
    | with_reducible apply Within.ite
    | with_reducible apply Within.foldl
    | with_reducible apply Within.foldl_fst
    | with_reducible apply Within.of_eq (by with_reducible assumption)
    | intro _
    | split
    | dsimp only

end Sys2Proof.Machine
end

