-- ==== Sys2Proof/Laws/WithinFlags.lean ====
section
/-! SUPPORT. What the operations of Machine/Flags.lean may change. -/

set_option linter.unusedTactic false
set_option linter.unreachableTactic false
set_option linter.unusedVariables false

namespace Sys2Proof.Machine

variable {Ps : List Part} {s₀ : State}

theorem State.aflags_within {s : State} (c : CoreId) (mask : ℕ) (hW : Within Ps s₀ s) (_ : .regs ∈ Ps) :
    Within Ps s₀ (State.aflags s c mask) := by
  unfold State.aflags
  repeat' first
    | with_reducible assumption
    | with_reducible apply State.orReg_within
    | with_reducible apply Within.ite
    | with_reducible apply Within.foldl
    | with_reducible apply Within.foldl_fst
    | with_reducible apply Within.of_eq (by with_reducible assumption)
    | intro _
    | split
    | dsimp only

theorem State.vflags_within {s : State} (c : CoreId) (mask : ℕ) (hW : Within Ps s₀ s) (_ : .regs ∈ Ps) :
    Within Ps s₀ (State.vflags s c mask) := by
  unfold State.vflags
  repeat' first
    | with_reducible assumption
    | with_reducible apply State.orReg_within
    | with_reducible apply Within.ite
    | with_reducible apply Within.foldl
    | with_reducible apply Within.foldl_fst
    | with_reducible apply Within.of_eq (by with_reducible assumption)
    | intro _
    | split
    | dsimp only

end Sys2Proof.Machine
end

