-- ==== Sys2Proof/Laws/WithinArray.lean ====
section
/-! SUPPORT. What the operations of Machine/Array.lean may change. -/

set_option linter.unusedTactic false
set_option linter.unreachableTactic false
set_option linter.unusedVariables false

namespace Sys2Proof.Machine

variable {Ps : List Part} {s₀ : State}

theorem State.enterVoid_within {s : State} (c : CoreId) (op : ℕ) (t : Token) (hW : Within Ps s₀ s) (_ : .regs ∈ Ps) (_ : .cores ∈ Ps) :
    Within Ps s₀ (State.enterVoid s c op t) := by
  unfold State.enterVoid
  repeat' first
    | with_reducible assumption
    | with_reducible apply State.desyncQ_within
    | with_reducible apply State.onArr_within
    | with_reducible apply Within.ite
    | with_reducible apply Within.foldl
    | with_reducible apply Within.foldl_fst
    | with_reducible apply Within.of_eq (by with_reducible assumption)
    | intro _
    | split
    | dsimp only

theorem State.enterCmd_within {s : State} (c : CoreId) (op : ℕ) (t : Token) (e : QEntry) (hW : Within Ps s₀ s) (_ : .regs ∈ Ps) (_ : .cores ∈ Ps) :
    Within Ps s₀ (State.enterCmd s c op t e) := by
  unfold State.enterCmd
  repeat' first
    | with_reducible assumption
    | with_reducible apply State.mxFault_within
    | with_reducible apply State.enterVoid_within
    | with_reducible apply State.onArr_within
    | with_reducible apply Within.ite
    | with_reducible apply Within.foldl
    | with_reducible apply Within.foldl_fst
    | with_reducible apply Within.of_eq (by with_reducible assumption)
    | intro _
    | split
    | dsimp only

theorem State.mOp_within {s : State} (c : CoreId) (op : ℕ) (t : Token) (h : How) (hW : Within Ps s₀ s) (_ : .regs ∈ Ps) (_ : .cores ∈ Ps) :
    Within Ps s₀ (State.mOp s c op t h) := by
  unfold State.mOp
  repeat' first
    | with_reducible assumption
    | with_reducible apply State.take_within
    | with_reducible apply State.enterCmd_within
    | with_reducible apply State.enterVoid_within
    | with_reducible apply Within.ite
    | with_reducible apply Within.foldl
    | with_reducible apply Within.foldl_fst
    | with_reducible apply Within.of_eq (by with_reducible assumption)
    | intro _
    | split
    | dsimp only

theorem State.headRefuse_within {s : State} (c : CoreId) (q : ArrCmd) (hW : Within Ps s₀ s) (_ : .cores ∈ Ps) :
    Within Ps s₀ (State.headRefuse s c q) := by
  unfold State.headRefuse
  repeat' first
    | with_reducible assumption
    | with_reducible apply State.onArr_within
    | with_reducible apply Within.ite
    | with_reducible apply Within.foldl
    | with_reducible apply Within.foldl_fst
    | with_reducible apply Within.of_eq (by with_reducible assumption)
    | intro _
    | split
    | dsimp only

theorem State.headLoad_within {s : State} (c : CoreId) (q : ArrCmd) (hW : Within Ps s₀ s) (_ : .regs ∈ Ps) (_ : .cores ∈ Ps) :
    Within Ps s₀ (State.headLoad s c q) := by
  unfold State.headLoad
  repeat' first
    | with_reducible assumption
    | with_reducible apply State.onArr_within
    | with_reducible apply State.headRefuse_within
    | with_reducible apply State.mxFault_within
    | with_reducible apply Within.ite
    | with_reducible apply Within.foldl
    | with_reducible apply Within.foldl_fst
    | with_reducible apply Within.of_eq (by with_reducible assumption)
    | intro _
    | split
    | dsimp only

theorem State.headStart_within {s : State} (c : CoreId) (q : ArrCmd) (h : ℕ) (deg : Bool) (hW : Within Ps s₀ s) (_ : .cores ∈ Ps) :
    Within Ps s₀ (State.headStart s c q h deg) := by
  unfold State.headStart
  repeat' first
    | with_reducible assumption
    | with_reducible apply State.onArr_within
    | with_reducible apply Within.ite
    | with_reducible apply Within.foldl
    | with_reducible apply Within.foldl_fst
    | with_reducible apply Within.of_eq (by with_reducible assumption)
    | intro _
    | split
    | dsimp only

theorem State.headPass_within {s : State} (c : CoreId) (q : ArrCmd) (h : ℕ) (hW : Within Ps s₀ s) (_ : .regs ∈ Ps) (_ : .cores ∈ Ps) :
    Within Ps s₀ (State.headPass s c q h) := by
  unfold State.headPass
  repeat' first
    | with_reducible assumption
    | with_reducible apply State.headRefuse_within
    | with_reducible apply State.mxFault_within
    | with_reducible apply State.headStart_within
    | with_reducible apply Within.ite
    | with_reducible apply Within.foldl
    | with_reducible apply Within.foldl_fst
    | with_reducible apply Within.of_eq (by with_reducible assumption)
    | intro _
    | split
    | dsimp only

theorem State.headRead_within {s : State} (c : CoreId) (q : ArrCmd) (hW : Within Ps s₀ s) (_ : .regs ∈ Ps) (_ : .cores ∈ Ps) :
    Within Ps s₀ (State.headRead s c q) := by
  unfold State.headRead
  repeat' first
    | with_reducible assumption
    | with_reducible apply State.onArr_within
    | with_reducible apply State.entryParity_within
    | with_reducible apply Within.ite
    | with_reducible apply Within.foldl
    | with_reducible apply Within.foldl_fst
    | with_reducible apply Within.of_eq (by with_reducible assumption)
    | intro _
    | split
    | dsimp only

theorem State.enterVec_within {s : State} (c : CoreId) (q : ArrCmd) (v : Vec) (e : ℕ) (hW : Within Ps s₀ s) (_ : .cores ∈ Ps) :
    Within Ps s₀ (State.enterVec s c q v e) := by
  unfold State.enterVec
  repeat' first
    | with_reducible assumption
    | with_reducible apply State.onArr_within
    | with_reducible apply Within.ite
    | with_reducible apply Within.foldl
    | with_reducible apply Within.foldl_fst
    | with_reducible apply Within.of_eq (by with_reducible assumption)
    | intro _
    | split
    | dsimp only

theorem State.amReadAny_within {s : State} (c : CoreId) (a : ℕ) (n : ℕ) (hW : Within Ps s₀ s) (_ : .regs ∈ Ps) (_ : .am ∈ Ps) (_ : .cores ∈ Ps) :
    Within Ps s₀ (State.amReadAny s c a n).1 := by
  unfold State.amReadAny
  repeat' first
    | with_reducible assumption
    | with_reducible apply State.amRead_within
    | with_reducible apply Within.ite
    | with_reducible apply Within.foldl
    | with_reducible apply Within.foldl_fst
    | with_reducible apply Within.of_eq (by with_reducible assumption)
    | intro _
    | split
    | dsimp only

theorem State.readVec_within {s : State} (c : CoreId) (v : VecAt) (hW : Within Ps s₀ s) (_ : .regs ∈ Ps) (_ : .am ∈ Ps) (_ : .cores ∈ Ps) :
    Within Ps s₀ (State.readVec s c v).1 := by
  unfold State.readVec
  repeat' first
    | with_reducible assumption
    | with_reducible apply State.amReadAny_within
    | with_reducible apply Within.ite
    | with_reducible apply Within.foldl
    | with_reducible apply Within.foldl_fst
    | with_reducible apply Within.of_eq (by with_reducible assumption)
    | intro _
    | split
    | dsimp only

theorem State.fetchX_within {s : State} (c : CoreId) (hW : Within Ps s₀ s) (_ : .regs ∈ Ps) (_ : .am ∈ Ps) (_ : .cores ∈ Ps) :
    Within Ps s₀ (State.fetchX s c) := by
  unfold State.fetchX
  repeat' first
    | with_reducible assumption
    | with_reducible apply State.claimDyn_within
    | with_reducible apply State.readVec_within
    | with_reducible apply State.onArr_within
    | with_reducible apply State.enterVec_within
    | with_reducible apply Within.ite
    | with_reducible apply Within.foldl
    | with_reducible apply Within.foldl_fst
    | with_reducible apply Within.of_eq (by with_reducible assumption)
    | intro _
    | split
    | dsimp only

theorem State.fetchY_within {s : State} (c : CoreId) (hW : Within Ps s₀ s) (_ : .regs ∈ Ps) (_ : .am ∈ Ps) (_ : .cores ∈ Ps) :
    Within Ps s₀ (State.fetchY s c) := by
  unfold State.fetchY
  repeat' first
    | with_reducible assumption
    | with_reducible apply State.claimDyn_within
    | with_reducible apply State.readVec_within
    | with_reducible apply State.onArr_within
    | with_reducible apply Within.ite
    | with_reducible apply Within.foldl
    | with_reducible apply Within.foldl_fst
    | with_reducible apply Within.of_eq (by with_reducible assumption)
    | intro _
    | split
    | dsimp only

theorem State.refill_within {s : State} (c : CoreId) (hW : Within Ps s₀ s) (_ : .cores ∈ Ps) :
    Within Ps s₀ (State.refill s c) := by
  unfold State.refill
  repeat' first
    | with_reducible assumption
    | with_reducible apply State.enterVec_within
    | with_reducible apply State.onArr_within
    | with_reducible apply Within.ite
    | with_reducible apply Within.foldl
    | with_reducible apply Within.foldl_fst
    | with_reducible apply Within.of_eq (by with_reducible assumption)
    | intro _
    | split
    | dsimp only

theorem State.bubble_within {s : State} (c : CoreId) (bf : Bool) (slot : Bool) (hW : Within Ps s₀ s) (_ : .regs ∈ Ps) (_ : .cores ∈ Ps) :
    Within Ps s₀ (State.bubble s c bf slot) := by
  unfold State.bubble
  repeat' first
    | with_reducible assumption
    | with_reducible apply State.count_within
    | with_reducible apply State.onArr_within
    | with_reducible apply Within.ite
    | with_reducible apply Within.foldl
    | with_reducible apply Within.foldl_fst
    | with_reducible apply Within.of_eq (by with_reducible assumption)
    | intro _
    | split
    | dsimp only

theorem State.releaseVec_within {s : State} (c : CoreId) (q : ArrCmd) (r : Run) (v : Vec) (hW : Within Ps s₀ s) (_ : .regs ∈ Ps) (_ : .cores ∈ Ps) :
    Within Ps s₀ (State.releaseVec s c q r v) := by
  unfold State.releaseVec
  repeat' first
    | with_reducible assumption
    | with_reducible apply State.aflags_within
    | with_reducible apply State.entryParity_within
    | with_reducible apply State.onArr_within
    | with_reducible apply State.refill_within
    | with_reducible apply Within.ite
    | with_reducible apply Within.foldl
    | with_reducible apply Within.foldl_fst
    | with_reducible apply Within.of_eq (by with_reducible assumption)
    | intro _
    | split
    | dsimp only

theorem State.checkFault_within {s : State} (c : CoreId) (run : ℕ) (m : ℕ) (tap : ℕ) (scaler : ℕ) (hW : Within Ps s₀ s) (_ : .regs ∈ Ps) (_ : .cores ∈ Ps) :
    Within Ps s₀ (State.checkFault s c run m tap scaler) := by
  unfold State.checkFault
  repeat' first
    | with_reducible assumption
    | with_reducible apply State.setReg_within
    | with_reducible apply State.onArr_within
    | with_reducible apply State.count_within
    | with_reducible apply State.mxFault_within
    | with_reducible apply Within.ite
    | with_reducible apply Within.foldl
    | with_reducible apply Within.foldl_fst
    | with_reducible apply Within.of_eq (by with_reducible assumption)
    | intro _
    | split
    | dsimp only

theorem State.contribute_within {s : State} (c : CoreId) (sl : Slot) (n : ℕ) (w : W128) (fp : Bool) (hW : Within Ps s₀ s) (_ : .cores ∈ Ps) :
    Within Ps s₀ (State.contribute s c sl n w fp) := by
  unfold State.contribute
  repeat' first
    | with_reducible assumption
    | with_reducible apply State.onArr_within
    | with_reducible apply Within.ite
    | with_reducible apply Within.foldl
    | with_reducible apply Within.foldl_fst
    | with_reducible apply Within.of_eq (by with_reducible assumption)
    | intro _
    | split
    | dsimp only

theorem State.drainWord_within {s : State} (c : CoreId) (r : Run) (e : Drain) (hW : Within Ps s₀ s) (_ : .regs ∈ Ps) (_ : .psm ∈ Ps) (_ : .cores ∈ Ps) :
    Within Ps s₀ (State.drainWord s c r e) := by
  unfold State.drainWord
  repeat' first
    | with_reducible assumption
    | with_reducible apply State.psmWrite_within
    | with_reducible apply State.psmRead_within
    | with_reducible apply State.psmAdd_within
    | with_reducible apply Within.ite
    | with_reducible apply Within.foldl
    | with_reducible apply Within.foldl_fst
    | with_reducible apply Within.of_eq (by with_reducible assumption)
    | intro _
    | split
    | dsimp only

theorem State.zeroWords_within {s : State} (c : CoreId) (d : MDesc) (p : Bool) (hW : Within Ps s₀ s) (_ : .psm ∈ Ps) :
    Within Ps s₀ (State.zeroWords s c d p) := by
  unfold State.zeroWords
  repeat' first
    | with_reducible assumption
    | with_reducible apply State.psmWrite_within
    | with_reducible apply Within.ite
    | with_reducible apply Within.foldl
    | with_reducible apply Within.foldl_fst
    | with_reducible apply Within.of_eq (by with_reducible assumption)
    | intro _
    | split
    | dsimp only

theorem State.zeroStep_within {s : State} (c : CoreId) (hW : Within Ps s₀ s) (_ : .psm ∈ Ps) (_ : .cores ∈ Ps) :
    Within Ps s₀ (State.zeroStep s c) := by
  unfold State.zeroStep
  repeat' first
    | with_reducible assumption
    | with_reducible apply State.zeroWords_within
    | with_reducible apply State.onArr_within
    | with_reducible apply Within.ite
    | with_reducible apply Within.foldl
    | with_reducible apply Within.foldl_fst
    | with_reducible apply Within.of_eq (by with_reducible assumption)
    | intro _
    | split
    | dsimp only

theorem State.wordsOut_within {s : State} (c : CoreId) (r : Run) (hW : Within Ps s₀ s) (_ : .regs ∈ Ps) (_ : .cores ∈ Ps) :
    Within Ps s₀ (State.wordsOut s c r) := by
  unfold State.wordsOut
  repeat' first
    | with_reducible assumption
    | with_reducible apply State.onArr_within
    | with_reducible apply State.sendFlit_within
    | with_reducible apply Within.ite
    | with_reducible apply Within.foldl
    | with_reducible apply Within.foldl_fst
    | with_reducible apply Within.of_eq (by with_reducible assumption)
    | intro _
    | split
    | dsimp only

theorem State.arrOut_within {s : State} (c : CoreId) (hW : Within Ps s₀ s) (_ : .regs ∈ Ps) (_ : .cores ∈ Ps) :
    Within Ps s₀ (State.arrOut s c) := by
  unfold State.arrOut
  repeat' first
    | with_reducible assumption
    | with_reducible apply State.wordsOut_within
    | with_reducible apply State.onArr_within
    | with_reducible apply State.sendFlit_within
    | with_reducible apply Within.ite
    | with_reducible apply Within.foldl
    | with_reducible apply Within.foldl_fst
    | with_reducible apply Within.of_eq (by with_reducible assumption)
    | intro _
    | split
    | dsimp only

theorem State.arrEnd_within {s : State} (c : CoreId) (hW : Within Ps s₀ s) (_ : .regs ∈ Ps) (_ : .cores ∈ Ps) :
    Within Ps s₀ (State.arrEnd s c) := by
  unfold State.arrEnd
  repeat' first
    | with_reducible assumption
    | with_reducible apply State.onArr_within
    | with_reducible apply State.arrOut_within
    | with_reducible apply Within.ite
    | with_reducible apply Within.foldl
    | with_reducible apply Within.foldl_fst
    | with_reducible apply Within.of_eq (by with_reducible assumption)
    | intro _
    | split
    | dsimp only

theorem State.arrDrain_within {s : State} (c : CoreId) (hW : Within Ps s₀ s) (_ : .regs ∈ Ps) (_ : .cores ∈ Ps) :
    Within Ps s₀ (State.arrDrain s c) := by
  unfold State.arrDrain
  repeat' first
    | with_reducible assumption
    | with_reducible apply State.orReg_within
    | with_reducible apply State.onArr_within
    | with_reducible apply Within.ite
    | with_reducible apply Within.foldl
    | with_reducible apply Within.foldl_fst
    | with_reducible apply Within.of_eq (by with_reducible assumption)
    | intro _
    | split
    | dsimp only

theorem State.mxDrain_within {s : State} (c : CoreId) (hW : Within Ps s₀ s) (_ : .regs ∈ Ps) (_ : .cores ∈ Ps) :
    Within Ps s₀ (State.mxDrain s c) := by
  unfold State.mxDrain
  repeat' first
    | with_reducible assumption
    | with_reducible apply State.mxFault_within
    | with_reducible apply State.arrDrain_within
    | with_reducible apply Within.ite
    | with_reducible apply Within.foldl
    | with_reducible apply Within.foldl_fst
    | with_reducible apply Within.of_eq (by with_reducible assumption)
    | intro _
    | split
    | dsimp only

end Sys2Proof.Machine
end

