-- ==== Sys2Proof/Laws/WithinVector.lean ====
section
/-! SUPPORT. What the operations of Machine/Vector.lean may change. -/

set_option linter.unusedTactic false
set_option linter.unreachableTactic false
set_option linter.unusedVariables false

namespace Sys2Proof.Machine

variable {Ps : List Part} {s₀ : State}

theorem State.wideLanes_within {s : State} (c : CoreId) (v : VSlot) (m : ℕ → Bool) (hW : Within Ps s₀ s) (_ : .regs ∈ Ps) (_ : .am ∈ Ps) (_ : .cores ∈ Ps) :
    Within Ps s₀ (State.wideLanes s c v m).1 := by
  unfold State.wideLanes
  repeat' first
    | with_reducible assumption
    | with_reducible apply State.claim_within
    | with_reducible apply State.amRead_within
    | with_reducible apply State.amConflict_within
    | with_reducible apply State.vflags_within
    | with_reducible apply State.psmReadOld_within
    | with_reducible apply State.psmNote_within
    | with_reducible apply State.aflags_within
    | with_reducible apply Within.ite
    | with_reducible apply Within.foldl
    | with_reducible apply Within.foldl_fst
    | with_reducible apply Within.of_eq (by with_reducible assumption)
    | intro _
    | split
    | dsimp only

theorem State.addRes_within {s : State} (c : CoreId) (due : ℕ) (d : VDest) (lanes : List (Option Word32)) (p : Bool) (hW : Within Ps s₀ s) (_ : .cores ∈ Ps) :
    Within Ps s₀ (State.addRes s c due d lanes p) := by
  unfold State.addRes
  repeat' first
    | with_reducible assumption
    | with_reducible apply State.onCore_within
    | with_reducible apply Within.ite
    | with_reducible apply Within.foldl
    | with_reducible apply Within.foldl_fst
    | with_reducible apply Within.of_eq (by with_reducible assumption)
    | intro _
    | split
    | dsimp only

theorem State.rowRes_within {s : State} (c : CoreId) (op : VOp) (v : VSlot) (row : ℕ) (m : ℕ → Bool) (xs : List ℕ) (p : Bool) (hW : Within Ps s₀ s) (_ : .cores ∈ Ps) :
    Within Ps s₀ (State.rowRes s c op v row m xs p) := by
  unfold State.rowRes
  repeat' first
    | with_reducible assumption
    | with_reducible apply State.addRes_within
    | with_reducible apply Within.ite
    | with_reducible apply Within.foldl
    | with_reducible apply Within.foldl_fst
    | with_reducible apply Within.of_eq (by with_reducible assumption)
    | intro _
    | split
    | dsimp only

theorem State.cvtToAm_within {s : State} (c : CoreId) (v : VSlot) (m : ℕ → Bool) (xs : List ℕ) (p : Bool) (hW : Within Ps s₀ s) (_ : .regs ∈ Ps) (_ : .cores ∈ Ps) :
    Within Ps s₀ (State.cvtToAm s c v m xs p) := by
  unfold State.cvtToAm
  repeat' first
    | with_reducible assumption
    | with_reducible apply State.vflags_within
    | with_reducible apply State.claim_within
    | with_reducible apply State.addRes_within
    | with_reducible apply State.addTimed_within
    | with_reducible apply Within.ite
    | with_reducible apply Within.foldl
    | with_reducible apply Within.foldl_fst
    | with_reducible apply Within.of_eq (by with_reducible assumption)
    | intro _
    | split
    | dsimp only

theorem State.vRun_within {s : State} (c : CoreId) (op : VOp) (v : VSlot) (hW : Within Ps s₀ s) (_ : .regs ∈ Ps) (_ : .am ∈ Ps) (_ : .cores ∈ Ps) :
    Within Ps s₀ (State.vRun s c op v) := by
  unfold State.vRun
  repeat' first
    | with_reducible assumption
    | with_reducible apply State.wideLanes_within
    | with_reducible apply State.rowRes_within
    | with_reducible apply State.vflags_within
    | with_reducible apply State.cvtToAm_within
    | with_reducible apply State.addRes_within
    | with_reducible apply Within.ite
    | with_reducible apply Within.foldl
    | with_reducible apply Within.foldl_fst
    | with_reducible apply Within.of_eq (by with_reducible assumption)
    | intro _
    | split
    | dsimp only

theorem State.vFault_within {s : State} (c : CoreId) (op : VOp) (v : VSlot) (hW : Within Ps s₀ s) (_ : .regs ∈ Ps) (_ : .tb ∈ Ps) (_ : .cores ∈ Ps) :
    Within Ps s₀ (State.vFault s c op v) := by
  unfold State.vFault
  repeat' first
    | with_reducible assumption
    | with_reducible apply State.raise_within
    | with_reducible apply State.markStep_within
    | with_reducible apply State.setTbPois_within
    | with_reducible apply Within.ite
    | with_reducible apply Within.foldl
    | with_reducible apply Within.foldl_fst
    | with_reducible apply Within.of_eq (by with_reducible assumption)
    | intro _
    | split
    | dsimp only

theorem State.writeRow_within {s : State} (c : CoreId) (b : ℕ) (r : ℕ) (lanes : List (Option Word32)) (p : Bool) (hW : Within Ps s₀ s) (_ : .regs ∈ Ps) (_ : .tb ∈ Ps) :
    Within Ps s₀ (State.writeRow s c b r lanes p) := by
  unfold State.writeRow
  repeat' first
    | with_reducible assumption
    | with_reducible apply State.setTbLane_within
    | with_reducible apply State.vflags_within
    | with_reducible apply State.setTbPois_within
    | with_reducible apply Within.ite
    | with_reducible apply Within.foldl
    | with_reducible apply Within.foldl_fst
    | with_reducible apply Within.of_eq (by with_reducible assumption)
    | intro _
    | split
    | dsimp only

theorem State.writePlane_within {s : State} (c : CoreId) (a : ℕ) (w : ℕ) (codes : List (Option ℕ)) (p : Bool) (hW : Within Ps s₀ s) (_ : .regs ∈ Ps) (_ : .am ∈ Ps) (_ : .cores ∈ Ps) :
    Within Ps s₀ (State.writePlane s c a w codes p) := by
  unfold State.writePlane
  repeat' first
    | with_reducible assumption
    | with_reducible apply State.amWrite_within
    | with_reducible apply Within.ite
    | with_reducible apply Within.foldl
    | with_reducible apply Within.foldl_fst
    | with_reducible apply Within.of_eq (by with_reducible assumption)
    | intro _
    | split
    | dsimp only

theorem State.writeRes_within {s : State} (c : CoreId) (r : VRes) (hW : Within Ps s₀ s) (_ : .regs ∈ Ps) (_ : .am ∈ Ps) (_ : .tb ∈ Ps) (_ : .cores ∈ Ps) :
    Within Ps s₀ (State.writeRes s c r) := by
  unfold State.writeRes
  repeat' first
    | with_reducible assumption
    | with_reducible apply State.writeRow_within
    | with_reducible apply State.onCore_within
    | with_reducible apply State.vflags_within
    | with_reducible apply State.writePlane_within
    | with_reducible apply State.amWrite_within
    | with_reducible apply Within.ite
    | with_reducible apply Within.foldl
    | with_reducible apply Within.foldl_fst
    | with_reducible apply Within.of_eq (by with_reducible assumption)
    | intro _
    | split
    | dsimp only

theorem State.vresOf_within {s : State} (c : CoreId) (p : VRes → Bool) (hW : Within Ps s₀ s) (_ : .regs ∈ Ps) (_ : .am ∈ Ps) (_ : .tb ∈ Ps) (_ : .cores ∈ Ps) :
    Within Ps s₀ (State.vresOf s c p) := by
  unfold State.vresOf
  repeat' first
    | with_reducible assumption
    | with_reducible apply State.onCore_within
    | with_reducible apply State.writeRes_within
    | with_reducible apply Within.ite
    | with_reducible apply Within.foldl
    | with_reducible apply Within.foldl_fst
    | with_reducible apply Within.of_eq (by with_reducible assumption)
    | intro _
    | split
    | dsimp only

theorem State.vresDue_within {s : State} (c : CoreId) (hW : Within Ps s₀ s) (_ : .regs ∈ Ps) (_ : .am ∈ Ps) (_ : .tb ∈ Ps) (_ : .cores ∈ Ps) :
    Within Ps s₀ (State.vresDue s c) := by
  unfold State.vresDue
  repeat' first
    | with_reducible assumption
    | with_reducible apply State.vresOf_within
    | with_reducible apply Within.ite
    | with_reducible apply Within.foldl
    | with_reducible apply Within.foldl_fst
    | with_reducible apply Within.of_eq (by with_reducible assumption)
    | intro _
    | split
    | dsimp only

theorem State.vresAm_within {s : State} (c : CoreId) (hW : Within Ps s₀ s) (_ : .regs ∈ Ps) (_ : .am ∈ Ps) (_ : .tb ∈ Ps) (_ : .cores ∈ Ps) :
    Within Ps s₀ (State.vresAm s c) := by
  unfold State.vresAm
  repeat' first
    | with_reducible assumption
    | with_reducible apply State.vresOf_within
    | with_reducible apply Within.ite
    | with_reducible apply Within.foldl
    | with_reducible apply Within.foldl_fst
    | with_reducible apply Within.of_eq (by with_reducible assumption)
    | intro _
    | split
    | dsimp only

theorem State.vOp_within {s : State} (c : CoreId) (op : VOp) (v : VSlot) (hW : Within Ps s₀ s) (_ : .regs ∈ Ps) (_ : .am ∈ Ps) (_ : .tb ∈ Ps) (_ : .cores ∈ Ps) :
    Within Ps s₀ (State.vOp s c op v) := by
  unfold State.vOp
  repeat' first
    | with_reducible assumption
    | with_reducible apply State.cqFaultMark_within
    | with_reducible apply State.count_within
    | with_reducible apply State.vresDue_within
    | with_reducible apply State.vFault_within
    | with_reducible apply State.vRun_within
    | with_reducible apply Within.ite
    | with_reducible apply Within.foldl
    | with_reducible apply Within.foldl_fst
    | with_reducible apply Within.of_eq (by with_reducible assumption)
    | intro _
    | split
    | dsimp only

end Sys2Proof.Machine
end

