-- ==== Sys2Proof/Laws/WithinIssue.lean ====
section
/-! SUPPORT. What the operations of Machine/Issue.lean may change. -/

set_option linter.unusedTactic false
set_option linter.unreachableTactic false
set_option linter.unusedVariables false

namespace Sys2Proof.Machine

variable {Ps : List Part} {s₀ : State}

theorem State.pred_within {s : State} (h : How) (p : Pred) (f : State → State) (hW : Within Ps s₀ s) (hf : ∀ v0, Within Ps s₀ v0 → Within Ps s₀ (f v0)) :
    Within Ps s₀ (State.pred s h p f) := by
  unfold State.pred
  repeat' first
    | with_reducible assumption
    | with_reducible apply hf
    | with_reducible apply Within.ite
    | with_reducible apply Within.foldl
    | with_reducible apply Within.foldl_fst
    | with_reducible apply Within.of_eq (by with_reducible assumption)
    | intro _
    | split
    | dsimp only

theorem State.poisonDone_within {s : State} (c : CoreId) (q : ℕ) (t : Token) (hW : Within Ps s₀ s) (_ : .cores ∈ Ps) :
    Within Ps s₀ (State.poisonDone s c q t) := by
  unfold State.poisonDone
  repeat' first
    | with_reducible assumption
    | with_reducible apply State.opAdd_within
    | with_reducible apply Within.ite
    | with_reducible apply Within.foldl
    | with_reducible apply Within.foldl_fst
    | with_reducible apply Within.of_eq (by with_reducible assumption)
    | intro _
    | split
    | dsimp only

theorem State.xissueOp_within {s : State} (c : CoreId) (t : Token) (cq : ℕ) (h : How) (hW : Within Ps s₀ s) (_ : .regs ∈ Ps) (_ : .cores ∈ Ps) :
    Within Ps s₀ (State.xissueOp s c t cq h) := by
  unfold State.xissueOp
  repeat' first
    | with_reducible assumption
    | with_reducible apply State.poisonDone_within
    | with_reducible apply State.markStep_within
    | with_reducible apply State.late_within
    | with_reducible apply State.take_within
    | with_reducible apply State.cqFaultMark_within
    | with_reducible apply State.opAdd_within
    | with_reducible apply State.violation_within
    | with_reducible apply Within.ite
    | with_reducible apply Within.foldl
    | with_reducible apply Within.foldl_fst
    | with_reducible apply Within.of_eq (by with_reducible assumption)
    | intro _
    | split
    | dsimp only

theorem State.msendSlot_within {s : State} (c : CoreId) (chan : ℕ) (k : ℕ) (am : ℕ) (tag : Token) (h : How) (hW : Within Ps s₀ s) (_ : .regs ∈ Ps) (_ : .cores ∈ Ps) :
    Within Ps s₀ (State.msendSlot s c chan k am tag h) := by
  unfold State.msendSlot
  repeat' first
    | with_reducible assumption
    | with_reducible apply State.creditsDue_within
    | with_reducible apply State.msendOp_within
    | with_reducible apply State.markStep_within
    | with_reducible apply State.cqFaultMark_within
    | with_reducible apply Within.ite
    | with_reducible apply Within.foldl
    | with_reducible apply Within.foldl_fst
    | with_reducible apply Within.of_eq (by with_reducible assumption)
    | intro _
    | split
    | dsimp only

theorem State.mpopSlot_within {s : State} (c : CoreId) (q : ℕ) (am : ℕ) (h : How) (hW : Within Ps s₀ s) (_ : .regs ∈ Ps) (_ : .cores ∈ Ps) :
    Within Ps s₀ (State.mpopSlot s c q am h) := by
  unfold State.mpopSlot
  repeat' first
    | with_reducible assumption
    | with_reducible apply State.mpopOp_within
    | with_reducible apply State.markStep_within
    | with_reducible apply State.late_within
    | with_reducible apply Within.ite
    | with_reducible apply Within.foldl
    | with_reducible apply Within.foldl_fst
    | with_reducible apply Within.of_eq (by with_reducible assumption)
    | intro _
    | split
    | dsimp only

theorem State.credtestOp_within {s : State} (c : CoreId) (pd : BitVec 3) (chan : ℕ) (k : ℕ) (hW : Within Ps s₀ s) (_ : .cores ∈ Ps) :
    Within Ps s₀ (State.credtestOp s c pd chan k) := by
  unfold State.credtestOp
  repeat' first
    | with_reducible assumption
    | with_reducible apply State.creditsDue_within
    | with_reducible apply State.writePred_within
    | with_reducible apply Within.ite
    | with_reducible apply Within.foldl
    | with_reducible apply Within.foldl_fst
    | with_reducible apply Within.of_eq (by with_reducible assumption)
    | intro _
    | split
    | dsimp only

theorem State.bundleFault_within {s : State} (c : CoreId) (hW : Within Ps s₀ s) (_ : .regs ∈ Ps) (_ : .cores ∈ Ps) :
    Within Ps s₀ (State.bundleFault s c) := by
  unfold State.bundleFault
  repeat' first
    | with_reducible assumption
    | with_reducible apply State.cqFaultMark_within
    | with_reducible apply Within.ite
    | with_reducible apply Within.foldl
    | with_reducible apply Within.foldl_fst
    | with_reducible apply Within.of_eq (by with_reducible assumption)
    | intro _
    | split
    | dsimp only

theorem State.waitOp_within {s : State} (c : CoreId) (q : ℕ) (t : Token) (h : How) (hW : Within Ps s₀ s) (_ : .regs ∈ Ps) (_ : .cores ∈ Ps) :
    Within Ps s₀ (State.waitOp s c q t h) := by
  unfold State.waitOp
  repeat' first
    | with_reducible assumption
    | with_reducible apply State.take_within
    | with_reducible apply Within.ite
    | with_reducible apply Within.foldl
    | with_reducible apply Within.foldl_fst
    | with_reducible apply Within.of_eq (by with_reducible assumption)
    | intro _
    | split
    | dsimp only

theorem State.qtestOp_within {s : State} (c : CoreId) (pd : BitVec 3) (q : ℕ) (t : Token) (hW : Within Ps s₀ s) (_ : .cores ∈ Ps) :
    Within Ps s₀ (State.qtestOp s c pd q t) := by
  unfold State.qtestOp
  repeat' first
    | with_reducible assumption
    | with_reducible apply State.writePred_within
    | with_reducible apply Within.ite
    | with_reducible apply Within.foldl
    | with_reducible apply Within.foldl_fst
    | with_reducible apply Within.of_eq (by with_reducible assumption)
    | intro _
    | split
    | dsimp only

theorem State.semsigOp_within {s : State} (c : CoreId) (i : ℕ) (n : ℕ) (hW : Within Ps s₀ s) (_ : .cores ∈ Ps) :
    Within Ps s₀ (State.semsigOp s c i n) := by
  unfold State.semsigOp
  repeat' first
    | with_reducible assumption
    | with_reducible apply State.onCore_within
    | with_reducible apply Within.ite
    | with_reducible apply Within.foldl
    | with_reducible apply Within.foldl_fst
    | with_reducible apply Within.of_eq (by with_reducible assumption)
    | intro _
    | split
    | dsimp only

theorem State.semsigrOp_within {s : State} (c : CoreId) (chan : ℕ) (i : ℕ) (n : ℕ) (hW : Within Ps s₀ s) (_ : .cores ∈ Ps) :
    Within Ps s₀ (State.semsigrOp s c chan i n) := by
  unfold State.semsigrOp
  repeat' first
    | with_reducible assumption
    | with_reducible apply State.dynSend_within
    | with_reducible apply State.markStep_within
    | with_reducible apply Within.ite
    | with_reducible apply Within.foldl
    | with_reducible apply Within.foldl_fst
    | with_reducible apply Within.of_eq (by with_reducible assumption)
    | intro _
    | split
    | dsimp only

theorem State.semtryOp_within {s : State} (c : CoreId) (pd : BitVec 3) (i : ℕ) (n : ℕ) (hW : Within Ps s₀ s) (_ : .regs ∈ Ps) (_ : .cores ∈ Ps) :
    Within Ps s₀ (State.semtryOp s c pd i n) := by
  unfold State.semtryOp
  repeat' first
    | with_reducible assumption
    | with_reducible apply State.semDue_within
    | with_reducible apply State.writePred_within
    | with_reducible apply State.onCore_within
    | with_reducible apply Within.ite
    | with_reducible apply Within.foldl
    | with_reducible apply Within.foldl_fst
    | with_reducible apply Within.of_eq (by with_reducible assumption)
    | intro _
    | split
    | dsimp only

theorem State.semwaitOp_within {s : State} (c : CoreId) (i : ℕ) (n : ℕ) (h : How) (hW : Within Ps s₀ s) (_ : .regs ∈ Ps) (_ : .cores ∈ Ps) :
    Within Ps s₀ (State.semwaitOp s c i n h) := by
  unfold State.semwaitOp
  repeat' first
    | with_reducible assumption
    | with_reducible apply State.semDue_within
    | with_reducible apply State.onCore_within
    | with_reducible apply State.markStep_within
    | with_reducible apply State.late_within
    | with_reducible apply Within.ite
    | with_reducible apply Within.foldl
    | with_reducible apply Within.foldl_fst
    | with_reducible apply Within.of_eq (by with_reducible assumption)
    | intro _
    | split
    | dsimp only

theorem State.gongOp_within {s : State} (c : CoreId) (slackSel : Bool) (hW : Within Ps s₀ s) (_ : .cores ∈ Ps) :
    Within Ps s₀ (State.gongOp s c slackSel) := by
  unfold State.gongOp
  repeat' first
    | with_reducible assumption
    | with_reducible apply State.onCore_within
    | with_reducible apply Within.ite
    | with_reducible apply Within.foldl
    | with_reducible apply Within.foldl_fst
    | with_reducible apply Within.of_eq (by with_reducible assumption)
    | intro _
    | split
    | dsimp only

theorem State.slackOp_within {s : State} (c : CoreId) (hW : Within Ps s₀ s) (_ : .cores ∈ Ps) :
    Within Ps s₀ (State.slackOp s c) := by
  unfold State.slackOp
  repeat' first
    | with_reducible assumption
    | with_reducible apply State.onCore_within
    | with_reducible apply Within.ite
    | with_reducible apply Within.foldl
    | with_reducible apply Within.foldl_fst
    | with_reducible apply Within.of_eq (by with_reducible assumption)
    | intro _
    | split
    | dsimp only

theorem State.endstepOp_within {s : State} (c : CoreId) (hW : Within Ps s₀ s) (_ : .cores ∈ Ps) :
    Within Ps s₀ (State.endstepOp s c) := by
  unfold State.endstepOp
  repeat' first
    | with_reducible assumption
    | with_reducible apply State.onCore_within
    | with_reducible apply Within.ite
    | with_reducible apply Within.foldl
    | with_reducible apply Within.foldl_fst
    | with_reducible apply Within.of_eq (by with_reducible assumption)
    | intro _
    | split
    | dsimp only

theorem State.loopOp_within {s : State} (c : CoreId) (n : ℕ) (target : ℕ) (count : ℕ) (i : ℕ) (hW : Within Ps s₀ s) (_ : .cores ∈ Ps) :
    Within Ps s₀ (State.loopOp s c n target count i) := by
  unfold State.loopOp
  repeat' first
    | with_reducible assumption
    | with_reducible apply State.onCore_within
    | with_reducible apply Within.ite
    | with_reducible apply Within.foldl
    | with_reducible apply Within.foldl_fst
    | with_reducible apply Within.of_eq (by with_reducible assumption)
    | intro _
    | split
    | dsimp only

theorem State.setIndex_within {s : State} (c : CoreId) (i : BitVec 10) (hW : Within Ps s₀ s) (_ : .cores ∈ Ps) :
    Within Ps s₀ (State.setIndex s c i) := by
  unfold State.setIndex
  repeat' first
    | with_reducible assumption
    | with_reducible apply State.onCore_within
    | with_reducible apply Within.ite
    | with_reducible apply Within.foldl
    | with_reducible apply Within.foldl_fst
    | with_reducible apply Within.of_eq (by with_reducible assumption)
    | intro _
    | split
    | dsimp only

theorem State.brpOp_within {s : State} (c : CoreId) (target : ℕ) (k : BitVec 3) (pol : Bool) (i : ℕ) (h : How) (hW : Within Ps s₀ s) (_ : .regs ∈ Ps) (_ : .cores ∈ Ps) :
    Within Ps s₀ (State.brpOp s c target k pol i h) := by
  unfold State.brpOp
  repeat' first
    | with_reducible assumption
    | with_reducible apply State.setIndex_within
    | with_reducible apply State.modeFault_within
    | with_reducible apply Within.ite
    | with_reducible apply Within.foldl
    | with_reducible apply Within.foldl_fst
    | with_reducible apply Within.of_eq (by with_reducible assumption)
    | intro _
    | split
    | dsimp only

theorem State.switchOp_within {s : State} (c : CoreId) (t : Token) (h : How) (hW : Within Ps s₀ s) (_ : .regs ∈ Ps) (_ : .cores ∈ Ps) :
    Within Ps s₀ (State.switchOp s c t h) := by
  unfold State.switchOp
  repeat' first
    | with_reducible assumption
    | with_reducible apply State.checkTransit_within
    | with_reducible apply State.onCore_within
    | with_reducible apply State.abandon_within
    | with_reducible apply State.violation_within
    | with_reducible apply State.late_within
    | with_reducible apply Within.ite
    | with_reducible apply Within.foldl
    | with_reducible apply Within.foldl_fst
    | with_reducible apply Within.of_eq (by with_reducible assumption)
    | intro _
    | split
    | dsimp only

theorem State.runM_within {s : State} (c : CoreId) (x : ℕ) (h : How) (hW : Within Ps s₀ s) (_ : .regs ∈ Ps) (_ : .cores ∈ Ps) :
    Within Ps s₀ (State.runM s c x h) := by
  unfold State.runM
  repeat' first
    | with_reducible assumption
    | with_reducible apply State.mOp_within
    | with_reducible apply Within.ite
    | with_reducible apply Within.foldl
    | with_reducible apply Within.foldl_fst
    | with_reducible apply Within.of_eq (by with_reducible assumption)
    | intro _
    | split
    | dsimp only

theorem State.runV_within {s : State} (c : CoreId) (x : ℕ) (hW : Within Ps s₀ s) (_ : .regs ∈ Ps) (_ : .am ∈ Ps) (_ : .tb ∈ Ps) (_ : .cores ∈ Ps) :
    Within Ps s₀ (State.runV s c x) := by
  unfold State.runV
  repeat' first
    | with_reducible assumption
    | with_reducible apply State.vOp_within
    | with_reducible apply Within.ite
    | with_reducible apply Within.foldl
    | with_reducible apply Within.foldl_fst
    | with_reducible apply Within.of_eq (by with_reducible assumption)
    | intro _
    | split
    | dsimp only

theorem State.runX_within {s : State} (c : CoreId) (x : ℕ) (h : How) (hW : Within Ps s₀ s) (_ : .regs ∈ Ps) (_ : .cores ∈ Ps) :
    Within Ps s₀ (State.runX s c x h) := by
  unfold State.runX
  repeat' first
    | with_reducible assumption
    | with_reducible apply State.pred_within
    | with_reducible apply State.scheduled_within
    | with_reducible apply State.moutOp_within
    | with_reducible apply State.minOp_within
    | with_reducible apply State.mredOp_within
    | with_reducible apply State.xissueOp_within
    | with_reducible apply State.msendSlot_within
    | with_reducible apply State.mpopSlot_within
    | with_reducible apply State.credtestOp_within
    | with_reducible apply Within.ite
    | with_reducible apply Within.foldl
    | with_reducible apply Within.foldl_fst
    | with_reducible apply Within.of_eq (by with_reducible assumption)
    | intro _
    | split
    | dsimp only

theorem State.runS_within {s : State} (c : CoreId) (x : ℕ) (h : How) (hW : Within Ps s₀ s) (_ : .regs ∈ Ps) (_ : .cores ∈ Ps) :
    Within Ps s₀ (State.runS s c x h) := by
  unfold State.runS
  repeat' first
    | with_reducible assumption
    | with_reducible apply State.pred_within
    | with_reducible apply State.waitOp_within
    | with_reducible apply State.qtestOp_within
    | with_reducible apply State.semsigOp_within
    | with_reducible apply State.semsigrOp_within
    | with_reducible apply State.semtryOp_within
    | with_reducible apply State.semwaitOp_within
    | with_reducible apply State.writePred_within
    | with_reducible apply State.gongOp_within
    | with_reducible apply State.slackOp_within
    | with_reducible apply State.endstepOp_within
    | with_reducible apply Within.ite
    | with_reducible apply Within.foldl
    | with_reducible apply Within.foldl_fst
    | with_reducible apply Within.of_eq (by with_reducible assumption)
    | intro _
    | split
    | dsimp only

theorem State.runC_within {s : State} (c : CoreId) (x : ℕ) (i : ℕ) (h : How) (hW : Within Ps s₀ s) (_ : .regs ∈ Ps) (_ : .cores ∈ Ps) :
    Within Ps s₀ (State.runC s c x i h) := by
  unfold State.runC
  repeat' first
    | with_reducible assumption
    | with_reducible apply State.loopOp_within
    | with_reducible apply State.setIndex_within
    | with_reducible apply State.brpOp_within
    | with_reducible apply State.switchOp_within
    | with_reducible apply Within.ite
    | with_reducible apply Within.foldl
    | with_reducible apply Within.foldl_fst
    | with_reducible apply Within.of_eq (by with_reducible assumption)
    | intro _
    | split
    | dsimp only

theorem State.startAc_within {s : State} (c : CoreId) (hW : Within Ps s₀ s) (_ : .regs ∈ Ps) (_ : .am ∈ Ps) (_ : .tb ∈ Ps) (_ : .cores ∈ Ps) :
    Within Ps s₀ (State.startAc s c) := by
  unfold State.startAc
  repeat' first
    | with_reducible assumption
    | with_reducible apply State.vresDue_within
    | with_reducible apply State.creditsDue_within
    | with_reducible apply State.semDue_within
    | with_reducible apply Within.ite
    | with_reducible apply Within.foldl
    | with_reducible apply Within.foldl_fst
    | with_reducible apply Within.of_eq (by with_reducible assumption)
    | intro _
    | split
    | dsimp only

theorem State.issue_within {s : State} (c : CoreId) (forced : Bool) (hW : Within Ps s₀ s) (_ : .regs ∈ Ps) (_ : .am ∈ Ps) (_ : .tb ∈ Ps) (_ : .cores ∈ Ps) :
    Within Ps s₀ (State.issue s c forced) := by
  unfold State.issue
  repeat' first
    | with_reducible assumption
    | with_reducible apply State.count_within
    | with_reducible apply State.onCore_within
    | with_reducible apply State.useSlots_within
    | with_reducible apply State.fireTransit_within
    | with_reducible apply State.setIndex_within
    | with_reducible apply State.bundleFault_within
    | with_reducible apply State.runC_within
    | with_reducible apply State.runX_within
    | with_reducible apply State.runV_within
    | with_reducible apply State.runM_within
    | with_reducible apply State.runS_within
    | with_reducible apply Within.ite
    | with_reducible apply Within.foldl
    | with_reducible apply Within.foldl_fst
    | with_reducible apply Within.of_eq (by with_reducible assumption)
    | intro _
    | split
    | dsimp only

theorem State.leftover_within {s : State} (c : CoreId) (q : ℕ) (hW : Within Ps s₀ s) (_ : .regs ∈ Ps) (_ : .cores ∈ Ps) :
    Within Ps s₀ (State.leftover s c q) := by
  unfold State.leftover
  repeat' first
    | with_reducible assumption
    | with_reducible apply State.onCore_within
    | with_reducible apply State.violation_within
    | with_reducible apply Within.ite
    | with_reducible apply Within.foldl
    | with_reducible apply Within.foldl_fst
    | with_reducible apply Within.of_eq (by with_reducible assumption)
    | intro _
    | split
    | dsimp only

theorem State.quiesce_within {s : State} (c : CoreId) (hW : Within Ps s₀ s) (_ : .regs ∈ Ps) (_ : .cores ∈ Ps) :
    Within Ps s₀ (State.quiesce s c) := by
  unfold State.quiesce
  repeat' first
    | with_reducible assumption
    | with_reducible apply State.leftover_within
    | with_reducible apply State.onCore_within
    | with_reducible apply Within.ite
    | with_reducible apply Within.foldl
    | with_reducible apply Within.foldl_fst
    | with_reducible apply Within.of_eq (by with_reducible assumption)
    | intro _
    | split
    | dsimp only

theorem State.csSignal_within {s : State} (c : CoreId) (o : DynOp) (hW : Within Ps s₀ s) (_ : .regs ∈ Ps) (_ : .cores ∈ Ps) :
    Within Ps s₀ (State.csSignal s c o) := by
  unfold State.csSignal
  repeat' first
    | with_reducible assumption
    | with_reducible apply State.semSignal_within
    | with_reducible apply Within.ite
    | with_reducible apply Within.foldl
    | with_reducible apply Within.foldl_fst
    | with_reducible apply Within.of_eq (by with_reducible assumption)
    | intro _
    | split
    | dsimp only

end Sys2Proof.Machine
end

