-- ==== Sys2Proof/Laws/WithinCrossbar.lean ====
section
/-! SUPPORT. What the operations of Machine/Crossbar.lean may change. -/

set_option linter.unusedTactic false
set_option linter.unreachableTactic false
set_option linter.unusedVariables false

namespace Sys2Proof.Machine

variable {Ps : List Part} {s₀ : State}

theorem State.csCe_within {s : State} (d : DieId) (nb : ℕ) (u : ℕ) (hW : Within Ps s₀ s) (_ : .regs ∈ Ps) (_ : .dies ∈ Ps) :
    Within Ps s₀ (State.csCe s d nb u) := by
  unfold State.csCe
  repeat' first
    | with_reducible assumption
    | with_reducible apply State.count_within
    | with_reducible apply State.setPgm_within
    | with_reducible apply Within.ite
    | with_reducible apply Within.foldl
    | with_reducible apply Within.foldl_fst
    | with_reducible apply Within.of_eq (by with_reducible assumption)
    | intro _
    | split
    | dsimp only

theorem State.csRead_within {s : State} (d : DieId) (u : ℕ) (hW : Within Ps s₀ s) (_ : .regs ∈ Ps) (_ : .dies ∈ Ps) :
    Within Ps s₀ (State.csRead s d u).1 := by
  unfold State.csRead
  repeat' first
    | with_reducible assumption
    | with_reducible apply State.csCe_within
    | with_reducible apply State.onDie_within
    | with_reducible apply State.count_within
    | with_reducible apply Within.ite
    | with_reducible apply Within.foldl
    | with_reducible apply Within.foldl_fst
    | with_reducible apply Within.of_eq (by with_reducible assumption)
    | intro _
    | split
    | dsimp only

theorem State.csWrite_within {s : State} (d : DieId) (u : ℕ) (b : List Byte) (p : Bool) (hW : Within Ps s₀ s) (_ : .regs ∈ Ps) (_ : .cs ∈ Ps) :
    Within Ps s₀ (State.csWrite s d u b p) := by
  unfold State.csWrite
  repeat' first
    | with_reducible assumption
    | with_reducible apply State.count_within
    | with_reducible apply State.csUnitSet_within
    | with_reducible apply State.setCsErr_within
    | with_reducible apply Within.ite
    | with_reducible apply Within.foldl
    | with_reducible apply Within.foldl_fst
    | with_reducible apply Within.of_eq (by with_reducible assumption)
    | intro _
    | split
    | dsimp only

theorem State.xbFault_within {s : State} (d : DieId) (bit : ℕ) (hW : Within Ps s₀ s) (_ : .regs ∈ Ps) :
    Within Ps s₀ (State.xbFault s d bit) := by
  unfold State.xbFault
  repeat' first
    | with_reducible assumption
    | with_reducible apply State.raise_within
    | with_reducible apply Within.ite
    | with_reducible apply Within.foldl
    | with_reducible apply Within.foldl_fst
    | with_reducible apply Within.of_eq (by with_reducible assumption)
    | intro _
    | split
    | dsimp only

theorem State.sliceBusy_within {s : State} (d : DieId) (sl : ℕ) (hW : Within Ps s₀ s) (_ : .dies ∈ Ps) :
    Within Ps s₀ (State.sliceBusy s d sl) := by
  unfold State.sliceBusy
  repeat' first
    | with_reducible assumption
    | with_reducible apply State.onDie_within
    | with_reducible apply Within.ite
    | with_reducible apply Within.foldl
    | with_reducible apply Within.foldl_fst
    | with_reducible apply Within.of_eq (by with_reducible assumption)
    | intro _
    | split
    | dsimp only

theorem State.sliceTake_within {s : State} (d : DieId) (sl : ℕ) (bg : Bool) (hW : Within Ps s₀ s) (_ : .dies ∈ Ps) :
    Within Ps s₀ (State.sliceTake s d sl bg).1 := by
  unfold State.sliceTake
  repeat' first
    | with_reducible assumption
    | with_reducible apply State.onDie_within
    | with_reducible apply State.sliceBusy_within
    | with_reducible apply Within.ite
    | with_reducible apply Within.foldl
    | with_reducible apply Within.foldl_fst
    | with_reducible apply Within.of_eq (by with_reducible assumption)
    | intro _
    | split
    | dsimp only

theorem State.unitBack_within {s : State} (r : XReq) (l : Line) (p : Bool) (hW : Within Ps s₀ s) (_ : .cores ∈ Ps) :
    Within Ps s₀ (State.unitBack s r l p) := by
  unfold State.unitBack
  repeat' first
    | with_reducible assumption
    | with_reducible apply State.onCore_within
    | with_reducible apply Within.ite
    | with_reducible apply Within.foldl
    | with_reducible apply Within.foldl_fst
    | with_reducible apply Within.of_eq (by with_reducible assumption)
    | intro _
    | split
    | dsimp only

theorem State.sliceServe_within {s : State} (d : DieId) (sl : ℕ) (hW : Within Ps s₀ s) (_ : .regs ∈ Ps) (_ : .cs ∈ Ps) (_ : .cores ∈ Ps) (_ : .dies ∈ Ps) :
    Within Ps s₀ (State.sliceServe s d sl) := by
  unfold State.sliceServe
  repeat' first
    | with_reducible assumption
    | with_reducible apply State.sliceBusy_within
    | with_reducible apply State.csWrite_within
    | with_reducible apply State.csRead_within
    | with_reducible apply State.unitBack_within
    | with_reducible apply State.onDie_within
    | with_reducible apply State.opFinish_within
    | with_reducible apply Within.ite
    | with_reducible apply Within.foldl
    | with_reducible apply Within.foldl_fst
    | with_reducible apply Within.of_eq (by with_reducible assumption)
    | intro _
    | split
    | dsimp only

theorem State.slices_within {s : State} (d : DieId) (hW : Within Ps s₀ s) (_ : .regs ∈ Ps) (_ : .cs ∈ Ps) (_ : .cores ∈ Ps) (_ : .dies ∈ Ps) :
    Within Ps s₀ (State.slices s d) := by
  unfold State.slices
  repeat' first
    | with_reducible assumption
    | with_reducible apply State.sliceServe_within
    | with_reducible apply Within.ite
    | with_reducible apply Within.foldl
    | with_reducible apply Within.foldl_fst
    | with_reducible apply Within.of_eq (by with_reducible assumption)
    | intro _
    | split
    | dsimp only

theorem State.unitFill_within {s : State} (c : CoreId) (n : ℕ) (k : ℕ) (b : List Byte) (p : Bool) (hW : Within Ps s₀ s) (_ : .dies ∈ Ps) :
    Within Ps s₀ (State.unitFill s c n k b p) := by
  unfold State.unitFill
  repeat' first
    | with_reducible assumption
    | with_reducible apply State.onDie_within
    | with_reducible apply Within.ite
    | with_reducible apply Within.foldl
    | with_reducible apply Within.foldl_fst
    | with_reducible apply Within.of_eq (by with_reducible assumption)
    | intro _
    | split
    | dsimp only

theorem State.xSend_within {s : State} (c : CoreId) (o : DynOp) (write : Bool) (hW : Within Ps s₀ s) (_ : .dies ∈ Ps) :
    Within Ps s₀ (State.xSend s c o write) := by
  unfold State.xSend
  repeat' first
    | with_reducible assumption
    | with_reducible apply State.onDie_within
    | with_reducible apply Within.ite
    | with_reducible apply Within.foldl
    | with_reducible apply Within.foldl_fst
    | with_reducible apply Within.of_eq (by with_reducible assumption)
    | intro _
    | split
    | dsimp only

theorem State.csUnitPut_within {s : State} (c : CoreId) (r : CsReq) (a : ℕ) (x : Line × Bool × ℕ) (hW : Within Ps s₀ s) (_ : .cores ∈ Ps) :
    Within Ps s₀ (State.csUnitPut s c r a x) := by
  unfold State.csUnitPut
  repeat' first
    | with_reducible assumption
    | with_reducible apply State.addTimed_within
    | with_reducible apply State.opFinish_within
    | with_reducible apply State.onCore_within
    | with_reducible apply Within.ite
    | with_reducible apply Within.foldl
    | with_reducible apply Within.foldl_fst
    | with_reducible apply Within.of_eq (by with_reducible assumption)
    | intro _
    | split
    | dsimp only

end Sys2Proof.Machine
end

