-- ==== Sys2Proof/Laws/WithinPager.lean ====
section
/-! SUPPORT. What the operations of Machine/Pager.lean may change. -/

set_option linter.unusedTactic false
set_option linter.unreachableTactic false
set_option linter.unusedVariables false

namespace Sys2Proof.Machine

variable {Ps : List Part} {s₀ : State}

theorem State.onPgm_within {s : State} (d : DieId) (f : Pgm → Pgm) (hW : Within Ps s₀ s) (_ : .dies ∈ Ps) :
    Within Ps s₀ (State.onPgm s d f) := by
  unfold State.onPgm
  repeat' first
    | with_reducible assumption
    | with_reducible apply State.setPgm_within
    | with_reducible apply Within.ite
    | with_reducible apply Within.foldl
    | with_reducible apply Within.foldl_fst
    | with_reducible apply Within.of_eq (by with_reducible assumption)
    | intro _
    | split
    | dsimp only

theorem State.setEntry_within {s : State} (d : DieId) (f : ℕ) (k : ℕ) (g : ℕ) (hW : Within Ps s₀ s) (_ : .regs ∈ Ps) (_ : .cs ∈ Ps) (_ : .dies ∈ Ps) :
    Within Ps s₀ (State.setEntry s d f k g) := by
  unfold State.setEntry
  repeat' first
    | with_reducible assumption
    | with_reducible apply State.onPgm_within
    | with_reducible apply State.csSet_within
    | with_reducible apply State.count_within
    | with_reducible apply Within.ite
    | with_reducible apply Within.foldl
    | with_reducible apply Within.foldl_fst
    | with_reducible apply Within.of_eq (by with_reducible assumption)
    | intro _
    | split
    | dsimp only

theorem State.setSeq_within {s : State} (d : DieId) (i : ℕ) (e : Word64) (hW : Within Ps s₀ s) (_ : .dies ∈ Ps) :
    Within Ps s₀ (State.setSeq s d i e) := by
  unfold State.setSeq
  repeat' first
    | with_reducible assumption
    | with_reducible apply State.onPgm_within
    | with_reducible apply Within.ite
    | with_reducible apply Within.foldl
    | with_reducible apply Within.foldl_fst
    | with_reducible apply Within.of_eq (by with_reducible assumption)
    | intro _
    | split
    | dsimp only

theorem State.readEntry_within {s : State} (d : DieId) (f : ℕ) (k : ℕ) (hW : Within Ps s₀ s) (_ : .regs ∈ Ps) (_ : .dies ∈ Ps) :
    Within Ps s₀ (State.readEntry s d f k) := by
  unfold State.readEntry
  repeat' first
    | with_reducible assumption
    | with_reducible apply State.csRead_within
    | with_reducible apply Within.ite
    | with_reducible apply Within.foldl
    | with_reducible apply Within.foldl_fst
    | with_reducible apply Within.of_eq (by with_reducible assumption)
    | intro _
    | split
    | dsimp only

theorem State.readPage_within {s : State} (d : DieId) (e : ℕ) (i : ℕ) (hW : Within Ps s₀ s) (_ : .regs ∈ Ps) (_ : .dies ∈ Ps) :
    Within Ps s₀ (State.readPage s d e i) := by
  unfold State.readPage
  repeat' first
    | with_reducible assumption
    | with_reducible apply State.readEntry_within
    | with_reducible apply Within.ite
    | with_reducible apply Within.foldl
    | with_reducible apply Within.foldl_fst
    | with_reducible apply Within.of_eq (by with_reducible assumption)
    | intro _
    | split
    | dsimp only

theorem State.readPages_within {s : State} (d : DieId) (e : ℕ) (is : List ℕ) (hW : Within Ps s₀ s) (_ : .regs ∈ Ps) (_ : .dies ∈ Ps) :
    Within Ps s₀ (State.readPages s d e is) := by
  unfold State.readPages
  repeat' first
    | with_reducible assumption
    | with_reducible apply State.readPage_within
    | with_reducible apply Within.ite
    | with_reducible apply Within.foldl
    | with_reducible apply Within.foldl_fst
    | with_reducible apply Within.of_eq (by with_reducible assumption)
    | intro _
    | split
    | dsimp only

theorem State.zeroFrame_within {s : State} (d : DieId) (f : ℕ) (hW : Within Ps s₀ s) (_ : .regs ∈ Ps) (_ : .cs ∈ Ps) :
    Within Ps s₀ (State.zeroFrame s d f) := by
  unfold State.zeroFrame
  repeat' first
    | with_reducible assumption
    | with_reducible apply State.csWrite_within
    | with_reducible apply Within.ite
    | with_reducible apply Within.foldl
    | with_reducible apply Within.foldl_fst
    | with_reducible apply Within.of_eq (by with_reducible assumption)
    | intro _
    | split
    | dsimp only

theorem State.allocFrame_within {s : State} (d : DieId) (list : Bool) (hW : Within Ps s₀ s) (_ : .regs ∈ Ps) (_ : .cs ∈ Ps) (_ : .dies ∈ Ps) :
    Within Ps s₀ (State.allocFrame s d list).1 := by
  unfold State.allocFrame
  repeat' first
    | with_reducible assumption
    | with_reducible apply State.setPgm_within
    | with_reducible apply State.zeroFrame_within
    | with_reducible apply Within.ite
    | with_reducible apply Within.foldl
    | with_reducible apply Within.foldl_fst
    | with_reducible apply Within.of_eq (by with_reducible assumption)
    | intro _
    | split
    | dsimp only

theorem State.pgmResult_within {s : State} (d : DieId) (w : Word64) (status : ℕ) (copied : Bool) (frame : ℕ) (hW : Within Ps s₀ s) (_ : .regs ∈ Ps) (_ : .dies ∈ Ps) :
    Within Ps s₀ (State.pgmResult s d w status copied frame) := by
  unfold State.pgmResult
  repeat' first
    | with_reducible assumption
    | with_reducible apply State.count_within
    | with_reducible apply State.onPgm_within
    | with_reducible apply State.orReg_within
    | with_reducible apply Within.ite
    | with_reducible apply Within.foldl
    | with_reducible apply Within.foldl_fst
    | with_reducible apply Within.of_eq (by with_reducible assumption)
    | intro _
    | split
    | dsimp only

theorem State.pgmRun_within {s : State} (d : DieId) (ok : Nat → Bool) (f : State → Word64 → PgmOut) (h : Within Ps s₀ s)
    (_ : .regs ∈ Ps) (_ : .dies ∈ Ps) (hf : ∀ s w t x, f s w = .ok (t, x) → Within Ps s₀ s → Within Ps s₀ t) :
    Within Ps s₀ (s.pgmRun d ok f) := by
  unfold State.pgmRun
  split
  · assumption
  · split
    · assumption
    · have h1 := State.onPgm_within (s := s) d (fun p => { p with cmds := p.cmds.tail }) h ‹_›
      dsimp only
      split
      · rename_i e
        exact State.pgmResult_within _ _ _ _ _ (hf _ _ _ _ e h1) ‹_› ‹_›
      · exact State.pgmResult_within _ _ _ _ _ (State.raise_within _ _ _ h1 ‹_›) ‹_› ‹_›

theorem State.pgmMark_within {s : State} (d : DieId) (hW : Within Ps s₀ s) (_ : .dies ∈ Ps) :
    Within Ps s₀ (State.pgmMark s d) := by
  unfold State.pgmMark
  repeat' first
    | with_reducible assumption
    | with_reducible apply State.onPgm_within
    | with_reducible apply Within.ite
    | with_reducible apply Within.foldl
    | with_reducible apply Within.foldl_fst
    | with_reducible apply Within.of_eq (by with_reducible assumption)
    | intro _
    | split
    | dsimp only

theorem State.pgmOpen_within {s t : State} {x : Bool × Nat} {d : DieId} {w : Word64} (e : State.pgmOpen s d w = .ok (t, x)) (h : Within Ps s₀ s) (_ : .regs ∈ Ps) (_ : .cs ∈ Ps) (_ : .dies ∈ Ps) :
    Within Ps s₀ t := by
  unfold State.pgmOpen at e
  try dsimp only at e
  repeat' first
    | contradiction
    | (cases e; skip)
    | split at e
  all_goals
    repeat' first
      | with_reducible assumption
      | with_reducible apply State.allocFrame_within
      | with_reducible apply State.pgmMark_within
      | with_reducible apply State.setSeq_within
      | with_reducible apply Within.ite
      | with_reducible apply Within.foldl
      | with_reducible apply Within.foldl_fst
      | with_reducible apply Within.of_eq (by with_reducible assumption)
      | intro _
      | split
      | dsimp only

theorem State.appendPage_within {s : State} (d : DieId) (root : ℕ) (i : ℕ) (hW : Within Ps s₀ s) (_ : .regs ∈ Ps) (_ : .cs ∈ Ps) (_ : .dies ∈ Ps) :
    Within Ps s₀ (State.appendPage s d root i).1 := by
  unfold State.appendPage
  repeat' first
    | with_reducible assumption
    | with_reducible apply State.allocFrame_within
    | with_reducible apply State.setEntry_within
    | with_reducible apply State.readEntry_within
    | with_reducible apply Within.ite
    | with_reducible apply Within.foldl
    | with_reducible apply Within.foldl_fst
    | with_reducible apply Within.of_eq (by with_reducible assumption)
    | intro _
    | split
    | dsimp only

theorem State.pgmAppend_within {s t : State} {x : Bool × Nat} {d : DieId} {w : Word64} (e : State.pgmAppend s d w = .ok (t, x)) (h : Within Ps s₀ s) (_ : .regs ∈ Ps) (_ : .cs ∈ Ps) (_ : .dies ∈ Ps) :
    Within Ps s₀ t := by
  unfold State.pgmAppend at e
  try dsimp only at e
  repeat' first
    | contradiction
    | (cases e; skip)
    | split at e
  all_goals
    repeat' first
      | with_reducible assumption
      | with_reducible apply State.appendPage_within
      | with_reducible apply State.pgmMark_within
      | with_reducible apply State.setSeq_within
      | with_reducible apply Within.ite
      | with_reducible apply Within.foldl
      | with_reducible apply Within.foldl_fst
      | with_reducible apply Within.of_eq (by with_reducible assumption)
      | intro _
      | split
      | dsimp only

theorem State.pgmShare_within {s t : State} {x : Bool × Nat} {d : DieId} {w : Word64} (e : State.pgmShare s d w = .ok (t, x)) (h : Within Ps s₀ s) (_ : .regs ∈ Ps) (_ : .cs ∈ Ps) (_ : .dies ∈ Ps) :
    Within Ps s₀ t := by
  unfold State.pgmShare at e
  try dsimp only at e
  repeat' first
    | contradiction
    | (cases e; skip)
    | split at e
  all_goals
    repeat' first
      | with_reducible assumption
      | with_reducible apply State.allocFrame_within
      | with_reducible apply State.setEntry_within
      | with_reducible apply State.readPages_within
      | with_reducible apply State.pgmMark_within
      | with_reducible apply State.onPgm_within
      | with_reducible apply State.setSeq_within
      | with_reducible apply Within.ite
      | with_reducible apply Within.foldl
      | with_reducible apply Within.foldl_fst
      | with_reducible apply Within.of_eq (by with_reducible assumption)
      | intro _
      | split
      | dsimp only

theorem State.copyFrame_within {s : State} (d : DieId) (f : ℕ) (g : ℕ) (hW : Within Ps s₀ s) (_ : .regs ∈ Ps) (_ : .cs ∈ Ps) (_ : .dies ∈ Ps) :
    Within Ps s₀ (State.copyFrame s d f g) := by
  unfold State.copyFrame
  repeat' first
    | with_reducible assumption
    | with_reducible apply State.csRead_within
    | with_reducible apply State.csWrite_within
    | with_reducible apply Within.ite
    | with_reducible apply Within.foldl
    | with_reducible apply Within.foldl_fst
    | with_reducible apply Within.of_eq (by with_reducible assumption)
    | intro _
    | split
    | dsimp only

theorem State.pgmCow_within {s t : State} {x : Bool × Nat} {d : DieId} {w : Word64} (e : State.pgmCow s d w = .ok (t, x)) (h : Within Ps s₀ s) (_ : .regs ∈ Ps) (_ : .cs ∈ Ps) (_ : .dies ∈ Ps) :
    Within Ps s₀ t := by
  unfold State.pgmCow at e
  try dsimp only at e
  repeat' first
    | contradiction
    | (cases e; skip)
    | split at e
  all_goals
    repeat' first
      | with_reducible assumption
      | with_reducible apply State.readPage_within
      | with_reducible apply State.pgmMark_within
      | with_reducible apply State.allocFrame_within
      | with_reducible apply State.setEntry_within
      | with_reducible apply State.copyFrame_within
      | with_reducible apply State.onPgm_within
      | with_reducible apply Within.ite
      | with_reducible apply Within.foldl
      | with_reducible apply Within.foldl_fst
      | with_reducible apply Within.of_eq (by with_reducible assumption)
      | intro _
      | split
      | dsimp only

theorem State.freeAll_within {s : State} (d : DieId) (fs : List ℕ) (hW : Within Ps s₀ s) (_ : .dies ∈ Ps) :
    Within Ps s₀ (State.freeAll s d fs) := by
  unfold State.freeAll
  repeat' first
    | with_reducible assumption
    | with_reducible apply State.onPgm_within
    | with_reducible apply Within.ite
    | with_reducible apply Within.foldl
    | with_reducible apply Within.foldl_fst
    | with_reducible apply Within.of_eq (by with_reducible assumption)
    | intro _
    | split
    | dsimp only

theorem State.pgmTrunc_within {s t : State} {x : Bool × Nat} {d : DieId} {w : Word64} (e : State.pgmTrunc s d w = .ok (t, x)) (h : Within Ps s₀ s) (_ : .regs ∈ Ps) (_ : .dies ∈ Ps) :
    Within Ps s₀ t := by
  unfold State.pgmTrunc at e
  try dsimp only at e
  repeat' first
    | contradiction
    | (cases e; skip)
    | split at e
  all_goals
    repeat' first
      | with_reducible assumption
      | with_reducible apply State.freeAll_within
      | with_reducible apply State.readPages_within
      | with_reducible apply State.setSeq_within
      | with_reducible apply State.pgmMark_within
      | with_reducible apply Within.ite
      | with_reducible apply Within.foldl
      | with_reducible apply Within.foldl_fst
      | with_reducible apply Within.of_eq (by with_reducible assumption)
      | intro _
      | split
      | dsimp only

theorem State.pgmClose_within {s t : State} {x : Bool × Nat} {d : DieId} {w : Word64} (e : State.pgmClose s d w = .ok (t, x)) (h : Within Ps s₀ s) (_ : .regs ∈ Ps) (_ : .dies ∈ Ps) :
    Within Ps s₀ t := by
  unfold State.pgmClose at e
  try dsimp only at e
  repeat' first
    | contradiction
    | (cases e; skip)
    | split at e
  all_goals
    repeat' first
      | with_reducible assumption
      | with_reducible apply State.freeAll_within
      | with_reducible apply State.readPages_within
      | with_reducible apply State.setSeq_within
      | with_reducible apply State.pgmMark_within
      | with_reducible apply Within.ite
      | with_reducible apply Within.foldl
      | with_reducible apply Within.foldl_fst
      | with_reducible apply Within.of_eq (by with_reducible assumption)
      | intro _
      | split
      | dsimp only

theorem State.pgmIncref_within {s t : State} {x : Bool × Nat} {d : DieId} {w : Word64} (e : State.pgmIncref s d w = .ok (t, x)) (h : Within Ps s₀ s) (_ : .dies ∈ Ps) :
    Within Ps s₀ t := by
  unfold State.pgmIncref at e
  try dsimp only at e
  repeat' first
    | contradiction
    | (cases e; skip)
    | split at e
  all_goals
    repeat' first
      | with_reducible assumption
      | with_reducible apply State.onPgm_within
      | with_reducible apply State.pgmMark_within
      | with_reducible apply Within.ite
      | with_reducible apply Within.foldl
      | with_reducible apply Within.foldl_fst
      | with_reducible apply Within.of_eq (by with_reducible assumption)
      | intro _
      | split
      | dsimp only

theorem State.pgmDecref_within {s t : State} {x : Bool × Nat} {d : DieId} {w : Word64} (e : State.pgmDecref s d w = .ok (t, x)) (h : Within Ps s₀ s) (_ : .dies ∈ Ps) :
    Within Ps s₀ t := by
  unfold State.pgmDecref at e
  try dsimp only at e
  repeat' first
    | contradiction
    | (cases e; skip)
    | split at e
  all_goals
    repeat' first
      | with_reducible assumption
      | with_reducible apply State.onPgm_within
      | with_reducible apply State.pgmMark_within
      | with_reducible apply Within.ite
      | with_reducible apply Within.foldl
      | with_reducible apply Within.foldl_fst
      | with_reducible apply Within.of_eq (by with_reducible assumption)
      | intro _
      | split
      | dsimp only

theorem State.undo_within {s : State} (d : DieId) (j : JRec) (hW : Within Ps s₀ s) (_ : .regs ∈ Ps) (_ : .cs ∈ Ps) (_ : .dies ∈ Ps) :
    Within Ps s₀ (State.undo s d j) := by
  unfold State.undo
  repeat' first
    | with_reducible assumption
    | with_reducible apply State.onPgm_within
    | with_reducible apply State.csSet_within
    | with_reducible apply State.count_within
    | with_reducible apply Within.ite
    | with_reducible apply Within.foldl
    | with_reducible apply Within.foldl_fst
    | with_reducible apply Within.of_eq (by with_reducible assumption)
    | intro _
    | split
    | dsimp only

theorem State.rollbackPgm_within {s : State} (d : DieId) (hW : Within Ps s₀ s) (_ : .regs ∈ Ps) (_ : .cs ∈ Ps) (_ : .dies ∈ Ps) :
    Within Ps s₀ (State.rollbackPgm s d) := by
  unfold State.rollbackPgm
  repeat' first
    | with_reducible assumption
    | with_reducible apply State.onPgm_within
    | with_reducible apply State.undo_within
    | with_reducible apply Within.ite
    | with_reducible apply Within.foldl
    | with_reducible apply Within.foldl_fst
    | with_reducible apply Within.of_eq (by with_reducible assumption)
    | intro _
    | split
    | dsimp only

theorem State.pgmInitReq_within {s : State} (d : DieId) (hW : Within Ps s₀ s) (_ : .regs ∈ Ps) (_ : .dies ∈ Ps) :
    Within Ps s₀ (State.pgmInitReq s d) := by
  unfold State.pgmInitReq
  repeat' first
    | with_reducible assumption
    | with_reducible apply State.raise_within
    | with_reducible apply State.orReg_within
    | with_reducible apply State.onPgm_within
    | with_reducible apply Within.ite
    | with_reducible apply Within.foldl
    | with_reducible apply Within.foldl_fst
    | with_reducible apply Within.of_eq (by with_reducible assumption)
    | intro _
    | split
    | dsimp only

theorem State.pgmPopResult_within {s : State} (d : DieId) (hW : Within Ps s₀ s) (_ : .dies ∈ Ps) :
    Within Ps s₀ (State.pgmPopResult s d) := by
  unfold State.pgmPopResult
  repeat' first
    | with_reducible assumption
    | with_reducible apply State.onPgm_within
    | with_reducible apply Within.ite
    | with_reducible apply Within.foldl
    | with_reducible apply Within.foldl_fst
    | with_reducible apply Within.of_eq (by with_reducible assumption)
    | intro _
    | split
    | dsimp only

theorem State.pgmPopCe_within {s : State} (d : DieId) (hW : Within Ps s₀ s) (_ : .dies ∈ Ps) :
    Within Ps s₀ (State.pgmPopCe s d) := by
  unfold State.pgmPopCe
  repeat' first
    | with_reducible assumption
    | with_reducible apply State.onPgm_within
    | with_reducible apply Within.ite
    | with_reducible apply Within.foldl
    | with_reducible apply Within.foldl_fst
    | with_reducible apply Within.of_eq (by with_reducible assumption)
    | intro _
    | split
    | dsimp only

theorem State.pgmPush_within {s : State} (d : DieId) (w : Word64) (hW : Within Ps s₀ s) (_ : .regs ∈ Ps) (_ : .dies ∈ Ps) :
    Within Ps s₀ (State.pgmPush s d w) := by
  unfold State.pgmPush
  repeat' first
    | with_reducible assumption
    | with_reducible apply State.raise_within
    | with_reducible apply State.onPgm_within
    | with_reducible apply Within.ite
    | with_reducible apply Within.foldl
    | with_reducible apply Within.foldl_fst
    | with_reducible apply Within.of_eq (by with_reducible assumption)
    | intro _
    | split
    | dsimp only

end Sys2Proof.Machine
end

