-- ==== Sys2Proof/Laws/WithinDma.lean ====
section
/-! SUPPORT. What the operations of Machine/Dma.lean may change. -/

set_option linter.unusedTactic false
set_option linter.unreachableTactic false
set_option linter.unusedVariables false

namespace Sys2Proof.Machine

variable {Ps : List Part} {s₀ : State}

theorem State.onDma_within {s : State} (c : CoreId) (ch : Chan) (f : Dma → Dma) (hW : Within Ps s₀ s) (_ : .cores ∈ Ps) :
    Within Ps s₀ (State.onDma s c ch f) := by
  unfold State.onDma
  repeat' first
    | with_reducible assumption
    | with_reducible apply State.onCore_within
    | with_reducible apply Within.ite
    | with_reducible apply Within.foldl
    | with_reducible apply Within.foldl_fst
    | with_reducible apply Within.of_eq (by with_reducible assumption)
    | intro _
    | split
    | dsimp only

theorem State.dmaFault_within {s : State} (c : CoreId) (ch : Chan) (code : ℕ) (idx : ℕ) (k0 : ℕ) (hW : Within Ps s₀ s) (_ : .regs ∈ Ps) :
    Within Ps s₀ (State.dmaFault s c ch code idx k0) := by
  unfold State.dmaFault
  repeat' first
    | with_reducible assumption
    | with_reducible apply State.setReg_within
    | with_reducible apply State.raise_within
    | with_reducible apply Within.ite
    | with_reducible apply Within.foldl
    | with_reducible apply Within.foldl_fst
    | with_reducible apply Within.of_eq (by with_reducible assumption)
    | intro _
    | split
    | dsimp only

theorem State.dmaIrq_within {s : State} (c : CoreId) (hW : Within Ps s₀ s) (_ : .regs ∈ Ps) :
    Within Ps s₀ (State.dmaIrq s c) := by
  unfold State.dmaIrq
  repeat' first
    | with_reducible assumption
    | with_reducible apply State.orReg_within
    | with_reducible apply Within.ite
    | with_reducible apply Within.foldl
    | with_reducible apply Within.foldl_fst
    | with_reducible apply Within.of_eq (by with_reducible assumption)
    | intro _
    | split
    | dsimp only

theorem State.jobEnd_within {s : State} (c : CoreId) (at_ : ℕ) (poison : Bool) (hW : Within Ps s₀ s) (_ : .cores ∈ Ps) :
    Within Ps s₀ (State.jobEnd s c at_ poison) := by
  unfold State.jobEnd
  repeat' first
    | with_reducible assumption
    | with_reducible apply State.onDma_within
    | with_reducible apply State.opFinish_within
    | with_reducible apply Within.ite
    | with_reducible apply Within.foldl
    | with_reducible apply Within.foldl_fst
    | with_reducible apply Within.of_eq (by with_reducible assumption)
    | intro _
    | split
    | dsimp only

theorem State.qIdle_within {s : State} (c : CoreId) (hW : Within Ps s₀ s) (_ : .regs ∈ Ps) (_ : .cores ∈ Ps) :
    Within Ps s₀ (State.qIdle s c) := by
  unfold State.qIdle
  repeat' first
    | with_reducible assumption
    | with_reducible apply State.setFld_within
    | with_reducible apply State.onDma_within
    | with_reducible apply Within.ite
    | with_reducible apply Within.foldl
    | with_reducible apply Within.foldl_fst
    | with_reducible apply Within.of_eq (by with_reducible assumption)
    | intro _
    | split
    | dsimp only

theorem State.dmaAbort_within {s : State} (c : CoreId) (ch : Chan) (hW : Within Ps s₀ s) (_ : .regs ∈ Ps) (_ : .cores ∈ Ps) :
    Within Ps s₀ (State.dmaAbort s c ch) := by
  unfold State.dmaAbort
  repeat' first
    | with_reducible assumption
    | with_reducible apply State.raise_within
    | with_reducible apply State.jobEnd_within
    | with_reducible apply State.dmaIrq_within
    | with_reducible apply State.qIdle_within
    | with_reducible apply Within.ite
    | with_reducible apply Within.foldl
    | with_reducible apply Within.foldl_fst
    | with_reducible apply Within.of_eq (by with_reducible assumption)
    | intro _
    | split
    | dsimp only

theorem State.dmaFetch_within {s : State} (c : CoreId) (ch : Chan) (op : ℕ) (hW : Within Ps s₀ s) (_ : .regs ∈ Ps) (_ : .cores ∈ Ps) :
    Within Ps s₀ (State.dmaFetch s c ch op) := by
  unfold State.dmaFetch
  repeat' first
    | with_reducible assumption
    | with_reducible apply State.dmaAbort_within
    | with_reducible apply State.dmaFault_within
    | with_reducible apply State.onDma_within
    | with_reducible apply Within.ite
    | with_reducible apply Within.foldl
    | with_reducible apply Within.foldl_fst
    | with_reducible apply Within.of_eq (by with_reducible assumption)
    | intro _
    | split
    | dsimp only

theorem State.readPlace_within {s : State} (c : CoreId) (p : Place) (n : ℕ) (hW : Within Ps s₀ s) (_ : .regs ∈ Ps) (_ : .am ∈ Ps) (_ : .cores ∈ Ps) (_ : .dies ∈ Ps) :
    Within Ps s₀ (State.readPlace s c p n).1 := by
  unfold State.readPlace
  repeat' first
    | with_reducible assumption
    | with_reducible apply State.amRead_within
    | with_reducible apply State.wsReadWords_within
    | with_reducible apply State.csRead_within
    | with_reducible apply Within.ite
    | with_reducible apply Within.foldl
    | with_reducible apply Within.foldl_fst
    | with_reducible apply Within.of_eq (by with_reducible assumption)
    | intro _
    | split
    | dsimp only

theorem State.writePlace_within {s : State} (c : CoreId) (ch : Chan) (p : Place) (lat : ℕ) (b : List Byte) (q : Bool) (hW : Within Ps s₀ s) (_ : .regs ∈ Ps) (_ : .cs ∈ Ps) (_ : .cores ∈ Ps) :
    Within Ps s₀ (State.writePlace s c ch p lat b q) := by
  unfold State.writePlace
  repeat' first
    | with_reducible assumption
    | with_reducible apply State.onCore_within
    | with_reducible apply State.onDma_within
    | with_reducible apply State.raise_within
    | with_reducible apply State.csWrite_within
    | with_reducible apply Within.ite
    | with_reducible apply Within.foldl
    | with_reducible apply Within.foldl_fst
    | with_reducible apply Within.of_eq (by with_reducible assumption)
    | intro _
    | split
    | dsimp only

theorem State.poisonRest_within {s : State} (c : CoreId) (x : ℕ) (pos : ℕ) (hW : Within Ps s₀ s) (_ : .am ∈ Ps) :
    Within Ps s₀ (State.poisonRest s c x pos) := by
  unfold State.poisonRest
  repeat' first
    | with_reducible assumption
    | with_reducible apply State.poisonLines_within
    | with_reducible apply Within.ite
    | with_reducible apply Within.foldl
    | with_reducible apply Within.foldl_fst
    | with_reducible apply Within.of_eq (by with_reducible assumption)
    | intro _
    | split
    | dsimp only

theorem State.walkFault_within {s : State} (c : CoreId) (cls : ℕ) (seq : ℕ) (hW : Within Ps s₀ s) (_ : .regs ∈ Ps) :
    Within Ps s₀ (State.walkFault s c cls seq) := by
  unfold State.walkFault
  repeat' first
    | with_reducible assumption
    | with_reducible apply State.setReg_within
    | with_reducible apply State.raise_within
    | with_reducible apply Within.ite
    | with_reducible apply Within.foldl
    | with_reducible apply Within.foldl_fst
    | with_reducible apply Within.of_eq (by with_reducible assumption)
    | intro _
    | split
    | dsimp only

theorem State.chunkFault_within {s : State} (c : CoreId) (ch : Chan) (e : ChunkErr) (hW : Within Ps s₀ s) (_ : .regs ∈ Ps) (_ : .am ∈ Ps) (_ : .cores ∈ Ps) :
    Within Ps s₀ (State.chunkFault s c ch e) := by
  unfold State.chunkFault
  repeat' first
    | with_reducible assumption
    | with_reducible apply State.dmaFault_within
    | with_reducible apply State.walkFault_within
    | with_reducible apply State.dmaAbort_within
    | with_reducible apply State.poisonRest_within
    | with_reducible apply Within.ite
    | with_reducible apply Within.foldl
    | with_reducible apply Within.foldl_fst
    | with_reducible apply Within.of_eq (by with_reducible assumption)
    | intro _
    | split
    | dsimp only

theorem State.chunkDone_within {s : State} (c : CoreId) (ch : Chan) (last : ℕ) (poison : Bool) (stop : Bool) (hW : Within Ps s₀ s) (_ : .regs ∈ Ps) (_ : .cores ∈ Ps) :
    Within Ps s₀ (State.chunkDone s c ch last poison stop) := by
  unfold State.chunkDone
  repeat' first
    | with_reducible assumption
    | with_reducible apply State.count_within
    | with_reducible apply State.onDma_within
    | with_reducible apply Within.ite
    | with_reducible apply Within.foldl
    | with_reducible apply Within.foldl_fst
    | with_reducible apply Within.of_eq (by with_reducible assumption)
    | intro _
    | split
    | dsimp only

theorem State.access_within {s : State} (c : CoreId) (ch : Chan) (mask : ℕ) (slice : Option ℕ) (hW : Within Ps s₀ s) (_ : .cores ∈ Ps) (_ : .dies ∈ Ps) :
    Within Ps s₀ (State.access s c ch mask slice).1 := by
  unfold State.access
  repeat' first
    | with_reducible assumption
    | with_reducible apply State.sliceTake_within
    | with_reducible apply State.onDma_within
    | with_reducible apply State.claimDyn_within
    | with_reducible apply Within.ite
    | with_reducible apply Within.foldl
    | with_reducible apply Within.foldl_fst
    | with_reducible apply Within.of_eq (by with_reducible assumption)
    | intro _
    | split
    | dsimp only

theorem State.compareDone_within {s : State} (c : CoreId) (ch : Chan) (last : ℕ) (b : List Byte) (e : List Byte) (p : Bool) (hW : Within Ps s₀ s) (_ : .regs ∈ Ps) (_ : .cores ∈ Ps) :
    Within Ps s₀ (State.compareDone s c ch last b e p) := by
  unfold State.compareDone
  repeat' first
    | with_reducible assumption
    | with_reducible apply State.chunkDone_within
    | with_reducible apply State.onDma_within
    | with_reducible apply Within.ite
    | with_reducible apply Within.foldl
    | with_reducible apply Within.foldl_fst
    | with_reducible apply Within.of_eq (by with_reducible assumption)
    | intro _
    | split
    | dsimp only

theorem State.chunkSecond_within {s : State} (c : CoreId) (ch : Chan) (x : ℕ) (src : Place) (dst : Place) (b : List Byte) (q : Bool) (hW : Within Ps s₀ s) (_ : .regs ∈ Ps) (_ : .am ∈ Ps) (_ : .cs ∈ Ps) (_ : .cores ∈ Ps) (_ : .dies ∈ Ps) :
    Within Ps s₀ (State.chunkSecond s c ch x src dst b q) := by
  unfold State.chunkSecond
  repeat' first
    | with_reducible assumption
    | with_reducible apply State.access_within
    | with_reducible apply State.readPlace_within
    | with_reducible apply State.compareDone_within
    | with_reducible apply State.chunkDone_within
    | with_reducible apply State.writePlace_within
    | with_reducible apply Within.ite
    | with_reducible apply Within.foldl
    | with_reducible apply Within.foldl_fst
    | with_reducible apply Within.of_eq (by with_reducible assumption)
    | intro _
    | split
    | dsimp only

theorem State.chunkFirst_within {s : State} (c : CoreId) (ch : Chan) (x : ℕ) (src : Option Place) (dst : Place) (hW : Within Ps s₀ s) (_ : .regs ∈ Ps) (_ : .am ∈ Ps) (_ : .cs ∈ Ps) (_ : .cores ∈ Ps) (_ : .dies ∈ Ps) :
    Within Ps s₀ (State.chunkFirst s c ch x src dst) := by
  unfold State.chunkFirst
  repeat' first
    | with_reducible assumption
    | with_reducible apply State.access_within
    | with_reducible apply State.chunkDone_within
    | with_reducible apply State.writePlace_within
    | with_reducible apply State.readPlace_within
    | with_reducible apply State.onDma_within
    | with_reducible apply State.compareDone_within
    | with_reducible apply Within.ite
    | with_reducible apply Within.foldl
    | with_reducible apply Within.foldl_fst
    | with_reducible apply Within.of_eq (by with_reducible assumption)
    | intro _
    | split
    | dsimp only

theorem State.walkRead_within {s : State} (c : CoreId) (ch : Chan) (root : Bool) (u : ℕ) (hW : Within Ps s₀ s) (_ : .regs ∈ Ps) (_ : .am ∈ Ps) (_ : .cores ∈ Ps) (_ : .dies ∈ Ps) :
    Within Ps s₀ (State.walkRead s c ch root u) := by
  unfold State.walkRead
  repeat' first
    | with_reducible assumption
    | with_reducible apply State.access_within
    | with_reducible apply State.csRead_within
    | with_reducible apply State.chunkFault_within
    | with_reducible apply State.onDma_within
    | with_reducible apply Within.ite
    | with_reducible apply Within.foldl
    | with_reducible apply Within.foldl_fst
    | with_reducible apply Within.of_eq (by with_reducible assumption)
    | intro _
    | split
    | dsimp only

theorem State.chunkStep_within {s : State} (c : CoreId) (ch : Chan) (hW : Within Ps s₀ s) (_ : .regs ∈ Ps) (_ : .am ∈ Ps) (_ : .cs ∈ Ps) (_ : .cores ∈ Ps) (_ : .dies ∈ Ps) :
    Within Ps s₀ (State.chunkStep s c ch) := by
  unfold State.chunkStep
  repeat' first
    | with_reducible assumption
    | with_reducible apply State.chunkFault_within
    | with_reducible apply State.walkRead_within
    | with_reducible apply State.chunkSecond_within
    | with_reducible apply State.chunkFirst_within
    | with_reducible apply Within.ite
    | with_reducible apply Within.foldl
    | with_reducible apply Within.foldl_fst
    | with_reducible apply Within.of_eq (by with_reducible assumption)
    | intro _
    | split
    | dsimp only

theorem State.dmaPut_within {s : State} (c : CoreId) (p : LanePut) (hW : Within Ps s₀ s) (_ : .cores ∈ Ps) :
    Within Ps s₀ (State.dmaPut s c p) := by
  unfold State.dmaPut
  repeat' first
    | with_reducible assumption
    | with_reducible apply State.claimPut_within
    | with_reducible apply State.onDma_within
    | with_reducible apply State.amPut_within
    | with_reducible apply State.onCore_within
    | with_reducible apply Within.ite
    | with_reducible apply Within.foldl
    | with_reducible apply Within.foldl_fst
    | with_reducible apply Within.of_eq (by with_reducible assumption)
    | intro _
    | split
    | dsimp only

theorem State.dmaPutsDue_within {s : State} (c : CoreId) (hW : Within Ps s₀ s) (_ : .cores ∈ Ps) :
    Within Ps s₀ (State.dmaPutsDue s c) := by
  unfold State.dmaPutsDue
  repeat' first
    | with_reducible assumption
    | with_reducible apply State.dmaPut_within
    | with_reducible apply Within.ite
    | with_reducible apply Within.foldl
    | with_reducible apply Within.foldl_fst
    | with_reducible apply Within.of_eq (by with_reducible assumption)
    | intro _
    | split
    | dsimp only

theorem State.compareRegs_within {s : State} (c : CoreId) (ch : Chan) (x : ℕ) (m : Option (ℕ × ℕ × Bool)) (hW : Within Ps s₀ s) (_ : .regs ∈ Ps) :
    Within Ps s₀ (State.compareRegs s c ch x m) := by
  unfold State.compareRegs
  repeat' first
    | with_reducible assumption
    | with_reducible apply State.setReg_within
    | with_reducible apply Within.ite
    | with_reducible apply Within.foldl
    | with_reducible apply Within.foldl_fst
    | with_reducible apply Within.of_eq (by with_reducible assumption)
    | intro _
    | split
    | dsimp only

theorem State.doorbell_within {s : State} (c : CoreId) (hW : Within Ps s₀ s) (_ : .cores ∈ Ps) :
    Within Ps s₀ (State.doorbell s c) := by
  unfold State.doorbell
  repeat' first
    | with_reducible assumption
    | with_reducible apply State.onDma_within
    | with_reducible apply Within.ite
    | with_reducible apply Within.foldl
    | with_reducible apply Within.foldl_fst
    | with_reducible apply Within.of_eq (by with_reducible assumption)
    | intro _
    | split
    | dsimp only

theorem State.qStop_within {s : State} (c : CoreId) (hW : Within Ps s₀ s) (_ : .regs ∈ Ps) (_ : .cores ∈ Ps) :
    Within Ps s₀ (State.qStop s c) := by
  unfold State.qStop
  repeat' first
    | with_reducible assumption
    | with_reducible apply State.raise_within
    | with_reducible apply State.qIdle_within
    | with_reducible apply State.orReg_within
    | with_reducible apply State.onDma_within
    | with_reducible apply Within.ite
    | with_reducible apply Within.foldl
    | with_reducible apply Within.foldl_fst
    | with_reducible apply Within.of_eq (by with_reducible assumption)
    | intro _
    | split
    | dsimp only

end Sys2Proof.Machine
end

