-- ==== Sys2Proof/Laws/WithinBinary.lean ====
section
/-! SUPPORT. What the operations of Machine/Binary.lean may change. -/

set_option linter.unusedTactic false
set_option linter.unreachableTactic false
set_option linter.unusedVariables false

namespace Sys2Proof.Machine

variable {Ps : List Part} {s₀ : State}

theorem State.repatch_within {s : State} (x : Ctx) (hW : Within Ps s₀ s) (_ : .ctxs ∈ Ps) :
    Within Ps s₀ (State.repatch s x) := by
  unfold State.repatch
  repeat' first
    | with_reducible assumption
    | with_reducible apply State.onCtx_within
    | with_reducible apply Within.ite
    | with_reducible apply Within.foldl
    | with_reducible apply Within.foldl_fst
    | with_reducible apply Within.of_eq (by with_reducible assumption)
    | intro _
    | split
    | dsimp only

theorem State.setRanks_within {s : State} (x : Ctx) (ranks : List RankPlace) (hW : Within Ps s₀ s) (_ : .ctxs ∈ Ps) :
    Within Ps s₀ (State.setRanks s x ranks) := by
  unfold State.setRanks
  repeat' first
    | with_reducible assumption
    | with_reducible apply State.repatch_within
    | with_reducible apply State.onCtx_within
    | with_reducible apply Within.ite
    | with_reducible apply Within.foldl
    | with_reducible apply Within.foldl_fst
    | with_reducible apply Within.of_eq (by with_reducible assumption)
    | intro _
    | split
    | dsimp only

theorem State.setFrameSize_within {s : State} (x : Ctx) (n : BitVec 2) (hW : Within Ps s₀ s) (_ : .regs ∈ Ps) (_ : .dies ∈ Ps) :
    Within Ps s₀ (State.setFrameSize s x n) := by
  unfold State.setFrameSize
  repeat' first
    | with_reducible assumption
    | with_reducible apply State.setFld_within
    | with_reducible apply State.pgmInitReq_within
    | with_reducible apply Within.ite
    | with_reducible apply Within.foldl
    | with_reducible apply Within.foldl_fst
    | with_reducible apply Within.of_eq (by with_reducible assumption)
    | intro _
    | split
    | dsimp only

theorem State.loadBinary_within {s t : State} {x : Ctx} {l : Placement} (e : State.loadBinary s x l = some t) (h : Within Ps s₀ s) (_ : .regs ∈ Ps) (_ : .dies ∈ Ps) (_ : .ctxs ∈ Ps) :
    Within Ps s₀ t := by
  unfold State.loadBinary at e
  try dsimp only at e
  repeat' first
    | contradiction
    | (cases e; skip)
    | split at e
  all_goals
    repeat' first
      | with_reducible assumption
      | with_reducible apply State.setFrameSize_within
      | with_reducible apply State.onCtx_within
      | with_reducible apply Within.ite
      | with_reducible apply Within.foldl
      | with_reducible apply Within.foldl_fst
      | with_reducible apply Within.of_eq (by with_reducible assumption)
      | intro _
      | split
      | dsimp only

end Sys2Proof.Machine
end

