-- ==== Sys2Proof/Laws/WithinLaunch.lean ====
section
/-! SUPPORT. What the operations of Machine/Launch.lean may change. -/

set_option linter.unusedTactic false
set_option linter.unreachableTactic false
set_option linter.unusedVariables false

namespace Sys2Proof.Machine

variable {Ps : List Part} {s₀ : State}

theorem State.flagStep_within {s : State} (x : Ctx) (hW : Within Ps s₀ s) (_ : .ctxs ∈ Ps) :
    Within Ps s₀ (State.flagStep s x) := by
  unfold State.flagStep
  repeat' first
    | with_reducible assumption
    | with_reducible apply State.onCtx_within
    | with_reducible apply Within.ite
    | with_reducible apply Within.foldl
    | with_reducible apply Within.foldl_fst
    | with_reducible apply Within.of_eq (by with_reducible assumption)
    | intro _
    | split
    | dsimp only

theorem State.cmdFault_within {s : State} (d : DieId) (bit : ℕ) (x : Ctx) (hW : Within Ps s₀ s) (_ : .regs ∈ Ps) (_ : .ctxs ∈ Ps) :
    Within Ps s₀ (State.cmdFault s d bit x) := by
  unfold State.cmdFault
  repeat' first
    | with_reducible assumption
    | with_reducible apply State.flagStep_within
    | with_reducible apply State.raise_within
    | with_reducible apply Within.ite
    | with_reducible apply Within.foldl
    | with_reducible apply Within.foldl_fst
    | with_reducible apply Within.of_eq (by with_reducible assumption)
    | intro _
    | split
    | dsimp only

theorem State.ccFault_within {s : State} (d : DieId) (bit : ℕ) (hW : Within Ps s₀ s) (_ : .regs ∈ Ps) :
    Within Ps s₀ (State.ccFault s d bit) := by
  unfold State.ccFault
  repeat' first
    | with_reducible assumption
    | with_reducible apply State.raise_within
    | with_reducible apply Within.ite
    | with_reducible apply Within.foldl
    | with_reducible apply Within.foldl_fst
    | with_reducible apply Within.of_eq (by with_reducible assumption)
    | intro _
    | split
    | dsimp only

theorem State.ccIrq_within {s : State} (d : DieId) (b : ℕ) (hW : Within Ps s₀ s) (_ : .regs ∈ Ps) :
    Within Ps s₀ (State.ccIrq s d b) := by
  unfold State.ccIrq
  repeat' first
    | with_reducible assumption
    | with_reducible apply State.orReg_within
    | with_reducible apply Within.ite
    | with_reducible apply Within.foldl
    | with_reducible apply Within.foldl_fst
    | with_reducible apply Within.of_eq (by with_reducible assumption)
    | intro _
    | split
    | dsimp only

theorem State.nextBlock_within {s t : State} {d : DieId} {h : Nat} {b : List Line} (e : s.nextBlock d = some (h, b, t))
    (hs : Within Ps s₀ s) (_ : .dies ∈ Ps) (_ : .regs ∈ Ps) : Within Ps s₀ t := by
  unfold State.nextBlock at e
  split at e
  · dsimp only at e
    split at e
    · cases e
    · cases e
      exact State.setFld_within _ _ _ _ _ (State.onDie_within _ _ hs ‹_›) ‹_›
  · cases e

theorem State.startBlock_within {s : State} (d : DieId) (ty : ℕ) (f : ℕ → List Line → List CoreId → State → State) (hW : Within Ps s₀ s) (_ : .regs ∈ Ps) (_ : .dies ∈ Ps) (_ : .ctxs ∈ Ps) (hf : ∀ v0 v1 v2 v3, Within Ps s₀ v3 → Within Ps s₀ (f v0 v1 v2 v3)) :
    Within Ps s₀ (State.startBlock s d ty f) := by
  unfold State.startBlock
  repeat' first
    | with_reducible assumption
    | with_reducible apply hf
    | with_reducible apply State.nextBlock_within (by with_reducible assumption)
    | with_reducible apply State.cmdFault_within
    | with_reducible apply Within.ite
    | with_reducible apply Within.foldl
    | with_reducible apply Within.foldl_fst
    | with_reducible apply Within.of_eq (by with_reducible assumption)
    | intro _
    | split
    | dsimp only

theorem State.putBundle_within {s : State} (c : CoreId) (bank : Bool) (i : ℕ) (v : ℕ) (hW : Within Ps s₀ s) (_ : .pm ∈ Ps) :
    Within Ps s₀ (State.putBundle s c bank i v) := by
  unfold State.putBundle
  repeat' first
    | with_reducible assumption
    | with_reducible apply State.setPmErr_within
    | with_reducible apply State.pmSet_within
    | with_reducible apply Within.ite
    | with_reducible apply Within.foldl
    | with_reducible apply Within.foldl_fst
    | with_reducible apply Within.of_eq (by with_reducible assumption)
    | intro _
    | split
    | dsimp only

theorem State.progWrite_within {s : State} (c : CoreId) (v : ℕ) (hW : Within Ps s₀ s) (_ : .pm ∈ Ps) (_ : .cores ∈ Ps) :
    Within Ps s₀ (State.progWrite s c v).1 := by
  unfold State.progWrite
  repeat' first
    | with_reducible assumption
    | with_reducible apply State.onCore_within
    | with_reducible apply State.putBundle_within
    | with_reducible apply Within.ite
    | with_reducible apply Within.foldl
    | with_reducible apply Within.foldl_fst
    | with_reducible apply Within.of_eq (by with_reducible assumption)
    | intro _
    | split
    | dsimp only

theorem State.progAll_within {s : State} (cs : List CoreId) (l : List Nat) (h : Within Ps s₀ s) (_ : .pm ∈ Ps) (_ : .cores ∈ Ps) :
    Within Ps s₀ (s.progAll cs l).1 := by
  induction l generalizing s with
  | nil => exact h
  | cons v rest ih =>
    unfold State.progAll
    have key : Within Ps s₀ (cs.foldl (fun (a : State × Bool) c => let (t, o) := a.1.progWrite c v; (t, a.2 && o)) (s, true)).1 := by
      apply Within.foldl_fst _ _ h
      intro a c ha
      apply State.progWrite_within <;> assumption
    dsimp only at key ⊢
    split
    · exact ih key
    · exact key

theorem State.progDone_within {s : State} (cs : List CoreId) (t : Token) (at_ : ℕ) (hW : Within Ps s₀ s) (_ : .cores ∈ Ps) :
    Within Ps s₀ (State.progDone s cs t at_) := by
  unfold State.progDone
  repeat' first
    | with_reducible assumption
    | with_reducible apply State.onCore_within
    | with_reducible apply Within.ite
    | with_reducible apply Within.foldl
    | with_reducible apply Within.foldl_fst
    | with_reducible apply Within.of_eq (by with_reducible assumption)
    | intro _
    | split
    | dsimp only

theorem State.programRun_within {s : State} (d : DieId) (h : ℕ) (body : List Line) (cs : List CoreId) (hW : Within Ps s₀ s) (_ : .regs ∈ Ps) (_ : .pm ∈ Ps) (_ : .cores ∈ Ps) (_ : .dies ∈ Ps) (_ : .ctxs ∈ Ps) :
    Within Ps s₀ (State.programRun s d h body cs) := by
  unfold State.programRun
  repeat' first
    | with_reducible assumption
    | with_reducible apply State.progAll_within
    | with_reducible apply State.onDie_within
    | with_reducible apply State.flagStep_within
    | with_reducible apply State.ccFault_within
    | with_reducible apply State.progDone_within
    | with_reducible apply Within.ite
    | with_reducible apply Within.foldl
    | with_reducible apply Within.foldl_fst
    | with_reducible apply Within.of_eq (by with_reducible assumption)
    | intro _
    | split
    | dsimp only

theorem State.streamRun_within {s : State} (d : DieId) (h : ℕ) (body : List Line) (hW : Within Ps s₀ s) (_ : .regs ∈ Ps) (_ : .dies ∈ Ps) (_ : .ctxs ∈ Ps) :
    Within Ps s₀ (State.streamRun s d h body) := by
  unfold State.streamRun
  repeat' first
    | with_reducible assumption
    | with_reducible apply State.cmdFault_within
    | with_reducible apply State.flagStep_within
    | with_reducible apply State.ccFault_within
    | with_reducible apply State.ccIrq_within
    | with_reducible apply State.onDie_within
    | with_reducible apply Within.ite
    | with_reducible apply Within.foldl
    | with_reducible apply Within.foldl_fst
    | with_reducible apply Within.of_eq (by with_reducible assumption)
    | intro _
    | split
    | dsimp only

theorem State.seqPush_within {s : State} (d : DieId) (c : CoreId) (xsq : Bool) (t : Token) (desc : ℕ) (hW : Within Ps s₀ s) (_ : .regs ∈ Ps) (_ : .cores ∈ Ps) (_ : .dies ∈ Ps) :
    Within Ps s₀ (State.seqPush s d c xsq t desc) := by
  unfold State.seqPush
  repeat' first
    | with_reducible assumption
    | with_reducible apply State.ccFault_within
    | with_reducible apply State.onDie_within
    | with_reducible apply State.qPush_within
    | with_reducible apply Within.ite
    | with_reducible apply Within.foldl
    | with_reducible apply Within.foldl_fst
    | with_reducible apply Within.of_eq (by with_reducible assumption)
    | intro _
    | split
    | dsimp only

theorem State.streamMoved_within {s : State} (d : DieId) (b : Block) (hW : Within Ps s₀ s) (_ : .dies ∈ Ps) :
    Within Ps s₀ (State.streamMoved s d b) := by
  unfold State.streamMoved
  repeat' first
    | with_reducible assumption
    | with_reducible apply State.onDie_within
    | with_reducible apply Within.ite
    | with_reducible apply Within.foldl
    | with_reducible apply Within.foldl_fst
    | with_reducible apply Within.of_eq (by with_reducible assumption)
    | intro _
    | split
    | dsimp only

theorem State.windowPush_within {s : State} (d : DieId) (hW : Within Ps s₀ s) (_ : .regs ∈ Ps) (_ : .cores ∈ Ps) (_ : .dies ∈ Ps) :
    Within Ps s₀ (State.windowPush s d) := by
  unfold State.windowPush
  repeat' first
    | with_reducible assumption
    | with_reducible apply State.setFld_within
    | with_reducible apply State.onDie_within
    | with_reducible apply State.seqPush_within
    | with_reducible apply Within.ite
    | with_reducible apply Within.foldl
    | with_reducible apply Within.foldl_fst
    | with_reducible apply Within.of_eq (by with_reducible assumption)
    | intro _
    | split
    | dsimp only

theorem State.ccDone_within {s : State} (d : DieId) (hW : Within Ps s₀ s) (_ : .regs ∈ Ps) (_ : .dies ∈ Ps) :
    Within Ps s₀ (State.ccDone s d) := by
  unfold State.ccDone
  repeat' first
    | with_reducible assumption
    | with_reducible apply State.ccFault_within
    | with_reducible apply State.onDie_within
    | with_reducible apply State.setFld_within
    | with_reducible apply Within.ite
    | with_reducible apply Within.foldl
    | with_reducible apply Within.foldl_fst
    | with_reducible apply Within.of_eq (by with_reducible assumption)
    | intro _
    | split
    | dsimp only

theorem State.pushGo_within {s : State} (d : DieId) (queue : Bool) (pos : BitVec 6) (t : Token) (hW : Within Ps s₀ s) (_ : .regs ∈ Ps) (_ : .dies ∈ Ps) :
    Within Ps s₀ (State.pushGo s d queue pos t) := by
  unfold State.pushGo
  repeat' first
    | with_reducible assumption
    | with_reducible apply State.ccFault_within
    | with_reducible apply State.onDie_within
    | with_reducible apply State.setReg_within
    | with_reducible apply Within.ite
    | with_reducible apply Within.foldl
    | with_reducible apply Within.foldl_fst
    | with_reducible apply Within.of_eq (by with_reducible assumption)
    | intro _
    | split
    | dsimp only

theorem State.cmdBoundary_within {s : State} (d : DieId) (hW : Within Ps s₀ s) (_ : .regs ∈ Ps) (_ : .dies ∈ Ps) (_ : .ctxs ∈ Ps) :
    Within Ps s₀ (State.cmdBoundary s d) := by
  unfold State.cmdBoundary
  repeat' first
    | with_reducible assumption
    | with_reducible apply State.cmdFault_within
    | with_reducible apply State.onDie_within
    | with_reducible apply Within.ite
    | with_reducible apply Within.foldl
    | with_reducible apply Within.foldl_fst
    | with_reducible apply Within.of_eq (by with_reducible assumption)
    | intro _
    | split
    | dsimp only

theorem State.launchBody_within {s : State} (body : List Line) (hW : Within Ps s₀ s) :
    Within Ps s₀ (State.launchBody s body).1 := by
  unfold State.launchBody
  repeat' first
    | with_reducible assumption
    | with_reducible apply State.draw_within
    | with_reducible apply Within.ite
    | with_reducible apply Within.foldl
    | with_reducible apply Within.foldl_fst
    | with_reducible apply Within.of_eq (by with_reducible assumption)
    | intro _
    | split
    | dsimp only

theorem State.armCore_within {s : State} (x : ℕ) (c : CoreId) (hW : Within Ps s₀ s) (_ : .regs ∈ Ps) (_ : .cores ∈ Ps) :
    Within Ps s₀ (State.armCore s x c) := by
  unfold State.armCore
  repeat' first
    | with_reducible assumption
    | with_reducible apply State.onCore_within
    | with_reducible apply State.setReg_within
    | with_reducible apply Within.ite
    | with_reducible apply Within.foldl
    | with_reducible apply Within.foldl_fst
    | with_reducible apply Within.of_eq (by with_reducible assumption)
    | intro _
    | split
    | dsimp only

theorem State.launchRun_within {s : State} (d : DieId) (h : ℕ) (body : List Line) (cs : List CoreId) (hW : Within Ps s₀ s) (_ : .regs ∈ Ps) (_ : .cores ∈ Ps) (_ : .dies ∈ Ps) :
    Within Ps s₀ (State.launchRun s d h body cs) := by
  unfold State.launchRun
  repeat' first
    | with_reducible assumption
    | with_reducible apply State.launchBody_within
    | with_reducible apply State.armCore_within
    | with_reducible apply State.ccFault_within
    | with_reducible apply State.onDie_within
    | with_reducible apply Within.ite
    | with_reducible apply Within.foldl
    | with_reducible apply Within.foldl_fst
    | with_reducible apply Within.of_eq (by with_reducible assumption)
    | intro _
    | split
    | dsimp only

theorem State.forceRemap_within {s : State} (d : DieId) (hW : Within Ps s₀ s) (_ : .regs ∈ Ps) :
    Within Ps s₀ (State.forceRemap s d) := by
  unfold State.forceRemap
  repeat' first
    | with_reducible assumption
    | with_reducible apply State.setReg_within
    | with_reducible apply State.raise_within
    | with_reducible apply Within.ite
    | with_reducible apply Within.foldl
    | with_reducible apply Within.foldl_fst
    | with_reducible apply Within.of_eq (by with_reducible assumption)
    | intro _
    | split
    | dsimp only

theorem State.stopP_within {s : State} (c : CoreId) (hW : Within Ps s₀ s) (_ : .cores ∈ Ps) :
    Within Ps s₀ (State.stopP s c) := by
  unfold State.stopP
  repeat' first
    | with_reducible assumption
    | with_reducible apply State.onDma_within
    | with_reducible apply Within.ite
    | with_reducible apply Within.foldl
    | with_reducible apply Within.foldl_fst
    | with_reducible apply Within.of_eq (by with_reducible assumption)
    | intro _
    | split
    | dsimp only

theorem State.launchCore_within {s : State} (bank : Bool) (c : CoreId) (hW : Within Ps s₀ s) (_ : .regs ∈ Ps) (_ : .cores ∈ Ps) :
    Within Ps s₀ (State.launchCore s bank c) := by
  unfold State.launchCore
  repeat' first
    | with_reducible assumption
    | with_reducible apply State.checkTransit_within
    | with_reducible apply State.onCore_within
    | with_reducible apply State.stopP_within
    | with_reducible apply Within.ite
    | with_reducible apply Within.foldl
    | with_reducible apply Within.foldl_fst
    | with_reducible apply Within.of_eq (by with_reducible assumption)
    | intro _
    | split
    | dsimp only

theorem State.refuseCore_within {s : State} (c : CoreId) (hW : Within Ps s₀ s) (_ : .cores ∈ Ps) :
    Within Ps s₀ (State.refuseCore s c) := by
  unfold State.refuseCore
  repeat' first
    | with_reducible assumption
    | with_reducible apply State.onCore_within
    | with_reducible apply Within.ite
    | with_reducible apply Within.foldl
    | with_reducible apply Within.foldl_fst
    | with_reducible apply Within.of_eq (by with_reducible assumption)
    | intro _
    | split
    | dsimp only

theorem State.recordLaunch_within {s : State} (x : Ctx) (as : List Armed) (hW : Within Ps s₀ s) (_ : .ctxs ∈ Ps) :
    Within Ps s₀ (State.recordLaunch s x as) := by
  unfold State.recordLaunch
  repeat' first
    | with_reducible assumption
    | with_reducible apply State.onCtx_within
    | with_reducible apply Within.ite
    | with_reducible apply Within.foldl
    | with_reducible apply Within.foldl_fst
    | with_reducible apply Within.of_eq (by with_reducible assumption)
    | intro _
    | split
    | dsimp only

theorem State.disarm_within {s : State} (x : Ctx) (hW : Within Ps s₀ s) (_ : .dies ∈ Ps) :
    Within Ps s₀ (State.disarm s x) := by
  unfold State.disarm
  repeat' first
    | with_reducible assumption
    | with_reducible apply State.onDie_within
    | with_reducible apply Within.ite
    | with_reducible apply Within.foldl
    | with_reducible apply Within.foldl_fst
    | with_reducible apply Within.of_eq (by with_reducible assumption)
    | intro _
    | split
    | dsimp only

theorem State.launchAll_within {s : State} (x : Ctx) (as : List (DieId × Armed)) (hW : Within Ps s₀ s) (_ : .regs ∈ Ps) (_ : .cores ∈ Ps) (_ : .dies ∈ Ps) (_ : .ctxs ∈ Ps) :
    Within Ps s₀ (State.launchAll s x as) := by
  unfold State.launchAll
  repeat' first
    | with_reducible assumption
    | with_reducible apply State.onDie_within
    | with_reducible apply State.forceRemap_within
    | with_reducible apply State.onCore_within
    | with_reducible apply State.onCtx_within
    | with_reducible apply State.refuseCore_within
    | with_reducible apply State.cqFault_within
    | with_reducible apply State.launchCore_within
    | with_reducible apply Within.ite
    | with_reducible apply Within.foldl
    | with_reducible apply Within.foldl_fst
    | with_reducible apply Within.of_eq (by with_reducible assumption)
    | intro _
    | split
    | dsimp only

end Sys2Proof.Machine
end

