-- ==== Sys2Proof/Laws/WithinReceipt.lean ====
section
/-! SUPPORT. What the operations of Machine/Receipt.lean may change. -/

set_option linter.unusedTactic false
set_option linter.unreachableTactic false
set_option linter.unusedVariables false

namespace Sys2Proof.Machine

variable {Ps : List Part} {s₀ : State}

theorem State.setDigestReg_within {s : State} (b : Blk) (off : ℕ) (d : Digest) (hW : Within Ps s₀ s) (_ : .regs ∈ Ps) :
    Within Ps s₀ (State.setDigestReg s b off d) := by
  unfold State.setDigestReg
  repeat' first
    | with_reducible assumption
    | with_reducible apply State.setReg_within
    | with_reducible apply Within.ite
    | with_reducible apply Within.foldl
    | with_reducible apply Within.foldl_fst
    | with_reducible apply Within.of_eq (by with_reducible assumption)
    | intro _
    | split
    | dsimp only

theorem State.append_within {s : State} (e : Encl) (ty : ℕ) (x : ℕ) (body : List Byte) (hW : Within Ps s₀ s) (_ : .chains ∈ Ps) :
    Within Ps s₀ (State.append s e ty x body) := by
  unfold State.append
  repeat' first
    | with_reducible assumption
    | with_reducible apply State.setChain_within
    | with_reducible apply Within.ite
    | with_reducible apply Within.foldl
    | with_reducible apply Within.foldl_fst
    | with_reducible apply Within.of_eq (by with_reducible assumption)
    | intro _
    | split
    | dsimp only

theorem State.genesis_within {s : State} (e : Encl) (hW : Within Ps s₀ s) (_ : .chains ∈ Ps) :
    Within Ps s₀ (State.genesis s e) := by
  unfold State.genesis
  repeat' first
    | with_reducible assumption
    | with_reducible apply State.append_within
    | with_reducible apply Within.ite
    | with_reducible apply Within.foldl
    | with_reducible apply Within.foldl_fst
    | with_reducible apply Within.of_eq (by with_reducible assumption)
    | intro _
    | split
    | dsimp only

theorem State.appendSign_within {s : State} (e : Encl) (hW : Within Ps s₀ s) (_ : .chains ∈ Ps) :
    Within Ps s₀ (State.appendSign s e) := by
  unfold State.appendSign
  repeat' first
    | with_reducible assumption
    | with_reducible apply State.append_within
    | with_reducible apply Within.ite
    | with_reducible apply Within.foldl
    | with_reducible apply Within.foldl_fst
    | with_reducible apply Within.of_eq (by with_reducible assumption)
    | intro _
    | split
    | dsimp only

theorem State.extendDebug_within {s : State} (d : Digest) (hW : Within Ps s₀ s) (_ : .regs ∈ Ps) (_ : .chains ∈ Ps) (_ : .mod ∈ Ps) :
    Within Ps s₀ (State.extendDebug s d) := by
  unfold State.extendDebug
  repeat' first
    | with_reducible assumption
    | with_reducible apply State.appendSign_within
    | with_reducible apply State.setChain_within
    | with_reducible apply State.onMod_within
    | with_reducible apply State.setDigestReg_within
    | with_reducible apply Within.ite
    | with_reducible apply Within.foldl
    | with_reducible apply Within.foldl_fst
    | with_reducible apply Within.of_eq (by with_reducible assumption)
    | intro _
    | split
    | dsimp only

end Sys2Proof.Machine
end

