-- ==== Sys2Proof/Laws/WithinUpkeep.lean ====
section
/-! SUPPORT. What the operations of Machine/Upkeep.lean may change. -/

set_option linter.unusedTactic false
set_option linter.unreachableTactic false
set_option linter.unusedVariables false

namespace Sys2Proof.Machine

variable {Ps : List Part} {s₀ : State}

theorem State.popCe_within {s : State} (c : CoreId) (hW : Within Ps s₀ s) (_ : .cores ∈ Ps) :
    Within Ps s₀ (State.popCe s c) := by
  unfold State.popCe
  repeat' first
    | with_reducible assumption
    | with_reducible apply State.onCore_within
    | with_reducible apply Within.ite
    | with_reducible apply Within.foldl
    | with_reducible apply Within.foldl_fst
    | with_reducible apply Within.of_eq (by with_reducible assumption)
    | intro _
    | split
    | dsimp only

theorem State.mxRetire_within {s : State} (c : CoreId) (layer : ℕ) (row : ℕ) (hW : Within Ps s₀ s) (_ : .regs ∈ Ps) (_ : .cores ∈ Ps) :
    Within Ps s₀ (State.mxRetire s c layer row) := by
  unfold State.mxRetire
  repeat' first
    | with_reducible assumption
    | with_reducible apply State.mxFault_within
    | with_reducible apply State.setReg_within
    | with_reducible apply State.orReg_within
    | with_reducible apply State.onCore_within
    | with_reducible apply Within.ite
    | with_reducible apply Within.foldl
    | with_reducible apply Within.foldl_fst
    | with_reducible apply Within.of_eq (by with_reducible assumption)
    | intro _
    | split
    | dsimp only

theorem State.pgmRetire_within {s : State} (d : DieId) (slice : ℕ) (row : ℕ) (hW : Within Ps s₀ s) (_ : .regs ∈ Ps) (_ : .dies ∈ Ps) :
    Within Ps s₀ (State.pgmRetire s d slice row) := by
  unfold State.pgmRetire
  repeat' first
    | with_reducible assumption
    | with_reducible apply State.raise_within
    | with_reducible apply State.onPgm_within
    | with_reducible apply State.setReg_within
    | with_reducible apply State.orReg_within
    | with_reducible apply Within.ite
    | with_reducible apply Within.foldl
    | with_reducible apply Within.foldl_fst
    | with_reducible apply Within.of_eq (by with_reducible assumption)
    | intro _
    | split
    | dsimp only

theorem State.wsCopy_within {s : State} (c : CoreId) (hW : Within Ps s₀ s) (_ : .cores ∈ Ps) :
    Within Ps s₀ (State.wsCopy s c) := by
  unfold State.wsCopy
  repeat' first
    | with_reducible assumption
    | with_reducible apply State.onCore_within
    | with_reducible apply Within.ite
    | with_reducible apply Within.foldl
    | with_reducible apply Within.foldl_fst
    | with_reducible apply Within.of_eq (by with_reducible assumption)
    | intro _
    | split
    | dsimp only

theorem State.csCopy_within {s : State} (d : DieId) (hW : Within Ps s₀ s) (_ : .regs ∈ Ps) (_ : .dies ∈ Ps) :
    Within Ps s₀ (State.csCopy s d) := by
  unfold State.csCopy
  repeat' first
    | with_reducible assumption
    | with_reducible apply State.sliceTake_within
    | with_reducible apply State.onPgm_within
    | with_reducible apply State.count_within
    | with_reducible apply Within.ite
    | with_reducible apply Within.foldl
    | with_reducible apply Within.foldl_fst
    | with_reducible apply Within.of_eq (by with_reducible assumption)
    | intro _
    | split
    | dsimp only

theorem State.scrubTurn_within {s : State} (d : DieId) (sl : ℕ) (hW : Within Ps s₀ s) (_ : .dies ∈ Ps) :
    Within Ps s₀ (State.scrubTurn s d sl) := by
  unfold State.scrubTurn
  repeat' first
    | with_reducible assumption
    | with_reducible apply State.onPgm_within
    | with_reducible apply Within.ite
    | with_reducible apply Within.foldl
    | with_reducible apply Within.foldl_fst
    | with_reducible apply Within.of_eq (by with_reducible assumption)
    | intro _
    | split
    | dsimp only

theorem State.wsScrubWord_within {s : State} (c : CoreId) (w : ℕ) (hW : Within Ps s₀ s) (_ : .regs ∈ Ps) (_ : .ws ∈ Ps) (_ : .cores ∈ Ps) :
    Within Ps s₀ (State.wsScrubWord s c w) := by
  unfold State.wsScrubWord
  repeat' first
    | with_reducible assumption
    | with_reducible apply State.wsReadWords_within
    | with_reducible apply State.setWsErr_within
    | with_reducible apply Within.ite
    | with_reducible apply Within.foldl
    | with_reducible apply Within.foldl_fst
    | with_reducible apply Within.of_eq (by with_reducible assumption)
    | intro _
    | split
    | dsimp only

theorem State.wsScrubShare_within {s : State} (c : CoreId) (hW : Within Ps s₀ s) (_ : .regs ∈ Ps) (_ : .ws ∈ Ps) (_ : .cores ∈ Ps) :
    Within Ps s₀ (State.wsScrubShare s c) := by
  unfold State.wsScrubShare
  repeat' first
    | with_reducible assumption
    | with_reducible apply State.wsReadWords_within
    | with_reducible apply State.wsSound_within
    | with_reducible apply State.onCore_within
    | with_reducible apply Within.ite
    | with_reducible apply Within.foldl
    | with_reducible apply Within.foldl_fst
    | with_reducible apply Within.of_eq (by with_reducible assumption)
    | intro _
    | split
    | dsimp only

theorem State.psmScrubHalf_within {s : State} (c : CoreId) (e : ℕ × MemErr) (hW : Within Ps s₀ s) (_ : .regs ∈ Ps) (_ : .psm ∈ Ps) (_ : .cores ∈ Ps) :
    Within Ps s₀ (State.psmScrubHalf s c e) := by
  unfold State.psmScrubHalf
  repeat' first
    | with_reducible assumption
    | with_reducible apply State.logCe_within
    | with_reducible apply State.setPsmErr_within
    | with_reducible apply State.logUce_within
    | with_reducible apply State.setPsmPois_within
    | with_reducible apply Within.ite
    | with_reducible apply Within.foldl
    | with_reducible apply Within.foldl_fst
    | with_reducible apply Within.of_eq (by with_reducible assumption)
    | intro _
    | split
    | dsimp only

theorem State.wsWriteWord_within {s : State} (c : CoreId) (lo : ℕ) (hi : ℕ) (uce : Bool) (w : ℕ) (hW : Within Ps s₀ s) (_ : .regs ∈ Ps) (_ : .ws ∈ Ps) (_ : .cores ∈ Ps) :
    Within Ps s₀ (State.wsWriteWord s c lo hi uce w) := by
  unfold State.wsWriteWord
  repeat' first
    | with_reducible assumption
    | with_reducible apply State.wsReadWords_within
    | with_reducible apply State.setWsErr_within
    | with_reducible apply Within.ite
    | with_reducible apply Within.foldl
    | with_reducible apply Within.foldl_fst
    | with_reducible apply Within.of_eq (by with_reducible assumption)
    | intro _
    | split
    | dsimp only

theorem State.wsPut_within {s : State} (c : CoreId) (q : WsWrite) (hW : Within Ps s₀ s) (_ : .regs ∈ Ps) (_ : .ws ∈ Ps) (_ : .cores ∈ Ps) :
    Within Ps s₀ (State.wsPut s c q) := by
  unfold State.wsPut
  repeat' first
    | with_reducible assumption
    | with_reducible apply State.wsWriteWord_within
    | with_reducible apply State.wsSet_within
    | with_reducible apply Within.ite
    | with_reducible apply Within.foldl
    | with_reducible apply Within.foldl_fst
    | with_reducible apply Within.of_eq (by with_reducible assumption)
    | intro _
    | split
    | dsimp only

end Sys2Proof.Machine
end

