-- ==== Sys2Proof/Laws/WithinOwner.lean ====
section
/-! SUPPORT. What the operations of Machine/Owner.lean may change. -/

set_option linter.unusedTactic false
set_option linter.unreachableTactic false
set_option linter.unusedVariables false

namespace Sys2Proof.Machine

variable {Ps : List Part} {s₀ : State}

theorem State.setOwn_within {s : State} (d : DieId) (state : ℕ) (encl : ℕ) (ctx : ℕ) (hW : Within Ps s₀ s) (_ : .regs ∈ Ps) :
    Within Ps s₀ (State.setOwn s d state encl ctx) := by
  unfold State.setOwn
  repeat' first
    | with_reducible assumption
    | with_reducible apply State.setReg_within
    | with_reducible apply Within.ite
    | with_reducible apply Within.foldl
    | with_reducible apply Within.foldl_fst
    | with_reducible apply Within.of_eq (by with_reducible assumption)
    | intro _
    | split
    | dsimp only

theorem State.orderErr_within {s : State} (d : DieId) (hW : Within Ps s₀ s) (_ : .regs ∈ Ps) :
    Within Ps s₀ (State.orderErr s d) := by
  unfold State.orderErr
  repeat' first
    | with_reducible assumption
    | with_reducible apply State.raise_within
    | with_reducible apply Within.ite
    | with_reducible apply Within.foldl
    | with_reducible apply Within.foldl_fst
    | with_reducible apply Within.of_eq (by with_reducible assumption)
    | intro _
    | split
    | dsimp only

theorem State.assignReq_within {s : State} (d : DieId) (x : Ctx) (e : Encl) (hW : Within Ps s₀ s) (_ : .regs ∈ Ps) (_ : .chains ∈ Ps) :
    Within Ps s₀ (State.assignReq s d x e) := by
  unfold State.assignReq
  repeat' first
    | with_reducible assumption
    | with_reducible apply State.orderErr_within
    | with_reducible apply State.append_within
    | with_reducible apply State.genesis_within
    | with_reducible apply State.setOwn_within
    | with_reducible apply Within.ite
    | with_reducible apply Within.foldl
    | with_reducible apply Within.foldl_fst
    | with_reducible apply Within.of_eq (by with_reducible assumption)
    | intro _
    | split
    | dsimp only

theorem State.assign_within {s : State} (d : DieId) (x : Ctx) (e : Encl) (hW : Within Ps s₀ s) (_ : .regs ∈ Ps) (_ : .chains ∈ Ps) :
    Within Ps s₀ (State.assign s d x e) := by
  unfold State.assign
  repeat' first
    | with_reducible assumption
    | with_reducible apply State.assignReq_within
    | with_reducible apply Within.ite
    | with_reducible apply Within.foldl
    | with_reducible apply Within.foldl_fst
    | with_reducible apply Within.of_eq (by with_reducible assumption)
    | intro _
    | split
    | dsimp only

theorem State.poisonOps_within {s : State} (c : CoreId) (hW : Within Ps s₀ s) (_ : .cores ∈ Ps) (_ : .dies ∈ Ps) :
    Within Ps s₀ (State.poisonOps s c) := by
  unfold State.poisonOps
  repeat' first
    | with_reducible assumption
    | with_reducible apply State.onDie_within
    | with_reducible apply State.onCore_within
    | with_reducible apply Within.ite
    | with_reducible apply Within.foldl
    | with_reducible apply Within.foldl_fst
    | with_reducible apply Within.of_eq (by with_reducible assumption)
    | intro _
    | split
    | dsimp only

theorem State.abortCore_within {s : State} (c : CoreId) (hW : Within Ps s₀ s) (_ : .regs ∈ Ps) (_ : .cores ∈ Ps) :
    Within Ps s₀ (State.abortCore s c) := by
  unfold State.abortCore
  repeat' first
    | with_reducible assumption
    | with_reducible apply State.onCore_within
    | with_reducible apply State.abandon_within
    | with_reducible apply State.stopP_within
    | with_reducible apply State.arrDrain_within
    | with_reducible apply Within.ite
    | with_reducible apply Within.foldl
    | with_reducible apply Within.foldl_fst
    | with_reducible apply Within.of_eq (by with_reducible assumption)
    | intro _
    | split
    | dsimp only

theorem State.abortMask_within {s : State} (d : DieId) (mask : Word64) (hW : Within Ps s₀ s) (_ : .regs ∈ Ps) (_ : .cores ∈ Ps) :
    Within Ps s₀ (State.abortMask s d mask) := by
  unfold State.abortMask
  repeat' first
    | with_reducible assumption
    | with_reducible apply State.abortCore_within
    | with_reducible apply Within.ite
    | with_reducible apply Within.foldl
    | with_reducible apply Within.foldl_fst
    | with_reducible apply Within.of_eq (by with_reducible assumption)
    | intro _
    | split
    | dsimp only

theorem State.abortWrite_within {s : State} (d : DieId) (mask : Word64) (hW : Within Ps s₀ s) (_ : .deferred ∈ Ps) :
    Within Ps s₀ (State.abortWrite s d mask) := by
  unfold State.abortWrite
  repeat' first
    | with_reducible assumption
    | with_reducible apply State.owes_within
    | with_reducible apply Within.ite
    | with_reducible apply Within.foldl
    | with_reducible apply Within.foldl_fst
    | with_reducible apply Within.of_eq (by with_reducible assumption)
    | intro _
    | split
    | dsimp only

theorem State.stopQ_within {s : State} (c : CoreId) (hW : Within Ps s₀ s) (_ : .regs ∈ Ps) (_ : .cores ∈ Ps) :
    Within Ps s₀ (State.stopQ s c) := by
  unfold State.stopQ
  repeat' first
    | with_reducible assumption
    | with_reducible apply State.qIdle_within
    | with_reducible apply Within.ite
    | with_reducible apply Within.foldl
    | with_reducible apply Within.foldl_fst
    | with_reducible apply Within.of_eq (by with_reducible assumption)
    | intro _
    | split
    | dsimp only

theorem State.releaseCore_within {s : State} (c : CoreId) (hW : Within Ps s₀ s) (_ : .regs ∈ Ps) (_ : .cores ∈ Ps) (_ : .dies ∈ Ps) :
    Within Ps s₀ (State.releaseCore s c) := by
  unfold State.releaseCore
  repeat' first
    | with_reducible assumption
    | with_reducible apply State.stopQ_within
    | with_reducible apply State.stopP_within
    | with_reducible apply State.poisonOps_within
    | with_reducible apply State.arrDrain_within
    | with_reducible apply State.abandon_within
    | with_reducible apply Within.ite
    | with_reducible apply Within.foldl
    | with_reducible apply Within.foldl_fst
    | with_reducible apply Within.of_eq (by with_reducible assumption)
    | intro _
    | split
    | dsimp only

theorem State.release_within {s : State} (d : DieId) (hW : Within Ps s₀ s) (_ : .regs ∈ Ps) (_ : .cores ∈ Ps) (_ : .dies ∈ Ps) :
    Within Ps s₀ (State.release s d) := by
  unfold State.release
  repeat' first
    | with_reducible assumption
    | with_reducible apply State.orderErr_within
    | with_reducible apply State.onDie_within
    | with_reducible apply State.setOwn_within
    | with_reducible apply State.releaseCore_within
    | with_reducible apply Within.ite
    | with_reducible apply Within.foldl
    | with_reducible apply Within.foldl_fst
    | with_reducible apply Within.of_eq (by with_reducible assumption)
    | intro _
    | split
    | dsimp only

theorem State.clearMemories_within {s : State} (d : DieId) (h : Within Ps s₀ s) (h1 : .ws ∈ Ps) (h2 : .am ∈ Ps) (h3 : .psm ∈ Ps)
    (h4 : .cs ∈ Ps) (h5 : .tb ∈ Ps) (h6 : .pm ∈ Ps) : Within Ps s₀ (s.clearMemories d) := by
  refine h.trans ⟨⟨rfl, rfl, rfl, Nat.le_refl _, List.prefix_refl _⟩, ?_, ?_⟩
  · simp only [State.canonical, State.clearMemories]; intro h; simp_all
  · intro p hp; cases p <;> simp_all [Part.same, State.clearMemories]

theorem State.clearDie_within {s : State} (d : DieId) (hW : Within Ps s₀ s) (_ : .ws ∈ Ps) (_ : .am ∈ Ps) (_ : .psm ∈ Ps) (_ : .cs ∈ Ps) (_ : .tb ∈ Ps) (_ : .pm ∈ Ps) (_ : .cores ∈ Ps) (_ : .dies ∈ Ps) :
    Within Ps s₀ (State.clearDie s d) := by
  unfold State.clearDie
  repeat' first
    | with_reducible assumption
    | with_reducible apply State.onCore_within
    | with_reducible apply State.clearMemories_within
    | with_reducible apply State.onDie_within
    | with_reducible apply Within.ite
    | with_reducible apply Within.foldl
    | with_reducible apply Within.foldl_fst
    | with_reducible apply Within.of_eq (by with_reducible assumption)
    | intro _
    | split
    | dsimp only

theorem State.clearRecord_within {s : State} (d : DieId) (r : Option (Ctx × Encl)) (hW : Within Ps s₀ s) (_ : .regs ∈ Ps) (_ : .dies ∈ Ps) (_ : .chains ∈ Ps) :
    Within Ps s₀ (State.clearRecord s d r) := by
  unfold State.clearRecord
  repeat' first
    | with_reducible assumption
    | with_reducible apply State.orReg_within
    | with_reducible apply State.setReg_within
    | with_reducible apply State.onDie_within
    | with_reducible apply State.append_within
    | with_reducible apply Within.ite
    | with_reducible apply Within.foldl
    | with_reducible apply Within.foldl_fst
    | with_reducible apply Within.of_eq (by with_reducible assumption)
    | intro _
    | split
    | dsimp only

theorem State.clearComplete_within {s : State} (d : DieId) (hW : Within Ps s₀ s) (_ : .regs ∈ Ps) (_ : .ws ∈ Ps) (_ : .am ∈ Ps) (_ : .psm ∈ Ps) (_ : .cs ∈ Ps) (_ : .tb ∈ Ps) (_ : .pm ∈ Ps) (_ : .cores ∈ Ps) (_ : .dies ∈ Ps) (_ : .chains ∈ Ps) :
    Within Ps s₀ (State.clearComplete s d) := by
  unfold State.clearComplete
  repeat' first
    | with_reducible assumption
    | with_reducible apply State.clearRecord_within
    | with_reducible apply State.setOwn_within
    | with_reducible apply State.clearDie_within
    | with_reducible apply Within.ite
    | with_reducible apply Within.foldl
    | with_reducible apply Within.foldl_fst
    | with_reducible apply Within.of_eq (by with_reducible assumption)
    | intro _
    | split
    | dsimp only

theorem State.remapWrite_within {s : State} (d : DieId) (v : Word32) (hW : Within Ps s₀ s) (_ : .regs ∈ Ps) (_ : .deferred ∈ Ps) :
    Within Ps s₀ (State.remapWrite s d v) := by
  unfold State.remapWrite
  repeat' first
    | with_reducible assumption
    | with_reducible apply State.setReg_within
    | with_reducible apply State.owes_within
    | with_reducible apply Within.ite
    | with_reducible apply Within.foldl
    | with_reducible apply Within.foldl_fst
    | with_reducible apply Within.of_eq (by with_reducible assumption)
    | intro _
    | split
    | dsimp only

end Sys2Proof.Machine
end

