-- ==== Sys2Proof/Laws/WithinMail.lean ====
section
/-! SUPPORT. What the operations of Machine/Mail.lean may change. -/

set_option linter.unusedTactic false
set_option linter.unreachableTactic false
set_option linter.unusedVariables false

namespace Sys2Proof.Machine

variable {Ps : List Part} {s₀ : State}

theorem State.hostIrq_within {s : State} (f : ℕ) (bit : ℕ) (hW : Within Ps s₀ s) (_ : .regs ∈ Ps) :
    Within Ps s₀ (State.hostIrq s f bit) := by
  unfold State.hostIrq
  repeat' first
    | with_reducible assumption
    | with_reducible apply State.emit_within
    | with_reducible apply State.orReg_within
    | with_reducible apply Within.ite
    | with_reducible apply Within.foldl
    | with_reducible apply Within.foldl_fst
    | with_reducible apply Within.of_eq (by with_reducible assumption)
    | intro _
    | split
    | dsimp only

theorem State.hostFault_within {s : State} (f : ℕ) (bit : ℕ) (hW : Within Ps s₀ s) (_ : .regs ∈ Ps) :
    Within Ps s₀ (State.hostFault s f bit) := by
  unfold State.hostFault
  repeat' first
    | with_reducible assumption
    | with_reducible apply State.hostIrq_within
    | with_reducible apply State.orReg_within
    | with_reducible apply Within.ite
    | with_reducible apply Within.foldl
    | with_reducible apply Within.foldl_fst
    | with_reducible apply Within.of_eq (by with_reducible assumption)
    | intro _
    | split
    | dsimp only

theorem State.mailTo_within {s : State} (f : ℕ) (ty : ℕ) (tag : ℕ) (body : List Byte) (hW : Within Ps s₀ s) (_ : .regs ∈ Ps) (_ : .mail ∈ Ps) :
    Within Ps s₀ (State.mailTo s f ty tag body) := by
  unfold State.mailTo
  repeat' first
    | with_reducible assumption
    | with_reducible apply State.mailSet_within
    | with_reducible apply State.emit_within
    | with_reducible apply State.hostIrq_within
    | with_reducible apply State.orReg_within
    | with_reducible apply Within.ite
    | with_reducible apply Within.foldl
    | with_reducible apply Within.foldl_fst
    | with_reducible apply Within.of_eq (by with_reducible assumption)
    | intro _
    | split
    | dsimp only

theorem State.mailTaken_within {s : State} (f : ℕ) (hW : Within Ps s₀ s) (_ : .regs ∈ Ps) :
    Within Ps s₀ (State.mailTaken s f) := by
  unfold State.mailTaken
  repeat' first
    | with_reducible assumption
    | with_reducible apply State.setFld_within
    | with_reducible apply Within.ite
    | with_reducible apply Within.foldl
    | with_reducible apply Within.foldl_fst
    | with_reducible apply Within.of_eq (by with_reducible assumption)
    | intro _
    | split
    | dsimp only

theorem State.lumefSend_within {s : State} (p : Packet) (hW : Within Ps s₀ s) (_ : .routers ∈ Ps) :
    Within Ps s₀ (State.lumefSend s p) := by
  unfold State.lumefSend
  repeat' first
    | with_reducible assumption
    | with_reducible apply State.onRouter_within
    | with_reducible apply Within.ite
    | with_reducible apply Within.foldl
    | with_reducible apply Within.foldl_fst
    | with_reducible apply Within.of_eq (by with_reducible assumption)
    | intro _
    | split
    | dsimp only

end Sys2Proof.Machine
end

