-- ==== Sys2Proof/Laws/WithinElog.lean ====
section
/-! SUPPORT. What the operations of Machine/Elog.lean may change. -/

set_option linter.unusedTactic false
set_option linter.unreachableTactic false
set_option linter.unusedVariables false

namespace Sys2Proof.Machine

variable {Ps : List Part} {s₀ : State}

theorem State.elogAppend_within {s : State} (r : ElogRecord) (hW : Within Ps s₀ s) (_ : .regs ∈ Ps) (_ : .mod ∈ Ps) :
    Within Ps s₀ (State.elogAppend s r) := by
  unfold State.elogAppend
  repeat' first
    | with_reducible assumption
    | with_reducible apply State.count_within
    | with_reducible apply State.onMod_within
    | with_reducible apply Within.ite
    | with_reducible apply Within.foldl
    | with_reducible apply Within.foldl_fst
    | with_reducible apply Within.of_eq (by with_reducible assumption)
    | intro _
    | split
    | dsimp only

theorem State.logRecord_within {s : State} (r : ElogRecord) (hW : Within Ps s₀ s) (_ : .regs ∈ Ps) (_ : .ctxs ∈ Ps) (_ : .mod ∈ Ps) :
    Within Ps s₀ (State.logRecord s r) := by
  unfold State.logRecord
  repeat' first
    | with_reducible assumption
    | with_reducible apply State.elogAppend_within
    | with_reducible apply State.onCtx_within
    | with_reducible apply Within.ite
    | with_reducible apply Within.foldl
    | with_reducible apply Within.foldl_fst
    | with_reducible apply Within.of_eq (by with_reducible assumption)
    | intro _
    | split
    | dsimp only

theorem State.withdraw_within {s : State} (d : DieId) (hW : Within Ps s₀ s) (_ : .mod ∈ Ps) :
    Within Ps s₀ (State.withdraw s d) := by
  unfold State.withdraw
  repeat' first
    | with_reducible assumption
    | with_reducible apply State.onMod_within
    | with_reducible apply Within.ite
    | with_reducible apply Within.foldl
    | with_reducible apply Within.foldl_fst
    | with_reducible apply Within.of_eq (by with_reducible assumption)
    | intro _
    | split
    | dsimp only

theorem State.spareCore_within {s : State} (c : CoreId) (hW : Within Ps s₀ s) (_ : .regs ∈ Ps) (_ : .deferred ∈ Ps) (_ : .mod ∈ Ps) :
    Within Ps s₀ (State.spareCore s c) := by
  unfold State.spareCore
  repeat' first
    | with_reducible assumption
    | with_reducible apply State.remapWrite_within
    | with_reducible apply State.withdraw_within
    | with_reducible apply Within.ite
    | with_reducible apply Within.foldl
    | with_reducible apply Within.foldl_fst
    | with_reducible apply Within.of_eq (by with_reducible assumption)
    | intro _
    | split
    | dsimp only

theorem State.retireWs_within {s : State} (c : CoreId) (layer : ℕ) (row : ℕ) (hW : Within Ps s₀ s) (_ : .regs ∈ Ps) (_ : .cores ∈ Ps) (_ : .mod ∈ Ps) :
    Within Ps s₀ (State.retireWs s c layer row) := by
  unfold State.retireWs
  repeat' first
    | with_reducible assumption
    | with_reducible apply State.withdraw_within
    | with_reducible apply State.mxRetire_within
    | with_reducible apply Within.ite
    | with_reducible apply Within.foldl
    | with_reducible apply Within.foldl_fst
    | with_reducible apply Within.of_eq (by with_reducible assumption)
    | intro _
    | split
    | dsimp only

theorem State.retireCs_within {s : State} (d : DieId) (slice : ℕ) (row : ℕ) (hW : Within Ps s₀ s) (_ : .regs ∈ Ps) (_ : .dies ∈ Ps) (_ : .mod ∈ Ps) :
    Within Ps s₀ (State.retireCs s d slice row) := by
  unfold State.retireCs
  repeat' first
    | with_reducible assumption
    | with_reducible apply State.withdraw_within
    | with_reducible apply State.pgmRetire_within
    | with_reducible apply Within.ite
    | with_reducible apply Within.foldl
    | with_reducible apply Within.foldl_fst
    | with_reducible apply Within.of_eq (by with_reducible assumption)
    | intro _
    | split
    | dsimp only

theorem State.unpresent_within {s : State} (x : Ctx) (n : ℕ) (hW : Within Ps s₀ s) (_ : .ctxs ∈ Ps) :
    Within Ps s₀ (State.unpresent s x n) := by
  unfold State.unpresent
  repeat' first
    | with_reducible assumption
    | with_reducible apply State.onCtx_within
    | with_reducible apply Within.ite
    | with_reducible apply Within.foldl
    | with_reducible apply Within.foldl_fst
    | with_reducible apply Within.of_eq (by with_reducible assumption)
    | intro _
    | split
    | dsimp only

theorem State.repair_within {s : State} (x : Repair) (h : Within Ps s₀ s) (_ : .regs ∈ Ps) (_ : .cores ∈ Ps) (_ : .dies ∈ Ps) (_ : .ctxs ∈ Ps) (_ : .links ∈ Ps) (_ : .mod ∈ Ps) (_ : .deferred ∈ Ps) : Within Ps s₀ (State.repair s x) := by
  unfold State.repair
  split
  all_goals
    repeat' first
      | with_reducible assumption
      | with_reducible apply State.retireWs_within
      | with_reducible apply State.onLink_within
      | with_reducible apply State.withdraw_within
      | with_reducible apply State.spareCore_within
      | with_reducible apply State.retireCs_within
      | with_reducible apply State.unpresent_within
      | with_reducible apply State.onMod_within
      | with_reducible apply Within.ite
      | with_reducible apply Within.foldl
      | with_reducible apply Within.foldl_fst
      | with_reducible apply Within.of_eq (by with_reducible assumption)
      | intro _
      | split
      | dsimp only

theorem State.fault_within {s : State} (cls : ℕ) (key : ℕ) (zero : Bool) (unit : ℕ) (x : Ctx) (loc : ℕ) (rep : Repair) (hW : Within Ps s₀ s) (_ : .regs ∈ Ps) (_ : .deferred ∈ Ps) (_ : .cores ∈ Ps) (_ : .dies ∈ Ps) (_ : .ctxs ∈ Ps) (_ : .links ∈ Ps) (_ : .mod ∈ Ps) :
    Within Ps s₀ (State.fault s cls key zero unit x loc rep) := by
  unfold State.fault
  repeat' first
    | with_reducible assumption
    | with_reducible apply State.logRecord_within
    | with_reducible apply State.onMod_within
    | with_reducible apply State.repair_within
    | with_reducible apply Within.ite
    | with_reducible apply Within.foldl
    | with_reducible apply Within.foldl_fst
    | with_reducible apply Within.of_eq (by with_reducible assumption)
    | intro _
    | split
    | dsimp only

theorem State.look_within {s : State} (b : Blk) (off : ℕ) (hW : Within Ps s₀ s) (_ : .mod ∈ Ps) :
    Within Ps s₀ (State.look s b off) := by
  unfold State.look
  repeat' first
    | with_reducible assumption
    | with_reducible apply State.onMod_within
    | with_reducible apply Within.ite
    | with_reducible apply Within.foldl
    | with_reducible apply Within.foldl_fst
    | with_reducible apply Within.of_eq (by with_reducible assumption)
    | intro _
    | split
    | dsimp only

theorem State.scanReg_within {s : State} (b : Blk) (off : ℕ) (mask : ℕ) (cls : ℕ) (key : ℕ) (unit : ℕ) (x : Ctx) (loc : ℕ) (rep : Repair) (hW : Within Ps s₀ s) (_ : .regs ∈ Ps) (_ : .deferred ∈ Ps) (_ : .cores ∈ Ps) (_ : .dies ∈ Ps) (_ : .ctxs ∈ Ps) (_ : .links ∈ Ps) (_ : .mod ∈ Ps) :
    Within Ps s₀ (State.scanReg s b off mask cls key unit x loc rep) := by
  unfold State.scanReg
  repeat' first
    | with_reducible assumption
    | with_reducible apply State.fault_within
    | with_reducible apply Within.ite
    | with_reducible apply Within.foldl
    | with_reducible apply Within.foldl_fst
    | with_reducible apply Within.of_eq (by with_reducible assumption)
    | intro _
    | split
    | dsimp only

theorem State.scanCore_within {s : State} (x : Ctx) (c : CoreId) (hW : Within Ps s₀ s) (_ : .regs ∈ Ps) (_ : .deferred ∈ Ps) (_ : .cores ∈ Ps) (_ : .dies ∈ Ps) (_ : .ctxs ∈ Ps) (_ : .links ∈ Ps) (_ : .mod ∈ Ps) :
    Within Ps s₀ (State.scanCore s x c) := by
  unfold State.scanCore
  repeat' first
    | with_reducible assumption
    | with_reducible apply State.scanReg_within
    | with_reducible apply State.look_within
    | with_reducible apply Within.ite
    | with_reducible apply Within.foldl
    | with_reducible apply Within.foldl_fst
    | with_reducible apply Within.of_eq (by with_reducible assumption)
    | intro _
    | split
    | dsimp only

theorem State.scanCs_within {s : State} (x : Ctx) (d : DieId) (hW : Within Ps s₀ s) (_ : .regs ∈ Ps) (_ : .deferred ∈ Ps) (_ : .cores ∈ Ps) (_ : .dies ∈ Ps) (_ : .ctxs ∈ Ps) (_ : .links ∈ Ps) (_ : .mod ∈ Ps) :
    Within Ps s₀ (State.scanCs s x d) := by
  unfold State.scanCs
  repeat' first
    | with_reducible assumption
    | with_reducible apply State.onDie_within
    | with_reducible apply State.fault_within
    | with_reducible apply Within.ite
    | with_reducible apply Within.foldl
    | with_reducible apply Within.foldl_fst
    | with_reducible apply Within.of_eq (by with_reducible assumption)
    | intro _
    | split
    | dsimp only

theorem State.scanDie_within {s : State} (x : Ctx) (d : DieId) (hW : Within Ps s₀ s) (_ : .regs ∈ Ps) (_ : .deferred ∈ Ps) (_ : .cores ∈ Ps) (_ : .dies ∈ Ps) (_ : .ctxs ∈ Ps) (_ : .links ∈ Ps) (_ : .mod ∈ Ps) :
    Within Ps s₀ (State.scanDie s x d) := by
  unfold State.scanDie
  repeat' first
    | with_reducible assumption
    | with_reducible apply State.scanReg_within
    | with_reducible apply State.look_within
    | with_reducible apply State.scanCs_within
    | with_reducible apply Within.ite
    | with_reducible apply Within.foldl
    | with_reducible apply Within.foldl_fst
    | with_reducible apply Within.of_eq (by with_reducible assumption)
    | intro _
    | split
    | dsimp only

theorem State.scanFaults_within {s : State} (x : Ctx) (hW : Within Ps s₀ s) (_ : .regs ∈ Ps) (_ : .deferred ∈ Ps) (_ : .cores ∈ Ps) (_ : .dies ∈ Ps) (_ : .ctxs ∈ Ps) (_ : .links ∈ Ps) (_ : .mod ∈ Ps) :
    Within Ps s₀ (State.scanFaults s x) := by
  unfold State.scanFaults
  repeat' first
    | with_reducible assumption
    | with_reducible apply State.scanCore_within
    | with_reducible apply State.scanDie_within
    | with_reducible apply State.scanReg_within
    | with_reducible apply State.look_within
    | with_reducible apply Within.ite
    | with_reducible apply Within.foldl
    | with_reducible apply Within.foldl_fst
    | with_reducible apply Within.of_eq (by with_reducible assumption)
    | intro _
    | split
    | dsimp only

end Sys2Proof.Machine
end

