-- ==== Sys2Proof/Laws/WithinLink.lean ====
section
/-! SUPPORT. What the operations of Machine/Link.lean may change. -/

set_option linter.unusedTactic false
set_option linter.unreachableTactic false
set_option linter.unusedVariables false

namespace Sys2Proof.Machine

variable {Ps : List Part} {s₀ : State}

theorem State.drop_within {s : State} (i : IoId) (cause : ℕ) (hW : Within Ps s₀ s) (_ : .routers ∈ Ps) :
    Within Ps s₀ (State.drop s i cause) := by
  unfold State.drop
  repeat' first
    | with_reducible assumption
    | with_reducible apply State.onRouter_within
    | with_reducible apply Within.ite
    | with_reducible apply Within.foldl
    | with_reducible apply Within.foldl_fst
    | with_reducible apply Within.of_eq (by with_reducible assumption)
    | intro _
    | split
    | dsimp only

theorem State.routerFault_within {s : State} (i : IoId) (bit : ℕ) (hW : Within Ps s₀ s) (_ : .regs ∈ Ps) :
    Within Ps s₀ (State.routerFault s i bit) := by
  unfold State.routerFault
  repeat' first
    | with_reducible assumption
    | with_reducible apply State.orReg_within
    | with_reducible apply Within.ite
    | with_reducible apply Within.foldl
    | with_reducible apply Within.foldl_fst
    | with_reducible apply Within.of_eq (by with_reducible assumption)
    | intro _
    | split
    | dsimp only

theorem State.credit_within {s : State} (l : LinkId) (hW : Within Ps s₀ s) (_ : .links ∈ Ps) :
    Within Ps s₀ (State.credit s l).1 := by
  unfold State.credit
  repeat' first
    | with_reducible assumption
    | with_reducible apply State.setLink_within
    | with_reducible apply Within.ite
    | with_reducible apply Within.foldl
    | with_reducible apply Within.foldl_fst
    | with_reducible apply Within.of_eq (by with_reducible assumption)
    | intro _
    | split
    | dsimp only

theorem State.sendControl_within {s : State} (l : LinkId) (body : ℕ) (hW : Within Ps s₀ s) (_ : .links ∈ Ps) :
    Within Ps s₀ (State.sendControl s l body) := by
  unfold State.sendControl
  repeat' first
    | with_reducible assumption
    | with_reducible apply State.onLink_within
    | with_reducible apply Within.ite
    | with_reducible apply Within.foldl
    | with_reducible apply Within.foldl_fst
    | with_reducible apply Within.of_eq (by with_reducible assumption)
    | intro _
    | split
    | dsimp only

theorem State.putControl_within {s : State} (l : LinkId) (body : ℕ) (hW : Within Ps s₀ s) (_ : .links ∈ Ps) :
    Within Ps s₀ (State.putControl s l body) := by
  unfold State.putControl
  repeat' first
    | with_reducible assumption
    | with_reducible apply State.credit_within
    | with_reducible apply State.emit_within
    | with_reducible apply Within.ite
    | with_reducible apply Within.foldl
    | with_reducible apply Within.foldl_fst
    | with_reducible apply Within.of_eq (by with_reducible assumption)
    | intro _
    | split
    | dsimp only

theorem State.freeRx_within {s : State} (l : LinkId) (p : Packet) (hW : Within Ps s₀ s) (_ : .links ∈ Ps) :
    Within Ps s₀ (State.freeRx s l p) := by
  unfold State.freeRx
  repeat' first
    | with_reducible assumption
    | with_reducible apply State.onLink_within
    | with_reducible apply Within.ite
    | with_reducible apply Within.foldl
    | with_reducible apply Within.foldl_fst
    | with_reducible apply Within.of_eq (by with_reducible assumption)
    | intro _
    | split
    | dsimp only

theorem State.rimshot_within {s : State} (l : LinkId) (h : Header) (hW : Within Ps s₀ s) (_ : .routers ∈ Ps) :
    Within Ps s₀ (State.rimshot s l h).1 := by
  unfold State.rimshot
  repeat' first
    | with_reducible assumption
    | with_reducible apply State.onRouter_within
    | with_reducible apply Within.ite
    | with_reducible apply Within.foldl
    | with_reducible apply Within.foldl_fst
    | with_reducible apply Within.of_eq (by with_reducible assumption)
    | intro _
    | split
    | dsimp only

theorem State.startPacket_within {s : State} (l : LinkId) (e : Packet × ℕ) (start : ℕ) (hW : Within Ps s₀ s) (_ : .links ∈ Ps) :
    Within Ps s₀ (State.startPacket s l e start).1 := by
  unfold State.startPacket
  repeat' first
    | with_reducible assumption
    | with_reducible apply State.setLink_within
    | with_reducible apply Within.ite
    | with_reducible apply Within.foldl
    | with_reducible apply Within.foldl_fst
    | with_reducible apply Within.of_eq (by with_reducible assumption)
    | intro _
    | split
    | dsimp only

theorem State.opLeft_within {s : State} (h : Header) (hW : Within Ps s₀ s) (_ : .cores ∈ Ps) (_ : .routers ∈ Ps) :
    Within Ps s₀ (State.opLeft s h) := by
  unfold State.opLeft
  repeat' first
    | with_reducible assumption
    | with_reducible apply State.onRouter_within
    | with_reducible apply State.opFinish_within
    | with_reducible apply Within.ite
    | with_reducible apply Within.foldl
    | with_reducible apply Within.foldl_fst
    | with_reducible apply Within.of_eq (by with_reducible assumption)
    | intro _
    | split
    | dsimp only

theorem State.packetSent_within {s : State} (l : LinkId) (hW : Within Ps s₀ s) (_ : .cores ∈ Ps) (_ : .links ∈ Ps) (_ : .routers ∈ Ps) :
    Within Ps s₀ (State.packetSent s l) := by
  unfold State.packetSent
  repeat' first
    | with_reducible assumption
    | with_reducible apply State.opLeft_within
    | with_reducible apply State.emit_within
    | with_reducible apply State.onLink_within
    | with_reducible apply Within.ite
    | with_reducible apply Within.foldl
    | with_reducible apply Within.foldl_fst
    | with_reducible apply Within.of_eq (by with_reducible assumption)
    | intro _
    | split
    | dsimp only

theorem State.putPacket_within {s : State} (l : LinkId) (p : Packet) (effect : ℕ) (start : ℕ) (hW : Within Ps s₀ s) (_ : .cores ∈ Ps) (_ : .links ∈ Ps) (_ : .routers ∈ Ps) :
    Within Ps s₀ (State.putPacket s l p effect start) := by
  unfold State.putPacket
  repeat' first
    | with_reducible assumption
    | with_reducible apply State.credit_within
    | with_reducible apply State.onLink_within
    | with_reducible apply State.packetSent_within
    | with_reducible apply Within.ite
    | with_reducible apply Within.foldl
    | with_reducible apply Within.foldl_fst
    | with_reducible apply Within.of_eq (by with_reducible assumption)
    | intro _
    | split
    | dsimp only

theorem State.unhold_within {s : State} (l : LinkId) (vc : BitVec 2) (hW : Within Ps s₀ s) (_ : .links ∈ Ps) :
    Within Ps s₀ (State.unhold s l vc) := by
  unfold State.unhold
  repeat' first
    | with_reducible assumption
    | with_reducible apply State.onLink_within
    | with_reducible apply Within.ite
    | with_reducible apply Within.foldl
    | with_reducible apply Within.foldl_fst
    | with_reducible apply Within.of_eq (by with_reducible assumption)
    | intro _
    | split
    | dsimp only

theorem State.wirePacket_within {s : State} (l : LinkId) (p : Packet) (start : ℕ) (hW : Within Ps s₀ s) (_ : .cores ∈ Ps) (_ : .links ∈ Ps) (_ : .routers ∈ Ps) :
    Within Ps s₀ (State.wirePacket s l p start) := by
  unfold State.wirePacket
  repeat' first
    | with_reducible assumption
    | with_reducible apply State.rimshot_within
    | with_reducible apply State.opLeft_within
    | with_reducible apply State.putControl_within
    | with_reducible apply State.onLink_within
    | with_reducible apply State.putPacket_within
    | with_reducible apply State.unhold_within
    | with_reducible apply Within.ite
    | with_reducible apply Within.foldl
    | with_reducible apply Within.foldl_fst
    | with_reducible apply Within.of_eq (by with_reducible assumption)
    | intro _
    | split
    | dsimp only

theorem State.takeCtl_within {s : State} (l : LinkId) (b : ℕ) (hW : Within Ps s₀ s) (_ : .links ∈ Ps) (_ : .mod ∈ Ps) :
    Within Ps s₀ (State.takeCtl s l b) := by
  unfold State.takeCtl
  repeat' first
    | with_reducible assumption
    | with_reducible apply State.onLink_within
    | with_reducible apply State.putControl_within
    | with_reducible apply State.onMod_within
    | with_reducible apply Within.ite
    | with_reducible apply Within.foldl
    | with_reducible apply Within.foldl_fst
    | with_reducible apply Within.of_eq (by with_reducible assumption)
    | intro _
    | split
    | dsimp only

theorem State.headerSlot_within {s t : State} {l : LinkId} {start : ℕ} (e : State.headerSlot s l start = some t) (h : Within Ps s₀ s) (_ : .cores ∈ Ps) (_ : .links ∈ Ps) (_ : .routers ∈ Ps) :
    Within Ps s₀ t := by
  unfold State.headerSlot at e
  try dsimp only at e
  repeat' first
    | contradiction
    | (cases e; skip)
    | split at e
  all_goals
    repeat' first
      | with_reducible assumption
      | with_reducible apply State.putPacket_within
      | with_reducible apply State.onLink_within
      | with_reducible apply State.startPacket_within
      | with_reducible apply State.wirePacket_within
      | with_reducible apply Within.ite
      | with_reducible apply Within.foldl
      | with_reducible apply Within.foldl_fst
      | with_reducible apply Within.of_eq (by with_reducible assumption)
      | intro _
      | split
      | dsimp only

theorem State.frame_within {s : State} (l : LinkId) (hW : Within Ps s₀ s) (_ : .cores ∈ Ps) (_ : .links ∈ Ps) (_ : .routers ∈ Ps) (_ : .mod ∈ Ps) :
    Within Ps s₀ (State.frame s l) := by
  unfold State.frame
  repeat' first
    | with_reducible assumption
    | with_reducible apply State.onLink_within
    | with_reducible apply State.packetSent_within
    | with_reducible apply State.takeCtl_within
    | with_reducible apply State.headerSlot_within (by with_reducible assumption)
    | with_reducible apply Within.ite
    | with_reducible apply Within.foldl
    | with_reducible apply Within.foldl_fst
    | with_reducible apply Within.of_eq (by with_reducible assumption)
    | intro _
    | split
    | dsimp only

theorem State.linkFrame_within {s : State} (l : LinkId) (hW : Within Ps s₀ s) (_ : .cores ∈ Ps) (_ : .links ∈ Ps) (_ : .routers ∈ Ps) (_ : .mod ∈ Ps) :
    Within Ps s₀ (State.linkFrame s l) := by
  unfold State.linkFrame
  repeat' first
    | with_reducible assumption
    | with_reducible apply State.frame_within
    | with_reducible apply State.onLink_within
    | with_reducible apply Within.ite
    | with_reducible apply Within.foldl
    | with_reducible apply Within.foldl_fst
    | with_reducible apply Within.of_eq (by with_reducible assumption)
    | intro _
    | split
    | dsimp only

theorem State.linkFrames_within {s : State} (hW : Within Ps s₀ s) (_ : .cores ∈ Ps) (_ : .links ∈ Ps) (_ : .routers ∈ Ps) (_ : .mod ∈ Ps) :
    Within Ps s₀ (State.linkFrames s) := by
  unfold State.linkFrames
  repeat' first
    | with_reducible assumption
    | with_reducible apply State.linkFrame_within
    | with_reducible apply Within.ite
    | with_reducible apply Within.foldl
    | with_reducible apply Within.foldl_fst
    | with_reducible apply Within.of_eq (by with_reducible assumption)
    | intro _
    | split
    | dsimp only

theorem State.linkJoin_within {s : State} (l : LinkId) (arrival : Option LinkId) (p : Packet) (hW : Within Ps s₀ s) (_ : .regs ∈ Ps) (_ : .links ∈ Ps) (_ : .routers ∈ Ps) :
    Within Ps s₀ (State.linkJoin s l arrival p) := by
  unfold State.linkJoin
  repeat' first
    | with_reducible assumption
    | with_reducible apply State.drop_within
    | with_reducible apply State.routerFault_within
    | with_reducible apply State.setLink_within
    | with_reducible apply Within.ite
    | with_reducible apply Within.foldl
    | with_reducible apply Within.foldl_fst
    | with_reducible apply Within.of_eq (by with_reducible assumption)
    | intro _
    | split
    | dsimp only

theorem State.flood_within {s : State} (skip : Option LinkId) (fa : ℕ) (fb : ℕ) (fc : ℕ) (body : List Byte) (hW : Within Ps s₀ s) (_ : .regs ∈ Ps) (_ : .links ∈ Ps) (_ : .routers ∈ Ps) :
    Within Ps s₀ (State.flood s skip fa fb fc body) := by
  unfold State.flood
  repeat' first
    | with_reducible assumption
    | with_reducible apply State.linkJoin_within
    | with_reducible apply Within.ite
    | with_reducible apply Within.foldl
    | with_reducible apply Within.foldl_fst
    | with_reducible apply Within.of_eq (by with_reducible assumption)
    | intro _
    | split
    | dsimp only

theorem State.floodCensus_within {s : State} (skip : Option LinkId) (e : ℕ) (weight : ℕ) (dig : ℕ) (hW : Within Ps s₀ s) (_ : .regs ∈ Ps) (_ : .links ∈ Ps) (_ : .routers ∈ Ps) :
    Within Ps s₀ (State.floodCensus s skip e weight dig) := by
  unfold State.floodCensus
  repeat' first
    | with_reducible assumption
    | with_reducible apply State.flood_within
    | with_reducible apply Within.ite
    | with_reducible apply Within.foldl
    | with_reducible apply Within.foldl_fst
    | with_reducible apply Within.of_eq (by with_reducible assumption)
    | intro _
    | split
    | dsimp only

theorem State.ownCensus_within {s : State} (hW : Within Ps s₀ s) (_ : .regs ∈ Ps) (_ : .links ∈ Ps) (_ : .routers ∈ Ps) (_ : .mod ∈ Ps) :
    Within Ps s₀ (State.ownCensus s) := by
  unfold State.ownCensus
  repeat' first
    | with_reducible assumption
    | with_reducible apply State.floodCensus_within
    | with_reducible apply State.onMod_within
    | with_reducible apply Within.ite
    | with_reducible apply Within.foldl
    | with_reducible apply Within.foldl_fst
    | with_reducible apply Within.of_eq (by with_reducible assumption)
    | intro _
    | split
    | dsimp only

theorem State.askReach_within {s : State} (l : LinkId) (hW : Within Ps s₀ s) (_ : .mod ∈ Ps) :
    Within Ps s₀ (State.askReach s l) := by
  unfold State.askReach
  repeat' first
    | with_reducible assumption
    | with_reducible apply State.emit_within
    | with_reducible apply State.onMod_within
    | with_reducible apply Within.ite
    | with_reducible apply Within.foldl
    | with_reducible apply Within.foldl_fst
    | with_reducible apply Within.of_eq (by with_reducible assumption)
    | intro _
    | split
    | dsimp only

theorem State.linkToDown_within {s : State} (l : LinkId) (hW : Within Ps s₀ s) (_ : .regs ∈ Ps) (_ : .deferred ∈ Ps) (_ : .cores ∈ Ps) (_ : .dies ∈ Ps) (_ : .ctxs ∈ Ps) (_ : .links ∈ Ps) (_ : .routers ∈ Ps) (_ : .mod ∈ Ps) :
    Within Ps s₀ (State.linkToDown s l) := by
  unfold State.linkToDown
  repeat' first
    | with_reducible assumption
    | with_reducible apply State.drop_within
    | with_reducible apply State.setLink_within
    | with_reducible apply State.fault_within
    | with_reducible apply State.ownCensus_within
    | with_reducible apply State.askReach_within
    | with_reducible apply Within.ite
    | with_reducible apply Within.foldl
    | with_reducible apply Within.foldl_fst
    | with_reducible apply Within.of_eq (by with_reducible assumption)
    | intro _
    | split
    | dsimp only

theorem State.linkAdmit_within {s : State} (l : LinkId) (hW : Within Ps s₀ s) (_ : .regs ∈ Ps) (_ : .links ∈ Ps) :
    Within Ps s₀ (State.linkAdmit s l) := by
  unfold State.linkAdmit
  repeat' first
    | with_reducible assumption
    | with_reducible apply State.setLink_within
    | with_reducible apply State.routerFault_within
    | with_reducible apply Within.ite
    | with_reducible apply Within.foldl
    | with_reducible apply Within.foldl_fst
    | with_reducible apply Within.of_eq (by with_reducible assumption)
    | intro _
    | split
    | dsimp only

theorem State.loseCur_within {s : State} (l : LinkId) (hW : Within Ps s₀ s) (_ : .cores ∈ Ps) (_ : .links ∈ Ps) (_ : .routers ∈ Ps) :
    Within Ps s₀ (State.loseCur s l) := by
  unfold State.loseCur
  repeat' first
    | with_reducible assumption
    | with_reducible apply State.opLeft_within
    | with_reducible apply State.onLink_within
    | with_reducible apply Within.ite
    | with_reducible apply Within.foldl
    | with_reducible apply Within.foldl_fst
    | with_reducible apply Within.of_eq (by with_reducible assumption)
    | intro _
    | split
    | dsimp only

theorem State.takeCredit_within {s : State} (l : LinkId) (control : ℕ) (hW : Within Ps s₀ s) (_ : .links ∈ Ps) :
    Within Ps s₀ (State.takeCredit s l control) := by
  unfold State.takeCredit
  repeat' first
    | with_reducible assumption
    | with_reducible apply State.onLink_within
    | with_reducible apply Within.ite
    | with_reducible apply Within.foldl
    | with_reducible apply Within.foldl_fst
    | with_reducible apply Within.of_eq (by with_reducible assumption)
    | intro _
    | split
    | dsimp only

theorem State.session_within {s : State} (l : LinkId) (secret : Option Digest) (hW : Within Ps s₀ s) (_ : .regs ∈ Ps) (_ : .links ∈ Ps) :
    Within Ps s₀ (State.session s l secret) := by
  unfold State.session
  repeat' first
    | with_reducible assumption
    | with_reducible apply State.setLink_within
    | with_reducible apply State.orReg_within
    | with_reducible apply Within.ite
    | with_reducible apply Within.foldl
    | with_reducible apply Within.foldl_fst
    | with_reducible apply Within.of_eq (by with_reducible assumption)
    | intro _
    | split
    | dsimp only

theorem State.rekey_within {s : State} (l : LinkId) (hW : Within Ps s₀ s) (_ : .regs ∈ Ps) (_ : .links ∈ Ps) :
    Within Ps s₀ (State.rekey s l) := by
  unfold State.rekey
  repeat' first
    | with_reducible assumption
    | with_reducible apply State.orReg_within
    | with_reducible apply State.onLink_within
    | with_reducible apply Within.ite
    | with_reducible apply Within.foldl
    | with_reducible apply Within.foldl_fst
    | with_reducible apply Within.of_eq (by with_reducible assumption)
    | intro _
    | split
    | dsimp only

end Sys2Proof.Machine
end

