-- ==== Sys2Proof/Laws/WithinCarillon.lean ====
section
/-! SUPPORT. What the operations of Machine/Carillon.lean may change. -/

set_option linter.unusedTactic false
set_option linter.unreachableTactic false
set_option linter.unusedVariables false

namespace Sys2Proof.Machine

variable {Ps : List Part} {s₀ : State}

theorem State.carEnter_within {s : State} (st : ℕ) (hW : Within Ps s₀ s) (_ : .regs ∈ Ps) (_ : .mod ∈ Ps) :
    Within Ps s₀ (State.carEnter s st) := by
  unfold State.carEnter
  repeat' first
    | with_reducible assumption
    | with_reducible apply State.onMod_within
    | with_reducible apply State.setFld_within
    | with_reducible apply Within.ite
    | with_reducible apply Within.foldl
    | with_reducible apply Within.foldl_fst
    | with_reducible apply Within.of_eq (by with_reducible assumption)
    | intro _
    | split
    | dsimp only

theorem State.carDiscipline_within {s : State} (hW : Within Ps s₀ s) (_ : .regs ∈ Ps) (_ : .mod ∈ Ps) :
    Within Ps s₀ (State.carDiscipline s) := by
  unfold State.carDiscipline
  repeat' first
    | with_reducible assumption
    | with_reducible apply State.carEnter_within
    | with_reducible apply Within.ite
    | with_reducible apply Within.foldl
    | with_reducible apply Within.foldl_fst
    | with_reducible apply Within.of_eq (by with_reducible assumption)
    | intro _
    | split
    | dsimp only

theorem State.carLoad_within {s : State} (hW : Within Ps s₀ s) (_ : .regs ∈ Ps) (_ : .deferred ∈ Ps) :
    Within Ps s₀ (State.carLoad s) := by
  unfold State.carLoad
  repeat' first
    | with_reducible assumption
    | with_reducible apply State.raise_within
    | with_reducible apply State.owes_within
    | with_reducible apply State.setFld_within
    | with_reducible apply Within.ite
    | with_reducible apply Within.foldl
    | with_reducible apply Within.foldl_fst
    | with_reducible apply Within.of_eq (by with_reducible assumption)
    | intro _
    | split
    | dsimp only

theorem State.showOffset_within {s : State} (d : ℤ) (hW : Within Ps s₀ s) (_ : .regs ∈ Ps) :
    Within Ps s₀ (State.showOffset s d) := by
  unfold State.showOffset
  repeat' first
    | with_reducible assumption
    | with_reducible apply State.draw_within
    | with_reducible apply State.setFld_within
    | with_reducible apply Within.ite
    | with_reducible apply Within.foldl
    | with_reducible apply Within.foldl_fst
    | with_reducible apply Within.of_eq (by with_reducible assumption)
    | intro _
    | split
    | dsimp only

theorem State.carExchange_within {s : State} (d : ℤ) (hW : Within Ps s₀ s) (_ : .regs ∈ Ps) (_ : .mod ∈ Ps) :
    Within Ps s₀ (State.carExchange s d) := by
  unfold State.carExchange
  repeat' first
    | with_reducible assumption
    | with_reducible apply State.onMod_within
    | with_reducible apply State.carEnter_within
    | with_reducible apply Within.ite
    | with_reducible apply Within.foldl
    | with_reducible apply Within.foldl_fst
    | with_reducible apply Within.of_eq (by with_reducible assumption)
    | intro _
    | split
    | dsimp only

end Sys2Proof.Machine
end

