-- ==== Sys2Proof/Laws/WithinRoute.lean ====
section
/-! SUPPORT. What the operations of Machine/Route.lean may change. -/

set_option linter.unusedTactic false
set_option linter.unreachableTactic false
set_option linter.unusedVariables false

namespace Sys2Proof.Machine

variable {Ps : List Part} {s₀ : State}

theorem State.tableWrite_within {s : State} (i : IoId) (table : Bool) (bank : Bool) (index : ℕ) (lo : ℕ) (hi : ℕ) (hW : Within Ps s₀ s) (_ : .regs ∈ Ps) (_ : .routers ∈ Ps) :
    Within Ps s₀ (State.tableWrite s i table bank index lo hi) := by
  unfold State.tableWrite
  repeat' first
    | with_reducible assumption
    | with_reducible apply State.routerFault_within
    | with_reducible apply State.onRouter_within
    | with_reducible apply Within.ite
    | with_reducible apply Within.foldl
    | with_reducible apply Within.foldl_fst
    | with_reducible apply Within.of_eq (by with_reducible assumption)
    | intro _
    | split
    | dsimp only

theorem State.tableRead_within {s : State} (i : IoId) (table : Bool) (bank : Bool) (index : ℕ) (hW : Within Ps s₀ s) (_ : .regs ∈ Ps) :
    Within Ps s₀ (State.tableRead s i table bank index) := by
  unfold State.tableRead
  repeat' first
    | with_reducible assumption
    | with_reducible apply State.setReg_within
    | with_reducible apply Within.ite
    | with_reducible apply Within.foldl
    | with_reducible apply Within.foldl_fst
    | with_reducible apply Within.of_eq (by with_reducible assumption)
    | intro _
    | split
    | dsimp only

theorem State.tableGo_within {s : State} (i : IoId) (v : ℕ) (hW : Within Ps s₀ s) (_ : .regs ∈ Ps) (_ : .deferred ∈ Ps) :
    Within Ps s₀ (State.tableGo s i v) := by
  unfold State.tableGo
  repeat' first
    | with_reducible assumption
    | with_reducible apply State.routerFault_within
    | with_reducible apply State.draw_within
    | with_reducible apply State.owesIn_within
    | with_reducible apply State.setReg_within
    | with_reducible apply Within.ite
    | with_reducible apply Within.foldl
    | with_reducible apply Within.foldl_fst
    | with_reducible apply Within.of_eq (by with_reducible assumption)
    | intro _
    | split
    | dsimp only

theorem State.tableEnd_within {s : State} (i : IoId) (v : ℕ) (lo : ℕ) (hi : ℕ) (hW : Within Ps s₀ s) (_ : .regs ∈ Ps) (_ : .routers ∈ Ps) :
    Within Ps s₀ (State.tableEnd s i v lo hi) := by
  unfold State.tableEnd
  repeat' first
    | with_reducible assumption
    | with_reducible apply State.setFld_within
    | with_reducible apply State.tableWrite_within
    | with_reducible apply State.tableRead_within
    | with_reducible apply Within.ite
    | with_reducible apply Within.foldl
    | with_reducible apply Within.foldl_fst
    | with_reducible apply Within.of_eq (by with_reducible assumption)
    | intro _
    | split
    | dsimp only

theorem State.retagEnd_within {s : State} (i : IoId) (bank : Bool) (tag : ℕ) (hW : Within Ps s₀ s) (_ : .regs ∈ Ps) :
    Within Ps s₀ (State.retagEnd s i bank tag) := by
  unfold State.retagEnd
  repeat' first
    | with_reducible assumption
    | with_reducible apply State.routerFault_within
    | with_reducible apply State.setFld_within
    | with_reducible apply Within.ite
    | with_reducible apply Within.foldl
    | with_reducible apply Within.foldl_fst
    | with_reducible apply Within.of_eq (by with_reducible assumption)
    | intro _
    | split
    | dsimp only

theorem State.retag_within {s : State} (i : IoId) (bank : Bool) (tag : ℕ) (hW : Within Ps s₀ s) (_ : .regs ∈ Ps) (_ : .deferred ∈ Ps) :
    Within Ps s₀ (State.retag s i bank tag) := by
  unfold State.retag
  repeat' first
    | with_reducible assumption
    | with_reducible apply State.routerFault_within
    | with_reducible apply State.owes_within
    | with_reducible apply Within.ite
    | with_reducible apply Within.foldl
    | with_reducible apply Within.foldl_fst
    | with_reducible apply Within.of_eq (by with_reducible assumption)
    | intro _
    | split
    | dsimp only

theorem State.epochArm_within {s : State} (i : IoId) (staged : ℕ) (hW : Within Ps s₀ s) (_ : .regs ∈ Ps) :
    Within Ps s₀ (State.epochArm s i staged) := by
  unfold State.epochArm
  repeat' first
    | with_reducible assumption
    | with_reducible apply State.routerFault_within
    | with_reducible apply State.setReg_within
    | with_reducible apply Within.ite
    | with_reducible apply Within.foldl
    | with_reducible apply Within.foldl_fst
    | with_reducible apply Within.of_eq (by with_reducible assumption)
    | intro _
    | split
    | dsimp only

theorem State.freeArrival_within {s : State} (a : Option LinkId) (p : Packet) (hW : Within Ps s₀ s) (_ : .links ∈ Ps) :
    Within Ps s₀ (State.freeArrival s a p) := by
  unfold State.freeArrival
  repeat' first
    | with_reducible assumption
    | with_reducible apply State.freeRx_within
    | with_reducible apply Within.ite
    | with_reducible apply Within.foldl
    | with_reducible apply Within.foldl_fst
    | with_reducible apply Within.of_eq (by with_reducible assumption)
    | intro _
    | split
    | dsimp only

theorem State.toDelivered_within {s : State} (i : IoId) (p : Packet) (via : RingTo) (a : Option LinkId) (hW : Within Ps s₀ s) (_ : .routers ∈ Ps) :
    Within Ps s₀ (State.toDelivered s i p via a) := by
  unfold State.toDelivered
  repeat' first
    | with_reducible assumption
    | with_reducible apply State.onRouter_within
    | with_reducible apply Within.ite
    | with_reducible apply Within.foldl
    | with_reducible apply Within.foldl_fst
    | with_reducible apply Within.of_eq (by with_reducible assumption)
    | intro _
    | split
    | dsimp only

theorem State.ringStep_within {s : State} (i : IoId) (e : RingPkt) (hW : Within Ps s₀ s) (_ : .routers ∈ Ps) :
    Within Ps s₀ (State.ringStep s i e) := by
  unfold State.ringStep
  repeat' first
    | with_reducible assumption
    | with_reducible apply State.onRouter_within
    | with_reducible apply Within.ite
    | with_reducible apply Within.foldl
    | with_reducible apply Within.foldl_fst
    | with_reducible apply Within.of_eq (by with_reducible assumption)
    | intro _
    | split
    | dsimp only

theorem State.toRing_within {s : State} (i : IoId) (j : IoId) (p : Packet) (via : RingTo) (a : Option LinkId) (hW : Within Ps s₀ s) (_ : .routers ∈ Ps) :
    Within Ps s₀ (State.toRing s i j p via a) := by
  unfold State.toRing
  repeat' first
    | with_reducible assumption
    | with_reducible apply State.ringStep_within
    | with_reducible apply Within.ite
    | with_reducible apply Within.foldl
    | with_reducible apply Within.foldl_fst
    | with_reducible apply Within.of_eq (by with_reducible assumption)
    | intro _
    | split
    | dsimp only

theorem State.deliver_within {s : State} (i : IoId) (p : Packet) (via : RingTo) (a : Option LinkId) (hW : Within Ps s₀ s) (_ : .links ∈ Ps) (_ : .routers ∈ Ps) :
    Within Ps s₀ (State.deliver s i p via a) := by
  unfold State.deliver
  repeat' first
    | with_reducible assumption
    | with_reducible apply State.toDelivered_within
    | with_reducible apply State.toRing_within
    | with_reducible apply State.freeArrival_within
    | with_reducible apply State.drop_within
    | with_reducible apply Within.ite
    | with_reducible apply Within.foldl
    | with_reducible apply Within.foldl_fst
    | with_reducible apply Within.of_eq (by with_reducible assumption)
    | intro _
    | split
    | dsimp only

theorem State.copies_within {s : State} (i : IoId) (mask : ℕ) (a : Option LinkId) (p : Packet) (hW : Within Ps s₀ s) (_ : .regs ∈ Ps) (_ : .links ∈ Ps) (_ : .routers ∈ Ps) :
    Within Ps s₀ (State.copies s i mask a p) := by
  unfold State.copies
  repeat' first
    | with_reducible assumption
    | with_reducible apply State.linkJoin_within
    | with_reducible apply Within.ite
    | with_reducible apply Within.foldl
    | with_reducible apply Within.foldl_fst
    | with_reducible apply Within.of_eq (by with_reducible assumption)
    | intro _
    | split
    | dsimp only

theorem State.routeMcast_within {s : State} (i : IoId) (bank : Bool) (a : Option LinkId) (p : Packet) (hW : Within Ps s₀ s) (_ : .regs ∈ Ps) (_ : .links ∈ Ps) (_ : .routers ∈ Ps) :
    Within Ps s₀ (State.routeMcast s i bank a p) := by
  unfold State.routeMcast
  repeat' first
    | with_reducible assumption
    | with_reducible apply State.freeArrival_within
    | with_reducible apply State.drop_within
    | with_reducible apply State.copies_within
    | with_reducible apply State.toRing_within
    | with_reducible apply State.deliver_within
    | with_reducible apply Within.ite
    | with_reducible apply Within.foldl
    | with_reducible apply Within.foldl_fst
    | with_reducible apply Within.of_eq (by with_reducible assumption)
    | intro _
    | split
    | dsimp only

theorem State.routeUni_within {s : State} (i : IoId) (bank : Bool) (a : Option LinkId) (p : Packet) (hW : Within Ps s₀ s) (_ : .regs ∈ Ps) (_ : .links ∈ Ps) (_ : .routers ∈ Ps) :
    Within Ps s₀ (State.routeUni s i bank a p) := by
  unfold State.routeUni
  repeat' first
    | with_reducible assumption
    | with_reducible apply State.freeArrival_within
    | with_reducible apply State.drop_within
    | with_reducible apply State.deliver_within
    | with_reducible apply State.linkJoin_within
    | with_reducible apply State.toRing_within
    | with_reducible apply Within.ite
    | with_reducible apply Within.foldl
    | with_reducible apply Within.foldl_fst
    | with_reducible apply Within.of_eq (by with_reducible assumption)
    | intro _
    | split
    | dsimp only

theorem State.routePacket_within {s : State} (i : IoId) (a : Option LinkId) (p : Packet) (hW : Within Ps s₀ s) (_ : .regs ∈ Ps) (_ : .cores ∈ Ps) (_ : .links ∈ Ps) (_ : .routers ∈ Ps) :
    Within Ps s₀ (State.routePacket s i a p) := by
  unfold State.routePacket
  repeat' first
    | with_reducible assumption
    | with_reducible apply State.freeArrival_within
    | with_reducible apply State.drop_within
    | with_reducible apply State.opLeft_within
    | with_reducible apply State.routeMcast_within
    | with_reducible apply State.routeUni_within
    | with_reducible apply Within.ite
    | with_reducible apply Within.foldl
    | with_reducible apply Within.foldl_fst
    | with_reducible apply Within.of_eq (by with_reducible assumption)
    | intro _
    | split
    | dsimp only

theorem State.arrive_within {s : State} (l : LinkId) (p : Packet) (tagOk : Bool) (hW : Within Ps s₀ s) (_ : .regs ∈ Ps) (_ : .cores ∈ Ps) (_ : .links ∈ Ps) (_ : .routers ∈ Ps) :
    Within Ps s₀ (State.arrive s l p tagOk) := by
  unfold State.arrive
  repeat' first
    | with_reducible assumption
    | with_reducible apply State.setLink_within
    | with_reducible apply State.freeRx_within
    | with_reducible apply State.drop_within
    | with_reducible apply State.routerFault_within
    | with_reducible apply State.routePacket_within
    | with_reducible apply Within.ite
    | with_reducible apply Within.foldl
    | with_reducible apply Within.foldl_fst
    | with_reducible apply Within.of_eq (by with_reducible assumption)
    | intro _
    | split
    | dsimp only

theorem State.ringTake_within {s : State} (i : IoId) (hW : Within Ps s₀ s) (_ : .regs ∈ Ps) (_ : .cores ∈ Ps) (_ : .links ∈ Ps) (_ : .routers ∈ Ps) :
    Within Ps s₀ (State.ringTake s i) := by
  unfold State.ringTake
  repeat' first
    | with_reducible assumption
    | with_reducible apply State.onRouter_within
    | with_reducible apply State.ringStep_within
    | with_reducible apply State.opLeft_within
    | with_reducible apply State.linkJoin_within
    | with_reducible apply State.copies_within
    | with_reducible apply State.drop_within
    | with_reducible apply State.toDelivered_within
    | with_reducible apply Within.ite
    | with_reducible apply Within.foldl
    | with_reducible apply Within.foldl_fst
    | with_reducible apply Within.of_eq (by with_reducible assumption)
    | intro _
    | split
    | dsimp only

theorem State.putLeft_within {s : State} (p : Packet) (hW : Within Ps s₀ s) (_ : .cores ∈ Ps) :
    Within Ps s₀ (State.putLeft s p) := by
  unfold State.putLeft
  repeat' first
    | with_reducible assumption
    | with_reducible apply State.onCore_within
    | with_reducible apply Within.ite
    | with_reducible apply Within.foldl
    | with_reducible apply Within.foldl_fst
    | with_reducible apply Within.of_eq (by with_reducible assumption)
    | intro _
    | split
    | dsimp only

theorem State.echo_within {s : State} (c : CoreId) (hW : Within Ps s₀ s) (_ : .cores ∈ Ps) :
    Within Ps s₀ (State.echo s c) := by
  unfold State.echo
  repeat' first
    | with_reducible assumption
    | with_reducible apply State.onCore_within
    | with_reducible apply Within.ite
    | with_reducible apply Within.foldl
    | with_reducible apply Within.foldl_fst
    | with_reducible apply Within.of_eq (by with_reducible assumption)
    | intro _
    | split
    | dsimp only

end Sys2Proof.Machine
end

