-- ==== Sys2Proof/Laws/WithinFabOps.lean ====
section
/-! SUPPORT. What the operations of Machine/FabOps.lean may change. -/

set_option linter.unusedTactic false
set_option linter.unreachableTactic false
set_option linter.unusedVariables false

namespace Sys2Proof.Machine

variable {Ps : List Part} {s₀ : State}

theorem State.fabFault_within {s : State} (bit : ℕ) (hW : Within Ps s₀ s) (_ : .regs ∈ Ps) :
    Within Ps s₀ (State.fabFault s bit) := by
  unfold State.fabFault
  repeat' first
    | with_reducible assumption
    | with_reducible apply State.orReg_within
    | with_reducible apply Within.ite
    | with_reducible apply Within.foldl
    | with_reducible apply Within.foldl_fst
    | with_reducible apply Within.of_eq (by with_reducible assumption)
    | intro _
    | split
    | dsimp only

theorem State.timeoutEvent_within {s : State} (x : Ctx) (e : ℕ) (hW : Within Ps s₀ s) (_ : .regs ∈ Ps) (_ : .deferred ∈ Ps) (_ : .cores ∈ Ps) (_ : .dies ∈ Ps) (_ : .ctxs ∈ Ps) (_ : .links ∈ Ps) (_ : .mod ∈ Ps) :
    Within Ps s₀ (State.timeoutEvent s x e) := by
  unfold State.timeoutEvent
  repeat' first
    | with_reducible assumption
    | with_reducible apply State.fault_within
    | with_reducible apply Within.ite
    | with_reducible apply Within.foldl
    | with_reducible apply Within.foldl_fst
    | with_reducible apply Within.of_eq (by with_reducible assumption)
    | intro _
    | split
    | dsimp only

theorem State.fabRun_within {s : State} (c : CoreId) (mine : DynOp → Bool) (port : DynOp → Bool) (f : State → DynOp → State) (hW : Within Ps s₀ s) (_ : .regs ∈ Ps) (_ : .cores ∈ Ps) (hf : ∀ v0 v1, Within Ps s₀ v0 → Within Ps s₀ (f v0 v1)) :
    Within Ps s₀ (State.fabRun s c mine port f) := by
  unfold State.fabRun
  repeat' first
    | with_reducible assumption
    | with_reducible apply hf
    | with_reducible apply State.opFinish_within
    | with_reducible apply State.fabFault_within
    | with_reducible apply State.opIssue_within
    | with_reducible apply Within.ite
    | with_reducible apply Within.foldl
    | with_reducible apply Within.foldl_fst
    | with_reducible apply Within.of_eq (by with_reducible assumption)
    | intro _
    | split
    | dsimp only

theorem State.inject_within {s : State} (i : IoId) (p : Packet) (hW : Within Ps s₀ s) (_ : .routers ∈ Ps) :
    Within Ps s₀ (State.inject s i p) := by
  unfold State.inject
  repeat' first
    | with_reducible assumption
    | with_reducible apply State.onRouter_within
    | with_reducible apply Within.ite
    | with_reducible apply Within.foldl
    | with_reducible apply Within.foldl_fst
    | with_reducible apply Within.of_eq (by with_reducible assumption)
    | intro _
    | split
    | dsimp only

theorem State.fabOut_within {s : State} (c : CoreId) (o : DynOp) (words : Bool) (hW : Within Ps s₀ s) (_ : .cores ∈ Ps) :
    Within Ps s₀ (State.fabOut s c o words) := by
  unfold State.fabOut
  repeat' first
    | with_reducible assumption
    | with_reducible apply State.onCore_within
    | with_reducible apply Within.ite
    | with_reducible apply Within.foldl
    | with_reducible apply Within.foldl_fst
    | with_reducible apply Within.of_eq (by with_reducible assumption)
    | intro _
    | split
    | dsimp only

theorem State.fabLine_within {s : State} (c : CoreId) (f : FabSend) (l : Line) (p : Bool) (hW : Within Ps s₀ s) (_ : .cores ∈ Ps) :
    Within Ps s₀ (State.fabLine s c f l p) := by
  unfold State.fabLine
  repeat' first
    | with_reducible assumption
    | with_reducible apply State.dynEnter_within
    | with_reducible apply State.onCore_within
    | with_reducible apply Within.ite
    | with_reducible apply Within.foldl
    | with_reducible apply Within.foldl_fst
    | with_reducible apply Within.of_eq (by with_reducible assumption)
    | intro _
    | split
    | dsimp only

theorem State.wordLine_within {s : State} (c : CoreId) (w : ℕ) (n : ℕ) (hW : Within Ps s₀ s) (_ : .regs ∈ Ps) (_ : .cores ∈ Ps) :
    Within Ps s₀ (State.wordLine s c w n).1 := by
  unfold State.wordLine
  repeat' first
    | with_reducible assumption
    | with_reducible apply State.psmReadOld_within
    | with_reducible apply State.draw_within
    | with_reducible apply Within.ite
    | with_reducible apply Within.foldl
    | with_reducible apply Within.foldl_fst
    | with_reducible apply Within.of_eq (by with_reducible assumption)
    | intro _
    | split
    | dsimp only

theorem State.fabRead_within {s : State} (c : CoreId) (hW : Within Ps s₀ s) (_ : .regs ∈ Ps) (_ : .am ∈ Ps) (_ : .cores ∈ Ps) :
    Within Ps s₀ (State.fabRead s c) := by
  unfold State.fabRead
  repeat' first
    | with_reducible assumption
    | with_reducible apply State.wordLine_within
    | with_reducible apply State.fabLine_within
    | with_reducible apply State.claimDyn_within
    | with_reducible apply State.amRead_within
    | with_reducible apply State.draw_within
    | with_reducible apply Within.ite
    | with_reducible apply Within.foldl
    | with_reducible apply Within.foldl_fst
    | with_reducible apply Within.of_eq (by with_reducible assumption)
    | intro _
    | split
    | dsimp only

theorem State.bindSend_within {s : State} (c : CoreId) (b : Binding) (hW : Within Ps s₀ s) (_ : .routers ∈ Ps) :
    Within Ps s₀ (State.bindSend s c b) := by
  unfold State.bindSend
  repeat' first
    | with_reducible assumption
    | with_reducible apply State.inject_within
    | with_reducible apply Within.ite
    | with_reducible apply Within.foldl
    | with_reducible apply Within.foldl_fst
    | with_reducible apply Within.of_eq (by with_reducible assumption)
    | intro _
    | split
    | dsimp only

theorem State.bindFlit_within {s : State} (c : CoreId) (hW : Within Ps s₀ s) (_ : .cores ∈ Ps) (_ : .routers ∈ Ps) :
    Within Ps s₀ (State.bindFlit s c) := by
  unfold State.bindFlit
  repeat' first
    | with_reducible assumption
    | with_reducible apply State.onCore_within
    | with_reducible apply State.bindSend_within
    | with_reducible apply Within.ite
    | with_reducible apply Within.foldl
    | with_reducible apply Within.foldl_fst
    | with_reducible apply Within.of_eq (by with_reducible assumption)
    | intro _
    | split
    | dsimp only

theorem State.bindPump_within {s : State} (c : CoreId) (hW : Within Ps s₀ s) (_ : .cores ∈ Ps) (_ : .routers ∈ Ps) :
    Within Ps s₀ (State.bindPump s c) := by
  unfold State.bindPump
  repeat' first
    | with_reducible assumption
    | with_reducible apply State.bindFlit_within
    | with_reducible apply Within.ite
    | with_reducible apply Within.foldl
    | with_reducible apply Within.foldl_fst
    | with_reducible apply Within.of_eq (by with_reducible assumption)
    | intro _
    | split
    | dsimp only

theorem State.edgeTake_within {s : State} (c : CoreId) (parityError : Bool) (hW : Within Ps s₀ s) (_ : .regs ∈ Ps) (_ : .cores ∈ Ps) (_ : .ctxs ∈ Ps) (_ : .routers ∈ Ps) :
    Within Ps s₀ (State.edgeTake s c parityError) := by
  unfold State.edgeTake
  repeat' first
    | with_reducible assumption
    | with_reducible apply State.onCore_within
    | with_reducible apply State.flagStep_within
    | with_reducible apply State.routerFault_within
    | with_reducible apply State.drop_within
    | with_reducible apply State.bindPump_within
    | with_reducible apply Within.ite
    | with_reducible apply Within.foldl
    | with_reducible apply Within.foldl_fst
    | with_reducible apply Within.of_eq (by with_reducible assumption)
    | intro _
    | split
    | dsimp only

theorem State.edgeEnd_within {s : State} (c : CoreId) (hW : Within Ps s₀ s) (_ : .regs ∈ Ps) (_ : .cores ∈ Ps) (_ : .ctxs ∈ Ps) (_ : .routers ∈ Ps) :
    Within Ps s₀ (State.edgeEnd s c) := by
  unfold State.edgeEnd
  repeat' first
    | with_reducible assumption
    | with_reducible apply State.edgeTake_within
    | with_reducible apply Within.ite
    | with_reducible apply Within.foldl
    | with_reducible apply Within.foldl_fst
    | with_reducible apply Within.of_eq (by with_reducible assumption)
    | intro _
    | split
    | dsimp only

theorem State.emitFrame_within {s : State} (c : CoreId) (o : DynOp) (ls : List (Line × Bool)) (hW : Within Ps s₀ s) (_ : .regs ∈ Ps) (_ : .cores ∈ Ps) (_ : .mod ∈ Ps) :
    Within Ps s₀ (State.emitFrame s c o ls) := by
  unfold State.emitFrame
  repeat' first
    | with_reducible assumption
    | with_reducible apply State.opFinish_within
    | with_reducible apply State.hostFault_within
    | with_reducible apply State.onMod_within
    | with_reducible apply Within.ite
    | with_reducible apply Within.foldl
    | with_reducible apply Within.foldl_fst
    | with_reducible apply Within.of_eq (by with_reducible assumption)
    | intro _
    | split
    | dsimp only

theorem State.takeDelivered_within {s : State} (i : IoId) (e : RingPkt) (hW : Within Ps s₀ s) (_ : .links ∈ Ps) (_ : .routers ∈ Ps) :
    Within Ps s₀ (State.takeDelivered s i e) := by
  unfold State.takeDelivered
  repeat' first
    | with_reducible assumption
    | with_reducible apply State.freeArrival_within
    | with_reducible apply State.onRouter_within
    | with_reducible apply Within.ite
    | with_reducible apply Within.foldl
    | with_reducible apply Within.foldl_fst
    | with_reducible apply Within.of_eq (by with_reducible assumption)
    | intro _
    | split
    | dsimp only

theorem State.sendAck_within {s : State} (i : IoId) (h : Header) (status : ℕ) (received : ℕ) (echo : Bool) (hW : Within Ps s₀ s) (_ : .routers ∈ Ps) :
    Within Ps s₀ (State.sendAck s i h status received echo) := by
  unfold State.sendAck
  repeat' first
    | with_reducible assumption
    | with_reducible apply State.inject_within
    | with_reducible apply Within.ite
    | with_reducible apply Within.foldl
    | with_reducible apply Within.foldl_fst
    | with_reducible apply Within.of_eq (by with_reducible assumption)
    | intro _
    | split
    | dsimp only

theorem State.track_within {s : State} (i : IoId) (h : Header) (cs : List CoreId) (hW : Within Ps s₀ s) (_ : .routers ∈ Ps) :
    Within Ps s₀ (State.track s i h cs) := by
  unfold State.track
  repeat' first
    | with_reducible assumption
    | with_reducible apply State.onRouter_within
    | with_reducible apply Within.ite
    | with_reducible apply Within.foldl
    | with_reducible apply Within.foldl_fst
    | with_reducible apply Within.of_eq (by with_reducible assumption)
    | intro _
    | split
    | dsimp only

theorem State.setInbound_within {s : State} (i : IoId) (n : Inbound) (hW : Within Ps s₀ s) (_ : .routers ∈ Ps) :
    Within Ps s₀ (State.setInbound s i n) := by
  unfold State.setInbound
  repeat' first
    | with_reducible assumption
    | with_reducible apply State.onRouter_within
    | with_reducible apply Within.ite
    | with_reducible apply Within.foldl
    | with_reducible apply Within.foldl_fst
    | with_reducible apply Within.of_eq (by with_reducible assumption)
    | intro _
    | split
    | dsimp only

theorem State.untrack_within {s : State} (i : IoId) (h : Header) (hW : Within Ps s₀ s) (_ : .routers ∈ Ps) :
    Within Ps s₀ (State.untrack s i h) := by
  unfold State.untrack
  repeat' first
    | with_reducible assumption
    | with_reducible apply State.onRouter_within
    | with_reducible apply Within.ite
    | with_reducible apply Within.foldl
    | with_reducible apply Within.foldl_fst
    | with_reducible apply Within.of_eq (by with_reducible assumption)
    | intro _
    | split
    | dsimp only

theorem State.toCore_within {s : State} (i : IoId) (c : CoreId) (x : Ctx) (serial : ℕ) (h : Header) (ls : List Line) (hW : Within Ps s₀ s) (_ : .cores ∈ Ps) :
    Within Ps s₀ (State.toCore s i c x serial h ls) := by
  unfold State.toCore
  repeat' first
    | with_reducible assumption
    | with_reducible apply State.portEnter_within
    | with_reducible apply Within.ite
    | with_reducible apply Within.foldl
    | with_reducible apply Within.foldl_fst
    | with_reducible apply Within.of_eq (by with_reducible assumption)
    | intro _
    | split
    | dsimp only

theorem State.linesTo_within {s : State} (i : IoId) (c : CoreId) (p : Packet) (hW : Within Ps s₀ s) (_ : .cores ∈ Ps) :
    Within Ps s₀ (State.linesTo s i c p) := by
  unfold State.linesTo
  repeat' first
    | with_reducible assumption
    | with_reducible apply State.toCore_within
    | with_reducible apply Within.ite
    | with_reducible apply Within.foldl
    | with_reducible apply Within.foldl_fst
    | with_reducible apply Within.of_eq (by with_reducible assumption)
    | intro _
    | split
    | dsimp only

theorem State.arrivalSignal_within {s : State} (c : CoreId) (h : Header) (hW : Within Ps s₀ s) (_ : .regs ∈ Ps) (_ : .cores ∈ Ps) :
    Within Ps s₀ (State.arrivalSignal s c h) := by
  unfold State.arrivalSignal
  repeat' first
    | with_reducible assumption
    | with_reducible apply State.semSignal_within
    | with_reducible apply Within.ite
    | with_reducible apply Within.foldl
    | with_reducible apply Within.foldl_fst
    | with_reducible apply Within.of_eq (by with_reducible assumption)
    | intro _
    | split
    | dsimp only

theorem State.oneWay_within {s : State} (i : IoId) (e : RingPkt) (cs : List CoreId) (hW : Within Ps s₀ s) (_ : .cores ∈ Ps) (_ : .links ∈ Ps) (_ : .routers ∈ Ps) :
    Within Ps s₀ (State.oneWay s i e cs) := by
  unfold State.oneWay
  repeat' first
    | with_reducible assumption
    | with_reducible apply State.drop_within
    | with_reducible apply State.takeDelivered_within
    | with_reducible apply State.linesTo_within
    | with_reducible apply State.track_within
    | with_reducible apply Within.ite
    | with_reducible apply Within.foldl
    | with_reducible apply Within.foldl_fst
    | with_reducible apply Within.of_eq (by with_reducible assumption)
    | intro _
    | split
    | dsimp only

theorem State.dataWritten_within {s : State} (c : CoreId) (i : IoId) (h : Header) (poison : Bool) (hW : Within Ps s₀ s) (_ : .regs ∈ Ps) (_ : .cores ∈ Ps) (_ : .routers ∈ Ps) :
    Within Ps s₀ (State.dataWritten s c i h poison) := by
  unfold State.dataWritten
  repeat' first
    | with_reducible assumption
    | with_reducible apply State.arrivalSignal_within
    | with_reducible apply State.setInbound_within
    | with_reducible apply State.untrack_within
    | with_reducible apply State.sendAck_within
    | with_reducible apply Within.ite
    | with_reducible apply Within.foldl
    | with_reducible apply Within.foldl_fst
    | with_reducible apply Within.of_eq (by with_reducible assumption)
    | intro _
    | split
    | dsimp only

theorem State.sendRound_within {s : State} (n : ℕ) (g : Group) (r : Round) (hW : Within Ps s₀ s) (_ : .regs ∈ Ps) (_ : .links ∈ Ps) (_ : .routers ∈ Ps) :
    Within Ps s₀ (State.sendRound s n g r) := by
  unfold State.sendRound
  repeat' first
    | with_reducible assumption
    | with_reducible apply State.linkJoin_within
    | with_reducible apply State.toRing_within
    | with_reducible apply State.inject_within
    | with_reducible apply Within.ite
    | with_reducible apply Within.foldl
    | with_reducible apply Within.foldl_fst
    | with_reducible apply Within.of_eq (by with_reducible assumption)
    | intro _
    | split
    | dsimp only

theorem State.contributeRound_within {s : State} (n : ℕ) (round : BitVec 16) (link : Option ℕ) (off : ℕ) (ws : List (BitVec 384 × Bool)) (hW : Within Ps s₀ s) (_ : .regs ∈ Ps) (_ : .links ∈ Ps) (_ : .routers ∈ Ps) (_ : .rgroups ∈ Ps) :
    Within Ps s₀ (State.contributeRound s n round link off ws) := by
  unfold State.contributeRound
  repeat' first
    | with_reducible assumption
    | with_reducible apply State.routerFault_within
    | with_reducible apply State.sendRound_within
    | with_reducible apply State.setGroup_within
    | with_reducible apply Within.ite
    | with_reducible apply Within.foldl
    | with_reducible apply Within.foldl_fst
    | with_reducible apply Within.of_eq (by with_reducible assumption)
    | intro _
    | split
    | dsimp only

theorem State.reqLines_within {s : State} (c : CoreId) (o : DynOp) (tag : BitVec 16) (ls : List (Line × Bool)) (last : Bool) (hW : Within Ps s₀ s) (_ : .regs ∈ Ps) (_ : .cores ∈ Ps) (_ : .links ∈ Ps) (_ : .routers ∈ Ps) (_ : .rgroups ∈ Ps) (_ : .mod ∈ Ps) :
    Within Ps s₀ (State.reqLines s c o tag ls last) := by
  unfold State.reqLines
  repeat' first
    | with_reducible assumption
    | with_reducible apply State.emitFrame_within
    | with_reducible apply State.contributeRound_within
    | with_reducible apply State.inject_within
    | with_reducible apply Within.ite
    | with_reducible apply Within.foldl
    | with_reducible apply Within.foldl_fst
    | with_reducible apply Within.of_eq (by with_reducible assumption)
    | intro _
    | split
    | dsimp only

theorem State.portTake_within {s : State} (port : CoreId) (f : DynFlit) (hW : Within Ps s₀ s) (_ : .regs ∈ Ps) (_ : .cores ∈ Ps) (_ : .links ∈ Ps) (_ : .routers ∈ Ps) (_ : .rgroups ∈ Ps) (_ : .mod ∈ Ps) :
    Within Ps s₀ (State.portTake s port f) := by
  unfold State.portTake
  repeat' first
    | with_reducible assumption
    | with_reducible apply State.onCore_within
    | with_reducible apply State.reqLines_within
    | with_reducible apply Within.ite
    | with_reducible apply Within.foldl
    | with_reducible apply Within.foldl_fst
    | with_reducible apply Within.of_eq (by with_reducible assumption)
    | intro _
    | split
    | dsimp only

theorem State.portEnd_within {s : State} (c : CoreId) (hW : Within Ps s₀ s) (_ : .regs ∈ Ps) (_ : .cores ∈ Ps) (_ : .links ∈ Ps) (_ : .routers ∈ Ps) (_ : .rgroups ∈ Ps) (_ : .mod ∈ Ps) :
    Within Ps s₀ (State.portEnd s c) := by
  unfold State.portEnd
  repeat' first
    | with_reducible assumption
    | with_reducible apply State.portTake_within
    | with_reducible apply State.onCore_within
    | with_reducible apply Within.ite
    | with_reducible apply Within.foldl
    | with_reducible apply Within.foldl_fst
    | with_reducible apply Within.of_eq (by with_reducible assumption)
    | intro _
    | split
    | dsimp only

theorem State.resultWord_within {s : State} (c : CoreId) (w : ℕ) (v : BitVec 384) (p : Bool) (hW : Within Ps s₀ s) (_ : .psm ∈ Ps) (_ : .cores ∈ Ps) :
    Within Ps s₀ (State.resultWord s c w v p) := by
  unfold State.resultWord
  repeat' first
    | with_reducible assumption
    | with_reducible apply State.psmMeet_within
    | with_reducible apply State.psmWrite_within
    | with_reducible apply Within.ite
    | with_reducible apply Within.foldl
    | with_reducible apply Within.foldl_fst
    | with_reducible apply Within.of_eq (by with_reducible assumption)
    | intro _
    | split
    | dsimp only

theorem State.resultTo_within {s : State} (i : IoId) (g : Group) (p : Packet) (w : Waiter) (hW : Within Ps s₀ s) (_ : .cores ∈ Ps) (_ : .routers ∈ Ps) :
    Within Ps s₀ (State.resultTo s i g p w) := by
  unfold State.resultTo
  repeat' first
    | with_reducible assumption
    | with_reducible apply State.drop_within
    | with_reducible apply State.toCore_within
    | with_reducible apply Within.ite
    | with_reducible apply Within.foldl
    | with_reducible apply Within.foldl_fst
    | with_reducible apply Within.of_eq (by with_reducible assumption)
    | intro _
    | split
    | dsimp only

theorem State.resultLine_within {s : State} (c : CoreId) (serial : ℕ) (h : Header) (k : ℕ) (l : Line) (p : Bool) (hW : Within Ps s₀ s) (_ : .psm ∈ Ps) (_ : .cores ∈ Ps) :
    Within Ps s₀ (State.resultLine s c serial h k l p) := by
  unfold State.resultLine
  repeat' first
    | with_reducible assumption
    | with_reducible apply State.resultWord_within
    | with_reducible apply Within.ite
    | with_reducible apply Within.foldl
    | with_reducible apply Within.foldl_fst
    | with_reducible apply Within.of_eq (by with_reducible assumption)
    | intro _
    | split
    | dsimp only

theorem State.resultWritten_within {s : State} (c : CoreId) (serial : ℕ) (h : Header) (p : Bool) (hW : Within Ps s₀ s) (_ : .cores ∈ Ps) (_ : .rgroups ∈ Ps) :
    Within Ps s₀ (State.resultWritten s c serial h p) := by
  unfold State.resultWritten
  repeat' first
    | with_reducible assumption
    | with_reducible apply State.opFinish_within
    | with_reducible apply State.setGroup_within
    | with_reducible apply Within.ite
    | with_reducible apply Within.foldl
    | with_reducible apply Within.foldl_fst
    | with_reducible apply Within.of_eq (by with_reducible assumption)
    | intro _
    | split
    | dsimp only

theorem State.fabDone_within {s : State} (c : CoreId) (a : Asm) (hW : Within Ps s₀ s) (_ : .regs ∈ Ps) (_ : .cores ∈ Ps) (_ : .routers ∈ Ps) (_ : .rgroups ∈ Ps) :
    Within Ps s₀ (State.fabDone s c a) := by
  unfold State.fabDone
  repeat' first
    | with_reducible assumption
    | with_reducible apply State.onCore_within
    | with_reducible apply State.resultWritten_within
    | with_reducible apply State.dataWritten_within
    | with_reducible apply State.semSignal_within
    | with_reducible apply Within.ite
    | with_reducible apply Within.foldl
    | with_reducible apply Within.foldl_fst
    | with_reducible apply Within.of_eq (by with_reducible assumption)
    | intro _
    | split
    | dsimp only

theorem State.fabStore_within {s : State} (c : CoreId) (hW : Within Ps s₀ s) (_ : .regs ∈ Ps) (_ : .am ∈ Ps) (_ : .psm ∈ Ps) (_ : .cores ∈ Ps) (_ : .routers ∈ Ps) (_ : .rgroups ∈ Ps) :
    Within Ps s₀ (State.fabStore s c) := by
  unfold State.fabStore
  repeat' first
    | with_reducible assumption
    | with_reducible apply State.fabDone_within
    | with_reducible apply State.onCore_within
    | with_reducible apply State.claimDyn_within
    | with_reducible apply State.amWrite_within
    | with_reducible apply State.resultLine_within
    | with_reducible apply Within.ite
    | with_reducible apply Within.foldl
    | with_reducible apply Within.foldl_fst
    | with_reducible apply Within.of_eq (by with_reducible assumption)
    | intro _
    | split
    | dsimp only

theorem State.mrGo_within {s : State} (n : ℕ) (round : BitVec 16) (hW : Within Ps s₀ s) (_ : .regs ∈ Ps) (_ : .links ∈ Ps) (_ : .routers ∈ Ps) (_ : .rgroups ∈ Ps) (_ : .mod ∈ Ps) :
    Within Ps s₀ (State.mrGo s n round) := by
  unfold State.mrGo
  repeat' first
    | with_reducible assumption
    | with_reducible apply State.fabFault_within
    | with_reducible apply State.onMod_within
    | with_reducible apply State.setReg_within
    | with_reducible apply State.contributeRound_within
    | with_reducible apply Within.ite
    | with_reducible apply Within.foldl
    | with_reducible apply Within.foldl_fst
    | with_reducible apply Within.of_eq (by with_reducible assumption)
    | intro _
    | split
    | dsimp only

theorem State.chimeGo_within {s : State} (op : ℕ) (round : BitVec 16) (phase : ℕ) (hW : Within Ps s₀ s) (_ : .regs ∈ Ps) (_ : .links ∈ Ps) (_ : .routers ∈ Ps) (_ : .rgroups ∈ Ps) (_ : .mod ∈ Ps) :
    Within Ps s₀ (State.chimeGo s op round phase) := by
  unfold State.chimeGo
  repeat' first
    | with_reducible assumption
    | with_reducible apply State.mrGo_within
    | with_reducible apply State.onMod_within
    | with_reducible apply Within.ite
    | with_reducible apply Within.foldl
    | with_reducible apply Within.foldl_fst
    | with_reducible apply Within.of_eq (by with_reducible assumption)
    | intro _
    | split
    | dsimp only

theorem State.chimeAgree_within {s : State} (hW : Within Ps s₀ s) (_ : .mod ∈ Ps) :
    Within Ps s₀ (State.chimeAgree s) := by
  unfold State.chimeAgree
  repeat' first
    | with_reducible assumption
    | with_reducible apply State.onMod_within
    | with_reducible apply Within.ite
    | with_reducible apply Within.foldl
    | with_reducible apply Within.foldl_fst
    | with_reducible apply Within.of_eq (by with_reducible assumption)
    | intro _
    | split
    | dsimp only

theorem State.chimeResult_within {s : State} (v : Digest) (poison : Bool) (round : BitVec 16) (hW : Within Ps s₀ s) (_ : .regs ∈ Ps) (_ : .links ∈ Ps) (_ : .routers ∈ Ps) (_ : .rgroups ∈ Ps) (_ : .mod ∈ Ps) :
    Within Ps s₀ (State.chimeResult s v poison round) := by
  unfold State.chimeResult
  repeat' first
    | with_reducible assumption
    | with_reducible apply State.onMod_within
    | with_reducible apply State.chimeGo_within
    | with_reducible apply State.chimeAgree_within
    | with_reducible apply State.ownCensus_within
    | with_reducible apply Within.ite
    | with_reducible apply Within.foldl
    | with_reducible apply Within.foldl_fst
    | with_reducible apply Within.of_eq (by with_reducible assumption)
    | intro _
    | split
    | dsimp only

theorem State.mrResult_within {s : State} (n : ℕ) (g : Group) (p : Packet) (hW : Within Ps s₀ s) (_ : .regs ∈ Ps) (_ : .links ∈ Ps) (_ : .routers ∈ Ps) (_ : .rgroups ∈ Ps) (_ : .mod ∈ Ps) :
    Within Ps s₀ (State.mrResult s n g p) := by
  unfold State.mrResult
  repeat' first
    | with_reducible assumption
    | with_reducible apply State.setReg_within
    | with_reducible apply State.chimeResult_within
    | with_reducible apply State.setFld_within
    | with_reducible apply State.orReg_within
    | with_reducible apply Within.ite
    | with_reducible apply Within.foldl
    | with_reducible apply Within.foldl_fst
    | with_reducible apply Within.of_eq (by with_reducible assumption)
    | intro _
    | split
    | dsimp only

theorem State.movePoint_within {s : State} (hW : Within Ps s₀ s) (_ : .regs ∈ Ps) :
    Within Ps s₀ (State.movePoint s) := by
  unfold State.movePoint
  repeat' first
    | with_reducible assumption
    | with_reducible apply State.setFld_within
    | with_reducible apply Within.ite
    | with_reducible apply Within.foldl
    | with_reducible apply Within.foldl_fst
    | with_reducible apply Within.of_eq (by with_reducible assumption)
    | intro _
    | split
    | dsimp only

end Sys2Proof.Machine
end

