-- ==== Sys2Proof/Laws/WithinMover.lean ====
section
/-! SUPPORT. What the operations of Machine/Mover.lean may change. -/

set_option linter.unusedTactic false
set_option linter.unreachableTactic false
set_option linter.unusedVariables false

namespace Sys2Proof.Machine

variable {Ps : List Part} {s₀ : State}

theorem State.wxStat_within {s : State} (i : IoId) (bit : ℕ) (hW : Within Ps s₀ s) (_ : .regs ∈ Ps) :
    Within Ps s₀ (State.wxStat s i bit) := by
  unfold State.wxStat
  repeat' first
    | with_reducible assumption
    | with_reducible apply State.orReg_within
    | with_reducible apply Within.ite
    | with_reducible apply Within.foldl
    | with_reducible apply Within.foldl_fst
    | with_reducible apply Within.of_eq (by with_reducible assumption)
    | intro _
    | split
    | dsimp only

theorem State.wxEnd_within {s : State} (i : IoId) (hW : Within Ps s₀ s) (_ : .regs ∈ Ps) (_ : .routers ∈ Ps) :
    Within Ps s₀ (State.wxEnd s i) := by
  unfold State.wxEnd
  repeat' first
    | with_reducible assumption
    | with_reducible apply State.setFld_within
    | with_reducible apply State.onRouter_within
    | with_reducible apply Within.ite
    | with_reducible apply Within.foldl
    | with_reducible apply Within.foldl_fst
    | with_reducible apply Within.of_eq (by with_reducible assumption)
    | intro _
    | split
    | dsimp only

theorem State.wxGo_within {s : State} (i : IoId) (v : ℕ) (hW : Within Ps s₀ s) (_ : .regs ∈ Ps) (_ : .routers ∈ Ps) :
    Within Ps s₀ (State.wxGo s i v) := by
  unfold State.wxGo
  repeat' first
    | with_reducible assumption
    | with_reducible apply State.setReg_within
    | with_reducible apply State.wxStat_within
    | with_reducible apply State.onRouter_within
    | with_reducible apply State.setFld_within
    | with_reducible apply Within.ite
    | with_reducible apply Within.foldl
    | with_reducible apply Within.foldl_fst
    | with_reducible apply Within.of_eq (by with_reducible assumption)
    | intro _
    | split
    | dsimp only

theorem State.pageRead_within {s : State} (fn : ℕ) (page : ℕ) (hW : Within Ps s₀ s) (_ : .regs ∈ Ps) (_ : .funcs ∈ Ps) :
    Within Ps s₀ (State.pageRead s fn page) := by
  unfold State.pageRead
  repeat' first
    | with_reducible assumption
    | with_reducible apply State.onFunc_within
    | with_reducible apply State.setFld_within
    | with_reducible apply Within.ite
    | with_reducible apply Within.foldl
    | with_reducible apply Within.foldl_fst
    | with_reducible apply Within.of_eq (by with_reducible assumption)
    | intro _
    | split
    | dsimp only

theorem State.jobUnit_within {s t : State} {b : Job} {l : List Byte} {q : Bool} (e : s.jobUnit b = some (t, l, q))
    (h : Within Ps s₀ s) (_ : .regs ∈ Ps) (_ : .cores ∈ Ps) (_ : .funcs ∈ Ps) : Within Ps s₀ t := by
  unfold State.jobUnit at e
  dsimp only at e
  split at e
  · split at e
    · simp only [Option.some.injEq, Prod.mk.injEq] at e; obtain ⟨rfl, -, -⟩ := e
      first | exact State.pageRead_within _ _ h ‹_› ‹_› | exact State.pageRead_within _ _ h ‹_›
    · cases e
  · split at e
    · simp only [Option.some.injEq, Prod.mk.injEq] at e; obtain ⟨rfl, -, -⟩ := e; exact State.draw_within _ h
    · simp only [Option.some.injEq, Prod.mk.injEq] at e; obtain ⟨rfl, -, -⟩ := e
      first | exact State.wsReadWords_within _ _ _ h ‹_› ‹_›

theorem State.setJob_within {s : State} (i : IoId) (b : Job) (hW : Within Ps s₀ s) (_ : .routers ∈ Ps) :
    Within Ps s₀ (State.setJob s i b) := by
  unfold State.setJob
  repeat' first
    | with_reducible assumption
    | with_reducible apply State.onRouter_within
    | with_reducible apply Within.ite
    | with_reducible apply Within.foldl
    | with_reducible apply Within.foldl_fst
    | with_reducible apply Within.of_eq (by with_reducible assumption)
    | intro _
    | split
    | dsimp only

theorem State.wxDigest_within {s : State} (i : IoId) (b : Job) (hW : Within Ps s₀ s) (_ : .regs ∈ Ps) :
    Within Ps s₀ (State.wxDigest s i b) := by
  unfold State.wxDigest
  repeat' first
    | with_reducible assumption
    | with_reducible apply State.setDigestReg_within
    | with_reducible apply Within.ite
    | with_reducible apply Within.foldl
    | with_reducible apply Within.foldl_fst
    | with_reducible apply Within.of_eq (by with_reducible assumption)
    | intro _
    | split
    | dsimp only

theorem State.jobStep_within {s : State} (i : IoId) (b : Job) (hW : Within Ps s₀ s) (_ : .regs ∈ Ps) (_ : .cores ∈ Ps) (_ : .routers ∈ Ps) (_ : .funcs ∈ Ps) :
    Within Ps s₀ (State.jobStep s i b).1 := by
  unfold State.jobStep
  repeat' first
    | with_reducible assumption
    | with_reducible apply State.wxEnd_within
    | with_reducible apply State.wxStat_within
    | with_reducible apply State.jobUnit_within (by with_reducible assumption)
    | with_reducible apply State.inject_within
    | with_reducible apply State.setJob_within
    | with_reducible apply State.wxDigest_within
    | with_reducible apply Within.ite
    | with_reducible apply Within.foldl
    | with_reducible apply Within.foldl_fst
    | with_reducible apply Within.of_eq (by with_reducible assumption)
    | intro _
    | split
    | dsimp only

theorem State.jobLoop_within {s : State} (i : IoId) (n : Nat) (h : Within Ps s₀ s) (_ : .regs ∈ Ps) (_ : .cores ∈ Ps) (_ : .routers ∈ Ps) (_ : .funcs ∈ Ps) : Within Ps s₀ (s.jobLoop i n) := by
  induction n generalizing s
  all_goals unfold State.jobLoop
  · exact h
  · rename_i ih
    repeat' first
      | with_reducible assumption
      | with_reducible apply ih
      | with_reducible apply State.jobStep_within
      | with_reducible apply Within.ite
      | with_reducible apply Within.foldl
      | with_reducible apply Within.foldl_fst
      | with_reducible apply Within.of_eq (by with_reducible assumption)
      | intro _
      | split
      | dsimp only

theorem State.setTransfer_within {s : State} (i : IoId) (t : Transfer) (hW : Within Ps s₀ s) (_ : .routers ∈ Ps) :
    Within Ps s₀ (State.setTransfer s i t) := by
  unfold State.setTransfer
  repeat' first
    | with_reducible assumption
    | with_reducible apply State.onRouter_within
    | with_reducible apply Within.ite
    | with_reducible apply Within.foldl
    | with_reducible apply Within.foldl_fst
    | with_reducible apply Within.of_eq (by with_reducible assumption)
    | intro _
    | split
    | dsimp only

theorem State.shardReply_within {s : State} (i : IoId) (t : Transfer) (status : ℕ) (hW : Within Ps s₀ s) (_ : .routers ∈ Ps) :
    Within Ps s₀ (State.shardReply s i t status) := by
  unfold State.shardReply
  repeat' first
    | with_reducible assumption
    | with_reducible apply State.inject_within
    | with_reducible apply Within.ite
    | with_reducible apply Within.foldl
    | with_reducible apply Within.foldl_fst
    | with_reducible apply Within.of_eq (by with_reducible assumption)
    | intro _
    | split
    | dsimp only

theorem State.markPresent_within {s : State} (t : Transfer) (d : Digest) (hW : Within Ps s₀ s) (_ : .ctxs ∈ Ps) :
    Within Ps s₀ (State.markPresent s t d) := by
  unfold State.markPresent
  repeat' first
    | with_reducible assumption
    | with_reducible apply State.onCtx_within
    | with_reducible apply Within.ite
    | with_reducible apply Within.foldl
    | with_reducible apply Within.foldl_fst
    | with_reducible apply Within.of_eq (by with_reducible assumption)
    | intro _
    | split
    | dsimp only

theorem State.transferEnd_within {s : State} (i : IoId) (t : Transfer) (status : ℕ) (hW : Within Ps s₀ s) (_ : .ctxs ∈ Ps) (_ : .routers ∈ Ps) :
    Within Ps s₀ (State.transferEnd s i t status) := by
  unfold State.transferEnd
  repeat' first
    | with_reducible assumption
    | with_reducible apply State.onRouter_within
    | with_reducible apply State.shardReply_within
    | with_reducible apply State.markPresent_within
    | with_reducible apply Within.ite
    | with_reducible apply Within.foldl
    | with_reducible apply Within.foldl_fst
    | with_reducible apply Within.of_eq (by with_reducible assumption)
    | intro _
    | split
    | dsimp only

theorem State.shardWrite_within {s : State} (t : Transfer) (data : List Byte) (poison : Bool) (hW : Within Ps s₀ s) (_ : .cores ∈ Ps) :
    Within Ps s₀ (State.shardWrite s t data poison) := by
  unfold State.shardWrite
  repeat' first
    | with_reducible assumption
    | with_reducible apply State.portEnter_within
    | with_reducible apply Within.ite
    | with_reducible apply Within.foldl
    | with_reducible apply Within.foldl_fst
    | with_reducible apply Within.of_eq (by with_reducible assumption)
    | intro _
    | split
    | dsimp only

theorem State.shardTake_within {s : State} (i : IoId) (t : Transfer) (p : Packet) (hW : Within Ps s₀ s) (_ : .cores ∈ Ps) (_ : .ctxs ∈ Ps) (_ : .routers ∈ Ps) :
    Within Ps s₀ (State.shardTake s i t p) := by
  unfold State.shardTake
  repeat' first
    | with_reducible assumption
    | with_reducible apply State.transferEnd_within
    | with_reducible apply State.shardWrite_within
    | with_reducible apply State.setTransfer_within
    | with_reducible apply Within.ite
    | with_reducible apply Within.foldl
    | with_reducible apply Within.foldl_fst
    | with_reducible apply Within.of_eq (by with_reducible assumption)
    | intro _
    | split
    | dsimp only

theorem State.shardBegin_within {s : State} (i : IoId) (p : Packet) (hW : Within Ps s₀ s) (_ : .cores ∈ Ps) (_ : .ctxs ∈ Ps) (_ : .routers ∈ Ps) :
    Within Ps s₀ (State.shardBegin s i p) := by
  unfold State.shardBegin
  repeat' first
    | with_reducible assumption
    | with_reducible apply State.transferEnd_within
    | with_reducible apply State.shardTake_within
    | with_reducible apply Within.ite
    | with_reducible apply Within.foldl
    | with_reducible apply Within.foldl_fst
    | with_reducible apply Within.of_eq (by with_reducible assumption)
    | intro _
    | split
    | dsimp only

theorem State.wxrPop_within {s : State} (i : IoId) (hW : Within Ps s₀ s) (_ : .routers ∈ Ps) :
    Within Ps s₀ (State.wxrPop s i) := by
  unfold State.wxrPop
  repeat' first
    | with_reducible assumption
    | with_reducible apply State.onRouter_within
    | with_reducible apply Within.ite
    | with_reducible apply Within.foldl
    | with_reducible apply Within.foldl_fst
    | with_reducible apply Within.of_eq (by with_reducible assumption)
    | intro _
    | split
    | dsimp only

end Sys2Proof.Machine
end

