-- ==== Sys2Proof/Laws/WithinHost.lean ====
section
/-! SUPPORT. What the operations of Machine/Host.lean may change. -/

set_option linter.unusedTactic false
set_option linter.unreachableTactic false
set_option linter.unusedVariables false

namespace Sys2Proof.Machine

variable {Ps : List Part} {s₀ : State}

theorem State.setR_within {s : State} (v : VfId) (r : RingId) (k : ℕ) (n : ℕ) (hW : Within Ps s₀ s) (_ : .regs ∈ Ps) :
    Within Ps s₀ (State.setR s v r k n) := by
  unfold State.setR
  repeat' first
    | with_reducible assumption
    | with_reducible apply State.setReg_within
    | with_reducible apply Within.ite
    | with_reducible apply Within.foldl
    | with_reducible apply Within.foldl_fst
    | with_reducible apply Within.of_eq (by with_reducible assumption)
    | intro _
    | split
    | dsimp only

theorem State.loseEntries_within {s : State} (x : Ctx) (hW : Within Ps s₀ s) (_ : .ctxs ∈ Ps) :
    Within Ps s₀ (State.loseEntries s x) := by
  unfold State.loseEntries
  repeat' first
    | with_reducible assumption
    | with_reducible apply State.onCtx_within
    | with_reducible apply Within.ite
    | with_reducible apply Within.foldl
    | with_reducible apply Within.foldl_fst
    | with_reducible apply Within.of_eq (by with_reducible assumption)
    | intro _
    | split
    | dsimp only

theorem State.sqRefuse_within {s : State} (v : VfId) (r : RingId) (hW : Within Ps s₀ s) (_ : .regs ∈ Ps) (_ : .ctxs ∈ Ps) (_ : .rings ∈ Ps) :
    Within Ps s₀ (State.sqRefuse s v r) := by
  unfold State.sqRefuse
  repeat' first
    | with_reducible assumption
    | with_reducible apply State.loseEntries_within
    | with_reducible apply State.onRing_within
    | with_reducible apply State.setR_within
    | with_reducible apply State.hostFault_within
    | with_reducible apply Within.ite
    | with_reducible apply Within.foldl
    | with_reducible apply Within.foldl_fst
    | with_reducible apply Within.of_eq (by with_reducible assumption)
    | intro _
    | split
    | dsimp only

theorem State.deliverLines_within {s : State} (dies : List DieId) (n : List Line) (h : Within Ps s₀ s) (_ : .dies ∈ Ps) : Within Ps s₀ ((s.deliverLines dies n).1) := by
  induction n generalizing s
  all_goals unfold State.deliverLines
  · exact h
  · rename_i ih
    repeat' first
      | with_reducible assumption
      | with_reducible apply ih
      | with_reducible apply State.onDie_within
      | with_reducible apply Within.ite
      | with_reducible apply Within.foldl
      | with_reducible apply Within.foldl_fst
      | with_reducible apply Within.of_eq (by with_reducible assumption)
      | intro _
      | split
      | dsimp only

theorem State.bindRing_within {s : State} (v : VfId) (r : RingId) (hW : Within Ps s₀ s) (_ : .ctxs ∈ Ps) :
    Within Ps s₀ (State.bindRing s v r) := by
  unfold State.bindRing
  repeat' first
    | with_reducible assumption
    | with_reducible apply State.onCtx_within
    | with_reducible apply Within.ite
    | with_reducible apply Within.foldl
    | with_reducible apply Within.foldl_fst
    | with_reducible apply Within.of_eq (by with_reducible assumption)
    | intro _
    | split
    | dsimp only

theorem State.blocks_within {s : State} (v : VfId) (r : RingId) (step : Word32) (dies : BitVec 12) (entries : List Line) (hW : Within Ps s₀ s) (_ : .regs ∈ Ps) (_ : .dies ∈ Ps) (_ : .ctxs ∈ Ps) (_ : .rings ∈ Ps) :
    Within Ps s₀ (State.blocks s v r step dies entries) := by
  unfold State.blocks
  repeat' first
    | with_reducible assumption
    | with_reducible apply State.sqRefuse_within
    | with_reducible apply State.setRing_within
    | with_reducible apply State.deliverLines_within
    | with_reducible apply State.bindRing_within
    | with_reducible apply Within.ite
    | with_reducible apply Within.foldl
    | with_reducible apply Within.foldl_fst
    | with_reducible apply Within.of_eq (by with_reducible assumption)
    | intro _
    | split
    | dsimp only

theorem State.noteInput_within {s : State} (x : Ctx) (e : InputEntry) (b : List Byte) (hW : Within Ps s₀ s) (_ : .ctxs ∈ Ps) :
    Within Ps s₀ (State.noteInput s x e b) := by
  unfold State.noteInput
  repeat' first
    | with_reducible assumption
    | with_reducible apply State.onCtx_within
    | with_reducible apply Within.ite
    | with_reducible apply Within.foldl
    | with_reducible apply Within.foldl_fst
    | with_reducible apply Within.of_eq (by with_reducible assumption)
    | intro _
    | split
    | dsimp only

theorem State.inputWrite_within {s : State} (c : CoreId) (e : InputEntry) (b : List Byte) (poison : Bool) (hW : Within Ps s₀ s) (_ : .cores ∈ Ps) :
    Within Ps s₀ (State.inputWrite s c e b poison) := by
  unfold State.inputWrite
  repeat' first
    | with_reducible assumption
    | with_reducible apply State.portEnter_within
    | with_reducible apply Within.ite
    | with_reducible apply Within.foldl
    | with_reducible apply Within.foldl_fst
    | with_reducible apply Within.of_eq (by with_reducible assumption)
    | intro _
    | split
    | dsimp only

theorem State.input_within {s : State} (v : VfId) (r : RingId) (e : InputEntry) (lines : List Line) (readError : Bool) (hW : Within Ps s₀ s) (_ : .regs ∈ Ps) (_ : .cores ∈ Ps) (_ : .ctxs ∈ Ps) (_ : .rings ∈ Ps) :
    Within Ps s₀ (State.input s v r e lines readError) := by
  unfold State.input
  repeat' first
    | with_reducible assumption
    | with_reducible apply State.sqRefuse_within
    | with_reducible apply State.setRing_within
    | with_reducible apply State.hostFault_within
    | with_reducible apply State.inputWrite_within
    | with_reducible apply State.noteInput_within
    | with_reducible apply State.bindRing_within
    | with_reducible apply Within.ite
    | with_reducible apply Within.foldl
    | with_reducible apply Within.foldl_fst
    | with_reducible apply Within.of_eq (by with_reducible assumption)
    | intro _
    | split
    | dsimp only

theorem State.retire_within {s : State} (v : VfId) (r : RingId) (hW : Within Ps s₀ s) (_ : .regs ∈ Ps) (_ : .rings ∈ Ps) :
    Within Ps s₀ (State.retire s v r) := by
  unfold State.retire
  repeat' first
    | with_reducible assumption
    | with_reducible apply State.setRing_within
    | with_reducible apply State.setR_within
    | with_reducible apply Within.ite
    | with_reducible apply Within.foldl
    | with_reducible apply Within.foldl_fst
    | with_reducible apply Within.of_eq (by with_reducible assumption)
    | intro _
    | split
    | dsimp only

theorem State.rereadStep_within {s : State} (x : Ctx) (step : Word32) (hW : Within Ps s₀ s) (_ : .rings ∈ Ps) :
    Within Ps s₀ (State.rereadStep s x step) := by
  unfold State.rereadStep
  repeat' first
    | with_reducible assumption
    | with_reducible apply State.onRing_within
    | with_reducible apply Within.ite
    | with_reducible apply Within.foldl
    | with_reducible apply Within.foldl_fst
    | with_reducible apply Within.of_eq (by with_reducible assumption)
    | intro _
    | split
    | dsimp only

theorem State.retireStep_within {s : State} (x : Ctx) (step : Word32) (hW : Within Ps s₀ s) (_ : .regs ∈ Ps) (_ : .rings ∈ Ps) :
    Within Ps s₀ (State.retireStep s x step) := by
  unfold State.retireStep
  repeat' first
    | with_reducible assumption
    | with_reducible apply State.retire_within
    | with_reducible apply Within.ite
    | with_reducible apply Within.foldl
    | with_reducible apply Within.foldl_fst
    | with_reducible apply Within.of_eq (by with_reducible assumption)
    | intro _
    | split
    | dsimp only

theorem State.coalesce_within {s : State} (v : VfId) (r : RingId) (hW : Within Ps s₀ s) (_ : .regs ∈ Ps) (_ : .rings ∈ Ps) :
    Within Ps s₀ (State.coalesce s v r) := by
  unfold State.coalesce
  repeat' first
    | with_reducible assumption
    | with_reducible apply State.onRing_within
    | with_reducible apply State.hostIrq_within
    | with_reducible apply Within.ite
    | with_reducible apply Within.foldl
    | with_reducible apply Within.foldl_fst
    | with_reducible apply Within.of_eq (by with_reducible assumption)
    | intro _
    | split
    | dsimp only

theorem State.toHost_within {s : State} (v : VfId) (a : ℕ) (b : List Byte) (hW : Within Ps s₀ s) :
    Within Ps s₀ (State.toHost s v a b) := by
  unfold State.toHost
  repeat' first
    | with_reducible assumption
    | with_reducible apply State.emit_within
    | with_reducible apply Within.ite
    | with_reducible apply Within.foldl
    | with_reducible apply Within.foldl_fst
    | with_reducible apply Within.of_eq (by with_reducible assumption)
    | intro _
    | split
    | dsimp only

theorem State.cqWrite_within {s : State} (v : VfId) (r : RingId) (ty : ℕ) (flags : ℕ) (mid : List Byte) (hW : Within Ps s₀ s) (_ : .regs ∈ Ps) (_ : .rings ∈ Ps) :
    Within Ps s₀ (State.cqWrite s v r ty flags mid) := by
  unfold State.cqWrite
  repeat' first
    | with_reducible assumption
    | with_reducible apply State.coalesce_within
    | with_reducible apply State.onRing_within
    | with_reducible apply State.setR_within
    | with_reducible apply State.toHost_within
    | with_reducible apply Within.ite
    | with_reducible apply Within.foldl
    | with_reducible apply Within.foldl_fst
    | with_reducible apply Within.of_eq (by with_reducible assumption)
    | intro _
    | split
    | dsimp only

theorem State.stepRecord_within {s : State} (v : VfId) (r : RingId) (hW : Within Ps s₀ s) (_ : .regs ∈ Ps) (_ : .rings ∈ Ps) :
    Within Ps s₀ (State.stepRecord s v r) := by
  unfold State.stepRecord
  repeat' first
    | with_reducible assumption
    | with_reducible apply State.cqWrite_within
    | with_reducible apply State.onRing_within
    | with_reducible apply Within.ite
    | with_reducible apply Within.foldl
    | with_reducible apply Within.foldl_fst
    | with_reducible apply Within.of_eq (by with_reducible assumption)
    | intro _
    | split
    | dsimp only

theorem State.freeFrame_within {s : State} (f : Frame) (hW : Within Ps s₀ s) (_ : .mod ∈ Ps) :
    Within Ps s₀ (State.freeFrame s f) := by
  unfold State.freeFrame
  repeat' first
    | with_reducible assumption
    | with_reducible apply State.onMod_within
    | with_reducible apply Within.ite
    | with_reducible apply Within.foldl
    | with_reducible apply Within.foldl_fst
    | with_reducible apply Within.of_eq (by with_reducible assumption)
    | intro _
    | split
    | dsimp only

theorem State.dropFrame_within {s : State} (f : Frame) (hW : Within Ps s₀ s) (_ : .regs ∈ Ps) (_ : .rings ∈ Ps) (_ : .mod ∈ Ps) :
    Within Ps s₀ (State.dropFrame s f) := by
  unfold State.dropFrame
  repeat' first
    | with_reducible assumption
    | with_reducible apply State.onRing_within
    | with_reducible apply State.setR_within
    | with_reducible apply State.freeFrame_within
    | with_reducible apply Within.ite
    | with_reducible apply Within.foldl
    | with_reducible apply Within.foldl_fst
    | with_reducible apply Within.of_eq (by with_reducible assumption)
    | intro _
    | split
    | dsimp only

theorem State.fillBufs_within {s : State} (v : VfId) (n : List (Word64 × Nat)) (b : List Byte) (h : Within Ps s₀ s)  : Within Ps s₀ (s.fillBufs v n b) := by
  induction n generalizing s b
  all_goals unfold State.fillBufs
  · exact h
  · rename_i ih
    repeat' first
      | with_reducible assumption
      | with_reducible apply ih
      | with_reducible apply State.toHost_within
      | with_reducible apply Within.ite
      | with_reducible apply Within.foldl
      | with_reducible apply Within.foldl_fst
      | with_reducible apply Within.of_eq (by with_reducible assumption)
      | intro _
      | split
      | dsimp only

theorem State.starve_within {s : State} (v : VfId) (r : RingId) (hW : Within Ps s₀ s) (_ : .regs ∈ Ps) (_ : .rings ∈ Ps) :
    Within Ps s₀ (State.starve s v r) := by
  unfold State.starve
  repeat' first
    | with_reducible assumption
    | with_reducible apply State.onRing_within
    | with_reducible apply State.hostIrq_within
    | with_reducible apply State.setR_within
    | with_reducible apply Within.ite
    | with_reducible apply Within.foldl
    | with_reducible apply Within.foldl_fst
    | with_reducible apply Within.of_eq (by with_reducible assumption)
    | intro _
    | split
    | dsimp only

theorem State.frameWrite_within {s : State} (v : VfId) (q : RingId) (buffers : List (Word64 × BitVec 16))
    (h : Within Ps s₀ s) (_ : .regs ∈ Ps) (_ : .rings ∈ Ps) (_ : .mod ∈ Ps) : Within Ps s₀ (s.frameWrite v q buffers) := by
  unfold State.frameWrite
  split
  · assumption
  · rename_i f _
    split
    · assumption
    · generalize s.rreg v q rRbHead = head
      generalize (if bitAt (s.rreg v q 0x28) 31 then span (s.rreg v q rRbTail) head else 0) = posted
      dsimp only
      generalize pickBufs f.data.length (buffers.take posted) = pick
      split
      · apply State.starve_within <;> with_reducible assumption
      · exact State.hostFault_within _ _ (State.setR_within _ _ _ _ (State.dropFrame_within _ h ‹_› ‹_› ‹_›) ‹_›) ‹_›
      · split
        · apply State.starve_within <;> with_reducible assumption
        · rename_i l _ _
          have ht : Within Ps s₀ (((s.fillBufs v l f.data).setR v q rRbHead (head + l.length)).freeFrame f) := by
            apply State.freeFrame_within _ _ ‹_›
            apply State.setR_within _ _ _ _ _ ‹_›
            apply State.fillBufs_within _ _ _ h
          generalize ((s.fillBufs v l f.data).setR v q rRbHead (head + l.length)).freeFrame f = t at ht ⊢
          apply State.cqWrite_within _ _ _ _ _ _ ‹_› ‹_›
          apply State.onRing_within _ _ _ _ ‹_›
          apply State.setR_within _ _ _ _ ht ‹_›

theorem State.releaseFrames_within {s : State} (x : Ctx) (reported : Bool) (hW : Within Ps s₀ s) (_ : .regs ∈ Ps) (_ : .rings ∈ Ps) (_ : .mod ∈ Ps) :
    Within Ps s₀ (State.releaseFrames s x reported) := by
  unfold State.releaseFrames
  repeat' first
    | with_reducible assumption
    | with_reducible apply State.onMod_within
    | with_reducible apply State.dropFrame_within
    | with_reducible apply Within.ite
    | with_reducible apply Within.foldl
    | with_reducible apply Within.foldl_fst
    | with_reducible apply Within.of_eq (by with_reducible assumption)
    | intro _
    | split
    | dsimp only

theorem State.discardFrames_within {s : State} (x : Ctx) (hW : Within Ps s₀ s) (_ : .mod ∈ Ps) :
    Within Ps s₀ (State.discardFrames s x) := by
  unfold State.discardFrames
  repeat' first
    | with_reducible assumption
    | with_reducible apply State.onMod_within
    | with_reducible apply Within.ite
    | with_reducible apply Within.foldl
    | with_reducible apply Within.foldl_fst
    | with_reducible apply Within.of_eq (by with_reducible assumption)
    | intro _
    | split
    | dsimp only

theorem State.receiptAck_within {s : State} (v : VfId) (head : ℕ) (hW : Within Ps s₀ s) (_ : .regs ∈ Ps) (_ : .chains ∈ Ps) :
    Within Ps s₀ (State.receiptAck s v head) := by
  unfold State.receiptAck
  repeat' first
    | with_reducible assumption
    | with_reducible apply State.setChain_within
    | with_reducible apply State.setReg_within
    | with_reducible apply Within.ite
    | with_reducible apply Within.foldl
    | with_reducible apply Within.foldl_fst
    | with_reducible apply Within.of_eq (by with_reducible assumption)
    | intro _
    | split
    | dsimp only

theorem State.ingestByte_within {s : State} (v : VfId) (a : ℕ) (b : Byte) (hW : Within Ps s₀ s) (_ : .regs ∈ Ps) (_ : .funcs ∈ Ps) :
    Within Ps s₀ (State.ingestByte s v a b) := by
  unfold State.ingestByte
  repeat' first
    | with_reducible assumption
    | with_reducible apply State.onFunc_within
    | with_reducible apply State.hostFault_within
    | with_reducible apply Within.ite
    | with_reducible apply Within.foldl
    | with_reducible apply Within.foldl_fst
    | with_reducible apply Within.of_eq (by with_reducible assumption)
    | intro _
    | split
    | dsimp only

theorem State.ingest_within {s : State} (v : VfId) (a : Nat) (n : List Byte) (h : Within Ps s₀ s) (_ : .regs ∈ Ps) (_ : .funcs ∈ Ps) : Within Ps s₀ (s.ingest v a n) := by
  induction n generalizing a s
  all_goals unfold State.ingest
  · exact h
  · rename_i ih
    repeat' first
      | with_reducible assumption
      | with_reducible apply ih
      | with_reducible apply State.ingestByte_within
      | with_reducible apply Within.ite
      | with_reducible apply Within.foldl
      | with_reducible apply Within.foldl_fst
      | with_reducible apply Within.of_eq (by with_reducible assumption)
      | intro _
      | split
      | dsimp only

theorem State.mboxSend_within {s : State} (f : ℕ) (hW : Within Ps s₀ s) (_ : .regs ∈ Ps) :
    Within Ps s₀ (State.mboxSend s f) := by
  unfold State.mboxSend
  repeat' first
    | with_reducible assumption
    | with_reducible apply State.hostFault_within
    | with_reducible apply State.setFld_within
    | with_reducible apply Within.ite
    | with_reducible apply Within.foldl
    | with_reducible apply Within.foldl_fst
    | with_reducible apply Within.of_eq (by with_reducible assumption)
    | intro _
    | split
    | dsimp only

theorem State.placeLoad_within {s t : State} {x : Ctx} {dig : Digest} {load : Option Placement} (e : State.placeLoad s x dig load = some t) (h : Within Ps s₀ s) (_ : .regs ∈ Ps) (_ : .dies ∈ Ps) (_ : .ctxs ∈ Ps) :
    Within Ps s₀ t := by
  unfold State.placeLoad at e
  try dsimp only at e
  repeat' first
    | contradiction
    | (cases e; skip)
    | split at e
  all_goals
    repeat' first
      | with_reducible assumption
      | with_reducible apply State.loadBinary_within (by with_reducible assumption)
      | with_reducible apply Within.ite
      | with_reducible apply Within.foldl
      | with_reducible apply Within.foldl_fst
      | with_reducible apply Within.of_eq (by with_reducible assumption)
      | intro _
      | split
      | dsimp only

theorem State.placeReq_within {s : State} (v : VfId) (x : Ctx) (first : ℕ) (dig : Digest) (tag : ℕ) (load : Option Placement) (hW : Within Ps s₀ s) (_ : .regs ∈ Ps) (_ : .mail ∈ Ps) (_ : .dies ∈ Ps) (_ : .ctxs ∈ Ps) :
    Within Ps s₀ (State.placeReq s v x first dig tag load) := by
  unfold State.placeReq
  repeat' first
    | with_reducible assumption
    | with_reducible apply State.mailTaken_within
    | with_reducible apply State.mailTo_within
    | with_reducible apply State.placeLoad_within (by with_reducible assumption)
    | with_reducible apply Within.ite
    | with_reducible apply Within.foldl
    | with_reducible apply Within.foldl_fst
    | with_reducible apply Within.of_eq (by with_reducible assumption)
    | intro _
    | split
    | dsimp only

theorem State.selftestQueue_within {s : State} (q : TestReq) (o : TestOrigin) (hW : Within Ps s₀ s) (_ : .dies ∈ Ps) :
    Within Ps s₀ (State.selftestQueue s q o).1 := by
  unfold State.selftestQueue
  repeat' first
    | with_reducible assumption
    | with_reducible apply State.onDie_within
    | with_reducible apply Within.ite
    | with_reducible apply Within.foldl
    | with_reducible apply Within.foldl_fst
    | with_reducible apply Within.of_eq (by with_reducible assumption)
    | intro _
    | split
    | dsimp only

theorem State.resetReg_within {s : State} (b : Blk) (off : ℕ) (hW : Within Ps s₀ s) (_ : .regs ∈ Ps) :
    Within Ps s₀ (State.resetReg s b off) := by
  unfold State.resetReg
  repeat' first
    | with_reducible assumption
    | with_reducible apply State.setReg_within
    | with_reducible apply Within.ite
    | with_reducible apply Within.foldl
    | with_reducible apply Within.foldl_fst
    | with_reducible apply Within.of_eq (by with_reducible assumption)
    | intro _
    | split
    | dsimp only

theorem State.flrRing_within {s : State} (v : VfId) (r : RingId) (hW : Within Ps s₀ s) (_ : .regs ∈ Ps) (_ : .ctxs ∈ Ps) (_ : .rings ∈ Ps) :
    Within Ps s₀ (State.flrRing s v r) := by
  unfold State.flrRing
  repeat' first
    | with_reducible assumption
    | with_reducible apply State.loseEntries_within
    | with_reducible apply State.setRing_within
    | with_reducible apply State.resetReg_within
    | with_reducible apply Within.ite
    | with_reducible apply Within.foldl
    | with_reducible apply Within.foldl_fst
    | with_reducible apply Within.of_eq (by with_reducible assumption)
    | intro _
    | split
    | dsimp only

theorem State.flr_within {s : State} (v : VfId) (hW : Within Ps s₀ s) (_ : .regs ∈ Ps) (_ : .ctxs ∈ Ps) (_ : .rings ∈ Ps) (_ : .mod ∈ Ps) :
    Within Ps s₀ (State.flr s v) := by
  unfold State.flr
  repeat' first
    | with_reducible assumption
    | with_reducible apply State.dropFrame_within
    | with_reducible apply State.onCtx_within
    | with_reducible apply State.flrRing_within
    | with_reducible apply State.resetReg_within
    | with_reducible apply Within.ite
    | with_reducible apply Within.foldl
    | with_reducible apply Within.foldl_fst
    | with_reducible apply Within.of_eq (by with_reducible assumption)
    | intro _
    | split
    | dsimp only

theorem State.flrAll_within {s : State} (hW : Within Ps s₀ s) (_ : .regs ∈ Ps) (_ : .ctxs ∈ Ps) (_ : .rings ∈ Ps) (_ : .mod ∈ Ps) :
    Within Ps s₀ (State.flrAll s) := by
  unfold State.flrAll
  repeat' first
    | with_reducible assumption
    | with_reducible apply State.resetReg_within
    | with_reducible apply State.flr_within
    | with_reducible apply Within.ite
    | with_reducible apply Within.foldl
    | with_reducible apply Within.foldl_fst
    | with_reducible apply Within.of_eq (by with_reducible assumption)
    | intro _
    | split
    | dsimp only

end Sys2Proof.Machine
end

