-- ==== Sys2Proof/Laws/WithinRecovery.lean ====
section
/-! SUPPORT. What the operations of Machine/Recovery.lean may change. -/

set_option linter.unusedTactic false
set_option linter.unreachableTactic false
set_option linter.unusedVariables false

namespace Sys2Proof.Machine

variable {Ps : List Part} {s₀ : State}

theorem State.capture_within {s : State} (x : Ctx) (cs : List CoreId) (hW : Within Ps s₀ s) (_ : .regs ∈ Ps) (_ : .ctxs ∈ Ps) :
    Within Ps s₀ (State.capture s x cs) := by
  unfold State.capture
  repeat' first
    | with_reducible assumption
    | with_reducible apply State.setReg_within
    | with_reducible apply State.onCtx_within
    | with_reducible apply Within.ite
    | with_reducible apply Within.foldl
    | with_reducible apply Within.foldl_fst
    | with_reducible apply Within.of_eq (by with_reducible assumption)
    | intro _
    | split
    | dsimp only

theorem State.sumTry_within {s : State} (x : Ctx) (late : Bool) (hW : Within Ps s₀ s) (_ : .ctxs ∈ Ps) (_ : .links ∈ Ps) :
    Within Ps s₀ (State.sumTry s x late) := by
  unfold State.sumTry
  repeat' first
    | with_reducible assumption
    | with_reducible apply State.onCtx_within
    | with_reducible apply State.sendControl_within
    | with_reducible apply Within.ite
    | with_reducible apply Within.foldl
    | with_reducible apply Within.foldl_fst
    | with_reducible apply Within.of_eq (by with_reducible assumption)
    | intro _
    | split
    | dsimp only

theorem State.faultReport_within {s : State} (x : Ctx) (hW : Within Ps s₀ s) (_ : .ctxs ∈ Ps) (_ : .routers ∈ Ps) :
    Within Ps s₀ (State.faultReport s x) := by
  unfold State.faultReport
  repeat' first
    | with_reducible assumption
    | with_reducible apply State.onCtx_within
    | with_reducible apply State.lumefSend_within
    | with_reducible apply Within.ite
    | with_reducible apply Within.foldl
    | with_reducible apply Within.foldl_fst
    | with_reducible apply Within.of_eq (by with_reducible assumption)
    | intro _
    | split
    | dsimp only

theorem State.afterWave_within {s : State} (x : Ctx) (hW : Within Ps s₀ s) (_ : .regs ∈ Ps) (_ : .deferred ∈ Ps) (_ : .cores ∈ Ps) (_ : .dies ∈ Ps) (_ : .ctxs ∈ Ps) (_ : .links ∈ Ps) (_ : .routers ∈ Ps) (_ : .mod ∈ Ps) :
    Within Ps s₀ (State.afterWave s x) := by
  unfold State.afterWave
  repeat' first
    | with_reducible assumption
    | with_reducible apply State.sumTry_within
    | with_reducible apply State.onCtx_within
    | with_reducible apply State.faultReport_within
    | with_reducible apply State.scanFaults_within
    | with_reducible apply Within.ite
    | with_reducible apply Within.foldl
    | with_reducible apply Within.foldl_fst
    | with_reducible apply Within.of_eq (by with_reducible assumption)
    | intro _
    | split
    | dsimp only

theorem State.takeNotice_within {s : State} (x : Ctx) (n : GongNotice) (action : ℕ) (hW : Within Ps s₀ s) (_ : .ctxs ∈ Ps) (_ : .links ∈ Ps) :
    Within Ps s₀ (State.takeNotice s x n action) := by
  unfold State.takeNotice
  repeat' first
    | with_reducible assumption
    | with_reducible apply State.onCtx_within
    | with_reducible apply State.sendControl_within
    | with_reducible apply Within.ite
    | with_reducible apply Within.foldl
    | with_reducible apply Within.foldl_fst
    | with_reducible apply Within.of_eq (by with_reducible assumption)
    | intro _
    | split
    | dsimp only

theorem State.gongLinkFault_within {s : State} (x : Ctx) (l : LinkId) (hW : Within Ps s₀ s) (_ : .regs ∈ Ps) (_ : .deferred ∈ Ps) (_ : .cores ∈ Ps) (_ : .dies ∈ Ps) (_ : .ctxs ∈ Ps) (_ : .links ∈ Ps) (_ : .mod ∈ Ps) :
    Within Ps s₀ (State.gongLinkFault s x l) := by
  unfold State.gongLinkFault
  repeat' first
    | with_reducible assumption
    | with_reducible apply State.fault_within
    | with_reducible apply Within.ite
    | with_reducible apply Within.foldl
    | with_reducible apply Within.foldl_fst
    | with_reducible apply Within.of_eq (by with_reducible assumption)
    | intro _
    | split
    | dsimp only

theorem State.noReport_within {s : State} (x : Ctx) (e : Endpoint) (hW : Within Ps s₀ s) (_ : .regs ∈ Ps) (_ : .deferred ∈ Ps) (_ : .cores ∈ Ps) (_ : .dies ∈ Ps) (_ : .ctxs ∈ Ps) (_ : .links ∈ Ps) (_ : .mod ∈ Ps) :
    Within Ps s₀ (State.noReport s x e) := by
  unfold State.noReport
  repeat' first
    | with_reducible assumption
    | with_reducible apply State.onCtx_within
    | with_reducible apply State.timeoutEvent_within
    | with_reducible apply Within.ite
    | with_reducible apply Within.foldl
    | with_reducible apply Within.foldl_fst
    | with_reducible apply Within.of_eq (by with_reducible assumption)
    | intro _
    | split
    | dsimp only

theorem State.exclude_within {s : State} (x : Suspect) (h : Within Ps s₀ s) (_ : .regs ∈ Ps) (_ : .cores ∈ Ps) (_ : .dies ∈ Ps) (_ : .ctxs ∈ Ps) (_ : .links ∈ Ps) (_ : .mod ∈ Ps) (_ : .deferred ∈ Ps) : Within Ps s₀ (State.exclude s x) := by
  unfold State.exclude
  split
  all_goals
    repeat' first
      | with_reducible assumption
      | with_reducible apply State.repair_within
      | with_reducible apply State.onLink_within
      | with_reducible apply State.withdraw_within
      | with_reducible apply State.release_within
      | with_reducible apply Within.ite
      | with_reducible apply Within.foldl
      | with_reducible apply Within.foldl_fst
      | with_reducible apply Within.of_eq (by with_reducible assumption)
      | intro _
      | split
      | dsimp only

theorem State.resubmit_within {s : State} (x : Ctx) (step : ℕ) (peal : ℕ) (episode : Word64) (hW : Within Ps s₀ s) (_ : .regs ∈ Ps) (_ : .mail ∈ Ps) :
    Within Ps s₀ (State.resubmit s x step peal episode) := by
  unfold State.resubmit
  repeat' first
    | with_reducible assumption
    | with_reducible apply State.mailTo_within
    | with_reducible apply Within.ite
    | with_reducible apply Within.foldl
    | with_reducible apply Within.foldl_fst
    | with_reducible apply Within.of_eq (by with_reducible assumption)
    | intro _
    | split
    | dsimp only

theorem State.announce_within {s : State} (x : Ctx) (dec : Byte) (reason : ℕ) (m : GongSummary) (peal : Word64) (hW : Within Ps s₀ s) (_ : .ctxs ∈ Ps) (_ : .links ∈ Ps) :
    Within Ps s₀ (State.announce s x dec reason m peal) := by
  unfold State.announce
  repeat' first
    | with_reducible assumption
    | with_reducible apply State.takeNotice_within
    | with_reducible apply Within.ite
    | with_reducible apply Within.foldl
    | with_reducible apply Within.foldl_fst
    | with_reducible apply Within.of_eq (by with_reducible assumption)
    | intro _
    | split
    | dsimp only

theorem State.openEpisode_within {s : State} (x : Ctx) (hW : Within Ps s₀ s) (_ : .ctxs ∈ Ps) (_ : .mod ∈ Ps) :
    Within Ps s₀ (State.openEpisode s x) := by
  unfold State.openEpisode
  repeat' first
    | with_reducible assumption
    | with_reducible apply State.onMod_within
    | with_reducible apply State.onCtx_within
    | with_reducible apply Within.ite
    | with_reducible apply Within.foldl
    | with_reducible apply Within.foldl_fst
    | with_reducible apply Within.of_eq (by with_reducible assumption)
    | intro _
    | split
    | dsimp only

theorem State.replaceStep_within {s : State} (x : Ctx) (m : GongSummary) (peal : Word64) (ex : List Suspect) (hW : Within Ps s₀ s) (_ : .regs ∈ Ps) (_ : .deferred ∈ Ps) (_ : .mail ∈ Ps) (_ : .cores ∈ Ps) (_ : .dies ∈ Ps) (_ : .ctxs ∈ Ps) (_ : .links ∈ Ps) (_ : .rings ∈ Ps) (_ : .mod ∈ Ps) :
    Within Ps s₀ (State.replaceStep s x m peal ex) := by
  unfold State.replaceStep
  repeat' first
    | with_reducible assumption
    | with_reducible apply State.announce_within
    | with_reducible apply State.retireStep_within
    | with_reducible apply State.resubmit_within
    | with_reducible apply State.exclude_within
    | with_reducible apply State.onCtx_within
    | with_reducible apply State.setRanks_within
    | with_reducible apply Within.ite
    | with_reducible apply Within.foldl
    | with_reducible apply Within.foldl_fst
    | with_reducible apply Within.of_eq (by with_reducible assumption)
    | intro _
    | split
    | dsimp only

theorem State.decideDirty_within {s : State} (x : Ctx) (m : GongSummary) (peal : Word64) (hW : Within Ps s₀ s) (_ : .regs ∈ Ps) (_ : .deferred ∈ Ps) (_ : .mail ∈ Ps) (_ : .cores ∈ Ps) (_ : .dies ∈ Ps) (_ : .ctxs ∈ Ps) (_ : .links ∈ Ps) (_ : .rings ∈ Ps) (_ : .mod ∈ Ps) :
    Within Ps s₀ (State.decideDirty s x m peal) := by
  unfold State.decideDirty
  repeat' first
    | with_reducible assumption
    | with_reducible apply State.openEpisode_within
    | with_reducible apply State.announce_within
    | with_reducible apply State.raise_within
    | with_reducible apply State.replaceStep_within
    | with_reducible apply Within.ite
    | with_reducible apply Within.foldl
    | with_reducible apply Within.foldl_fst
    | with_reducible apply Within.of_eq (by with_reducible assumption)
    | intro _
    | split
    | dsimp only

theorem State.stepEntry_within {s : State} (x : Ctx) (n : GongNotice) (outcome : ℕ) (reason : ℕ) (hW : Within Ps s₀ s) (_ : .chains ∈ Ps) (_ : .rings ∈ Ps) :
    Within Ps s₀ (State.stepEntry s x n outcome reason) := by
  unfold State.stepEntry
  repeat' first
    | with_reducible assumption
    | with_reducible apply State.genesis_within
    | with_reducible apply State.append_within
    | with_reducible apply State.onRing_within
    | with_reducible apply Within.ite
    | with_reducible apply Within.foldl
    | with_reducible apply Within.foldl_fst
    | with_reducible apply Within.of_eq (by with_reducible assumption)
    | intro _
    | split
    | dsimp only

theorem State.pgmAll_within {s : State} (x : Ctx) (op : ℕ) (hW : Within Ps s₀ s) (_ : .regs ∈ Ps) (_ : .dies ∈ Ps) :
    Within Ps s₀ (State.pgmAll s x op) := by
  unfold State.pgmAll
  repeat' first
    | with_reducible assumption
    | with_reducible apply State.pgmPush_within
    | with_reducible apply Within.ite
    | with_reducible apply Within.foldl
    | with_reducible apply Within.foldl_fst
    | with_reducible apply Within.of_eq (by with_reducible assumption)
    | intro _
    | split
    | dsimp only

theorem State.closeEpisode_within {s : State} (x : Ctx) (outcome : ℕ) (reason : ℕ) (hW : Within Ps s₀ s) (_ : .regs ∈ Ps) (_ : .ctxs ∈ Ps) (_ : .mod ∈ Ps) :
    Within Ps s₀ (State.closeEpisode s x outcome reason) := by
  unfold State.closeEpisode
  repeat' first
    | with_reducible assumption
    | with_reducible apply State.elogAppend_within
    | with_reducible apply State.onCtx_within
    | with_reducible apply Within.ite
    | with_reducible apply Within.foldl
    | with_reducible apply Within.foldl_fst
    | with_reducible apply Within.of_eq (by with_reducible assumption)
    | intro _
    | split
    | dsimp only

theorem State.unlaunch_within {s : State} (x : Ctx) (hW : Within Ps s₀ s) (_ : .dies ∈ Ps) :
    Within Ps s₀ (State.unlaunch s x) := by
  unfold State.unlaunch
  repeat' first
    | with_reducible assumption
    | with_reducible apply State.onDie_within
    | with_reducible apply Within.ite
    | with_reducible apply Within.foldl
    | with_reducible apply Within.foldl_fst
    | with_reducible apply Within.of_eq (by with_reducible assumption)
    | intro _
    | split
    | dsimp only

theorem State.closeStep_within {s : State} (x : Ctx) (hW : Within Ps s₀ s) (_ : .regs ∈ Ps) (_ : .dies ∈ Ps) (_ : .ctxs ∈ Ps) :
    Within Ps s₀ (State.closeStep s x) := by
  unfold State.closeStep
  repeat' first
    | with_reducible assumption
    | with_reducible apply State.onCtx_within
    | with_reducible apply State.cmdBoundary_within
    | with_reducible apply State.unlaunch_within
    | with_reducible apply Within.ite
    | with_reducible apply Within.foldl
    | with_reducible apply Within.foldl_fst
    | with_reducible apply Within.of_eq (by with_reducible assumption)
    | intro _
    | split
    | dsimp only

theorem State.signLast_within {s : State} (x : Ctx) (hW : Within Ps s₀ s) (_ : .chains ∈ Ps) :
    Within Ps s₀ (State.signLast s x) := by
  unfold State.signLast
  repeat' first
    | with_reducible assumption
    | with_reducible apply State.appendSign_within
    | with_reducible apply Within.ite
    | with_reducible apply Within.foldl
    | with_reducible apply Within.foldl_fst
    | with_reducible apply Within.of_eq (by with_reducible assumption)
    | intro _
    | split
    | dsimp only

theorem State.handOver_within {s : State} (x : Ctx) (hW : Within Ps s₀ s) (_ : .regs ∈ Ps) (_ : .mail ∈ Ps) (_ : .cores ∈ Ps) (_ : .dies ∈ Ps) (_ : .ctxs ∈ Ps) :
    Within Ps s₀ (State.handOver s x) := by
  unfold State.handOver
  repeat' first
    | with_reducible assumption
    | with_reducible apply State.resubmit_within
    | with_reducible apply State.setRanks_within
    | with_reducible apply State.release_within
    | with_reducible apply Within.ite
    | with_reducible apply Within.foldl
    | with_reducible apply Within.foldl_fst
    | with_reducible apply Within.of_eq (by with_reducible assumption)
    | intro _
    | split
    | dsimp only

theorem State.drainEnd_within {s : State} (q : Bool × Word32) (hW : Within Ps s₀ s) (_ : .regs ∈ Ps) (_ : .mail ∈ Ps) (_ : .links ∈ Ps) (_ : .mod ∈ Ps) :
    Within Ps s₀ (State.drainEnd s q) := by
  unfold State.drainEnd
  repeat' first
    | with_reducible assumption
    | with_reducible apply State.onMod_within
    | with_reducible apply State.onLink_within
    | with_reducible apply State.emit_within
    | with_reducible apply State.mailTo_within
    | with_reducible apply Within.ite
    | with_reducible apply Within.foldl
    | with_reducible apply Within.foldl_fst
    | with_reducible apply Within.of_eq (by with_reducible assumption)
    | intro _
    | split
    | dsimp only

theorem State.drainAdvance_within {s : State} (hW : Within Ps s₀ s) (_ : .regs ∈ Ps) (_ : .mail ∈ Ps) (_ : .cores ∈ Ps) (_ : .dies ∈ Ps) (_ : .ctxs ∈ Ps) (_ : .links ∈ Ps) (_ : .mod ∈ Ps) :
    Within Ps s₀ (State.drainAdvance s) := by
  unfold State.drainAdvance
  repeat' first
    | with_reducible assumption
    | with_reducible apply State.handOver_within
    | with_reducible apply State.drainEnd_within
    | with_reducible apply Within.ite
    | with_reducible apply Within.foldl
    | with_reducible apply Within.foldl_fst
    | with_reducible apply Within.of_eq (by with_reducible assumption)
    | intro _
    | split
    | dsimp only

theorem State.setHold_within {s : State} (e : Encl) (v : Bool) (hW : Within Ps s₀ s) (_ : .chains ∈ Ps) :
    Within Ps s₀ (State.setHold s e v) := by
  unfold State.setHold
  repeat' first
    | with_reducible assumption
    | with_reducible apply State.setChain_within
    | with_reducible apply Within.ite
    | with_reducible apply Within.foldl
    | with_reducible apply Within.foldl_fst
    | with_reducible apply Within.of_eq (by with_reducible assumption)
    | intro _
    | split
    | dsimp only

theorem State.endStep_within {s : State} (x : Ctx) (op : ℕ) (reported : Bool) (outcome : ℕ) (reason : ℕ) (hW : Within Ps s₀ s) (_ : .regs ∈ Ps) (_ : .mail ∈ Ps) (_ : .cores ∈ Ps) (_ : .dies ∈ Ps) (_ : .ctxs ∈ Ps) (_ : .chains ∈ Ps) (_ : .links ∈ Ps) (_ : .rings ∈ Ps) (_ : .mod ∈ Ps) :
    Within Ps s₀ (State.endStep s x op reported outcome reason) := by
  unfold State.endStep
  repeat' first
    | with_reducible assumption
    | with_reducible apply State.pgmAll_within
    | with_reducible apply State.retireStep_within
    | with_reducible apply State.releaseFrames_within
    | with_reducible apply State.closeEpisode_within
    | with_reducible apply State.signLast_within
    | with_reducible apply State.drainAdvance_within
    | with_reducible apply State.closeStep_within
    | with_reducible apply Within.ite
    | with_reducible apply Within.foldl
    | with_reducible apply Within.foldl_fst
    | with_reducible apply Within.of_eq (by with_reducible assumption)
    | intro _
    | split
    | dsimp only

theorem State.reportStep_within {s : State} (x : Ctx) (n : GongNotice) (reason : ℕ) (hW : Within Ps s₀ s) (_ : .regs ∈ Ps) (_ : .mail ∈ Ps) (_ : .cores ∈ Ps) (_ : .dies ∈ Ps) (_ : .ctxs ∈ Ps) (_ : .chains ∈ Ps) (_ : .links ∈ Ps) (_ : .rings ∈ Ps) (_ : .mod ∈ Ps) :
    Within Ps s₀ (State.reportStep s x n reason) := by
  unfold State.reportStep
  repeat' first
    | with_reducible assumption
    | with_reducible apply State.endStep_within
    | with_reducible apply State.stepEntry_within
    | with_reducible apply Within.ite
    | with_reducible apply Within.foldl
    | with_reducible apply Within.foldl_fst
    | with_reducible apply Within.of_eq (by with_reducible assumption)
    | intro _
    | split
    | dsimp only

end Sys2Proof.Machine
end

