-- ==== Sys2Proof/Laws/WithinCensus.lean ====
section
/-! SUPPORT. What the operations of Machine/Census.lean may change. -/

set_option linter.unusedTactic false
set_option linter.unreachableTactic false
set_option linter.unusedVariables false

namespace Sys2Proof.Machine

variable {Ps : List Part} {s₀ : State}

theorem State.judgeQuorum_within {s : State} (hW : Within Ps s₀ s) (_ : .mod ∈ Ps) :
    Within Ps s₀ (State.judgeQuorum s) := by
  unfold State.judgeQuorum
  repeat' first
    | with_reducible assumption
    | with_reducible apply State.onMod_within
    | with_reducible apply Within.ite
    | with_reducible apply Within.foldl
    | with_reducible apply Within.foldl_fst
    | with_reducible apply Within.of_eq (by with_reducible assumption)
    | intro _
    | split
    | dsimp only

theorem State.noteMissed_within {s : State} (hW : Within Ps s₀ s) (_ : .mod ∈ Ps) :
    Within Ps s₀ (State.noteMissed s) := by
  unfold State.noteMissed
  repeat' first
    | with_reducible assumption
    | with_reducible apply State.onMod_within
    | with_reducible apply Within.ite
    | with_reducible apply Within.foldl
    | with_reducible apply Within.foldl_fst
    | with_reducible apply Within.of_eq (by with_reducible assumption)
    | intro _
    | split
    | dsimp only

theorem State.askRecord_within {s : State} (hW : Within Ps s₀ s) :
    Within Ps s₀ (State.askRecord s) := by
  unfold State.askRecord
  repeat' first
    | with_reducible assumption
    | with_reducible apply State.emit_within
    | with_reducible apply Within.ite
    | with_reducible apply Within.foldl
    | with_reducible apply Within.foldl_fst
    | with_reducible apply Within.of_eq (by with_reducible assumption)
    | intro _
    | split
    | dsimp only

theorem State.fence_within {s : State} (hW : Within Ps s₀ s) (_ : .ctxs ∈ Ps) (_ : .mod ∈ Ps) :
    Within Ps s₀ (State.fence s) := by
  unfold State.fence
  repeat' first
    | with_reducible assumption
    | with_reducible apply State.onMod_within
    | with_reducible apply State.onCtx_within
    | with_reducible apply Within.ite
    | with_reducible apply Within.foldl
    | with_reducible apply Within.foldl_fst
    | with_reducible apply Within.of_eq (by with_reducible assumption)
    | intro _
    | split
    | dsimp only

theorem State.becomeRoot_within {s : State} (x : Ctx) (hW : Within Ps s₀ s) (_ : .ctxs ∈ Ps) :
    Within Ps s₀ (State.becomeRoot s x) := by
  unfold State.becomeRoot
  repeat' first
    | with_reducible assumption
    | with_reducible apply State.onCtx_within
    | with_reducible apply Within.ite
    | with_reducible apply Within.foldl
    | with_reducible apply Within.foldl_fst
    | with_reducible apply Within.of_eq (by with_reducible assumption)
    | intro _
    | split
    | dsimp only

theorem State.replaceAll_within {s : State} (e : Endpoint) (hW : Within Ps s₀ s) (_ : .ctxs ∈ Ps) :
    Within Ps s₀ (State.replaceAll s e) := by
  unfold State.replaceAll
  repeat' first
    | with_reducible assumption
    | with_reducible apply State.becomeRoot_within
    | with_reducible apply State.setRanks_within
    | with_reducible apply Within.ite
    | with_reducible apply Within.foldl
    | with_reducible apply Within.foldl_fst
    | with_reducible apply Within.of_eq (by with_reducible assumption)
    | intro _
    | split
    | dsimp only

theorem State.dropRoutes_within {s : State} (e : Endpoint) (hW : Within Ps s₀ s) (_ : .routers ∈ Ps) :
    Within Ps s₀ (State.dropRoutes s e) := by
  unfold State.dropRoutes
  repeat' first
    | with_reducible assumption
    | with_reducible apply State.onRouter_within
    | with_reducible apply Within.ite
    | with_reducible apply Within.foldl
    | with_reducible apply Within.foldl_fst
    | with_reducible apply Within.of_eq (by with_reducible assumption)
    | intro _
    | split
    | dsimp only

theorem State.knellCtx_within {s : State} (x : Ctx) (e : Endpoint) (hW : Within Ps s₀ s) (_ : .regs ∈ Ps) (_ : .cores ∈ Ps) (_ : .ctxs ∈ Ps) :
    Within Ps s₀ (State.knellCtx s x e) := by
  unfold State.knellCtx
  repeat' first
    | with_reducible assumption
    | with_reducible apply State.flagStep_within
    | with_reducible apply State.abortCore_within
    | with_reducible apply State.onCtx_within
    | with_reducible apply State.becomeRoot_within
    | with_reducible apply Within.ite
    | with_reducible apply Within.foldl
    | with_reducible apply Within.foldl_fst
    | with_reducible apply Within.of_eq (by with_reducible assumption)
    | intro _
    | split
    | dsimp only

theorem State.knell_within {s : State} (arrival : Option LinkId) (e : Endpoint) (cause : ℕ) (count : Word64) (sender : Endpoint) (hW : Within Ps s₀ s) (_ : .regs ∈ Ps) (_ : .deferred ∈ Ps) (_ : .cores ∈ Ps) (_ : .dies ∈ Ps) (_ : .ctxs ∈ Ps) (_ : .links ∈ Ps) (_ : .routers ∈ Ps) (_ : .mod ∈ Ps) :
    Within Ps s₀ (State.knell s arrival e cause count sender) := by
  unfold State.knell
  repeat' first
    | with_reducible assumption
    | with_reducible apply State.onMod_within
    | with_reducible apply State.flood_within
    | with_reducible apply State.fault_within
    | with_reducible apply State.dropRoutes_within
    | with_reducible apply State.knellCtx_within
    | with_reducible apply State.fence_within
    | with_reducible apply State.ownCensus_within
    | with_reducible apply Within.ite
    | with_reducible apply Within.foldl
    | with_reducible apply Within.foldl_fst
    | with_reducible apply Within.of_eq (by with_reducible assumption)
    | intro _
    | split
    | dsimp only

end Sys2Proof.Machine
end

