-- ==== Sys2Proof/Laws/WithinMaintain.lean ====
section
/-! SUPPORT. What the operations of Machine/Maintain.lean may change. -/

set_option linter.unusedTactic false
set_option linter.unreachableTactic false
set_option linter.unusedVariables false

namespace Sys2Proof.Machine

variable {Ps : List Part} {s₀ : State}

theorem State.elogPop_within {s : State} (n : ℕ) (hW : Within Ps s₀ s) (_ : .mod ∈ Ps) :
    Within Ps s₀ (State.elogPop s n) := by
  unfold State.elogPop
  repeat' first
    | with_reducible assumption
    | with_reducible apply State.onMod_within
    | with_reducible apply Within.ite
    | with_reducible apply Within.foldl
    | with_reducible apply Within.foldl_fst
    | with_reducible apply Within.of_eq (by with_reducible assumption)
    | intro _
    | split
    | dsimp only

theorem State.ceRecord_within {s : State} (c : CoreId) (r : CeRec) (hW : Within Ps s₀ s) (_ : .regs ∈ Ps) (_ : .deferred ∈ Ps) (_ : .cores ∈ Ps) (_ : .dies ∈ Ps) (_ : .ctxs ∈ Ps) (_ : .links ∈ Ps) (_ : .mod ∈ Ps) :
    Within Ps s₀ (State.ceRecord s c r) := by
  unfold State.ceRecord
  repeat' first
    | with_reducible assumption
    | with_reducible apply State.fault_within
    | with_reducible apply Within.ite
    | with_reducible apply Within.foldl
    | with_reducible apply Within.foldl_fst
    | with_reducible apply Within.of_eq (by with_reducible assumption)
    | intro _
    | split
    | dsimp only

theorem State.ceLost_within {s : State} (c : CoreId) (hW : Within Ps s₀ s) (_ : .regs ∈ Ps) (_ : .deferred ∈ Ps) (_ : .cores ∈ Ps) (_ : .dies ∈ Ps) (_ : .ctxs ∈ Ps) (_ : .links ∈ Ps) (_ : .mod ∈ Ps) :
    Within Ps s₀ (State.ceLost s c) := by
  unfold State.ceLost
  repeat' first
    | with_reducible assumption
    | with_reducible apply State.setFld_within
    | with_reducible apply State.fault_within
    | with_reducible apply Within.ite
    | with_reducible apply Within.foldl
    | with_reducible apply Within.foldl_fst
    | with_reducible apply Within.of_eq (by with_reducible assumption)
    | intro _
    | split
    | dsimp only

theorem State.ceCore_within {s : State} (c : CoreId) (hW : Within Ps s₀ s) (_ : .regs ∈ Ps) (_ : .deferred ∈ Ps) (_ : .cores ∈ Ps) (_ : .dies ∈ Ps) (_ : .ctxs ∈ Ps) (_ : .links ∈ Ps) (_ : .mod ∈ Ps) :
    Within Ps s₀ (State.ceCore s c) := by
  unfold State.ceCore
  repeat' first
    | with_reducible assumption
    | with_reducible apply State.ceLost_within
    | with_reducible apply State.ceRecord_within
    | with_reducible apply State.onCore_within
    | with_reducible apply Within.ite
    | with_reducible apply Within.foldl
    | with_reducible apply Within.foldl_fst
    | with_reducible apply Within.of_eq (by with_reducible assumption)
    | intro _
    | split
    | dsimp only

theorem State.abortStep_within {s : State} (x : Ctx) (cs : List CoreId) (hW : Within Ps s₀ s) (_ : .regs ∈ Ps) (_ : .cores ∈ Ps) (_ : .ctxs ∈ Ps) :
    Within Ps s₀ (State.abortStep s x cs) := by
  unfold State.abortStep
  repeat' first
    | with_reducible assumption
    | with_reducible apply State.flagStep_within
    | with_reducible apply State.abortCore_within
    | with_reducible apply Within.ite
    | with_reducible apply Within.foldl
    | with_reducible apply Within.foldl_fst
    | with_reducible apply Within.of_eq (by with_reducible assumption)
    | intro _
    | split
    | dsimp only

theorem State.maintReq_within {s : State} (x : Ctx) (cause : ℕ) (deadline : ℕ) (lenUs : ℕ) (hW : Within Ps s₀ s) (_ : .regs ∈ Ps) (_ : .mail ∈ Ps) :
    Within Ps s₀ (State.maintReq s x cause deadline lenUs) := by
  unfold State.maintReq
  repeat' first
    | with_reducible assumption
    | with_reducible apply State.mailTo_within
    | with_reducible apply Within.ite
    | with_reducible apply Within.foldl
    | with_reducible apply Within.foldl_fst
    | with_reducible apply Within.of_eq (by with_reducible assumption)
    | intro _
    | split
    | dsimp only

theorem State.digestRecord_within {s : State} (x : Ctx) (h : ShardRec) (at_ : Word64) (hW : Within Ps s₀ s) (_ : .regs ∈ Ps) (_ : .ctxs ∈ Ps) (_ : .mod ∈ Ps) :
    Within Ps s₀ (State.digestRecord s x h at_) := by
  unfold State.digestRecord
  repeat' first
    | with_reducible assumption
    | with_reducible apply State.logRecord_within
    | with_reducible apply Within.ite
    | with_reducible apply Within.foldl
    | with_reducible apply Within.foldl_fst
    | with_reducible apply Within.of_eq (by with_reducible assumption)
    | intro _
    | split
    | dsimp only

theorem State.testDone_within {s : State} (q : TestReq) (o : TestOrigin) (outcome : ℕ) (hW : Within Ps s₀ s) (_ : .regs ∈ Ps) (_ : .mail ∈ Ps) :
    Within Ps s₀ (State.testDone s q o outcome) := by
  unfold State.testDone
  repeat' first
    | with_reducible assumption
    | with_reducible apply State.mailTo_within
    | with_reducible apply Within.ite
    | with_reducible apply Within.foldl
    | with_reducible apply Within.foldl_fst
    | with_reducible apply Within.of_eq (by with_reducible assumption)
    | intro _
    | split
    | dsimp only

theorem State.scramble_within {s : State} (c : CoreId) (hW : Within Ps s₀ s) (_ : .am ∈ Ps) (_ : .psm ∈ Ps) (_ : .tb ∈ Ps) :
    Within Ps s₀ (State.scramble s c) := by
  unfold State.scramble
  repeat' first
    | with_reducible assumption
    | with_reducible apply State.amSet_within
    | with_reducible apply State.psmBytesSet_within
    | with_reducible apply State.tbSet_within
    | with_reducible apply State.draw_within
    | with_reducible apply Within.ite
    | with_reducible apply Within.foldl
    | with_reducible apply Within.foldl_fst
    | with_reducible apply Within.of_eq (by with_reducible assumption)
    | intro _
    | split
    | dsimp only

theorem State.deferTest_within {s : State} (d : DieId) (q : TestReq) (o : TestOrigin) (hW : Within Ps s₀ s) (_ : .regs ∈ Ps) (_ : .mail ∈ Ps) (_ : .dies ∈ Ps) (_ : .ctxs ∈ Ps) (_ : .mod ∈ Ps) :
    Within Ps s₀ (State.deferTest s d q o) := by
  unfold State.deferTest
  repeat' first
    | with_reducible assumption
    | with_reducible apply State.onDie_within
    | with_reducible apply State.testDone_within
    | with_reducible apply State.logRecord_within
    | with_reducible apply Within.ite
    | with_reducible apply Within.foldl
    | with_reducible apply Within.foldl_fst
    | with_reducible apply Within.of_eq (by with_reducible assumption)
    | intro _
    | split
    | dsimp only

end Sys2Proof.Machine
end

