-- ==== Sys2Proof/Laws/WithinPower.lean ====
section
/-! SUPPORT. What the operations of Machine/Power.lean may change. -/

set_option linter.unusedTactic false
set_option linter.unreachableTactic false
set_option linter.unusedVariables false

namespace Sys2Proof.Machine

variable {Ps : List Part} {s₀ : State}

theorem State.setPoint_within {s : State} (hW : Within Ps s₀ s) (_ : .regs ∈ Ps) :
    Within Ps s₀ (State.setPoint s) := by
  unfold State.setPoint
  repeat' first
    | with_reducible assumption
    | with_reducible apply State.setFld_within
    | with_reducible apply State.movePoint_within
    | with_reducible apply Within.ite
    | with_reducible apply Within.foldl
    | with_reducible apply Within.foldl_fst
    | with_reducible apply Within.of_eq (by with_reducible assumption)
    | intro _
    | split
    | dsimp only

theorem State.opArm_within {s : State} (p : ℕ) (hW : Within Ps s₀ s) (_ : .regs ∈ Ps) (_ : .mod ∈ Ps) :
    Within Ps s₀ (State.opArm s p) := by
  unfold State.opArm
  repeat' first
    | with_reducible assumption
    | with_reducible apply State.raise_within
    | with_reducible apply State.setFld_within
    | with_reducible apply State.onMod_within
    | with_reducible apply Within.ite
    | with_reducible apply Within.foldl
    | with_reducible apply Within.foldl_fst
    | with_reducible apply Within.of_eq (by with_reducible assumption)
    | intro _
    | split
    | dsimp only

theorem State.lumefArm_within {s : State} (p : ℕ) (at_ : ℕ) (hW : Within Ps s₀ s) (_ : .regs ∈ Ps) (_ : .mod ∈ Ps) :
    Within Ps s₀ (State.lumefArm s p at_) := by
  unfold State.lumefArm
  repeat' first
    | with_reducible assumption
    | with_reducible apply State.opArm_within
    | with_reducible apply State.setReg_within
    | with_reducible apply Within.ite
    | with_reducible apply Within.foldl
    | with_reducible apply Within.foldl_fst
    | with_reducible apply Within.of_eq (by with_reducible assumption)
    | intro _
    | split
    | dsimp only

theorem State.capMoved_within {s : State} (bit : ℕ) (hW : Within Ps s₀ s) (_ : .regs ∈ Ps) :
    Within Ps s₀ (State.capMoved s bit) := by
  unfold State.capMoved
  repeat' first
    | with_reducible assumption
    | with_reducible apply State.setPoint_within
    | with_reducible apply State.orReg_within
    | with_reducible apply State.count_within
    | with_reducible apply Within.ite
    | with_reducible apply Within.foldl
    | with_reducible apply Within.foldl_fst
    | with_reducible apply Within.of_eq (by with_reducible assumption)
    | intro _
    | split
    | dsimp only

theorem State.steady_within {s : State} (hW : Within Ps s₀ s) (_ : .regs ∈ Ps) (_ : .mod ∈ Ps) :
    Within Ps s₀ (State.steady s) := by
  unfold State.steady
  repeat' first
    | with_reducible assumption
    | with_reducible apply State.onMod_within
    | with_reducible apply State.lumefArm_within
    | with_reducible apply Within.ite
    | with_reducible apply Within.foldl
    | with_reducible apply Within.foldl_fst
    | with_reducible apply Within.of_eq (by with_reducible assumption)
    | intro _
    | split
    | dsimp only

theorem State.setUnit_within {s : State} (u : ℕ) (v : ℕ × ℕ × Bool) (hW : Within Ps s₀ s) (_ : .mod ∈ Ps) :
    Within Ps s₀ (State.setUnit s u v) := by
  unfold State.setUnit
  repeat' first
    | with_reducible assumption
    | with_reducible apply State.onMod_within
    | with_reducible apply Within.ite
    | with_reducible apply Within.foldl
    | with_reducible apply Within.foldl_fst
    | with_reducible apply Within.of_eq (by with_reducible assumption)
    | intro _
    | split
    | dsimp only

theorem State.junction_within {s : State} (u : ℕ) (tj : ℕ) (hW : Within Ps s₀ s) (_ : .mod ∈ Ps) :
    Within Ps s₀ (State.junction s u tj) := by
  unfold State.junction
  repeat' first
    | with_reducible assumption
    | with_reducible apply State.setUnit_within
    | with_reducible apply State.onMod_within
    | with_reducible apply Within.ite
    | with_reducible apply Within.foldl
    | with_reducible apply Within.foldl_fst
    | with_reducible apply Within.of_eq (by with_reducible assumption)
    | intro _
    | split
    | dsimp only

theorem Within.all_fields {s t : State} (h : Within Ps s₀ s) (hall : ∀ p, p ∈ Ps)
    (e : t.pending = s.pending ∧ t.ac = s.ac ∧ t.now = s.now ∧ t.free = s.free ∧ t.out = s.out) (c : t.canonical) : Within Ps s₀ t :=
  h.trans ⟨⟨e.1, e.2.1, e.2.2.1, e.2.2.2.1 ▸ Nat.le_refl _, e.2.2.2.2 ▸ List.prefix_refl _⟩, fun _ => c,
    fun p hp => absurd (hall p) hp⟩

theorem State.standby_within {s : State} (h : Within Ps s₀ s) (hall : ∀ p, p ∈ Ps) : Within Ps s₀ s.standby := by
  unfold State.standby
  apply State.setReg_within _ _ _ _ (hall _)
  exact Within.all_fields h hall ⟨rfl, rfl, rfl, rfl, rfl⟩ (by simp [State.canonical, State.reset, Store.wf])

theorem State.moduleReset_within {s : State} (hW : Within Ps s₀ s) (hall : ∀ p, p ∈ Ps) :
    Within Ps s₀ (State.moduleReset s) := by
  unfold State.moduleReset
  repeat' first
    | with_reducible assumption
    | exact hall _
    | with_reducible apply State.onMod_within
    | with_reducible apply State.standby_within
    | with_reducible apply Within.ite
    | with_reducible apply Within.foldl
    | with_reducible apply Within.foldl_fst
    | with_reducible apply Within.of_eq (by with_reducible assumption)
    | intro _
    | split
    | dsimp only

theorem State.fatal_within {s : State} (cause : ℕ) (hW : Within Ps s₀ s) (hall : ∀ p, p ∈ Ps) :
    Within Ps s₀ (State.fatal s cause) := by
  unfold State.fatal
  repeat' first
    | with_reducible assumption
    | exact hall _
    | with_reducible apply State.flood_within
    | with_reducible apply State.onMod_within
    | with_reducible apply State.standby_within
    | with_reducible apply Within.ite
    | with_reducible apply Within.foldl
    | with_reducible apply Within.foldl_fst
    | with_reducible apply Within.of_eq (by with_reducible assumption)
    | intro _
    | split
    | dsimp only

theorem State.cold_within {s : State} (on : Bool) (h : Within Ps s₀ s) (hall : ∀ p, p ∈ Ps) : Within Ps s₀ (s.cold on) := by
  unfold State.cold
  exact Within.all_fields h hall ⟨rfl, rfl, rfl, rfl, rfl⟩ (by simp [State.canonical, State.reset, Store.wf])

theorem State.marginHit_within {s : State} (d : DieId) (hW : Within Ps s₀ s) (_ : .regs ∈ Ps) (_ : .dies ∈ Ps) (_ : .mod ∈ Ps) :
    Within Ps s₀ (State.marginHit s d) := by
  unfold State.marginHit
  repeat' first
    | with_reducible assumption
    | with_reducible apply State.onDie_within
    | with_reducible apply State.lumefArm_within
    | with_reducible apply State.selftestQueue_within
    | with_reducible apply Within.ite
    | with_reducible apply Within.foldl
    | with_reducible apply Within.foldl_fst
    | with_reducible apply Within.of_eq (by with_reducible assumption)
    | intro _
    | split
    | dsimp only

end Sys2Proof.Machine
end

