-- ==== Sys2Proof/Laws/WithinBoot.lean ====
section
/-! SUPPORT. What the operations of Machine/Boot.lean may change. -/

set_option linter.unusedTactic false
set_option linter.unreachableTactic false
set_option linter.unusedVariables false

namespace Sys2Proof.Machine

variable {Ps : List Part} {s₀ : State}

theorem State.enterRecovery_within {s : State} (hW : Within Ps s₀ s) (_ : .regs ∈ Ps) (_ : .mod ∈ Ps) :
    Within Ps s₀ (State.enterRecovery s) := by
  unfold State.enterRecovery
  repeat' first
    | with_reducible assumption
    | with_reducible apply State.onMod_within
    | with_reducible apply State.setFld_within
    | with_reducible apply Within.ite
    | with_reducible apply Within.foldl
    | with_reducible apply Within.foldl_fst
    | with_reducible apply Within.of_eq (by with_reducible assumption)
    | intro _
    | split
    | dsimp only

theorem State.measureImage_within {s : State} (dev : Bool) (hW : Within Ps s₀ s) (_ : .regs ∈ Ps) (_ : .mod ∈ Ps) :
    Within Ps s₀ (State.measureImage s dev) := by
  unfold State.measureImage
  repeat' first
    | with_reducible assumption
    | with_reducible apply State.onMod_within
    | with_reducible apply State.setDigestReg_within
    | with_reducible apply Within.ite
    | with_reducible apply Within.foldl
    | with_reducible apply Within.foldl_fst
    | with_reducible apply Within.of_eq (by with_reducible assumption)
    | intro _
    | split
    | dsimp only

theorem State.imageSelect_within {s : State} (norA : Bool) (norB : Bool) (hW : Within Ps s₀ s) (_ : .regs ∈ Ps) (_ : .mod ∈ Ps) :
    Within Ps s₀ (State.imageSelect s norA norB) := by
  unfold State.imageSelect
  repeat' first
    | with_reducible assumption
    | with_reducible apply State.setFld_within
    | with_reducible apply State.enterRecovery_within
    | with_reducible apply State.measureImage_within
    | with_reducible apply State.setReg_within
    | with_reducible apply Within.ite
    | with_reducible apply Within.foldl
    | with_reducible apply Within.foldl_fst
    | with_reducible apply Within.of_eq (by with_reducible assumption)
    | intro _
    | split
    | dsimp only

theorem State.fifoAlign_within {s : State} (o : BootObs) (hW : Within Ps s₀ s) (_ : .regs ∈ Ps) (_ : .mod ∈ Ps) :
    Within Ps s₀ (State.fifoAlign s o) := by
  unfold State.fifoAlign
  repeat' first
    | with_reducible assumption
    | with_reducible apply State.setFld_within
    | with_reducible apply State.setReg_within
    | with_reducible apply State.onMod_within
    | with_reducible apply Within.ite
    | with_reducible apply Within.foldl
    | with_reducible apply Within.foldl_fst
    | with_reducible apply Within.of_eq (by with_reducible assumption)
    | intro _
    | split
    | dsimp only

theorem State.loadCc_within {s : State} (b : List Byte) (hW : Within Ps s₀ s) (_ : .iram ∈ Ps) :
    Within Ps s₀ (State.loadCc s b) := by
  unfold State.loadCc
  repeat' first
    | with_reducible assumption
    | with_reducible apply State.iramSet_within
    | with_reducible apply Within.ite
    | with_reducible apply Within.foldl
    | with_reducible apply Within.foldl_fst
    | with_reducible apply Within.of_eq (by with_reducible assumption)
    | intro _
    | split
    | dsimp only

theorem State.applyPlan_within {s : State} (topo : List Byte) (hW : Within Ps s₀ s) (_ : .regs ∈ Ps) (_ : .mod ∈ Ps) :
    Within Ps s₀ (State.applyPlan s topo) := by
  unfold State.applyPlan
  repeat' first
    | with_reducible assumption
    | with_reducible apply State.setReg_within
    | with_reducible apply State.onMod_within
    | with_reducible apply Within.ite
    | with_reducible apply Within.foldl
    | with_reducible apply Within.foldl_fst
    | with_reducible apply Within.of_eq (by with_reducible assumption)
    | intro _
    | split
    | dsimp only

theorem State.cfgLoad_within {s : State} (hW : Within Ps s₀ s) (_ : .regs ∈ Ps) (_ : .deferred ∈ Ps) (_ : .mod ∈ Ps) :
    Within Ps s₀ (State.cfgLoad s) := by
  unfold State.cfgLoad
  repeat' first
    | with_reducible assumption
    | with_reducible apply State.raise_within
    | with_reducible apply State.onMod_within
    | with_reducible apply State.setDigestReg_within
    | with_reducible apply State.owes_within
    | with_reducible apply State.setFld_within
    | with_reducible apply Within.ite
    | with_reducible apply Within.foldl
    | with_reducible apply Within.foldl_fst
    | with_reducible apply Within.of_eq (by with_reducible assumption)
    | intro _
    | split
    | dsimp only

theorem State.applyImage_within {s : State} (hW : Within Ps s₀ s) (_ : .regs ∈ Ps) (_ : .deferred ∈ Ps) (_ : .iram ∈ Ps) (_ : .mod ∈ Ps) :
    Within Ps s₀ (State.applyImage s) := by
  unfold State.applyImage
  repeat' first
    | with_reducible assumption
    | with_reducible apply State.setReg_within
    | with_reducible apply State.onMod_within
    | with_reducible apply State.applyPlan_within
    | with_reducible apply State.loadCc_within
    | with_reducible apply State.setFld_within
    | with_reducible apply State.cfgLoad_within
    | with_reducible apply State.setDigestReg_within
    | with_reducible apply Within.ite
    | with_reducible apply Within.foldl
    | with_reducible apply Within.foldl_fst
    | with_reducible apply Within.of_eq (by with_reducible assumption)
    | intro _
    | split
    | dsimp only

theorem State.linkSetup_within {s : State} (b : List Byte) (hW : Within Ps s₀ s) (_ : .links ∈ Ps) :
    Within Ps s₀ (State.linkSetup s b) := by
  unfold State.linkSetup
  repeat' first
    | with_reducible assumption
    | with_reducible apply State.onLink_within
    | with_reducible apply Within.ite
    | with_reducible apply Within.foldl
    | with_reducible apply Within.foldl_fst
    | with_reducible apply Within.of_eq (by with_reducible assumption)
    | intro _
    | split
    | dsimp only

theorem State.enterFabric_within {s : State} (hW : Within Ps s₀ s) (_ : .regs ∈ Ps) (_ : .links ∈ Ps) (_ : .mod ∈ Ps) :
    Within Ps s₀ (State.enterFabric s) := by
  unfold State.enterFabric
  repeat' first
    | with_reducible assumption
    | with_reducible apply State.linkSetup_within
    | with_reducible apply State.carDiscipline_within
    | with_reducible apply State.setFld_within
    | with_reducible apply Within.ite
    | with_reducible apply Within.foldl
    | with_reducible apply Within.foldl_fst
    | with_reducible apply Within.of_eq (by with_reducible assumption)
    | intro _
    | split
    | dsimp only

theorem State.enterReady_within {s : State} (hW : Within Ps s₀ s) (_ : .mod ∈ Ps) :
    Within Ps s₀ (State.enterReady s) := by
  unfold State.enterReady
  repeat' first
    | with_reducible assumption
    | with_reducible apply State.onMod_within
    | with_reducible apply Within.ite
    | with_reducible apply Within.foldl
    | with_reducible apply Within.foldl_fst
    | with_reducible apply Within.of_eq (by with_reducible assumption)
    | intro _
    | split
    | dsimp only

end Sys2Proof.Machine
end

