-- ==== Sys2Proof/Laws/WithinStage.lean ====
section
/-! SUPPORT. What the operations of Machine/Stage.lean may change. -/

set_option linter.unusedTactic false
set_option linter.unreachableTactic false
set_option linter.unusedVariables false

namespace Sys2Proof.Machine

variable {Ps : List Part} {s₀ : State}

theorem State.cfgArm_within {s : State} (hW : Within Ps s₀ s) (_ : .regs ∈ Ps) (_ : .mod ∈ Ps) :
    Within Ps s₀ (State.cfgArm s) := by
  unfold State.cfgArm
  repeat' first
    | with_reducible assumption
    | with_reducible apply State.raise_within
    | with_reducible apply State.onMod_within
    | with_reducible apply State.setFld_within
    | with_reducible apply Within.ite
    | with_reducible apply Within.foldl
    | with_reducible apply Within.foldl_fst
    | with_reducible apply Within.of_eq (by with_reducible assumption)
    | intro _
    | split
    | dsimp only

theorem State.inForce_within {s : State} (c : ChangeContent) (hW : Within Ps s₀ s) (hall : ∀ p, p ∈ Ps) :
    Within Ps s₀ (State.inForce s c) := by
  unfold State.inForce
  repeat' first
    | with_reducible assumption
    | exact hall _
    | with_reducible apply State.onMod_within
    | with_reducible apply State.applyPlan_within
    | with_reducible apply State.moduleReset_within
    | with_reducible apply Within.ite
    | with_reducible apply Within.foldl
    | with_reducible apply Within.foldl_fst
    | with_reducible apply Within.of_eq (by with_reducible assumption)
    | intro _
    | split
    | dsimp only

theorem State.sendChange_within {s : State} (sub : ℕ) (k : StagedChange) (t : Option Word64) (hW : Within Ps s₀ s) :
    Within Ps s₀ (State.sendChange s sub k t) := by
  unfold State.sendChange
  repeat' first
    | with_reducible assumption
    | with_reducible apply State.emit_within
    | with_reducible apply Within.ite
    | with_reducible apply Within.foldl
    | with_reducible apply Within.foldl_fst
    | with_reducible apply Within.of_eq (by with_reducible assumption)
    | intro _
    | split
    | dsimp only

theorem State.armChange_within {s : State} (k : StagedChange) (t : Word64) (hW : Within Ps s₀ s) (_ : .regs ∈ Ps) (_ : .mod ∈ Ps) :
    Within Ps s₀ (State.armChange s k t) := by
  unfold State.armChange
  repeat' first
    | with_reducible assumption
    | with_reducible apply State.setReg_within
    | with_reducible apply State.setDigestReg_within
    | with_reducible apply State.onMod_within
    | with_reducible apply State.cfgArm_within
    | with_reducible apply State.epochArm_within
    | with_reducible apply Within.ite
    | with_reducible apply Within.foldl
    | with_reducible apply Within.foldl_fst
    | with_reducible apply Within.of_eq (by with_reducible assumption)
    | intro _
    | split
    | dsimp only

theorem State.armWhenAll_within {s : State} (k : StagedChange) (hW : Within Ps s₀ s) (_ : .regs ∈ Ps) (_ : .mod ∈ Ps) :
    Within Ps s₀ (State.armWhenAll s k) := by
  unfold State.armWhenAll
  repeat' first
    | with_reducible assumption
    | with_reducible apply State.armChange_within
    | with_reducible apply State.sendChange_within
    | with_reducible apply State.draw_within
    | with_reducible apply Within.ite
    | with_reducible apply Within.foldl
    | with_reducible apply Within.foldl_fst
    | with_reducible apply Within.of_eq (by with_reducible assumption)
    | intro _
    | split
    | dsimp only

theorem State.abortChange_within {s : State} (k : StagedChange) (hW : Within Ps s₀ s) (_ : .mod ∈ Ps) :
    Within Ps s₀ (State.abortChange s k) := by
  unfold State.abortChange
  repeat' first
    | with_reducible assumption
    | with_reducible apply State.onMod_within
    | with_reducible apply State.sendChange_within
    | with_reducible apply Within.ite
    | with_reducible apply Within.foldl
    | with_reducible apply Within.foldl_fst
    | with_reducible apply Within.of_eq (by with_reducible assumption)
    | intro _
    | split
    | dsimp only

end Sys2Proof.Machine
end

