-- ==== Sys2Proof/Laws/WithinSecurity.lean ====
section
/-! SUPPORT. What the operations of Machine/Security.lean may change. -/

set_option linter.unusedTactic false
set_option linter.unreachableTactic false
set_option linter.unusedVariables false

namespace Sys2Proof.Machine

variable {Ps : List Part} {s₀ : State}

theorem State.clearRims_within {s : State} (hW : Within Ps s₀ s) (_ : .routers ∈ Ps) :
    Within Ps s₀ (State.clearRims s) := by
  unfold State.clearRims
  repeat' first
    | with_reducible assumption
    | with_reducible apply State.onRouter_within
    | with_reducible apply Within.ite
    | with_reducible apply Within.foldl
    | with_reducible apply Within.foldl_fst
    | with_reducible apply Within.of_eq (by with_reducible assumption)
    | intro _
    | split
    | dsimp only

theorem State.setDebug_within {s : State} (mode : ℕ) (scopes : ℕ) (enclave : ℕ) (until_ : Option ℕ) (hW : Within Ps s₀ s) (_ : .regs ∈ Ps) (_ : .chains ∈ Ps) (_ : .routers ∈ Ps) (_ : .mod ∈ Ps) :
    Within Ps s₀ (State.setDebug s mode scopes enclave until_) := by
  unfold State.setDebug
  repeat' first
    | with_reducible assumption
    | with_reducible apply State.clearRims_within
    | with_reducible apply State.extendDebug_within
    | with_reducible apply State.onMod_within
    | with_reducible apply State.setReg_within
    | with_reducible apply Within.ite
    | with_reducible apply Within.foldl
    | with_reducible apply Within.foldl_fst
    | with_reducible apply Within.of_eq (by with_reducible assumption)
    | intro _
    | split
    | dsimp only

theorem State.grantEnd_within {s : State} (hW : Within Ps s₀ s) (_ : .regs ∈ Ps) (_ : .chains ∈ Ps) (_ : .routers ∈ Ps) (_ : .mod ∈ Ps) :
    Within Ps s₀ (State.grantEnd s) := by
  unfold State.grantEnd
  repeat' first
    | with_reducible assumption
    | with_reducible apply State.setDebug_within
    | with_reducible apply Within.ite
    | with_reducible apply Within.foldl
    | with_reducible apply Within.foldl_fst
    | with_reducible apply Within.of_eq (by with_reducible assumption)
    | intro _
    | split
    | dsimp only

theorem State.dbgDeny_within {s : State} (hW : Within Ps s₀ s) (_ : .regs ∈ Ps) :
    Within Ps s₀ (State.dbgDeny s) := by
  unfold State.dbgDeny
  repeat' first
    | with_reducible assumption
    | with_reducible apply State.raise_within
    | with_reducible apply Within.ite
    | with_reducible apply Within.foldl
    | with_reducible apply Within.foldl_fst
    | with_reducible apply Within.of_eq (by with_reducible assumption)
    | intro _
    | split
    | dsimp only

theorem State.dbgCtlEnd_within {s : State} (hW : Within Ps s₀ s) (_ : .regs ∈ Ps) (_ : .chains ∈ Ps) (_ : .routers ∈ Ps) (_ : .mod ∈ Ps) :
    Within Ps s₀ (State.dbgCtlEnd s) := by
  unfold State.dbgCtlEnd
  repeat' first
    | with_reducible assumption
    | with_reducible apply State.raise_within
    | with_reducible apply State.grantEnd_within
    | with_reducible apply Within.ite
    | with_reducible apply Within.foldl
    | with_reducible apply Within.foldl_fst
    | with_reducible apply Within.of_eq (by with_reducible assumption)
    | intro _
    | split
    | dsimp only

end Sys2Proof.Machine
end

