-- ==== Sys2Proof/Laws/WithinAccess.lean ====
section
/-! SUPPORT. What the operations of Machine/Access.lean may change. -/

set_option linter.unusedTactic false
set_option linter.unreachableTactic false
set_option linter.unusedVariables false

namespace Sys2Proof.Machine

variable {Ps : List Part} {s₀ : State}

theorem State.regRead_within {s : State} (b : Blk) (off : ℕ) (hW : Within Ps s₀ s) (_ : .latches ∈ Ps) :
    Within Ps s₀ (State.regRead s b off).1 := by
  unfold State.regRead
  repeat' first
    | with_reducible assumption
    | with_reducible apply State.setLatch_within
    | with_reducible apply Within.ite
    | with_reducible apply Within.foldl
    | with_reducible apply Within.foldl_fst
    | with_reducible apply Within.of_eq (by with_reducible assumption)
    | intro _
    | split
    | dsimp only

theorem State.layoutRead_within {s : State} (p : Path) (o : ℕ) (hW : Within Ps s₀ s) (_ : .latches ∈ Ps) :
    Within Ps s₀ (State.layoutRead s p o).1 := by
  unfold State.layoutRead
  repeat' first
    | with_reducible assumption
    | with_reducible apply State.regRead_within
    | with_reducible apply Within.ite
    | with_reducible apply Within.foldl
    | with_reducible apply Within.foldl_fst
    | with_reducible apply Within.of_eq (by with_reducible assumption)
    | intro _
    | split
    | dsimp only

theorem State.noteOld_within {s : State} (b : Blk) (off : ℕ) (hW : Within Ps s₀ s) (_ : .cores ∈ Ps) :
    Within Ps s₀ (State.noteOld s b off) := by
  unfold State.noteOld
  repeat' first
    | with_reducible assumption
    | with_reducible apply State.onCore_within
    | with_reducible apply Within.ite
    | with_reducible apply Within.foldl
    | with_reducible apply Within.foldl_fst
    | with_reducible apply Within.of_eq (by with_reducible assumption)
    | intro _
    | split
    | dsimp only

theorem State.plainWrite_within {s : State} (b : Blk) (off : ℕ) (v : ℕ) (hW : Within Ps s₀ s) (_ : .regs ∈ Ps) (_ : .cores ∈ Ps) (_ : .mod ∈ Ps) :
    Within Ps s₀ (State.plainWrite s b off v) := by
  unfold State.plainWrite
  repeat' first
    | with_reducible assumption
    | with_reducible apply State.noteOld_within
    | with_reducible apply State.onMod_within
    | with_reducible apply State.setReg_within
    | with_reducible apply Within.ite
    | with_reducible apply Within.foldl
    | with_reducible apply Within.foldl_fst
    | with_reducible apply Within.of_eq (by with_reducible assumption)
    | intro _
    | split
    | dsimp only

theorem State.ringCfg_within {s : State} (v : VfId) (r : RingId) (k : ℕ) (n : ℕ) (hW : Within Ps s₀ s) (_ : .regs ∈ Ps) (_ : .cores ∈ Ps) (_ : .ctxs ∈ Ps) (_ : .rings ∈ Ps) (_ : .mod ∈ Ps) :
    Within Ps s₀ (State.ringCfg s v r k n) := by
  unfold State.ringCfg
  repeat' first
    | with_reducible assumption
    | with_reducible apply State.loseEntries_within
    | with_reducible apply State.plainWrite_within
    | with_reducible apply State.setFld_within
    | with_reducible apply State.setR_within
    | with_reducible apply State.onRing_within
    | with_reducible apply State.onCtx_within
    | with_reducible apply Within.ite
    | with_reducible apply Within.foldl
    | with_reducible apply Within.foldl_fst
    | with_reducible apply Within.of_eq (by with_reducible assumption)
    | intro _
    | split
    | dsimp only

theorem State.mboxCtl_within {s : State} (b : Blk) (f : ℕ) (v : ℕ) (hW : Within Ps s₀ s) (_ : .regs ∈ Ps) (_ : .cores ∈ Ps) (_ : .mod ∈ Ps) :
    Within Ps s₀ (State.mboxCtl s b f v) := by
  unfold State.mboxCtl
  repeat' first
    | with_reducible assumption
    | with_reducible apply State.mboxSend_within
    | with_reducible apply State.plainWrite_within
    | with_reducible apply Within.ite
    | with_reducible apply Within.foldl
    | with_reducible apply Within.foldl_fst
    | with_reducible apply Within.of_eq (by with_reducible assumption)
    | intro _
    | split
    | dsimp only

theorem State.mailWrite_within {s : State} (f : ℕ) (off : ℕ) (v : ℕ) (hW : Within Ps s₀ s) (_ : .mail ∈ Ps) :
    Within Ps s₀ (State.mailWrite s f off v) := by
  unfold State.mailWrite
  repeat' first
    | with_reducible assumption
    | with_reducible apply State.mailSet_within
    | with_reducible apply Within.ite
    | with_reducible apply Within.foldl
    | with_reducible apply Within.foldl_fst
    | with_reducible apply Within.of_eq (by with_reducible assumption)
    | intro _
    | split
    | dsimp only

theorem State.pfWrite_within {s : State} (off : ℕ) (v : ℕ) (hW : Within Ps s₀ s) (_ : .regs ∈ Ps) (_ : .mail ∈ Ps) (_ : .cores ∈ Ps) (_ : .mod ∈ Ps) :
    Within Ps s₀ (State.pfWrite s off v) := by
  unfold State.pfWrite
  repeat' first
    | with_reducible assumption
    | with_reducible apply State.mailWrite_within
    | with_reducible apply State.mboxCtl_within
    | with_reducible apply State.onMod_within
    | with_reducible apply State.plainWrite_within
    | with_reducible apply Within.ite
    | with_reducible apply Within.foldl
    | with_reducible apply Within.foldl_fst
    | with_reducible apply Within.of_eq (by with_reducible assumption)
    | intro _
    | split
    | dsimp only

theorem State.vfWrite_within {s : State} (u : VfId) (off : ℕ) (v : ℕ) (hW : Within Ps s₀ s) (_ : .regs ∈ Ps) (_ : .mail ∈ Ps) (_ : .cores ∈ Ps) (_ : .ctxs ∈ Ps) (_ : .chains ∈ Ps) (_ : .rings ∈ Ps) (_ : .mod ∈ Ps) :
    Within Ps s₀ (State.vfWrite s u off v) := by
  unfold State.vfWrite
  repeat' first
    | with_reducible assumption
    | with_reducible apply State.mailWrite_within
    | with_reducible apply State.mboxCtl_within
    | with_reducible apply State.plainWrite_within
    | with_reducible apply State.setReg_within
    | with_reducible apply State.receiptAck_within
    | with_reducible apply State.ringCfg_within
    | with_reducible apply Within.ite
    | with_reducible apply Within.foldl
    | with_reducible apply Within.foldl_fst
    | with_reducible apply Within.of_eq (by with_reducible assumption)
    | intro _
    | split
    | dsimp only

theorem State.clkWrite_within {s : State} (off : ℕ) (v : ℕ) (hW : Within Ps s₀ s) (_ : .regs ∈ Ps) (_ : .deferred ∈ Ps) (_ : .cores ∈ Ps) (_ : .mod ∈ Ps) :
    Within Ps s₀ (State.clkWrite s off v) := by
  unfold State.clkWrite
  repeat' first
    | with_reducible assumption
    | with_reducible apply State.plainWrite_within
    | with_reducible apply State.carDiscipline_within
    | with_reducible apply State.carLoad_within
    | with_reducible apply State.opArm_within
    | with_reducible apply Within.ite
    | with_reducible apply Within.foldl
    | with_reducible apply Within.foldl_fst
    | with_reducible apply Within.of_eq (by with_reducible assumption)
    | intro _
    | split
    | dsimp only

theorem State.secWrite_within {s : State} (off : ℕ) (v : ℕ) (hW : Within Ps s₀ s) (_ : .regs ∈ Ps) (_ : .deferred ∈ Ps) (_ : .cores ∈ Ps) (_ : .chains ∈ Ps) (_ : .links ∈ Ps) (_ : .routers ∈ Ps) (_ : .mod ∈ Ps) :
    Within Ps s₀ (State.secWrite s off v) := by
  unfold State.secWrite
  repeat' first
    | with_reducible assumption
    | with_reducible apply State.cfgLoad_within
    | with_reducible apply State.cfgArm_within
    | with_reducible apply State.dbgCtlEnd_within
    | with_reducible apply State.rekey_within
    | with_reducible apply State.plainWrite_within
    | with_reducible apply Within.ite
    | with_reducible apply Within.foldl
    | with_reducible apply Within.foldl_fst
    | with_reducible apply Within.of_eq (by with_reducible assumption)
    | intro _
    | split
    | dsimp only

theorem State.fabWrite_within {s : State} (off : ℕ) (v : ℕ) (hW : Within Ps s₀ s) (_ : .regs ∈ Ps) (_ : .cores ∈ Ps) (_ : .ctxs ∈ Ps) (_ : .links ∈ Ps) (_ : .routers ∈ Ps) (_ : .rgroups ∈ Ps) (_ : .mod ∈ Ps) :
    Within Ps s₀ (State.fabWrite s off v) := by
  unfold State.fabWrite
  repeat' first
    | with_reducible assumption
    | with_reducible apply State.onCtx_within
    | with_reducible apply State.setGroup_within
    | with_reducible apply State.mrGo_within
    | with_reducible apply State.plainWrite_within
    | with_reducible apply Within.ite
    | with_reducible apply Within.foldl
    | with_reducible apply Within.foldl_fst
    | with_reducible apply Within.of_eq (by with_reducible assumption)
    | intro _
    | split
    | dsimp only

theorem State.linkCfg_within {s : State} (l : LinkId) (v : ℕ) (hW : Within Ps s₀ s) (_ : .regs ∈ Ps) (_ : .deferred ∈ Ps) (_ : .cores ∈ Ps) (_ : .dies ∈ Ps) (_ : .ctxs ∈ Ps) (_ : .links ∈ Ps) (_ : .routers ∈ Ps) (_ : .mod ∈ Ps) :
    Within Ps s₀ (State.linkCfg s l v) := by
  unfold State.linkCfg
  repeat' first
    | with_reducible assumption
    | with_reducible apply State.onLink_within
    | with_reducible apply State.linkToDown_within
    | with_reducible apply State.linkAdmit_within
    | with_reducible apply Within.ite
    | with_reducible apply Within.foldl
    | with_reducible apply Within.foldl_fst
    | with_reducible apply Within.of_eq (by with_reducible assumption)
    | intro _
    | split
    | dsimp only

theorem State.setRim_within {s : State} (i : IoId) (r : Rim) (hW : Within Ps s₀ s) (_ : .routers ∈ Ps) :
    Within Ps s₀ (State.setRim s i r) := by
  unfold State.setRim
  repeat' first
    | with_reducible assumption
    | with_reducible apply State.onRouter_within
    | with_reducible apply Within.ite
    | with_reducible apply Within.foldl
    | with_reducible apply Within.foldl_fst
    | with_reducible apply Within.of_eq (by with_reducible assumption)
    | intro _
    | split
    | dsimp only

theorem State.rimCfg_within {s : State} (i : IoId) (v : ℕ) (hW : Within Ps s₀ s) (_ : .regs ∈ Ps) (_ : .routers ∈ Ps) :
    Within Ps s₀ (State.rimCfg s i v) := by
  unfold State.rimCfg
  repeat' first
    | with_reducible assumption
    | with_reducible apply State.routerFault_within
    | with_reducible apply State.setRim_within
    | with_reducible apply Within.ite
    | with_reducible apply Within.foldl
    | with_reducible apply Within.foldl_fst
    | with_reducible apply Within.of_eq (by with_reducible assumption)
    | intro _
    | split
    | dsimp only

theorem State.routerWrite_within {s : State} (i : IoId) (off : ℕ) (v : ℕ) (hW : Within Ps s₀ s) (_ : .regs ∈ Ps) (_ : .deferred ∈ Ps) (_ : .cores ∈ Ps) (_ : .dies ∈ Ps) (_ : .ctxs ∈ Ps) (_ : .links ∈ Ps) (_ : .routers ∈ Ps) (_ : .mod ∈ Ps) :
    Within Ps s₀ (State.routerWrite s i off v) := by
  unfold State.routerWrite
  repeat' first
    | with_reducible assumption
    | with_reducible apply State.linkCfg_within
    | with_reducible apply State.onLink_within
    | with_reducible apply State.tableGo_within
    | with_reducible apply State.retag_within
    | with_reducible apply State.epochArm_within
    | with_reducible apply State.onRouter_within
    | with_reducible apply State.rimCfg_within
    | with_reducible apply State.setRim_within
    | with_reducible apply State.wxStat_within
    | with_reducible apply State.wxGo_within
    | with_reducible apply State.wxrPop_within
    | with_reducible apply State.plainWrite_within
    | with_reducible apply Within.ite
    | with_reducible apply Within.foldl
    | with_reducible apply Within.foldl_fst
    | with_reducible apply Within.of_eq (by with_reducible assumption)
    | intro _
    | split
    | dsimp only

theorem State.mboxDoor_within {s : State} (d : DieId) (fromMc : Bool) (hW : Within Ps s₀ s) (_ : .regs ∈ Ps) :
    Within Ps s₀ (State.mboxDoor s d fromMc) := by
  unfold State.mboxDoor
  repeat' first
    | with_reducible assumption
    | with_reducible apply State.orReg_within
    | with_reducible apply Within.ite
    | with_reducible apply Within.foldl
    | with_reducible apply Within.foldl_fst
    | with_reducible apply Within.of_eq (by with_reducible assumption)
    | intro _
    | split
    | dsimp only

theorem State.cqDieWrite_within {s : State} (d : DieId) (fromMc : Bool) (off : ℕ) (v : ℕ) (hW : Within Ps s₀ s) (_ : .regs ∈ Ps) (_ : .deferred ∈ Ps) (_ : .cores ∈ Ps) (_ : .dies ∈ Ps) (_ : .mod ∈ Ps) :
    Within Ps s₀ (State.cqDieWrite s d fromMc off v) := by
  unfold State.cqDieWrite
  repeat' first
    | with_reducible assumption
    | with_reducible apply State.onDie_within
    | with_reducible apply State.plainWrite_within
    | with_reducible apply State.ccDone_within
    | with_reducible apply State.pushGo_within
    | with_reducible apply State.abortWrite_within
    | with_reducible apply State.mboxDoor_within
    | with_reducible apply Within.ite
    | with_reducible apply Within.foldl
    | with_reducible apply Within.foldl_fst
    | with_reducible apply Within.of_eq (by with_reducible assumption)
    | intro _
    | split
    | dsimp only

theorem State.pgmWrite_within {s : State} (d : DieId) (off : ℕ) (v : ℕ) (hW : Within Ps s₀ s) (_ : .regs ∈ Ps) (_ : .cores ∈ Ps) (_ : .dies ∈ Ps) (_ : .mod ∈ Ps) :
    Within Ps s₀ (State.pgmWrite s d off v) := by
  unfold State.pgmWrite
  repeat' first
    | with_reducible assumption
    | with_reducible apply State.pgmInitReq_within
    | with_reducible apply State.onPgm_within
    | with_reducible apply State.pgmPush_within
    | with_reducible apply State.pgmPopResult_within
    | with_reducible apply State.pgmPopCe_within
    | with_reducible apply State.pgmRetire_within
    | with_reducible apply State.plainWrite_within
    | with_reducible apply Within.ite
    | with_reducible apply Within.foldl
    | with_reducible apply Within.foldl_fst
    | with_reducible apply Within.of_eq (by with_reducible assumption)
    | intro _
    | split
    | dsimp only

theorem State.secDieWrite_within {s : State} (d : DieId) (off : ℕ) (v : ℕ) (hW : Within Ps s₀ s) (_ : .regs ∈ Ps) (_ : .cores ∈ Ps) (_ : .dies ∈ Ps) (_ : .chains ∈ Ps) (_ : .mod ∈ Ps) :
    Within Ps s₀ (State.secDieWrite s d off v) := by
  unfold State.secDieWrite
  repeat' first
    | with_reducible assumption
    | with_reducible apply State.assignReq_within
    | with_reducible apply State.release_within
    | with_reducible apply State.plainWrite_within
    | with_reducible apply Within.ite
    | with_reducible apply Within.foldl
    | with_reducible apply Within.foldl_fst
    | with_reducible apply Within.of_eq (by with_reducible assumption)
    | intro _
    | split
    | dsimp only

theorem State.mxWrite_within {s : State} (c : CoreId) (off : ℕ) (v : ℕ) (hW : Within Ps s₀ s) (_ : .regs ∈ Ps) (_ : .cores ∈ Ps) (_ : .mod ∈ Ps) :
    Within Ps s₀ (State.mxWrite s c off v) := by
  unfold State.mxWrite
  repeat' first
    | with_reducible assumption
    | with_reducible apply State.mxDrain_within
    | with_reducible apply State.popCe_within
    | with_reducible apply State.mxRetire_within
    | with_reducible apply State.plainWrite_within
    | with_reducible apply Within.ite
    | with_reducible apply Within.foldl
    | with_reducible apply Within.foldl_fst
    | with_reducible apply Within.of_eq (by with_reducible assumption)
    | intro _
    | split
    | dsimp only

theorem State.dmaWrite_within {s : State} (c : CoreId) (off : ℕ) (v : ℕ) (hW : Within Ps s₀ s) (_ : .regs ∈ Ps) (_ : .cores ∈ Ps) (_ : .mod ∈ Ps) :
    Within Ps s₀ (State.dmaWrite s c off v) := by
  unfold State.dmaWrite
  repeat' first
    | with_reducible assumption
    | with_reducible apply State.doorbell_within
    | with_reducible apply State.qStop_within
    | with_reducible apply State.plainWrite_within
    | with_reducible apply Within.ite
    | with_reducible apply Within.foldl
    | with_reducible apply Within.foldl_fst
    | with_reducible apply Within.of_eq (by with_reducible assumption)
    | intro _
    | split
    | dsimp only

theorem State.blkWrite_within {s : State} (b : Blk) (p : Path) (off : ℕ) (v : ℕ) (hW : Within Ps s₀ s) (_ : .regs ∈ Ps) (_ : .deferred ∈ Ps) (_ : .mail ∈ Ps) (_ : .cores ∈ Ps) (_ : .dies ∈ Ps) (_ : .ctxs ∈ Ps) (_ : .chains ∈ Ps) (_ : .links ∈ Ps) (_ : .routers ∈ Ps) (_ : .rgroups ∈ Ps) (_ : .rings ∈ Ps) (_ : .mod ∈ Ps) :
    Within Ps s₀ (State.blkWrite s b p off v) := by
  unfold State.blkWrite
  repeat' first
    | with_reducible assumption
    | with_reducible apply State.elogPop_within
    | with_reducible apply State.clkWrite_within
    | with_reducible apply State.secWrite_within
    | with_reducible apply State.fabWrite_within
    | with_reducible apply State.routerWrite_within
    | with_reducible apply State.pfWrite_within
    | with_reducible apply State.vfWrite_within
    | with_reducible apply State.cqDieWrite_within
    | with_reducible apply State.remapWrite_within
    | with_reducible apply State.plainWrite_within
    | with_reducible apply State.pgmWrite_within
    | with_reducible apply State.secDieWrite_within
    | with_reducible apply State.mxWrite_within
    | with_reducible apply State.dmaWrite_within
    | with_reducible apply Within.ite
    | with_reducible apply Within.foldl
    | with_reducible apply Within.foldl_fst
    | with_reducible apply Within.of_eq (by with_reducible assumption)
    | intro _
    | split
    | dsimp only

theorem State.busyWrite_within {s : State} (b : Blk) (off : ℕ) (hW : Within Ps s₀ s) (_ : .regs ∈ Ps) :
    Within Ps s₀ (State.busyWrite s b off) := by
  unfold State.busyWrite
  repeat' first
    | with_reducible assumption
    | with_reducible apply State.raise_within
    | with_reducible apply State.fabFault_within
    | with_reducible apply State.wxStat_within
    | with_reducible apply State.routerFault_within
    | with_reducible apply State.hostFault_within
    | with_reducible apply State.ccFault_within
    | with_reducible apply State.mxFault_within
    | with_reducible apply Within.ite
    | with_reducible apply Within.foldl
    | with_reducible apply Within.foldl_fst
    | with_reducible apply Within.of_eq (by with_reducible assumption)
    | intro _
    | split
    | dsimp only

theorem State.hwSetBits_within {s : State} (b : Blk) (off : ℕ) (m : ℕ) (hW : Within Ps s₀ s) (_ : .regs ∈ Ps) :
    Within Ps s₀ (State.hwSetBits s b off m) := by
  unfold State.hwSetBits
  repeat' first
    | with_reducible assumption
    | with_reducible apply State.hostIrq_within
    | with_reducible apply State.orReg_within
    | with_reducible apply Within.ite
    | with_reducible apply Within.foldl
    | with_reducible apply Within.foldl_fst
    | with_reducible apply Within.of_eq (by with_reducible assumption)
    | intro _
    | split
    | dsimp only

theorem State.countSel_within {s : State} (b : Blk) (off : ℕ) (sel : ℕ) (n : ℕ) (hW : Within Ps s₀ s) (_ : .regs ∈ Ps) (_ : .links ∈ Ps) (_ : .routers ∈ Ps) :
    Within Ps s₀ (State.countSel s b off sel n) := by
  unfold State.countSel
  repeat' first
    | with_reducible assumption
    | with_reducible apply State.onLink_within
    | with_reducible apply State.onRouter_within
    | with_reducible apply State.count_within
    | with_reducible apply Within.ite
    | with_reducible apply Within.foldl
    | with_reducible apply Within.foldl_fst
    | with_reducible apply Within.of_eq (by with_reducible assumption)
    | intro _
    | split
    | dsimp only

theorem State.hwCount_within {s : State} (b : Blk) (off : ℕ) (n : ℕ) (written : Bool) (hW : Within Ps s₀ s) (_ : .regs ∈ Ps) (_ : .deferred ∈ Ps) (_ : .links ∈ Ps) (_ : .routers ∈ Ps) :
    Within Ps s₀ (State.hwCount s b off n written) := by
  unfold State.hwCount
  repeat' first
    | with_reducible assumption
    | with_reducible apply State.owes_within
    | with_reducible apply State.countSel_within
    | with_reducible apply Within.ite
    | with_reducible apply Within.foldl
    | with_reducible apply Within.foldl_fst
    | with_reducible apply Within.of_eq (by with_reducible assumption)
    | intro _
    | split
    | dsimp only

theorem State.lateDo_within {s : State} (k : LateKind) (hW : Within Ps s₀ s) (_ : .regs ∈ Ps) (_ : .cores ∈ Ps) (_ : .links ∈ Ps) (_ : .routers ∈ Ps) (_ : .mod ∈ Ps) :
    Within Ps s₀ (State.lateDo s k) := by
  unfold State.lateDo
  repeat' first
    | with_reducible assumption
    | with_reducible apply State.countSel_within
    | with_reducible apply State.setReg_within
    | with_reducible apply State.forceRemap_within
    | with_reducible apply State.onMod_within
    | with_reducible apply State.setFld_within
    | with_reducible apply State.abortMask_within
    | with_reducible apply State.tableEnd_within
    | with_reducible apply State.retagEnd_within
    | with_reducible apply Within.ite
    | with_reducible apply Within.foldl
    | with_reducible apply Within.foldl_fst
    | with_reducible apply Within.of_eq (by with_reducible assumption)
    | intro _
    | split
    | dsimp only

theorem State.undefer_within {s : State} (hW : Within Ps s₀ s) (_ : .regs ∈ Ps) (_ : .deferred ∈ Ps) (_ : .cores ∈ Ps) (_ : .links ∈ Ps) (_ : .routers ∈ Ps) (_ : .mod ∈ Ps) :
    Within Ps s₀ (State.undefer s) := by
  unfold State.undefer
  repeat' first
    | with_reducible assumption
    | with_reducible apply State.lateDo_within
    | with_reducible apply State.setDeferred_within
    | with_reducible apply Within.ite
    | with_reducible apply Within.foldl
    | with_reducible apply Within.foldl_fst
    | with_reducible apply Within.of_eq (by with_reducible assumption)
    | intro _
    | split
    | dsimp only

theorem State.layoutWrite_within {s : State} (p : Path) (o : ℕ) (v : ℕ) (hwSet : ℕ) (hwInc : ℕ) (hW : Within Ps s₀ s) (_ : .regs ∈ Ps) (_ : .deferred ∈ Ps) (_ : .mail ∈ Ps) (_ : .cores ∈ Ps) (_ : .dies ∈ Ps) (_ : .ctxs ∈ Ps) (_ : .chains ∈ Ps) (_ : .links ∈ Ps) (_ : .routers ∈ Ps) (_ : .rgroups ∈ Ps) (_ : .rings ∈ Ps) (_ : .mod ∈ Ps) :
    Within Ps s₀ (State.layoutWrite s p o v hwSet hwInc) := by
  unfold State.layoutWrite
  repeat' first
    | with_reducible assumption
    | with_reducible apply State.busyWrite_within
    | with_reducible apply State.blkWrite_within
    | with_reducible apply State.hwCount_within
    | with_reducible apply State.hwSetBits_within
    | with_reducible apply Within.ite
    | with_reducible apply Within.foldl
    | with_reducible apply Within.foldl_fst
    | with_reducible apply Within.of_eq (by with_reducible assumption)
    | intro _
    | split
    | dsimp only

theorem State.answer_within {s : State} (write : Option Word32) (v : ℕ) (hW : Within Ps s₀ s) :
    Within Ps s₀ (State.answer s write v) := by
  unfold State.answer
  repeat' first
    | with_reducible assumption
    | with_reducible apply State.emit_within
    | with_reducible apply Within.ite
    | with_reducible apply Within.foldl
    | with_reducible apply Within.foldl_fst
    | with_reducible apply Within.of_eq (by with_reducible assumption)
    | intro _
    | split
    | dsimp only

theorem State.dbgAm_within {s : State} (late : Bool) (c : CoreId) (a : ℕ) (write : Option Word32) (hW : Within Ps s₀ s) (_ : .regs ∈ Ps) (_ : .am ∈ Ps) (_ : .cores ∈ Ps) :
    Within Ps s₀ (State.dbgAm s late c a write).1 := by
  unfold State.dbgAm
  repeat' first
    | with_reducible assumption
    | with_reducible apply State.claimPut_within
    | with_reducible apply State.amPut_within
    | with_reducible apply State.claimDyn_within
    | with_reducible apply State.amRead_within
    | with_reducible apply State.answer_within
    | with_reducible apply Within.ite
    | with_reducible apply Within.foldl
    | with_reducible apply Within.foldl_fst
    | with_reducible apply Within.of_eq (by with_reducible assumption)
    | intro _
    | split
    | dsimp only

theorem State.dbgCs_within {s : State} (d : DieId) (a : ℕ) (write : Option Word32) (hW : Within Ps s₀ s) (_ : .regs ∈ Ps) (_ : .cs ∈ Ps) (_ : .dies ∈ Ps) :
    Within Ps s₀ (State.dbgCs s d a write).1 := by
  unfold State.dbgCs
  repeat' first
    | with_reducible assumption
    | with_reducible apply State.sliceTake_within
    | with_reducible apply State.csRead_within
    | with_reducible apply State.csWrite_within
    | with_reducible apply State.answer_within
    | with_reducible apply Within.ite
    | with_reducible apply Within.foldl
    | with_reducible apply Within.foldl_fst
    | with_reducible apply Within.of_eq (by with_reducible assumption)
    | intro _
    | split
    | dsimp only

theorem State.dbgPsm_within {s : State} (c : CoreId) (a : ℕ) (write : Option Word32) (hW : Within Ps s₀ s) (_ : .regs ∈ Ps) (_ : .psm ∈ Ps) (_ : .cores ∈ Ps) :
    Within Ps s₀ (State.dbgPsm s c a write) := by
  unfold State.dbgPsm
  repeat' first
    | with_reducible assumption
    | with_reducible apply State.psmRead_within
    | with_reducible apply State.psmWrite_within
    | with_reducible apply State.answer_within
    | with_reducible apply Within.ite
    | with_reducible apply Within.foldl
    | with_reducible apply Within.foldl_fst
    | with_reducible apply Within.of_eq (by with_reducible assumption)
    | intro _
    | split
    | dsimp only

theorem State.dbgServe_within {s : State} (late : Bool) (addr : ℕ) (write : Option Word32) (hW : Within Ps s₀ s) (_ : .regs ∈ Ps) (_ : .am ∈ Ps) (_ : .psm ∈ Ps) (_ : .cs ∈ Ps) (_ : .cores ∈ Ps) (_ : .dies ∈ Ps) :
    Within Ps s₀ (State.dbgServe s late addr write).1 := by
  unfold State.dbgServe
  repeat' first
    | with_reducible assumption
    | with_reducible apply State.answer_within
    | with_reducible apply State.hostFault_within
    | with_reducible apply State.dbgCs_within
    | with_reducible apply State.dbgAm_within
    | with_reducible apply State.dbgPsm_within
    | with_reducible apply Within.ite
    | with_reducible apply Within.foldl
    | with_reducible apply Within.foldl_fst
    | with_reducible apply Within.of_eq (by with_reducible assumption)
    | intro _
    | split
    | dsimp only

theorem State.dbgEnd_within {s : State} (hW : Within Ps s₀ s) (_ : .regs ∈ Ps) (_ : .am ∈ Ps) (_ : .psm ∈ Ps) (_ : .cs ∈ Ps) (_ : .cores ∈ Ps) (_ : .dies ∈ Ps) (_ : .mod ∈ Ps) :
    Within Ps s₀ (State.dbgEnd s) := by
  unfold State.dbgEnd
  repeat' first
    | with_reducible assumption
    | with_reducible apply State.dbgServe_within
    | with_reducible apply State.onMod_within
    | with_reducible apply Within.ite
    | with_reducible apply Within.foldl
    | with_reducible apply Within.foldl_fst
    | with_reducible apply Within.of_eq (by with_reducible assumption)
    | intro _
    | split
    | dsimp only

end Sys2Proof.Machine
end

