-- ==== Sys2Proof/Laws/WithinControl.lean ====
section
/-! SUPPORT. What the operations of Machine/Control.lean may change. -/

set_option linter.unusedTactic false
set_option linter.unreachableTactic false
set_option linter.unusedVariables false

namespace Sys2Proof.Machine

variable {Ps : List Part} {s₀ : State}

theorem State.fetched_within {s : State} (d : DieId) (n : ℕ) (hW : Within Ps s₀ s) (_ : .regs ∈ Ps) :
    Within Ps s₀ (State.fetched s d n) := by
  unfold State.fetched
  repeat' first
    | with_reducible assumption
    | with_reducible apply State.count_within
    | with_reducible apply Within.ite
    | with_reducible apply Within.foldl
    | with_reducible apply Within.foldl_fst
    | with_reducible apply Within.of_eq (by with_reducible assumption)
    | intro _
    | split
    | dsimp only

theorem State.retired_within {s : State} (d : DieId) (hW : Within Ps s₀ s) (_ : .regs ∈ Ps) :
    Within Ps s₀ (State.retired s d) := by
  unfold State.retired
  repeat' first
    | with_reducible assumption
    | with_reducible apply State.count_within
    | with_reducible apply Within.ite
    | with_reducible apply Within.foldl
    | with_reducible apply Within.foldl_fst
    | with_reducible apply Within.of_eq (by with_reducible assumption)
    | intro _
    | split
    | dsimp only

theorem State.dieFatal_within {s : State} (d : DieId) (bit : ℕ) (hW : Within Ps s₀ s) (_ : .regs ∈ Ps) (_ : .deferred ∈ Ps) (_ : .cores ∈ Ps) (_ : .dies ∈ Ps) (_ : .ctxs ∈ Ps) (_ : .links ∈ Ps) (_ : .mod ∈ Ps) :
    Within Ps s₀ (State.dieFatal s d bit) := by
  unfold State.dieFatal
  repeat' first
    | with_reducible assumption
    | with_reducible apply State.ccFault_within
    | with_reducible apply State.onMod_within
    | with_reducible apply State.fault_within
    | with_reducible apply State.flagStep_within
    | with_reducible apply Within.ite
    | with_reducible apply Within.foldl
    | with_reducible apply Within.foldl_fst
    | with_reducible apply Within.of_eq (by with_reducible assumption)
    | intro _
    | split
    | dsimp only

theorem State.ccExcept_within {s : State} (d : DieId) (cause : ℕ) (hW : Within Ps s₀ s) (_ : .regs ∈ Ps) (_ : .deferred ∈ Ps) (_ : .cores ∈ Ps) (_ : .dies ∈ Ps) (_ : .ctxs ∈ Ps) (_ : .links ∈ Ps) (_ : .mod ∈ Ps) :
    Within Ps s₀ (State.ccExcept s d cause) := by
  unfold State.ccExcept
  repeat' first
    | with_reducible assumption
    | with_reducible apply State.onDie_within
    | with_reducible apply State.dieFatal_within
    | with_reducible apply Within.ite
    | with_reducible apply Within.foldl
    | with_reducible apply Within.foldl_fst
    | with_reducible apply Within.of_eq (by with_reducible assumption)
    | intro _
    | split
    | dsimp only

theorem State.ccRun_within {s : State} (d : DieId) (rs : List (BitVec 5)) (holds : Bool) (f : State → State) (hW : Within Ps s₀ s) (_ : .regs ∈ Ps) (_ : .deferred ∈ Ps) (_ : .cores ∈ Ps) (_ : .dies ∈ Ps) (_ : .ctxs ∈ Ps) (_ : .links ∈ Ps) (_ : .mod ∈ Ps) (hf : ∀ v0, Within Ps s₀ v0 → Within Ps s₀ (f v0)) :
    Within Ps s₀ (State.ccRun s d rs holds f) := by
  unfold State.ccRun
  repeat' first
    | with_reducible assumption
    | with_reducible apply hf
    | with_reducible apply State.fetched_within
    | with_reducible apply State.onDie_within
    | with_reducible apply State.ccExcept_within
    | with_reducible apply State.dieFatal_within
    | with_reducible apply Within.ite
    | with_reducible apply Within.foldl
    | with_reducible apply Within.foldl_fst
    | with_reducible apply Within.of_eq (by with_reducible assumption)
    | intro _
    | split
    | dsimp only

theorem State.ccNext_within {s : State} (d : DieId) (hW : Within Ps s₀ s) (_ : .regs ∈ Ps) (_ : .dies ∈ Ps) :
    Within Ps s₀ (State.ccNext s d) := by
  unfold State.ccNext
  repeat' first
    | with_reducible assumption
    | with_reducible apply State.retired_within
    | with_reducible apply State.onDie_within
    | with_reducible apply Within.ite
    | with_reducible apply Within.foldl
    | with_reducible apply Within.foldl_fst
    | with_reducible apply Within.of_eq (by with_reducible assumption)
    | intro _
    | split
    | dsimp only

theorem State.ccGo_within {s : State} (d : DieId) (target : Word64) (hW : Within Ps s₀ s) (_ : .regs ∈ Ps) (_ : .dies ∈ Ps) :
    Within Ps s₀ (State.ccGo s d target) := by
  unfold State.ccGo
  repeat' first
    | with_reducible assumption
    | with_reducible apply State.onDie_within
    | with_reducible apply State.fetched_within
    | with_reducible apply State.draw_within
    | with_reducible apply State.retired_within
    | with_reducible apply Within.ite
    | with_reducible apply Within.foldl
    | with_reducible apply Within.foldl_fst
    | with_reducible apply Within.of_eq (by with_reducible assumption)
    | intro _
    | split
    | dsimp only

theorem State.ccPut_within {s : State} (d : DieId) (rd : BitVec 5) (v : Word64) (lat : ℕ) (hW : Within Ps s₀ s) (_ : .regs ∈ Ps) (_ : .dies ∈ Ps) :
    Within Ps s₀ (State.ccPut s d rd v lat) := by
  unfold State.ccPut
  repeat' first
    | with_reducible assumption
    | with_reducible apply State.ccNext_within
    | with_reducible apply State.onDie_within
    | with_reducible apply Within.ite
    | with_reducible apply Within.foldl
    | with_reducible apply Within.foldl_fst
    | with_reducible apply Within.of_eq (by with_reducible assumption)
    | intro _
    | split
    | dsimp only

theorem State.ccFree_within {s : State} (d : DieId) (rd : BitVec 5) (lat : ℕ) (hW : Within Ps s₀ s) (_ : .regs ∈ Ps) (_ : .dies ∈ Ps) :
    Within Ps s₀ (State.ccFree s d rd lat) := by
  unfold State.ccFree
  repeat' first
    | with_reducible assumption
    | with_reducible apply State.draw_within
    | with_reducible apply State.ccPut_within
    | with_reducible apply Within.ite
    | with_reducible apply Within.foldl
    | with_reducible apply Within.foldl_fst
    | with_reducible apply Within.of_eq (by with_reducible assumption)
    | intro _
    | split
    | dsimp only

theorem State.bodyNat_within {s : State} (d : DieId) (a : ℕ) (w : ℕ) (hW : Within Ps s₀ s) :
    Within Ps s₀ (State.bodyNat s d a w).1 := by
  unfold State.bodyNat
  repeat' first
    | with_reducible assumption
    | with_reducible apply State.draw_within
    | with_reducible apply Within.ite
    | with_reducible apply Within.foldl
    | with_reducible apply Within.foldl_fst
    | with_reducible apply Within.of_eq (by with_reducible assumption)
    | intro _
    | split
    | dsimp only

theorem State.loadValue_iram {s : State} (d : DieId) (a : Nat) (w : Nat) (hp : ccPlace a = .iram) (hW : Within Ps s₀ s) (_ : .regs ∈ Ps) (_ : .latches ∈ Ps) (_ : .cores ∈ Ps) (_ : .dies ∈ Ps) (_ : .ctxs ∈ Ps) (_ : .links ∈ Ps) (_ : .mod ∈ Ps) (_ : .deferred ∈ Ps) :
    Within Ps s₀ (State.loadValue s d a w).1 := by
  unfold State.loadValue
  rw [hp]
  dsimp only
  split
  · apply State.dieFatal_within <;> with_reducible assumption
  · exact hW

theorem State.loadValue_dram {s : State} (d : DieId) (a : Nat) (w : Nat) (hp : ccPlace a = .dram) (hW : Within Ps s₀ s) (_ : .regs ∈ Ps) (_ : .latches ∈ Ps) (_ : .cores ∈ Ps) (_ : .dies ∈ Ps) (_ : .ctxs ∈ Ps) (_ : .links ∈ Ps) (_ : .mod ∈ Ps) (_ : .deferred ∈ Ps) :
    Within Ps s₀ (State.loadValue s d a w).1 := by
  unfold State.loadValue
  rw [hp]
  dsimp only
  split
  · exact hW
  · split
    · apply State.ccFault_within <;> with_reducible assumption
    · exact hW

theorem State.loadValue_window {s : State} (d : DieId) (a : Nat) (w : Nat) (hp : ccPlace a = .window) (hW : Within Ps s₀ s) (_ : .regs ∈ Ps) (_ : .latches ∈ Ps) (_ : .cores ∈ Ps) (_ : .dies ∈ Ps) (_ : .ctxs ∈ Ps) (_ : .links ∈ Ps) (_ : .mod ∈ Ps) (_ : .deferred ∈ Ps) :
    Within Ps s₀ (State.loadValue s d a w).1 := by
  unfold State.loadValue
  rw [hp]
  dsimp only
  split
  · apply State.layoutRead_within <;> with_reducible assumption
  · exact hW

theorem State.loadValue_body {s : State} (d : DieId) (a : Nat) (w : Nat) (hp : ccPlace a = .body) (hW : Within Ps s₀ s) (_ : .regs ∈ Ps) (_ : .latches ∈ Ps) (_ : .cores ∈ Ps) (_ : .dies ∈ Ps) (_ : .ctxs ∈ Ps) (_ : .links ∈ Ps) (_ : .mod ∈ Ps) (_ : .deferred ∈ Ps) :
    Within Ps s₀ (State.loadValue s d a w).1 := by
  unfold State.loadValue
  rw [hp]
  dsimp only
  apply State.bodyNat_within <;> with_reducible assumption

theorem State.loadValue_within {s : State} (d : DieId) (a : Nat) (w : Nat) (hW : Within Ps s₀ s) (_ : .regs ∈ Ps) (_ : .latches ∈ Ps) (_ : .cores ∈ Ps) (_ : .dies ∈ Ps) (_ : .ctxs ∈ Ps) (_ : .links ∈ Ps) (_ : .mod ∈ Ps) (_ : .deferred ∈ Ps) :
    Within Ps s₀ (State.loadValue s d a w).1 := by
  cases hp : ccPlace a
  case iram => apply State.loadValue_iram d a w hp hW <;> assumption
  case dram => apply State.loadValue_dram d a w hp hW <;> assumption
  case window => apply State.loadValue_window d a w hp hW <;> assumption
  case body => apply State.loadValue_body d a w hp hW <;> assumption
  case none => unfold State.loadValue; rw [hp]; exact hW

theorem State.dramWrite_within {s : State} (d : DieId) (a : ℕ) (w : ℕ) (v : ℕ) (hW : Within Ps s₀ s) (_ : .dram ∈ Ps) :
    Within Ps s₀ (State.dramWrite s d a w v) := by
  unfold State.dramWrite
  repeat' first
    | with_reducible assumption
    | with_reducible apply State.setDramErr_within
    | with_reducible apply State.dramSet_within
    | with_reducible apply Within.ite
    | with_reducible apply Within.foldl
    | with_reducible apply Within.foldl_fst
    | with_reducible apply Within.of_eq (by with_reducible assumption)
    | intro _
    | split
    | dsimp only

theorem State.unitWrite_within {s : State} (d : DieId) (a : ℕ) (b : List Byte) (hW : Within Ps s₀ s) (_ : .dram ∈ Ps) :
    Within Ps s₀ (State.unitWrite s d a b) := by
  unfold State.unitWrite
  repeat' first
    | with_reducible assumption
    | with_reducible apply State.dramSound_within
    | with_reducible apply State.dramSet_within
    | with_reducible apply Within.ite
    | with_reducible apply Within.foldl
    | with_reducible apply Within.foldl_fst
    | with_reducible apply Within.of_eq (by with_reducible assumption)
    | intro _
    | split
    | dsimp only

theorem State.units_within {s : State} (f : State → Nat → Option State) (u n : Nat) (h : Within Ps s₀ s)
    (hf : ∀ s u t, f s u = some t → Within Ps s₀ s → Within Ps s₀ t) :
    Within Ps s₀ (s.units f u n).2 ∧ ∀ t, (s.units f u n).1 = some t → Within Ps s₀ t := by
  induction n generalizing s u with
  | zero => exact ⟨h, fun t e => by simp only [State.units, Option.some.injEq] at e; exact e ▸ h⟩
  | succ n ih =>
    unfold State.units
    split
    · rename_i t e; exact ih (u + 1) (hf _ _ _ e h)
    · exact ⟨h, fun t e => by cases e⟩

theorem State.ccLong_within {s : State} (d : DieId) (op total : Nat) (limit : Option (BitVec 14))
    (f : State → Nat → Option State) (time : Nat → Nat) (fin : State → State × Nat) (h : Within Ps s₀ s) (_ : .regs ∈ Ps) (_ : .cores ∈ Ps) (_ : .dies ∈ Ps) (_ : .ctxs ∈ Ps) (_ : .links ∈ Ps) (_ : .mod ∈ Ps) (_ : .deferred ∈ Ps)
    (hf : ∀ s u t, f s u = some t → Within Ps s₀ s → Within Ps s₀ t)
    (hfin : ∀ s, Within Ps s₀ s → Within Ps s₀ (fin s).1) :
    Within Ps s₀ (s.ccLong d op total limit f time fin) := by
  unfold State.ccLong
  extract_lets k first left stop q
  have hq := State.units_within f first (stop.getD left) h hf
  have h2 : Within Ps s₀ q.2 := hq.1
  have h1 : ∀ t, q.1 = some t → Within Ps s₀ t := hq.2
  split
  · apply State.ccExcept_within <;> first | with_reducible assumption | skip
    apply State.ccFault_within <;> with_reducible assumption
  · rename_i t e
    have ht := h1 t e
    split
    · apply State.fetched_within <;> first | with_reducible assumption | skip
      apply State.onDie_within <;> with_reducible assumption
    · dsimp only
      apply State.onDie_within <;> first | with_reducible assumption | skip
      apply State.ccNext_within <;> first | with_reducible assumption | skip
      apply State.onDie_within <;> first | with_reducible assumption | skip
      exact hfin t ht

theorem State.setDgWords_within {s : State} (d : DieId) (a : ℕ) (h : List Word64) (hW : Within Ps s₀ s) (_ : .dram ∈ Ps) :
    Within Ps s₀ (State.setDgWords s d a h) := by
  unfold State.setDgWords
  repeat' first
    | with_reducible assumption
    | with_reducible apply State.dramSet_within
    | with_reducible apply Within.ite
    | with_reducible apply Within.foldl
    | with_reducible apply Within.foldl_fst
    | with_reducible apply Within.of_eq (by with_reducible assumption)
    | intro _
    | split
    | dsimp only

theorem State.dgOpen_within {s : State} (d : DieId) (a : ℕ) (hW : Within Ps s₀ s) (_ : .dram ∈ Ps) :
    Within Ps s₀ (State.dgOpen s d a) := by
  unfold State.dgOpen
  repeat' first
    | with_reducible assumption
    | with_reducible apply State.draw_within
    | with_reducible apply State.dramSet_within
    | with_reducible apply Within.ite
    | with_reducible apply Within.foldl
    | with_reducible apply Within.foldl_fst
    | with_reducible apply Within.of_eq (by with_reducible assumption)
    | intro _
    | split
    | dsimp only

theorem State.dgUnit_within {s : State} (d : DieId) (a : ℕ) (b : List Byte) (hW : Within Ps s₀ s) (_ : .dram ∈ Ps) :
    Within Ps s₀ (State.dgUnit s d a b) := by
  unfold State.dgUnit
  repeat' first
    | with_reducible assumption
    | with_reducible apply State.dramSet_within
    | with_reducible apply State.setDgWords_within
    | with_reducible apply State.dgOpen_within
    | with_reducible apply Within.ite
    | with_reducible apply Within.foldl
    | with_reducible apply Within.foldl_fst
    | with_reducible apply Within.of_eq (by with_reducible assumption)
    | intro _
    | split
    | dsimp only

theorem State.dgFinish_within {s : State} (d : DieId) (a : ℕ) (hW : Within Ps s₀ s) (_ : .dram ∈ Ps) :
    Within Ps s₀ (State.dgFinish s d a) := by
  unfold State.dgFinish
  repeat' first
    | with_reducible assumption
    | with_reducible apply State.dramSet_within
    | with_reducible apply State.dgOpen_within
    | with_reducible apply Within.ite
    | with_reducible apply Within.foldl
    | with_reducible apply Within.foldl_fst
    | with_reducible apply Within.of_eq (by with_reducible assumption)
    | intro _
    | split
    | dsimp only

theorem State.finTime_within {s : State} (hW : Within Ps s₀ s) :
    Within Ps s₀ (State.finTime s).1 := by
  unfold State.finTime
  repeat' first
    | with_reducible assumption
    | with_reducible apply State.draw_within
    | with_reducible apply Within.ite
    | with_reducible apply Within.foldl
    | with_reducible apply Within.foldl_fst
    | with_reducible apply Within.of_eq (by with_reducible assumption)
    | intro _
    | split
    | dsimp only

end Sys2Proof.Machine
end

