-- ==== Sys2Proof/Laws/WithinTick.lean ====
section
/-! SUPPORT. What the operations of Machine/Tick.lean may change. -/

set_option linter.unusedTactic false
set_option linter.unreachableTactic false
set_option linter.unusedVariables false

namespace Sys2Proof.Machine

variable {Ps : List Part} {s₀ : State}

theorem State.coreEnd_within {s : State} (c : CoreId) (hW : Within Ps s₀ s) (_ : .regs ∈ Ps) (_ : .am ∈ Ps) (_ : .psm ∈ Ps) (_ : .cores ∈ Ps) (_ : .ctxs ∈ Ps) (_ : .links ∈ Ps) (_ : .routers ∈ Ps) (_ : .rgroups ∈ Ps) (_ : .mod ∈ Ps) :
    Within Ps s₀ (State.coreEnd s c) := by
  unfold State.coreEnd
  repeat' first
    | with_reducible assumption
    | with_reducible apply State.fabRead_within
    | with_reducible apply State.dmaPutsDue_within
    | with_reducible apply State.portStep_within
    | with_reducible apply State.lanes_within
    | with_reducible apply State.slotEnd_within
    | with_reducible apply State.arrEnd_within
    | with_reducible apply State.edgeEnd_within
    | with_reducible apply State.portEnd_within
    | with_reducible apply State.onCore_within
    | with_reducible apply State.wsCopy_within
    | with_reducible apply State.fabStore_within
    | with_reducible apply Within.ite
    | with_reducible apply Within.foldl
    | with_reducible apply Within.foldl_fst
    | with_reducible apply Within.of_eq (by with_reducible assumption)
    | intro _
    | split
    | dsimp only

theorem State.coreTick_within {s : State} (c : CoreId) (hW : Within Ps s₀ s) (_ : .regs ∈ Ps) (_ : .cores ∈ Ps) :
    Within Ps s₀ (State.coreTick s c) := by
  unfold State.coreTick
  repeat' first
    | with_reducible assumption
    | with_reducible apply State.onCore_within
    | with_reducible apply State.count_within
    | with_reducible apply Within.ite
    | with_reducible apply Within.foldl
    | with_reducible apply Within.foldl_fst
    | with_reducible apply Within.of_eq (by with_reducible assumption)
    | intro _
    | split
    | dsimp only

theorem State.timedRead_within {s : State} (c : CoreId) (t : Timed) (hW : Within Ps s₀ s) (_ : .regs ∈ Ps) (_ : .am ∈ Ps) (_ : .cores ∈ Ps) (_ : .dies ∈ Ps) :
    Within Ps s₀ (State.timedRead s c t) := by
  unfold State.timedRead
  repeat' first
    | with_reducible assumption
    | with_reducible apply State.timedLine_within
    | with_reducible apply State.timedFlit_within
    | with_reducible apply State.fourWords_within
    | with_reducible apply State.psmNote_within
    | with_reducible apply State.msgFill_within
    | with_reducible apply State.unitFill_within
    | with_reducible apply Within.ite
    | with_reducible apply Within.foldl
    | with_reducible apply Within.foldl_fst
    | with_reducible apply Within.of_eq (by with_reducible assumption)
    | intro _
    | split
    | dsimp only

theorem State.timedRun_within {s : State} (c : CoreId) (sel : Timed → Bool) (f : State → CoreId → Timed → State) (hW : Within Ps s₀ s) (_ : .cores ∈ Ps) (hf : ∀ v0 v1 v2, Within Ps s₀ v0 → Within Ps s₀ (f v0 v1 v2)) :
    Within Ps s₀ (State.timedRun s c sel f) := by
  unfold State.timedRun
  repeat' first
    | with_reducible assumption
    | with_reducible apply hf
    | with_reducible apply State.onCore_within
    | with_reducible apply Within.ite
    | with_reducible apply Within.foldl
    | with_reducible apply Within.foldl_fst
    | with_reducible apply Within.of_eq (by with_reducible assumption)
    | intro _
    | split
    | dsimp only

theorem State.coreBegin_within {s : State} (c : CoreId) (hW : Within Ps s₀ s) (_ : .regs ∈ Ps) (_ : .am ∈ Ps) (_ : .psm ∈ Ps) (_ : .tb ∈ Ps) (_ : .cores ∈ Ps) :
    Within Ps s₀ (State.coreBegin s c) := by
  unfold State.coreBegin
  repeat' first
    | with_reducible assumption
    | with_reducible apply State.zeroStep_within
    | with_reducible apply State.vresAm_within
    | with_reducible apply State.timedRun_within
    | with_reducible apply State.timedWrite_within
    | with_reducible apply Within.ite
    | with_reducible apply Within.foldl
    | with_reducible apply Within.foldl_fst
    | with_reducible apply Within.of_eq (by with_reducible assumption)
    | intro _
    | split
    | dsimp only

theorem State.timedAll_within {s : State} (hW : Within Ps s₀ s) (_ : .regs ∈ Ps) (_ : .am ∈ Ps) (_ : .psm ∈ Ps) (_ : .tb ∈ Ps) (_ : .cores ∈ Ps) (_ : .dies ∈ Ps) :
    Within Ps s₀ (State.timedAll s) := by
  unfold State.timedAll
  repeat' first
    | with_reducible assumption
    | with_reducible apply State.coreBegin_within
    | with_reducible apply State.timedRun_within
    | with_reducible apply State.timedRead_within
    | with_reducible apply Within.ite
    | with_reducible apply Within.foldl
    | with_reducible apply Within.foldl_fst
    | with_reducible apply Within.of_eq (by with_reducible assumption)
    | intro _
    | split
    | dsimp only

theorem State.acEnd_within {s : State} (hW : Within Ps s₀ s) (_ : .regs ∈ Ps) (_ : .am ∈ Ps) (_ : .psm ∈ Ps) (_ : .cs ∈ Ps) (_ : .cores ∈ Ps) (_ : .dies ∈ Ps) (_ : .ctxs ∈ Ps) (_ : .links ∈ Ps) (_ : .routers ∈ Ps) (_ : .rgroups ∈ Ps) (_ : .mod ∈ Ps) :
    Within Ps s₀ (State.acEnd s) := by
  unfold State.acEnd
  repeat' first
    | with_reducible assumption
    | with_reducible apply State.csCopy_within
    | with_reducible apply State.slices_within
    | with_reducible apply State.dbgEnd_within
    | with_reducible apply State.coreEnd_within
    | with_reducible apply Within.ite
    | with_reducible apply Within.foldl
    | with_reducible apply Within.foldl_fst
    | with_reducible apply Within.of_eq (by with_reducible assumption)
    | intro _
    | split
    | dsimp only

end Sys2Proof.Machine
end

