-- ==== Sys2Proof/WellFormed.lean ====
section
/-! DEFINITION. The limits the manual sets on the operands of a command, beyond what their types say.  A command outside them
cannot be sent; the meanings give it a next state all the same. -/

namespace Sys2Proof

/-- A packet has nflits + 1 flits, and starts in one of the slots 1 to 19 (R517, R518). -/
def Packet.wf (p : Packet) : Bool :=
  p.flits.length == p.hdr.nflits.toNat + 1 && decide (1 ≤ p.hdr.start.toNat) && decide (p.hdr.start.toNat ≤ 19)

/-- A die of the module: T0 to T11 or IO-N to IO-W (R630, R734). -/
def unitWf (u : Byte) : Bool := decide (u.toNat < 12) || (decide (16 ≤ u.toNat) && decide (u.toNat < 20))

/-- A placement: the template's dies are dies of a module, and a rank has at most 15 replicas (R569, R579). -/
def Placement.wf (p : Placement) : Bool :=
  p.binary.template.all (fun t => decide (t.row.toNat < 3)) && p.ranks.all fun r => decide (r.replicas.length ≤ 15)

def Instr.wf : Instr → Bool
  | .packetRoute _ (.link _ p _) => p.wf
  | .frameReceive _ corrected uncorrectable _ => !(corrected && uncorrectable)
  | .linkTrainDone _ passes => passes.all fun w => w != 3
  | .blocks _ _ _ _ e => decide (1 ≤ e.length) && decide (e.length ≤ 65536)
  | .input _ _ _ l _ => decide (1 ≤ l.length) && decide (l.length ≤ 65536)
  | .ingestWrite _ a b => decide (1 ≤ b.length) && decide (a.toNat + b.length ≤ 2 ^ 36)
  | .thermalCap u _ | .thermalTrip u _ | .marginSample u _ => unitWf u
  | .placeReq _ _ _ _ ⟨_, some p⟩ => p.wf
  | .popElog n => decide (1 ≤ n.toNat) && decide (n.toNat ≤ 8)
  | _ => true

end Sys2Proof
end

