-- ==== Sys2Proof/Tests/Slice0.lean ====
section
/-! SUPPORT. Small checks of single commands, and witnesses that the hypotheses of the statements can be met. -/

namespace Sys2Proof.Machine

/-- A state with one core as given. -/
def oneCore (c : CoreId) (k : Core) : State := State.reset.setCore c k

/-- A header with a start slot. -/
def startHeader (n : BitVec 5) : Header := { (State.reset.mgPacket 0 false 0 0 0 0 0 []).hdr with start := n }

/-- A core in lockstep with one MSQ entry that is visible at once. -/
def msqCore : Core := { Core.reset with mode := .lockstep, queues := [(qMSQ, [⟨5, false, 0, 0, false⟩])] }

def arrState (a : Arr) : State := oneCore 0 { Core.reset with arr := a }
/-- A command with opcode `op` at the head of the queue from ac 0. -/
def cmdOf (op : BitVec 2) (desc : BitVec 256) : ArrCmd :=
  ⟨op, false, false, desc, 5, false, 0, some 0, false, false, 0, 0, 0, false, false⟩
def someRun : Run := ⟨0, cmdOf 2 0, 0, 0, false, false, false, [], 0, none, 0, false⟩

def loadTile : Tile := { Tile.zero with valid := true, shape := 0, wfmt := 4, afmt := 4, sparse := true, k := 4, n := 1, image := [0, 0, 0, 0] }

def passDesc (src : Nat) : BitVec 256 :=
  BitVec.ofNat 256 (4 * 2 ^ 250 + 4 * 2 ^ 246 + 2 ^ 244 + src * 2 ^ 242 + 64 * 2 ^ 216 + 2 * 2 ^ 204 + 2 * 2 ^ 188)
/-- A PASS of two vectors that has started; `src` says that they come over the mesh. -/
def passCmd (src : Nat) : ArrCmd := { cmdOf 2 (passDesc src) with started := true }
def passRun (src : Nat) : Run := { someRun with cmd := passCmd src, firstAt := some 0 }
def passArr (src : Nat) : Arr := { Arr.reset with queue := [passCmd src], runs := [passRun src] }
def oneVec : Vec := ⟨0, List.replicate 64 0, [], [], [], false, 0, false⟩
def oneSlot : Slot := ⟨0, passCmd 0, oneVec, [fullLayer Tile.zero 128], 0, [], []⟩
def oneDrain : Drain := ⟨0, 1, 0, 0, 7, 7, false, false, 0, 0, false⟩
/-- An EWISE of one vector of 64 elements. -/
def ewCmd : ArrCmd :=
  { cmdOf 3 (BitVec.ofNat 256 (4 * 2 ^ 246 + 64 * 2 ^ 204 + 2 ^ 188)) with started := true }

/-- A V slot with one row source for each operand. -/
def rowSlot : VSlot := ⟨false, false, false, 0, 70, 64, 65, 66, 0, 0⟩
/-- A V slot for a conversion into activation memory, format FP8 E4M3. -/
def toAmSlot : VSlot := ⟨false, false, false, 0, 0, 64, 0, 0x500, 0, 0x480000000#35⟩
def vCore : Core := { Core.reset with mode := .lockstep }

/-- A V slot with a reserved row for the second row of VMOMENTS. -/
def badMoments : VSlot := { rowSlot with dst := 63 }
def resCore (r : VRes) : Core := { Core.reset with vres := [r] }

/-- A core in slack mode whose XSQ, MCQ and channel 0 are ready. -/
def slackCore : Core :=
  { Core.reset with
    mode := .slack, queues := [(qXSQ, [⟨5, false, BitVec.ofNat 256 (2 ^ 252), 0, false⟩]), (qMCQ, [⟨6, true, 0, 0, false⟩])]
    chans := [(0, ⟨3, 1, 4⟩)], sems := [(9, 2)], banks := [(1, ⟨true, 7, 0, 0⟩)] }
def always : Pred := ⟨false, false, 0⟩
def never : Pred := ⟨true, true, 0⟩

/-- A core in slack mode that has waited since ac 0. -/
def heldCore (h : Nat) : Core := { Core.reset with mode := .slack, hold := h, heldSince := some 0 }
def doneOp : DynOp := ⟨0, 3, qDMQ, 0, 5, false, .finished, 0, 0, false, 0, false⟩
def readOp : DynOp := ⟨0, 1, qCSQ, BitVec.ofNat 256 (2 ^ 197), 5, false, .finished, 0, 0, false, 0, false⟩

def flitA : Flit := ⟨7, true, 0xF, 0⟩
def wireA : Wire := ⟨.west, 0, 0, flitA⟩

def entryA : MsgEntry := ⟨3, 0, 2, 9, 1, 0, 5, false, 0⟩
/-- A packet of one flit for a core. -/
def pktTo (d : Nat) (b : DynBody) : DynFlit := headerAlone d b 0
def readyMsg : Msg := ⟨3, 0, 9, 1, [(5, true)], 0, []⟩
def busCore : Core :=
  { slackCore with credits := [(0, 8)], msgqs := [(2, [readyMsg])]
                   here := [pktTo 0 (.msg entryA), pktTo 0 (.sig 0 1 2), pktTo 0 (.credit 0 1)] }
/-- Core 0 on a die of context 0, with one packet in its router. -/
def routing (f : DynFlit) : State := (oneCore 0 { Core.reset with dyn := [f] }).setReg (.secDie 0) 0 (2 ^ 30)

/-- A context-store request: frame 5, offset 0, two units, line 9. -/
def csDesc (cls : Nat) : BitVec 256 := BitVec.ofNat 256 (cls * 2 ^ 252 + 5 * 2 ^ 232 + 1 * 2 ^ 214 + 9 * 2 ^ 198)
def xiqCore (cls : Nat) (d : BitVec 256) : Core := { Core.reset with ops := [⟨0, BitVec.ofNat 4 cls, qCSQ, d, 5, true, .xiq, 0, 0, false, 0, false⟩] }

def owing (x : Timed) : State := oneCore 0 { vCore with timed := [x] }

/-- A descriptor of an operation over 8 bytes of activation memory, from address 64 to address 0, one chunk. -/
def amDesc (op : Nat) : BitVec 512 := BitVec.ofNat 512 (op * 2 ^ 508 + 64 * 2 ^ 400 + 5 * 2 ^ 128)
def dmaCore (ph : DmaPhase) (d : BitVec 512) : Core :=
  { Core.reset with dmaP := { Dma.reset with phase := ph, desc := d }, dmaQ := { Dma.reset with phase := ph, desc := d } }
def ownedDma (ph : DmaPhase) (d : BitVec 512) : State := (oneCore 0 (dmaCore ph d)).setReg (.secDie 0) 0 (2 ^ 30)
def dmaOp (st : OpStage) : DynOp := ⟨0, 3, qDMQ, 0, 5, false, st, 0, 0, false, 0, false⟩

/-- A die that its context holds, with a queue of command entries. -/
def queued (es : List Line) : State :=
  (State.reset.setReg (.secDie 0) 0 (2 ^ 30)).setDie 0 { Die.reset with cmdq := es }
/-- A header of type `ty`, length `n`, for core 5; `last` sets its last bit. -/
def header (ty n : Nat) : Line := BitVec.ofNat 512 (2 ^ 42 + 5 * 2 ^ 32 + 3 * 2 ^ 16 + n * 2 ^ 8 + ty)
/-- Whether `BlockIs` holds of some state. -/
def hasBlock (s : State) (d : DieId) (ty h : Nat) (body : List Line) (cs : List CoreId) : Bool :=
  match s.nextBlock d with
  | some (h', b', t) => h' == h && b' == body && hType h == ty && t.targets d h == some cs
  | none => false

/-- Context 0 holds die 0 of a module with a lease; `k` is what the module knows of it. -/
def inContext (k : CtxState) : State :=
  ((State.reset.setReg (.secDie 0) 0 (2 ^ 30)).setCtx 0 k).onMod fun m => { m with leaseUntil := 10 ^ 9 }
def running : CtxState := { CtxState.reset with active := true }
/-- The same with every core of the die as given. -/
def inStep (k : CtxState) (c : Core) : State :=
  { inContext k with cores := (List.range 64).map fun i => (i, c), ac := 100 }
def summaryOf (flags : Byte) : GongSummary := ⟨flags, 7, 7, 1⟩
def noticeOf (dec : Byte) : GongNotice := ⟨dec, 0, 0, 1, 50, 0, 0⟩

/-- A page manager with one command, with sequence 0 as entry `e` and frame 5 held with count `n`. -/
def pager (op arg : Nat) (e : Word64) (n : Nat) (list : Bool) : State :=
  State.reset.setDie 0 { Die.reset with pgm := { Pgm.reset with
    cmds := [BitVec.ofNat 64 (op * 2 ^ 60 + arg)], seqs := [(0, e)], frames := [(5, ⟨1, list, n⟩)], fresh := 6 } }
def cmdWord (op arg : Nat) : Word64 := BitVec.ofNat 64 (op * 2 ^ 60 + arg)

/-- A control core with registers 1, 2 and 3 as given. -/
def ccState (a b c : Nat) : State := State.reset.setDie 0 { Die.reset with
  ie := true, gregs := [(1, BitVec.ofNat 64 a), (2, BitVec.ofNat 64 b), (3, BitVec.ofNat 64 c)] }

/-- The Carillon in a state; `src` is the source bit, the discipline is on and the parent is link 3. -/
def carAt (st : Nat) (src : Bool) : State :=
  ((State.reset.setReg .clk 0x08 (st * 2 ^ 30)).setReg .clk 0x0C ((if src then 2 ^ 30 else 0) + 2 ^ 29)).setReg .fab 0x1C 3

/-- A module in a stage of start-up. -/
def inStage (n : Nat) : State := State.reset.setReg .mc 0x10 (n * 2 ^ 28)

def aChange (c : Bool) : StagedChange := ⟨5, .policy [], 0, none, [0xFFFF], c, 0⟩
def aTest (kind : Byte) : TestReq := ⟨kind, false, 0, 0, 0⟩

/-- A link with the given configuration and status words. -/
def linkState (cfg stat : Word32) : State := { State.reset with links := [(3, { Link.reset with cfg := cfg, stat := stat })] }
def somePacket (kind : BitVec 4) (vc : BitVec 2) : Packet :=
  { hdr := { (State.reset.mgPacket 0 false 0 0 0 0 0 []).hdr with kind := kind, vc := vc, enclave := 0 }, flits := [0] }
/-- Routes of bank 0 deliver endpoint 0 here. -/
def routedHere (r : Router) : State :=
  { (linkState 0x80000000 0xC0000000) with routers := [(0, { r with routes := [(0, 0xA0000000)] })] }

/-- A fabric operation that waits in XIQ. -/
def fabOp (op low : Nat) : DynOp := ⟨9, 4, qFBQ, BitVec.ofNat 256 (op * 2 ^ 248 + low), 5, false, .xiq, 0, 0, false, 0, false⟩
/-- Core 0 has one fabric operation; its die belongs to context 1 when `held`. -/
def fabState (held : Bool) (o : DynOp) : State :=
  (oneCore 0 { Core.reset with ops := [o] }).setReg (.secDie 0) 0x00 (if held then 0x40000001 else 0)
/-- Router 0 holds a delivered packet, for core 0 of context 1 in enclave 0. -/
def arrived (held : Bool) (kind vc : BitVec 4) (via : RingTo) (more : List Inbound) : State :=
  let p := somePacket kind (vc.setWidth 2)
  let q : Packet := { p with hdr := { p.hdr with context := 1, enclave := 0 } }
  { (fabState held (fabOp 1 0)) with routers := [(0, { Router.reset with delivered := [⟨q, via, none, 0, 0, false⟩], inbound := more })] }
/-- A reduction group of context 1: valid, one word, no local contributor, child link 3. -/
def sumGroup (rounds : List Round) (ws : List Waiter) : Group := ⟨0x87E00000, 0x01000000, 8, rounds, ws⟩
def aRound (n : Nat) : Round := ⟨BitVec.ofNat 16 n, [], [], [], 0, 0⟩
/-- Router 0 holds a RED packet of group 0 that came over link 3. -/
def redArrived (kind : BitVec 4) (g : Group) : State :=
  { State.reset with
    rgroups := [(0, g)], routers := [(0, { Router.reset with delivered := [⟨somePacket kind 0, .deliver, some 3, 0, 0, false⟩] })] }

/-- Router 0 runs a job. -/
def jobState (b : Job) : State :=
  { State.reset with routers := [(0, { Router.reset with job := some b })] }.setReg (.secDie 0) 0x00 0x40000001
def someJob : Job := ⟨false, false, false, 0, 1, 1, 0, 0, 7, 5, 1, 0, 0, [], 0, 0, 4⟩
/-- Router 0 receives a shard packet, or an answer, with some transfers open. -/
def shardState (fa : BitVec 16) (us : List Transfer) (b : Option Job) : State :=
  let p := State.reset.mgPacket 0 false 1 4 fa.toNat 0 0 []
  { State.reset with
    routers := [(0, { Router.reset with transfers := us, job := b, delivered := [⟨p, .deliver, none, 0, 0, false⟩] })] }.setReg
    (.secDie 0) 0x00 0x40000001
def someTransfer (next total : Nat) : Transfer := ⟨0xFFFF, 4, 0, 0, total, next, next, [], 0, 1, 0, false⟩
/-- The ring 0 of function 1 is in use for context 1, holds an entry, and the module is READY. -/
def ringState (k : Ring) : State :=
  ((({ State.reset with rings := [(0, k)] }.setReg (.mc) 0x10 0x60000000).setReg (.vf 0) 0x1008 0x80000001).setReg
    (.vf 0) 0x100C 9).setReg (.secDie 0) 0x00 0x40000001
def someInput : InputEntry := ⟨5, 0, 0, 0, 3, 1, 0⟩
def someFrame (n : Nat) : Frame := ⟨1, 0, 1, 0, List.replicate n 7, false, true, false⟩
/-- The ring 0 of function 1 with one frame, one posted buffer and room for records. -/
def frameState (n : Nat) (k : Ring) : State :=
  (((({ State.reset with rings := [(0, k)] }.onMod fun m => { m with frames := [someFrame n] }).setReg (.vf 0) 0x1028
    0x80000000).setReg (.vf 0) 0x102C 1).setReg (.vf 0) 0x1048 0x84000101)
def aReceipt (sign : Bool) : Receipt := ⟨[1], 0, sign, none, 0⟩

end Sys2Proof.Machine

namespace Sys2Proof.Tests

open Sys2Proof Sys2Proof.Machine

set_option Elab.async false

/-! Ill-formed commands are refused by the check, and well-formed ones pass it. -/

theorem test_wf_packet_flits : (Instr.packetRoute 0 (.link 3 ⟨startHeader 1, []⟩ true)).wf = false ∧
    (Instr.packetRoute 0 (.link 3 ⟨startHeader 1, [0]⟩ true)).wf = true := by decide +kernel
theorem test_wf_packet_start : (Instr.packetRoute 0 (.link 3 ⟨startHeader 0, [0]⟩ true)).wf = false ∧
    (Instr.packetRoute 0 (.link 3 ⟨startHeader 20, [0]⟩ true)).wf = false := by decide +kernel
theorem test_wf_frame : (Instr.frameReceive 0 true true 0).wf = false ∧ (Instr.frameReceive 0 true false 0).wf = true := by decide
theorem test_wf_train : (Instr.linkTrainDone 0 [1, 3]).wf = false ∧ (Instr.linkTrainDone 0 [1, 2]).wf = true := by decide
theorem test_wf_blocks : (Instr.blocks 0 0 0 1 []).wf = false ∧ (Instr.blocks 0 0 0 1 [0]).wf = true := by decide
theorem test_wf_input : (Instr.input 0 0 ⟨0, 0, 0, 0, 0, 0, 0⟩ [] false).wf = false ∧
    (Instr.input 0 0 ⟨0, 0, 0, 0, 0, 0, 0⟩ [0] false).wf = true := by decide
theorem test_wf_ingest : (Instr.ingestWrite 0 0 []).wf = false ∧ (Instr.ingestWrite 0 0xFFFFFFFFF [0, 0]).wf = false ∧
    (Instr.ingestWrite 0 0xFFFFFFFFF [0]).wf = true := by decide
theorem test_wf_unit : (Instr.thermalCap 12 0).wf = false ∧ (Instr.thermalTrip 20 0).wf = false ∧
    (Instr.marginSample 15 0).wf = false ∧ (Instr.marginSample 19 0).wf = true := by decide
theorem test_wf_placement : (Instr.placeReq 0 0 0 0 ⟨0, some ⟨⟨[], 0, 0, false, [⟨3, 0, 0⟩], [], (0, 0), (0, 0), []⟩, [], []⟩⟩).wf = false ∧
    (Instr.placeReq 0 0 0 0 ⟨0, some ⟨⟨[], 0, 0, false, [⟨2, 0, 0⟩], [], (0, 0), (0, 0), []⟩,
      [⟨0, 0, 0, List.replicate 16 0⟩], []⟩⟩).wf = false ∧
    (Instr.placeReq 0 0 0 0 ⟨0, some ⟨⟨[], 0, 0, false, [⟨2, 0, 0⟩], [], (0, 0), (0, 0), []⟩, [⟨0, 0, 0, []⟩], []⟩⟩).wf = true := by
  decide
theorem test_wf_popElog : (Instr.popElog 0).wf = false ∧ (Instr.popElog 9).wf = false ∧ (Instr.popElog 8).wf = true := by decide

/-! Worked examples of the manual. -/

/-- R29: core 0x01DD lies at mesh row 11 and column 29. -/
theorem test_mesh_coordinates : mrow 0x1DD = 11 ∧ mcol 0x1DD = 29 ∧ coreAt 11 29 = 0x1DD := by decide
/-- R75: three terms meet in one word, in two orders. -/
theorem test_wrapping_in_two_orders : let a : W128 := BitVec.ofNat 128 (2 ^ 126)
    a + a = 0x80000000000000000000000000000000 ∧ a + a + (-a) = a ∧ -a + a + a = a := by decide
/-- R22: a counter written while it increments shows the increment one cycle later. -/
theorem test_counter_meets_a_write : let s := State.reset.setReg (.cq 0) 0x20 7
    let t := s.layoutWrite .mc 0x1802020 0 0 1
    blockOf 0x1802020 = some (.cq 0, 0x20) ∧ t.reg (.cq 0) 0x20 = 0 ∧
    ({ t with ac := 1 } : State).undefer.reg (.cq 0) 0x20 = 1 := by decide +kernel
/-- R507: module link 17 belongs to IO-E. -/
theorem test_link_of_io : ioOf 17 = 1 ∧ ioOf 47 = 3 := by decide
/-- R523, R524: a forwarding entry and its path. -/
theorem test_bits : bits 0xA0000000 31 29 = 5 ∧ bits 0x12345678 15 8 = 0x56 ∧ bitAt 4 2 = true := by decide

theorem wit_MatrixCommandsEnterTheArrayQueue : MsqReady (oneCore 3 msqCore) 3 5 ⟨5, false, 0, 0, false⟩ := by
  refine ⟨⟨?_, ?_⟩, ?_, ?_, ?_, ?_, ?_⟩ <;> decide

theorem wit_VoidEnter : let s := arrState { Arr.reset with overflow := [cmdOf 2 0] }
    (s.arr 0).overflow = [cmdOf 2 0] ∧ (s.arr 0).queue.length < 4 ∧ (s.arr 0).queue.getLast? = none := by decide
theorem wit_Freeze : ((arrState { Arr.reset with drainEnd := 12 }).arr 0).freezeAt = none ∧
    12 ≤ ((arrState { Arr.reset with drainEnd := 12 }).arr 0).drainEnd := by decide
theorem wit_Thaw : let s := { arrState { Arr.reset with freezeAt := some 0, drainEnd := 9 } with ac := 5 }
    (s.arr 0).frozen (s.ac - 1) = true ∧ (s.arr 0).thawAt = none ∧ (s.arr 0).drainEnd ≤ 9 := by decide
theorem wit_SwapDone : ∀ bf ∈ [true, false], let m : Mark := ⟨0, bf, 128⟩
    let s := { arrState { Arr.reset with mark := some m } with ac := if bf then 1025 else 257 }
    (s.arr 0).mark = some m ∧ (if m.bf then m.at_ + 4 * (m.h + 128) + 1 else m.at_ + m.h + 129) ≤ s.adv 0 ∧
    (s.arr 0).frozen s.ac = false ∧
    ({ s with ac := 100 } : State).adv 0 < (if m.bf then m.at_ + 4 * (m.h + 128) + 1 else m.at_ + m.h + 129) := by decide
theorem wit_SwapFrozen : let s := arrState { Arr.reset with mark := some ⟨0, false, 128⟩, freezeAt := some 0 }
    (s.arr 0).mark = some ⟨0, false, 128⟩ ∧ (s.arr 0).frozen s.ac = true := by decide
theorem wit_Drain : State.reset.reg (.mx 0) 0x0C = 0 ∧ (State.reset.setReg (.mx 0) 0x0C 1).reg (.mx 0) 0x0C = 1 ∧
    (((arrState { Arr.reset with drainAt := some 0 }).setReg (.mx 0) 0x0C 1).arr 0).drainAt = some 0 := by decide
theorem wit_PassComplete : let s := { arrState { Arr.reset with runs := [someRun] } with ac := 1 }
    (s.arr 0).runs = [someRun] ∧ s.runDone 0 someRun = true ∧ s.qOpen 0 qMCQ = true ∧ someRun.cmd.void = false ∧
    (s.core 0).skip qMCQ = [] ∧ s.reg (.mx 0) 0x20 < 2 ^ 32 - 1 := by decide
theorem wit_VoidComplete : let r := { someRun with cmd := { cmdOf 2 0 with void := true } }
    let s := arrState { Arr.reset with runs := [r] }
    (s.arr 0).runs = [r] ∧ s.qOpen 0 qMCQ = true ∧ r.cmd.void = true ∧ (s.core 0).skip qMCQ = [] := by decide

theorem wit_HeadLoad : let q := cmdOf 1 0
    let s := arrState { Arr.reset with queue := [q] }
    (s.arr 0).queue = [q] ∧ q.started = false ∧ q.headAt.getD 0 ≤ s.ac ∧ q.void = false ∧ q.faulted = false ∧ q.op = 1 ∧
    (s.arr 0).shadow = .free ∧ (s.core 0).wsFree ≤ s.ac := by decide
theorem wit_HeadPass : let q := cmdOf 2 (BitVec.ofNat 256 (2 ^ 216 + 2 ^ 204 + 2 ^ 188))
    let s := arrState { Arr.reset with queue := [q] }
    (s.arr 0).queue = [q] ∧ q.started = false ∧ q.headAt.getD 0 ≤ s.ac ∧ q.void = false ∧ q.faulted = false ∧ q.op = 2 ∧
    q.isDegenerate = false ∧ q.desc'.swap = false ∧ (s.arr 0).swapped = false := by decide
theorem wit_HeadFaulted : let q : ArrCmd := { cmdOf 2 0 with faulted := true }
    let s := arrState { Arr.reset with queue := [q] }
    (s.arr 0).queue = [q] ∧ q.started = false ∧ q.headAt.getD 0 ≤ s.ac ∧ q.faulted = true ∧ q.op = 2 := by decide
theorem wit_LoadComplete : let s := { arrState { Arr.reset with shadow := .loading } with ac := 8 }
    (s.arr 0).shadow = .loading ∧ (s.arr 0).loadAt + loadLatency (s.arr 0).shadowTile.image.length ≤ s.ac ∧
      (s.arr 0).shadowTile.badPair = none ∧ s.wsErr = [] := by decide
theorem wit_CheckOps : loadTile.wfmt ≠ 7 ∧ loadTile.sparse = true ∧ Tile.zero.wfmt ≠ 7 ∧ Tile.zero.sparse = false := by decide
theorem wit_LoadAbandon : let s := { arrState { Arr.reset with shadow := .loading, shadowTile := loadTile } with ac := 20 }
    let t := (s.arr 0).shadowTile
    (s.arr 0).shadow = .loading ∧ t.badPair = some 0 ∧
      (s.arr 0).loadAt + (elemPlane t.wfmt t.n t.ks + scalePlane t.shape t.wfmt t.sparse t.k t.n + 0 / 2) / 512 ≤ s.ac := by
  decide

theorem wit_FeederFetch : let s := { arrState (passArr 0) with ac := 1 }
    (s.arr 0).nextX = some (passCmd 0) ∧ (passCmd 0).desc'.src = false ∧ (passCmd 0).issuedAt < s.ac ∧
      (s.arr 0).feeder.length < 16 ∧ (s.arr 0).fetchAc ≤ s.ac ∧ (s.core 0).amUse = [] ∧ s.amErr = [] ∧
      (s.aboveFeed 0 &&& ((passCmd 0).desc'.xAt (passCmd 0).isEw (passCmd 0).fetched).lanes) = 0 ∧
      (passCmd 0).desc'.fwd = false := by decide +kernel
theorem wit_YFetch : let q := { ewCmd with fetched := 1 }
    let s := { arrState { Arr.reset with queue := [q] } with ac := 1 }
    s.yReady 0 = some (q, q.desc'.yAt 0) ∧ s.xReady 0 = none ∧ (s.core 0).amUse = [] ∧ s.amErr = [] ∧
      (s.aboveFeed 0 &&& (q.desc'.yAt 0).lanes) = 0 := by decide +kernel
theorem wit_MeshVector : let q := { passCmd 1 with started := true }
    let s := arrState { Arr.reset with queue := [q], flits := [(0, ⟨0, false, 0, 0⟩)] }
    (s.arr 0).headCmd s.ac = some q ∧ q.feeds = true ∧ q.desc'.src = true ∧ q.fetched < q.desc'.m ∧
      q.desc'.vflits q.isEw ≤ (s.arr 0).flits.length ∧ (s.arr 0).feeder.length + (s.arr 0).lost < 16 := by decide +kernel
theorem wit_SlotRelease : let s := { arrState { passArr 0 with feeder := [oneVec] } with ac := 1 }
    (s.arr 0).queue = [passCmd 0] ∧ (passCmd 0).started = true ∧ (passCmd 0).headAt = some 0 ∧ (passCmd 0).feeds = true ∧
      (passCmd 0).isEw = false ∧ (passCmd 0).isBf = false ∧ (s.arr 0).runs.getLast? = some (passRun 0) ∧
      (passRun 0).firstAt = some 0 ∧ (s.arr 0).frozen s.ac = false ∧ (s.arr 0).slotAc ≤ s.ac ∧
      (s.arr 0).feeder = [oneVec] ∧ oneVec.from_ < s.ac ∧ (passRun 0).released + 1 < (passCmd 0).desc'.m ∧
      (s.arr 0).lost = 0 := by decide +kernel
theorem wit_Term : let s := { arrState { passArr 0 with slots := [oneSlot] } with ac := 40 }
    (s.arr 0).frozen s.ac = false ∧ (s.arr 0).slots = [oneSlot] ∧ oneSlot.wants 0 0 (s.adv 0) = true ∧
      (oneSlot.formedOf 0).length + 1 < oneSlot.segs := by decide +kernel
theorem wit_Check : ∀ error ∈ [(0 : Int), 1], let s := { arrState { passArr 0 with slots := [oneSlot] } with ac := 200 }
    (s.arr 0).frozen s.ac = false ∧ (s.arr 0).slots = [oneSlot] ∧ (0, (1 : BitVec 3).toNat) ∈ oneSlot.checkTaps ∧
      (0, (1 : BitVec 3).toNat) ∉ oneSlot.checks ∧
      oneSlot.at_ + (16 * (1 : BitVec 3).toNat + 15) % shapeH oneSlot.cmd.desc'.shape + 130 ≤ s.adv 0 ∧
      ((oneSlot.checkSums 1).1 + BitVec.ofInt 72 error = (oneSlot.checkSums 1).2 ↔ error = 0) := by decide +kernel
theorem wit_DrainWrite : let s := arrState { passArr 0 with drains := [oneDrain] }
    s.drainPick 0 (1 : BitVec 3).toNat 0 = some oneDrain ∧
      ((s.arr 0).runs.find? fun r => r.serial == oneDrain.run) = some (passRun 0) ∧ oneDrain.fp32 = false ∧ s.psmErr = [] ∧
      (s.core 0).psmNow = [] ∧ (passRun 0).cmd.desc'.acc = true := by decide +kernel
theorem wit_DrainOver : let r := { passRun 0 with cmd := cmdOf 2 0 }
    let s := arrState { Arr.reset with runs := [r], drains := [oneDrain] }
    s.drainPick 0 (1 : BitVec 3).toNat 0 = some oneDrain ∧ ((s.arr 0).runs.find? fun r => r.serial == oneDrain.run) = some r ∧
      r.cmd.desc'.acc = false ∧ Store.get false r.words oneDrain.word = false := by decide +kernel

theorem free_of {s : State} {c : CoreId} {n : Nat} (h : (s.core c).mode ≠ .idle ∧ (s.core c).slotUsed s.ac n = false) :
    Free s c n := h
theorem wit_LaneOperations : ∀ op ∈ [VOp.add, .sub, .mul, .fma, .abs, .neg, .max, .min, .recip, .rsqrt, .exp, .expd, .cmp, .mov],
    VReady (oneCore 0 vCore) 0 op rowSlot ∧ op.laneWise rowSlot = true := by
  unfold VReady Free; decide
theorem wit_Vsel : VReady (oneCore 0 vCore) 0 .sel { rowSlot with maskEn := true } ∧
    VOp.sel.laneWise { rowSlot with maskEn := true } = true := by unfold VReady Free; decide
theorem wit_VcvtRow : VReady (oneCore 0 vCore) 0 .cvt { rowSlot with c := 7 * 64 } ∧
    VOp.cvt.laneWise { rowSlot with c := 7 * 64 } = true := by unfold VReady Free; decide
theorem wit_Scans : ∀ op ∈ [VOp.scansum, .scanmax, .moments, .rand], VReady (oneCore 0 vCore) 0 op rowSlot := by
  unfold VReady Free; decide
theorem wit_VcvtAm : VReady (oneCore 0 vCore) 0 .cvt toAmSlot ∧ toAmSlot.dam = true ∧
    ((vIssue (oneCore 0 vCore) 0).core 0).amUse = [] := by unfold VReady Free; decide

theorem wit_VectorIllegal : let v := { rowSlot with a := 0x600, ext := 0x600000000#35 }
    Free (oneCore 0 vCore) 0 sV ∧ VOp.add.illegal v = true := by unfold Free; decide
theorem wit_VectorFault : Free (oneCore 0 vCore) 0 sV ∧ VOp.moments.illegal badMoments = false ∧
    VOp.moments.toAm badMoments = false ∧ (vFormatFault .moments badMoments || vAddrFault .moments badMoments) = true := by
  unfold Free; decide
theorem wit_VcvtFault : let v := { toAmSlot with a := 0x7FF }
    Free (oneCore 0 vCore) 0 sV ∧ VOp.cvt.illegal v = false ∧ v.dam = true ∧
    (vFormatFault .cvt v || vAddrFault .cvt v) = true := by unfold Free; decide
theorem wit_ResultRow : let r : VRes := ⟨0, 0, .row 7 63, List.replicate 256 (some 1), false⟩
    (((oneCore 0 (resCore r)).core 0).vres.filter fun r => r.due ≤ (oneCore 0 (resCore r)).ac) = [r] ∧ r.lanes.length = 256 := by
  constructor
  · simp only [oneCore, State.core_setCore, if_true, resCore]; rfl
  · exact List.length_replicate
theorem wit_ResultMask : let r : VRes := ⟨0, 0, .mask 7, List.replicate 256 (some 1), false⟩
    (((oneCore 0 (resCore r)).core 0).vres.filter fun r => r.due ≤ (oneCore 0 (resCore r)).ac) = [r] ∧ r.lanes.length = 256 := by
  constructor
  · simp only [oneCore, State.core_setCore, if_true, resCore]; rfl
  · exact List.length_replicate
theorem wit_ResultAm : let r : VRes := ⟨0, 0, .am 0 8 [some 1] 64 [5], [], false⟩
    (((oneCore 0 (resCore r)).core 0).vres.filter fun r => r.due ≤ (oneCore 0 (resCore r)).ac) = [r] ∧ 0 + 1 * 8 / 8 ≤ 64 := by
  decide

theorem wit_QueueInstructions : let s := oneCore 3 slackCore
    RunsUnder s 3 sS always ∧ RunsUnder s 3 sX always ∧ waitLegal 3 = true ∧ HeadIs s 3 qMCQ 6 ⟨6, true, 0, 0, false⟩ ∧
    HeadIs s 3 qXSQ 5 ⟨5, false, BitVec.ofNat 256 (2 ^ 252), 0, false⟩ ∧ (s.core 3).xiq.length < 16 ∧
    descBadId (BitVec.ofNat 256 (2 ^ 252)) = false ∧
    classQueue (descClass (BitVec.ofNat 256 (2 ^ 252))) = some (cqQueue 0) ∧ (s.core 3).chan 0 = some ⟨3, 1, 4⟩ ∧
    2 ≤ (((s.useSlots 3 (2 ^ sS)).semDue 3).core 3).sem 9 ∧ (s.how 3).runs never = false := by
  unfold RunsUnder HeadIs Free; decide
theorem wit_WaitBad : let e : QEntry := ⟨6, false, 0, 0, true⟩
    HeadIs (oneCore 3 { slackCore with queues := [(qMCQ, [e])] }) 3 qMCQ 6 e ∧ e.bad = true := by unfold HeadIs; decide
theorem wit_XissueFull : let e : QEntry := ⟨5, false, BitVec.ofNat 256 (2 ^ 252), 0, false⟩
    let s := oneCore 3 { slackCore with mode := .lockstep, ops := List.replicate 16 { doneOp with stage := .xiq } }
    RunsUnder s 3 sX always ∧ (s.core 3).mode = .lockstep ∧ HeadIs s 3 qXSQ 5 e ∧ 16 ≤ (s.core 3).xiq.length := by
  unfold RunsUnder HeadIs Free; decide
theorem wit_ControlInstructions : let s := oneCore 3 slackCore
    Free s 3 sS ∧ Free s 3 sC ∧ (s.core 3).mode = .slack ∧ ((s.core 3).bankOf !(s.core 3).bank).complete = true ∧
    ((s.core 3).bankOf !(s.core 3).bank).token = 7 ∧ ((oneCore 3 vCore).core 3).mode = .lockstep := by unfold Free; decide

theorem wit_SlotGone : slotRow (.slack 0) = some (0, sS) ∧ (State.reset.core 0).mode = .idle ∧
    (((oneCore 0 vCore).useSlots 0 (2 ^ sS)).core 0).slotUsed (oneCore 0 vCore).ac sS = true := by decide
theorem wit_BundleIssue : let s := oneCore 0 vCore
    (s.core 0).mayIssue s.ac = true ∧ (s.core 0).hold = 0 ∧ (s.startAc 0).holdNow 0 = 0 ∧
    ((s.startAc 0).core 0).mode = .lockstep ∧
    (s.startAc 0).bundle 0 ((s.startAc 0).core 0).bank ((s.startAc 0).core 0).index.toNat = 0 ∧
    ((s.startAc 0).core 0).index.toNat < 1008 ∧ (s.core 0).mode = .lockstep := by decide
/-- Bundle 0 of bank 0 with a WAIT for a token in its S slot. -/
theorem wit_BundleHeld : let s := { oneCore 0 { Core.reset with mode := .slack } with pm := [(3, 5), (4, 0x30), (5, 0x10)] }
    (s.core 0).mayIssue s.ac = true ∧ (s.core 0).hold = 0 ∧ (s.startAc 0).holdNow 0 = holdWait := by decide
theorem wit_HeldIssue : let s := oneCore 0 (heldCore holdWait)
    (s.core 0).mayIssue s.ac = true ∧ (s.core 0).waiting = true ∧ (s.startAc 0).holdNow 0 = 0 := by decide
theorem wit_HoldTimeout : ∀ h ∈ [holdGong, holdEnd, holdWait],
    let s := { (oneCore 0 (heldCore h)).setReg (.cq 0) 0x18 1 with ac := 1025 }
    (s.core 0).heldSince = some 0 ∧ s.fld (.cq 0) 0x18 23 0 = 1 ∧ 0 + 1024 * s.fld (.cq 0) 0x18 23 0 < s.ac ∧
    (s.core 0).hold = h := by decide
theorem wit_CoreQuiesce : let s := oneCore 0 { Core.reset with ending := true, queues := [(0, [⟨5, false, 0, 0, false⟩])] }
    (s.core 0).ending = true ∧ (s.startAc 0).workDone 0 = true := by decide
theorem wit_CompletionPush : let s := oneCore 0 { Core.reset with ops := [doneOp, readOp] }
    (s.core 0).oldestDone (5 : BitVec 3).toNat s.ac = some doneOp ∧ s.qOpen 0 qDMQ = true ∧ (s.core 0).skip qDMQ = [] ∧
    (s.core 0).oldestDone qCSQ s.ac = some readOp ∧ s.qOpen 0 qCSQ = true ∧ bits readOp.desc.toNat 197 197 = 1 ∧
    ¬Issued s 0 ∧ (s.core 0).sem (bits readOp.desc.toNat 196 191) < 0xFFFF ∧
    Issued (oneCore 0 { Core.reset with issueFrom := 1, ops := [readOp] }) 0 := by unfold Issued; decide
theorem wit_CompletionFull : (oneCore 0 { Core.reset with qRoom := [(qDMQ, 1)] }).qOpen 0 (5 : BitVec 3).toNat = false := by decide +kernel

theorem wit_MeshSend : let s := oneCore 0 vCore
    InLockstep s 0 always ∧ (s.core 0).amUse = [] := by unfold InLockstep; decide
theorem wit_MeshUnclaimed : let s := oneCore 0 { vCore with wires := [wireA] }
    (s.core 0).arrived .west s.ac = some wireA ∧ (s.core 0).fired = [] ∧ (s.core 0).moves = [] ∧
    (s.core 0).arr.passClaims .west s.ac = false ∧ s.firesNow 0 .west = false := by decide +kernel
theorem wit_MeshMin : let m : Move := ⟨.min, .west, .west, 65535, 1, 0, 0, []⟩
    let s := { oneCore 0 { vCore with wires := [wireA], moves := [m] } with ac := 1 }
    (s.core 0).arrived .west s.ac = some wireA ∧ (s.core 0).fired = [] ∧ (s.core 0).moves = [m] ∧ m.lost = [] ∧
    m.expects .west s.ac = true ∧ (s.core 0).arr.passClaims .west s.ac = false ∧ s.firesNow 0 .west = false ∧ s.amErr = [] ∧
    wireA.flit.seq.toNat = m.next % 64 := by decide +kernel

theorem wit_Msend : let s := oneCore 0 busCore
    RunsUnder s 0 sX always ∧ (s.core 0).chan 0 = some ⟨3, 1, 4⟩ ∧ (s.core 0).amUse = [] ∧
    7 + 1 ≤ ((s.creditsDue 0).core 0).credit 0 := by unfold RunsUnder Free; decide
theorem wit_Mpop : let s := oneCore 0 busCore
    (s.core 0).msgq 2 = [readyMsg] ∧ s.msgReady 0 2 = true ∧ (s.core 0).amUse = [] := by decide +kernel
theorem wit_HopHere : let f := pktTo 0 (.sig 0 1 2)
    (routing f).dynPick 0 1 = some f ∧ ((routing f).core 0).dynDrop.contains f.code = false ∧ f.dest = 0 ∧ f.port = false ∧
    (routing f).dynRefused 0 f = false := by decide +kernel
theorem wit_HopAcross : let f := pktTo 9 (.sig 0 1 2)
    (routing f).dynPick 0 1 = some f ∧ ((routing f).core 0).dynDrop.contains f.code = false ∧
    (routing f).dynOut 0 f = some 1 ∧ 1 ≠ outLocal ∧ (routing f).dynRefused 0 f = false ∧
    across 0 (sideOf 1) = .core 1 := by decide +kernel
theorem wit_HopRefused : let f := pktTo 700 (.sig 0 1 2)
    (routing f).dynPick 0 1 = some f ∧ f.idx = 0 ∧ ((routing f).core 0).dynDrop.contains f.code = false ∧
    (routing f).dynRefused 0 f = true := by decide +kernel
theorem wit_Arrivals : let s := oneCore 0 busCore
    ((s.core 0).here.find? DynFlit.isMsg) = some (pktTo 0 (.msg entryA)) ∧
    ((s.core 0).here.find? DynFlit.isSig) = some (pktTo 0 (.sig 0 1 2)) ∧
    ((s.core 0).here.find? DynFlit.isCredit) = some (pktTo 0 (.credit 0 1)) := by decide +kernel
theorem wit_Admit : let a : MsgEntry := { entryA with src := 7 }
    let k := { Core.reset with msgWait := [entryA] }
    let l := { Core.reset with msgWait := [a, entryA] }
    k.msgWait = [entryA] ∧ entryA.j = 0 ∧ entryA.q < 16 ∧ k.msgq entryA.q = [] ∧ l.msgWait = [a, entryA] ∧ a.j = 0 ∧
    a.q = entryA.q ∧ a.firstAt = entryA.firstAt ∧ entryA.src < a.src := by decide +kernel

theorem wit_CsRead : let s := (oneCore 0 (xiqCore 1 (csDesc 1))).setReg (.secDie 0) 0 (2 ^ 30)
    (s.xiqHead 0 1).map DynOp.desc = some (csDesc 1) ∧ s.csRefused (dieOf 0) (csDesc 1) = none ∧ s.csClosed (dieOf 0) = false := by
  decide
theorem wit_CsReadRefused : let d := BitVec.ofNat 256 (2 ^ 252 + 196608 * 2 ^ 232)
    let s := oneCore 0 (xiqCore 1 d)
    (s.xiqHead 0 1).map DynOp.desc = some d ∧ s.csRefused (dieOf 0) d = some 0 := by decide
/-- Requests that have reached slice 5: a read of core 3, and one of core 9 in the same nc. -/
def atSlice (w : Bool) : State :=
  { State.reset.setDie 0 { Die.reset with xreqs := [⟨9, 4, w, 5, 2, 0, 5, 0, false, []⟩, ⟨3, 4, w, 7, 2, 0, 5, 1, false, []⟩] } with
    ac := 40 }
theorem wit_Slice : ∀ w ∈ [true, false], let r : XReq := ⟨3, 4, w, 7, 2, 0, 5, 1, false, []⟩
    (atSlice w).slicePick 0 5 = some r ∧ r.served = 0 ∧ r.write = w ∧ (atSlice w).csErr = [] ∧
    Store.get 0 ((atSlice w).die 0).xfree 5 ≤ (atSlice w).ac ∧ (atSlice w).reservedNc = false := by decide +kernel
theorem wit_CsUnitWrite : let r : CsReq := ⟨0, 2, 0, 9, 0, [(7, true, 40), (8, false, 42)], true⟩
    let s := { oneCore 0 { Core.reset with csReqs := [r] } with ac := 40 }
    (s.core 0).csReqs = [r] ∧ r.data = (7, true, 40) :: [(8, false, 42)] ∧ 40 + r.wait ≤ s.ac ∧ (s.core 0).amUse = [] ∧
    (s.vLanes 0 &&& laneMask (64 * (r.am + r.next)) 64) = 0 ∧ r.next + 1 < r.units ∧
    ({ r with next := 1, data := [(8, false, 40)] } : CsReq).next + 1 = r.units := by decide +kernel
theorem wit_CsUnitWaits : let r : CsReq := ⟨0, 2, 0, 9, 0, [(7, true, 40)], true⟩
    let s := { oneCore 0 { Core.reset with csReqs := [r], amUse := [(40, laneMask 576 64, true)] } with ac := 40 }
    r.dueLine s.ac = some 576 ∧ (s.core 0).laneHeld s.ac (laneMask 576 64) = true := by decide +kernel
theorem wit_CsWrite : let s := (oneCore 0 (xiqCore 2 (csDesc 2))).setReg (.secDie 0) 0 (2 ^ 30)
    (s.xiqHead 0 2).map DynOp.desc = some (csDesc 2) ∧ s.csRefused (dieOf 0) (csDesc 2) = none ∧ s.csClosed (dieOf 0) = false ∧
    s.isList (dieOf 0) (csFrame (csDesc 2)) = false ∧ (s.core 0).amUse = [] := by decide
theorem wit_CsWriteList : let s := (oneCore 0 (xiqCore 2 (csDesc 2))).setDie 0 { Die.reset with pgm := { Pgm.reset with
      frames := [(5, ⟨1, true, 1⟩)] } }
    (s.xiqHead 0 2).map DynOp.desc = some (csDesc 2) ∧ s.csRefused (dieOf 0) (csDesc 2) = none ∧
    s.isList (dieOf 0) (csFrame (csDesc 2)) = true := by decide

theorem reset_quiet : Core.reset.Quiet := by
  refine ⟨rfl, rfl, rfl, rfl, rfl, rfl, rfl, rfl, rfl, rfl, rfl, rfl, rfl, rfl, fun f h => ?_⟩; cases h
theorem owing_core (x : Timed) (c : CoreId) : (owing x).core c = if c = 0 then { vCore with timed := [x] } else Core.reset := by
  simp only [owing, oneCore, State.core_setCore]; split <;> rfl
theorem owing_only (x : Timed) : OwesOnly (owing x) 0 x := by
  refine ⟨⟨fun l => show (State.reset.link l).state < lkProbe from (by decide : Link.reset.state < lkProbe), fun c => ?_, fun d => rfl⟩, by rw [owing_core]; rfl,
    fun c' hc => by rw [owing_core, if_neg hc]; rfl, fun c' => ?_, fun d r h => ?_, rfl, rfl⟩
  · rw [owing_core]; split <;> rfl
  · rw [owing_core]; split
    · exact ⟨rfl, rfl, rfl, rfl, rfl, rfl, rfl, rfl, rfl, rfl, rfl, rfl, rfl, rfl, fun f h => by cases h⟩
    · exact reset_quiet
  · cases h
theorem wit_Still : State.reset.Still := by
  refine ⟨⟨fun l => show (State.reset.link l).state < lkProbe from (by decide : Link.reset.state < lkProbe), fun c => rfl, fun d => rfl⟩, fun c => ⟨rfl, reset_quiet⟩,
    fun d r h => ?_, rfl, rfl⟩
  cases h
theorem wit_Timed : ∀ lost ∈ [true, false], OwesOnly (owing ⟨1, 64, lost, .out .east 0⟩) 0 ⟨1, 64, lost, .out .east 0⟩ ∧
    OpenTo (owing ⟨1, 64, lost, .out .east 0⟩) 0 .east 1 ∧ (owing ⟨1, 64, lost, .out .east 0⟩).amErr = [] ∧
    (owing ⟨1, 64, lost, .out .east 0⟩).pending = [] :=
  fun lost _ => ⟨owing_only _, ⟨by decide, by cases lost <;> decide +kernel, rfl, rfl⟩, rfl, rfl⟩
theorem wit_TimedRed : OwesOnly (owing ⟨1, 131068, false, .red .east 5⟩) 0 ⟨1, 131068, false, .red .east 5⟩ ∧
    OpenTo (owing ⟨1, 131068, false, .red .east 5⟩) 0 .east 1 ∧ (owing ⟨1, 131068, false, .red .east 5⟩).psmErr = [] :=
  ⟨owing_only _, ⟨by decide, by decide +kernel, rfl, rfl⟩, rfl⟩
theorem wit_TimedRest : OwesOnly (owing ⟨2, 0, false, .red .north 0⟩) 0 ⟨2, 0, false, .red .north 0⟩ ∧
    OwesOnly (owing ⟨1, 0, false, .msg 3⟩) 0 ⟨1, 0, false, .msg 3⟩ ∧
    OwesOnly (owing ⟨1, 0, false, .unit 4 7⟩) 0 ⟨1, 0, false, .unit 4 7⟩ ∧
    OwesOnly (owing ⟨1, 0, false, .put [5] false⟩) 0 ⟨1, 0, false, .put [5] false⟩ ∧
    OwesOnly (owing ⟨0, 0, true, .put [5] true⟩) 0 ⟨0, 0, true, .put [5] true⟩ ∧
    OwesOnly (owing ⟨0, 0, false, .put [5] true⟩) 0 ⟨0, 0, false, .put [5] true⟩ ∧
    OwesOnly (owing ⟨0, 131071, false, .sum 1 true⟩) 0 ⟨0, 131071, false, .sum 1 true⟩ :=
  ⟨owing_only _, owing_only _, owing_only _, owing_only _, owing_only _, owing_only _, owing_only _⟩

theorem wit_DmaJob : let s := oneCore 0 { dmaCore .run 0 with ops := [dmaOp .xiq] }
    s.xiqHead 0 3 = some (dmaOp .xiq) ∧ (s.dma 0 .p).phase ≠ .idle := by decide +kernel
theorem wit_DmaJobStart : let s := oneCore 0 { dmaCore .idle 0 with ops := [dmaOp .issued] }
    s.xiqHead 0 3 = none ∧ (s.dma 0 .p).phase = .idle ∧
    ((s.core 0).ops.find? fun o => o.cls == 3 && o.stage == .issued) = some (dmaOp .issued) := by decide +kernel
theorem wit_DmaFetch : let s := (ownedDma .fetch 0).setReg (.dma 0) (0x8000 + 60) (2 ^ 28)
    (s.dma 0 .q).phase = .fetch ∧ (s.dma 0 .q).since ≤ s.ac ∧ dOp (s.descEntry 0 (s.dma 0 .q).idx.toNat).toNat = 1 ∧
    descFault (s.descEntry 0 (s.dma 0 .q).idx.toNat).toNat = false := by decide +kernel
theorem wit_DmaFetchFault : let s := (ownedDma .fetch 0).setReg (.dma 0) (0x8000 + 60) (2 ^ 28 + 7 * 2 ^ 22)
    dOp (s.descEntry 0 (s.dma 0 .q).idx.toNat).toNat = 1 ∧
    descFault (s.descEntry 0 (s.dma 0 .q).idx.toNat).toNat = true := by decide +kernel
/-- The engine of core 0 runs descriptor `d`; its channels hold chunk `h` of a comparison. -/
def chunkState (d : BitVec 512) (h : Option (List Byte × Bool)) : State :=
  (oneCore 0 { Core.reset with dmaP := { Dma.reset with phase := .run, desc := d, half := h }
                               dmaQ := { Dma.reset with phase := .run, desc := d, half := h } }).setReg (.secDie 0) 0 (2 ^ 30)
theorem wit_DmaChunk : ∀ op ∈ [opCopy, opFill, opCompare], let s := chunkState (amDesc op) none
    let k := s.dma 0 .p
    ChunkReady s 0 .p op ∧ k.half = none ∧ dSerial k.desc.toNat = false ∧ dSrcSpace k.desc.toNat = spAm ∧
    chunkSrc k = (64 : Nat) ∧ chunkDst k = (0 : Nat) ∧ ChunkAt k.desc.toNat 64 ∧ ChunkAt k.desc.toNat 0 ∧
    (laneMask 64 8 &&& laneMask 0 8) = 0 ∧ anyLine (s.amPois 0) 0 8 = false ∧ anyLine (s.amPois 0) 64 8 = false := by
  unfold ChunkReady ChunkAt QuietAm; decide +kernel
/-- Q runs while P is idle. -/
theorem wit_DmaChunkQ : let s := (chunkState (amDesc opCopy) none).onCore 0 fun k => { k with dmaP := Dma.reset }
    ChunkReady s 0 .q opCopy ∧ s.putsDone 0 .q = true ∧ s.shareDone 0 = true := by
  unfold ChunkReady QuietAm; decide +kernel
/-- A comparison of two chunks in the same lanes, and one whose source is read. -/
theorem wit_DmaHalf : let d := BitVec.ofNat 512 (opCompare * 2 ^ 508 + 16384 * 2 ^ 400 + 5 * 2 ^ 128)
    let s := chunkState d none
    ChunkReady s 0 .p opCompare ∧ chunkSrc (s.dma 0 .p) = (16384 : Nat) ∧ chunkDst (s.dma 0 .p) = (0 : Nat) ∧
    (laneMask 16384 8 &&& laneMask 0 8) ≠ 0 ∧
    ChunkReady (chunkState d (some ([1], false))) 0 .p opCompare ∧
    ((chunkState d (some ([1], false))).dma 0 .p).half = some ([1], false) := by
  unfold ChunkReady QuietAm; decide +kernel
theorem wit_DmaPut : let p : LanePut := ⟨.p, 0, 64, [1, 2, 3, 4, 5, 6, 7, 8], false⟩
    let s := oneCore 0 { Core.reset with dmaPuts := [p] }
    p ∈ (s.core 0).dmaPuts ∧ p.due ≤ s.ac ∧ (s.core 0).amUse = [] ∧
    ({ p with data := [1] } : LanePut).data.length % 8 ≠ 0 := by decide +kernel
theorem wit_DmaDone : ∀ ch ∈ [Chan.p, Chan.q], let s := ownedDma .done (amDesc opCopy)
    (s.dma 0 ch).phase = .done ∧ s.putsDone 0 ch = true ∧ dDstSpace (s.dma 0 ch).desc.toNat ≠ spWs ∧
    dOp (s.dma 0 ch).desc.toNat ≠ opCompare ∧ dSig (s.dma 0 ch).desc.toNat = false ∧ ¬Issued s 0 := by
  unfold Issued; decide +kernel
theorem wit_DmaDoneSignals : dSig (BitVec.ofNat 512 (2 ^ 499)).toNat = true ∧
    ((ownedDma .done (BitVec.ofNat 512 (2 ^ 499))).core 0).sem (dSem (BitVec.ofNat 512 (2 ^ 499)).toNat) < 0xFFFF := by
  decide +kernel
theorem wit_DmaCompared : let s := ownedDma .done (amDesc opCompare)
    (s.dma 0 .p).phase = .done ∧ s.putsDone 0 .p = true ∧ dOp (s.dma 0 .p).desc.toNat = opCompare ∧
    (s.dma 0 .p).mismatch = none := by decide +kernel
theorem wit_DmaLink : let s := ownedDma .link (amDesc opCopy)
    (s.dma 0 .p).phase = .link ∧ (s.dma 0 .p).since ≤ s.ac ∧ (s.dma 0 .q).phase = .link ∧ (s.dma 0 .q).since ≤ s.ac ∧
    linkEoc (s.linkWord 0 (s.dma 0 .p).idx.toNat) = false ∧ (s.dma 0 .p).started < 64 ∧ s.reg (.dma 0) 0x14 % 2 = 0 ∧
    linkEoc ((s.setReg (.dma 0) 0x8000 (2 ^ 15)).linkWord 0 0) = true := by decide +kernel

theorem block_is {s d ty h body cs} (e : hasBlock s d ty h body cs = true) : ∃ t, BlockIs s d ty h body cs t := by
  unfold hasBlock at e
  split at e
  · rename_i h' b' t q
    simp only [Bool.and_eq_true, beq_iff_eq] at e
    obtain ⟨⟨⟨rfl, rfl⟩, e1⟩, e2⟩ := e
    exact ⟨t, q, e1, e2⟩
  · cases e
theorem wit_ProgramBlock : [(7 : Line)] ≠ [] ∧ ∃ t, BlockIs (queued [header 1 1, 7]) 0 1 (header 1 1).toNat [7] [5] t := ⟨by decide, block_is (by decide +kernel)⟩
theorem wit_ProgramFits : loadIndex (queued [header 1 1, 7]) 5 + 2 ≤ 1024 := by decide +kernel
theorem wit_ProgramOver : let s := (queued [header 1 1, 7]).setCore 5 { Core.reset with banks := [(1, ⟨false, 0, 1023, 0⟩)] }
    (∃ t, BlockIs s 0 1 (header 1 1).toNat [7] [5] t) ∧ 1024 < loadIndex s 5 + 2 := ⟨block_is (by decide +kernel), by decide +kernel⟩
theorem wit_StreamBlock : (∃ t, BlockIs (queued [header 2 1, 7]) 0 2 (header 2 1).toNat [7] [5] t) ∧
    rulesBad (rulesOf [7]) = false ∧ 1 = 1 + ceilDiv (stRules (line0 [7])) 4 ∧ stRules (line0 [7]) ≤ 8 :=
  ⟨block_is (by decide +kernel), by decide +kernel⟩
/-- A STREAM block of two lines whose first names no rule, and one of four lines that names nine. -/
theorem wit_StreamLength : ∀ body ∈ [[(7 : Line), 7], [BitVec.ofNat 512 (9 * 2 ^ 506), 0, 0, 0]],
    (∃ t, BlockIs (queued (header 2 body.length :: body)) 0 2 (header 2 body.length).toNat body [5] t) ∧
    (body.length ≠ 1 + ceilDiv (stRules (line0 body)) 4 ∨ 8 < stRules (line0 body)) := by
  intro body h; refine ⟨block_is ?_, ?_⟩ <;> revert body <;> decide +kernel
theorem wit_StreamBad : let body : List Line := [BitVec.ofNat 512 (2 ^ 506), BitVec.ofNat 512 (255 + 2 ^ 8)]
    (∃ t, BlockIs (queued (header 2 2 :: body)) 0 2 (header 2 2).toNat body [5] t) ∧
    rulesBad (rulesOf body) = true ∧ 2 = 1 + ceilDiv (stRules (line0 body)) 4 ∧ stRules (line0 body) ≤ 8 := ⟨block_is (by decide +kernel), by decide +kernel⟩
theorem wit_StreamPush : let b : Block := ⟨5 * 2 ^ 32, [7], 0, false, true⟩
    let s := (State.reset.setReg (.secDie 0) 0 (2 ^ 30)).setDie 0 { Die.reset with block := some b }
    (s.die 0).pushAc ≤ s.ac ∧ s.streamNext 0 = some (b, 5, 0, 7) ∧ s.qFull 5 qMSQ = false ∧ (s.core 5).skips = [] := by
  decide +kernel
theorem wit_WindowPush : let s := State.reset.setDie 0 { Die.reset with push := some (true, 5, 3, 0) }
    (s.die 0).pushAc ≤ s.ac ∧ s.streamNext 0 = none ∧ (s.die 0).push = some (true, 5, 3, 0) ∧
    s.qFull (coreOf 0 (Fin.ofNat 64 5)) qXSQ = false ∧ (s.core (coreOf 0 (Fin.ofNat 64 5))).skips = [] := by decide +kernel
/-- A state whose queue XSQ of core 5 is full while a window push waits for it. -/
def fullXsq : State := (State.reset.setDie 0 { Die.reset with push := some (true, 5, 3, 0) }).setCore 5
  (Core.reset.setQueue qXSQ (List.replicate 16 ⟨0, false, 0, 0, false⟩))
theorem wit_WindowFull : fullXsq.qFull (coreOf 0 (Fin.ofNat 64 5)) qXSQ = true ∧ fullXsq.streamNext 0 = none := by decide +kernel
theorem wit_Ccdone : (State.reset.fld (.cqDie 0) 0x60 0 0 = 0 ∧ State.reset.fld (.cqDie 0) 0xA0 31 31 = 0) ∧
    (State.reset.setReg (.cqDie 0) 0x60 1).fld (.cqDie 0) 0x60 0 0 = 1 ∧
    (State.reset.setReg (.cqDie 0) 0xA0 (2 ^ 31)).fld (.cqDie 0) 0xA0 31 31 = 1 := by decide
theorem wit_Fence : hasBlock (queued [header 4 0]) 0 4 (header 4 0).toNat [] [5] = true ∧
    ((queued [header 4 0]).die 0).push = none := by decide +kernel
/-- A FENCE that names core 0x3C5, whose die the module has not. -/
theorem wit_FenceCore : let h : Line := BitVec.ofNat 512 (2 ^ 42 + 0x3C5 * 2 ^ 32 + 3 * 2 ^ 16 + 4)
    (match (queued [h]).nextBlock 0 with
      | some (h', _, t) => decide (hType h' = 4) && (t.targets 0 h').isNone
      | none => false) = true := by decide +kernel
theorem wit_Launch : let s := { queued [header 3 1, 7] with mod := { Mod.reset with leaseUntil := 9 } }
    (∃ t, BlockIs s 0 3 (header 3 1).toNat [7] [5] t) ∧
    (s.ctx (hCtx (header 3 1).toNat)).nextPeal = none ∧ s.car < bits (7 : Line).toNat 63 0 ∧ s.car < s.mod.leaseUntil :=
  ⟨block_is (by decide +kernel), by decide +kernel⟩
theorem wit_LaunchLate : (∃ t, BlockIs (queued [header 3 1, 0]) 0 3 (header 3 1).toNat [0] [5] t) ∧
    bits (0 : Line).toNat 63 0 ≤ (queued [header 3 1, 0]).car := ⟨block_is (by decide +kernel), by decide +kernel⟩
theorem wit_BankCopy : let s := (State.reset.setReg (.meshDie 0) 0 0xFFFFFFF7).setDie 0 { Die.reset with armed := some ⟨0, 0, 0, 0, false⟩ }
    s.remapOwed 0 = [(0, 7)] ∧ s.bankUce (coreOf 0 7) = false ∧
    ({ s with pmErr := [(7 * 2048, .uce)] } : State).bankUce (coreOf 0 7) = true := by decide +kernel

theorem wit_Arrived : ∀ e ∈ [true, false], let s := inStep running { Core.reset with ended := e, endedAt := 5, arrivals := if e then [] else [9] }
    ((s.ctx 0).active = true ∧ (s.ctx 0).stepWave = false ∧ s.coresOfCtx 0 ≠ [] ∧
      ∀ c ∈ s.coresOfCtx 0, ((s.core c).arrivedAt (s.ctx 0).gongsDone).isSome = true) ∧ s.allEnded (s.coresOfCtx 0) = e ∧
    maxNat (((s.coresOfCtx 0).map fun c => (s.core c).arrivedAt (s.ctx 0).gongsDone).filterMap id) + 20 ≤ s.ac := by decide +kernel
theorem wit_GongRelease : let s := inStep { running with releaseAt := some 40 } { Core.reset with mode := .slack, hold := holdGong };
    (s.ctx 0).releaseAt = some 40 ∧ (0 : CoreId) ∈ s.coresOfCtx 0 ∧ (s.core 0).hold = holdGong := by decide +kernel
theorem wit_GongSum : let s := inContext { running with gtchild := 4, stepWave := true, summary := some (summaryOf 0) }
    (s.ctx 0).gtchild.getLsbD 2 = true ∧ (s.ctx 0).isRoot = true ∧ (s.ctx 0).childLinks = [2] ∧ (s.ctx 0).mergedAt = none := by decide +kernel
theorem wit_GongTimeout : let s := { inContext { running with gtchild := 4, waveDoneAt := some 0 } with now := 10 ^ 15 }
    (s.ctx 0).missing = [2] ∧ s.over 0 s.fabTimeout = true ∧ (s.ctx 0).waveDoneAt = some 0 := by decide +kernel
theorem wit_FaultReport : let s := { inContext { running with mergedAt := some 0 } with now := 10 ^ 15 }
    (s.ctx 0).isRoot = true ∧ s.reportsLate 0 = true ∧ s.self ∈ s.modulesOf 0 := by decide +kernel
theorem wit_StepLaunch : let s := (inContext CtxState.reset).setDie 0 { Die.reset with armed := some ⟨0, 0, 0, 3, true⟩ };
    s.diesOf 0 = [0] ∧ s.ready 0 0 = some ⟨0, 0, 0, 3, true⟩ ∧ (s.ctx 0).active = false ∧
    creditsBad ((s.coresOfCtx 0).flatMap fun c => (s.chansOf 0 c).map Prod.snd) = false ∧
    (∀ c ∈ s.coresOfCtx 0, s.chansOf 0 c = []) ∧ 0 ≤ s.car := by decide +kernel
theorem wit_LaunchActive : let s := (inContext running).setDie 0 { Die.reset with armed := some ⟨0, 0, 0, 3, true⟩ };
    (s.die 0).armed = some ⟨0, 0, 0, 3, true⟩ ∧ (0 : Word64).toNat ≤ s.car ∧ (s.ctx 0).active = true := by decide +kernel
theorem wit_LaunchApart : let s := ((inContext CtxState.reset).setReg (.secDie 1) 0 (2 ^ 30)).setDie 0 { Die.reset with armed := some ⟨0, 0, 0, 3, true⟩ };
    s.diesOf 0 = [0, 1] ∧ s.ready 0 1 = none ∧ (s.ctx 0).active = false ∧ (s.die 0).armed = some ⟨0, 0, 0, 3, true⟩ := by decide +kernel
theorem wit_StepDecide : ∀ k ∈ [0, 4], ∀ o ∈ [true, false], let f : Byte := BitVec.ofNat 8 k; let s := inContext { running with mergedAt := some 0, summary := some (summaryOf f), reported := [0xFFFF], fencedOpen := o };
    (s.ctx 0).mergedAt.isSome = true ∧ s.leased = true ∧ (s.ctx 0).reported = [0xFFFF] ∧ (s.ctx 0).ranks = [] ∧
    ((s.ctx 0).merged (summaryOf f)).clean = (f == 0) ∧ (s.ctx 0).fencedOpen = o ∧ s.withdrawnOf 0 = [] ∧
    2 ≤ replayLimit s.mod.policy := by decide +kernel
theorem modules_alone (s : State) (x : Ctx) (h : (s.ctx x).ranks = []) : s.modulesOf x = [s.self] := by
  simp [State.modulesOf, h]
theorem wit_DecideSelf (k : CtxState) : (inContext k).self = 0xFFFF := by
  have h : (inContext k).reg .fab 0x08 = (State.reset.setReg (.secDie 0) 0 (2 ^ 30)).reg .fab 0x08 := by simp [inContext]
  unfold State.self; rw [h]; decide +kernel
theorem wit_DecideKeys : (CtxState.reset.merged ⟨0, 1, 2, 1⟩).keyLo ≠ (CtxState.reset.merged ⟨0, 1, 2, 1⟩).keyHi := by decide
theorem wit_StepActions : ∀ d ∈ [decCommit, decReplay, decReport], let s := inContext { running with notice := some (noticeOf d) }
    s.dueAction 0 d = some (noticeOf d) ∧ s.leased = true ∧ s.chainFull (s.ctxEncl 0) = false := by decide +kernel
/-- A chain of enclave 0 with `n` entries that are not acknowledged. -/
def chainOf (n : Nat) (k : CtxState) : State := { inContext k with
  chains := [(0, { Chain.reset with entries := List.replicate n ⟨[], 0, false, none, 0⟩ })] }
theorem chainOf_chains (n : Nat) (k : CtxState) :
    (chainOf n k).chains = [(0, { Chain.reset with entries := List.replicate n ⟨[], 0, false, none, 0⟩ })] := rfl
theorem chainOf_entries (n : Nat) (k : CtxState) :
    ((chainOf n k).chain 0).entries = List.replicate n ⟨[], 0, false, none, 0⟩ := by
  unfold State.chain; rw [chainOf_chains]; rfl
theorem full_of (n : Nat) (s : State) (h : unackedMax ≤ n)
    (e : (s.chain 0).entries = List.replicate n ⟨[], 0, false, none, 0⟩) : s.chainFull 0 = true := by
  unfold State.chainFull
  rw [e, List.length_replicate]; exact decide_eq_true h
theorem wit_ChainFull (k : CtxState) : (chainOf unackedMax k).chainFull 0 = true :=
  full_of _ _ (Nat.le_refl _) (chainOf_entries _ k)

theorem wit_PagerOpen : let s := State.reset.setDie 0 { Die.reset with pgm := { Pgm.reset with cmds := [cmdWord 1 7] } }
    HeadCmd s 0 1 (cmdWord 1 7) ∧ seqValid (seqOf s 0 (cmdWord 1 7)) = false ∧ cmdArg (cmdWord 1 7) < 2 ^ 20 ∧ s.room 0 1 0 false = none := by
  unfold HeadCmd; decide +kernel
theorem wit_PagerAppend : let s := pager 2 1 (seqWord 5 0 0) 1 true
    let e := seqOf s 0 (cmdWord 2 1)
    HeadCmd s 0 2 (cmdWord 2 1) ∧ seqValid e = true ∧ cmdArg (cmdWord 2 1) = 1 ∧ seqBase e + seqPages e + 1 ≤ 2 ^ 20 ∧
    seqRoot e < s.frames 0 ∧ seqPages e % s.listLen 0 = 0 ∧
    s.room 0 (1 + ((List.range 1).filter fun i => (seqPages e + i) % s.listLen 0 == 0).length) 0 false = none := by
  unfold HeadCmd; decide +kernel
theorem wit_PagerShare : let s := State.reset.setDie 0 { Die.reset with pgm := { Pgm.reset with cmds := [cmdWord 3 (2 ^ 22 + 1)], seqs := [(0, seqWord 5 0 1), (1, seqWord 6 0 0)], frames := [(0, ⟨1, false, 1⟩)], fresh := 7 } }
    let g := (s.pgm 0).seq (cmdD (cmdWord 3 (2 ^ 22 + 1)))
    let e := seqOf s 0 (cmdWord 3 (2 ^ 22 + 1))
    HeadCmd s 0 3 (cmdWord 3 (2 ^ 22 + 1)) ∧ cmdD (cmdWord 3 (2 ^ 22 + 1)) = 1 ∧ cmdArg (cmdWord 3 (2 ^ 22 + 1)) = 1 ∧
    seqValid e = true ∧ seqValid g = true ∧ seqPages g = 0 ∧ seqBase g = seqBase e ∧ 1 ≤ seqPages e ∧
    seqRoot g < s.frames 0 ∧ s.pageOk 0 e 0 = true ∧ s.pageFrame 0 e 0 = 0 ∧ ((s.pgm 0).frameOf 0).count + 1 ≤ 65535 ∧
    s.room 0 (ceilDiv 1 (s.listLen 0)) 1 false = none := by unfold HeadCmd; decide +kernel
theorem wit_PagerCow : ∀ n ∈ [1, 2], let s := State.reset.setDie 0 { Die.reset with pgm := { Pgm.reset with cmds := [cmdWord 4 0], seqs := [(0, seqWord 5 0 1)], frames := [(0, ⟨1, false, n⟩)], fresh := 7 } }
    let e := seqOf s 0 (cmdWord 4 0)
    HeadCmd s 0 4 (cmdWord 4 0) ∧ seqValid e = true ∧ cmdArg (cmdWord 4 0) < seqPages e ∧
    s.pageOk 0 e (cmdArg (cmdWord 4 0)) = true ∧ s.pageFrame 0 e 0 = 0 ∧ ((s.pgm 0).frameOf 0).count = n ∧
    s.room 0 0 0 false = none ∧ s.room 0 1 1 false = none ∧ (s.pgm 0).pop.1 ≠ 0 := by unfold HeadCmd; decide +kernel
theorem wit_PagerTrunc : ∀ op ∈ [5, 6], let s := State.reset.setDie 0 { Die.reset with pgm := { Pgm.reset with cmds := [cmdWord op 0], seqs := [(0, seqWord 5 0 0)], frames := [(5, ⟨1, true, 1⟩)], fresh := 7 } }
    let e := seqOf s 0 (cmdWord op 0)
    HeadCmd s 0 op (cmdWord op 0) ∧ seqValid e = true ∧ cmdArg (cmdWord op 0) ≤ seqPages e ∧ seqRoot e < s.frames 0 ∧
    s.truncOk 0 e 0 = true ∧ s.truncFrames 0 e 0 = [] ∧ s.room 0 0 0 ((s.pgm 0).under []) = none ∧
    s.room 0 0 1 ((s.pgm 0).under [5]) = none := by
  unfold HeadCmd; decide +kernel
theorem wit_PagerRef : ∀ op ∈ [7, 8], let s := pager op 5 0 1 false
    HeadCmd s 0 op (cmdWord op 5) ∧ s.refOk 0 5 = true ∧ ((s.pgm 0).frameOf 5).count < 65535 ∧
    s.room 0 0 1 false = none := by unfold HeadCmd; decide +kernel
theorem wit_PagerEnd : ∀ op ∈ [14, 15, 9], let s := pager op 0 0 1 false
    HeadCmd s 0 op (cmdWord op 0) ∧ opReserved 9 = true := by unfold HeadCmd; decide +kernel
theorem wit_PagerInit : let s := State.reset.setDie 0 { Die.reset with pgm := { Pgm.reset with initReq := true } }
    (s.pgm 0).initReq = true ∧ (s.pgm 0).inUse = false ∧ ((pager 0 0 0 1 false).pgm 0).inUse = true := by decide +kernel

theorem wit_Retire : retireRefused Core.reset.retired 1 5 32 = false ∧ retireRefused Core.reset.retired 1 12288 32 = true ∧
    retireRefused Pgm.reset.retired 1 5 64 = false ∧ retireRefused Pgm.reset.retired 1 12288 64 = true ∧
    State.reset.fld (.mx 0) 0x60 31 31 = 0 ∧ State.reset.fld (.pgm 0) 0x50 31 31 = 0 ∧
    (State.reset.setReg (.mx 0) 0x60 (2 ^ 31)).fld (.mx 0) 0x60 31 31 = 1 ∧
    (State.reset.setReg (.pgm 0) 0x50 (2 ^ 31)).fld (.pgm 0) 0x50 31 31 = 1 := by decide +kernel
theorem wit_RowSwitch : let s := State.reset.setCore 0 { Core.reset with retiring := some ⟨0, 5, 1, 128, false⟩ }
    (s.core 0).retiring = some ⟨0, 5, 1, 128, false⟩ ∧ (s.arr 0).shadow ≠ .loading ∧ wsCopyLen ≤ 128 ∧ inRow 1 0 5 = false := by decide +kernel
theorem wit_RowSwitchPgm : let s := State.reset.setDie 0 { Die.reset with pgm := { Pgm.reset with retiring := some ⟨0, 5, 1, 256, false⟩ } }
    (s.pgm 0).retiring = some ⟨0, 5, 1, 256, false⟩ ∧ csCopyLen ≤ 256 ∧ Store.get 0 (s.die 0).xfree 0 ≤ s.ac := by decide +kernel
/-- A copy of a row that has just begun. -/
theorem wit_RowCopying : let s := (State.reset.setCore 0 { Core.reset with retiring := some ⟨0, 5, 1, 0, false⟩ }).setDie 0 { Die.reset with pgm := { Pgm.reset with retiring := some ⟨0, 5, 1, 0, false⟩ } }
    (s.core 0).retiring = some ⟨0, 5, 1, 0, false⟩ ∧ 0 < wsCopyLen ∧ (s.pgm 0).retiring = some ⟨0, 5, 1, 0, false⟩ ∧
    0 < csCopyLen := by decide +kernel
/-- Die 0 is not clearing. -/
theorem wit_Scrub : let s := { State.reset.setReg (.secDie 0) 0 0 with ac := 63 }
    s.scrubStops (dieOf 0) = false ∧ s.shareFree 0 = true ∧ (s.core 0).amUse = [] ∧
    (s.aboveScrub 0 &&& laneMask (8 * (s.core 0).amScrub) 8) = 0 ∧ s.ac % 64 = 63 ∧ (s.core 0).psmScrubAt ≤ s.ac ∧
    s.vBank 0 5 = false ∧ State.reset.scrubStops (dieOf 0) = true ∧ s.copyTurn 0 5 = false ∧
    Store.get 0 (s.die 0).xfree 5 ≤ s.ac ∧ s.reservedNc = false ∧ s.sliceWaits 0 5 = false := by decide +kernel
theorem wit_ScrubBank : let s := { oneCore 0 { Core.reset with psmNow := [⟨63, 0, .vread, 0, false, []⟩] } with ac := 63 }
    s.vBank 0 5 = true ∧ (State.reset.setCore 0 { Core.reset with wsFree := 5 }).shareFree 0 = false := by decide +kernel
theorem wit_WsWrite : let s := State.reset.setCore 0 { Core.reset with wsPend := [⟨4, [1, 2], false⟩] }
    (s.core 0).wsPend = [⟨4, [1, 2], false⟩] ∧ s.shareFree 0 = true := by decide +kernel
theorem wit_Assign : let s := ((State.reset.setReg (.secDie 0) 0 0).onMod fun m => { m with enclavePlan := [(2, 1, 0, 4)] })
    s.planAllows 0 2 = true ∧ s.joins 7 0 = true ∧ s.joins 7 5 = false ∧ s.dieState 0 = dieClean ∧ s.scanOpen = false := by
  decide +kernel
theorem wit_AssignOrder : let s := (State.reset.onMod fun m => { m with enclavePlan := [(2, 1, 0, 4)] })
    s.planAllows 0 2 = true ∧ s.joins 7 0 = true ∧ s.dieState 0 ≠ dieClean := by decide +kernel
theorem wit_Release : (State.reset.setReg (.secDie 0) 0 (2 ^ 30)).dieState 0 = dieOwned ∧
    State.reset.dieState 0 = dieClearing ∧ State.reset.mod.draining = none ∧ remapLegal 0xFFFFFFFF = true ∧ remapLegal 9 = false := by
  decide +kernel
/-- Every die is clean. -/
def cleanDies : State := (List.finRange 12).foldl (fun s d => s.setReg (.secDie d) 0 0) State.reset
theorem wit_DrainsWithdrawDies : (∀ d, cleanDies.dieState d ≠ dieOwned ∧ cleanDies.dieState d ≠ dieClearing) ∧
    cleanDies.stage ≠ stRecovery := by decide +kernel
def unsignedEntry : Receipt := ⟨[4], 0, true, none, 0⟩
theorem wit_SignAppend : let s := (State.reset.setChain 2 { Chain.reset with entries := [unsignedEntry], since := some 0 }).onMod fun m => { m with carillon := 10 ^ 9 }
    (s.chain 2).since = some 0 ∧ 1000000000 ≤ s.car ∧ 0 < (s.chain 2).next ∧ (s.chain 2).entries = [unsignedEntry] ∧
    unsignedEntry.sign = true ∧ unsignedEntry.signature = none := by decide +kernel

theorem wit_CcReady : (∀ rs ∈ [[], [1], [1, 2]], CcReady State.reset 0 rs) ∧ (State.reset.die 0).stbuf = [] ∧ (State.reset.die 0).epc.toNat % 4 = 0 ∧
    State.reset.irqReady 0 = 0 := by unfold CcReady; decide +kernel
/-- EX is taken by the instruction before, register 1 is not ready, and an interrupt comes first. -/
theorem wit_CcWaits : let busy : Die := { Die.reset with exFrom := 3 }
    let late : Die := Die.reset.readyAt 1 36
    let s := ((ccState 0 0 0).setReg (.cqDie 0) 0x48 4).setReg (.cqDie 0) 0x4C 4
    ccReads 0 (.ccMultiply 0 .mul 3 1 2) = some [1, 2] ∧ busy.mayEnter 0 [] = false ∧ late.mayEnter 0 [1, 2] = false ∧
    late.mayEnter 36 [1, 2] = true ∧ s.irqFirst 0 = true := by decide +kernel
theorem wit_CcInt : ccInt .shl 1 3 = some 8 ∧ ccInt .shl 1 64 = none ∧ ccDiv .div 7 2 = some 3 ∧
    ccDiv .div (BitVec.twoPow 64 63) (BitVec.allOnes 64) = none := by decide +kernel
theorem wit_CcLoad : ccBad 0x10000008 8 false = none ∧ ccPlace 0x10000008 = .dram ∧ Die.reset.newest 0x10000008 8 = none ∧
    ({ Die.reset with stbuf := [⟨0x10000008, 8, 5, 0⟩] } : Die).newest 0x10000008 4 = some ⟨0x10000008, 8, 5, 0⟩ ∧
    StEntry.covers ⟨0x10000008, 8, 5, 0⟩ 0x10000008 4 = true ∧ ccBad 0x10000001 8 false = some 1 ∧ ccBad 0 8 true = some 2 ∧
    ccBad 0x10000008 8 true = none := by decide +kernel
theorem wit_StoreDrain : let s := State.reset.setDie 0 { Die.reset with stbuf := [⟨0x10000008, 8, 5, 0⟩] }
    (s.die 0).stbuf = [⟨0x10000008, 8, 5, 0⟩] ∧ ccPlace 0x10000008 = .dram ∧ max 0 (s.die 0).stFree ≤ s.ac ∧
    s.ac + 1 < max 0 ((s.setDie 0 { Die.reset with stFree := 4 }).die 0).stFree + drainTime 0 0x10000008 := by decide +kernel
theorem wit_Branch : ccTaken .eq 1 1 = true ∧ ccTaken .eq 1 2 = false ∧ ((State.reset.die 0).pc + 8).toNat % 4 = 0 := by decide +kernel
theorem wit_Interrupt : let s := ((ccState 0 0 0).setReg (.cqDie 0) 0x48 4).setReg (.cqDie 0) 0x4C 4
    lowestBit (s.irqReady 0) = some 2 ∧ (s.die 0).ie = true ∧ (s.die 0).halted = false ∧ (s.die 0).exFrom ≤ s.ac := by decide +kernel
theorem wit_Timer : (State.reset.die 0).timerDone = false ∧
    State.reset.reg (.cqDie 0) 0x58 + State.reset.reg (.cqDie 0) 0x5C * 2 ^ 32 ≤ 2 ^ 64 - 1 := by decide +kernel
theorem wit_TimerMet : let s := (State.reset.setReg (.cqDie 0) 0x58 5).setReg (.cqDie 0) 0x5C 0
    s.reg (.cqDie 0) 0x58 + s.reg (.cqDie 0) 0x5C * 2 ^ 32 ≤ (s.onMod fun m => { m with carillon := 9 }).car := by decide +kernel
theorem wit_Long : let s := ccState 0x10000000 0x10000100 64
    LongReady s 0 [1, 2, 3] ∧ rangeBad ((s.die 0).gnat 1) ((s.die 0).gnat 3) = none ∧ rangeBad ((s.die 0).gnat 2) ((s.die 0).gnat 3) = none ∧
    (s.die 0).gnat 1 + (s.die 0).gnat 3 ≤ (s.die 0).gnat 2 ∧ rangeBad ((s.die 0).gnat 2) 256 = none ∧
    (s.die 0).gnat 2 % 256 = 0 ∧ s.dgFill 0 ((s.die 0).gnat 2) = 0 := by unfold LongReady CcReady; decide +kernel
theorem wit_DigestFull : let s := { ccState 0x10000000 0x10000100 64 with dram := [(0x1D0, 64)] }
    s.dgFill 0 ((s.die 0).gnat 2) = 64 := by decide +kernel

theorem wit_CarLoad : (carAt 0 true).carSource = true ∧ (carAt 0 true).carState = carUnlocked ∧
    (carAt 2 true).carState ≠ carUnlocked ∧ (carAt 0 true).fld .clk 0x0C 31 31 = 0 ∧
    ((carAt 0 true).setReg .clk 0x0C (2 ^ 31)).fld .clk 0x0C 31 31 = 1 := by decide +kernel
theorem wit_TsTimer : let s := { carAt 2 false with now := 10 ^ 9, links := [(3, { Link.reset with stat := 0xC0000000 })] }
    s.carParent = some 3 ∧ s.discipline = true ∧ s.carSource = false ∧ 10 ≤ s.sinceUs s.mod.tsAt ∧ lkProbe ≤ (s.link 3).state := by
  decide +kernel
theorem wit_TsRsp : ∀ st ∈ [carUnlocked, carAcquire, carLocked, carHoldover], let s := carAt st false
    (s.carSource = false ∧ s.discipline = true ∧ s.carParent = some 3 ∧ (0 : Byte) = s.mod.tsSeq ∧ (0 : Word64) = s.mod.txTs) ∧
    s.carState = st ∧ twiceOffset 0 0 0 0 = 0 ∧ twiceOffset 0 20000 0 0 = 20000 := by decide +kernel
theorem wit_TsLoss : let s := { carAt 2 false with now := 10 ^ 12 }
    s.carState = carLocked ∧ 100 ≤ s.sinceUs s.mod.carLastAt ∧ ({ carAt 3 false with now := 10 ^ 12 } : State).carState = carHoldover ∧
    10000 ≤ s.sinceUs s.mod.carHoldAt := by decide +kernel
theorem wit_Census : 100000 ≤ ({ State.reset with now := 10 ^ 12 } : State).sinceUs State.reset.mod.lastCensus ∧
    (0 : Word64).toNat = State.reset.cfgDigest8 ∧ (1 : Word64).toNat ≠ State.reset.cfgDigest8 := by decide +kernel
theorem wit_Lease : let s := State.reset.onMod fun m => { m with leaseUntil := 5, carillon := 9 }
    s.mod.leaseUntil ≠ 0 ∧ s.leased = false ∧ s.mod.fenced = false := by decide +kernel
theorem wit_Exclude : let s := State.reset.onMod fun m => { m with missed := [(7, 1)], carillon := 10 ^ 9, leaseUntil := 10 ^ 10, quorumNow := true }
    s.leased = true ∧ (7 : Endpoint) ≠ s.self ∧ 1 + s.tLease + 10000000 ≤ s.car + 1 ∧ Store.get 0 s.mod.missed 7 = 1 := by decide +kernel
theorem wit_Query : let s := { State.reset.onMod fun m => { m with queries := [(7, 1)], leaseUntil := 10 ^ 10 } with now := 10 ^ 12 }
    Store.get 0 s.mod.queries 7 = 1 ∧ 1 + 100000000 ≤ s.now + 1 ∧ s.reaches 7 = false ∧ s.leased = true ∧ s.mod.askers = [] := by decide +kernel

theorem wit_OpArm : let s := State.reset.setReg .clk 0x40 0xF
    s.fld .clk 0x44 31 31 = 0 ∧ s.usable 1 = true ∧ (State.reset.setReg .clk 0x40 0).usable 1 = false ∧
    (s.setReg .clk 0x44 (2 ^ 31)).fld .clk 0x44 31 31 = 1 := by decide +kernel
theorem wit_OpSwitch : let s := State.reset.onMod fun m => { m with opArmed := some (1, 0), powerCapPt := some 2 }
    s.mod.opArmed = some (1, 0) ∧ 0 ≤ s.car ∧ s.ac % 2 = 0 ∧ s.mod.cap = some 2 := by decide +kernel
theorem wit_P10 : State.reset.mod.powerCapPt ≠ some 3 ∧ msSince State.reset.now State.reset.mod.lastMove = true ∧
    5400 < (6000 : BitVec 16).toNat ∧ State.reset.powerCap ≤ 5400 ∧ (4000 : BitVec 16).toNat ≤ 4800 ∧
    99 ≤ (State.reset.onMod fun m => { m with lowSamples := 99 }).mod.lowSamples := by decide +kernel
theorem wit_Thermal : unitOk 3 = true ∧ State.reset.mod.thermalCapPt ≠ some 3 ∧ 420 ≤ (430 : BitVec 10).toNat ∧
    460 ≤ (470 : BitVec 10).toNat ∧ (∃ n ∈ List.range 64, sensorUnit n = some 3) := by decide +kernel
theorem wit_ThermalClear : let s := { State.reset.onMod fun m => { m with thermalCapPt := some 2, units := [(3, 380, 5, false)] } with now := 10 ^ 12 }
    s.mod.thermalCapPt ≠ none ∧ (∀ u ∈ s.mod.units, u.2.1 ≤ 400) ∧ 10000 ≤ s.sinceUs s.mod.coolAt := by decide +kernel
theorem wit_PowerCap : let s := (State.reset.setReg .clk 0x40 0xF).setReg .pwr 0x08 100
    s.powerCap < (200 : BitVec 16).toNat ∧ s.agreed < 3 ∧ s.fld .clk 0x44 31 31 = 0 ∧
    s.usable (s.agreed + 1) = true := by decide +kernel
/-- A second move of the power cap within a second. -/
theorem wit_PowerSteady : let s := (State.reset.setReg .clk 0x40 0xF).onMod fun m => { m with moves := [0] }
    s.mod.powerCapPt ≠ some 3 ∧ msSince s.now s.mod.lastMove = true ∧ s.mod.moves = [0] ∧ s.car - 0 ≤ 1000000000 ∧
    s.agreed ≠ max s.agreed (min 3 (s.point + 1)) ∧ s.fld .clk 0x44 31 31 = 0 ∧
    s.usable (max s.agreed (min 3 (s.point + 1))) = true := by decide +kernel
theorem wit_Margin : unitOk 3 = true ∧ (5 : BitVec 12).toNat < State.reset.fld .pwr 0x1C 11 0 ∧
    (State.reset.unit 3).2.2 = false := by decide +kernel
theorem wit_RstN : let s := { State.reset.onMod fun m => { m with rstLow := true } with now := 10 ^ 12 }
    s.mod.rstLow = true ∧ 1000 ≤ s.sinceUs s.mod.rstFell ∧
    (State.reset.onMod fun m => { m with rstLow := true }).sinceUs 0 < 100 := by decide +kernel
theorem wit_Stage : ∀ n ∈ [0, 1, 2, 3, 4, 5], (inStage n).stage = n ∧ (inStage n).mod.dead = false ∧ (inStage n).mod.rstLow = false ∧
    (inStage n).mod.smbus = 0 := by decide +kernel
theorem wit_StageImage : (inStage 2).imgCheck false false ≠ 0 ∧ (inStage 2).imgCheck true false ≠ 0 := by decide +kernel

theorem wit_CfgArm : State.reset.fld .sec 0xB0 31 31 = 0 ∧ (State.reset.setReg .sec 0xB0 (2 ^ 31)).fld .sec 0xB0 31 31 = 1 ∧
    State.reset.fld .sec 0xB0 30 30 = 0 ∧ (State.reset.setReg .sec 0xB0 (2 ^ 30)).fld .sec 0xB0 30 30 = 1 := by decide +kernel
theorem wit_CfgActivate : let s := State.reset.onMod fun m => { m with cfgArmed := some (7, 0), staged := some { aChange false with armedAt := some 0 } }
    s.mod.cfgArmed = some (7, 0) ∧ 0 ≤ s.car ∧ State.reset.mod.staged = none := ⟨rfl, Nat.zero_le _, rfl⟩
theorem wit_StageHere : State.reset.coordinates = false ∧ (State.reset.onMod fun m => { m with quorumNow := true }).coordinates = true ∧
    State.reset.mod.cfgArmed = none := by decide +kernel
theorem wit_StageOthers : let s := { State.reset.onMod fun m => { m with heard := [(0x10000, 1, 1)], quorumNow := true } with now := 0 }
    (0x10000, 1) ∈ s.component ∧ BitVec.ofNat 16 0x10000 ≠ s.self := by decide +kernel
theorem wit_Staged : let s := State.reset.onMod fun m => { m with staged := some (aChange true) }
    s.collecting 5 = some (aChange true) ∧ s.over 0 1000000 = false ∧ (s.component.any fun h => h.1 == 0xFFFF) = true := by decide +kernel
theorem wit_StageTimeout : let s := { State.reset.onMod fun m => { m with staged := some (aChange true) } with now := 10 ^ 12 }
    s.mod.staged = some (aChange true) ∧ 1000000 ≤ s.sinceUs 0 := by decide +kernel
theorem wit_Record : State.reset.mod.fenced = false ∧ State.reset.mod.chimeOk = false := by decide
theorem wit_Chime : let s := (State.reset.setReg .mc 0x10 (5 * 2 ^ 28)).onMod fun m => { m with carillon := 10 ^ 11 }
    s.chimePeriod ≠ 0 ∧ 1000000 ≤ s.car ∧ s.mod.chime ≤ (s.car - 1000000) / s.chimePeriod ∧ s.stage = 5 ∧ s.mod.chimePhase = 0 ∧
    s.fld .fab 0x44 31 31 = 0 := by decide +kernel
theorem wit_Enroll : (State.reset.setReg .mc 0x10 (15 * 2 ^ 28)).stage = stRecovery ∧ State.reset.stage ≠ stRecovery ∧
    State.reset.mod.otpOwner = none := by decide +kernel
/-- A flash image whose only section holds one debug key; `Config.verifies` is opaque, so that its value is the one
hypothesis that no concrete state can show. -/
def keyedNor : Memory := [(6, 1), (256, 6), (265, 16), (268, 8), (4096, 2), (4098, 4), (4100, 9)]
theorem wit_DebugAuth : let s := (State.reset.onMod fun m => { m with nor := keyedNor, nonces := [(5, 0)] }).setReg .sec 0x100 0
    (5, 0) ∈ s.mod.nonces ∧ s.over 0 60000000 = false ∧ s.debugKeys[0]? = some [9, 0, 0, 0] ∧ (0 : BitVec 3).getLsbD 0 = false := by
  decide +kernel
theorem wit_DebugDenied : (∀ q ∈ State.reset.mod.nonces, q.1 ≠ 5) ∧ (0 : Word32) = 0 := by decide
theorem wit_Drill : let s := State.reset.onMod fun m => { m with policy := [(10, [1, 60, 0, 0, 0])] }
    (30 : Word32).toNat ≤ s.drillMax ∧ s.drillMax < (90 : Word32).toNat ∧
    (State.reset.setReg .sec 0x100 (2 ^ 31)).dbgMode = dbgDrill ∧ (State.reset.setReg .sec 0x100 (2 ^ 30)).dbgMode = dbgDebug ∧
    State.reset.fld .sec 0x104 0 0 = 0 := by decide +kernel
theorem wit_Grant : let s := (State.reset.setReg .sec 0x100 (2 ^ 30)).onMod fun m => { m with grant := some ⟨0⟩ }
    s.mod.grant = some ⟨0⟩ ∧ 0 ≤ s.now ∧ s.dbgMode ≠ dbgLocked := by decide +kernel
theorem wit_ElogPop : Blk.mc.writable 0x104 .pf = true := by decide +kernel
theorem wit_ScrubDeadline : let s := (State.reset.setReg (.secDie 0) 0 0).onMod fun m => { m with carillon := 10 ^ 12 }
    s.scrubStops (dieOf 0) = false ∧ s.recCtx (dieOf 0) = noCtx ∧ (s.core 0).wsPassT0 + 480000000000 ≤ s.car ∧
    (s.arr 0).shadow ≠ .loading := by decide +kernel
theorem wit_ShardDue : let h : ShardRec := ⟨4, 0, 0, 64, 9, true, 0⟩
    let s := ((State.reset.setReg (.secDie 0) 0 (2 ^ 30)).setCtx 0 { CtxState.reset with shards := [h] }).onMod fun m => { m with carillon := 10 ^ 16 }
    s.shardDue 0 = some (0, h) := by decide +kernel
theorem wit_Maint : let s := State.reset.setCtx 0 { CtxState.reset with maint := some (0, 0) }
    (s.ctx 0).maint = some (0, 0) ∧ 0 + 1000 * 0 ≤ s.car := by decide +kernel
theorem wit_SelftestRun : let s := (State.reset.setReg (.secDie 0) 0 0).setDie 0 { Die.reset with tests := [(aTest 2, .pf)] }
    (s.die 0).tests = [(aTest 2, .pf)] ∧ s.mayTest 0 = true := by decide +kernel
theorem wit_SelftestDeadline : let s := (State.reset.setReg (.secDie 0) 0 (2 ^ 30)).setDie 0 { Die.reset with tests := [(aTest 2, .pf)] }
    ((s.die 0).tests.find? fun t => decide (t.1.deadline.toNat ≤ s.car)) = some (aTest 2, .pf) ∧ s.dieState 0 = dieOwned ∧
    s.mayTest 0 = false := by decide +kernel
theorem wit_PldmSelftest : (aTest 2).unit.toNat < 12 ∧ State.reset.stage ≠ stRecovery ∧ 1 ≤ (aTest 2).kind.toNat ∧
    (aTest 2).kind.toNat ≤ 3 := by decide +kernel

theorem wit_LinkSignal : let s := linkState 0x80000000 0
    (s.link 3).state = lkDown ∧ (s.link 3).on = true ∧ (s.link 3).unpowered = false := by decide +kernel
theorem wit_LinkTrain : let s := { linkState 0x80000000 0x40000000 with now := 10 ^ 9 }
    (s.link 3).state = lkTrain ∧ (s.link 3).bestWidth [1] = some 1 ∧ (s.link 3).bestWidth [] = none ∧
    s.over (s.link 3).trainAt (if (s.link 3).retrain then 2000 else 100000) = false ∧ (s.link 3).retrain = false := by
  decide +kernel
theorem wit_LinkTrainLate : let s := { linkState 0x80000000 0x40000000 with now := 10 ^ 13 }
    s.over (s.link 3).trainAt (if (s.link 3).retrain then 2000 else 100000) = true ∧ 100000 ≤ s.sinceUs (s.link 3).trainAt ∧
    (s.link 3).state = lkTrain ∧ (s.link 3).retrain = false := by decide +kernel
theorem wit_LinkRetrainLate : let s : State := { State.reset with now := 10 ^ 13, links := [(3, { Link.reset with stat := 0x40000000, retrain := true })] }
    2000 ≤ s.sinceUs (s.link 3).trainAt ∧ (s.link 3).state = lkTrain ∧ (s.link 3).retrain = true := by decide +kernel
theorem wit_LinkAdmit : let s : State := { State.reset with links := [(3, { Link.reset with cfg := 0xC0000000, stat := 0x80000000, identified := true })] }
    (s.link 3).state = lkProbe ∧ (s.link 3).admitted = true ∧ (s.link 3).identified = true ∧
    (s.link 3).peerFabric.toNat = s.fabricId ∧ (s.link 3).peerFabric.toNat ≠ (s.setReg .fab 0 5).fabricId := by decide +kernel
theorem wit_LaneFailure : ((linkState 0x80000000 0xC0000000).link 3).state = lkActive ∧
    ((linkState 0x80000000 0xC0000000).link 3).width < 2 ∧ 2 ≤ ((linkState 0x80000000 0xE0000000).link 3).width ∧
    ((linkState 0x80000000 0xE0000000).link 3).state = lkActive := by decide +kernel
theorem wit_Frame : lkProbe ≤ ((linkState 0x80000000 0xC0000000).link 3).state ∧ bits (1 : BitVec 256).toNat 7 0 = 1 := by
  decide +kernel
theorem wit_IdentTimer : let s := { linkState 0x80000000 0xC0000000 with now := 10 ^ 12 }
    lkProbe ≤ (s.link 3).state ∧ 1000 ≤ s.sinceUs (s.link 3).identAt ∧ (s.link 3).state ≠ lkProbe := by decide +kernel
/-- Link 3 is ACTIVE with a packet or a control block that waits for its next frame. -/
def framed (ctl : List Nat) : State := { State.reset with links := [(3, { Link.reset with
  cfg := 0x80000000, stat := 0xC0000000, ctl := ctl, txq := [(somePacket 2 2, 0)] })] }
theorem wit_FrameControl : let s := framed [2, 3, 5]
    (s.link 3).cur = none ∧ (s.link 3).slots = 0 ∧ (s.link 3).firstCtl [6, 5, 4] = some 5 ∧ 3 % 256 = 3 := by decide +kernel
theorem wit_FramePacket : let s := framed []
    (s.link 3).state = lkActive ∧ (s.link 3).cur = none ∧ (s.link 3).slots = 0 ∧ (s.link 3).held = none ∧
    (s.link 3).firstCtl [6, 5, 4, 3] = none ∧ (s.link 3).nextStart = some (somePacket 2 2, 0) ∧ s.rimAllowed = false ∧
    (s.link 3).slotsOf (somePacket 2 2) ≤ frameSlots ∧
    frameSlots < (s.link 3).slotsOf { somePacket 2 2 with hdr := { (somePacket 2 2).hdr with nflits := 2 } } := by decide +kernel
theorem wit_FrameTurn : let s := framed []
    lkProbe ≤ (s.link 3).state ∧ (s.link 3).frameAt ≤ s.now ∧ (State.reset.link 3).state < lkProbe ∧
    s.now < ((s.onLink 3 fun k => { k with frameAt := 9 }).link 3).frameAt := by decide +kernel
theorem wit_Session : let s := linkState 0xA0000000 0xC0000000
    (s.link 3).state = lkActive ∧ (s.link 3).crypt = true ∧ (s.link 3).ready = false ∧ (s.link 3).retryAt = none := by
  decide +kernel
theorem wit_SessionRetry : let s : State := { State.reset with links := [(3, { Link.reset with cfg := 0xA0000000, stat := 0xC0000000, retryAt := some 0, rekeying := true })] }
    (s.link 3).state = lkActive ∧ (s.link 3).crypt = true ∧ (s.link 3).retryAt = some 0 ∧ 0 ≤ s.now ∧ (s.link 3).rekeying = true := by
  decide +kernel
theorem wit_Tables : State.reset.bankTag 0 false = State.reset.epoch 0 ∧
    (State.reset.setReg (.router 0) 0x2C 0x01000100).bankTag 0 false ≠ (State.reset.setReg (.router 0) 0x2C 0x01000100).epoch 0 ∧
    (5 : BitVec 16).toNat < 4096 ∧ State.reset.fld (.router 0) 0x20 31 31 = 0 ∧
    (State.reset.setReg (.router 0) 0x20 (2 ^ 31)).fld (.router 0) 0x20 31 31 = 1 := by decide +kernel
theorem wit_Retag : let s := State.reset.setReg (.router 0) 0x2C 0x01000100
    s.bankTag 0 true ≠ (7 : Byte).toNat ∧ s.bankTag 0 true = (1 : Byte).toNat ∧ s.bankTag 0 false ≠ s.epoch 0 ∧
    (s.router 0).lastChange = 0 := by decide +kernel
theorem wit_RetagEarly : let s := ({ State.reset with routers := [(0, { Router.reset with lastChange := 1 })] }.setReg (.router 0) 0x2C 0x01000100).setReg .fab 0x14 50
    ¬((s.router 0).lastChange = 0 ∨ 10000 * s.fld .fab 0x14 23 0 ≤ s.now + 1 - (s.router 0).lastChange) := by decide +kernel
theorem wit_Epoch : let s := (State.reset.setReg (.router 0) 0x34 0x80000001).setReg (.router 0) 0x2C 0x00000100
    s.fld (.router 0) 0x34 31 31 = 1 ∧ s.bankOf 0 1 ≠ none ∧ s.bankOf 0 9 = none ∧
    (State.reset.setReg (.router 0) 0x38 0).epochAt 0 ≤ s.car ∧ s.car < (s.setReg (.router 0) 0x38 4).epochAt 0 ∧
    s.fld (.router 0) 0x34 7 0 = 1 := by decide +kernel
theorem wit_Arrive : let s := routedHere Router.reset
    ioOf 3 = 0 ∧ (s.link 3).state = lkActive ∧ (s.link 3).crypt = false ∧ (s.link 3).allows (somePacket 2 2) = true ∧
    kindOk (somePacket 2 2) = true ∧ kindOk (somePacket 2 1) = false ∧ s.bankOf 0 0 = some false ∧ s.bankOf 0 99 = none ∧
    bits (s.route 0 false 0) 31 29 = 5 ∧ (somePacket 2 2).hdr.mc = false := by decide +kernel
theorem wit_ArriveRefused : ((linkState 0xA0000000 0xC0000000).link 3).crypt = true ∧
    ((linkState 0x80080000 0xC0000000).link 3).allows (somePacket 2 2) = false := by decide +kernel
theorem wit_LocalRing : let s := routedHere { Router.reset with localq := [somePacket 2 2], ringq := [⟨somePacket 2 2, .deliver, none, 0, 0, false⟩] }
    (s.router 0).localq = [somePacket 2 2] ∧ (s.router 0).ringq = [⟨somePacket 2 2, .deliver, none, 0, 0, false⟩] ∧
    (⟨somePacket 2 2, .deliver, none, 0, 2, true⟩ : RingPkt).dest ≠ 0 ∧
    ((s.router 0).localq.find? s.mayLeave) = some (somePacket 2 2) ∧ s.bankOf 0 (s.epoch 0) = some false := by decide +kernel
/-- The congestion window of core 0 is over, and is not. -/
theorem wit_Window : let s := (State.reset.setReg .fab 0x18 (8 * 2 ^ 12)).setCore 0 { Core.reset with echoed := true }
    s.now - (s.core 0).winAt < 10000 * s.fld .fab 0x18 19 12 ∧
    10000 * ({ s with now := 10 ^ 9 } : State).fld .fab 0x18 19 12 ≤ ({ s with now := 10 ^ 9 } : State).now - (s.core 0).winAt := by
  decide +kernel
/-- A PUT of core 0 waits while no rate is left to it. -/
theorem wit_PutWaits : let p := { somePacket 1 1 with hdr := { (somePacket 1 1).hdr with context := 1 } }
    let s := { (oneCore 0 { Core.reset with rate := 0, ops := [{ fabOp 1 0 with stage := .issued }] }).setReg (.secDie 0) 0
      0x40000001 with routers := [(0, { Router.reset with localq := [p] })] }
    s.putCore p = some 0 ∧ ((s.router 0).localq.find? s.mayLeave) = none ∧
    ((({ s with cores := [] }).router 0).localq.find? ({ s with cores := [] } : State).mayLeave) = some p := by decide +kernel

theorem wit_FabReserved : (fabState true (fabOp 7 0)).xiqHead 0 4 = some (fabOp 7 0) ∧ 4 < opKind (fabOp 7 0) ∧
    ((fabState true (fabOp 7 0)).core 0).binds.length < 4 := by decide +kernel
theorem wit_FabNoPort : ∀ k ∈ [1, 2, 4], let s := fabState false (fabOp k 0)
    s.xiqHead 0 4 = some (fabOp k 0) ∧ s.hasPort 0 (fIo (fabOp k 0)) = false ∧ opKind (fabOp k 0) = k ∧
    s.isEmit (fabOp k 0) = false := by decide +kernel
theorem wit_FabSend : ∀ k ∈ [1, 2, 4], let s := fabState true (fabOp k 0)
    s.xiqHead 0 4 = some (fabOp k 0) ∧ s.hasPort 0 (fIo (fabOp k 0)) = true ∧ opKind (fabOp k 0) = k ∧
    s.isEmit (fabOp k 0) = false := by decide +kernel
/-- A core that reads its lines for the mesh. -/
def readingCore (words : Bool) (n : Nat) : State :=
  oneCore 0 { Core.reset with fabSend := [⟨9, (fabOp 1 0).desc, 3, false, 5, n, 70, 64, words⟩] }
theorem wit_FabRead : ∀ n ∈ [0, 5], let s := readingCore false n
    ((s.core 0).dyn.filter fun g => g.cls == 2 && g.inp == outLocal).length < 15 ∧
    (s.core 0).laneHeld s.ac (laneMask (64 * (64 + n)) 64) = false ∧
    ((s.onCore 0 fun k => { k with amUse := [(0, laneMask (64 * (64 + n)) 64, true)] }).core 0).laneHeld s.ac
      (laneMask (64 * (64 + n)) 64) = true ∧
    ((readingCore true n).onCore 0 fun k => { k with psmNow := [⟨0, 0, .mred, 0, false, []⟩] }).mredBusy 0 = true := by
  decide +kernel
theorem wit_ReqLines : (opKind (fabOp 1 0) = 1 ∧ State.reset.isEmit (fabOp 1 0) = false) ∧ opKind (fabOp 2 0) = 2 ∧
    [((7 : Line), false)].length ≤ fLen (fabOp 1 (2 ^ 170)) ∧ [((7 : Line), false)].length % 64 ≠ 0 ∧
    fLen (fabOp 1 0) = 1 := by decide +kernel
theorem wit_FabStream : let s := fabState true (fabOp 3 0)
    s.xiqHead 0 4 = some (fabOp 3 0) ∧ opKind (fabOp 3 0) = 3 ∧ (s.core 0).binds.length < 4 ∧
    0 ∈ portsOf (fIo (fabOp 3 0)) ∧ 0 ∉ portsOf (fIo (fabOp 3 (2 ^ 246))) ∧ (s.core 0).egress = [] := by decide +kernel
theorem wit_FabEmit : let o := fabOp 1 (0xFFFF * 2 ^ 230 + 2 ^ 202)
    let s := fabState true o
    let t := s.onMod fun m => { m with frames := [⟨1, 0, 1, 0, [], false, false, false⟩] }
    s.xiqHead 0 4 = some o ∧ s.isEmit o = true ∧ s.hasPort 0 (fIo o) = true ∧ fLen o = [((7 : Line), false)].length ∧
    s.mod.frames = [] ∧ 64 * fLen o ≤ s.quota (s.dieEncl (dieOf 0)) ∧
    (t.mod.frames.any fun f => f.context == t.dieCtx 0 && f.seq == BitVec.ofNat 64 ((t.ctx 1).step.toNat * 2 ^ 32) && !f.released) = true ∧
    (s.onMod fun m => { m with quotas := [(0, 0)] }).quota 0 < 64 * fLen o := by decide +kernel
theorem wit_FabReduce : let s := { fabState true (fabOp 4 0) with rgroups := [(0, sumGroup [] [])] }
    let g := s.group (fGroup (fabOp 4 0))
    rgValid g = true ∧ rgOp g = 0 ∧ rgContext g = s.dieCtx 0 ∧ fLen (fabOp 4 0) = rgWords g ∧
    fLen (fabOp 4 (2 ^ 170)) ≠ rgWords g ∧ (fabState true (fabOp 4 0)).xiqHead 0 4 = some (fabOp 4 0) := by decide +kernel
theorem wit_PutReceive : let s := arrived true 1 1 .deliver []
    let h := (somePacket 1 1).hdr
    (∃ e, s.nextDelivered 0 kPut = some e ∧ e.pkt.hdr = { h with context := 1 }) ∧ s.mayReach { h with context := 1 } 0 = some 0 ∧
    s.genOk { h with context := 1 } = true ∧ s.inboundFull 0 h = false ∧ s.inboundOf 0 h = none ∧ h.fb = 0 ∧
    (arrived false 1 1 .deliver []).mayReach { h with context := 1 } 0 = none ∧
    s.genOk { h with context := 1, gen := 5 } = false := by
  refine ⟨⟨_, rfl, rfl⟩, ?_⟩; decide +kernel
theorem wit_OneWay : let s := arrived true 3 1 (.cores 1) []
    (∃ e, s.nextDelivered 0 kMcast = some e ∧ e.via = .cores 1) ∧ (1 : BitVec 12).getLsbD 0 = true ∧
    (∃ e, (arrived true 4 0 .deliver []).nextDelivered 0 kStream = some e) ∧
    (∃ e, (arrived true 2 2 .deliver []).nextDelivered 0 kAck = some e) :=
  ⟨⟨_, rfl, rfl⟩, by decide, ⟨_, rfl⟩, ⟨_, rfl⟩⟩
theorem wit_Acked : let s := oneCore 0 { Core.reset with ops := [{ fabOp 1 0 with stage := .issued }] }
    let t := s.setReg (.secDie 0) 0x00 0x40000001
    (t.ackedOp { (somePacket 2 2).hdr with context := 1, src := 0 }).isSome = true ∧
    (t.ackedOp { (somePacket 2 2).hdr with context := 1, src := 9 }) = none := by decide +kernel
theorem wit_Egress : let s := oneCore 0 { Core.reset with edge := [(5, ⟨0, false, 0, 0⟩)] }
    (s.core 0).edge = [(5, ⟨0, false, 0, 0⟩)] ∧ s.ac < 5 ∧ 5 ≤ ({ s with ac := 5 } : State).ac ∧
    (s.core 0).egress.length < 1024 ∧ (s.core 0).binds = [] ∧ (0 : CoreId) ∈ portsOf 0 := by decide +kernel
theorem wit_ResponseDone : let f : DynFlit := ⟨0, 0, 0, false, 0, true, .done 9 false, false, 4, 0, 0⟩
    f.body = .done 9 false ∧ ∀ g ∈ [OpStage.issued, .answered],
      (((oneCore 0 { Core.reset with ops := [{ fabOp 1 0 with stage := g }] }).core 0).ops.any
        fun o => o.serial == 9 && (o.stage == .issued || o.stage == .answered)) = true := by decide +kernel
/-- Two lines of a PUT have reached core 0, at line 5 on. -/
def putAsm : Asm := ⟨⟨2, 0, 0, false, 0, false, .write 0 0 { (somePacket 1 1).hdr with taddr := 5 }, false, 4, 0, 0⟩,
  [(7, false), (8, false)]⟩
theorem wit_FabStore : ∀ k ∈ [0, 1], let s := oneCore 0 { Core.reset with fabIn := [putAsm], fabNext := k }
    (s.core 0).fabIn = [putAsm] ∧ putAsm.lineAt k = some (5 + k) ∧ (putAsm.lines[k]?).isSome = true ∧
    (s.core 0).laneHeld s.ac (laneMask (64 * (5 + k)) 64) = false ∧
    ((s.onCore 0 fun x => { x with amUse := [(0, laneMask (64 * (5 + k)) 64, true)] }).core 0).laneHeld s.ac
      (laneMask (64 * (5 + k)) 64) = true := by decide +kernel
def writtenHdr (fb : BitVec 16) : Header := { (somePacket 1 1).hdr with fb := fb, fc := 0x0C40 }
/-- Router 0 tracks the operation of that header. -/
def trackedState : State := { State.reset with routers := [(0, { Router.reset with inbound := [⟨0xFFFF, 0, [0], [], true, false, 0⟩] })] }
theorem wit_DataWritten : ∀ k ∈ [0, 1], let fb := BitVec.ofNat 16 k
    (trackedState.inboundOf 0 (writtenHdr fb)).map (fun n => (n.cores, n.got)) = some ([(0 : CoreId).val], []) ∧
    bits (writtenHdr fb).fc.toNat 9 6 = 1 ∧ (trackedState.core 0).sem (bits (writtenHdr fb).fc.toNat 15 10) + 1 ≤ 0xFFFF ∧
    (trackedState.core 0).issueFrom ≠ trackedState.ac + 1 ∧ (trackedState.core 0).slotsAt ≠ trackedState.ac + 1 := by
  decide +kernel
theorem wit_EgressFull : 1024 ≤ (List.replicate 1024 (⟨0, false, 0, 0⟩ : Flit)).length := Nat.le_of_eq List.length_replicate.symm
theorem wit_RedUp : let s := redArrived 5 (sumGroup [] [])
    (∃ e, s.nextDelivered 0 kRedUp = some e ∧ e.arrival = some 3 ∧ e.pkt.hdr.fc = 0 ∧ s.genOk e.pkt.hdr = true) ∧
    rgValid (s.group 0) = true ∧ (s.group 0).child.getLsbD 3 = true ∧ (s.group 0).rounds.length < 4 ∧
    (∀ q ∈ (sumGroup [aRound 1, aRound 2, aRound 3, aRound 4] []).rounds, q.round ≠ 0) ∧
    rgValid Group.reset = false := by
  refine ⟨⟨_, rfl, rfl, rfl, rfl⟩, ?_⟩; decide +kernel
theorem wit_RedDown : let s := redArrived 6 (sumGroup [] [⟨0, 9, 0, 1, false⟩, ⟨0, 9, 5, 0, false⟩])
    (∃ e, s.nextDelivered 0 kRedDown = some e ∧ s.genOk e.pkt.hdr = true) ∧ rgOp (s.group 0) = 0 ∧ rgWords (s.group 0) = 1 := by
  refine ⟨⟨_, rfl, rfl⟩, ?_⟩; decide +kernel
theorem wit_RedDownLumef : let s := (redArrived 6 ⟨0xA7E00000, 0, 0, [], []⟩).setReg .fab 0x44 0x80000000
    rgOp (s.group 0) ≠ 0 ∧ rgValid (s.group 0) = true ∧ s.mod.chimePhase = 0 ∧ s.fld .fab 0x44 31 31 = 1 ∧
    s.fld .fab 0x44 23 16 = 0 ∧ s.fld .fab 0x44 15 0 = 0 := by decide +kernel
theorem wit_ResultLine : let o := { fabOp 4 0 with stage := .issued }
    let s := oneCore 0 { Core.reset with ops := [o] }
    let h := { (somePacket 6 2).hdr with tcore := 1 }
    ((s.core 0).ops.find? fun o => o.serial == 9 && o.stage == .issued) = some o ∧ (s.core 0).psmNow = [] ∧
    0 < h.tcore.toNat - 4 * 0 ∧ fDaddr o + h.fa.toNat + 4 * 0 + 0 < 131072 := by decide +kernel
theorem wit_ResultWritten : ∀ k ∈ [1, 0], let n := BitVec.ofNat 10 k
    let w : Waiter := ⟨0, 9, 0, 0, false⟩
    let s : State := { State.reset with rgroups := [(0, sumGroup [] [w])] }
    let h := { (somePacket 6 2).hdr with tcore := n }
    ((s.group (h.fc.toNat % 256)).waiters.find? fun w => w.core == (0 : CoreId).val && w.serial == 9) = some w ∧
    (rgWords (s.group (h.fc.toNat % 256)) ≤ w.got + h.tcore.toNat ↔ n = 1) := by decide +kernel
theorem wit_FabTimeout : let s := oneCore 0 { Core.reset with ops := [{ fabOp 1 0 with stage := .issued }] }
    let t := s.onMod fun m => { m with carillon := 10 ^ 9 }
    ((s.core 0).ops.find? fun o => o.cls == 4 && o.stage == .issued && o.entry == 0 && !s.isEmit o).isSome = true ∧
    s.car - 0 < 1000 * s.fabTimeout + s.ncNs ∧ 1000 * t.fabTimeout + t.ncNs ≤ t.car - 0 := by decide +kernel
theorem wit_MrTimeout : let s := State.reset.setReg .fab 0x44 0x80000000
    s.fld .fab 0x44 31 31 = 1 ∧ State.reset.fld .fab 0x44 31 31 = 0 ∧ s.sinceUs s.mod.mrStarted < s.fabTimeout ∧
    ({ s with now := 10 ^ 13 } : State).fabTimeout ≤ ({ s with now := 10 ^ 13 } : State).sinceUs s.mod.mrStarted := by decide +kernel

theorem wit_Send : let s := jobState someJob
    (s.router 0).job = some someJob ∧ someJob.verify = false ∧ someJob.sent < someJob.count ∧ s.sourceOk someJob = true ∧
    s.sourceOk { someJob with context := 9 } = false ∧ someJob.ingest = false := by decide +kernel
theorem wit_SendIngest : let b := { someJob with ingest := true }
    (jobState b).sourceOk b = true ∧ ((jobState b).func (jobFn b)).pageReady (b.saddr + b.sent) = false := by decide +kernel
theorem wit_Verify : let b := { someJob with verify := true }
    ((jobState b).router 0).job = some b ∧ (jobState b).sourceOk b = true ∧ b.count = b.sent + 1 ∧ b.saddr + b.sent < 24576 := by
  decide +kernel
theorem wit_JobTimeout : let s := (jobState someJob).onMod fun m => { m with carillon := 10 ^ 9 }
    1000 * s.fabTimeout ≤ s.car - someJob.lastAt ∧ ({ someJob with sent := 1 } : Job).sent = someJob.count ∧
    s.jobHere { someJob with sent := 1 } = false := by decide +kernel
theorem wit_TransferDue : (shardState 0 [someTransfer 1 1] none).transferDue 0 = some (someTransfer 1 1) := by decide +kernel
theorem wit_ShardTake : let s := shardState 0 [someTransfer 0 3] none
    s.transferDue 0 = none ∧ (∃ e, s.nextMgmt 0 isShard = some e ∧ e.pkt.hdr.fb = 0 ∧ e.pkt.hdr.poison = false ∧
      ((s.router 0).transfers.find? fun t => t.is e.pkt.hdr) = some (someTransfer 0 3)) ∧
    s.shardHome (someTransfer 0 3) = true ∧ State.reset.shardHome (someTransfer 0 3) = false ∧
    (0 : BitVec 16).toNat ≠ (someTransfer 2 3).next := by
  refine ⟨by decide +kernel, ⟨_, rfl, rfl, rfl, rfl⟩, ?_⟩; decide +kernel
theorem wit_ShardNew : let s := shardState 0 [] none
    s.transferDue 0 = none ∧ ∃ e, s.nextMgmt 0 isShard = some e ∧ ((s.router 0).transfers.find? fun t => t.is e.pkt.hdr) = none :=
  ⟨rfl, _, rfl, rfl⟩
theorem wit_SwapPacket : let a : Asm := ⟨⟨3, 3, 1, false, 0, false, .swap 0 false, false, 4, 0, 0⟩, [(7, false)]⟩
    let u := { someTransfer 1 3 with arrived := 0 }
    a.head.body = .swap 0 false ∧ u.tcore.toNat = 0 ∧ 4096 * u.start ≤ 0 ∧ 0 < 4096 * (u.start + u.total) := by decide +kernel
theorem wit_ShardAnswer : let s := shardState 0x8000 [] (some { someJob with sent := 1 })
    (∃ e, (s.nextMgmt 0 fun p => mgClass p == 8) = some e ∧ e.pkt.hdr.tag = someJob.tag) ∧ someJob.verify = false ∧
    someJob.ndest ≤ someJob.acks + 1 ∧ someJob.acks + 1 < ({ someJob with ndest := 4 } : Job).ndest := by
  refine ⟨⟨_, rfl, rfl⟩, ?_⟩; decide
theorem wit_Blocks : let s := ringState Ring.reset
    s.mayFetch 0 0 = true ∧ State.reset.mayFetch 0 0 = false ∧ s.stepBad 0 0 5 = false ∧ s.sqOwns 0 0 0 = true ∧
    s.sqOwns 0 0 1 = false ∧ headersOk (s.sqCtx 0 0) 1 [BitVec.ofNat 512 (2 ^ 56)] = true ∧
    (s.ring 0 0).changed 0 = false ∧ (s.die 0).cmdq.length + 1 ≤ 1024 ∧ maskDies 1 = [0] := by decide +kernel
theorem wit_BlocksDecided : let s := ringState { Ring.reset with decided := true, stepNow := some 5 }
    s.mayFetch 0 0 = true ∧ (s.ring 0 0).decided = true ∧ s.stepBad 0 0 6 = true ∧ s.stepBad 0 0 5 = false := by decide +kernel
theorem wit_Input : let s := (ringState Ring.reset).onDie 0 fun k => { k with launched := some 5 }
    s.mayFetch 0 0 = true ∧ s.stepBad 0 0 someInput.step = false ∧ s.sqOwns 0 0 (dieOf 0) = true ∧
    (s.die 0).launched = some someInput.step ∧ (State.reset.die 0).launched ≠ some someInput.step ∧
    (s.core 0).sem 3 + 1 ≤ 0xFFFF := by decide +kernel
theorem wit_InputDone : let a : Asm := ⟨⟨2, 0, 0, false, 0, false, .input 5 3 2, false, 4, 0, 0⟩, [(7, false)]⟩
    let s := oneCore 0 { Core.reset with fabIn := [a] }
    (s.core 0).fabIn = [a] ∧ a.head.body = .input 5 3 2 ∧ ¬Issued s 0 ∧ (s.core 0).sem 3 + 2 ≤ 0xFFFF := by
  unfold Issued; decide +kernel
theorem wit_StepRecord : let s := frameState 0 { Ring.reset with records := [(1, 5, [0])] }
    (s.ring 0 0).records = [(1, 5, [0])] ∧ s.cqRoom 0 0 = true ∧ s.ideWait 0 = false ∧ State.reset.cqRoom 0 0 = false := by
  decide +kernel
theorem wit_Frame_Write : let s := frameState 64 Ring.reset
    s.headFrame 0 0 = some (someFrame 64) ∧ s.ideWait 0 = false ∧ s.bufsFor 0 0 (someFrame 64) [(0, 1)] = .ok [(0, 4096)] ∧
    s.bufsFor 0 0 (someFrame 64) [] = .short ∧ s.bufsFor 0 0 (someFrame 64) [(0, 0)] = .bad 1 ∧ s.cqRoom 0 0 = true := by
  decide +kernel
theorem wit_Starve : let s := { frameState 64 { Ring.reset with starvedAt := some (0, 1, 0) } with now := 10 ^ 13 }
    s.headFrame 0 0 = some (someFrame 64) ∧ (s.ring 0 0).starvedAt = some (0, 1, 0) ∧ s.starveUs 0 ≤ s.sinceUs 0 ∧
    1 = s.rreg 0 0 rRbTail ∧ 0 = s.rreg 0 0 rCqHead := by decide +kernel
theorem wit_Coalesce : let s := { frameState 64 { Ring.reset with unsignalled := 1 } with now := 10 ^ 13 }
    (s.ring 0 0).unsignalled ≠ 0 ∧ bits (s.rreg 0 0 rCqCfg) 7 0 ≠ 0 ∧
    bits (s.rreg 0 0 rCqCfg) 7 0 ≤ s.sinceUs (s.ring 0 0).firstUnsignalled := by decide +kernel
theorem wit_ReceiptSlot : ∀ g ∈ [true, false], let s := { State.reset with chains := [(0, { Chain.reset with entries := [aReceipt g] })] }.setReg (.vf 0) 0x28 0x84000000
    bitAt (s.reg (.vf 0) 0x28) 31 = true ∧ s.ideWait 0 = false ∧
    span (s.reg (.vf 0) 0x2C) (s.reg (.vf 0) 0x30) < 2 ^ bits (s.reg (.vf 0) 0x28) 28 24 ∧
    (s.chain (vfEncl 0)).entries[span (s.reg (.vf 0) 0x2C) (s.reg (.vf 0) 0x30)]? = some (aReceipt g) := by decide +kernel
theorem wit_Ingest : (ringState Ring.reset).stage = stReady ∧ State.reset.stage ≠ stReady ∧
    State.reset.fld (.vf 0) 0x14 23 0 ≤ (100 + 0) / 4096 ∧ (100 + 0) / 4096 < State.reset.fld (.vf 0) 0x14 23 0 + 4096 ∧
    State.reset.fld (.vf 0) 0x14 23 0 + 4096 ≤ (2 ^ 30 + 0) / 4096 := by decide +kernel
theorem wit_Mailbox : State.reset.fld (fnBlk 0) 0x40 31 31 = 0 ∧
    (State.reset.setReg (.vf 0) 0x40 0x80000000).fld (fnBlk (fnIndex (some 0))) 0x40 31 31 = 1 ∧
    (ringState Ring.reset).ctxOfVf 0 1 = true ∧ State.reset.ctxOfVf 0 1 = false := by decide +kernel
theorem wit_Selftest : (State.reset.die 0).tests.length < 16 ∧
    16 ≤ ((State.reset.onDie 0 fun k => { k with tests := List.replicate 16 (⟨1, false, 0, 0, 0⟩, .pf) }).die 0).tests.length := by
  decide +kernel
theorem wit_Read : blockOf 0x1004 = some (.pwr, 4) ∧ Blk.readable .pwr .mc = true ∧ hiddenFrom .mc .pwr 4 = false ∧
    latchWords .pwr = [] ∧ Blk.readable .pwr (.vf 0) = false ∧ blockOf 0x10000 = some (.clk, 0) ∧
    latchWords .clk = [(0, 2)] ∧ blockOf 0x10004 = some (.clk, 4) := by decide +kernel
theorem wit_Write : blockOf 0x1008 = some (.pwr, 8) ∧ Blk.writable .pwr 8 .mc = true ∧ Blk.writable .pwr 8 .pf = false ∧
    ((Blk.pwr.reg 8).map fun r => r.sc) = some 0 := by decide +kernel
theorem wit_Debug : let s := (State.reset.setReg .sec 0x100 0xFFFFFFFF).setReg (.secDie 0) 0x00 0
    s.mod.dbg = [] ∧ s.bar2Granted = true ∧ State.reset.bar2Granted = false ∧ dbgPlace 0xC0000000 = some (.am 0 0) ∧
    s.dbgReaches (dieOf 0) = true ∧ (s.core 0).amUse = [] ∧
    (s.aboveDebug 0 false &&& laneMask 64 4) = 0 ∧ (s.aboveDebug 0 false &&& laneMask 0 4) ≠ 0 ∧
    (s.onMod fun m => { m with dbg := [(0, none)] }).mod.dbg ≠ [] ∧ s.psmErr = [] := by decide +kernel
theorem wit_DebugPsm : dbgPlace 0xD0000010 = some (.psm 0 16) := by decide +kernel
theorem wit_GoFields : blockOf 0x40030 = some (.router 0, 0x30) ∧ Blk.writable (.router 0) 0x30 .mc = true ∧
    blockOf 0x10044 = some (.clk, 0x44) ∧ Blk.writable .clk 0x44 .mc = true ∧ blockOf 0x180000C = some (.mx 0, 0x0C) ∧
    Blk.writable (.mx 0) 0x0C .mc = true := by decide +kernel

theorem wit_Front : ({ State.reset with pending := [.carillonLoad] } : State).pending = [.carillonLoad] := rfl
theorem wit_EmptyQueue : State.reset.pending = [] := rfl
theorem wit_SemOverflow : 0xFFFF < ((oneCore 0 (Core.reset.setSem 3 0xFFFF)).core 0).sem 3 + 1 := by decide +kernel
theorem wit_Perm : [((1 : W128), false), (2, true)].Perm [(2, true), (1, false)] := List.Perm.swap _ _ _
theorem wit_Credit : 0xFFFF < 2 ^ 16 := by decide
theorem wit_NoneReaches : NoneReaches State.reset 0 5 ∧ NoShardFor State.reset 0 5 := by
  refine ⟨?_, ?_, ?_⟩ <;> intro e he <;> cases he
theorem wit_OnlyReads : onlyReadsAm (.put 0) = true := rfl
theorem wit_StoreKept : (Core.reset.fabIn = []) ∧ putAsm.lineAt 0 = some 5 := by decide

/-- A binary of one rank on template die 0, whose image is the 8 bytes at 0, with one fix-up entry at 16 of a kind. -/
def someBinary (kind lo : Byte) : Binary :=
  ⟨[0, 0, 0, 0, 0, 0, 0, 0, 0, 0, 0, 0, 0, 0, 0, 0, 0, 0, 0, 0, lo, kind, 0, 0, 0, 0, 0, 0, 0, 0, 0, 0], 1, 1, true,
    [⟨0, 0, 0⟩], [(0, 8)], (0, 0), (16, 16), []⟩
def somePlacement (kind lo : Byte) (dr : Byte) : Placement := ⟨someBinary kind lo, [⟨0xFFFF, dr, 0, []⟩], []⟩
/-- Context 0 holds dies 0 and 4. -/
def twoDies : State := (inContext CtxState.reset).setReg (.secDie 4) 0 (2 ^ 30)
theorem wit_Relocate : landDie 0 0 ⟨0xFFFF, 1, 0, []⟩ = some 4 ∧ landDie 0 0 ⟨0xFFFF, 0xFF, 0, []⟩ = none ∧
    landDie 2 3 ⟨0xFFFF, 0xFE, 0xFD, []⟩ = some 0 := by decide +kernel
theorem wit_FixUpKinds : fixWidth 1 = some 16 ∧ fixWidth 2 = some 10 ∧ fixWidth 5 = some 8 ∧ fixWidth 0 = none ∧
    groupOf [⟨3, 5, 9⟩] 3 5 = some 9 ∧ groupOf [⟨4, 5, 9⟩] 4 5 = some 9 ∧ 48 + 16 ≤ 64 := by decide +kernel
theorem wit_LoadRefused : (binFixUps (someBinary 6 0)).map FixUp.kind = [6] ∧ (binFixUps (someBinary 1 49)).map FixUp.lo = [49] ∧
    twoDies.rankOf (somePlacement 1 0 2).ranks = some 0 ∧
    twoDies.landsOn 0 (someBinary 1 0) ⟨0xFFFF, 2, 0, []⟩ = false := by decide +kernel
theorem wit_Loads : (twoDies.landsOn 0 (someBinary 1 0) ⟨0xFFFF, 1, 0, []⟩ = true) ∧
    (binPatch (someBinary 1 0) 0 [⟨0xFFFF, 1, 0, []⟩] [] 0) = some ([0xFF, 0xFF, 0, 0, 0, 0, 0, 0], [0xFFFF]) := by
  decide +kernel
theorem wit_PlacementLoaded : (twoDies.loadBinary 0 (somePlacement 1 0 1)).isSome = true := by decide +kernel
theorem wit_Lane : let f : DynFlit := ⟨3, 3, 1, false, 0, true, .swap 0 false, false, 4, 0, 0⟩
    let s := routing f
    across 0 (sideOf 1) = .core 1 ∧ s.lanePick 0 1 = some f ∧ Store.get 0 (s.core 0).laneFree 1 ≤ s.ac ∧
    s.ac < Store.get 0 ((s.onCore 0 fun k => { k with laneFree := [(1, 5)] }).core 0).laneFree 1 := by decide +kernel
theorem wit_BgOrder : let f : DynFlit := ⟨3, 3, 1, false, 0, true, .swap 0 false, false, 4, 0, 0⟩
    let g := { f with sub := 0 }
    let s := State.reset.setReg (.meshDie 0) 0x14 0
    s.bgPriority 0 g = s.bgPriority 0 f ∧ g.sub < f.sub ∧ s.dynBest 0 [f, g] = some g ∧
    s.bgPriority 0 f < ({ s with ac := 100 } : State).bgPriority 0 f := by decide +kernel
theorem wit_Port : let f : DynFlit := ⟨2, 0, 5, false, 0, true, .input 0 0 0, false, 0, 0, 0⟩
    let s := oneCore 0 { Core.reset with portIn := [f] }
    (portOf 0).isSome = true ∧ s.portPick 0 ((portOf 0).getD (.north, 0)).1 = some f ∧
    State.reset.portPick 0 ((portOf 0).getD (.north, 0)).1 = none := by decide +kernel
theorem wit_DbgAm : dbgPlace 0xC0000004 = some (.am 0 4) := by decide +kernel
theorem wit_StoreBuffer : ((State.reset.onDie 0 fun k => { k with stbuf := [⟨0x10000000, 8, 7, 0⟩] }).die 0).stbuf = [⟨0x10000000, 8, 7, 0⟩] ∧
    ccPlace 0x10000000 = .dram ∧ ccPlace 0x20000000 ≠ .dram := by decide +kernel

end Sys2Proof.Tests
end

section
/-! SUPPORT. The frame rule of every command: what it may change is its footprint (O49), and with the frame of one ac the
canonical form is kept by every step (O48). -/

namespace Sys2Proof.Machine

/-- The command changes only the parts of its footprint: the frame rule of one command. -/
def Stays (i : Instr) : Prop := ∀ s t, exec i s = .next t → Within (footprint i) s t

/-- A command whose meaning is one state function stays in its parts when that function does. -/
theorem Stays.of_next {i : Instr} {f : State → State} (he : ∀ s, exec i s = .next (f s))
    (hw : ∀ s, Within (footprint i) s (f s)) : Stays i := by
  intro s t h
  obtain rfl : f s = t := by simpa using (he s).symm.trans h
  exact hw s

theorem mem_footprint {i : Instr} {p : Part} (h : (footprint i).elem p = true) : p ∈ footprint i :=
  List.mem_of_elem_eq_true h

theorem all_footprint {i : Instr} (h : ∀ p, (footprint i).elem p = true) (p : Part) : p ∈ footprint i :=
  mem_footprint (h p)

/-! ### The mesh -/

theorem meshFlitArrive_stays {c : CoreId} {side : Side} {parityError : Bool} :
    Stays (.meshFlitArrive c side parityError) := by
  refine .of_next (fun _ => rfl) fun s => ?_
  split
  · exact .refl _ _
  · refine .ite (fun _ => .refl _ _) fun _ =>
        State.wireTake_within _ _ _ (.refl _ _) ?_ ?_ ?_ <;> exact mem_footprint rfl

theorem dynamicPacketHop_stays {c : CoreId} {cls : Fin 4} {parityError : Bool} :
    Stays (.dynamicPacketHop c cls parityError) := by
  refine .of_next (fun _ => rfl) fun s => ?_
  split
  · exact .refl _ _
  · extract_lets t
    have ht : Within (footprint (.dynamicPacketHop c cls parityError)) s t := .ite (fun _ =>
        State.count_within _ _ _ (State.meshFault_within _ _ (.refl _ _) (mem_footprint rfl)) (mem_footprint rfl))
        fun _ => .refl _ _
    refine .ite (fun _ => State.dynDiscard_within _ _ ht (mem_footprint rfl)) fun _ => .ite (fun _ =>
        State.dynDiscard_within _ _ (State.markStep_within _ ht (mem_footprint rfl)) (mem_footprint rfl)) fun _ => ?_
    split
    · refine State.dynDiscard_within _ _ (State.routeError_within _ ht ?_) ?_ <;> exact mem_footprint rfl
    · refine .ite (fun _ => State.dynDiscard_within _ _ (State.routeError_within _ (.ite (fun _ =>
          State.fenceError_within _ ht ?_) fun _ => ht) ?_) ?_) fun _ =>
          State.dynSendOut_within _ _ _ _ (State.onCore_within _ _ ht ?_) ?_ ?_ <;> exact mem_footprint rfl

theorem messageEntryArrive_stays {c : CoreId} : Stays (.messageEntryArrive c) := by
  refine .of_next (fun _ => rfl) fun s => ?_
  split
  · exact .refl _ _
  · split
    · exact State.onCore_within _ _ (.refl _ _) (mem_footprint rfl)
    · exact .refl _ _

theorem semSignalArrive_stays {c : CoreId} : Stays (.semSignalArrive c) := by
  refine .of_next (fun _ => rfl) fun s => ?_
  split
  · exact .refl _ _
  · split
    · refine State.semSignal_within _ _ _ (State.onCore_within _ _ (.refl _ _) ?_) ?_ ?_ <;> exact mem_footprint rfl
    · exact State.onCore_within _ _ (.refl _ _) (mem_footprint rfl)

theorem creditReturn_stays {c : CoreId} : Stays (.creditReturn c) := by
  refine .of_next (fun _ => rfl) fun s => ?_
  split
  · exact .refl _ _
  · split
    · refine State.onCore_within _ _ (State.onCore_within _ _ (.refl _ _) ?_) ?_ <;> exact mem_footprint rfl
    · exact State.onCore_within _ _ (.refl _ _) (mem_footprint rfl)

/-! ### The array -/

theorem load_stays {c : CoreId} {token : Token} : Stays (.load c token) := by
  refine .of_next (fun _ => rfl) fun s => ?_
  refine State.ifRuns_within _ _ _ (.refl _ _) ?_ (fun _ h => State.mOp_within _ _ _ _ h ?_ ?_) <;>
      exact mem_footprint rfl

theorem pass_stays {c : CoreId} {token : Token} : Stays (.pass c token) := by
  refine .of_next (fun _ => rfl) fun s => ?_
  refine State.ifRuns_within _ _ _ (.refl _ _) ?_ (fun _ h => State.mOp_within _ _ _ _ h ?_ ?_) <;>
      exact mem_footprint rfl

theorem ewise_stays {c : CoreId} {token : Token} : Stays (.ewise c token) := by
  refine .of_next (fun _ => rfl) fun s => ?_
  refine State.ifRuns_within _ _ _ (.refl _ _) ?_ (fun _ h => State.mOp_within _ _ _ _ h ?_ ?_) <;>
      exact mem_footprint rfl

theorem voidCommandEnter_stays {c : CoreId} : Stays (.voidCommandEnter c) := by
  refine .of_next (fun _ => rfl) fun s => ?_
  dsimp only
  split
  · exact .ite (fun _ => .refl _ _) fun _ => State.onArr_within _ _ (.refl _ _) (mem_footprint rfl)
  · exact .refl _ _

theorem arrayCommandHead_stays {c : CoreId} : Stays (.arrayCommandHead c) := by
  refine .of_next (fun _ => rfl) fun s => ?_
  split
  · exact .refl _ _
  · refine .ite (fun _ => .refl _ _) fun _ => ?_
    extract_lets s1 q
    have hs1 : Within (footprint (.arrayCommandHead c)) s s1 := State.headRead_within _ _ (.refl _ _)
        (mem_footprint rfl) (mem_footprint rfl)
    refine .ite (fun _ => State.headRefuse_within _ _ hs1 ?_) fun _ => .ite (fun _ =>
        State.headLoad_within _ _ hs1 ?_ ?_) fun _ => .ite (fun _ =>
        State.headStart_within _ _ _ _ hs1 ?_) fun _ => .ite (fun _ =>
        State.headStart_within _ _ _ _ hs1 ?_) fun _ =>
        State.headPass_within _ _ _ hs1 ?_ ?_ <;> exact mem_footprint rfl

theorem loadComplete_stays {c : CoreId} : Stays (.loadComplete c) := by
  refine .of_next (fun _ => rfl) fun s => .ite (fun _ => .refl _ _) fun _ =>
    State.onArr_within _ _ (State.aflags_within _ _
    (State.wsReadWords_within _ _ _ (.refl _ _) ?_ ?_) ?_) ?_ <;> exact mem_footprint rfl

theorem loadAbandon_stays {c : CoreId} : Stays (.loadAbandon c) := by
  refine .of_next (fun _ => rfl) fun s => ?_
  dsimp only
  split
  · refine .ite (fun _ => .refl _ _) fun _ =>
        State.onArr_within _ _ (State.mxFault_within _ _ (State.wsReadWords_within _ _ _ (.refl _ _) ?_ ?_) ?_) ?_ <;>
        exact mem_footprint rfl
  · exact .refl _ _

theorem feederFetch_stays {c : CoreId} : Stays (.feederFetch c) := by
  refine .of_next (fun _ => rfl) fun s => ?_
  refine State.fetchY_within _ (State.fetchX_within _ (.refl _ _) ?_ ?_ ?_) ?_ ?_ ?_ <;> exact mem_footprint rfl

theorem meshVectorArrive_stays {c : CoreId} : Stays (.meshVectorArrive c) := by
  refine .of_next (fun _ => rfl) fun s => ?_
  dsimp only
  split
  · exact .refl _ _
  · refine .ite (fun _ => .refl _ _) fun _ => .ite (fun _ =>
        State.onArr_within _ _ (State.meshFault_within _ _ (State.onArr_within _ _ (.refl _ _) ?_) ?_) ?_) fun _ =>
        State.enterVec_within _ _ _ _ (State.onArr_within _ _ (.refl _ _) ?_) ?_ <;> exact mem_footprint rfl

theorem slotRelease_stays {c : CoreId} : Stays (.slotRelease c) := by
  refine .of_next (fun _ => rfl) fun s => ?_
  split
  · exact State.onArr_within _ _ (.refl _ _) (mem_footprint rfl)
  · refine State.bubble_within _ _ _ (State.onArr_within _ _ (.refl _ _) ?_) ?_ ?_ <;> exact mem_footprint rfl
  · extract_lets s1 s2
    have hs1 : Within (footprint (.slotRelease c)) s s1 := State.onArr_within _ _ (.refl _ _) (mem_footprint rfl)
    have hs2 : Within (footprint (.slotRelease c)) s s2 := State.onArr_within _ _ hs1 (mem_footprint rfl)
    split
    · split
      · refine State.releaseVec_within _ _ _ _ hs2 ?_ ?_ <;> exact mem_footprint rfl
      · refine State.bubble_within _ _ _ hs2 ?_ ?_ <;> exact mem_footprint rfl
    · exact hs2

theorem swapWaveDone_stays {c : CoreId} : Stays (.swapWaveDone c) := by
  refine .of_next (fun _ => rfl) fun s => ?_
  split
  · exact .ite (fun _ => State.onArr_within _ _ (.refl _ _) (mem_footprint rfl)) fun _ => .refl _ _
  · exact .refl _ _

theorem termFormation_stays {c : CoreId} {seg : Fin 8} {n : Fin 2048} {scalerDiffers : Bool} :
    Stays (.termFormation c seg n scalerDiffers) := by
  refine .of_next (fun _ => rfl) fun s => .ite (fun _ => .refl _ _) fun _ => ?_
  split
  · exact .refl _ _
  next sl _ =>
    split
    extract_lets s1 s2 terms sl' s3
    have hs1 : Within (footprint (.termFormation c seg n scalerDiffers)) s s1 :=
      State.aflags_within _ _ (.refl _ _) (mem_footprint rfl)
    have hs2 : Within (footprint (.termFormation c seg n scalerDiffers)) s s2 := by
      refine .ite (fun _ => State.checkFault_within _ _ _ _ _ hs1 ?_ ?_) fun _ => hs1 <;> exact mem_footprint rfl
    have hs3 : Within (footprint (.termFormation c seg n scalerDiffers)) s s3 :=
      State.onArr_within _ _ hs2 (mem_footprint rfl)
    exact .ite (fun _ => State.contribute_within _ _ _ _ _ hs3 (mem_footprint rfl)) fun _ => hs3

theorem checkCompare_stays {c : CoreId} {seg : Fin 8} {tap : BitVec 3} {error : Int} :
    Stays (.checkCompare c seg tap error) := by
  refine .of_next (fun _ => rfl) fun s => ?_
  refine .ite (fun _ => .refl _ _) fun _ => ?_
  split
  · exact .refl _ _
  · refine .ite (fun _ => State.checkFault_within _ _ _ _ _ (State.onArr_within _ _ (.refl _ _) ?_) ?_ ?_) fun _ =>
        State.onArr_within _ _ (.refl _ _) ?_ <;> exact mem_footprint rfl

theorem drainWrite_stays {c : CoreId} {col : Fin 128} {tap : BitVec 3} : Stays (.drainWrite c col tap) := by
  refine .of_next (fun _ => rfl) fun s => ?_
  split
  · exact .refl _ _
  · split
    · exact .refl _ _
    · refine .ite (fun _ => State.onArr_within _ _ (.refl _ _) ?_) fun _ =>
          State.onArr_within _ _ (State.drainWord_within _ _ _ (State.entryParity_within _ _ (State.psmMeet_within _ _
          _ (.refl _ _) ?_) ?_) ?_ ?_ ?_) ?_ <;> exact mem_footprint rfl

theorem arrayFreeze_stays {c : CoreId} : Stays (.arrayFreeze c) := by
  refine .of_next (fun _ => rfl) fun s => ?_
  exact .ite (fun _ => State.onArr_within _ _ (.refl _ _) (mem_footprint rfl)) fun _ => .refl _ _

theorem arrayThaw_stays {c : CoreId} : Stays (.arrayThaw c) := by
  refine .of_next (fun _ => rfl) fun s => ?_
  exact .ite (fun _ => State.onArr_within _ _ (.refl _ _) (mem_footprint rfl)) fun _ => .refl _ _

theorem passComplete_stays {c : CoreId} : Stays (.passComplete c) := by
  refine .of_next (fun _ => rfl) fun s => ?_
  split
  · exact .refl _ _
  · refine .ite (fun _ => .refl _ _) fun _ => State.qPush_within _ _ _ _ _ (.ite (fun _ =>
        State.onArr_within _ _ (.refl _ _) ?_) fun _ =>
        State.count_within _ _ _ (State.onArr_within _ _ (.refl _ _) ?_) ?_) ?_ <;> exact mem_footprint rfl

theorem mxCtrlDrain_stays {c : CoreId} : Stays (.mxCtrlDrain c) := by
  refine .of_next (fun _ => rfl) fun s => ?_
  refine State.mxDrain_within _ (.refl _ _) ?_ ?_ <;> exact mem_footprint rfl

theorem arrayDrainDone_stays {c : CoreId} : Stays (.arrayDrainDone c) := by
  refine .of_next (fun _ => rfl) fun s => ?_
  split
  · refine .ite (fun _ => State.setFld_within _ _ _ _ _ (State.onArr_within _ _ (.refl _ _) ?_) ?_) fun _ =>
        .refl _ _ <;> exact mem_footprint rfl
  · exact .refl _ _

/-! ### The vector unit -/

/-- Every V instruction is the one meaning `State.vOp`, so one frame rule serves all of them. -/
theorem vInstr_stays {op : VOp} {c : CoreId} {v : VSlot} : Stays (vInstr op c v) := by
  have hexec (s : State) : exec (vInstr op c v) s = .next (s.ifRuns c sV fun s => s.vOp c op v) := by cases op <;> rfl
  have hfoot : footprint (vInstr op c v) = [.regs, .am, .tb, .cores] := by cases op <;> rfl
  refine .of_next hexec fun s => ?_
  rw [hfoot]
  refine State.ifRuns_within _ _ _ (.refl _ _) ?_ fun _ h => State.vOp_within _ _ _ h ?_ ?_ ?_ ?_ <;> simp

theorem vectorResultWrite_stays {c : CoreId} : Stays (.vectorResultWrite c) := by
  refine .of_next (fun _ => rfl) fun s => ?_
  refine State.vresDue_within _ (.refl _ _) ?_ ?_ ?_ ?_ <;> exact mem_footprint rfl

/-! ### Bundles and their slots -/

theorem mout_stays {c : CoreId} {p : Pred} {dout : Side} {am : BitVec 16} {len : BitVec 12} :
    Stays (.mout c p dout am len) := by
  refine .of_next (fun _ => rfl) fun s => ?_
  refine State.ifRuns_within _ _ _ (.refl _ _) ?_ (fun _ h => State.pred_within _ _ _ h (fun _ h =>
      State.scheduled_within _ _ _ h ?_ ?_ (fun _ h => State.moutOp_within _ _ _ _ h ?_))) <;> exact mem_footprint rfl

theorem min_stays {c : CoreId} {p : Pred} {din : Side} {am : BitVec 16} {len : BitVec 12} :
    Stays (.min c p din am len) := by
  refine .of_next (fun _ => rfl) fun s => ?_
  refine State.ifRuns_within _ _ _ (.refl _ _) ?_ (fun _ h => State.pred_within _ _ _ h (fun _ h =>
      State.scheduled_within _ _ _ h ?_ ?_ (fun _ h => State.minOp_within _ _ _ _ _ _ h ?_))) <;>
      exact mem_footprint rfl

theorem mpass_stays {c : CoreId} {p : Pred} {din dout : Side} {am : BitVec 16} {len : BitVec 12} :
    Stays (.mpass c p din dout am len) := by
  refine .of_next (fun _ => rfl) fun s => ?_
  refine State.ifRuns_within _ _ _ (.refl _ _) ?_ (fun _ h => State.pred_within _ _ _ h (fun _ h =>
      State.scheduled_within _ _ _ h ?_ ?_ (fun _ h => State.minOp_within _ _ _ _ _ _ h ?_))) <;>
      exact mem_footprint rfl

theorem mred_stays {c : CoreId} {p : Pred} {din dout : Side} {w : BitVec 17} {len : BitVec 12} {role : BitVec 2} :
    Stays (.mred c p din dout w len role) := by
  refine .of_next (fun _ => rfl) fun s => ?_
  refine State.ifRuns_within _ _ _ (.refl _ _) ?_ (fun _ h => .ite (fun _ =>
      State.bundleFault_within _ h ?_ ?_) fun _ =>
      State.pred_within _ _ _ h (fun _ h => State.scheduled_within _ _ _ h ?_ ?_ (fun _ h => State.mredOp_within _ _ _
      _ _ _ h ?_))) <;> exact mem_footprint rfl

theorem xissue_stays {c : CoreId} {p : Pred} {token : Token} {cq : BitVec 2} : Stays (.xissue c p token cq) := by
  refine .of_next (fun _ => rfl) fun s => ?_
  refine State.ifRuns_within _ _ _ (.refl _ _) ?_ (fun _ h => .ite (fun _ =>
      State.bundleFault_within _ h ?_ ?_) fun _ =>
      State.pred_within _ _ _ h (fun _ h => State.xissueOp_within _ _ _ _ h ?_ ?_)) <;> exact mem_footprint rfl

theorem msend_stays {c : CoreId} {p : Pred} {chan : BitVec 5} {k : BitVec 3} {am : BitVec 16} {tag : Token} :
    Stays (.msend c p chan k am tag) := by
  refine .of_next (fun _ => rfl) fun s => ?_
  refine State.ifRuns_within _ _ _ (.refl _ _) ?_ (fun _ h => State.pred_within _ _ _ h (fun _ h =>
      State.msendSlot_within _ _ _ _ _ _ h ?_ ?_)) <;> exact mem_footprint rfl

theorem mpop_stays {c : CoreId} {p : Pred} {q : BitVec 4} {am : BitVec 16} : Stays (.mpop c p q am) := by
  refine .of_next (fun _ => rfl) fun s => ?_
  refine State.ifRuns_within _ _ _ (.refl _ _) ?_ (fun _ h => State.pred_within _ _ _ h (fun _ h =>
      State.mpopSlot_within _ _ _ _ h ?_ ?_)) <;> exact mem_footprint rfl

theorem credtest_stays {c : CoreId} {pd : BitVec 3} {chan : BitVec 5} {k : BitVec 3} :
    Stays (.credtest c pd chan k) := by
  refine .of_next (fun _ => rfl) fun s => ?_
  refine State.ifRuns_within _ _ _ (.refl _ _) ?_ (fun _ h => State.credtestOp_within _ _ _ _ h ?_) <;>
      exact mem_footprint rfl

theorem wait_stays {c : CoreId} {p : Pred} {q : BitVec 3} {token : Token} : Stays (.wait c p q token) := by
  refine .of_next (fun _ => rfl) fun s => ?_
  refine State.ifRuns_within _ _ _ (.refl _ _) ?_ (fun _ h => .ite (fun _ =>
      State.pred_within _ _ _ h (fun _ h => State.waitOp_within _ _ _ _ h ?_ ?_)) fun _ =>
      State.bundleFault_within _ h ?_ ?_) <;> exact mem_footprint rfl

theorem qtest_stays {c : CoreId} {pd : BitVec 3} {q : BitVec 3} {token : Token} : Stays (.qtest c pd q token) := by
  refine .of_next (fun _ => rfl) fun s => ?_
  refine State.ifRuns_within _ _ _ (.refl _ _) ?_ (fun _ h => .ite (fun _ =>
      State.bundleFault_within _ h ?_ ?_) fun _ => State.qtestOp_within _ _ _ _ h ?_) <;> exact mem_footprint rfl

theorem semsig_stays {c : CoreId} {p : Pred} {i : BitVec 6} {n : Byte} : Stays (.semsig c p i n) := by
  refine .of_next (fun _ => rfl) fun s => ?_
  refine State.ifRuns_within _ _ _ (.refl _ _) ?_ (fun _ h => .ite (fun _ =>
      State.bundleFault_within _ h ?_ ?_) fun _ =>
      State.pred_within _ _ _ h (fun _ h => State.semsigOp_within _ _ _ h ?_)) <;> exact mem_footprint rfl

theorem semsigr_stays {c : CoreId} {p : Pred} {chan : BitVec 5} {i : BitVec 6} {n : BitVec 4} :
    Stays (.semsigr c p chan i n) := by
  refine .of_next (fun _ => rfl) fun s => ?_
  refine State.ifRuns_within _ _ _ (.refl _ _) ?_ (fun _ h => .ite (fun _ =>
      State.bundleFault_within _ h ?_ ?_) fun _ =>
      State.pred_within _ _ _ h (fun _ h => State.semsigrOp_within _ _ _ _ h ?_)) <;> exact mem_footprint rfl

theorem semtry_stays {c : CoreId} {pd : BitVec 3} {i : BitVec 6} {n : Byte} : Stays (.semtry c pd i n) := by
  refine .of_next (fun _ => rfl) fun s => ?_
  refine State.ifRuns_within _ _ _ (.refl _ _) ?_ (fun _ h => .ite (fun _ =>
      State.bundleFault_within _ h ?_ ?_) fun _ => State.semtryOp_within _ _ _ _ h ?_ ?_) <;> exact mem_footprint rfl

theorem semwait_stays {c : CoreId} {p : Pred} {i : BitVec 6} {n : Byte} : Stays (.semwait c p i n) := by
  refine .of_next (fun _ => rfl) fun s => ?_
  refine State.ifRuns_within _ _ _ (.refl _ _) ?_ (fun _ h => .ite (fun _ =>
      State.bundleFault_within _ h ?_ ?_) fun _ =>
      State.pred_within _ _ _ h (fun _ h => State.semwaitOp_within _ _ _ _ h ?_ ?_)) <;> exact mem_footprint rfl

theorem mpoll_stays {c : CoreId} {pd : BitVec 3} {q : BitVec 4} : Stays (.mpoll c pd q) := by
  refine .of_next (fun _ => rfl) fun s => ?_
  refine State.ifRuns_within _ _ _ (.refl _ _) ?_ (fun _ h => State.writePred_within _ _ _ h ?_) <;>
      exact mem_footprint rfl

theorem gong_stays {c : CoreId} {slackSel : Bool} : Stays (.gong c slackSel) := by
  refine .of_next (fun _ => rfl) fun s => ?_
  refine State.ifRuns_within _ _ _ (.refl _ _) ?_ (fun _ h => State.gongOp_within _ _ h ?_) <;> exact mem_footprint rfl

theorem slack_stays {c : CoreId} : Stays (.slack c) := by
  refine .of_next (fun _ => rfl) fun s => ?_
  refine State.ifRuns_within _ _ _ (.refl _ _) ?_ (fun _ h => State.slackOp_within _ h ?_) <;> exact mem_footprint rfl

theorem endstep_stays {c : CoreId} : Stays (.endstep c) := by
  refine .of_next (fun _ => rfl) fun s => ?_
  refine State.ifRuns_within _ _ _ (.refl _ _) ?_ (fun _ h => State.endstepOp_within _ h ?_) <;> exact mem_footprint rfl

theorem loop_stays {c : CoreId} {n : BitVec 2} {target : BitVec 10} {countM1 : BitVec 9} :
    Stays (.loop c n target countM1) := by
  refine .of_next (fun _ => rfl) fun s => ?_
  refine State.ifRuns_within _ _ _ (.refl _ _) ?_ (fun _ h => State.loopOp_within _ _ _ _ _ h ?_) <;>
      exact mem_footprint rfl

theorem jump_stays {c : CoreId} {target : BitVec 10} : Stays (.jump c target) := by
  refine .of_next (fun _ => rfl) fun s => ?_
  refine State.ifRuns_within _ _ _ (.refl _ _) ?_ (fun _ h => State.setIndex_within _ _ h ?_) <;>
      exact mem_footprint rfl

theorem brp_stays {c : CoreId} {target : BitVec 10} {k : BitVec 3} {pol : Bool} : Stays (.brp c target k pol) := by
  refine .of_next (fun _ => rfl) fun s => ?_
  refine State.ifRuns_within _ _ _ (.refl _ _) ?_ (fun _ h => State.brpOp_within _ _ _ _ _ _ h ?_ ?_) <;>
      exact mem_footprint rfl

theorem switchbank_stays {c : CoreId} {token : Token} : Stays (.switchbank c token) := by
  refine .of_next (fun _ => rfl) fun s => ?_
  refine State.ifRuns_within _ _ _ (.refl _ _) ?_ (fun _ h => State.switchOp_within _ _ _ h ?_ ?_) <;>
      exact mem_footprint rfl

theorem bundleIssue_stays {c : CoreId} : Stays (.bundleIssue c) := by
  refine .of_next (fun _ => rfl) fun s => ?_
  refine .ite (fun _ => .refl _ _) fun _ => ?_
  extract_lets s1
  have hs1 : Within (footprint (.bundleIssue c)) s s1 := by
    refine State.startAc_within _ (.refl _ _) ?_ ?_ ?_ ?_ <;> exact mem_footprint rfl
  split
  · refine State.issue_within _ _ hs1 ?_ ?_ ?_ ?_ <;> exact mem_footprint rfl
  · exact State.onCore_within _ _ hs1 (mem_footprint rfl)

theorem heldBundleIssue_stays {c : CoreId} : Stays (.heldBundleIssue c) := by
  refine .of_next (fun _ => rfl) fun s => ?_
  refine .ite (fun _ => .refl _ _) fun _ => ?_
  extract_lets s1
  have hs1 : Within (footprint (.heldBundleIssue c)) s s1 := by
    refine State.startAc_within _ (.refl _ _) ?_ ?_ ?_ ?_ <;> exact mem_footprint rfl
  split
  · refine State.issue_within _ _ hs1 ?_ ?_ ?_ ?_ <;> exact mem_footprint rfl
  · exact State.onCore_within _ _ hs1 (mem_footprint rfl)

theorem coreQuiesce_stays {c : CoreId} : Stays (.coreQuiesce c) := by
  refine .of_next (fun _ => rfl) fun s => ?_
  refine .ite (fun _ => .refl _ _) fun _ => ?_
  extract_lets s1
  have hs1 : Within (footprint (.coreQuiesce c)) s s1 := by
    refine State.startAc_within _ (.refl _ _) ?_ ?_ ?_ ?_ <;> exact mem_footprint rfl
  refine .ite (fun _ => State.quiesce_within _ hs1 ?_ ?_) fun _ => hs1 <;> exact mem_footprint rfl

theorem holdTimeout_stays {c : CoreId} : Stays (.holdTimeout c) := by
  refine .of_next (fun _ => rfl) fun s => ?_
  extract_lets k limit s1
  have hs1 : Within (footprint (.holdTimeout c)) s s1 := by
    refine State.cqFaultMark_within _ _ (State.startAc_within _ (.refl _ _) ?_ ?_ ?_ ?_) ?_ ?_ <;>
      exact mem_footprint rfl
  split
  · exact .refl _ _
  refine .ite (fun _ => .refl _ _) fun _ => .ite (fun _ => State.quiesce_within _ hs1 ?_ ?_) fun _ =>
    .ite (fun _ => State.onCore_within _ _ hs1 ?_) fun _ => State.issue_within _ _ hs1 ?_ ?_ ?_ ?_ <;>
    exact mem_footprint rfl

theorem completionPush_stays {c : CoreId} {q : BitVec 3} : Stays (.completionPush c q) := by
  refine .of_next (fun _ => rfl) fun s => ?_
  split
  · exact .refl _ _
  · refine .ite (fun _ => .refl _ _) fun _ =>
        State.csSignal_within _ _ (State.qPush_within _ _ _ _ _ (State.onCore_within _ _ (.refl _ _) ?_) ?_) ?_ ?_ <;>
        exact mem_footprint rfl

/-! ### The crossbar -/

theorem csRead_stays {c : CoreId} : Stays (.csRead c) := by
  refine .of_next (fun _ => rfl) fun s => ?_
  split
  · exact .refl _ _
  · extract_lets d x s1 done
    have hs1 : Within (footprint (.csRead c)) s s1 := State.opIssue_within _ _ (.refl _ _) (mem_footprint rfl)
        (mem_footprint rfl)
    split
    · refine State.opFinish_within _ _ _ _ (State.xbFault_within _ _ hs1 ?_) ?_ <;> exact mem_footprint rfl
    · refine .ite (fun _ => State.opFinish_within _ _ _ _ hs1 ?_) fun _ =>
          State.onCore_within _ _ (State.xSend_within _ _ _ hs1 ?_) ?_ <;> exact mem_footprint rfl

theorem csUnitWrite_stays {c : CoreId} : Stays (.csUnitWrite c) := by
  refine .of_next (fun _ => rfl) fun s => ?_
  dsimp only
  split
  · exact .refl _ _
  · split
    · refine State.csUnitPut_within _ _ _ _ (.of_eq ‹_› (State.claimDyn_within _ _ _ _ (.refl _ _) ?_)) ?_ <;>
          exact mem_footprint rfl
    · exact .refl _ _

theorem csWrite_stays {c : CoreId} : Stays (.csWrite c) := by
  refine .of_next (fun _ => rfl) fun s => ?_
  split
  · exact .refl _ _
  · extract_lets d x i s1 done
    have hs1 : Within (footprint (.csWrite c)) s s1 := State.opIssue_within _ _ (.refl _ _) (mem_footprint rfl)
        (mem_footprint rfl)
    split
    · refine State.opFinish_within _ _ _ _ (State.xbFault_within _ _ hs1 ?_) ?_ <;> exact mem_footprint rfl
    · refine .ite (fun _ => State.opFinish_within _ _ _ _ (State.raise_within _ _ _ hs1 ?_) ?_) fun _ =>
          .ite (fun _ => State.opFinish_within _ _ _ _ hs1 ?_) fun _ =>
          .foldl _ _ (State.xSend_within _ _ _ hs1 ?_) (fun _ _ h => State.timedAccess_within _ _ _ _ _ h ?_) <;>
          exact mem_footprint rfl

/-! ### The page manager -/

theorem seqOpen_stays {d : DieId} : Stays (.seqOpen d) := by
  refine .of_next (fun _ => rfl) fun s => State.pgmRun_within _ _ _ (.refl _ _) ?_ ?_ fun _ _ _ _ e h =>
    State.pgmOpen_within e h ?_ ?_ ?_ <;> exact mem_footprint rfl

theorem append_stays {d : DieId} : Stays (.append d) := by
  refine .of_next (fun _ => rfl) fun s => State.pgmRun_within _ _ _ (.refl _ _) ?_ ?_ fun _ _ _ _ e h =>
    State.pgmAppend_within e h ?_ ?_ ?_ <;> exact mem_footprint rfl

theorem share_stays {d : DieId} : Stays (.share d) := by
  refine .of_next (fun _ => rfl) fun s => State.pgmRun_within _ _ _ (.refl _ _) ?_ ?_ fun _ _ _ _ e h =>
    State.pgmShare_within e h ?_ ?_ ?_ <;> exact mem_footprint rfl

theorem cow_stays {d : DieId} : Stays (.cow d) := by
  refine .of_next (fun _ => rfl) fun s => State.pgmRun_within _ _ _ (.refl _ _) ?_ ?_ fun _ _ _ _ e h =>
    State.pgmCow_within e h ?_ ?_ ?_ <;> exact mem_footprint rfl

theorem trunc_stays {d : DieId} : Stays (.trunc d) := by
  refine .of_next (fun _ => rfl) fun s => State.pgmRun_within _ _ _ (.refl _ _) ?_ ?_ fun _ _ _ _ e h =>
    State.pgmTrunc_within e h ?_ ?_ <;> exact mem_footprint rfl

theorem close_stays {d : DieId} : Stays (.close d) := by
  refine .of_next (fun _ => rfl) fun s => State.pgmRun_within _ _ _ (.refl _ _) ?_ ?_ fun _ _ _ _ e h =>
    State.pgmClose_within e h ?_ ?_ <;> exact mem_footprint rfl

theorem incref_stays {d : DieId} : Stays (.incref d) := by
  refine .of_next (fun _ => rfl) fun s => State.pgmRun_within _ _ _ (.refl _ _) ?_ ?_ fun _ _ _ _ e h =>
    State.pgmIncref_within e h ?_ <;> exact mem_footprint rfl

theorem decref_stays {d : DieId} : Stays (.decref d) := by
  refine .of_next (fun _ => rfl) fun s => State.pgmRun_within _ _ _ (.refl _ _) ?_ ?_ fun _ _ _ _ e h =>
    State.pgmDecref_within e h ?_ <;> exact mem_footprint rfl

theorem commit_stays {d : DieId} : Stays (.commit d) := by
  refine .of_next (fun _ => rfl) fun s =>
    State.pgmRun_within _ _ _ (.refl _ _) (mem_footprint rfl) (mem_footprint rfl) ?_
  rintro s w t x ⟨⟩ h
  exact State.onPgm_within _ _ h (mem_footprint rfl)

theorem rollback_stays {d : DieId} : Stays (.rollback d) := by
  refine .of_next (fun _ => rfl) fun s =>
    State.pgmRun_within _ _ _ (.refl _ _) (mem_footprint rfl) (mem_footprint rfl) ?_
  rintro s w t x ⟨⟩ h
  refine State.rollbackPgm_within _ h ?_ ?_ ?_ <;> exact mem_footprint rfl

theorem pgmIllegalOp_stays {d : DieId} : Stays (.pgmIllegalOp d) := by
  refine .of_next (fun _ => rfl) fun s =>
    State.pgmRun_within _ _ _ (.refl _ _) (mem_footprint rfl) (mem_footprint rfl) ?_
  rintro s w t x ⟨⟩

theorem pgmInit_stays {d : DieId} : Stays (.pgmInit d) := by
  refine .of_next (fun _ => rfl) fun s => ?_
  refine State.pgmInitReq_within _ (.refl _ _) ?_ ?_ <;> exact mem_footprint rfl

theorem pgmInitialisation_stays {d : DieId} : Stays (.pgmInitialisation d) := by
  refine .of_next (fun _ => rfl) fun s => ?_
  refine .ite (fun _ => .refl _ _) fun _ => ?_
  extract_lets s1
  have hs1 : Within (footprint (.pgmInitialisation d)) s s1 := State.setFld_within _ _ _ _ _ (State.onPgm_within _ _
      (.refl _ _) (mem_footprint rfl)) (mem_footprint rfl)
  refine .ite (fun _ => State.raise_within _ _ _ hs1 ?_) fun _ =>
      State.onPgm_within _ _ hs1 ?_ <;> exact mem_footprint rfl

theorem pgmRespop_stays {d : DieId} : Stays (.pgmRespop d) := by
  refine .of_next (fun _ => rfl) fun s => ?_
  exact State.pgmPopResult_within _ (.refl _ _) (mem_footprint rfl)

theorem pgmCepop_stays {d : DieId} : Stays (.pgmCepop d) := by
  refine .of_next (fun _ => rfl) fun s => ?_
  exact State.pgmPopCe_within _ (.refl _ _) (mem_footprint rfl)

/-! ### The DMA engine -/

theorem dmaJob_stays {c : CoreId} : Stays (.dmaJob c) := by
  refine .of_next (fun _ => rfl) fun s => ?_
  extract_lets s1
  have hs1 : Within (footprint (.dmaJob c)) s s1 := by
    unfold s1
    split
    · refine State.opIssue_within _ _ (.refl _ _) ?_ ?_ <;> exact mem_footprint rfl
    · exact .refl _ _
  split
  · refine State.onCore_within _ _ (State.onDma_within _ _ _ hs1 ?_) ?_ <;> exact mem_footprint rfl
  · exact hs1

theorem copy_stays {c : CoreId} {ch : Chan} : Stays (.copy c ch) := by
  refine .of_next (fun _ => rfl) fun s => ?_
  refine State.dmaFetch_within _ _ _ (.refl _ _) ?_ ?_ <;> exact mem_footprint rfl

theorem fill_stays {c : CoreId} {ch : Chan} : Stays (.fill c ch) := by
  refine .of_next (fun _ => rfl) fun s => ?_
  refine State.dmaFetch_within _ _ _ (.refl _ _) ?_ ?_ <;> exact mem_footprint rfl

theorem compare_stays {c : CoreId} {ch : Chan} : Stays (.compare c ch) := by
  refine .of_next (fun _ => rfl) fun s => ?_
  refine State.dmaFetch_within _ _ _ (.refl _ _) ?_ ?_ <;> exact mem_footprint rfl

theorem dmaChunk_stays {c : CoreId} {ch : Chan} : Stays (.dmaChunk c ch) := by
  refine .of_next (fun _ => rfl) fun s => ?_
  split
  · refine State.chunkStep_within _ _ (.refl _ _) ?_ ?_ ?_ ?_ ?_ <;> exact mem_footprint rfl
  · refine .ite (fun _ => .refl _ _) fun _ =>
        State.chunkStep_within _ _ (.refl _ _) ?_ ?_ ?_ ?_ ?_ <;> exact mem_footprint rfl

theorem dmaDescComplete_stays {c : CoreId} {ch : Chan} : Stays (.dmaDescComplete c ch) := by
  refine .of_next (fun _ => rfl) fun s => .ite (fun _ => .refl _ _) fun _ => ?_
  extract_lets cmp s1 s2 s3 sp sq1 sq2
  have hs1 : Within (footprint (.dmaDescComplete c ch)) s s1 :=
    .ite (fun _ => State.raise_within _ _ _ (.refl _ _) (mem_footprint rfl)) fun _ => .refl _ _
  have hs2 : Within (footprint (.dmaDescComplete c ch)) s s2 :=
    .ite (fun _ => State.semSignal_within _ _ _ hs1 (mem_footprint rfl) (mem_footprint rfl)) fun _ => hs1
  have hs3 : Within (footprint (.dmaDescComplete c ch)) s s3 :=
    .ite (fun _ => State.compareRegs_within _ _ _ _ hs2 (mem_footprint rfl)) fun _ => hs2
  have hsp : Within (footprint (.dmaDescComplete c ch)) s sp := by
    unfold sp
    split
    · exact State.onCore_within _ _ hs3 (mem_footprint rfl)
    · exact hs3
  have hsq1 : Within (footprint (.dmaDescComplete c ch)) s sq1 :=
    State.count_within _ _ _ (State.setReg_within _ _ _ hs3 (mem_footprint rfl)) (mem_footprint rfl)
  have hsq2 : Within (footprint (.dmaDescComplete c ch)) s sq2 :=
    .ite (fun _ => State.dmaIrq_within _ hsq1 (mem_footprint rfl)) fun _ => hsq1
  split
  · exact State.onDma_within _ _ _ hsp (mem_footprint rfl)
  · refine .ite (fun _ => State.qIdle_within _ hsq2 ?_ ?_) fun _ => State.onDma_within _ _ _ hsq2 ?_ <;>
      exact mem_footprint rfl

theorem dmaLinkRead_stays {c : CoreId} {ch : Chan} : Stays (.dmaLinkRead c ch) := by
  refine .of_next (fun _ => rfl) fun s => ?_
  refine .ite (fun _ => .refl _ _) fun _ => ?_
  split
  · refine .ite (fun _ => State.jobEnd_within _ _ _ (.refl _ _) ?_) fun _ => .ite (fun _ =>
        State.jobEnd_within _ _ _ (State.raise_within _ _ _ (State.dmaFault_within _ _ _ _ _ (.refl _ _) ?_) ?_) ?_)
        fun _ => State.onDma_within _ _ _ (.refl _ _) ?_ <;> exact mem_footprint rfl
  · refine .ite (fun _ => State.onDma_within _ _ _ (.refl _ _) ?_) fun _ =>
        State.onDma_within _ _ _ (.refl _ _) ?_ <;> exact mem_footprint rfl

theorem dmaDoorbell_stays {c : CoreId} : Stays (.dmaDoorbell c) := by
  refine .of_next (fun _ => rfl) fun s => ?_
  exact State.doorbell_within _ (.refl _ _) (mem_footprint rfl)

theorem dmaQctrlStop_stays {c : CoreId} : Stays (.dmaQctrlStop c) := by
  refine .of_next (fun _ => rfl) fun s => ?_
  refine State.qStop_within _ (.refl _ _) ?_ ?_ <;> exact mem_footprint rfl

/-! ### The sequencer and step launch -/

theorem programBlock_stays {d : DieId} : Stays (.programBlock d) := by
  refine .of_next (fun _ => rfl) fun s => ?_
  refine State.startBlock_within _ _ _ (.refl _ _) ?_ ?_ ?_ (fun _ _ _ _ h => State.programRun_within _ _ _ _ h ?_ ?_
      ?_ ?_ ?_) <;> exact mem_footprint rfl

theorem streamBlock_stays {d : DieId} : Stays (.streamBlock d) := by
  refine .of_next (fun _ => rfl) fun s => ?_
  refine State.startBlock_within _ _ _ (.refl _ _) ?_ ?_ ?_ (fun _ _ _ _ h => State.streamRun_within _ _ _ h ?_ ?_ ?_)
      <;> exact mem_footprint rfl

theorem streamPush_stays {d : DieId} : Stays (.streamPush d) := by
  refine .of_next (fun _ => rfl) fun s => ?_
  refine .ite (fun _ => .refl _ _) fun _ => ?_
  split
  · refine .ite (fun _ => State.windowPush_within _ (.refl _ _) ?_ ?_ ?_) fun _ =>
        State.streamMoved_within _ _ (State.seqPush_within _ _ _ _ _ (.refl _ _) ?_ ?_ ?_) ?_ <;>
        exact mem_footprint rfl
  · refine State.windowPush_within _ (.refl _ _) ?_ ?_ ?_ <;> exact mem_footprint rfl

theorem cqCcdone_stays {d : DieId} : Stays (.cqCcdone d) := by
  refine .of_next (fun _ => rfl) fun s => ?_
  refine State.ccDone_within _ (.refl _ _) ?_ ?_ <;> exact mem_footprint rfl

theorem cqCcpushctlGo_stays {d : DieId} {queue : Bool} {pos : BitVec 6} {token : Token} :
    Stays (.cqCcpushctlGo d queue pos token) := by
  refine .of_next (fun _ => rfl) fun s => ?_
  refine State.pushGo_within _ _ _ _ (.refl _ _) ?_ ?_ <;> exact mem_footprint rfl

theorem fenceBlock_stays {d : DieId} : Stays (.fenceBlock d) := by
  refine .of_next (fun _ => rfl) fun s => ?_
  split
  · exact .refl _ _
  next u e =>
    have hu : Within (footprint (.fenceBlock d)) s u := by
      refine State.nextBlock_within e (.refl _ _) ?_ ?_ <;> exact mem_footprint rfl
    have hbad (n : Nat) (x : Ctx) : Within (footprint (.fenceBlock d)) s (u.cmdFault d n x) := by
      refine State.cmdFault_within _ _ _ hu ?_ ?_ <;> exact mem_footprint rfl
    exact .ite (fun _ => hbad _ _) fun _ => .ite (fun _ => .refl _ _) fun _ => .ite (fun _ => hbad _ _) fun _ =>
      .ite (fun _ => hu) fun _ => .refl _ _

theorem launchBlock_stays {d : DieId} : Stays (.launchBlock d) := by
  refine .of_next (fun _ => rfl) fun s => ?_
  refine State.startBlock_within _ _ _ (.refl _ _) ?_ ?_ ?_ (fun _ _ _ _ h => State.launchRun_within _ _ _ _ h ?_ ?_
      ?_) <;> exact mem_footprint rfl

theorem bankCopy_stays {d : DieId} : Stays (.bankCopy d) := by
  refine .of_next (fun _ => rfl) fun s => ?_
  refine .ite (fun _ => .refl _ _) fun _ => .ite (fun _ => State.onDie_within _ _ (.refl _ _) ?_) fun _ =>
      State.onDie_within _ _ (.refl _ _) ?_ <;> exact mem_footprint rfl

theorem stepLaunch_stays {x : Ctx} : Stays (.stepLaunch x) := by
  refine .of_next (fun _ => rfl) fun s => ?_
  refine .ite (fun _ => .refl _ _) fun _ => .ite (fun _ =>
      State.disarm_within _ (.foldl _ _ (.refl _ _) (fun _ _ h => ?_)) (mem_footprint rfl)) fun _ => ?_
  · split
    · exact .ite (fun _ => State.ccFault_within _ _ h (mem_footprint rfl)) fun _ => h
    · exact h
  · extract_lets dies as p s1
    have hs1 : Within (footprint (.stepLaunch x)) s s1 := State.recordLaunch_within _ _ (State.disarm_within _ (.refl _
        _) (mem_footprint rfl)) (mem_footprint rfl)
    refine .ite (fun _ => State.onCtx_within _ _ (State.raise_within _ _ _ hs1 ?_) ?_) fun _ =>
        State.launchAll_within _ _ hs1 ?_ ?_ ?_ ?_ <;> exact mem_footprint rfl

/-! ### Receipts -/

theorem signAppend_stays {e : Encl} : Stays (.signAppend e) := by
  refine .of_next (fun _ => rfl) fun s => ?_
  split
  · exact .ite (fun _ => State.appendSign_within _ (.refl _ _) (mem_footprint rfl)) fun _ => .refl _ _
  · exact .refl _ _

theorem signatureComplete_stays {e : Encl} : Stays (.signatureComplete e) := by
  refine .of_next (fun _ => rfl) fun s => ?_
  exact State.setChain_within _ _ (.refl _ _) (mem_footprint rfl)

/-! ### Retirement and scrub -/

theorem mxCepop_stays {c : CoreId} : Stays (.mxCepop c) := by
  refine .of_next (fun _ => rfl) fun s => ?_
  exact State.popCe_within _ (.refl _ _) (mem_footprint rfl)

theorem mxRetire_stays {c : CoreId} {layer : Bool} {row : BitVec 14} : Stays (.mxRetire c layer row) := by
  refine .of_next (fun _ => rfl) fun s => ?_
  refine State.mxRetire_within _ _ _ (.refl _ _) ?_ ?_ <;> exact mem_footprint rfl

theorem pgmRetire_stays {d : DieId} {slice : BitVec 5} {row : BitVec 14} : Stays (.pgmRetire d slice row) := by
  refine .of_next (fun _ => rfl) fun s => ?_
  refine State.pgmRetire_within _ _ _ (.refl _ _) ?_ ?_ <;> exact mem_footprint rfl

theorem rowSwitch_stays {u : RetireUnit} : Stays (.rowSwitch u) := by
  refine .of_next (fun _ => rfl) fun s => ?_
  split
  · split
    · exact .refl _ _
    · refine .ite (fun _ => .refl _ _) fun _ =>
          State.orReg_within _ _ _ (State.setFld_within _ _ _ _ _ (State.onCore_within _ _ (State.wsSound_within _
          (.refl _ _) ?_) ?_) ?_) ?_ <;> exact mem_footprint rfl
  · split
    · exact .refl _ _
    · refine .ite (fun _ => .refl _ _) fun _ =>
          State.orReg_within _ _ _ (State.setFld_within _ _ _ _ _ (State.onPgm_within _ _ (State.csSound_within _
          (.refl _ _) ?_) ?_) ?_) ?_ <;> exact mem_footprint rfl

theorem wsScrub_stays {c : CoreId} : Stays (.wsScrub c) := by
  refine .of_next (fun _ => rfl) fun s => ?_
  refine .ite (fun _ => .refl _ _) fun _ =>
      State.onCore_within _ _ (State.wsScrubWord_within _ _ (.refl _ _) ?_ ?_ ?_) ?_ <;> exact mem_footprint rfl

theorem amScrub_stays {c : CoreId} : Stays (.amScrub c) := by
  refine .of_next (fun _ => rfl) fun s => ?_
  refine .ite (fun _ => .refl _ _) fun _ => ?_
  split
  · exact .refl _ _
  · extract_lets key e t t1
    have ht : Within (footprint (.amScrub c)) s t := by
      refine .ite (fun _ => .of_eq ‹_› (State.claimDyn_within _ _ _ _ (.refl _ _) ?_)) fun _ =>
          State.amReadWord_within _ _ (.of_eq ‹_› (State.claimDyn_within _ _ _ _ (.refl _ _) ?_)) ?_ ?_ ?_ <;>
          exact mem_footprint rfl
    have ht1 : Within (footprint (.amScrub c)) s t1 := .ite (fun _ =>
        State.setAmErr_within _ _ ht (mem_footprint rfl)) fun _ => ht
    exact State.onCore_within _ _ ht1 (mem_footprint rfl)

theorem psmScrub_stays {d : DieId} {pos : Fin 64} : Stays (.psmScrub d pos) := by
  refine .of_next (fun _ => rfl) fun s => ?_
  refine .ite (fun _ => .refl _ _) fun _ =>
      State.onCore_within _ _ (.foldl _ _ (.refl _ _) (fun _ _ h => State.psmScrubHalf_within _ _ h ?_ ?_ ?_)) ?_ <;>
      exact mem_footprint rfl

theorem csScrub_stays {d : DieId} {slice : BitVec 5} : Stays (.csScrub d slice) := by
  refine .of_next (fun _ => rfl) fun s => ?_
  refine .ite (fun _ => .refl _ _) fun _ => ?_
  split
  · exact .of_eq ‹_› (State.sliceTake_within _ _ _ (.refl _ _) (mem_footprint rfl))
  · extract_lets s1 n u e s2 s3
    have hs1 : Within (footprint (.csScrub d slice)) s s1 := State.scrubTurn_within _ _ (.of_eq ‹_›
        (State.sliceTake_within _ _ _ (.refl _ _) (mem_footprint rfl))) (mem_footprint rfl)
    have hs2 : Within (footprint (.csScrub d slice)) s s2 := State.csRead_within _ _ hs1 (mem_footprint rfl)
        (mem_footprint rfl)
    have hs3 : Within (footprint (.csScrub d slice)) s s3 := .ite (fun _ => hs2) fun _ =>
        State.setCsErr_within _ _ hs2 (mem_footprint rfl)
    exact State.onDie_within _ _ hs3 (mem_footprint rfl)

theorem weightStoreWrite_stays {c : CoreId} : Stays (.weightStoreWrite c) := by
  refine .of_next (fun _ => rfl) fun s => ?_
  split
  · exact .refl _ _
  · refine .ite (fun _ => .refl _ _) fun _ => .ite (fun _ => State.onCore_within _ _ (.refl _ _) ?_) fun _ =>
        State.wsPut_within _ _ (State.onCore_within _ _ (.refl _ _) ?_) ?_ ?_ ?_ <;> exact mem_footprint rfl

/-! ### Ownership -/

theorem assign_stays {d : DieId} {x : Ctx} {e : Encl} : Stays (.assign d x e) := by
  refine .of_next (fun _ => rfl) fun s => ?_
  refine State.assign_within _ _ _ (.refl _ _) ?_ ?_ <;> exact mem_footprint rfl

theorem coreAbort_stays {d : DieId} {mask : Word64} : Stays (.coreAbort d mask) := by
  refine .of_next (fun _ => rfl) fun s => ?_
  exact State.abortWrite_within _ _ (.refl _ _) (mem_footprint rfl)

theorem release_stays {d : DieId} : Stays (.release d) := by
  refine .of_next (fun _ => rfl) fun s => ?_
  refine State.release_within _ (.refl _ _) ?_ ?_ ?_ <;> exact mem_footprint rfl

theorem meshRemapWrite_stays {d : DieId} {v : Word32} : Stays (.meshRemapWrite d v) := by
  refine .of_next (fun _ => rfl) fun s => ?_
  refine State.remapWrite_within _ _ (.refl _ _) ?_ ?_ <;> exact mem_footprint rfl

/-! ### Links -/

theorem linkSignalDetect_stays {l : LinkId} : Stays (.linkSignalDetect l) := by
  refine .of_next (fun _ => rfl) fun s => ?_
  exact .ite (fun _ => State.setLink_within _ _ (.refl _ _) (mem_footprint rfl)) fun _ => .refl _ _

theorem linkTrainDone_stays {l : LinkId} {passes : List (BitVec 2)} : Stays (.linkTrainDone l passes) := by
  refine .of_next (fun _ => rfl) fun s => ?_
  refine .ite (fun _ => .refl _ _) fun _ => ?_
  split
  · refine .ite (fun _ => State.setLink_within _ _ (.refl _ _) ?_) fun _ =>
        State.linkToDown_within _ (.refl _ _) ?_ ?_ ?_ ?_ ?_ ?_ ?_ ?_ <;> exact mem_footprint rfl
  · refine State.linkToDown_within _ (.refl _ _) ?_ ?_ ?_ ?_ ?_ ?_ ?_ ?_ <;> exact mem_footprint rfl

theorem linkTrainTimeout_stays {l : LinkId} : Stays (.linkTrainTimeout l) := by
  refine .of_next (fun _ => rfl) fun s => ?_
  refine .ite (fun _ => State.linkToDown_within _ (.refl _ _) ?_ ?_ ?_ ?_ ?_ ?_ ?_ ?_) fun _ =>
      .refl _ _ <;> exact mem_footprint rfl

theorem linkAdmit_stays {l : LinkId} : Stays (.linkAdmit l) := by
  refine .of_next (fun _ => rfl) fun s => ?_
  refine State.linkAdmit_within _ (.refl _ _) ?_ ?_ <;> exact mem_footprint rfl

theorem laneFailure_stays {l : LinkId} : Stays (.laneFailure l) := by
  refine .of_next (fun _ => rfl) fun s => ?_
  refine .ite (fun _ => .refl _ _) fun _ => .ite (fun _ =>
      State.linkToDown_within _ (.refl _ _) ?_ ?_ ?_ ?_ ?_ ?_ ?_ ?_) fun _ =>
      State.fault_within _ _ _ _ _ _ _ (State.onLink_within _ _ (State.loseCur_within _ (.ite (fun _ =>
      State.drop_within _ _ (.refl _ _) ?_) fun _ =>
      .refl _ _) ?_ ?_ ?_) ?_) ?_ ?_ ?_ ?_ ?_ ?_ ?_ <;> exact mem_footprint rfl

theorem linkRetrainTimeout_stays {l : LinkId} : Stays (.linkRetrainTimeout l) := by
  refine .of_next (fun _ => rfl) fun s => ?_
  refine .ite (fun _ => State.linkToDown_within _ (.refl _ _) ?_ ?_ ?_ ?_ ?_ ?_ ?_ ?_) fun _ =>
      .refl _ _ <;> exact mem_footprint rfl

theorem linkDown_stays {l : LinkId} : Stays (.linkDown l) := by
  refine .of_next (fun _ => rfl) fun s => ?_
  refine State.linkToDown_within _ (.refl _ _) ?_ ?_ ?_ ?_ ?_ ?_ ?_ ?_ <;> exact mem_footprint rfl

theorem cableInsert_stays {dk : Fin 12} {milliwatts : Nat} : Stays (.cableInsert dk milliwatts) := by
  refine .of_next (fun _ => rfl) fun s => ?_
  exact .foldl _ _ (.refl _ _) (fun _ _ h => State.onLink_within _ _ h (mem_footprint rfl))

theorem frameReceive_stays {l : LinkId} {corrected uncorrectable : Bool} {control : BitVec 256} :
    Stays (.frameReceive l corrected uncorrectable control) := by
  refine .of_next (fun _ => rfl) fun s => ?_
  refine .ite (fun _ => .refl _ _) fun _ => .ite (fun _ =>
      State.fault_within _ _ _ _ _ _ _ (State.setLink_within _ _ (.ite (fun _ =>
      State.drop_within _ _ (.refl _ _) (mem_footprint rfl)) fun _ =>
      .refl _ _) (mem_footprint rfl)) (mem_footprint rfl) (mem_footprint rfl) (mem_footprint rfl) (mem_footprint rfl)
      (mem_footprint rfl) (mem_footprint rfl) (mem_footprint rfl)) fun _ => ?_
  extract_lets s1
  have hs1 : Within (footprint (.frameReceive l corrected uncorrectable control)) s s1 := .ite (fun _ =>
      State.onLink_within _ _ (.refl _ _) (mem_footprint rfl)) fun _ => .refl _ _
  refine .ite (fun _ => State.drop_within _ _ hs1 ?_) fun _ => State.takeCredit_within _ _ (.ite (fun _ =>
      State.onLink_within _ _ hs1 ?_) fun _ => hs1) ?_ <;> exact mem_footprint rfl

theorem ident_stays {l : LinkId} {peerLink : BitVec 6} {e : Endpoint} {fabricId idDigest : Word64} :
    Stays (.ident l peerLink e fabricId idDigest) := by
  refine .of_next (fun _ => rfl) fun s => ?_
  exact .ite (fun _ => .refl _ _) fun _ => State.setLink_within _ _ (.refl _ _) (mem_footprint rfl)

theorem identTimer_stays {l : LinkId} : Stays (.identTimer l) := by
  refine .of_next (fun _ => rfl) fun s => ?_
  refine .ite (fun _ => State.sendControl_within _ _ (State.setLink_within _ _ (.refl _ _) ?_) ?_) fun _ =>
      .refl _ _ <;> exact mem_footprint rfl

theorem packetResidenceExpire_stays {l : LinkId} : Stays (.packetResidenceExpire l) := by
  refine .of_next (fun _ => rfl) fun s => ?_
  refine .foldl _ _ (.foldl _ _ (State.onRouter_within _ _ (.foldl _ _ (State.setLink_within _ _ (.refl _ _)
      (mem_footprint rfl)) (fun _ _ h => State.drop_within _ _ h (mem_footprint rfl))) (mem_footprint rfl))
      (fun _ _ h => ?_)) (fun _ _ h => .foldl _ _ (State.onRouter_within _ _ h (mem_footprint rfl)) (fun _ _ h =>
      State.freeRx_within _ _ (State.drop_within _ _ h (mem_footprint rfl)) (mem_footprint rfl)))
  extract_lets s1
  have hs1 : Within (footprint (.packetResidenceExpire l)) s s1 := State.drop_within _ _ h (mem_footprint rfl)
  split
  · exact State.freeRx_within _ _ hs1 (mem_footprint rfl)
  · exact State.freeRx_within _ _ hs1 (mem_footprint rfl)
  · exact hs1

theorem linkSecuritySession_stays {l : LinkId} {secret : Option Digest} : Stays (.linkSecuritySession l secret) := by
  refine .of_next (fun _ => rfl) fun s => ?_
  refine .ite (fun _ => State.session_within _ _ (.refl _ _) ?_ ?_) fun _ => .refl _ _ <;> exact mem_footprint rfl

theorem linkSessionRetry_stays {l : LinkId} {secret : Option Digest} : Stays (.linkSessionRetry l secret) := by
  refine .of_next (fun _ => rfl) fun s => ?_
  split
  · refine .ite (fun _ => State.session_within _ _ (.refl _ _) ?_ ?_) fun _ => .refl _ _ <;> exact mem_footprint rfl
  · exact .refl _ _

theorem linkRekey_stays {l : LinkId} : Stays (.linkRekey l) := by
  refine .of_next (fun _ => rfl) fun s => ?_
  refine State.rekey_within _ (.refl _ _) ?_ ?_ <;> exact mem_footprint rfl

/-! ### The Carillon -/

theorem carillonLoad_stays : Stays .carillonLoad := by
  refine .of_next (fun _ => rfl) fun s => ?_
  refine State.carLoad_within (.refl _ _) ?_ ?_ <;> exact mem_footprint rfl

theorem tsExchangeTimer_stays : Stays .tsExchangeTimer := by
  refine .of_next (fun _ => rfl) fun s => ?_
  split
  · refine .ite (fun _ => State.sendControl_within _ _ (State.onMod_within _ (.refl _ _) ?_) ?_) fun _ =>
        .refl _ _ <;> exact mem_footprint rfl
  · exact .refl _ _

theorem tsReq_stays {l : LinkId} {seq : Byte} {t1 t2 t3 : Word64} : Stays (.tsReq l seq t1 t2 t3) := by
  refine .of_next (fun _ => rfl) fun s => ?_
  exact State.sendControl_within _ _ (.refl _ _) (mem_footprint rfl)

theorem tsRsp_stays {l : LinkId} {seq : Byte} {t1 t2 t3 t4 : Word64} : Stays (.tsRsp l seq t1 t2 t3 t4) := by
  refine .of_next (fun _ => rfl) fun s => ?_
  refine .ite (fun _ => .refl _ _) fun _ =>
      State.carExchange_within _ (State.showOffset_within _ (.ite (fun _ =>
      State.carEnter_within _ (.refl _ _) ?_ ?_) fun _ => .refl _ _) ?_) ?_ ?_ <;> exact mem_footprint rfl

theorem carillonExchangeLoss_stays : Stays .carillonExchangeLoss := by
  refine .of_next (fun _ => rfl) fun s => ?_
  refine .ite (fun _ => State.carEnter_within _ (.refl _ _) ?_ ?_) fun _ => .refl _ _ <;> exact mem_footprint rfl

theorem holdoverExpire_stays : Stays .holdoverExpire := by
  refine .of_next (fun _ => rfl) fun s => ?_
  refine .ite (fun _ => State.raise_within _ _ _ (State.carEnter_within _ (.refl _ _) ?_ ?_) ?_) fun _ =>
      .refl _ _ <;> exact mem_footprint rfl

/-! ### Tables and routes -/

theorem tableWrite_stays {i : IoId} {table bank : Bool} {index : BitVec 16} :
    Stays (.tableWrite i table bank index) := by
  refine .of_next (fun _ => rfl) fun s => ?_
  refine State.tableGo_within _ _ (.refl _ _) ?_ ?_ <;> exact mem_footprint rfl

theorem tableRead_stays {i : IoId} {table bank : Bool} {index : BitVec 16} : Stays (.tableRead i table bank index) := by
  refine .of_next (fun _ => rfl) fun s => ?_
  refine State.tableGo_within _ _ (.refl _ _) ?_ ?_ <;> exact mem_footprint rfl

theorem fabRetag_stays {i : IoId} {bank : Bool} {tag : Byte} : Stays (.fabRetag i bank tag) := by
  refine .of_next (fun _ => rfl) fun s => ?_
  refine State.retag_within _ _ _ (.refl _ _) ?_ ?_ <;> exact mem_footprint rfl

theorem epochArm_stays {i : IoId} {staged : Byte} : Stays (.epochArm i staged) := by
  refine .of_next (fun _ => rfl) fun s => ?_
  exact State.epochArm_within _ _ (.refl _ _) (mem_footprint rfl)

theorem epochActivate_stays {i : IoId} : Stays (.epochActivate i) := by
  refine .of_next (fun _ => rfl) fun s => ?_
  refine .ite (fun _ => .refl _ _) fun _ => .ite (fun _ =>
      State.routerFault_within _ _ (State.setFld_within _ _ _ _ _ (.refl _ _) ?_) ?_) fun _ =>
      State.onRouter_within _ _ (State.setFld_within _ _ _ _ _ (State.setFld_within _ _ _ _ _ (.refl _ _) ?_) ?_) ?_
      <;> exact mem_footprint rfl

theorem packetRoute_stays {i : IoId} {src : RouteSrc} : Stays (.packetRoute i src) := by
  refine .of_next (fun _ => rfl) fun s => ?_
  split
  · refine .ite (fun _ => State.arrive_within _ _ _ (.refl _ _) ?_ ?_ ?_ ?_) fun _ =>
        .refl _ _ <;> exact mem_footprint rfl
  · refine State.ringTake_within _ (.refl _ _) ?_ ?_ ?_ ?_ <;> exact mem_footprint rfl
  · split
    · exact .refl _ _
    · refine State.routePacket_within _ _ _ (State.putLeft_within _ (State.onRouter_within _ _ (.refl _ _) ?_) ?_) ?_
          ?_ ?_ ?_ <;> exact mem_footprint rfl

theorem ccWindowExpire_stays {c : CoreId} : Stays (.ccWindowExpire c) := by
  refine .of_next (fun _ => rfl) fun s => ?_
  exact .ite (fun _ => .refl _ _) fun _ => State.onCore_within _ _ (.refl _ _) (mem_footprint rfl)

/-! ### Fabric operations -/

theorem put_stays {c : CoreId} : Stays (.put c) := by
  refine .of_next (fun _ => rfl) fun s => ?_
  refine State.fabRun_within _ _ _ _ (.refl _ _) ?_ ?_ (fun _ _ h => State.fabOut_within _ _ _ h ?_) <;>
      exact mem_footprint rfl

theorem mcast_stays {c : CoreId} : Stays (.mcast c) := by
  refine .of_next (fun _ => rfl) fun s => ?_
  refine State.fabRun_within _ _ _ _ (.refl _ _) ?_ ?_ (fun _ _ h => State.fabOut_within _ _ _ h ?_) <;>
      exact mem_footprint rfl

theorem stream_stays {c : CoreId} : Stays (.stream c) := by
  refine .of_next (fun _ => rfl) fun s => ?_
  refine .ite (fun _ => .refl _ _) fun _ =>
      State.fabRun_within _ _ _ _ (.refl _ _) ?_ ?_ (fun _ _ h => State.bindPump_within _ (State.onCore_within _ _ h
      ?_) ?_ ?_) <;> exact mem_footprint rfl

theorem egressFlitArrive_stays {c : CoreId} {parityError : Bool} : Stays (.egressFlitArrive c parityError) := by
  refine .of_next (fun _ => rfl) fun s => ?_
  refine State.edgeTake_within _ _ (.refl _ _) ?_ ?_ ?_ ?_ <;> exact mem_footprint rfl

theorem emit_stays {c : CoreId} : Stays (.emit c) := by
  refine .of_next (fun _ => rfl) fun s => ?_
  refine State.fabRun_within _ _ _ _ (.refl _ _) ?_ ?_ (fun _ _ h => State.fabOut_within _ _ _ h ?_) <;>
      exact mem_footprint rfl

theorem putReceive_stays {i : IoId} : Stays (.putReceive i) := by
  refine .of_next (fun _ => rfl) fun s => ?_
  split
  · exact .refl _ _
  · dsimp only
    split
    · refine State.sendAck_within _ _ _ _ _ (State.drop_within _ _ (State.takeDelivered_within _ _ (.refl _ _) ?_ ?_)
          ?_) ?_ <;> exact mem_footprint rfl
    · refine .ite (fun _ => State.sendAck_within _ _ _ _ _ (State.drop_within _ _ (State.takeDelivered_within _ _
          (.refl _ _) ?_ ?_) ?_) ?_) fun _ => .ite (fun _ => .refl _ _) fun _ =>
          State.linesTo_within _ _ _ (State.track_within _ _ _ (State.takeDelivered_within _ _ (.refl _ _) ?_ ?_) ?_)
          ?_ <;> exact mem_footprint rfl

theorem mcastReceive_stays {i : IoId} : Stays (.mcastReceive i) := by
  refine .of_next (fun _ => rfl) fun s => ?_
  split
  · exact .refl _ _
  · refine State.oneWay_within _ _ _ (.ite (fun _ => .refl _ _) fun _ =>
        .foldl _ _ (.refl _ _) (fun _ _ h => State.drop_within _ _ h ?_)) ?_ ?_ ?_ <;> exact mem_footprint rfl

theorem streamReceive_stays {i : IoId} : Stays (.streamReceive i) := by
  refine .of_next (fun _ => rfl) fun s => ?_
  split
  · exact .refl _ _
  · refine State.oneWay_within _ _ _ (.refl _ _) ?_ ?_ ?_ <;> exact mem_footprint rfl

theorem ackReceive_stays {i : IoId} : Stays (.ackReceive i) := by
  refine .of_next (fun _ => rfl) fun s => ?_
  split
  · exact .refl _ _
  · extract_lets h s1
    have hs1 : Within (footprint (.ackReceive i)) s s1 := State.takeDelivered_within _ _ (.refl _ _)
        (mem_footprint rfl) (mem_footprint rfl)
    refine .ite (fun _ => State.drop_within _ _ hs1 (mem_footprint rfl)) fun _ => ?_
    split
    · exact State.drop_within _ _ hs1 (mem_footprint rfl)
    · extract_lets s2
      have hs2 : Within (footprint (.ackReceive i)) s s2 := State.onCore_within _ _ (.ite (fun _ =>
          State.echo_within _ hs1 (mem_footprint rfl)) fun _ => hs1) (mem_footprint rfl)
      split
      · exact State.portEnter_within _ _ _ _ _ _ _ hs2 (mem_footprint rfl)
      · exact hs2

theorem inboundEntryTimeout_stays {i : IoId} : Stays (.inboundEntryTimeout i) := by
  refine .of_next (fun _ => rfl) fun s => ?_
  refine .foldl _ _ (State.onRouter_within _ _ (.refl _ _) ?_) (fun _ _ h => State.timeoutEvent_within _ _ h ?_ ?_ ?_
      ?_ ?_ ?_ ?_) <;> exact mem_footprint rfl

theorem reduce_stays {c : CoreId} : Stays (.reduce c) := by
  refine .of_next (fun _ => rfl) fun s => ?_
  refine State.fabRun_within _ _ _ _ (.refl _ _) ?_ ?_ (fun _ _ h => .ite (fun _ =>
      State.opFinish_within _ _ _ _ h ?_) fun _ => .ite (fun _ =>
      State.opFinish_within _ _ _ _ (State.fabFault_within _ h ?_) ?_) fun _ =>
      State.fabOut_within _ _ _ (State.setGroup_within _ _ h ?_) ?_) <;> exact mem_footprint rfl

theorem redUp_stays {i : IoId} : Stays (.redUp i) := by
  refine .of_next (fun _ => rfl) fun s => ?_
  split
  · exact .refl _ _
  · extract_lets p n g s1
    have hs1 : Within (footprint (.redUp i)) s s1 := State.takeDelivered_within _ _ (.refl _ _) (mem_footprint rfl)
        (mem_footprint rfl)
    split
    · refine .ite (fun _ => State.drop_within _ _ hs1 ?_) fun _ => .ite (fun _ =>
          State.drop_within _ _ hs1 ?_) fun _ =>
          State.contributeRound_within _ _ _ _ _ hs1 ?_ ?_ ?_ ?_ <;> exact mem_footprint rfl
    · exact State.drop_within _ _ hs1 (mem_footprint rfl)

theorem redDown_stays {i : IoId} : Stays (.redDown i) := by
  refine .of_next (fun _ => rfl) fun s => ?_
  split
  · exact .refl _ _
  · extract_lets p n g s1
    have hs1 : Within (footprint (.redDown i)) s s1 := State.takeDelivered_within _ _ (.refl _ _) (mem_footprint rfl)
        (mem_footprint rfl)
    refine .ite (fun _ => State.drop_within _ _ hs1 ?_) fun _ => .ite (fun _ =>
        State.drop_within _ _ hs1 ?_) fun _ => .ite (fun _ =>
        State.mrResult_within _ _ _ hs1 ?_ ?_ ?_ ?_ ?_) fun _ =>
        .foldl _ _ hs1 (fun _ _ h => State.resultTo_within _ _ _ _ h ?_ ?_) <;> exact mem_footprint rfl

theorem roundTimeout_stays {n : Byte} : Stays (.roundTimeout n) := by
  refine .of_next (fun _ => rfl) fun s => ?_
  refine .foldl _ _ (State.setGroup_within _ _ (.refl _ _) ?_) (fun _ _ h => .foldl _ _ h (fun _ _ h =>
      State.timeoutEvent_within _ _ h ?_ ?_ ?_ ?_ ?_ ?_ ?_)) <;> exact mem_footprint rfl

theorem fabricOpTimeout_stays {c : CoreId} {entry : BitVec 7} : Stays (.fabricOpTimeout c entry) := by
  refine .of_next (fun _ => rfl) fun s => ?_
  split
  · exact .refl _ _
  · refine .ite (fun _ => .refl _ _) fun _ => State.timeoutEvent_within _ _ (.ite (fun _ =>
        State.setGroup_within _ _ (State.opFinish_within _ _ _ _ (State.onCore_within _ _ (.refl _ _) ?_) ?_) ?_)
        fun _ => State.opFinish_within _ _ _ _ (State.onCore_within _ _ (.refl _ _) ?_) ?_) ?_ ?_ ?_ ?_ ?_ ?_ ?_ <;>
        exact mem_footprint rfl

theorem mrContribute_stays {group : Byte} {round : BitVec 16} : Stays (.mrContribute group round) := by
  refine .of_next (fun _ => rfl) fun s => ?_
  refine State.mrGo_within _ _ (.refl _ _) ?_ ?_ ?_ ?_ ?_ <;> exact mem_footprint rfl

theorem mrTimeout_stays : Stays .mrTimeout := by
  refine .of_next (fun _ => rfl) fun s => ?_
  refine .ite (fun _ => State.onMod_within _ (State.setFld_within _ _ _ _ _ (State.orReg_within _ _ _ (.refl _ _) ?_)
      ?_) ?_) fun _ => .refl _ _ <;> exact mem_footprint rfl

/-! ### The weight mover -/

theorem send_stays {i : IoId} : Stays (.send i) := by
  refine .of_next (fun _ => rfl) fun s => ?_
  split
  · refine .ite (fun _ => .refl _ _) fun _ =>
        State.jobLoop_within _ _ (.refl _ _) ?_ ?_ ?_ ?_ <;> exact mem_footprint rfl
  · exact .refl _ _

theorem verify_stays {i : IoId} : Stays (.verify i) := by
  refine .of_next (fun _ => rfl) fun s => ?_
  split
  · refine .ite (fun _ => .refl _ _) fun _ => ?_
    extract_lets t
    have ht : Within (footprint (.verify i)) s t := by
      refine State.jobLoop_within _ _ (.refl _ _) ?_ ?_ ?_ ?_ <;> exact mem_footprint rfl
    split
    · refine .ite (fun _ => State.wxEnd_within _ (State.wxStat_within _ _ ht ?_) ?_ ?_) fun _ =>
          ht <;> exact mem_footprint rfl
    · exact ht
  · exact .refl _ _

theorem wxSendTimeout_stays {i : IoId} : Stays (.wxSendTimeout i) := by
  refine .of_next (fun _ => rfl) fun s => ?_
  split
  · refine .ite (fun _ => State.wxEnd_within _ (State.wxStat_within _ _ (State.wxStat_within _ _ (.refl _ _) ?_) ?_) ?_
        ?_) fun _ => .refl _ _ <;> exact mem_footprint rfl
  · exact .refl _ _

theorem ingestPageTimeout_stays {i : IoId} : Stays (.ingestPageTimeout i) := by
  refine .of_next (fun _ => rfl) fun s => ?_
  split
  · refine .ite (fun _ => State.wxEnd_within _ (State.wxStat_within _ _ (.refl _ _) ?_) ?_ ?_) fun _ =>
        .refl _ _ <;> exact mem_footprint rfl
  · exact .refl _ _

theorem shardData_stays {i : IoId} : Stays (.shardData i) := by
  refine .of_next (fun _ => rfl) fun s => ?_
  split
  · refine State.transferEnd_within _ _ _ (.refl _ _) ?_ ?_ <;> exact mem_footprint rfl
  · split
    · exact .refl _ _
    · extract_lets p s1
      have hs1 : Within (footprint (.shardData i)) s s1 := State.takeDelivered_within _ _ (.refl _ _)
          (mem_footprint rfl) (mem_footprint rfl)
      split
      · refine State.shardBegin_within _ _ hs1 ?_ ?_ ?_ <;> exact mem_footprint rfl
      · refine .ite (fun _ => State.shardBegin_within _ _ hs1 ?_ ?_ ?_) fun _ => .ite (fun _ => .ite (fun _ =>
            State.onRouter_within _ _ (State.drop_within _ _ hs1 ?_) ?_) fun _ =>
            State.drop_within _ _ hs1 ?_) fun _ => State.shardTake_within _ _ _ hs1 ?_ ?_ ?_ <;> exact mem_footprint rfl

theorem shardAnswer_stays {i : IoId} : Stays (.shardAnswer i) := by
  refine .of_next (fun _ => rfl) fun s => ?_
  split
  · exact .refl _ _
  · extract_lets s1
    have hs1 : Within (footprint (.shardAnswer i)) s s1 := State.takeDelivered_within _ _ (.refl _ _)
        (mem_footprint rfl) (mem_footprint rfl)
    split
    · exact State.drop_within _ _ hs1 (mem_footprint rfl)
    · refine .ite (fun _ => State.drop_within _ _ hs1 (mem_footprint rfl)) fun _ => ?_
      extract_lets b s2
      have hs2 : Within (footprint (.shardAnswer i)) s s2 := State.setJob_within _ _ (.ite (fun _ =>
          State.wxStat_within _ _ hs1 (mem_footprint rfl)) fun _ => hs1) (mem_footprint rfl)
      refine .ite (fun _ => State.wxEnd_within _ (State.wxStat_within _ _ hs2 ?_) ?_ ?_) fun _ =>
          hs2 <;> exact mem_footprint rfl

theorem fabWxrpop_stays {i : IoId} : Stays (.fabWxrpop i) := by
  refine .of_next (fun _ => rfl) fun s => ?_
  exact State.wxrPop_within _ (.refl _ _) (mem_footprint rfl)

/-! ### The host -/

theorem blocks_stays {v : VfId} {r : RingId} {step : Word32} {dies : BitVec 12} {entries : List Line} :
    Stays (.blocks v r step dies entries) := by
  refine .of_next (fun _ => rfl) fun s => ?_
  refine State.blocks_within _ _ _ _ _ (.refl _ _) ?_ ?_ ?_ ?_ <;> exact mem_footprint rfl

theorem input_stays {v : VfId} {r : RingId} {e : InputEntry} {lines : List Line} {readError : Bool} :
    Stays (.input v r e lines readError) := by
  refine .of_next (fun _ => rfl) fun s => ?_
  refine State.input_within _ _ _ _ _ (.refl _ _) ?_ ?_ ?_ ?_ <;> exact mem_footprint rfl

theorem hostEnd_stays {v : VfId} {r : RingId} {step : Word32} {last : Bool} : Stays (.hostEnd v r step last) := by
  refine .of_next (fun _ => rfl) fun s => ?_
  refine .ite (fun _ => .refl _ _) fun _ => .ite (fun _ =>
      State.sqRefuse_within _ _ (.refl _ _) ?_ ?_ ?_) fun _ => .ite (fun _ =>
      State.retire_within _ _ (State.setRing_within _ _ _ (.refl _ _) ?_) ?_ ?_) fun _ =>
      State.onCtx_within _ _ (State.bindRing_within _ _ (State.setRing_within _ _ _ (.refl _ _) ?_) ?_) ?_ <;>
      exact mem_footprint rfl

theorem stepRecordWrite_stays {v : VfId} {r : RingId} : Stays (.stepRecordWrite v r) := by
  refine .of_next (fun _ => rfl) fun s => ?_
  refine State.stepRecord_within _ _ (.refl _ _) ?_ ?_ <;> exact mem_footprint rfl

theorem frameWrite_stays {v : VfId} {r : RingId} {buffers : List (Word64 × BitVec 16)} :
    Stays (.frameWrite v r buffers) := by
  refine .of_next (fun _ => rfl) fun s => ?_
  refine State.frameWrite_within _ _ _ (.refl _ _) ?_ ?_ ?_ <;> exact mem_footprint rfl

theorem starveExpire_stays {v : VfId} {r : RingId} : Stays (.starveExpire v r) := by
  refine .of_next (fun _ => rfl) fun s => ?_
  split
  · refine .ite (fun _ => .refl _ _) fun _ => State.dropFrame_within _ (.refl _ _) ?_ ?_ ?_ <;> exact mem_footprint rfl
  · exact .refl _ _

theorem coalesceTimer_stays {v : VfId} {r : RingId} : Stays (.coalesceTimer v r) := by
  refine .of_next (fun _ => rfl) fun s => ?_
  refine .ite (fun _ => .refl _ _) fun _ =>
      State.onRing_within _ _ _ (State.hostIrq_within _ _ (.refl _ _) ?_) ?_ <;> exact mem_footprint rfl

theorem receiptSlotWrite_stays {v : VfId} : Stays (.receiptSlotWrite v) := by
  refine .of_next (fun _ => rfl) fun s => ?_
  refine .ite (fun _ => .refl _ _) fun _ => ?_
  split
  · exact .refl _ _
  · refine .ite (fun _ => .refl _ _) fun _ =>
        State.hostIrq_within _ _ (State.setReg_within _ _ _ (State.toHost_within _ _ _ (.refl _ _)) ?_) ?_ <;>
        exact mem_footprint rfl

theorem ingestWrite_stays {v : VfId} {addr : BitVec 36} {bytes : List Byte} : Stays (.ingestWrite v addr bytes) := by
  refine .of_next (fun _ => rfl) fun s => ?_
  refine .ite (fun _ => .refl _ _) fun _ => State.ingest_within _ _ _ (.refl _ _) ?_ ?_ <;> exact mem_footprint rfl

theorem hostMboxSend_stays {f : Option VfId} : Stays (.hostMboxSend f) := by
  refine .of_next (fun _ => rfl) fun s => ?_
  exact State.mboxSend_within _ (.refl _ _) (mem_footprint rfl)

theorem placeReq_stays {v : VfId} {x : Ctx} {first : BitVec 16} {dig : Digest} {req : PlaceArg} :
    Stays (.placeReq v x first dig req) := by
  refine .of_next (fun _ => rfl) fun s => ?_
  refine State.placeReq_within _ _ _ _ _ _ (.refl _ _) ?_ ?_ ?_ ?_ <;> exact mem_footprint rfl

theorem maintDecl_stays {v : VfId} {x : Ctx} {start : Word64} {lenUs tag : Word32} :
    Stays (.maintDecl v x start lenUs tag) := by
  refine .of_next (fun _ => rfl) fun s => ?_
  refine .ite (fun _ => State.mailTo_within _ _ _ _ (State.onCtx_within _ _ (State.mailTaken_within _ (.refl _ _) ?_)
      ?_) ?_ ?_) fun _ => State.mailTo_within _ _ _ _ (State.mailTaken_within _ (.refl _ _) ?_) ?_ ?_ <;>
      exact mem_footprint rfl

theorem selftestReq_stays {q : TestReq} : Stays (.selftestReq q) := by
  refine .of_next (fun _ => rfl) fun s => State.mailTo_within _ _ _ _ (State.selftestQueue_within _ _
    (State.mailTaken_within _ (.refl _ _) ?_) ?_) ?_ ?_ <;> exact mem_footprint rfl

theorem powerReq_stays {watts : BitVec 16} {tag : Word32} : Stays (.powerReq watts tag) := by
  refine .of_next (fun _ => rfl) fun s => ?_
  refine State.mailTo_within _ _ _ _ (.ite (fun _ => State.mailTaken_within _ (.refl _ _) ?_) fun _ =>
      State.setFld_within _ _ _ _ _ (State.mailTaken_within _ (.refl _ _) ?_) ?_) ?_ ?_ <;> exact mem_footprint rfl

theorem functionLevelReset_stays {v : VfId} : Stays (.functionLevelReset v) := by
  refine .of_next (fun _ => rfl) fun s => ?_
  refine State.flr_within _ (.refl _ _) ?_ ?_ ?_ ?_ <;> exact mem_footprint rfl

theorem hotReset_stays : Stays .hotReset := by
  refine .of_next (fun _ => rfl) fun s => ?_
  refine State.flrAll_within (.refl _ _) ?_ ?_ ?_ ?_ <;> exact mem_footprint rfl

theorem hostLinkLoss_stays : Stays .hostLinkLoss := by
  refine .of_next (fun _ => rfl) fun s => ?_
  refine State.flrAll_within (.refl _ _) ?_ ?_ ?_ ?_ <;> exact mem_footprint rfl

theorem pciePerstN_stays : Stays .pciePerstN := by
  refine .of_next (fun _ => rfl) fun s => ?_
  refine State.flrAll_within (.refl _ _) ?_ ?_ ?_ ?_ <;> exact mem_footprint rfl

theorem ideKm_stays {f : Option VfId} : Stays (.ideKm f) := by
  refine .of_next (fun _ => rfl) fun s => ?_
  exact State.onFunc_within _ _ (.refl _ _) (mem_footprint rfl)

/-! ### Gongs and recovery -/

theorem gongWaveComplete_stays {x : Ctx} : Stays (.gongWaveComplete x) := by
  refine .of_next (fun _ => rfl) fun s => ?_
  refine .ite (fun _ => .refl _ _) fun _ => .ite (fun _ =>
      State.afterWave_within _ (.refl _ _) ?_ ?_ ?_ ?_ ?_ ?_ ?_ ?_) fun _ => .ite (fun _ => .refl _ _) fun _ =>
      .ite (fun _ => .refl _ _) fun _ => .ite (fun _ =>
      State.afterWave_within _ (State.onCtx_within _ _ (State.capture_within _ _ (.refl _ _) ?_ ?_) ?_) ?_ ?_ ?_ ?_ ?_
      ?_ ?_ ?_) fun _ => State.onCtx_within _ _ (.refl _ _) ?_ <;> exact mem_footprint rfl

theorem gongRelease_stays {x : Ctx} : Stays (.gongRelease x) := by
  refine .of_next (fun _ => rfl) fun s => ?_
  split
  · refine .ite (fun _ => .refl _ _) fun _ =>
        State.onCtx_within _ _ (.foldl _ _ (.refl _ _) (fun _ _ h => State.onCore_within _ _ h ?_)) ?_ <;>
        exact mem_footprint rfl
  · exact .refl _ _

theorem gongSum_stays {x : Ctx} {l : LinkId} {m : GongSummary} : Stays (.gongSum x l m) := by
  refine .of_next (fun _ => rfl) fun s => ?_
  refine .ite (fun _ => State.sumTry_within _ _ (State.onCtx_within _ _ (.refl _ _) ?_) ?_ ?_) fun _ =>
      .refl _ _ <;> exact mem_footprint rfl

theorem gongDec_stays {x : Ctx} {n : GongNotice} : Stays (.gongDec x n) := by
  refine .of_next (fun _ => rfl) fun s => ?_
  refine State.takeNotice_within _ _ _ (State.onCtx_within _ _ (.refl _ _) ?_) ?_ ?_ <;> exact mem_footprint rfl

theorem gongTimeout_stays {x : Ctx} : Stays (.gongTimeout x) := by
  refine .of_next (fun _ => rfl) fun s => ?_
  refine .ite (fun _ => .refl _ _) fun _ => ?_
  split
  · refine .ite (fun _ => .refl _ _) fun _ =>
        State.sumTry_within _ _ (.foldl _ _ (State.onCtx_within _ _ (State.raise_within _ _ _ (.refl _ _) ?_) ?_)
        (fun _ _ h => State.gongLinkFault_within _ _ h ?_ ?_ ?_ ?_ ?_ ?_ ?_)) ?_ ?_ <;> exact mem_footprint rfl
  · refine .ite (fun _ => .refl _ _) fun _ =>
        State.gongLinkFault_within _ _ (State.onCtx_within _ _ (State.raise_within _ _ _ (.refl _ _) ?_) ?_) ?_ ?_ ?_
        ?_ ?_ ?_ ?_ <;> exact mem_footprint rfl
  · exact .refl _ _

theorem faultReport_stays {x : Ctx} {e : Endpoint} {records : List ElogRecord} : Stays (.faultReport x e records) := by
  refine .of_next (fun _ => rfl) fun s => ?_
  exact .ite (fun _ => State.onCtx_within _ _ (.refl _ _) (mem_footprint rfl)) fun _ => .refl _ _

theorem faultReportTimeout_stays {x : Ctx} {e : Endpoint} : Stays (.faultReportTimeout x e) := by
  refine .of_next (fun _ => rfl) fun s => ?_
  refine .ite (fun _ => State.noReport_within _ _ (.refl _ _) ?_ ?_ ?_ ?_ ?_ ?_ ?_) fun _ =>
      .refl _ _ <;> exact mem_footprint rfl

theorem stepDecide_stays {x : Ctx} {peal : Word64} : Stays (.stepDecide x peal) := by
  refine .of_next (fun _ => rfl) fun s => ?_
  extract_lets k waiting s1
  have hs1 : Within (footprint (.stepDecide x peal)) s s1 := by
    refine .foldl _ _ (.refl _ _) fun _ _ h => State.noReport_within _ _ h ?_ ?_ ?_ ?_ ?_ ?_ ?_ <;>
      exact mem_footprint rfl
  split
  · refine .ite (fun _ => .refl _ _) fun _ => .ite (fun _ => State.announce_within _ _ _ _ _ hs1 ?_ ?_) fun _ =>
      .ite (fun _ => State.announce_within _ _ _ _ _ hs1 ?_ ?_) fun _ =>
      State.decideDirty_within _ _ _ hs1 ?_ ?_ ?_ ?_ ?_ ?_ ?_ ?_ ?_ <;> exact mem_footprint rfl
  · exact .refl _ _

theorem drainReq_stays {tag : Word32} : Stays (.drainReq tag) := by
  refine .of_next (fun _ => rfl) fun s => ?_
  refine State.drainAdvance_within (State.onMod_within _ (State.mailTaken_within _ (.refl _ _) ?_) ?_) ?_ ?_ ?_ ?_ ?_
      ?_ ?_ <;> exact mem_footprint rfl

theorem pldmDrain_stays : Stays .pldmDrain := by
  refine .of_next (fun _ => rfl) fun s => ?_
  refine .ite (fun _ => .refl _ _) fun _ =>
      State.drainAdvance_within (State.onMod_within _ (.refl _ _) ?_) ?_ ?_ ?_ ?_ ?_ ?_ ?_ <;> exact mem_footprint rfl

theorem clearComplete_stays {d : DieId} : Stays (.clearComplete d) := by
  refine .of_next (fun _ => rfl) fun s => ?_
  refine .ite (fun _ => .refl _ _) fun _ =>
      State.drainAdvance_within (State.clearComplete_within _ (.refl _ _) ?_ ?_ ?_ ?_ ?_ ?_ ?_ ?_ ?_ ?_) ?_ ?_ ?_ ?_ ?_
      ?_ ?_ <;> exact mem_footprint rfl

theorem stepCommit_stays {x : Ctx} : Stays (.stepCommit x) := by
  refine .of_next (fun _ => rfl) fun s => ?_
  split
  · exact .refl _ _
  · refine .ite (fun _ => .refl _ _) fun _ => .ite (fun _ => State.setHold_within _ _ (.refl _ _) ?_) fun _ =>
        .ite (fun _ => State.reportStep_within _ _ _ (State.setHold_within _ _ (.refl _ _) ?_) ?_ ?_ ?_ ?_ ?_ ?_ ?_ ?_
        ?_) fun _ => State.endStep_within _ _ _ _ _ (State.stepEntry_within _ _ _ _ (State.setHold_within _ _ (.refl _
        _) ?_) ?_ ?_) ?_ ?_ ?_ ?_ ?_ ?_ ?_ ?_ ?_ <;> exact mem_footprint rfl

theorem stepReplay_stays {x : Ctx} : Stays (.stepReplay x) := by
  refine .of_next (fun _ => rfl) fun s => ?_
  split
  · exact .refl _ _
  · refine State.onCtx_within _ _ (State.unlaunch_within _ (State.rereadStep_within _ _ (State.pgmAll_within _ _
        (State.discardFrames_within _ (.refl _ _) ?_) ?_ ?_) ?_) ?_) ?_ <;> exact mem_footprint rfl

theorem stepReport_stays {x : Ctx} : Stays (.stepReport x) := by
  refine .of_next (fun _ => rfl) fun s => ?_
  split
  · exact .refl _ _
  · refine .ite (fun _ => .refl _ _) fun _ => .ite (fun _ => State.setHold_within _ _ (.refl _ _) ?_) fun _ =>
        State.reportStep_within _ _ _ (State.setHold_within _ _ (.refl _ _) ?_) ?_ ?_ ?_ ?_ ?_ ?_ ?_ ?_ ?_ <;>
        exact mem_footprint rfl

/-! ### Census and Knell -/

theorem censusTimer_stays : Stays .censusTimer := by
  refine .of_next (fun _ => rfl) fun s => ?_
  refine .ite (fun _ => .refl _ _) fun _ =>
      State.askRecord_within (State.judgeQuorum_within (State.ownCensus_within (.ite (fun _ =>
      State.noteMissed_within (.refl _ _) ?_) fun _ => .refl _ _) ?_ ?_ ?_ ?_) ?_) <;> exact mem_footprint rfl

theorem census_stays {e : Endpoint} {weight : Byte} {dig : Word64} : Stays (.census e weight dig) := by
  refine .of_next (fun _ => rfl) fun s => ?_
  refine State.judgeQuorum_within (State.onMod_within _ (.ite (fun _ =>
      State.floodCensus_within _ _ _ _ (.refl _ _) ?_ ?_ ?_) fun _ => .refl _ _) ?_) ?_ <;> exact mem_footprint rfl

theorem leaseExpire_stays : Stays .leaseExpire := by
  refine .of_next (fun _ => rfl) fun s => ?_
  refine .ite (fun _ => .refl _ _) fun _ =>
      State.fault_within _ _ _ _ _ _ _ (State.fence_within (.refl _ _) ?_ ?_) ?_ ?_ ?_ ?_ ?_ ?_ ?_ <;>
      exact mem_footprint rfl

theorem moduleExclude_stays {e : Endpoint} : Stays (.moduleExclude e) := by
  refine .of_next (fun _ => rfl) fun s => ?_
  refine .ite (fun _ => .refl _ _) fun _ =>
      State.replaceAll_within _ (State.repair_within _ (.refl _ _) ?_ ?_ ?_ ?_ ?_ ?_ ?_) ?_ <;> exact mem_footprint rfl

theorem knell_stays {arrival : Option LinkId} {e : Endpoint} {cause : Byte} {count : Word64} {sender : Endpoint} :
    Stays (.knell arrival e cause count sender) := by
  refine .of_next (fun _ => rfl) fun s => ?_
  refine State.knell_within _ _ _ _ _ (.refl _ _) ?_ ?_ ?_ ?_ ?_ ?_ ?_ ?_ <;> exact mem_footprint rfl

theorem reachQuery_stays {asker neighbour : Endpoint} : Stays (.reachQuery asker neighbour) := by
  refine .of_next (fun _ => rfl) fun s => ?_
  exact State.emit_within _ (State.onMod_within _ (.refl _ _) (mem_footprint rfl))

theorem knellQueryTimeout_stays {e : Endpoint} : Stays (.knellQueryTimeout e) := by
  refine .of_next (fun _ => rfl) fun s => ?_
  refine .ite (fun _ => .refl _ _) fun _ =>
      State.knell_within _ _ _ _ _ (.refl _ _) ?_ ?_ ?_ ?_ ?_ ?_ ?_ ?_ <;> exact mem_footprint rfl

/-! ### Maintenance -/

theorem mcElogpop_stays {p : Path} : Stays (.mcElogpop p) := by
  refine .of_next (fun _ => rfl) fun s => ?_
  exact .ite (fun _ => State.elogPop_within _ (.refl _ _) (mem_footprint rfl)) fun _ => .refl _ _

theorem getElog_stays {tag : Word32} : Stays (.getElog tag) := by
  refine .of_next (fun _ => rfl) fun s => ?_
  exact State.emit_within _ (.refl _ _)

theorem popElog_stays {n : BitVec 4} : Stays (.popElog n) := by
  refine .of_next (fun _ => rfl) fun s => ?_
  exact .ite (fun _ => State.elogPop_within _ (.refl _ _) (mem_footprint rfl)) fun _ => .refl _ _

theorem ceLogPoll_stays {d : DieId} : Stays (.ceLogPoll d) := by
  refine .of_next (fun _ => rfl) fun s => ?_
  refine .foldl _ _ (State.onPgm_within _ _ (.foldl _ _ (.refl _ _) (fun _ _ h => State.ceCore_within _ h ?_ ?_ ?_ ?_
      ?_ ?_ ?_)) ?_) (fun _ _ h => State.fault_within _ _ _ _ _ _ _ h ?_ ?_ ?_ ?_ ?_ ?_ ?_) <;> exact mem_footprint rfl

theorem scrubDeadline_stays {c : CoreId} : Stays (.scrubDeadline c) := by
  refine .of_next (fun _ => rfl) fun s => ?_
  refine .ite (fun _ => .refl _ _) fun _ => .ite (fun _ =>
      State.wsScrubShare_within _ (.refl _ _) ?_ ?_ ?_) fun _ => .ite (fun _ =>
      State.maintReq_within _ _ _ _ (.refl _ _) ?_ ?_) fun _ => .ite (fun _ => .refl _ _) fun _ =>
      State.fault_within _ _ _ _ _ _ _ (State.wsScrubShare_within _ (State.abortStep_within _ _ (.refl _ _) ?_ ?_ ?_)
      ?_ ?_ ?_) ?_ ?_ ?_ ?_ ?_ ?_ ?_ <;> exact mem_footprint rfl

theorem shardVerifyPeriod_stays {c : CoreId} {found : Digest} : Stays (.shardVerifyPeriod c found) := by
  refine .of_next (fun _ => rfl) fun s => ?_
  split
  · exact .refl _ _
  · refine .ite (fun _ => State.onCtx_within _ _ (.refl _ _) ?_) fun _ =>
        State.digestRecord_within _ _ _ (State.fault_within _ _ _ _ _ _ _ (State.unpresent_within _ _
        (State.abortStep_within _ _ (.refl _ _) ?_ ?_ ?_) ?_) ?_ ?_ ?_ ?_ ?_ ?_ ?_) ?_ ?_ ?_ <;> exact mem_footprint rfl

theorem maintWindowStart_stays {x : Ctx} : Stays (.maintWindowStart x) := by
  refine .of_next (fun _ => rfl) fun s => ?_
  split
  · exact .ite (fun _ => State.onCtx_within _ _ (.refl _ _) (mem_footprint rfl)) fun _ => .refl _ _
  · exact .refl _ _

theorem maintWindowEnd_stays {x : Ctx} : Stays (.maintWindowEnd x) := by
  refine .of_next (fun _ => rfl) fun s => ?_
  split
  · exact .ite (fun _ => State.onCtx_within _ _ (.refl _ _) (mem_footprint rfl)) fun _ => .refl _ _
  · exact .refl _ _

theorem selftestRun_stays {d : DieId} {passed : Bool} : Stays (.selftestRun d passed) := by
  refine .of_next (fun _ => rfl) fun s => ?_
  split
  · exact .refl _ _
  · refine .ite (fun _ => .refl _ _) fun _ => ?_
    extract_lets s1 s2 out
    have hs1 : Within (footprint (.selftestRun d passed)) s s1 := by
      refine .ite (fun _ => .foldl _ _ (.refl _ _) (fun _ _ h => State.scramble_within _ h ?_ ?_ ?_)) fun _ =>
          .refl _ _ <;> exact mem_footprint rfl
    have hs2 : Within (footprint (.selftestRun d passed)) s s2 := by
      refine .ite (fun _ => hs1) fun _ =>
          State.fault_within _ _ _ _ _ _ _ hs1 ?_ ?_ ?_ ?_ ?_ ?_ ?_ <;> exact mem_footprint rfl
    refine State.testDone_within _ _ _ (State.onDie_within _ _ hs2 ?_) ?_ ?_ <;> exact mem_footprint rfl

theorem selftestDeadline_stays {d : DieId} : Stays (.selftestDeadline d) := by
  refine .of_next (fun _ => rfl) fun s => ?_
  split
  · exact .refl _ _
  · refine .ite (fun _ => .refl _ _) fun _ => .ite (fun _ =>
        State.deferTest_within _ _ _ (.refl _ _) (mem_footprint rfl) (mem_footprint rfl) (mem_footprint rfl)
        (mem_footprint rfl) (mem_footprint rfl)) fun _ => .ite (fun _ => .refl _ _) fun _ => ?_
    split
    · refine State.deferTest_within _ _ _ (.refl _ _) ?_ ?_ ?_ ?_ ?_ <;> exact mem_footprint rfl
    · refine State.onDie_within _ _ (State.handOver_within _ (.refl _ _) ?_ ?_ ?_ ?_ ?_) ?_ <;> exact mem_footprint rfl

theorem pldmSelftest_stays {q : TestReq} : Stays (.pldmSelftest q) := by
  refine .of_next (fun _ => rfl) fun s => .ite (fun _ => .refl _ _) fun _ => ?_
  exact State.emit_within _ (State.selftestQueue_within _ _ (.refl _ _) (mem_footprint rfl))

/-! ### Power and reset -/

theorem opArm_stays {point : BitVec 2} : Stays (.opArm point) := by
  refine .of_next (fun _ => rfl) fun s => ?_
  refine State.opArm_within _ (.refl _ _) ?_ ?_ <;> exact mem_footprint rfl

theorem opSwitch_stays : Stays .opSwitch := by
  refine .of_next (fun _ => rfl) fun s => ?_
  split
  · refine .ite (fun _ => .refl _ _) fun _ =>
        State.setPoint_within (State.onMod_within _ (State.setFld_within _ _ _ _ _ (State.setFld_within _ _ _ _ _
        (.refl _ _) ?_) ?_) ?_) ?_ <;> exact mem_footprint rfl
  · exact .refl _ _

theorem p10Sample_stays {obs : PowerObs} : Stays (.p10Sample obs) := by
  refine .of_next (fun _ => rfl) fun s => ?_
  extract_lets w s1
  have hs1 : Within (footprint (.p10Sample obs)) s s1 := State.onMod_within _ (State.setReg_within _ _ _ (.refl _ _)
      (mem_footprint rfl)) (mem_footprint rfl)
  refine .ite (fun _ => .ite (fun _ => State.onMod_within _ hs1 ?_) fun _ =>
      State.steady_within (State.capMoved_within _ (State.onMod_within _ (State.onMod_within _ hs1 ?_) ?_) ?_) ?_ ?_)
      fun _ => .ite (fun _ => .ite (fun _ => State.setPoint_within (State.onMod_within _ hs1 ?_) ?_) fun _ =>
      State.onMod_within _ hs1 ?_) fun _ => State.onMod_within _ hs1 ?_ <;> exact mem_footprint rfl

theorem thermalCap_stays {unit : Byte} {tj : BitVec 10} : Stays (.thermalCap unit tj) := by
  refine .of_next (fun _ => rfl) fun s => ?_
  extract_lets s1
  have hs1 : Within (footprint (.thermalCap unit tj)) s s1 := State.junction_within _ _ (.refl _ _) (mem_footprint rfl)
  refine .ite (fun _ => hs1) fun _ => .ite (fun _ => State.orReg_within _ _ _ hs1 ?_) fun _ =>
      State.capMoved_within _ (State.onMod_within _ (State.orReg_within _ _ _ hs1 ?_) ?_) ?_ <;> exact mem_footprint rfl

theorem thermalCapClear_stays : Stays .thermalCapClear := by
  refine .of_next (fun _ => rfl) fun s => ?_
  refine .ite (fun _ => .refl _ _) fun _ =>
      State.setPoint_within (State.onMod_within _ (.refl _ _) ?_) ?_ <;> exact mem_footprint rfl

theorem thermalTrip_stays {unit : Byte} {tj : BitVec 10} : Stays (.thermalTrip unit tj) := by
  refine .of_next (fun _ => rfl) fun s => ?_
  exact .ite (fun _ => State.fatal_within _ (State.junction_within _ _ (.refl _ _) (mem_footprint rfl)) (all_footprint
      fun p => by cases p <;> rfl)) fun _ => .refl _ _

theorem railOvercurrent_stays : Stays .railOvercurrent := by
  refine .of_next (fun _ => rfl) fun s => ?_
  exact State.fatal_within _ (.refl _ _) (all_footprint fun p => by cases p <;> rfl)

theorem pllLockLoss_stays : Stays .pllLockLoss := by
  refine .of_next (fun _ => rfl) fun s => ?_
  exact State.fatal_within _ (.refl _ _) (all_footprint fun p => by cases p <;> rfl)

theorem fifoSlip_stays : Stays .fifoSlip := by
  refine .of_next (fun _ => rfl) fun s => ?_
  refine State.raise_within _ _ _ (State.fatal_within _ (State.raise_within _ _ _ (.refl _ _) ?_) (all_footprint fun p
      => by cases p <;> rfl)) ?_ <;> exact mem_footprint rfl

theorem managementControllerFault_stays : Stays .managementControllerFault := by
  refine .of_next (fun _ => rfl) fun s => ?_
  exact State.fatal_within _ (.refl _ _) (all_footprint fun p => by cases p <;> rfl)

theorem inputRangeLoss_stays : Stays .inputRangeLoss := by
  refine .of_next (fun _ => rfl) fun s => ?_
  refine State.orReg_within _ _ _ (State.onMod_within _ (State.standby_within (.refl _ _) (all_footprint fun p => by
      cases p <;> rfl)) ?_) ?_ <;> exact mem_footprint rfl

theorem moduleReset_stays : Stays .moduleReset := by
  refine .of_next (fun _ => rfl) fun s => ?_
  exact State.moduleReset_within (.refl _ _) (all_footprint fun p => by cases p <;> rfl)

theorem watchdogExpire_stays : Stays .watchdogExpire := by
  refine .of_next (fun _ => rfl) fun s => ?_
  exact State.moduleReset_within (.refl _ _) (all_footprint fun p => by cases p <;> rfl)

theorem pldmReset_stays : Stays .pldmReset := by
  refine .of_next (fun _ => rfl) fun s => ?_
  exact State.moduleReset_within (.refl _ _) (all_footprint fun p => by cases p <;> rfl)

theorem modRstN_stays {level : Bool} : Stays (.modRstN level) := by
  refine .of_next (fun _ => rfl) fun s => ?_
  refine .ite (fun _ => .ite (fun _ => .refl _ _) fun _ =>
      State.onMod_within _ (.refl _ _) (mem_footprint rfl)) fun _ => .ite (fun _ => .refl _ _) fun _ => ?_
  extract_lets t n
  have ht : Within (footprint (.modRstN level)) s t := State.onMod_within _ (.refl _ _) (mem_footprint rfl)
  exact .ite (fun _ => State.moduleReset_within ht (all_footprint fun p => by cases p <;> rfl)) fun _ =>
      .ite (fun _ => ht) fun _ => .ite (fun _ => State.draw_within _ ht) fun _ =>
      State.moduleReset_within (State.draw_within _ ht) (all_footprint fun p => by cases p <;> rfl)

theorem powerOn_stays : Stays .powerOn := by
  refine .of_next (fun _ => rfl) fun s => ?_
  exact State.cold_within _ (.refl _ _) (all_footprint fun p => by cases p <;> rfl)

theorem standbySupplyLoss_stays : Stays .standbySupplyLoss := by
  refine .of_next (fun _ => rfl) fun s => ?_
  exact State.cold_within _ (.refl _ _) (all_footprint fun p => by cases p <;> rfl)

theorem powerCapCheck_stays {mean fasterAllows : BitVec 16} : Stays (.powerCapCheck mean fasterAllows) := by
  refine .of_next (fun _ => rfl) fun s => ?_
  extract_lets a low n s1
  have hs1 : Within (footprint (.powerCapCheck mean fasterAllows)) s s1 := State.onMod_within _ (.refl _ _)
      (mem_footprint rfl)
  refine .ite (fun _ => State.lumefArm_within _ _ hs1 ?_ ?_) fun _ => .ite (fun _ =>
      State.onMod_within _ (State.lumefArm_within _ _ hs1 ?_ ?_) ?_) fun _ => hs1 <;> exact mem_footprint rfl

theorem coolingCheck_stays {inlet outlet flow : BitVec 10} : Stays (.coolingCheck inlet outlet flow) := by
  refine .of_next (fun _ => rfl) fun s => ?_
  refine .ite (fun _ => State.onMod_within _ (State.setReg_within _ _ _ (.refl _ _) (mem_footprint rfl))
      (mem_footprint rfl)) fun _ => ?_
  extract_lets s1 go
  have hs1 : Within (footprint (.coolingCheck inlet outlet flow)) s s1 := State.orReg_within _ _ _ (State.setReg_within
      _ _ _ (.refl _ _) (mem_footprint rfl)) (mem_footprint rfl)
  refine .ite (fun _ => hs1) fun _ => .ite (fun _ =>
      State.lumefArm_within _ _ (State.onMod_within _ hs1 ?_) ?_ ?_) fun _ =>
      State.onMod_within _ hs1 ?_ <;> exact mem_footprint rfl

theorem marginSample_stays {unit : Byte} {slack : BitVec 12} : Stays (.marginSample unit slack) := by
  refine .of_next (fun _ => rfl) fun s => ?_
  refine .ite (fun _ => .refl _ _) fun _ => .ite (fun _ =>
      State.setUnit_within _ _ (.refl _ _) (mem_footprint rfl)) fun _ => ?_
  extract_lets s1
  have hs1 : Within (footprint (.marginSample unit slack)) s s1 := by
    refine State.fault_within _ _ _ _ _ _ _ (State.orReg_within _ _ _ (State.setUnit_within _ _ (.refl _ _) ?_) ?_) ?_
        ?_ ?_ ?_ ?_ ?_ ?_ <;> exact mem_footprint rfl
  refine .ite (fun _ => State.marginHit_within _ hs1 ?_ ?_ ?_) fun _ => hs1 <;> exact mem_footprint rfl

/-! ### Boot -/

theorem bootStageAdvance_stays {o : BootObs} : Stays (.bootStageAdvance o) := by
  refine .of_next (fun _ => rfl) fun s => ?_
  refine .ite (fun _ => .refl _ _) fun _ => ?_
  split
  · refine .ite (fun _ => State.onMod_within _ (.refl _ _) ?_) fun _ =>
        State.setFld_within _ _ _ _ _ (State.onMod_within _ (State.onMod_within _ (.refl _ _) ?_) ?_) ?_ <;>
        exact mem_footprint rfl
  · exact State.setFld_within _ _ _ _ _ (.refl _ _) (mem_footprint rfl)
  · refine State.imageSelect_within _ _ (.refl _ _) ?_ ?_ <;> exact mem_footprint rfl
  · refine .ite (fun _ => .ite (fun _ => State.fifoAlign_within _ (.refl _ _) ?_ ?_) fun _ =>
        State.enterRecovery_within (State.fifoAlign_within _ (.refl _ _) ?_ ?_) ?_ ?_) fun _ => .ite (fun _ =>
        State.setFld_within _ _ _ _ _ (.refl _ _) ?_) fun _ => .refl _ _ <;> exact mem_footprint rfl
  · refine State.enterFabric_within (State.setFld_within _ _ _ _ _ (State.applyImage_within (.refl _ _) ?_ ?_ ?_ ?_)
        ?_) ?_ ?_ ?_ <;> exact mem_footprint rfl
  · refine .ite (fun _ => State.enterReady_within (State.setFld_within _ _ _ _ _ (.refl _ _) ?_) ?_) fun _ =>
        .refl _ _ <;> exact mem_footprint rfl
  · exact .refl _ _

/-! ### Configuration changes -/

theorem cfgArm_stays : Stays .cfgArm := by
  refine .of_next (fun _ => rfl) fun s => ?_
  refine State.cfgArm_within (.refl _ _) ?_ ?_ <;> exact mem_footprint rfl

theorem cfgLoad_stays : Stays .cfgLoad := by
  refine .of_next (fun _ => rfl) fun s => ?_
  refine State.cfgLoad_within (.refl _ _) ?_ ?_ ?_ <;> exact mem_footprint rfl

theorem cfgActivate_stays : Stays .cfgActivate := by
  refine .of_next (fun _ => rfl) fun s => ?_
  split
  · refine .ite (fun _ => .refl _ _) fun _ => ?_
    dsimp only
    split
    · refine .ite (fun _ => State.inForce_within _ (State.onMod_within _ (State.onMod_within _ (State.setFld_within _ _
          _ _ _ (State.orReg_within _ _ _ (State.setDigestReg_within _ _ _ (.refl _ _) ?_) ?_) ?_) ?_) ?_)
          (all_footprint fun p => by cases p <;> rfl)) fun _ =>
          State.onMod_within _ (State.setFld_within _ _ _ _ _ (State.orReg_within _ _ _ (State.setDigestReg_within _ _
          _ (.refl _ _) ?_) ?_) ?_) ?_ <;> exact mem_footprint rfl
    · refine State.onMod_within _ (State.setFld_within _ _ _ _ _ (State.orReg_within _ _ _ (State.setDigestReg_within _
          _ _ (.refl _ _) ?_) ?_) ?_) ?_ <;> exact mem_footprint rfl
  · exact .refl _ _

theorem stage_stays {change : Word32} {content : ChangeContent} {d : Digest} : Stays (.stage change content d) := by
  refine .of_next (fun _ => rfl) fun s => ?_
  refine .ite (fun _ => .ite (fun _ => .refl _ _) fun _ => ?_) fun _ => .ite (fun _ =>
      State.sendChange_within _ _ _ (State.onMod_within _ (.refl _ _) (mem_footprint rfl))) fun _ =>
      State.sendChange_within _ _ _ (.refl _ _)
  extract_lets s1
  have hs1 : Within (footprint (.stage change content d)) s s1 := State.onMod_within _ (State.sendChange_within _ _ _
      (.refl _ _)) (mem_footprint rfl)
  refine .ite (fun _ => State.armWhenAll_within _ hs1 ?_ ?_) fun _ =>
      State.abortChange_within _ hs1 ?_ <;> exact mem_footprint rfl

theorem staged_stays {change : Word32} {e : Endpoint} : Stays (.staged change e) := by
  refine .of_next (fun _ => rfl) fun s => ?_
  split
  · refine .ite (fun _ => State.armWhenAll_within _ (State.onMod_within _ (.refl _ _) ?_) ?_ ?_) fun _ =>
        .refl _ _ <;> exact mem_footprint rfl
  · exact .refl _ _

theorem stageRefused_stays {change : Word32} {e : Endpoint} : Stays (.stageRefused change e) := by
  refine .of_next (fun _ => rfl) fun s => ?_
  split
  · exact .ite (fun _ => State.abortChange_within _ (.refl _ _) (mem_footprint rfl)) fun _ => .refl _ _
  · exact .refl _ _

theorem stageTimeout_stays : Stays .stageTimeout := by
  refine .of_next (fun _ => rfl) fun s => ?_
  split
  · exact .ite (fun _ => State.abortChange_within _ (.refl _ _) (mem_footprint rfl)) fun _ => .refl _ _
  · exact .refl _ _

theorem arm_stays {change : Word32} {t : Word64} : Stays (.arm change t) := by
  refine .of_next (fun _ => rfl) fun s => ?_
  split
  · refine .ite (fun _ => State.armChange_within _ _ (.refl _ _) ?_ ?_) fun _ => .refl _ _ <;> exact mem_footprint rfl
  · exact .refl _ _

theorem abort_stays {change : Word32} : Stays (.abort change) := by
  refine .of_next (fun _ => rfl) fun s => ?_
  split
  · exact .ite (fun _ => State.onMod_within _ (.refl _ _) (mem_footprint rfl)) fun _ => .refl _ _
  · exact .refl _ _

theorem recordReq_stays {e : Endpoint} : Stays (.recordReq e) := by
  refine .of_next (fun _ => rfl) fun s => ?_
  exact .ite (fun _ => .refl _ _) fun _ => State.emit_within _ (.refl _ _)

theorem record_stays {policy : List (BitVec 16 × List Byte)} {plan : List Byte} {d : Digest} :
    Stays (.record policy plan d) := by
  refine .of_next (fun _ => rfl) fun s => ?_
  refine .ite (fun _ => .refl _ _) fun _ => ?_
  extract_lets s1 own s2
  have hs1 : Within (footprint (.record policy plan d)) s s1 := by
    refine State.onMod_within _ (State.applyPlan_within _ (.refl _ _) ?_ ?_) ?_ <;> exact mem_footprint rfl
  have hs2 : Within (footprint (.record policy plan d)) s s2 := by
    refine State.cfgLoad_within (State.setDigestReg_within _ _ _ hs1 ?_) ?_ ?_ ?_ <;> exact mem_footprint rfl
  exact .ite (fun _ => hs2) fun _ => State.onMod_within _ hs2 (mem_footprint rfl)

theorem chimeRound_stays : Stays .chimeRound := by
  refine .of_next (fun _ => rfl) fun s => ?_
  refine .ite (fun _ => .refl _ _) fun _ =>
      State.chimeGo_within _ _ _ (State.setDigestReg_within _ _ _ (State.onMod_within _ (.refl _ _) ?_) ?_) ?_ ?_ ?_ ?_
      ?_ <;> exact mem_footprint rfl

/-! ### Measurement and debug -/

theorem pldmFirmwareUpdate_stays {image : List Byte} : Stays (.pldmFirmwareUpdate image) := by
  refine .of_next (fun _ => rfl) fun s => ?_
  exact State.onMod_within _ (.refl _ _) (mem_footprint rfl)

theorem activateFirmware_stays : Stays .activateFirmware := by
  refine .of_next (fun _ => rfl) fun s => ?_
  exact State.emit_within _ (.refl _ _)

theorem enroll_stays {ownerHash : Digest} : Stays (.enroll ownerHash) := by
  refine .of_next (fun _ => rfl) fun s => ?_
  exact .ite (fun _ => State.emit_within _ (State.onMod_within _ (.refl _ _) (mem_footprint rfl))) fun _ =>
      State.emit_within _ (.refl _ _)

theorem getMeasurements_stays : Stays .getMeasurements := by
  refine .of_next (fun _ => rfl) fun s => ?_
  exact State.emit_within _ (State.onMod_within _ (State.draw_within _ (.refl _ _)) (mem_footprint rfl))

theorem debugAuth_stays {scopes : BitVec 3} {e : Encl} {seconds : Word32} {nonce : BitVec 256} {key : Fin 256} {sig :
    BitVec 768} :
    Stays (.debugAuth scopes e seconds nonce key sig) := by
  refine .of_next (fun _ => rfl) fun s => ?_
  refine .ite (fun _ => State.dbgDeny_within (.refl _ _) ?_) fun _ =>
      State.setDebug_within _ _ _ _ (State.onMod_within _ (.refl _ _) ?_) ?_ ?_ ?_ ?_ <;> exact mem_footprint rfl

theorem drillReq_stays {start : Bool} {seconds : Word32} {tag : Word32} : Stays (.drillReq start seconds tag) := by
  refine .of_next (fun _ => rfl) fun s => ?_
  extract_lets s1 n
  have hs1 : Within (footprint (.drillReq start seconds tag)) s s1 := State.mailTaken_within _ (.refl _ _)
      (mem_footprint rfl)
  refine .ite (fun _ => .ite (fun _ =>
      State.mailTo_within _ _ _ _ (State.dbgDeny_within hs1 ?_) ?_ ?_) fun _ =>
      State.mailTo_within _ _ _ _ (State.setDebug_within _ _ _ _ hs1 ?_ ?_ ?_ ?_) ?_ ?_) fun _ =>
      .ite (fun _ => State.mailTo_within _ _ _ _ (State.grantEnd_within hs1 ?_ ?_ ?_ ?_) ?_ ?_) fun _ =>
      State.mailTo_within _ _ _ _ (State.dbgDeny_within hs1 ?_) ?_ ?_ <;> exact mem_footprint rfl

theorem debugGrantEnd_stays : Stays .debugGrantEnd := by
  refine .of_next (fun _ => rfl) fun s => ?_
  split
  · refine .ite (fun _ => State.grantEnd_within (.refl _ _) ?_ ?_ ?_ ?_) fun _ => .refl _ _ <;> exact mem_footprint rfl
  · exact .refl _ _

theorem spdmSessionEnd_stays : Stays .spdmSessionEnd := by
  refine .of_next (fun _ => rfl) fun s => ?_
  refine .ite (fun _ => State.grantEnd_within (.refl _ _) ?_ ?_ ?_ ?_) fun _ => .refl _ _ <;> exact mem_footprint rfl

theorem secDbgctlEnd_stays : Stays .secDbgctlEnd := by
  refine .of_next (fun _ => rfl) fun s => ?_
  refine State.dbgCtlEnd_within (.refl _ _) ?_ ?_ ?_ ?_ <;> exact mem_footprint rfl

/-! ### Register access -/

theorem latchingRead_stays {p : Path} {offset : BitVec 28} : Stays (.latchingRead p offset) := by
  refine .of_next (fun _ => rfl) fun s => ?_
  exact State.emit_within _ (State.layoutRead_within _ _ (.refl _ _) (mem_footprint rfl))

theorem cqMboxdoor_stays {d : DieId} {fromMc : Bool} : Stays (.cqMboxdoor d fromMc) := by
  refine .of_next (fun _ => rfl) fun s => ?_
  exact State.mboxDoor_within _ _ (.refl _ _) (mem_footprint rfl)

theorem registerWrite_stays {p : Path} {offset : BitVec 28} {value hwSet hwInc : Word32} :
    Stays (.registerWrite p offset value hwSet hwInc) := by
  refine .of_next (fun _ => rfl) fun s => ?_
  refine State.layoutWrite_within _ _ _ _ _ (.refl _ _) ?_ ?_ ?_ ?_ ?_ ?_ ?_ ?_ ?_ ?_ ?_ ?_ <;> exact mem_footprint rfl

theorem debugWindowAccess_stays {addr : BitVec 36} {write : Option Word32} : Stays (.debugWindowAccess addr write) := by
  refine .of_next (fun _ => rfl) fun s => ?_
  refine .ite (fun _ => State.onMod_within _ (.refl _ _) ?_) fun _ => .ite (fun _ =>
      State.dbgServe_within _ _ _ (.refl _ _) ?_ ?_ ?_ ?_ ?_ ?_) fun _ =>
      State.onMod_within _ (State.dbgServe_within _ _ _ (.refl _ _) ?_ ?_ ?_ ?_ ?_ ?_) ?_ <;> exact mem_footprint rfl

/-! ### The control core -/

theorem ccIntegerOp_stays {d : DieId} {op : CcInt} {rd rs : BitVec 5} {src : CcSrc} :
    Stays (.ccIntegerOp d op rd rs src) := by
  refine .of_next (fun _ => rfl) fun s => ?_
  refine State.ccRun_within _ _ _ _ (.refl _ _) (mem_footprint rfl) (mem_footprint rfl) (mem_footprint rfl)
      (mem_footprint rfl) (mem_footprint rfl) (mem_footprint rfl) (mem_footprint rfl) (fun _ h => ?_)
  split
  · refine State.ccPut_within _ _ _ _ h ?_ ?_ <;> exact mem_footprint rfl
  · refine State.ccFree_within _ _ _ h ?_ ?_ <;> exact mem_footprint rfl

theorem ccMultiply_stays {d : DieId} {op : CcMul} {rd rs rt : BitVec 5} : Stays (.ccMultiply d op rd rs rt) := by
  refine .of_next (fun _ => rfl) fun s => ?_
  refine State.ccRun_within _ _ _ _ (.refl _ _) ?_ ?_ ?_ ?_ ?_ ?_ ?_ (fun _ h => State.ccPut_within _ _ _ _ h ?_ ?_)
      <;> exact mem_footprint rfl

theorem ccDivide_stays {d : DieId} {op : CcDiv} {rd rs rt : BitVec 5} : Stays (.ccDivide d op rd rs rt) := by
  refine .of_next (fun _ => rfl) fun s => ?_
  refine State.ccRun_within _ _ _ _ (.refl _ _) (mem_footprint rfl) (mem_footprint rfl) (mem_footprint rfl)
      (mem_footprint rfl) (mem_footprint rfl) (mem_footprint rfl) (mem_footprint rfl) (fun _ h => ?_)
  split
  · refine State.ccPut_within _ _ _ _ h ?_ ?_ <;> exact mem_footprint rfl
  · refine State.ccFree_within _ _ _ h ?_ ?_ <;> exact mem_footprint rfl

theorem ccLoad_stays {d : DieId} {wd : CcWidth} {unsigned : Bool} {rd rs : BitVec 5} {off : Word64} :
    Stays (.ccLoad d wd unsigned rd rs off) := by
  refine .of_next (fun _ => rfl) fun s => ?_
  refine State.ccRun_within _ _ _ _ (.refl _ _) (mem_footprint rfl) (mem_footprint rfl) (mem_footprint rfl)
      (mem_footprint rfl) (mem_footprint rfl) (mem_footprint rfl) (mem_footprint rfl) (fun _ h => ?_)
  split
  · refine State.ccExcept_within _ _ h ?_ ?_ ?_ ?_ ?_ ?_ ?_ <;> exact mem_footprint rfl
  · dsimp only
    split
    · refine State.ccPut_within _ _ _ _ (State.loadValue_within _ _ _ h ?_ ?_ ?_ ?_ ?_ ?_ ?_ ?_) ?_ ?_ <;>
          exact mem_footprint rfl
    · refine State.ccExcept_within _ _ (State.loadValue_within _ _ _ h ?_ ?_ ?_ ?_ ?_ ?_ ?_ ?_) ?_ ?_ ?_ ?_ ?_ ?_ ?_
          <;> exact mem_footprint rfl

theorem ccStore_stays {d : DieId} {wd : CcWidth} {rt rs : BitVec 5} {off : Word64} :
    Stays (.ccStore d wd rt rs off) := by
  refine .of_next (fun _ => rfl) fun s => ?_
  refine State.ccRun_within _ _ _ _ (.refl _ _) (mem_footprint rfl) (mem_footprint rfl) (mem_footprint rfl)
      (mem_footprint rfl) (mem_footprint rfl) (mem_footprint rfl) (mem_footprint rfl) (fun _ h => ?_)
  split
  · refine State.ccExcept_within _ _ h ?_ ?_ ?_ ?_ ?_ ?_ ?_ <;> exact mem_footprint rfl
  · refine State.ccNext_within _ (State.onDie_within _ _ h ?_) ?_ ?_ <;> exact mem_footprint rfl

theorem storeDrain_stays {d : DieId} : Stays (.storeDrain d) := by
  refine .of_next (fun _ => rfl) fun s => ?_
  split
  · exact .refl _ _
  · refine .ite (fun _ => .refl _ _) fun _ => ?_
    extract_lets s1
    have hs1 : Within (footprint (.storeDrain d)) s s1 := State.onDie_within _ _ (.refl _ _) (mem_footprint rfl)
    refine .ite (fun _ => State.dramWrite_within _ _ _ _ hs1 (mem_footprint rfl)) fun _ => ?_
    split
    · refine State.layoutWrite_within _ _ _ _ _ hs1 ?_ ?_ ?_ ?_ ?_ ?_ ?_ ?_ ?_ ?_ ?_ ?_ <;> exact mem_footprint rfl
    · exact hs1

theorem ccFence_stays {d : DieId} : Stays (.ccFence d) := by
  refine .of_next (fun _ => rfl) fun s => ?_
  refine State.ccRun_within _ _ _ _ (.refl _ _) ?_ ?_ ?_ ?_ ?_ ?_ ?_ (fun _ h => State.ccNext_within _ h ?_ ?_) <;>
      exact mem_footprint rfl

theorem ccBranch_stays {d : DieId} {cond : CcCond} {rs rt : BitVec 5} {off : Word64} :
    Stays (.ccBranch d cond rs rt off) := by
  refine .of_next (fun _ => rfl) fun s => ?_
  refine State.ccRun_within _ _ _ _ (.refl _ _) ?_ ?_ ?_ ?_ ?_ ?_ ?_ (fun _ h => .ite (fun _ =>
      State.ccGo_within _ _ h ?_ ?_) fun _ => State.ccNext_within _ h ?_ ?_) <;> exact mem_footprint rfl

theorem ccJump_stays {d : DieId} {rd : BitVec 5} {base : Option (BitVec 5)} {off : Word64} :
    Stays (.ccJump d rd base off) := by
  refine .of_next (fun _ => rfl) fun s => ?_
  refine State.ccRun_within _ _ _ _ (.refl _ _) ?_ ?_ ?_ ?_ ?_ ?_ ?_ (fun _ h => State.ccGo_within _ _
      (State.onDie_within _ _ h ?_) ?_ ?_) <;> exact mem_footprint rfl

theorem csrr_stays {d : DieId} {rd : BitVec 5} {csr : CcCsr} : Stays (.csrr d rd csr) := by
  refine .of_next (fun _ => rfl) fun s => ?_
  refine State.ccRun_within _ _ _ _ (.refl _ _) ?_ ?_ ?_ ?_ ?_ ?_ ?_ (fun _ h => State.ccPut_within _ _ _ _ h ?_ ?_)
      <;> exact mem_footprint rfl

theorem csrw_stays {d : DieId} {csr : CcCsr} {rs : BitVec 5} : Stays (.csrw d csr rs) := by
  refine .of_next (fun _ => rfl) fun s => ?_
  refine State.ccRun_within _ _ _ _ (.refl _ _) ?_ ?_ ?_ ?_ ?_ ?_ ?_ (fun _ h => State.ccNext_within _
      (State.onDie_within _ _ h ?_) ?_ ?_) <;> exact mem_footprint rfl

theorem eret_stays {d : DieId} : Stays (.eret d) := by
  refine .of_next (fun _ => rfl) fun s => ?_
  refine State.ccRun_within _ _ _ _ (.refl _ _) ?_ ?_ ?_ ?_ ?_ ?_ ?_ (fun _ h => State.ccGo_within _ _
      (State.onDie_within _ _ h ?_) ?_ ?_) <;> exact mem_footprint rfl

theorem wfi_stays {d : DieId} : Stays (.wfi d) := by
  refine .of_next (fun _ => rfl) fun s => ?_
  refine State.ccRun_within _ _ _ _ (.refl _ _) ?_ ?_ ?_ ?_ ?_ ?_ ?_ (fun _ h => .ite (fun _ =>
      State.onDie_within _ _ (State.ccNext_within _ h ?_ ?_) ?_) fun _ =>
      State.ccNext_within _ h ?_ ?_) <;> exact mem_footprint rfl

theorem interruptEntry_stays {d : DieId} : Stays (.interruptEntry d) := by
  refine .of_next (fun _ => rfl) fun s => ?_
  split
  · refine .ite (fun _ => State.fetched_within _ _ (State.onDie_within _ _ (.refl _ _) ?_) ?_) fun _ =>
        .refl _ _ <;> exact mem_footprint rfl
  · exact .refl _ _

theorem carillonTimerMatch_stays {d : DieId} : Stays (.carillonTimerMatch d) := by
  refine .of_next (fun _ => rfl) fun s => ?_
  refine .ite (fun _ => .refl _ _) fun _ =>
      State.onDie_within _ _ (State.orReg_within _ _ _ (.refl _ _) ?_) ?_ <;> exact mem_footprint rfl

theorem pageCopy_stays {d : DieId} {ga gb gc : BitVec 5} {units : Option (BitVec 14)} :
    Stays (.pageCopy d ga gb gc units) := by
  refine .of_next (fun _ => rfl) fun s => State.ccRun_within _ _ _ _ (.refl _ _) ?_ ?_ ?_ ?_ ?_ ?_ ?_ fun s h => ?_
  case refine_8 =>
    dsimp only
    split
    · refine State.ccExcept_within _ _ h ?_ ?_ ?_ ?_ ?_ ?_ ?_ <;> exact mem_footprint rfl
    · refine State.ccLong_within _ _ _ _ _ _ _ h ?_ ?_ ?_ ?_ ?_ ?_ ?_ (fun s u t e h => ?_) fun _ h => h
      case refine_8 =>
        obtain ⟨-, rfl⟩ : _ ∧ _ = t := by simpa using e
        exact State.unitWrite_within _ _ _ h (mem_footprint rfl)
      all_goals exact mem_footprint rfl
  all_goals exact mem_footprint rfl

theorem fillLong_stays {d : DieId} {ga gb gc : BitVec 5} {units : Option (BitVec 14)} :
    Stays (.fillLong d ga gb gc units) := by
  refine .of_next (fun _ => rfl) fun s => State.ccRun_within _ _ _ _ (.refl _ _) ?_ ?_ ?_ ?_ ?_ ?_ ?_ fun s h => ?_
  case refine_8 =>
    dsimp only
    split
    · refine State.ccExcept_within _ _ h ?_ ?_ ?_ ?_ ?_ ?_ ?_ <;> exact mem_footprint rfl
    · refine State.ccLong_within _ _ _ _ _ _ _ h ?_ ?_ ?_ ?_ ?_ ?_ ?_ (fun s u t e h => ?_) fun _ h => h
      case refine_8 =>
        obtain rfl : _ = t := Option.some.inj e
        exact State.unitWrite_within _ _ _ h (mem_footprint rfl)
      all_goals exact mem_footprint rfl
  all_goals exact mem_footprint rfl

theorem digest_stays {d : DieId} {ga gb gc : BitVec 5} {fin : Bool} {units : Option (BitVec 14)} :
    Stays (.digest d ga gb gc fin units) := by
  refine .of_next (fun _ => rfl) fun s => State.ccRun_within _ _ _ _ (.refl _ _) ?_ ?_ ?_ ?_ ?_ ?_ ?_ fun s h => ?_
  case refine_8 =>
    extract_lets k n st stBad
    split
    · refine State.ccExcept_within _ _ h ?_ ?_ ?_ ?_ ?_ ?_ ?_ <;> exact mem_footprint rfl
    · refine .ite (fun _ => ?_) fun _ => ?_
      · refine State.ccExcept_within _ _ (State.ccFault_within _ _ h ?_) ?_ ?_ ?_ ?_ ?_ ?_ ?_ <;>
          exact mem_footprint rfl
      · refine State.ccLong_within _ _ _ _ _ _ _ h ?_ ?_ ?_ ?_ ?_ ?_ ?_ (fun s u t e h => ?_) fun s h => ?_
        case refine_8 =>
          obtain ⟨-, rfl⟩ : _ ∧ _ = t := by simpa using e
          exact State.dgUnit_within _ _ _ h (mem_footprint rfl)
        case refine_9 =>
          cases fin
          · exact h
          · exact State.finTime_within (State.dgFinish_within _ _ h (mem_footprint rfl))
        all_goals exact mem_footprint rfl
  all_goals exact mem_footprint rfl

/-! ### Every command -/

theorem stays (i : Instr) : Stays i := by
  cases i with
  | meshFlitArrive => exact meshFlitArrive_stays
  | dynamicPacketHop => exact dynamicPacketHop_stays
  | messageEntryArrive => exact messageEntryArrive_stays
  | semSignalArrive => exact semSignalArrive_stays
  | creditReturn => exact creditReturn_stays
  | load => exact load_stays
  | pass => exact pass_stays
  | ewise => exact ewise_stays
  | voidCommandEnter => exact voidCommandEnter_stays
  | arrayCommandHead => exact arrayCommandHead_stays
  | loadComplete => exact loadComplete_stays
  | loadAbandon => exact loadAbandon_stays
  | feederFetch => exact feederFetch_stays
  | meshVectorArrive => exact meshVectorArrive_stays
  | slotRelease => exact slotRelease_stays
  | swapWaveDone => exact swapWaveDone_stays
  | termFormation => exact termFormation_stays
  | checkCompare => exact checkCompare_stays
  | drainWrite => exact drainWrite_stays
  | arrayFreeze => exact arrayFreeze_stays
  | arrayThaw => exact arrayThaw_stays
  | passComplete => exact passComplete_stays
  | mxCtrlDrain => exact mxCtrlDrain_stays
  | arrayDrainDone => exact arrayDrainDone_stays
  | vectorResultWrite => exact vectorResultWrite_stays
  | vadd => exact vInstr_stays (op := .add)
  | vsub => exact vInstr_stays (op := .sub)
  | vmul => exact vInstr_stays (op := .mul)
  | vfma => exact vInstr_stays (op := .fma)
  | vabs => exact vInstr_stays (op := .abs)
  | vneg => exact vInstr_stays (op := .neg)
  | vmax => exact vInstr_stays (op := .max)
  | vmin => exact vInstr_stays (op := .min)
  | vrecip => exact vInstr_stays (op := .recip)
  | vrsqrt => exact vInstr_stays (op := .rsqrt)
  | vexp => exact vInstr_stays (op := .exp)
  | vexpd => exact vInstr_stays (op := .expd)
  | vcmp => exact vInstr_stays (op := .cmp)
  | vsel => exact vInstr_stays (op := .sel)
  | vmov => exact vInstr_stays (op := .mov)
  | vscansum => exact vInstr_stays (op := .scansum)
  | vscanmax => exact vInstr_stays (op := .scanmax)
  | vmoments => exact vInstr_stays (op := .moments)
  | vcvt => exact vInstr_stays (op := .cvt)
  | vrand => exact vInstr_stays (op := .rand)
  | mout => exact mout_stays
  | min => exact min_stays
  | mpass => exact mpass_stays
  | mred => exact mred_stays
  | xissue => exact xissue_stays
  | msend => exact msend_stays
  | mpop => exact mpop_stays
  | credtest => exact credtest_stays
  | wait => exact wait_stays
  | qtest => exact qtest_stays
  | semsig => exact semsig_stays
  | semsigr => exact semsigr_stays
  | semtry => exact semtry_stays
  | semwait => exact semwait_stays
  | mpoll => exact mpoll_stays
  | gong => exact gong_stays
  | slack => exact slack_stays
  | endstep => exact endstep_stays
  | loop => exact loop_stays
  | jump => exact jump_stays
  | brp => exact brp_stays
  | switchbank => exact switchbank_stays
  | bundleIssue => exact bundleIssue_stays
  | heldBundleIssue => exact heldBundleIssue_stays
  | coreQuiesce => exact coreQuiesce_stays
  | holdTimeout => exact holdTimeout_stays
  | completionPush => exact completionPush_stays
  | csRead => exact csRead_stays
  | csUnitWrite => exact csUnitWrite_stays
  | csWrite => exact csWrite_stays
  | seqOpen => exact seqOpen_stays
  | append => exact append_stays
  | share => exact share_stays
  | cow => exact cow_stays
  | trunc => exact trunc_stays
  | close => exact close_stays
  | incref => exact incref_stays
  | decref => exact decref_stays
  | commit => exact commit_stays
  | rollback => exact rollback_stays
  | pgmIllegalOp => exact pgmIllegalOp_stays
  | pgmInit => exact pgmInit_stays
  | pgmInitialisation => exact pgmInitialisation_stays
  | pgmRespop => exact pgmRespop_stays
  | pgmCepop => exact pgmCepop_stays
  | dmaJob => exact dmaJob_stays
  | copy => exact copy_stays
  | fill => exact fill_stays
  | compare => exact compare_stays
  | dmaChunk => exact dmaChunk_stays
  | dmaDescComplete => exact dmaDescComplete_stays
  | dmaLinkRead => exact dmaLinkRead_stays
  | dmaDoorbell => exact dmaDoorbell_stays
  | dmaQctrlStop => exact dmaQctrlStop_stays
  | programBlock => exact programBlock_stays
  | streamBlock => exact streamBlock_stays
  | streamPush => exact streamPush_stays
  | cqCcdone => exact cqCcdone_stays
  | cqCcpushctlGo => exact cqCcpushctlGo_stays
  | fenceBlock => exact fenceBlock_stays
  | launchBlock => exact launchBlock_stays
  | bankCopy => exact bankCopy_stays
  | stepLaunch => exact stepLaunch_stays
  | signAppend => exact signAppend_stays
  | signatureComplete => exact signatureComplete_stays
  | mxCepop => exact mxCepop_stays
  | mxRetire => exact mxRetire_stays
  | pgmRetire => exact pgmRetire_stays
  | rowSwitch => exact rowSwitch_stays
  | wsScrub => exact wsScrub_stays
  | amScrub => exact amScrub_stays
  | psmScrub => exact psmScrub_stays
  | csScrub => exact csScrub_stays
  | weightStoreWrite => exact weightStoreWrite_stays
  | assign => exact assign_stays
  | coreAbort => exact coreAbort_stays
  | release => exact release_stays
  | meshRemapWrite => exact meshRemapWrite_stays
  | linkSignalDetect => exact linkSignalDetect_stays
  | linkTrainDone => exact linkTrainDone_stays
  | linkTrainTimeout => exact linkTrainTimeout_stays
  | linkAdmit => exact linkAdmit_stays
  | laneFailure => exact laneFailure_stays
  | linkRetrainTimeout => exact linkRetrainTimeout_stays
  | linkDown => exact linkDown_stays
  | cableInsert => exact cableInsert_stays
  | frameReceive => exact frameReceive_stays
  | ident => exact ident_stays
  | identTimer => exact identTimer_stays
  | packetResidenceExpire => exact packetResidenceExpire_stays
  | linkSecuritySession => exact linkSecuritySession_stays
  | linkSessionRetry => exact linkSessionRetry_stays
  | linkRekey => exact linkRekey_stays
  | carillonLoad => exact carillonLoad_stays
  | tsExchangeTimer => exact tsExchangeTimer_stays
  | tsReq => exact tsReq_stays
  | tsRsp => exact tsRsp_stays
  | carillonExchangeLoss => exact carillonExchangeLoss_stays
  | holdoverExpire => exact holdoverExpire_stays
  | tableWrite => exact tableWrite_stays
  | tableRead => exact tableRead_stays
  | fabRetag => exact fabRetag_stays
  | epochArm => exact epochArm_stays
  | epochActivate => exact epochActivate_stays
  | packetRoute => exact packetRoute_stays
  | ccWindowExpire => exact ccWindowExpire_stays
  | put => exact put_stays
  | mcast => exact mcast_stays
  | stream => exact stream_stays
  | egressFlitArrive => exact egressFlitArrive_stays
  | emit => exact emit_stays
  | putReceive => exact putReceive_stays
  | mcastReceive => exact mcastReceive_stays
  | streamReceive => exact streamReceive_stays
  | ackReceive => exact ackReceive_stays
  | inboundEntryTimeout => exact inboundEntryTimeout_stays
  | reduce => exact reduce_stays
  | redUp => exact redUp_stays
  | redDown => exact redDown_stays
  | roundTimeout => exact roundTimeout_stays
  | fabricOpTimeout => exact fabricOpTimeout_stays
  | mrContribute => exact mrContribute_stays
  | mrTimeout => exact mrTimeout_stays
  | send => exact send_stays
  | verify => exact verify_stays
  | wxSendTimeout => exact wxSendTimeout_stays
  | ingestPageTimeout => exact ingestPageTimeout_stays
  | shardData => exact shardData_stays
  | shardAnswer => exact shardAnswer_stays
  | fabWxrpop => exact fabWxrpop_stays
  | blocks => exact blocks_stays
  | input => exact input_stays
  | hostEnd => exact hostEnd_stays
  | stepRecordWrite => exact stepRecordWrite_stays
  | frameWrite => exact frameWrite_stays
  | starveExpire => exact starveExpire_stays
  | coalesceTimer => exact coalesceTimer_stays
  | receiptSlotWrite => exact receiptSlotWrite_stays
  | ingestWrite => exact ingestWrite_stays
  | hostMboxSend => exact hostMboxSend_stays
  | placeReq => exact placeReq_stays
  | maintDecl => exact maintDecl_stays
  | selftestReq => exact selftestReq_stays
  | powerReq => exact powerReq_stays
  | functionLevelReset => exact functionLevelReset_stays
  | hotReset => exact hotReset_stays
  | hostLinkLoss => exact hostLinkLoss_stays
  | pciePerstN => exact pciePerstN_stays
  | ideKm => exact ideKm_stays
  | gongWaveComplete => exact gongWaveComplete_stays
  | gongRelease => exact gongRelease_stays
  | gongSum => exact gongSum_stays
  | gongDec => exact gongDec_stays
  | gongTimeout => exact gongTimeout_stays
  | faultReport => exact faultReport_stays
  | faultReportTimeout => exact faultReportTimeout_stays
  | stepDecide => exact stepDecide_stays
  | drainReq => exact drainReq_stays
  | pldmDrain => exact pldmDrain_stays
  | clearComplete => exact clearComplete_stays
  | stepCommit => exact stepCommit_stays
  | stepReplay => exact stepReplay_stays
  | stepReport => exact stepReport_stays
  | censusTimer => exact censusTimer_stays
  | census => exact census_stays
  | leaseExpire => exact leaseExpire_stays
  | moduleExclude => exact moduleExclude_stays
  | knell => exact knell_stays
  | reachQuery => exact reachQuery_stays
  | knellQueryTimeout => exact knellQueryTimeout_stays
  | mcElogpop => exact mcElogpop_stays
  | getElog => exact getElog_stays
  | popElog => exact popElog_stays
  | ceLogPoll => exact ceLogPoll_stays
  | scrubDeadline => exact scrubDeadline_stays
  | shardVerifyPeriod => exact shardVerifyPeriod_stays
  | maintWindowStart => exact maintWindowStart_stays
  | maintWindowEnd => exact maintWindowEnd_stays
  | selftestRun => exact selftestRun_stays
  | selftestDeadline => exact selftestDeadline_stays
  | pldmSelftest => exact pldmSelftest_stays
  | opArm => exact opArm_stays
  | opSwitch => exact opSwitch_stays
  | p10Sample => exact p10Sample_stays
  | thermalCap => exact thermalCap_stays
  | thermalCapClear => exact thermalCapClear_stays
  | thermalTrip => exact thermalTrip_stays
  | railOvercurrent => exact railOvercurrent_stays
  | pllLockLoss => exact pllLockLoss_stays
  | fifoSlip => exact fifoSlip_stays
  | managementControllerFault => exact managementControllerFault_stays
  | inputRangeLoss => exact inputRangeLoss_stays
  | moduleReset => exact moduleReset_stays
  | watchdogExpire => exact watchdogExpire_stays
  | pldmReset => exact pldmReset_stays
  | modRstN => exact modRstN_stays
  | powerOn => exact powerOn_stays
  | standbySupplyLoss => exact standbySupplyLoss_stays
  | powerCapCheck => exact powerCapCheck_stays
  | coolingCheck => exact coolingCheck_stays
  | marginSample => exact marginSample_stays
  | bootStageAdvance => exact bootStageAdvance_stays
  | cfgArm => exact cfgArm_stays
  | cfgLoad => exact cfgLoad_stays
  | cfgActivate => exact cfgActivate_stays
  | stage => exact stage_stays
  | staged => exact staged_stays
  | stageRefused => exact stageRefused_stays
  | stageTimeout => exact stageTimeout_stays
  | arm => exact arm_stays
  | abort => exact abort_stays
  | recordReq => exact recordReq_stays
  | record => exact record_stays
  | chimeRound => exact chimeRound_stays
  | pldmFirmwareUpdate => exact pldmFirmwareUpdate_stays
  | activateFirmware => exact activateFirmware_stays
  | enroll => exact enroll_stays
  | getMeasurements => exact getMeasurements_stays
  | debugAuth => exact debugAuth_stays
  | drillReq => exact drillReq_stays
  | debugGrantEnd => exact debugGrantEnd_stays
  | spdmSessionEnd => exact spdmSessionEnd_stays
  | secDbgctlEnd => exact secDbgctlEnd_stays
  | latchingRead => exact latchingRead_stays
  | cqMboxdoor => exact cqMboxdoor_stays
  | registerWrite => exact registerWrite_stays
  | debugWindowAccess => exact debugWindowAccess_stays
  | ccIntegerOp => exact ccIntegerOp_stays
  | ccMultiply => exact ccMultiply_stays
  | ccDivide => exact ccDivide_stays
  | ccLoad => exact ccLoad_stays
  | ccStore => exact ccStore_stays
  | storeDrain => exact storeDrain_stays
  | ccFence => exact ccFence_stays
  | ccBranch => exact ccBranch_stays
  | ccJump => exact ccJump_stays
  | csrr => exact csrr_stays
  | csrw => exact csrw_stays
  | eret => exact eret_stays
  | wfi => exact wfi_stays
  | interruptEntry => exact interruptEntry_stays
  | carillonTimerMatch => exact carillonTimerMatch_stays
  | pageCopy => exact pageCopy_stays
  | fillLong => exact fillLong_stays
  | digest => exact digest_stays

/-- Settles O49: one frame rule per command, assembled. -/
theorem commandsStayInTheirParts : Obligations.CommandsStayInTheirParts := by
  unfold Obligations.CommandsStayInTheirParts
  exact stays

/-! ### One ac -/

/-- The parts that may change when one ac passes. -/
def acParts : List Part :=
  [.regs, .deferred, .am, .psm, .cs, .tb, .cores, .dies, .ctxs, .links, .routers, .rgroups, .mod]

/-- The end of an ac with the counts of its cores and the Carillon count: what a tick does before the clock moves on. -/
def State.acClose (s : State) : State :=
  let u := s.acEnd.live.foldl (fun u c => u.coreTick c) s.acEnd
  (u.onMod fun m => { m.carTick (acTenths s.point) u.carRate with carDraw := u.carDraw }).draw 1

/-- What a tick does at the start of the new ac, once the clock has moved on. -/
def State.acOpen (s : State) : State :=
  ((if s.ac % 2 = 0 then s.movePoint else s).timedAll).undefer.linkFrames

theorem State.tick_eq (s : State) : s.tick = (s.acClose.passAc (acTenths s.point)).acOpen := rfl

theorem State.acClose_within (s : State) : Within acParts s s.acClose := by
  have hend : Within acParts s s.acEnd := by
    refine State.acEnd_within (.refl _ _) ?_ ?_ ?_ ?_ ?_ ?_ ?_ ?_ ?_ ?_ ?_ <;> simp [acParts]
  refine State.draw_within _ (State.onMod_within _ (.foldl _ _ hend fun _ c h => ?_) ?_)
  · refine State.coreTick_within c h ?_ ?_ <;> simp [acParts]
  · simp [acParts]

theorem State.timedAll_within_ac {s : State} :
    Within acParts s (if s.ac % 2 = 0 then s.movePoint else s).timedAll := by
  refine State.timedAll_within (.ite (fun _ => State.movePoint_within (.refl _ _) ?_) fun _ => .refl _ _)
    ?_ ?_ ?_ ?_ ?_ ?_ <;> simp [acParts]

theorem State.acOpen_within (s : State) : Within acParts s s.acOpen := by
  refine State.linkFrames_within (State.undefer_within timedAll_within_ac ?_ ?_ ?_ ?_ ?_ ?_) ?_ ?_ ?_ ?_ <;>
    simp [acParts]

/-- The clock is in no table and no memory. -/
theorem State.passAc_canonical {s : State} (t : Nat) (h : s.canonical) : (s.passAc t).canonical := h

theorem State.tick_canonical {s : State} (h : s.canonical) : s.tick.canonical := by
  have hclose : s.acClose.canonical := (State.acClose_within s).2.1 h
  exact (State.acOpen_within _).2.1 (State.passAc_canonical _ hclose)

/-- Settles O48: the clock's step by the frame of its parts, a command's step by its own frame rule (`stays`). -/
theorem everyStepKeepsTheCanonicalForm : Obligations.EveryStepKeepsTheCanonicalForm := by
  unfold Obligations.EveryStepKeepsTheCanonicalForm
  intro s t hs hstep
  unfold step at hstep
  split at hstep
  · obtain rfl : s.tick = t := by simpa using hstep
    exact State.tick_canonical hs
  next c rest _ =>
    exact (stays c _ t hstep).2.1 hs

end Sys2Proof.Machine
end

section
/-! SUPPORT. What one ac leaves alone, and all of a module at rest (O45). -/

namespace Sys2Proof.Machine

/-! ### What registers owe (R18, R22) -/

/-- What falls due changes no list of what is owed, and no clock. -/
theorem State.lateDo_owed (s : State) (k : LateKind) :
    (s.lateDo k).deferred = s.deferred ∧ (s.lateDo k).ac = s.ac ∧ (s.lateDo k).now = s.now := by
  have hW : Within [.regs, .cores, .links, .routers, .mod] s (s.lateDo k) := by
    refine State.lateDo_within k (.refl _ _) ?_ ?_ ?_ ?_ ?_ <;> simp
  obtain ⟨⟨-, hac, hnow, -, -⟩, -, hparts⟩ := hW
  exact ⟨hparts .deferred (by decide), hac, hnow⟩

theorem State.lateDo_foldl_owed (l : List Late) (s : State) :
    (l.foldl (fun s l => s.lateDo l.kind) s).deferred = s.deferred ∧
    (l.foldl (fun s l => s.lateDo l.kind) s).ac = s.ac ∧ (l.foldl (fun s l => s.lateDo l.kind) s).now = s.now := by
  induction l generalizing s with
  | nil => exact ⟨rfl, rfl, rfl⟩
  | cons e l ih =>
    obtain ⟨hd, ha, hn⟩ := s.lateDo_owed e.kind
    obtain ⟨hd', ha', hn'⟩ := ih (s.lateDo e.kind)
    exact ⟨hd'.trans hd, ha'.trans ha, hn'.trans hn⟩

theorem State.lateDue_congr {s t : State} (ha : t.ac = s.ac) (hn : t.now = s.now) (l : Late) :
    t.lateDue l = s.lateDue l := by
  simp only [State.lateDue, ha, hn]

/-- Once what is due has taken place, nothing that is left is due. -/
theorem State.undefer_settles (s : State) : ∀ l ∈ s.undefer.deferred, s.undefer.lateDue l = false := by
  obtain ⟨hd, ha, hn⟩ := State.lateDo_foldl_owed (s.deferred.filter s.lateDue)
    (s.setDeferred (s.deferred.filter fun l => !s.lateDue l))
  intro l hl
  have hl : l ∈ s.deferred.filter fun l => !s.lateDue l := by rwa [State.undefer, hd] at hl
  have hdue : s.lateDue l = false := by simpa using (List.mem_filter.1 hl).2
  exact (State.lateDue_congr ha hn l).trans hdue

theorem State.linkFrames_settles {s : State} (h : ∀ l ∈ s.deferred, s.lateDue l = false) :
    ∀ l ∈ s.linkFrames.deferred, s.linkFrames.lateDue l = false := by
  have hW : Within [.cores, .links, .routers, .mod] s s.linkFrames := by
    refine State.linkFrames_within (.refl _ _) ?_ ?_ ?_ ?_ <;> simp
  obtain ⟨⟨-, hac, hnow, -, -⟩, -, hparts⟩ := hW
  have hd : s.linkFrames.deferred = s.deferred := hparts .deferred (by decide)
  intro l hl
  exact (State.lateDue_congr hac hnow l).trans (h l (hd ▸ hl))

/-! ### A core at rest (R345) -/

/-- A core that owes no access, copies no row, and in which nothing moves on its own. -/
structure Core.Rests (k : Core) : Prop where
  wires : k.wires = []
  fired : k.fired = []
  moves : k.moves = []
  vres : k.vres = []
  portIn : k.portIn = []
  portOut : k.portOut = []
  edge : k.edge = []
  dmaPuts : k.dmaPuts = []
  fabSend : k.fabSend = []
  fabIn : k.fabIn = []
  msgWait : k.msgWait = []
  runs : k.arr.runs = []
  outs : k.arr.outs = []
  slots : k.arr.slots = []
  dyn : ∀ f ∈ k.dyn, f.cls ≠ 3
  timed : k.timed = []
  retiring : k.retiring = none

theorem Core.Quiet.rests {k : Core} (h : k.Quiet) (ht : k.timed = []) (hr : k.retiring = none) : k.Rests := by
  obtain ⟨hwires, hfired, hmoves, hvres, hin, hout, hedge, hputs, hsend, hfab, hmsg, hruns, houts, hslots, hdyn⟩ := h
  exact ⟨hwires, hfired, hmoves, hvres, hin, hout, hedge, hputs, hsend, hfab, hmsg, hruns, houts, hslots, hdyn, ht, hr⟩

/-- A state with the cores and the registers of another. -/
def State.withCoresOf (t s : State) : State := { t with cores := s.cores, regs := s.regs }

/-- `t` differs from `s` in its cores and registers alone, and every core of it rests. -/
def Calm (s t : State) : Prop := (∀ c, (t.core c).Rests) ∧ t.withCoresOf s = s

section
variable {s t : State}

theorem Calm.deferred (h : Calm s t) : t.deferred = s.deferred := (congrArg State.deferred h.2 :)
theorem Calm.link (h : Calm s t) (l : LinkId) : t.link l = s.link l := (congrArg (fun u => u.link l) h.2 :)
theorem Calm.mod (h : Calm s t) : t.mod = s.mod := (congrArg State.mod h.2 :)
theorem Calm.unchanged (h : Calm s t) :
    t.out = s.out ∧ t.ctxs = s.ctxs ∧ t.links = s.links ∧ t.routers = s.routers ∧ SameMemories s t :=
  ⟨(congrArg State.out h.2 :), (congrArg State.ctxs h.2 :), (congrArg State.links h.2 :),
    (congrArg State.routers h.2 :), (congrArg State.am h.2 :), (congrArg State.ws h.2 :), (congrArg State.psm h.2 :),
    (congrArg State.tb h.2 :), (congrArg State.cs h.2 :)⟩

theorem Calm.refl (h : ∀ c, (s.core c).Rests) : Calm s s := ⟨h, rfl⟩

/-- A core that still rests after its update leaves the state calm. -/
theorem Calm.onCore (h : Calm s t) (c : CoreId) {f : Core → Core} (hf : (f (t.core c)).Rests) :
    Calm s (t.onCore c f) := by
  refine ⟨fun c' => ?_, h.2⟩
  rw [State.onCore_eq, State.core_setCore]
  split
  · exact hf
  · exact h.1 c'

theorem Calm.setReg (h : Calm s t) (b : Blk) (off v : Nat) : Calm s (t.setReg b off v) := h

theorem Calm.count (h : Calm s t) (b : Blk) (off n : Nat) : Calm s (t.count b off n) := by
  unfold State.count
  split
  · exact h.setReg ..
  · exact h

theorem Calm.ite {p : Prop} [Decidable p] {u : State} (ht : Calm s t) (hu : Calm s u) :
    Calm s (if p then t else u) := by
  split
  · exact ht
  · exact hu

theorem Calm.foldl {α : Type} {f : State → α → State} (hf : ∀ t a, Calm s t → Calm s (f t a))
    (l : List α) (h : Calm s t) :
    Calm s (l.foldl f t) := by
  induction l generalizing t with
  | nil => exact h
  | cons a l ih => exact ih (hf t a h)

/-! ### The end of an ac (R275, R296, R312, R321, R347) -/

theorem State.dmaPutsDue_none {c : CoreId} (h : (t.core c).dmaPuts = []) : t.dmaPutsDue c = t := by
  simp [State.dmaPutsDue, h]
theorem State.fabRead_none {c : CoreId} (h : (t.core c).fabSend = []) : t.fabRead c = t := by simp [State.fabRead, h]
theorem State.fabStore_none {c : CoreId} (h : (t.core c).fabIn = []) : t.fabStore c = t := by simp [State.fabStore, h]
theorem State.portEnd_none {c : CoreId} (h : (t.core c).portOut = []) : t.portEnd c = t := by simp [State.portEnd, h]
theorem State.edgeEnd_none {c : CoreId} (h : (t.core c).edge = []) : t.edgeEnd c = t := by simp [State.edgeEnd, h]
theorem State.wsCopy_none {c : CoreId} (h : (t.core c).retiring = none) : t.wsCopy c = t := by simp [State.wsCopy, h]
theorem State.lanes_none {c : CoreId} (h : ∀ f ∈ (t.core c).dyn, f.cls ≠ 3) : t.lanes c = t := by
  have : (t.core c).dyn.any (fun f => f.cls == 3) = false := by simpa using h
  simp [State.lanes, this]
theorem State.portPick_none {c : CoreId} (h : (t.core c).portIn = []) (d : Side) : t.portPick c d = none := by
  simp [State.portPick, h, List.findSome?_eq_none_iff]
theorem State.portStep_none {c : CoreId} (h : (t.core c).portIn = []) : t.portStep c = t := by
  unfold State.portStep
  split
  · rfl
  · rw [State.portPick_none h]

theorem Calm.slotEnd (h : Calm s t) (c : CoreId) : Calm s (t.slotEnd c) := by
  have hc := h.1 c
  have hmoved : Calm s (t.onCore c fun k => { k with fired := [] }) := h.onCore c { hc with fired := rfl }
  have hc' := hmoved.1 c
  simp only [State.slotEnd, hc.wires, hc.fired, List.filter_nil, List.foldl_nil, hc'.moves]
  refine hmoved.onCore c { hc' with moves := ?_ }
  show List.filter _ (List.map _ _) = []
  rw [hc'.moves]
  rfl

/-- An update of an array that stays empty. -/
theorem Calm.onArr (h : Calm s t) (c : CoreId) {f : Arr → Arr} (hruns : (f (t.arr c)).runs = [])
    (houts : (f (t.arr c)).outs = []) (hslots : (f (t.arr c)).slots = []) : Calm s (t.onArr c f) :=
  h.onCore c { h.1 c with runs := hruns, outs := houts, slots := hslots }

/-- The array of a core at rest sends nothing, and no slot leaves it. -/
theorem Calm.arrEnd (h : Calm s t) (c : CoreId) : Calm s (t.arrEnd c) := by
  have harr {t : State} (h : Calm s t) : (t.arr c).runs = [] ∧ (t.arr c).outs = [] ∧ (t.arr c).slots = [] :=
    ⟨(h.1 c).runs, (h.1 c).outs, (h.1 c).slots⟩
  obtain ⟨hruns, houts, hslots⟩ := harr h
  have hout : Calm s (t.arrOut c) := by
    simp only [State.arrOut, hruns, houts, List.filter_nil, List.foldl_nil]
    exact h.onArr c hruns (by simp [houts]) hslots
  obtain ⟨hruns, houts, hslots⟩ := harr hout
  exact hout.onArr c (by simp [Arr.sweep, hruns, hslots]) (by simp [Arr.sweep, houts, hslots])
    (by simp [Arr.sweep, hslots])

theorem Calm.coreEnd (h : Calm s t) (c : CoreId) : Calm s (t.coreEnd c) := by
  have hslot := h.slotEnd c
  have harr := hslot.arrEnd c
  simp only [State.coreEnd]
  rw [State.dmaPutsDue_none (h.1 c).dmaPuts, State.fabRead_none (h.1 c).fabSend, State.lanes_none (hslot.1 c).dyn,
    State.portStep_none (hslot.1 c).portIn, State.portEnd_none (hslot.1 c).portOut, State.edgeEnd_none (hslot.1 c).edge,
    State.fabStore_none (harr.1 c).fabIn, State.wsCopy_none (harr.1 c).retiring]
  refine harr.onCore c ?_
  simpa [Core.admitQueues, (harr.1 c).msgWait] using harr.1 c

theorem Calm.coreTick (h : Calm s t) (c : CoreId) : Calm s (t.coreTick c) := by
  have hk : Calm s (t.onCore c fun k => k.tick t.ac) := h.onCore c { h.1 c with }
  unfold State.coreTick
  refine .ite (.count ?_ ..) ?_ <;> exact .ite (hk.count ..) hk

/-- No request has arrived at a slice of the die, and no row is copied. -/
theorem State.slices_none {d : DieId} (h : ∀ r ∈ (s.die d).xreqs, s.ac < r.arrive) : s.slices d = s := by
  have hpick (sl : Nat) : s.slicePick d sl = none := by
    have : (s.die d).xreqs.filter (fun r => r.slice == sl && decide (r.arrive ≤ s.ac)) = [] := by
      simp only [List.filter_eq_nil_iff, Bool.and_eq_true, decide_eq_true_eq, not_and, not_le]
      exact fun r hr _ => h r hr
    simp [State.slicePick, this]
  have hserve (sl : Nat) : s.sliceServe d sl = s := by
    unfold State.sliceServe
    split
    · rfl
    · rw [hpick sl]
  unfold State.slices
  split
  · rfl
  · induction List.range 32 with
    | nil => rfl
    | cons sl l ih => rw [List.foldl_cons, hserve, ih]

theorem State.csCopy_none {d : DieId} (h : (s.pgm d).retiring = none) : s.csCopy d = s := by simp [State.csCopy, h]

theorem State.Still.rests (h : s.Still) (c : CoreId) : (s.core c).Rests := by
  obtain ⟨⟨-, hretire, -⟩, hcores, -⟩ := h
  exact (hcores c).2.rests (hcores c).1 (hretire c)

theorem State.Still.dieEnd (h : s.Still) (d : DieId) : (s.slices d).csCopy d = s := by
  obtain ⟨⟨-, -, hcopy⟩, -, hreqs, -⟩ := h
  rw [State.slices_none (hreqs d), State.csCopy_none (hcopy d)]

theorem State.Still.acEnd (h : s.Still) : Calm s s.acEnd := by
  have hdies (l : List (Nat × Die)) :
      l.foldl (fun s e => (s.slices (Fin.ofNat 12 e.1)).csCopy (Fin.ofNat 12 e.1)) s = s := by
    induction l with
    | nil => rfl
    | cons e l ih => rw [List.foldl_cons, h.dieEnd, ih]
  have hcores : Calm s (s.live.foldl (fun s c => s.coreEnd c) s) :=
    Calm.foldl (fun _ c h => h.coreEnd c) _ (.refl h.rests)
  obtain ⟨-, -, -, -, hdbg⟩ := h
  have hnone : (s.live.foldl (fun s c => s.coreEnd c) s).mod.dbg = [] := by
    rw [hcores.mod, hdbg]
  unfold State.acEnd
  rw [hdies]
  simpa [State.dbgEnd, hnone] using hcores

/-! ### The start of an ac (R131, R178, R345, R509) -/

theorem State.timedRun_none {c : CoreId} (h : (t.core c).timed = []) (sel : Timed → Bool)
    (f : State → CoreId → Timed → State) :
    t.timedRun c sel f = t := by
  simp [State.timedRun, h]

theorem Calm.coreBegin (h : Calm s t) (c : CoreId) : Calm s (t.coreBegin c) := by
  have hv : Calm s (t.vresAm c) := by
    simp only [State.vresAm, State.vresOf, (h.1 c).vres, List.filter_nil, List.foldl_nil]
    exact h.onCore c { h.1 c with vres := by simp [(h.1 c).vres] }
  unfold State.coreBegin
  rw [State.timedRun_none (h.1 c).timed]
  have hz : (t.vresAm c).zeroStep c = t.vresAm c := by
    simp [State.zeroStep, show ((t.vresAm c).arr c).runs = [] from (hv.1 c).runs]
  rwa [hz]

theorem Calm.timedAll (h : Calm s t) : Calm s t.timedAll := by
  refine Calm.foldl (fun u c hu => ?_) _ (Calm.foldl (fun _ c h => h.coreBegin c) _ h)
  rwa [State.timedRun_none (hu.1 c).timed]

theorem State.undefer_none (h : t.deferred = []) : t.undefer = t := by
  simp only [State.undefer, h, List.filter_nil, List.foldl_nil, State.setDeferred]
  rw [← h]

theorem State.linkFrames_none (h : ∀ l, (t.link l).state < lkProbe) : t.linkFrames = t := by
  have hframe (l : LinkId) : t.linkFrame l = t := by
    simp [State.linkFrame, Nat.not_le.2 (h l)]
  unfold State.linkFrames
  induction t.links with
  | nil => rfl
  | cons e l ih => rw [List.foldl_cons, hframe, ih]

/-! ### One ac of a still module -/

/-- `s` but for the module record, the free values and the clock. -/
def State.clocked (s : State) (m : Mod) (n a w : Nat) : State := { s with mod := m, free := n, ac := a, now := w }

theorem Calm.clocked (h : Calm s t) (m : Mod) (n a w : Nat) : Calm (s.clocked m n a w) (t.clocked m n a w) :=
  ⟨h.1, congrArg (fun u => u.clocked m n a w) h.2⟩

/-- The start of an ac in which no register owes anything and no link sends frames. -/
theorem Calm.acOpen (h : Calm s t) (hd : s.deferred = []) (hl : ∀ l, (s.link l).state < lkProbe) : Calm s t.acOpen := by
  have hall : Calm s (if t.ac % 2 = 0 then t.movePoint else t).timedAll := Calm.timedAll (.ite (h.setReg ..) h)
  unfold State.acOpen
  rwa [State.undefer_none (hall.deferred.trans hd), State.linkFrames_none fun l => hall.link l ▸ hl l]

/-- One ac changes nothing but cores, registers, the module record, the free values and the clock. -/
theorem State.Still.tick (h : s.Still) : ∃ m n a w, Calm (s.clocked m n a w) s.tick := by
  have hcores : Calm s (s.acEnd.live.foldl (fun u c => u.coreTick c) s.acEnd) :=
    Calm.foldl (fun _ c h => h.coreTick c) _ h.acEnd
  obtain ⟨⟨hlinks, -, -⟩, -, -, hdeferred, -⟩ := h
  rw [State.tick_eq]
  exact ⟨_, _, _, _, (hcores.clocked _ _ _ _).acOpen hdeferred hlinks⟩

theorem State.Still.tick_unchanged (h : s.Still) : s.tick.out = s.out ∧ s.tick.ctxs = s.ctxs ∧ s.tick.links = s.links ∧
    s.tick.routers = s.routers ∧ SameMemories s s.tick := by
  obtain ⟨m, n, a, w, hcalm⟩ := h.tick
  exact hcalm.unchanged

end

/-- A tick's frame: the queue and the rings stay, the clock moves on by one ac of the point in force. -/
theorem State.tick_frame (s : State) : s.tick.pending = s.pending ∧ s.tick.ac = s.ac + 1 ∧
    s.tick.now = s.now + acTenths s.point ∧ s.tick.rings = s.rings ∧ s.out <+: s.tick.out := by
  obtain ⟨⟨hpend, hac, hnow, -, hout⟩, -, hparts⟩ := s.acClose_within
  obtain ⟨⟨hpend', hac', hnow', -, hout'⟩, -, hparts'⟩ := (s.acClose.passAc (acTenths s.point)).acOpen_within
  have hrings : s.acClose.rings = s.rings := hparts .rings (by decide)
  have hrings' : (s.acClose.passAc (acTenths s.point)).acOpen.rings = s.acClose.rings := hparts' .rings (by decide)
  rw [State.tick_eq]
  exact ⟨hpend'.trans hpend, hac'.trans (congrArg (· + 1) hac), hnow'.trans (congrArg (· + _) hnow),
    hrings'.trans hrings, hout.trans hout'⟩

/-- Settles O45: the frame of a tick, and for a still module what each part of the ac leaves alone. -/
theorem anEmptyQueueLetsOneAcPass : Obligations.AnEmptyQueueLetsOneAcPass := by
  unfold Obligations.AnEmptyQueueLetsOneAcPass
  intro s hs
  obtain ⟨hpend, hac, hnow, hrings, hout⟩ := s.tick_frame
  exact ⟨s.tick, by simp [step, hs], hpend.trans hs, hac, hnow, State.linkFrames_settles (State.undefer_settles _),
    hrings, hout, State.Still.tick_unchanged⟩

end Sys2Proof.Machine
end

section
/-! SUPPORT. Register reads, writes of plain fields and the debug window (O42). -/

namespace Sys2Proof.Machine

/-! ### Reads and their latches (R747, R748) -/

/-- The words of one latched value lie apart from those of every other: the search for an offset finds its own value. -/
theorem latchWords_find {b : Blk} {off lo n : Nat} (hm : (lo, n) ∈ latchWords b) (hlo : lo ≤ off)
    (hhi : off < lo + 4 * n) :
    (latchWords b).find? (fun w => decide (w.1 ≤ off) && decide (off < w.1 + 4 * w.2)) = some (lo, n) := by
  cases b <;> simp only [latchWords, List.mem_cons, List.not_mem_nil, or_false, Prod.mk.injEq] at hm ⊢
  case clk | fab | pgm | secDie => obtain ⟨rfl, rfl⟩ := hm; simp; omega
  case mc | router =>
    obtain ⟨rfl, rfl⟩ | ⟨rfl, rfl⟩ := hm
    · rw [List.find?_cons_of_pos (by simp; omega)]
    · rw [List.find?_cons_of_neg (by simp; omega), List.find?_cons_of_pos (by simp; omega)]
  case sec =>
    obtain ⟨rfl, rfl⟩ | ⟨rfl, rfl⟩ | ⟨rfl, rfl⟩ := hm
    · rw [List.find?_cons_of_pos (by simp; omega)]
    · rw [List.find?_cons_of_neg (by simp; omega), List.find?_cons_of_pos (by simp; omega)]
    · rw [List.find?_cons_of_neg (by simp; omega), List.find?_cons_of_neg (by simp; omega),
        List.find?_cons_of_pos (by simp; omega)]

theorem latchWords_find_none {b : Blk} {off : Nat} (h : Unlatched b off) :
    (latchWords b).find? (fun w => decide (w.1 ≤ off) && decide (off < w.1 + 4 * w.2)) = none := by
  simp only [List.find?_eq_none, Bool.and_eq_true, decide_eq_true_eq, not_and, not_lt]
  intro w hw hlo
  have := h w hw
  omega

theorem State.regRead_unlatched (s : State) {b : Blk} {off : Nat} (h : Unlatched b off) :
    s.regRead b off = (s, s.view b off) := by
  simp [State.regRead, latchWords_find_none h]

/-- A read of a later word of a value gives the latch, and changes nothing. -/
theorem State.regRead_latched (s : State) {b : Blk} {off lo n : Nat} (hm : (lo, n) ∈ latchWords b) (hlo : lo < off)
    (hhi : off < lo + 4 * n) : s.regRead b off = (s, (Store.get 0 s.latches (b.base + off)).toNat) := by
  simp [State.regRead, latchWords_find hm hlo.le hhi, hlo.ne']

/-- The words after the lowest are latched as they show. -/
def State.latchRest (s : State) (b : Blk) (lo : Nat) (l : List Nat) (t : State) : State :=
  l.foldl (fun t i => t.setLatch (b.base + (lo + 4 * (i + 1))) (BitVec.ofNat 32 (s.view b (lo + 4 * (i + 1))))) t

/-- A read of the lowest word of a value shows it and latches the others. -/
theorem State.regRead_lowest (s : State) {b : Blk} {lo n : Nat} (hm : (lo, n) ∈ latchWords b) (hn : 0 < n) :
    s.regRead b lo = (s.latchRest b lo (List.range (n - 1)) s, s.view b lo) := by
  simp [State.regRead, latchWords_find hm le_rfl (by omega), State.latchRest]

theorem State.latchRest_out (s : State) (b : Blk) (lo : Nat) (l : List Nat) (t : State) :
    (s.latchRest b lo l t).out = t.out := by
  induction l generalizing t with
  | nil => rfl
  | cons i l ih => exact ih _

/-- Each latched word holds what the register showed. -/
theorem State.latchRest_get (s : State) (b : Blk) (lo : Nat) (l : List Nat) (t : State) (i : Nat)
    (h : i ∈ l ∨ Store.get 0 t.latches (b.base + (lo + 4 * (i + 1))) = BitVec.ofNat 32 (s.view b (lo + 4 * (i + 1)))) :
    Store.get 0 (s.latchRest b lo l t).latches (b.base + (lo + 4 * (i + 1))) =
      BitVec.ofNat 32 (s.view b (lo + 4 * (i + 1))) := by
  induction l generalizing t with
  | nil => simpa [State.latchRest] using h
  | cons j l ih =>
    refine ih _ ?_
    by_cases hij : i = j
    · subst hij; exact .inr (Store.get_set_same ..)
    · rcases h with h | h
      · exact .inl ((List.mem_cons.1 h).resolve_left hij)
      · exact .inr ((Store.get_set_ne _ _ _ (by omega)).trans h)

/-- No value has fewer than two words. -/
theorem two_le_of_mem_latchWords {b : Blk} {w : Nat × Nat} (h : w ∈ latchWords b) : 2 ≤ w.2 := by
  revert w
  cases b <;> simp [latchWords]

/-- A read along a path that sees the register. -/
theorem execLatchingRead_seen (s : State) {p : Path} {o : BitVec 28} {b : Blk} {off : Nat}
    (hb : blockOf o.toNat = some (b, off)) (ho : o.toNat % 4 = 0) (hr : b.readable p = true)
    (hh : hiddenFrom p b off = false) :
    exec (.latchingRead p o) s = .next ((s.regRead b off).1.emit (.value (BitVec.ofNat 32 (s.regRead b off).2))) := by
  simp [exec, execLatchingRead, State.layoutRead, hb, ho, hr, hh]

/-- A read along a path that does not see the register gives 0 (R743). -/
theorem execLatchingRead_unseen (s : State) {p : Path} {o : BitVec 28} {b : Blk} {off : Nat}
    (hb : blockOf o.toNat = some (b, off)) (h : b.readable p = false ∨ hiddenFrom p b off = true) :
    exec (.latchingRead p o) s = .next (s.emit (.value 0)) := by
  rcases h with h | h <;> simp [exec, execLatchingRead, State.layoutRead, hb, h]

/-! ### Writes of plain fields (R16, R17, R741) -/

@[simp] theorem State.hwSetBits_zero (s : State) (b : Blk) (off : Nat) : s.hwSetBits b off 0 = s := rfl
@[simp] theorem State.hwCount_zero (s : State) (b : Blk) (off : Nat) (w : Bool) : s.hwCount b off 0 w = s := rfl

theorem execRegisterWrite_refused (s : State) {p : Path} {o : BitVec 28} (v : Word32) {b : Blk} {off : Nat}
    (hb : blockOf o.toNat = some (b, off)) (h : b.writable off p = false ∨ o.toNat % 4 ≠ 0) :
    exec (.registerWrite p o v 0 0) s = .next s := by
  rcases h with h | h <;> simp [exec, execRegisterWrite, State.layoutWrite, hb, h]

/-- A write of a register without SC bits is what its block does with it, and then what hardware does. -/
theorem execRegisterWrite_plain (s : State) {p : Path} {o : BitVec 28} (v hw : Word32) {b : Blk} {off : Nat}
    {r : RegDef} (hw' : WritableAt p o b off) (hr : b.reg off = some r) (hsc : r.sc = 0) :
    exec (.registerWrite p o v hw 0) s =
      .next ((s.blkWrite b p off v.toNat).hwSetBits b off (hw.toNat &&& r.w1c)) := by
  obtain ⟨hb, ho, hp⟩ := hw'
  simp [exec, execRegisterWrite, State.layoutWrite, hb, ho, hp, hr, hsc]

@[simp] theorem State.noteOld_reg (s : State) (b b' : Blk) (off off' : Nat) :
    (s.noteOld b off).reg b' off' = s.reg b' off' := by
  cases b with
  | vu c | dma c => simp only [State.noteOld]; split <;> simp
  | _ => rfl

theorem and_ones32 {n : Nat} (h : n < 2 ^ 32) : n &&& ones32 = n := by
  rw [show ones32 = 2 ^ 32 - 1 from rfl, Nat.and_two_pow_sub_one_eq_mod, Nat.mod_eq_of_lt h]

/-- The value a plain write leaves in a register. -/
def plainValue (old v : Nat) (r : RegDef) : Nat :=
  ((old &&& (ones32 ^^^ (r.rw ||| r.cnt))) ||| (v &&& (r.rw ||| r.cnt))) &&& (ones32 ^^^ (v &&& r.w1c))

theorem plainValue_lt {old v : Nat} (r : RegDef) (ho : old < 2 ^ 32) (hv : v < 2 ^ 32) : plainValue old v r < 2 ^ 32 :=
  Nat.lt_of_le_of_lt Nat.and_le_left (Nat.or_lt_two_pow (Nat.lt_of_le_of_lt Nat.and_le_left ho)
    (Nat.lt_of_le_of_lt Nat.and_le_left hv))

theorem State.reg_plainWrite (s : State) {b : Blk} {off : Nat} {r : RegDef} (hr : b.reg off = some r) {v : Nat}
    (hv : v < 2 ^ 32) : (s.plainWrite b off v).reg b off = plainValue (s.reg b off) v r := by
  have h := Nat.mod_eq_of_lt (plainValue_lt r (s.reg_lt b off) hv)
  simpa [State.plainWrite, hr, plainValue] using h

/-- The register of a core's block is none of its die's interrupt register. -/
theorem core_base_ne_ccirq {b : Blk} {c : CoreId} (hb : coreBase c ≤ b.base) (off : Nat) :
    b.base + off ≠ (Blk.cqDie (dieOf c)).base + 0x48 := by
  have : (Blk.cqDie (dieOf c)).base = dieBase (dieOf c) := rfl
  unfold coreBase at hb
  omega

/-- W1C bits that hardware sets in a block that is no HOST block stand in the register. -/
theorem State.reg_hwSetBits (s : State) {b : Blk} (off : Nat) {m : Nat} (hm : m < 2 ^ 32) (hf : b.mailFn = none)
    (hd : b.die = none ∨ ∃ c, b.die = some (dieOf c) ∧ coreBase c ≤ b.base) :
    (s.hwSetBits b off m).reg b off = s.reg b off ||| m := by
  have hlt : (s.reg b off ||| m) % 2 ^ 32 = s.reg b off ||| m :=
    Nat.mod_eq_of_lt (Nat.or_lt_two_pow (s.reg_lt b off) hm)
  by_cases h0 : m = 0
  · simp [h0]
  · simp only [State.hwSetBits, if_neg h0, hf, State.orReg_eq]
    split
    · rcases hd with hd | ⟨c, hd, hb⟩
      · simpa [hd] using hlt
      · simp only [hd]
        rw [State.reg_setReg_ne _ _ _ _ (core_base_ne_ccirq hb off), State.reg_setReg_same, hlt]
    · simpa using hlt

/-! ### The debug window (R594, R730, R739) -/

theorem execDebugWindowAccess_behind (s : State) (addr : BitVec 36) (w : Option Word32) (h : s.mod.dbg ≠ []) :
    exec (.debugWindowAccess addr w) s = .next (s.onMod fun m => { m with dbg := m.dbg ++ [(addr.toNat, w)] }) := by
  simp [exec, execDebugWindowAccess, h]

/-- With none waiting, an access that can be served is served at once. -/
theorem execDebugWindowAccess_served (s : State) {addr : BitVec 36} {w : Option Word32} (h : s.mod.dbg = []) {t : State}
    (ht : s.dbgServe false addr.toNat w = (t, true)) : exec (.debugWindowAccess addr w) s = .next t := by
  simp [exec, execDebugWindowAccess, h, ht]

/-- With none waiting, an access that is not served becomes the first that waits. -/
theorem execDebugWindowAccess_waits (s : State) {addr : BitVec 36} {w : Option Word32} (h : s.mod.dbg = [])
    (ht : s.dbgServe false addr.toNat w = (s, false)) :
    exec (.debugWindowAccess addr w) s = .next (s.onMod fun m => { m with dbg := [(addr.toNat, w)] }) := by
  simp [exec, execDebugWindowAccess, h, ht, State.onMod]

theorem State.dbgServe_denied (s : State) (late : Bool) (addr : Nat) (w : Option Word32) (h : s.bar2Granted = false) :
    s.dbgServe late addr w = ((s.hostFault 0 6).answer w ones32, true) := by
  simp [State.dbgServe, h]

theorem State.dbgServe_am (s : State) (late : Bool) {addr : Nat} (w : Option Word32) {c : CoreId} {a : Nat}
    (hg : s.bar2Granted = true) (h4 : addr % 4 = 0) (hp : dbgPlace addr = some (.am c a))
    (hd : s.dbgReaches (dieOf c) = true) :
    s.dbgServe late addr w = s.dbgAm late c a w := by
  simp [State.dbgServe, hg, h4, hp, DbgPlace.die, hd]

theorem State.dbgServe_psm (s : State) (late : Bool) {addr : Nat} (w : Option Word32) {c : CoreId} {a : Nat}
    (hg : s.bar2Granted = true) (h4 : addr % 4 = 0) (hp : dbgPlace addr = some (.psm c a))
    (hd : s.dbgReaches (dieOf c) = true) : s.dbgServe late addr w = (s.dbgPsm c a w, true) := by
  simp [State.dbgServe, hg, h4, hp, DbgPlace.die, hd]

/-- An answer leaves the registers and the memories of a core. -/
@[simp] theorem State.answer_frame (s : State) (w : Option Word32) (v : Nat) :
    (s.answer w v).am = s.am ∧ (s.answer w v).psm = s.psm ∧ (s.answer w v).cs = s.cs ∧
    (s.answer w v).cores = s.cores ∧ ∀ b off, (s.answer w v).reg b off = s.reg b off := by
  cases w <;> exact ⟨rfl, rfl, rfl, rfl, fun _ _ => rfl⟩

@[simp] theorem State.answer_read_out (s : State) (v : Nat) :
    (s.answer none v).out = s.out ++ [.value (BitVec.ofNat 32 v)] := rfl

/-- A host fault leaves the memories of a core. -/
theorem State.hostFault_frame (s : State) (f bit : Nat) :
    (s.hostFault f bit).am = s.am ∧ (s.hostFault f bit).psm = s.psm ∧ (s.hostFault f bit).cs = s.cs ∧
    (s.hostFault f bit).cores = s.cores := by
  simp only [State.hostFault, State.hostIrq]
  split <;> exact ⟨rfl, rfl, rfl, rfl⟩

/-- A bit that is raised in a 32-bit register reads 1. -/
theorem raised_bit (x : Nat) {k : Nat} (hk : k < 32) : (x ||| 2 ^ k) % 2 ^ 32 / 2 ^ k % 2 = 1 := by
  have h : ((x ||| 2 ^ k) % 2 ^ 32).testBit k = true := by rw [Nat.testBit_mod_two_pow]; simp [hk]
  simpa [Nat.testBit_eq_decide_div_mod_eq] using h

/-- HOST_FAULT of the PF shows the bit that is raised. -/
theorem State.reg_hostFault_pf (s : State) (bit : Nat) :
    (s.hostFault 0 bit).reg .pf 0x04 = (s.reg .pf 0x04 ||| 2 ^ bit) % 2 ^ 32 := by
  simp only [State.hostFault, State.hostIrq, fnBlk, if_true, State.orReg_eq]
  split <;> simp

/-- Lanes that none above takes are free when no access holds a lane. -/
theorem State.claimDyn_free (s : State) (c : CoreId) (at_ mask : Nat) (h : (s.core c).laneHeld at_ mask = false) :
    s.claimDyn c at_ mask 0 =
      (s.setCore c { s.core c with amUse := (s.core c).amUse ++ [(at_, mask, false)] }, true) := by
  simp [State.claimDyn, h]

/-- A partial write on a core that uses no lane takes its lanes for this ac and the next (R343). -/
theorem State.claimPut_free (s : State) (c : CoreId) (a : Nat) {n : Nat} (hn : n % 8 ≠ 0) (h : (s.core c).amUse = []) :
    ∃ t, s.claimPut c a n = (t, true) ∧ t.ac = s.ac ∧ t.am = s.am ∧ t.psm = s.psm ∧ t.cs = s.cs ∧
      (t.core c).timed = (s.core c).timed := by
  have h0 (i : Nat) : (s.core c).laneHeld i (laneMask a n) = false := by simp [Core.laneHeld, h]
  simp only [State.claimPut, if_neg hn, h0, Bool.false_eq_true, if_false, State.claimDyn_free _ _ _ _ (h0 _)]
  refine ⟨_, State.claimDyn_free _ _ _ _ ?_, ?_⟩
  · simp [Core.laneHeld, h]
  · simp

/-- A read of activation memory leaves its bytes, and nothing leaves the module. -/
theorem State.amRead_frame (s : State) (c : CoreId) (a n : Nat) :
    (s.amRead c a n).1.am = s.am ∧ (s.amRead c a n).1.out = s.out ∧ (s.amRead c a n).2.1 = s.amBytes c a n := by
  have step (t : State) (e : Nat × MemErr) : (t.amReadWord c e).am = t.am ∧ (t.amReadWord c e).out = t.out := by
    unfold State.amReadWord State.logCe State.logUce State.memErr
    split
    · exact ⟨rfl, rfl⟩
    · dsimp only; split <;> simp
    · dsimp only; split <;> simp
  have fold (l : List (Nat × MemErr)) (t : State) : (l.foldl (fun s e => s.amReadWord c e) t).am = t.am ∧
      (l.foldl (fun s e => s.amReadWord c e) t).out = t.out := by
    induction l generalizing t with
    | nil => exact ⟨rfl, rfl⟩
    | cons e l ih => exact ⟨(ih _).1.trans (step t e).1, (ih _).2.trans (step t e).2⟩
  refine ⟨(fold _ s).1, (fold _ s).2, ?_⟩
  simp only [State.amRead, State.amBytes, fold]

/-- A write of activation memory through the window on a core whose lanes are free (R739). -/
theorem State.dbgAm_write_free (s : State) {c : CoreId} {a : Nat} (v : Word32)
    (hf : (s.aboveDebug c false &&& laneMask a 4) = 0) (h : (s.core c).amUse = []) :
    ∃ t, s.dbgAm false c a (some v) = (t, true) ∧ t.am = s.am ∧ t.psm = s.psm ∧ t.cs = s.cs ∧
      (t.core c).timed = (s.core c).timed ++ [⟨s.ac + 1, a, false, .put (leBytes 4 v.toNat) false⟩] := by
  obtain ⟨t, ht, hac, ham, hpsm, hcs, htimed⟩ := s.claimPut_free c a (n := 4) (by decide) h
  refine ⟨t.amPut c a (leBytes 4 v.toNat) false, by simp [State.dbgAm, hf, ht], ?_⟩
  simp [State.amPut, State.addTimed, ham, hpsm, hcs, htimed, hac, leBytes]

/-- A read of activation memory through the window on a core whose lanes are free (R739). -/
theorem State.dbgAm_read_free (s : State) {c : CoreId} {a : Nat}
    (hf : (s.aboveDebug c false &&& laneMask a 4) = 0) (h : (s.core c).amUse = []) :
    ∃ t, s.dbgAm false c a none = (t, true) ∧ t.am = s.am ∧
      t.out = s.out ++ [.value (BitVec.ofNat 32 (leNat (s.amBytes c a 4)))] := by
  have hl : (s.core c).laneHeld s.ac (laneMask a 4) = false := by simp [Core.laneHeld, h]
  simp only [State.dbgAm, hf, ne_eq, not_true_eq_false, if_false, State.claimDyn_free _ _ _ _ hl, if_true]
  obtain ⟨ham, hout, hb⟩ := State.amRead_frame
    (s.setCore c { s.core c with amUse := (s.core c).amUse ++ [(s.ac, laneMask a 4, false)] }) c a 4
  refine ⟨_, rfl, ?_, ?_⟩
  · simpa using ham
  · simp [hout, hb]

theorem State.dbgAm_waits (s : State) {c : CoreId} {a : Nat} (w : Option Word32)
    (hf : ¬ (s.aboveDebug c false &&& laneMask a 4) = 0) : s.dbgAm false c a w = (s, false) := by
  simp [State.dbgAm, hf]

/-- Without an error in partial-sum memory a read of a word logs nothing. -/
theorem State.psmRead_sound (s : State) (c : CoreId) (w : Nat) (h : s.psmErr = []) :
    s.psmRead c w = (s, s.psmWord c w, s.psmPois c w) := by
  simp [State.psmRead, State.psmErrs, errsIn, h, State.psmDecode]

/-! ### The clauses of O42 -/

/-- Reads: what the path does not see, what is no word of a latched value, and the words of a latched value. -/
theorem latchingRead_shows (s : State) {p : Path} {o : BitVec 28} {b : Blk} {off : Nat}
    (hb : blockOf o.toNat = some (b, off)) (ho : o.toNat % 4 = 0) : Gives (.latchingRead p o) s fun t =>
      (b.readable p = false ∨ hiddenFrom p b off = true → t = s.emit (.value 0)) ∧
      (b.readable p = true → hiddenFrom p b off = false →
        (Unlatched b off → t = s.emit (.value (BitVec.ofNat 32 (s.view b off)))) ∧
        (∀ lo n, (lo, n) ∈ latchWords b →
          (off = lo → t.out = s.out ++ [.value (BitVec.ofNat 32 (s.view b off))] ∧
            ∀ k, k < n → k ≠ 0 →
              Store.get 0 t.latches (b.base + (lo + 4 * k)) = BitVec.ofNat 32 (s.view b (lo + 4 * k))) ∧
          (lo < off → off < lo + 4 * n → t = s.emit (.value (Store.get 0 s.latches (b.base + off)))))) := by
  by_cases hs : b.readable p = true ∧ hiddenFrom p b off = false
  · obtain ⟨hr, hh⟩ := hs
    refine ⟨_, execLatchingRead_seen s hb ho hr hh, by simp [hr, hh],
      fun _ _ => ⟨fun hu => ?_, fun lo n hm => ⟨?_, ?_⟩⟩⟩
    · rw [s.regRead_unlatched hu]
    · rintro rfl
      have hn := two_le_of_mem_latchWords hm
      rw [s.regRead_lowest hm (by omega)]
      refine ⟨by simp [s.latchRest_out], fun k hk h0 => ?_⟩
      obtain ⟨i, rfl⟩ := Nat.exists_eq_succ_of_ne_zero h0
      exact s.latchRest_get b _ _ s i (.inl (List.mem_range.2 (by omega)))
    · intro hlo hhi
      rw [s.regRead_latched hm hlo hhi]
      simp
  · have hs : b.readable p = false ∨ hiddenFrom p b off = true := by
      cases h : b.readable p <;> simp_all
    refine ⟨_, execLatchingRead_unseen s hb hs, fun _ => rfl, fun hr hh => ?_⟩
    simp [hr, hh] at hs

/-- A write of a block of plain fields, with the W1C bits that hardware sets in the same cycle. -/
theorem registerWrite_plainValue (s : State) {p : Path} {o : BitVec 28} (v hw : Word32) {b : Blk} {off : Nat}
    {r : RegDef} (hw' : WritableAt p o b off) (hr : b.reg off = some r) (hsc : r.sc = 0)
    (hb : b = .pwr ∨ (∃ c, b = .cq c) ∨ (∃ c, b = .mesh c) ∨ ∃ c, b = .vu c) :
    Gives (.registerWrite p o v hw 0) s fun t =>
      t.reg b off = plainValue (s.reg b off) v.toNat r ||| (hw.toNat &&& r.w1c) := by
  refine ⟨_, execRegisterWrite_plain s v hw hw' hr hsc, ?_⟩
  have hm : hw.toNat &&& r.w1c < 2 ^ 32 := Nat.lt_of_le_of_lt Nat.and_le_left hw.isLt
  have hblk : s.blkWrite b p off v.toNat = s.plainWrite b off v.toNat := by
    rcases hb with rfl | ⟨c, rfl⟩ | ⟨c, rfl⟩ | ⟨c, rfl⟩ <;> rfl
  have hmail : b.mailFn = none := by rcases hb with rfl | ⟨c, rfl⟩ | ⟨c, rfl⟩ | ⟨c, rfl⟩ <;> rfl
  have hdie : b.die = none ∨ ∃ c, b.die = some (dieOf c) ∧ coreBase c ≤ b.base := by
    rcases hb with rfl | ⟨c, rfl⟩ | ⟨c, rfl⟩ | ⟨c, rfl⟩
    · exact .inl rfl
    all_goals exact .inr ⟨c, rfl, Nat.le_add_right ..⟩
  show State.reg _ b off = _
  rw [hblk, State.reg_hwSetBits _ _ hm hmail hdie, s.reg_plainWrite hr v.isLt]

/-- An access through the debug window without a grant (R594). -/
theorem debugWindowAccess_denied (s : State) (addr : BitVec 36) (w : Option Word32) (h : s.mod.dbg = [])
    (hg : s.bar2Granted = false) : Gives (.debugWindowAccess addr w) s fun t =>
      t.reg .pf 0x04 / 2 ^ 6 % 2 = 1 ∧ t.am = s.am ∧ t.psm = s.psm ∧ t.cs = s.cs ∧ t.cores = s.cores ∧
      (w = none → t.out.getLast? = some (.value (BitVec.allOnes 32))) := by
  refine ⟨_, execDebugWindowAccess_served s h (s.dbgServe_denied false addr.toNat w hg), ?_, ?_, ?_, ?_, ?_, ?_⟩
  · simp only [State.answer_frame, s.reg_hostFault_pf]
    exact raised_bit _ (by decide)
  · simp [s.hostFault_frame]
  · simp [s.hostFault_frame]
  · simp [s.hostFault_frame]
  · simp [s.hostFault_frame]
  · rintro rfl
    simp [ones32]

/-- Accesses to activation memory through a granted window (R739). -/
theorem debugWindowAccess_am (s : State) (addr : BitVec 36) (c : CoreId) (a : Nat) (h : s.mod.dbg = [])
    (hg : s.bar2Granted = true) (h4 : addr.toNat % 4 = 0) (hp : dbgPlace addr.toNat = some (.am c a))
    (hd : s.dbgReaches (dieOf c) = true) :
    let free := (s.aboveDebug c false &&& laneMask a 4) = 0
    ((s.core c).amUse = [] → free →
      (∀ v : Word32, Gives (.debugWindowAccess addr (some v)) s fun t => t.am = s.am ∧ t.psm = s.psm ∧ t.cs = s.cs ∧
        (t.core c).timed = (s.core c).timed ++ [⟨s.ac + 1, a, false, .put (leBytes 4 v.toNat) false⟩]) ∧
      Gives (.debugWindowAccess addr none) s fun t => t.am = s.am ∧
        t.out = s.out ++ [.value (BitVec.ofNat 32 (leNat (s.amBytes c a 4)))]) ∧
    (¬free → ∀ w, Gives (.debugWindowAccess addr w) s fun t =>
      t = s.onMod fun m => { m with dbg := [(addr.toNat, w)] }) := by
  refine ⟨fun hu hf => ⟨fun v => ?_, ?_⟩, fun hf w => ?_⟩
  · obtain ⟨t, ht, h⟩ := s.dbgAm_write_free v hf hu
    exact ⟨t, execDebugWindowAccess_served s ‹_› ((s.dbgServe_am false _ hg h4 hp hd).trans ht), h⟩
  · obtain ⟨t, ht, h⟩ := s.dbgAm_read_free hf hu
    exact ⟨t, execDebugWindowAccess_served s ‹_› ((s.dbgServe_am false _ hg h4 hp hd).trans ht), h⟩
  · exact ⟨_, execDebugWindowAccess_waits s h ((s.dbgServe_am false w hg h4 hp hd).trans (s.dbgAm_waits w hf)), rfl⟩

/-- A read of a partial-sum word through a granted window (R739). -/
theorem debugWindowAccess_psm (s : State) (addr : BitVec 36) (c : CoreId) (a : Nat) (h : s.mod.dbg = [])
    (hg : s.bar2Granted = true) (h4 : addr.toNat % 4 = 0) (hp : dbgPlace addr.toNat = some (.psm c a))
    (hd : s.dbgReaches (dieOf c) = true) (he : s.psmErr = []) :
    Gives (.debugWindowAccess addr none) s fun t => t.psm = s.psm ∧
      t.out = s.out ++
        [.value (BitVec.ofNat 32 (bits (s.psmWord c (a / 16)).toNat (8 * (a % 16) + 31) (8 * (a % 16))))] :=
  ⟨_, execDebugWindowAccess_served s h (s.dbgServe_psm false none hg h4 hp hd), by
    simp [State.dbgPsm, s.psmRead_sound c _ he]⟩

/-- CQ_MBOXDOOR raises MAILBOX for the management controller only (R742). -/
theorem cqMboxdoor_raises (s : State) (d : DieId) :
    Gives (.cqMboxdoor d true) s (fun t => t.reg (.cqDie d) 0x48 / 2 ^ 5 % 2 = 1) ∧
    Gives (.cqMboxdoor d false) s fun t => t = s := by
  refine ⟨⟨_, rfl, ?_⟩, _, rfl, rfl⟩
  simp only [State.mboxDoor, if_true, State.orReg_eq, State.reg_setReg_same]
  exact raised_bit _ (show 5 < 32 by decide)

/-- Settles O42, clause by clause: reads and their latches, refused writes, plain fields, the debug window, the doorbell
of the mailbox. -/
theorem registerReadsAndWritesMeetTheirFields : Obligations.RegisterReadsAndWritesMeetTheirFields :=
  ⟨fun s _ _ _ _ hb ho => latchingRead_shows s hb ho,
    fun s _ _ v _ _ hb h => ⟨s, execRegisterWrite_refused s v hb h, rfl⟩,
    fun s _ _ v hw _ _ _ hw' hr hsc hb => registerWrite_plainValue s v hw hw' hr hsc hb,
    fun s addr w h => ⟨_, execDebugWindowAccess_behind s addr w h, rfl⟩,
    debugWindowAccess_denied, debugWindowAccess_am, debugWindowAccess_psm, cqMboxdoor_raises⟩

end Sys2Proof.Machine
end

section
/-! SUPPORT. Register writes that run the command of their field (O43). -/

namespace Sys2Proof.Machine

/-! ### Register writes that run a command (R16, R20, R741) -/

section
variable {s t : State} {p : Path} {o : BitVec 28} {v : Word32} {b : Blk} {off : Nat} {r : RegDef}

/-- A write with no hardware event answers `t` when its block's action answers `t` and so does the busy-write error,
if an SC bit written as 1 is still set. -/
theorem registerWrite_runs (hw : WritableAt p o b off) (hr : b.reg off = some r) (hblk : s.blkWrite b p off v.toNat = t)
    (hbusy : v.toNat &&& s.reg b off &&& r.sc ≠ 0 → s.busyWrite b off = t) :
    exec (.registerWrite p o v 0 0) s = .next t := by
  obtain ⟨hb, ho, hp⟩ := hw
  simp only [exec, execRegisterWrite, State.layoutWrite, hb, ho, hp, hr]
  by_cases h : v.toNat &&& s.reg b off &&& r.sc = 0
  · simp [h, hblk]
  · simp [h, hbusy h]

theorem WritableAt.writable (hw : WritableAt p o b off) : b.writable off p = true := hw.2.2

/-- A register without an SC bit: the write is its block's action. -/
theorem registerWrite_pulse (hw : WritableAt p o b off) (hr : b.reg off = some r) (hsc : r.sc = 0)
    (hblk : s.blkWrite b p off v.toNat = t) : exec (.registerWrite p o v 0 0) s = .next t :=
  registerWrite_runs hw hr hblk fun h => absurd (by simp [hsc]) h

theorem fld_eq_one_of_and_ne_zero {x y k : Nat} (h : x &&& y &&& 2 ^ k ≠ 0) : bits y k k = 1 := by
  rw [Nat.and_two_pow] at h
  have hk : y.testBit k = true := by
    cases hy : y.testBit k
    · simp [hy] at h
    · rfl
  simpa [bits, Nat.testBit_eq_decide_div_mod_eq] using hk

/-- A register with one SC bit: the write is its block's action, which meets the field that is busy as the busy-write
error does. -/
theorem registerWrite_go {k : Nat} (hw : WritableAt p o b off) (hr : b.reg off = some r) (hsc : r.sc = 2 ^ k)
    (hblk : s.blkWrite b p off v.toNat = t) (hbusy : s.fld b off k k = 1 → s.busyWrite b off = t) :
    exec (.registerWrite p o v 0 0) s = .next t :=
  registerWrite_runs hw hr hblk fun h => hbusy (fld_eq_one_of_and_ne_zero (hsc ▸ h))

end

theorem bitAt_toNat {w : Nat} (v : BitVec w) (k : Nat) : bitAt v.toNat k = v.getLsbD k := by
  simp [bitAt, BitVec.getLsbD, Nat.testBit_eq_decide_div_mod_eq, ← Bool.beq_eq_decide_eq]

theorem State.fld_bit_zero (s : State) (b : Blk) (off : Nat) : s.fld b off 0 0 = s.reg b off % 2 := by
  simp [State.fld, bits]

/-- Of two SC bits only one is written as 1: that one is busy. -/
theorem fld_eq_one_of_and_pair {x y j k : Nat} (hx : bitAt x j = false) (h : x &&& y &&& (2 ^ k ||| 2 ^ j) ≠ 0) :
    bits y k k = 1 := by
  have hj : x &&& 2 ^ j = 0 := by
    have hx : x.testBit j = false := by simpa [bitAt, Nat.testBit_eq_decide_div_mod_eq] using hx
    simp [Nat.and_two_pow, hx]
  have hzero : x &&& y &&& 2 ^ j = 0 := by rw [Nat.and_right_comm, hj, Nat.zero_and]
  rw [Nat.and_or_distrib_left, hzero, Nat.or_zero] at h
  exact fld_eq_one_of_and_ne_zero h

/-! ### What each command does while its field is busy (R20) -/

section
variable {s : State}

theorem State.mxDrain_busy {c : CoreId} (h : s.fld (.mx c) 0x0C 0 0 = 1) : s.mxDrain c = s.mxFault c mxBusy :=
  if_pos (s.fld_bit_zero .. ▸ h)
theorem State.qStop_busy {c : CoreId} (h : s.fld (.dma c) 0x14 0 0 = 1) : s.qStop c = s.raise (.dma c) 0x04 7 :=
  if_pos (s.fld_bit_zero .. ▸ h)
theorem State.pgmInitReq_busy {d : DieId} (h : s.fld (.pgm d) 0x04 0 0 = 1) :
    s.pgmInitReq d = s.raise (.pgm d) 0x14 9 :=
  if_pos (s.fld_bit_zero .. ▸ h)
theorem State.ccDone_busy {d : DieId} (h : s.fld (.cqDie d) 0x60 0 0 = 1) :
    s.ccDone d = s.ccFault d ccBusyWrite := if_pos h
theorem State.dbgCtlEnd_busy (h : s.fld .sec 0x104 0 0 = 1) : s.dbgCtlEnd = s.raise .sec 0x18C 2 := if_pos h
theorem State.opArm_busy {n : Nat} (h : s.fld .clk 0x44 31 31 = 1) : s.opArm n = s.raise .clk 0x54 1 := if_pos h
theorem State.mrGo_busy {n : Nat} {i : BitVec 16} (h : s.fld .fab 0x44 31 31 = 1) :
    s.mrGo n i = s.fabFault 3 := if_pos h
theorem State.cfgArm_busy (h : s.fld .sec 0xB0 31 31 = 1) : s.cfgArm = s.raise .sec 0xBC 1 := if_pos h
theorem State.cfgLoad_busy (h : s.fld .sec 0xB0 30 30 = 1) : s.cfgLoad = s.raise .sec 0xBC 1 := if_pos h
theorem State.epochArm_busy {i : IoId} {n : Nat} (h : s.fld (.router i) 0x34 31 31 = 1) :
    s.epochArm i n = s.routerFault i 7 := if_pos h
theorem State.tableGo_busy {i : IoId} {n : Nat} (h : s.fld (.router i) 0x20 31 31 = 1) :
    s.tableGo i n = s.routerFault i 7 := if_pos h
theorem State.pushGo_busy {d : DieId} {q : Bool} {n : BitVec 6} {t : Token} (h : s.fld (.cqDie d) 0xA0 31 31 = 1) :
    s.pushGo d q n t = s.ccFault d ccBusyWrite := if_pos h
theorem State.mxRetire_busy {c : CoreId} {l n : Nat} (h : s.fld (.mx c) 0x60 31 31 = 1) :
    s.mxRetire c l n = s.mxFault c mxBusy := if_pos h
theorem State.pgmRetire_busy {d : DieId} {l n : Nat} (h : s.fld (.pgm d) 0x50 31 31 = 1) :
    s.pgmRetire d l n = s.raise (.pgm d) 0x14 9 := if_pos h

end

/-! ### The fields of a written word -/

theorem bits_one (v : Word32) (k : Nat) : bits v.toNat k k = if v.getLsbD k then 1 else 0 := by
  rw [← bitAt_toNat]
  rcases Nat.mod_two_eq_zero_or_one (v.toNat / 2 ^ k) with h | h <;> simp [bits, bitAt, h]

/-- The position field of CQ_CCPUSHCTL. -/
theorem ofNat_bits_pos (v : Word32) : BitVec.ofNat 6 (bits v.toNat 27 22) = v.extractLsb' 22 6 :=
  BitVec.eq_of_toNat_eq (by simp [bits, Nat.shiftRight_eq_div_pow])

/-- A table command sees only the RW fields of FAB_TBLCMD. -/
theorem State.tableGo_congr (s : State) (i : IoId) {n m : Nat} (h : n &&& 0x7000FFFF = m &&& 0x7000FFFF) :
    s.tableGo i n = s.tableGo i m := by
  simp only [State.tableGo, h]

/-- The RW fields of FAB_TBLCMD are bits 30 to 28 and bits 15 to 0. -/
theorem and_tblCmd_mask (x : Nat) : x &&& 0x7000FFFF = x / 2 ^ 28 % 8 * 2 ^ 28 + x % 2 ^ 16 := by
  have hlow : x &&& (2 ^ 16 - 1) = x % 2 ^ 16 := Nat.and_two_pow_sub_one_eq_mod x 16
  have hshift (m : Nat) : x &&& (m <<< 28) = ((x >>> 28) &&& m) <<< 28 := by
    refine Nat.eq_of_testBit_eq fun i => ?_
    by_cases hi : 28 ≤ i <;> simp [Nat.testBit_shiftLeft, Nat.testBit_and, hi]
  have hhigh : x &&& (7 <<< 28) = (x / 2 ^ 28 % 8) <<< 28 := by
    rw [hshift, Nat.shiftRight_eq_div_pow, Nat.and_two_pow_sub_one_eq_mod _ 3]
  calc x &&& 0x7000FFFF = (x &&& (7 <<< 28)) ||| (x &&& (2 ^ 16 - 1)) := by rw [← Nat.and_or_distrib_left]; rfl
    _ = (x / 2 ^ 28 % 8) <<< 28 + x % 2 ^ 16 := by
      rw [hhigh, hlow, Nat.shiftLeft_add_eq_or_of_lt (by omega)]
    _ = _ := by rw [Nat.shiftLeft_eq]

/-- The fields of a written FAB_TBLCMD put together again. -/
theorem tblCmd_fields (v : Word32) :
    tblCmd (v.getLsbD 30) (v.getLsbD 29) (v.getLsbD 28) (v.setWidth 16).toNat &&& 0x7000FFFF =
      v.toNat &&& 0x7000FFFF := by
  have hbit (k : Nat) : (if v.getLsbD k then 2 ^ k else 0) = v.toNat / 2 ^ k % 2 * 2 ^ k := by
    rw [← bitAt_toNat]
    rcases Nat.mod_two_eq_zero_or_one (v.toNat / 2 ^ k) with h | h <;> simp [bitAt, h]
  have hv := v.isLt
  simp only [and_tblCmd_mask, tblCmd, hbit, BitVec.toNat_setWidth]
  omega

/-! ### The clauses of O43 -/

section
variable {s : State} {p : Path} {o : BitVec 28} {v : Word32} {b : Blk} {off : Nat}

/-- The fields that bit 0 sets. -/
theorem registerWrite_bit0 (hw : WritableAt p o b off) (hv : v.getLsbD 0 = true) :
    let same (i : Instr) : Prop := exec (.registerWrite p o v 0 0) s = exec i s
    (∀ c, b = .mx c → (off = 0x0C → same (.mxCtrlDrain c)) ∧ (off = 0x4C → same (.mxCepop c))) ∧
    (∀ c, b = .dma c → (off = 0x10 → same (.dmaDoorbell c)) ∧ (off = 0x14 → same (.dmaQctrlStop c))) ∧
    (∀ d, b = .pgm d → (off = 0x04 → same (.pgmInit d)) ∧ (off = 0x28 → same (.pgmRespop d)) ∧
      (off = 0x48 → same (.pgmCepop d))) ∧
    (∀ d, b = .cqDie d → (off = 0x60 → same (.cqCcdone d)) ∧ (off = 0x140 → same (.cqMboxdoor d (p == .mc)))) ∧
    (b = .sec → off = 0x104 → same .secDbgctlEnd) ∧ (b = .mc → off = 0x104 → same (.mcElogpop p)) ∧
    (∀ i, b = .router i → off = 0xB4 → same (.fabWxrpop i)) := by
  have hv : bitAt v.toNat 0 = true := (bitAt_toNat v 0).trans hv
  refine ⟨?_, ?_, ?_, ?_, ?_, ?_, ?_⟩
  · rintro c rfl
    refine ⟨?_, ?_⟩ <;> rintro rfl
    · exact registerWrite_go (k := 0) hw rfl rfl (if_pos hv) fun h => (State.mxDrain_busy h).symm
    · exact registerWrite_pulse hw rfl rfl (if_pos hv)
  · rintro c rfl
    refine ⟨?_, ?_⟩ <;> rintro rfl
    · exact registerWrite_pulse hw rfl rfl (if_pos hv)
    · exact registerWrite_go (k := 0) hw rfl rfl (if_pos hv) fun h => (State.qStop_busy h).symm
  · rintro d rfl
    refine ⟨?_, ?_, ?_⟩ <;> rintro rfl
    · exact registerWrite_go (k := 0) hw rfl rfl (if_pos hv) fun h => (State.pgmInitReq_busy h).symm
    · exact registerWrite_pulse hw rfl rfl (if_pos hv)
    · exact registerWrite_pulse hw rfl rfl (if_pos hv)
  · rintro d rfl
    refine ⟨?_, ?_⟩ <;> rintro rfl
    · exact registerWrite_go (k := 0) hw rfl rfl (if_pos hv) fun h => (State.ccDone_busy h).symm
    · exact registerWrite_pulse hw rfl rfl (if_pos hv)
  · rintro rfl rfl
    exact registerWrite_go (k := 0) hw rfl rfl (if_pos hv) fun h => (State.dbgCtlEnd_busy h).symm
  · rintro rfl rfl
    exact (registerWrite_pulse hw rfl rfl (if_pos ⟨rfl, hv⟩)).trans (congrArg _ (if_pos hw.writable).symm)
  · rintro i rfl rfl
    exact registerWrite_pulse hw rfl rfl (if_pos hv)

/-- The fields that bit 31 sets. -/
theorem registerWrite_bit31 (hw : WritableAt p o b off) (hv : v.getLsbD 31 = true) :
    let same (i : Instr) : Prop := exec (.registerWrite p o v 0 0) s = exec i s
    (b = .clk → off = 0x44 → same (.opArm (v.setWidth 2))) ∧
    (b = .fab → off = 0x44 → same (.mrContribute (v.extractLsb' 16 8) (v.setWidth 16))) ∧
    (b = .sec → off = 0xB0 → v.getLsbD 30 = false → same .cfgArm) ∧
    (∀ i, b = .router i → (off = 0x34 → same (.epochArm i (v.setWidth 8))) ∧
      (off = 0x20 → same (if v.getLsbD 30 then .tableWrite i (v.getLsbD 29) (v.getLsbD 28) (v.setWidth 16)
        else .tableRead i (v.getLsbD 29) (v.getLsbD 28) (v.setWidth 16)))) ∧
    (∀ d, b = .cqDie d → off = 0xA0 →
      same (.cqCcpushctlGo d (v.getLsbD 30) (v.extractLsb' 22 6) (v.setWidth 12))) ∧
    (∀ c, b = .mx c → off = 0x60 → same (.mxRetire c (v.getLsbD 14) (v.setWidth 14))) ∧
    (∀ d, b = .pgm d → off = 0x50 → same (.pgmRetire d (v.extractLsb' 14 5) (v.setWidth 14))) := by
  have hv : bitAt v.toNat 31 = true := (bitAt_toNat v 31).trans hv
  refine ⟨?_, ?_, ?_, ?_, ?_, ?_, ?_⟩
  · rintro rfl rfl
    refine registerWrite_go (k := 31) hw rfl rfl ?_ fun h => (State.opArm_busy h).symm
    simp [State.blkWrite, State.clkWrite, hv, BitVec.toNat_setWidth]
  · rintro rfl rfl
    refine registerWrite_go (k := 31) hw rfl rfl ?_ fun h => (State.mrGo_busy h).symm
    simp [State.blkWrite, State.fabWrite, hv, bits, Nat.shiftRight_eq_div_pow]
  · rintro rfl rfl h30
    have h30 : bitAt v.toNat 30 = false := (bitAt_toNat v 30).trans h30
    refine registerWrite_runs hw rfl ?_ fun h => (State.cfgArm_busy (fld_eq_one_of_and_pair (j := 30) h30 h)).symm
    simp [State.blkWrite, State.secWrite, hv, h30]
  · rintro i rfl
    refine ⟨?_, ?_⟩ <;> rintro rfl
    · refine registerWrite_go (k := 31) hw rfl rfl ?_ fun h => (State.epochArm_busy h).symm
      simp [State.blkWrite, State.routerWrite, hv]
    · have hrun : exec (.registerWrite p o v 0 0) s = .next (s.tableGo i v.toNat) := by
        refine registerWrite_go (k := 31) hw rfl rfl ?_ fun h => (State.tableGo_busy h).symm
        simp [State.blkWrite, State.routerWrite, hv]
      rw [hrun, s.tableGo_congr i (tblCmd_fields v).symm]
      cases v.getLsbD 30 <;> rfl
  · rintro d rfl rfl
    refine registerWrite_go (k := 31) hw rfl rfl ?_ fun h => (State.pushGo_busy h).symm
    simp [State.blkWrite, State.cqDieWrite, hv, bitAt_toNat, ofNat_bits_pos]
  · rintro c rfl rfl
    refine registerWrite_go (k := 31) hw rfl rfl ?_ fun h => (State.mxRetire_busy h).symm
    simp only [State.blkWrite, State.mxWrite, hv, and_self, if_true, bits_one]
    simp [bits]
  · rintro d rfl rfl
    refine registerWrite_go (k := 31) hw rfl rfl ?_ fun h => (State.pgmRetire_busy h).symm
    simp [State.blkWrite, State.pgmWrite, hv, bits, Nat.shiftRight_eq_div_pow]

/-- SEC_CFGCTL.load, without an arm in the same write. -/
theorem registerWrite_cfgLoad (hw : WritableAt p o .sec 0xB0) (h30 : v.getLsbD 30 = true) (h31 : v.getLsbD 31 = false) :
    exec (.registerWrite p o v 0 0) s = exec .cfgLoad s := by
  rw [← bitAt_toNat] at h30 h31
  refine registerWrite_runs hw rfl ?_ fun h => (State.cfgLoad_busy (fld_eq_one_of_and_pair (j := 31) h31 h)).symm
  simp [State.blkWrite, State.secWrite, h30, h31]

/-- FAB_RETAG, which no bit starts. -/
theorem registerWrite_retag {i : IoId} (hw : WritableAt p o (.router i) 0x30) :
    exec (.registerWrite p o v 0 0) s = exec (.fabRetag i (v.getLsbD 8) (v.setWidth 8)) s := by
  refine registerWrite_pulse hw rfl rfl ?_
  simp [State.blkWrite, State.routerWrite, bitAt_toNat]

end

/-- Settles O43: by the bit that starts each command. -/
theorem writesOfGoFieldsRunTheirCommands : Obligations.WritesOfGoFieldsRunTheirCommands := by
  intro s p o v b off hw
  refine ⟨registerWrite_bit0 hw, registerWrite_bit31 hw, ?_, ?_⟩
  · rintro rfl rfl h30 h31
    exact registerWrite_cfgLoad hw h30 h31
  · rintro i rfl rfl
    exact registerWrite_retag hw

end Sys2Proof.Machine
end

section
/-! SUPPORT. Packets between the I/O dies and the mesh ports: what reception leaves alone, and which flits it adds (R321, R534,
R547); that none reaches a core of another context (O57). -/

namespace Sys2Proof.Machine

/-! ### Places (R29) -/

/-- Settles O56: the digits of a core number are its die and its place in it. -/
theorem meshCoordinatesConvertBothWays : Obligations.MeshCoordinatesConvertBothWays := by
  intro c
  have hc := c.isLt
  simp only [bits, mrow, mcol, coreAt, Fin.ext_iff, Fin.ofNat]
  refine ⟨?_, ?_, ?_, ?_, ?_, ?_⟩ <;> omega

/-! ### What the ownership registers decide (R534, R547) -/

section
variable {s t : State}

/-- The place of a register fixes its value. -/
theorem State.reg_congr (h : t.regs = s.regs) (b : Blk) (off : Nat) : t.reg b off = s.reg b off := by
  simp only [State.reg, h]

theorem State.dieState_congr (h : t.regs = s.regs) (d : DieId) : t.dieState d = s.dieState d := by
  simp only [State.dieState, State.fld, State.reg_congr h]

theorem State.dieCtx_congr (h : t.regs = s.regs) (d : DieId) : t.dieCtx d = s.dieCtx d := by
  simp only [State.dieCtx, State.fld, State.reg_congr h]

theorem State.holds_congr (h : t.regs = s.regs) (x : Ctx) (d : DieId) : t.holds x d = s.holds x d := by
  unfold State.holds
  rw [State.dieState_congr h, State.dieCtx_congr h]

theorem State.dieEncl_congr (h : t.regs = s.regs) (d : DieId) : t.dieEncl d = s.dieEncl d := by
  simp only [State.dieEncl, State.fld, State.reg_congr h]

theorem State.portNear_congr (h : t.regs = s.regs) (x : Ctx) (c : CoreId) (is : List IoId) :
    t.portNear x c is = s.portNear x c is := by
  simp only [State.portNear, State.holds_congr h]

theorem State.shardHome_congr (h : t.regs = s.regs) (u : Transfer) : t.shardHome u = s.shardHome u := by
  simp only [State.shardHome, State.holds_congr h, State.dieEncl_congr h]

/-- A part that a frame does not name is the same. -/
theorem Within.part {P : List Part} (h : Within P s t) (p : Part) (hp : p ∉ P) : p.same s t := h.2.2 p hp

end

/-! ### Flits that wait at a port (R321, R547) -/

/-- The flits of one packet as they wait for a port link. -/
def portFlits (cls sub dest now : Nat) (h : DynBody) (p : Bool) (ls : List (Line × Bool)) : List DynFlit :=
  ⟨cls, sub, dest, false, 0, ls.isEmpty, h, p, 0, now, now⟩ ::
    ls.zipIdx.map fun l => ⟨cls, sub, dest, false, l.2 + 1, l.2 + 1 == ls.length, .line l.1.1, l.1.2, 0, now, now⟩

theorem portFlits_packet (cls sub dest now : Nat) (h : DynBody) (p : Bool) (ls : List (Line × Bool)) :
    PacketFlits (portFlits cls sub dest now h p ls) cls sub dest now h p ls := by
  refine ⟨?_, ?_, ?_⟩
  · simp only [portFlits, List.map_cons, List.map_map, List.cons.injEq, true_and]
    conv_rhs => rw [← List.zipIdx_map_fst 0 ls, List.map_map]
    rfl
  · intro f hf
    rcases List.mem_cons.1 hf with rfl | hf
    · exact ⟨rfl, rfl, rfl, rfl, rfl⟩
    · obtain ⟨l, -, rfl⟩ := List.mem_map.1 hf
      exact ⟨rfl, rfl, rfl, rfl, rfl⟩
  · intro k f hk
    have hlen : (portFlits cls sub dest now h p ls).length = ls.length + 1 := by simp [portFlits]
    rw [hlen]
    cases k with
    | zero =>
      obtain rfl : _ = f := by simpa [portFlits] using hk
      exact ⟨rfl, by cases ls <;> simp⟩
    | succ k =>
      simp only [portFlits, List.getElem?_cons_succ, List.getElem?_map, List.getElem?_zipIdx, Option.map_map,
        Option.map_eq_some_iff] at hk
      obtain ⟨l, -, rfl⟩ := hk
      simp [Nat.add_comm]

theorem portFlits_dest {cls sub dest now : Nat} {h : DynBody} {p : Bool} {ls : List (Line × Bool)} {f : DynFlit}
    (hf : f ∈ portFlits cls sub dest now h p ls) : f.dest = dest :=
  ((portFlits_packet cls sub dest now h p ls).2.1 f hf).2.2.1

theorem State.portEnter_eq (s : State) (port : CoreId) (cls sub dest : Nat) (h : DynBody) (p : Bool)
    (ls : List (Line × Bool)) : s.portEnter port cls sub dest h p ls =
      s.setCore port { s.core port with portIn := (s.core port).portIn ++ portFlits cls sub dest s.ac h p ls } := rfl

/-- A packet sets out from the port of R547 for a core, when its context holds one. -/
def State.enterNear (s : State) (x : Ctx) (c : CoreId) (cls sub : Nat) (h : DynBody) (p : Bool) (ls : List (Line × Bool)) :
    State :=
  match s.portNear x c (List.finRange 4) with
  | some (_, q) => s.portEnter q cls sub c.val h p ls
  | none => s

section
variable (s : State) (x : Ctx) (c : CoreId) (cls sub : Nat) (h : DynBody) (p : Bool) (ls : List (Line × Bool))

theorem State.linesTo_eq (i : IoId) (k : Packet) :
    s.linesTo i c k = s.enterNear k.hdr.context c 2 0 (.write i.val 0 k.hdr) k.hdr.poison (packetData k) := rfl

theorem State.enterNear_within : Within [.cores] s (s.enterNear x c cls sub h p ls) := by
  unfold State.enterNear
  split
  · exact State.portEnter_within _ _ _ _ _ _ _ (.refl _ _) (by simp)
  · exact .refl _ _

/-- No part of a core changes but the flits that wait at its port. -/
theorem State.enterNear_core (c' : CoreId) : (s.enterNear x c cls sub h p ls).core c' =
    { s.core c' with portIn := ((s.enterNear x c cls sub h p ls).core c').portIn } := by
  unfold State.enterNear
  split
  · simp only [State.portEnter_eq, State.core_setCore]
    split <;> simp_all
  · rfl

/-- The flits that wait at a port: those that waited, then some that are for the core. -/
theorem State.enterNear_portIn (q : CoreId) : ∃ fs, ((s.enterNear x c cls sub h p ls).core q).portIn = (s.core q).portIn ++ fs ∧
    ∀ f ∈ fs, f.dest = c.val := by
  unfold State.enterNear
  split
  · simp only [State.portEnter_eq, State.core_setCore]
    split
    · subst q
      exact ⟨_, rfl, fun f hf => portFlits_dest hf⟩
    · exact ⟨[], by simp⟩
  · exact ⟨[], by simp⟩

theorem State.enterNear_toward : Toward s (s.enterNear x c cls sub h p ls) x c cls sub h p ls := by
  intro io port hp
  refine ⟨portFlits cls sub c.val s.ac h p ls, ?_, portFlits_packet ..⟩
  simp [State.enterNear, hp, State.portEnter_eq]

end

/-! ### What a command leaves of a core (R28) -/

section
variable {s t u : State} {c : CoreId}

theorem CoreUntouched.trans (h : CoreUntouched s t c) (g : CoreUntouched t u c) : CoreUntouched s u c := by
  obtain ⟨hk, ha, hf⟩ := h
  obtain ⟨gk, ga, gf⟩ := g
  refine ⟨?_, ga.trans ha, fun p f hm hd => hf p f (gf p f hm hd) hd⟩
  rw [gk, hk]

/-- A command that changes neither cores nor activation memory. -/
theorem CoreUntouched.of_within {P : List Part} (h : Within P s t) (hc : .cores ∉ P) (ha : .am ∉ P) : CoreUntouched s t c := by
  have hcore (c' : CoreId) : t.core c' = s.core c' := by
    have hcores : t.cores = s.cores := h.part .cores hc
    simp only [State.core, hcores]
  refine ⟨?_, (h.part .am ha).1, fun p f hf _ => ?_⟩
  · rw [hcore]
  · rwa [hcore] at hf

theorem CoreUntouched.refl (s : State) (c : CoreId) : CoreUntouched s s c :=
  .of_within (.refl [] s) List.not_mem_nil List.not_mem_nil

/-- A packet for another core. -/
theorem CoreUntouched.enterNear (x : Ctx) {c' : CoreId} (hne : c' ≠ c) (cls sub : Nat) (h : DynBody) (p : Bool)
    (ls : List (Line × Bool)) : CoreUntouched s (s.enterNear x c' cls sub h p ls) c := by
  refine ⟨s.enterNear_core .., ((s.enterNear_within ..).part .am (by simp)).1, fun q f hf hd => ?_⟩
  obtain ⟨fs, hfs, hdest⟩ := s.enterNear_portIn x c' cls sub h p ls q
  rw [hfs, List.mem_append] at hf
  refine hf.resolve_right fun hm => hne (Fin.ext ?_)
  rw [← hdest f hm, hd]

theorem CoreUntouched.foldl_linesTo (i : IoId) (k : Packet) {cs : List CoreId} (hcs : c ∉ cs) :
    CoreUntouched s (cs.foldl (fun s c => s.linesTo i c k) s) c := by
  induction cs generalizing s with
  | nil => exact .refl _ _
  | cons a cs ih =>
    obtain ⟨ha, hcs⟩ := not_or.1 (mt List.mem_cons.2 hcs)
    exact (CoreUntouched.enterNear _ (Ne.symm ha) ..).trans (ih hcs)

theorem CoreUntouched.drop (i : IoId) (cause : Nat) : CoreUntouched s (s.drop i cause) c :=
  .of_within (P := [.routers]) (State.drop_within _ _ (.refl _ _) (by simp)) (by simp) (by simp)

theorem CoreUntouched.takeDelivered (i : IoId) (e : RingPkt) : CoreUntouched s (s.takeDelivered i e) c :=
  .of_within (P := [.links, .routers]) (State.takeDelivered_within _ _ (.refl _ _) (by simp) (by simp)) (by simp) (by simp)

theorem CoreUntouched.sendAck (i : IoId) (h : Header) (a b : Nat) (m : Bool) : CoreUntouched s (s.sendAck i h a b m) c :=
  .of_within (P := [.routers]) (State.sendAck_within _ _ _ _ _ (.refl _ _) (by simp)) (by simp) (by simp)

theorem CoreUntouched.track (i : IoId) (h : Header) (cs : List CoreId) : CoreUntouched s (s.track i h cs) c :=
  .of_within (P := [.routers]) (State.track_within _ _ _ (.refl _ _) (by simp)) (by simp) (by simp)

/-- One-way data for other cores. -/
theorem CoreUntouched.oneWay (i : IoId) (e : RingPkt) {cs : List CoreId} (hcs : c ∉ cs) : CoreUntouched s (s.oneWay i e cs) c := by
  unfold State.oneWay
  dsimp only
  split
  · exact (CoreUntouched.takeDelivered ..).trans (.drop ..)
  · split
    · exact (CoreUntouched.takeDelivered ..).trans (.drop ..)
    · split
      · exact .refl _ _
      · exact ((CoreUntouched.takeDelivered ..).trans (.track ..)).trans (.foldl_linesTo _ _ hcs)

end

/-! ### Reception of packets (R534) -/

section
variable {s : State} {i : IoId} {c : CoreId}

/-- A packet leaves its buffers: it is no longer among the delivered. -/
theorem State.takeDelivered_router (s : State) (i j : IoId) (e : RingPkt) : (s.takeDelivered i e).router j =
    if j = i then { s.router i with delivered := (s.router i).delivered.erase e } else s.router j := by
  unfold State.takeDelivered State.freeArrival State.freeRx
  split <;> simp

theorem State.nextDelivered_mem {kind : Nat} {e : RingPkt} (h : s.nextDelivered i kind = some e) :
    e ∈ (s.router i).delivered := List.mem_of_find?_eq_some h

theorem putReceive_untouched (hn : NoneReaches s i c) : Gives (.putReceive i) s fun t => CoreUntouched s t c := by
  refine ⟨_, rfl, ?_⟩
  split
  case h_1 => exact .refl _ _
  case h_2 e he =>
    dsimp only
    split
    case h_1 => exact ((CoreUntouched.takeDelivered ..).trans (.drop ..)).trans (.sendAck ..)
    case h_2 c' hc =>
      have hne : c' ≠ c := fun h => hn e (State.nextDelivered_mem he) _ (h ▸ hc)
      split
      · exact ((CoreUntouched.takeDelivered ..).trans (.drop ..)).trans (.sendAck ..)
      · split
        · exact .refl _ _
        · exact ((CoreUntouched.takeDelivered ..).trans (.track ..)).trans (.enterNear _ hne ..)

/-- The dies that a packet is for, as the router has masked them (R548). -/
def RingTo.mask : RingTo → BitVec 12
  | .cores m => m
  | _ => 0

/-- What an MCAST packet finds on each die of a mask: the core that it may reach there, or none (R540). -/
def State.mcastTargets (s : State) (h : Header) (m : BitVec 12) : List (Option CoreId) :=
  ((List.finRange 12).filter fun d => m.getLsbD d.val).map fun d => s.mayReach h (64 * d.val + h.tcore.toNat % 64)

/-- The refused deliveries of an MCAST packet that goes on to some core. -/
def State.mcastDrops (s : State) (i : IoId) (l : List (Option CoreId)) : State :=
  if (l.filterMap id).isEmpty then s else (l.filter Option.isNone).foldl (fun s _ => s.drop i dropRefused) s

theorem exec_mcastReceive {e : RingPkt} (he : s.nextDelivered i kMcast = some e) :
    exec (.mcastReceive i) s =
      .next ((s.mcastDrops i (s.mcastTargets e.pkt.hdr e.via.mask)).oneWay i e
        ((s.mcastTargets e.pkt.hdr e.via.mask).filterMap id)) := by
  simp only [exec, execMcastReceive, he]
  rfl

theorem exec_mcastReceive_none (he : s.nextDelivered i kMcast = none) : exec (.mcastReceive i) s = .next s := by
  simp only [exec, execMcastReceive, he]

theorem State.mcastDrops_within (s : State) (i : IoId) (l : List (Option CoreId)) : Within [.routers] s (s.mcastDrops i l) :=
  .ite (fun _ => .refl _ _) fun _ => .foldl _ _ (.refl _ _) fun _ _ h => State.drop_within _ _ h (by simp)

theorem mcastReceive_untouched (hn : NoneReaches s i c) : Gives (.mcastReceive i) s fun t => CoreUntouched s t c := by
  cases he : s.nextDelivered i kMcast with
  | none => exact ⟨s, exec_mcastReceive_none he, .refl _ _⟩
  | some e =>
    have hd (l : List (Option CoreId)) : CoreUntouched s (s.mcastDrops i l) c :=
      .of_within (s.mcastDrops_within i l) (by simp) (by simp)
    refine ⟨_, exec_mcastReceive he, (hd _).trans (.oneWay i e ?_)⟩
    simp only [State.mcastTargets, List.mem_filterMap, List.mem_map, not_exists, not_and, id]
    rintro _ ⟨d, -, rfl⟩
    exact hn e (State.nextDelivered_mem he) _

theorem streamReceive_untouched (hn : NoneReaches s i c) : Gives (.streamReceive i) s fun t => CoreUntouched s t c := by
  refine ⟨_, rfl, ?_⟩
  split
  case h_1 => exact .refl _ _
  case h_2 e he =>
    refine .oneWay i e ?_
    simpa using hn e (State.nextDelivered_mem he) _

end

/-! ### Shards (R578, R583) -/

section
variable {s : State} {i : IoId} {c : CoreId}

theorem CoreUntouched.transferEnd (u : Transfer) (status : Nat) : CoreUntouched s (s.transferEnd i u status) c :=
  .of_within (P := [.ctxs, .routers]) (State.transferEnd_within _ _ _ (.refl _ _) (by simp) (by simp)) (by simp) (by simp)

/-- A transfer whose core its context and enclave own is for that core. -/
theorem State.tcore_of_shardHome {u : Transfer} (hu : s.shardHome u = true) (hc : Fin.ofNat 768 u.tcore.toNat = c) :
    u.tcore.toNat = c.val := by
  simp only [State.shardHome, Bool.and_eq_true, decide_eq_true_eq] at hu
  simp [← hc, Fin.ofNat, Nat.mod_eq_of_lt hu.1]

/-- A packet of a transfer that is for another core, or whose core its context and enclave do not own. -/
theorem CoreUntouched.shardTake {u : Transfer} (p : Packet) (hu : u.tcore.toNat = c.val → s.shardHome u = false) :
    CoreUntouched s (s.shardTake i u p) c := by
  unfold State.shardTake
  extract_lets v data w
  split
  · exact .transferEnd ..
  case isFalse hh =>
    have hh : s.shardHome u = true := by simpa [v, State.shardHome] using hh
    have hne : Fin.ofNat 768 u.tcore.toNat ≠ c := fun h => by simp [hu (State.tcore_of_shardHome hh h)] at hh
    have hw : CoreUntouched s w c := .enterNear _ hne ..
    split
    · exact .transferEnd ..
    · split
      · exact hw.trans (.transferEnd ..)
      · exact hw.trans (.of_within (P := [.routers]) (State.setTransfer_within _ _ (.refl _ _) (by simp)) (by simp) (by simp))

theorem CoreUntouched.shardBegin {p : Packet} (hp : p.hdr.tcore.toNat = c.val →
    ¬(s.holds p.hdr.context (dieOf c) = true ∧ (s.dieEncl (dieOf c)).toNat = p.hdr.fc.toNat / 1024)) :
    CoreUntouched s (s.shardBegin i p) c := by
  unfold State.shardBegin
  extract_lets h u
  split
  · exact .transferEnd ..
  · refine .shardTake p fun hc => Bool.eq_false_iff.2 fun hu => hp hc ?_
    have hcore : Fin.ofNat 768 u.tcore.toNat = c := by
      have := c.isLt
      simp [Fin.ofNat, Fin.ext_iff, hc]
    have hfc := h.fc.isLt
    simp only [State.shardHome, hcore, Bool.and_eq_true, beq_iff_eq] at hu
    refine ⟨hu.2.1, ?_⟩
    rw [hu.2.2]
    simp [u, h]; omega

theorem shardData_untouched (hn : NoShardFor s i c) : Gives (.shardData i) s fun t => CoreUntouched s t c := by
  obtain ⟨htr, hdel⟩ := hn
  refine ⟨_, rfl, ?_⟩
  split
  case h_1 => exact .transferEnd ..
  case h_2 =>
    split
    case h_1 => exact .refl _ _
    case h_2 e he =>
      have he : e ∈ (s.router i).delivered := List.mem_of_find?_eq_some he
      have hw : Within [.links, .routers] s (s.takeDelivered i e) :=
        State.takeDelivered_within _ _ (.refl _ _) (by simp) (by simp)
      have hregs : (s.takeDelivered i e).regs = s.regs := hw.part .regs (by simp)
      have hbegin : CoreUntouched (s.takeDelivered i e) ((s.takeDelivered i e).shardBegin i e.pkt) c :=
        .shardBegin (by rw [State.holds_congr hregs, State.dieEncl_congr hregs]; exact hdel e he)
      refine (CoreUntouched.takeDelivered i e).trans ?_
      dsimp only
      split
      · exact hbegin
      case h_2 u hu =>
        split
        · exact hbegin
        · split
          · split
            · exact (CoreUntouched.drop ..).trans (.of_within (P := [.routers])
                (State.onRouter_within _ _ (.refl _ _) (by simp)) (by simp) (by simp))
            · exact .drop ..
          · rw [s.takeDelivered_router, if_pos rfl] at hu
            refine .shardTake _ fun hc => ?_
            rw [State.shardHome_congr hregs]
            exact htr u (List.mem_of_find?_eq_some hu) hc

end

/-- Settles O57: what a delivered packet adds waits for a core that it may reach. -/
theorem packetsReachOnlyDiesOfTheirContext : Obligations.PacketsReachOnlyDiesOfTheirContext :=
  ⟨fun _ _ _ hn => ⟨putReceive_untouched hn, mcastReceive_untouched hn, streamReceive_untouched hn⟩,
    fun _ _ _ hn => shardData_untouched hn⟩

end Sys2Proof.Machine
end

section
/-! SUPPORT. Reception of packets at an I/O die and at a core: tracking entries, answers, lines, signals (O36). -/

namespace Sys2Proof.Machine

/-! ### Tracking entries (R545, R546, R554) -/

section
variable {s t : State} {i : IoId} {h : Header}

theorem State.inboundOf_congr (hr : (t.router i).inbound = (s.router i).inbound) : t.inboundOf i h = s.inboundOf i h := by
  simp only [State.inboundOf, hr]

theorem State.inboundOf_key {n : Inbound} (hn : s.inboundOf i h = some n) : n.src = h.src ∧ n.tag = h.tag := by
  simpa using List.find?_some hn

theorem find?_filter_not {α : Type} (q : α → Bool) (l : List α) : (l.filter fun x => !q x).find? q = none := by
  simp only [List.find?_eq_none, List.mem_filter]
  rintro x ⟨-, hx⟩
  simpa using hx

/-- The entry that a packet's operation has, or begins with. -/
def State.entryFor (s : State) (i : IoId) (h : Header) (cs : List CoreId) : Inbound :=
  (s.inboundOf i h).getD ⟨h.src, h.tag, cs.map fun c => c.val, [], false, false, 0⟩

theorem State.entryFor_key (cs : List CoreId) : (s.entryFor i h cs).src = h.src ∧ (s.entryFor i h cs).tag = h.tag := by
  unfold State.entryFor
  cases hn : s.inboundOf i h with
  | none => exact ⟨rfl, rfl⟩
  | some n => exact State.inboundOf_key hn

theorem State.track_eq (s : State) (i : IoId) (h : Header) (cs : List CoreId) : s.track i h cs =
    s.setRouter i { s.router i with
      inbound := ((s.router i).inbound.filter fun m => !(m.src == h.src && m.tag == h.tag)) ++
        [{ s.entryFor i h cs with
            marked := (s.entryFor i h cs).marked || h.mark, poison := (s.entryFor i h cs).poison || h.poison
            lastAt := s.now }] } := rfl

theorem State.inboundOf_track (s : State) (i : IoId) (h : Header) (cs : List CoreId) : (s.track i h cs).inboundOf i h =
    some { s.entryFor i h cs with
      marked := (s.entryFor i h cs).marked || h.mark, poison := (s.entryFor i h cs).poison || h.poison, lastAt := s.now } := by
  obtain ⟨hs, ht⟩ := s.entryFor_key (i := i) (h := h) cs
  simp only [State.inboundOf, State.track_eq, State.router_setRouter, if_true, List.find?_append, find?_filter_not]
  simp [hs, ht]

/-- What a packet of an operation leaves of its entry. -/
theorem State.track_tracked (s : State) (i : IoId) (h : Header) (cs : List CoreId) : Tracked s (s.track i h cs) i h cs := by
  refine ⟨_, s.inboundOf_track i h cs, rfl, ?_, fun hn => ?_⟩
  · cases hn : s.inboundOf i h <;> simp [State.entryFor, State.putMarked, hn, Bool.or_comm]
  · simp [State.entryFor, hn]

theorem Tracked.congr {s' t' : State} {cs : List CoreId} (ht : Tracked s t i h cs)
    (hs : (s.router i).inbound = (s'.router i).inbound) (hn : s.now = s'.now)
    (hi : (t'.router i).inbound = (t.router i).inbound) : Tracked s' t' i h cs := by
  obtain ⟨n, h1, h2, h3, h4⟩ := ht
  have hin : s.inboundOf i h = s'.inboundOf i h := State.inboundOf_congr hs
  refine ⟨n, (State.inboundOf_congr hi).trans h1, h2.trans hn, h3.trans ?_, hin ▸ h4⟩
  simp only [State.putMarked, hin]

theorem State.inboundOf_untrack (s : State) (i : IoId) (h : Header) : (s.untrack i h).inboundOf i h = none := by
  simp only [State.inboundOf, State.untrack, State.onRouter_eq, State.router_setRouter, if_true, find?_filter_not]

theorem State.inboundOf_setInbound {n m : Inbound} (hn : s.inboundOf i h = some n) (hs : m.src = n.src) (ht : m.tag = n.tag) :
    (s.setInbound i m).inboundOf i h = some m := by
  obtain ⟨ks, kt⟩ := State.inboundOf_key hn
  have same (x : Inbound) : ((if x.src = m.src ∧ x.tag = m.tag then m else x).src == h.src &&
      (if x.src = m.src ∧ x.tag = m.tag then m else x).tag == h.tag) = (x.src == h.src && x.tag == h.tag) := by
    by_cases hx : x.src = m.src ∧ x.tag = m.tag
    · simp [hx.1, hx.2]
    · rw [if_neg hx]
  have hn : (s.router i).inbound.find? (fun n => n.src == h.src && n.tag == h.tag) = some n := hn
  simp only [State.inboundOf, State.setInbound, State.onRouter_eq, State.router_setRouter, if_true, List.find?_map,
    Function.comp_def, same, hn, Option.map_some]
  simp [hs, ht]

end

/-! ### Answers (R519, R554) -/

/-- The ACK of a PUT packet. -/
def State.ackPacket (s : State) (h : Header) (status received : Nat) (echo : Bool) : Packet :=
  { hdr := { h with vc := 2, dl := false, nflits := 0, mark := false, start := 1, hops := 0, epoch := 0, mc := false
                    dst := h.src, src := s.self, kind := 2, echo := echo, poison := false, pseq := 0, taddr := 0
                    fa := BitVec.ofNat 16 status, fb := BitVec.ofNat 16 received, fc := 0 }
    flits := [0] }

theorem State.sendAck_eq (s : State) (i : IoId) (h : Header) (status received : Nat) (echo : Bool) :
    s.sendAck i h status received echo =
      s.setRouter i { s.router i with localq := (s.router i).localq ++ [s.ackPacket h status received echo] } := rfl

theorem putAnswered_sendAck {s t : State} {i : IoId} (h : Header) {status : Nat} (hs : status < 2 ^ 16) (received : Nat)
    (echo : Bool) (hl : (t.router i).localq = (s.router i).localq) :
    PutAnswered s (t.sendAck i h status received echo) i h status := by
  refine ⟨t.ackPacket h status received echo, by simp [State.sendAck_eq, hl], rfl, rfl, rfl, rfl, rfl, rfl, ?_⟩
  exact Nat.mod_eq_of_lt hs

theorem dropCounted_drop {s t : State} {i : IoId} (cause : Nat) (hd : (t.router i).drops = (s.router i).drops) :
    DropCounted s (t.drop i cause) i cause := by
  simp [DropCounted, State.drop, hd]

/-! ### Packets that an I/O die accepts (R545, R547) -/

theorem Toward.congr {s s' t : State} {x : Ctx} {c : CoreId} {cls sub : Nat} {h : DynBody} {p : Bool} {ls : List (Line × Bool)}
    (ht : Toward s t x c cls sub h p ls) (hr : s'.regs = s.regs) (ha : s'.ac = s.ac)
    (hp : ∀ q, (s'.core q).portIn = (s.core q).portIn) : Toward s' t x c cls sub h p ls := by
  intro io q hq
  rw [State.portNear_congr hr] at hq
  rw [hp, ha]
  exact ht io q hq

/-- An accepted packet joins its operation's entry and goes on to the cores it is for. -/
def State.accept (s : State) (i : IoId) (e : RingPkt) (cs : List CoreId) : State :=
  cs.foldl (fun s c => s.linesTo i c e.pkt) ((s.takeDelivered i e).track i e.pkt.hdr cs)

section
variable (s : State) (i : IoId) (e : RingPkt) (cs : List CoreId)

theorem State.foldl_linesTo_within (k : Packet) (t : State) :
    Within [.cores] t (cs.foldl (fun s c => s.linesTo i c k) t) :=
  .foldl _ _ (.refl _ _) fun _ _ h => State.linesTo_within _ _ _ h (by simp)

/-- The state in which an accepted packet is counted. -/
theorem State.joined_within : Within [.links, .routers] s ((s.takeDelivered i e).track i e.pkt.hdr cs) :=
  State.track_within _ _ _ (State.takeDelivered_within _ _ (.refl _ _) (by simp) (by simp)) (by simp)

theorem Within.core {P : List Part} {s t : State} (h : Within P s t) (hp : .cores ∉ P) (c : CoreId) : t.core c = s.core c := by
  have hcores : t.cores = s.cores := h.part .cores hp
  simp only [State.core, hcores]

theorem Within.router {P : List Part} {s t : State} (h : Within P s t) (hp : .routers ∉ P) (j : IoId) : t.router j = s.router j := by
  have hrouters : t.routers = s.routers := h.part .routers hp
  simp only [State.router, hrouters]

/-- What an I/O die does with an accepted packet. -/
theorem State.accept_leaves : Tracked s (s.accept i e cs) i e.pkt.hdr cs ∧
    ((s.accept i e cs).router i).delivered = (s.router i).delivered.erase e ∧
    ((s.accept i e cs).router i).localq = (s.router i).localq ∧ (s.accept i e cs).am = s.am := by
  have hw := State.foldl_linesTo_within i cs e.pkt ((s.takeDelivered i e).track i e.pkt.hdr cs)
  have hj := s.joined_within i e cs
  have ht : Within [.links, .routers] s (s.takeDelivered i e) :=
    State.takeDelivered_within _ _ (.refl _ _) (by simp) (by simp)
  have hrouter : (s.accept i e cs).router i = _ := hw.router (by simp) i
  refine ⟨((s.takeDelivered i e).track_tracked i e.pkt.hdr cs).congr ?_ ht.1.2.2.1 (by rw [hrouter]), ?_, ?_, ?_⟩
  · simp [s.takeDelivered_router]
  · rw [hrouter]; simp [State.track_eq, s.takeDelivered_router]
  · rw [hrouter]; simp [State.track_eq, s.takeDelivered_router]
  · exact (hw.part .am (by simp)).1.trans (hj.part .am (by simp)).1

theorem State.accept_toward (c : CoreId) : Toward s (s.accept i e [c]) e.pkt.hdr.context c 2 0 (.write i.val 0 e.pkt.hdr)
    e.pkt.hdr.poison (packetData e.pkt) := by
  have hj := s.joined_within i e [c]
  refine Toward.congr (State.enterNear_toward _ _ c 2 0 _ _ _) (hj.part .regs (by simp)).symm hj.1.2.1.symm fun q => ?_
  rw [hj.core (by simp)]

/-- Each packet that sets out adds its flits behind those that wait. -/
theorem State.foldl_linesTo_portIn (k : Packet) (t : State) (q : CoreId) :
    ∃ fs, ((cs.foldl (fun s c => s.linesTo i c k) t).core q).portIn = (t.core q).portIn ++ fs := by
  induction cs generalizing t with
  | nil => exact ⟨[], by simp⟩
  | cons c cs ih =>
    obtain ⟨a, ha, -⟩ := t.enterNear_portIn k.hdr.context c 2 0 (.write i.val 0 k.hdr) k.hdr.poison (packetData k) q
    obtain ⟨b, hb⟩ := ih (t.linesTo i c k)
    exact ⟨a ++ b, by rw [List.foldl_cons, hb, State.linesTo_eq, ha, List.append_assoc]⟩

theorem State.accept_amongToward {c : CoreId} (hc : c ∈ cs) : AmongToward s (s.accept i e cs) e.pkt.hdr.context c 2 0
    (.write i.val 0 e.pkt.hdr) e.pkt.hdr.poison (packetData e.pkt) := by
  intro io q hq
  obtain ⟨l, r, rfl⟩ := List.append_of_mem hc
  have hj := s.joined_within i e (l ++ c :: r)
  simp only [State.accept, List.foldl_append, List.foldl_cons]
  set u := (s.takeDelivered i e).track i e.pkt.hdr (l ++ c :: r)
  set v := l.foldl (fun s c => s.linesTo i c e.pkt) u
  have hv : Within [.cores] u v := State.foldl_linesTo_within i l e.pkt u
  have hregs : v.regs = s.regs := (hv.part .regs (by simp)).trans (hj.part .regs (by simp))
  have hac : v.ac = s.ac := hv.1.2.1.trans hj.1.2.1
  obtain ⟨a, ha⟩ := State.foldl_linesTo_portIn i l e.pkt u q
  obtain ⟨fs, hfs, hpk⟩ := v.enterNear_toward e.pkt.hdr.context c 2 0 (.write i.val 0 e.pkt.hdr) e.pkt.hdr.poison
    (packetData e.pkt) io q (by rw [State.portNear_congr hregs, hq])
  obtain ⟨b, hb⟩ := State.foldl_linesTo_portIn i r e.pkt (v.linesTo i c e.pkt) q
  rw [hac] at hpk
  refine ⟨a, fs, b, ?_, hpk⟩
  rw [hb, State.linesTo_eq, hfs, ha, hj.core (by simp)]
  simp only [List.append_assoc]

end

end Sys2Proof.Machine
end

section
/-! SUPPORT. What an I/O die does with PUT, MCAST, STREAM and ACK packets (O36). -/

namespace Sys2Proof.Machine

/-! ### PUT, MCAST and STREAM (R534, R539 to R543) -/

section
variable (s : State) (i : IoId)

/-- A packet that an I/O die discards has left its buffers and is counted; its answer may follow. -/
theorem State.discard_leaves (e : RingPkt) (cause : Nat) :
    DropCounted s ((s.takeDelivered i e).drop i cause) i cause ∧
    ((((s.takeDelivered i e).drop i cause).router i).delivered = (s.router i).delivered.erase e ∧
    (((s.takeDelivered i e).drop i cause).router i).localq = (s.router i).localq) ∧
    ((s.takeDelivered i e).drop i cause).am = s.am := by
  have hw : Within [.links, .routers] s ((s.takeDelivered i e).drop i cause) :=
    State.drop_within _ _ (State.takeDelivered_within _ _ (.refl _ _) (by simp) (by simp)) (by simp)
  refine ⟨dropCounted_drop cause (by simp [s.takeDelivered_router]), ⟨?_, ?_⟩, (hw.part .am (by simp)).1⟩ <;>
    simp [State.drop, s.takeDelivered_router]

theorem State.sendAck_leaves (t : State) (h : Header) (status received : Nat) (echo : Bool) :
    ((t.sendAck i h status received echo).router i).delivered = (t.router i).delivered ∧
    ((t.sendAck i h status received echo).router i).drops = (t.router i).drops ∧
    (t.sendAck i h status received echo).am = t.am := by
  simp [State.sendAck_eq]

/-- A PUT packet that is refused, for another generation or for a core that its context does not hold. -/
theorem State.putRefused_leaves (e : RingPkt) (cause : Nat) {status : Nat} (hs : status < 2 ^ 16) (echo : Bool) :
    let t := ((s.takeDelivered i e).drop i cause).sendAck i e.pkt.hdr status 0 echo
    PutAnswered s t i e.pkt.hdr status ∧ DropCounted s t i cause ∧ t.am = s.am ∧
      (t.router i).delivered = (s.router i).delivered.erase e := by
  obtain ⟨hd, ⟨hdel, hl⟩, ha⟩ := s.discard_leaves i e cause
  obtain ⟨kdel, kdrops, ka⟩ := State.sendAck_leaves i ((s.takeDelivered i e).drop i cause) e.pkt.hdr status 0 echo
  refine ⟨putAnswered_sendAck _ hs _ _ hl, ?_, ka.trans ha, kdel.trans hdel⟩
  rw [DropCounted, kdrops]
  exact hd

theorem putReceive_delivers (e : RingPkt) (he : s.nextDelivered i kPut = some e) : Gives (.putReceive i) s fun t =>
    let h := e.pkt.hdr
    (s.mayReach h h.tcore.toNat = none → PutAnswered s t i h 1 ∧ DropCounted s t i dropRefused ∧ t.am = s.am ∧
      (t.router i).delivered = (s.router i).delivered.erase e) ∧
    (∀ c, s.mayReach h h.tcore.toNat = some c → s.genOk h = false → PutAnswered s t i h 3 ∧ DropCounted s t i dropStale ∧
      t.am = s.am ∧ (t.router i).delivered = (s.router i).delivered.erase e) ∧
    (∀ c, s.mayReach h h.tcore.toNat = some c → s.genOk h = true → s.inboundFull i h = true → t = s) ∧
    (∀ c, s.mayReach h h.tcore.toNat = some c → s.genOk h = true → s.inboundFull i h = false →
      Toward s t h.context c 2 0 (.write i.val 0 h) h.poison (packetData e.pkt) ∧ Tracked s t i h [c] ∧
      (t.router i).delivered = (s.router i).delivered.erase e ∧ (t.router i).localq = (s.router i).localq ∧ t.am = s.am) := by
  refine ⟨_, rfl, ?_⟩
  simp only [he]
  refine ⟨fun hm => ?_, fun c hm hg => ?_, fun c hm hg hf => ?_, fun c hm hg hf => ?_⟩
  · simp only [hm]
    exact s.putRefused_leaves i e dropRefused (by decide) _
  · simp only [hm, hg]
    exact s.putRefused_leaves i e dropStale (by decide) _
  · simp [hm, hg, hf]
  · simp only [hm, hg, hf]
    obtain ⟨ht, hd, hl, ha⟩ := s.accept_leaves i e [c]
    exact ⟨s.accept_toward i e c, ht, hd, hl, ha⟩

theorem State.genOk_congr {s t : State} (hx : t.ctxs = s.ctxs) (h : Header) : t.genOk h = s.genOk h := by
  simp only [State.genOk, State.ctx, hx]

theorem AmongToward.congr {s s' t : State} {x : Ctx} {c : CoreId} {cls sub : Nat} {h : DynBody} {p : Bool}
    {ls : List (Line × Bool)} (ht : AmongToward s t x c cls sub h p ls) (hr : s'.regs = s.regs) (ha : s'.ac = s.ac)
    (hp : ∀ q, (s'.core q).portIn = (s.core q).portIn) : AmongToward s' t x c cls sub h p ls := by
  intro io q hq
  rw [State.portNear_congr hr] at hq
  rw [hp, ha]
  exact ht io q hq

theorem State.mcastDrops_router (l : List (Option CoreId)) : ∃ n, (s.mcastDrops i l).router i = { s.router i with drops := n } := by
  have fold (l : List (Option CoreId)) (t : State) :
      ∃ n, (l.foldl (fun s _ => s.drop i dropRefused) t).router i = { t.router i with drops := n } := by
    induction l generalizing t with
    | nil => exact ⟨_, rfl⟩
    | cons a l ih =>
      obtain ⟨n, hn⟩ := ih (t.drop i dropRefused)
      exact ⟨n, by rw [List.foldl_cons, hn]; simp [State.drop]⟩
  unfold State.mcastDrops
  split
  · exact ⟨_, rfl⟩
  · exact fold _ s

theorem State.oneWay_nil (e : RingPkt) : s.oneWay i e [] = (s.takeDelivered i e).drop i dropRefused := rfl

section
variable {s i} {e : RingPkt} {cs : List CoreId} {c : CoreId} (hc : c ∈ cs)
include hc

theorem State.oneWay_stale (hg : s.genOk e.pkt.hdr = false) : s.oneWay i e cs = (s.takeDelivered i e).drop i dropStale := by
  simp [State.oneWay, List.ne_nil_of_mem hc, hg]

theorem State.oneWay_accepts (hg : s.genOk e.pkt.hdr = true) (hf : s.inboundFull i e.pkt.hdr = false) :
    s.oneWay i e cs = s.accept i e cs := by
  simp [State.oneWay, List.ne_nil_of_mem hc, hg, hf, State.accept]

end

theorem mcastReceive_delivers (e : RingPkt) (m : BitVec 12) (he : s.nextDelivered i kMcast = some e) (hv : e.via = .cores m) :
    Gives (.mcastReceive i) s fun t =>
      let h := e.pkt.hdr
      let reach (d : DieId) := s.mayReach h (64 * d.val + h.tcore.toNat % 64)
      ((∀ d : DieId, m.getLsbD d.val = true → reach d = none) → DropCounted s t i dropRefused ∧ t.am = s.am ∧
        (t.router i).delivered = (s.router i).delivered.erase e) ∧
      (∀ (d : DieId) c, m.getLsbD d.val = true → reach d = some c → s.genOk h = true → s.inboundFull i h = false →
        AmongToward s t h.context c 2 0 (.write i.val 0 h) h.poison (packetData e.pkt) ∧
        (∃ cs, c ∈ cs ∧ Tracked s t i h cs) ∧ (t.router i).delivered = (s.router i).delivered.erase e ∧
        (t.router i).localq = (s.router i).localq ∧ t.am = s.am) := by
  refine ⟨_, exec_mcastReceive he, ?_⟩
  rw [hv]
  set l := s.mcastTargets e.pkt.hdr (RingTo.cores m).mask with hl
  have hmem (o : Option CoreId) : o ∈ l ↔
      ∃ d : DieId, m.getLsbD d.val = true ∧ s.mayReach e.pkt.hdr (64 * d.val + e.pkt.hdr.tcore.toNat % 64) = o := by
    simp [hl, State.mcastTargets, RingTo.mask]
  refine ⟨fun hn => ?_, fun d c hd hr hg hf => ?_⟩
  · have hnil : l.filterMap id = [] := by
      simp only [List.filterMap_eq_nil_iff, hmem, id]
      rintro _ ⟨d, hd, rfl⟩
      exact hn d hd
    rw [hnil, State.oneWay_nil, State.mcastDrops, hnil]
    obtain ⟨hdrop, ⟨hdel, -⟩, ha⟩ := s.discard_leaves i e dropRefused
    exact ⟨hdrop, ha, hdel⟩
  · have hc : c ∈ l.filterMap id := List.mem_filterMap.2 ⟨some c, (hmem _).2 ⟨d, hd, hr⟩, rfl⟩
    obtain ⟨ht, hdel, hl, ha⟩ := (s.mcastDrops i l).accept_leaves i e (l.filterMap id)
    have hw := s.mcastDrops_within i l
    obtain ⟨n, hn⟩ := s.mcastDrops_router i l
    have hin : ((s.mcastDrops i l).router i).inbound = (s.router i).inbound := by rw [hn]
    have hf : (s.mcastDrops i l).inboundFull i e.pkt.hdr = false := by
      simpa only [State.inboundFull, State.inboundOf_congr hin, hin] using hf
    have hg : (s.mcastDrops i l).genOk e.pkt.hdr = true := (State.genOk_congr (hw.part .ctxs (by simp)) _).trans hg
    rw [State.oneWay_accepts hc hg hf]
    refine ⟨AmongToward.congr (State.accept_amongToward _ i e _ hc) (hw.part .regs (by simp)).symm hw.1.2.1.symm
      fun q => by rw [hw.core (by simp)], ⟨_, hc, ht.congr hin hw.1.2.2.1 rfl⟩, ?_, ?_, ha.trans (hw.part .am (by simp)).1⟩
    · rw [hdel, hn]
    · rw [hl, hn]

theorem streamReceive_delivers (e : RingPkt) (he : s.nextDelivered i kStream = some e) : Gives (.streamReceive i) s fun t =>
    let h := e.pkt.hdr
    (s.mayReach h h.tcore.toNat = none → DropCounted s t i dropRefused ∧ t.am = s.am) ∧
    (∀ c, s.mayReach h h.tcore.toNat = some c →
      (s.genOk h = false → DropCounted s t i dropStale ∧ t.am = s.am) ∧
      (s.genOk h = true → s.inboundFull i h = false →
        Toward s t h.context c 2 0 (.write i.val 0 h) h.poison (packetData e.pkt) ∧ Tracked s t i h [c] ∧
        (t.router i).localq = (s.router i).localq ∧ t.am = s.am)) := by
  refine ⟨_, rfl, ?_⟩
  simp only [he]
  refine ⟨fun hm => ?_, fun c hm => ⟨fun hg => ?_, fun hg hf => ?_⟩⟩ <;> rw [hm]
  · obtain ⟨hd, -, ha⟩ := s.discard_leaves i e dropRefused
    exact ⟨hd, ha⟩
  · rw [Option.toList_some, State.oneWay_stale (List.mem_singleton_self c) hg]
    obtain ⟨hd, -, ha⟩ := s.discard_leaves i e dropStale
    exact ⟨hd, ha⟩
  · rw [Option.toList_some, State.oneWay_accepts (List.mem_singleton_self c) hg hf]
    obtain ⟨ht, -, hl, ha⟩ := s.accept_leaves i e [c]
    exact ⟨s.accept_toward i e c, ht, hl, ha⟩

end

/-! ### ACK (R539, R542, R543, R555) -/

section
variable (s : State) (i : IoId) (e : RingPkt)

theorem State.takeDelivered_ackedOp (h : Header) : (s.takeDelivered i e).ackedOp h = s.ackedOp h := by
  unfold State.takeDelivered State.freeArrival
  split <;> rfl

/-- The operation of an ACK is answered at its core, and a first echo of the window lowers the core's rate (R542, R555). -/
def State.ackAt (s : State) (c : CoreId) (o : DynOp) (echo : Bool) : State :=
  (if echo then s.echo c else s).onCore c fun k =>
    { k with ops := k.ops.map fun q => if q.serial = o.serial then { q with stage := .answered } else q }

theorem exec_ackReceive (he : s.nextDelivered i kAck = some e) :
    exec (.ackReceive i) s = .next (
      if !s.genOk e.pkt.hdr then (s.takeDelivered i e).drop i dropStale
      else
        match s.ackedOp e.pkt.hdr with
        | none => (s.takeDelivered i e).drop i dropLate
        | some (c, o) => ((s.takeDelivered i e).ackAt c o e.pkt.hdr.echo).enterNear e.pkt.hdr.context c 0 0
            (.done o.serial (e.pkt.hdr.fa != 0)) false []) := by
  have hw : Within [.links, .routers] s (s.takeDelivered i e) :=
    State.takeDelivered_within _ _ (.refl _ _) (by simp) (by simp)
  have hg := State.genOk_congr (hw.part .ctxs (by simp)) e.pkt.hdr
  have hop := s.takeDelivered_ackedOp i e e.pkt.hdr
  simp only [State.ackedOp] at hop
  simp only [exec, execAckReceive, he, hg, hop]
  rfl

theorem State.ackAt_within (c : CoreId) (o : DynOp) (echo : Bool) : Within [.cores] s (s.ackAt c o echo) :=
  State.onCore_within _ _ (.ite (fun _ => State.echo_within _ (.refl _ _) (by simp)) fun _ => .refl _ _) (by simp)

theorem State.ackAt_core (c : CoreId) (o : DynOp) (echo : Bool) :
    ((s.ackAt c o echo).core c).ops = (s.core c).ops.map (fun q => if q.serial = o.serial then { q with stage := .answered } else q) ∧
    ((s.ackAt c o echo).core c).echoed = ((s.core c).echoed || echo) ∧
    ((s.ackAt c o echo).core c).rate = (if echo = true ∧ (s.core c).echoed = false then
      (s.core c).rate - (s.core c).rate / 2 ^ s.fld .fab 0x18 23 20 else (s.core c).rate) ∧
    ∀ q, ((s.ackAt c o echo).core q).portIn = (s.core q).portIn := by
  unfold State.ackAt State.echo
  cases echo <;> cases hk : (s.core c).echoed <;> simp [hk] <;> intro q <;> split <;> simp_all

theorem ackReceive_delivers (he : s.nextDelivered i kAck = some e) : Gives (.ackReceive i) s fun t =>
    let h := e.pkt.hdr
    (t.router i).delivered = (s.router i).delivered.erase e ∧
    (s.genOk h = false → DropCounted s t i dropStale ∧ t.cores = s.cores) ∧
    (s.genOk h = true → s.ackedOp h = none → DropCounted s t i dropLate ∧ t.cores = s.cores) ∧
    (∀ c o, s.genOk h = true → s.ackedOp h = some (c, o) →
      (t.core c).ops = (s.core c).ops.map (fun q => if q.serial = o.serial then { q with stage := .answered } else q) ∧
      (t.core c).echoed = ((s.core c).echoed || h.echo) ∧
      (t.core c).rate = (if h.echo = true ∧ (s.core c).echoed = false then
        (s.core c).rate - (s.core c).rate / 2 ^ s.fld .fab 0x18 23 20 else (s.core c).rate) ∧
      Toward s t h.context c 0 0 (.done o.serial (h.fa != 0)) false []) := by
  refine ⟨_, exec_ackReceive s i e he, ?_⟩
  have hw : Within [.links, .routers] s (s.takeDelivered i e) :=
    State.takeDelivered_within _ _ (.refl _ _) (by simp) (by simp)
  have discards (cause : Nat) : DropCounted s ((s.takeDelivered i e).drop i cause) i cause ∧
      ((s.takeDelivered i e).drop i cause).cores = s.cores :=
    ⟨(s.discard_leaves i e cause).1, (State.drop_within i cause hw (by simp)).part .cores (by simp)⟩
  refine ⟨?_, fun hg => ?_, fun hg ho => ?_, fun c o hg ho => ?_⟩
  · split
    · exact (s.discard_leaves i e dropStale).2.1.1
    · split
      · exact (s.discard_leaves i e dropLate).2.1.1
      · rw [(State.enterNear_within ..).router (by simp), (State.ackAt_within ..).router (by simp), s.takeDelivered_router,
          if_pos rfl]
  · simp only [hg, Bool.not_false, if_true]
    exact discards dropStale
  · simp only [hg, ho, Bool.not_true, Bool.false_eq_true, if_false]
    exact discards dropLate
  · simp only [hg, ho, Bool.not_true, Bool.false_eq_true, if_false]
    have hm := State.ackAt_within (s.takeDelivered i e) c o e.pkt.hdr.echo
    have hcore (q : CoreId) : (s.takeDelivered i e).core q = s.core q := hw.core (by simp) q
    have hregs : (s.takeDelivered i e).regs = s.regs := hw.part .regs (by simp)
    obtain ⟨hops, hecho, hrate, hport⟩ := (s.takeDelivered i e).ackAt_core c o e.pkt.hdr.echo
    have hfld : (s.takeDelivered i e).fld .fab 0x18 23 20 = s.fld .fab 0x18 23 20 := by
      simp only [State.fld, State.reg_congr hregs]
    rw [State.enterNear_core]
    refine ⟨?_, ?_, ?_, Toward.congr (State.enterNear_toward _ _ _ _ _ _ _ _) ?_ ?_ fun q => ?_⟩
    · rw [hops, hcore]
    · rw [hecho, hcore]
    · rw [hrate, hcore, hfld]
    · exact ((hm.part .regs (by simp)).trans hregs).symm
    · exact (hm.1.2.1.trans hw.1.2.1).symm
    · rw [hport, hcore]

end

end Sys2Proof.Machine
end

section
/-! SUPPORT. What packets do at their core, at a port and when they stay away (O36). -/

namespace Sys2Proof.Machine

/-! ### Packets that wait at their core (R547) -/

/-- At every core the same packets wait to be written, as far as they were. -/
structure SameArrivals (s t : State) : Prop where
  fabIn (c : CoreId) : (t.core c).fabIn = (s.core c).fabIn
  fabNext (c : CoreId) : (t.core c).fabNext = (s.core c).fabNext

section
variable {s t u : State} {c : CoreId}

theorem SameArrivals.trans (h : SameArrivals s t) (g : SameArrivals t u) : SameArrivals s u :=
  ⟨fun c => (g.fabIn c).trans (h.fabIn c), fun c => (g.fabNext c).trans (h.fabNext c)⟩

theorem SameArrivals.of_within {P : List Part} (h : Within P s t) (hp : .cores ∉ P) : SameArrivals s t :=
  ⟨fun c => by rw [h.core hp], fun c => by rw [h.core hp]⟩

theorem SameArrivals.refl (s : State) : SameArrivals s s := ⟨fun _ => rfl, fun _ => rfl⟩

theorem SameArrivals.onCore {f : Core → Core} (hi : (f (s.core c)).fabIn = (s.core c).fabIn)
    (hn : (f (s.core c)).fabNext = (s.core c).fabNext) : SameArrivals s (s.onCore c f) := by
  constructor <;> intro q <;> simp only [State.onCore_eq, State.core_setCore] <;> split <;> simp_all

theorem SameArrivals.foldl {α : Type} {f : State → α → State} (hf : ∀ s a, SameArrivals s (f s a)) (l : List α) (s : State) :
    SameArrivals s (l.foldl f s) := by
  induction l generalizing s with
  | nil => exact .refl s
  | cons a l ih => exact (hf s a).trans (ih _)

theorem SameArrivals.logCe (kind nb addr : Nat) : SameArrivals s (s.logCe c kind nb addr) := by
  have hcount : SameArrivals s (s.count (.mx c) 0x50 1) :=
    .of_within (P := [.regs]) (State.count_within _ _ _ (.refl _ _) (by simp)) (by simp)
  unfold State.logCe
  dsimp only
  split
  · exact hcount.trans (.onCore rfl rfl)
  · exact hcount.trans (.of_within (P := [.regs]) (State.memErr_within _ _ (.refl _ _) (by simp)) (by simp))

theorem SameArrivals.amWriteWord (a n : Nat) (e : Nat × MemErr) :
    SameArrivals s (s.amWriteWord c a n e) ∧ (s.amWriteWord c a n e).am = s.am := by
  have hread : SameArrivals s (s.amReadWord c e) ∧ (s.amReadWord c e).am = s.am := by
    unfold State.amReadWord
    dsimp only
    split
    · exact ⟨.refl s, rfl⟩
    · have hw : Within [.regs, .cores] s (s.logCe c 1 1 (8 * (e.1 - c.val * 524288) / 8)) :=
        State.logCe_within _ _ _ _ (.refl _ _) (by simp) (by simp)
      exact ⟨.logCe .., (hw.part .am (by simp)).1⟩
    · have hw : Within [.regs] s (s.logUce c 1 (8 * (e.1 - c.val * 524288) / 8)) :=
        State.logUce_within _ _ _ (.refl _ _) (by simp)
      exact ⟨.of_within (P := [.regs, .am]) (State.setAmPois_within _ _ _ (hw.mono (by simp)) (by simp)) (by simp),
        (hw.part .am (by simp)).1⟩
  have hset (t : State) : SameArrivals t (t.setAmErr e.1 .none) :=
    .of_within (P := [.am]) (State.setAmErr_within _ _ (.refl _ _) (by simp)) (by simp)
  unfold State.amWriteWord
  dsimp only
  split
  · exact ⟨hset s, rfl⟩
  · exact ⟨hread.1.trans (hset _), hread.2⟩

/-- The code words of a written range. -/
def State.amWords (s : State) (c : CoreId) (a n : Nat) : State :=
  (errsIn s.amErr (amWordKey c a) (amWordKey c (a + n + 7))).foldl (fun s e => s.amWriteWord c a n e) s

/-- The poison marks of a written range. -/
def State.amMarks (s : State) (c : CoreId) (a n : Nat) (p : Bool) : State :=
  (List.range ((a + n + 63) / 64 - a / 64)).foldl (fun s k =>
    if a ≤ 64 * (a / 64 + k) ∧ 64 * (a / 64 + k) + 64 ≤ a + n then s.setAmPois c (a / 64 + k) p
    else if p then s.setAmPois c (a / 64 + k) true else s) s

theorem State.amWrite_eq (s : State) (c : CoreId) (a : Nat) (b : List Byte) (p : Bool) :
    s.amWrite c a b p = ((s.amWords c a b.length).amMarks c a b.length p).amSet c a b := rfl

theorem State.amWords_am (s : State) (c : CoreId) (a n : Nat) : (s.amWords c a n).am = s.am := by
  unfold State.amWords
  generalize errsIn s.amErr _ _ = l
  induction l generalizing s with
  | nil => rfl
  | cons e l ih => exact (ih _).trans (SameArrivals.amWriteWord a n e).2

theorem State.amMarks_am (s : State) (c : CoreId) (a n : Nat) (p : Bool) : (s.amMarks c a n p).am = s.am := by
  unfold State.amMarks
  generalize List.range _ = l
  induction l generalizing s with
  | nil => rfl
  | cons k l ih =>
    rw [List.foldl_cons, ih]
    split
    · rfl
    · split <;> rfl

/-- A write of activation memory stores its bytes. -/
theorem State.amWrite_am (s : State) (c : CoreId) (a : Nat) (b : List Byte) (p : Bool) :
    (s.amWrite c a b p).am = s.am.setBytes (amBase c + a) b := by
  rw [State.amWrite_eq]
  show ((s.amWords c a b.length).amMarks c a b.length p).am.setBytes _ b = _
  rw [State.amMarks_am, State.amWords_am]

theorem SameArrivals.amWrite (a : Nat) (b : List Byte) (p : Bool) : SameArrivals s (s.amWrite c a b p) := by
  have hwords : SameArrivals s (s.amWords c a b.length) := .foldl (fun _ e => (SameArrivals.amWriteWord _ _ e).1) _ s
  have hmarks (t : State) : Within [.am] t (t.amMarks c a b.length p) :=
    .foldl _ _ (.refl _ _) fun _ _ h => .ite (fun _ => State.setAmPois_within _ _ _ h (by simp)) fun _ =>
      .ite (fun _ => State.setAmPois_within _ _ _ h (by simp)) fun _ => h
  exact hwords.trans (.of_within (State.amSet_within _ _ _ (hmarks _) (by simp)) (by simp))

theorem SameArrivals.semSignal (i n : Nat) : SameArrivals s (s.semSignal c i n) := by
  unfold State.semSignal State.semAdd
  dsimp only
  split
  · exact .onCore rfl rfl
  · split
    · exact ((SameArrivals.onCore rfl rfl).trans (.of_within (P := [.regs])
        (State.cqFault_within _ _ (.refl _ _) (by simp)) (by simp))).trans (.onCore rfl rfl)
    · exact .onCore rfl rfl

theorem SameArrivals.arrivalSignal (h : Header) : SameArrivals s (s.arrivalSignal c h) := by
  unfold State.arrivalSignal
  split
  · exact .refl s
  · exact .semSignal ..

/-- An entry with one more packet written (R545). -/
def Inbound.receive (n : Inbound) (key : Nat) (p : Bool) : Inbound :=
  { n with got := if n.got.contains key then n.got else n.got ++ [key], poison := n.poison || p }

/-- The signal to the core, once all its packets are written (R541). -/
def State.signalled (s : State) (c : CoreId) (h : Header) (n : Inbound) : State :=
  if (n.got.filter fun k => k % 1024 = c.val).length = h.fb.toNat + 1 then s.arrivalSignal c h else s

/-- The end of an operation whose packets are written at every core (R546, R554). -/
def State.answered (s : State) (i : IoId) (h : Header) (n : Inbound) : State :=
  if n.got.length = (h.fb.toNat + 1) * n.cores.length then
    if h.kind = 1 then (s.untrack i h).sendAck i h (if n.poison then 2 else 0) (h.fb.toNat + 1) n.marked else s.untrack i h
  else s

theorem State.dataWritten_eq {i : IoId} {h : Header} {n : Inbound} (hn : s.inboundOf i h = some n) (c : CoreId) (p : Bool) :
    s.dataWritten c i h p =
      let m := n.receive (1024 * h.fa.toNat + c.val) p
      ((s.setInbound i m).signalled c h m).answered i h m := by
  simp only [State.dataWritten, hn]
  rfl

theorem State.answered_within (s : State) (i : IoId) (h : Header) (n : Inbound) : Within [.routers] s (s.answered i h n) := by
  have hu : Within [.routers] s (s.untrack i h) := State.onRouter_within _ _ (.refl _ _) (by simp)
  exact .ite (fun _ => .ite (fun _ => State.sendAck_within _ _ _ _ _ hu (by simp)) fun _ => hu) fun _ => .refl _ _

theorem SameArrivals.dataWritten (i : IoId) (h : Header) (p : Bool) : SameArrivals s (s.dataWritten c i h p) := by
  cases hn : s.inboundOf i h with
  | none =>
    unfold State.dataWritten
    rw [hn]
    exact .refl s
  | some n =>
    have hset (m : Inbound) : SameArrivals s (s.setInbound i m) :=
      .of_within (P := [.routers]) (State.setInbound_within _ _ (.refl _ _) (by simp)) (by simp)
    have hsig (t : State) (m : Inbound) : SameArrivals t (t.signalled c h m) := by
      unfold State.signalled
      split
      · exact .arrivalSignal h
      · exact .refl _
    rw [State.dataWritten_eq hn]
    exact ((hset _).trans (hsig _ _)).trans (.of_within (State.answered_within ..) (by simp))

theorem SameArrivals.resultWritten (n : Nat) (h : Header) (p : Bool) : SameArrivals s (s.resultWritten c n h p) := by
  unfold State.resultWritten
  dsimp only
  split
  · exact .refl s
  · have hset (g : Group) (k : Nat) : SameArrivals s (s.setGroup k g) :=
      .of_within (P := [.rgroups]) (State.setGroup_within _ _ (.refl _ _) (by simp)) (by simp)
    split
    · exact (hset ..).trans (.onCore rfl rfl)
    · exact hset ..

end

/-! ### Operations that end at the core (R539, R542) -/

section
variable (s : State) (c : CoreId)

theorem State.opFinish_finishes (n at_ : Nat) (p : Bool) :
    OpFinished (s.opFinish c n at_ p) c n p ∧ OtherCores s c (s.opFinish c n at_ p) := by
  refine ⟨?_, fun c' hc => by simp [State.opFinish, hc], rfl, rfl, rfl, rfl, rfl⟩
  simp only [OpFinished, State.opFinish, State.onCore_eq, State.core_setCore, if_true, Core.setOp, List.mem_map,
    forall_exists_index, and_imp]
  rintro _ q - rfl hs
  by_cases hq : q.serial = n
  · simp +contextual [hq]
  · simp [hq] at hs

theorem State.dynLocal_done {f : DynFlit} {n : Nat} {p : Bool} (hf : f.body = .done n p)
    (ho : ((s.core c).ops.any fun o => o.serial == n && (o.stage == .issued || o.stage == .answered)) = true) :
    s.dynLocal c f = s.opFinish c n s.ac (p || f.poison) := by
  simp only [State.dynLocal, hf, ho, if_true]

end

/-! ### Lines at the core (R539, R547) -/

section
variable (s : State) (c : CoreId)

/-- A packet whose data are all written leaves the core's list. -/
theorem State.fabDone_leaves (a : Asm) : ((s.fabDone c a).core c).fabIn = (s.core c).fabIn.drop 1 ∧
    ((s.fabDone c a).core c).fabNext = 0 ∧ (s.fabDone c a).am = s.am := by
  have ham : (s.fabDone c a).am = s.am := ((State.fabDone_within (Ps := [.regs, .cores, .routers, .rgroups]) c a (.refl _ s)
    (by simp) (by simp) (by simp) (by simp)).part .am (by simp)).1
  set t := s.onCore c fun k => { k with fabIn := k.fabIn.drop 1, fabNext := 0 } with ht
  have hdone : SameArrivals t (s.fabDone c a) := by
    unfold State.fabDone
    dsimp only
    split
    · split
      · exact .resultWritten ..
      · exact .dataWritten ..
    · split
      · exact .refl _
      · exact .semSignal ..
    · exact .refl _
  refine ⟨(hdone.fabIn c).trans ?_, (hdone.fabNext c).trans ?_, ham⟩ <;> simp [ht]

/-- A dynamic access takes its lanes in this ac. -/
def State.takeLanes (s : State) (c : CoreId) (mask : Nat) : State :=
  s.onCore c fun k => { k with amUse := k.amUse ++ [(s.ac, mask, false)] }

section
variable {s c} {a : Asm} {rest : List Asm} {l : Nat} {v : Line} {p : Bool} (hin : (s.core c).fabIn = a :: rest)
  (hl : a.lineAt (s.core c).fabNext = some l) (hlt : l < 65536) (hx : a.lines[(s.core c).fabNext]? = some (v, p))
include hin hl hlt hx

/-- A line whose lanes are free is written; the last one ends its packet. -/
theorem State.fabStore_free (hf : (s.core c).laneHeld s.ac (laneMask (64 * l) 64) = false) :
    s.fabStore c =
      let w := (s.takeLanes c (laneMask (64 * l) 64)).amWrite c (64 * l) (lineBytes v) (p || a.head.poison)
      if a.lines.length ≤ (s.core c).fabNext + 1 then w.fabDone c a
      else w.onCore c fun q => { q with fabNext := (s.core c).fabNext + 1 } := by
  have hne : a.lines ≠ [] := by rintro h; simp [h] at hx
  simp [State.fabStore, hin, hl, hx, Nat.not_le.2 hlt, hne, State.claimDyn_free _ _ _ _ hf, State.takeLanes]

theorem State.fabStore_held (hf : (s.core c).laneHeld s.ac (laneMask (64 * l) 64) = true) : s.fabStore c = s := by
  have hne : a.lines ≠ [] := by rintro h; simp [h] at hx
  simp [State.fabStore, hin, hl, Nat.not_le.2 hlt, hne, State.claimDyn, hf]

theorem State.fabStore_line :
    let k := (s.core c).fabNext
    let t := s.fabStore c
    ((s.core c).laneHeld s.ac (laneMask (64 * l) 64) = true → t = s) ∧
    ((s.core c).laneHeld s.ac (laneMask (64 * l) 64) = false → t.amBytes c (64 * l) 64 = lineBytes v ∧
      AmKept s t c (64 * l) 64 ∧ (k + 1 < a.lines.length → (t.core c).fabNext = k + 1 ∧ (t.core c).fabIn = a :: rest) ∧
      (a.lines.length ≤ k + 1 → (t.core c).fabNext = 0 ∧ (t.core c).fabIn = rest)) := by
  refine ⟨State.fabStore_held hin hl hlt hx, fun hf => ?_⟩
  have heq := State.fabStore_free hin hl hlt hx hf
  set w := (s.takeLanes c (laneMask (64 * l) 64)).amWrite c (64 * l) (lineBytes v) (p || a.head.poison)
  have hlen : (lineBytes v).length = 64 := leBytes_length ..
  have hw : SameArrivals s w := (SameArrivals.onCore rfl rfl).trans (.amWrite ..)
  have ham : (s.fabStore c).am = s.am.setBytes (amBase c + 64 * l) (lineBytes v) := by
    have hwam : w.am = s.am.setBytes (amBase c + 64 * l) (lineBytes v) := State.amWrite_am ..
    rw [heq, ← hwam]
    dsimp only
    split
    · exact (State.fabDone_leaves ..).2.2
    · rfl
  refine ⟨?_, fun x hx => ?_, fun hk => ?_, fun hk => ?_⟩
  · simp only [State.amBytes, ham]
    rw [← hlen]
    exact Memory.bytes_setBytes ..
  · rw [ham]
    exact Memory.byte_setBytes_out _ _ (by rwa [hlen])
  · rw [heq]
    simp [Nat.not_le.2 hk, hw.fabIn, hin]
  · rw [heq]
    simp only [hk, if_true]
    obtain ⟨h1, h2, -⟩ := w.fabDone_leaves c a
    refine ⟨h2, ?_⟩
    rw [h1, hw.fabIn, hin]
    rfl

end

end

/-! ### Operations that are complete (R540, R541, R545, R554) -/

section
variable {s : State} {c : CoreId} {i : IoId} {h : Header} {n : Inbound}

theorem State.semAdd_fits {k m : Nat} (hs : (s.core c).sem k + m ≤ 0xFFFF) :
    s.semAdd c k m = s.onCore c fun q => q.setSem k ((s.core c).sem k + m) := by
  simp only [State.semAdd, Nat.not_lt.2 hs, if_false]

/-- A signal of an amount: in this ac, or in the next when the core has issued. -/
theorem State.arrivalSignal_adds (s : State) (c : CoreId) (h : Header) :
    let t := s.arrivalSignal c h
    let sum := (s.core c).sem (bits h.fc.toNat 15 10) + bits h.fc.toNat 9 6
    (¬Issued s c → sum ≤ 0xFFFF → (t.core c).sem (bits h.fc.toNat 15 10) = sum) ∧
    (Issued s c → bits h.fc.toNat 9 6 ≠ 0 → (t.core c).semPend = (s.core c).semPend ++
      [⟨s.ac + 1, bits h.fc.toNat 15 10, bits h.fc.toNat 9 6⟩]) := by
  dsimp only
  refine ⟨fun hi hs => ?_, fun hi h0 => ?_⟩
  · unfold State.arrivalSignal
    split
    case isTrue h0 => rw [h0, Nat.add_zero]
    case isFalse =>
      have hi : ¬((s.core c).issueFrom = s.ac + 1 ∨ (s.core c).slotsAt = s.ac + 1) := hi
      rw [State.semSignal, if_neg hi, State.semAdd_fits hs]
      simp [Core.sem, Core.setSem]
  · have hi : (s.core c).issueFrom = s.ac + 1 ∨ (s.core c).slotsAt = s.ac + 1 := hi
    simp [State.arrivalSignal, h0, State.semSignal, hi]

theorem State.dataWritten_tracks (p : Bool) (hn : s.inboundOf i h = some n) (hc : n.cores = [c.val])
    (hgot : ∀ k ∈ n.got, k % 1024 = c.val) (hnew : (1024 * h.fa.toNat + c.val) ∉ n.got) :
    let t := s.dataWritten c i h p
    let sum := (s.core c).sem (bits h.fc.toNat 15 10) + bits h.fc.toNat 9 6
    (n.got.length + 1 < h.fb.toNat + 1 → (t.router i).localq = (s.router i).localq ∧ t.cores = s.cores ∧
      ∃ m, t.inboundOf i h = some m ∧ m.got = n.got ++ [1024 * h.fa.toNat + c.val] ∧ m.marked = n.marked ∧
        m.poison = (n.poison || p)) ∧
    (n.got.length + 1 = h.fb.toNat + 1 → t.inboundOf i h = none ∧
      (h.kind = 1 → PutAnswered s t i h (if n.poison || p then 2 else 0)) ∧
      (h.kind ≠ 1 → (t.router i).localq = (s.router i).localq) ∧
      (¬Issued s c → sum ≤ 0xFFFF → (t.core c).sem (bits h.fc.toNat 15 10) = sum) ∧
      (Issued s c → bits h.fc.toNat 9 6 ≠ 0 → (t.core c).semPend = (s.core c).semPend ++
        [⟨s.ac + 1, bits h.fc.toNat 15 10, bits h.fc.toNat 9 6⟩])) := by
  set key := 1024 * h.fa.toNat + c.val with hkey
  set m := n.receive key p with hm
  have hmgot : m.got = n.got ++ [key] := by simp [hm, Inbound.receive, hnew]
  have hlen : m.got.length = n.got.length + 1 := by simp [hmgot]
  have hmine : (m.got.filter fun k => k % 1024 = c.val) = m.got := by
    refine List.filter_eq_self.2 fun k hk => decide_eq_true ?_
    have hc := c.isLt
    rcases List.mem_append.1 (hmgot ▸ hk) with hk | hk
    · exact hgot k hk
    · rw [List.mem_singleton.1 hk]
      omega
  have hcores : m.cores = [c.val] := hc
  set u := s.setInbound i m with hu
  have huw : Within [.routers] s u := State.setInbound_within _ _ (.refl _ _) (by simp)
  have hum : u.inboundOf i h = some m := State.inboundOf_setInbound hn rfl rfl
  have hul : (u.router i).localq = (s.router i).localq := by simp [hu, State.setInbound]
  have heq : s.dataWritten c i h p = (u.signalled c h m).answered i h m := State.dataWritten_eq hn c p
  dsimp only
  rw [heq, State.signalled, State.answered, hmine, hlen, hcores, List.length_singleton, Nat.mul_one]
  refine ⟨fun hk => ?_, fun hk => ?_⟩
  · rw [if_neg hk.ne, if_neg hk.ne]
    exact ⟨hul, huw.part .cores (by simp), m, hum, hmgot, rfl, rfl⟩
  · rw [if_pos hk, if_pos hk]
    set v := u.arrivalSignal c h
    have hvw : Within [.regs, .cores] u v := by
      refine .ite (fun _ => .refl _ _) fun _ => ?_
      exact State.semSignal_within _ _ _ (.refl _ _) (by simp) (by simp)
    have hvl : ((v.untrack i h).router i).localq = (s.router i).localq := by
      simp [State.untrack, hvw.router (by simp), hul]
    have hadds := u.arrivalSignal_adds c h
    have hissued : Issued u c = Issued s c := by simp only [Issued, huw.core (by simp), huw.1.2.1]
    rw [huw.core (by simp), hissued, huw.1.2.1] at hadds
    by_cases hkind : h.kind = 1
    · rw [if_pos hkind]
      have hack : Within [.routers] v ((v.untrack i h).sendAck i h (if m.poison then 2 else 0) (h.fb.toNat + 1) m.marked) :=
        State.sendAck_within _ _ _ _ _ (State.untrack_within _ _ (.refl _ _) (by simp)) (by simp)
      refine ⟨?_, fun _ => putAnswered_sendAck h ?_ _ _ hvl, fun h => absurd hkind h, ?_⟩
      · rw [State.inboundOf_congr (t := State.sendAck ..) (s := v.untrack i h) (by simp [State.sendAck_eq])]
        exact v.inboundOf_untrack i h
      · split <;> decide
      · rw [hack.core (by simp)]
        exact hadds
    · rw [if_neg hkind]
      have hun : Within [.routers] v (v.untrack i h) := State.untrack_within _ _ (.refl _ _) (by simp)
      refine ⟨v.inboundOf_untrack i h, fun h => absurd h hkind, fun _ => hvl, ?_⟩
      rw [hun.core (by simp)]
      exact hadds

end

/-! ### Flits of a port, and timeouts (R321, R541, R545, R584) -/

section
variable (s : State)

/-- The edge of the mesh at which a port lies (R36). -/
def portEdge (c : CoreId) : IoId := if mrow c = 0 then 0 else if mcol c = 31 then 1 else if mrow c = 23 then 2 else 3

theorem mrow_coreAt {r m : Nat} (hr : r < 24) (hm : m < 32) : mrow (coreAt r m) = r := by
  have hlt : 64 * (4 * (r / 8) + m / 8) + 8 * (r % 8) + m % 8 < 768 := by omega
  simp only [mrow, coreAt, Fin.ofNat, Nat.mod_eq_of_lt hlt]
  omega

theorem mcol_coreAt {r m : Nat} (hm : m < 32) : mcol (coreAt r m) = m := by
  simp only [mcol, coreAt, Fin.ofNat]
  omega

theorem portEdge_of_mem {i : IoId} {c : CoreId} (hc : c ∈ portsOf i) : portEdge c = i := by
  obtain ⟨k, hk, rfl⟩ := List.mem_map.1 hc
  have hk := List.mem_range.1 hk
  have edge {r m : Nat} (hr : r < 24) (hm : m < 32) : portEdge (coreAt r m) =
      if r = 0 then 0 else if m = 31 then 1 else if r = 23 then 2 else 3 := by
    simp only [portEdge, mrow_coreAt hr hm, mcol_coreAt hm]
  match i with
  | 0 => simp [edge (r := 0) (m := 2 * k) (by omega) (by omega)]
  | 1 => simp [edge (r := 4 + k) (m := 31) (by omega) (by omega)]
  | 2 =>
    have h31 : 2 * k ≠ 31 := by omega
    simp [edge (r := 23) (m := 2 * k) (by omega) (by omega), h31]
  | 3 =>
    have h23 : 4 + k ≠ 23 := by omega
    simp [edge (r := 4 + k) (m := 0) (by omega) (by omega), h23]

/-- The I/O die of a port. -/
theorem portsOf_find {i : IoId} {c : CoreId} (hc : c ∈ portsOf i) :
    ((List.finRange 4).find? fun j => (portsOf j).contains c) = some i := by
  obtain ⟨j, hj⟩ : ∃ j, ((List.finRange 4).find? fun j => (portsOf j).contains c) = some j :=
    Option.isSome_iff_exists.1 (List.find?_isSome.2 ⟨i, List.mem_finRange i, by simpa using hc⟩)
  have hjc : c ∈ portsOf j := by simpa using List.find?_some hj
  rw [hj, ← portEdge_of_mem hjc, portEdge_of_mem hc]

theorem State.bindPump_edge (t : State) (c : CoreId) : ((t.bindPump c).core c).edge = (t.core c).edge := by
  have one (t : State) : ((t.bindFlit c).core c).edge = (t.core c).edge := by
    have send (b : Binding) : (t.bindSend c b).core c = t.core c :=
      (State.bindSend_within (Ps := [.routers]) c b (.refl _ _) (by simp)).core (by simp) c
    unfold State.bindFlit
    dsimp only
    split
    · split <;> simp [send]
    · rfl
  unfold State.bindPump
  generalize List.range _ = l
  induction l generalizing t with
  | nil => rfl
  | cons k l ih => exact (ih _).trans (one t)

theorem State.bindPump_none {t : State} {c : CoreId} (hb : (t.core c).binds = []) : t.bindPump c = t := by
  have one : t.bindFlit c = t := by simp [State.bindFlit, hb]
  unfold State.bindPump
  generalize List.range _ = l
  induction l with
  | nil => rfl
  | cons k l ih => rw [List.foldl_cons, one, ih]

theorem inboundEntryTimeout_frees (i : IoId) : Gives (.inboundEntryTimeout i) s fun t =>
    (t.router i).inbound = (s.router i).inbound.filter (fun n => decide (s.sinceUs n.lastAt < s.fabTimeout)) ∧
    (t.router i).transfers = (s.router i).transfers.filter (fun n => decide (s.sinceUs n.lastAt < s.fabTimeout)) ∧
    (t.router i).localq = (s.router i).localq := by
  refine ⟨_, rfl, ?_⟩
  dsimp only
  set u := s.onRouter i _ with hu
  have fold (l : List Nat) (t : State) : Within [.regs, .deferred, .cores, .dies, .ctxs, .links, .mod] t
      (l.foldl (fun s e => s.timeoutEvent noCtx e) t) :=
    .foldl _ _ (.refl _ _) fun _ _ h =>
      State.timeoutEvent_within _ _ h (by simp) (by simp) (by simp) (by simp) (by simp) (by simp) (by simp)
  rw [(fold _ u).router (by simp)]
  have hlt (a b : Nat) : (!decide (a ≤ b)) = decide (b < a) := Bool.eq_iff_iff.2 (by simp)
  simp [hu, hlt]

theorem egressFlitArrive_early {c : CoreId} (bad : Bool) {due : Nat} {f : Flit} {rest : List (Nat × Flit)}
    (he : (s.core c).edge = (due, f) :: rest) (hd : s.ac < due) : Gives (.egressFlitArrive c bad) s fun t => t = s :=
  ⟨_, rfl, by simp [State.edgeTake, he, hd]⟩

theorem egressFlitArrive_takes {c : CoreId} (bad : Bool) {due : Nat} {f : Flit} {rest : List (Nat × Flit)}
    (he : (s.core c).edge = (due, f) :: rest) (hd : due ≤ s.ac) : Gives (.egressFlitArrive c bad) s fun t =>
      (t.core c).edge = rest ∧
      ((s.core c).egress.length < 1024 → (s.core c).binds = [] →
        (t.core c).egress = (s.core c).egress ++ [{ f with poison := f.poison || bad }]) ∧
      (1024 ≤ (s.core c).egress.length → ∀ i, c ∈ portsOf i → DropCounted s t i dropEgress ∧
        (t.core c).egress = (s.core c).egress ∧ t.reg (.router i) 0x40 / 2 ^ 2 % 2 = 1) := by
  refine ⟨_, rfl, ?_⟩
  rw [State.edgeTake, he]
  simp only [Nat.not_lt.2 hd, if_false]
  set u := s.onCore c fun k => { k with edge := rest } with hu
  have hedge : (u.core c).edge = rest := by simp [hu]
  have heg : (u.core c).egress = (s.core c).egress := by simp [hu]
  have hbinds : (u.core c).binds = (s.core c).binds := by simp [hu]
  rw [heg]
  split
  case isTrue hlen =>
    have hover (i : IoId) : Within [.regs, .ctxs, .routers] u (((u.drop i dropEgress).routerFault i 2).flagStep (u.dieCtx (dieOf c))) :=
      State.flagStep_within _ (State.routerFault_within _ _ (State.drop_within _ _ (.refl _ _) (by simp)) (by simp)) (by simp)
    refine ⟨?_, fun h => absurd h (Nat.not_lt.2 hlen), fun _ i hi => ?_⟩
    · split
      · rw [(hover _).core (by simp), hedge]
      · exact hedge
    · rw [portsOf_find hi]
      dsimp only
      rw [(hover i).core (by simp), heg]
      refine ⟨?_, rfl, ?_⟩
      · simp [DropCounted, State.flagStep, State.routerFault, State.drop, hu]
      · simp only [State.flagStep, State.routerFault, State.onCtx_eq, State.setCtx_frame, State.orReg_eq, State.reg_setReg_same]
        exact raised_bit _ (by decide)
  case isFalse hlen =>
    set v := u.onCore c fun k => { k with egress := k.egress ++ [{ f with poison := f.poison || bad }] } with hv
    refine ⟨?_, fun _ hb => ?_, fun h => absurd h hlen⟩
    · rw [State.bindPump_edge]
      simp [hv, hedge]
    · rw [State.bindPump_none (by simp [hv, hbinds, hb])]
      simp [hv, heg]

end

/-- Settles O36, clause by clause: PUT, MCAST, STREAM and ACK at an I/O die, then the core, the port and the timeouts. -/
theorem packetsArriveAtTheirCores : Obligations.PacketsArriveAtTheirCores := by
  refine ⟨putReceive_delivers, mcastReceive_delivers, streamReceive_delivers, ackReceive_delivers, ?_, ?_, ?_, ?_, ?_,
    inboundEntryTimeout_frees⟩
  · intro s c f n p hf ho
    rw [State.dynLocal_done s c hf ho]
    exact s.opFinish_finishes c n s.ac _
  · intro s c a rest l v p hin k hl hlt hx
    exact State.fabStore_line hin hl hlt hx
  · intro s c i h p n hn hc hgot hnew
    exact State.dataWritten_tracks p hn hc hgot hnew
  · intro s c bad due f rest he hd
    exact egressFlitArrive_early s bad he hd
  · intro s c bad due f rest he hd
    exact egressFlitArrive_takes s bad he hd

end Sys2Proof.Machine
end

section
/-! SUPPORT. Ownership of dies: assign, release, clear, abort, remap and the end of a drain (O21). -/

namespace Sys2Proof.Machine

/-! ### The ownership register (R360, R368) -/

section
variable (s : State) (d : DieId)

/-- What is written to SEC_DIEOWN reads back in its fields. -/
theorem State.setOwn_reads {st en cx : Nat} (hst : st < 4) (hen : en < 64) (hcx : cx < 256) :
    (s.setOwn d st en cx).dieState d = st ∧ (s.setOwn d st en cx).dieCtx d = BitVec.ofNat 8 cx ∧
    (s.setOwn d st en cx).dieEncl d = BitVec.ofNat 6 en := by
  have hv : (s.setOwn d st en cx).reg (.secDie d) 0x00 = st * 2 ^ 30 + en * 2 ^ 8 + cx := by
    rw [State.setOwn, State.reg_setReg_same]
    omega
  simp only [State.dieState, State.dieCtx, State.dieEncl, State.fld, hv, bits]
  refine ⟨by omega, congrArg _ (by omega), congrArg _ (by omega)⟩

/-- A fault bit of a die's block is set; the block's other registers keep their values. -/
theorem State.reg_raise_die {b : Blk} {d : DieId} (hd : b.die = some d) (hb : dieBase d + 0x1000 ≤ b.base) (off bit o : Nat) :
    (s.raise b off bit).reg b o = if o = off then (s.reg b off ||| 2 ^ bit) % 2 ^ 32 else s.reg b o := by
  have h : b.base + o ≠ (Blk.cqDie d).base + 0x48 := by
    show b.base + o ≠ dieBase d + 0x48
    omega
  simp only [State.raise, hd, State.orReg_eq]
  rw [State.reg_setReg_ne _ _ _ _ h, State.reg_setReg_off]

/-- A request that the state of the die does not allow (R364). -/
theorem State.orderErr_raises : (s.orderErr d).reg (.secDie d) 0x00 = s.reg (.secDie d) 0x00 ∧
    (s.orderErr d).reg (.secDie d) 0x08 / 2 % 2 = 1 := by
  have h := s.reg_raise_die (b := .secDie d) rfl (by simp [Blk.base]) 0x08 1
  refine ⟨by simp [State.orderErr, h], ?_⟩
  simp only [State.orderErr, h, if_true]
  exact raised_bit _ (show 1 < 32 by decide)

end

/-! ### Entries of a chain (R496, R497) -/

section
variable (s : State) (e : Encl) (ty x : Nat) (body : List Byte)

theorem State.entryBytes_head (n : Nat) : (s.entryBytes e ty x n body).head? = some (BitVec.ofNat 8 (ty % 256)) := rfl

/-- An entry of a type is the last of its chain, and the other chains are as they were. -/
theorem State.append_chain :
    (∃ r, ((s.append e ty x body).chain e).entries.getLast? = some r ∧ r.bytes.head? = some (BitVec.ofNat 8 (ty % 256))) ∧
    ∀ e', e' ≠ e → (s.append e ty x body).chain e' = s.chain e' := by
  refine ⟨?_, fun e' he => by simp [State.append, he]⟩
  simp only [State.append, State.chain_setChain, if_true, List.getLast?_concat]
  exact ⟨_, rfl, s.entryBytes_head ..⟩

theorem State.genesis_chain_ne {e' : Encl} (he : e' ≠ e) : (s.genesis e).chain e' = s.chain e' := by
  unfold State.genesis
  split
  · exact (s.append_chain ..).2 e' he
  · rfl

end

/-! ### Assign (R360, R364, R499) -/

section
variable (s : State) (d : DieId) (x : Ctx) (e : Encl)

theorem assign_allowed (hp : s.planAllows d e = true) (hj : s.joins x d = true) :
    exec (.assign d x e) s = .next (s.assignReq d x e) := by
  simp [exec, execAssign, State.assign, hp, hj]

theorem assign_refused (h : s.planAllows d e = false ∨ s.joins x d = false) : exec (.assign d x e) s = .next s := by
  rcases h with h | h <;> simp [exec, execAssign, State.assign, h]

theorem assignReq_clean (hx : x ≠ 0xFF) (hd : s.dieState d = dieClean) (hs : s.scanOpen = false) :
    let t := s.assignReq d x e
    t.dieState d = dieOwned ∧ t.dieCtx d = x ∧ t.dieEncl d = e ∧
      (∃ r, (t.chain e).entries.getLast? = some r ∧ r.bytes.head? = some 3) ∧ ∀ e', e' ≠ e → t.chain e' = s.chain e' := by
  set u := (s.setOwn d dieOwned e.toNat x.toNat).genesis e with hu
  set body := leBytes 8 (s.die d).cleanAt.toNat ++ leBytes 1 d.val ++ leBytes 1 x.toNat with hb
  have ht : s.assignReq d x e = u.append e tyAssign x.toNat body := by
    rw [State.assignReq, if_neg (by simp [hd, hs]), if_neg hx]
  have hw : Within [.chains] (s.setOwn d dieOwned e.toNat x.toNat) (u.append e tyAssign x.toNat body) :=
    State.append_within _ _ _ _ (State.genesis_within _ (.refl _ _) (by simp)) (by simp)
  have hregs := hw.part .regs (by simp)
  obtain ⟨hst, hcx, hen⟩ := s.setOwn_reads d (st := dieOwned) (by decide) e.isLt x.isLt
  obtain ⟨hlast, hother⟩ := u.append_chain e tyAssign x.toNat body
  rw [ht]
  refine ⟨?_, ?_, ?_, hlast, fun e' he => ?_⟩
  · rw [State.dieState_congr hregs, hst]
  · rw [State.dieCtx_congr hregs, hcx, BitVec.ofNat_toNat, BitVec.setWidth_eq]
  · rw [State.dieEncl_congr hregs, hen, BitVec.ofNat_toNat, BitVec.setWidth_eq]
  · rw [hother e' he, State.genesis_chain_ne _ _ he]
    rfl

theorem assignReq_disallowed (h : s.dieState d ≠ dieClean ∨ s.scanOpen = true) : s.assignReq d x e = s.orderErr d := by
  rw [State.assignReq, if_pos h]

end

/-! ### The cores of a die -/

theorem dieOf_coreOf (d : DieId) (p : Fin 64) : dieOf (coreOf d p) = d := by
  simp only [dieOf, coreOf, Fin.ext_iff]
  omega

theorem posOf_coreOf (d : DieId) (p : Fin 64) : posOf (coreOf d p) = p.val := by
  simp only [posOf, coreOf]
  omega

theorem mem_coresOf {c : CoreId} {d : DieId} : c ∈ coresOf d ↔ dieOf c = d := by
  simp only [coresOf, List.mem_map, List.mem_finRange, true_and]
  refine ⟨fun ⟨p, hp⟩ => hp ▸ dieOf_coreOf d p, fun h => ⟨⟨posOf c, Nat.mod_lt _ (by decide)⟩, ?_⟩⟩
  subst h
  simp only [coreOf, dieOf, posOf, Fin.ext_iff]
  omega

theorem coreOf_injective (d : DieId) : Function.Injective (coreOf d) := by
  intro p q h
  simp only [coreOf, Fin.ext_iff] at h ⊢
  omega

theorem coresOf_nodup (d : DieId) : (coresOf d).Nodup := (List.nodup_finRange 64).map (coreOf_injective d)

/-- An update of one core after the other: each core of the list is updated once, and no other. -/
theorem State.foldl_core {f : State → CoreId → State} {R : Core → Core → Prop}
    (hself : ∀ s c, R (s.core c) ((f s c).core c)) (hother : ∀ s c c', c' ≠ c → (f s c).core c' = s.core c')
    {cs : List CoreId} (hcs : cs.Nodup) (s : State) :
    (∀ c ∈ cs, R (s.core c) ((cs.foldl f s).core c)) ∧ ∀ c, c ∉ cs → (cs.foldl f s).core c = s.core c := by
  induction cs generalizing s with
  | nil => simp
  | cons a cs ih =>
    obtain ⟨ha, hcs⟩ := List.nodup_cons.1 hcs
    obtain ⟨hin, hout⟩ := ih hcs (f s a)
    refine ⟨fun c hc => ?_, fun c hc => ?_⟩
    · rw [List.foldl_cons]
      rcases List.mem_cons.1 hc with rfl | hc
      · rw [hout c ha]
        exact hself s c
      · have hne : c ≠ a := fun h => ha (h ▸ hc)
        exact hother s a c hne ▸ hin c hc
    · obtain ⟨hne, hc⟩ := not_or.1 (mt List.mem_cons.2 hc)
      rw [List.foldl_cons, hout c hc, hother s a c hne]

/-! ### Release (R361) -/

section
variable (s : State)

/-- A core that has been taken off its step, with nothing of it in flight. -/
def Core.Released (k : Core) : Prop := k.mode = .idle ∧ k.csReqs = [] ∧ k.dmaP.phase = .idle ∧ k.dmaQ.phase = .idle

/-- The core once it is taken off its step, its array drained. -/
def Core.stopped (k : Core) (now : Nat) : Core :=
  { k with mode := .idle, ended := true, ending := false, hold := 0, heldSince := none, endedAt := now, poisoned := true
           arr := k.arr.discard now }

theorem State.abandon_arrDrain_core (c c' : CoreId) : ((s.abandon c).arrDrain c).core c' =
    if c' = c then (s.core c).stopped s.ac else s.core c' := by
  by_cases h : c' = c <;> simp [State.abandon, State.markStep, State.arrDrain, Core.stopped, State.arr, h]

theorem State.poisonOps_core (c : CoreId) : ((s.poisonOps c).core c).mode = (s.core c).mode ∧
    ((s.poisonOps c).core c).csReqs = [] ∧ ∀ c', c' ≠ c → (s.poisonOps c).core c' = s.core c' := by
  refine ⟨?_, ?_, fun c' h => ?_⟩ <;> simp only [State.poisonOps, State.onDie_eq, State.setDie_frame, State.onCore_eq,
    State.core_setCore, if_true]
  rw [if_neg h]

theorem State.stopP_core (c c' : CoreId) : (s.stopP c).core c' =
    if c' = c then { s.core c with dmaP := { (s.core c).dmaP with
      phase := .idle, job := none, jobPoison := false, poison := false, half := none } } else s.core c' := by
  by_cases h : c' = c <;> simp [State.stopP, State.onDma, h]

theorem State.stopQ_core (c c' : CoreId) : (s.stopQ c).core c' =
    if c' = c then { s.core c with dmaQ := { (s.core c).dmaQ with phase := .idle, pend := false, stop := false, half := none } }
    else s.core c' := by
  by_cases h : c' = c <;> simp [State.stopQ, State.qIdle, State.onDma, h]

theorem State.releaseCore_released (c : CoreId) : ((s.releaseCore c).core c).Released := by
  obtain ⟨hm, hr, -⟩ := ((s.abandon c).arrDrain c).poisonOps_core c
  rw [s.abandon_arrDrain_core, if_pos rfl] at hm
  simp only [State.releaseCore, State.stopQ_core, State.stopP_core, if_true, Core.Released, hm, hr]
  exact ⟨rfl, trivial, trivial, trivial⟩

theorem State.releaseCore_other {c c' : CoreId} (h : c' ≠ c) : (s.releaseCore c).core c' = s.core c' := by
  rw [State.releaseCore, State.stopQ_core, if_neg h, State.stopP_core, if_neg h, (State.poisonOps_core _ c).2.2 c' h,
    State.abandon_arrDrain_core, if_neg h]

theorem Within.die {P : List Part} {s t : State} (h : Within P s t) (hp : .dies ∉ P) (d : DieId) : t.die d = s.die d := by
  have hdies : t.dies = s.dies := h.part .dies hp
  simp only [State.die, hdies]

theorem State.poisonOps_die (c : CoreId) (d : DieId) : ((s.poisonOps c).die d).armed = (s.die d).armed ∧
    ((s.poisonOps c).die d).releasing = (s.die d).releasing := by
  simp only [State.poisonOps, State.onDie_eq, State.die_setDie, State.onCore_eq, State.setCore_frame]
  split
  · subst d
    exact ⟨rfl, rfl⟩
  · exact ⟨rfl, rfl⟩

/-- What of a die a release of its cores leaves. -/
theorem State.releaseCore_die (c : CoreId) (d : DieId) : ((s.releaseCore c).die d).armed = (s.die d).armed ∧
    ((s.releaseCore c).die d).releasing = (s.die d).releasing := by
  set u := (s.abandon c).arrDrain c
  have hbefore : Within [.regs, .cores] s u :=
    State.arrDrain_within _ (State.abandon_within _ (.refl _ _) (by simp)) (by simp) (by simp)
  have hafter : Within [.regs, .cores] (u.poisonOps c) (s.releaseCore c) :=
    State.stopQ_within _ (State.stopP_within _ (.refl _ _) (by simp)) (by simp) (by simp)
  rw [hafter.die (by simp), ← hbefore.die (by simp)]
  exact u.poisonOps_die c d

theorem State.foldl_releaseCore_die (cs : List CoreId) (d : DieId) :
    ((cs.foldl (fun s c => s.releaseCore c) s).die d).armed = (s.die d).armed ∧
    ((cs.foldl (fun s c => s.releaseCore c) s).die d).releasing = (s.die d).releasing := by
  induction cs generalizing s with
  | nil => exact ⟨rfl, rfl⟩
  | cons c cs ih =>
    obtain ⟨ha, hr⟩ := s.releaseCore_die c d
    obtain ⟨ka, kr⟩ := ih (s.releaseCore c)
    rw [List.foldl_cons]
    exact ⟨ka.trans ha, kr.trans hr⟩

theorem State.release_eq (d : DieId) (hd : s.dieState d = dieOwned) : s.release d =
    ((coresOf d).foldl (fun s c => s.releaseCore c) (s.onDie d fun k =>
      { k with releasing := some (s.dieCtx d, s.dieEncl d), armed := none, copyEnd := none })).setOwn d dieClearing 0 0xFF := by
  unfold State.release
  exact if_neg (not_not.2 hd)

/-- Cores are taken off their steps, and then the die is clearing. -/
theorem State.foldl_releaseCore_clearing {cs : List CoreId} (hcs : cs.Nodup) (d : DieId) :
    let t := (cs.foldl (fun s c => s.releaseCore c) s).setOwn d dieClearing 0 0xFF
    t.dieState d = dieClearing ∧ t.dieCtx d = 0xFF ∧ (t.die d).armed = (s.die d).armed ∧
      (t.die d).releasing = (s.die d).releasing ∧ (∀ c ∈ cs, (t.core c).Released) ∧ ∀ c, c ∉ cs → t.core c = s.core c := by
  obtain ⟨harm, hrel⟩ := s.foldl_releaseCore_die cs d
  obtain ⟨hin, hout⟩ := State.foldl_core (R := fun _ k => k.Released) (fun s c => s.releaseCore_released c)
    (fun s _ _ h => s.releaseCore_other h) hcs s
  obtain ⟨hst, hcx, -⟩ := (cs.foldl (fun s c => s.releaseCore c) s).setOwn_reads d (st := dieClearing) (en := 0) (cx := 0xFF)
    (by decide) (by decide) (by decide)
  exact ⟨hst, hcx, harm, hrel, hin, hout⟩

theorem release_owned (d : DieId) (hd : s.dieState d = dieOwned) : Gives (.release d) s fun t =>
    t.dieState d = dieClearing ∧ t.dieCtx d = 0xFF ∧ (t.die d).armed = none ∧
    (t.die d).releasing = some (s.dieCtx d, s.dieEncl d) ∧
    (∀ c ∈ coresOf d, (t.core c).mode = .idle ∧ (t.core c).csReqs = [] ∧ (t.core c).dmaP.phase = .idle ∧
      (t.core c).dmaQ.phase = .idle) ∧
    ∀ c, dieOf c ≠ d → t.core c = s.core c := by
  have h := (s.onDie d fun k => { k with releasing := some (s.dieCtx d, s.dieEncl d), armed := none, copyEnd := none }
    ).foldl_releaseCore_clearing (coresOf_nodup d) d
  rw [← s.release_eq d hd] at h
  obtain ⟨hst, hcx, harm, hrel, hin, hout⟩ := h
  refine ⟨s.release d, rfl, hst, hcx, harm.trans ?_, hrel.trans ?_, hin, fun c hc => (hout c (mt mem_coresOf.1 hc)).trans ?_⟩ <;>
    simp

theorem release_disallowed (d : DieId) (hd : s.dieState d ≠ dieOwned) : Gives (.release d) s fun t =>
    t.cores = s.cores ∧ t.dies = s.dies ∧ t.reg (.secDie d) 0x08 / 2 % 2 = 1 :=
  ⟨_, rfl, by rw [State.release, if_pos hd]; exact ⟨rfl, rfl, (s.orderErr_raises d).2⟩⟩

end

end Sys2Proof.Machine
end

section
/-! SUPPORT. The end of a clear: memories, cores and chains of the die (O21). -/

namespace Sys2Proof.Machine

section
variable (s : State) (d : DieId)

/-! ### The cleared memories and cores (R362) -/

/-- A range of a byte memory reads as zero once it is cleared, and other bytes keep their values. -/
theorem Memory.byte_clearRange (m : Memory) (lo hi a : Nat) :
    Memory.byte (Store.clearRange m lo hi) a = if lo ≤ a ∧ a < hi then 0 else m.byte a := Store.get_clearRange ..

theorem clearMemories_core {c : CoreId} (hc : dieOf c = d) :
    (∀ a < 2 ^ 22, (s.clearMemories d).am.byte (amBase c + a) = 0) ∧
    (∀ a < 2 ^ 21, (s.clearMemories d).psm.byte (psmBase c + a) = 0) ∧
    ∀ a < 96 * 2 ^ 20, (s.clearMemories d).ws.byte (wsBase c + a) = 0 := by
  have h : d.val = c.val / 64 := by rw [← hc]; rfl
  refine ⟨fun a ha => ?_, fun a ha => ?_, fun a ha => ?_⟩ <;>
    simp only [State.clearMemories, Memory.byte_clearRange, amBase, psmBase, wsBase, h] <;>
    exact if_pos (by omega)

theorem clearMemories_contextStore (a : Nat) (ha : a < 3 * 2 ^ 30) : (s.clearMemories d).cs.byte (csBase d + a) = 0 := by
  simp only [State.clearMemories, Memory.byte_clearRange]
  exact if_pos (by omega)

theorem clearMemories_otherDie {c : CoreId} (hc : dieOf c ≠ d) (a : Nat) (ha : a < 2 ^ 22) :
    (s.clearMemories d).am.byte (amBase c + a) = s.am.byte (amBase c + a) := by
  have h : d.val ≠ c.val / 64 := fun h => hc (Fin.ext h.symm)
  simp only [State.clearMemories, Memory.byte_clearRange, amBase]
  exact if_neg (by omega)

/-- The cores of the die after a clear, and those of other dies. -/
theorem State.clearDie_core : (∀ c ∈ coresOf d, ((s.clearDie d).core c) = (s.core c).cleared) ∧
    ∀ c, c ∉ coresOf d → (s.clearDie d).core c = s.core c := by
  have h := State.foldl_core (f := fun s c => s.onCore c Core.cleared) (R := fun k k' => k' = k.cleared)
    (fun s c => by simp) (fun s c c' hc => by simp [hc]) (coresOf_nodup d) (s.clearMemories d)
  unfold State.clearDie
  generalize (coresOf d).foldl (fun s c => s.onCore c Core.cleared) (s.clearMemories d) = v at h ⊢
  exact h

theorem State.clearDie_within_memories : Within [.cores, .dies] (s.clearMemories d) (s.clearDie d) :=
  State.onDie_within _ _ (.foldl _ _ (.refl _ _) fun _ _ h => State.onCore_within _ _ h (by simp)) (by simp)

theorem State.clearDie_die : ((s.clearDie d).die d).cmdq = [] ∧ ((s.clearDie d).die d).block = none := by
  unfold State.clearDie
  generalize (coresOf d).foldl (fun s c => s.onCore c Core.cleared) (s.clearMemories d) = v
  simp

/-! ### The clear record (R365, R499) -/

variable (r : Option (Ctx × Encl))

/-- What the clear record leaves of the die, with the time of the clear. -/
theorem State.clearRecord_die : (s.clearRecord d r).reg (.secDie d) 0x00 = s.reg (.secDie d) 0x00 ∧
    (s.clearRecord d r).die d = { s.die d with cleanAt := BitVec.ofNat 64 s.car } := by
  cases r with
  | none => simp [State.clearRecord, State.car]
  | some p =>
    have h := fun t : State => (State.append_within p.2 tyClear p.1.toNat
      (leBytes 8 s.car ++ leBytes 1 d.val ++ leBytes 1 p.1.toNat) (.refl [.chains] t) (by simp))
    simp only [State.clearRecord]
    rw [State.reg_congr ((h _).part .regs (by simp)), (h _).die (by simp)]
    simp [State.car]

theorem State.clearRecord_chain {x : Ctx} {e : Encl} (hr : r = some (x, e)) :
    ∃ q, ((s.clearRecord d r).chain e).entries.getLast? = some q ∧ q.bytes.head? = some 2 := by
  subst hr
  exact (State.append_chain ..).1

end

/-! ### The end of a clear (R362, R365) -/

theorem State.drainAdvance_none {s : State} (h : s.mod.draining = none) : s.drainAdvance = s := by
  simp only [State.drainAdvance, h]

section
variable (s : State) (d : DieId)

theorem State.clearComplete_eq (h : s.dieState d = dieClearing) :
    s.clearComplete d = ((s.clearDie d).setOwn d dieClean 0 0xFF).clearRecord d (s.die d).releasing := if_neg (not_not.2 h)

theorem exec_clearComplete (h : s.dieState d = dieClearing) (hm : s.mod.draining = none) :
    exec (.clearComplete d) s = .next (s.clearComplete d) := by
  have hw : Within [.regs, .ws, .am, .psm, .cs, .tb, .pm, .cores, .dies, .chains] s (s.clearComplete d) :=
    State.clearComplete_within d (.refl _ _) (by simp) (by simp) (by simp) (by simp) (by simp) (by simp) (by simp) (by simp)
      (by simp) (by simp)
  have hmod : (s.clearComplete d).mod = s.mod := hw.part .mod (by simp)
  show execClearComplete d s = _
  rw [execClearComplete, if_neg (not_not.2 h), State.drainAdvance_none (by rw [hmod, hm])]

/-- The die is clean, with its clear record: memories, cores and module are as the clear left them. -/
theorem State.setOwn_clearRecord (r : Option (Ctx × Encl)) :
    let t := (s.setOwn d dieClean 0 0xFF).clearRecord d r
    t.dieState d = dieClean ∧ t.die d = { s.die d with cleanAt := BitVec.ofNat 64 s.car } ∧
    Within [.regs, .dies, .chains] s t ∧
    ∀ x e, r = some (x, e) → ∃ q, (t.chain e).entries.getLast? = some q ∧ q.bytes.head? = some 2 := by
  obtain ⟨hreg, hdie⟩ := (s.setOwn d dieClean 0 0xFF).clearRecord_die d r
  obtain ⟨hst, -, -⟩ := s.setOwn_reads d (st := dieClean) (en := 0) (cx := 0xFF) (by decide) (by decide) (by decide)
  refine ⟨?_, hdie, State.clearRecord_within d _ (State.setOwn_within _ _ _ _ (.refl _ _) (by simp)) (by simp) (by simp)
    (by simp), fun x e hr => State.clearRecord_chain _ d _ hr⟩
  rw [State.dieState, State.fld, hreg]
  exact hst

theorem clearComplete_clearing (h : s.dieState d = dieClearing) (hm : s.mod.draining = none) :
    Gives (.clearComplete d) s fun t =>
    t.dieState d = dieClean ∧ (t.die d).cmdq = [] ∧ (t.die d).block = none ∧ (t.die d).cleanAt = BitVec.ofNat 64 s.car ∧
    (∀ c ∈ coresOf d, (t.core c).mode = .idle ∧ (∀ a < 2 ^ 22, t.am.byte (amBase c + a) = 0) ∧
      (∀ a < 2 ^ 21, t.psm.byte (psmBase c + a) = 0) ∧ ∀ a < 96 * 2 ^ 20, t.ws.byte (wsBase c + a) = 0) ∧
    (∀ a < 3 * 2 ^ 30, t.cs.byte (csBase d + a) = 0) ∧
    (∀ c, dieOf c ≠ d → t.core c = s.core c ∧ ∀ a < 2 ^ 22, t.am.byte (amBase c + a) = s.am.byte (amBase c + a)) ∧
    ∀ x e, (s.die d).releasing = some (x, e) → ∃ r, (t.chain e).entries.getLast? = some r ∧ r.bytes.head? = some 2 := by
  refine ⟨_, exec_clearComplete s d h hm, ?_⟩
  rw [s.clearComplete_eq d h]
  have hmem := s.clearDie_within_memories d
  obtain ⟨hin, hout⟩ := s.clearDie_core d
  obtain ⟨hq, hb⟩ := s.clearDie_die d
  have hsv : Within [.ws, .am, .psm, .cs, .tb, .pm, .cores, .dies] s (s.clearDie d) :=
    State.clearDie_within d (.refl _ _) (by simp) (by simp) (by simp) (by simp) (by simp) (by simp) (by simp) (by simp)
  generalize s.clearDie d = v at hmem hin hout hq hb hsv ⊢
  obtain ⟨hst, hdie, hvt, hchain⟩ := v.setOwn_clearRecord d (s.die d).releasing
  generalize (v.setOwn d dieClean 0 0xFF).clearRecord d (s.die d).releasing = t at hst hdie hvt hchain ⊢
  have hmt : Within [.cores, .regs, .dies, .chains] (s.clearMemories d) t :=
    (hmem.mono (by simp)).trans (hvt.mono (by simp))
  obtain ⟨ham, -⟩ := hmt.part .am (by simp)
  obtain ⟨hpsm, -⟩ := hmt.part .psm (by simp)
  obtain ⟨hws, -⟩ := hmt.part .ws (by simp)
  obtain ⟨hcs, -⟩ := hmt.part .cs (by simp)
  have hmod : v.mod = s.mod := hsv.part .mod (by simp)
  simp only [ham, hpsm, hws, hcs, hvt.core (by simp), hdie]
  exact ⟨hst, hq, hb, by rw [State.car, hmod]; rfl,
    fun c hc => ⟨by rw [hin c hc]; rfl, clearMemories_core s d (mem_coresOf.1 hc)⟩, clearMemories_contextStore s d,
    fun c hc => ⟨hout c (mt mem_coresOf.1 hc), clearMemories_otherDie s d hc⟩, hchain⟩

end

end Sys2Proof.Machine
end

section
/-! SUPPORT. Abort and remap of a die (O21). -/

namespace Sys2Proof.Machine

/-! ### Abort (R655) -/

section
variable (s : State)

theorem coreAbort_owes (d : DieId) (mask : Word64) : Gives (.coreAbort d mask) s fun t =>
    t.deferred = s.deferred ++ [⟨false, s.ac + 1, .abort d.val mask⟩] ∧ { t with deferred := s.deferred } = s :=
  ⟨_, rfl, rfl, rfl⟩

/-- A core that abandoned its step under an abort. -/
structure Core.AbortedFrom (k k' : Core) : Prop where
  mode : k'.mode = .idle
  ops : ∀ o ∈ k'.ops, o.stage ≠ .xiq
  dmaP : k'.dmaP.phase = .idle
  marks : k.mode ≠ .idle → k'.aborted = true ∧ k'.poisoned = true

theorem State.abortCore_self (c : CoreId) : (s.core c).AbortedFrom ((s.abortCore c).core c) := by
  by_cases hrun : (s.core c).mode = .idle
  · constructor <;> simp +contextual [State.abortCore, State.arrDrain, State.stopP, State.onDma, hrun]
  · constructor <;> simp +contextual [State.abortCore, State.arrDrain, State.stopP, State.onDma, State.abandon, State.markStep, hrun]

theorem State.abortCore_other {c c' : CoreId} (h : c' ≠ c) : (s.abortCore c).core c' = s.core c' := by
  by_cases hrun : (s.core c).mode = .idle <;>
    simp [State.abortCore, State.arrDrain, State.stopP, State.onDma, State.abandon, State.markStep, hrun, h]

/-- The cores that an abort names. -/
def namedCores (d : DieId) (mask : Word64) : List CoreId :=
  ((List.finRange 64).filter fun p => mask.getLsbD p.val).map (coreOf d)

theorem State.abortMask_eq (d : DieId) (mask : Word64) : s.abortMask d mask = (namedCores d mask).foldl State.abortCore s := by
  rw [namedCores, List.foldl_map, List.foldl_filter]
  rfl

theorem namedCores_nodup (d : DieId) (mask : Word64) : (namedCores d mask).Nodup :=
  ((List.nodup_finRange 64).filter _).map (coreOf_injective d)

theorem mem_namedCores {d : DieId} {mask : Word64} {c : CoreId} :
    c ∈ namedCores d mask ↔ dieOf c = d ∧ mask.getLsbD (posOf c) = true := by
  simp only [namedCores, List.mem_map, List.mem_filter, List.mem_finRange, true_and]
  constructor
  · rintro ⟨p, hp, rfl⟩
    rw [dieOf_coreOf, posOf_coreOf]
    exact ⟨rfl, hp⟩
  · rintro ⟨hd, hp⟩
    obtain ⟨p, -, rfl⟩ := List.mem_map.1 (mem_coresOf.2 hd)
    exact ⟨p, by rwa [posOf_coreOf] at hp, rfl⟩

theorem lateAbort_aborts (d : DieId) (mask : Word64) : let t := s.lateDo (.abort d.val mask)
    (∀ p : Fin 64, mask.getLsbD p.val = true → let c := coreOf d p
      (t.core c).mode = .idle ∧ (∀ o ∈ (t.core c).ops, o.stage ≠ .xiq) ∧ (t.core c).dmaP.phase = .idle ∧
      ((s.core c).mode ≠ .idle → (t.core c).aborted = true ∧ (t.core c).poisoned = true)) ∧
    ∀ c, (dieOf c ≠ d ∨ mask.getLsbD (posOf c) = false) → t.core c = s.core c := by
  have ht : s.lateDo (.abort d.val mask) = (namedCores d mask).foldl State.abortCore s := by
    rw [← s.abortMask_eq, State.lateDo, Fin.ofNat_val_eq_self]
  obtain ⟨hin, hout⟩ := State.foldl_core (R := Core.AbortedFrom) (fun s c => s.abortCore_self c)
    (fun s _ _ h => s.abortCore_other h) (namedCores_nodup d mask) s
  simp only [ht]
  refine ⟨fun p hp => ?_, fun c hc => hout c fun h => ?_⟩
  · obtain ⟨hm, ho, hd, hk⟩ := hin _ (mem_namedCores.2 ⟨dieOf_coreOf d p, by rwa [posOf_coreOf]⟩)
    exact ⟨hm, ho, hd, hk⟩
  · obtain ⟨hd, hp⟩ := mem_namedCores.1 h
    rcases hc with hc | hc
    · exact hc hd
    · exact absurd hp (by simp [hc])

end

/-! ### Remap (R316, R320) -/

section
variable (s : State) (d : DieId)

theorem meshRemapWrite_stores (v : Word32) : Gives (.meshRemapWrite d v) s fun t =>
    t.reg (.meshDie d) 0x00 = v.toNat ∧ t.reg (.meshDie d) 0x04 = s.reg (.meshDie d) 0x04 ∧
    (s.dieState d = dieOwned → t.deferred = s.deferred) ∧
    (s.dieState d ≠ dieOwned → t.deferred = s.deferred ++ [⟨false, s.ac + 1, .remap d.val⟩]) := by
  set u := s.setReg (.meshDie d) 0x00 v.toNat with hu
  have hstate : u.dieState d = s.dieState d := by
    simp only [State.dieState, State.fld]
    rw [hu, State.reg_setReg_ne]
    simp [Blk.base]
  have h0 : u.reg (.meshDie d) 0x00 = v.toNat := by
    rw [hu, State.reg_setReg_same, Nat.mod_eq_of_lt v.isLt]
  have h4 : u.reg (.meshDie d) 0x04 = s.reg (.meshDie d) 0x04 := by simp [hu]
  refine ⟨s.remapWrite d v, rfl, ?_⟩
  by_cases ho : s.dieState d = dieOwned
  · have : s.remapWrite d v = u := if_pos (hstate.trans ho)
    rw [this]
    exact ⟨h0, h4, fun _ => rfl, fun h => absurd ho h⟩
  · have : s.remapWrite d v = u.owes (.meshDie d) 0x00 (.remap d.val) := if_neg (hstate ▸ ho)
    rw [this]
    exact ⟨h0, h4, fun h => absurd h ho, fun _ => rfl⟩

/-- The field that comes into force. -/
def remapDigit (v old r : Nat) : Nat :=
  let f := remapField v r
  if f ≤ 8 ∨ f = 15 then f else remapField old r

theorem remapField_lt (v r : Nat) : remapField v r < 16 := by
  rw [remapField, bits, show 4 * r + 3 + 1 - 4 * r = 4 by omega]
  exact Nat.mod_lt _ (by decide)

theorem remapDigit_lt (v old r : Nat) : remapDigit v old r < 16 := by
  simp only [remapDigit]
  split <;> exact remapField_lt ..

/-- The number with given hexadecimal digits, the lowest first. -/
def digitsNat (g : Nat → Nat) (n : Nat) : Nat := (List.range n).foldl (fun n r => n + g r * 2 ^ (4 * r)) 0

theorem digitsNat_succ (g : Nat → Nat) (n : Nat) : digitsNat g (n + 1) = digitsNat g n + g n * 2 ^ (4 * n) := by
  simp [digitsNat, List.range_succ]

variable {g : Nat → Nat} (hg : ∀ r, g r < 16)
include hg

theorem digitsNat_lt (n : Nat) : digitsNat g n < 2 ^ (4 * n) := by
  induction n with
  | zero => simp [digitsNat]
  | succ n ih =>
    rw [digitsNat_succ, show 4 * (n + 1) = 4 * n + 4 by omega, Nat.pow_add]
    nlinarith [hg n]

/-- Each digit of a number is its field. -/
theorem remapField_digitsNat {n r : Nat} (hr : r < n) : remapField (digitsNat g n) r = g r := by
  rw [remapField, bits, show 4 * r + 3 + 1 - 4 * r = 4 by omega]
  induction n with
  | zero => omega
  | succ n ih =>
    rw [digitsNat_succ]
    rcases Nat.lt_succ_iff_lt_or_eq.1 hr with h | rfl
    · have hpow : g n * 2 ^ (4 * n) = 2 ^ (4 * r) * (2 ^ 4 * (g n * 2 ^ (4 * (n - r - 1)))) := by
        rw [show 4 * n = 4 * r + 4 + 4 * (n - r - 1) by omega, Nat.pow_add, Nat.pow_add]
        ring
      rw [hpow, Nat.add_mul_div_left _ _ (by positivity), Nat.add_mul_mod_self_left]
      exact ih h
    · rw [Nat.add_mul_div_right _ _ (by positivity), Nat.div_eq_of_lt (digitsNat_lt hg r), Nat.zero_add]
      exact Nat.mod_eq_of_lt (hg r)

omit hg

theorem State.remapNext_eq : s.remapNext d =
    digitsNat (remapDigit (s.reg (.meshDie d) 0x00) (s.reg (.meshDie d) 0x04)) 8 := rfl

theorem lateRemap_comesIntoForce : let t := s.lateDo (.remap d.val)
    (∀ r < 8, let f := remapField (s.reg (.meshDie d) 0x00) r
      remapField (t.reg (.meshDie d) 0x04) r =
        if f ≤ 8 ∨ f = 15 then f else remapField (s.reg (.meshDie d) 0x04) r) ∧
    (remapLegal (s.reg (.meshDie d) 0x00) = false → t.reg (.meshDie d) 0x10 / 4 % 2 = 1) := by
  have hdo : s.lateDo (.remap d.val) = s.forceRemap d := by rw [State.lateDo, Fin.ofNat_val_eq_self]
  set u := s.setReg (.meshDie d) 0x04 (s.remapNext d) with hu
  have hraise := u.reg_raise_die (b := .meshDie d) rfl (by simp [Blk.base]) 0x10 2
  have h4 : (s.forceRemap d).reg (.meshDie d) 0x04 = s.remapNext d % 2 ^ 32 := by
    unfold State.forceRemap
    split
    · rw [State.reg_setReg_same]
    · rw [hraise, if_neg (by decide), hu, State.reg_setReg_same]
  simp only [hdo]
  refine ⟨fun r hr => ?_, fun hl => ?_⟩
  · rw [h4, s.remapNext_eq, Nat.mod_eq_of_lt (digitsNat_lt (remapDigit_lt _ _) 8), remapField_digitsNat (remapDigit_lt _ _) hr]
    rfl
  · have : s.forceRemap d = u.raise (.meshDie d) 0x10 2 := if_neg (by simp [hl])
    rw [this, hraise, if_pos rfl]
    exact raised_bit _ (show 2 < 32 by decide)

end

end Sys2Proof.Machine
end

section
/-! SUPPORT. A drain of a module without a die in use (O21). -/

namespace Sys2Proof.Machine

/-- No die is owned or clearing. -/
def State.DiesFree (s : State) : Prop := ∀ d, s.dieState d ≠ dieOwned ∧ s.dieState d ≠ dieClearing

theorem State.DiesFree.diesOf {s : State} (h : s.DiesFree) (x : Ctx) : s.diesOf x = [] := by
  refine List.filter_eq_nil_iff.2 fun d _ => ?_
  simp [State.holds, (h d).1]

/-- The last part of a drain, at once. -/
theorem State.DiesFree.drainAdvance {s : State} (h : s.DiesFree) {q : Bool × Word32} (hq : s.mod.draining = some q) :
    s.drainAdvance = s.drainEnd q := by
  simp [State.drainAdvance, hq, h.diesOf, (h _).1, (h _).2]

section
variable (s : State) (q : Bool × Word32)

/-- The module with its drain ended: no vote weight of its own. -/
def State.drained : State := s.onMod fun m => { m with weights := Store.set 0 m.weights s.self.toNat 0, draining := none }

/-- Admit cleared on every link. -/
def State.shutLinks : State := (List.finRange 48).foldl (fun s l => s.onLink l fun k => { k with cfg := k.cfg &&& 0xBFFFFFFF }) s

theorem State.shutLinks_within : Within [.links] s s.shutLinks :=
  .foldl _ _ (.refl _ _) fun _ _ h => State.onLink_within _ _ h (by simp)

theorem State.shutLinks_out : s.shutLinks.out = s.out := by
  unfold State.shutLinks
  induction List.finRange 48 generalizing s with
  | nil => rfl
  | cons l ls ih => exact (ih _).trans (by simp)

theorem State.drainEnd_pldm (tag : Word32) :
    s.drainEnd (true, tag) = s.drained.shutLinks.emit (.pldm (leBytes 4 tag.toNat)) := rfl

theorem State.drainEnd_fromDrained : Within [.links, .regs, .mail] s.drained (s.drainEnd q) := by
  have h : Within [.links, .regs, .mail] s.drained s.drained.shutLinks := s.drained.shutLinks_within.mono (by simp)
  exact .ite (fun _ => State.emit_within _ h) fun _ => State.mailTo_within _ _ _ _ h (by simp) (by simp)

/-- The end of a drain leaves no drain and no vote weight of the module. -/
theorem State.drainEnd_mod :
    (s.drainEnd q).mod.draining = none ∧ Store.get 0 (s.drainEnd q).mod.weights s.self.toNat = 0 := by
  have h : (s.drainEnd q).mod = s.drained.mod := (s.drainEnd_fromDrained q).part .mod (by simp)
  rw [h]
  simp [State.drained]

end

section
variable (s : State)

/-- Lumef's taking of a message leaves every register but the control register of the mailbox. -/
theorem State.reg_mailTaken {b : Blk} {o : Nat} (hb : b.base + o ≠ Blk.pf.base + 0x40) : (s.mailTaken 0).reg b o = s.reg b o := by
  rw [State.mailTaken, fnBlk, if_pos rfl, State.setFld_eq]
  exact State.reg_setReg_ne s .pf b _ hb

theorem State.dieState_mailTaken (d : DieId) : (s.mailTaken 0).dieState d = s.dieState d := by
  simp only [State.dieState, State.fld]
  rw [State.reg_mailTaken]
  simp [Blk.base, dieBase]
  omega

theorem State.self_mailTaken : (s.mailTaken 0).self = s.self := by
  rw [State.self, State.self, State.reg_mailTaken]
  simp [Blk.base]

end

/-- A drain of a module without a die in use ends with its request. -/
theorem State.DiesFree.drain_ends {s : State} (h : s.DiesFree) (q : Bool × Word32) :
    let t := (s.onMod fun m => { m with draining := some q }).drainAdvance
    t.mod.draining = none ∧ Store.get 0 t.mod.weights s.self.toNat = 0 := by
  have hfree : (s.onMod fun m => { m with draining := some q }).DiesFree := h
  rw [hfree.drainAdvance (q := q) rfl]
  exact State.drainEnd_mod (s.onMod fun m => { m with draining := some q }) q

section
variable {s : State} (h : s.DiesFree)
include h

theorem drainReq_ends (tag : Word32) : Gives (.drainReq tag) s fun t =>
    t.mod.draining = none ∧ Store.get 0 t.mod.weights s.self.toNat = 0 := by
  have hfree : (s.mailTaken 0).DiesFree := fun d => by
    rw [State.dieState_mailTaken]
    exact h d
  refine ⟨_, rfl, ?_⟩
  rw [← s.self_mailTaken]
  exact hfree.drain_ends (false, tag)

theorem pldmDrain_ends (hs : s.stage ≠ stRecovery) : Gives .pldmDrain s fun t =>
    t.mod.draining = none ∧ Store.get 0 t.mod.weights s.self.toNat = 0 ∧ t.out = s.out ++ [.pldm [0, 0, 0, 0]] := by
  have hexec : exec .pldmDrain s = .next (s.onMod fun m => { m with draining := some (true, 0) }).drainAdvance := by
    show execPldmDrain s = _
    rw [execPldmDrain, if_neg hs]
  have hfree : (s.onMod fun m => { m with draining := some (true, 0) }).DiesFree := h
  obtain ⟨hd, hw⟩ := h.drain_ends (true, 0)
  refine ⟨_, hexec, hd, hw, ?_⟩
  rw [hfree.drainAdvance (q := (true, 0)) rfl, State.drainEnd_pldm, State.emit_out, State.shutLinks_out]
  rfl

end

/-- Settles O21: each request is read off the model's own equation for it.  A release, a clear and an abort update the
cores of the die one after the other (`State.foldl_core`); the digits of a remap come into force one by one. -/
theorem ownershipMovesThroughItsStates : Obligations.OwnershipMovesThroughItsStates := by
  refine ⟨fun s d x e hp hj => ⟨fun hx hd hs => ?_, fun h => ?_⟩, fun s d x e h => ⟨s, assign_refused s d x e h, rfl⟩,
    release_owned, release_disallowed, clearComplete_clearing, coreAbort_owes, lateAbort_aborts, meshRemapWrite_stores,
    lateRemap_comesIntoForce, fun s tag h => ⟨drainReq_ends h tag, pldmDrain_ends h⟩⟩
  · exact ⟨_, assign_allowed s d x e hp hj, assignReq_clean s d x e hx hd hs⟩
  · obtain ⟨hreg, herr⟩ := s.orderErr_raises d
    exact ⟨_, (assign_allowed s d x e hp hj).trans (congrArg _ (assignReq_disallowed s d x e h)), hreg, herr, rfl⟩

end Sys2Proof.Machine
end

section
/-! SUPPORT. Additions into a word of partial-sum memory (O51). -/

namespace Sys2Proof.Machine

@[simp] theorem State.psmWord_psmWrite_same (s : State) (c : CoreId) (w : Nat) (v : W128) (p : Bool) :
    (s.psmWrite c w v p).psmWord c w = v :=
  State.psmWord_psmSet_same ..

@[simp] theorem State.psmWrite_regs (s : State) (c : CoreId) (w : Nat) (v : W128) (p : Bool) :
    (s.psmWrite c w v p).regs = s.regs := by
  simp [State.psmWrite]

/-- A read answers the word as it stands whatever errors it logs, so the sum is exact even in a word with errors. -/
@[simp] theorem State.psmWord_psmAdd_same (s : State) (c : CoreId) (w : Nat) (x : W128) (p : Bool) :
    (s.psmAdd c w x p).psmWord c w = s.psmWord c w + x :=
  State.psmWord_psmWrite_same ..

/-- Only the decoding of a word with an error writes a register; the addition itself flags nothing (R75). -/
theorem State.psmAdd_regs_sound (s : State) (c : CoreId) (w : Nat) (x : W128) (p : Bool) (h : s.psmErr = []) :
    (s.psmAdd c w x p).regs = s.regs := by
  simp [State.psmAdd, s.psmRead_sound c w h]

/-- Terms added one after the other leave the word plus their sum. -/
theorem State.psmWord_foldl_psmAdd (c : CoreId) (w : Nat) (l : List (W128 × Bool)) (s : State) :
    (l.foldl (fun s x => s.psmAdd c w x.1 x.2) s).psmWord c w = s.psmWord c w + (l.map Prod.fst).sum := by
  induction l generalizing s with
  | nil => simp
  | cons x l ih =>
    calc (l.foldl (fun s x => s.psmAdd c w x.1 x.2) (s.psmAdd c w x.1 x.2)).psmWord c w
        = (s.psmAdd c w x.1 x.2).psmWord c w + (l.map Prod.fst).sum := ih _
      _ = s.psmWord c w + ((x :: l).map Prod.fst).sum := by
        rw [State.psmWord_psmAdd_same, BitVec.add_assoc, List.map_cons, List.sum_cons]

/-- A reduction group adds modulo 2^128, and the 384-bit word has room for the sum (R74). -/
theorem rgCombine_sum_toNat (a b : BitVec 384) :
    (rgCombine 0 false a b).toNat = (a.toNat + b.toNat) % 2 ^ 128 := by
  change (BitVec.ofNat 384 ((a.toNat + b.toNat) % 2 ^ 128)).toNat = _
  rw [BitVec.toNat_ofNat]
  omega

/-- Settles O51: the word ends as its first value plus the sum of the terms, and a sum of words modulo 2^128 is the
same for every permutation of them. -/
theorem sumsOfW128WordsAreOrderFree : Obligations.SumsOfW128WordsAreOrderFree := by
  refine ⟨fun s c w x p => ⟨?_, s.psmAdd_regs_sound c w x p⟩, rgCombine_sum_toNat, fun s c w l m hlm => ?_⟩
  · rw [State.psmWord_psmAdd_same, BitVec.toNat_add]
  · rw [State.psmWord_foldl_psmAdd, State.psmWord_foldl_psmAdd, (hlm.map Prod.fst).sum_eq]

end Sys2Proof.Machine
end

section
/-! SUPPORT. Rules of the matrix array: what leaves the other cores and the memories alone, and how commands enter and leave
its queue (O1 to O4). -/

namespace Sys2Proof.Machine

/-! ### One core and the registers -/

section
variable {s t u : State} {c : CoreId}

theorem OtherCores.refl (s : State) (c : CoreId) : OtherCores s c s := ⟨fun _ _ => rfl, rfl, rfl, rfl, rfl, rfl⟩

theorem OtherCores.trans (h : OtherCores s c t) (g : OtherCores t c u) : OtherCores s c u := by
  obtain ⟨hc, ham, hws, hpsm, htb, hcs⟩ := h
  obtain ⟨gc, gam, gws, gpsm, gtb, gcs⟩ := g
  exact ⟨fun c' hne => (gc c' hne).trans (hc c' hne), gam.trans ham, gws.trans hws, gpsm.trans hpsm, gtb.trans htb,
    gcs.trans hcs⟩

theorem OtherCores.setCore (h : OtherCores s c t) (k : Core) : OtherCores s c (t.setCore c k) :=
  h.trans ⟨fun c' hne => by simp [hne], rfl, rfl, rfl, rfl, rfl⟩

theorem OtherCores.onArr (h : OtherCores s c t) (f : Arr → Arr) : OtherCores s c (t.onArr c f) := h.setCore _

theorem OtherCores.ofRegs (h : OtherCores s c t) (g : Within [.regs] t u) : OtherCores s c u :=
  h.trans ⟨fun c' _ => g.core (by simp) c', (g.part .am (by simp)).1, (g.part .ws (by simp)).1, (g.part .psm (by simp)).1,
    (g.part .tb (by simp)).1, (g.part .cs (by simp)).1⟩

theorem OtherCores.ite {p : Prop} [Decidable p] (ht : OtherCores s c t) (hu : OtherCores s c u) :
    OtherCores s c (if p then t else u) := by
  split
  · exact ht
  · exact hu

theorem State.core_onCore (s : State) (c : CoreId) (f : Core → Core) : (s.onCore c f).core c = f (s.core c) := by simp
theorem State.arr_onArr (s : State) (c : CoreId) (f : Arr → Arr) : (s.onArr c f).arr c = f (s.arr c) := by simp

/-- What a change of registers leaves alone, as the array's operations read it. -/
theorem Within.regs_frame (h : Within [.regs] s t) : t.ac = s.ac ∧ (∀ c, t.core c = s.core c) ∧ (∀ c, t.arr c = s.arr c) ∧
    t.psmErr = s.psmErr ∧ (∀ c a n, t.wsBytes c a n = s.wsBytes c a n) ∧ (∀ c w, t.psmWord c w = s.psmWord c w) ∧
    (∀ c w, t.psmPois c w = s.psmPois c w) := by
  obtain ⟨hws, -⟩ := h.part .ws (by simp)
  obtain ⟨hpsm, hpois, herr⟩ := h.part .psm (by simp)
  have hcore := h.core (by simp)
  exact ⟨h.1.2.1, hcore, fun c => congrArg Core.arr (hcore c), herr, fun c a n => by simp [State.wsBytes, hws],
    fun c w => by simp [State.psmWord, hpsm], fun c w => by simp [State.psmPois, hpois]⟩

end

section
variable (s : State) (c : CoreId)

theorem State.mxFault_regs (bit : Nat) : Within [.regs] s (s.mxFault c bit) :=
  State.mxFault_within c bit (.refl _ _) (by simp)
theorem State.aflags_regs (mask : Nat) : Within [.regs] s (s.aflags c mask) :=
  State.aflags_within c mask (.refl _ _) (by simp)
theorem State.entryParity_regs (bad : Bool) : Within [.regs] s (s.entryParity c bad) :=
  State.entryParity_within c bad (.refl _ _) (by simp)


/-- A parity error of a queue entry sets register bits and nothing else (R359). -/
@[simp] theorem State.entryParity_frame (bad : Bool) : let t := s.entryParity c bad
    t.ac = s.ac ∧ (∀ c, t.core c = s.core c) ∧ (∀ c, t.arr c = s.arr c) ∧ t.psmErr = s.psmErr ∧
      (∀ c a n, t.wsBytes c a n = s.wsBytes c a n) ∧ (∀ c w, t.psmWord c w = s.psmWord c w) ∧
      (∀ c w, t.psmPois c w = s.psmPois c w) := (s.entryParity_regs c bad).regs_frame

/-- A fault of the array sets register bits and nothing else (R144). -/
@[simp] theorem State.mxFault_frame (bit : Nat) : let t := s.mxFault c bit
    t.ac = s.ac ∧ (∀ c, t.core c = s.core c) ∧ (∀ c, t.arr c = s.arr c) ∧ t.psmErr = s.psmErr ∧
      (∀ c a n, t.wsBytes c a n = s.wsBytes c a n) ∧ (∀ c w, t.psmWord c w = s.psmWord c w) ∧
      (∀ c w, t.psmPois c w = s.psmPois c w) := (s.mxFault_regs c bit).regs_frame

/-- A fault of the array sets its bit of MX_FAULT; the other registers of the array keep their values (R144). -/
@[simp] theorem State.reg_mxFault {bit : Nat} (hb : bit < 32) (o : Nat) :
    (s.mxFault c bit).reg (.mx c) o = if o = 0x08 then s.reg (.mx c) 0x08 ||| 2 ^ bit else s.reg (.mx c) o := by
  have hlt : s.reg (.mx c) 0x08 ||| 2 ^ bit < 2 ^ 32 :=
    Nat.or_lt_two_pow (s.reg_lt _ _) (Nat.pow_lt_pow_right (by decide) hb)
  simp only [State.mxFault, State.reg_raise_mx, Nat.mod_eq_of_lt hlt]

end

/-! ### Commands of the M slot (R138, R139, R212, R258, R359) -/

section
variable {s : State} {c : CoreId}

theorem State.ifRuns_free {slot : Nat} (h : Free s c slot) (f : State → State) :
    s.ifRuns c slot f = f (s.useSlots c (2 ^ slot)) := by
  obtain ⟨hmode, hslot⟩ := h
  simp [State.ifRuns, hmode, hslot]

/-- The state in which the head `e` of a queue has been delivered (R212, R359). -/
def State.delivered (s : State) (c : CoreId) (q : Nat) (e : QEntry) : State :=
  if e.poison || e.bad then ((s.qPop c q).entryParity c e.bad).markStep c else (s.qPop c q).entryParity c e.bad

/-- A head that carries the token is taken. -/
theorem State.take_head {q : Nat} {t : Token} {e : QEntry} (h : HeadIs s c q t e) (w : How) :
    s.take c q t w = (s.delivered c q e, .got { e with poison := e.poison || e.bad }) := by
  obtain ⟨hd, hh, ht⟩ := h
  simp [State.take, State.delivered, hd, hh, ht]

@[simp] theorem Core.queue_setQueue (k : Core) (q : Nat) (l : List QEntry) : (k.setQueue q l).queue q = l := by
  simp [Core.queue, Core.setQueue]

theorem State.delivered_others (q : Nat) (e : QEntry) : OtherCores s c (s.delivered c q e) := by
  have h : OtherCores s c ((s.qPop c q).entryParity c e.bad) :=
    ((OtherCores.refl s c).setCore _).ofRegs (State.entryParity_regs _ c _)
  exact .ite (h.setCore _) h

/-- A head that leaves its queue changes neither the array nor the poison of the step. -/
theorem State.qPop_core (s : State) (c : CoreId) (q : Nat) : (s.qPop c q).arr c = s.arr c ∧
    ((s.qPop c q).core c).queue q = ((s.core c).queue q).tail ∧ ((s.qPop c q).core c).poisoned = (s.core c).poisoned := by
  have hcore := s.core_onCore c fun k => { (k.setQueue q (k.queue q).tail) with
    qRoom := if s.qFull c q then Store.set 0 k.qRoom q (s.ac + 1) else k.qRoom }
  exact ⟨(congrArg Core.arr hcore :), (congrArg (Core.queue · q) hcore).trans (Core.queue_setQueue ..),
    (congrArg Core.poisoned hcore :)⟩

/-- A delivered head has left its queue, and its poison marks the step. -/
theorem State.delivered_core (s : State) (c : CoreId) (q : Nat) (e : QEntry) :
    (s.delivered c q e).core c =
      { (s.qPop c q).core c with poisoned := (s.core c).poisoned || (e.poison || e.bad) } := by
  have hpop := (State.entryParity_frame (s.qPop c q) c e.bad).2.1 c
  unfold State.delivered
  split
  · next h => rw [h, Bool.or_true, State.markStep, State.core_onCore, hpop]
  · next h => rw [Bool.not_eq_true] at h; rw [h, Bool.or_false, hpop, ← (s.qPop_core c q).2.2]

@[simp] theorem State.delivered_ac (s : State) (c : CoreId) (q : Nat) (e : QEntry) : (s.delivered c q e).ac = s.ac := by
  unfold State.delivered
  split <;> simp [State.markStep, State.qPop]

/-- The faults of a command at its issue are raised, and nothing else changes (R139, R263). -/
def State.issueMarked (s : State) (c : CoreId) (f : Bool × Bool) : State :=
  let s := if f.1 then s.mxFault c mxFormat else s
  if f.2 then s.mxFault c mxShape else s

theorem State.issueMarked_regs (s : State) (c : CoreId) (f : Bool × Bool) : Within [.regs] s (s.issueMarked c f) := by
  have hfm : Within [.regs] s (if f.1 then s.mxFault c mxFormat else s) :=
    .ite (fun _ => s.mxFault_regs c _) fun _ => .refl _ _
  exact .ite (fun _ => hfm.trans (State.mxFault_regs _ c _)) fun _ => hfm

/-- A descriptor enters a queue that has room (R102, R138). -/
theorem State.enterCmd_room (s : State) (c : CoreId) (hq : (s.arr c).queue.length < 4) (ho : (s.arr c).overflow = [])
    (op : Nat) (t : Token) (e : QEntry) : let f := issueFaults op (mdesc op e.body)
    (s.enterCmd c op t e).core c =
      { s.core c with arr := (s.arr c).enqueue (newCmd s op false (f.1 || f.2) e.body t e.poison) } ∧
    OtherCores s c (s.enterCmd c op t e) := by
  intro f
  have hnot : ¬(4 ≤ (s.arr c).queue.length ∨ (!(s.arr c).overflow.isEmpty) = true) := by simp [ho, hq]
  have hregs := s.issueMarked_regs c f
  have henter : s.enterCmd c op t e = (s.issueMarked c f).onArr c fun a =>
      a.enqueue (newCmd (s.issueMarked c f) op false (f.1 || f.2) e.body t e.poison) := by
    rw [State.enterCmd, if_neg hnot]; rfl
  rw [henter]
  refine ⟨(State.core_onCore _ c _).trans ?_, ((OtherCores.refl s c).ofRegs hregs).onArr _⟩
  rw [hregs.core (by simp), newCmd, hregs.regs_frame.1]
  rfl

/-- A command that enters the queue is its last; in an empty queue it is the head from the next ac on (R102). -/
theorem Arr.enqueue_queue (a : Arr) (q : ArrCmd) : (a.enqueue q).queue =
    a.queue ++ [{ q with headAt := if a.queue.isEmpty then some (q.issuedAt + 1) else q.headAt }] := by
  unfold Arr.enqueue
  split
  · simp [ArrCmd.reach]
  · rfl

/-- An issue leaves the array, the queues and the poison of its core. -/
theorem State.useSlots_core (s : State) (c : CoreId) (m : Nat) : (s.useSlots c m).arr c = s.arr c ∧
    (∀ q, ((s.useSlots c m).core c).queue q = (s.core c).queue q) ∧
    (∀ q, ((s.useSlots c m).core c).isDesync q = (s.core c).isDesync q) ∧
    ((s.useSlots c m).core c).poisoned = (s.core c).poisoned := by
  have hcore := s.core_onCore c fun k => { k with
    slotsAt := s.ac + 1, slotsUsed := (if k.slotsAt = s.ac + 1 then k.slotsUsed else 0) ||| m }
  exact ⟨(congrArg Core.arr hcore :), fun q => (congrArg (Core.queue · q) hcore :),
    fun q => (congrArg (Core.isDesync · q) hcore :), (congrArg Core.poisoned hcore :)⟩

/-- R258 for the three commands of the M slot: the head of MSQ is delivered, and its command enters the queue. -/
theorem State.mOp_enters {token : Token} {e : QEntry} (h : MsqReady s c token e) (op : Nat) (w : How) :
    MatrixEntered s c op token e ((s.useSlots c (2 ^ sM)).mOp c op token w) := by
  obtain ⟨-, hd, hh, ht, hq, ho⟩ := h
  obtain ⟨uarr, uqueue, udes, upois⟩ := s.useSlots_core c (2 ^ sM)
  have uother : OtherCores s c (s.useSlots c (2 ^ sM)) := (OtherCores.refl s c).setCore _
  have uac : (s.useSlots c (2 ^ sM)).ac = s.ac := rfl
  generalize s.useSlots c (2 ^ sM) = u at *
  have hhead : HeadIs u c qMSQ token e := ⟨(udes _).trans hd, by rw [State.head, uqueue, uac]; exact hh, ht⟩
  obtain ⟨parr, pqueue, -⟩ := u.qPop_core c qMSQ
  have dcore := u.delivered_core c qMSQ e
  have darr : (u.delivered c qMSQ e).arr c = s.arr c := ((congrArg Core.arr dcore :).trans parr).trans uarr
  obtain ⟨ecore, eother⟩ := (u.delivered c qMSQ e).enterCmd_room c (by rwa [darr]) (by rwa [darr]) op token
    { e with poison := e.poison || e.bad }
  obtain ⟨hc, ham, hws, hpsm, -⟩ := (uother.trans (u.delivered_others qMSQ e)).trans eother
  rw [State.mOp, State.take_head hhead]
  refine ⟨?_, ?_, ?_, hc, ham, hws, hpsm⟩
  · refine (congrArg (fun k => k.arr.queue) ecore).trans ?_
    dsimp only
    rw [Arr.enqueue_queue, darr, newCmd, State.delivered_ac, uac]
    rfl
  · calc _ = ((u.delivered c qMSQ e).core c).queue qMSQ := (congrArg (Core.queue · qMSQ) ecore :)
      _ = ((u.qPop c qMSQ).core c).queue qMSQ := (congrArg (Core.queue · qMSQ) dcore :)
      _ = ((s.core c).queue qMSQ).tail := by rw [pqueue, uqueue]
  · have hp : (((u.delivered c qMSQ e).enterCmd c op token { e with poison := e.poison || e.bad }).core c).poisoned =
        ((s.core c).poisoned || (e.poison || e.bad)) := by rw [ecore]; dsimp only; rw [dcore, upois]
    simp [hp]

/-- Settles O1: each command of the M slot is `mOp` on a core that runs (`State.mOp_enters`). -/
theorem matrixCommandsEnterTheArrayQueue : Obligations.MatrixCommandsEnterTheArrayQueue := by
  intro s c token e h
  have hrun (op : Nat) := (State.ifRuns_free h.1 fun s => s.mOp c op token (s.how c)).symm ▸ State.mOp_enters h op _
  exact ⟨⟨_, rfl, hrun opLoad⟩, ⟨_, rfl, hrun opPass⟩, ⟨_, rfl, hrun opEwise⟩⟩

end

end Sys2Proof.Machine
end

section
/-! SUPPORT. The state commands of the array: void commands, freezes and thaws, swaps, drains and completions (O2). -/

namespace Sys2Proof.Machine

section
variable {s : State} {c : CoreId}

/-! ### Void commands (R138) -/

theorem voidCommandEnter_enters {v : ArrCmd} {rest : List ArrCmd} (ho : (s.arr c).overflow = v :: rest)
    (hq : (s.arr c).queue.length < 4) (hlast : ∀ q, (s.arr c).queue.getLast? = some q → ¬(q.void ∧ q.issuedAt = s.ac)) :
    Gives (.voidCommandEnter c) s fun t =>
      (t.arr c).queue = (s.arr c).queue ++ [{ v with
        issuedAt := s.ac, headAt := if (s.arr c).queue.isEmpty then some (s.ac + 1) else v.headAt }] ∧
      (t.arr c).overflow = rest ∧ OtherCores s c t := by
  refine ⟨s.onArr c fun a => { a.enqueue { v with issuedAt := s.ac } with overflow := rest }, ?_, ?_⟩
  · rw [exec, execVoidCommandEnter]
    simp only [ho]
    refine congrArg Host.Outcome.next (if_neg ?_)
    rintro (hfull | hfresh)
    · omega
    · split at hfresh
      · next q hl => exact hlast q hl (by simpa using hfresh)
      · exact Bool.false_ne_true hfresh
  · simp only [State.arr_onArr]
    exact ⟨Arr.enqueue_queue _ _, trivial, (OtherCores.refl s c).onArr _⟩

/-! ### Freeze and thaw (R112, R113) -/

theorem Arr.frozen_iff {a : Arr} {now : Nat} : a.frozen now = true ↔
    ∃ f, a.freezeAt = some f ∧ f ≤ now ∧ ∀ u, a.thawAt = some u → now < u := by
  unfold Arr.frozen
  cases a.freezeAt <;> cases a.thawAt <;> simp

theorem arrayFreeze_freezes (hf : (s.arr c).freezeAt = none) (hd : 12 ≤ (s.arr c).drainEnd) :
    Gives (.arrayFreeze c) s fun t =>
      (t.arr c).frozen s.ac = false ∧ (t.arr c).frozen (s.ac + 1) = true ∧ OtherCores s c t := by
  refine ⟨s.onArr c fun a => { a with freezeAt := some (s.ac + 1), thawAt := none }, ?_, ?_⟩
  · rw [exec, execArrayFreeze, if_pos ⟨by rw [hf]; rfl, hd⟩]
  · simp only [State.arr_onArr]
    exact ⟨by simp [Arr.frozen], by simp [Arr.frozen], (OtherCores.refl s c).onArr _⟩

theorem arrayThaw_thaws (hf : (s.arr c).frozen (s.ac - 1) = true) (ht : (s.arr c).thawAt = none)
    (hd : (s.arr c).drainEnd ≤ 9) : Gives (.arrayThaw c) s fun t =>
      (t.arr c).frozen s.ac = true ∧ (t.arr c).frozen (s.ac + 1) = false ∧ OtherCores s c t := by
  obtain ⟨f, hfa, hle, -⟩ := Arr.frozen_iff.mp hf
  have hnow : f ≤ s.ac := by omega
  refine ⟨s.onArr c fun a => { a with thawAt := some (s.ac + 1) }, ?_, ?_⟩
  · rw [exec, execArrayThaw, if_pos ⟨hf, by rw [ht]; rfl, hd⟩]
  · simp only [State.arr_onArr]
    exact ⟨by simp [Arr.frozen, hfa, hnow], by simp [Arr.frozen, hfa], (OtherCores.refl s c).onArr _⟩

/-! ### The end of a swap (R106, R109, R114) -/

/-- The wave of a mark has crossed in this ac: its advancing ac has come, and the array advances. -/
theorem Arr.crossed_iff {a : Arr} {now n : Nat} :
    (a.reached now n && !a.frozen now) = true ↔ n ≤ a.advAt now ∧ a.frozen now = false := by
  cases hf : a.frozen now
  · simp [Arr.reached, hf, Nat.le_iff_lt_or_eq]
  · simp

theorem swapWaveDone_frees {m : Mark} (hm : (s.arr c).mark = some m) (hd : m.done ≤ s.adv c)
    (hf : (s.arr c).frozen s.ac = false) : Gives (.swapWaveDone c) s fun t =>
      (t.arr c).shadow = .free ∧ (t.arr c).mark = none ∧ (t.arr c).active = (s.arr c).active ∧ OtherCores s c t := by
  refine ⟨s.onArr c fun a => { a with shadow := .free, mark := none, old := [] }, ?_, ?_⟩
  · simp only [exec, execSwapWaveDone, hm, if_pos (Arr.crossed_iff.mpr ⟨hd, hf⟩)]
  · simp only [State.arr_onArr]
    exact ⟨trivial, trivial, trivial, (OtherCores.refl s c).onArr _⟩

theorem swapWaveDone_waits {m : Mark} (hm : (s.arr c).mark = some m)
    (h : (s.arr c).frozen s.ac = true ∨ s.adv c < m.done) : Gives (.swapWaveDone c) s fun t => t = s := by
  have hnot : ¬((s.arr c).reached s.ac m.done && !(s.arr c).frozen s.ac) = true := by
    rw [Arr.crossed_iff]
    rintro ⟨hle, hf⟩
    rcases h with h | h
    · exact absurd (hf.symm.trans h) (by decide)
    · exact absurd hle (Nat.not_le.mpr h)
  exact ⟨s, by simp only [exec, execSwapWaveDone, hm, if_neg hnot], rfl⟩

/-! ### MX_CTRL.drain (R20, R141, R145) -/

theorem mxCtrlDrain_empties (h0 : s.reg (.mx c) 0x0C = 0) : Gives (.mxCtrlDrain c) s fun t =>
      (t.arr c).queue = [] ∧ (t.arr c).overflow = [] ∧ (t.arr c).runs = [] ∧ (t.arr c).slots = [] ∧
      (t.arr c).drains = [] ∧ (t.arr c).outs = [] ∧ (t.arr c).feeder = [] ∧ (t.arr c).shadow = .free ∧
      t.reg (.mx c) 0x0C = 1 ∧ (t.arr c).drainAt = some (s.ac + 4) ∧ OtherCores s c t := by
  have hregs := State.orReg_within (.mx c) 0x0C 1 (.refl [.regs] (s.onArr c fun a => a.discard s.ac)) (by simp)
  have harr : (s.arrDrain c).arr c = (s.arr c).discard s.ac := (hregs.regs_frame.2.2.1 c).trans (State.arr_onArr _ _ _)
  refine ⟨s.arrDrain c, ?_, ?_⟩
  · simp [exec, execMxCtrlDrain, State.mxDrain, h0]
  · simp only [harr]
    exact ⟨rfl, rfl, rfl, rfl, rfl, rfl, rfl, rfl, by simp [State.arrDrain, h0], rfl,
      ((OtherCores.refl s c).onArr _).ofRegs hregs⟩

theorem mxCtrlDrain_busy (h1 : s.reg (.mx c) 0x0C = 1) : Gives (.mxCtrlDrain c) s fun t =>
      t.reg (.mx c) 0x08 = s.reg (.mx c) 0x08 ||| 0x40 ∧ t.arr c = s.arr c ∧ OtherCores s c t := by
  have hbusy : s.mxDrain c = s.mxFault c mxBusy := State.mxDrain_busy (by rw [State.fld_bit_zero, h1])
  refine ⟨s.mxFault c mxBusy, by rw [exec, execMxCtrlDrain, hbusy], ?_, by simp,
    (OtherCores.refl s c).ofRegs (s.mxFault_regs c _)⟩
  exact (s.reg_mxFault c (by decide) 0x08).trans (if_pos rfl)

theorem arrayDrainDone_ends {a : Nat} (ha : (s.arr c).drainAt = some a) (hle : a ≤ s.ac) (h1 : s.reg (.mx c) 0x0C = 1) :
    Gives (.arrayDrainDone c) s fun t => t.reg (.mx c) 0x0C = 0 ∧ (t.arr c).drainAt = none ∧ OtherCores s c t := by
  have hregs := State.setFld_within (.mx c) 0x0C 0 0 0 (.refl [.regs] (s.onArr c fun a => { a with drainAt := none }))
    (by simp)
  have harr := (hregs.regs_frame.2.2.1 c).trans (State.arr_onArr _ _ _)
  refine ⟨_, ?_, ?_, (congrArg Arr.drainAt harr :), ((OtherCores.refl s c).onArr _).ofRegs hregs⟩
  · simp only [exec, execArrayDrainDone, ha, if_pos hle]
  · simp [h1, setBits, bits]

/-! ### Completion (R103, R147) -/

/-- A completion reaches MCQ with no token to skip. -/
theorem State.qPush_core {q : Nat} (hs : (s.core c).skip q = []) (t : Token) (p : Bool) (b : BitVec 256) :
    (s.qPush c q t p b).core c = (s.core c).setQueue q ((s.core c).queue q ++ [⟨t, p, b, s.ac + 1, false⟩]) :=
  (State.core_onCore s c _).trans (by simp [hs])

/-- The oldest command is gone from the array, and is counted unless it never ran (R103, R147). -/
def State.runGone (s : State) (c : CoreId) (r : Run) (rest : List Run) : State :=
  let s := s.onArr c fun a => { a with runs := rest, lastDone := max a.lastDone r.end_ }
  if r.cmd.void then s else s.count (.mx c) 0x20 1

theorem State.runGone_core (r : Run) (rest : List Run) : (s.runGone c r rest).ac = s.ac ∧
    (s.runGone c r rest).core c =
      { s.core c with arr := { s.arr c with runs := rest, lastDone := max (s.arr c).lastDone r.end_ } } ∧
    OtherCores s c (s.runGone c r rest) := by
  have hcore := s.core_onCore c fun k => { k with arr := { k.arr with runs := rest, lastDone := max k.arr.lastDone r.end_ } }
  have hw : Within [.regs] (s.onArr c fun a => { a with runs := rest, lastDone := max a.lastDone r.end_ })
      (s.runGone c r rest) := .ite (fun _ => .refl _ _) fun _ => State.count_within _ _ _ (.refl _ _) (by simp)
  exact ⟨hw.regs_frame.1, (hw.core (by simp) c).trans hcore, ((OtherCores.refl s c).onArr _).ofRegs hw⟩

theorem State.runGone_void {r : Run} (hv : r.cmd.void = true) (rest : List Run) : (s.runGone c r rest).regs = s.regs := by
  simp [State.runGone, hv]

theorem State.runGone_counts {r : Run} (hv : r.cmd.void = false) (rest : List Run) :
    (s.runGone c r rest).reg (.mx c) 0x20 = (s.reg (.mx c) 0x20 + 1) % 2 ^ 32 := by
  rw [State.runGone, hv]
  exact State.reg_count_wrap _ (.mx c) 0x20 1 rfl

theorem passComplete_pushes {r : Run} {rest : List Run} (hr : (s.arr c).runs = r :: rest) (hd : s.runDone c r = true)
    (ho : s.qOpen c qMCQ = true) (hs : (s.core c).skip qMCQ = []) : Gives (.passComplete c) s fun t =>
      (t.core c).queue qMCQ =
        (s.core c).queue qMCQ ++ [⟨r.cmd.token, r.poison || r.cmd.poison, 0, s.ac + 1, false⟩] ∧
      (t.arr c).runs = rest ∧ t.regs = (s.runGone c r rest).regs ∧ OtherCores s c t := by
  obtain ⟨hac, hcore, hother⟩ := s.runGone_core (c := c) r rest
  have hskip : ((s.runGone c r rest).core c).skip qMCQ = [] := (congrArg (Core.skip · qMCQ) hcore :).trans hs
  have hpush := State.qPush_core hskip r.cmd.token (r.poison || r.cmd.poison) 0
  have hqueue : ((s.runGone c r rest).core c).queue qMCQ = (s.core c).queue qMCQ := (congrArg (Core.queue · qMCQ) hcore :)
  refine ⟨(s.runGone c r rest).qPush c qMCQ r.cmd.token (r.poison || r.cmd.poison) 0, ?_, ?_, ?_, rfl, hother.setCore _⟩
  · simp only [exec, execPassComplete, hr, hd, ho]
    rfl
  · rw [hpush, Core.queue_setQueue, hqueue, hac]
  · exact (congrArg (fun k => k.arr.runs) hpush :).trans (congrArg (fun k => k.arr.runs) hcore :)

end

/-- Settles O2, clause by clause; both completion clauses are the one push into MCQ, with and without the count. -/
theorem arrayStateCommandsMoveTheArray : Obligations.ArrayStateCommandsMoveTheArray := by
  refine ⟨fun _ _ _ _ => voidCommandEnter_enters, fun _ _ => arrayFreeze_freezes, fun _ _ => arrayThaw_thaws,
    fun _ _ _ => swapWaveDone_frees, fun _ _ _ => swapWaveDone_waits, fun _ _ => mxCtrlDrain_empties,
    fun _ _ => mxCtrlDrain_busy, fun _ _ _ => arrayDrainDone_ends, ?_, ?_⟩
  · intro s c r rest hr hd ho hv hs hlt
    obtain ⟨t, ht, hqueue, hruns, hregs, hother⟩ := passComplete_pushes hr hd ho hs
    have hcount : t.reg (.mx c) 0x20 = (s.reg (.mx c) 0x20 + 1) % 2 ^ 32 := by
      rw [← State.runGone_counts hv rest, State.reg, State.reg, hregs]
    exact ⟨t, ht, hqueue, hruns, hcount.trans (Nat.mod_eq_of_lt (by omega)), hother⟩
  · intro s c r rest hr ho hv hs
    obtain ⟨t, ht, hqueue, hruns, hregs, hother⟩ := passComplete_pushes hr (by simp [State.runDone, hv]) ho hs
    exact ⟨t, ht, hqueue, hruns, hregs.trans (State.runGone_void hv rest), hother⟩

end Sys2Proof.Machine
end

section
/-! SUPPORT. The head of the array command queue, loads and their check operands (O3). -/

namespace Sys2Proof.Machine

section
variable {s : State} {c : CoreId} {q : ArrCmd} {rest : List ArrCmd}

/-! ### The head of the queue (R102, R140, R359) -/

/-- The command as the head delivers it: poisoned where its parity fails (R359). -/
def ArrCmd.asRead (q : ArrCmd) : ArrCmd := { q with poison := q.poison || q.bad, bad := false }

theorem ArrCmd.asRead_of_good (h : q.bad = false) : q.asRead = q := by
  cases q
  simp_all [ArrCmd.asRead]

/-- Behind a head that leaves, the next command reaches the head (R102). -/
theorem Arr.pop_queue (a : Arr) (t : Nat) : (a.pop t).queue = headedAt t a.queue.tail := by
  unfold Arr.pop headedAt
  cases a.queue.tail <;> rfl

theorem Arr.setHead_cons {a : Arr} (h : a.queue = q :: rest) (f : ArrCmd → ArrCmd) :
    a.setHead f = { a with queue := f q :: rest } := by
  simp only [Arr.setHead, h]

/-- The head that has been read stands in its place as it was delivered. -/
theorem State.headRead_core (hq : (s.arr c).queue = q :: rest) :
    (s.headRead c q).core c = { s.core c with arr := { s.arr c with queue := q.asRead :: rest } } := by
  unfold State.headRead
  split
  · next hbad =>
    have hcore := (State.entryParity_frame s c true).2.1 c
    rw [State.onArr, State.core_onCore, hcore]
    have harr : (s.core c).arr.queue = q :: rest := hq
    rw [Arr.setHead_cons harr, ArrCmd.asRead, hbad, Bool.or_true]
    rfl
  · next hgood =>
    rw [ArrCmd.asRead_of_good (by simpa using hgood), ← hq]
    rfl

theorem State.headRead_frame (s : State) (c : CoreId) (q : ArrCmd) : (s.headRead c q).ac = s.ac ∧
    (∀ a n, (s.headRead c q).wsBytes c a n = s.wsBytes c a n) ∧ OtherCores s c (s.headRead c q) := by
  unfold State.headRead
  split
  · exact ⟨(s.entryParity_frame c true).1, (s.entryParity_frame c true).2.2.2.2.1 c,
      ((OtherCores.refl s c).ofRegs (s.entryParity_regs c true)).onArr _⟩
  · exact ⟨rfl, fun _ _ => rfl, .refl s c⟩

/-- What becomes of a head that has been read in the ac in which it is due (R102, R140). -/
theorem exec_arrayCommandHead (hq : (s.arr c).queue = q :: rest) (hs : q.started = false) (hh : q.headAt.getD 0 ≤ s.ac) :
    exec (.arrayCommandHead c) s = .next (
      if q.void || q.faulted then (s.headRead c q).headRefuse c q.asRead
      else if q.op.toNat = opLoad then (s.headRead c q).headLoad c q.asRead
      else if q.isDegenerate then (s.headRead c q).headStart c q.asRead (q.headAt.getD s.ac) true
      else if q.isEw then (s.headRead c q).headStart c q.asRead (q.headAt.getD s.ac) false
      else (s.headRead c q).headPass c q.asRead (q.headAt.getD s.ac)) := by
  have hdue : ¬s.ac < q.headAt.getD s.ac := by
    cases h : q.headAt <;> simp_all
  simp only [exec, execArrayCommandHead, hq]
  exact congrArg Host.Outcome.next (if_neg (by simp [hs, hdue]))

/-- A LOAD starts when the shadow is free and no merge occupies the share (R106). -/
theorem State.headLoad_free (hsh : (s.arr c).shadow = .free) (hws : (s.core c).wsFree ≤ s.ac) :
    let d := q.desc'
    s.headLoad c q = s.onArr c fun a =>
      { a.pop s.ac with shadow := .loading, loadAt := s.ac, loadFrom := 64 * d.ws
                        shadowTile := ⟨true, d.shape, d.wfmt, d.afmt, d.sparse, d.k, d.n,
                          s.wsBytes c (64 * d.ws) (tileBytes d.shape d.wfmt d.sparse d.k d.n), q.poison, []⟩ } := by
  simp only [State.headLoad, hsh, if_neg (Nat.not_lt.mpr hws)]

theorem arrayCommandHead_loads (hq : (s.arr c).queue = q :: rest) (hs : q.started = false) (hh : q.headAt.getD 0 ≤ s.ac)
    (hv : q.void = false) (hf : q.faulted = false) (hop : q.op = 1) (hsh : (s.arr c).shadow = .free)
    (hws : (s.core c).wsFree ≤ s.ac) : Gives (.arrayCommandHead c) s fun t =>
      (t.arr c).queue = headedAt s.ac rest ∧ (t.arr c).shadow = .loading ∧ (t.arr c).loadAt = s.ac ∧
      (t.arr c).shadowTile.image =
        s.wsBytes c (64 * q.desc'.ws) (tileBytes q.desc'.shape q.desc'.wfmt q.desc'.sparse q.desc'.k q.desc'.n) ∧
      OtherCores s c t := by
  have hcore := State.headRead_core hq
  obtain ⟨hac, hbytes, hother⟩ := s.headRead_frame c q
  have harr : (s.headRead c q).arr c = { s.arr c with queue := q.asRead :: rest } := congrArg Core.arr hcore
  have hload := State.headLoad_free (q := q.asRead) ((congrArg Arr.shadow harr).trans hsh)
    ((congrArg Core.wsFree hcore).trans_le (hws.trans_eq hac.symm))
  refine ⟨(s.headRead c q).headLoad c q.asRead, ?_, ?_⟩
  · rw [exec_arrayCommandHead hq hs hh, hv, hf, hop]
    rfl
  · simp only [hload, State.arr_onArr, Arr.pop_queue, hac, hbytes, harr]
    exact ⟨rfl, trivial, trivial, rfl, hother.onArr _⟩

/-- A PASS without a swap, and without a fault against the tile that it uses, starts (R136). -/
theorem State.headPass_starts (hsw : q.desc'.swap = false)
    (ht : (s.arr c).swapped = true → (tileFaults q.desc' (s.arr c).activeTile).1 = false) (h : Nat) :
    s.headPass c q h = s.headStart c q h false := by
  have hshape : (s.arr c).swapped = true → tileFaults q.desc' (s.arr c).activeTile = (false, false) := fun hswapped =>
    Prod.ext (ht hswapped) (by simp [tileFaults, hsw])
  cases hswapped : (s.arr c).swapped with
  | false => simp [State.headPass, hsw, hswapped]
  | true => simp [State.headPass, hsw, hswapped, hshape hswapped]

theorem arrayCommandHead_starts (hq : (s.arr c).queue = q :: rest) (hs : q.started = false) (hh : q.headAt.getD 0 ≤ s.ac)
    (hv : q.void = false) (hf : q.faulted = false) (hop : q.op = 2) (hdeg : q.isDegenerate = false)
    (hsw : q.desc'.swap = false)
    (ht : (s.arr c).swapped = true → (tileFaults q.desc' (s.arr c).activeTile).1 = false) :
    Gives (.arrayCommandHead c) s fun t =>
      (t.arr c).queue = { q.asRead with started := true } :: rest ∧
      (∃ r, (t.arr c).runs = (s.arr c).runs ++ [r] ∧ r.cmd = q.asRead ∧ r.released = 0 ∧ r.poison = false ∧
        r.degenerate = false) ∧
      (t.arr c).shadow = (s.arr c).shadow ∧ OtherCores s c t := by
  obtain ⟨hac, hbytes, hother⟩ := s.headRead_frame c q
  have harr : (s.headRead c q).arr c = { s.arr c with queue := q.asRead :: rest } :=
    congrArg Core.arr (State.headRead_core hq)
  have hpass := State.headPass_starts (s := s.headRead c q) (c := c) (q := q.asRead) hsw (by rw [harr]; exact ht)
  refine ⟨(s.headRead c q).headStart c q.asRead (q.headAt.getD s.ac) false, ?_, ?_⟩
  · rw [exec_arrayCommandHead hq hs hh, hv, hf, hdeg, hpass, hop, ArrCmd.isEw, hop]
    rfl
  · simp only [State.headStart, State.arr_onArr, harr,
      Arr.setHead_cons (a := { s.arr c with queue := q.asRead :: rest }) rfl, Arr.addRun]
    exact ⟨trivial, ⟨_, rfl, rfl, rfl, rfl, rfl⟩, trivial, hother.onArr _⟩

/-- A faulted PASS leaves the queue and takes its place in completion order as a run that never ran (R140). -/
theorem arrayCommandHead_refuses (hq : (s.arr c).queue = q :: rest) (hs : q.started = false)
    (hh : q.headAt.getD 0 ≤ s.ac) (hf : q.faulted = true) (hop : q.op = 2) : Gives (.arrayCommandHead c) s fun t =>
      (t.arr c).queue = headedAt s.ac rest ∧
      (∃ r, (t.arr c).runs = (s.arr c).runs ++ [r] ∧ r.cmd.token = q.token ∧ r.cmd.void = true ∧ r.poison = true) ∧
      OtherCores s c t := by
  obtain ⟨hac, hbytes, hother⟩ := s.headRead_frame c q
  have harr : (s.headRead c q).arr c = { s.arr c with queue := q.asRead :: rest } :=
    congrArg Core.arr (State.headRead_core hq)
  have hload : ¬q.asRead.op.toNat = opLoad := by rw [ArrCmd.asRead, hop]; decide
  refine ⟨(s.headRead c q).headRefuse c q.asRead, ?_, ?_⟩
  · rw [exec_arrayCommandHead hq hs hh, hf, Bool.or_true, if_pos rfl]
  · simp only [State.headRefuse, State.arr_onArr, harr, if_neg hload, Arr.pop_queue, hac]
    exact ⟨rfl, ⟨_, rfl, rfl, rfl, rfl⟩, hother.onArr _⟩

/-! ### Loads (R104, R118 to R120, R338) -/

theorem State.wsReadWords_sound (h : s.wsErr = []) (lo hi : Nat) : s.wsReadWords c lo hi = (s, false) := by
  simp [State.wsReadWords, errsIn, h]

theorem loadComplete_ready (hsh : (s.arr c).shadow = .loading)
    (hat : (s.arr c).loadAt + loadLatency (s.arr c).shadowTile.image.length ≤ s.ac)
    (hp : (s.arr c).shadowTile.badPair = none) (he : s.wsErr = []) : Gives (.loadComplete c) s fun t =>
      (t.arr c).shadow = .ready ∧ (t.arr c).readyAt = s.ac ∧
      (t.arr c).shadowTile.image = (s.arr c).shadowTile.image ∧
      (t.arr c).shadowTile.checks = (List.range 128).map (s.arr c).shadowTile.checkOps ∧
      t.reg (.mx c) 0x10 = (s.reg (.mx c) 0x10 ||| (s.arr c).shadowTile.flags) % 2 ^ 32 ∧ OtherCores s c t := by
  have hnot : ¬((s.arr c).shadow ≠ .loading ∨ s.ac < (s.arr c).loadAt + loadLatency (s.arr c).shadowTile.image.length ∨
      (s.arr c).shadowTile.badPair.isSome = true) := by
    simp [hsh, hp, hat]
  have hregs := s.aflags_regs c (s.arr c).shadowTile.flags
  refine ⟨(s.aflags c (s.arr c).shadowTile.flags).onArr c fun a =>
    { a with shadow := .ready, readyAt := s.ac
             shadowTile := { (s.arr c).shadowTile.checked with poison := (s.arr c).shadowTile.poison || false } }, ?_, ?_⟩
  · rw [exec, execLoadComplete]
    simp only [if_neg hnot, State.wsReadWords_sound he]
    rfl
  · simp only [State.arr_onArr]
    exact ⟨trivial, trivial, rfl, rfl, by simp [State.aflags], ((OtherCores.refl s c).ofRegs hregs).onArr _⟩

/-- In a dense tile a check operand is the sum over the columns of its row (R119). -/
theorem Tile.checkOps_dense {t : Tile} (r : Nat) (hw : t.wfmt ≠ 7) (hs : t.sparse = false) :
    t.checkOps r = (BitVec.ofInt 40 (rowSum (lanesOf t.wfmt) fun col l => t.sig 0 r col l), 0) := by
  simp [Tile.checkOps, hw, hs]

/-- In a 2:4 tile the two rows of a pair hold the four sums by position in the group (R120). -/
theorem Tile.checkOps_sparse {t : Tile} (g : Nat) (hw : t.wfmt ≠ 7) (hs : t.sparse = true) :
    t.checkOps (2 * g) = (BitVec.ofInt 40 (t.groupSum g 0), BitVec.ofInt 40 (t.groupSum g 1)) ∧
    t.checkOps (2 * g + 1) = (BitVec.ofInt 40 (t.groupSum g 2), BitVec.ofInt 40 (t.groupSum g 3)) := by
  have hhalf : (2 * g + 1) / 2 = g := by omega
  have hodd : (2 * g + 1) % 2 = 1 := by omega
  simp [Tile.checkOps, hw, hs, hhalf, hodd]

/-! ### A load that is abandoned (R118, R338) -/

/-- The array and its faults stand as before; no other core and no memory changes. -/
def ArrayKept (s : State) (c : CoreId) (t : State) : Prop :=
  t.arr c = s.arr c ∧ t.reg (.mx c) 0x08 = s.reg (.mx c) 0x08 ∧ OtherCores s c t

theorem ArrayKept.trans {t u : State} (h : ArrayKept s c t) (g : ArrayKept t c u) : ArrayKept s c u :=
  ⟨g.1.trans h.1, g.2.1.trans h.2.1, h.2.2.trans g.2.2⟩

theorem ArrayKept.ofRegs {t : State} (h : Within [.regs] s t) (hr : t.reg (.mx c) 0x08 = s.reg (.mx c) 0x08) :
    ArrayKept s c t := ⟨h.regs_frame.2.2.1 c, hr, (OtherCores.refl s c).ofRegs h⟩

theorem ArrayKept.memErr (s : State) (c : CoreId) (bit : Nat) : ArrayKept s c (s.memErr c bit) :=
  .ofRegs (State.memErr_within c bit (.refl _ _) (by simp)) (by simp [State.memErr])

/-- The log of corrections lies outside the array. -/
theorem ArrayKept.logCe (s : State) (c : CoreId) (kind nb addr : Nat) : ArrayKept s c (s.logCe c kind nb addr) := by
  have hcount : ArrayKept s c (s.count (.mx c) 0x50 1) :=
    .ofRegs (State.count_within _ _ _ (.refl _ _) (by simp)) (State.reg_count_off _ _ _ (by decide))
  rw [State.logCe]
  refine hcount.trans ?_
  split
  · exact ⟨(congrArg Core.arr (State.core_onCore _ c _) :), rfl, (OtherCores.refl _ c).setCore _⟩
  · exact .memErr _ c 6

theorem ArrayKept.logUce (s : State) (c : CoreId) (kind addr : Nat) : ArrayKept s c (s.logUce c kind addr) := by
  rw [State.logUce]
  refine ArrayKept.trans ?_ (.memErr _ c (kind + 1))
  split
  · exact .ofRegs (State.setReg_within _ _ _ (.refl _ _) (by simp)) (by simp)
  · exact ⟨rfl, rfl, .refl s c⟩

/-- A read of the weight store logs what its code words hold, and leaves the array as it is. -/
theorem State.wsReadWords_kept (lo hi : Nat) : ArrayKept s c (s.wsReadWords c lo hi).1 := by
  rw [State.wsReadWords]
  generalize errsIn s.wsErr _ _ = es
  dsimp only
  induction es generalizing s with
  | nil => exact ⟨rfl, rfl, .refl s c⟩
  | cons e es ih =>
    refine ArrayKept.trans ?_ ih
    dsimp only
    split
    · exact ⟨rfl, rfl, .refl s c⟩
    · exact .logCe s c _ _ _
    · exact .logCe s c _ _ _
    · exact .logUce s c _ _

/-- The byte of a tile image that holds a pair of indices (R118, R262). -/
def Tile.pairByte (t : Tile) (p : Nat) : Nat :=
  elemPlane t.wfmt t.n t.ks + scalePlane t.shape t.wfmt t.sparse t.k t.n + p / 2

/-- A load ends when the pair out of order has been read. -/
theorem loadAbandon_frees {p : Nat} (hsh : (s.arr c).shadow = .loading) (hp : (s.arr c).shadowTile.badPair = some p)
    (hat : (s.arr c).loadAt + (s.arr c).shadowTile.pairByte p / 512 ≤ s.ac) : Gives (.loadAbandon c) s fun t =>
      (t.arr c).shadow = .free ∧ t.reg (.mx c) 0x08 = s.reg (.mx c) 0x08 ||| 2 ∧ OtherCores s c t := by
  set lo := (s.arr c).loadFrom / 32 with hlo
  set hi := lo + min (16 * ((s.arr c).shadowTile.pairByte p / 512 + 1)) (ceilDiv (s.arr c).shadowTile.image.length 32) with hhi
  obtain ⟨-, hreg, hother⟩ : ArrayKept s c (s.wsReadWords c lo hi).1 := State.wsReadWords_kept lo hi
  refine ⟨((s.wsReadWords c lo hi).1.mxFault c mxFormat).onArr c fun a =>
    { a with shadow := .free, shadowTile := Tile.zero }, ?_, by rw [State.arr_onArr], ?_,
    (hother.ofRegs (State.mxFault_regs _ c _)).onArr _⟩
  · rw [exec, execLoadAbandon]
    simp only [hp]
    exact congrArg Host.Outcome.next (if_neg (not_or.mpr ⟨not_not.mpr hsh, Nat.not_lt.mpr hat⟩))
  · calc _ = ((s.wsReadWords c lo hi).1.mxFault c mxFormat).reg (.mx c) 0x08 := rfl
      _ = (s.wsReadWords c lo hi).1.reg (.mx c) 0x08 ||| 2 :=
        (State.reg_mxFault _ c (by decide) 0x08).trans (if_pos rfl)
      _ = s.reg (.mx c) 0x08 ||| 2 := by rw [hreg]

end

/-- Settles O3, clause by clause. -/
theorem tileLoadsAndPassesStartAtTheHead : Obligations.TileLoadsAndPassesStartAtTheHead :=
  ⟨fun _ _ _ _ => arrayCommandHead_loads, fun _ _ _ _ => arrayCommandHead_starts, fun _ _ _ _ => arrayCommandHead_refuses,
    fun _ _ => loadComplete_ready, fun _ r _ => Tile.checkOps_dense r, fun _ g _ => Tile.checkOps_sparse g,
    fun _ _ _ => loadAbandon_frees⟩

end Sys2Proof.Machine
end

section
/-! SUPPORT. Vectors that are fetched or arrive over the mesh (O4). -/

namespace Sys2Proof.Machine

section
variable {s : State} {c : CoreId} {q : ArrCmd} {v : VecAt}

/-! ### Reads of an operand (R344, R347, R351) -/

/-- A dynamic access on a core that uses no lane, below no access that is ready for one of its lanes, takes its lanes. -/
theorem State.claimDyn_takes {mask above : Nat} (hu : (s.core c).amUse = []) (ha : (above &&& mask) = 0) :
    s.claimDyn c s.ac mask above = (s.takeLanes c mask, true) := by
  simp [State.claimDyn, Core.laneHeld, State.takeLanes, hu, ha]

theorem State.takeLanes_arr (mask : Nat) : (s.takeLanes c mask).arr c = s.arr c :=
  (congrArg Core.arr (State.core_onCore s c _) :)

@[simp] theorem State.takeLanes_frame (mask : Nat) : (s.takeLanes c mask).ac = s.ac ∧
    (s.takeLanes c mask).amErr = s.amErr ∧ ∀ c' a n, (s.takeLanes c mask).amBytes c' a n = s.amBytes c' a n := by
  simp [State.takeLanes]

theorem State.takeLanes_others (mask : Nat) : OtherCores s c (s.takeLanes c mask) := (OtherCores.refl s c).setCore _

theorem State.onArr_frame (s : State) (c : CoreId) (f : Arr → Arr) :
    (s.onArr c f).ac = s.ac ∧ (s.onArr c f).amErr = s.amErr := by simp

/-- A claim of lanes leaves the array and the errors of activation memory. -/
theorem State.claimDyn_kept (n mask above : Nat) : (s.claimDyn c n mask above).1.arr c = s.arr c ∧
    (s.claimDyn c n mask above).1.amErr = s.amErr ∧ OtherCores s c (s.claimDyn c n mask above).1 := by
  unfold State.claimDyn
  split
  · exact ⟨rfl, rfl, .refl s c⟩
  · exact ⟨(congrArg Core.arr (State.core_onCore s c _) :), rfl, (OtherCores.refl s c).setCore _⟩

theorem State.amReadAny_sound (h : s.amErr = []) (a n : Nat) : ∃ p, s.amReadAny c a n = (s, s.amBytes c a n, p) := by
  unfold State.amReadAny
  split
  · next hn => exact ⟨false, by rw [hn]; rfl⟩
  · exact ⟨_, by rw [State.amRead, h]; rfl⟩

/-- Without an error in activation memory a vector's operand is read as it stands. -/
theorem State.readVec_sound (h : s.amErr = []) (v : VecAt) :
    ∃ p, s.readVec c v = (s, s.amBytes c v.a v.n, s.amBytes c v.sa v.sn, p) := by
  obtain ⟨p, hp⟩ := s.amReadAny_sound (c := c) h v.a v.n
  obtain ⟨p', hp'⟩ := s.amReadAny_sound (c := c) h v.sa v.sn
  exact ⟨p || p', by simp only [State.readVec, hp, hp']⟩

/-! ### The feeder queues (R96, R128, R302 to R305, R350) -/

/-- A vector that enters is the last of the feeder queues; only with fwd = 1 may it enter later than it could. -/
theorem State.enterVec_appends (s : State) (c : CoreId) (q : ArrCmd) (x : Vec) (e : Nat) :
    (∃ e', ((s.enterVec c q x e).arr c).feeder = (s.arr c).feeder ++ [{ x with from_ := e' }] ∧
      (q.desc'.fwd = false → e' = e)) ∧
    ((s.enterVec c q x e).arr c).flits = (s.arr c).flits ∧ (s.enterVec c q x e).amErr = s.amErr ∧
    OtherCores s c (s.enterVec c q x e) := by
  refine ⟨⟨_, (congrArg Arr.feeder (State.arr_onArr s c _) :), fun hfwd => ?_⟩,
    (congrArg Arr.flits (State.arr_onArr s c _) :), (s.onArr_frame c _).2, (OtherCores.refl s c).onArr _⟩
  exact if_neg (by simp [hfwd])

theorem State.yReady_at {y : VecAt} (h : s.yReady c = some (q, y)) : y = q.desc'.yAt q.yfetched := by
  unfold State.yReady at h
  dsimp only at h
  split at h
  · split at h
    · cases h
    · cases h; rfl
  · cases h

/-- Beside an X vector the Y fetch leaves the feeder queues of X. -/
theorem State.fetchY_feeder (h : s.amErr = []) :
    ((s.fetchY c).arr c).feeder = (s.arr c).feeder ∧ OtherCores s c (s.fetchY c) := by
  unfold State.fetchY
  split
  · exact ⟨rfl, .refl s c⟩
  · next q y hy =>
    obtain ⟨harr, herr, hother⟩ := s.claimDyn_kept (c := c) s.ac y.lanes (s.aboveFeed c)
    split
    · exact ⟨rfl, .refl s c⟩
    · next u hu =>
      rw [hu] at harr herr hother
      obtain ⟨p, hp⟩ := State.readVec_sound (c := c) (herr.trans h) y
      simp only [hp]
      exact ⟨(congrArg Arr.feeder (State.arr_onArr _ c _) :).trans (congrArg Arr.feeder harr :), hother.onArr _⟩

/-- The next Y vector enters the column-top queue with its bytes. -/
theorem State.fetchY_appends {y : VecAt} (hy : s.yReady c = some (q, y)) (hu : (s.core c).amUse = []) (he : s.amErr = [])
    (hl : (s.aboveFeed c &&& y.lanes) = 0) : ∃ x, ((s.fetchY c).arr c).ytop = (s.arr c).ytop ++ [x] ∧ x.m = q.yfetched ∧
      x.elems = s.amBytes c y.a y.n := by
  obtain ⟨p, hp⟩ := State.readVec_sound (s := s.takeLanes c y.lanes) (c := c) he y
  have hfetch : s.fetchY c = (s.takeLanes c y.lanes).onArr c fun a =>
      { a with queue := onFirstCmd (· == q) (fun q => { q with yfetched := q.yfetched + 1 }) a.queue, yfetchAc := s.ac + 1
               ytop := a.ytop ++ [⟨q.yfetched, s.amBytes c y.a y.n, s.amBytes c y.sa y.sn, p, s.ac + y.wait, false⟩] } := by
    simp only [State.fetchY, hy, State.claimDyn_takes hu hl, hp, State.takeLanes_frame]
  rw [hfetch, State.arr_onArr, State.takeLanes_arr]
  exact ⟨_, rfl, rfl, rfl⟩

/-- The array once a command's next X vector has been read in ac `now`. -/
def Arr.xTaken (a : Arr) (q : ArrCmd) (now : Nat) : Arr :=
  { a with queue := onFirstCmd (· == q) (fun q => { q with fetched := q.fetched + 1 }) a.queue, fetchAc := now + 1 }

/-- An X vector that is ready is fetched: it enters the feeder queues with its bytes. -/
theorem State.fetchX_appends (hx : s.xReady c = some (q, v)) (hu : (s.core c).amUse = []) (he : s.amErr = [])
    (hl : (s.aboveFeed c &&& v.lanes) = 0) :
    (∃ x, ((s.fetchX c).arr c).feeder = (s.arr c).feeder ++ [x] ∧ x.m = q.fetched ∧
      x.elems = s.amBytes c v.a v.n ∧ x.scales = s.amBytes c v.sa v.sn ∧ (q.desc'.fwd = false → x.from_ = s.ac + v.wait)) ∧
    (s.fetchX c).amErr = [] ∧ OtherCores s c (s.fetchX c) := by
  obtain ⟨p, hp⟩ := State.readVec_sound (s := s.takeLanes c v.lanes) (c := c) he v
  have hfetch : s.fetchX c = ((s.takeLanes c v.lanes).onArr c fun a => a.xTaken q s.ac).enterVec c q
      ⟨q.fetched, s.amBytes c v.a v.n, s.amBytes c v.sa v.sn, [], [], p, 0, false⟩ (s.ac + v.wait) := by
    simp only [State.fetchX, hx, State.claimDyn_takes hu hl, hp, State.onArr_frame, State.takeLanes_frame, Arr.xTaken]
  obtain ⟨⟨e', hin, hfwd⟩, -, herr, hother⟩ := ((s.takeLanes c v.lanes).onArr c fun a => a.xTaken q s.ac).enterVec_appends c q
    ⟨q.fetched, s.amBytes c v.a v.n, s.amBytes c v.sa v.sn, [], [], p, 0, false⟩ (s.ac + v.wait)
  rw [State.arr_onArr, State.takeLanes_arr] at hin
  rw [hfetch]
  exact ⟨⟨_, hin, rfl, rfl, rfl, hfwd⟩, by rw [herr]; simpa using he,
    ((State.takeLanes_others v.lanes).onArr _).trans hother⟩

theorem feederFetch_takesX (hn : (s.arr c).nextX = some q) (hsrc : q.desc'.src = false) (hi : q.issuedAt < s.ac)
    (hroom : (s.arr c).feeder.length < 16) (hf : (s.arr c).fetchAc ≤ s.ac) (hu : (s.core c).amUse = []) (he : s.amErr = [])
    (hl : (s.aboveFeed c &&& (q.desc'.xAt q.isEw q.fetched).lanes) = 0) : Gives (.feederFetch c) s fun t =>
      (∃ v, (t.arr c).feeder = (s.arr c).feeder ++ [v] ∧ v.m = q.fetched ∧
        v.elems = s.amBytes c (64 * q.desc'.am + 64 * q.fetched * q.desc'.amStride) (q.desc'.elemBytes q.isEw) ∧
        v.scales = s.amBytes c (8 * q.desc'.sb + q.fetched * q.desc'.sStride) (q.desc'.scaleBytes q.isEw) ∧
        (q.desc'.fwd = false → v.from_ = s.ac + (q.desc'.xAt q.isEw q.fetched).wait)) ∧ OtherCores s c t := by
  have hready : s.xReady c = some (q, q.desc'.xAt q.isEw q.fetched) := by
    have hnot : ¬(q.desc'.src = true ∨ s.ac ≤ q.issuedAt ∨ 16 ≤ (s.arr c).feeder.length ∨ (s.arr c).fetchAc = s.ac + 1) := by
      simp only [hsrc, Bool.false_eq_true, false_or]
      omega
    simp only [State.xReady, hn, if_neg hnot]
  obtain ⟨⟨x, hx, hm, helems, hscales, hfrom⟩, herr, hother⟩ := State.fetchX_appends hready hu he hl
  obtain ⟨hfeeder, hother'⟩ := State.fetchY_feeder (c := c) herr
  exact ⟨_, rfl, ⟨x, hfeeder.trans hx, hm, helems, hscales, hfrom⟩, hother.trans hother'⟩

theorem feederFetch_takesY {y : VecAt} (hy : s.yReady c = some (q, y)) (hx : s.xReady c = none)
    (hu : (s.core c).amUse = []) (he : s.amErr = []) (hl : (s.aboveFeed c &&& y.lanes) = 0) :
    Gives (.feederFetch c) s fun t =>
      (∃ v, (t.arr c).ytop = (s.arr c).ytop ++ [v] ∧ v.m = q.yfetched ∧
        v.elems = s.amBytes c (64 * q.desc'.y + 64 * q.yfetched * q.desc'.yStride) q.desc'.n) ∧
      (t.arr c).feeder = (s.arr c).feeder ∧ OtherCores s c t := by
  have hfetchX : s.fetchX c = s := by simp only [State.fetchX, hx]
  obtain ⟨x, htop, hm, helems⟩ := State.fetchY_appends hy hu he hl
  refine ⟨s.fetchY c, by rw [exec, execFeederFetch, hfetchX], ⟨x, htop, hm, ?_⟩, State.fetchY_feeder he⟩
  rw [helems, State.yReady_at hy]
  rfl

/-! ### Vectors that arrive over the mesh (R302, R303) -/

/-- The array once the flits of a vector have been taken for its head. -/
def Arr.flitsTaken (a : Arr) (n : Nat) : Arr :=
  { a.setHead fun q => { q with fetched := q.fetched + 1 } with flits := a.flits.drop n }

theorem Arr.flitsTaken_feeder (a : Arr) (n : Nat) : (a.flitsTaken n).feeder = a.feeder := by
  simp only [Arr.flitsTaken, Arr.setHead]
  cases a.queue <;> rfl

/-- The vector that flits carry for a command. -/
def ArrCmd.meshVec (q : ArrCmd) (fs : List (Nat × Flit)) : Vec :=
  let b := fs.flatMap fun f => lineBytes f.2.payload
  let n := q.desc'.elemBytes q.isEw
  ⟨q.fetched, b.take n, (b.drop n).take (q.desc'.scaleBytes q.isEw), [], [], fs.any fun f => f.2.poison, 0, false⟩

/-- A whole vector of flits that has arrived for the head enters the feeder queues. -/
theorem meshVectorArrive_enters (hh : (s.arr c).headCmd s.ac = some q) (hfeeds : q.feeds = true) (hsrc : q.desc'.src = true)
    (hm : q.fetched < q.desc'.m) (hfl : q.desc'.vflits q.isEw ≤ (s.arr c).flits.length)
    (hroom : (s.arr c).feeder.length + (s.arr c).lost < 16) : Gives (.meshVectorArrive c) s fun t =>
      (∃ v, (t.arr c).feeder = (s.arr c).feeder ++ [v] ∧ v.m = q.fetched ∧
        v.elems = (((s.arr c).flits.take (q.desc'.vflits q.isEw)).flatMap fun f => lineBytes f.2.payload).take
          (q.desc'.elemBytes q.isEw)) ∧
      (t.arr c).flits = (s.arr c).flits.drop (q.desc'.vflits q.isEw) ∧ OtherCores s c t := by
  set n := q.desc'.vflits q.isEw with hn
  set e := (((s.arr c).flits.take n).map Prod.fst).foldl max 0 + 1 with he
  have hnot : ¬(!q.desc'.src || !q.feeds || decide (q.desc'.m ≤ q.fetched) || decide ((s.arr c).flits.length < n)) = true := by
    simp [hsrc, hfeeds, hm, hfl]
  obtain ⟨⟨e', hin, -⟩, hflits, -, hother⟩ :=
    (s.onArr c fun a => a.flitsTaken n).enterVec_appends c q (q.meshVec ((s.arr c).flits.take n)) e
  rw [State.arr_onArr] at hin hflits
  rw [Arr.flitsTaken_feeder] at hin
  refine ⟨_, ?_, ⟨_, hin, rfl, rfl⟩, hflits, ((OtherCores.refl s c).onArr _).trans hother⟩
  rw [exec, execMeshVectorArrive]
  simp only [hh]
  rw [if_neg hnot, if_neg (Nat.not_le.mpr hroom)]
  rfl

end

end Sys2Proof.Machine
end

section
/-! SUPPORT. Releases, terms and check comparisons of a pass (O4). -/

namespace Sys2Proof.Machine

section
variable {s : State} {c : CoreId} {q : ArrCmd}

/-! ### Releases (R97, R98, R102) -/

/-- A command that feeds and has started is the one whose vectors leave. -/
theorem Arr.feeding_head {a : Arr} {rest : List ArrCmd} {r : Run} (hq : a.queue = q :: rest) (hs : q.started = true)
    (hfeeds : q.feeds = true) (hr : a.runs.getLast? = some r) : a.feeding = some (q, r) := by
  have hdeg : q.isDegenerate = false := by
    simp only [ArrCmd.feeds, Bool.and_eq_true, Bool.not_eq_true'] at hfeeds
    exact hfeeds.2
  simp [Arr.feeding, hq, hr, hs, hdeg]

/-- After the first release of a pass that is not BF16, a slot is due in every ac in which the array advances (R97, R98). -/
theorem State.due_slot {rest : List ArrCmd} {r : Run} {f h : Nat} (hq : (s.arr c).queue = q :: rest)
    (hs : q.started = true) (hh : q.headAt = some h) (hle : h ≤ s.ac) (hfeeds : q.feeds = true) (hbf : q.isBf = false)
    (hr : (s.arr c).runs.getLast? = some r) (hf : r.firstAt = some f) (hfz : (s.arr c).frozen s.ac = false)
    (hsl : (s.arr c).slotAc ≤ s.ac) : s.due c = (.slot, s.arr c) := by
  have hnot : ¬(s.ac < h ∨ (s.arr c).frozen s.ac = true ∨ (s.arr c).slotAc = s.ac + 1 ∨ (!q.feeds) = true) := by
    simp only [hfz, hfeeds, Bool.not_true, Bool.false_eq_true, or_false, false_or]
    omega
  simp only [State.due, hq, hh, Option.getD_some, if_neg hnot, Arr.feeding_head hq hs hfeeds hr, hf, hbf]
  rfl

/-- A change that leaves the newest run as it is changes nothing. -/
theorem Arr.onLastRun_same {a : Arr} {r : Run} (hr : a.runs.getLast? = some r) {f : Run → Run} (hf : f r = r) :
    a.onLastRun f = a := by
  simp only [Arr.onLastRun, hr, hf, List.dropLast_append_getLast? r hr]

/-- A change of the newest run changes nothing but the runs. -/
theorem Arr.onLastRun_frame (a : Arr) (f : Run → Run) : (a.onLastRun f).queue = a.queue ∧ (a.onLastRun f).slots = a.slots ∧
    (a.onLastRun f).feeder = a.feeder ∧ (a.onLastRun f).active = a.active ∧ (a.onLastRun f).lost = a.lost ∧
    (a.onLastRun f).frozenAc = a.frozenAc := by
  unfold Arr.onLastRun
  split
  · exact ⟨rfl, rfl, rfl, rfl, rfl, rfl⟩
  · exact ⟨rfl, rfl, rfl, rfl, rfl, rfl⟩

theorem State.refill_none (h : (s.arr c).lost = 0) : s.refill c = s := by
  simp only [State.refill, h]
  split
  · rfl
  · exact if_neg fun hlost => Nat.lt_irrefl 0 hlost.1

/-- A vector of a PASS that is not its last leaves the feeder queues as a slot under the active tiles (R97, R108). -/
theorem State.releaseVec_slot {r : Run} (v : Vec) (hlast : ¬r.released + 1 = q.desc'.m) (hl : (s.arr c).lost = 0) :
    ((s.releaseVec c q r v).arr c).feeder = (s.arr c).feeder.tail ∧
    ((s.releaseVec c q r v).arr c).slots = (s.arr c).slots ++
      [⟨r.serial, q, { v with poison := v.poison || v.bad }, (s.arr c).active, s.adv c, [], []⟩] ∧
    ((s.releaseVec c q r v).arr c).lastRel = s.ac ∧ ((s.releaseVec c q r v).arr c).queue = (s.arr c).queue ∧
    OtherCores s c (s.releaseVec c q r v) := by
  have hw : Within [.regs] s ((s.entryParity c v.bad).aflags c (feedFlags q v)) :=
    (s.entryParity_regs c v.bad).trans (State.aflags_regs _ c _)
  have harr := hw.regs_frame.2.2.1 c
  have hac := hw.regs_frame.1
  generalize hu : (s.entryParity c v.bad).aflags c (feedFlags q v) = u at hw harr hac
  rw [State.releaseVec]
  simp only [if_neg hlast, hu]
  obtain ⟨hqueue, hslots, hfeeder, hactive, hlost, hfrozen⟩ := (s.arr c).onLastRun_frame fun r =>
    { r with released := r.released + 1
             poison := r.poison || q.spoiled || (!q.isEw && (s.arr c).active.any fun l => l.tile.poison) }
  rw [State.refill_none]
  · simp only [State.arr_onArr, harr, hac, Arr.slotOut, Arr.advAt, hqueue, hslots, hfeeder, hactive, hfrozen]
    exact ⟨trivial, rfl, trivial, trivial, ((OtherCores.refl s c).ofRegs hw).onArr _⟩
  · rw [State.arr_onArr, harr]
    exact hlost.trans hl

/-- When a slot is due and its pass has begun, the vector that is ready leaves. -/
theorem exec_slotRelease {r : Run} {f : Nat} {v : Vec} (hdue : s.due c = (.slot, s.arr c))
    (hfeeding : (s.arr c).feeding = some (q, r)) (hr : (s.arr c).runs.getLast? = some r) (hf : r.firstAt = some f)
    (hready : (s.arr c).ready q s.ac = some v) : ∃ u, exec (.slotRelease c) s = .next (u.releaseVec c q r v) ∧
      u.arr c = s.arr c ∧ u.ac = s.ac ∧ OtherCores s c u := by
  have hexec : exec (.slotRelease c) s = execSlotRelease c s := rfl
  rw [execSlotRelease, hdue] at hexec
  simp only [State.arr_onArr, (State.onArr_frame _ _ _).1, Arr.onLastRun_same hr, hf, hfeeding, hready] at hexec
  refine ⟨_, hexec, ?_, ?_, ((OtherCores.refl s c).onArr _).onArr _⟩
  · simp only [State.arr_onArr, Arr.onLastRun_same hr, hf]
  · simp only [(State.onArr_frame _ _ _).1]

/-- A slot whose pass has begun leaves with the vector at the head of the feeder queues. -/
theorem slotRelease_releases {rest : List ArrCmd} {r : Run} {f h : Nat} {v : Vec} {vs : List Vec}
    (hq : (s.arr c).queue = q :: rest) (hs : q.started = true) (hh : q.headAt = some h) (hle : h ≤ s.ac)
    (hfeeds : q.feeds = true) (hew : q.isEw = false) (hbf : q.isBf = false) (hr : (s.arr c).runs.getLast? = some r)
    (hf : r.firstAt = some f) (hfz : (s.arr c).frozen s.ac = false) (hsl : (s.arr c).slotAc ≤ s.ac)
    (hv : (s.arr c).feeder = v :: vs) (hfrom : v.from_ < s.ac) (hlast : r.released + 1 < q.desc'.m)
    (hl : (s.arr c).lost = 0) : Gives (.slotRelease c) s fun t =>
      (t.arr c).feeder = vs ∧
      (t.arr c).slots = (s.arr c).slots ++
        [⟨r.serial, q, { v with poison := v.poison || v.bad }, (s.arr c).active, s.adv c, [], []⟩] ∧
      (t.arr c).lastRel = s.ac ∧ (t.arr c).queue = q :: rest ∧ OtherCores s c t := by
  have hready : (s.arr c).ready q s.ac = some v := by
    simp only [Arr.ready, hv, hew, if_neg (Nat.not_lt.mpr hfrom : ¬s.ac < v.from_ + 1)]
    rfl
  have hdue := State.due_slot hq hs hh hle hfeeds hbf hr hf hfz hsl
  obtain ⟨u, hexec, harr, hac, hother⟩ := exec_slotRelease hdue (Arr.feeding_head hq hs hfeeds hr) hr hf hready
  obtain ⟨hfeeder, hslots, hrel, hqueue, hother'⟩ := State.releaseVec_slot (s := u) (c := c) (q := q) v
    (Nat.ne_of_lt hlast) (by rw [harr]; exact hl)
  rw [harr] at hfeeder hslots hqueue
  refine ⟨_, hexec, by rw [hfeeder, hv]; rfl, ?_, hrel.trans hac, hqueue.trans hq, hother.trans hother'⟩
  rw [hslots, State.adv, State.adv, harr, hac]

/-! ### Terms (R70, R94) -/

theorem onFirst_head (sl : Slot) (rest : List Slot) (f : Slot → Slot) :
    onFirst (fun x => x == sl) f (sl :: rest) = f sl :: rest := by
  simp [onFirst]

/-- A slot with a term of a column more. -/
def Slot.withTerm (sl : Slot) (seg n : Nat) : Slot :=
  { sl with chain := Store.set [] sl.chain n (sl.formedOf n ++ [(seg, (sl.formTerm seg n).1)]) }

theorem Slot.formedOf_withTerm (sl : Slot) (seg n : Nat) :
    (sl.withTerm seg n).formedOf n = sl.formedOf n ++ [(seg, (sl.formTerm seg n).1)] :=
  Store.get_set_same ..

/-- The oldest slot that awaits a term, which is not its column's last, gets it with its flags. -/
theorem termFormation_forms {seg : Fin 8} {n : Fin 2048} {sl : Slot} {rest : List Slot}
    (hfz : (s.arr c).frozen s.ac = false) (hsl : (s.arr c).slots = sl :: rest)
    (hw : sl.wants seg.val n.val (s.adv c) = true) (hlen : (sl.formedOf n.val).length + 1 < sl.segs) :
    Gives (.termFormation c seg n false) s fun t =>
      (∃ sl' ∈ (t.arr c).slots, sl'.formedOf n.val = sl.formedOf n.val ++ [(seg.val, (sl.formTerm seg.val n.val).1)]) ∧
      t.reg (.mx c) 0x10 = (s.reg (.mx c) 0x10 ||| (sl.formTerm seg.val n.val).2) % 2 ^ 32 ∧ OtherCores s c t := by
  have hfind : (s.arr c).slots.find? (fun sl => sl.wants seg.val n.val (s.adv c)) = some sl := by
    rw [hsl]
    exact List.find?_cons_of_pos hw
  have hnot : ¬(sl.formedOf n.val ++ [(seg.val, (sl.formTerm seg.val n.val).1)]).length = sl.segs := by
    rw [List.length_append]; exact Nat.ne_of_lt hlen
  have hregs := s.aflags_regs c (sl.formTerm seg.val n.val).2
  have hexec : exec (.termFormation c seg n false) s = .next ((s.aflags c (sl.formTerm seg.val n.val).2).onArr c fun a =>
      { a with slots := onFirst (fun x => x == sl) (fun _ => sl.withTerm seg.val n.val) a.slots }) := by
    rw [exec, execTermFormation]
    simp only [hfz, hfind, if_neg hnot, Bool.false_eq_true, false_and, if_false]
    rfl
  refine ⟨_, hexec, ⟨sl.withTerm seg.val n.val, ?_, sl.formedOf_withTerm _ _⟩, by simp [State.aflags],
    ((OtherCores.refl s c).ofRegs hregs).onArr _⟩
  rw [State.arr_onArr, hregs.regs_frame.2.2.1 c]
  dsimp only
  rw [hsl, onFirst_head]
  exact List.mem_cons_self

/-! ### Comparisons (R121 to R123) -/

/-- A CHECK fault may write its log register, then sets its bit, is counted and poisons its run (R122, R123). -/
theorem State.checkFault_logs (s : State) (c : CoreId) (run m tap scaler : Nat) : ∃ u, Within [.regs] s u ∧
    (∀ o, o ≠ 0x14 → u.reg (.mx c) o = s.reg (.mx c) o) ∧ s.checkFault c run m tap scaler =
      ((u.mxFault c mxCheck).count (.mx c) 0x2C 1).onArr c fun a => a.onRun run fun r => { r with poison := true } := by
  refine ⟨_, .ite (fun _ => State.setReg_within _ _ _ (.refl _ _) (by simp)) fun _ => .refl _ _, fun o ho => ?_, rfl⟩
  split
  · rw [State.reg_setReg_off, if_neg ho]
  · rfl

theorem State.checkFault_leaves (s : State) (c : CoreId) (run m tap scaler : Nat) : let t := s.checkFault c run m tap scaler
    t.reg (.mx c) 0x08 = s.reg (.mx c) 0x08 ||| 1 ∧
    t.reg (.mx c) 0x2C = Nat.min (s.reg (.mx c) 0x2C + 1) 0xFFFFFFFF ∧
    t.arr c = (s.arr c).onRun run (fun r => { r with poison := true }) ∧ OtherCores s c t := by
  obtain ⟨u, hlog, hkept, heq⟩ := s.checkFault_logs c run m tap scaler
  have hregs : Within [.regs] s ((u.mxFault c mxCheck).count (.mx c) 0x2C 1) :=
    (hlog.trans (u.mxFault_regs c _)).trans (State.count_within _ _ _ (.refl _ _) (by simp))
  have hreg (t : State) (f : Arr → Arr) (o : Nat) : (t.onArr c f).reg (.mx c) o = t.reg (.mx c) o := by simp
  rw [heq]
  refine ⟨?_, ?_, (State.arr_onArr _ c _).trans (by rw [hregs.regs_frame.2.2.1 c]),
    ((OtherCores.refl s c).ofRegs hregs).onArr _⟩
  · rw [hreg, State.reg_count_off _ _ _ (by decide), State.reg_mxFault _ _ (by decide), if_pos rfl, hkept 0x08 (by decide)]
    rfl
  · rw [hreg, State.reg_count_sat _ (.mx c) 0x2C 1 rfl, State.reg_mxFault _ _ (by decide), if_neg (by decide),
      hkept 0x2C (by decide)]

theorem Arr.onRun_poisons (a : Arr) (n : Nat) :
    ∀ r ∈ (a.onRun n fun r => { r with poison := true }).runs, r.serial = n → r.poison = true := by
  intro r hr hn
  obtain ⟨r', hr', rfl⟩ := List.mem_map.mp hr
  by_cases h : r'.serial = n
  · rw [if_pos h]
  · rw [if_neg h] at hn
    exact absurd hn h

/-- A slot with one comparison more. -/
def Slot.compared (sl : Slot) (key : Nat × Nat) : Slot := { sl with checks := sl.checks ++ [key] }

theorem exec_checkCompare {seg : Fin 8} {tap : BitVec 3} (error : Int) {sl : Slot} {rest : List Slot}
    (hfz : (s.arr c).frozen s.ac = false) (hsl : (s.arr c).slots = sl :: rest)
    (htap : (seg.val, tap.toNat) ∈ sl.checkTaps) (hnew : (seg.val, tap.toNat) ∉ sl.checks)
    (hat : sl.at_ + (16 * tap.toNat + 15) % shapeH sl.cmd.desc'.shape + 130 ≤ s.adv c) :
    exec (.checkCompare c seg tap error) s = .next (
      let u := s.onArr c fun a => { a with slots := onFirst (fun x => x == sl) (Slot.compared · (seg.val, tap.toNat)) a.slots }
      if (sl.checkSums tap.toNat).1 + BitVec.ofInt 72 error ≠ (sl.checkSums tap.toNat).2
      then u.checkFault c sl.run sl.vec.m tap.toNat 0 else u) := by
  have hfind : (s.arr c).slots.find? (fun sl => sl.checkTaps.contains (seg.val, tap.toNat) &&
      !sl.checks.contains (seg.val, tap.toNat) &&
      decide (sl.at_ + (16 * tap.toNat + 15) % shapeH sl.cmd.desc'.shape + 130 ≤ s.adv c)) = some sl := by
    rw [hsl, List.find?_cons_of_pos]
    simp [htap, hnew, hat]
  rw [exec, execCheckCompare]
  simp only [hfz, hfind, Bool.false_eq_true, if_false]
  rfl

theorem checkCompare_compares {seg : Fin 8} {tap : BitVec 3} {error : Int} {sl : Slot} {rest : List Slot}
    (hfz : (s.arr c).frozen s.ac = false) (hsl : (s.arr c).slots = sl :: rest)
    (htap : (seg.val, tap.toNat) ∈ sl.checkTaps) (hnew : (seg.val, tap.toNat) ∉ sl.checks)
    (hat : sl.at_ + (16 * tap.toNat + 15) % shapeH sl.cmd.desc'.shape + 130 ≤ s.adv c) :
    ((sl.checkSums tap.toNat).1 + BitVec.ofInt 72 error ≠ (sl.checkSums tap.toNat).2 →
      Gives (.checkCompare c seg tap error) s fun t =>
        t.reg (.mx c) 0x08 = s.reg (.mx c) 0x08 ||| 1 ∧
        t.reg (.mx c) 0x2C = Nat.min (s.reg (.mx c) 0x2C + 1) 0xFFFFFFFF ∧
        (∀ r ∈ (t.arr c).runs, r.serial = sl.run → r.poison = true) ∧ OtherCores s c t) ∧
    ((sl.checkSums tap.toNat).1 + BitVec.ofInt 72 error = (sl.checkSums tap.toNat).2 →
      Gives (.checkCompare c seg tap error) s fun t =>
        (t.arr c).slots = { sl with checks := sl.checks ++ [(seg.val, tap.toNat)] } :: rest ∧ t.regs = s.regs ∧
        (t.arr c).runs = (s.arr c).runs ∧ OtherCores s c t) := by
  have hexec := exec_checkCompare error hfz hsl htap hnew hat
  have hother := (OtherCores.refl s c).onArr fun a =>
    { a with slots := onFirst (fun x => x == sl) (Slot.compared · (seg.val, tap.toNat)) a.slots }
  constructor
  · intro hne
    rw [Gives, hexec, if_pos hne]
    obtain ⟨hfault, hcount, harr, hother'⟩ := (s.onArr c fun a =>
      { a with slots := onFirst (fun x => x == sl) (Slot.compared · (seg.val, tap.toNat)) a.slots }).checkFault_leaves c
        sl.run sl.vec.m tap.toNat 0
    refine ⟨_, rfl, hfault, hcount, ?_, hother.trans hother'⟩
    rw [harr]
    exact Arr.onRun_poisons _ _
  · intro heq
    rw [Gives, hexec, if_neg (not_not.mpr heq)]
    refine ⟨_, rfl, ?_, rfl, ?_, hother⟩
    · rw [State.arr_onArr]
      dsimp only
      rw [hsl, onFirst_head]
      rfl
    · rw [State.arr_onArr]

end

end Sys2Proof.Machine
end

section
/-! SUPPORT. Drain writes into partial-sum memory (O4). -/

namespace Sys2Proof.Machine

section
variable {s : State} {c : CoreId} {r : Run} {e : Drain}

/-- A write of a partial-sum word changes that word, its poison bit and its code (R358). -/
theorem State.psmWrite_leaves (s : State) (c : CoreId) (w : Nat) (v : W128) (p : Bool) : let t := s.psmWrite c w v p
    t.psmPois c w = p ∧ (∀ w', w' ≠ w → t.psmWord c w' = s.psmWord c w') ∧
    (∀ c', t.core c' = s.core c') ∧ t.am = s.am ∧ t.ws = s.ws := by
  refine ⟨?_, fun w' h => ?_, fun _ => rfl, rfl, rfl⟩
  · rw [State.psmWrite, State.psmPois_psmSet, if_pos rfl]
  · exact State.psmWord_psmSet_ne _ c v p h

/-- What a drain write leaves in its word, with its poison bit: the contribution alone where it is the first of a run with
acc = 0, else the sum (R70, R82). -/
def State.drainSum (s : State) (c : CoreId) (r : Run) (e : Drain) : W128 × Bool :=
  if r.cmd.desc'.acc || Store.get false r.words e.word
  then (s.psmWord c e.word + e.val, e.poison || s.psmPois c e.word) else (e.val, e.poison)

/-- A drain write leaves its sum in its word and every other word as it was (R70, R74, R82, R358). -/
theorem State.drainWord_leaves (r : Run) (hfp : e.fp32 = false) (he : s.psmErr = []) : let t := s.drainWord c r e
    (t.psmWord c e.word, t.psmPois c e.word) = s.drainSum c r e ∧ (∀ w, w ≠ e.word → t.psmWord c w = s.psmWord c w) ∧
    (∀ c', t.core c' = s.core c') ∧ t.am = s.am ∧ t.ws = s.ws := by
  have hwrite : s.drainWord c r e = s.psmWrite c e.word (s.drainSum c r e).1 (s.drainSum c r e).2 := by
    rw [State.drainWord, State.drainSum, ← Bool.not_or]
    by_cases hadd : (r.cmd.desc'.acc || Store.get false r.words e.word) = true
    · simp [hadd, hfp, State.psmAdd, s.psmRead_sound c _ he]
    · simp [hadd]
  obtain ⟨hpois, hframe⟩ := s.psmWrite_leaves c e.word (s.drainSum c r e).1 (s.drainSum c r e).2
  rw [hwrite]
  exact ⟨Prod.ext (State.psmWord_psmWrite_same ..) hpois, hframe⟩

/-- In a word without an error no write waits for a correction (R111). -/
theorem State.drainCorrects_sound (he : s.psmErr = []) : s.drainCorrects c r e = false := by
  simp [State.drainCorrects, State.psmErrs, errsIn, he]

/-- Noting the use of a word and checking the parity of an entry leave the words, the array and the other cores. -/
theorem State.psmNote_frame (s : State) (c : CoreId) (w : Nat) (k : PsmKind) (bad : Bool) :
    let t := (s.psmNote c w k).entryParity c bad
    t.psmErr = s.psmErr ∧ (∀ w', t.psmWord c w' = s.psmWord c w') ∧ (∀ w', t.psmPois c w' = s.psmPois c w') ∧
    t.arr c = s.arr c ∧ OtherCores s c t := by
  obtain ⟨-, -, harr, herr, -, hword, hpois⟩ := (s.psmNote c w k).entryParity_frame c bad
  refine ⟨herr, hword c, hpois c, (harr c).trans ?_,
    ((OtherCores.refl s c).setCore _).ofRegs (State.entryParity_regs _ c bad)⟩
  simp [State.psmNote, State.arr]

/-- A drain buffer's oldest entry that is due is written, and the entry leaves its buffer. -/
theorem exec_drainWrite {col : Fin 128} {tap : BitVec 3} (hp : s.drainPick c tap.toNat col.val = some e)
    (hr : ((s.arr c).runs.find? fun r => r.serial == e.run) = some r) (he : s.psmErr = [])
    (hn : (s.core c).psmNow = []) : ∃ f : Arr → Arr, (∀ a, (f a).drains = a.drains.erase e) ∧
      exec (.drainWrite c col tap) s = .next ((((s.psmNote c e.word .drain).entryParity c e.bad).drainWord c r
        { e with poison := e.poison || e.bad }).onArr c f) := by
  rw [exec, execDrainWrite]
  simp only [hp, hr, State.drainCorrects_sound he, State.psmMeet, hn, List.any_nil, Bool.or_false,
    Bool.false_eq_true, if_false]
  exact ⟨_, fun _ => rfl, rfl⟩

theorem drainWrite_adds {col : Fin 128} {tap : BitVec 3} (hp : s.drainPick c tap.toNat col.val = some e)
    (hr : ((s.arr c).runs.find? fun r => r.serial == e.run) = some r) (hfp : e.fp32 = false) (he : s.psmErr = [])
    (hn : (s.core c).psmNow = []) : Gives (.drainWrite c col tap) s fun t =>
      (r.cmd.desc'.acc = true ∨ Store.get false r.words e.word = true →
        t.psmWord c e.word = s.psmWord c e.word + e.val ∧
        t.psmPois c e.word = (e.poison || e.bad || s.psmPois c e.word)) ∧
      (r.cmd.desc'.acc = false → Store.get false r.words e.word = false →
        t.psmWord c e.word = e.val ∧ t.psmPois c e.word = (e.poison || e.bad)) ∧
      (∀ w, w ≠ e.word → t.psmWord c w = s.psmWord c w) ∧ (t.arr c).drains = (s.arr c).drains.erase e ∧
      (∀ c', c' ≠ c → t.core c' = s.core c') ∧ t.am = s.am ∧ t.ws = s.ws := by
  obtain ⟨f, hdrains, hexec⟩ := exec_drainWrite hp hr he hn
  obtain ⟨herr, hword, hpois, harr, hcore, ham, hws, -⟩ := s.psmNote_frame c e.word .drain e.bad
  generalize (s.psmNote c e.word .drain).entryParity c e.bad = u at hexec herr hword hpois harr hcore ham hws
  obtain ⟨hsum, hne, hcore', ham', hws'⟩ := State.drainWord_leaves (s := u) (c := c)
    (e := { e with poison := e.poison || e.bad }) r hfp (herr.trans he)
  generalize u.drainWord c r { e with poison := e.poison || e.bad } = v at hexec hsum hne hcore' ham' hws'
  have hpsm w : (v.onArr c f).psmWord c w = v.psmWord c w ∧ (v.onArr c f).psmPois c w = v.psmPois c w := by simp
  obtain ⟨hcore'', ham'', hws'', -⟩ := (OtherCores.refl v c).onArr f
  rw [State.drainSum, hword, hpois] at hsum
  refine ⟨_, hexec, fun hadd => ?_, fun hacc hfirst => ?_, fun w hw => (hpsm w).1.trans ((hne w hw).trans (hword w)), ?_,
    fun c' hc => (hcore'' c' hc).trans ((hcore' c').trans (hcore c' hc)), ham''.trans (ham'.trans ham),
    hws''.trans (hws'.trans hws)⟩
  · rw [(hpsm _).1, (hpsm _).2]
    exact Prod.mk.inj (hsum.trans (if_pos (by simpa using hadd)))
  · rw [(hpsm _).1, (hpsm _).2]
    exact Prod.mk.inj (hsum.trans (if_neg (by simp [hacc, hfirst])))
  · rw [State.arr_onArr, hdrains, ← harr]
    exact congrArg (fun k => k.arr.drains.erase e) (hcore' c)

end

/-- Settles O4, clause by clause. -/
theorem feedersReleasesAndTermsFollowThePass : Obligations.FeedersReleasesAndTermsFollowThePass :=
  ⟨fun _ _ _ => feederFetch_takesX, fun _ _ _ _ => feederFetch_takesY, fun _ _ _ => meshVectorArrive_enters,
    fun _ _ _ _ _ _ _ _ _ => slotRelease_releases, fun _ _ _ _ _ _ => termFormation_forms,
    fun _ _ _ _ _ _ _ => checkCompare_compares, fun _ _ _ _ _ _ => drainWrite_adds⟩

end Sys2Proof.Machine
end

section
/-! SUPPORT. What accesses to its memories leave of a core, and the wide operand of a V instruction (O5 to O7). -/

namespace Sys2Proof.Machine

/-! ### What an access to a memory leaves of its core (R346, R351, R357) -/

section
variable {s t u : State} {c : CoreId}

/-- Accesses to its memories leave of a core what it held, but for the lanes taken, the uses of words, the log of
corrections and the mark of the step. -/
def Accessed (s : State) (c : CoreId) (t : State) : Prop :=
  ∃ use uses log p, t.core c = { s.core c with amUse := use, psmNow := uses, ceLog := log, poisoned := p }

theorem Accessed.of_core (h : t.core c = s.core c) : Accessed s c t :=
  ⟨(s.core c).amUse, (s.core c).psmNow, (s.core c).ceLog, (s.core c).poisoned, h⟩

theorem Accessed.of_within {P : List Part} (h : Within P s t) (hp : .cores ∉ P) : Accessed s c t := .of_core (h.core hp c)

theorem Accessed.refl (s : State) (c : CoreId) : Accessed s c s := .of_core rfl

theorem Accessed.trans (h : Accessed s c t) (g : Accessed t c u) : Accessed s c u := by
  obtain ⟨_, _, _, _, h⟩ := h
  obtain ⟨use, uses, log, p, g⟩ := g
  exact ⟨use, uses, log, p, by rw [g, h]⟩

theorem Accessed.foldl {α : Type} {f : State → α → State} (hf : ∀ s a, Accessed s c (f s a)) (l : List α) (s : State) :
    Accessed s c (l.foldl f s) := by
  induction l generalizing s with
  | nil => exact .refl s c
  | cons a l ih => exact (hf s a).trans (ih _)

/-- The results on their way and the mask registers stand as before. -/
theorem Accessed.vector (h : Accessed s c t) : (t.core c).vres = (s.core c).vres ∧ (t.core c).vm = (s.core c).vm := by
  obtain ⟨_, _, _, _, h⟩ := h
  simp [h]

end

section
variable (s : State) (c : CoreId)

theorem Accessed.markStep : Accessed s c (s.markStep c) := ⟨_, _, _, true, s.core_onCore c _⟩

theorem Accessed.memErr (bit : Nat) : Accessed s c (s.memErr c bit) :=
  .of_within (P := [.regs]) (State.memErr_within c bit (.refl _ _) (by simp)) (by simp)

theorem Accessed.logCe (kind nb addr : Nat) : Accessed s c (s.logCe c kind nb addr) := by
  have hcount : Accessed s c (s.count (.mx c) 0x50 1) :=
    .of_within (P := [.regs]) (State.count_within _ _ _ (.refl _ _) (by simp)) (by simp)
  rw [State.logCe]
  refine hcount.trans ?_
  split
  · exact ⟨_, _, _, _, State.core_onCore _ c _⟩
  · exact .memErr _ c 6

theorem Accessed.logUce (kind addr : Nat) : Accessed s c (s.logUce c kind addr) :=
  .of_within (P := [.regs]) (State.logUce_within c kind addr (.refl _ _) (by simp)) (by simp)

theorem Accessed.amConflict : Accessed s c (s.amConflict c) := (Accessed.memErr s c 4).trans (.markStep _ c)

theorem Accessed.claim (at_ mask : Nat) : Accessed s c (s.claim c at_ mask).1 := by
  unfold State.claim
  split
  · exact .refl s c
  · exact ⟨_, _, _, _, State.core_onCore _ c _⟩

theorem Accessed.amReadWord (e : Nat × MemErr) : Accessed s c (s.amReadWord c e) := by
  unfold State.amReadWord
  dsimp only
  split
  · exact .refl s c
  · exact .logCe s c _ _ _
  · exact (Accessed.logUce s c _ _).trans
      (.of_within (P := [.am]) (State.setAmPois_within _ _ _ (.refl _ _) (by simp)) (by simp))

theorem Accessed.amRead (a n : Nat) : Accessed s c (s.amRead c a n).1 := .foldl (fun s e => .amReadWord s c e) _ s

theorem Accessed.amWrite (a : Nat) (b : List Byte) (p : Bool) : Accessed s c (s.amWrite c a b p) := by
  have hword (t : State) (e : Nat × MemErr) : Accessed t c (t.amWriteWord c a b.length e) := by
    refine Accessed.trans ?_ (.of_within (P := [.am]) (State.setAmErr_within _ _ (.refl _ _) (by simp)) (by simp))
    split
    · exact .refl t c
    · exact .amReadWord t c e
  have hmarks (t : State) : Within [.am] t (t.amMarks c a b.length p) :=
    .foldl _ _ (.refl _ _) fun _ _ h => .ite (fun _ => State.setAmPois_within _ _ _ h (by simp)) fun _ =>
      .ite (fun _ => State.setAmPois_within _ _ _ h (by simp)) fun _ => h
  rw [State.amWrite_eq]
  exact (Accessed.foldl hword _ s).trans (.of_within (State.amSet_within _ _ _ (hmarks _) (by simp)) (by simp))

theorem Accessed.psmNote (w : Nat) (k : PsmKind) : Accessed s c (s.psmNote c w k) := ⟨_, _, _, _, State.core_onCore _ c _⟩

theorem Accessed.psmDecode (es : List (Nat × MemErr)) : Accessed s c (s.psmDecode c es).1 := by
  refine .foldl (fun t e => ?_) es s
  split
  · exact .refl t c
  · exact .logCe t c _ _ _
  · exact .logUce t c _ _

theorem Accessed.psmReadOld (w : Nat) : Accessed s c (s.psmReadOld c w).1 := by
  unfold State.psmReadOld
  split
  · exact .psmDecode s c _
  · exact .psmDecode s c _

theorem Accessed.vflags (mask : Nat) : Accessed s c (s.vflags c mask) :=
  .of_within (P := [.regs]) (State.vflags_within c mask (.refl _ _) (by simp)) (by simp)

theorem Accessed.aflags (mask : Nat) : Accessed s c (s.aflags c mask) :=
  .of_within (P := [.regs]) (State.aflags_within c mask (.refl _ _) (by simp)) (by simp)

end

/-! ### The wide operand (R152, R153, R155) -/

section
variable (s : State) (c : CoreId)

/-- The words of a vector read of partial-sum memory, one after the other, with their poison (R155). -/
def State.vreadWords (w : Nat) (l : List Nat) (a : State × List W128 × Bool) : State × List W128 × Bool :=
  l.foldl (fun a j =>
    let (s, x, q) := a.1.psmReadOld c (w + j)
    (s, a.2.1 ++ [x], a.2.2 || q)) a

theorem State.vreadWords_accessed (w : Nat) (l : List Nat) (a : State × List W128 × Bool) :
    Accessed a.1 c (State.vreadWords c w l a).1 ∧ (State.vreadWords c w l a).2.1.length = a.2.1.length + l.length := by
  induction l generalizing a with
  | nil => exact ⟨.refl .., rfl⟩
  | cons j l ih =>
    obtain ⟨hacc, hlen⟩ := ih ((a.1.psmReadOld c (w + j)).1, a.2.1 ++ [(a.1.psmReadOld c (w + j)).2.1],
      a.2.2 || (a.1.psmReadOld c (w + j)).2.2)
    refine ⟨(Accessed.psmReadOld a.1 c (w + j)).trans hacc, hlen.trans ?_⟩
    simp only [List.length_append, List.length_cons, List.length_nil]
    omega

/-- A read of the wide operand delivers 256 lanes, and is an access to the memories of its core. -/
theorem State.wideLanes_accessed (v : VSlot) (m : Nat → Bool) :
    Accessed s c (s.wideLanes c v m).1 ∧ (s.wideLanes c v m).2.1.length = 256 := by
  unfold State.wideLanes
  split
  case isTrue =>
    dsimp only
    refine ⟨.trans ?_ (.vflags ..), by simp⟩
    generalize laneMask _ _ ||| _ = mask
    have hclaim := Accessed.claim s c s.ac mask
    generalize s.claim c s.ac mask = r at hclaim ⊢
    obtain ⟨t, _ | _⟩ := r
    · exact hclaim.trans (.amConflict t c)
    · refine (hclaim.trans (.amRead t c v.amA (planeBytes v.amF))).trans ?_
      dsimp only
      split
      · exact .refl ..
      · exact .amRead ..
  case isFalse =>
    obtain ⟨hacc, hlen⟩ := State.vreadWords_accessed c v.psmW (List.range 256) (s.psmNote c v.psmW .vread, [], false)
    unfold State.vreadWords at hacc hlen
    dsimp only at hacc hlen ⊢
    generalize List.foldl _ (s.psmNote c v.psmW .vread, [], false) (List.range 256) = x at hacc hlen ⊢
    have hacc : Accessed s c x.1 := (Accessed.psmNote ..).trans hacc
    have hlen : x.2.1.length = 256 := by simpa using hlen
    split
    · exact ⟨hacc, by simp [hlen]⟩
    · refine ⟨.trans ?_ (.vflags ..), by simp [hlen]⟩
      split
      · exact hacc.trans (.aflags ..)
      · exact hacc

end

end Sys2Proof.Machine
end

section
/-! SUPPORT. Sources, results and lane-wise operations of the vector unit (O5). -/

namespace Sys2Proof.Machine

/-! ### The sources of an instruction (R152, R161) -/

/-- The state in which an instruction has read its wide operand, with the operand. -/
def State.vRead (s : State) (c : CoreId) (op : VOp) (v : VSlot) : State × List Nat × Bool :=
  if op.wide v then s.wideLanes c v (s.vMask c op v) else (s, [], false)

/-- The lanes and the poison of a source, as the operation reads them. -/
def State.vSrc (s : State) (c : CoreId) (op : VOp) (v : VSlot) (x : BitVec 11) : List Nat × Bool :=
  (s.vRead c op v).1.srcLanes c v (s.vRead c op v).2 x

theorem srcMode_lt (x : BitVec 11) : srcMode x < 4 := Nat.mod_lt _ (by decide)

section
variable (s : State) (c : CoreId) (op : VOp) (v : VSlot)

theorem State.vRead_accessed : Accessed s c (s.vRead c op v).1 := by
  unfold State.vRead
  split
  · exact (s.wideLanes_accessed c v _).1
  · exact .refl s c

theorem State.vRead_within : Within [.regs, .am, .cores] s (s.vRead c op v).1 := by
  unfold State.vRead
  split
  · exact State.wideLanes_within c v _ (.refl _ _) (by simp) (by simp) (by simp)
  · exact .refl _ _

/-- What a read of the wide operand leaves: the time, the results on their way and the mask registers. -/
@[simp] theorem State.vRead_frame : let t := (s.vRead c op v).1
    t.ac = s.ac ∧ (t.core c).vres = (s.core c).vres ∧ (t.core c).vm = (s.core c).vm :=
  ⟨(s.vRead_within c op v).1.2.1, (s.vRead_accessed c op v).vector⟩

/-- A source in a tile buffer or an immediate does not see the read of the wide operand. -/
theorem State.srcLanes_congr {s t : State} (h : Within [.regs, .am, .cores] s t) (w w' : List Nat × Bool) {x : BitVec 11}
    (hx : srcMode x ≠ 3) : t.srcLanes c v w x = s.srcLanes c v w' x := by
  obtain ⟨htb, hpois⟩ := h.part .tb (by simp)
  have hlt := srcMode_lt x
  simp only [State.srcLanes, State.tbRow, State.tbLane, State.tbPois, htb, hpois]
  split_ifs with h0 h1 h2
  · rfl
  · rfl
  · rfl
  · omega

theorem State.srcLanes_length (w : List Nat × Bool) {x : BitVec 11} (hx : srcMode x ≠ 3) :
    (s.srcLanes c v w x).1.length = 256 := by
  have hlt := srcMode_lt x
  unfold State.srcLanes
  split_ifs with h0 h1 h2
  · exact (List.length_map ..).trans List.length_range
  · exact List.length_replicate
  · exact List.length_replicate
  · omega

theorem State.srcLanes_wide (w : List Nat × Bool) {x : BitVec 11} (hx : srcMode x = 3) : s.srcLanes c v w x = w := by
  simp [State.srcLanes, hx]

/-- A source is what `vSource` says of it. -/
theorem vSrc_eq_vSource {x : BitVec 11} (hx : x ∈ op.sources v) : (vIssue s c).vSrc c op v x = vSource s c op v x := by
  by_cases h3 : srcMode x = 3
  · have hw : op.wide v = true := List.any_eq_true.2 ⟨x, hx, by simp [h3]⟩
    simp only [State.vSrc, State.srcLanes_wide _ _ _ _ h3, State.vRead, hw, vSource, h3, if_true]
  · simp only [State.vSrc, vSource, h3, if_false]
    exact State.srcLanes_congr c v ((vIssue s c).vRead_within c op v) _ _ h3

theorem vSource_length (x : BitVec 11) : (vSource s c op v x).1.length = 256 := by
  unfold vSource
  dsimp only
  split
  · exact ((vIssue s c).wideLanes_accessed c v _).2
  · next h3 => exact State.srcLanes_length _ c v _ h3

theorem vPoison_eq : (op.sources v).any (fun x => ((vIssue s c).vSrc c op v x).2) = vPoison s c op v := by
  unfold vPoison
  rw [Bool.eq_iff_iff, List.any_eq_true, List.any_eq_true]
  exact exists_congr fun x => and_congr_right fun hx => by rw [vSrc_eq_vSource s c op v hx]

/-- The lanes of source `n`; an absent source holds zeros, which are not used. -/
def vSrcLanes (s : State) (c : CoreId) (op : VOp) (v : VSlot) (n : Nat) : List Nat :=
  ((op.sources v)[n]?.map fun x => (vSource s c op v x).1).getD (List.replicate 256 0)

theorem vSrcLanes_length (n : Nat) : (vSrcLanes s c op v n).length = 256 := by
  unfold vSrcLanes
  cases (op.sources v)[n]? with
  | none => exact List.length_replicate
  | some x => exact vSource_length s c op v x

theorem vSrcLanes_getElem? (n : Nat) {j : Nat} (hj : j < 256) : (vSrcLanes s c op v n)[j]? = some (vLane s c op v n j) := by
  unfold vSrcLanes vLane
  cases (op.sources v)[n]? with
  | none => exact List.getElem?_replicate_of_lt hj
  | some x => simp [List.getD, vSource_length s c op v x, hj]

theorem vSrcLanes_eq (n : Nat) : vSrcLanes s c op v n = (List.range 256).map (vLane s c op v n) := by
  refine List.ext_getElem? fun j => ?_
  by_cases hj : j < 256
  · simp [vSrcLanes_getElem? s c op v n hj, hj]
  · simp [vSrcLanes_length, hj]

end

/-! ### Results on their way (R157, R159) -/

section
variable (s : State) (c : CoreId)

@[simp] theorem State.vres_addRes (due : Nat) (d : VDest) (l : List (Option Word32)) (p : Bool) :
    ((s.addRes c due d l p).core c).vres = (s.core c).vres ++ [⟨due, 0, d, l, p⟩] := by
  simp [State.addRes]

@[simp] theorem State.ac_addRes (due : Nat) (d : VDest) (l : List (Option Word32)) (p : Bool) :
    (s.addRes c due d l p).ac = s.ac := rfl

@[simp] theorem State.vres_rowRes (op : VOp) (v : VSlot) (row : Nat) (m : Nat → Bool) (xs : List Nat) (p : Bool) :
    ((s.rowRes c op v row m xs p).core c).vres =
      (s.core c).vres ++ [⟨s.ac + op.lambda v, 0, .row v.dstB row, resLanes (v.zm && op != .sel) m xs, p⟩] :=
  s.vres_addRes c ..

@[simp] theorem State.ac_rowRes (op : VOp) (v : VSlot) (row : Nat) (m : Nat → Bool) (xs : List Nat) (p : Bool) :
    (s.rowRes c op v row m xs p).ac = s.ac := rfl

@[simp] theorem State.vflags_core (mask : Nat) (c' : CoreId) : (s.vflags c mask).core c' = s.core c' := rfl
@[simp] theorem State.vflags_ac (mask : Nat) : (s.vflags c mask).ac = s.ac := rfl

theorem resLanes_getElem? (zm : Bool) (m : Nat → Bool) (xs : List Nat) (j : Nat) :
    (resLanes zm m xs)[j]? =
      xs[j]?.map fun x => if m j then some (BitVec.ofNat 32 x) else if zm then some 0 else none := by
  simp only [resLanes, List.getElem?_map, List.getElem?_zipIdx, Option.map_map, Nat.zero_add]
  rfl

/-- The row result of a list of lanes. -/
theorem rowResult_of_lanes (op : VOp) (v : VSlot) (row : Nat) {xs : List Nat} {val : Nat → Nat} (hlen : xs.length = 256)
    (hval : ∀ j < 256, (vIssue s c).vMask c op v j = true → xs.getD j 0 = val j) :
    RowResult s c op v row val ⟨s.ac + op.lambda v, 0, .row v.dstB row,
      resLanes (v.zm && op != .sel) ((vIssue s c).vMask c op v) xs, vPoison s c op v⟩ := by
  refine ⟨rfl, rfl, rfl, by simp [resLanes, hlen], fun j hj => ?_⟩
  rw [resLanes_getElem?, List.getElem?_eq_getElem (hlen ▸ hj), Option.map_some, laneOut]
  split
  · next hm => rw [← hval j hj hm, List.getD_eq_getElem _ _ (hlen ▸ hj)]
  · rfl

@[simp] theorem vIssue_ac : (vIssue s c).ac = s.ac := by
  have hdue : Within [.regs, .am, .tb, .cores] (s.useSlots c (2 ^ sV)) ((s.useSlots c (2 ^ sV)).vresDue c) :=
    State.vresDue_within c (.refl _ _) (by simp) (by simp) (by simp) (by simp)
  rw [vIssue, (State.count_frame _ _ _ _).2.1, hdue.1.2.1]
  rfl

end

/-! ### Issue of a V instruction (R180, R184, R252, R272) -/

section
variable {s : State} {c : CoreId} {op : VOp} {v : VSlot}

theorem exec_vInstr (s : State) (c : CoreId) (op : VOp) (v : VSlot) :
    exec (vInstr op c v) s = .next (s.ifRuns c sV fun s => s.vOp c op v) := by
  cases op <;> rfl

/-- An instruction without a fault runs on the state of its issue. -/
theorem vInstr_runs (h : VReady s c op v) : exec (vInstr op c v) s = .next ((vIssue s c).vRun c op v) := by
  obtain ⟨hfree, hill, hform, haddr⟩ := h
  rw [exec_vInstr, State.ifRuns_free hfree, State.vOp, if_neg (by simp [hill]), if_neg (by simp [hform, haddr])]
  rfl

end

/-! ### Lane-wise operations (R165, R166) -/

section
variable (s : State) (c : CoreId) (op : VOp) (v : VSlot)

/-- What a lane-wise operation delivers in each lane; a masked lane delivers nothing and raises no flag. -/
def laneResults (s : State) (c : CoreId) (op : VOp) (v : VSlot) : List VR :=
  let d := vIssue s c
  (List.range 256).map fun j => if d.vMask c op v j then
    op.lane v ((Store.get 0 (d.core c).vm v.maskK.toNat).getLsbD j) (vLane s c op v 0 j) (vLane s c op v 1 j)
      (vLane s c op v 2 j) else ⟨0, 0⟩

/-- An instruction with sources has one, two or three (R269). -/
theorem VOp.sources_cases {op : VOp} (hr : op ≠ .rand) (v : VSlot) :
    op.sources v = [v.a] ∨ op.sources v = [v.a, v.b] ∨ op.sources v = [v.a, v.b, v.c] := by
  cases op <;> simp_all [VOp.sources]

/-- The lanes of the sources, as the operation names them. -/
theorem vSrcLanes_sources (hr : op ≠ .rand) :
    ((vIssue s c).vSrc c op v v.a).1 = vSrcLanes s c op v 0 ∧
    (if (op.sources v).length < 2 then List.replicate 256 0 else ((vIssue s c).vSrc c op v v.b).1) = vSrcLanes s c op v 1 ∧
    (if (op.sources v).length < 3 then List.replicate 256 0 else ((vIssue s c).vSrc c op v v.c).1) = vSrcLanes s c op v 2 := by
  have hsrc (x : BitVec 11) (hx : x ∈ op.sources v) := congrArg Prod.fst (vSrc_eq_vSource s c op v hx)
  unfold vSrcLanes
  rcases VOp.sources_cases hr v with h | h | h <;> rw [h] at hsrc ⊢ <;> simp [hsrc, -List.reduceReplicate]

/-- The sources of a lane-wise operation, lane by lane. -/
theorem laneResults_zip : let d := vIssue s c
    laneResults s c op v = (List.zip (vSrcLanes s c op v 0) (List.zip (vSrcLanes s c op v 1) (vSrcLanes s c op v 2))).zipIdx.map
      fun x => if d.vMask c op v x.2 then
        op.lane v ((Store.get 0 (d.core c).vm v.maskK.toNat).getLsbD x.2) x.1.1 x.1.2.1 x.1.2.2 else ⟨0, 0⟩ := by
  refine List.ext_getElem? fun j => ?_
  by_cases hj : j < 256
  · simp [laneResults, hj, vSrcLanes_eq, List.zip_map']
  · simp [laneResults, hj, vSrcLanes_length]

end

section
variable (s : State) (c : CoreId) (op : VOp) (v : VSlot)

theorem State.vRun_lanes (d : State) (h : op.laneWise v = true) : let u := (d.vRead c op v).1
    let rs := (List.zip (d.vSrc c op v v.a).1
        (List.zip (if (op.sources v).length < 2 then List.replicate 256 0 else (d.vSrc c op v v.b).1)
          (if (op.sources v).length < 3 then List.replicate 256 0 else (d.vSrc c op v v.c).1))).zipIdx.map fun x =>
      if d.vMask c op v x.2 then
        op.lane v ((Store.get 0 (u.core c).vm v.maskK.toNat).getLsbD x.2) x.1.1 x.1.2.1 x.1.2.2 else ⟨0, 0⟩
    let t := (u.vflags c (rs.foldl (fun n r => n ||| r.fl) 0)).rowRes c op v v.dstR (d.vMask c op v) (rs.map VR.bits)
      ((op.sources v).any fun x => (d.vSrc c op v x).2)
    d.vRun c op v = if op == .cmp then t.addRes c (t.ac + op.lambda v) (.mask v.cmpVm)
      (rs.zipIdx.map fun x => some (if d.vMask c op v x.2 && x.1.bits == fpOne then 1 else 0)) false else t := by
  have ham : op.toAm v = false := by cases op <;> simp_all [VOp.toAm, VOp.laneWise]
  unfold State.vRun
  dsimp only
  split
  case h_5 => exact if_neg (by simp [ham])
  all_goals cases h

/-- The mask register that VCMP writes: 1 in the evaluated lanes whose result is 1.0 (R166). -/
def cmpLanes (s : State) (c : CoreId) (op : VOp) (v : VSlot) : List (Option Word32) :=
  (laneResults s c op v).zipIdx.map fun x => some (if (vIssue s c).vMask c op v x.2 && x.1.bits == fpOne then 1 else 0)

/-- A lane-wise instruction puts one row on its way, and VCMP its mask register behind it. -/
theorem vRun_laneWise (h : op.laneWise v = true) : let d := vIssue s c
    let rs := laneResults s c op v
    let t := ((d.vRead c op v).1.vflags c (rs.foldl (fun n r => n ||| r.fl) 0)).rowRes c op v v.dstR (d.vMask c op v)
      (rs.map VR.bits) (vPoison s c op v)
    d.vRun c op v = if op == .cmp then t.addRes c (s.ac + op.lambda v) (.mask v.cmpVm) (cmpLanes s c op v) false else t := by
  have hr : op ≠ .rand := by rintro rfl; cases h
  obtain ⟨ha, hb, hd⟩ := vSrcLanes_sources s c op v hr
  obtain ⟨hac, -, hvm⟩ := (vIssue s c).vRead_frame c op v
  rw [cmpLanes, laneResults_zip]
  show (vIssue s c).vRun c op v = _
  rw [State.vRun_lanes c op v _ h, ha, hb, hd, vPoison_eq, hvm, State.ac_rowRes, State.vflags_ac, hac, vIssue_ac]

/-- The lanes of the result row. -/
theorem laneResults_getD {j : Nat} (hj : j < 256) (hm : (vIssue s c).vMask c op v j = true) :
    ((laneResults s c op v).map VR.bits).getD j 0 = (op.lane v ((Store.get 0 ((vIssue s c).core c).vm v.maskK.toNat).getLsbD j)
      (vLane s c op v 0 j) (vLane s c op v 1 j) (vLane s c op v 2 j)).bits := by
  simp [laneResults, hj, hm]

/-- VCMP sets the bits of the evaluated lanes in which its comparison holds (R166). -/
theorem cmpLanes_getElem? {j : Nat} (hj : j < 256) : (cmpLanes s c .cmp v)[j]? = some (some
    (if (vIssue s c).vMask c .cmp v j ∧ fpCmp v.pred (vLane s c .cmp v 0 j) (vLane s c .cmp v 1 j) = true then 1 else 0)) := by
  have hone : ¬0 = fpOne := by decide
  by_cases hm : (vIssue s c).vMask c .cmp v j = true <;>
    cases hcmp : fpCmp v.pred (vLane s c .cmp v 0 j) (vLane s c .cmp v 1 j) <;>
    simp [cmpLanes, laneResults, VOp.lane, VR.ok, hj, hm, hcmp, hone]

end

/-- Settles O5: `vRun_laneWise` is the instruction; its row is `rowResult_of_lanes`, and the mask of VCMP `cmpLanes_getElem?`. -/
theorem laneOperationsDeliverTheirLanes : Obligations.LaneOperationsDeliverTheirLanes := by
  intro s c op v hready hlane
  refine ⟨_, vInstr_runs hready, ?_⟩
  rw [vRun_laneWise s c op v hlane]
  dsimp only
  have hrow := rowResult_of_lanes s c op v v.dstR (by simp [laneResults]) fun j hj => laneResults_getD s c op v hj
  split
  case isTrue hcmp =>
    obtain rfl : op = .cmp := by simpa using hcmp
    exact ⟨_, [⟨_, 0, .mask v.cmpVm, cmpLanes s c .cmp v, false⟩], by simp, hrow, fun h => absurd rfl h,
      fun _ => ⟨_, rfl, rfl, rfl, fun j hj => cmpLanes_getElem? s c v hj⟩⟩
  case isFalse hcmp =>
    exact ⟨_, [], by simp, hrow, fun _ => rfl, fun h => absurd h (by simpa using hcmp)⟩

end Sys2Proof.Machine
end

section
/-! SUPPORT. Scans, moments, random numbers and conversions into activation memory (O6). -/

namespace Sys2Proof.Machine

/-! ### Scans (R167, R168) -/

theorem scanStage_length (op : Nat → Nat → VR) (d : Nat) (y : List Nat) : (scanStage op d y).1.length = y.length := by
  simp only [scanStage, List.length_append, List.length_take, List.length_map, List.length_zipWith, List.length_drop]
  omega

theorem scan_length (op : Nat → Nat → VR) (y : List Nat) : (scan op y).1.length = y.length := by
  unfold scan
  suffices ∀ (l : List Nat) (a : List Nat × Nat), (l.foldl (fun a k =>
      let (z, f) := scanStage op (2 ^ k) a.1; (z, a.2 ||| f)) a).1.length = a.1.length from this _ _
  intro l a
  induction l generalizing a with
  | nil => rfl
  | cons k l ih => exact (ih _).trans (scanStage_length op (2 ^ k) a.1)

@[simp] theorem scanSum_length (bf : Bool) (y : List Nat) : (scanSum bf y).1.length = y.length :=
  (scan_length ..).trans (List.length_map ..)

@[simp] theorem scanMax_length (y : List Nat) : (scanMax y).1.length = y.length :=
  (scan_length ..).trans (List.length_map ..)

/-! ### Scans, moments, random numbers and conversions (R167 to R175) -/

section
variable (s : State) (c : CoreId) (op : VOp) (v : VSlot)

theorem map_zipIdx_map_range {α β : Type} (f : Nat → α) (g : α → Nat → β) (n : Nat) :
    (((List.range n).map f).zipIdx.map fun x => g x.1 x.2) = (List.range n).map fun j => g (f j) j := by
  refine List.ext_getElem? fun j => ?_
  by_cases hj : j < n <;> simp [hj]

/-- What a source delivers lane by lane. -/
theorem map_zipIdx_vSrc {β : Type} (hr : op ≠ .rand) (g : Nat → Nat → β) :
    (((vIssue s c).vSrc c op v v.a).1.zipIdx.map fun x => g x.1 x.2) =
      (List.range 256).map fun j => g (vLane s c op v 0 j) j := by
  rw [(vSrcLanes_sources s c op v hr).1, vSrcLanes_eq, map_zipIdx_map_range]

/-- The lanes that enter a scan: a masked lane enters as the neutral value (R167). -/
def scanLanes (s : State) (c : CoreId) (op : VOp) (v : VSlot) (f : Nat → Nat) (z : Nat) : List Nat :=
  (List.range 256).map fun j => if (vIssue s c).vMask c op v j then f (vLane s c op v 0 j) else z

theorem State.vRun_scansum (d : State) : d.vRun c .scansum v =
    let y := scanSum v.prec ((d.vSrc c .scansum v v.a).1.zipIdx.map fun x =>
      if d.vMask c .scansum v x.2 then x.1 else 0x80000000)
    ((d.vRead c .scansum v).1.vflags c y.2).rowRes c .scansum v v.dstR (d.vMask c .scansum v) y.1
      ((VOp.scansum.sources v).any fun x => (d.vSrc c .scansum v x).2) := rfl

theorem State.vRun_scanmax (d : State) : d.vRun c .scanmax v =
    (d.vRead c .scanmax v).1.rowRes c .scanmax v v.dstR (d.vMask c .scanmax v)
      (scanMax ((d.vSrc c .scanmax v v.a).1.zipIdx.map fun x => if d.vMask c .scanmax v x.2 then x.1 else 0xFF800000)).1
      ((VOp.scanmax.sources v).any fun x => (d.vSrc c .scanmax v x).2) := rfl

theorem State.vRun_moments (d : State) : ∃ fl, d.vRun c .moments v =
    let m := d.vMask c .moments v
    let a := (d.vSrc c .moments v v.a).1
    let p := (VOp.moments.sources v).any fun x => (d.vSrc c .moments v x).2
    (((d.vRead c .moments v).1.vflags c fl).rowRes c .moments v v.dstR m
      (scanSum v.prec (a.zipIdx.map fun x => if m x.2 then x.1 else 0x80000000)).1 p).rowRes c .moments v (v.dstR + 1) m
      (scanSum v.prec ((a.zipIdx.map fun x => if m x.2 then fpMul v.prec x.1 x.1 else ⟨0x80000000, 0⟩).map VR.bits)).1 p :=
  ⟨_, rfl⟩

theorem State.vRun_cvtAm (d : State) (hdam : v.dam = true) (hw : VOp.cvt.wide v = false) : d.vRun c .cvt v =
    d.cvtToAm c v (d.vMask c .cvt v) (d.vSrc c .cvt v v.a).1 ((VOp.cvt.sources v).any fun x => (d.vSrc c .cvt v x).2) := by
  have hread : (d.vRead c .cvt v).1 = d := by simp [State.vRead, hw]
  calc d.vRun c .cvt v = (d.vRead c .cvt v).1.cvtToAm c v (d.vMask c .cvt v) (d.vSrc c .cvt v v.a).1
        ((VOp.cvt.sources v).any fun x => (d.vSrc c .cvt v x).2) := if_pos (by simp [VOp.toAm, hdam])
    _ = _ := by rw [hread]

theorem vscansum_delivers (h : VReady s c .scansum v) : Gives (.vscansum c v) s fun t => ∃ r,
    (t.core c).vres = ((vIssue s c).core c).vres ++ [r] ∧ RowResult s c .scansum v v.dstR
      (fun j => (scanSum v.prec (scanLanes s c .scansum v id 0x80000000)).1.getD j 0) r := by
  have hlanes := map_zipIdx_vSrc s c .scansum v (by simp) fun x j =>
    if (vIssue s c).vMask c .scansum v j then x else 0x80000000
  refine ⟨_, vInstr_runs h, _, ?_, rowResult_of_lanes s c _ v _ (by simp [scanLanes]) fun _ _ _ => rfl⟩
  rw [State.vRun_scansum, hlanes, vPoison_eq]
  simp [scanLanes]

theorem vscanmax_delivers (h : VReady s c .scanmax v) : Gives (.vscanmax c v) s fun t => ∃ r,
    (t.core c).vres = ((vIssue s c).core c).vres ++ [r] ∧ RowResult s c .scanmax v v.dstR
      (fun j => (scanMax (scanLanes s c .scanmax v id 0xFF800000)).1.getD j 0) r := by
  have hlanes := map_zipIdx_vSrc s c .scanmax v (by simp) fun x j =>
    if (vIssue s c).vMask c .scanmax v j then x else 0xFF800000
  refine ⟨_, vInstr_runs h, _, ?_, rowResult_of_lanes s c _ v _ (by simp [scanLanes]) fun _ _ _ => rfl⟩
  rw [State.vRun_scanmax, hlanes, vPoison_eq]
  simp [scanLanes]

theorem vmoments_delivers (h : VReady s c .moments v) : Gives (.vmoments c v) s fun t => ∃ r q,
    (t.core c).vres = ((vIssue s c).core c).vres ++ [r, q] ∧
    RowResult s c .moments v v.dstR (fun j => (scanSum v.prec (scanLanes s c .moments v id 0x80000000)).1.getD j 0) r ∧
    RowResult s c .moments v (v.dstR + 1) (fun j =>
      (scanSum v.prec (scanLanes s c .moments v (fun x => (fpMul v.prec x x).bits) 0x80000000)).1.getD j 0) q := by
  have hlanes {β : Type} := map_zipIdx_vSrc (β := β) s c .moments v (by simp)
  obtain ⟨fl, hrun⟩ := State.vRun_moments c v (vIssue s c)
  refine ⟨_, vInstr_runs h, _, _, ?_, rowResult_of_lanes s c _ v _ (by simp [scanLanes]) fun _ _ _ => rfl,
    rowResult_of_lanes s c _ v _ (by simp [scanLanes]) fun _ _ _ => rfl⟩
  rw [hrun]
  dsimp only
  rw [hlanes fun x j => if (vIssue s c).vMask c .moments v j then x else 0x80000000,
    hlanes fun x j => if (vIssue s c).vMask c .moments v j then fpMul v.prec x x else ⟨0x80000000, 0⟩, vPoison_eq]
  simp [scanLanes, Function.comp_def, apply_ite VR.bits]

/-- What VRAND delivers in a lane (R173 to R175). -/
def randLane (d : State) (c : CoreId) (v : VSlot) (j : Nat) : Nat :=
  rngFp v.symmetric (rngValue (d.vuReg c 0x08) (d.vuReg c 0x0C) (v.block * 256 + j) (d.vuReg c 0x10) v.imm)

theorem State.vRun_rand (d : State) : d.vRun c .rand v =
    d.rowRes c .rand v v.dstR (d.vMask c .rand v) ((List.range 256).map (randLane d c v)) false := rfl

theorem vrand_delivers (h : VReady s c .rand v) : Gives (.vrand c v) s fun t => ∃ r,
    (t.core c).vres = ((vIssue s c).core c).vres ++ [r] ∧
    RowResult s c .rand v v.dstR (randLane (vIssue s c) c v) r := by
  refine ⟨_, vInstr_runs h, _, ?_, rowResult_of_lanes s c _ v _ (xs := (List.range 256).map (randLane (vIssue s c) c v))
    ((List.length_map ..).trans List.length_range) fun j hj _ => by simp [hj]⟩
  rw [State.vRun_rand, State.vres_rowRes, vIssue_ac]
  rfl

/-- A conversion into activation memory whose lanes are free takes them and puts its codes on their way (R172, R346). -/
theorem State.cvtToAm_free {d : State} (hu : (d.core c).amUse = []) (m : Nat → Bool) (xs : List Nat) (p : Bool) :
    let k := cvtCodes v.target (v.aux % 256) (xs.zipIdx.map fun x => if m x.2 then some x.1 else none)
    ((d.cvtToAm c v m xs p).core c).vres = (d.core c).vres ++ [⟨d.ac + VOp.cvt.lambda v, 0, .am v.amA (elemBits v.target)
      (k.1.zipIdx.map fun x => if m x.2 then some x.1 else if v.zm then some 0 else none) (8 * v.aux) k.2.1, [], p⟩] := by
  simp [State.cvtToAm, State.claim, hu]

theorem vcvt_delivers (h : VReady s c .cvt v) (hdam : v.dam = true) (hu : ((vIssue s c).core c).amUse = []) :
    let m := (vIssue s c).vMask c .cvt v
    let k := cvtCodes v.target (v.aux % 256) ((List.range 256).map fun j => if m j then some (vLane s c .cvt v 0 j) else none)
    Gives (.vcvt c v) s fun t => ∃ r, (t.core c).vres = ((vIssue s c).core c).vres ++ [r] ∧
      r.due = s.ac + VOp.cvt.lambda v ∧ r.poison = vPoison s c .cvt v ∧
      r.dest = .am v.amA (elemBits v.target)
        (k.1.zipIdx.map fun x => if m x.2 then some x.1 else if v.zm then some 0 else none) (8 * v.aux) k.2.1 := by
  have hw : VOp.cvt.wide v = false := by
    obtain ⟨-, -, hform, -⟩ := h
    simp [vFormatFault, VOp.wide, VOp.sources, hdam] at hform ⊢
    omega
  have hlanes := map_zipIdx_vSrc s c .cvt v (by simp) fun x j => if (vIssue s c).vMask c .cvt v j then some x else none
  intro m k
  have hvres := State.cvtToAm_free c v hu m ((vIssue s c).vSrc c .cvt v v.a).1 (vPoison s c .cvt v)
  rw [hlanes, ← vPoison_eq, ← State.vRun_cvtAm c v _ hdam hw, vPoison_eq] at hvres
  exact ⟨_, vInstr_runs h, _, hvres, by rw [vIssue_ac], rfl, rfl⟩

end

/-- Settles O6, clause by clause. -/
theorem scansConversionsAndRandomNumbersDeliver : Obligations.ScansConversionsAndRandomNumbersDeliver :=
  ⟨vscansum_delivers, vscanmax_delivers, vmoments_delivers, vrand_delivers, vcvt_delivers⟩

end Sys2Proof.Machine
end

section
/-! SUPPORT. Faults of V instructions and the writing of their results (O7). -/

namespace Sys2Proof.Machine

/-! ### Faults of V instructions (R180, R252) -/

section
variable (s : State) (c : CoreId)

@[simp] theorem State.reg_cqFaultMark (bit o : Nat) : (s.cqFaultMark c bit).reg (.cq c) o =
    if o = 0x04 then (s.reg (.cq c) 0x04 ||| 2 ^ bit) % 2 ^ 32 else s.reg (.cq c) o := by
  simp [State.cqFaultMark, State.cqFault, State.markStep]

/-- A fault of a core marks its step, and leaves the rest of the core. -/
@[simp] theorem State.cqFaultMark_core (bit : Nat) : (s.cqFaultMark c bit).core c = { s.core c with poisoned := true } := by
  have hregs : Within [.regs] s (s.cqFault c bit) := State.cqFault_within c bit (.refl _ _) (by simp)
  rw [State.cqFaultMark, State.markStep, State.core_onCore, hregs.core (by simp)]

theorem State.cqFaultMark_others (bit : Nat) : OtherCores s c (s.cqFaultMark c bit) :=
  ((OtherCores.refl s c).ofRegs (State.cqFault_within c bit (.refl _ _) (by simp))).setCore _

end

section
variable {s : State} {c : CoreId} {op : VOp} {v : VSlot}

theorem vIllegal_faults (hf : Free s c sV) (hi : op.illegal v = true) : Gives (vInstr op c v) s fun t =>
    t.reg (.cq c) 0x04 / 2 ^ 5 % 2 = 1 ∧ (t.core c).poisoned = true ∧ (t.core c).vres = (s.core c).vres ∧ OtherCores s c t := by
  refine ⟨(s.useSlots c (2 ^ sV)).cqFaultMark c cqBundle, ?_, ?_, ?_, ?_, ?_⟩
  · rw [exec_vInstr, State.ifRuns_free hf, State.vOp, if_pos hi]
  · rw [State.reg_cqFaultMark, if_pos rfl]
    exact raised_bit _ (by decide)
  · rw [State.cqFaultMark_core]
  · rw [State.cqFaultMark_core]
    simp [State.useSlots]
  · exact ((OtherCores.refl s c).setCore _).trans (State.cqFaultMark_others _ c cqBundle)

/-- An instruction that faults at issue has no effect but its marks. -/
theorem vInstr_faults (hf : Free s c sV) (hi : op.illegal v = false) (h : (vFormatFault op v || vAddrFault op v) = true) :
    exec (vInstr op c v) s = .next ((vIssue s c).vFault c op v) := by
  rw [exec_vInstr, State.ifRuns_free hf, State.vOp, if_neg (by simp [hi])]
  exact congrArg _ (if_pos h)

end

section
variable (s : State) (c : CoreId) (op : VOp) (v : VSlot)

/-- The fault bits of an instruction are set, and nothing else changes. -/
def State.vFaultBits (s : State) (c : CoreId) (op : VOp) (v : VSlot) : State :=
  let s := if vFormatFault op v then s.raise (.vu c) 0x04 0 else s
  if vAddrFault op v then s.raise (.vu c) 0x04 1 else s

theorem State.vFaultBits_regs : Within [.regs] s (s.vFaultBits c op v) := by
  have hform : Within [.regs] s (if vFormatFault op v then s.raise (.vu c) 0x04 0 else s) :=
    .ite (fun _ => State.raise_within _ _ _ (.refl _ _) (by simp)) fun _ => .refl _ _
  exact .ite (fun _ => State.raise_within _ _ _ hform (by simp)) fun _ => hform

theorem State.vFaultBits_reg : let t := s.vFaultBits c op v
    (vFormatFault op v = true → t.reg (.vu c) 0x04 % 2 = 1) ∧ (vAddrFault op v = true → t.reg (.vu c) 0x04 / 2 % 2 = 1) := by
  refine ⟨fun hform => ?_, fun haddr => ?_⟩
  · have hbit : ((s.vFaultBits c op v).reg (.vu c) 0x04).testBit 0 = true := by
      simp only [State.vFaultBits, hform, if_true]
      split <;> simp
    simpa using hbit
  · simp only [State.vFaultBits, haddr, if_true, State.reg_raise_vu]
    exact raised_bit _ (show 1 < 32 by decide)

theorem State.vFault_eq : s.vFault c op v =
    if op.toAm v then (s.vFaultBits c op v).markStep c
    else
      let t := (s.vFaultBits c op v).setTbPois c v.dstB v.dstR true
      if op == .moments ∧ v.dstR < 63 then t.setTbPois c v.dstB (v.dstR + 1) true else t := rfl

/-- A fault of an instruction into activation memory marks the step (R180). -/
theorem vFault_step (ham : op.toAm v = true) : let t := s.vFault c op v
    (t.core c).poisoned = true ∧ (t.core c).vres = (s.core c).vres ∧ t.am = s.am ∧
    t.regs = (s.vFaultBits c op v).regs := by
  have h := s.vFaultBits_regs c op v
  rw [State.vFault_eq, if_pos ham]
  refine ⟨?_, ?_, ?_, rfl⟩
  · simp [State.markStep]
  · simp [State.markStep, h.core]
  · exact (h.part .am (by simp)).1

/-- A fault of an instruction into tile buffers poisons its row; its lanes keep their values (R180). -/
theorem vFault_row (ham : op.toAm v = false) : let t := s.vFault c op v
    t.tbPois c v.dstB v.dstR = true ∧ (t.core c).vres = (s.core c).vres ∧
    t.regs = (s.vFaultBits c op v).regs ∧ t.tb = s.tb := by
  have h := s.vFaultBits_regs c op v
  obtain ⟨htb, -⟩ := h.part .tb (by simp)
  rw [State.vFault_eq, if_neg (by simp [ham])]
  dsimp only
  split
  · refine ⟨?_, by simp [h.core], rfl, htb⟩
    simp [State.tbPois, State.setTbPois, Store.get_set]
  · refine ⟨?_, by simp [h.core], rfl, htb⟩
    simp [State.tbPois, State.setTbPois]

end

section
variable {s : State} {c : CoreId} {op : VOp} {v : VSlot}

theorem vFault_toAm (hf : Free s c sV) (hi : VOp.cvt.illegal v = false) (hdam : v.dam = true)
    (h : (vFormatFault .cvt v || vAddrFault .cvt v) = true) : Gives (.vcvt c v) s fun t =>
      (t.core c).poisoned = true ∧ (t.core c).vres = ((vIssue s c).core c).vres ∧ t.am = (vIssue s c).am ∧
      (vFormatFault .cvt v = true → t.reg (.vu c) 0x04 % 2 = 1) ∧ (vAddrFault .cvt v = true → t.reg (.vu c) 0x04 / 2 % 2 = 1) := by
  obtain ⟨hpois, hvres, ham, hregs⟩ := vFault_step (vIssue s c) c .cvt v (by simp [VOp.toAm, hdam])
  have hreg := State.reg_congr hregs (.vu c) 0x04
  refine ⟨_, vInstr_faults hf hi h, hpois, hvres, ham, ?_⟩
  rw [hreg]
  exact (vIssue s c).vFaultBits_reg c .cvt v

theorem vFault_toRow (hf : Free s c sV) (hi : op.illegal v = false) (ham : op.toAm v = false)
    (h : (vFormatFault op v || vAddrFault op v) = true) : Gives (vInstr op c v) s fun t =>
      t.tbPois c v.dstB v.dstR = true ∧ (t.core c).vres = ((vIssue s c).core c).vres ∧
      (vFormatFault op v = true → t.reg (.vu c) 0x04 % 2 = 1) ∧ (vAddrFault op v = true → t.reg (.vu c) 0x04 / 2 % 2 = 1) ∧
      (∀ j, t.tbLane c v.dstB v.dstR j = (vIssue s c).tbLane c v.dstB v.dstR j) := by
  obtain ⟨hpois, hvres, hregs, htb⟩ := vFault_row (vIssue s c) c op v ham
  obtain ⟨hform, haddr⟩ := (vIssue s c).vFaultBits_reg c op v
  have hreg := State.reg_congr hregs (.vu c) 0x04
  refine ⟨_, vInstr_faults hf hi h, hpois, hvres, ?_, ?_, fun j => by rw [State.tbLane, htb]; rfl⟩
  · rwa [hreg]
  · rwa [hreg]

end

/-! ### Results that are due (R157, R161, R178) -/

section
variable {s : State} {c : CoreId} {r : VRes}

/-- The state in which the due results have left the list of those on their way. -/
def State.vresTaken (s : State) (c : CoreId) : State :=
  s.onCore c fun k => { k with vres := k.vres.filter fun r => decide (s.ac < r.due) }

/-- One due result is written to its destination. -/
theorem exec_vectorResultWrite (h : ((s.core c).vres.filter fun r => r.due ≤ s.ac) = [r]) :
    exec (.vectorResultWrite c) s = .next ((s.vresTaken c).writeRes c r) := by
  have hnot (r : VRes) : (!decide (r.due ≤ s.ac)) = decide (s.ac < r.due) := by
    rw [← decide_not]
    exact decide_eq_decide.2 Nat.not_le
  simp only [exec, execVectorResultWrite, State.vresDue, State.vresOf, Bool.true_and, h, List.foldl, insertRes, hnot]
  rfl

@[simp] theorem State.vresTaken_core (s : State) (c : CoreId) : (s.vresTaken c).core c =
    { s.core c with vres := (s.core c).vres.filter fun r => decide (s.ac < r.due) } := s.core_onCore c _

/-! ### Row results (R150, R159) -/

/-- A lane of a result reaches its row, or leaves the row as it is. -/
def State.setLane (s : State) (c : CoreId) (b row : Nat) (o : Option Word32) (j : Nat) : State :=
  match o with
  | some w => s.setTbLane c b row j w.toNat
  | none => s

/-- The lanes of a result reach their row. -/
def State.setLanes (s : State) (c : CoreId) (b row : Nat) (lanes : List (Option Word32)) : State :=
  lanes.zipIdx.foldl (fun s x => s.setLane c b row x.1 x.2) s

theorem State.writeRow_eq (s : State) (c : CoreId) (b row : Nat) (lanes : List (Option Word32)) (p : Bool) :
    s.writeRow c b row lanes p =
      let t := s.setLanes c b row lanes
      let p := p || (lanes.any Option.isNone && t.tbPois c b row)
      (if p then t.vflags c 16 else t).setTbPois c b row p := rfl

/-- Lane `j` of any row, once a lane of a result has reached its row. -/
theorem State.setLane_nat (s : State) (c : CoreId) (b row : Nat) (o : Option Word32) {i j : Nat} (hi : i < 256) (hj : j < 256)
    (k : Nat) : (s.setLane c b row o i).tb.nat (1024 * k + 4 * j) 4 =
      if k = tbKey c b row ∧ j = i then (o.map BitVec.toNat).getD (s.tb.nat (1024 * k + 4 * j) 4)
      else s.tb.nat (1024 * k + 4 * j) 4 := by
  cases o with
  | none => simp [State.setLane]
  | some w =>
    simp only [State.setLane, State.setTbLane, Option.map_some, Option.getD_some]
    split
    · next h =>
      obtain ⟨rfl, rfl⟩ := h
      rw [Memory.nat_setNat]
      exact Nat.mod_eq_of_lt w.isLt
    · next h => exact Memory.nat_setNat_out _ (by omega)

/-- A row holds the lanes that a result brings, and keeps the others; every other row keeps all of its lanes. -/
theorem State.setLanes_nat (s : State) (c : CoreId) (b row : Nat) (lanes : List (Option Word32)) (hlen : lanes.length ≤ 256)
    {j : Nat} (hj : j < 256) (k : Nat) : (s.setLanes c b row lanes).tb.nat (1024 * k + 4 * j) 4 =
      if k = tbKey c b row then ((lanes.getD j none).map BitVec.toNat).getD (s.tb.nat (1024 * k + 4 * j) 4)
      else s.tb.nat (1024 * k + 4 * j) 4 := by
  induction lanes using List.reverseRecOn with
  | nil => simp [State.setLanes]
  | append_singleton l o ih =>
    rw [List.length_append, List.length_singleton] at hlen
    have hstep : s.setLanes c b row (l ++ [o]) = (s.setLanes c b row l).setLane c b row o l.length := by
      simp [State.setLanes, List.zipIdx_append]
    rw [hstep, State.setLane_nat _ c b row o (by omega) hj, ih (by omega)]
    rcases Nat.lt_trichotomy j l.length with h | rfl | h
    · simp [h, h.ne, List.getElem?_append_left]
    · by_cases hk : k = tbKey c b row <;> simp [hk]
    · have : ¬ j < l.length + 1 := by omega
      simp [h.ne', List.getElem?_eq_none (show l.length ≤ j by omega), List.getElem?_eq_none (show (l ++ [o]).length ≤ j by simp; omega)]

theorem State.setLanes_within (s : State) (c : CoreId) (b row : Nat) (lanes : List (Option Word32)) :
    Within [.tb] s (s.setLanes c b row lanes) ∧ (s.setLanes c b row lanes).tbPoison = s.tbPoison := by
  have step (t : State) (o : Option Word32) (j : Nat) (h : Within [.tb] s t ∧ t.tbPoison = s.tbPoison) :
      Within [.tb] s (t.setLane c b row o j) ∧ (t.setLane c b row o j).tbPoison = s.tbPoison := by
    cases o with
    | none => exact h
    | some w => exact ⟨State.setTbLane_within _ _ _ _ _ h.1 (by simp), h.2⟩
  unfold State.setLanes
  generalize lanes.zipIdx = l
  suffices ∀ t, Within [.tb] s t ∧ t.tbPoison = s.tbPoison → Within [.tb] s (l.foldl (fun s x => s.setLane c b row x.1 x.2) t) ∧
      (l.foldl (fun s x => s.setLane c b row x.1 x.2) t).tbPoison = s.tbPoison from this s ⟨.refl _ _, rfl⟩
  induction l with
  | nil => exact fun t h => h
  | cons x l ih => exact fun t h => ih _ (step t x.1 x.2 h)

/-- What a row result leaves (R150, R159): its lanes, its poison, and the core and the other rows as they were. -/
theorem State.writeRow_leaves (s : State) (c : CoreId) (b row : Nat) {lanes : List (Option Word32)} (hlen : lanes.length = 256)
    (p : Bool) : let t := s.writeRow c b row lanes p
    (∀ j < 256, t.tbLane c b row j = ((lanes.getD j none).map BitVec.toNat).getD (s.tbLane c b row j)) ∧
    t.tbPois c b row = (p || (lanes.any Option.isNone && s.tbPois c b row)) ∧
    (∀ k j, k ≠ tbKey c b row → j < 256 → t.tb.nat (1024 * k + 4 * j) 4 = s.tb.nat (1024 * k + 4 * j) 4) ∧
    t.core c = s.core c := by
  obtain ⟨hw, hpois⟩ := s.setLanes_within c b row lanes
  have hnat j (hj : j < 256) k := s.setLanes_nat c b row lanes hlen.le hj k
  have htb (p : Bool) : ((if p then (s.setLanes c b row lanes).vflags c 16 else s.setLanes c b row lanes).setTbPois c b row p).tb =
      (s.setLanes c b row lanes).tb := by cases p <;> rfl
  have hcore (p : Bool) : ((if p then (s.setLanes c b row lanes).vflags c 16 else s.setLanes c b row lanes).setTbPois c b row p).core c =
      (s.setLanes c b row lanes).core c := by cases p <;> rfl
  have hset (t : State) (p : Bool) : (t.setTbPois c b row p).tbPois c b row = p := by simp [State.tbPois, State.setTbPois]
  rw [State.writeRow_eq]
  dsimp only
  refine ⟨fun j hj => ?_, ?_, fun k j hk hj => ?_, ?_⟩
  · rw [State.tbLane, htb, hnat j hj, if_pos rfl]
    rfl
  · rw [hset, State.tbPois, hpois]
    rfl
  · rw [htb, hnat j hj, if_neg hk]
  · rw [hcore, hw.core (by simp)]

theorem vectorResultWrite_row {b row : Nat} (h : ((s.core c).vres.filter fun r => r.due ≤ s.ac) = [r]) (hd : r.dest = .row b row)
    (hlen : r.lanes.length = 256) : Gives (.vectorResultWrite c) s fun t =>
      (∀ j < 256, t.tbLane c b row j = ((r.lanes.getD j none).map BitVec.toNat).getD (s.tbLane c b row j)) ∧
      t.tbPois c b row = (r.poison || (r.lanes.any Option.isNone && s.tbPois c b row)) ∧
      (∀ k j, k ≠ tbKey c b row → j < 256 → t.tb.nat (1024 * k + 4 * j) 4 = s.tb.nat (1024 * k + 4 * j) 4) ∧
      (t.core c).vres = (s.core c).vres.filter (fun r => s.ac < r.due) := by
  obtain ⟨hlane, hpois, hother, hcore⟩ := (s.vresTaken c).writeRow_leaves c b row hlen r.poison
  refine ⟨_, exec_vectorResultWrite h, ?_⟩
  rw [State.writeRes, hd]
  refine ⟨hlane, hpois, hother, ?_⟩
  rw [hcore, State.vresTaken_core]

/-! ### Mask results (R161) -/

/-- The number whose bits are the lanes that hold 1. -/
def maskNat (lanes : List (Option Word32)) : Nat :=
  lanes.zipIdx.foldl (fun n x => match x.1 with | some 1 => n + 2 ^ x.2 | _ => n) 0

theorem maskNat_concat (l : List (Option Word32)) (o : Option Word32) :
    maskNat (l ++ [o]) = if o = some 1 then maskNat l + 2 ^ l.length else maskNat l := by
  simp only [maskNat, List.zipIdx_append, List.foldl_append, List.zipIdx_singleton, Nat.zero_add, List.foldl_cons, List.foldl_nil]
  by_cases h : o = some 1
  · simp [h]
  · rw [if_neg h]
    split
    · exact absurd rfl h
    · rfl

theorem maskNat_testBit (lanes : List (Option Word32)) : maskNat lanes < 2 ^ lanes.length ∧
    ∀ j, (maskNat lanes).testBit j = decide (lanes[j]? = some (some 1)) := by
  induction lanes using List.reverseRecOn with
  | nil => simp [maskNat]
  | append_singleton l o ih =>
    obtain ⟨hlt, hbit⟩ := ih
    rw [maskNat_concat, List.length_append, List.length_singleton, Nat.pow_succ]
    have hone (j : Nat) : (maskNat l + 2 ^ l.length).testBit j = (decide (l.length = j) || (maskNat l).testBit j) := by
      rw [Nat.add_comm, ← Nat.mul_one (2 ^ l.length), Nat.two_pow_add_eq_or_of_lt hlt 1, Nat.testBit_or, Nat.mul_one,
        Nat.testBit_two_pow]
    refine ⟨by split <;> omega, fun j => ?_⟩
    rcases Nat.lt_trichotomy j l.length with h | rfl | h
    · split <;> simp [hone, hbit, h, h.ne', List.getElem?_append_left]
    · split <;> simp_all
    · have hout : (l ++ [o])[j]? = none := List.getElem?_eq_none (by simp; omega)
      split <;> simp [hone, hbit, hout, h.ne, List.getElem?_eq_none h.le]

theorem vectorResultWrite_mask {k : Nat} (h : ((s.core c).vres.filter fun r => r.due ≤ s.ac) = [r]) (hd : r.dest = .mask k) :
    Gives (.vectorResultWrite c) s fun t =>
      (∀ j < 256, (Store.get 0 (t.core c).vm k).getLsbD j = decide (r.lanes[j]? = some (some 1))) ∧
      (∀ k', k' ≠ k → Store.get 0 (t.core c).vm k' = Store.get 0 (s.core c).vm k') ∧ t.tb = s.tb ∧
      (t.core c).vres = (s.core c).vres.filter (fun r => s.ac < r.due) := by
  have hwrite : (s.vresTaken c).writeRes c r = (s.vresTaken c).onCore c fun x =>
      { x with vm := Store.set 0 x.vm k (BitVec.ofNat 256 (maskNat r.lanes)) } := by
    rw [State.writeRes, hd]
    rfl
  have hcore := State.core_onCore (s.vresTaken c) c fun x =>
    { x with vm := Store.set 0 x.vm k (BitVec.ofNat 256 (maskNat r.lanes)) }
  refine ⟨_, exec_vectorResultWrite h, ?_⟩
  rw [hwrite]
  dsimp only
  rw [hcore, State.vresTaken_core]
  refine ⟨fun j hj => ?_, fun k' hk => Store.get_set_ne _ _ _ hk, rfl, rfl⟩
  rw [Store.get_set_same, BitVec.getLsbD_ofNat, (maskNat_testBit r.lanes).2]
  simp [hj]

/-! ### Results in activation memory (R172, R178) -/

theorem mergeCodes_length (w : Nat) (old : List Byte) (codes : List (Option Nat)) :
    (mergeCodes w old codes).length = old.length := leBytes_length ..

/-- A list of bytes that is written to a memory in pieces of 64 is in place up to the last piece written. -/
theorem foldl_lines_am {f : State → Nat → State} {base : Nat} {new : List Byte}
    (hf : ∀ s k, (f s k).am = s.am.setBytes (base + 64 * k) ((new.drop (64 * k)).take (min 64 (new.length - 64 * k))))
    (m : Nat) (s : State) (x : Nat) : ((List.range m).foldl f s).am.byte x =
      if base ≤ x ∧ x < base + min (64 * m) new.length then new.getD (x - base) 0 else s.am.byte x := by
  induction m with
  | zero =>
    rw [if_neg (by omega)]
    rfl
  | succ m ih =>
    rw [List.range_succ, List.foldl_append, List.foldl_cons, List.foldl_nil, hf, Memory.byte_setBytes, ih, List.length_take,
      List.length_drop, Nat.min_eq_left (Nat.min_le_right ..)]
    by_cases hin : base + 64 * m ≤ x ∧ x < base + 64 * m + min 64 (new.length - 64 * m)
    · have hi : x - (base + 64 * m) < min 64 (new.length - 64 * m) := by omega
      rw [if_pos hin, if_pos (by omega), List.getD_eq_getElem?_getD, List.getElem?_take_of_lt hi, List.getElem?_drop,
        List.getD_eq_getElem?_getD, show 64 * m + (x - (base + 64 * m)) = x - base by omega]
    · rw [if_neg hin]
      exact if_congr (by omega) rfl rfl

/-- A write of an element plane puts the merged codes in place, and no other byte changes. -/
theorem State.writePlane_am (s : State) (c : CoreId) (a w : Nat) (codes : List (Option Nat)) (p : Bool) (x : Nat) :
    let n := codes.length * w / 8
    (s.writePlane c a w codes p).am.byte x = if amBase c + a ≤ x ∧ x < amBase c + a + n then
      (mergeCodes w (s.amBytes c a n) codes).getD (x - (amBase c + a)) 0 else s.am.byte x := by
  intro n
  have hlen : (mergeCodes w (s.amBytes c a n) codes).length = n := by simp [mergeCodes_length, State.amBytes, Memory.bytes]
  unfold State.writePlane
  rw [foldl_lines_am (base := amBase c + a) (new := mergeCodes w (s.amBytes c a n) codes), hlen, ceilDiv,
    show min (64 * ((n + 64 - 1) / 64)) n = n by omega]
  intro s k
  rw [State.amWrite_am, hlen, Nat.add_assoc]

theorem Accessed.writePlane (s : State) (c : CoreId) (a w : Nat) (codes : List (Option Nat)) (p : Bool) :
    Accessed s c (s.writePlane c a w codes p) := .foldl (fun t _ => .amWrite t c _ _ _) _ s

/-- What a result in activation memory leaves: its scale bytes, its merged codes, and the other bytes as they were. -/
theorem State.writeRes_am (s : State) (c : CoreId) {r : VRes} {a w sa : Nat} {codes : List (Option Nat)} {scales : List Byte}
    (hd : r.dest = .am a w codes sa scales) : let t := s.writeRes c r
    let n := codes.length * w / 8
    Accessed s c t ∧ ∀ x, t.am.byte x =
      if amBase c + sa ≤ x ∧ x < amBase c + sa + scales.length then scales.getD (x - (amBase c + sa)) 0
      else if amBase c + a ≤ x ∧ x < amBase c + a + n then (mergeCodes w (s.amBytes c a n) codes).getD (x - (amBase c + a)) 0
      else s.am.byte x := by
  dsimp only
  rw [State.writeRes, hd]
  dsimp only
  have hmark : Within [.regs] s (if r.poison then s.vflags c 16 else s) :=
    .ite (fun _ => State.vflags_within _ _ (.refl _ _) (by simp)) fun _ => .refl _ _
  have hacc : Accessed s c (if r.poison then s.vflags c 16 else s) := .of_within hmark (by simp)
  have ham : (if r.poison then s.vflags c 16 else s).am = s.am := (hmark.part .am (by simp)).1
  generalize (if r.poison then s.vflags c 16 else s) = u at hacc ham ⊢
  have hplane x := u.writePlane_am c a w codes r.poison x
  have hacc := hacc.trans (.writePlane u c a w codes r.poison)
  have hbytes : u.amBytes c a (codes.length * w / 8) = s.amBytes c a (codes.length * w / 8) := by rw [State.amBytes, ham]; rfl
  dsimp only at hplane
  rw [ham, hbytes] at hplane
  split
  · next hnil =>
    refine ⟨hacc, fun x => ?_⟩
    rw [List.isEmpty_iff.1 hnil, List.length_nil, if_neg (by omega), hplane]
  · refine ⟨hacc.trans (.amWrite ..), fun x => ?_⟩
    rw [State.amWrite_am, Memory.byte_setBytes, hplane]

theorem State.amBytes_of_byte {t : State} {a : Nat} {l : List Byte}
    (h : ∀ i < l.length, t.am.byte (amBase c + a + i) = l.getD i 0) : t.amBytes c a l.length = l := by
  refine List.ext_getElem (by simp [State.amBytes, Memory.bytes]) fun i _ hi => ?_
  simpa [State.amBytes, Memory.bytes, hi] using h i hi

theorem vectorResultWrite_am {a w sa : Nat} {codes : List (Option Nat)} {scales : List Byte}
    (h : ((s.core c).vres.filter fun r => r.due ≤ s.ac) = [r]) (hd : r.dest = .am a w codes sa scales)
    (hout : a + codes.length * w / 8 ≤ sa ∨ sa + scales.length ≤ a) : Gives (.vectorResultWrite c) s fun t =>
      t.amBytes c a (codes.length * w / 8) = mergeCodes w (s.amBytes c a (codes.length * w / 8)) codes ∧
      t.amBytes c sa scales.length = scales ∧
      (∀ x, (x < amBase c + a ∨ amBase c + a + codes.length * w / 8 ≤ x) →
        (x < amBase c + sa ∨ amBase c + sa + scales.length ≤ x) → t.am.byte x = s.am.byte x) ∧
      (t.core c).vres = (s.core c).vres.filter (fun r => s.ac < r.due) := by
  obtain ⟨hacc, hbyte⟩ := (s.vresTaken c).writeRes_am c hd
  have htaken : (s.vresTaken c).amBytes c a (codes.length * w / 8) = s.amBytes c a (codes.length * w / 8) := rfl
  have hlen : (mergeCodes w (s.amBytes c a (codes.length * w / 8)) codes).length = codes.length * w / 8 := by
    rw [mergeCodes_length]
    simp [State.amBytes, Memory.bytes]
  rw [htaken] at hbyte
  refine ⟨_, exec_vectorResultWrite h, ?_, ?_, fun x ha hs => ?_, ?_⟩
  · refine (congrArg (State.amBytes _ c a) hlen.symm).trans (State.amBytes_of_byte fun i hi => ?_)
    rw [hbyte, if_neg (by omega), if_pos (by omega), Nat.add_sub_cancel_left]
  · refine State.amBytes_of_byte fun i hi => ?_
    rw [hbyte, if_pos (by omega), Nat.add_sub_cancel_left]
  · rw [hbyte, if_neg (by omega), if_neg (by omega)]
    rfl
  · rw [hacc.vector.1, State.vresTaken_core]

end

/-- Settles O7, clause by clause: the faults at issue, then a result in a row, in a mask register and in activation memory. -/
theorem vectorFaultsAndResultWrites : Obligations.VectorFaultsAndResultWrites :=
  ⟨fun _ _ _ _ => vIllegal_faults, fun _ _ _ => vFault_toAm, fun _ _ _ _ => vFault_toRow, fun _ _ _ _ _ => vectorResultWrite_row,
    fun _ _ _ _ h hd _ => vectorResultWrite_mask h hd, fun _ _ _ _ _ _ _ _ => vectorResultWrite_am⟩

end Sys2Proof.Machine
end

section
/-! SUPPORT. Bundles, holds, quiesce and completions (O10). -/

namespace Sys2Proof.Machine

/-! ### Slots that do not issue (R148, R185, R191) -/


section
variable {s : State} {c : CoreId}

/-- The row of an instruction of a slot runs under `ifRuns`. -/
theorem slotRow_exec {i : Instr} {slot : Nat} (h : slotRow i = some (c, slot)) :
    ∃ f, exec i s = .next (s.ifRuns c slot f) := by
  unfold slotRow at h
  split at h
  all_goals cases h
  all_goals exact ⟨_, rfl⟩

theorem slotRow_unissued {i : Instr} {slot : Nat} (h : slotRow i = some (c, slot))
    (hn : (s.core c).mode = .idle ∨ (s.core c).slotUsed s.ac slot = true) : Gives i s fun t => t = s := by
  obtain ⟨f, hf⟩ := slotRow_exec (s := s) h
  exact ⟨_, hf, if_pos (by simpa using hn)⟩

/-! ### Issue and holds (R185, R186, R193, R216) -/

@[simp] theorem State.startAc_ac (s : State) (c : CoreId) : (s.startAc c).ac = s.ac := by
  have h : Within [.regs, .am, .tb, .cores] s (s.startAc c) :=
    State.startAc_within c (.refl _ _) (by simp) (by simp) (by simp) (by simp)
  exact h.1.2.1

theorem ite_eq_spec {α : Type} (p : Prop) [Decidable p] (a b : α) :
    if p then (if p then a else b) = a else (if p then a else b) = b := by
  by_cases h : p <;> simp [h]

/-- The issue of a bundle is `BundleRun`. -/
theorem issue_bundleRun (s : State) (c : CoreId) : BundleRun s c false ((s.startAc c).issue c false) := by
  unfold BundleRun State.issue
  simp only [beq_iff_eq]
  apply ite_eq_spec

theorem exec_bundleIssue (hm : (s.core c).mayIssue s.ac = true) (hh : (s.core c).hold = 0) :
    exec (.bundleIssue c) s = .next (if (s.startAc c).holdNow c = 0 then (s.startAc c).issue c false
      else (s.startAc c).onCore c fun k => { k with hold := (s.startAc c).holdNow c, heldSince := some s.ac }) := by
  rw [exec, execBundleIssue, if_neg (by simp [hm, hh])]
  dsimp only
  split
  · next h => rw [if_pos h]
  · next n h => rw [if_neg (by omega), h, State.startAc_ac]

theorem bundleIssue_issues (hm : (s.core c).mayIssue s.ac = true) (hh : (s.core c).hold = 0)
    (hn : (s.startAc c).holdNow c = 0) : Gives (.bundleIssue c) s (BundleRun s c false) := by
  refine ⟨(s.startAc c).issue c false, ?_, ?_⟩
  · rw [exec_bundleIssue hm hh, if_pos hn]
  · with_reducible exact issue_bundleRun s c

theorem OnlyCore.onCore (s : State) (c : CoreId) (f : Core → Core) : OnlyCore s c (f (s.core c)) (s.onCore c f) :=
  ⟨State.core_onCore s c f, fun c' h => by simp [h], by rw [State.onCore, State.setCore]⟩

theorem bundleIssue_holds (hm : (s.core c).mayIssue s.ac = true) (hh : (s.core c).hold = 0)
    (hn : (s.startAc c).holdNow c ≠ 0) : Gives (.bundleIssue c) s fun t => OnlyCore (s.startAc c) c { (s.startAc c).core c with
      hold := (s.startAc c).holdNow c, heldSince := some s.ac } t := by
  have hexec := exec_bundleIssue hm hh
  rw [if_neg hn] at hexec
  have honly := OnlyCore.onCore (s.startAc c) c fun k => { k with hold := (s.startAc c).holdNow c, heldSince := some s.ac }
  exact ⟨_, hexec, honly⟩

theorem heldBundleIssue_issues (hm : (s.core c).mayIssue s.ac = true) (hw : (s.core c).waiting = true)
    (hn : (s.startAc c).holdNow c = 0) : Gives (.heldBundleIssue c) s (BundleRun s c false) := by
  refine ⟨(s.startAc c).issue c false, ?_, ?_⟩
  · rw [exec, execHeldBundleIssue, if_neg (by simp [hm, hw])]
    dsimp only
    rw [hn]
  · with_reducible exact issue_bundleRun s c

/-! ### A bundle of no-ops (R187, R188) -/

theorem nextIndex_toNat (i : BitVec 10) : nextIndex i.toNat = i + 1 := by
  apply BitVec.eq_of_toNat_eq
  simp [nextIndex]

theorem bundleBad_zero {i : Nat} (hi : i < 1008) : bundleBad 0 i = false := by
  simp [bundleBad, hi]
  decide
/-- The counters and marks that the issue of a bundle moves, before its slots run (R185, R248, R295). -/
def State.issued (d : State) (c : CoreId) : State :=
  ((d.useSlots c 31).onCore c fun k => { k with issueFrom := d.ac + 1, hold := 0, heldSince := none }).count (.cq c) 0x20 1

/-- A bundle of no-ops fires its transit entries and moves the index. -/
theorem State.issue_noop {d : State} (hl : (d.core c).mode = .lockstep)
    (hb : d.bundle c (d.core c).bank (d.core c).index.toNat = 0) (hi : (d.core c).index.toNat < 1008) :
    d.issue c false = ((d.issued c).fireTransit c (d.core c).bank (d.core c).index.toNat).setIndex c
      (nextIndex (d.core c).index.toNat) := by
  unfold State.issue
  dsimp only
  rw [hb, bundleBad_zero hi, hl]
  rfl

theorem State.issued_core (d : State) (c : CoreId) : ∃ slots, (d.issued c).core c = { d.core c with
    slotsAt := d.ac + 1, slotsUsed := slots, issueFrom := d.ac + 1, hold := 0, heldSince := none } := by
  have hcount (t : State) : (t.count (.cq c) 0x20 1).core c = t.core c :=
    Within.core (P := [.regs]) (State.count_within _ _ _ (.refl _ _) (by simp)) (by simp) c
  refine ⟨(if (d.core c).slotsAt = d.ac + 1 then (d.core c).slotsUsed else 0) ||| 31, ?_⟩
  rw [State.issued, hcount, State.core_onCore, State.useSlots, State.core_onCore]

theorem State.issued_others (d : State) (c : CoreId) : OtherCores d c (d.issued c) :=
  (((OtherCores.refl d c).setCore _).setCore _).ofRegs (State.count_within _ _ _ (.refl _ _) (by simp))

theorem State.issued_regs (d : State) (c : CoreId) : (d.issued c).reg (.cq c) 0x20 = (d.reg (.cq c) 0x20 + 1) % 2 ^ 32 ∧
    (d.issued c).reg (.cq c) 0x04 = d.reg (.cq c) 0x04 := by
  have hreg (f : Core → Core) (o : Nat) : ((d.useSlots c 31).onCore c f).reg (.cq c) o = d.reg (.cq c) o :=
    State.reg_congr rfl ..
  rw [State.issued, State.reg_count_wrap _ _ _ _ rfl, State.reg_count_off _ _ _ (by decide), hreg, hreg]
  exact ⟨rfl, rfl⟩

/-- A bundle of no-ops is counted and moves the index; queues, predicates, semaphores and marks are as before. -/
def NoopIssued (d : State) (c : CoreId) (t : State) : Prop :=
  (t.core c).index = (d.core c).index + 1 ∧ (t.core c).issueFrom = d.ac + 1 ∧ (t.core c).queues = (d.core c).queues ∧
  (t.core c).poisoned = (d.core c).poisoned ∧ (t.core c).preds = (d.core c).preds ∧ (t.core c).sems = (d.core c).sems ∧
  t.reg (.cq c) 0x20 = (d.reg (.cq c) 0x20 + 1) % 2 ^ 32 ∧ t.reg (.cq c) 0x04 = d.reg (.cq c) 0x04 ∧ OtherCores d c t

theorem State.issue_noop_leaves {d : State} (hl : (d.core c).mode = .lockstep)
    (hb : d.bundle c (d.core c).bank (d.core c).index.toNat = 0) (hi : (d.core c).index.toNat < 1008) :
    NoopIssued d c (d.issue c false) := by
  rw [State.issue_noop hl hb hi, nextIndex_toNat]
  obtain ⟨slots, hcore⟩ := d.issued_core c
  obtain ⟨hcount, hfault⟩ := d.issued_regs c
  have hothers := d.issued_others c
  generalize d.issued c = u at hcore hcount hfault hothers ⊢
  have hothers : OtherCores d c (u.fireTransit c (d.core c).bank (d.core c).index.toNat) := hothers.setCore _
  obtain ⟨fs, hfire⟩ : ∃ fs, (u.fireTransit c (d.core c).bank (d.core c).index.toNat).core c = { u.core c with fired := fs } :=
    ⟨_, State.core_onCore u c _⟩
  rw [hcore] at hfire
  have hcount : (u.fireTransit c (d.core c).bank (d.core c).index.toNat).reg (.cq c) 0x20 = _ := hcount
  have hfault : (u.fireTransit c (d.core c).bank (d.core c).index.toNat).reg (.cq c) 0x04 = _ := hfault
  generalize u.fireTransit c (d.core c).bank (d.core c).index.toNat = w at hothers hfire hcount hfault ⊢
  have hend := State.core_onCore w c fun k => { k with index := (d.core c).index + 1 }
  rw [hfire] at hend
  refine ⟨?_, ?_, ?_, ?_, ?_, ?_, hcount, hfault, hothers.setCore _⟩ <;> rw [State.setIndex, hend]

theorem bundleIssue_noop (hm : (s.core c).mayIssue s.ac = true) (hh : (s.core c).hold = 0)
    (hl : ((s.startAc c).core c).mode = .lockstep)
    (hb : (s.startAc c).bundle c ((s.startAc c).core c).bank ((s.startAc c).core c).index.toNat = 0)
    (hi : ((s.startAc c).core c).index.toNat < 1008) : Gives (.bundleIssue c) s (NoopIssued (s.startAc c) c) := by
  have hn : (s.startAc c).holdNow c = 0 := by simp [State.holdNow, hl]
  refine ⟨(s.startAc c).issue c false, ?_, ?_⟩
  · rw [exec_bundleIssue hm hh, if_pos hn]
  · exact State.issue_noop_leaves hl hb hi

/-! ### Quiesce (R240, R241) -/

theorem Core.queue_setQueue_at (k : Core) (q q' : Nat) (l : List QEntry) :
    (k.setQueue q l).queue q' = if q' = q then l else k.queue q' := Store.get_set ..

theorem State.violation_queue (s : State) (c : CoreId) (q found expected q' : Nat) :
    ((s.violation c q found expected).core c).queue q' = (s.core c).queue q' := by
  have hregs : Within [.regs] s (if bits (s.reg (.cq c) 0x04) 0 0 = 0 then
      s.setReg (.cq c) 0x08 (q * 2 ^ 28 + found * 2 ^ 16 + expected) else s) :=
    .ite (fun _ => State.setReg_within _ _ _ (.refl _ _) (by simp)) fun _ => .refl _ _
  have hmark := State.cqFaultMark_core (if bits (s.reg (.cq c) 0x04) 0 0 = 0 then
      s.setReg (.cq c) 0x08 (q * 2 ^ 28 + found * 2 ^ 16 + expected) else s) c cqViol
  rw [hregs.core (by simp)] at hmark
  exact (congrArg (Core.queue · q') hmark :)

/-- A queue with entries left is emptied; the others keep theirs. -/
theorem State.leftover_queue (s : State) (c : CoreId) (q q' : Nat) :
    ((s.leftover c q).core c).queue q' = if q' = q then [] else (s.core c).queue q' := by
  unfold State.leftover
  split
  · next hnil =>
    split
    · next h => rw [h, hnil]
    · rfl
  · rw [State.core_onCore, Core.queue_setQueue_at, State.violation_queue]

theorem State.leftovers_queue (s : State) (c : CoreId) (qs : List Nat) (q : Nat) :
    ((qs.foldl (fun s q => s.leftover c q) s).core c).queue q = if q ∈ qs then [] else (s.core c).queue q := by
  induction qs generalizing s with
  | nil => simp
  | cons p qs ih =>
    rw [List.foldl_cons, ih, State.leftover_queue]
    by_cases hq : q ∈ qs <;> by_cases hp : q = p <;> simp [hq, hp]

/-- A core that has quiesced: idle, its step ended, its queues empty. -/
def Quiesced (s : State) (c : CoreId) (t : State) : Prop :=
  (t.core c).mode = .idle ∧ (t.core c).ended = true ∧ (t.core c).ending = false ∧ (t.core c).hold = 0 ∧
  (t.core c).endedAt = s.ac ∧ ∀ q ∈ quietQueues, (t.core c).queue q = []

theorem State.quiesce_quiesced (s : State) (c : CoreId) : Quiesced s c (s.quiesce c) := by
  have hqueue (q : Nat) (hq : q ∈ quietQueues) : ((quietQueues.foldl (fun s q => s.leftover c q) s).core c).queue q = [] := by
    rw [s.leftovers_queue c quietQueues, if_pos hq]
  have hac : (quietQueues.foldl (fun s q => s.leftover c q) s).ac = s.ac :=
    (Within.foldl (P := [.regs, .cores]) _ _ (.refl _ s) fun _ _ h => State.leftover_within _ _ h (by simp) (by simp)).1.2.1
  have hquiesce : s.quiesce c = (quietQueues.foldl (fun s q => s.leftover c q) s).onCore c fun k => { k with
      mode := .idle, ended := true, ending := false, hold := 0, heldSince := none
      endedAt := (quietQueues.foldl (fun s q => s.leftover c q) s).ac } := rfl
  rw [hquiesce, hac]
  generalize quietQueues.foldl (fun s q => s.leftover c q) s = u at hqueue
  have hcore := u.core_onCore c fun k =>
    { k with mode := .idle, ended := true, ending := false, hold := 0, heldSince := none, endedAt := s.ac }
  unfold Quiesced
  rw [hcore]
  exact ⟨rfl, rfl, rfl, rfl, rfl, hqueue⟩

theorem coreQuiesce_quiesces (he : (s.core c).ending = true) (hw : (s.startAc c).workDone c = true) :
    Gives (.coreQuiesce c) s (Quiesced (s.startAc c) c) := by
  refine ⟨(s.startAc c).quiesce c, ?_, ?_⟩
  · rw [exec, execCoreQuiesce, if_neg (by simp [he])]
    dsimp only
    rw [if_pos hw]
  · exact State.quiesce_quiesced _ c

/-! ### Hold timeout (R219) -/

theorem exec_holdTimeout {since : Nat} (hs : (s.core c).heldSince = some since) (hl : s.fld (.cq c) 0x18 23 0 ≠ 0)
    (ht : since + 1024 * s.fld (.cq c) 0x18 23 0 < s.ac) (hh : (s.core c).hold ≠ 0) :
    exec (.holdTimeout c) s = .next (
      let f := (s.startAc c).cqFaultMark c cqHold
      if (s.core c).hold = holdEnd then f.quiesce c
      else if (s.core c).hold = holdGong then f.onCore c fun k => { k with gongMode := none, hold := 0, heldSince := none }
      else f.issue c true) := by
  rw [exec, execHoldTimeout]
  dsimp only
  rw [hs]
  dsimp only
  rw [if_neg (by omega)]

theorem holdTimeout_ends {since : Nat} (hs : (s.core c).heldSince = some since) (hl : s.fld (.cq c) 0x18 23 0 ≠ 0)
    (ht : since + 1024 * s.fld (.cq c) 0x18 23 0 < s.ac) (hh : (s.core c).hold ≠ 0) : Gives (.holdTimeout c) s fun t =>
      let f := (s.startAc c).cqFaultMark c cqHold
      ((s.core c).hold = holdGong → OnlyCore f c { f.core c with gongMode := none, hold := 0, heldSince := none } t) ∧
      ((s.core c).hold = holdEnd → (t.core c).ended = true ∧ (t.core c).mode = .idle) ∧
      ((s.core c).hold ≠ holdGong → (s.core c).hold ≠ holdEnd → t = f.issue c true) := by
  refine ⟨_, exec_holdTimeout hs hl ht hh, ?_⟩
  generalize (s.startAc c).cqFaultMark c cqHold = f
  obtain ⟨hidle, hended, -⟩ := f.quiesce_quiesced c
  dsimp only
  refine ⟨fun hg => ?_, fun he => ?_, fun hg he => ?_⟩
  · rw [hg, if_neg (by decide), if_pos rfl]
    exact .onCore f c _
  · rw [if_pos he]
    exact ⟨hended, hidle⟩
  · rw [if_neg he, if_neg hg]

/-! ### Completions (R209, R211, R228, R330) -/

theorem bitAt_iff (x i : Nat) : bitAt x i = true ↔ bits x i i = 1 := by
  simp [bitAt, bits]

/-- What a signal leaves of its core: all but semaphores, signals that are due later and the mark of the step. -/
theorem State.semSignal_leaves (s : State) (c : CoreId) (i n : Nat) : OtherCores s c (s.semSignal c i n) ∧
    ∃ sems pend p, (s.semSignal c i n).core c = { s.core c with sems := sems, semPend := pend, poisoned := p } := by
  have hset (v : Nat) : ∃ sems pend p, (s.onCore c fun k => k.setSem i v).core c =
      { s.core c with sems := sems, semPend := pend, poisoned := p } := ⟨_, _, _, State.core_onCore s c _⟩
  unfold State.semSignal State.semAdd
  dsimp only
  split
  · exact ⟨(OtherCores.refl s c).setCore _, _, _, _, State.core_onCore s c _⟩
  · split
    · refine ⟨((OtherCores.refl s c).setCore _).trans (State.cqFaultMark_others _ c cqSem), ?_⟩
      obtain ⟨sems, pend, p, h⟩ := hset 0xFFFF
      exact ⟨sems, pend, true, (State.cqFaultMark_core _ c cqSem).trans (by rw [h])⟩
    · exact ⟨(OtherCores.refl s c).setCore _, hset _⟩

theorem State.semSignal_adds {i n : Nat} (h : ¬Issued s c) (hlt : (s.core c).sem i + n ≤ 0xFFFF) :
    ((s.semSignal c i n).core c).sem i = (s.core c).sem i + n := by
  unfold Issued at h
  rw [State.semSignal, if_neg h, State.semAdd, if_neg (by omega), State.core_onCore]
  simp [Core.sem, Core.setSem]

theorem State.semSignal_defers {i n : Nat} (h : Issued s c) : (s.semSignal c i n).core c =
    { s.core c with semPend := (s.core c).semPend ++ [⟨s.ac + 1, i, n⟩] } := by
  unfold Issued at h
  rw [State.semSignal, if_pos h, State.core_onCore]

/-- The core and queue of a completion that has been pushed, before its signal. -/
def State.pushed (s : State) (c : CoreId) (q : Nat) (o : DynOp) : State :=
  (s.onCore c fun k => { k with ops := k.ops.filter fun x => x.serial ≠ o.serial }).qPush c q o.token o.poison
    (if o.cls = 3 then o.desc else 0)

theorem State.pushed_core {q : Nat} (o : DynOp) (hs : (s.core c).skip q = []) : (s.pushed c q o).core c =
    { s.core c with
      ops := (s.core c).ops.filter fun x => x.serial ≠ o.serial
      queues := Store.set [] (s.core c).queues q
        ((s.core c).queue q ++ [⟨o.token, o.poison, if o.cls = 3 then o.desc else 0, s.ac + 1, false⟩]) } := by
  have hcore := s.core_onCore c fun k => { k with ops := k.ops.filter fun x => x.serial ≠ o.serial }
  rw [State.pushed, State.qPush_core (by rw [hcore]; exact hs), hcore]
  rfl

theorem exec_completionPush {q : BitVec 3} {o : DynOp} (hd : (s.core c).oldestDone q.toNat s.ac = some o)
    (ho : s.qOpen c q.toNat = true) : exec (.completionPush c q) s = .next ((s.pushed c q.toNat o).csSignal c o) := by
  rw [exec, execCompletionPush, hd]
  dsimp only
  rw [if_neg (by simp [ho])]
  rfl

theorem completionPush_pushes {q : BitVec 3} {o : DynOp} (hd : (s.core c).oldestDone q.toNat s.ac = some o)
    (ho : s.qOpen c q.toNat = true) (hs : (s.core c).skip q.toNat = []) :
    let i := bits o.desc.toNat 196 191
    let signals := (o.cls = 1 ∨ o.cls = 2) ∧ bits o.desc.toNat 197 197 = 1
    Gives (.completionPush c q) s fun t =>
      (t.core c).queue q.toNat =
        (s.core c).queue q.toNat ++ [⟨o.token, o.poison, if o.cls = 3 then o.desc else 0, s.ac + 1, false⟩] ∧
      (t.core c).ops = (s.core c).ops.filter (fun x => x.serial ≠ o.serial) ∧ OtherCores s c t ∧
      (¬signals → (t.core c).sems = (s.core c).sems ∧ (t.core c).semPend = (s.core c).semPend) ∧
      (signals → ¬Issued s c → (s.core c).sem i < 0xFFFF → (t.core c).sem i = (s.core c).sem i + 1) ∧
      (signals → Issued s c → (t.core c).semPend = (s.core c).semPend ++ [⟨s.ac + 1, i, 1⟩] ∧ (t.core c).sems = (s.core c).sems) := by
  intro i signals
  refine ⟨_, exec_completionPush hd ho, ?_⟩
  have hcore := State.pushed_core o hs
  have hothers : OtherCores s c (s.pushed c q.toNat o) := ((OtherCores.refl s c).setCore _).setCore _
  have hac : (s.pushed c q.toNat o).ac = s.ac := rfl
  generalize s.pushed c q.toNat o = u at hcore hothers hac ⊢
  have hqueue : (u.core c).queue q.toNat =
      (s.core c).queue q.toNat ++ [⟨o.token, o.poison, if o.cls = 3 then o.desc else 0, s.ac + 1, false⟩] := by
    rw [hcore]
    exact Store.get_set_same ..
  have hissued : Issued u c ↔ Issued s c := by rw [Issued, Issued, hcore, hac]
  have hsem : (u.core c).sem i = (s.core c).sem i := by rw [hcore]; rfl
  have hcond : ((o.cls = 1 ∨ o.cls = 2) ∧ bitAt o.desc.toNat 197 = true) = signals := by rw [bitAt_iff]
  rw [State.csSignal]
  simp only [hcond]
  by_cases hsig : signals
  · rw [if_pos hsig]
    obtain ⟨hother, sems, pend, p, hleaves⟩ := u.semSignal_leaves c i 1
    refine ⟨?_, ?_, hothers.trans hother, fun h => absurd hsig h, fun _ hi hlt => ?_, fun _ hi => ?_⟩
    · rw [← hqueue, hleaves]
      rfl
    · rw [hleaves, hcore]
    · rw [State.semSignal_adds (mt hissued.1 hi) (by rw [hsem]; exact hlt), hsem]
    · rw [State.semSignal_defers (hissued.2 hi), hcore, hac]
      exact ⟨rfl, rfl⟩
  · rw [if_neg hsig]
    refine ⟨hqueue, ?_, hothers, fun _ => ?_, fun h => absurd h hsig, fun h => absurd h hsig⟩
    · rw [hcore]
    · rw [hcore]
      exact ⟨rfl, rfl⟩

theorem completionPush_waits {q : BitVec 3} (ho : s.qOpen c q.toNat = false) : Gives (.completionPush c q) s fun t => t = s := by
  refine ⟨_, rfl, ?_⟩
  dsimp only
  split
  · rfl
  · exact if_pos (by simp [ho])

end

/-- Settles O10, clause by clause; `issue_bundleRun` is the issue of a bundle, `State.quiesce_quiesced` the end of a step. -/
theorem bundlesIssueHoldAndQuiesce : Obligations.BundlesIssueHoldAndQuiesce :=
  ⟨fun _ _ _ _ => slotRow_unissued, fun _ _ => bundleIssue_issues, fun _ _ => bundleIssue_holds,
    fun _ _ hm hh _ => bundleIssue_noop hm hh, fun _ _ => heldBundleIssue_issues, fun _ _ _ => holdTimeout_ends,
    fun _ _ => coreQuiesce_quiesces, fun _ _ _ _ => completionPush_pushes, fun _ _ _ => completionPush_waits⟩

end Sys2Proof.Machine
end

section
/-! SUPPORT. Reset values (O46), additions that pass the top of a semaphore (O52), the completion of every command (O50) and a
bank that is complete before its load ends (O9). -/

namespace Sys2Proof.Machine

/-! ### Reset (R247, R368, R565, R567, R671) -/

/-- Nothing is listed after reset, so a register holds the value of its layout. -/
theorem State.reg_reset (b : Blk) (off : Nat) : State.reset.reg b off = b.resetOf off % 2 ^ 32 := by
  simp [State.reg, State.reset]

/-- A die has the state CLEARING and no context (R368). -/
theorem Blk.resetOf_secDie (d : DieId) : (Blk.secDie d).resetOf 0x00 = 0x800000FF := rfl

/-- Settles O46: each register by its layout, each unit by the default of its table. -/
theorem resetLeavesTheStatedValues : Obligations.ResetLeavesTheStatedValues := by
  refine ⟨by decide, rfl, by decide, rfl, rfl, rfl, fun l => ⟨?_, rfl⟩, fun n => ?_, fun d => ?_, fun c => ?_⟩
  · exact (by decide : Link.reset.state = lkDown)
  · exact (by decide : rgParent Group.reset = 0x3F)
  · rw [State.dieState, State.fld, State.reg_reset, Blk.resetOf_secDie]
    decide
  · rw [State.reg_reset]
    rfl

/-! ### Semaphores (R227) -/

section
variable {s : State} {c : CoreId}

theorem Core.sem_setSem (k : Core) (i j v : Nat) : (k.setSem i v).sem j = if j = i then v else k.sem j := Store.get_set ..

/-- An addition that would pass 0xFFFF: the count stops there, with the fault and the mark of the step. -/
theorem State.semAdd_over {i n : Nat} (h : 0xFFFF < (s.core c).sem i + n) :
    s.semAdd c i n = (s.onCore c fun k => k.setSem i 0xFFFF).cqFaultMark c cqSem := if_pos h

theorem State.semAdd_over_core {i n : Nat} (h : 0xFFFF < (s.core c).sem i + n) :
    (s.semAdd c i n).core c = { (s.core c).setSem i 0xFFFF with poisoned := true } := by
  rw [State.semAdd_over h, State.cqFaultMark_core, State.core_onCore]

theorem State.semAdd_over_flag {i n : Nat} (h : 0xFFFF < (s.core c).sem i + n) :
    (s.semAdd c i n).reg (.cq c) 0x04 / 2 ^ 2 % 2 = 1 := by
  rw [State.semAdd_over h, State.reg_cqFaultMark]
  exact raised_bit _ (by decide)

theorem State.semAdd_others (i n : Nat) : OtherCores s c (s.semAdd c i n) := by
  by_cases h : 0xFFFF < (s.core c).sem i + n
  · rw [State.semAdd_over h]
    exact ((OtherCores.refl s c).setCore _).trans (State.cqFaultMark_others _ c cqSem)
  · rw [State.semAdd, if_neg h]
    exact (OtherCores.refl s c).setCore _

end

/-- Settles O52, from what such an addition leaves of its core and of the others. -/
theorem semaphoreOverflowIsFlagged : Obligations.SemaphoreOverflowIsFlagged := by
  intro s c i n h
  obtain ⟨hothers, -⟩ := State.semAdd_others (s := s) (c := c) i.val n
  have hsem (j : Nat) : ((s.semAdd c i.val n).core c).sem j = if j = i.val then 0xFFFF else (s.core c).sem j := by
    rw [State.semAdd_over_core h]
    exact ((s.core c).sem_setSem i.val j 0xFFFF :)
  refine ⟨by rw [hsem, if_pos rfl], State.semAdd_over_flag h, by rw [State.semAdd_over_core h], fun j hj => ?_, hothers⟩
  rw [hsem, if_neg (Fin.val_ne_of_ne hj)]

/-! ### Every command (R187, R210, R738) -/

/-- No arm of `exec` stops the block: one case a command, each with its own next state. -/
theorem exec_next (i : Instr) (s : State) : ∃ t, exec i s = .next t := by
  cases i <;> exact ⟨_, rfl⟩

/-- Settles O50: a command answers a next state, and the frame of every command (`stays`) keeps the queue and the time. -/
theorem everyCommandCompletes : Obligations.EveryCommandCompletes := by
  intro i s
  obtain ⟨t, ht⟩ := exec_next i s
  obtain ⟨⟨hpending, hac, hnow, -⟩, -⟩ := stays i s t ht
  exact ⟨t, ht, hpending, hac, hnow⟩

/-! ### A bank that is still loading (R188, R190, R460) -/

/-- A SWITCHBANK that finds no complete load in lockstep abandons its step, in the bank that it executes. -/
theorem State.switchOp_unloaded {s : State} {c : CoreId} {w : How}
    (h : ((s.core c).bankOf !(s.core c).bank).loaded s.ac = false) (hw : w.waits = false) (hf : w.forced = false) (t : Token) :
    s.switchOp c t w = (s.late c).abandon c := by
  simp [State.switchOp, h, hw, hf]

theorem State.late_abandon_bank (s : State) (c : CoreId) : (((s.late c).abandon c).core c).bank = (s.core c).bank := by
  have hlate : ((s.cqFault c cqLate).count (.cq c) 0x28 1).core c = s.core c :=
    Within.core (P := [.regs]) (State.count_within _ _ _ (State.raise_within _ _ _ (.refl _ _) (by simp)) (by simp)) (by simp) c
  simp only [State.abandon, State.markStep, State.late, State.core_onCore, hlate]

/-- A core in lockstep, in ac 0, whose other bank has its token while its load ends only in ac 5: the state that
PROGRAM_BLOCK leaves of a body of five entries. -/
def loadingState : State := oneCore 0 { Core.reset with mode := .lockstep, banks := [(1, ⟨true, 7, 0, 5⟩)] }

/-- Refutes O9: a bank has its complete bit and its token from the PROGRAM block on, and its load is complete only some ac
later (log 52); a SWITCHBANK before then is LATE and leaves the core in its bank. -/
theorem not_controlInstructionsMoveTheIndex : ¬ Obligations.ControlInstructionsMoveTheIndex := by
  intro h
  have hfree : Free loadingState 0 sC := ⟨by decide, by decide⟩
  obtain ⟨-, -, -, -, hswitch⟩ := (h loadingState 0).2 hfree
  obtain ⟨t, ht, hbank, -⟩ := hswitch 7 (by decide) (by decide)
  have hexec : exec (.switchbank 0 7) loadingState = .next (((loadingState.useSlots 0 (2 ^ sC)).late 0).abandon 0) := by
    rw [exec, execSwitchbank, State.ifRuns_free hfree, State.switchOp_unloaded] <;> decide
  obtain rfl : ((loadingState.useSlots 0 (2 ^ sC)).late 0).abandon 0 = t := by simpa using hexec.symm.trans ht
  rw [State.late_abandon_bank] at hbank
  exact absurd hbank (by decide)

end Sys2Proof.Machine
end

section
/-! SUPPORT. Instructions of the X and S slots on a core that runs: queues, semaphores, predicates and credit tests (O8). -/

namespace Sys2Proof.Machine

/-! ### Only one core changes -/

section
variable {s t u : State} {c : CoreId} {k k' : Core}

theorem OnlyCore.trans (h : OnlyCore s c k t) (g : OnlyCore t c k' u) : OnlyCore s c k' u := by
  obtain ⟨-, hothers, hrest⟩ := h
  obtain ⟨gcore, gothers, grest⟩ := g
  refine ⟨gcore, fun c' hne => (gothers c' hne).trans (hothers c' hne), ?_⟩
  calc { u with cores := s.cores } = { { u with cores := t.cores } with cores := s.cores } := rfl
    _ = s := by rw [grest, hrest]

theorem OnlyCore.congr (h : OnlyCore s c k t) (hk : k = k') : OnlyCore s c k' t := hk ▸ h

theorem OnlyCore.self (h : OnlyCore s c k t) : OnlyCore s c (t.core c) t := ⟨rfl, h.2⟩

/-- An issue marks the slot of its core and changes nothing else. -/
theorem OnlyCore.useSlots (s : State) (c : CoreId) (m : Nat) : OnlyCore s c ((s.useSlots c m).core c) (s.useSlots c m) :=
  (OnlyCore.onCore s c _).self

theorem OnlyCore.of_eq {f : Core → Core} (ht : t = s.onCore c f) (hk : f (s.core c) = k) : OnlyCore s c k t := by
  rw [ht, ← hk]
  exact .onCore s c f

/-- An instruction that only updates its core. -/
theorem OnlyCore.slot {slot : Nat} {f : Core → Core} (ht : t = (s.useSlots c (2 ^ slot)).onCore c f)
    (hk : f (inSlot s c slot) = k) : OnlyCore s c k t :=
  (OnlyCore.useSlots s c _).trans (.of_eq ht hk)

end

/-! ### What an issue leaves of its core (R148, R185) -/

section
variable {s : State} {c : CoreId}

theorem State.useSlots_core_eq (s : State) (c : CoreId) (m : Nat) : (s.useSlots c m).core c = { s.core c with
    slotsAt := s.ac + 1, slotsUsed := (if (s.core c).slotsAt = s.ac + 1 then (s.core c).slotsUsed else 0) ||| m } :=
  State.core_onCore s c _

@[simp] theorem State.useSlots_ac (m : Nat) : (s.useSlots c m).ac = s.ac := rfl

@[simp] theorem State.useSlots_how (m : Nat) : (s.useSlots c m).how c = s.how c := by
  simp only [State.how, State.useSlots_core_eq]

theorem State.useSlots_others (m : Nat) : OtherCores s c (s.useSlots c m) := (OtherCores.refl s c).setCore _

theorem State.useSlots_head (m q : Nat) : (s.useSlots c m).head c q = s.head c q := by
  rw [State.head, State.head, State.useSlots_core_eq]
  rfl

theorem State.useSlots_headToken (m q : Nat) : (s.useSlots c m).headToken c q = s.headToken c q := by
  rw [State.headToken, State.headToken, State.useSlots_head, State.useSlots_core_eq]
  rfl

theorem State.useSlots_msgReady (m q : Nat) : (s.useSlots c m).msgReady c q = s.msgReady c q := by
  rw [State.msgReady, State.msgReady, State.useSlots_core_eq]
  rfl

theorem HeadIs.useSlots {q : Nat} {t : Token} {e : QEntry} (h : HeadIs s c q t e) (m : Nat) :
    HeadIs (s.useSlots c m) c q t e := by
  obtain ⟨hd, hh, ht⟩ := h
  exact ⟨((s.useSlots_core c m).2.2.1 q).trans hd, (State.useSlots_head m q).trans hh, ht⟩

/-! ### Issue of an X- or S-slot instruction (R191, R200) -/

theorem gives_runs {i : Instr} {slot : Nat} {f : State → State} {post : State → Prop}
    (hexec : exec i s = .next (s.ifRuns c slot f)) (hf : Free s c slot) (hp : post (f (s.useSlots c (2 ^ slot)))) :
    Gives i s post := by
  rw [State.ifRuns_free hf] at hexec
  exact ⟨_, hexec, hp⟩

theorem gives_runsUnder {i : Instr} {slot : Nat} {p : Pred} {f : State → State} {post : State → Prop}
    (hexec : exec i s = .next (s.ifRuns c slot fun u => u.pred (u.how c) p f)) (h : RunsUnder s c slot p)
    (hp : post (f (s.useSlots c (2 ^ slot)))) : Gives i s post := by
  refine gives_runs hexec h.1 ?_
  rwa [State.useSlots_how, State.pred, if_pos h.2]

/-- An instruction whose predicate does not match only uses its slot (R200). -/
theorem gives_skipped {i : Instr} {slot : Nat} {p : Pred} {f : State → State}
    (hexec : exec i s = .next (s.ifRuns c slot fun u => u.pred (u.how c) p f)) (hf : Free s c slot)
    (hp : (s.how c).runs p = false) : Gives i s fun t => t = s.useSlots c (2 ^ slot) := by
  refine gives_runs hexec hf ?_
  rw [State.useSlots_how, State.pred, if_neg (by simp [hp])]

variable {p : Pred} {token : Token}

theorem exec_wait {q : BitVec 3} (hq : waitLegal q = true) : exec (.wait c p q token) s =
    .next (s.ifRuns c sS fun u => u.pred (u.how c) p fun u => u.waitOp c q.toNat token (u.how c)) := by
  simp only [exec, execWait, if_pos hq]

theorem exec_semsig {i : BitVec 6} {n : Byte} (hn : n ≠ 0) : exec (.semsig c p i n) s =
    .next (s.ifRuns c sS fun u => u.pred (u.how c) p fun u => u.semsigOp c i.toNat n.toNat) := by
  simp only [exec, execSemsig, if_neg hn]

theorem exec_semsigr {ch : BitVec 5} {i : BitVec 6} {n : BitVec 4} (hn : n ≠ 0) : exec (.semsigr c p ch i n) s =
    .next (s.ifRuns c sS fun u => u.pred (u.how c) p fun u => u.semsigrOp c ch.toNat i.toNat n.toNat) := by
  simp only [exec, execSemsigr, if_neg hn]

theorem exec_semwait {i : BitVec 6} {n : Byte} (hn : n ≠ 0) : exec (.semwait c p i n) s =
    .next (s.ifRuns c sS fun u => u.pred (u.how c) p fun u => u.semwaitOp c i.toNat n.toNat (u.how c)) := by
  simp only [exec, execSemwait, if_neg hn]

theorem exec_xissue {cq : BitVec 2} (hcq : cq ≠ 3) : exec (.xissue c p token cq) s =
    .next (s.ifRuns c sX fun u => u.pred (u.how c) p fun u => u.xissueOp c token cq.toNat (u.how c)) := by
  simp only [exec, execXissue, if_neg hcq]

theorem exec_mred {d e : Side} {w : BitVec 17} {l : BitVec 12} {r : BitVec 2} (hr : r ≠ 3) : exec (.mred c p d e w l r) s =
    .next (s.ifRuns c sX fun u => u.pred (u.how c) p fun u =>
      u.scheduled c (u.how c) fun u => u.mredOp c d e w.toNat l.toNat r.toNat) := by
  simp only [exec, execMred, if_neg hr]

/-! ### WAIT (R212, R359) -/

theorem State.reg_onCore (s : State) (c : CoreId) (f : Core → Core) (b : Blk) (off : Nat) :
    (s.onCore c f).reg b off = s.reg b off := State.reg_congr rfl ..

theorem State.qPop_eq (s : State) (c : CoreId) (q : Nat) : (s.qPop c q).core c =
    { (s.core c).setQueue q ((s.core c).queue q).tail with
      qRoom := if s.qFull c q then Store.set 0 (s.core c).qRoom q (s.ac + 1) else (s.core c).qRoom } :=
  State.core_onCore s c _

/-- A head whose parity holds leaves its queue without a register changing. -/
theorem State.delivered_only {q : Nat} {e : QEntry} (hb : e.bad = false) :
    OnlyCore s c ((s.delivered c q e).core c) (s.delivered c q e) := by
  have hpop : OnlyCore s c _ (s.qPop c q) := OnlyCore.onCore s c _
  have hsound : (s.qPop c q).entryParity c false = s.qPop c q := rfl
  rw [State.delivered, hb, hsound]
  split
  · exact (hpop.trans (OnlyCore.onCore _ c _)).self
  · exact hpop.self

/-- A head whose parity fails sets MX_MEMERR.qpar (R359). -/
theorem State.delivered_qpar {q : Nat} {e : QEntry} (hb : e.bad = true) :
    (s.delivered c q e).reg (.mx c) 0x40 / 2 ^ 5 % 2 = 1 := by
  have heq : s.delivered c q e = ((s.qPop c q).memErr c 5).markStep c := by
    simp only [State.delivered, hb, Bool.or_true, if_true, State.entryParity]
  rw [heq, State.markStep, State.reg_onCore, State.memErr, State.orReg, State.reg_setReg_same]
  exact raised_bit _ (by decide)

theorem wait_takes {q : BitVec 3} {e : QEntry} (hr : RunsUnder s c sS p) (hq : waitLegal q = true)
    (hh : HeadIs s c q.toNat token e) {post : State → Prop}
    (hp : post ((s.useSlots c (2 ^ sS)).delivered c q.toNat e)) : Gives (.wait c p q token) s post := by
  refine gives_runsUnder (exec_wait hq) hr ?_
  rwa [State.waitOp, State.take_head (hh.useSlots _)]

theorem wait_consumes {q : BitVec 3} {e : QEntry} (hr : RunsUnder s c sS p) (hq : waitLegal q = true)
    (hh : HeadIs s c q.toNat token e) :
    (e.bad = false → Gives (.wait c p q token) s fun t =>
      OnlyCore s c { (inSlot s c sS).setQueue q.toNat ((s.core c).queue q.toNat).tail with
        qRoom := if s.qFull c q.toNat then Store.set 0 (s.core c).qRoom q.toNat (s.ac + 1) else (s.core c).qRoom
        poisoned := (s.core c).poisoned || e.poison } t) ∧
    (e.bad = true → Gives (.wait c p q token) s fun t =>
      (t.core c).queue q.toNat = ((s.core c).queue q.toNat).tail ∧ (t.core c).poisoned = true ∧
      t.reg (.mx c) 0x40 / 2 ^ 5 % 2 = 1 ∧ OtherCores s c t) := by
  obtain ⟨-, hqueue, -, hpois⟩ := s.useSlots_core c (2 ^ sS)
  have hcore := (s.useSlots c (2 ^ sS)).delivered_core c q.toNat e
  refine ⟨fun hb => wait_takes hr hq hh ?_, fun hb => wait_takes hr hq hh ⟨?_, ?_, State.delivered_qpar hb, ?_⟩⟩
  · refine ((OnlyCore.useSlots s c _).trans (State.delivered_only hb)).congr ?_
    have hfull : (s.useSlots c (2 ^ sS)).qFull c q.toNat = s.qFull c q.toNat := by rw [State.qFull, State.qFull, hqueue]
    rw [hcore, hb, Bool.or_false, hpois, State.qPop_eq, hqueue, hfull, State.useSlots_ac, State.useSlots_core_eq]
    simp only [inSlot, State.useSlots_core_eq]
  · rw [hcore, State.qPop_eq, State.useSlots_core_eq]
    exact Core.queue_setQueue ..
  · simp [hcore, hb]
  · exact (State.useSlots_others _).trans (State.delivered_others _ e)

/-! ### XISSUE (R210, R218, R255, R278) -/

theorem State.useSlots_xiqBlocks (m : Nat) (t : Token) : (s.useSlots c m).xiqBlocks c t = s.xiqBlocks c t := by
  simp only [State.xiqBlocks, State.useSlots_head]
  rw [State.useSlots_core_eq]
  rfl

/-- The operation that a core adds to its list (R210). -/
def Core.newOp (k : Core) (cls : BitVec 4) (q : Nat) (d : BitVec 256) (t : Token) (poison : Bool) (stage : OpStage) : DynOp :=
  ⟨k.nextSerial, cls, q, d, t, poison, stage, 0, 0, stage == .finished, 0, false⟩

theorem State.opAdd_core (s : State) (c : CoreId) (cls : BitVec 4) (q : Nat) (d : BitVec 256) (t : Token) (poison : Bool)
    (stage : OpStage) : (s.opAdd c cls q d t poison stage).core c = { s.core c with
      ops := (s.core c).ops ++ [(s.core c).newOp cls q d t poison stage], nextSerial := (s.core c).nextSerial + 1 } :=
  State.core_onCore s c _

/-- An XSQ head with the token and the completion queue of its class becomes an operation in XIQ. -/
theorem State.xissueOp_enters {e : QEntry} {cq q : Nat} (w : How) (hh : HeadIs s c qXSQ token e)
    (hx : (s.core c).xiq.length < 16) (hid : descBadId e.body = false) (hq : classQueue (descClass e.body) = some q)
    (hcq : q = cqQueue cq) : s.xissueOp c token cq w =
      (s.delivered c qXSQ e).opAdd c (BitVec.ofNat 4 (descClass e.body)) q e.body token (e.poison || e.bad) .xiq := by
  have hblocks : s.xiqBlocks c token = false := by simp [State.xiqBlocks, hx]
  simp only [State.xissueOp, hblocks, State.take_head hh w, hid, hq, if_pos hcq]
  rfl

theorem xissue_enters {cq : BitVec 2} {e : QEntry} (hr : RunsUnder s c sX p) (hcq : cq ≠ 3) (hh : HeadIs s c qXSQ token e)
    (hx : (s.core c).xiq.length < 16) (hid : descBadId e.body = false)
    (hq : classQueue (descClass e.body) = some (cqQueue cq.toNat)) : Gives (.xissue c p token cq) s fun t =>
      (t.core c).queue qXSQ = ((s.core c).queue qXSQ).tail ∧
      (∃ o : DynOp, (t.core c).ops = (s.core c).ops ++ [o] ∧ o.serial = (s.core c).nextSerial ∧ o.cls.toNat = descClass e.body ∧
        o.queue = cqQueue cq.toNat ∧ o.desc = e.body ∧ o.token = token ∧ o.poison = (e.poison || e.bad) ∧ o.stage = .xiq) ∧
      (t.core c).poisoned = ((s.core c).poisoned || e.poison || e.bad) ∧ OtherCores s c t := by
  refine gives_runsUnder (exec_xissue hcq) hr ?_
  have hcore := s.useSlots_core_eq c (2 ^ sX)
  have hothers : OtherCores s c (s.useSlots c (2 ^ sX)) := State.useSlots_others _
  have hhead := hh.useSlots (2 ^ sX)
  generalize s.useSlots c (2 ^ sX) = u at hcore hothers hhead ⊢
  have hlen : (u.core c).xiq.length < 16 := by rw [hcore]; exact hx
  have hdel := u.delivered_core c qXSQ e
  rw [State.xissueOp_enters _ hhead hlen hid hq rfl]
  have hcls : descClass e.body < 2 ^ 4 := Nat.mod_lt _ (by decide)
  refine ⟨?_, ⟨(s.core c).newOp (BitVec.ofNat 4 (descClass e.body)) (cqQueue cq.toNat) e.body token (e.poison || e.bad) .xiq,
    ?_, rfl, Nat.mod_eq_of_lt hcls, rfl, rfl, rfl, rfl, rfl⟩, ?_, (hothers.trans (State.delivered_others _ e)).setCore _⟩
  · rw [State.opAdd_core, hdel, State.qPop_eq, hcore]
    exact Core.queue_setQueue ..
  · rw [State.opAdd_core, hdel, State.qPop_eq, hcore]
    rfl
  · rw [State.opAdd_core, hdel, hcore, ← Bool.or_assoc]

theorem State.late_regs (s : State) (c : CoreId) : Within [.regs] s ((s.cqFault c cqLate).count (.cq c) 0x28 1) :=
  State.count_within _ _ _ (State.raise_within _ _ _ (.refl _ _) (by simp)) (by simp)

/-- A LATE fault marks the step and sets its bit of CQ_FAULT (R214). -/
theorem State.late_leaves (s : State) (c : CoreId) : (s.late c).core c = { s.core c with poisoned := true } ∧
    (s.late c).reg (.cq c) 0x04 / 2 % 2 = 1 ∧ OtherCores s c (s.late c) := by
  refine ⟨?_, ?_, ((OtherCores.refl s c).ofRegs (s.late_regs c)).setCore _⟩
  · rw [State.late, State.markStep, State.core_onCore, (s.late_regs c).core (by simp)]
  · rw [State.late, State.markStep, State.reg_onCore, State.reg_count_off _ _ _ (by decide), State.cqFault, State.reg_raise_cq, if_pos rfl]
    simpa [cqLate] using raised_bit (s.reg (.cq c) 0x04) (k := 1) (by decide)

theorem xissue_late {cq : BitVec 2} {e : QEntry} (hr : RunsUnder s c sX p) (hcq : cq ≠ 3)
    (hm : (s.core c).mode = .lockstep) (hh : HeadIs s c qXSQ token e) (hx : 16 ≤ (s.core c).xiq.length) :
    Gives (.xissue c p token cq) s fun t =>
      (t.core c).queue qXSQ = (s.core c).queue qXSQ ∧ t.reg (.cq c) 0x04 / 2 % 2 = 1 ∧
      (∃ o : DynOp, (t.core c).ops = (s.core c).ops ++ [o] ∧ o.queue = cqQueue cq.toNat ∧ o.token = token ∧ o.poison = true ∧
        o.stage = .finished) ∧
      (t.core c).poisoned = true ∧ OtherCores s c t := by
  refine gives_runsUnder (exec_xissue hcq) hr ?_
  have hblocks : s.xiqBlocks c token = true := by
    obtain ⟨hd, hhead, ht⟩ := hh
    simp [State.xiqBlocks, hx, hd, hhead, ht]
  have hop : (s.useSlots c (2 ^ sX)).xissueOp c token cq.toNat ((s.useSlots c (2 ^ sX)).how c) =
      ((s.useSlots c (2 ^ sX)).late c).poisonDone c (cqQueue cq.toNat) token := by
    rw [State.useSlots_how]
    simp [State.xissueOp, State.useSlots_xiqBlocks, hblocks, State.how, How.waits, hm]
  obtain ⟨hlate, hflag, hothers⟩ := (s.useSlots c (2 ^ sX)).late_leaves c
  rw [State.useSlots_core_eq] at hlate
  have hothers : OtherCores s c ((s.useSlots c (2 ^ sX)).late c) := (State.useSlots_others _).trans hothers
  rw [hop, State.poisonDone]
  generalize (s.useSlots c (2 ^ sX)).late c = u at hlate hflag hothers ⊢
  have hadd := u.opAdd_core c 0 (cqQueue cq.toNat) 0 token true .finished
  rw [hlate] at hadd
  refine ⟨?_, by rwa [State.opAdd, State.reg_onCore],
    ⟨(s.core c).newOp 0 (cqQueue cq.toNat) 0 token true .finished, ?_, rfl, rfl, rfl, rfl⟩, ?_, hothers.setCore _⟩
  · rw [hadd]
    rfl
  · rw [hadd]
    rfl
  · rw [hadd]

/-! ### Tests and signals (R217, R226, R228, R237, R283, R285) -/

/-- A test only writes its predicate. -/
theorem State.writePred_only (s : State) (c : CoreId) (slot : Nat) (pd : BitVec 3) (v : Bool) :
    OnlyCore s c { inSlot s c slot with preds := setPred (s.core c).preds pd v } ((s.useSlots c (2 ^ slot)).writePred c pd v) := by
  refine .slot rfl ?_
  simp only [inSlot, State.useSlots_core_eq]

theorem qtest_tests {pd q : BitVec 3} (hf : Free s c sS) (hq : q ≠ 7) : Gives (.qtest c pd q token) s fun t =>
      OnlyCore s c { inSlot s c sS with preds := setPred (s.core c).preds pd (s.headToken c q.toNat == some token) } t := by
  refine gives_runs (f := fun u => u.qtestOp c pd q.toNat token) ?_ hf ?_
  · simp only [exec, execQtest, if_neg hq]
  · rw [State.qtestOp, State.useSlots_headToken]
    exact s.writePred_only c sS pd _

theorem mpoll_tests {pd : BitVec 3} {q : BitVec 4} (hf : Free s c sS) : Gives (.mpoll c pd q) s fun t =>
      OnlyCore s c { inSlot s c sS with preds := setPred (s.core c).preds pd (s.msgReady c q.toNat) } t := by
  refine gives_runs rfl hf ?_
  rw [State.useSlots_msgReady]
  exact s.writePred_only c sS pd _

theorem semsig_signals {i : BitVec 6} {n : Byte} (hr : RunsUnder s c sS p) (hn : n ≠ 0) : Gives (.semsig c p i n) s fun t =>
      OnlyCore s c { inSlot s c sS with semPend := (s.core c).semPend ++ [⟨s.ac + 1, i.toNat, n.toNat⟩] } t := by
  refine gives_runsUnder (exec_semsig hn) hr (.slot rfl ?_)
  simp only [inSlot, State.useSlots_core_eq, State.useSlots_ac]

theorem semsigr_signals {chan : BitVec 5} {i : BitVec 6} {n : BitVec 4} {ch : Channel} (hr : RunsUnder s c sS p) (hn : n ≠ 0)
    (hc : (s.core c).chan chan.toNat = some ch) : Gives (.semsigr c p chan i n) s fun t =>
      OnlyCore s c { inSlot s c sS with dyn := (s.core c).dyn ++
        [headerAlone ch.dest.toNat (.sig c.val i.toNat n.toNat) s.ac] } t := by
  refine gives_runsUnder (exec_semsigr hn) hr ?_
  have hchan : ((s.useSlots c (2 ^ sS)).core c).chan chan.toNat = some ch := by rw [State.useSlots_core_eq]; exact hc
  have hop : (s.useSlots c (2 ^ sS)).semsigrOp c chan.toNat i.toNat n.toNat = (s.useSlots c (2 ^ sS)).onCore c fun k =>
      { k with dyn := k.dyn ++ [headerAlone ch.dest.toNat (.sig c.val i.toNat n.toNat) (s.useSlots c (2 ^ sS)).ac] } := by
    simp only [State.semsigrOp, hchan]
    rfl
  refine .slot hop ?_
  simp only [inSlot, State.useSlots_core_eq, State.useSlots_ac]

/-- A test of a semaphore, with the additions due in place, takes what it asks for and writes its predicate (R226). -/
theorem semtry_takes {pd : BitVec 3} {i : BitVec 6} {n : Byte} (hf : Free s c sS) (hn : n ≠ 0) :
    let d := (s.useSlots c (2 ^ sS)).semDue c
    let k := d.core c
    let v := k.sem i.toNat
    Gives (.semtry c pd i n) s fun t =>
      OnlyCore d c { (if n.toNat ≤ v then k.setSem i.toNat (v - n.toNat) else k) with
        preds := setPred k.preds pd (decide (n.toNat ≤ v)) } t := by
  intro d k v
  refine gives_runs (f := fun u => u.semtryOp c pd i.toNat n.toNat) ?_ hf ?_
  · simp only [exec, execSemtry, if_neg hn]
  · rw [State.semtryOp]
    dsimp only
    by_cases h : n.toNat ≤ v
    · rw [if_pos h, if_pos h, decide_eq_true h]
      refine ((OnlyCore.onCore d c _).trans (.of_eq rfl rfl)).congr ?_
      rw [State.core_onCore, Core.setSem]
    · rw [if_neg h, if_neg h, decide_eq_false h]
      exact .of_eq rfl rfl

theorem semwait_takes {i : BitVec 6} {n : Byte} (hr : RunsUnder s c sS p) (hn : n ≠ 0) :
    let d := (s.useSlots c (2 ^ sS)).semDue c
    let k := d.core c
    n.toNat ≤ k.sem i.toNat →
    Gives (.semwait c p i n) s fun t => OnlyCore d c (k.setSem i.toNat (k.sem i.toNat - n.toNat)) t := by
  intro d k h
  refine gives_runsUnder (exec_semwait hn) hr ?_
  have hop : (s.useSlots c (2 ^ sS)).semwaitOp c i.toNat n.toNat ((s.useSlots c (2 ^ sS)).how c) =
      d.onCore c fun x => x.setSem i.toNat (k.sem i.toNat - n.toNat) := if_pos h
  exact .of_eq hop rfl

theorem credtest_tests {pd : BitVec 3} {chan : BitVec 5} {k : BitVec 3} (hf : Free s c sX) :
    let d := (s.useSlots c (2 ^ sX)).creditsDue c
    let x := d.core c
    Gives (.credtest c pd chan k) s fun t =>
      OnlyCore d c { x with preds := setPred x.preds pd (decide (k.toNat + 1 ≤ x.credit chan.toNat)) } t := by
  intro d x
  refine gives_runs (f := fun u => u.credtestOp c pd chan.toNat k.toNat) rfl hf ?_
  rw [State.credtestOp]
  exact .of_eq rfl rfl

end

/-- Settles O8, clause by clause; the last clause is `gives_skipped` for each predicated instruction. -/
theorem queueAndSemaphoreInstructionsComplete : Obligations.QueueAndSemaphoreInstructionsComplete :=
  ⟨fun _ _ _ _ _ _ => wait_consumes, fun _ _ _ _ _ _ => xissue_enters, fun _ _ _ _ _ _ => xissue_late,
    fun _ _ _ _ _ => qtest_tests, fun _ _ _ _ => mpoll_tests, fun _ _ _ _ _ => semsig_signals,
    fun _ _ _ _ _ _ _ => semsigr_signals, fun _ _ _ _ _ => semtry_takes, fun _ _ _ _ _ => semwait_takes,
    fun _ _ _ _ _ => credtest_tests, fun _ _ _ hp =>
      ⟨fun hf => ⟨fun _ _ hq => gives_skipped (exec_wait hq) hf hp, fun _ _ hn => gives_skipped (exec_semsig hn) hf hp,
          fun _ _ _ hn => gives_skipped (exec_semsigr hn) hf hp, fun _ _ hn => gives_skipped (exec_semwait hn) hf hp⟩,
        fun hf => ⟨fun _ _ hcq => gives_skipped (exec_xissue hcq) hf hp, fun _ _ _ => gives_skipped rfl hf hp,
          fun _ _ _ => gives_skipped rfl hf hp, fun _ _ _ _ => gives_skipped rfl hf hp,
          fun _ _ _ _ _ hr => gives_skipped (exec_mred hr) hf hp, fun _ _ _ _ => gives_skipped rfl hf hp,
          fun _ _ => gives_skipped rfl hf hp⟩⟩⟩

end Sys2Proof.Machine
end

section
/-! SUPPORT. Messages, signals and credits: at their core and through the routers (O12). -/

namespace Sys2Proof.Machine

section
variable {s t u : State} {c : CoreId} {k : Core}

theorem OnlyCore.ac (h : OnlyCore s c k t) : t.ac = s.ac := (congrArg State.ac h.2.2 :)

theorem OnlyCore.regs (h : OnlyCore s c k t) : t.regs = s.regs := (congrArg State.regs h.2.2 :)

theorem OnlyCore.otherCores (h : OnlyCore s c k t) : OtherCores s c t := by
  obtain ⟨-, hothers, hrest⟩ := h
  exact ⟨hothers, (congrArg State.am hrest :), (congrArg State.ws hrest :), (congrArg State.psm hrest :),
    (congrArg State.tb hrest :), (congrArg State.cs hrest :)⟩

/-! ### Accesses that a message owes (R280, R281, R345) -/

/-- The core with flits added to its router, accesses owed and their lanes taken. -/
def Core.owing (k : Core) (use : List (Nat × Nat × Bool)) (fs : List DynFlit) (ts : List Timed) : Core :=
  { k with amUse := use, dyn := k.dyn ++ fs, timed := k.timed ++ ts }

/-- From `s` to `t` the core took on flits and accesses, and it holds lanes only in ac before `d`. -/
def TakesOn (s : State) (c : CoreId) (d : Nat) (fs : List DynFlit) (ts : List Timed) (t : State) : Prop :=
  ∃ use, OnlyCore s c ((s.core c).owing use fs ts) t ∧ ∀ u ∈ use, u.1 < d

theorem TakesOn.refl {d : Nat} (h : (s.core c).amUse = []) : TakesOn s c d [] [] s := by
  refine ⟨[], ⟨?_, fun _ _ => rfl, rfl⟩, by simp⟩
  rw [Core.owing, List.append_nil, List.append_nil, ← h]

theorem TakesOn.ac {d : Nat} {fs : List DynFlit} {ts : List Timed} (h : TakesOn s c d fs ts t) : t.ac = s.ac :=
  h.choose_spec.1.ac

/-- The core with a flit at its router (R291). -/
def Core.addFlit (f : DynFlit) (k : Core) : Core := { k with dyn := k.dyn ++ [f] }

theorem State.dynEnter_eq (s : State) (c : CoreId) (cls sub dest : Nat) (port : Bool) (idx : Nat) (last : Bool) (b : DynBody)
    (p : Bool) : s.dynEnter c cls sub dest port idx last b p =
      s.onCore c (Core.addFlit ⟨cls, sub, dest, port, idx, last, b, p, outLocal, s.ac, s.ac⟩) := rfl

theorem State.dynLater_eq (s : State) (c : CoreId) (dest j : Nat) (last : Bool) (e : MsgEntry) : s.dynLater c dest j last e =
    s.onCore c (Core.addFlit ⟨1, 0, dest, false, j + 1, last, .msg e, false, outLocal, s.ac + 2 + j, s.ac⟩) := rfl

theorem Core.owing_addFlit (k : Core) (use : List (Nat × Nat × Bool)) (fs : List DynFlit) (ts : List Timed) (f : DynFlit) :
    (k.owing use fs ts).addFlit f = k.owing use (fs ++ [f]) ts := by
  simp only [Core.owing, Core.addFlit, List.append_assoc]

theorem State.addFlit_takesOn {d : Nat} {fs : List DynFlit} {ts : List Timed} (f : DynFlit) (h : TakesOn s c d fs ts t) :
    TakesOn s c d (fs ++ [f]) ts (t.onCore c (Core.addFlit f)) := by
  obtain ⟨use, honly, huse⟩ := h
  refine ⟨use, honly.trans (.of_eq rfl ?_), huse⟩
  rw [honly.1, Core.owing_addFlit]

/-- The core with lanes taken in an ac for an access of fixed time (R345). -/
def Core.takeLanes (at_ mask : Nat) (k : Core) : Core := { k with amUse := k.amUse ++ [(at_, mask, true)] }

/-- The core with an access owed (R345). -/
def Core.owe (x : Timed) (k : Core) : Core := { k with timed := k.timed ++ [x] }

theorem Core.owing_owe (k : Core) (use : List (Nat × Nat × Bool)) (fs : List DynFlit) (ts : List Timed) (d m : Nat) (x : Timed) :
    ((k.owing use fs ts).takeLanes d m).owe x = k.owing (use ++ [(d, m, true)]) fs (ts ++ [x]) := by
  simp only [Core.owing, Core.takeLanes, Core.owe, List.append_assoc]

/-- Lanes of an ac in which the core holds none are taken, so the access is not lost (R345, R348). -/
theorem State.timedAccess_only {d : Nat} (a n : Nat) (kind : TimedKind) (huse : ∀ u ∈ (t.core c).amUse, u.1 < d) :
    OnlyCore t c (((t.core c).takeLanes d (laneMask a n)).owe ⟨d, a, false, kind⟩) (t.timedAccess c d a n kind) := by
  have hfree : ((t.core c).amUse.any fun u => u.1 = d && u.2.2 && (u.2.1 &&& laneMask a n) ≠ 0) = false := by
    refine List.any_eq_false.2 fun u hu => ?_
    simp [(huse u hu).ne]
  have heq : t.timedAccess c d a n kind =
      (t.onCore c (Core.takeLanes d (laneMask a n))).onCore c (Core.owe ⟨d, a, false, kind⟩) := by
    rw [State.timedAccess, State.claim, hfree, if_neg Bool.false_ne_true]
    rfl
  refine (OnlyCore.onCore t c (Core.takeLanes d (laneMask a n))).trans (.of_eq heq ?_)
  rw [State.core_onCore]

theorem State.timedAccess_takesOn {d : Nat} {fs : List DynFlit} {ts : List Timed} (a n : Nat) (kind : TimedKind)
    (h : TakesOn s c d fs ts t) : TakesOn s c (d + 1) fs (ts ++ [⟨d, a, false, kind⟩]) (t.timedAccess c d a n kind) := by
  obtain ⟨use, honly, huse⟩ := h
  have hamUse : (t.core c).amUse = use := by rw [honly.1, Core.owing]
  refine ⟨use ++ [(d, laneMask a n, true)], (honly.trans (State.timedAccess_only a n kind (hamUse ▸ huse))).congr ?_, ?_⟩
  · rw [honly.1, Core.owing_owe]
  · intro u hu
    rcases List.mem_append.1 hu with hu | hu
    · exact (huse u hu).trans (Nat.lt_succ_self d)
    · rw [List.mem_singleton.1 hu]
      exact Nat.lt_succ_self d

/-- A list of accesses, each in the ac after the one before it, loses none. -/
theorem TakesOn.foldl {β : Type} {f : State → β → State} {flits : β → List DynFlit} {acc : β → Timed}
    (hstep : ∀ b fs ts t, TakesOn s c (acc b).due fs ts t →
      TakesOn s c ((acc b).due + 1) (fs ++ flits b) (ts ++ [acc b]) (f t b)) (l : List β) :
    ∀ {d fs ts t}, TakesOn s c d fs ts t → (l.map fun b => (acc b).due) = List.range' d l.length →
      TakesOn s c (d + l.length) (fs ++ l.flatMap flits) (ts ++ l.map acc) (l.foldl f t) := by
  induction l with
  | nil => intro d fs ts t h _; simpa using h
  | cons b l ih =>
    intro d fs ts t h hdue
    rw [List.map_cons, List.length_cons, List.range'_succ, List.cons.injEq] at hdue
    obtain ⟨rfl, hrest⟩ := hdue
    have := ih (hstep b fs ts t h) hrest
    rw [List.append_assoc, List.append_assoc] at this
    rwa [List.length_cons, List.foldl_cons, List.flatMap_cons, List.map_cons, Nat.add_comm l.length 1, ← Nat.add_assoc]

/-! ### MSEND (R230, R233, R280) -/

/-- The flit of entry `j` of a message of `k + 1` entries, as it waits behind the header. -/
def msendFlit (c : CoreId) (ch : Channel) (chan : Nat) (tag : Token) (k now j : Nat) : DynFlit :=
  ⟨1, 0, ch.dest.toNat, false, j + 1, j == k, .msg ⟨c.val, chan, ch.q.toNat, tag, k + 1, j, 0, false, 0⟩, false, outLocal,
    now + 2 + j, now⟩

/-- The read that MSEND owes for entry `j`. -/
def msendRead (am now j : Nat) : Timed := ⟨now + 2 + j, 64 * ((am + j) % 65536), false, .msg j⟩

/-- MSEND's work for one entry. -/
def State.msendEntry (c : CoreId) (ch : Channel) (chan : Nat) (tag : Token) (k am : Nat) (s : State) (j : Nat) : State :=
  (s.dynLater c ch.dest.toNat j (j == k) ⟨c.val, chan, ch.q.toNat, tag, k + 1, j, 0, false, 0⟩).timedAccess c (s.ac + 2 + j)
    (64 * ((am + j) % 65536)) 64 (.msg j)

theorem State.msendEntry_takesOn {ch : Channel} {chan k am d : Nat} {tag : Token} {fs : List DynFlit} {ts : List Timed} {j : Nat}
    (hd : d = s.ac + 2 + j) (h : TakesOn s c d fs ts t) :
    TakesOn s c (d + 1) (fs ++ [msendFlit c ch chan tag k s.ac j]) (ts ++ [msendRead am s.ac j])
      (t.msendEntry c ch chan tag k am j) := by
  rw [State.msendEntry, h.ac, msendRead, ← hd]
  refine State.timedAccess_takesOn _ _ _ ?_
  rw [State.dynLater_eq, h.ac, ← hd, msendFlit, ← hd]
  exact State.addFlit_takesOn _ h

/-- The core with the credits of a message spent (R233). -/
def Core.spend (chan n : Nat) (k : Core) : Core := { k with credits := Store.set 0 k.credits chan (k.credit chan - n) }

theorem State.msendOp_only {chan k am : Nat} {tag : Token} {ch : Channel} (hc : (s.core c).chan chan = some ch)
    (hu : (s.core c).amUse = []) : ∃ use, OnlyCore s c (((s.core c).spend chan (k + 1)).owing use
        (⟨1, 0, ch.dest.toNat, false, 0, false, .head, false, outLocal, s.ac, s.ac⟩ ::
          (List.range (k + 1)).map (msendFlit c ch chan tag k s.ac)) ((List.range (k + 1)).map (msendRead am s.ac)))
      (s.msendOp c chan k am tag) := by
  have hop : s.msendOp c chan k am tag = (List.range (k + 1)).foldl (State.msendEntry c ch chan tag k am)
      ((s.onCore c (Core.spend chan (k + 1))).dynEnter c 1 0 ch.dest.toNat false 0 false .head false) := by
    rw [State.msendOp, hc]
    rfl
  have hspend : OnlyCore s c ((s.core c).spend chan (k + 1)) (s.onCore c (Core.spend chan (k + 1))) := .onCore s c _
  rw [hop, State.dynEnter_eq]
  generalize s.onCore c (Core.spend chan (k + 1)) = t at hspend ⊢
  have hnone : (t.core c).amUse = [] := by rw [hspend.1]; exact hu
  have hhead := State.addFlit_takesOn ⟨1, 0, ch.dest.toNat, false, 0, false, .head, false, outLocal, t.ac, t.ac⟩
    (TakesOn.refl (d := t.ac + 2) hnone)
  obtain ⟨use, honly, -⟩ := TakesOn.foldl (acc := msendRead am t.ac)
    (fun j fs ts u h => State.msendEntry_takesOn (ch := ch) (chan := chan) (tag := tag) (k := k) (am := am) rfl h)
    (List.range (k + 1)) hhead (by rw [List.length_range, List.range'_eq_map_range]; rfl)
  refine ⟨use, ?_⟩
  have := hspend.trans honly
  rw [hspend.1, hspend.ac, ← List.map_eq_flatMap] at this
  rwa [hspend.ac]

/-- The core with the credits due in place (R239). -/
def Core.dueCredits (now : Nat) (k : Core) : Core := { k with
  credits := (k.creditPend.filter fun a => a.due ≤ now).foldl (fun m a => Store.set 0 m a.s (Store.get 0 m a.s + a.n)) k.credits
  creditPend := k.creditPend.filter fun a => now < a.due }

theorem State.creditsDue_core (s : State) (c : CoreId) : (s.creditsDue c).core c = (s.core c).dueCredits s.ac :=
  State.core_onCore s c _

theorem Core.dueCredits_credit {k' : Core} (now i : Nat) (hc : k.credits = k'.credits) (hp : k.creditPend = k'.creditPend) :
    (k.dueCredits now).credit i = (k'.dueCredits now).credit i := by
  simp only [Core.credit, Core.dueCredits, hc, hp]

theorem State.useSlots_keeps (s : State) (c : CoreId) (m : Nat) :
    ((s.useSlots c m).core c).credits = (s.core c).credits ∧ ((s.useSlots c m).core c).creditPend = (s.core c).creditPend ∧
    ((s.useSlots c m).core c).chans = (s.core c).chans ∧ ((s.useSlots c m).core c).amUse = (s.core c).amUse ∧
    ((s.useSlots c m).core c).dyn = (s.core c).dyn ∧ ((s.useSlots c m).core c).timed = (s.core c).timed := by
  rw [State.useSlots_core_eq]
  exact ⟨rfl, rfl, rfl, rfl, rfl, rfl⟩

theorem msend_sends {p : Pred} {chan : BitVec 5} {k : BitVec 3} {am : BitVec 16} {tag : Token} {ch : Channel}
    (hr : RunsUnder s c sX p) (hc : (s.core c).chan chan.toNat = some ch) (hu : (s.core c).amUse = [])
    (hk : k.toNat + 1 ≤ ((s.creditsDue c).core c).credit chan.toNat) :
    let x := ((s.useSlots c (2 ^ sX)).creditsDue c).core c
    Gives (.msend c p chan k am tag) s fun t => ∃ use, OnlyCore s c { x with
      amUse := use
      credits := Store.set 0 x.credits chan.toNat (x.credit chan.toNat - (k.toNat + 1))
      dyn := (s.core c).dyn ++ ⟨1, 0, ch.dest.toNat, false, 0, false, .head, false, outLocal, s.ac, s.ac⟩ ::
        (List.range (k.toNat + 1)).map (msendFlit c ch chan.toNat tag k.toNat s.ac)
      timed := (s.core c).timed ++ (List.range (k.toNat + 1)).map (msendRead am.toNat s.ac) } t := by
  intro x
  refine gives_runsUnder rfl hr ?_
  obtain ⟨hcredits, hpend, hchans, hamUse, hdyn, htimed⟩ := s.useSlots_keeps c (2 ^ sX)
  have hx : x = ((s.useSlots c (2 ^ sX)).core c).dueCredits s.ac := (s.useSlots c (2 ^ sX)).creditsDue_core c
  have honly : OnlyCore s c x ((s.useSlots c (2 ^ sX)).creditsDue c) :=
    (OnlyCore.useSlots s c _).trans (OnlyCore.onCore _ c _).self
  rw [State.msendSlot]
  clear_value x
  generalize (s.useSlots c (2 ^ sX)).creditsDue c = u at honly ⊢
  generalize (s.useSlots c (2 ^ sX)).core c = k0 at hx hcredits hpend hchans hamUse hdyn htimed
  have hcredit : k.toNat + 1 ≤ x.credit chan.toNat := by
    rwa [hx, Core.dueCredits_credit _ _ hcredits hpend, ← State.creditsDue_core]
  have hchan : x.chan chan.toNat = some ch := by
    rw [← hc, Core.chan, Core.chan, ← hchans, hx]
    rfl
  rw [hx] at honly hcredit hchan
  rw [hx]
  have hcore := honly.1
  obtain ⟨use, hsend⟩ := State.msendOp_only (k := k.toNat) (am := am.toNat) (tag := tag) (hcore ▸ hchan) (hcore ▸ hamUse.trans hu)
  rw [if_pos (hcore ▸ hcredit)]
  refine ⟨use, (honly.trans hsend).congr ?_⟩
  rw [hcore, honly.ac, Core.owing, Core.spend, ← hdyn, ← htimed]
  rfl

/-! ### MPOP (R238, R281, R282, R359) -/

/-- The write that MPOP owes for an entry. -/
def mpopWrite (m : Msg) (am now : Nat) (e : (Line × Bool) × Nat) : Timed :=
  ⟨now + 1 + e.2, 64 * ((am + e.2) % 65536), false, .put (lineBytes e.1.1) (e.1.2 || m.bad.contains e.2)⟩

/-- The write that MPOP owes for the header. -/
def mpopHeader (m : Msg) (am now : Nat) : Timed :=
  ⟨now + 1 + m.count, 64 * ((am + m.count) % 65536), false, .put (msgHeader m) false⟩

theorem mpopWrites_due (m : Msg) (am now : Nat) :
    (m.entries.zipIdx.map fun e => (mpopWrite m am now e).due) = List.range' (now + 1) m.entries.zipIdx.length := by
  have hsnd : m.entries.zipIdx.map Prod.snd = List.range' 0 m.entries.length := List.zipIdx_map_snd 0 m.entries
  calc (m.entries.zipIdx.map fun e => (mpopWrite m am now e).due)
      = (m.entries.zipIdx.map Prod.snd).map (now + 1 + ·) := by rw [List.map_map]; rfl
    _ = List.range' (now + 1) m.entries.zipIdx.length := by
      rw [hsnd, List.map_add_range', List.length_zipIdx, Nat.add_zero]

/-- The core once a message has left its queue, and its entries' parity is marked. -/
def State.mpopTaken (s : State) (c : CoreId) (q : Nat) (m : Msg) (rest : List Msg) : State :=
  (s.onCore c fun k => k.setMsgq q rest).entryParity c (!m.bad.isEmpty)

theorem State.mpopTaken_core (q : Nat) (m : Msg) (rest : List Msg) :
    (s.mpopTaken c q m rest).core c = (s.core c).setMsgq q rest := by
  rw [State.mpopTaken, (State.entryParity_regs ..).core (by simp), State.core_onCore]

theorem State.mpopOp_takes {q am : Nat} {m : Msg} {rest : List Msg} (hq : (s.core c).msgq q = m :: rest)
    (hn : m.entries.length = m.count) (hu : (s.core c).amUse = []) :
    ∃ use, OnlyCore (s.mpopTaken c q m rest) c (((s.core c).setMsgq q rest).owing use [headerAlone m.src (.credit m.chan m.count) s.ac]
      (m.entries.zipIdx.map (mpopWrite m am s.ac) ++ [mpopHeader m am s.ac])) (s.mpopOp c q am) := by
  have hcore := State.mpopTaken_core (s := s) (c := c) q m rest
  have hac : (s.mpopTaken c q m rest).ac = s.ac := by
    rw [State.mpopTaken, State.entryParity]
    split <;> rfl
  have hop : s.mpopOp c q am = ((m.entries.zipIdx.foldl (fun t e => t.timedAccess c (mpopWrite m am s.ac e).due
      (mpopWrite m am s.ac e).addr 64 (mpopWrite m am s.ac e).kind) (s.mpopTaken c q m rest)).timedAccess c
      (s.ac + 1 + m.count) (64 * ((am + m.count) % 65536)) 8 (.put (msgHeader m) false)).dynSend c m.src (.credit m.chan m.count) := by
    rw [State.mpopOp, hq]
    rfl
  rw [hop]
  generalize s.mpopTaken c q m rest = t at hcore hac ⊢
  have hnone : (t.core c).amUse = [] := by rw [hcore]; exact hu
  have hnil : ([] : List DynFlit) ++ m.entries.zipIdx.flatMap (fun _ => []) = [] := by simp
  have hall := TakesOn.foldl (flits := fun _ => []) (f := fun t e => t.timedAccess c (mpopWrite m am s.ac e).due
      (mpopWrite m am s.ac e).addr 64 (mpopWrite m am s.ac e).kind) (acc := mpopWrite m am s.ac) (fun e fs ts u h => by
    rw [List.append_nil]
    exact State.timedAccess_takesOn _ 64 _ h) m.entries.zipIdx (TakesOn.refl (d := s.ac + 1) hnone) (mpopWrites_due m am s.ac)
  rw [List.length_zipIdx, hn, hnil] at hall
  have hheader := State.timedAccess_takesOn (64 * ((am + m.count) % 65536)) 8 (.put (msgHeader m) false) hall
  obtain ⟨use, honly, -⟩ := State.addFlit_takesOn (headerAlone m.src (.credit m.chan m.count) s.ac) hheader
  refine ⟨use, ?_⟩
  rw [State.dynSend, State.dynEnter_eq, hheader.ac, hac]
  rwa [hcore] at honly

theorem State.reg_mpopTaken_qpar {q : Nat} {m : Msg} {rest : List Msg} (h : m.bad ≠ []) :
    (s.mpopTaken c q m rest).reg (.mx c) 0x40 / 2 ^ 5 % 2 = 1 := by
  have hbad : (!m.bad.isEmpty) = true := by simpa using h
  rw [State.mpopTaken, hbad, State.entryParity, if_pos rfl, State.memErr, State.orReg, State.reg_setReg_same]
  exact raised_bit _ (by decide)

theorem mpop_delivers {p : Pred} {q : BitVec 4} {am : BitVec 16} {m : Msg} {rest : List Msg} (hr : RunsUnder s c sX p)
    (hq : (s.core c).msgq q.toNat = m :: rest) (hready : s.msgReady c q.toNat = true) (hu : (s.core c).amUse = []) :
    Gives (.mpop c p q am) s fun t => ∃ use, t.core c = { (inSlot s c sX).setMsgq q.toNat rest with
        amUse := use
        dyn := (s.core c).dyn ++ [headerAlone m.src (.credit m.chan m.count) s.ac]
        timed := (s.core c).timed ++ m.entries.zipIdx.map (mpopWrite m am.toNat s.ac) ++ [mpopHeader m am.toNat s.ac] } ∧
      (m.bad ≠ [] → t.reg (.mx c) 0x40 / 2 ^ 5 % 2 = 1) ∧ (m.bad = [] → t.regs = s.regs) ∧ OtherCores s c t := by
  have hn : m.entries.length = m.count := by
    simp only [State.msgReady, hq, Bool.and_eq_true, beq_iff_eq] at hready
    exact hready.1
  refine gives_runsUnder rfl hr ?_
  rw [State.mpopSlot, State.useSlots_msgReady, hready, if_pos rfl, inSlot]
  obtain ⟨-, -, -, hamUse, hdyn, htimed⟩ := s.useSlots_keeps c (2 ^ sX)
  have hmsgq : ((s.useSlots c (2 ^ sX)).core c).msgq q.toNat = m :: rest := by
    rw [State.useSlots_core_eq]
    exact hq
  have hothers := s.useSlots_others (c := c) (2 ^ sX)
  have hregs : (s.useSlots c (2 ^ sX)).regs = s.regs := rfl
  have hac := s.useSlots_ac (c := c) (2 ^ sX)
  generalize s.useSlots c (2 ^ sX) = u at hamUse hdyn htimed hmsgq hothers hregs hac ⊢
  obtain ⟨use, honly⟩ := State.mpopOp_takes (am := am.toNat) hmsgq hn (hamUse.trans hu)
  refine ⟨use, ?_, ?_, ?_, ?_⟩
  · rw [honly.1, hac, ← hdyn, ← htimed, List.append_assoc]
    rfl
  · intro h
    rw [State.reg_congr honly.regs]
    exact State.reg_mpopTaken_qpar h
  · rintro h
    rw [honly.regs, ← hregs, State.mpopTaken, h]
    rfl
  · exact hothers.trans ((((OtherCores.refl u c).setCore _).ofRegs (State.entryParity_regs ..)).trans honly.otherCores)

end

end Sys2Proof.Machine
end

section
/-! SUPPORT. Dynamic packets at a router: delivery, a hop to the neighbour, and discards (O12). -/

namespace Sys2Proof.Machine

section
variable {s t u : State} {c : CoreId}

theorem State.core_onCore_ne (s : State) {c c' : CoreId} (f : Core → Core) (h : c' ≠ c) : (s.onCore c f).core c' = s.core c' :=
  (OnlyCore.onCore s c f).2.1 c' h

/-- What a delivery leaves: the flits in the router, and every other core. -/
def SparesRouter (s : State) (c : CoreId) (t : State) : Prop :=
  (t.core c).dyn = (s.core c).dyn ∧ ∀ c', c' ≠ c → t.core c' = s.core c'

theorem SparesRouter.refl : SparesRouter s c s := ⟨rfl, fun _ _ => rfl⟩

theorem SparesRouter.trans (h : SparesRouter s c t) (g : SparesRouter t c u) : SparesRouter s c u :=
  ⟨g.1.trans h.1, fun c' hne => (g.2 c' hne).trans (h.2 c' hne)⟩

theorem SparesRouter.ofCores (h : SparesRouter s c t) (hcores : u.cores = t.cores) : SparesRouter s c u := by
  have hcore (c' : CoreId) : u.core c' = t.core c' := by rw [State.core, State.core, hcores]
  exact ⟨(congrArg Core.dyn (hcore c)).trans h.1, fun c' hne => (hcore c').trans (h.2 c' hne)⟩

theorem SparesRouter.onCore {f : Core → Core} (hf : ∀ k, (f k).dyn = k.dyn) : SparesRouter s c (s.onCore c f) := by
  refine ⟨?_, fun c' hne => State.core_onCore_ne s f hne⟩
  rw [State.core_onCore, hf]

theorem State.foldl_onRouter_cores (g : IoId → Router → Router) (l : List IoId) :
    (l.foldl (fun s i => s.onRouter i (g i)) s).cores = s.cores := by
  induction l generalizing s with
  | nil => rfl
  | cons i l ih => exact ih

theorem SparesRouter.onRouters (h : SparesRouter s c t) (g : IoId → Router → Router) (l : List IoId) :
    SparesRouter s c (l.foldl (fun s i => s.onRouter i (g i)) t) := h.ofCores (State.foldl_onRouter_cores g l)

theorem State.asmDone_spares (a : Asm) : SparesRouter s c (s.asmDone c a) := by
  have hasm : SparesRouter s c (s.onCore c fun k => { k with asm := none }) := .onCore fun _ => rfl
  unfold State.asmDone
  dsimp only
  generalize s.onCore c _ = u at hasm ⊢
  refine hasm.trans ?_
  split
  · refine .onRouters ?_ _ _
    exact .onCore fun _ => rfl
  · exact .onCore fun _ => rfl
  · exact .onCore fun _ => rfl
  · exact .refl

theorem State.dynLocal_spares (f : DynFlit) : SparesRouter s c (s.dynLocal c f) := by
  unfold State.dynLocal
  split
  · exact .refl
  · exact .onCore fun _ => rfl
  · exact .onCore fun _ => rfl
  · exact .onCore fun _ => rfl
  · split
    · exact .onCore fun _ => rfl
    · exact .refl
  · split
    · dsimp only
      split
      · exact State.asmDone_spares _
      · exact .onCore fun _ => rfl
    · exact .refl
  all_goals
    split
    · exact State.asmDone_spares _
    · exact .onCore fun _ => rfl

/-! ### DYNAMIC_PACKET_HOP (R290, R308 to R311) -/

/-- A core whose flit leaves on an output. -/
def Core.hopped (f : DynFlit) (o now : Nat) (k : Core) : Core :=
  { k.dynHeld f o with dyn := k.dyn.erase f, dynUsed := (k.dynUsed.filter fun u => u.1 == now) ++ [(now, o)] }

/-- A core that discards a flit and, unless it is the last, the rest of its packet (R311). -/
def Core.discard (f : DynFlit) (k : Core) : Core :=
  { k with dyn := k.dyn.erase f
           dynDrop := if f.last then k.dynDrop.filter fun n => n != f.code
             else (k.dynDrop.filter fun n => n != f.code) ++ [f.code] }

theorem State.dynDiscard_eq (s : State) (c : CoreId) (f : DynFlit) : s.dynDiscard c f = s.onCore c (Core.discard f) := rfl

variable {cls : Fin 4} {f : DynFlit} {o : Nat}

theorem exec_hop (hpick : s.dynPick c cls.val = some f) (hdrop : (s.core c).dynDrop.contains f.code = false)
    (hout : s.dynOut c f = some o) (href : s.dynRefused c f = false) : exec (.dynamicPacketHop c cls false) s =
      .next ((s.onCore c (Core.hopped f o s.ac)).dynSendOut c f o (hopCost c (sideOf o))) := by
  simp only [exec, execDynamicPacketHop, hpick, hdrop, hout, href, Bool.false_eq_true, and_false, if_false, Bool.or_false]
  rfl

/-- A packet for this core itself leaves at its local port (R310). -/
theorem State.dynOut_local (hdest : f.dest = c.val) (hport : f.port = false) : s.dynOut c f = some outLocal := by
  have hlt : ¬768 ≤ f.dest := by omega
  have hself : (Fin.ofNat 768 f.dest : CoreId) = c := by
    rw [hdest]
    exact Fin.ofNat_val_eq_self c
  simp only [State.dynOut, if_neg hlt, hself, if_true, hport, Bool.false_eq_true, if_false]

theorem hop_delivers (hpick : s.dynPick c cls.val = some f) (hdrop : (s.core c).dynDrop.contains f.code = false)
    (hdest : f.dest = c.val) (hport : f.port = false) (href : s.dynRefused c f = false) :
    Gives (.dynamicPacketHop c cls false) s fun t =>
      (t.core c).dyn = (s.core c).dyn.erase f ∧
      (∀ src i n, f.body = .sig src i n → (t.core c).here = (s.core c).here ++ [f]) ∧
      (∀ ch n, f.body = .credit ch n → (t.core c).here = (s.core c).here ++ [f]) ∧
      (∀ e, f.body = .msg e →
        (t.core c).here = (s.core c).here ++ [{ f with body := .msg { e with poison := e.poison || f.poison } }]) ∧
      (∀ c', c' ≠ c → t.core c' = s.core c') := by
  refine ⟨_, exec_hop hpick hdrop (State.dynOut_local hdest hport) href, ?_⟩
  rw [State.dynSendOut, if_pos rfl]
  have honly := OnlyCore.onCore s c (Core.hopped f outLocal s.ac)
  generalize s.onCore c (Core.hopped f outLocal s.ac) = t at honly ⊢
  obtain ⟨hcore, hothers, -⟩ := honly
  obtain ⟨hdyn, hspared⟩ := t.dynLocal_spares (c := c) f
  have hhere : (t.core c).here = (s.core c).here := by rw [hcore]; rfl
  refine ⟨?_, ?_, ?_, ?_, fun c' hne => (hspared c' hne).trans (hothers c' hne)⟩
  · rw [hdyn, hcore]
    rfl
  · intro src i n hb
    rw [State.dynLocal, hb, State.core_onCore, hhere]
  · intro ch n hb
    rw [State.dynLocal, hb, State.core_onCore, hhere]
  · intro e hb
    rw [State.dynLocal, hb, State.core_onCore, hhere]

theorem hop_moves {e : CoreId} (hpick : s.dynPick c cls.val = some f) (hdrop : (s.core c).dynDrop.contains f.code = false)
    (hout : s.dynOut c f = some o) (hlocal : o ≠ outLocal) (href : s.dynRefused c f = false)
    (hacross : across c (sideOf o) = .core e) (hne : e ≠ c) : Gives (.dynamicPacketHop c cls false) s fun t =>
      (t.core c).dyn = (s.core c).dyn.erase f ∧
      t.core e = { s.core e with dyn := (s.core e).dyn ++
        [{ f with inp := sideCode (oppSide (sideOf o)), due := s.ac + hopCost c (sideOf o) }] } ∧
      (∀ c', c' ≠ c → c' ≠ e → t.core c' = s.core c') ∧ { t with cores := s.cores } = s := by
  refine ⟨_, exec_hop hpick hdrop hout href, ?_⟩
  rw [State.dynSendOut, if_neg hlocal, hacross]
  have honly := OnlyCore.onCore s c (Core.hopped f o s.ac)
  have hac := honly.ac
  generalize s.onCore c (Core.hopped f o s.ac) = t at honly hac ⊢
  obtain ⟨hcore, hothers, hrest⟩ := honly
  refine ⟨?_, ?_, fun c' hc he => ?_, ?_⟩
  · rw [State.core_onCore_ne _ _ hne.symm, hcore]
    rfl
  · rw [State.core_onCore, hothers e hne, hac]
  · rw [State.core_onCore_ne _ _ he, hothers c' hc]
  · exact hrest

/-- What is left of a discard after register bits are raised. -/
theorem Within.discards (h : Within [.regs] s t) (f : DynFlit) :
    ((t.dynDiscard c f).core c).dyn = (s.core c).dyn.erase f ∧ OtherCores s c (t.dynDiscard c f) := by
  refine ⟨?_, ((OtherCores.refl s c).ofRegs h).setCore _⟩
  rw [State.dynDiscard_eq, State.core_onCore, h.core (by simp)]
  rfl

theorem State.routeError_flag (s : State) (d : DieId) : (s.routeError d).reg (.meshDie d) 0x10 / 2 % 2 = 1 := by
  rw [State.routeError, State.reg_raise_die _ rfl (by simp [Blk.base]), if_pos rfl]
  exact raised_bit (k := 1) _ (by decide)

theorem hop_refused (hpick : s.dynPick c cls.val = some f) (hidx : f.idx = 0)
    (hdrop : (s.core c).dynDrop.contains f.code = false) (href : s.dynRefused c f = true) :
    Gives (.dynamicPacketHop c cls false) s fun t =>
      (t.core c).dyn = (s.core c).dyn.erase f ∧ t.reg (.meshDie (dieOf c)) 0x10 / 2 % 2 = 1 ∧ OtherCores s c t := by
  obtain ⟨u, hu, hexec⟩ : ∃ u, Within [.regs] s u ∧
      exec (.dynamicPacketHop c cls false) s = .next ((u.routeError (dieOf c)).dynDiscard c f) := by
    simp only [exec, execDynamicPacketHop, hpick, hdrop, hidx, href, Bool.false_eq_true, and_self, and_false, if_false]
    split
    · exact ⟨s, .refl _ _, rfl⟩
    · rw [if_pos trivial]
      exact ⟨_, .ite (fun _ => State.fenceError_within _ (.refl _ _) (by simp)) (fun _ => .refl _ _), rfl⟩
  obtain ⟨hdyn, hothers⟩ := Within.discards (c := c) (State.routeError_within (dieOf c) hu (by simp)) f
  refine ⟨_, hexec, hdyn, ?_, hothers⟩
  rw [State.dynDiscard_eq, State.reg_onCore]
  exact u.routeError_flag _

theorem hop_parityError (hpick : s.dynPick c cls.val = some f) (hidx : f.idx = 0)
    (hdrop : (s.core c).dynDrop.contains f.code = false) : Gives (.dynamicPacketHop c cls true) s fun t =>
      (t.core c).dyn = (s.core c).dyn.erase f ∧ (t.core c).poisoned = true ∧ t.reg (.mesh c) 0x00 % 2 = 1 ∧
      OtherCores s c t := by
  have hexec : exec (.dynamicPacketHop c cls true) s =
      .next ((((s.meshFault c 0).count (.mesh c) 0x04 1).markStep c).dynDiscard c f) := by
    simp only [exec, execDynamicPacketHop, hpick, hdrop, hidx, Bool.false_eq_true, and_self, if_false, if_true]
  have hregs : Within [.regs] s ((s.meshFault c 0).count (.mesh c) 0x04 1) :=
    State.count_within _ _ _ (State.meshFault_within _ _ (.refl _ _) (by simp)) (by simp)
  have hflag : ((s.meshFault c 0).count (.mesh c) 0x04 1).reg (.mesh c) 0x00 % 2 = 1 := by
    rw [State.reg_count_off _ _ _ (by decide), State.meshFault, State.reg_raise_mesh, if_pos rfl]
    simp
  refine ⟨_, hexec, ?_⟩
  generalize (s.meshFault c 0).count (.mesh c) 0x04 1 = u at hregs hflag ⊢
  have hcore := hregs.core (by simp) c
  refine ⟨?_, ?_, ?_, (((OtherCores.refl s c).ofRegs hregs).setCore _).setCore _⟩
  · rw [State.dynDiscard_eq, State.core_onCore, State.markStep, State.core_onCore, hcore]
    rfl
  · rw [State.dynDiscard_eq, State.core_onCore, State.markStep, State.core_onCore]
    rfl
  · rwa [State.dynDiscard_eq, State.reg_onCore, State.markStep, State.reg_onCore]

end

end Sys2Proof.Machine
end

section
/-! SUPPORT. Messages, signals and credits as they arrive; the message queues' admission (O12). -/

namespace Sys2Proof.Machine

/-! ### Admission (R235, R237) -/

section
variable {k : Core} {q q' now v : Nat} {e : MsgEntry}

@[simp] theorem Core.msgq_setMsgq (k : Core) (q q' : Nat) (l : List Msg) :
    (k.setMsgq q l).msgq q' = if q' = q then l else k.msgq q' := Store.get_set ..

theorem Core.msgq_admitEntry (rest : List Msg) (m : Msg) : (k.admitEntry q now e rest m).msgq q' =
    if q' = q then rest ++ [{ m with
      entries := m.entries ++ [(e.payload, e.poison)], readyAt := if m.entries.length + 1 = m.count then now + 1 else m.readyAt }]
    else k.msgq q' := Core.msgq_setMsgq ..

/-- A queue for which no entry waits admits nothing. -/
theorem Core.admitOne_others (h : ∀ e ∈ k.msgWait, e.q ≠ q) : k.admitOne q now = k := by
  have hfind (m : Msg) : (k.msgWait.find? fun e => e.q == q && e.src == m.src && e.tag == m.tag && e.j == m.entries.length) = none :=
    List.find?_eq_none.2 fun e he => by simp [h e he]
  have hfirst : (k.msgWait.filter fun e => e.q == q && e.j == 0) = [] :=
    List.filter_eq_nil_iff.2 fun e he => by simp [h e he]
  unfold Core.admitOne
  split
  · rfl
  · dsimp only
    split
    · rw [hfind]
    · rw [hfirst]
      rfl

/-- An empty queue admits the first entry that `earliest` names. -/
theorem Core.admitOne_empty (hq : k.msgq q = []) (he : earliest (k.msgWait.filter fun e => e.q == q && e.j == 0) = some e) :
    k.admitOne q now = k.admitEntry q now e [] ⟨e.src, e.chan, e.tag, e.count, [], 0, []⟩ := by
  simp [Core.admitOne, hq, he]

theorem Core.admitAll_others (h : ∀ e ∈ k.msgWait, e.q ≠ q) : k.admitAll q now = k :=
  List.foldlRecOn (motive := (· = k)) (List.range 32) _ rfl fun _ hk _ _ => by rw [hk, Core.admitOne_others h]

/-- What the first admission establishes and every other one keeps holds after them all. -/
theorem Core.admitAll_of_first {P : Core → Prop} (hfirst : P (k.admitOne q now)) (hkeep : ∀ k, P k → P (k.admitOne q now)) :
    P (k.admitAll q now) := by
  obtain ⟨n, l, hl⟩ : ∃ n l, List.range 32 = n :: l := ⟨_, _, List.range_succ_eq_map⟩
  rw [Core.admitAll, hl, List.foldl_cons]
  exact List.foldlRecOn l _ hfirst fun k hk _ _ => hkeep k hk

/-- When all that waits is for one queue, what the admission there establishes and every admission keeps holds at the end. -/
theorem Core.admitQueues_of_first {P : Core → Prop} (hwait : k.msgWait ≠ []) (hall : ∀ e ∈ k.msgWait, e.q = q) (hlt : q < 16)
    (hfirst : P (k.admitOne q now)) (hkeep : ∀ k q, P k → P (k.admitOne q now)) : P (k.admitQueues now) := by
  have hpass (k : Core) (q : Nat) (hk : P k) : P (k.admitAll q now) := Core.admitAll_of_first (hkeep k q hk) (hkeep · q)
  have hfold : ∀ l : List Nat, q ∈ l → P (l.foldl (fun k q => k.admitAll q now) k) := by
    intro l hq
    induction l with
    | nil => cases hq
    | cons q' l ih =>
      rw [List.foldl_cons]
      by_cases h : q' = q
      · subst h
        exact List.foldlRecOn l _ (Core.admitAll_of_first hfirst (hkeep · q')) fun k hk q _ => hpass k q hk
      · rw [Core.admitAll_others fun e he => (hall e he) ▸ Ne.symm h]
        exact ih ((List.mem_cons.1 hq).resolve_left (Ne.symm h))
  rw [Core.admitQueues, if_neg (by simpa using hwait)]
  exact hfold _ (List.mem_range.2 hlt)

/-- A queue whose head is a message of sender `v`. -/
def Core.HeadFrom (k : Core) (q v : Nat) : Prop := ∃ m, (k.msgq q).head? = some m ∧ m.src = v

/-- An entry joins the message at the end, so the head keeps its sender (R235). -/
theorem Core.HeadFrom.admitOne (h : k.HeadFrom q v) (q' : Nat) : (k.admitOne q' now).HeadFrom q v := by
  obtain ⟨x, hx, hsrc⟩ := h
  obtain ⟨l, hl⟩ : ∃ l, k.msgq q = x :: l := ⟨_, (List.cons_head?_tail hx).symm⟩
  have hkeep (e : MsgEntry) (rest : List Msg) (m : Msg)
      (hm : q = q' → rest ++ [m] = x :: l ∨ ∃ r, rest = x :: r) : (k.admitEntry q' now e rest m).HeadFrom q v := by
    unfold Core.HeadFrom
    rw [Core.msgq_admitEntry]
    split
    · next heq =>
      rcases hm heq with hm | ⟨r, rfl⟩
      · cases rest with
        | nil =>
          obtain ⟨rfl, -⟩ := List.cons.inj hm
          exact ⟨_, rfl, hsrc⟩
        | cons y r =>
          obtain ⟨rfl, -⟩ := List.cons.inj hm
          exact ⟨_, rfl, hsrc⟩
      · exact ⟨_, rfl, hsrc⟩
    · exact ⟨x, hx, hsrc⟩
  unfold Core.admitOne
  split
  · exact ⟨x, hx, hsrc⟩
  · dsimp only
    split
    · next m hopen =>
      split
      · refine hkeep _ _ _ fun heq => .inl ?_
        subst heq
        have hlast : (k.msgq q).getLast? = some m := by
          revert hopen
          cases (k.msgq q).getLast? with
          | none => simp
          | some y => simp only; split <;> simp
        rw [← hl, List.dropLast_append_getLast? m hlast]
      · exact ⟨x, hx, hsrc⟩
    · split
      · exact hkeep _ _ _ fun heq => .inr ⟨l, heq ▸ hl⟩
      · exact ⟨x, hx, hsrc⟩

theorem Core.admitQueues_one (hwait : k.msgWait = [e]) (hj : e.j = 0) (hlt : e.q < 16) (hq : k.msgq e.q = []) :
    (k.admitQueues now).msgWait = [] ∧ (k.admitQueues now).msgq e.q =
      [⟨e.src, e.chan, e.tag, e.count, [(e.payload, e.poison)], if e.count = 1 then now + 1 else 0, []⟩] := by
  have hearliest : earliest (k.msgWait.filter fun e' => e'.q == e.q && e'.j == 0) = some e := by
    simp [hwait, hj, earliest]
  refine Core.admitQueues_of_first (P := fun k => k.msgWait = [] ∧ k.msgq e.q = _) (q := e.q) (by simp [hwait]) (by simp [hwait])
    hlt ?_ fun k q h => ?_
  · rw [Core.admitOne_empty hq hearliest, Core.msgq_admitEntry, if_pos rfl]
    exact ⟨by simp [Core.admitEntry, hwait], by simp [eq_comm (a := 1)]⟩
  · rwa [Core.admitOne_others fun e he => absurd he (by simp [h.1])]

/-- Of two entries that came in one ac the lower sender's is admitted first (R235). -/
theorem Core.admitQueues_lower {a b : MsgEntry} (hwait : k.msgWait = [a, b]) (ha : a.j = 0) (hb : b.j = 0) (hlt : b.q < 16)
    (hab : a.q = b.q) (hat : a.firstAt = b.firstAt) (hsrc : b.src < a.src) (hq : k.msgq b.q = []) :
    (k.admitQueues now).HeadFrom b.q b.src := by
  have hearliest : earliest (k.msgWait.filter fun e => e.q == b.q && e.j == 0) = some b := by
    simp [hwait, ha, hb, hab, earliest, hat, hsrc]
  refine Core.admitQueues_of_first (P := (·.HeadFrom b.q b.src)) (q := b.q) (by simp [hwait]) (by simp [hwait, hab]) hlt ?_
    fun k q h => h.admitOne q
  rw [Core.admitOne_empty hq hearliest, Core.HeadFrom, Core.msgq_admitEntry, if_pos rfl]
  exact ⟨_, rfl, rfl⟩

end

/-! ### Arrivals (R226 to R228, R235, R238, R239) -/

section
variable {s : State} {c : CoreId} {p : DynFlit}

/-- A flit that has arrived is taken in. -/
def Core.received (p : DynFlit) (k : Core) : Core := { k with here := k.here.erase p }

theorem messageEntry_waits {e : MsgEntry} (hfind : ((s.core c).here.find? DynFlit.isMsg) = some p) (hbody : p.body = .msg e) :
    Gives (.messageEntryArrive c) s fun t => OnlyCore s c { s.core c with
      here := (s.core c).here.erase p, msgWait := (s.core c).msgWait ++ [{ e with firstAt := p.due }] } t := by
  refine ⟨s.onCore c fun k => { k with here := k.here.erase p, msgWait := k.msgWait ++ [{ e with firstAt := p.due }] }, ?_,
    .of_eq rfl rfl⟩
  simp only [exec, execMessageEntryArrive, hfind, hbody]

theorem credit_returns {chan n : Nat} (hfind : ((s.core c).here.find? DynFlit.isCredit) = some p) (hbody : p.body = .credit chan n) :
    Gives (.creditReturn c) s fun t => OnlyCore s c { s.core c with
      here := (s.core c).here.erase p, creditPend := (s.core c).creditPend ++ [⟨s.ac + 1, chan, n⟩] } t := by
  refine ⟨(s.onCore c (Core.received p)).onCore c fun k =>
    { k with creditPend := k.creditPend ++ [⟨s.ac + 1, chan, n⟩] }, ?_,
    ((OnlyCore.onCore s c (Core.received p)).trans (.of_eq rfl rfl)).congr ?_⟩
  · simp only [exec, execCreditReturn, hfind, hbody]
    rfl
  · rw [State.core_onCore, Core.received]

theorem semSignal_arrives {src i n : Nat} (hfind : ((s.core c).here.find? DynFlit.isSig) = some p) (hbody : p.body = .sig src i n) :
    Gives (.semSignalArrive c) s fun t =>
      (t.core c).here = (s.core c).here.erase p ∧ OtherCores s c t ∧
      (Issued s c → (t.core c).semPend = (s.core c).semPend ++ [⟨s.ac + 1, i, n⟩] ∧ (t.core c).sems = (s.core c).sems) ∧
      (¬Issued s c → (t.core c).sem i = Nat.min ((s.core c).sem i + n) 0xFFFF ∧
        (∀ i', i' ≠ i → (t.core c).sem i' = (s.core c).sem i') ∧
        (0xFFFF < (s.core c).sem i + n → (t.core c).poisoned = true ∧ t.reg (.cq c) 0x04 / 4 % 2 = 1) ∧
        ((s.core c).sem i + n ≤ 0xFFFF → (t.core c).poisoned = (s.core c).poisoned ∧ t.regs = s.regs)) := by
  have hexec : exec (.semSignalArrive c) s = .next ((s.onCore c (Core.received p)).semSignal c i n) := by
    simp only [exec, execSemSignalArrive, hfind, hbody]
    rfl
  refine ⟨_, hexec, ?_⟩
  have honly := OnlyCore.onCore s c (Core.received p)
  have hac := honly.ac
  have hothers := honly.otherCores
  have hregs := honly.regs
  generalize s.onCore c (Core.received p) = u at honly hac hothers hregs ⊢
  have hcore : u.core c = (s.core c).received p := honly.1
  have hissued : Issued u c ↔ Issued s c := by
    rw [Issued, Issued, hcore, hac]
    rfl
  have hsem (j : Nat) : (u.core c).sem j = (s.core c).sem j := by
    rw [hcore]
    rfl
  obtain ⟨hleaves, sems, pend, poison, hleft⟩ := u.semSignal_leaves c i n
  refine ⟨?_, hothers.trans hleaves, fun h => ?_, fun h => ?_⟩
  · rw [hleft, hcore]
    rfl
  · rw [State.semSignal_defers (hissued.2 h), hcore, hac]
    exact ⟨rfl, rfl⟩
  · have hnot : ¬((u.core c).issueFrom = u.ac + 1 ∨ (u.core c).slotsAt = u.ac + 1) := hissued.not.2 h
    rw [State.semSignal, if_neg hnot]
    by_cases hover : 0xFFFF < (s.core c).sem i + n
    · have hover' : 0xFFFF < (u.core c).sem i + n := hsem i ▸ hover
      have hset (j : Nat) : ((u.semAdd c i n).core c).sem j = if j = i then 0xFFFF else (s.core c).sem j := by
        rw [State.semAdd_over_core hover', ← hsem]
        exact ((u.core c).sem_setSem i j 0xFFFF :)
      refine ⟨?_, fun j hj => by rw [hset, if_neg hj], fun _ => ⟨?_, State.semAdd_over_flag hover'⟩, fun hle => by omega⟩
      · rw [hset, if_pos rfl]
        exact (Nat.min_eq_right (by omega)).symm
      · rw [State.semAdd_over_core hover']
    · have hset (j : Nat) : ((u.semAdd c i n).core c).sem j = if j = i then (s.core c).sem i + n else (s.core c).sem j := by
        rw [State.semAdd, if_neg (by rwa [hsem]), State.core_onCore, Core.sem_setSem, hsem, hsem]
      refine ⟨?_, fun j hj => by rw [hset, if_neg hj], fun h => absurd h hover, fun _ => ?_⟩
      · rw [hset, if_pos rfl]
        exact (Nat.min_eq_left (by omega)).symm
      · rw [State.semAdd, if_neg (by rwa [hsem]), State.core_onCore, hcore]
        exact ⟨rfl, hregs⟩

end

/-- Settles O12, clause by clause. -/
theorem messagesSignalsAndCreditsTravel : Obligations.MessagesSignalsAndCreditsTravel :=
  ⟨fun _ _ _ _ _ _ _ _ => msend_sends, fun _ _ _ _ _ _ _ => mpop_delivers, fun _ _ _ _ => hop_delivers,
    fun _ _ _ _ _ _ => hop_moves, fun _ _ _ _ => hop_refused, fun _ _ _ _ => hop_parityError,
    fun _ _ _ _ => messageEntry_waits, fun _ _ _ => Core.admitQueues_one, fun _ _ _ _ => Core.admitQueues_lower,
    fun _ _ _ _ _ _ => semSignal_arrives, fun _ _ _ _ _ => credit_returns⟩

end Sys2Proof.Machine
end

section
/-! SUPPORT. What fault logging and summaries leave of a context; Gong waves, releases, notices and reports (O17). -/

namespace Sys2Proof.Machine

/-! ### The step-end wave's marks of a context -/

/-- The marks of the step-end wave, the gong fault and the modules that have reported. -/
def CtxState.marks (k : CtxState) : Bool × Option GongSummary × Bool × List Endpoint :=
  (k.stepWave, k.summary, k.gongFault, k.reported)

/-- Every context keeps its marks. -/
def KeepsMarks (s t : State) : Prop := ∀ x, (t.ctx x).marks = (s.ctx x).marks

section
variable {s t u : State} {x : Ctx}

theorem KeepsMarks.refl : KeepsMarks s s := fun _ => rfl

theorem KeepsMarks.trans (h : KeepsMarks s t) (g : KeepsMarks t u) : KeepsMarks s u := fun x => (g x).trans (h x)

theorem KeepsMarks.of_ctxs (h : t.ctxs = s.ctxs) : KeepsMarks s t := fun x => by rw [State.ctx, State.ctx, h]

/-- What works outside the contexts keeps their marks. -/
theorem Within.keepsMarks {P : List Part} (h : Within P s t) (hp : .ctxs ∉ P) : KeepsMarks s t := .of_ctxs (h.part .ctxs hp)

theorem KeepsMarks.onCtx {f : CtxState → CtxState} (hf : ∀ k, (f k).marks = k.marks) : KeepsMarks s (s.onCtx x f) := by
  intro y
  rw [State.onCtx_eq, State.ctx_setCtx]
  split
  · next h => rw [hf, h]
  · rfl

theorem KeepsMarks.foldl {β : Type} {f : State → β → State} (hf : ∀ s b, KeepsMarks s (f s b)) (l : List β) :
    KeepsMarks s (l.foldl f s) := by
  induction l generalizing s with
  | nil => exact .refl
  | cons b l ih => exact (hf s b).trans ih

/-! ### Fault records (R629 to R634, R651) -/

theorem State.logRecord_keepsMarks (r : ElogRecord) : KeepsMarks s (s.logRecord r) := by
  have hlog : KeepsMarks s (s.elogAppend r) :=
    (State.elogAppend_within (Ps := [.regs, .mod]) r (.refl _ _) (by simp) (by simp)).keepsMarks (by simp)
  unfold State.logRecord
  dsimp only
  generalize s.elogAppend r = t at hlog ⊢
  refine hlog.trans ?_
  split
  · exact .onCtx fun _ => rfl
  · split
    · refine .foldl (fun _ _ => ?_) _
      exact .onCtx fun _ => rfl
    · exact .refl

theorem State.unpresent_keepsMarks (n : Nat) : KeepsMarks s (s.unpresent x n) := .onCtx fun _ => rfl

theorem State.repair_keepsMarks (rep : Repair) : KeepsMarks s (s.repair rep) := by
  have hretire (c : CoreId) (layer row : Nat) : KeepsMarks s (s.retireWs c layer row) :=
    (State.retireWs_within (Ps := [.regs, .cores, .mod]) c layer row (.refl _ _) (by simp) (by simp) (by simp)).keepsMarks (by simp)
  cases rep with
  | none => exact .refl
  | wsRow c layer row => exact hretire c layer row
  | wsFetch c layer row word => exact (hretire c layer row).trans (.foldl (fun _ n => State.unpresent_keepsMarks n) _)
  | csRow d slice row =>
    exact (State.retireCs_within (Ps := [.regs, .dies, .mod]) d slice row (.refl _ _) (by simp) (by simp) (by simp)).keepsMarks (by simp)
  | core c =>
    exact (State.spareCore_within (Ps := [.regs, .deferred, .mod]) c (.refl _ _) (by simp) (by simp) (by simp)).keepsMarks (by simp)
  | link l => exact (State.onLink_within (Ps := [.links]) l _ (.refl _ _) (by simp)).keepsMarks (by simp)
  | module e => exact .of_ctxs rfl
  | die d => exact .of_ctxs rfl
  | shard y n => exact State.unpresent_keepsMarks n

theorem State.fault_keepsMarks (cls key : Nat) (zero : Bool) (unit : Nat) (y : Ctx) (loc : Nat) (rep : Repair) :
    KeepsMarks s (s.fault cls key zero unit y loc rep) := by
  unfold State.fault
  split
  · exact State.logRecord_keepsMarks _
  · dsimp only
    have hhist (f : Mod → Mod) : KeepsMarks s (s.onMod f) := .of_ctxs rfl
    split
    · exact ((hhist _).trans (State.repair_keepsMarks rep)).trans (State.logRecord_keepsMarks _)
    · exact (hhist _).trans (State.logRecord_keepsMarks _)

theorem KeepsMarks.look {b : Blk} {off : Nat} (h : KeepsMarks s t) : KeepsMarks s (t.look b off) := h.trans (.of_ctxs rfl)

theorem KeepsMarks.scanReg {b : Blk} {off mask cls key unit : Nat} {y : Ctx} {loc : Nat} {rep : Repair} (h : KeepsMarks s t) :
    KeepsMarks s (t.scanReg b off mask cls key unit y loc rep) := by
  unfold State.scanReg
  split
  · exact h
  · exact h.trans (State.fault_keepsMarks _ _ _ _ _ _ _)

theorem State.scanCore_keepsMarks (c : CoreId) : KeepsMarks s (s.scanCore x c) := by
  unfold State.scanCore
  exact KeepsMarks.refl.scanReg.scanReg.look.scanReg.scanReg.look.scanReg.look
    |>.scanReg.scanReg.scanReg.look.scanReg.scanReg.scanReg.scanReg.scanReg.look.scanReg.look

theorem State.scanCs_keepsMarks (d : DieId) : KeepsMarks s (s.scanCs x d) :=
  (KeepsMarks.foldl (fun _ _ => State.fault_keepsMarks _ _ _ _ _ _ _) _).trans (.of_ctxs rfl)

theorem State.scanDie_keepsMarks (d : DieId) : KeepsMarks s (s.scanDie x d) := by
  unfold State.scanDie
  exact KeepsMarks.refl.scanReg.scanReg.look.scanReg.look.scanReg.look
    |>.scanReg.scanReg.scanReg.look.trans (State.scanCs_keepsMarks d)

theorem State.scanFaults_keepsMarks : KeepsMarks s (s.scanFaults x) :=
  (KeepsMarks.foldl (fun _ c => State.scanCore_keepsMarks c) _).trans (.foldl (fun _ d => State.scanDie_keepsMarks d) _)
    |>.scanReg.look

/-! ### Summaries (R478, R490, R651) -/

theorem State.sendControl_keepsMarks (l : LinkId) (body : Nat) : KeepsMarks s (s.sendControl l body) :=
  (State.sendControl_within (Ps := [.links]) l body (.refl _ _) (by simp)).keepsMarks (by simp)

theorem State.sendControl_ctx (l : LinkId) (body : Nat) : (s.sendControl l body).ctx x = s.ctx x := by
  unfold State.sendControl
  split <;> rfl

theorem State.sumTry_keepsMarks (late : Bool) : KeepsMarks s (s.sumTry x late) := by
  unfold State.sumTry
  dsimp only
  split
  · exact .refl
  · split
    · exact .refl
    · split
      · exact .onCtx fun _ => rfl
      · exact (State.sendControl_keepsMarks _ _).trans (.onCtx fun _ => rfl)

end

end Sys2Proof.Machine
end

section
/-! SUPPORT. Gong waves, releases, summaries, notices, time-outs and reports: the clauses of O17. -/

namespace Sys2Proof.Machine

section
variable {s t : State} {x : Ctx}

theorem State.ctx_onCtx (s : State) (x : Ctx) (f : CtxState → CtxState) : (s.onCtx x f).ctx x = f (s.ctx x) := by
  rw [State.onCtx_eq, State.ctx_setCtx, if_pos rfl]

/-! ### GONG_WAVE_COMPLETE (R473 to R476) -/

/-- The poison of a core is bit 2 of its flags (R498). -/
theorem State.coreFlags_poison {c : CoreId} (h : (s.core c).poisoned = true) : (s.coreFlags c).testBit 2 = true := by
  have hfour : Nat.testBit 4 2 = true := rfl
  simp [State.coreFlags, Nat.testBit_or, h, hfour]

/-- A bit of one of the numbers joined is a bit of the whole. -/
theorem testBit_foldl_or {f : CoreId → Nat} {i : Nat} (cs : List CoreId) (n : Nat)
    (h : n.testBit i = true ∨ ∃ c ∈ cs, (f c).testBit i = true) : (cs.foldl (fun n c => n ||| f c) n).testBit i = true := by
  induction cs generalizing n with
  | nil => simpa using h
  | cons c cs ih =>
    refine ih _ ?_
    rcases h with h | ⟨d, hd, h⟩
    · exact .inl (by simp [h])
    · rcases List.mem_cons.1 hd with rfl | hd
      · exact .inl (by simp [h])
      · exact .inr ⟨d, hd, h⟩

/-- The capture marks the context with the flags of its cores (R476, R490). -/
theorem State.capture_marks (cs : List CoreId) : ((s.capture x cs).ctx x).stepWave = true ∧
    ∃ m, ((s.capture x cs).ctx x).summary = some m ∧
      ∀ c ∈ cs, (s.core c).poisoned = true → m.flags.getLsbD 2 = true := by
  rw [State.capture, State.ctx_onCtx]
  refine ⟨rfl, _, rfl, fun c hc hp => ?_⟩
  have hbit := testBit_foldl_or (f := s.coreFlags) (i := 2) cs (if (s.ctx x).flagged || s.framePoison x then 4 else 0)
    (.inr ⟨c, hc, State.coreFlags_poison hp⟩)
  simp only [State.moduleSummary, BitVec.getLsbD_ofNat, hbit]
  rfl

theorem State.faultReport_wave : ((s.faultReport x).ctx x).stepWave = (s.ctx x).stepWave ∧
    ((s.faultReport x).ctx x).summary = (s.ctx x).summary := by
  unfold State.faultReport
  dsimp only
  split
  · rw [State.ctx_onCtx]
    exact ⟨rfl, rfl⟩
  · exact ⟨rfl, rfl⟩

theorem KeepsMarks.wave (h : KeepsMarks s t) :
    (t.ctx x).stepWave = (s.ctx x).stepWave ∧ (t.ctx x).summary = (s.ctx x).summary :=
  ⟨congrArg Prod.fst (h x), congrArg (·.2.1) (h x)⟩

theorem KeepsMarks.gongFault (h : KeepsMarks s t) : (t.ctx x).gongFault = (s.ctx x).gongFault := congrArg (·.2.2.1) (h x)

theorem KeepsMarks.reported (h : KeepsMarks s t) : (t.ctx x).reported = (s.ctx x).reported := congrArg (·.2.2.2) (h x)

/-- What follows the wave leaves its capture (R651). -/
theorem State.afterWave_wave : ((s.afterWave x).ctx x).stepWave = (s.ctx x).stepWave ∧
    ((s.afterWave x).ctx x).summary = (s.ctx x).summary := by
  unfold State.afterWave
  split
  · exact (State.sumTry_keepsMarks false).wave
  · obtain ⟨hscan, hscan'⟩ := (State.scanFaults_keepsMarks (s := s) (x := x)).wave (x := x)
    obtain ⟨hreport, hreport'⟩ := (s.scanFaults x).faultReport_wave (x := x)
    have hdone : KeepsMarks ((s.scanFaults x).faultReport x) (((s.scanFaults x).faultReport x).onCtx x fun k =>
        { k with waveDoneAt := some s.now }) := .onCtx fun _ => rfl
    obtain ⟨htry, htry'⟩ := (hdone.trans (State.sumTry_keepsMarks false)).wave (x := x)
    exact ⟨htry.trans (hreport.trans hscan), htry'.trans (hreport'.trans hscan')⟩

theorem gongWave_completes {last : Nat} (ha : AllArrived s x last) (hl : last + 20 ≤ s.ac) :
    Gives (.gongWaveComplete x) s fun t =>
      (s.allEnded (s.coresOfCtx x) = false → t.cores = s.cores ∧ t.ctx x = { s.ctx x with
        gongsDone := (s.ctx x).gongsDone + 1, waveAt := some s.ac, releaseAt := some (last + 28) }) ∧
      (s.allEnded (s.coresOfCtx x) = true → (t.ctx x).stepWave = true ∧ ∃ m, (t.ctx x).summary = some m ∧
        ∀ c ∈ s.coresOfCtx x, (s.core c).poisoned = true → m.flags.getLsbD 2 = true) := by
  obtain ⟨hactive, hwave, hsome, hall, hlast⟩ := ha
  have harrived : ¬((s.coresOfCtx x).isEmpty = true ∨
      (((s.coresOfCtx x).map fun c => (s.core c).arrivedAt (s.ctx x).gongsDone).any fun a => a.isNone) = true) := by
    rintro (h | h)
    · exact hsome (List.isEmpty_iff.1 h)
    · simp only [List.any_map, List.any_eq_true, Function.comp_apply] at h
      obtain ⟨c, hc, hnone⟩ := h
      simpa [Option.isNone_iff_eq_none.1 hnone] using hall c hc
  have hexec : exec (.gongWaveComplete x) s = .next (if s.allEnded (s.coresOfCtx x) then
      ((s.capture x (s.coresOfCtx x)).onCtx x fun k => { k with waveAt := some s.ac }).afterWave x
      else s.onCtx x fun k =>
        { k with gongsDone := k.gongsDone + 1, waveAt := some s.ac, releaseAt := some (last + 28) }) := by
    simp only [exec, execGongWaveComplete, hactive, hwave, Bool.not_true, Bool.false_eq_true, if_false, if_neg harrived, ← hlast,
      if_neg (Nat.not_lt.2 hl)]
  refine ⟨_, hexec, fun h => ?_, fun h => ?_⟩
  · rw [h, if_neg Bool.false_ne_true, State.ctx_onCtx]
    exact ⟨rfl, rfl⟩
  · rw [h, if_pos rfl, State.afterWave_wave.1, State.afterWave_wave.2, State.ctx_onCtx]
    exact s.capture_marks _

/-! ### GONG_RELEASE (R195, R475) -/

theorem Core.releaseGong_held {k : Core} (now : Nat) (h : k.hold = holdGong) : k.releaseGong now = { k with
    mode := if k.gongMode = some true then .slack else .lockstep
    gongMode := none, hold := 0, heldSince := none, issueFrom := now } := if_pos h

theorem Core.releaseGong_free {k : Core} (now : Nat) (h : k.hold ≠ holdGong) : k.releaseGong now = k := if_neg h

/-- A core that has left its GONG stays as it is. -/
theorem Core.releaseGong_idem (k : Core) (now : Nat) : (k.releaseGong now).releaseGong now = k.releaseGong now := by
  by_cases h : k.hold = holdGong
  · refine Core.releaseGong_free now ?_
    rw [Core.releaseGong_held now h]
    exact (by decide : (0 : Nat) ≠ holdGong)
  · rw [Core.releaseGong_free now h, Core.releaseGong_free now h]

/-- The release of the cores of a context. -/
def State.releaseCores (s : State) (cs : List CoreId) : State := cs.foldl (fun s c => s.onCore c fun k => k.releaseGong s.ac) s

theorem State.releaseCores_core (cs : List CoreId) (c : CoreId) :
    (s.releaseCores cs).core c = if c ∈ cs then (s.core c).releaseGong s.ac else s.core c := by
  induction cs generalizing s with
  | nil => rfl
  | cons d cs ih =>
    have honly := OnlyCore.onCore s d fun k => k.releaseGong s.ac
    rw [State.releaseCores, List.foldl_cons, ← State.releaseCores, ih, honly.ac]
    by_cases h : c = d
    · subst h
      rw [honly.1, Core.releaseGong_idem, ite_self, if_pos (List.mem_cons_self ..)]
    · rw [honly.2.1 c h]
      simp only [List.mem_cons, h, false_or]

theorem State.releaseCores_regs (cs : List CoreId) : (s.releaseCores cs).regs = s.regs := by
  induction cs generalizing s with
  | nil => rfl
  | cons d cs ih => exact ih (s := s.onCore d fun k => k.releaseGong s.ac)

theorem gong_releases {u : Nat} (hu : (s.ctx x).releaseAt = some u) (hle : u ≤ s.ac) : Gives (.gongRelease x) s fun t =>
      (∀ c ∈ s.coresOfCtx x, (s.core c).hold = holdGong →
        (t.core c).mode = (if (s.core c).gongMode = some true then .slack else .lockstep) ∧ (t.core c).hold = 0 ∧
        (t.core c).issueFrom = s.ac) ∧
      (∀ c, c ∉ s.coresOfCtx x ∨ (s.core c).hold ≠ holdGong → t.core c = s.core c) ∧
      (t.ctx x).releaseAt = none ∧ t.regs = s.regs := by
  have hexec : exec (.gongRelease x) s =
      .next ((s.releaseCores (s.coresOfCtx x)).onCtx x fun k => { k with releaseAt := none }) := by
    simp only [exec, execGongRelease, hu, if_neg (Nat.not_lt.2 hle), State.releaseCores]
  have hcore (c : CoreId) : ((s.releaseCores (s.coresOfCtx x)).onCtx x fun k => { k with releaseAt := none }).core c =
      if c ∈ s.coresOfCtx x then (s.core c).releaseGong s.ac else s.core c := State.releaseCores_core _ c
  refine ⟨_, hexec, fun c hc hheld => ?_, fun c h => ?_, ?_, State.releaseCores_regs (s := s) _⟩
  · rw [hcore, if_pos hc, Core.releaseGong_held _ hheld]
    exact ⟨rfl, rfl, rfl⟩
  · rw [hcore]
    split
    · next hc => exact Core.releaseGong_free _ (h.resolve_left (not_not_intro hc))
    · rfl
  · rw [State.ctx_onCtx]

/-! ### Summaries and notices (R478, R490, R556) -/

theorem State.sumTry_cores (late : Bool) : (s.sumTry x late).cores = s.cores :=
  (State.sumTry_within (Ps := [.ctxs, .links]) x late (.refl _ _) (by simp) (by simp)).part .cores (by simp)

/-- What a merge leaves of its context. -/
theorem State.sumTry_children (late : Bool) : ((s.sumTry x late).ctx x).children = (s.ctx x).children := by
  unfold State.sumTry
  dsimp only
  split
  · rfl
  · split
    · rfl
    · split
      · rw [State.ctx_onCtx]
      · rw [State.ctx_onCtx, State.sendControl_ctx]

/-- The root holds the merge once its own wave is complete and no child is missing. -/
theorem State.sumTry_root {own : GongSummary} (hroot : (s.ctx x).isRoot = true) (hwave : (s.ctx x).stepWave = true)
    (hsum : (s.ctx x).summary = some own) (hsent : (s.ctx x).sumSentAt = none) (hmerged : (s.ctx x).mergedAt = none)
    (hmissing : (s.ctx x).missing = []) : ((s.sumTry x false).ctx x).mergedAt = some s.now := by
  have hop : s.sumTry x false = s.onCtx x fun k => { k with mergedAt := some s.now } := by
    simp [State.sumTry, hroot, hwave, hsum, hsent, hmerged, hmissing]
  rw [hop, State.ctx_onCtx]

/-- A context with the summary of a child in place of the one before. -/
def CtxState.addChild (l : LinkId) (m : GongSummary) (k : CtxState) : CtxState :=
  { k with children := (k.children.filter fun c => c.1 != l.val) ++ [(l.val, m)] }

theorem CtxState.addChild_missing {k : CtxState} {l : LinkId} (m : GongSummary)
    (h : ∀ q ∈ k.childLinks, q = l ∨ ∃ c ∈ k.children, c.1 = q.val) : (k.addChild l m).missing = [] := by
  refine List.filter_eq_nil_iff.2 fun q hq => ?_
  simp only [Bool.not_eq_true, Bool.not_eq_false', List.any_eq_true, beq_iff_eq, CtxState.addChild, List.mem_append,
    List.mem_filter, bne_iff_ne, List.mem_singleton]
  by_cases hql : q = l
  · exact ⟨(l.val, m), .inr rfl, by rw [hql]⟩
  · obtain ⟨c, hc, hcq⟩ := (h q hq).resolve_left hql
    exact ⟨c, .inl ⟨hc, fun hcl => hql (Fin.ext (hcq.symm.trans hcl))⟩, hcq⟩

theorem gongSum_keeps {l : LinkId} {m : GongSummary} (hl : (s.ctx x).gtchild.getLsbD l.val = true) :
    Gives (.gongSum x l m) s fun t =>
      (t.ctx x).children = ((s.ctx x).children.filter fun c => c.1 != l.val) ++ [(l.val, m)] ∧ t.cores = s.cores ∧
      ((s.ctx x).isRoot = true → (s.ctx x).stepWave = true → (s.ctx x).summary ≠ none → (s.ctx x).sumSentAt = none →
        (s.ctx x).mergedAt = none → (∀ k ∈ (s.ctx x).childLinks, k = l ∨ ∃ c ∈ (s.ctx x).children, c.1 = k.val) →
        (t.ctx x).mergedAt = some s.now) := by
  refine ⟨(s.onCtx x (CtxState.addChild l m)).sumTry x false, ?_, ?_, State.sumTry_cores false, ?_⟩
  · simp only [exec, execGongSum, hl, if_true]
    rfl
  · rw [State.sumTry_children, State.ctx_onCtx, CtxState.addChild]
  · intro hroot hwave hsum hsent hmerged hlinks
    obtain ⟨own, hown⟩ := Option.ne_none_iff_exists'.1 hsum
    have hctx := s.ctx_onCtx x (CtxState.addChild l m)
    exact State.sumTry_root (own := own) (by rw [hctx]; exact hroot) (by rw [hctx]; exact hwave) (by rw [hctx]; exact hown)
      (by rw [hctx]; exact hsent) (by rw [hctx]; exact hmerged) (by rw [hctx]; exact CtxState.addChild_missing m hlinks)

theorem gongDec_keeps (n : GongNotice) : Gives (.gongDec x n) s fun t =>
    (t.ctx x).notice = some n ∧ (t.ctx x).actionAt = nearestCount s.car n.action.toNat ∧ t.cores = s.cores := by
  refine ⟨_, rfl, ?_, ?_, ?_⟩
  · rw [State.takeNotice, State.ctx_onCtx]
  · rw [State.takeNotice, State.ctx_onCtx]
  · have hsent := Within.foldl (P := [.links]) (fun t l => t.sendControl l (n.word x))
      ((s.onCtx x fun k => k.hear n s.mod.policy).ctx x).childLinks (.refl _ (s.onCtx x fun k => k.hear n s.mod.policy))
      fun _ l h => State.sendControl_within l _ h (by simp)
    exact hsent.part .cores (by simp)

/-! ### Time-outs and reports (R479, R651) -/

theorem gong_timesOut {t0 : Nat} (hactive : (s.ctx x).active = true) (hdone : (s.ctx x).waveDoneAt = some t0)
    (hsent : (s.ctx x).sumSentAt = none) (hmerged : (s.ctx x).mergedAt = none) (hmissing : (s.ctx x).missing ≠ [])
    (hover : s.over t0 s.fabTimeout = true) : Gives (.gongTimeout x) s fun t => (t.ctx x).gongFault = true := by
  have hexec : exec (.gongTimeout x) s = .next (((s.ctx x).missing.foldl (fun s l => s.gongLinkFault x l)
      ((s.raise .clk 0x18 2).onCtx x fun k => { k with gongFault := true, noticeLate := false })).sumTry x true) := by
    simp [exec, execGongTimeout, hactive, hdone, hsent, hmerged, hmissing, hover]
  have hfault : (((s.raise .clk 0x18 2).onCtx x fun k => { k with gongFault := true, noticeLate := false }).ctx x).gongFault = true := by
    rw [State.ctx_onCtx]
  refine ⟨_, hexec, ?_⟩
  generalize (s.raise .clk 0x18 2).onCtx x _ = u at hfault ⊢
  have hlinks : KeepsMarks u ((s.ctx x).missing.foldl (fun s l => s.gongLinkFault x l) u) :=
    .foldl (fun _ _ => State.fault_keepsMarks _ _ _ _ _ _ _) _
  rw [(State.sumTry_keepsMarks true).gongFault, hlinks.gongFault, hfault]

theorem report_arrives {e : Endpoint} {rs : List ElogRecord} (hactive : (s.ctx x).active = true) (hroot : (s.ctx x).isRoot = true) :
    Gives (.faultReport x e rs) s fun t => e ∈ (t.ctx x).reported ∧ (∀ e' ∈ (s.ctx x).reported, e' ∈ (t.ctx x).reported) ∧
      (t.ctx x).runRecords = (s.ctx x).runRecords ++ rs ∧ t.mod = s.mod := by
  refine ⟨s.onCtx x fun k => { k with
      reported := if k.reported.contains e then k.reported else k.reported ++ [e], runRecords := k.runRecords ++ rs }, ?_, ?_⟩
  · simp only [exec, execFaultReport, if_pos (And.intro hactive hroot)]
  · dsimp only
    rw [State.ctx_onCtx]
    dsimp only
    by_cases h : (s.ctx x).reported.contains e = true
    · rw [if_pos h]
      exact ⟨List.contains_iff_mem.1 h, fun _ => id, rfl, rfl⟩
    · rw [if_neg h]
      exact ⟨List.mem_append_right _ (List.mem_singleton_self e), fun _ => List.mem_append_left _, rfl, rfl⟩

theorem report_timesOut {e : Endpoint} (hlate : s.reportsLate x = true) (he : e ∈ s.modulesOf x) :
    Gives (.faultReportTimeout x e) s fun t => e ∈ (t.ctx x).reported := by
  refine ⟨s.noReport x e, ?_, ?_⟩
  · simp only [exec, execFaultReportTimeout, if_pos (And.intro hlate (List.contains_iff_mem.2 he))]
  · unfold State.noReport
    split
    · next h => exact List.contains_iff_mem.1 h
    · rw [State.ctx_onCtx]
      exact List.mem_append_right _ (List.mem_singleton_self e)

end

/-- Settles O17, clause by clause. -/
theorem gongWavesSummariesAndReportsAdvance : Obligations.GongWavesSummariesAndReportsAdvance :=
  ⟨fun _ _ _ => gongWave_completes, fun _ _ _ => gong_releases, fun _ _ _ _ => gongSum_keeps, fun _ _ => gongDec_keeps,
    fun _ _ _ => gong_timesOut, fun _ _ _ _ => report_arrives, fun _ _ _ => report_timesOut⟩

end Sys2Proof.Machine
end

section
/-! SUPPORT. Blocks of the command sequencer, stream expansion, window pushes, fences, launches and bank copies (O16). -/

namespace Sys2Proof.Machine

section
variable {s t u : State} {d : DieId}

/-! ### Registers of a die's block (R249, R467) -/

theorem State.die_onDie (s : State) (d : DieId) (f : Die → Die) : (s.onDie d f).die d = f (s.die d) := by
  rw [State.onDie_eq, State.die_setDie, if_pos rfl]

theorem State.fld_onDie (s : State) (d : DieId) (f : Die → Die) (b : Blk) (off hi lo : Nat) :
    (s.onDie d f).fld b off hi lo = s.fld b off hi lo := congrArg (bits · hi lo) (State.reg_congr rfl ..)

theorem State.reg_flagStep (s : State) (x : Ctx) (b : Blk) (off : Nat) : (s.flagStep x).reg b off = s.reg b off :=
  State.reg_congr rfl ..

theorem State.die_flagStep (s : State) (x : Ctx) (d : DieId) : (s.flagStep x).die d = s.die d := rfl

/-- A fault bit of the die's block, whatever else the interrupt register shows. -/
theorem State.raise_cqDie_flag (s : State) (d : DieId) {off bit : Nat} (hoff : off ≠ 0x48) (hbit : bit < 32) :
    (s.raise (.cqDie d) off bit).reg (.cqDie d) off / 2 ^ bit % 2 = 1 := by
  have hreg : (s.raise (.cqDie d) off bit).reg (.cqDie d) off = (s.reg (.cqDie d) off ||| 2 ^ bit) % 2 ^ 32 := by
    show ((s.orReg (.cqDie d) off (2 ^ bit)).orReg (.cqDie d) 0x48 1).reg (.cqDie d) off = _
    rw [State.orReg, State.reg_setReg_off, if_neg hoff, State.orReg, State.reg_setReg_same]
  rw [hreg]
  exact raised_bit _ hbit

theorem State.ccFault_flag (s : State) (d : DieId) {bit : Nat} (h : bit < 32) :
    (s.ccFault d bit).reg (.cqDie d) 0x44 / 2 ^ bit % 2 = 1 := s.raise_cqDie_flag d (by decide) h

theorem State.cmdFault_flag (s : State) (d : DieId) (x : Ctx) {bit : Nat} (h : bit < 32) :
    (s.cmdFault d bit x).reg (.cqDie d) 0x04 / 2 ^ bit % 2 = 1 := by
  rw [State.cmdFault, State.reg_flagStep]
  exact s.raise_cqDie_flag d (by decide) h

theorem State.flagStep_flagged (s : State) (x : Ctx) : ((s.flagStep x).ctx x).flagged = true := by
  rw [State.flagStep, State.ctx_onCtx]

theorem State.cmdFault_leaves (s : State) (d : DieId) (bit : Nat) (x : Ctx) : Within [.regs, .ctxs] s (s.cmdFault d bit x) :=
  State.cmdFault_within d bit x (.refl _ _) (by simp) (by simp)

theorem State.ccFault_regs (s : State) (d : DieId) (bit : Nat) : Within [.regs] s (s.ccFault d bit) :=
  State.ccFault_within d bit (.refl _ _) (by simp)

/-- Work that leaves the cores and the memories leaves every other core. -/
theorem OtherCores.ofDies {c : CoreId} (h : OtherCores s c t) (g : Within [.regs, .dies, .ctxs] t u) : OtherCores s c u := by
  refine h.trans ⟨fun c' _ => g.core (by simp) c', ?_, ?_, ?_, ?_, ?_⟩
  · exact (g.part .am (by simp)).1
  · exact (g.part .ws (by simp)).1
  · exact (g.part .psm (by simp)).1
  · exact (g.part .tb (by simp)).1
  · exact (g.part .cs (by simp)).1

/-! ### The next block (R201 to R204) -/

variable {h : Nat} {body : List Line} {cs : List CoreId}

/-- A block that starts leaves the queue; the sequencer holds no other block. -/
theorem State.nextBlock_some (hn : s.nextBlock d = some (h, body, t)) : (s.die d).block = none ∧
    ∃ rest, t = (s.onDie d fun k => { k with cmdq := rest }).setFld (.cqDie d) 0x60 0 0 0 := by
  unfold State.nextBlock at hn
  split at hn
  · next hblock _ =>
    dsimp only at hn
    split at hn
    · cases hn
    · obtain ⟨-, -, rfl⟩ : _ ∧ _ ∧ _ = t := by simpa using hn
      exact ⟨hblock, _, rfl⟩
  · cases hn

/-- What the start of a block leaves of the state. -/
theorem State.nextBlock_leaves (hn : s.nextBlock d = some (h, body, t)) : Within [.regs, .dies] s t ∧ t.ac = s.ac ∧
    (t.die d).block = none ∧ (t.die d).push = (s.die d).push ∧ (t.die d).armed = (s.die d).armed := by
  obtain ⟨hblock, rest, rfl⟩ := State.nextBlock_some hn
  have hdie : ((s.onDie d fun k => { k with cmdq := rest }).setFld (.cqDie d) 0x60 0 0 0).die d = { s.die d with cmdq := rest } :=
    s.die_onDie d fun k => { k with cmdq := rest }
  refine ⟨State.setFld_within _ _ _ _ _ (State.onDie_within _ _ (.refl _ _) (by simp)) (by simp), rfl, ?_, ?_, ?_⟩
  · rw [hdie]
    exact hblock
  · rw [hdie]
  · rw [hdie]

theorem State.startBlock_is {ty : Nat} {f : Nat → List Line → List CoreId → State → State} (hb : BlockIs s d ty h body cs t)
    (hty : ty ≠ 0) (hty' : ty ≤ 4) : s.startBlock d ty f = f h body cs t := by
  obtain ⟨hnext, rfl, htargets⟩ := hb
  have hlegal : ¬(hType h = 0 ∨ 4 < hType h) := by omega
  simp only [State.startBlock, hnext, if_neg hlegal, htargets, ne_eq, not_true_eq_false, if_false]

/-! ### STREAM (R461 to R463) -/

theorem exec_stream (hb : BlockIs s d 2 h body cs t) : exec (.streamBlock d) s = .next (t.streamRun d h body) := by
  simp only [exec, execStreamBlock, State.startBlock_is hb (by decide) (by decide)]

theorem stream_lengthFault (hb : BlockIs s d 2 h body cs t)
    (hlen : body.length ≠ 1 + ceilDiv (stRules (line0 body)) 4 ∨ 8 < stRules (line0 body)) :
    Gives (.streamBlock d) s fun u => u.reg (.cqDie d) 0x04 / 2 % 2 = 1 ∧ (u.die d).block = none := by
  refine ⟨_, exec_stream hb, ?_⟩
  rw [State.streamRun, if_pos hlen]
  obtain ⟨-, -, hblock, -, -⟩ := State.nextBlock_leaves hb.1
  refine ⟨t.cmdFault_flag d _ (bit := 1) (by decide), ?_⟩
  rw [(t.cmdFault_leaves d 1 _).die (by simp), hblock]

theorem stream_opens (hb : BlockIs s d 2 h body cs t) (hlen : body.length = 1 + ceilDiv (stRules (line0 body)) 4)
    (hrules : stRules (line0 body) ≤ 8) : Gives (.streamBlock d) s fun u =>
      (rulesBad (rulesOf body) = false →
        (u.die d).block = some ⟨h, body, 0, stSoft (line0 body), !stSoft (line0 body)⟩) ∧
      (rulesBad (rulesOf body) = true → (u.die d).block = none ∧ u.reg (.cqDie d) 0x44 / 2 ^ 4 % 2 = 1 ∧
        (u.ctx (hCtx h)).flagged = true) ∧ OtherCores s (coreOf d 0) u := by
  refine ⟨_, exec_stream hb, ?_⟩
  obtain ⟨hleft, -, hblock, -, -⟩ := State.nextBlock_leaves hb.1
  have hothers : OtherCores s (coreOf d 0) t := (OtherCores.refl s _).ofDies (hleft.mono (by simp))
  have hlegal : ¬(body.length ≠ 1 + ceilDiv (stRules (line0 body)) 4 ∨ 8 < stRules (line0 body)) := by omega
  have hopen (b : Block) : ((t.onDie d fun k => { k with block := some b }).die d).block = some b := by rw [State.die_onDie]
  have hframe (b : Block) : Within [.regs, .dies, .ctxs] t (t.onDie d fun k => { k with block := some b }) :=
    State.onDie_within _ _ (.refl _ _) (by simp)
  rw [State.streamRun, if_neg hlegal]
  by_cases hbad : rulesBad (rulesOf body) = true
  · rw [if_pos hbad]
    have hflagged : Within [.regs, .dies, .ctxs] t ((t.ccFault d ccRule).flagStep (hCtx h)) :=
      State.flagStep_within _ (State.ccFault_within _ _ (.refl _ _) (by simp)) (by simp)
    refine ⟨fun h => absurd hbad (by simp [h]), fun _ => ⟨?_, ?_, State.flagStep_flagged _ _⟩, hothers.ofDies hflagged⟩
    · rw [State.die_flagStep, (t.ccFault_regs d ccRule).die (by simp), hblock]
    · rw [State.reg_flagStep]
      exact t.ccFault_flag d (bit := 4) (by decide)
  · rw [if_neg hbad]
    refine ⟨fun _ => ?_, fun h => absurd h hbad, ?_⟩
    · by_cases hsoft : stSoft (line0 body) = true
      · rw [if_pos hsoft, hsoft]
        exact hopen _
      · rw [if_neg hsoft, Bool.eq_false_iff.2 hsoft]
        exact hopen _
    · split
      · exact hothers.ofDies (State.orReg_within _ _ _ (hframe _) (by simp))
      · exact hothers.ofDies (hframe _)

/-! ### Pushes of the sequencer (R205, R463 to R466) -/

variable {c : CoreId} {xsq : Bool} {tok : Token}

/-- A push of the sequencer: the entry joins its queue, and the die has pushed in this ac. -/
theorem State.seqPush_pushes (desc : Nat) (hs : (s.core c).skips = []) : let q := if xsq then qXSQ else qMSQ
    ((s.seqPush d c xsq tok desc).core c).queue q = (s.core c).queue q ++
      [⟨tok, xsq && decide (bits desc 255 252 = 0 ∨ 4 < bits desc 255 252), BitVec.ofNat 256 desc, s.ac + 1, false⟩] ∧
    ((s.seqPush d c xsq tok desc).die d).pushAc = s.ac + 1 ∧ OtherCores s c (s.seqPush d c xsq tok desc) := by
  intro q
  obtain ⟨t, hregs, hac, heq⟩ : ∃ t, Within [.regs] s t ∧ t.ac = s.ac ∧ s.seqPush d c xsq tok desc =
      (t.qPush c q tok (xsq && decide (bits desc 255 252 = 0 ∨ 4 < bits desc 255 252)) (BitVec.ofNat 256 desc)).onDie d
        fun k => { k with pushAc := t.ac + 1 } := by
    refine ⟨_, .ite (fun _ => s.ccFault_regs d ccXclass) (fun _ => .refl _ _), ?_, rfl⟩
    split <;> rfl
  have hcore := hregs.core (by simp) c
  have hskip : (t.core c).skip q = [] := by rw [hcore, Core.skip, hs]; rfl
  generalize (xsq && decide (bits desc 255 252 = 0 ∨ 4 < bits desc 255 252)) = bad at heq ⊢
  have hpush := State.qPush_core (s := t) (c := c) hskip tok bad (BitVec.ofNat 256 desc)
  have hothers : OtherCores s c (t.qPush c q tok bad (BitVec.ofNat 256 desc)) := ((OtherCores.refl s c).ofRegs hregs).setCore _
  rw [heq]
  generalize t.qPush c q tok bad (BitVec.ofNat 256 desc) = u at hpush hothers ⊢
  have hleft : Within [.regs, .dies, .ctxs] u (u.onDie d fun k => { k with pushAc := t.ac + 1 }) :=
    State.onDie_within _ _ (.refl _ _) (by simp)
  refine ⟨?_, ?_, hothers.ofDies hleft⟩
  · rw [hleft.core (by simp), hpush, hcore, hac, Core.queue_setQueue]
  · rw [State.die_onDie, hac]

theorem exec_push_stream {b : Block} {x : Nat} (hac : (s.die d).pushAc ≤ s.ac) (hnext : s.streamNext d = some (b, c, tok, x))
    (hroom : s.qFull c (if stXsq (line0 b.body) then qXSQ else qMSQ) = false) : exec (.streamPush d) s =
      .next ((s.seqPush d c (stXsq (line0 b.body)) tok x).streamMoved d b) := by
  simp only [exec, execStreamPush, if_neg (Nat.not_lt.2 hac), hnext, hroom, Bool.false_eq_true, if_false]

theorem stream_pushes {b : Block} {x : Nat} (hac : (s.die d).pushAc ≤ s.ac)
    (hnext : s.streamNext d = some (b, c, tok, x)) (hs : (s.core c).skips = []) :
    let q := if stXsq (line0 b.body) then qXSQ else qMSQ
    s.qFull c q = false →
    Gives (.streamPush d) s fun t =>
      (t.core c).queue q = (s.core c).queue q ++ [⟨tok, stXsq (line0 b.body) && decide (bits x 255 252 = 0 ∨ 4 < bits x 255 252),
        BitVec.ofNat 256 x, s.ac + 1, false⟩] ∧ (t.die d).pushAc = s.ac + 1 ∧ OtherCores s c t := by
  intro q hroom
  refine ⟨_, exec_push_stream hac hnext hroom, ?_⟩
  obtain ⟨hqueue, hpushed, hothers⟩ := s.seqPush_pushes (d := d) (tok := tok) (xsq := stXsq (line0 b.body)) x hs
  generalize s.seqPush d c (stXsq (line0 b.body)) tok x = u at hqueue hpushed hothers ⊢
  have hleft : Within [.regs, .dies, .ctxs] u (u.streamMoved d b) := State.onDie_within _ _ (.refl _ _) (by simp)
  refine ⟨by rwa [hleft.core (by simp)], ?_, hothers.ofDies hleft⟩
  rw [State.streamMoved, State.die_onDie]
  exact hpushed

theorem exec_push_window (hac : (s.die d).pushAc ≤ s.ac) (hnext : s.streamNext d = none) :
    exec (.streamPush d) s = .next (s.windowPush d) := by
  simp only [exec, execStreamPush, if_neg (Nat.not_lt.2 hac), hnext]

/-- Bit 31 of a register once it is cleared. -/
theorem State.fld_setFld_31 (s : State) (b : Blk) (off : Nat) : (s.setFld b off 31 31 0).fld b off 31 31 = 0 := by
  have hlt := s.reg_lt b off
  rw [State.fld, State.setFld, State.reg_setReg_same]
  simp only [bits, setBits]
  omega

theorem window_pushes {pos : BitVec 6} {desc : BitVec 256} (hac : (s.die d).pushAc ≤ s.ac) (hnext : s.streamNext d = none)
    (hpush : (s.die d).push = some (xsq, pos, tok, desc)) :
    let q := if xsq then qXSQ else qMSQ
    let c := coreOf d (Fin.ofNat 64 pos.toNat)
    (s.qFull c q = true → Gives (.streamPush d) s fun t => t = s) ∧
    (s.qFull c q = false → (s.core c).skips = [] → Gives (.streamPush d) s fun t =>
      (∃ p, (t.core c).queue q = (s.core c).queue q ++ [⟨tok, p, desc, s.ac + 1, false⟩]) ∧ (t.die d).push = none ∧
      t.fld (.cqDie d) 0xA0 31 31 = 0 ∧ OtherCores s c t) := by
  intro q c
  refine ⟨fun hfull => ⟨_, exec_push_window hac hnext, ?_⟩, fun hroom hs => ⟨_, exec_push_window hac hnext, ?_⟩⟩
  · simp only [State.windowPush, hpush]
    rw [if_pos hfull]
  · have hop : s.windowPush d = ((s.seqPush d c xsq tok desc.toNat).onDie d fun k => { k with push := none }).setFld
        (.cqDie d) 0xA0 31 31 0 := by
      simp only [State.windowPush, hpush]
      exact if_neg (by rw [hroom]; exact Bool.false_ne_true)
    obtain ⟨hqueue, -, hothers⟩ := s.seqPush_pushes (d := d) (tok := tok) (xsq := xsq) desc.toNat hs
    rw [hop]
    rw [BitVec.ofNat_toNat, BitVec.setWidth_eq] at hqueue
    generalize s.seqPush d c xsq tok desc.toNat = u at hqueue hothers ⊢
    have hleft : Within [.regs, .dies, .ctxs] u ((u.onDie d fun k => { k with push := none }).setFld (.cqDie d) 0xA0 31 31 0) :=
      State.setFld_within _ _ _ _ _ (State.onDie_within _ _ (.refl _ _) (by simp)) (by simp)
    refine ⟨⟨_, by rw [hleft.core (by simp), hqueue]⟩, ?_, State.fld_setFld_31 _ _ _, hothers.ofDies hleft⟩
    rw [(State.setFld_within (Ps := [.regs]) _ _ _ _ _ (.refl _ _) (by simp)).die (by simp), State.die_onDie]

/-! ### CQ_CCDONE and CQ_CCPUSHCTL (R461, R466, R467) -/

theorem ccDone_closes : Gives (.cqCcdone d) s fun t =>
    (s.fld (.cqDie d) 0x60 0 0 = 0 → t.fld (.cqDie d) 0x60 0 0 = 1 ∧
      ∀ b, (s.die d).block = some b → (t.die d).block = if b.soft then none else some b) ∧
    (s.fld (.cqDie d) 0x60 0 0 = 1 → t.reg (.cqDie d) 0x44 / 2 ^ 7 % 2 = 1 ∧ (t.die d).block = (s.die d).block) := by
  refine ⟨s.ccDone d, rfl, fun h => ?_, fun h => ?_⟩
  · have hidle : ¬s.fld (.cqDie d) 0x60 0 0 = 1 := by omega
    have hset : (s.setFld (.cqDie d) 0x60 0 0 1).fld (.cqDie d) 0x60 0 0 = 1 := by
      rw [State.fld, State.setFld, State.reg_setReg_same]
      simp only [bits, setBits]
      omega
    have hdie : (s.setFld (.cqDie d) 0x60 0 0 1).die d = s.die d :=
      (State.setFld_within (Ps := [.regs]) _ _ _ _ _ (.refl _ _) (by simp)).die (by simp) d
    rw [State.ccDone, if_neg hidle]
    generalize s.setFld (.cqDie d) 0x60 0 0 1 = u at hset hdie ⊢
    refine ⟨by rwa [State.fld_onDie], fun b hb => ?_⟩
    rw [State.die_onDie, hdie]
    simp only [hb]
  · rw [State.ccDone_busy h]
    refine ⟨s.ccFault_flag d (bit := 7) (by decide), ?_⟩
    rw [(s.ccFault_regs d ccBusyWrite).die (by simp)]

theorem pushGo_starts {pos : BitVec 6} : Gives (.cqCcpushctlGo d xsq pos tok) s fun t =>
    (s.fld (.cqDie d) 0xA0 31 31 = 0 →
      (t.die d).push = some (xsq, pos, tok, BitVec.ofNat 256 (s.pushWindow d)) ∧ t.fld (.cqDie d) 0xA0 31 31 = 1) ∧
    (s.fld (.cqDie d) 0xA0 31 31 = 1 → t.reg (.cqDie d) 0x44 / 2 ^ 7 % 2 = 1 ∧ (t.die d).push = (s.die d).push) := by
  refine ⟨s.pushGo d xsq pos tok, rfl, fun h => ?_, fun h => ?_⟩
  · have hidle : ¬s.fld (.cqDie d) 0xA0 31 31 = 1 := by omega
    have hset : (s.setReg (.cqDie d) 0xA0 (2 ^ 31 + (if xsq then 2 ^ 30 else 0) + pos.toNat * 2 ^ 22 + tok.toNat)).fld
        (.cqDie d) 0xA0 31 31 = 1 := by
      have hpos := pos.isLt
      have htok := tok.isLt
      rw [State.fld, State.reg_setReg_same]
      simp only [bits]
      split <;> omega
    rw [State.pushGo, if_neg hidle]
    generalize s.setReg (.cqDie d) 0xA0 _ = u at hset ⊢
    refine ⟨?_, by rwa [State.fld_onDie]⟩
    rw [State.die_onDie]
  · rw [State.pushGo_busy h]
    refine ⟨s.ccFault_flag d (bit := 7) (by decide), ?_⟩
    rw [(s.ccFault_regs d ccBusyWrite).die (by simp)]

/-! ### FENCE (R203, R204) -/

theorem fence_passes (hn : s.nextBlock d = some (h, body, t)) (hty : hType h = 4) :
    ((t.targets d h).isSome = true → (s.die d).push = none → Gives (.fenceBlock d) s fun u => u = t) ∧
    (t.targets d h = none → Gives (.fenceBlock d) s fun u =>
      u.reg (.cqDie d) 0x04 / 4 % 2 = 1 ∧ (u.ctx (hCtx h)).flagged = true ∧ u.cores = t.cores) := by
  have hlegal : ¬(hType h = 0 ∨ 4 < hType h) := by omega
  refine ⟨fun htargets hpush => ⟨t, ?_, rfl⟩, fun htargets => ⟨t.cmdFault d 2 (hCtx h), ?_, ?_, State.flagStep_flagged _ _, ?_⟩⟩
  · obtain ⟨cs, hcs⟩ := Option.isSome_iff_exists.1 htargets
    simp [exec, execFenceBlock, hn, hty, hcs, hpush]
  · simp [exec, execFenceBlock, hn, hty, htargets]
  · exact t.cmdFault_flag d _ (bit := 2) (by decide)
  · exact (t.cmdFault_leaves d 2 _).part .cores (by simp)

/-! ### LAUNCH (R464, R666) -/

theorem State.targets_nodup (ht : s.targets d h = some cs) : cs.Nodup := by
  unfold State.targets at ht
  split at ht
  · split at ht
    · cases ht
      exact coresOf_nodup d
    · cases ht
  · split at ht
    · dsimp only at ht
      split at ht
      · cases ht
        exact List.nodup_singleton _
      · cases ht
    · cases ht

theorem State.armCore_queues (s : State) (x : Nat) (c : CoreId) :
    ((s.armCore x c).core c).queue qMSQ = [] ∧ ((s.armCore x c).core c).queue qXSQ = [] := by
  rw [State.armCore, State.core_onCore, Core.queue_setQueue_at, Core.queue_setQueue_at, Core.queue_setQueue]
  exact ⟨rfl, rfl⟩

theorem State.armCore_others (s : State) (x : Nat) (c c' : CoreId) (hne : c' ≠ c) : (s.armCore x c).core c' = s.core c' := by
  rw [State.armCore, State.core_onCore_ne _ _ hne]
  rfl

/-- The stream queues of every target core are empty. -/
theorem State.armCores_queues (x : Nat) (hcs : cs.Nodup) : ∀ c ∈ cs,
    ((cs.foldl (fun s c => s.armCore x c) s).core c).queue qMSQ = [] ∧
    ((cs.foldl (fun s c => s.armCore x c) s).core c).queue qXSQ = [] :=
  (State.foldl_core (R := fun _ k => k.queue qMSQ = [] ∧ k.queue qXSQ = []) (fun s c => s.armCore_queues x c)
    (fun s c c' hne => s.armCore_others x c c' hne) hcs s).1

theorem launch_arms {e : Line} {rest : List Line} (hb : BlockIs s d 3 h (e :: rest) cs t) (hp : (s.ctx (hCtx h)).nextPeal = none) :
    Gives (.launchBlock d) s fun u =>
      let x := e.toNat
      (s.car < bits x 63 0 → s.car < s.mod.leaseUntil →
        (u.die d).armed = some ⟨hCtx h, BitVec.ofNat 64 (bits x 63 0), BitVec.ofNat 64 (bits x 127 64),
          BitVec.ofNat 32 (bits x 159 128), bitAt x 160⟩) ∧
      (bits x 63 0 ≤ s.car → (u.die d).armed = (s.die d).armed ∧ u.reg (.cqDie d) 0x44 / 2 ^ 5 % 2 = 1) ∧
      ∀ c ∈ cs, (u.core c).queue qMSQ = [] ∧ (u.core c).queue qXSQ = [] := by
  obtain ⟨hleft, -, -, -, harmed⟩ := State.nextBlock_leaves hb.1
  have hqueues := State.armCores_queues (s := t) e.toNat (State.targets_nodup hb.2.2)
  have harm : Within [.regs, .cores] t (cs.foldl (fun s c => s.armCore e.toNat c) t) :=
    .foldl _ _ (.refl _ _) fun _ c h => State.armCore_within _ c h (by simp) (by simp)
  have hmod : (cs.foldl (fun s c => s.armCore e.toNat c) t).mod = s.mod :=
    (harm.part .mod (by simp)).trans (hleft.part .mod (by simp))
  have hctxs : (cs.foldl (fun s c => s.armCore e.toNat c) t).ctxs = s.ctxs :=
    (harm.part .ctxs (by simp)).trans (hleft.part .ctxs (by simp))
  have hdie := (harm.die (by simp) d).symm ▸ harmed
  refine ⟨_, by simp only [exec, execLaunchBlock, State.startBlock_is hb (by decide) (by decide)]; rfl, ?_⟩
  rw [State.launchRun, State.launchBody]
  dsimp only
  generalize cs.foldl (fun s c => s.armCore e.toNat c) t = a at hqueues hmod hctxs hdie ⊢
  have hpeal : (a.ctx (hCtx h)).nextPeal = none := by rwa [State.ctx, hctxs]
  have hcar : a.car = s.car := by rw [State.car, State.car, hmod]
  have hlease : a.leased = decide (s.car < s.mod.leaseUntil) := by rw [State.leased, hcar, hmod]
  rw [hpeal]
  dsimp only
  rw [hcar, hlease]
  by_cases hlate : bits e.toNat 63 0 ≤ s.car
  · rw [if_pos hlate]
    refine ⟨fun h => absurd hlate (Nat.not_le.2 h), fun _ => ⟨?_, a.ccFault_flag d (bit := 5) (by decide)⟩, fun c hc => ?_⟩
    · rw [(a.ccFault_regs d ccLate).die (by simp), hdie]
    · rw [(a.ccFault_regs d ccLate).core (by simp)]
      exact hqueues c hc
  · rw [if_neg hlate]
    refine ⟨fun _ hl => ?_, fun h => absurd h hlate, fun c hc => ?_⟩
    · rw [decide_eq_true hl, Bool.not_true, if_neg Bool.false_ne_true, State.die_onDie]
    · split
      · exact hqueues c hc
      · exact hqueues c hc

/-! ### BANK_COPY (R640) -/

theorem bankCopy_takes {a : Armed} (ha : (s.die d).armed = some a) (hc : (s.die d).copyEnd = none) (ho : s.remapOwed d ≠ []) :
    let bad := (s.remapOwed d).any fun p => s.bankUce (coreOf d (Fin.ofNat 64 (8 * p.1 + p.2)))
    Gives (.bankCopy d) s fun t =>
      (bad = false → (t.die d).copyEnd = some (s.ac + 256 * (s.remapOwed d).length) ∧ (t.die d).armed = some a) ∧
      (bad = true → (t.die d).armed = none) ∧ t.cores = s.cores ∧ t.pm = s.pm := by
  intro bad
  have hexec : exec (.bankCopy d) s = .next (if bad then s.onDie d fun k => { k with armed := none }
      else s.onDie d fun k => { k with copyEnd := some (s.ac + 256 * (s.remapOwed d).length) }) := by
    simp [exec, execBankCopy, ha, hc, ho, bad]
  refine ⟨_, hexec, fun hb => ?_, fun hb => ?_, ?_, ?_⟩
  · rw [hb, if_neg Bool.false_ne_true, State.die_onDie]
    exact ⟨rfl, ha⟩
  · rw [hb, if_pos rfl, State.die_onDie]
  · split <;> rfl
  · split <;> rfl

end

end Sys2Proof.Machine
end

section
/-! SUPPORT. Loading bundles into the inactive banks of the target cores (O16). -/

namespace Sys2Proof.Machine

section
variable {s t u : State} {c e : CoreId} {v : Nat} {cs : List CoreId} {vs : List Nat}

/-! ### One bundle into one core (R188, R203, R460) -/

theorem Core.bankOf_setBank (k : Core) (b : Bool) (v : Bank) : (k.setBank b v).bankOf b = v := by
  simp [Core.bankOf, Core.setBank]

/-- The state with one more bundle in the inactive bank of a core. -/
def State.loadBundle (s : State) (c : CoreId) (v : Nat) : State :=
  (s.putBundle c (!(s.core c).bank) (loadIndex s c) v).onCore c fun k =>
    k.setBank (!(s.core c).bank) ⟨false, 0, loadIndex s c + 1, 0⟩

theorem State.progWrite_loads (h : loadIndex s c ≤ 1023) : s.progWrite c v = (s.loadBundle c v, true) :=
  if_neg (Nat.not_lt.2 h)

theorem State.progWrite_over (h : 1023 < loadIndex s c) : s.progWrite c v = (s, false) := if_pos h

theorem State.loadBundle_core : (s.loadBundle c v).core c =
    (s.core c).setBank (!(s.core c).bank) ⟨false, 0, loadIndex s c + 1, 0⟩ := State.core_onCore _ c _

theorem State.loadBundle_others (h : e ≠ c) : (s.loadBundle c v).core e = s.core e := State.core_onCore_ne _ _ h

theorem State.loadBundle_pm : (s.loadBundle c v).pm =
    s.pm.setNat (pmBase c (!(s.core c).bank) + 32 * loadIndex s c) 32 v := rfl

/-- What a write of one bundle shows at its own place and at every other place of the program memories. -/
theorem bundleAt_loadBundle {b : Bool} {i : Nat} (hs : loadIndex s c ≤ 1023) (hi : i ≤ 1023) :
    bundleAt (s.loadBundle c v) e b i =
      if e = c ∧ b = (!(s.core c).bank) ∧ i = loadIndex s c then v % 256 ^ 32 else bundleAt s e b i := by
  rw [bundleAt, State.loadBundle_pm]
  split
  · next h =>
    obtain ⟨rfl, rfl, rfl⟩ := h
    exact Memory.nat_setNat ..
  · next h =>
    refine Memory.nat_setNat_out _ ?_
    have hplace : e.val ≠ c.val ∨ b ≠ (!(s.core c).bank) ∨ i ≠ loadIndex s c := by
      by_contra hall
      push Not at hall
      exact h ⟨Fin.ext hall.1, hall.2⟩
    generalize (!(s.core c).bank) = b' at hplace
    generalize loadIndex s c = j at hs hplace
    simp only [pmBase]
    cases b <;> cases b' <;> simp only [Bool.false_eq_true, if_false, if_true, ne_eq, not_true_eq_false, false_or,
      reduceCtorEq, not_false_eq_true, true_or, or_true] at hplace ⊢ <;> omega

theorem State.progWrite_others (h : e ≠ c) : (s.progWrite c v).1.core e = s.core e := by
  rcases Nat.lt_or_ge 1023 (loadIndex s c) with hover | hroom
  · rw [State.progWrite_over hover]
  · rw [State.progWrite_loads (by omega)]
    exact State.loadBundle_others h

theorem bundleAt_progWrite {b : Bool} {i : Nat} (h : e ≠ c) (hi : i ≤ 1023) :
    bundleAt (s.progWrite c v).1 e b i = bundleAt s e b i := by
  rcases Nat.lt_or_ge 1023 (loadIndex s c) with hover | hroom
  · rw [State.progWrite_over hover]
  · rw [State.progWrite_loads (by omega), bundleAt_loadBundle (by omega) hi, if_neg fun hall => h hall.1]

/-! ### One bundle into every target core -/

/-- The round of one bundle: the state and whether every core took it. -/
def State.progRound (s : State) (cs : List CoreId) (v : Nat) (ok : Bool) : State × Bool :=
  cs.foldl (fun (a : State × Bool) c => ((a.1.progWrite c v).1, a.2 && (a.1.progWrite c v).2)) (s, ok)

theorem State.progRound_cons (ok : Bool) : s.progRound (c :: cs) v ok =
    (s.progWrite c v).1.progRound cs v (ok && (s.progWrite c v).2) := rfl

theorem State.progAll_cons : s.progAll cs (v :: vs) =
    if (s.progRound cs v true).2 then (s.progRound cs v true).1.progAll cs vs else ((s.progRound cs v true).1, false) := rfl

/-- A core that is no target keeps its state and its bundles. -/
theorem State.progRound_others (h : e ∉ cs) (ok : Bool) : (s.progRound cs v ok).1.core e = s.core e ∧
    ∀ b i, i ≤ 1023 → bundleAt (s.progRound cs v ok).1 e b i = bundleAt s e b i := by
  induction cs generalizing s ok with
  | nil => exact ⟨rfl, fun _ _ _ => rfl⟩
  | cons c cs ih =>
    obtain ⟨hne, hrest⟩ := List.ne_and_not_mem_of_not_mem_cons h
    obtain ⟨hcore, hbundle⟩ := ih hrest (ok && (s.progWrite c v).2) (s := (s.progWrite c v).1)
    rw [State.progRound_cons]
    exact ⟨hcore.trans (State.progWrite_others hne), fun b i hi => (hbundle b i hi).trans (bundleAt_progWrite hne hi)⟩

theorem loadIndex_congr (h : t.core e = s.core e) : loadIndex t e = loadIndex s e := by
  rw [loadIndex, loadIndex, h]

/-- A round succeeds just when every target has room for the bundle. -/
theorem State.progRound_ok (hcs : cs.Nodup) (ok : Bool) :
    (s.progRound cs v ok).2 = (ok && decide (∀ c ∈ cs, loadIndex s c ≤ 1023)) := by
  induction cs generalizing s ok with
  | nil => simp [State.progRound]
  | cons c cs ih =>
    obtain ⟨hc, hcs⟩ := List.nodup_cons.1 hcs
    have hrest : (∀ e ∈ cs, loadIndex (s.progWrite c v).1 e ≤ 1023) ↔ ∀ e ∈ cs, loadIndex s e ≤ 1023 :=
      forall₂_congr fun e he => by rw [loadIndex_congr (State.progWrite_others (ne_of_mem_of_not_mem he hc))]
    rw [State.progRound_cons, ih hcs, Bool.and_assoc]
    simp only [hrest]
    refine congrArg (ok && ·) ?_
    rcases Nat.lt_or_ge 1023 (loadIndex s c) with hover | hroom
    · have hno : ¬∀ e ∈ c :: cs, loadIndex s e ≤ 1023 := fun h => absurd (h c (List.mem_cons_self ..)) (by omega)
      rw [State.progWrite_over hover, decide_eq_false hno, Bool.false_and]
    · have hc' : loadIndex s c ≤ 1023 := by omega
      rw [State.progWrite_loads hc', Bool.true_and, decide_eq_decide, List.forall_mem_cons, and_iff_right hc']

/-- A target with room takes the bundle. -/
theorem State.progRound_core (hcs : cs.Nodup) (hc : c ∈ cs) (hroom : loadIndex s c ≤ 1023) (ok : Bool) :
    (s.progRound cs v ok).1.core c = (s.core c).setBank (!(s.core c).bank) ⟨false, 0, loadIndex s c + 1, 0⟩ ∧
    ∀ i ≤ 1023, bundleAt (s.progRound cs v ok).1 c (!(s.core c).bank) i =
      if i = loadIndex s c then v % 256 ^ 32 else bundleAt s c (!(s.core c).bank) i := by
  induction cs generalizing s ok with
  | nil => cases hc
  | cons e cs ih =>
    obtain ⟨he, hcs⟩ := List.nodup_cons.1 hcs
    rw [State.progRound_cons]
    rcases List.mem_cons.1 hc with rfl | hmem
    · obtain ⟨hcore, hbundle⟩ := State.progRound_others (s := (s.progWrite c v).1) (v := v) he (ok && (s.progWrite c v).2)
      rw [hcore, State.progWrite_loads hroom]
      rw [State.progWrite_loads hroom] at hbundle
      refine ⟨State.loadBundle_core, fun i hi => ?_⟩
      rw [hbundle _ i hi, bundleAt_loadBundle hroom hi]
      simp only [true_and]
    · have hne : c ≠ e := fun h => he (h ▸ hmem)
      have hcore := State.progWrite_others (s := s) (v := v) hne
      obtain ⟨hcore', hbundle⟩ := ih hcs hmem (by rwa [loadIndex_congr hcore]) (ok && (s.progWrite e v).2)
      rw [hcore, loadIndex_congr hcore] at hcore' hbundle
      refine ⟨hcore', fun i hi => ?_⟩
      rw [hbundle i hi, bundleAt_progWrite hne hi]

/-- After its bundle a target goes on at the next index. -/
theorem State.progRound_next (hcs : cs.Nodup) (hc : c ∈ cs) (hroom : loadIndex s c ≤ 1023) (ok : Bool) :
    loadIndex (s.progRound cs v ok).1 c = loadIndex s c + 1 ∧ ((s.progRound cs v ok).1.core c).bank = (s.core c).bank := by
  obtain ⟨hcore, -⟩ := State.progRound_core (v := v) hcs hc hroom ok
  have hbank : ((s.progRound cs v ok).1.core c).bank = (s.core c).bank := by
    rw [hcore]
    rfl
  refine ⟨?_, hbank⟩
  rw [loadIndex, hbank, hcore, Core.bankOf_setBank]
  rfl

/-! ### A whole body -/

/-- A load that fits: each target holds the bundles from its load index on, and goes on behind them. -/
theorem State.progAll_fits (hcs : cs.Nodup) (hfit : ∀ c ∈ cs, loadIndex s c + vs.length ≤ 1024) : (s.progAll cs vs).2 = true ∧
    ∀ c ∈ cs, ((s.progAll cs vs).1.core c).bank = (s.core c).bank ∧
      (vs ≠ [] → ((s.progAll cs vs).1.core c).bankOf (!(s.core c).bank) = ⟨false, 0, loadIndex s c + vs.length, 0⟩) ∧
      (∀ j v, vs[j]? = some v → bundleAt (s.progAll cs vs).1 c (!(s.core c).bank) (loadIndex s c + j) = v % 256 ^ 32) ∧
      ∀ i < loadIndex s c, bundleAt (s.progAll cs vs).1 c (!(s.core c).bank) i = bundleAt s c (!(s.core c).bank) i := by
  induction vs generalizing s with
  | nil => exact ⟨rfl, fun c _ => ⟨rfl, fun h => absurd rfl h, fun j v h => by simp at h, fun _ _ => rfl⟩⟩
  | cons v vs ih =>
    simp only [List.length_cons] at hfit ⊢
    have hroom (c : CoreId) (hc : c ∈ cs) : loadIndex s c ≤ 1023 := by have := hfit c hc; omega
    have hnext (c : CoreId) (hc : c ∈ cs) := State.progRound_next (v := v) hcs hc (hroom c hc) true
    obtain ⟨hok, hrest⟩ := ih (s := (s.progRound cs v true).1) fun c hc => by
      have := hfit c hc
      rw [(hnext c hc).1]
      omega
    rw [State.progAll_cons, State.progRound_ok hcs, Bool.true_and, decide_eq_true hroom, if_pos rfl]
    refine ⟨hok, fun c hc => ?_⟩
    obtain ⟨hcore, hbundle⟩ := State.progRound_core (v := v) hcs hc (hroom c hc) true
    obtain ⟨hindex, hsame⟩ := hnext c hc
    obtain ⟨hbank, hcursor, hnew, hold⟩ := hrest c hc
    rw [hsame] at hbank hcursor hnew hold
    rw [hindex] at hcursor hnew hold
    refine ⟨hbank, fun _ => ?_, fun j w hj => ?_, fun i hi => ?_⟩
    · cases vs with
      | nil =>
        rw [State.progAll, hcore, Core.bankOf_setBank]
        rfl
      | cons w ws =>
        rw [hcursor (List.cons_ne_nil _ _), Nat.add_assoc, Nat.add_comm 1]
    · cases j with
      | zero =>
        obtain rfl : v = w := by simpa using hj
        rw [Nat.add_zero, hold _ (Nat.lt_succ_self _), hbundle _ (hroom c hc), if_pos rfl]
      | succ j =>
        rw [Nat.add_comm j 1, ← Nat.add_assoc, hnew j w (by simpa using hj)]
    · have hlt := hroom c hc
      rw [hold i (by omega), hbundle i (by omega), if_neg (by omega)]

/-- A load that would pass index 1023 in some target stops. -/
theorem State.progAll_over (hcs : cs.Nodup) (hover : ∃ c ∈ cs, 1024 < loadIndex s c + vs.length) (hvs : vs ≠ []) :
    (s.progAll cs vs).2 = false := by
  induction vs generalizing s with
  | nil => exact absurd rfl hvs
  | cons v vs ih =>
    obtain ⟨c, hc, hlong⟩ := hover
    rw [State.progAll_cons, State.progRound_ok hcs, Bool.true_and]
    by_cases hroom : ∀ c ∈ cs, loadIndex s c ≤ 1023
    · rw [decide_eq_true hroom, if_pos rfl]
      obtain ⟨hindex, -⟩ := State.progRound_next (v := v) hcs hc (hroom c hc) true
      have hcur := hroom c hc
      rw [List.length_cons] at hlong
      refine ih ⟨c, hc, by rw [hindex]; omega⟩ fun h => ?_
      rw [h, List.length_nil] at hlong
      omega
    · rw [decide_eq_false hroom, if_neg Bool.false_ne_true]

/-! ### PROGRAM (R202, R203, R460) -/

variable {d : DieId} {h : Nat} {body : List Line}

theorem bundlesOf_length (body : List Line) : (bundlesOf body).length = 2 * body.length := by
  simp [bundlesOf, List.length_flatMap, Nat.mul_comm]

theorem bundlesOf_lt (hv : v ∈ bundlesOf body) : v < 256 ^ 32 := by
  obtain ⟨e, -, he⟩ := List.mem_flatMap.1 hv
  have hlt (x hi lo : Nat) (h : hi + 1 - lo = 256) : bits x hi lo < 256 ^ 32 := by
    rw [bits, h]
    exact Nat.mod_lt _ (by decide)
  rcases List.mem_pair.1 he with rfl | rfl
  · exact hlt _ _ _ rfl
  · exact hlt _ _ _ rfl

theorem bundlesOf_ne_nil (hb : body ≠ []) : bundlesOf body ≠ [] := by
  intro h
  have hlen := bundlesOf_length body
  rw [h, List.length_nil] at hlen
  exact hb (List.length_eq_zero_iff.1 (by omega))

/-- The load of every target core is complete, and nothing else of it changes. -/
theorem State.progDone_core (hcs : cs.Nodup) (tok : Token) (at_ : Nat) :
    ∀ c ∈ cs, (s.progDone cs tok at_).core c = (s.core c).setBank (!(s.core c).bank) ⟨true, tok, 0, at_⟩ :=
  (State.foldl_core (R := fun k k' => k' = k.setBank (!k.bank) ⟨true, tok, 0, at_⟩)
    (fun s c => s.core_onCore c fun k => k.setBank (!k.bank) ⟨true, tok, 0, at_⟩)
    (fun s _ _ hne => State.core_onCore_ne s _ hne) hcs s).1

/-- The sequencer is held for one ac a body entry (R460; log 52). -/
def State.seqHeld (s : State) (d : DieId) (body : List Line) : State := s.onDie d fun k => { k with seqFrom := s.ac + body.length }

theorem State.programRun_over (hover : ((s.seqHeld d body).progAll cs (bundlesOf body)).2 = false) : s.programRun d h body cs =
    ((((s.seqHeld d body).progAll cs (bundlesOf body)).1).ccFault d ccProgOver).flagStep (hCtx h) := by
  rw [State.seqHeld] at hover
  simp only [State.programRun, hover, Bool.not_false, if_true]
  rfl

theorem State.programRun_fits (hfit : ((s.seqHeld d body).progAll cs (bundlesOf body)).2 = true) : s.programRun d h body cs =
    if hLast h then (((s.seqHeld d body).progAll cs (bundlesOf body)).1).progDone cs (hToken h) (s.ac + body.length)
    else ((s.seqHeld d body).progAll cs (bundlesOf body)).1 := by
  rw [State.seqHeld] at hfit
  simp only [State.programRun, hfit, Bool.not_true, Bool.false_eq_true, if_false]
  rfl

theorem exec_program (hb : BlockIs s d 1 h body cs t) : exec (.programBlock d) s = .next (t.programRun d h body cs) := by
  simp only [exec, execProgramBlock, State.startBlock_is hb (by decide) (by decide)]

/-- A block that starts and holds the sequencer leaves the cores; its die keeps the queue. -/
theorem BlockIs.seqHeld {ty : Nat} (hb : BlockIs s d ty h body cs t) : (∀ c, (t.seqHeld d body).core c = s.core c) ∧
    ((t.seqHeld d body).die d).seqFrom = s.ac + body.length ∧ ((t.seqHeld d body).die d).cmdq = (t.die d).cmdq := by
  obtain ⟨hleft, hac, -⟩ := State.nextBlock_leaves hb.1
  have hheld : Within [.dies] t (t.seqHeld d body) := State.onDie_within _ _ (.refl _ _) (by simp)
  have hdie : (t.seqHeld d body).die d = { t.die d with seqFrom := t.ac + body.length } := t.die_onDie d _
  refine ⟨fun c => (hheld.core (by simp) c).trans (hleft.core (by simp) c), ?_, ?_⟩
  · rw [hdie, hac]
  · rw [hdie]

theorem program_loads (hb : BlockIs s d 1 h body cs t) (hbody : body ≠ [])
    (hfit : ∀ c ∈ cs, loadIndex s c + 2 * body.length ≤ 1024) : Gives (.programBlock d) s fun u => ∀ c ∈ cs,
      (∀ j v, (bundlesOf body)[j]? = some v → bundleAt u c (!(s.core c).bank) (loadIndex s c + j) = v) ∧
      (u.core c).bankOf (!(s.core c).bank) =
        (if hLast h then ⟨true, hToken h, 0, s.ac + body.length⟩
         else ⟨false, 0, loadIndex s c + 2 * body.length, 0⟩) ∧ (u.die d).seqFrom = s.ac + body.length ∧
      (u.core c).bank = (s.core c).bank ∧ (u.die d).cmdq = (t.die d).cmdq := by
  obtain ⟨-, hac, -⟩ := State.nextBlock_leaves hb.1
  obtain ⟨hcores, hseq, hcmdq⟩ := hb.seqHeld
  have hindex (c : CoreId) : loadIndex (t.seqHeld d body) c = loadIndex s c := loadIndex_congr (hcores c)
  obtain ⟨hok, hall⟩ := State.progAll_fits (s := t.seqHeld d body) (State.targets_nodup hb.2.2) (vs := bundlesOf body)
    fun c hc => by rw [hindex, bundlesOf_length]; exact hfit c hc
  have hload : Within [.pm, .cores] (t.seqHeld d body) ((t.seqHeld d body).progAll cs (bundlesOf body)).1 :=
    State.progAll_within _ _ (.refl _ _) (by simp) (by simp)
  refine ⟨_, exec_program hb, fun c hc => ?_⟩
  obtain ⟨hbank, hcursor, hnew, -⟩ := hall c hc
  rw [hcores] at hbank hcursor hnew
  rw [hindex] at hcursor hnew
  rw [bundlesOf_length] at hcursor
  rw [State.programRun_fits hok, hac]
  have hdie := hload.die (by simp) d
  generalize ((t.seqHeld d body).progAll cs (bundlesOf body)).1 = u at hbank hcursor hnew hdie ⊢
  rw [← hdie] at hseq hcmdq
  have hbundles (j v : Nat) (hj : (bundlesOf body)[j]? = some v) : bundleAt u c (!(s.core c).bank) (loadIndex s c + j) = v := by
    rw [hnew j v hj, Nat.mod_eq_of_lt (bundlesOf_lt (List.mem_of_getElem? hj))]
  by_cases hlast : hLast h = true
  · have hdone : Within [.cores] u (u.progDone cs (hToken h) (s.ac + body.length)) := State.progDone_within _ _ _ (.refl _ _) (by simp)
    have hcore := State.progDone_core (s := u) (State.targets_nodup hb.2.2) (hToken h) (s.ac + body.length) c hc
    have hpm := (hdone.part .pm (by simp)).1
    rw [if_pos hlast, if_pos hlast, hcore, hdone.die (by simp), hbank, Core.bankOf_setBank]
    refine ⟨fun j v hj => ?_, rfl, hseq, hbank, hcmdq⟩
    rw [bundleAt, hpm]
    exact hbundles j v hj
  · rw [if_neg hlast, if_neg hlast]
    exact ⟨hbundles, hcursor (bundlesOf_ne_nil hbody), hseq, hbank, hcmdq⟩

theorem program_overflows (hb : BlockIs s d 1 h body cs t) (hbody : body ≠ [])
    (hover : ∃ c ∈ cs, 1024 < loadIndex s c + 2 * body.length) : Gives (.programBlock d) s fun u =>
      u.reg (.cqDie d) 0x44 / 2 ^ 3 % 2 = 1 ∧ (u.ctx (hCtx h)).flagged = true ∧ (u.die d).cmdq = (t.die d).cmdq := by
  obtain ⟨hcores, -, hcmdq⟩ := hb.seqHeld
  obtain ⟨c, hc, hlong⟩ := hover
  have hstop := State.progAll_over (s := t.seqHeld d body) (State.targets_nodup hb.2.2) (vs := bundlesOf body)
    ⟨c, hc, by rwa [loadIndex_congr (hcores c), bundlesOf_length]⟩ (bundlesOf_ne_nil hbody)
  have hload : Within [.pm, .cores] (t.seqHeld d body) ((t.seqHeld d body).progAll cs (bundlesOf body)).1 :=
    State.progAll_within _ _ (.refl _ _) (by simp) (by simp)
  have hdie := hload.die (by simp) d
  refine ⟨_, exec_program hb, ?_⟩
  rw [State.programRun_over hstop]
  generalize ((t.seqHeld d body).progAll cs (bundlesOf body)).1 = u at hdie ⊢
  refine ⟨?_, State.flagStep_flagged _ _, ?_⟩
  · rw [State.reg_flagStep]
    exact u.ccFault_flag d (bit := 3) (by decide)
  · rw [State.die_flagStep, (u.ccFault_regs d ccProgOver).die (by simp), hdie, hcmdq]

end

/-- Settles O16, clause by clause. -/
theorem commandBlocksProgramStreamAndArm : Obligations.CommandBlocksProgramStreamAndArm :=
  ⟨fun _ _ _ _ _ _ hb hbody => ⟨program_loads hb hbody, program_overflows hb hbody⟩,
    fun _ _ _ _ _ _ hb => ⟨stream_lengthFault hb, stream_opens hb⟩, fun _ _ _ _ _ _ => stream_pushes,
    fun _ _ _ _ _ _ => window_pushes, fun _ _ => ccDone_closes, fun _ _ _ _ _ => pushGo_starts, fun _ _ _ _ _ => fence_passes,
    fun _ _ _ _ _ _ _ => launch_arms, fun _ _ _ => bankCopy_takes⟩

end Sys2Proof.Machine
end

section
/-! SUPPORT. Scheduled mesh moves at their issue, and the claimer of a flit that arrives (O11). -/

namespace Sys2Proof.Machine

section
variable {s : State} {c : CoreId} {p : Pred}

/-! ### Issue (R194, R200) -/

/-- A scheduled mesh instruction that executes in lockstep does its work on the core whose slot it has used. -/
theorem gives_scheduled {i : Instr} {f : State → State} {post : State → Prop}
    (hexec : exec i s = .next (s.ifRuns c sX fun u => u.pred (u.how c) p fun u => u.scheduled c (u.how c) f))
    (h : InLockstep s c p) (hp : post (f (s.useSlots c (2 ^ sX)))) : Gives i s post := by
  obtain ⟨hmode, hslot, hruns⟩ := h
  refine gives_runsUnder hexec ⟨⟨by simp [hmode], hslot⟩, hruns⟩ ?_
  rw [State.useSlots_how, State.scheduled, if_pos (by simp [State.how, hmode])]
  exact hp

theorem State.useSlots_moves (s : State) (c : CoreId) (m : Nat) :
    ((s.useSlots c m).core c).moves = (s.core c).moves := by
  rw [State.useSlots_core_eq]

/-! ### MOUT and MRED as originator: reads owed (R275, R346) -/

/-- The read that MOUT owes for its line `j`. -/
def moutRead (d : Side) (am now j : Nat) : Timed := ⟨now + 1 + j, 64 * ((am + j) % 65536), false, .out d j⟩

/-- The read that MRED as originator owes for its flit `j`. -/
def mredRead (d : Side) (w now j : Nat) : Timed := ⟨now + 1 + j, w + 4 * j, false, .red d j⟩

theorem State.moutOp_takesOn (d : Side) (am n : Nat) (hu : (s.core c).amUse = []) :
    TakesOn s c (s.ac + 1 + (n + 1)) [] ((List.range (n + 1)).map (moutRead d am s.ac)) (s.moutOp c d am n) := by
  have hnil : ([] : List DynFlit) ++ (List.range (n + 1)).flatMap (fun _ => []) = [] := by simp
  have hall := TakesOn.foldl (acc := moutRead d am s.ac) (flits := fun _ => [])
    (f := fun t j => t.timedAccess c (t.ac + 1 + j) (64 * ((am + j) % 65536)) 64 (.out d j))
    (fun j fs ts t h => by
      rw [List.append_nil, h.ac]
      exact State.timedAccess_takesOn _ 64 _ h)
    (List.range (n + 1)) (TakesOn.refl (d := s.ac + 1) hu)
    (by rw [List.length_range, List.range'_eq_map_range]; rfl)
  rwa [hnil, List.length_range, List.nil_append] at hall

theorem mout_owes {d : Side} {am : BitVec 16} {len : BitVec 12} (h : InLockstep s c p) (hu : (s.core c).amUse = []) :
    Gives (.mout c p d am len) s fun t => ∃ use, OnlyCore s c { inSlot s c sX with
      amUse := use
      timed := (s.core c).timed ++ (List.range (len.toNat + 1)).map (moutRead d am.toNat s.ac) } t := by
  refine gives_scheduled rfl h ?_
  obtain ⟨-, -, -, hamUse, -, htimed⟩ := s.useSlots_keeps c (2 ^ sX)
  obtain ⟨use, honly, -⟩ := State.moutOp_takesOn d am.toNat len.toNat (hamUse.trans hu)
  refine ⟨use, ((OnlyCore.useSlots s c _).trans honly).congr ?_⟩
  rw [State.useSlots_ac, Core.owing, List.append_nil, htimed, inSlot]

/-- Reads of partial-sum memory take no lanes: they are owed one after the other. -/
theorem State.mredReads_only (d : Side) (w : Nat) (l : List Nat) (s : State) :
    OnlyCore s c { s.core c with timed := (s.core c).timed ++ l.map (mredRead d w s.ac) }
      (l.foldl (fun t j => t.addTimed c ⟨t.ac + 1 + j, w + 4 * j, false, .red d j⟩) s) := by
  induction l generalizing s with
  | nil => exact ⟨by simp, fun _ _ => rfl, rfl⟩
  | cons j l ih =>
    have hadd : OnlyCore s c ((s.core c).owe (mredRead d w s.ac j)) (s.addTimed c (mredRead d w s.ac j)) := .onCore s c _
    refine (hadd.trans (ih _)).congr ?_
    rw [hadd.1, hadd.ac, Core.owe, List.map_cons, List.append_assoc, List.singleton_append]

/-! ### MIN, MPASS and the receiving roles of MRED: moves added (R275, R346, R348) -/

/-- The core with a move that waits for its first flit (R275). -/
def Core.withMove (m : Move) (k : Core) : Core := { k with moves := k.moves ++ [m] }

/-- The relay and sink roles add a move, and the originator owes its reads. -/
theorem mred_roles {d d' : Side} {w : BitVec 17} {len : BitVec 12} (h : InLockstep s c p) :
    Gives (.mred c p d d' w len 1) s (fun t => OnlyCore s c { inSlot s c sX with
      moves := (s.core c).moves ++ [⟨.relay, d, d', w.toNat, len.toNat, 0, s.ac, []⟩] } t) ∧
    Gives (.mred c p d d' w len 2) s (fun t => OnlyCore s c { inSlot s c sX with
      moves := (s.core c).moves ++ [⟨.sink, d, d', w.toNat, len.toNat, 0, s.ac, []⟩] } t) ∧
    Gives (.mred c p d d' w len 0) s (fun t => OnlyCore s c { inSlot s c sX with
      timed := (s.core c).timed ++ (List.range (len.toNat + 1)).map (mredRead d' w.toNat s.ac) } t) := by
  refine ⟨gives_scheduled (exec_mred (by decide)) h ?_, gives_scheduled (exec_mred (by decide)) h ?_,
    gives_scheduled (exec_mred (by decide)) h ?_⟩
  · refine .slot (slot := sX) (f := Core.withMove ⟨.relay, d, d', w.toNat, len.toNat, 0, s.ac, []⟩) rfl ?_
    rw [inSlot, Core.withMove, State.useSlots_moves]
  · refine .slot (slot := sX) (f := Core.withMove ⟨.sink, d, d', w.toNat, len.toNat, 0, s.ac, []⟩) rfl ?_
    rw [inSlot, Core.withMove, State.useSlots_moves]
  · refine ((OnlyCore.useSlots s c (2 ^ sX)).trans
      (State.mredReads_only d' w.toNat (List.range (len.toNat + 1)) _)).congr ?_
    obtain ⟨-, -, -, -, -, htimed⟩ := s.useSlots_keeps c (2 ^ sX)
    rw [htimed, State.useSlots_ac, inSlot]

/-- A move's request for the lanes of its line `j`, which is lost where another access of fixed time holds one of them. -/
def State.claimLine (c : CoreId) (am now : Nat) (a : State × List Nat) (j : Nat) : State × List Nat :=
  ((a.1.claim c (now + 1 + j) (laneMask (64 * ((am + j) % 65536)) 64)).1,
    if (a.1.claim c (now + 1 + j) (laneMask (64 * ((am + j) % 65536)) 64)).2 then a.2 else a.2 ++ [j])

theorem State.claimLines_eq (s : State) (c : CoreId) (am len : Nat) :
    s.claimLines c am len = (List.range (len + 1)).foldl (State.claimLine c am s.ac) (s, []) := rfl

theorem State.claim_only (s : State) (c : CoreId) (d m : Nat) :
    ∃ use, OnlyCore s c { s.core c with amUse := use } (s.claim c d m).1 := by
  unfold State.claim
  split
  · exact ⟨(s.core c).amUse, rfl, fun _ _ => rfl, rfl⟩
  · exact ⟨_, .onCore s c _⟩

/-- Lanes of an ac in which the core holds none are taken. -/
theorem State.claim_free {d m : Nat} (h : ∀ u ∈ (s.core c).amUse, u.1 < d) :
    s.claim c d m = (s.onCore c (Core.takeLanes d m), true) := by
  have hfree : ((s.core c).amUse.any fun u => u.1 = d && u.2.2 && (u.2.1 &&& m) ≠ 0) = false :=
    List.any_eq_false.2 fun u hu => by simp [(h u hu).ne]
  rw [State.claim, hfree, if_neg Bool.false_ne_true]
  rfl

theorem State.claimLines_only (s : State) (c : CoreId) (am len : Nat) :
    ∃ use, OnlyCore s c { s.core c with amUse := use } (s.claimLines c am len).1 := by
  rw [State.claimLines_eq]
  refine List.foldlRecOn (motive := fun a : State × List Nat => ∃ use, OnlyCore s c { s.core c with amUse := use } a.1) _ _
    ⟨_, rfl, fun _ _ => rfl, rfl⟩ fun a ⟨_, h⟩ j _ => ?_
  obtain ⟨use, hclaim⟩ := a.1.claim_only c (s.ac + 1 + j) (laneMask (64 * ((am + j) % 65536)) 64)
  exact ⟨use, (h.trans hclaim).congr (by rw [h.1])⟩

/-- Lines of different ac lose nothing to each other. -/
theorem State.claimLines_none_lost (am len : Nat) (hu : (s.core c).amUse = []) : (s.claimLines c am len).2 = [] := by
  have hclaimed (n : Nat) : let a : State × List Nat := (List.range n).foldl (State.claimLine c am s.ac) (s, [])
      a.2 = [] ∧ ∀ u ∈ (a.1.core c).amUse, u.1 < s.ac + 1 + n := by
    induction n with
    | zero => simp [hu]
    | succ n ih =>
      obtain ⟨hlost, huse⟩ := ih
      rw [List.range_succ, List.foldl_append, List.foldl_cons, List.foldl_nil, State.claimLine, State.claim_free huse]
      refine ⟨hlost, fun u hmem => ?_⟩
      rw [State.core_onCore, Core.takeLanes, List.mem_append, List.mem_singleton] at hmem
      rcases hmem with hmem | rfl
      · have := huse u hmem
        omega
      · simp only
        omega
  exact (hclaimed (len + 1)).1

/-- A receiving move waits for its first flit in the next ac; it has lost no line where its core held no lanes. -/
theorem State.minOp_adds (s : State) (c : CoreId) (kind : MoveKind) (d d' : Side) (am len : Nat) :
    ∃ lost, ((s.minOp c kind d d' am len).core c).moves = (s.core c).moves ++ [⟨kind, d, d', am, len, 0, s.ac, lost⟩] ∧
      ((s.core c).amUse = [] → lost = []) ∧ OtherCores s c (s.minOp c kind d d' am len) := by
  obtain ⟨use, hclaims⟩ := s.claimLines_only c am len
  refine ⟨(s.claimLines c am len).2, ?_, State.claimLines_none_lost am len, hclaims.otherCores.setCore _⟩
  have hadd : s.minOp c kind d d' am len = (s.claimLines c am len).1.onCore c
      (Core.withMove ⟨kind, d, d', am, len, 0, s.ac, (s.claimLines c am len).2⟩) := rfl
  rw [hadd, State.core_onCore, hclaims.1, Core.withMove]

/-- MIN and MPASS add their move to the core whose slot they use. -/
theorem gives_minOp {i : Instr} {kind : MoveKind} {d d' : Side} {am : BitVec 16} {len : BitVec 12}
    (hexec : exec i s = .next (s.ifRuns c sX fun u => u.pred (u.how c) p fun u =>
      u.scheduled c (u.how c) fun u => u.minOp c kind d d' am.toNat len.toNat)) (h : InLockstep s c p) :
    Gives i s fun t =>
      ∃ lost, (t.core c).moves = (s.core c).moves ++ [⟨kind, d, d', am.toNat, len.toNat, 0, s.ac, lost⟩] ∧
        ((s.core c).amUse = [] → lost = []) ∧ OtherCores s c t := by
  refine gives_scheduled hexec h ?_
  obtain ⟨-, -, -, hamUse, -, -⟩ := s.useSlots_keeps c (2 ^ sX)
  obtain ⟨lost, hmoves, hlost, hothers⟩ := (s.useSlots c (2 ^ sX)).minOp_adds c kind d d' am.toNat len.toNat
  rw [State.useSlots_moves, State.useSlots_ac] at hmoves
  exact ⟨lost, hmoves, fun hu => hlost (hamUse.trans hu), (State.useSlots_others _).trans hothers⟩

end

/-! ### A write of one line (R343, R353) -/

section
variable {s : State} {c : CoreId}

/-- A range of 64 bytes at a line's address is that line. -/
theorem line_span (line : Nat) : (64 * line + 64 + 63) / 64 - 64 * line / 64 = 1 ∧ 64 * line / 64 = line := by omega

/-- A write of a whole line gives the line the poison of the data. -/
theorem State.amPois_amWrite_line {line : Nat} {b : List Byte} (p : Bool) (hb : b.length = 64) :
    (s.amWrite c (64 * line) b p).amPois c line = p := by
  obtain ⟨hcount, hline⟩ := line_span line
  rw [State.amWrite_eq, hb]
  generalize s.amWords c (64 * line) 64 = u
  have hmark : u.amMarks c (64 * line) 64 p = u.setAmPois c line p := by
    rw [State.amMarks, hcount, hline]
    simp
  rw [hmark]
  show (u.setAmPois c line p).amPois c line = p
  simp

/-- Where every code word is sound a write leaves every core as it was. -/
theorem State.amWrite_cores_sound (a : Nat) (b : List Byte) (p : Bool) (h : s.amErr = []) :
    (s.amWrite c a b p).cores = s.cores := by
  have hwords : s.amWords c a b.length = s := by simp [State.amWords, errsIn, h]
  rw [State.amWrite_eq, hwords, State.amMarks]
  exact List.foldlRecOn (motive := fun u : State => (u.amSet c a b).cores = s.cores) _ _ rfl fun u hu k _ => by
    split
    · exact hu
    · split <;> exact hu

end

/-! ### The arrival of a flit (R275, R277, R292, R300) -/

section
variable {s : State} {c : CoreId} {d : Side} {w : Wire}

/-- The arriving flit has left its link. -/
def Core.landed (w : Wire) (k : Core) : Core := { k with wires := k.wires.erase w }

theorem exec_meshFlitArrive (hw : (s.core c).arrived d s.ac = some w) (hfire : s.firesNow c d = false) :
    exec (.meshFlitArrive c d false) s = .next ((s.onCore c (Core.landed w)).flitSlot c d w.flit) := by
  have hside : w.side = d := by
    have := List.find?_some hw
    simp only [Bool.and_eq_true, beq_iff_eq] at this
    exact this.1
  simp only [exec, execMeshFlitArrive, hw, hfire, State.wireTake, hside, Bool.or_false, Bool.false_eq_true, if_false]
  rfl

/-- A flit that no claimer expects is discarded with a fault, and the step is marked. -/
theorem State.flitSlot_unclaimed (f : Flit) (hfired : (s.core c).fired = []) (hmoves : (s.core c).moves = [])
    (hpass : (s.core c).arr.passClaims d s.ac = false) : s.flitSlot c d f = (s.meshFault c 3).markStep c := by
  simp [State.flitSlot, hfired, hmoves, hpass]

theorem flit_discarded (hw : (s.core c).arrived d s.ac = some w) (hfired : (s.core c).fired = [])
    (hmoves : (s.core c).moves = []) (hpass : (s.core c).arr.passClaims d s.ac = false) (hfire : s.firesNow c d = false) :
    Gives (.meshFlitArrive c d false) s fun t =>
      (t.core c).wires = (s.core c).wires.erase w ∧ (t.core c).poisoned = true ∧
      t.reg (.mesh c) 0x00 / 8 % 2 = 1 ∧ OtherCores s c t := by
  refine ⟨_, exec_meshFlitArrive hw hfire, ?_⟩
  have honly := OnlyCore.onCore s c (Core.landed w)
  have hac := honly.ac
  have hothers := honly.otherCores
  generalize s.onCore c (Core.landed w) = u at honly hac hothers ⊢
  have hcore : u.core c = (s.core c).landed w := honly.1
  rw [State.flitSlot_unclaimed (s := u) w.flit (by rw [hcore]; exact hfired) (by rw [hcore]; exact hmoves)
    (by rw [hcore, hac]; exact hpass)]
  have hregs : Within [.regs] u (u.meshFault c 3) := State.meshFault_within _ _ (.refl _ _) (by simp)
  refine ⟨?_, ?_, ?_, (hothers.ofRegs hregs).setCore _⟩
  · rw [State.markStep, State.core_onCore, hregs.core (by simp), hcore]
    rfl
  · rw [State.markStep, State.core_onCore]
  · rw [State.markStep, State.reg_onCore, State.meshFault, State.reg_raise_mesh, if_pos rfl]
    exact raised_bit (k := 3) _ (by decide)

variable {m : Move}

/-- The moves of a core after those that expect a flit on a side have taken the one of this ac. -/
def Core.movedOn (d : Side) (now : Nat) (k : Core) : Core :=
  { k with moves := (k.moves.map fun m => if m.expects d now then { m with next := m.next + 1 } else m).filter fun m => m.next ≤ m.len }

theorem Core.movedOn_one {k : Core} {now : Nat} (hmoves : k.moves = [m]) (hexp : m.expects d now = true) :
    (k.movedOn d now).moves = if m.next < m.len then [{ m with next := m.next + 1 }] else [] := by
  simp [Core.movedOn, hmoves, hexp, List.filter_singleton]

/-- The core with no transit entry left that has fired. -/
def Core.unfired (k : Core) : Core := { k with fired := [] }

/-- A flit that only one move expects goes to that move. -/
theorem State.flitSlot_move (f : Flit) (hfired : (s.core c).fired = []) (hmoves : (s.core c).moves = [m])
    (hexp : m.expects d s.ac = true) (hpass : (s.core c).arr.passClaims d s.ac = false) :
    s.flitSlot c d f = ((s.onCore c Core.unfired).moveTake c m (some f)).onCore c
      (Core.movedOn d ((s.onCore c Core.unfired).moveTake c m (some f)).ac) := by
  simp [State.flitSlot, hfired, hmoves, hpass, hexp, Core.movedOn, Core.unfired]

/-- A MIN that kept its lanes writes the line of a flit in sequence, with the flit's poison. -/
theorem State.moveTake_min (f : Flit) (hkind : m.kind = .min) (hlost : m.lost = []) (hseq : f.seq.toNat = m.next % 64) :
    s.moveTake c m (some f) = s.amWrite c (64 * ((m.base + m.next) % 65536)) (lineBytes f.payload) f.poison := by
  simp [State.moveTake, hkind, hseq, State.moveWrite, hlost]

theorem flit_written (hw : (s.core c).arrived d s.ac = some w) (hfired : (s.core c).fired = [])
    (hmoves : (s.core c).moves = [m]) (hkind : m.kind = .min) (hexp : m.expects d s.ac = true) (hlost : m.lost = [])
    (hpass : (s.core c).arr.passClaims d s.ac = false) (hfire : s.firesNow c d = false) (herr : s.amErr = [])
    (hseq : w.flit.seq.toNat = m.next % 64) :
    Gives (.meshFlitArrive c d false) s fun t =>
      let line := (m.base + m.next) % 65536
      t.amBytes c (64 * line) 64 = lineBytes w.flit.payload ∧ t.amPois c line = w.flit.poison ∧
      (∀ x, (x < amBase c + 64 * line ∨ amBase c + 64 * line + 64 ≤ x) → t.am.byte x = s.am.byte x) ∧
      (t.core c).wires = (s.core c).wires.erase w ∧
      (t.core c).moves = (if m.next < m.len then [{ m with next := m.next + 1 }] else []) ∧
      (∀ c', c' ≠ c → t.core c' = s.core c') ∧ t.psm = s.psm := by
  have hland : (s.onCore c (Core.landed w)).core c = (s.core c).landed w := State.core_onCore ..
  have hexec := exec_meshFlitArrive hw hfire
  rw [State.flitSlot_move (s := s.onCore c (Core.landed w)) w.flit (by rw [hland]; exact hfired) (by rw [hland]; exact hmoves) hexp
    (by rw [hland]; exact hpass), State.moveTake_min w.flit hkind hlost hseq] at hexec
  have honly : OnlyCore s c ((s.core c).landed w).unfired ((s.onCore c (Core.landed w)).onCore c Core.unfired) :=
    (OnlyCore.onCore s c (Core.landed w)).trans (.of_eq rfl (by rw [hland]))
  refine ⟨_, hexec, ?_⟩
  generalize (s.onCore c (Core.landed w)).onCore c Core.unfired = u at honly ⊢
  have hlen : (lineBytes w.flit.payload).length = 64 := leBytes_length ..
  generalize (m.base + m.next) % 65536 = line
  have hW : Within [.regs, .am, .cores] u (u.amWrite c (64 * line) (lineBytes w.flit.payload) w.flit.poison) :=
    State.amWrite_within _ _ _ _ (.refl _ _) (by simp) (by simp) (by simp)
  have ham := u.amWrite_am c (64 * line) (lineBytes w.flit.payload) w.flit.poison
  have hpois := State.amPois_amWrite_line (s := u) (c := c) (line := line) w.flit.poison hlen
  have hcores := State.amWrite_cores_sound (s := u) (c := c) (64 * line) (lineBytes w.flit.payload) w.flit.poison
    ((congrArg State.amErr honly.2.2 :).trans herr)
  generalize u.amWrite c (64 * line) (lineBytes w.flit.payload) w.flit.poison = v at hW ham hpois hcores ⊢
  have hcore (c' : CoreId) : v.core c' = u.core c' := by rw [State.core, State.core, hcores]
  have hac : v.ac = s.ac := hW.1.2.1.trans honly.ac
  obtain ⟨hothers, ham', -, hpsm, -⟩ := honly.otherCores
  rw [ham'] at ham
  refine ⟨?_, hpois, fun x hx => ?_, ?_, ?_, fun c' hne => ?_, ?_⟩
  · rw [← hlen]
    exact (congrArg (fun a : Memory => a.bytes (amBase c + 64 * line) _) ham).trans (Memory.bytes_setBytes ..)
  · exact (congrArg (·.byte x) ham).trans (Memory.byte_setBytes_out _ _ (by rwa [hlen]))
  · rw [State.core_onCore, hcore, honly.1]
    rfl
  · rw [State.core_onCore, hcore, honly.1, hac]
    exact Core.movedOn_one hmoves hexp
  · rw [State.core_onCore_ne _ _ hne, hcore, hothers c' hne]
  · exact (hW.part .psm (by simp)).1.trans hpsm

end

/-- Settles O11, clause by clause. -/
theorem meshMovesSendAndReceive : Obligations.MeshMovesSendAndReceive :=
  ⟨fun _ _ _ _ _ _ => mout_owes, fun _ _ _ _ _ _ => gives_minOp rfl, fun _ _ _ _ _ _ _ => gives_minOp rfl,
    fun _ _ _ _ _ _ _ => mred_roles, fun _ _ _ _ => flit_discarded, fun _ _ _ _ _ => flit_written⟩

end Sys2Proof.Machine
end

section
/-! SUPPORT. The end of an ac in a module whose cores are quiet but for the accesses that they owe (O14). -/

namespace Sys2Proof.Machine

/-! ### States that show the same -/

/-- The same to every reader: the lists of cores may differ, no core does, and nothing else. -/
def SameView (s t : State) : Prop := (∀ c, t.core c = s.core c) ∧ { t with cores := s.cores } = s

section
variable {s t u : State} {c : CoreId} {k : Core}

theorem SameView.refl (s : State) : SameView s s := ⟨fun _ => rfl, rfl⟩

theorem SameView.trans (h : SameView s t) (g : SameView t u) : SameView s u := by
  obtain ⟨hcore, hrest⟩ := h
  obtain ⟨gcore, grest⟩ := g
  refine ⟨fun c => (gcore c).trans (hcore c), ?_⟩
  calc { u with cores := s.cores } = { { u with cores := t.cores } with cores := s.cores } := rfl
    _ = s := by rw [grest, hrest]

/-- An update of a core to what it was changes nothing to see. -/
theorem OnlyCore.sameView (h : OnlyCore s c (s.core c) t) : SameView s t := by
  obtain ⟨hcore, hothers, hrest⟩ := h
  refine ⟨fun c' => ?_, hrest⟩
  by_cases hc : c' = c
  · rw [hc, hcore]
  · exact hothers c' hc

theorem SameView.onlyCore (h : SameView s t) (g : OnlyCore t c k u) : OnlyCore s c k u := by
  obtain ⟨hcore, hrest⟩ := h
  obtain ⟨gcore, gothers, grest⟩ := g
  refine ⟨gcore, fun c' hne => (gothers c' hne).trans (hcore c'), ?_⟩
  calc { u with cores := s.cores } = { { u with cores := t.cores } with cores := s.cores } := rfl
    _ = s := by rw [grest, hrest]

theorem OnlyCore.core_eq (h : OnlyCore s c k t) (c' : CoreId) : t.core c' = if c' = c then k else s.core c' := by
  split
  · next heq => rw [heq, h.1]
  · next hne => exact h.2.1 c' hne

/-- What the update of a core leaves of it holds of every core. -/
theorem OnlyCore.keeps {α : Type} (h : OnlyCore s c k t) (π : Core → α) (hk : π k = π (s.core c)) (c' : CoreId) :
    π (t.core c') = π (s.core c') := by
  rw [h.core_eq]
  split
  · next heq => rw [heq, hk]
  · rfl

end

/-! ### What decides whether a side is fenced (R47, R315, R364) -/

/-- The registers that fence sides are the same. -/
def SameFences (s t : State) : Prop := ∀ d : DieId,
  t.reg (.meshDie d) 0x08 = s.reg (.meshDie d) 0x08 ∧ t.reg (.secDie d) 0x00 = s.reg (.secDie d) 0x00

section
variable {s t u : State}

theorem SameFences.fenced (h : SameFences s t) (c : CoreId) (d : Side) : t.fenced c d = s.fenced c d := by
  have hstate (d : DieId) : t.dieState d = s.dieState d := by simp only [State.dieState, State.fld, (h d).2]
  have hctx (d : DieId) : t.dieCtx d = s.dieCtx d := by simp only [State.dieCtx, State.fld, (h d).2]
  simp only [State.fenced, (h _).1, hstate, hctx]

theorem SameFences.of_regs (h : t.regs = s.regs) : SameFences s t :=
  fun _ => ⟨State.reg_congr h .., State.reg_congr h ..⟩

theorem SameFences.trans (h : SameFences s t) (g : SameFences t u) : SameFences s u :=
  fun d => ⟨(g d).1.trans (h d).1, (g d).2.trans (h d).2⟩

/-- A place among the registers that fences no side. -/
def NoFence (a : Nat) : Prop := ∀ d : DieId, (Blk.meshDie d).base + 0x08 ≠ a ∧ (Blk.secDie d).base + 0x00 ≠ a

theorem SameFences.setReg {b : Blk} {off : Nat} (h : NoFence (b.base + off)) (v : Nat) : SameFences s (s.setReg b off v) :=
  fun d => ⟨State.reg_setReg_ne s _ _ v (h d).1, State.reg_setReg_ne s _ _ v (h d).2⟩

theorem noFence_core {c : CoreId} {a : Nat} (ha : coreBase c ≤ a) (hlt : a < coreBase c + 0x20000) : NoFence a := by
  intro d
  have hpos : posOf c < 64 := Nat.mod_lt _ (by decide)
  simp only [coreBase, dieBase] at ha hlt
  simp only [Blk.base, dieBase]
  omega

theorem noFence_mx (c : CoreId) {off : Nat} (h : off < 0x1000) : NoFence ((Blk.mx c).base + off) :=
  noFence_core (c := c) (by simp [Blk.base]) (by simp only [Blk.base]; omega)

theorem noFence_cq (c : CoreId) {off : Nat} (h : off < 0x1000) : NoFence ((Blk.cq c).base + off) :=
  noFence_core (c := c) (by simp only [Blk.base]; omega) (by simp only [Blk.base]; omega)

theorem noFence_clk {off : Nat} (h : off < 0x1000) : NoFence (Blk.clk.base + off) := by
  intro d
  simp only [Blk.base, dieBase]
  omega

end

/-! ### What a core keeps while nothing moves in it -/

/-- `k'` is `k` after work in which nothing moved: it owes what `k` owes, and holds the flits that `k` holds. -/
structure Core.Idles (k k' : Core) : Prop where
  quiet : k.Quiet → k'.Quiet
  timed : k'.timed = k.timed
  dyn : k'.dyn = k.dyn
  retiring : k'.retiring = k.retiring
  claims : k.claims = [] → k'.claims = []

theorem Core.Idles.refl (k : Core) : k.Idles k := ⟨id, rfl, rfl, rfl, id⟩

theorem Core.Idles.trans {k k' k'' : Core} (h : k.Idles k') (g : k'.Idles k'') : k.Idles k'' :=
  ⟨g.quiet ∘ h.quiet, g.timed.trans h.timed, g.dyn.trans h.dyn, g.retiring.trans h.retiring, g.claims ∘ h.claims⟩

theorem Core.tick_idles (k : Core) (now : Nat) : k.Idles (k.tick now) :=
  ⟨fun h => h, rfl, rfl, rfl, fun h => by simp [Core.tick, h]⟩

section
variable {t : State} {c : CoreId}

theorem Core.moves_self {k : Core} {l : List Move} (h : l = k.moves) : { k with moves := l } = k := by rw [h]

theorem Core.outs_self {k : Core} {l : List ArrOut} (h : l = k.arr.outs) : { k with arr := { k.arr with outs := l } } = k := by
  rw [h]

theorem State.slotEnd_quiet (h : (t.core c).Quiet) : OnlyCore t c (t.core c) (t.slotEnd c) := by
  obtain ⟨hwires, hfired, hmoves, -⟩ := h
  have hfirst : OnlyCore t c (t.core c) (t.onCore c fun k => { k with fired := [] }) := .of_eq rfl (by rw [← hfired])
  simp only [State.slotEnd, hwires, hfired, List.filter_nil, List.foldl_nil]
  rw [hfirst.1, hmoves]
  refine hfirst.trans (.of_eq rfl ?_)
  rw [hfirst.1]
  exact Core.moves_self (by rw [hmoves]; rfl)

/-- The core whose array has noted how far its drains have come. -/
def Core.drainNoted (now : Nat) (k : Core) : Core := { k with arr := { k.arr with drainEnd := k.arr.drainMax now } }

theorem State.arrEnd_quiet (h : (t.core c).Quiet) : OnlyCore t c ((t.core c).drainNoted t.ac) (t.arrEnd c) := by
  obtain ⟨-, -, -, -, -, -, -, -, -, -, -, hruns, houts, hslots, -⟩ := h
  have hout : OnlyCore t c (t.core c) (t.arrOut c) := by
    simp only [State.arrOut, State.arr_eq, hruns, houts, List.filter_nil, List.foldl_nil]
    exact .of_eq rfl (Core.outs_self (by rw [houts]; rfl))
  have hsweep : (t.core c).arr.sweep t.ac = (t.core c).arr := by simp [Arr.sweep, hslots]
  refine (hout.trans (.onCore _ c _)).congr ?_
  simp only [hout.1, hsweep, Core.drainNoted]

theorem Core.admitQueues_none {k : Core} (h : k.msgWait = []) (now : Nat) : k.admitQueues now = k := by
  simp [Core.admitQueues, h]

theorem Core.drainNoted_idles (k : Core) (now : Nat) : k.Idles (k.drainNoted now) := ⟨fun h => h, rfl, rfl, rfl, id⟩

/-- At the end of an ac a quiet core changes nothing but its array's note. -/
theorem State.coreEnd_quiet (h : (t.core c).Quiet) (hr : (t.core c).retiring = none) :
    OnlyCore t c ((t.core c).drainNoted t.ac) (t.coreEnd c) := by
  have hslot := State.slotEnd_quiet h
  have hq : ((t.slotEnd c).core c).Quiet := hslot.1.symm ▸ h
  have harr := State.arrEnd_quiet hq
  rw [hslot.1, hslot.ac] at harr
  have hends := hslot.trans harr
  have hcore : ((t.slotEnd c).arrEnd c).core c = (t.core c).drainNoted t.ac := hends.1
  obtain ⟨-, -, -, -, hin, hout, hedge, -, -, -, -, -, -, -, hdyn⟩ := hq
  obtain ⟨-, -, -, -, -, -, -, hputs, hsend, hfab, hmsg, -⟩ := h
  have hfab' : (((t.slotEnd c).arrEnd c).core c).fabIn = [] := by rw [hcore]; exact hfab
  have hr' : (((t.slotEnd c).arrEnd c).core c).retiring = none := by rw [hcore]; exact hr
  simp only [State.coreEnd]
  rw [State.dmaPutsDue_none hputs, State.fabRead_none hsend, State.lanes_none hdyn, State.portStep_none hin,
    State.portEnd_none hout, State.edgeEnd_none hedge, State.fabStore_none hfab', State.wsCopy_none hr']
  refine hends.trans (.of_eq rfl ?_)
  rw [hcore]
  exact Core.admitQueues_none (k := (t.core c).drainNoted t.ac) hmsg _

end

end Sys2Proof.Machine
end

section
/-! SUPPORT. One ac in a module in which one core alone owes an access (O14). -/

namespace Sys2Proof.Machine

/-! ### The end of an ac in the whole module (R112, R248, R480) -/

/-- From `s` to `t` nothing has moved: only cores and registers differ, every core owes what it owed, and the same sides are
fenced. -/
structure State.Waits (s t : State) : Prop where
  core (c : CoreId) : (s.core c).Idles (t.core c)
  fences : SameFences s t
  ac : t.ac = s.ac
  part (p : Part) : p ∉ [.regs, .cores] → p.same s t

section
variable {s t u : State} {c : CoreId} {k : Core} {x : Timed}

theorem OnlyCore.part (h : OnlyCore s c k t) (p : Part) (hp : p ≠ .cores) : p.same s t := by
  obtain ⟨-, -, hrest⟩ := h
  rw [← hrest]
  cases p <;> simp_all [Part.same]

theorem State.Waits.refl (s : State) : s.Waits s := ⟨fun _ => .refl _, .of_regs rfl, rfl, (Within.refl _ s).2.2⟩

theorem State.Waits.onlyCore (h : s.Waits t) (g : OnlyCore t c k u) (hk : (t.core c).Idles k) : s.Waits u := by
  refine ⟨fun c' => (h.core c').trans ?_, h.fences.trans (.of_regs g.regs), g.ac.trans h.ac, fun p hp =>
    Part.same_trans (h.part p hp) (g.part p fun heq => hp (by simp [heq]))⟩
  rw [g.core_eq]
  split
  · next heq => exact heq ▸ hk
  · exact .refl _

theorem State.Waits.setReg {b : Blk} {off : Nat} (h : s.Waits t) (hb : NoFence (b.base + off)) (v : Nat) :
    s.Waits (t.setReg b off v) := by
  have hW : Within [.regs] t (t.setReg b off v) := State.setReg_within _ _ _ (.refl _ _) (by simp)
  exact ⟨h.core, h.fences.trans (.setReg hb v), h.ac, fun p hp =>
    Part.same_trans (h.part p hp) (hW.part p fun hmem => hp (by simp_all))⟩

theorem State.Waits.count {b : Blk} {off : Nat} (h : s.Waits t) (hb : NoFence (b.base + off)) (n : Nat) :
    s.Waits (t.count b off n) := by
  unfold State.count
  split
  · exact h.setReg hb _
  · exact h

theorem State.Waits.ite {p : Prop} [Decidable p] (ht : s.Waits t) (hu : s.Waits u) : s.Waits (if p then t else u) := by
  split
  · exact ht
  · exact hu

theorem State.Waits.coreEnd (h : s.Waits t) (c : CoreId) (hq : (s.core c).Quiet) (hr : (s.core c).retiring = none) :
    s.Waits (t.coreEnd c) :=
  h.onlyCore (State.coreEnd_quiet ((h.core c).quiet hq) ((h.core c).retiring.trans hr)) (Core.drainNoted_idles ..)

theorem State.Waits.coreTick (h : s.Waits t) (c : CoreId) : s.Waits (t.coreTick c) := by
  have htick : s.Waits (t.onCore c fun k => k.tick t.ac) := h.onlyCore (.onCore t c _) (Core.tick_idles ..)
  have hcount := htick.count (noFence_cq c (off := 0x24) (by decide)) 1
  unfold State.coreTick
  exact .ite (.count (.ite hcount htick) (noFence_mx c (by decide)) 1) (.ite hcount htick)

/-- With no request arrived, no row copied and every core quiet, the end of an ac moves nothing. -/
theorem OwesOnly.acEnd (h : OwesOnly s c x) : s.Waits s.acEnd := by
  obtain ⟨⟨-, hretire, hcopy⟩, -, -, hquiet, hreqs, -, hdbg⟩ := h
  have hdies (l : List (Nat × Die)) :
      l.foldl (fun s e => (s.slices (Fin.ofNat 12 e.1)).csCopy (Fin.ofNat 12 e.1)) s = s :=
    List.foldlRecOn (motive := (· = s)) l _ rfl fun t ht e _ => by
      rw [ht, State.slices_none (hreqs _), State.csCopy_none (hcopy _)]
  have hcores : s.Waits (s.live.foldl (fun s c => s.coreEnd c) s) :=
    List.foldlRecOn (motive := s.Waits) _ _ (.refl s) fun t ht c _ => ht.coreEnd c (hquiet c) (hretire c)
  have hnone : (s.live.foldl (fun s c => s.coreEnd c) s).mod.dbg = [] := by
    rw [show (s.live.foldl (fun s c => s.coreEnd c) s).mod = s.mod from hcores.part .mod (by simp), hdbg]
  unfold State.acEnd
  rw [hdies]
  simpa [State.dbgEnd, hnone] using hcores

/-- `t` is `s` as its next ac opens, before the accesses of that ac: besides what waits, only the clock, the module record and
the free values have moved on. -/
structure State.Opens (s t : State) : Prop where
  core (c : CoreId) : (s.core c).Idles (t.core c)
  fences : SameFences s t
  ac : t.ac = s.ac + 1
  part (p : Part) : p ∉ [.regs, .cores, .mod] → p.same s t

/-- The clock moves on behind what waits. -/
theorem State.Waits.passAc (h : s.Waits t) (g : Mod → Mod) (n w : Nat) : s.Opens (((t.onMod g).draw n).passAc w) := by
  have hW : Within [.mod] t ((t.onMod g).draw n) := State.draw_within _ (State.onMod_within _ (.refl _ _) (by simp))
  refine ⟨h.core, h.fences.trans (.of_regs rfl), congrArg (· + 1) h.ac, fun p hp => ?_⟩
  refine Part.same_trans (h.part p fun hmem => hp (by simp_all)) (Part.same_trans (hW.part p fun hmem => hp (by simp_all)) ?_)
  cases p <;> simp [Part.same, State.passAc]

theorem State.Opens.setReg {b : Blk} {off : Nat} (h : s.Opens t) (hb : NoFence (b.base + off)) (v : Nat) :
    s.Opens (t.setReg b off v) := by
  have hW : Within [.regs] t (t.setReg b off v) := State.setReg_within _ _ _ (.refl _ _) (by simp)
  exact ⟨h.core, h.fences.trans (.setReg hb v), h.ac, fun p hp =>
    Part.same_trans (h.part p hp) (hW.part p fun hmem => hp (by simp_all))⟩

theorem State.Opens.movePoint (h : s.Opens t) : s.Opens t.movePoint := by
  rw [State.movePoint, State.setFld_eq]
  exact h.setReg (noFence_clk (by decide)) _

/-- The ac passes up to its timed accesses, and nothing follows them. -/
theorem OwesOnly.tick (h : OwesOnly s c x) : ∃ t, s.Opens t ∧ s.tick = t.timedAll := by
  have hticks : s.Waits (s.acEnd.live.foldl (fun u c => u.coreTick c) s.acEnd) :=
    List.foldlRecOn (motive := s.Waits) _ _ h.acEnd fun t ht c _ => ht.coreTick c
  have hpassed : s.Opens (s.acClose.passAc (acTenths s.point)) := by
    rw [State.acClose]
    exact hticks.passAc ..
  obtain ⟨⟨hlinks, -, -⟩, -, -, -, -, hdeferred, -⟩ := h
  obtain ⟨t, hopens, ht⟩ : ∃ t, s.Opens t ∧ s.tick = t.timedAll.undefer.linkFrames := by
    rw [State.tick_eq, State.acOpen]
    split
    · exact ⟨_, hpassed.movePoint, rfl⟩
    · exact ⟨_, hpassed, rfl⟩
  have hW : Within [.regs, .am, .psm, .tb, .cores, .dies] t t.timedAll :=
    State.timedAll_within (.refl _ _) (by simp) (by simp) (by simp) (by simp) (by simp) (by simp)
  have hlinks' : t.timedAll.links = s.links := Part.same_trans (hopens.part .links (by simp)) (hW.part .links (by simp))
  have hlink (l : LinkId) : t.timedAll.link l = s.link l := by rw [State.link, State.link, hlinks']
  have hnone : t.timedAll.deferred = [] :=
    (Part.same_trans (hopens.part .deferred (by simp)) (hW.part .deferred (by simp)) : _ = s.deferred).trans hdeferred
  refine ⟨t, hopens, ?_⟩
  rw [ht, State.undefer_none hnone, State.linkFrames_none fun l => hlink l ▸ hlinks l]

end

end Sys2Proof.Machine
end

section
/-! SUPPORT. The timed accesses of an ac in which one core alone owes an access (O14). -/

namespace Sys2Proof.Machine

/-! ### The accesses that a core owes (R345) -/

/-- The core that owes no access. -/
def Core.paid (k : Core) : Core := { k with timed := [] }

section
variable {t u : State} {c : CoreId} {x : Timed} {sel : Timed → Bool} {f : State → CoreId → Timed → State}

theorem State.timedRun_skips (h : ∀ x ∈ (t.core c).timed, sel x = false) : t.timedRun c sel f = t := by
  have hnone : (t.core c).timed.filter sel = [] := List.filter_eq_nil_iff.2 fun x hx => by simp [h x hx]
  simp [State.timedRun, hnone]

/-- The one access that is owed is taken from the list and performed. -/
theorem State.timedRun_one (h : (t.core c).timed = [x]) (hx : sel x = true) : t.timedRun c sel f = f (t.onCore c Core.paid) c x := by
  simp [State.timedRun, h, hx, Core.paid]

theorem Core.vres_self {k : Core} {l : List VRes} (h : l = k.vres) : { k with vres := l } = k := by rw [h]

/-- No result of the vector unit is on its way, and no degenerate command writes words. -/
theorem State.resultsBegin_quiet (h : (t.core c).Quiet) : OnlyCore t c (t.core c) ((t.vresAm c).zeroStep c) := by
  obtain ⟨-, -, -, hvres, -, -, -, -, -, -, -, hruns, -⟩ := h
  have hv : OnlyCore t c (t.core c) (t.vresAm c) := by
    simp only [State.vresAm, State.vresOf, hvres, List.filter_nil, List.foldl_nil]
    exact .of_eq rfl (Core.vres_self (by rw [hvres]; rfl))
  have hz : (t.vresAm c).zeroStep c = t.vresAm c := by simp [State.zeroStep, State.arr_eq, hv.1, hruns]
  rwa [hz]

/-- A write whose access ac is past when an ac begins. -/
def Timed.landed (now : Nat) (x : Timed) : Bool := x.isWrite && decide (x.due < now)

theorem State.coreBegin_eq (t : State) (c : CoreId) :
    t.coreBegin c = ((t.timedRun c (Timed.landed t.ac) State.timedWrite).vresAm c).zeroStep c := rfl

theorem State.coreBegin_quiet (h : (t.core c).Quiet) (hw : ∀ x ∈ (t.core c).timed, x.landed t.ac = false) :
    SameView t (t.coreBegin c) := by
  rw [State.coreBegin_eq, State.timedRun_skips hw]
  exact (State.resultsBegin_quiet h).sameView

theorem SameView.ac (h : SameView t u) : u.ac = t.ac := (congrArg State.ac h.2 :)

/-- Where no core finds a write of the ac before, the start of an ac changes nothing to see. -/
theorem State.begins_rest (h : ∀ c, (t.core c).Quiet ∧ ∀ x ∈ (t.core c).timed, x.landed t.ac = false) (l : List CoreId)
    (hu : SameView t u) : SameView t (l.foldl (fun s c => s.coreBegin c) u) :=
  List.foldlRecOn (motive := SameView t) l _ hu fun v hv c _ => by
    refine hv.trans (State.coreBegin_quiet ?_ ?_)
    · rw [hv.1]
      exact (h c).1
    · rw [hv.1, hv.ac]
      exact (h c).2

/-- Every core is quiet and owes nothing. -/
def State.Settled (t : State) : Prop := ∀ c, (t.core c).Quiet ∧ (t.core c).timed = []

theorem State.Settled.congr (h : t.Settled) (g : SameView t u) : u.Settled := fun c => by
  rw [g.1]
  exact h c

theorem State.Settled.begins (h : t.Settled) (l : List CoreId) : SameView t (l.foldl (fun s c => s.coreBegin c) t) :=
  State.begins_rest (fun c => ⟨(h c).1, by simp [(h c).2]⟩) l (.refl t)

/-- A core that owes an access is listed. -/
theorem State.mem_live (h : (t.core c).timed ≠ []) : c ∈ t.live := by
  have hget (m : Store Core) (k : Nat) (hm : (Store.get Core.reset m k).timed ≠ []) : k ∈ m.map Prod.fst := by
    induction m with
    | nil => exact absurd rfl hm
    | cons e m ih =>
      obtain ⟨j, v⟩ := e
      rw [List.map_cons, List.mem_cons]
      by_cases hj : j = k
      · exact .inl hj.symm
      · rw [Store.get, if_neg hj] at hm
        exact .inr (ih hm)
  obtain ⟨e, he, hk⟩ := List.mem_map.1 (hget t.cores c.val h)
  exact List.mem_map.2 ⟨e, he, by rw [hk]; exact Fin.ofNat_val_eq_self c⟩

/-- Core `c` alone owes an access, and every core is quiet. -/
structure State.Owes (t : State) (c : CoreId) (x : Timed) : Prop where
  quiet (c' : CoreId) : (t.core c').Quiet
  owed : (t.core c).timed = [x]
  others (c' : CoreId) : c' ≠ c → (t.core c').timed = []

theorem State.Owes.congr (h : t.Owes c x) (g : SameView t u) : u.Owes c x := by
  constructor
  · intro c'
    rw [g.1]
    exact h.quiet c'
  · rw [g.1, h.owed]
  · intro c' hne
    rw [g.1, h.others c' hne]

theorem State.Owes.forall_timed {p : Timed → Prop} (h : t.Owes c x) (hx : p x) (c' : CoreId) : ∀ y ∈ (t.core c').timed, p y := by
  by_cases hc : c' = c
  · subst hc
    simpa [h.owed] using hx
  · simp [h.others c' hc]

theorem State.Owes.mem_live (h : t.Owes c x) : c ∈ t.live := State.mem_live (by simp [h.owed])

/-- What one core does, and the others leave, is done once however often the cores are listed. -/
theorem foldl_once {g : State → CoreId → State} {v w : State} (hskip : ∀ c', c' ≠ c → g v c' = v) (hrun : g v c = w)
    (hdone : ∀ c', g w c' = w) (l : List CoreId) (hmem : c ∈ l) : l.foldl g v = w := by
  induction l with
  | nil => cases hmem
  | cons c' l ih =>
    rw [List.foldl_cons]
    by_cases hc : c' = c
    · subst hc
      rw [hrun]
      exact List.foldlRecOn (motive := (· = w)) l _ rfl fun u hu c _ => hu ▸ hdone c
    · rw [hskip c' hc]
      exact ih ((List.mem_cons.1 hmem).resolve_left (Ne.symm hc))

/-- The reads of an ac in which none is due. -/
theorem State.reads_none (h : ∀ c, ∀ x ∈ (t.core c).timed, (!x.isWrite && decide (x.due ≤ t.ac)) = false) (l : List CoreId) :
    l.foldl (fun s c => s.timedRun c (fun t => !t.isWrite && decide (t.due ≤ s.ac)) State.timedRead) t = t :=
  List.foldlRecOn (motive := (· = t)) l _ rfl fun u hu c _ => by
    rw [hu]
    exact State.timedRun_skips (h c)

/-- An access whose ac has not come is kept. -/
theorem State.Owes.timedAll_kept (h : t.Owes c x) (hw : x.landed t.ac = false)
    (hr : (!x.isWrite && decide (x.due ≤ t.ac)) = false) : SameView t t.timedAll := by
  have hbegin : SameView t (t.live.foldl (fun s c => s.coreBegin c) t) :=
    State.begins_rest (fun c' => ⟨h.quiet c', h.forall_timed hw c'⟩) _ (.refl t)
  rw [State.timedAll]
  rw [State.reads_none (fun c' => (h.congr hbegin).forall_timed (by rwa [hbegin.ac]) c')]
  exact hbegin

/-- A read of this ac takes place, and it is all that the new ac finds to do. -/
theorem State.Owes.timedAll_read (h : t.Owes c x) (hx : x.isWrite = false) (hdue : x.due ≤ t.ac) :
    ∃ u, OnlyCore t c (t.core c).paid u ∧
      ((∀ c', ((u.timedRead c x).core c').timed = []) → t.timedAll = u.timedRead c x) := by
  have hbegin : SameView t (t.live.foldl (fun s c => s.coreBegin c) t) :=
    State.begins_rest (fun c' => ⟨h.quiet c', h.forall_timed (by simp [Timed.landed, hx]) c'⟩) _ (.refl t)
  rw [State.timedAll]
  generalize t.live.foldl (fun s c => s.coreBegin c) t = v at hbegin ⊢
  have hv := h.congr hbegin
  refine ⟨v.onCore c Core.paid, hbegin.onlyCore (.of_eq rfl (by rw [hbegin.1])), fun hpaid => ?_⟩
  refine foldl_once (fun c' hne => ?_) ?_ (fun c' => ?_) _ hv.mem_live
  · exact State.timedRun_none (hv.others c' hne) _ _
  · exact State.timedRun_one hv.owed (by simp [hx, hbegin.ac, hdue])
  · exact State.timedRun_none (hpaid c') _ _

/-- A write of the ac before is in place, and it is all that the new ac finds to do. -/
theorem State.Owes.begins_write (h : t.Owes c x) (hx : x.landed t.ac = true) (l : List CoreId) (hmem : c ∈ l)
    (hv : SameView t u) : ∃ v, OnlyCore t c (t.core c).paid v ∧
      ((v.timedWrite c x).Settled → SameView (v.timedWrite c x) (l.foldl (fun s c => s.coreBegin c) u)) := by
  induction l generalizing u with
  | nil => cases hmem
  | cons c' l ih =>
    rw [List.foldl_cons]
    have howes := h.congr hv
    by_cases hc : c' = c
    · subst hc
      refine ⟨u.onCore c' Core.paid, hv.onlyCore (.of_eq rfl (by rw [hv.1])), fun hsettled => ?_⟩
      rw [State.coreBegin_eq, State.timedRun_one howes.owed (by rwa [← hv.ac] at hx)]
      have hresults := (State.resultsBegin_quiet (hsettled c').1).sameView
      exact hresults.trans ((hsettled.congr hresults).begins l)
    · refine ih ((List.mem_cons.1 hmem).resolve_left (Ne.symm hc)) (hv.trans (State.coreBegin_quiet (howes.quiet c') ?_))
      simp [howes.others c' hc]

theorem State.Owes.timedAll_write (h : t.Owes c x) (hx : x.landed t.ac = true) :
    ∃ u, OnlyCore t c (t.core c).paid u ∧ ((u.timedWrite c x).Settled → SameView (u.timedWrite c x) t.timedAll) := by
  obtain ⟨u, honly, hview⟩ := h.begins_write hx t.live h.mem_live (.refl t)
  refine ⟨u, honly, fun hsettled => ?_⟩
  have hbegin := hview hsettled
  rw [State.timedAll]
  rw [State.reads_none fun c' => by simp [(hsettled.congr hbegin c').2]]
  exact hbegin

end

end Sys2Proof.Machine
end

section
/-! SUPPORT. What a timed access that is due finds and leaves (O14). -/

namespace Sys2Proof.Machine

/-! ### The memories -/

section
variable {s t u : State} {c : CoreId}

theorem SameMemories.of_parts (h : ∀ p : Part, p ∉ [.regs, .cores, .mod, .dies] → p.same s t) : SameMemories s t :=
  ⟨(h .am (by simp)).1, (h .ws (by simp)).1, (h .psm (by simp)).1, (h .tb (by simp)).1, (h .cs (by simp)).1⟩

theorem SameView.part (h : SameView s t) (p : Part) (hp : p ≠ .cores) : p.same s t := by
  obtain ⟨-, hrest⟩ := h
  rw [← hrest]
  cases p <;> simp_all [Part.same]

/-- A sound line is read as it stands (R351). -/
theorem State.amRead_line (h : s.amErr = []) (line : Nat) :
    s.amRead c (64 * line) 64 = (s, s.amBytes c (64 * line) 64, s.amPois c line) := by
  obtain ⟨hcount, hline⟩ := line_span line
  have hany : anyLine (s.amPois c) (64 * line) 64 = s.amPois c line := by
    rw [anyLine, hcount, hline]
    simp
  simp [State.amRead, errsIn, h, hany]

theorem State.fourWords_sound (h : s.psmErr = []) (w : Nat) : s.fourWords c w =
    (s, (List.range 4).map fun q => (s.psmWord c ((w + q) % 131072), s.psmPois c ((w + q) % 131072))) := by
  have hfour : List.range 4 = [0, 1, 2, 3] := by decide
  simp [State.fourWords, hfour, s.psmRead_sound c _ h]

/-! ### What a write of activation memory leaves of the other cores (R343, R351) -/

theorem State.logCe_core_ne {c' : CoreId} (hne : c' ≠ c) (kind nb addr : Nat) : (s.logCe c kind nb addr).core c' = s.core c' := by
  have hcount : (s.count (.mx c) 0x50 1).core c' = s.core c' :=
    Within.core (P := [.regs]) (State.count_within _ _ _ (.refl _ _) (by simp)) (by simp) c'
  unfold State.logCe
  dsimp only
  split
  · rw [State.core_onCore_ne _ _ hne, hcount]
  · exact hcount

theorem State.amWriteWord_core_ne {c' : CoreId} (hne : c' ≠ c) (a n : Nat) (e : Nat × MemErr) :
    (s.amWriteWord c a n e).core c' = s.core c' := by
  have hread : (s.amReadWord c e).core c' = s.core c' := by
    unfold State.amReadWord
    dsimp only
    split
    · rfl
    · exact State.logCe_core_ne hne ..
    · exact Within.core (P := [.regs, .am]) (State.setAmPois_within _ _ _
        (State.logUce_within _ _ _ (.refl _ _) (by simp)) (by simp)) (by simp) c'
  unfold State.amWriteWord
  dsimp only
  split
  · rfl
  · exact hread

theorem State.amMarks_within (s : State) (c : CoreId) (a n : Nat) (p : Bool) : Within [.am] s (s.amMarks c a n p) :=
  .foldl _ _ (.refl _ _) fun _ _ h => .ite (fun _ => State.setAmPois_within _ _ _ h (by simp)) fun _ =>
    .ite (fun _ => State.setAmPois_within _ _ _ h (by simp)) fun _ => h

theorem State.amWrite_core_ne {c' : CoreId} (hne : c' ≠ c) (a : Nat) (b : List Byte) (p : Bool) :
    (s.amWrite c a b p).core c' = s.core c' := by
  have hwords : (s.amWords c a b.length).core c' = s.core c' :=
    List.foldlRecOn (motive := fun t : State => t.core c' = s.core c') _ _ rfl fun t ht e _ =>
      (State.amWriteWord_core_ne hne ..).trans ht
  rw [State.amWrite_eq, ← hwords]
  exact (State.amMarks_within ..).core (by simp) c'

end

/-! ### The state in which an access takes place -/

/-- `u` is `s` in the new ac with the access taken from the list of its core: no core owes an access any more. -/
structure State.Takes (s u : State) : Prop where
  ac : u.ac = s.ac + 1
  settled : u.Settled
  dyn (c : CoreId) : (u.core c).dyn = (s.core c).dyn
  claims (c : CoreId) : (s.core c).claims = [] → (u.core c).claims = []
  fences : SameFences s u
  part (p : Part) : p ∉ [.regs, .cores, .mod] → p.same s u

section
variable {s t u : State} {c : CoreId} {x : Timed} {post : State → Prop}

theorem State.Opens.owes (g : s.Opens t) (h : OwesOnly s c x) : t.Owes c x := by
  obtain ⟨-, howed, hothers, hquiet, -⟩ := h
  exact ⟨fun c' => (g.core c').quiet (hquiet c'), (g.core c).timed.trans howed,
    fun c' hne => (g.core c').timed.trans (hothers c' hne)⟩

theorem State.Opens.takes (g : s.Opens t) (h : t.Owes c x) (hu : OnlyCore t c (t.core c).paid u) : s.Takes u := by
  refine ⟨hu.ac.trans g.ac, fun c' => ⟨?_, ?_⟩, fun c' => (hu.keeps Core.dyn rfl c').trans (g.core c').dyn,
    fun c' hc => (hu.keeps Core.claims rfl c').trans ((g.core c').claims hc), g.fences.trans (.of_regs hu.regs), fun p hp =>
      Part.same_trans (g.part p hp) (hu.part p fun heq => hp (by simp [heq]))⟩
  · exact (hu.keeps Core.Quiet rfl c').symm ▸ h.quiet c'
  · rw [hu.core_eq]
    split
    · rfl
    · next hne => exact h.others c' hne

theorem OwesOnly.passes (h : OwesOnly s c x) (hp : ∀ t, s.Opens t → t.Owes c x → post t.timedAll) : Passes s post := by
  obtain ⟨t, hopens, ht⟩ := h.tick
  exact fun hpend => ⟨s.tick, by simp [step, hpend], ht ▸ hp t hopens (hopens.owes h)⟩

/-- An access whose ac has not come is kept, and changes nothing. -/
theorem OwesOnly.passes_kept (h : OwesOnly s c x) (hw : x.landed (s.ac + 1) = false)
    (hr : (!x.isWrite && decide (x.due ≤ s.ac + 1)) = false) : Passes s fun t => (t.core c).timed = [x] ∧ SameMemories s t := by
  refine h.passes fun t hopens howes => ?_
  have hview := howes.timedAll_kept (hopens.ac ▸ hw) (hopens.ac ▸ hr)
  exact ⟨by rw [hview.1, howes.owed], .of_parts fun p hp => Part.same_trans (hopens.part p fun hmem => hp (by simp_all))
    (hview.part p fun heq => hp (by simp [heq]))⟩

/-- A read of the new ac takes place in it. -/
theorem OwesOnly.passes_read (h : OwesOnly s c x) (hx : x.isWrite = false) (hdue : x.due ≤ s.ac + 1)
    (hp : ∀ u, s.Takes u → (∀ c', ((u.timedRead c x).core c').timed = []) ∧ post (u.timedRead c x)) : Passes s post := by
  refine h.passes fun t hopens howes => ?_
  obtain ⟨u, honly, heq⟩ := howes.timedAll_read hx (hopens.ac ▸ hdue)
  obtain ⟨hpaid, hpost⟩ := hp u (hopens.takes howes honly)
  rwa [heq hpaid]

/-- A write of the ac before is in place. -/
theorem OwesOnly.passes_write (h : OwesOnly s c x) (hx : x.landed (s.ac + 1) = true)
    (hp : ∀ u, s.Takes u → (u.timedWrite c x).Settled ∧ ∀ t, SameView (u.timedWrite c x) t → post t) : Passes s post := by
  refine h.passes fun t hopens howes => ?_
  obtain ⟨u, honly, hview⟩ := howes.timedAll_write (hopens.ac ▸ hx)
  obtain ⟨hsettled, hpost⟩ := hp u (hopens.takes howes honly)
  exact hpost _ (hview hsettled)

end

end Sys2Proof.Machine
end

section
/-! SUPPORT. Each kind of timed access in its ac (O14). -/

namespace Sys2Proof.Machine

section
variable {s u : State} {c e : CoreId} {d : Side}

/-! ### Flits of MOUT and of MRED as originator (R275) -/

/-- The core with a side claimed for an ac (R299). -/
def Core.claimSide (d : Side) (leave : Nat) (k : Core) : Core := { k with claims := k.claims ++ [(d, leave, rankInstr)] }

/-- The core with a flit on its way to it. -/
def Core.onWire (w : Wire) (k : Core) : Core := { k with wires := k.wires ++ [w] }

theorem Core.onWire_wires (w : Wire) (k : Core) : (k.onWire w).wires = k.wires ++ [w] := rfl

/-- A flit that no other claims against, on an open side, is on the wire to the neighbour. -/
theorem State.timedFlit_open (hacross : across c d = .core e) (hopen : u.fenced c d = false) (hclaims : (u.core c).claims = [])
    (due j : Nat) (l : Line) (p : Bool) : u.timedFlit c d due j l p = (u.onCore c (Core.claimSide d (due + 6))).onCore e
      (Core.onWire ⟨oppSide d, due + 6 + hopCost c d, rankInstr, ⟨l, p, 0xF, BitVec.ofNat 6 j⟩⟩) := by
  have hfence : (u.onCore c (Core.claimSide d (due + 6))).fenced c d = false :=
    (SameFences.fenced (.of_regs rfl) c d).trans hopen
  rw [State.timedFlit, State.sendFlit, hclaims, List.find?_nil]
  show (u.onCore c (Core.claimSide d (due + 6))).placeFlit c d (due + 6) rankInstr _ = _
  rw [State.placeFlit, hacross]
  simp only [hfence, Bool.false_eq_true, if_false]
  rfl

/-- What the flit leaves: one wire at the neighbour, and nothing owed, marked or written. -/
theorem State.timedFlit_leaves (hopen : OpenTo s c d e) (hs : u.Settled) (hfences : SameFences s u)
    (hclaims : (s.core c).claims = [] → (u.core c).claims = []) (due j : Nat) (l : Line) (p : Bool) :
    let t := u.timedFlit c d due j l p
    (t.core e).wires = [⟨oppSide d, due + 6 + hopCost c d, rankInstr, ⟨l, p, 0xF, BitVec.ofNat 6 j⟩⟩] ∧
    (∀ c', (t.core c').timed = []) ∧ (t.core c).poisoned = (u.core c).poisoned ∧ t.regs = u.regs ∧
    ∀ p : Part, p ≠ .cores → p.same u t := by
  obtain ⟨hacross, hfence, -, hfree⟩ := hopen
  intro t
  have ht : t = _ := State.timedFlit_open hacross ((hfences.fenced c d).trans hfence) (hclaims hfree) due j l p
  clear_value t
  subst ht
  have hclaim : OnlyCore u c _ (u.onCore c (Core.claimSide d (due + 6))) := .onCore u c _
  obtain ⟨⟨hnone, -⟩, -⟩ := hs e
  have hwires := (hclaim.keeps Core.wires rfl e).trans hnone
  have hwire := OnlyCore.onCore (u.onCore c (Core.claimSide d (due + 6))) e
    (Core.onWire ⟨oppSide d, due + 6 + hopCost c d, rankInstr, ⟨l, p, 0xF, BitVec.ofNat 6 j⟩⟩)
  refine ⟨?_, fun c' => ?_, ?_, hwire.regs.trans hclaim.regs, fun p hp => Part.same_trans (hclaim.part p hp) (hwire.part p hp)⟩
  · rw [hwire.1, Core.onWire_wires, hwires, List.nil_append]
  · rw [hwire.keeps Core.timed rfl, hclaim.keeps Core.timed rfl, (hs c').2]
  · rw [hwire.keeps Core.poisoned rfl, hclaim.keeps Core.poisoned rfl]

theorem State.Takes.sameMemories {t : State} (h : s.Takes u) (g : ∀ p : Part, p ∉ [.regs, .cores, .dies] → p.same u t) :
    SameMemories s t :=
  .of_parts fun p hp => Part.same_trans (h.part p fun hmem => hp (by simp_all)) (g p fun hmem => hp (by simp_all))

theorem State.Takes.am (h : s.Takes u) : (∀ a n, u.amBytes c a n = s.amBytes c a n) ∧ (∀ l, u.amPois c l = s.amPois c l) ∧
    u.amErr = s.amErr := by
  obtain ⟨ham, hpois, herr⟩ := h.part .am (by simp)
  exact ⟨fun a n => by rw [State.amBytes, ham, State.amBytes], fun l => by rw [State.amPois, hpois, State.amPois], herr⟩

theorem State.Takes.psm (h : s.Takes u) : (∀ w, u.psmWord c w = s.psmWord c w) ∧ (∀ w, u.psmPois c w = s.psmPois c w) ∧
    u.psmErr = s.psmErr := by
  obtain ⟨hpsm, hpois, herr⟩ := h.part .psm (by simp)
  exact ⟨fun w => by rw [State.psmWord, hpsm, State.psmWord], fun w => by rw [State.psmPois, hpois, State.psmPois], herr⟩

/-- A line that is read as its ac begins is what the ac before has left. -/
theorem State.Takes.timedLine (h : s.Takes u) (herr : s.amErr = []) (due line : Nat) (kind : TimedKind) :
    u.timedLine c ⟨due, 64 * line, false, kind⟩ = (u, s.amBytes c (64 * line) 64, s.amPois c line) := by
  obtain ⟨hbytes, hpois, herr'⟩ := h.am (c := c)
  rw [State.timedLine, if_neg Bool.false_ne_true, State.amRead_line (herr'.trans herr), hbytes, hpois]

theorem out_sends {line j : Nat} (h : OwesOnly s c ⟨s.ac + 1, 64 * line, false, .out d j⟩) (hopen : OpenTo s c d e)
    (herr : s.amErr = []) : Passes s fun t =>
      (t.core e).wires = [⟨oppSide d, s.ac + 7 + hopCost c d, rankInstr,
        ⟨bytesLine (s.amBytes c (64 * line) 64), s.amPois c line, 0xF, BitVec.ofNat 6 j⟩⟩] ∧
      (t.core c).timed = [] ∧ SameMemories s t := by
  refine h.passes_read rfl le_rfl fun u hu => ?_
  have hread : u.timedRead c ⟨s.ac + 1, 64 * line, false, .out d j⟩ =
      u.timedFlit c d (s.ac + 1) j (bytesLine (s.amBytes c (64 * line) 64)) (s.amPois c line) := by
    simp only [State.timedRead, hu.timedLine herr]
  rw [hread]
  obtain ⟨hwires, htimed, -, -, hparts⟩ := State.timedFlit_leaves hopen hu.settled hu.fences (hu.claims c) (s.ac + 1) j
    (bytesLine (s.amBytes c (64 * line) 64)) (s.amPois c line)
  exact ⟨htimed, hwires, htimed c, hu.sameMemories fun p hp => hparts p fun heq => hp (by simp [heq])⟩

/-! ### Accesses that lost their lanes (R348) -/

theorem State.amConflict_leaves (u : State) (c : CoreId) :
    (∀ c', (((u.amConflict c).core c').Quiet ↔ (u.core c').Quiet) ∧ ((u.amConflict c).core c').timed = (u.core c').timed ∧
      ((u.amConflict c).core c').claims = (u.core c').claims) ∧
    ((u.amConflict c).core c).poisoned = true ∧ (u.amConflict c).reg (.mx c) 0x40 / 2 ^ 4 % 2 = 1 ∧
    SameFences u (u.amConflict c) ∧ Within [.regs, .cores] u (u.amConflict c) := by
  have hregs : Within [.regs] u (u.memErr c 4) := State.memErr_within _ _ (.refl _ _) (by simp)
  have hmark : OnlyCore (u.memErr c 4) c { (u.memErr c 4).core c with poisoned := true } (u.amConflict c) := .onCore _ c _
  have hcore := hregs.core (by simp)
  refine ⟨fun c' => ⟨by rw [hmark.keeps Core.Quiet rfl, hcore], by rw [hmark.keeps Core.timed rfl, hcore],
    by rw [hmark.keeps Core.claims rfl, hcore]⟩, ?_, ?_, ?_, State.amConflict_within _ (.refl _ _) (by simp) (by simp)⟩
  · rw [State.amConflict, State.markStep, State.core_onCore]
  · rw [State.amConflict, State.markStep, State.reg_onCore, State.memErr, State.orReg, State.reg_setReg_same]
    exact raised_bit _ (by decide)
  · exact (SameFences.setReg (noFence_mx c (by decide)) _).trans (.of_regs rfl)

theorem State.amConflict_settled (h : u.Settled) (c : CoreId) : (u.amConflict c).Settled := fun c' => by
  obtain ⟨hquiet, htimed, -⟩ := (u.amConflict_leaves c).1 c'
  exact ⟨hquiet.2 (h c').1, htimed.trans (h c').2⟩

/-- A read that lost its lanes sends zeros with poison and marks the step. -/
theorem out_lost {a j : Nat} (h : OwesOnly s c ⟨s.ac + 1, a, true, .out d j⟩) (hopen : OpenTo s c d e) : Passes s fun t =>
      (t.core e).wires = [⟨oppSide d, s.ac + 7 + hopCost c d, rankInstr,
        ⟨bytesLine (List.replicate 64 0), true, 0xF, BitVec.ofNat 6 j⟩⟩] ∧
      (t.core c).timed = [] ∧ (t.core c).poisoned = true ∧ t.reg (.mx c) 0x40 / 2 ^ 4 % 2 = 1 ∧ SameMemories s t := by
  refine h.passes_read rfl le_rfl fun u hu => ?_
  have hread : u.timedRead c ⟨s.ac + 1, a, true, .out d j⟩ =
      (u.amConflict c).timedFlit c d (s.ac + 1) j (bytesLine (List.replicate 64 0)) true := rfl
  rw [hread]
  obtain ⟨hcores, hpois, hbit, hfences, hW⟩ := u.amConflict_leaves c
  obtain ⟨hwires, htimed, hpois', hregs, hparts⟩ := State.timedFlit_leaves hopen (State.amConflict_settled hu.settled c)
    (hu.fences.trans hfences) (fun hc => (hcores c).2.2.trans (hu.claims c hc)) (s.ac + 1) j (bytesLine (List.replicate 64 0)) true
  refine ⟨htimed, hwires, htimed c, hpois'.trans hpois, ?_, hu.sameMemories fun p hp => ?_⟩
  · rw [State.reg_congr hregs]
    exact hbit
  · exact Part.same_trans (hW.part p fun hmem => hp (by simp_all)) (hparts p fun heq => hp (by simp [heq]))

/-! ### Words of MRED, entries of MSEND and units of a context-store write (R275, R280, R326) -/

theorem red_sends {w j : Nat} (h : OwesOnly s c ⟨s.ac + 1, w, false, .red d j⟩) (hopen : OpenTo s c d e) (herr : s.psmErr = []) :
    Passes s fun t =>
      (t.core e).wires = [⟨oppSide d, s.ac + 7 + hopCost c d, rankInstr,
        ⟨ofWords ((List.range 4).map fun q => s.psmWord c ((w + q) % 131072)),
          (List.range 4).any fun q => s.psmPois c ((w + q) % 131072), 0xF, BitVec.ofNat 6 j⟩⟩] ∧
      (t.core c).timed = [] ∧ SameMemories s t := by
  refine h.passes_read rfl le_rfl fun u hu => ?_
  have hnote : OnlyCore u c _ (u.psmNote c w .mred) := .onCore u c _
  have hsettled : (u.psmNote c w .mred).Settled := fun c' =>
    ⟨(hnote.keeps Core.Quiet rfl c').symm ▸ (hu.settled c').1, (hnote.keeps Core.timed rfl c').trans (hu.settled c').2⟩
  have hclaims := hnote.keeps Core.claims rfl c
  obtain ⟨hword, hpois, herr'⟩ := hu.psm (c := c)
  have hread : u.timedRead c ⟨s.ac + 1, w, false, .red d j⟩ =
      (u.psmNote c w .mred).timedFlit c d (s.ac + 1) j (ofWords ((List.range 4).map fun q => s.psmWord c ((w + q) % 131072)))
        ((List.range 4).any fun q => s.psmPois c ((w + q) % 131072)) := by
    have hfour : (u.psmNote c w .mred).fourWords c w = (u.psmNote c w .mred, (List.range 4).map fun q =>
        (s.psmWord c ((w + q) % 131072), s.psmPois c ((w + q) % 131072))) := by
      have hnoted (w' : Nat) : (u.psmNote c w .mred).psmWord c w' = s.psmWord c w' ∧
          (u.psmNote c w .mred).psmPois c w' = s.psmPois c w' := ⟨hword w', hpois w'⟩
      rw [State.fourWords_sound (s := u.psmNote c w .mred) (herr'.trans herr)]
      simp only [hnoted]
    simp only [State.timedRead, hfour, List.map_map, List.any_map]
    rfl
  rw [hread]
  obtain ⟨hwires, htimed, -, -, hparts⟩ := State.timedFlit_leaves hopen hsettled (hu.fences.trans (.of_regs hnote.regs))
    (fun hc => hclaims.trans (hu.claims c hc)) (s.ac + 1) j _ _
  exact ⟨htimed, hwires, htimed c, hu.sameMemories fun p hp =>
    Part.same_trans (hnote.part p fun heq => hp (by simp [heq])) (hparts p fun heq => hp (by simp [heq]))⟩

/-- An entry of a message takes the line that is read for it. -/
theorem State.msgFill_fills (u : State) (c : CoreId) (due j : Nat) (l : Line) (p : Bool) {f : DynFlit} {m : MsgEntry}
    (hf : f ∈ (u.core c).dyn) (hbody : f.body = .msg m) (hinp : f.inp = outLocal) (hdue : f.due = due) (hj : m.j = j)
    (hsrc : m.src = c.val) :
    { f with body := .msg { m with payload := l, poison := p } } ∈ ((u.msgFill c due j l p).core c).dyn := by
  rw [State.msgFill, State.core_onCore]
  refine List.mem_map.2 ⟨f, hf, ?_⟩
  simp only [hbody, hinp, hdue, hj, hsrc, and_self, if_true]

theorem msg_fills {line j : Nat} (h : OwesOnly s c ⟨s.ac + 1, 64 * line, false, .msg j⟩) (herr : s.amErr = []) :
    Passes s fun t =>
      (∀ f ∈ (s.core c).dyn, ∀ e, f.body = .msg e → f.inp = outLocal → f.due = s.ac + 1 → e.j = j → e.src = c.val →
        { f with body := .msg { e with payload := bytesLine (s.amBytes c (64 * line) 64), poison := s.amPois c line } } ∈
          (t.core c).dyn) ∧
      (t.core c).dyn.length = (s.core c).dyn.length ∧ (t.core c).timed = [] ∧ SameMemories s t := by
  refine h.passes_read rfl le_rfl fun u hu => ?_
  have hread : u.timedRead c ⟨s.ac + 1, 64 * line, false, .msg j⟩ =
      u.msgFill c (s.ac + 1) j (bytesLine (s.amBytes c (64 * line) 64)) (s.amPois c line) := by
    simp only [State.timedRead, hu.timedLine herr]
  rw [hread]
  have hfill : OnlyCore u c _ (u.msgFill c (s.ac + 1) j (bytesLine (s.amBytes c (64 * line) 64)) (s.amPois c line)) :=
    .onCore u c _
  have htimed (c' : CoreId) := (hfill.keeps Core.timed rfl c').trans (hu.settled c').2
  refine ⟨htimed, fun f hf e hbody hinp hdue hj hsrc => ?_, ?_, htimed c,
    hu.sameMemories fun p hp => hfill.part p fun heq => hp (by simp [heq])⟩
  · exact u.msgFill_fills c _ j _ _ (hu.dyn c ▸ hf) hbody hinp hdue hj hsrc
  · rw [hfill.1, List.length_map, hu.dyn]

theorem unit_fills {line n k : Nat} (h : OwesOnly s c ⟨s.ac + 1, 64 * line, false, .unit n k⟩) (herr : s.amErr = []) :
    Passes s fun t =>
      (∀ r ∈ (s.die (dieOf c)).xreqs, r.core = c.val → r.serial = n →
        r.filled k (bytesLine (s.amBytes c (64 * line) 64)) (s.amPois c line) ∈ (t.die (dieOf c)).xreqs) ∧
      (t.core c).timed = [] ∧ SameMemories s t := by
  refine h.passes_read rfl le_rfl fun u hu => ?_
  have hread : u.timedRead c ⟨s.ac + 1, 64 * line, false, .unit n k⟩ =
      u.unitFill c n k (s.amBytes c (64 * line) 64) (s.amPois c line) := by
    simp only [State.timedRead, hu.timedLine herr]
  rw [hread]
  have hW : Within [.dies] u (u.unitFill c n k (s.amBytes c (64 * line) 64) (s.amPois c line)) :=
    State.unitFill_within _ _ _ _ _ (.refl _ _) (by simp)
  have hdie : u.die (dieOf c) = s.die (dieOf c) := by
    rw [State.die, State.die, show u.dies = s.dies from hu.part .dies (by simp)]
  have htimed (c' : CoreId) := (congrArg Core.timed (hW.core (by simp) c')).trans (hu.settled c').2
  refine ⟨htimed, fun r hr hcore hserial => ?_, htimed c, hu.sameMemories fun p hp => hW.part p fun hmem => hp (by simp_all)⟩
  rw [State.unitFill, State.onDie_eq, State.die_setDie, if_pos rfl, hdie]
  refine List.mem_map.2 ⟨r, hr, ?_⟩
  rw [if_pos ⟨hcore, hserial⟩, XReq.filled]

/-! ### Writes of the ac before (R343, R345, R348) -/

theorem State.amWrite_settled (h : u.Settled) (c : CoreId) (a : Nat) (b : List Byte) (p : Bool) : (u.amWrite c a b p).Settled := by
  intro c'
  by_cases hc : c' = c
  · subst hc
    obtain ⟨_, _, _, _, hcore⟩ := Accessed.amWrite u c' a b p
    rw [hcore]
    exact h c'
  · rw [State.amWrite_core_ne hc]
    exact h c'

theorem put_written {a : Nat} {b : List Byte} {p : Bool} (h : OwesOnly s c ⟨s.ac, a, false, .put b p⟩) : Passes s fun t =>
      t.amBytes c a b.length = b ∧ (t.core c).timed = [] ∧ (∀ line, a = 64 * line → b.length = 64 → t.amPois c line = p) ∧
        ∀ x, (x < amBase c + a ∨ amBase c + a + b.length ≤ x) → t.am.byte x = s.am.byte x := by
  refine h.passes_write (by simp [Timed.landed, Timed.isWrite]) fun u hu => ?_
  have hwrite : u.timedWrite c ⟨s.ac, a, false, .put b p⟩ = u.amWrite c a b p := rfl
  rw [hwrite]
  have hsettled := State.amWrite_settled hu.settled c a b p
  refine ⟨hsettled, fun t ht => ?_⟩
  obtain ⟨ham, hpois, -⟩ := ht.part .am (by simp)
  have ham : t.am = s.am.setBytes (amBase c + a) b := by rw [ham, u.amWrite_am, (hu.part .am (by simp)).1]
  refine ⟨?_, (hsettled.congr ht c).2, ?_, fun x hx => ?_⟩
  · rw [State.amBytes, ham]
    exact Memory.bytes_setBytes ..
  · rintro line rfl hb
    rw [State.amPois, hpois]
    exact State.amPois_amWrite_line p hb
  · rw [ham]
    exact Memory.byte_setBytes_out _ _ hx

theorem State.poisonLines_am (u : State) (c : CoreId) (a n : Nat) : (u.poisonLines c a n).am = u.am :=
  List.foldlRecOn (motive := fun t : State => t.am = u.am) _ _ rfl fun _ ht _ _ => ht

theorem State.amPois_poisonLines_line (u : State) (c : CoreId) (line : Nat) : (u.poisonLines c (64 * line) 64).amPois c line = true := by
  obtain ⟨hcount, hline⟩ := line_span line
  rw [State.poisonLines, hcount, hline]
  simp

theorem put_lost {a : Nat} {b : List Byte} {p : Bool} (h : OwesOnly s c ⟨s.ac, a, true, .put b p⟩) : Passes s fun t =>
      t.am = s.am ∧ (t.core c).timed = [] ∧ (t.core c).poisoned = true ∧
        (∀ line, a = 64 * line → b.length = 64 → t.amPois c line = true) ∧ t.reg (.mx c) 0x40 / 2 ^ 4 % 2 = 1 := by
  refine h.passes_write (by simp [Timed.landed, Timed.isWrite]) fun u hu => ?_
  have hwrite : u.timedWrite c ⟨s.ac, a, true, .put b p⟩ = (u.amConflict c).poisonLines c a b.length := rfl
  rw [hwrite]
  obtain ⟨-, hmarked, hbit, -, hW⟩ := u.amConflict_leaves c
  have hlines : Within [.am] (u.amConflict c) ((u.amConflict c).poisonLines c a b.length) :=
    State.poisonLines_within _ _ _ (.refl _ _) (by simp)
  have hcore := hlines.core (by simp)
  have hsettled : ((u.amConflict c).poisonLines c a b.length).Settled := fun c' =>
    (hcore c').symm ▸ State.amConflict_settled hu.settled c c'
  refine ⟨hsettled, fun t ht => ?_⟩
  obtain ⟨ham, hpois, -⟩ := ht.part .am (by simp)
  refine ⟨?_, (hsettled.congr ht c).2, ?_, ?_, ?_⟩
  · rw [ham, State.poisonLines_am, (hW.part .am (by simp)).1, (hu.part .am (by simp)).1]
  · rw [ht.1, hcore, hmarked]
  · rintro line rfl hb
    rw [State.amPois, hpois, hb]
    exact (u.amConflict c).amPois_poisonLines_line c line
  · rw [State.reg_congr (ht.part .regs (by simp)), State.reg_congr (hlines.part .regs (by simp))]
    exact hbit

theorem sum_added {w : Nat} {v : W128} {p : Bool} (h : OwesOnly s c ⟨s.ac, w, false, .sum v p⟩) (herr : s.psmErr = []) :
    Passes s fun t => t.psmWord c w = s.psmWord c w + v ∧ t.psmPois c w = (s.psmPois c w || p) ∧ (t.core c).timed = [] ∧
      t.am = s.am := by
  refine h.passes_write (by simp [Timed.landed, Timed.isWrite]) fun u hu => ?_
  obtain ⟨hword, hpois, herr'⟩ := hu.psm (c := c)
  have hwrite : u.timedWrite c ⟨s.ac, w, false, .sum v p⟩ = u.psmWrite c w (s.psmWord c w + v) (s.psmPois c w || p) := by
    simp [State.timedWrite, State.psmAdd, u.psmRead_sound c w (herr'.trans herr), hword, hpois, Bool.or_comm]
  rw [hwrite]
  obtain ⟨hp, -, hcore, ham, -⟩ := u.psmWrite_leaves c w (s.psmWord c w + v) (s.psmPois c w || p)
  have hsum := u.psmWord_psmWrite_same c w (s.psmWord c w + v) (s.psmPois c w || p)
  have hsettled : (u.psmWrite c w (s.psmWord c w + v) (s.psmPois c w || p)).Settled := fun c' => (hcore c').symm ▸ hu.settled c'
  refine ⟨hsettled, fun t ht => ?_⟩
  obtain ⟨hpsm, hpsmPois, -⟩ := ht.part .psm (by simp)
  refine ⟨?_, ?_, (hsettled.congr ht c).2, ?_⟩
  · rw [State.psmWord, hpsm]
    exact hsum
  · rw [State.psmPois, hpsmPois]
    exact hp
  · rw [(ht.part .am (by simp)).1, ham, (hu.part .am (by simp)).1]

end

/-- Settles O14, clause by clause. -/
theorem timedAccessesTakePlaceInTheirAc : Obligations.TimedAccessesTakePlaceInTheirAc :=
  ⟨fun _ _ x h hx hdue => h.passes_kept (by simp [Timed.landed, hx]) (by simp [hdue]),
    fun _ _ _ _ _ _ => out_sends, fun _ _ _ _ _ _ => out_lost, fun _ _ _ _ _ _ => red_sends, fun _ _ _ _ => msg_fills,
    fun _ _ _ _ _ => unit_fills, fun _ _ _ _ _ =>
      ⟨fun h => h.passes_kept (by simp [Timed.landed]) (by simp [Timed.isWrite]), put_written, put_lost⟩,
    fun _ _ _ _ _ => sum_added⟩

end Sys2Proof.Machine
end

section
/-! SUPPORT. The background lane and the port links (O60). -/

namespace Sys2Proof.Machine

/-! ### The least of a list -/

/-- A scan that keeps the better of two elements ends with a least one, where the better of two has the lower key. -/
theorem foldl_least {α β : Type} [Preorder β] (key : α → β) {before : α → α → Bool} {P : α → Prop}
    (htake : ∀ x b, P x → P b → before x b = true → key x ≤ key b)
    (hkeep : ∀ x b, P x → P b → before x b = false → key b ≤ key x) (l : List α) :
    ∀ a, (∀ x ∈ a :: l, P x) →
      let m := l.foldl (fun b x => if before x b then x else b) a
      m ∈ a :: l ∧ ∀ q ∈ a :: l, key m ≤ key q := by
  induction l with
  | nil => simp
  | cons x l ih =>
    intro a hP
    obtain ⟨ha, hx, hl⟩ : P a ∧ P x ∧ ∀ y ∈ l, P y := by simpa using hP
    dsimp only
    rw [List.foldl_cons]
    cases hb : before x a with
    | true =>
      obtain ⟨hmem, hle⟩ := ih x (by simpa using ⟨hx, hl⟩)
      have hxa := (hle x (by simp)).trans (htake x a hx ha hb)
      rw [if_pos rfl]
      exact ⟨List.mem_cons_of_mem _ hmem, fun q hq => (List.mem_cons.1 hq).elim (fun h => h ▸ hxa) (hle q)⟩
    | false =>
      obtain ⟨hmem, hle⟩ := ih a (by simpa using ⟨ha, hl⟩)
      have hax := (hle a (by simp)).trans (hkeep x a hx ha hb)
      rw [if_neg Bool.false_ne_true]
      refine ⟨List.cons_subset_cons a (List.subset_cons_self x l) hmem, fun q hq => ?_⟩
      obtain rfl | rfl | hq := by simpa using hq
      · exact hle q (by simp)
      · exact hax
      · exact hle q (by simp [hq])

/-! ### The order of background flits (R313) -/

section
variable {s : State} {d : DieId} {f g : DynFlit}

/-- The place of a background flit in its order: priority, subclass, arrival. -/
def State.bgKey (s : State) (d : DieId) (f : DynFlit) : ℕᵒᵈ ×ₗ ℕ ×ₗ ℕ :=
  toLex (.toDual (s.bgPriority d f), toLex (f.sub, f.due))

theorem State.dynBefore_background (hf : f.cls = 3) : s.dynBefore d f g = true ↔ s.bgKey d f < s.bgKey d g := by
  unfold State.dynBefore
  simp only [State.bgKey, Prod.Lex.toLex_lt_toLex, OrderDual.toDual_lt_toDual, OrderDual.toDual_inj]
  by_cases hp : s.bgPriority d f = s.bgPriority d g
  · by_cases hsub : f.sub = g.sub
    · simp [hp, hsub]
    · simp [hf, hp, hsub]
  · simp [hf, hp]

theorem State.dynBest_least {l : List DynFlit} (hl : ∀ g ∈ l, g.cls = 3) (hbest : s.dynBest d l = some f) :
    f ∈ l ∧ ∀ g ∈ l, s.dynBefore d g f = false := by
  cases l with
  | nil => simp [State.dynBest] at hbest
  | cons a l =>
    obtain rfl := Option.some.inj hbest
    obtain ⟨hmem, hle⟩ := foldl_least (s.bgKey d) (before := s.dynBefore d) (P := fun f => f.cls = 3)
      (fun x b hx _ h => ((State.dynBefore_background hx).1 h).le)
      (fun x b hx _ h => not_lt.1 fun hlt => by simp [(State.dynBefore_background hx).2 hlt] at h) l a hl
    exact ⟨hmem, fun g hg => Bool.eq_false_iff.2 fun h =>
      ((State.dynBefore_background (hl g hg)).1 h).not_ge (hle g hg)⟩

theorem State.dynBefore_of_background (hf : f.cls = 3) (hg : g.cls = 3)
    (h : s.bgPriority d g < s.bgPriority d f ∨ s.bgPriority d g = s.bgPriority d f ∧ f.sub < g.sub) :
    s.dynBefore d f g = true ∧ s.dynBefore d g f = false := by
  have hlt : s.bgKey d f < s.bgKey d g := by
    simp only [State.bgKey, Prod.Lex.toLex_lt_toLex, OrderDual.toDual_lt_toDual, OrderDual.toDual_inj]
    exact h.imp id fun h => ⟨h.1.symm, .inl h.2⟩
  exact ⟨(State.dynBefore_background hf).2 hlt, Bool.eq_false_iff.2 fun h => ((State.dynBefore_background hg).1 h).asymm hlt⟩

end

/-! ### The lane of a side (R312) -/

section
variable {s : State} {c : CoreId} {f : DynFlit} {o : Nat}

/-- A core whose lane takes a flit. -/
def Core.laned (f : DynFlit) (o now : Nat) (k : Core) : Core :=
  { k.dynHeld f (8 + o) with dyn := k.dyn.erase f, laneFree := Store.set 0 k.laneFree o (now + 64) }

theorem State.laneStep_busy (hbusy : s.ac < Store.get 0 (s.core c).laneFree o) : s.laneStep c o = s := by
  unfold State.laneStep
  split
  · rw [if_pos hbusy]
  · rfl

theorem State.laneStep_takes {e : CoreId} (ho : o < 4) (hacross : across c (sideOf o) = .core e)
    (hfree : Store.get 0 (s.core c).laneFree o ≤ s.ac) (hpick : s.lanePick c o = some f) :
    s.laneStep c o = (s.onCore c (Core.laned f o s.ac)).onCore e fun k =>
      { k with dyn := k.dyn ++ [{ f with inp := sideCode (oppSide (sideOf o)), due := s.ac + (63 + hopCost c (sideOf o)) }] } := by
  have hlocal : o ≠ outLocal := ho.ne
  rw [State.laneStep, hacross]
  dsimp only
  rw [if_neg (Nat.not_lt.2 hfree), hpick]
  dsimp only
  rw [State.dynSendOut, if_neg hlocal, hacross]
  rfl

theorem State.laneStep_moves {e : CoreId} (ho : o < 4) (hacross : across c (sideOf o) = .core e) (hne : e ≠ c)
    (hfree : Store.get 0 (s.core c).laneFree o ≤ s.ac) (hpick : s.lanePick c o = some f) :
    let t := s.laneStep c o
    (t.core c).dyn = (s.core c).dyn.erase f ∧ Store.get 0 (t.core c).laneFree o = s.ac + 64 ∧
      t.core e = { s.core e with dyn := (s.core e).dyn ++
        [{ f with inp := sideCode (oppSide (sideOf o)), due := s.ac + (63 + hopCost c (sideOf o)) }] } ∧
      (∀ c', c' ≠ c → c' ≠ e → t.core c' = s.core c') ∧ { t with cores := s.cores } = s := by
  rw [State.laneStep_takes ho hacross hfree hpick]
  obtain ⟨hcore, hothers, hrest⟩ := OnlyCore.onCore s c (Core.laned f o s.ac)
  generalize s.onCore c (Core.laned f o s.ac) = t at hcore hothers hrest ⊢
  refine ⟨?_, ?_, ?_, fun c' hc he => ?_, hrest⟩
  · rw [State.core_onCore_ne _ _ hne.symm, hcore]
    rfl
  · rw [State.core_onCore_ne _ _ hne.symm, hcore]
    exact Store.get_set_same 0 (s.core c).laneFree o (s.ac + 64)
  · rw [State.core_onCore, hothers e hne]
  · rw [State.core_onCore_ne _ _ he, hothers c' hc]

/-! ### The link of a port (R321) -/

theorem State.portPick_mem {d : Side} (hpick : s.portPick c d = some f) : f ∈ (s.core c).portIn := by
  obtain ⟨cls, -, hcls⟩ := List.exists_of_findSome?_eq_some hpick
  split at hcls
  · exact List.mem_of_find?_eq_some (Option.filter_eq_some_iff.1 hcls).1
  · cases hcls

/-- A port core whose link has carried a flit. -/
def Core.ported (f : DynFlit) (d : Side) (due : Nat) (k : Core) : Core :=
  { k with portIn := k.portIn.erase f, dyn := k.dyn ++ [{ f with inp := sideCode d, due := due }]
           dynHold := Store.set 0 k.dynHold portHold (if f.last then 0 else f.cls + 1) }

theorem State.portStep_idle {d : Side} {i : IoId} (hp : portOf c = some (d, i)) (hpick : s.portPick c d = none) :
    s.portStep c = s := by
  simp only [State.portStep, hp, hpick]

theorem State.portStep_takes {d : Side} {i : IoId} (hp : portOf c = some (d, i)) (hpick : s.portPick c d = some f) :
    s.portStep c = s.onCore c (Core.ported f d (s.ac + hopCost c d)) := by
  simp only [State.portStep, hp, hpick]
  rfl

theorem State.portStep_moves {d : Side} {i : IoId} (hp : portOf c = some (d, i)) (hpick : s.portPick c d = some f) :
    let t := s.portStep c
    (t.core c).portIn = (s.core c).portIn.erase f ∧
      (t.core c).dyn = (s.core c).dyn ++ [{ f with inp := sideCode d, due := s.ac + hopCost c d }] ∧
      (∀ c', c' ≠ c → t.core c' = s.core c') ∧ { t with cores := s.cores } = s := by
  rw [State.portStep_takes hp hpick]
  obtain ⟨hcore, hrest⟩ := OnlyCore.onCore s c (Core.ported f d (s.ac + hopCost c d))
  refine ⟨?_, ?_, hrest⟩
  · rw [hcore]
    rfl
  · rw [hcore]
    rfl

end

/-- Settles O60, clause by clause: the lane of a side, the order of background flits, the link of a port. -/
theorem lanesAndPortLinksCarryOneFlit : Obligations.LanesAndPortLinksCarryOneFlit :=
  ⟨fun _ _ _ _ ho hacross hne => ⟨State.laneStep_busy, fun _ => State.laneStep_moves ho hacross hne⟩,
    fun _ _ _ _ => State.dynBefore_of_background, fun _ _ _ _ => State.dynBest_least, fun _ _ _ _ hp =>
      ⟨State.portStep_idle hp, fun _ hpick => ⟨State.portPick_mem hpick, State.portStep_moves hp hpick⟩⟩⟩

end Sys2Proof.Machine
end

section
/-! SUPPORT. Requests of cores at the crossbar: what they leave in their core and on their die (O13). -/

namespace Sys2Proof.Machine

/-! ### An operation of XIQ that leaves it (R209, R359) -/

section
variable {s t : State} {c : CoreId} {o : DynOp}

theorem Core.mem_setOp {k : Core} {n : Nat} {f : DynOp → DynOp} {x : DynOp} (hx : x ∈ (k.setOp n f).ops)
    (hn : x.serial = n) : ∃ y, x = f y := by
  obtain ⟨y, -, rfl⟩ := List.mem_map.1 hx
  split at hn
  · next h => exact ⟨y, if_pos h⟩
  · next h => exact absurd hn h

/-- No command lets time pass. -/
theorem Within.clock {P : List Part} (h : Within P s t) : t.ac = s.ac ∧ t.now = s.now := by
  obtain ⟨⟨-, hac, hnow, -⟩, -⟩ := h
  exact ⟨hac, hnow⟩

/-- A core whose operation leaves XIQ. -/
def Core.issued (o : DynOp) (now : Nat) (k : Core) : Core :=
  k.setOp o.serial fun x =>
    { x with stage := .issued, entry := BitVec.ofNat 7 k.freeEntry, issuedAt := now, poison := x.poison || x.bad }

theorem State.opIssue_eq (s : State) (c : CoreId) (o : DynOp) :
    s.opIssue c o = (s.onCore c (Core.issued o s.car)).entryParity c o.bad := by
  rw [State.opIssue, State.onCore_eq, State.onCore_eq]
  rfl

theorem State.opIssue_core (s : State) (c : CoreId) (o : DynOp) : (s.opIssue c o).core c = (s.core c).issued o s.car := by
  rw [State.opIssue_eq, (State.entryParity_regs ..).core (by simp), State.core_onCore]

theorem State.opIssue_others (s : State) (c : CoreId) (o : DynOp) : OtherCores s c (s.opIssue c o) :=
  ((OtherCores.refl s c).setCore _).ofRegs (State.entryParity_regs ..)

theorem State.opIssue_die (s : State) (c : CoreId) (o : DynOp) (d : DieId) : (s.opIssue c o).die d = s.die d :=
  (State.entryParity_regs ..).die (by simp) d

theorem State.opIssue_ac (s : State) (c : CoreId) (o : DynOp) : (s.opIssue c o).ac = s.ac :=
  (State.entryParity_regs (s.onCore c (Core.issued o s.car)) c o.bad).clock.1

theorem State.opIssue_fences (s : State) (c : CoreId) (o : DynOp) : SameFences s (s.opIssue c o) := by
  rw [State.opIssue_eq, State.entryParity]
  split
  · exact .setReg (noFence_mx c (by decide)) _
  · exact .of_regs rfl

theorem Core.issued_stage {k : Core} {now : Nat} {x : DynOp} (hx : x ∈ (k.issued o now).ops) (hn : x.serial = o.serial) :
    x.stage = .issued := by
  rw [Core.issued] at hx
  obtain ⟨y, rfl⟩ := Core.mem_setOp hx hn
  rfl

/-! ### The crossbar's refusals (R325, R375) -/

/-! What decides on a request is the state of the page manager and of the die's ownership, which the issue leaves. -/

@[simp] theorem State.csRefused_opIssue (s : State) (c : CoreId) (o : DynOp) (d : DieId) (x : BitVec 256) :
    (s.opIssue c o).csRefused d x = s.csRefused d x := by
  unfold State.csRefused State.frames State.frameUnits State.frameSize State.pgm
  rw [State.opIssue_die]

@[simp] theorem State.isList_opIssue (s : State) (c : CoreId) (o : DynOp) (d : DieId) (f : Nat) :
    (s.opIssue c o).isList d f = s.isList d f := by
  simp only [State.isList, State.frameRec, State.pgm, State.opIssue_die]

@[simp] theorem State.csClosed_opIssue (s : State) (c : CoreId) (o : DynOp) (d : DieId) :
    (s.opIssue c o).csClosed d = s.csClosed d := by
  obtain ⟨-, hown⟩ := s.opIssue_fences c o d
  simp only [State.csClosed, State.dieState, State.fld, hown]

/-- The request that an operation sends to the slice of its frame (R325, R327). -/
def State.xRequest (s : State) (c : CoreId) (o : DynOp) (write : Bool) : XReq :=
  ⟨c.val, o.serial, write, s.frameUnit (dieOf c) (csFrame o.desc) + csOffset o.desc, csUnits o.desc, 0, csFrame o.desc % 32,
    s.ac + 20 + 5 * csDistance c (csFrame o.desc % 32), write && (o.poison || o.bad), []⟩

theorem State.xRequest_congr (hdie : t.die (dieOf c) = s.die (dieOf c)) (hac : t.ac = s.ac) (o : DynOp) (write : Bool) :
    t.xRequest c o write = s.xRequest c o write := by
  simp only [State.xRequest, State.frameUnit, State.frameUnits, State.frameSize, State.pgm, hdie, hac]

theorem State.xSend_eq (s : State) (c : CoreId) (o : DynOp) (write : Bool) : s.xSend c o write =
    s.onDie (dieOf c) fun k => { k with xreqs := k.xreqs ++ [s.xRequest c o write] } := by
  simp only [State.xSend, State.xRequest, csPath, Nat.add_assoc]

/-- An operation that has left XIQ and whose request is on its way to its slice. -/
def State.requested (s : State) (c : CoreId) (o : DynOp) (write : Bool) : State := (s.opIssue c o).xSend c o write

theorem State.requested_leaves (s : State) (c : CoreId) (o : DynOp) (write : Bool) :
    (s.requested c o write).core c = (s.core c).issued o s.car ∧ OtherCores s c (s.requested c o write) ∧
      ((s.requested c o write).die (dieOf c)).xreqs = (s.die (dieOf c)).xreqs ++ [s.xRequest c o write] := by
  have hcore := s.opIssue_core c o
  have hothers := s.opIssue_others c o
  have hdie := s.opIssue_die c o (dieOf c)
  rw [State.requested, State.xSend_eq, State.xRequest_congr hdie (s.opIssue_ac c o)]
  generalize s.opIssue c o = u at hcore hothers hdie ⊢
  refine ⟨hcore, hothers, ?_⟩
  rw [State.onDie_eq, State.die_setDie, if_pos rfl, hdie]

/-- A refused request finishes its operation poisoned, and its fault stands (R325, R375). -/
theorem State.faulted_leaves (b : Blk) (hb : b.die = some (dieOf c)) (hbase : dieBase (dieOf c) + 0x1000 ≤ b.base) (off : Nat)
    {bit : Nat} (hbit : bit < 32) (at_ : Nat) :
    let t := ((s.opIssue c o).raise b off bit).opFinish c o.serial at_ true
    (∀ x ∈ (t.core c).ops, x.serial = o.serial → x.stage = .finished ∧ x.poison = true) ∧ t.reg b off / 2 ^ bit % 2 = 1 ∧
      (t.core c).timed = (s.core c).timed ∧ OtherCores s c t := by
  have hregs : Within [.regs] (s.opIssue c o) ((s.opIssue c o).raise b off bit) :=
    State.raise_within _ _ _ (.refl _ _) (by simp)
  have hflag : ((s.opIssue c o).raise b off bit).reg b off / 2 ^ bit % 2 = 1 := by
    rw [State.reg_raise_die _ hb hbase, if_pos rfl]
    exact raised_bit _ hbit
  have hcore := (hregs.core (by simp) c).trans (s.opIssue_core c o)
  have hothers := (s.opIssue_others c o).ofRegs hregs
  generalize (s.opIssue c o).raise b off bit = u at hflag hcore hothers ⊢
  obtain ⟨hfin, hkept⟩ := u.opFinish_finishes c o.serial at_ true
  refine ⟨fun x hx hn => (hfin x hx hn).imp_right fun h => h rfl, ?_, ?_, hothers.trans hkept⟩
  · rwa [State.opFinish, State.reg_onCore]
  · rw [State.opFinish, State.core_onCore, hcore]
    rfl

/-! ### CS_READ (R325, R327) -/

/-- A core that awaits the units of a read. -/
def Core.awaits (o : DynOp) (k : Core) : Core :=
  { k with csReqs := k.csReqs ++ [⟨o.serial, csUnits o.desc, 0, csAm o.desc, 0, [], false⟩] }

theorem csRead_requests (ho : s.xiqHead c 1 = some o) (href : s.csRefused (dieOf c) o.desc = none)
    (hopen : s.csClosed (dieOf c) = false) : Gives (.csRead c) s fun t =>
      (t.core c).csReqs = (s.core c).csReqs ++ [⟨o.serial, csUnits o.desc, 0, csAm o.desc, 0, [], false⟩] ∧
      (t.die (dieOf c)).xreqs = (s.die (dieOf c)).xreqs ++ [s.xRequest c o false] ∧
      (∀ x ∈ (t.core c).ops, x.serial = o.serial → x.stage = .issued) ∧ OtherCores s c t := by
  have hexec : exec (.csRead c) s = .next ((s.requested c o false).onCore c (Core.awaits o)) := by
    simp only [exec, execCsRead, ho, State.csRefused_opIssue, href, State.csClosed_opIssue, hopen, Bool.false_eq_true, if_false]
    rfl
  obtain ⟨hcore, hothers, hreqs⟩ := s.requested_leaves c o false
  refine ⟨_, hexec, ?_, hreqs, ?_, hothers.setCore _⟩
  · rw [State.core_onCore, hcore]
    rfl
  · rw [State.core_onCore, hcore]
    exact fun x hx => Core.issued_stage hx

theorem csRead_refused {bit : Nat} (ho : s.xiqHead c 1 = some o) (href : s.csRefused (dieOf c) o.desc = some bit)
    (hbit : bit < 32) : Gives (.csRead c) s fun t =>
      (∀ x ∈ (t.core c).ops, x.serial = o.serial → x.stage = .finished ∧ x.poison = true) ∧
      t.reg (.meshDie (dieOf c)) 0x18 / 2 ^ bit % 2 = 1 ∧ OtherCores s c t := by
  have hexec : exec (.csRead c) s = .next (((s.opIssue c o).raise (.meshDie (dieOf c)) 0x18 bit).opFinish c o.serial
      (csDoneAt c (s.opIssue c o).ac (csFrame o.desc) (csUnits o.desc)) true) := by
    simp only [exec, execCsRead, ho, State.csRefused_opIssue, href]
    rfl
  obtain ⟨hfin, hflag, -, hothers⟩ :=
    State.faulted_leaves (s := s) (o := o) (.meshDie (dieOf c)) rfl (by simp [Blk.base]) 0x18 hbit _
  exact ⟨_, hexec, hfin, hflag, hothers⟩

/-! ### CS_WRITE (R325, R326, R375) -/

/-- The read that a context-store write owes for line `k` (R326). -/
def csLineRead (o : DynOp) (now k : Nat) : Timed := ⟨now + 2 + k, 64 * (csAm o.desc + k), false, .unit o.serial k⟩

theorem csWrite_requests (ho : s.xiqHead c 2 = some o) (href : s.csRefused (dieOf c) o.desc = none)
    (hlist : s.isList (dieOf c) (csFrame o.desc) = false) (hopen : s.csClosed (dieOf c) = false) (hu : (s.core c).amUse = []) :
    Gives (.csWrite c) s fun t =>
      (t.core c).timed = (s.core c).timed ++ (List.range (csUnits o.desc)).map (csLineRead o s.ac) ∧
      (t.die (dieOf c)).xreqs = (s.die (dieOf c)).xreqs ++ [s.xRequest c o true] ∧
      (∀ x ∈ (t.core c).ops, x.serial = o.serial → x.stage = .issued) ∧ OtherCores s c t := by
  have hexec : exec (.csWrite c) s = .next ((List.range (csUnits o.desc)).foldl (fun t k =>
      t.timedAccess c (s.ac + 2 + k) (64 * (csAm o.desc + k)) 64 (.unit o.serial k)) (s.requested c o true)) := by
    simp only [exec, execCsWrite, ho, State.csRefused_opIssue, href, State.isList_opIssue, hlist, State.csClosed_opIssue,
      hopen, Bool.false_eq_true, if_false]
    rfl
  obtain ⟨hcore, hothers, hreqs⟩ := s.requested_leaves c o true
  have hnone : ((s.requested c o true).core c).amUse = [] := by
    rw [hcore]
    exact hu
  obtain ⟨use, honly, -⟩ := TakesOn.foldl (flits := fun _ => []) (acc := csLineRead o s.ac)
    (f := fun t k => t.timedAccess c (s.ac + 2 + k) (64 * (csAm o.desc + k)) 64 (.unit o.serial k))
    (fun k fs ts v h => (List.append_nil fs).symm ▸ State.timedAccess_takesOn _ _ _ h) (List.range (csUnits o.desc))
    (TakesOn.refl hnone) (by rw [List.length_range, List.range'_eq_map_range]; rfl)
  have ⟨hreads, _, hrest⟩ := honly
  refine ⟨_, hexec, ?_, ?_, ?_, hothers.trans honly.otherCores⟩
  · rw [hreads, hcore]
    rfl
  · rw [← hreqs]
    exact congrArg Die.xreqs (congrArg (fun u => u.die (dieOf c)) hrest :)
  · rw [hreads, hcore]
    exact fun x hx => Core.issued_stage hx

theorem csWrite_intoList (ho : s.xiqHead c 2 = some o) (href : s.csRefused (dieOf c) o.desc = none)
    (hlist : s.isList (dieOf c) (csFrame o.desc) = true) : Gives (.csWrite c) s fun t =>
      (∀ x ∈ (t.core c).ops, x.serial = o.serial → x.stage = .finished ∧ x.poison = true) ∧
      t.reg (.pgm (dieOf c)) 0x14 / 2 ^ 6 % 2 = 1 ∧ (t.core c).timed = (s.core c).timed ∧ OtherCores s c t := by
  have hexec : exec (.csWrite c) s = .next (((s.opIssue c o).raise (.pgm (dieOf c)) 0x14 6).opFinish c o.serial
      (csDoneAt c s.ac (csFrame o.desc) (csUnits o.desc)) true) := by
    simp only [exec, execCsWrite, ho, State.csRefused_opIssue, href, State.isList_opIssue, hlist, if_true]
  exact ⟨_, hexec, State.faulted_leaves (.pgm (dieOf c)) rfl (by simp [Blk.base]) 0x14 (by decide) _⟩

end

end Sys2Proof.Machine
end

section
/-! SUPPORT. The slices of the context store, and the units that come back to a core (O13). -/

namespace Sys2Proof.Machine

/-! ### The request that a slice serves (R328) -/

section
variable {s : State} {d : DieId} {sl : Nat} {r q : XReq}

/-- The place of a request in the order of R328: a request that is being served comes first. -/
def XReq.place (r : XReq) : ℕ ×ₗ ℕ ×ₗ ℕ :=
  if 0 < r.served then toLex (0, toLex (0, 0)) else toLex (1, toLex (r.arrive / 2, r.core))

theorem XReq.place_le_of_before (h : r.before q = true) : r.place ≤ q.place := by
  simp only [XReq.place]
  by_cases hr : 0 < r.served
  · rw [if_pos hr]
    split
    · exact le_rfl
    · exact (Prod.Lex.toLex_lt_toLex.2 (.inl Nat.zero_lt_one)).le
  · simp only [XReq.before, hr, decide_false, Bool.false_or, Bool.and_eq_true, beq_iff_eq,
      Bool.or_eq_true, decide_eq_true_eq] at h
    obtain ⟨hq, h⟩ := h
    rw [if_neg hr, if_neg (by omega)]
    exact le_of_lt (Prod.Lex.toLex_lt_toLex.2 (.inr ⟨rfl, Prod.Lex.toLex_lt_toLex.2 h⟩))

theorem XReq.place_le_of_not_before (h : r.before q = false) : q.place ≤ r.place := by
  simp only [XReq.before, Bool.or_eq_false_iff, decide_eq_false_iff_not] at h
  obtain ⟨hr, h⟩ := h
  simp only [XReq.place]
  rw [if_neg hr]
  split
  · exact (Prod.Lex.toLex_lt_toLex.2 (.inl Nat.zero_lt_one)).le
  · next hq =>
    have hq : q.served = 0 := by omega
    simp only [hq, beq_self_eq_true, Bool.true_and, Bool.or_eq_false_iff, decide_eq_false_iff_not, Bool.and_eq_false_iff,
      beq_eq_false_iff_ne] at h
    refine Prod.Lex.toLex_le_toLex.2 (.inr ⟨rfl, Prod.Lex.toLex_le_toLex.2 ?_⟩)
    dsimp only
    omega

theorem XReq.first_of_place_le (hr : r.served = 0) (h : r.place ≤ q.place) :
    q.served = 0 ∧ (r.arrive / 2 < q.arrive / 2 ∨ (r.arrive / 2 = q.arrive / 2 ∧ r.core ≤ q.core)) := by
  simp only [XReq.place] at h
  rw [if_neg (by omega)] at h
  split at h
  · simp [Prod.Lex.toLex_le_toLex] at h
  · next hq => exact ⟨by omega, by simpa [Prod.Lex.toLex_le_toLex] using h⟩

theorem State.slicePick_least (h : s.slicePick d sl = some r) :
    ∀ q ∈ (s.die d).xreqs, q.slice = sl → q.arrive ≤ s.ac → r.place ≤ q.place := by
  unfold State.slicePick at h
  split at h
  · cases h
  · next a l hl =>
    obtain rfl := Option.some.inj h
    obtain ⟨-, hle⟩ := foldl_least XReq.place (P := fun _ => True) (fun _ _ _ _ => XReq.place_le_of_before)
      (fun _ _ _ _ => XReq.place_le_of_not_before) l a (fun _ _ => trivial)
    rw [← hl] at hle
    exact fun q hq hslice harrive => hle q (List.mem_filter.2 ⟨hq, by simp [hslice, harrive]⟩)

/-! ### The unit that a slice serves (R323, R327, R330) -/

/-- The list of a die's requests once a slice has served a unit of one of them. -/
def Die.served (r : XReq) (k : Die) : Die :=
  { k with xreqs := if decide (r.units ≤ r.served + 1) then k.xreqs.erase r
                    else k.xreqs.map fun q => if q == r then { q with served := q.served + 1 } else q }

theorem State.csRead_sound (s : State) (d : DieId) (u : Nat) (h : s.csErr = []) :
    s.csRead d u = (s.count (.meshDie d) 0x1C 1, s.csUnit d u, s.csPois d u) := by
  have hcount : Within [.regs] s (s.count (.meshDie d) 0x1C 1) := State.count_within _ _ _ (.refl _ _) (by simp)
  obtain ⟨hcs, hpois, -⟩ := hcount.part .cs (by simp)
  simp only [State.csRead, h, Store.get_nil, reduceCtorEq, if_false, State.csUnit, State.csPois, hcs, hpois]
  simp

theorem State.unitBack_delivers (s : State) {q : CsReq} (hq : q ∈ (s.core (Fin.ofNat 768 r.core)).csReqs)
    (hserial : q.serial = r.serial) (l : Line) (p : Bool) :
    { q with
      data := q.data ++ [(l, p, s.ac + csPath (Fin.ofNat 768 r.core) r.slice)], poison := q.poison || p } ∈
        ((s.unitBack r l p).core (Fin.ofNat 768 r.core)).csReqs := by
  rw [State.unitBack, State.core_onCore]
  exact List.mem_map.2 ⟨q, hq, if_pos hserial⟩

/-- A write of a unit stands in its frame, and no other byte of the store changes (R373). -/
theorem State.csWrite_writes (s : State) (d : DieId) (u : Nat) {b : List Byte} (hb : b.length = 64) (p : Bool) :
    (s.csWrite d u b p).csUnit d u = b ∧ (s.csWrite d u b p).csPois d u = p ∧
      ∀ a, (a < csBase d + 64 * u ∨ csBase d + 64 * u + 64 ≤ a) → (s.csWrite d u b p).cs.byte a = s.cs.byte a := by
  have hcount : Within [.regs] s (s.count (.meshDie d) 0x1C 1) := State.count_within _ _ _ (.refl _ _) (by simp)
  obtain ⟨hcs, -⟩ := hcount.part .cs (by simp)
  have hpad : padTo 64 b = b := by rw [padTo, List.take_append_of_le_length hb.ge, List.take_of_length_le hb.le]
  have hset : (s.csWrite d u b p).cs = s.cs.setBytes (csBase d + 64 * u) b := by
    rw [← hcs]
    exact congrArg (Memory.setBytes _ _) hpad
  refine ⟨?_, Store.get_set_same false _ _ p, fun a ha => ?_⟩
  · rw [State.csUnit, hset, ← hb]
    exact Memory.bytes_setBytes ..
  · rw [hset, Memory.byte_setBytes_out _ _ (hb.symm ▸ ha)]

section
variable (hpick : s.slicePick d sl = some r) (hfree : Store.get 0 (s.die d).xfree sl ≤ s.ac)
  (hnc : ¬(s.reservedNc ∧ Store.get false (s.die d).xback sl))
include hpick hfree hnc

theorem State.sliceServe_read (hr : r.write = false) (herr : s.csErr = []) : s.sliceServe d sl =
    (((s.sliceBusy d sl).count (.meshDie d) 0x1C 1).unitBack r (bytesLine (s.csUnit d (r.unit + r.served)))
      (s.csPois d (r.unit + r.served))).onDie d (Die.served r) := by
  have hgo : ¬(s.ac < Store.get 0 (s.die d).xfree sl ∨ (s.reservedNc ∧ Store.get false (s.die d).xback sl)) :=
    not_or.2 ⟨Nat.not_lt.2 hfree, hnc⟩
  have herr' : (s.sliceBusy d sl).csErr = [] := herr
  simp only [State.sliceServe, if_neg hgo, hpick, hr, Bool.false_and, Bool.false_eq_true, if_false, State.csRead_sound _ _ _ herr']
  rfl

theorem State.sliceServe_write (hr : r.write = true) :
    Within [.dies, .cores] ((s.sliceBusy d sl).csWrite d (r.unit + r.served)
      (lineBytes (Store.get ((0 : Line), false) r.data r.served).1)
      ((Store.get ((0 : Line), false) r.data r.served).2 || r.poison)) (s.sliceServe d sl) := by
  have hgo : ¬(s.ac < Store.get 0 (s.die d).xfree sl ∨ (s.reservedNc ∧ Store.get false (s.die d).xback sl)) :=
    not_or.2 ⟨Nat.not_lt.2 hfree, hnc⟩
  simp only [State.sliceServe, if_neg hgo, hpick, hr, Bool.true_and, if_true]
  have hserved (t : State) : Within [.dies, .cores] t (t.onDie d (Die.served r)) :=
    State.onDie_within _ _ (.refl _ _) (by simp)
  exact .ite (fun _ => State.opFinish_within _ _ _ _ (hserved _) (by simp)) fun _ => hserved _

theorem State.sliceServe_returns (hr : r.write = false) (herr : s.csErr = []) :
    let u := r.unit + r.served
    let c : CoreId := Fin.ofNat 768 r.core
    (∀ q ∈ (s.core c).csReqs, q.serial = r.serial →
      { q with
        data := q.data ++ [(bytesLine (s.csUnit d u), s.csPois d u, s.ac + csPath c r.slice)]
        poison := q.poison || s.csPois d u } ∈ ((s.sliceServe d sl).core c).csReqs) ∧
    (s.sliceServe d sl).cs = s.cs ∧ Store.get 0 ((s.sliceServe d sl).die d).xfree sl = s.ac + 2 := by
  rw [State.sliceServe_read hpick hfree hnc hr herr]
  have hcount : Within [.regs] (s.sliceBusy d sl) ((s.sliceBusy d sl).count (.meshDie d) 0x1C 1) :=
    State.count_within _ _ _ (.refl _ _) (by simp)
  have hac : ((s.sliceBusy d sl).count (.meshDie d) 0x1C 1).ac = s.ac := hcount.clock.1
  have hcore := hcount.core (by simp) (Fin.ofNat 768 r.core)
  have hdie := hcount.die (by simp) d
  obtain ⟨hcs, -⟩ := hcount.part .cs (by simp)
  generalize (s.sliceBusy d sl).count (.meshDie d) 0x1C 1 = t at hac hcore hdie hcs ⊢
  refine ⟨fun q hq hserial => ?_, hcs, ?_⟩
  · rw [← hac]
    exact t.unitBack_delivers (by rw [hcore]; exact hq) hserial _ _
  · rw [State.onDie_eq, State.die_setDie, if_pos rfl]
    show Store.get 0 (t.die d).xfree sl = s.ac + 2
    rw [hdie, State.sliceBusy, State.onDie_eq, State.die_setDie, if_pos rfl]
    exact Store.get_set_same 0 (s.die d).xfree sl (s.ac + 2)

theorem State.sliceServe_stores (hr : r.write = true) :
    let u := r.unit + r.served
    let x := Store.get ((0 : Line), false) r.data r.served
    (s.sliceServe d sl).csUnit d u = lineBytes x.1 ∧ (s.sliceServe d sl).csPois d u = (x.2 || r.poison) ∧
    ∀ a, (a < csBase d + 64 * u ∨ csBase d + 64 * u + 64 ≤ a) → (s.sliceServe d sl).cs.byte a = s.cs.byte a := by
  intro u x
  obtain ⟨hunit, hpois, hbytes⟩ := (s.sliceBusy d sl).csWrite_writes d u (leBytes_length 64 x.1.toNat) (x.2 || r.poison)
  obtain ⟨hcs, hcsPois, -⟩ := (State.sliceServe_write hpick hfree hnc hr).part .cs (by simp)
  refine ⟨?_, ?_, fun a ha => ?_⟩
  · rw [State.csUnit, hcs]
    exact hunit
  · rw [State.csPois, hcsPois]
    exact hpois
  · rw [hcs]
    exact hbytes a ha

end

end

/-! ### CS_UNIT_WRITE (R327, R345, R349) -/

section
variable {s : State} {c : CoreId} {r : CsReq} {rest : List CsReq} {x : Line × Bool × Nat} {more : List (Line × Bool × Nat)}

theorem State.claimDyn_granted {at_ mask above : Nat} (hheld : (s.core c).laneHeld at_ mask = false)
    (habove : above &&& mask = 0) : s.claimDyn c at_ mask above =
      (s.onCore c fun k => { k with amUse := k.amUse ++ [(at_, mask, false)] }, true) := by
  simp [State.claimDyn, hheld, habove]

/-- The core that writes a unit which is not the last of its request (R345, R349). -/
def Core.unitWritten (r : CsReq) (x : Line × Bool × Nat) (more : List (Line × Bool × Nat)) (now : Nat) (k : Core) : Core :=
  { k with csReqs := k.csReqs.map fun q => if q == r then { r with next := r.next + 1, data := more, wait := now - x.2.2 } else q }

/-- The core that writes the last unit of a request. -/
def Core.readEnded (r : CsReq) (now : Nat) (k : Core) : Core :=
  { k with csReqs := k.csReqs.erase r, endedAt := if k.aborted then now else k.endedAt }

/-- The core that takes the lanes of a unit and owes its write. -/
def Core.unitOwed (r : CsReq) (x : Line × Bool × Nat) (now : Nat) (k : Core) : Core :=
  { k with amUse := k.amUse ++ [(now, laneMask (64 * (r.am + r.next)) 64, false)]
           timed := k.timed ++ [⟨now, 64 * (r.am + r.next), false, .put (lineBytes x.1) x.2.1⟩] }

section
variable (hreqs : (s.core c).csReqs = r :: rest) (hdata : r.data = x :: more) (hdue : x.2.2 + r.wait ≤ s.ac)
  (huse : (s.core c).amUse = []) (hlanes : (s.vLanes c &&& laneMask (64 * (r.am + r.next)) 64) = 0)
include hreqs hdata hdue huse hlanes

theorem exec_csUnitWrite : ∃ t, OnlyCore s c ((s.core c).unitOwed r x s.ac) t ∧ exec (.csUnitWrite c) s = .next
    (if r.next + 1 = r.units then (t.onCore c (Core.readEnded r s.ac)).opFinish c r.serial (s.ac + 1) r.poison
     else t.onCore c (Core.unitWritten r x more s.ac)) := by
  have hheld : (s.core c).laneHeld s.ac (laneMask (64 * (r.am + r.next)) 64) = false := by simp [Core.laneHeld, huse]
  have hline : r.dueLine s.ac = some (64 * (r.am + r.next)) := by
    simp only [CsReq.dueLine, hdata, if_pos hdue]
  refine ⟨((s.onCore c fun k => { k with amUse := k.amUse ++ [(s.ac, laneMask (64 * (r.am + r.next)) 64, false)] }).addTimed c
    ⟨s.ac, 64 * (r.am + r.next), false, .put (lineBytes x.1) x.2.1⟩), ?_, ?_⟩
  · refine (OnlyCore.onCore s c _).trans ((OnlyCore.onCore _ c _).congr ?_)
    rw [State.core_onCore]
    rfl
  · simp only [exec, execCsUnitWrite, hreqs, List.find?_cons, hline, hheld, hlanes, beq_self_eq_true, Bool.not_false,
      Bool.true_and, State.claimDyn_granted hheld hlanes, hdata]
    simp only [State.csUnitPut, hdata, List.tail_cons]
    rfl

theorem csUnitWrite_writes (hnew : r ∉ rest) : Gives (.csUnitWrite c) s fun t =>
      (t.core c).timed = (s.core c).timed ++ [⟨s.ac, 64 * (r.am + r.next), false, .put (lineBytes x.1) x.2.1⟩] ∧
      (r.next + 1 < r.units → (t.core c).csReqs =
        { r with next := r.next + 1, data := more, wait := s.ac - x.2.2 } :: rest) ∧
      (r.next + 1 = r.units → (t.core c).csReqs = rest ∧
        ∀ y ∈ (t.core c).ops, y.serial = r.serial → y.stage = .finished ∧ y.readyAt = s.ac + 1) ∧
      OtherCores s c t := by
  obtain ⟨t, honly, hexec⟩ := exec_csUnitWrite hreqs hdata hdue huse hlanes
  have howed : (t.core c).csReqs = r :: rest := by
    rw [honly.1]
    exact hreqs
  refine ⟨_, hexec, ?_⟩
  split
  · next hlast =>
    refine ⟨?_, fun h => absurd hlast h.ne, fun _ => ⟨?_, fun y hy hn => ?_⟩, (honly.otherCores.setCore _).setCore _⟩
    · rw [State.opFinish, State.core_onCore, State.core_onCore, honly.1]
      rfl
    · rw [State.opFinish, State.core_onCore, State.core_onCore]
      show (t.core c).csReqs.erase r = rest
      rw [howed, List.erase_cons_head]
    · rw [State.opFinish, State.core_onCore] at hy
      obtain ⟨z, rfl⟩ := Core.mem_setOp hy hn
      exact ⟨rfl, rfl⟩
  · next hmore =>
    refine ⟨?_, fun _ => ?_, fun h => absurd h hmore, honly.otherCores.setCore _⟩
    · rw [State.core_onCore, honly.1]
      rfl
    · rw [State.core_onCore, Core.unitWritten, howed, List.map_cons, if_pos (beq_self_eq_true r)]
      refine congrArg _ ((List.map_congr_left fun q hq => if_neg ?_).trans (List.map_id' rest))
      simpa using ne_of_mem_of_not_mem hq hnew

end

theorem csUnitWrite_waits (hheld : ∀ r ∈ (s.core c).csReqs, ∀ a, r.dueLine s.ac = some a →
    (s.core c).laneHeld s.ac (laneMask a 64) = true) : Gives (.csUnitWrite c) s fun t => t = s := by
  refine ⟨_, rfl, ?_⟩
  dsimp only
  split
  · rfl
  · next r hr =>
    have hfree := List.find?_some hr
    have hmem := List.mem_of_find?_eq_some hr
    split at hfree
    · next a ha => simp [hheld r hmem a ha] at hfree
    · cases hfree

end

/-- Settles O13, clause by clause: the request of a read, the order and the service of a slice, the units that come back, and
the request of a write. -/
theorem crossbarRequestsReadAndWriteFrames : Obligations.CrossbarRequestsReadAndWriteFrames :=
  ⟨fun _ _ _ => csRead_requests, fun _ _ _ _ => csRead_refused,
    fun _ _ _ _ hpick hr q hq hslice harrive =>
      XReq.first_of_place_le hr (State.slicePick_least hpick q hq hslice harrive),
    fun _ _ _ _ hpick hr herr hfree hnc => State.sliceServe_returns hpick hfree hnc hr herr,
    fun _ _ _ _ hpick hr hfree hnc => State.sliceServe_stores hpick hfree hnc hr,
    fun _ _ _ _ _ _ hreqs hnew hdata hdue huse hlanes => csUnitWrite_writes hreqs hdata hdue huse hlanes hnew,
    fun _ _ => csUnitWrite_waits, fun _ _ _ => csWrite_requests, fun _ _ _ => csWrite_intoList⟩

end Sys2Proof.Machine
end

section
/-! SUPPORT. Wide registers and the status bits of a shard mover (O38). -/

namespace Sys2Proof.Machine

/-! ### Wide registers (R741) -/

section

theorem leBytes_leNat (b : List Byte) : leBytes b.length (leNat b) = b := by
  induction b with
  | nil => rfl
  | cons x l ih =>
    have hx := x.isLt
    have hlow : (x.toNat + 256 * leNat l) % 256 = x.toNat := by omega
    have hhigh : (x.toNat + 256 * leNat l) / 256 = leNat l := by omega
    rw [List.length_cons, leNat, leBytes, hlow, hhigh, ih, BitVec.ofNat_toNat, BitVec.setWidth_eq]

theorem leNat_lt (b : List Byte) : leNat b < 256 ^ b.length := by
  rw [← leBytes_leNat b, leNat_leBytes, leBytes_length]
  exact Nat.mod_lt _ (by positivity)

theorem beNat_reverse (b : List Byte) : beNat b.reverse = leNat b := by
  rw [beNat, List.foldl_reverse]
  induction b with
  | nil => rfl
  | cons x l ih => rw [List.foldr_cons, ih, leNat, Nat.mul_comm, Nat.add_comm]

theorem digestBytes_length (d : Digest) : (digestBytes d).length = 48 := by
  rw [digestBytes, beBytes, List.length_reverse, leBytes_length]

theorem bytesDigest_digestBytes (d : Digest) : bytesDigest (digestBytes d) = d := by
  rw [bytesDigest, List.take_of_length_le (digestBytes_length d).le, digestBytes, beBytes, beNat_reverse, leNat_leBytes]
  rw [show 256 = 2 ^ 8 from rfl, ← pow_mul, Nat.mod_eq_of_lt d.isLt, BitVec.ofNat_toNat, BitVec.setWidth_eq]

variable (s : State) (b : Blk) (off : Nat)

/-- Words that are written one after another read back. -/
theorem State.reg_setWords (v : Nat → Nat) (l : List Nat) {i : Nat} (h : i ∈ l ∨ s.reg b (off + 4 * i) = v i % 2 ^ 32) :
    (l.foldl (fun s i => s.setReg b (off + 4 * i) (v i)) s).reg b (off + 4 * i) = v i % 2 ^ 32 := by
  induction l generalizing s with
  | nil => simpa using h
  | cons a l ih =>
    refine ih _ ?_
    by_cases hai : a = i
    · exact .inr (hai ▸ State.reg_setReg_same ..)
    · refine h.imp (fun h => (List.mem_cons.1 h).resolve_left (Ne.symm hai)) fun h => ?_
      rwa [State.reg_setReg_off, if_neg (by omega)]

theorem State.reg_setDigestReg (d : Digest) {i : Nat} (hi : i < 12) :
    leBytes 4 ((s.setDigestReg b off d).reg b (off + 4 * i)) = ((digestBytes d).drop (4 * i)).take 4 := by
  have hlen : (((digestBytes d).drop (4 * i)).take 4).length = 4 := by
    rw [List.length_take, List.length_drop, digestBytes_length]
    omega
  have hlt : leNat (((digestBytes d).drop (4 * i)).take 4) < 2 ^ 32 := (leNat_lt _).trans_eq (by rw [hlen]; norm_num)
  rw [State.setDigestReg, s.reg_setWords b off (fun i => leNat (((digestBytes d).drop (4 * i)).take 4)) _
    (.inl (List.mem_range.2 hi)), Nat.mod_eq_of_lt hlt]
  have hback := leBytes_leNat (((digestBytes d).drop (4 * i)).take 4)
  rwa [hlen] at hback

/-- A list of twelve words is the concatenation of its words. -/
theorem flatMap_words (l : List Byte) (n : Nat) (h : l.length = 4 * n) :
    (List.range n).flatMap (fun i => (l.drop (4 * i)).take 4) = l := by
  induction n generalizing l with
  | zero => simpa using h
  | succ n ih =>
    have hrest := ih (l.drop 4) (by rw [List.length_drop]; omega)
    simp only [List.drop_drop] at hrest
    rw [List.range_succ_eq_map, List.flatMap_cons, List.flatMap_map]
    simp only [Nat.mul_succ, Nat.mul_zero, List.drop_zero, Nat.add_comm _ 4, hrest, List.take_append_drop]

theorem State.digestReg_setDigestReg (d : Digest) : (s.setDigestReg b off d).digestReg b off = d := by
  have hwords : (List.range 12).flatMap (fun i => leBytes 4 ((s.setDigestReg b off d).reg b (off + 4 * i))) = digestBytes d := by
    rw [List.flatMap_congr fun i hi => s.reg_setDigestReg b off d (List.mem_range.1 hi)]
    exact flatMap_words _ 12 (digestBytes_length d)
  rw [State.digestReg, hwords, bytesDigest_digestBytes]

end

/-! ### The status and the end of a job (R585, R588) -/

section
variable (s : State) (i : IoId)

theorem State.wxStat_reg (bit : Nat) {off : Nat} (hoff : off ≠ 0x70) :
    (s.wxStat i bit).reg (.router i) off = s.reg (.router i) off := by
  rw [State.wxStat, State.orReg_eq, State.reg_setReg_off, if_neg hoff]

theorem State.wxStat_sets {bit : Nat} (hbit : bit < 32) : (s.wxStat i bit).reg (.router i) 0x70 / 2 ^ bit % 2 = 1 := by
  rw [State.wxStat, State.orReg_eq, State.reg_setReg_same]
  exact raised_bit _ hbit

theorem State.wxStat_keeps (bit : Nat) {k : Nat} (hk : k < 32) (h : s.reg (.router i) 0x70 / 2 ^ k % 2 = 1) :
    (s.wxStat i bit).reg (.router i) 0x70 / 2 ^ k % 2 = 1 := by
  have hset : (s.reg (.router i) 0x70).testBit k = true := by simpa [Nat.testBit_eq_decide_div_mod_eq] using h
  have hor : ((s.reg (.router i) 0x70 ||| 2 ^ bit) % 2 ^ 32).testBit k = true := by
    rw [Nat.testBit_mod_two_pow]
    simp [hk, hset]
  rw [State.wxStat, State.orReg_eq, State.reg_setReg_same]
  simpa [Nat.testBit_eq_decide_div_mod_eq] using hor

theorem State.wxEnd_reg {off : Nat} (hoff : off ≠ 0x60) : (s.wxEnd i).reg (.router i) off = s.reg (.router i) off := by
  rw [State.wxEnd, State.setFld_eq, State.reg_setReg_off, if_neg hoff]
  exact State.reg_congr rfl _ _

theorem State.wxEnd_router : (s.wxEnd i).router i = { s.router i with job := none } := by
  simp only [State.wxEnd, State.setFld_eq, State.setReg_frame, State.onRouter_eq, State.router_setRouter, if_true]

/-- A job that ends shows the status bits that stand. -/
theorem State.wxEnd_ended {l : List Nat} (h : ∀ k ∈ l, s.reg (.router i) 0x70 / 2 ^ k % 2 = 1) : JobEnded (s.wxEnd i) i l := by
  refine ⟨by rw [s.wxEnd_router], ?_, fun k hk => ?_⟩
  · have hlt := (s.onRouter i fun r => { r with job := none }).reg_lt (.router i) 0x60
    rw [State.fld, State.wxEnd, State.setFld_eq, State.reg_setReg_same]
    simp only [bits, setBits]
    omega
  · rw [s.wxEnd_reg i (by decide)]
    exact h k hk

theorem State.wxStat_wxEnd_ended {bit : Nat} (hbit : bit < 32) : JobEnded ((s.wxStat i bit).wxEnd i) i [bit] :=
  State.wxEnd_ended _ i fun k hk => by
    rw [List.mem_singleton.1 hk]
    exact s.wxStat_sets i hbit

end

end Sys2Proof.Machine
end


section
/-! SUPPORT. The jobs of a shard mover (O38). -/

namespace Sys2Proof.Machine

/-! ### What a job reads (R577, R585) -/

section
variable {s t : State} {i : IoId} {b : Job}

theorem SameFences.refl (s : State) : SameFences s s := fun _ => ⟨rfl, rfl⟩

theorem SameFences.logCe (c : CoreId) (kind nb addr : Nat) : SameFences s (s.logCe c kind nb addr) := by
  have hcount : SameFences s (s.count (.mx c) 0x50 1) := by
    unfold State.count
    split
    · exact .setReg (noFence_mx c (by decide)) _
    · exact .refl s
  unfold State.logCe
  dsimp only
  split
  · exact hcount.trans (.of_regs rfl)
  · exact hcount.trans (.setReg (noFence_mx c (by decide)) _)

theorem SameFences.logUce (c : CoreId) (kind addr : Nat) : SameFences s (s.logUce c kind addr) := by
  unfold State.logUce
  dsimp only
  split
  · exact SameFences.trans (.setReg (noFence_mx c (by decide)) _) (.setReg (noFence_mx c (by decide)) _)
  · exact .setReg (noFence_mx c (by decide)) _

theorem SameFences.foldl {α : Type} {f : State → α → State} {l : List α} (hf : ∀ s, ∀ a ∈ l, SameFences s (f s a)) (s : State) :
    SameFences s (l.foldl f s) := by
  induction l generalizing s with
  | nil => exact .refl s
  | cons a l ih => exact (hf s a (by simp)).trans (ih (fun s a ha => hf s a (List.mem_cons_of_mem _ ha)) _)

theorem SameFences.wsReadWords (c : CoreId) (lo hi : Nat) : SameFences s (s.wsReadWords c lo hi).1 := by
  refine .foldl (fun s e _ => ?_) s
  split
  · exact .refl s
  · exact .logCe _ _ _ _
  · exact .logCe _ _ _ _
  · exact .logUce _ _ _

/-- Whether a job may read its source rests on the ownership of the source's die. -/
theorem SameFences.sourceOk (h : SameFences s t) (b : Job) : t.sourceOk b = s.sourceOk b := by
  unfold State.sourceOk State.holds State.dieEncl State.dieState State.dieCtx State.fld
  dsimp only
  rw [(h _).2]

/-- Reading a unit of a core's weight store leaves the routers and what decides on the source. -/
structure SourceRead (s t : State) : Prop where
  fences : SameFences s t
  within : Within [.regs, .cores] s t

theorem State.jobUnit_core (hing : b.ingest = false) :
    ∃ t data p, s.jobUnit b = some (t, data, p) ∧ SourceRead s t ∧ data.length = 4096 ∧
      (b.saddr + b.sent < 24576 → data = s.wsBytes (Fin.ofNat 768 b.score.toNat) (4096 * (b.saddr + b.sent)) 4096) := by
  unfold State.jobUnit
  simp only [hing, Bool.false_eq_true, if_false]
  by_cases hk : 24576 ≤ b.saddr + b.sent
  · rw [if_pos hk]
    exact ⟨_, _, _, rfl, ⟨.of_regs rfl, State.draw_within _ (.refl _ _)⟩, leBytes_length .., fun h => absurd hk (by omega)⟩
  · rw [if_neg hk]
    have hread : Within [.regs, .cores] s (s.wsReadWords (Fin.ofNat 768 b.score.toNat) (128 * (b.saddr + b.sent))
        (128 * (b.saddr + b.sent) + 128)).1 := State.wsReadWords_within _ _ _ (.refl _ _) (by simp) (by simp)
    obtain ⟨hws, -⟩ := hread.part .ws (by simp)
    refine ⟨_, _, _, rfl, ⟨.wsReadWords _ _ _, hread⟩, ?_, fun _ => ?_⟩
    · simp [State.wsBytes, Memory.bytes]
    · rw [State.wsBytes, hws]
      rfl

/-! ### The steps of a job (R581, R585) -/

/-- A job that has read one more unit. -/
def Job.moved (data : List Byte) (now : Nat) (b : Job) : Job :=
  { b with sent := b.sent + 1, hashed := b.hashed ++ data, lastAt := now }

/-- The router of a job that has read one more unit: a job that sends has sent it. -/
def State.stepped (s : State) (i : IoId) (b : Job) (data : List Byte) (p : Bool) : State :=
  (if b.verify then s else s.inject i (s.shardPacket b data p)).setJob i (b.moved data s.car)

theorem State.jobStep_eq {data : List Byte} {p : Bool} (hsrc : s.sourceOk b = true) (hu : s.jobUnit b = some (t, data, p)) :
    s.jobStep i b = (if b.sent + 1 = b.count then (t.stepped i b data p).wxDigest i (b.moved data t.car)
      else t.stepped i b data p, true) := by
  have hcar (q : Packet) : (t.inject i q).car = t.car := rfl
  simp only [State.jobStep, hsrc, Bool.not_true, Bool.false_eq_true, if_false, hu, State.stepped, Job.moved]
  cases b.verify <;> rfl

theorem State.jobStep_refused (hsrc : s.sourceOk b = false) : s.jobStep i b = ((s.wxStat i wxSrcErr).wxEnd i, false) := by
  simp only [State.jobStep, hsrc, Bool.not_false, if_true]

theorem State.jobStep_waits (hsrc : s.sourceOk b = true) (hu : s.jobUnit b = none) : s.jobStep i b = (s, false) := by
  simp only [State.jobStep, hsrc, Bool.not_true, Bool.false_eq_true, if_false, hu]

theorem State.jobLoop_succ (hjob : (s.router i).job = some b) (hsent : b.sent < b.count) (n : Nat) :
    s.jobLoop i (n + 1) = if (s.jobStep i b).2 then (s.jobStep i b).1.jobLoop i n else (s.jobStep i b).1 := by
  simp only [State.jobLoop, hjob, if_pos hsent]

theorem noFence_router (i : IoId) {off : Nat} (h : off < 0x1000) : NoFence ((Blk.router i).base + off) := by
  intro d
  have hi := i.isLt
  simp only [Blk.base, dieBase]
  omega

theorem State.wxDigest_fences (s : State) (i : IoId) (b : Job) : SameFences s (s.wxDigest i b) :=
  .foldl (fun _ j hj => .setReg (noFence_router i (by have := List.mem_range.1 hj; omega)) _) s

/-- A data packet of a job (R581). -/
def ShardPacketOf (b : Job) (p : Packet) : Prop :=
  p.hdr.kind = 7 ∧ p.hdr.dst = b.dst ∧ p.hdr.tag = b.tag ∧ p.hdr.context = b.context ∧ p.hdr.tcore = b.tcore ∧
    p.flits.length = 16

theorem State.shardPacket_of (s : State) (b : Job) {data : List Byte} (hlen : data.length = 4096) (p : Bool) :
    ShardPacketOf b (s.shardPacket b data p) := by
  refine ⟨rfl, rfl, ?_, rfl, rfl, ?_⟩
  · exact BitVec.eq_of_toNat_eq (by simp [State.shardPacket, State.mgPacket])
  · simp [State.shardPacket, State.mgPacket, flitsOf, hlen]

/-- A job whose source is held sends one packet and goes on. -/
theorem State.jobStep_sends (hver : b.verify = false) (hing : b.ingest = false)
    (hsrc : s.sourceOk b = true) : ∃ t data now q, s.jobStep i b = (t, true) ∧ SameFences s t ∧ ShardPacketOf b q ∧
      (t.router i).localq = (s.router i).localq ++ [q] ∧ (t.router i).job = some (b.moved data now) := by
  obtain ⟨t, data, p, hunit, ⟨hfences, hwithin⟩, hlen, -⟩ := State.jobUnit_core (s := s) hing
  have hrouter : (t.stepped i b data p).router i = { s.router i with
      localq := (s.router i).localq ++ [t.shardPacket b data p], job := some (b.moved data t.car) } := by
    simp [State.stepped, hver, State.setJob, State.inject, hwithin.router (by simp)]
  have hstepped : SameFences s (t.stepped i b data p) := by
    refine hfences.trans (.of_regs ?_)
    rw [State.stepped, hver]
    rfl
  refine ⟨_, data, t.car, _, State.jobStep_eq hsrc hunit, ?_, t.shardPacket_of b hlen p, ?_⟩
  · split
    · exact hstepped.trans (State.wxDigest_fences _ _ _)
    · exact hstepped
  · have hdigest : ((t.stepped i b data p).wxDigest i (b.moved data t.car)).router i = (t.stepped i b data p).router i :=
      Within.router (P := [.regs]) (State.wxDigest_within _ _ (.refl _ _) (by simp)) (by simp) i
    split
    · rw [hdigest, hrouter]
      exact ⟨rfl, rfl⟩
    · rw [hrouter]
      exact ⟨rfl, rfl⟩

theorem State.jobLoop_sends (n : Nat) : ∀ {s : State} {b : Job}, (s.router i).job = some b → b.verify = false →
    b.ingest = false → s.sourceOk b = true → b.count = b.sent + n → ∃ (ps : List Packet) (b' : Job),
      ((s.jobLoop i n).router i).localq = (s.router i).localq ++ ps ∧ ps.length = n ∧ (∀ p ∈ ps, ShardPacketOf b p) ∧
      ((s.jobLoop i n).router i).job = some b' ∧ b'.sent = b.count ∧ b'.tag = b.tag := by
  induction n with
  | zero =>
    intro s b hjob _ _ _ hcount
    exact ⟨[], b, by simp [State.jobLoop], rfl, by simp, hjob, hcount.symm, rfl⟩
  | succ n ih =>
    intro s b hjob hver hing hsrc hcount
    obtain ⟨t, data, now, q, hstep, hfences, hq, hlocal, hjob'⟩ := State.jobStep_sends (i := i) hver hing hsrc
    obtain ⟨ps, b', hlocal', hlen, hps, hend⟩ := ih hjob' hver hing ((hfences.sourceOk b).trans hsrc)
      (show b.count = b.sent + 1 + n by omega)
    rw [State.jobLoop_succ hjob (by omega), hstep, if_pos rfl]
    refine ⟨q :: ps, b', by rw [hlocal', hlocal, List.append_assoc]; rfl, by simp [hlen], ?_, hend⟩
    exact List.forall_mem_cons.2 ⟨hq, hps⟩

/-! ### SEND (R581, R585, R598) -/

theorem send_sends (hjob : (s.router i).job = some b) (hver : b.verify = false) (hsent : b.sent < b.count) :
    Gives (.send i) s fun t =>
      (s.sourceOk b = false → JobEnded t i [wxSrcErr] ∧ (t.router i).localq = (s.router i).localq) ∧
      (s.sourceOk b = true → b.ingest = false → ∃ (ps : List Packet) (b' : Job),
        (t.router i).localq = (s.router i).localq ++ ps ∧ ps.length = b.count - b.sent ∧ (∀ p ∈ ps, ShardPacketOf b p) ∧
        (t.router i).job = some b' ∧ b'.sent = b.count ∧ b'.tag = b.tag) ∧
      (s.sourceOk b = true → b.ingest = true → (s.func (jobFn b)).pageReady (b.saddr + b.sent) = false → t = s) := by
  have hexec : exec (.send i) s = .next (s.jobLoop i (b.count - b.sent)) := by
    simp only [exec, execSend, hjob, hver, Bool.false_eq_true, if_false]
  obtain ⟨n, hn⟩ : ∃ n, b.count - b.sent = n + 1 := ⟨b.count - b.sent - 1, by omega⟩
  refine ⟨_, hexec, fun hsrc => ?_, fun hsrc hing => ?_, fun hsrc hing hready => ?_⟩
  · rw [hn, State.jobLoop_succ hjob hsent, State.jobStep_refused hsrc, if_neg Bool.false_ne_true]
    refine ⟨s.wxStat_wxEnd_ended i (by decide), ?_⟩
    rw [State.wxEnd_router]
    rfl
  · exact State.jobLoop_sends _ hjob hver hing hsrc (by omega)
  · have hnone : s.jobUnit b = none := by
      simp only [State.jobUnit, hing, hready, if_true, Bool.false_eq_true, if_false]
    rw [hn, State.jobLoop_succ hjob hsent, State.jobStep_waits hsrc hnone, if_neg Bool.false_ne_true]

/-! ### VERIFY (R585) -/

theorem verify_ends (hjob : (s.router i).job = some b) (hver : b.verify = true) (hing : b.ingest = false)
    (hsrc : s.sourceOk b = true) (hcount : b.count = b.sent + 1) (hk : b.saddr + b.sent < 24576) :
    Gives (.verify i) s fun t => JobEnded t i [wxDone] ∧ (t.router i).localq = (s.router i).localq ∧
      t.digestReg (.router i) 0x80 =
        sha384 (b.hashed ++ s.wsBytes (Fin.ofNat 768 b.score.toNat) (4096 * (b.saddr + b.sent)) 4096) := by
  obtain ⟨t, data, p, hunit, ⟨-, hwithin⟩, -, hdata⟩ := State.jobUnit_core (s := s) hing
  have hloop : s.jobLoop i (b.count - b.sent) = (t.stepped i b data p).wxDigest i (b.moved data t.car) := by
    rw [show b.count - b.sent = 0 + 1 by omega, State.jobLoop_succ hjob (by omega), State.jobStep_eq hsrc hunit,
      if_pos rfl, if_pos hcount.symm]
    rfl
  have hdigest : ((t.stepped i b data p).wxDigest i (b.moved data t.car)).router i =
      { s.router i with job := some (b.moved data t.car) } := by
    rw [Within.router (P := [.regs]) (State.wxDigest_within _ _ (.refl _ _) (by simp)) (by simp) i]
    simp [State.stepped, hver, State.setJob, hwithin.router (by simp)]
  have hshown : ((t.stepped i b data p).wxDigest i (b.moved data t.car)).digestReg (.router i) 0x80 =
      sha384 (b.hashed ++ data) := State.digestReg_setDigestReg ..
  generalize (t.stepped i b data p).wxDigest i (b.moved data t.car) = u at hloop hdigest hshown
  have hexec : exec (.verify i) s = .next ((u.wxStat i wxDone).wxEnd i) := by
    simp only [exec, execVerify, hjob, hver, Bool.not_true, Bool.false_eq_true, if_false, hloop, hdigest]
    exact congrArg _ (if_pos hcount.symm)
  refine ⟨_, hexec, u.wxStat_wxEnd_ended i (by decide), ?_, ?_⟩
  · rw [State.wxEnd_router]
    show (u.router i).localq = _
    rw [hdigest]
  · rw [← hdata hk, ← hshown, State.digestReg, State.digestReg]
    refine congrArg _ (List.flatMap_congr fun j hj => ?_)
    rw [State.wxEnd_reg _ i (by omega), State.wxStat_reg _ i _ (by omega)]

/-! ### The time-outs of a job (R585, R598) -/

theorem wxSendTimeout_ends (hjob : (s.router i).job = some b) (hlate : 1000 * s.fabTimeout ≤ s.car - b.lastAt)
    (hver : b.verify = false) (hsent : b.sent = b.count) (hhere : s.jobHere b = false) :
    Gives (.wxSendTimeout i) s fun t => JobEnded t i [wxDone, wxTimeout] := by
  have hexec : exec (.wxSendTimeout i) s = .next (((s.wxStat i wxTimeout).wxStat i wxDone).wxEnd i) := by
    simp only [exec, execWxSendTimeout, hjob, hver, hhere]
    rw [if_pos ⟨rfl, hsent, rfl, hlate⟩]
  refine ⟨_, hexec, State.wxEnd_ended _ i ?_⟩
  simp only [List.mem_cons, List.not_mem_nil, or_false, forall_eq_or_imp, forall_eq]
  exact ⟨State.wxStat_sets _ i (by decide), State.wxStat_keeps _ i _ (by decide) (s.wxStat_sets i (by decide))⟩

theorem ingestPageTimeout_ends (hjob : (s.router i).job = some b) (hlate : 1000 * s.fabTimeout ≤ s.car - b.lastAt)
    (hing : b.ingest = true) (hsent : b.sent < b.count) (hready : (s.func (jobFn b)).pageReady (b.saddr + b.sent) = false) :
    Gives (.ingestPageTimeout i) s fun t => JobEnded t i [wxSrcErr] := by
  have hexec : exec (.ingestPageTimeout i) s = .next ((s.wxStat i wxSrcErr).wxEnd i) := by
    simp only [exec, execIngestPageTimeout, hjob, hready]
    rw [if_pos ⟨hing, hsent, rfl, hlate⟩]
  exact ⟨_, hexec, s.wxStat_wxEnd_ended i (by decide)⟩

/-! ### SHARD_ANSWER (R585) -/

/-- A job that has had one more answer; one that is refused shows in FAB_WXSTAT. -/
def State.answerCounted (s : State) (i : IoId) (b : Job) (h : Header) : State :=
  (if h.fc.toNat % 4 ≠ 0 then s.wxStat i wxRefused else s).setJob i { b with acks := b.acks + 1 }

theorem State.answerCounted_router (s : State) (i : IoId) (b : Job) (h : Header) :
    (s.answerCounted i b h).router i = { s.router i with job := some { b with acks := b.acks + 1 } } := by
  rw [State.answerCounted, State.setJob, State.onRouter_eq, State.router_setRouter, if_pos rfl]
  split <;> rfl

theorem State.answerCounted_refused (s : State) (i : IoId) (b : Job) {h : Header} (hfc : h.fc.toNat % 4 ≠ 0) :
    (s.answerCounted i b h).reg (.router i) 0x70 / 2 ^ 2 % 2 = 1 := by
  rw [State.answerCounted, if_pos hfc]
  exact s.wxStat_sets i (bit := wxRefused) (by decide)

section
variable {e : RingPkt} (he : (s.nextMgmt i fun p => mgClass p == 8) = some e)
include he

theorem exec_shardAnswer_late (hnot : ∀ b, (s.router i).job = some b → b.tag ≠ e.pkt.hdr.tag ∨ b.verify = true) :
    exec (.shardAnswer i) s = .next ((s.takeDelivered i e).drop i dropLate) := by
  have hjob : ((s.takeDelivered i e).router i).job = (s.router i).job := by rw [State.takeDelivered_router, if_pos rfl]
  simp only [exec, execShardAnswer, he, hjob]
  split
  · rfl
  · next b hb => rw [if_pos (hnot b hb)]

theorem exec_shardAnswer_counts (hb : (s.router i).job = some b) (htag : b.tag = e.pkt.hdr.tag) (hver : b.verify = false) :
    exec (.shardAnswer i) s = .next (
      let v := (s.takeDelivered i e).answerCounted i b e.pkt.hdr
      if b.ndest ≤ b.acks + 1 ∧ b.sent = b.count then (v.wxStat i wxDone).wxEnd i else v) := by
  have hjob : ((s.takeDelivered i e).router i).job = some b := by rw [State.takeDelivered_router, if_pos rfl, ← hb]
  have hmine : ¬(b.tag ≠ e.pkt.hdr.tag ∨ b.verify = true) := by simp [htag, hver]
  simp only [exec, execShardAnswer, he, hjob]
  rw [if_neg hmine]
  rfl

theorem shardAnswer_late (hnot : ∀ b, (s.router i).job = some b → b.tag ≠ e.pkt.hdr.tag ∨ b.verify = true) :
    Gives (.shardAnswer i) s fun t => (t.router i).delivered = (s.router i).delivered.erase e ∧
      DropCounted s t i dropLate ∧ (t.router i).job = (s.router i).job := by
  refine ⟨_, exec_shardAnswer_late he hnot, ?_, dropCounted_drop _ ?_, ?_⟩ <;>
    simp [State.drop, State.takeDelivered_router]

theorem shardAnswer_counted (hb : (s.router i).job = some b) (htag : b.tag = e.pkt.hdr.tag) (hver : b.verify = false) :
    Gives (.shardAnswer i) s fun t => (t.router i).delivered = (s.router i).delivered.erase e ∧
      (e.pkt.hdr.fc.toNat % 4 ≠ 0 → t.reg (.router i) 0x70 / 2 ^ 2 % 2 = 1) ∧
      (b.acks + 1 < b.ndest → (t.router i).job = some { b with acks := b.acks + 1 }) ∧
      (b.ndest ≤ b.acks + 1 → b.sent = b.count → JobEnded t i [wxDone]) := by
  refine ⟨_, exec_shardAnswer_counts he hb htag hver, ?_⟩
  have hrouter := (s.takeDelivered i e).answerCounted_router i b e.pkt.hdr
  rw [State.takeDelivered_router, if_pos rfl] at hrouter
  have hrefused := (s.takeDelivered i e).answerCounted_refused i b (h := e.pkt.hdr)
  generalize (s.takeDelivered i e).answerCounted i b e.pkt.hdr = v at hrouter hrefused ⊢
  dsimp only
  split
  · next hlast =>
    refine ⟨?_, fun hfc => ?_, fun hmore => absurd hlast.1 (by omega), fun _ _ => v.wxStat_wxEnd_ended i (by decide)⟩
    · rw [State.wxEnd_router]
      exact congrArg Router.delivered hrouter
    · rw [State.wxEnd_reg _ i (by decide)]
      exact v.wxStat_keeps i _ (by decide) (hrefused hfc)
  · next hopen =>
    refine ⟨?_, hrefused, fun _ => ?_, fun hall hsent => absurd ⟨hall, hsent⟩ hopen⟩
    · rw [hrouter]
    · rw [hrouter]

theorem shardAnswer_answers : Gives (.shardAnswer i) s fun t =>
      (t.router i).delivered = (s.router i).delivered.erase e ∧
      ((∀ b, (s.router i).job = some b → b.tag ≠ e.pkt.hdr.tag ∨ b.verify = true) →
        DropCounted s t i dropLate ∧ (t.router i).job = (s.router i).job) ∧
      (∀ b, (s.router i).job = some b → b.tag = e.pkt.hdr.tag → b.verify = false →
        (e.pkt.hdr.fc.toNat % 4 ≠ 0 → t.reg (.router i) 0x70 / 2 ^ 2 % 2 = 1) ∧
        (b.acks + 1 < b.ndest → (t.router i).job = some { b with acks := b.acks + 1 }) ∧
        (b.ndest ≤ b.acks + 1 → b.sent = b.count → JobEnded t i [wxDone])) := by
  by_cases hnot : ∀ b, (s.router i).job = some b → b.tag ≠ e.pkt.hdr.tag ∨ b.verify = true
  · obtain ⟨t, hexec, hdelivered, hlate⟩ := shardAnswer_late he hnot
    exact ⟨t, hexec, hdelivered, fun _ => hlate, fun b hb htag hver => absurd (hnot b hb) (by simp [htag, hver])⟩
  · obtain ⟨b, hb, htag, hver⟩ : ∃ b, (s.router i).job = some b ∧ b.tag = e.pkt.hdr.tag ∧ b.verify = false := by
      simpa [not_or] using hnot
    obtain ⟨t, hexec, hdelivered, hcounted⟩ := shardAnswer_counted he hb htag hver
    refine ⟨t, hexec, hdelivered, fun h => absurd h hnot, fun b' hb' _ _ => ?_⟩
    obtain rfl : b = b' := Option.some.inj (hb.symm.trans hb')
    exact hcounted

end

end

end Sys2Proof.Machine
end


section
/-! SUPPORT. The transfers that a shard mover receives (O38). -/

namespace Sys2Proof.Machine

/-! ### The end of a transfer (R581, R583) -/

section
variable {s s' t : State} {i : IoId} {u : Transfer}

theorem ShardEnded.congr {src : Endpoint} {tag : BitVec 16} {status : Nat} (h : ShardEnded s t i src tag status)
    (hlocal : (s.router i).localq = (s'.router i).localq) (hlog : (s.router i).rxLog = (s'.router i).rxLog) :
    ShardEnded s' t i src tag status := by
  rw [ShardEnded, ← hlocal, ← hlog]
  exact h

/-- The answer that ends a transfer (R581). -/
def State.endingAnswer (s : State) (u : Transfer) (status : Nat) : Packet :=
  let p := s.mgPacket u.src false u.context u.tag.toNat 0x8000 0 (u.enclave.toNat * 1024 + status) []
  { p with hdr := { p.hdr with tcore := u.tcore, taddr := BitVec.ofNat 17 u.start } }

/-- What the end of a transfer leaves at its router: the record, the answer, and nothing or a mark in the transfer's place. -/
theorem State.transferEnd_router (s : State) (i : IoId) (u : Transfer) (status : Nat) : ∃ q : Packet,
    q.hdr.kind = 7 ∧ q.hdr.dst = u.src ∧ q.hdr.tag = u.tag ∧ q.hdr.fa = 0x8000 ∧
      q.hdr.fc = BitVec.ofNat 16 (u.enclave.toNat * 1024 + status) ∧
      (s.transferEnd i u status).router i = { s.router i with
        transfers := ((s.router i).transfers.filter fun w => !(w.src == u.src && w.tag == u.tag)) ++
          (if status = stComplete ∨ u.total ≤ u.next + 1 then [] else [{ u with dead := true }])
        rxLog := if (s.router i).rxLog.length < 64 then (s.router i).rxLog ++ [⟨status, u.tcore, u.start, sha384 u.data⟩]
          else (s.router i).rxLog
        localq := (s.router i).localq ++ [q] } := by
  have hpresent (v : State) (d : Digest) : (if status = stComplete then v.markPresent u d else v).router i = v.router i := by
    split <;> rfl
  refine ⟨s.endingAnswer u status, rfl, rfl, ?_, rfl, rfl, ?_⟩
  · exact BitVec.eq_of_toNat_eq (by simp [State.endingAnswer, State.mgPacket])
  · rw [State.transferEnd]
    dsimp only
    rw [hpresent]
    simp only [State.shardReply, State.inject, State.onRouter_eq, State.router_setRouter, if_true]
    rfl

theorem State.transferEnd_ends (s : State) (i : IoId) (u : Transfer) {status : Nat} (hs : status < 4) :
    ShardEnded s (s.transferEnd i u status) i u.src u.tag status := by
  obtain ⟨q, hkind, hdst, htag, hfa, hfc, hrouter⟩ := s.transferEnd_router i u status
  rw [ShardEnded, hrouter]
  refine ⟨⟨q, rfl, hkind, hdst, htag, hfa, ?_⟩, fun hroom => ⟨_, if_pos hroom, rfl⟩, fun hfull => if_neg (by omega)⟩
  have henc := u.enclave.isLt
  rw [hfc, BitVec.toNat_ofNat]
  omega

/-- What is left under the key of a transfer is that transfer, marked. -/
theorem State.transferEnd_transfers (s : State) (i : IoId) (u : Transfer) (status : Nat) {w : Transfer}
    (hw : w ∈ ((s.transferEnd i u status).router i).transfers) (hsrc : w.src = u.src) (htag : w.tag = u.tag) :
    status ≠ stComplete ∧ w = { u with dead := true } := by
  obtain ⟨q, -, -, -, -, -, hrouter⟩ := s.transferEnd_router i u status
  rw [hrouter] at hw
  rcases List.mem_append.1 hw with hw | hw
  · simp [hsrc, htag] at hw
  · split at hw
    · cases hw
    · next h => exact ⟨fun hc => h (.inl hc), List.mem_singleton.1 hw⟩

theorem State.setTransfer_router (s : State) (i : IoId) (u : Transfer) : (s.setTransfer i u).router i =
    { s.router i with transfers := ((s.router i).transfers.filter fun w => !(w.src == u.src && w.tag == u.tag)) ++ [u] } := by
  rw [State.setTransfer, State.onRouter_eq, State.router_setRouter, if_pos rfl]

theorem shardData_completes (hu : s.transferDue i = some u) : Gives (.shardData i) s fun t =>
    ShardEnded s t i u.src u.tag stComplete ∧ ∀ w ∈ (t.router i).transfers, ¬(w.src = u.src ∧ w.tag = u.tag) := by
  refine ⟨s.transferEnd i u stComplete, by simp only [exec, execShardData, hu], s.transferEnd_ends i u (by decide),
    fun w hw hkey => ?_⟩
  exact (s.transferEnd_transfers i u stComplete hw hkey.1 hkey.2).1 rfl

/-! ### A packet of a transfer (R578, R583, R584) -/

/-- The lines of a shard's packet on their way to their core. -/
def packetChunks (p : Packet) : List (Line × Bool) := (chunksOf 64 64 (packetBytes p)).map fun l => (bytesLine l, false)

theorem State.shardWrite_eq (s : State) (u : Transfer) (p : Packet) : s.shardWrite u (packetBytes p) p.hdr.poison =
    s.enterNear u.context (Fin.ofNat 768 u.tcore.toNat) 3 3 (.swap (4096 * (u.start + u.next)) p.hdr.poison) false
      (packetChunks p) := rfl

theorem Toward.of_cores {x : Ctx} {c : CoreId} {cls sub : Nat} {h : DynBody} {p : Bool} {ls : List (Line × Bool)}
    (ht : Toward s t x c cls sub h p ls) (hc : s'.cores = t.cores) : Toward s s' x c cls sub h p ls := by
  intro io q hq
  have hcore : s'.core q = t.core q := by simp only [State.core, hc]
  rw [hcore]
  exact ht io q hq

theorem State.transferEnd_cores (s : State) (i : IoId) (u : Transfer) (status : Nat) :
    (s.transferEnd i u status).cores = s.cores :=
  (State.transferEnd_within (Ps := [.ctxs, .routers]) _ _ _ (.refl _ _) (by simp) (by simp)).part .cores (by simp)

theorem State.shardTake_takes (s : State) (i : IoId) (u : Transfer) (p : Packet) (hhome : s.shardHome u = true)
    (hnext : p.hdr.fb.toNat = u.next) : ∃ v, Within [.cores] s v ∧
      Toward s v u.context (Fin.ofNat 768 u.tcore.toNat) 3 3 (.swap (4096 * (u.start + u.next)) p.hdr.poison) false
        (packetChunks p) ∧
      s.shardTake i u p = if p.hdr.poison then v.transferEnd i { u with lastAt := s.now } stPoisoned
        else v.setTransfer i { u with next := u.next + 1, data := u.data ++ packetBytes p, lastAt := s.now } := by
  refine ⟨_, s.enterNear_within _ _ _ _ _ _ _, s.enterNear_toward _ _ _ _ _ _ _, ?_⟩
  have hhome' : s.shardHome { u with lastAt := s.now } = true := hhome
  simp only [State.shardTake, hhome', hnext, Bool.not_true, Bool.false_eq_true, if_false, ne_eq, not_true_eq_false]
  rfl

theorem State.shardTake_refused {p : Packet} (hhome : s.shardHome u = false) :
    s.shardTake i u p = s.transferEnd i { u with lastAt := s.now } stRefused := by
  have hhome' : s.shardHome { u with lastAt := s.now } = false := hhome
  simp only [State.shardTake, hhome', Bool.not_false, if_true]

theorem State.shardTake_order {p : Packet} (hhome : s.shardHome u = true) (hnext : p.hdr.fb.toNat ≠ u.next) :
    s.shardTake i u p = s.transferEnd i { u with lastAt := s.now } stOrder := by
  have hhome' : s.shardHome { u with lastAt := s.now } = true := hhome
  simp only [State.shardTake, hhome', Bool.not_true, Bool.false_eq_true, if_false, if_pos hnext]

theorem State.shardTake_result (s : State) (i : IoId) (u : Transfer) (p : Packet) :
    (s.shardHome u = false → ShardEnded s (s.shardTake i u p) i u.src u.tag stRefused) ∧
    (s.shardHome u = true → p.hdr.fb.toNat ≠ u.next → ShardEnded s (s.shardTake i u p) i u.src u.tag stOrder) ∧
    (s.shardHome u = true → p.hdr.fb.toNat = u.next →
      Toward s (s.shardTake i u p) u.context (Fin.ofNat 768 u.tcore.toNat) 3 3 (.swap (4096 * (u.start + u.next)) p.hdr.poison)
        false (packetChunks p) ∧
      (p.hdr.poison = true → ShardEnded s (s.shardTake i u p) i u.src u.tag stPoisoned) ∧
      (p.hdr.poison = false → { u with next := u.next + 1, data := u.data ++ packetBytes p, lastAt := s.now } ∈
        ((s.shardTake i u p).router i).transfers ∧ ((s.shardTake i u p).router i).localq = (s.router i).localq)) := by
  refine ⟨fun hhome => ?_, fun hhome hnext => ?_, fun hhome hnext => ?_⟩
  · rw [State.shardTake_refused hhome]
    exact s.transferEnd_ends i { u with lastAt := s.now } (by decide)
  · rw [State.shardTake_order hhome hnext]
    exact s.transferEnd_ends i { u with lastAt := s.now } (by decide)
  · obtain ⟨v, hwithin, htoward, htake⟩ := s.shardTake_takes i u p hhome hnext
    have hrouter := hwithin.router (by simp) i
    refine ⟨?_, fun hp => ?_, fun hp => ?_⟩
    · rw [htake]
      split
      · exact htoward.of_cores (v.transferEnd_cores ..)
      · exact htoward.of_cores rfl
    · rw [htake, if_pos hp]
      exact (v.transferEnd_ends i { u with lastAt := s.now } (status := stPoisoned) (by decide)).congr
        (by rw [hrouter]) (by rw [hrouter])
    · rw [htake, if_neg (Bool.eq_false_iff.1 hp), State.setTransfer_router, ← hrouter]
      exact ⟨List.mem_append_right _ (List.mem_singleton_self _), rfl⟩

theorem State.shardTake_delivered (s : State) (i : IoId) (u : Transfer) (p : Packet) :
    ((s.shardTake i u p).router i).delivered = (s.router i).delivered := by
  have hended (v : State) (status : Nat) :
      ((v.transferEnd i { u with lastAt := s.now } status).router i).delivered = (v.router i).delivered := by
    obtain ⟨q, -, -, -, -, -, hrouter⟩ := v.transferEnd_router i { u with lastAt := s.now } status
    rw [hrouter]
  by_cases hhome : s.shardHome u = true
  · by_cases hnext : p.hdr.fb.toNat = u.next
    · obtain ⟨v, hwithin, -, htake⟩ := s.shardTake_takes i u p hhome hnext
      rw [htake, ← hwithin.router (by simp) i]
      split
      · exact hended v _
      · rw [State.setTransfer_router]
    · rw [State.shardTake_order hhome hnext, hended]
  · rw [State.shardTake_refused (Bool.eq_false_iff.2 hhome), hended]

/-- A transfer keeps its place and length in what the next of its packets leaves. -/
theorem State.shardTake_transfers (s : State) (i : IoId) (u : Transfer) (p : Packet) {w : Transfer}
    (hw : w ∈ ((s.shardTake i u p).router i).transfers) (hsrc : w.src = u.src) (htag : w.tag = u.tag) :
    w.total = u.total ∧ w.tcore = u.tcore := by
  have hended (v : State) (status : Nat) (hw : w ∈ ((v.transferEnd i { u with lastAt := s.now } status).router i).transfers) :
      w.total = u.total ∧ w.tcore = u.tcore := by
    obtain ⟨-, rfl⟩ := v.transferEnd_transfers i { u with lastAt := s.now } status hw hsrc htag
    exact ⟨rfl, rfl⟩
  by_cases hhome : s.shardHome u = true
  · by_cases hnext : p.hdr.fb.toNat = u.next
    · obtain ⟨v, -, -, htake⟩ := s.shardTake_takes i u p hhome hnext
      rw [htake] at hw
      split at hw
      · exact hended _ _ hw
      · rw [State.setTransfer_router] at hw
        rcases List.mem_append.1 hw with hw | hw
        · simp [hsrc, htag] at hw
        · rw [List.mem_singleton.1 hw]
          exact ⟨rfl, rfl⟩
    · rw [State.shardTake_order hhome hnext] at hw
      exact hended _ _ hw
  · rw [State.shardTake_refused (Bool.eq_false_iff.2 hhome)] at hw
    exact hended _ _ hw

/-! ### SHARD_DATA (R578, R583, R584) -/

theorem State.takeDelivered_transfers (s : State) (i : IoId) (e : RingPkt) :
    ((s.takeDelivered i e).router i).transfers = (s.router i).transfers := by
  rw [State.takeDelivered_router, if_pos rfl]

section
variable {e : RingPkt} (hdue : s.transferDue i = none) (he : s.nextMgmt i isShard = some e)
include hdue he

theorem exec_shardData_first (hnone : ((s.router i).transfers.find? fun t => t.is e.pkt.hdr) = none) :
    exec (.shardData i) s = .next ((s.takeDelivered i e).shardBegin i e.pkt) := by
  simp only [exec, execShardData, hdue, he, State.takeDelivered_transfers, hnone]

theorem exec_shardData_next (hu : ((s.router i).transfers.find? fun t => t.is e.pkt.hdr) = some u) (hdead : u.dead = false) :
    exec (.shardData i) s = .next ((s.takeDelivered i e).shardTake i u e.pkt) := by
  simp only [exec, execShardData, hdue, he, State.takeDelivered_transfers, hu, hdead, Bool.false_eq_true, false_and, if_false]

theorem shardData_takes (hu : ((s.router i).transfers.find? fun t => t.is e.pkt.hdr) = some u) (hdead : u.dead = false) :
    Gives (.shardData i) s fun t => (t.router i).delivered = (s.router i).delivered.erase e ∧
      (s.shardHome u = false → ShardEnded s t i u.src u.tag stRefused) ∧
      (s.shardHome u = true → e.pkt.hdr.fb.toNat ≠ u.next → ShardEnded s t i u.src u.tag stOrder) ∧
      (s.shardHome u = true → e.pkt.hdr.fb.toNat = u.next →
        Toward s t u.context (Fin.ofNat 768 u.tcore.toNat) 3 3 (.swap (4096 * (u.start + u.next)) e.pkt.hdr.poison) false
          (packetChunks e.pkt) ∧
        (e.pkt.hdr.poison = true → ShardEnded s t i u.src u.tag stPoisoned) ∧
        (e.pkt.hdr.poison = false → { u with next := u.next + 1, data := u.data ++ packetBytes e.pkt, lastAt := s.now } ∈
          (t.router i).transfers ∧ (t.router i).localq = (s.router i).localq)) := by
  have hexec := exec_shardData_next hdue he hu hdead
  have hwithin : Within [.links, .routers] s (s.takeDelivered i e) :=
    State.takeDelivered_within _ _ (.refl _ _) (by simp) (by simp)
  have hregs : (s.takeDelivered i e).regs = s.regs := hwithin.part .regs (by simp)
  have hcore (q : CoreId) : (s.core q).portIn = ((s.takeDelivered i e).core q).portIn := by rw [hwithin.core (by simp)]
  have htaken : (s.takeDelivered i e).router i = { s.router i with delivered := (s.router i).delivered.erase e } := by
    rw [State.takeDelivered_router, if_pos rfl]
  have hended {t : State} {status : Nat} (h : ShardEnded (s.takeDelivered i e) t i u.src u.tag status) :
      ShardEnded s t i u.src u.tag status := h.congr (by rw [htaken]) (by rw [htaken])
  obtain ⟨hrefused, horder, htakes⟩ := (s.takeDelivered i e).shardTake_result i u e.pkt
  rw [State.shardHome_congr hregs] at hrefused horder htakes
  refine ⟨_, hexec, ?_, fun h => hended (hrefused h), fun h hn => hended (horder h hn), fun h hn => ?_⟩
  · rw [State.shardTake_delivered, htaken]
  · obtain ⟨htoward, hpoisoned, hgood⟩ := htakes h hn
    refine ⟨htoward.congr hregs.symm hwithin.clock.1.symm hcore, fun hp => hended (hpoisoned hp), fun hp => ?_⟩
    obtain ⟨hmem, hlocal⟩ := hgood hp
    rw [show (s.takeDelivered i e).now = s.now from hwithin.clock.2] at hmem
    exact ⟨hmem, hlocal.trans (by rw [htaken])⟩

/-- The transfer that a first packet begins (R581). -/
def Transfer.begun (h : Header) (now : Nat) : Transfer :=
  ⟨h.src, h.tag, h.tcore, h.taddr.toNat % 32768, h.fa.toNat + 1, 0, 0, [], now, h.context,
    BitVec.ofNat 6 (h.fc.toNat / 1024), false⟩

theorem shardData_begins (hnone : ((s.router i).transfers.find? fun t => t.is e.pkt.hdr) = none) :
    Gives (.shardData i) s fun t =>
      (64 ≤ (s.router i).rxLog.length → ShardEnded s t i e.pkt.hdr.src e.pkt.hdr.tag stRefused ∧ t.cores = s.cores) ∧
      (∀ u ∈ (t.router i).transfers, u.is e.pkt.hdr = true →
        u.total = e.pkt.hdr.fa.toNat + 1 ∧ u.tcore = e.pkt.hdr.tcore) := by
  have hexec := exec_shardData_first hdue he hnone
  have htaken : (s.takeDelivered i e).router i = { s.router i with delivered := (s.router i).delivered.erase e } := by
    rw [State.takeDelivered_router, if_pos rfl]
  have hcores : (s.takeDelivered i e).cores = s.cores :=
    (State.takeDelivered_within (Ps := [.links, .routers]) _ _ (.refl _ _) (by simp) (by simp)).part .cores (by simp)
  generalize s.takeDelivered i e = v at hexec htaken hcores
  refine ⟨_, hexec, fun hfull => ?_, fun w hw hkey => ?_⟩
  · have hrefused : v.shardBegin i e.pkt = v.transferEnd i (Transfer.begun e.pkt.hdr v.now) stRefused := by
      have hlog : 64 ≤ (v.router i).rxLog.length := by rwa [htaken]
      exact if_pos (.inr (.inr (.inr (.inl hlog))))
    rw [hrefused]
    exact ⟨(v.transferEnd_ends i (Transfer.begun e.pkt.hdr v.now) (by decide)).congr (by rw [htaken]) (by rw [htaken]),
      (v.transferEnd_cores ..).trans hcores⟩
  · obtain ⟨hsrc, htag⟩ : w.src = e.pkt.hdr.src ∧ w.tag = e.pkt.hdr.tag := by simpa [Transfer.is] using hkey
    have hbegun : v.shardBegin i e.pkt = v.transferEnd i (Transfer.begun e.pkt.hdr v.now) stRefused ∨
        v.shardBegin i e.pkt = v.shardTake i (Transfer.begun e.pkt.hdr v.now) e.pkt := ite_eq_or_eq ..
    rcases hbegun with heq | heq
    · rw [heq] at hw
      obtain ⟨-, rfl⟩ := v.transferEnd_transfers i (Transfer.begun e.pkt.hdr v.now) stRefused hw hsrc htag
      exact ⟨rfl, rfl⟩
    · rw [heq] at hw
      exact v.shardTake_transfers i (Transfer.begun e.pkt.hdr v.now) e.pkt hw hsrc htag

end

end

/-! ### Packets that reach their core (R336, R583) -/

theorem State.foldl_onRouter_router (g : IoId → Router → Router) {l : List IoId} (hl : l.Nodup) (s : State) (j : IoId) :
    (l.foldl (fun s i => s.onRouter i (g i)) s).router j = if j ∈ l then g j (s.router j) else s.router j := by
  induction l generalizing s with
  | nil => simp
  | cons a l ih =>
    obtain ⟨ha, hl⟩ := List.nodup_cons.1 hl
    rw [List.foldl_cons, ih hl, State.onRouter_eq, State.router_setRouter]
    by_cases hja : j = a
    · subst hja
      simp [ha]
    · simp [hja]

theorem State.foldl_onRouter_within (g : IoId → Router → Router) (l : List IoId) (s : State) :
    Within [.routers] s (l.foldl (fun s i => s.onRouter i (g i)) s) :=
  .foldl _ _ (.refl _ _) fun _ _ h => State.onRouter_within _ _ h (by simp)

/-- A router whose transfers note that a packet for a core has reached it. -/
def Router.arrived (c : CoreId) (addr : Nat) (r : Router) : Router :=
  { r with transfers := r.transfers.map (Transfer.arrive c addr) }

theorem State.asmDone_swap (s : State) (c : CoreId) (a : Asm) {addr : Nat} {uce : Bool} (ha : a.head.body = .swap addr uce) :
    let t := s.asmDone c a
    (t.core c).wsPend = (s.core c).wsPend ++
      a.lines.zipIdx.map (fun l => ⟨addr + 64 * l.2, lineBytes l.1.1, uce || (a.head.poison || a.lines.any Prod.snd)⟩) ∧
    t.ws = s.ws ∧
    ∀ (i : IoId), ∀ u ∈ (s.router i).transfers, u.tcore.toNat = c.val → 4096 * u.start ≤ addr →
      addr < 4096 * (u.start + u.total) → { u with arrived := u.arrived + 1 } ∈ (t.router i).transfers := by
  have hdone : s.asmDone c a = (List.finRange 4).foldl (fun s i => s.onRouter i (Router.arrived c addr))
      ((s.onCore c fun k => { k with asm := none }).onCore c fun k => { k with
        wsPend := k.wsPend ++ a.lines.zipIdx.map fun l =>
          ⟨addr + 64 * l.2, lineBytes l.1.1, uce || (a.head.poison || a.lines.any Prod.snd)⟩ }) := by
    simp only [State.asmDone, ha]
    rfl
  rw [hdone]
  refine ⟨?_, ?_, fun i u hu hcore hlow hhigh => ?_⟩
  · rw [State.core, State.foldl_onRouter_cores, ← State.core, State.core_onCore, State.core_onCore]
  · exact ((State.foldl_onRouter_within (fun _ => Router.arrived c addr) _ _).part .ws (by simp)).1
  · rw [State.foldl_onRouter_router (fun _ => Router.arrived c addr) (List.nodup_finRange 4), if_pos (List.mem_finRange i)]
    exact List.mem_map.2 ⟨u, hu, if_pos ⟨hcore, hlow, hhigh⟩⟩

theorem fabWxrpop_removes (s : State) (i : IoId) : Gives (.fabWxrpop i) s fun t =>
    (t.router i).rxLog = (s.router i).rxLog.tail ∧ t.regs = s.regs := by
  refine ⟨_, rfl, ?_, rfl⟩
  rw [State.wxrPop, State.onRouter_eq, State.router_setRouter, if_pos rfl, List.drop_one]

/-- Settles O38, clause by clause: the jobs of a mover and their time-outs, the transfers that it receives, a packet at its core,
the answers to a job and the receive log. -/
theorem shardJobsAndTransfersOfAnIoDie : Obligations.ShardJobsAndTransfersOfAnIoDie :=
  ⟨fun _ _ _ => send_sends, fun _ _ _ => verify_ends,
    fun _ _ _ hjob hlate => ⟨wxSendTimeout_ends hjob hlate, ingestPageTimeout_ends hjob hlate⟩,
    fun _ _ _ => shardData_completes, fun _ _ _ _ => shardData_takes, fun _ _ _ => shardData_begins,
    fun s c a _ _ => s.asmDone_swap c a, fun _ _ _ => shardAnswer_answers, fabWxrpop_removes⟩

end Sys2Proof.Machine
end

section
/-! SUPPORT. The state after reset (O47), and which bytes of activation memory a store changes (O58). -/

namespace Sys2Proof.Machine

/-! ### Reset (R333, R752) -/

@[simp] theorem Store.wf_nil {α : Type} [DecidableEq α] (d : α) : Store.wf d [] = true := rfl

/-- Settles O47: every table and memory of the reset state is empty. -/
theorem resetIsCanonical : Obligations.ResetIsCanonical := by
  simp [Obligations.ResetIsCanonical, State.canonical, State.reset]

/-! ### Reads of activation memory (R351) -/

section
variable {s t : State} {c : CoreId}

theorem Within.am {P : List Part} (h : Within P s t) (hp : .am ∉ P) : t.am = s.am := (h.part .am hp).1

theorem State.amReadWord_am (s : State) (c : CoreId) (e : Nat × MemErr) : (s.amReadWord c e).am = s.am := by
  unfold State.amReadWord
  dsimp only
  split
  · rfl
  · exact (State.logCe_within (Ps := [.regs, .cores]) _ _ _ _ (.refl _ _) (by simp) (by simp)).am (by simp)
  · exact (State.logUce_within (Ps := [.regs]) _ _ _ (.refl _ _) (by simp)).am (by simp)

/-- A read marks what it finds wrong, and stores nothing. -/
theorem State.amRead_am (s : State) (c : CoreId) (a n : Nat) : (s.amRead c a n).1.am = s.am :=
  List.foldlRecOn (motive := fun t : State => t.am = s.am) _ _ rfl fun t ht e _ => (t.amReadWord_am c e).trans ht

theorem State.readVec_am (s : State) (c : CoreId) (v : VecAt) : (s.readVec c v).1.am = s.am := by
  have hread (t : State) (a n : Nat) : (t.amReadAny c a n).1.am = t.am := by
    unfold State.amReadAny
    split
    · rfl
    · exact t.amRead_am c a n
  exact (hread _ _ _).trans (hread s _ _)

theorem State.claimDyn_am (s : State) (c : CoreId) (at_ mask above : Nat) : (s.claimDyn c at_ mask above).1.am = s.am :=
  (State.claimDyn_within (Ps := [.cores]) _ _ _ _ (.refl _ _) (by simp)).am (by simp)

/-! ### Commands that only read it, or send lines toward it (R345, R539, R603, R739) -/

theorem State.fetchX_am (s : State) (c : CoreId) : (s.fetchX c).am = s.am := by
  unfold State.fetchX
  split
  · rfl
  · split
    · rfl
    · next hclaim =>
      refine (State.enterVec_within (Ps := [.cores]) _ _ _ _ (State.onArr_within _ _ (.refl _ _) (by simp)) (by simp)).am
        (by simp) |>.trans ?_
      exact (State.readVec_am _ _ _).trans ((congrArg (State.am ∘ Prod.fst) hclaim).symm.trans (s.claimDyn_am ..))

theorem State.fetchY_am (s : State) (c : CoreId) : (s.fetchY c).am = s.am := by
  unfold State.fetchY
  split
  · rfl
  · split
    · rfl
    · next hclaim =>
      exact (State.readVec_am _ _ _).trans ((congrArg (State.am ∘ Prod.fst) hclaim).symm.trans (s.claimDyn_am ..))

theorem State.answer_am (s : State) (w : Option Word32) (v : Nat) : (s.answer w v).am = s.am :=
  (State.answer_within (Ps := []) w v (.refl _ s)).am (by simp)

/-- A debug write takes its lanes and waits for the next ac, as every dynamic write does. -/
theorem State.dbgAm_am (s : State) (late : Bool) (c : CoreId) (a : Nat) (w : Option Word32) :
    (s.dbgAm late c a w).1.am = s.am := by
  unfold State.dbgAm
  split
  · rfl
  · cases w with
    | some v =>
      dsimp only
      split
      · exact (State.amPut_within (Ps := [.cores]) _ _ _ _
          (State.claimPut_within _ _ _ (.refl _ s) (by simp)) (by simp)).am (by simp)
      · rfl
    | none =>
      dsimp only
      split
      · exact (State.answer_am ..).trans ((State.amRead_am ..).trans (s.claimDyn_am ..))
      · rfl

theorem State.dbgServe_am_kept (s : State) (late : Bool) (addr : Nat) (w : Option Word32) :
    (s.dbgServe late addr w).1.am = s.am := by
  unfold State.dbgServe
  split
  · exact (State.answer_am ..).trans ((State.hostFault_within (Ps := [.regs]) _ _ (.refl _ s) (by simp)).am (by simp))
  · split
    · exact s.answer_am w _
    · split
      · exact s.answer_am w _
      · split
        · exact (State.dbgCs_within (Ps := [.regs, .cs, .dies]) _ _ _ (.refl _ s) (by simp) (by simp) (by simp)).am (by simp)
        · exact s.dbgAm_am late _ _ w
        · exact (State.dbgPsm_within (Ps := [.regs, .psm, .cores]) _ _ _ (.refl _ s) (by simp) (by simp) (by simp)).am
            (by simp)

theorem feederFetch_readsAm : Gives (.feederFetch c) s fun t => t.am = s.am :=
  ⟨_, rfl, (State.fetchY_am ..).trans (State.fetchX_am ..)⟩

theorem debugWindowAccess_readsAm (addr : BitVec 36) (w : Option Word32) :
    Gives (.debugWindowAccess addr w) s fun t => t.am = s.am := by
  refine ⟨_, rfl, ?_⟩
  dsimp only
  split
  · rfl
  · split
    · exact s.dbgServe_am_kept ..
    · exact s.dbgServe_am_kept ..

/-- Of the commands that store nothing in activation memory, two leave marks there of what they read. -/
theorem onlyReadsAm_cases {i : Instr} (h : onlyReadsAm i = true) :
    .am ∉ footprint i ∨ (∃ c, i = .feederFetch c) ∨ ∃ addr w, i = .debugWindowAccess addr w := by
  unfold onlyReadsAm at h
  split at h
  case h_3 => exact .inr (.inl ⟨_, rfl⟩)
  case h_11 => exact .inr (.inr ⟨_, _, rfl⟩)
  case h_12 => cases h
  all_goals exact .inl (by simp [footprint])

theorem onlyReadsAm_keeps {i : Instr} (h : onlyReadsAm i = true) : Gives i s fun t => t.am = s.am := by
  rcases onlyReadsAm_cases h with hfoot | ⟨c, rfl⟩ | ⟨addr, w, rfl⟩
  · obtain ⟨t, ht⟩ := exec_next i s
    exact ⟨t, ht, (stays i s t ht).am hfoot⟩
  · exact feederFetch_readsAm
  · exact debugWindowAccess_readsAm addr w

/-! ### Writes of activation memory (R343, R345, R348) -/

theorem AmKept.of_am {a n : Nat} (h : t.am = s.am) : AmKept s t c a n := fun _ _ => by rw [h]

theorem State.amWrite_amKept (s : State) (c : CoreId) (a : Nat) (b : List Byte) (p : Bool) :
    AmKept s (s.amWrite c a b p) c a b.length := fun _ hx => by
  rw [State.amWrite_am]
  exact Memory.byte_setBytes_out _ _ hx

/-- A write that has lost its lanes marks its lines and stores nothing. -/
theorem State.timedPut_lost {x : Timed} (h : x.lost = true) (b : List Byte) (p : Bool) : (s.timedPut c x b p).am = s.am := by
  rw [State.timedPut, if_pos h, State.poisonLines_am]
  exact (State.amConflict_within (Ps := [.regs, .cores]) _ (.refl _ s) (by simp) (by simp)).am (by simp)

theorem State.timedPut_amKept {x : Timed} (h : x.lost = false) (b : List Byte) (p : Bool) :
    AmKept s (s.timedPut c x b p) c x.addr b.length := by
  rw [State.timedPut, h]
  exact s.amWrite_amKept c x.addr b p

/-! ### Lines that arrive at their core (R539, R541, R603) -/

/-- What follows a line at its core: the end of its packet, or the place of the next line. -/
def State.fabFollow (s : State) (c : CoreId) (a : Asm) (k : Nat) : State :=
  if a.lines.length ≤ k + 1 then s.fabDone c a else s.onCore c fun q => { q with fabNext := k + 1 }

theorem State.fabFollow_am (s : State) (c : CoreId) (a : Asm) (k : Nat) : (s.fabFollow c a k).am = s.am := by
  unfold State.fabFollow
  split
  · exact (s.fabDone_leaves c a).2.2
  · rfl

theorem State.fabStore_noLine (h : ∀ a rest, (s.core c).fabIn = a :: rest → a.lineAt (s.core c).fabNext = none) :
    (s.fabStore c).am = s.am := by
  unfold State.fabStore
  split
  · rfl
  · next a rest hin =>
    dsimp only
    rw [h a rest hin]
    split
    · next h => cases h
    · split
      · rfl
      · exact (State.fabFollow_am _ c a _).trans
          ((State.resultLine_within (Ps := [.psm, .cores]) _ _ _ _ _ _ (.refl _ s) (by simp) (by simp)).am (by simp))
    · exact s.fabFollow_am c a _

theorem State.fabStore_amKept {a : Asm} {rest : List Asm} {l : Nat} (hin : (s.core c).fabIn = a :: rest)
    (hl : a.lineAt (s.core c).fabNext = some l) : AmKept s (s.fabStore c) c (64 * l) 64 := by
  unfold State.fabStore
  simp only [hin, hl]
  split
  · exact .of_am (s.fabFollow_am c a _)
  · split
    · next hclaim => exact .of_am ((congrArg (State.am ∘ Prod.fst) hclaim).symm.trans (s.claimDyn_am ..))
    · next u hclaim =>
      have hu : u.am = s.am := (congrArg (State.am ∘ Prod.fst) hclaim).symm.trans (s.claimDyn_am ..)
      intro x hx
      rw [← hu]
      refine (congrArg (Memory.byte · x) (State.fabFollow_am _ c a _)).trans (u.amWrite_amKept c _ _ _ x ?_)
      rwa [lineBytes, leBytes_length]

end

end Sys2Proof.Machine
end

section
/-! SUPPORT. Which bytes of data SRAM the control core's stores and long instructions change (O58). -/

namespace Sys2Proof.Machine

section
variable {s t u : State} {d : DieId} {a n : Nat}

theorem Within.dram {P : List Part} (h : Within P s t) (hp : .dram ∉ P) : t.dram = s.dram := (h.part .dram hp).1

theorem DramKept.of_dram (h : t.dram = s.dram) : DramKept s t d a n := fun _ _ => by rw [h]

theorem DramKept.trans (h : DramKept s t d a n) (g : DramKept t u d a n) : DramKept s u d a n :=
  fun x hx => (g x hx).trans (h x hx)

theorem DramKept.then_dram (h : DramKept s t d a n) (hu : u.dram = t.dram) : DramKept s u d a n := h.trans (.of_dram hu)

/-! ### The store buffer (R446) -/

/-- The store buffers of two states hold the same entries. -/
def KeepsStores (s t : State) : Prop := ∀ d, (t.die d).stbuf = (s.die d).stbuf

theorem KeepsStores.refl (s : State) : KeepsStores s s := fun _ => rfl

theorem KeepsStores.trans (h : KeepsStores s t) (g : KeepsStores t u) : KeepsStores s u := fun d => (g d).trans (h d)

theorem KeepsStores.of_within {P : List Part} (h : Within P s t) (hp : .dies ∉ P) : KeepsStores s t := fun d => by
  rw [h.die hp]

theorem KeepsStores.onDie {f : Die → Die} (hf : ∀ k, (f k).stbuf = k.stbuf) : KeepsStores s (s.onDie d f) := fun e => by
  rw [State.onDie_eq, State.die_setDie]
  split
  · next h => rw [hf, h]
  · rfl

theorem KeepsStores.onPgm (d : DieId) (f : Pgm → Pgm) : KeepsStores s (s.onPgm d f) := .onDie fun _ => rfl

theorem KeepsStores.foldl {α : Type} {f : State → α → State} (hf : ∀ s a, KeepsStores s (f s a)) (l : List α) :
    KeepsStores s (l.foldl f s) :=
  List.foldlRecOn (motive := KeepsStores s) _ _ (.refl s) fun t ht a _ => ht.trans (hf t a)

/-- A change of registers alone leaves the buffers. -/
theorem KeepsStores.then_regs (h : KeepsStores s t) (g : Within [.regs] t u) : KeepsStores s u :=
  h.trans (.of_within g (by simp))

theorem State.plainWrite_keepsStores (b : Blk) (off v : Nat) : KeepsStores s (s.plainWrite b off v) :=
  .of_within (State.plainWrite_within (Ps := [.regs, .cores, .mod]) _ _ _ (.refl _ s) (by simp) (by simp) (by simp)) (by simp)

theorem State.cqDieWrite_keepsStores (d : DieId) (fromMc : Bool) (off v : Nat) :
    KeepsStores s (s.cqDieWrite d fromMc off v) := by
  have hdone : KeepsStores s (s.ccDone d) := by
    unfold State.ccDone
    split
    · exact (KeepsStores.refl s).then_regs (State.ccFault_regs ..)
    · exact KeepsStores.trans (.of_within (State.setFld_within (Ps := [.regs]) _ _ _ _ _ (.refl _ s) (by simp)) (by simp))
        (.onDie fun _ => rfl)
  have hpush (q : Bool) (n : BitVec 6) (t : Token) : KeepsStores s (s.pushGo d q n t) := by
    unfold State.pushGo
    split
    · exact (KeepsStores.refl s).then_regs (State.ccFault_regs ..)
    · exact KeepsStores.trans (.of_within (State.setReg_within (P := [.regs]) _ _ _ (.refl _ s) (by simp)) (by simp))
        (.onDie fun _ => rfl)
  have habort (mask : Word64) : KeepsStores s (s.abortWrite d mask) :=
    .of_within (State.abortWrite_within (Ps := [.deferred]) _ _ (.refl _ s) (by simp)) (by simp)
  unfold State.cqDieWrite
  split_ifs
  · exact (State.plainWrite_keepsStores _ _ _).trans (.onDie fun _ => rfl)
  · exact hdone
  · exact .refl s
  · exact hpush _ _ _
  · exact habort _
  · exact habort _
  · exact .of_within (State.mboxDoor_within (Ps := [.regs]) _ _ (.refl _ s) (by simp)) (by simp)
  · exact .refl s
  · exact State.plainWrite_keepsStores _ _ _

theorem State.pgmWrite_keepsStores (d : DieId) (off v : Nat) : KeepsStores s (s.pgmWrite d off v) := by
  have hraise (bit : Nat) : KeepsStores s (s.raise (.pgm d) 0x14 bit) :=
    .of_within (State.raise_within (Ps := [.regs]) _ _ _ (.refl _ s) (by simp)) (by simp)
  have hinit : KeepsStores s (s.pgmInitReq d) := by
    unfold State.pgmInitReq
    split
    · exact hraise 9
    · exact (KeepsStores.onPgm d _).then_regs (State.orReg_within _ _ _ (.refl _ _) (by simp))
  have hpush (w : Word64) : KeepsStores s (s.pgmPush d w) := by
    unfold State.pgmPush
    split
    · exact hraise 7
    · exact .onPgm _ _
  have hretire (slice row : Nat) : KeepsStores s (s.pgmRetire d slice row) := by
    have hset : KeepsStores s ((s.setReg (.pgm d) 0x50 (slice * 16384 + row)).onPgm d fun p => { p with lastSlice := slice }) :=
      KeepsStores.trans (.of_within (State.setReg_within (P := [.regs]) _ _ _ (.refl _ s) (by simp)) (by simp)) (.onPgm _ _)
    unfold State.pgmRetire
    dsimp only
    split_ifs
    · exact hraise 9
    · exact hset.then_regs (State.orReg_within _ _ _ (.refl _ _) (by simp))
    · exact (hset.trans (.onPgm _ _)).then_regs (State.orReg_within _ _ _ (.refl _ _) (by simp))
  unfold State.pgmWrite
  split_ifs
  · exact hinit
  · exact .refl s
  · exact .onPgm _ _
  · exact hpush _
  · exact .onPgm _ _
  · exact .refl s
  · exact .onPgm _ _
  · exact .refl s
  · exact hretire _ _
  · exact State.plainWrite_keepsStores _ _ _

theorem State.releaseCore_keepsStores (c : CoreId) : KeepsStores s (s.releaseCore c) := by
  have hbefore : Within [.regs, .cores] s ((s.abandon c).arrDrain c) :=
    State.arrDrain_within _ (State.abandon_within _ (.refl _ _) (by simp)) (by simp) (by simp)
  have hops (t : State) : KeepsStores t (t.poisonOps c) :=
    KeepsStores.trans (.of_within (State.onCore_within (Ps := [.cores]) _ _ (.refl _ t) (by simp)) (by simp)) (.onDie fun _ => rfl)
  have hafter (t : State) : Within [.regs, .cores] t ((t.stopP c).stopQ c) :=
    State.stopQ_within _ (State.stopP_within _ (.refl _ _) (by simp)) (by simp) (by simp)
  exact ((KeepsStores.of_within hbefore (by simp)).trans (hops _)).trans (.of_within (hafter _) (by simp))

theorem State.secDieWrite_keepsStores (d : DieId) (off v : Nat) : KeepsStores s (s.secDieWrite d off v) := by
  have hclear (t : State) : KeepsStores t (((coresOf d).foldl (fun s c => s.releaseCore c) t).setOwn d dieClearing 0 0xFF) :=
    (KeepsStores.foldl (fun _ _ => State.releaseCore_keepsStores _) _).then_regs (State.setOwn_within _ _ _ _ (.refl _ _) (by simp))
  have hrelease : KeepsStores s (s.release d) := by
    unfold State.release
    split
    · exact .of_within (State.orderErr_within (Ps := [.regs]) _ (.refl _ s) (by simp)) (by simp)
    · refine KeepsStores.trans ?_ (hclear _)
      exact .onDie fun _ => rfl
  unfold State.secDieWrite
  split_ifs
  · exact .of_within (State.assignReq_within (Ps := [.regs, .chains]) _ _ _ (.refl _ s) (by simp) (by simp)) (by simp)
  · exact hrelease
  · exact .refl s
  · exact State.plainWrite_keepsStores _ _ _

/-- The blocks that a control core may write are those of its die (R738, R740). -/
theorem State.blkWrite_keepsStores {b : Blk} {off : Nat} (hw : b.writable off (.cc d) = true) (p : Path) (v : Nat) :
    KeepsStores s (s.blkWrite b p off v) := by
  cases b with
  | cqDie e => exact State.cqDieWrite_keepsStores _ _ _ _
  | meshDie e =>
    unfold State.blkWrite
    dsimp only
    split
    · exact .of_within (State.remapWrite_within (Ps := [.regs, .deferred]) _ _ (.refl _ s) (by simp) (by simp)) (by simp)
    · exact State.plainWrite_keepsStores _ _ _
  | pgm e => exact State.pgmWrite_keepsStores _ _ _
  | secDie e => exact State.secDieWrite_keepsStores _ _ _
  | mx c =>
    exact .of_within (State.mxWrite_within (Ps := [.regs, .cores, .mod]) _ _ _ (.refl _ s) (by simp) (by simp) (by simp))
      (by simp)
  | dma c =>
    exact .of_within (State.dmaWrite_within (Ps := [.regs, .cores, .mod]) _ _ _ (.refl _ s) (by simp) (by simp) (by simp))
      (by simp)
  | vu c | cq c | mesh c => exact State.plainWrite_keepsStores _ _ _
  | mc | pwr | clk | sec | fab | router i | pf | vf v => simp [Blk.writable] at hw

theorem State.layoutWrite_keepsStores (o v : Nat) : KeepsStores s (s.layoutWrite (.cc d) o v 0 0) := by
  unfold State.layoutWrite
  split
  · exact .refl s
  · simp only [Nat.zero_and, ite_self, State.hwSetBits_zero, State.hwCount_zero]
    split_ifs with _ hw
    · exact .refl s
    · exact .refl s
    · exact .of_within (State.busyWrite_within (Ps := [.regs]) _ _ (.refl _ s) (by simp)) (by simp)
    · exact State.blkWrite_keepsStores (by simpa using hw) _ _

theorem State.layoutWrite_dram (p : Path) (o v : Nat) : (s.layoutWrite p o v 0 0).dram = s.dram :=
  (State.layoutWrite_within (Ps := [.regs, .deferred, .mail, .cores, .dies, .ctxs, .chains, .links, .routers, .rgroups, .rings, .mod])
    _ _ _ _ _ (.refl _ s) (by simp) (by simp) (by simp) (by simp) (by simp) (by simp) (by simp) (by simp) (by simp) (by simp)
    (by simp) (by simp)).dram (by simp)

/-- The state in which the oldest store has left its buffer. -/
def State.storeTaken (s : State) (d : DieId) (e : StEntry) (rest : List StEntry) : State :=
  s.onDie d fun k => { k with stbuf := rest, stFree := s.ac + 1, stLast := e.addr }

theorem exec_storeDrain {e : StEntry} {rest : List StEntry} (hbuf : (s.die d).stbuf = e :: rest)
    (hdue : max e.from_ (s.die d).stFree + drainTime d e.addr ≤ s.ac + 1) :
    exec (.storeDrain d) s = .next (
      if ccPlace e.addr = .dram then (s.storeTaken d e rest).dramWrite d e.addr e.width e.data
      else match windowOff d e.addr with
        | some o => (s.storeTaken d e rest).layoutWrite (.cc d) o e.data 0 0
        | none => s.storeTaken d e rest) := by
  rw [exec, execStoreDrain, hbuf]
  dsimp only
  rw [if_neg (Nat.not_lt.2 hdue)]
  rfl

theorem State.dramWrite_dramKept (s : State) (d : DieId) (a w v : Nat) : DramKept s (s.dramWrite d a w v) d a w := fun x hx => by
  refine Memory.byte_setBytes_out (a := dramAt d a) s.dram (leBytes w v) ?_
  rwa [leBytes_length]

theorem storeDrain_stores {e : StEntry} {rest : List StEntry} (hbuf : (s.die d).stbuf = e :: rest)
    (hdue : max e.from_ (s.die d).stFree + drainTime d e.addr ≤ s.ac + 1) : Gives (.storeDrain d) s fun t =>
      (t.die d).stbuf = rest ∧ (ccPlace e.addr = .dram → DramKept s t d e.addr e.width) ∧
      (ccPlace e.addr ≠ .dram → t.dram = s.dram) := by
  have htaken : ((s.storeTaken d e rest).die d).stbuf = rest := by simp [State.storeTaken]
  refine ⟨_, exec_storeDrain hbuf hdue, ?_⟩
  split
  · next hplace =>
    exact ⟨htaken, fun _ => DramKept.trans (.of_dram rfl) (State.dramWrite_dramKept _ _ _ _ _), fun h => absurd hplace h⟩
  · next hplace =>
    refine ⟨?_, fun h => absurd h hplace, fun _ => ?_⟩
    · split
      · exact (State.layoutWrite_keepsStores _ _ d).trans htaken
      · exact htaken
    · split
      · exact State.layoutWrite_dram ..
      · rfl

/-! ### Long instructions (R451, R454) -/

theorem State.ccExcept_dram (s : State) (d : DieId) (cause : Nat) : (s.ccExcept d cause).dram = s.dram :=
  (State.ccExcept_within (Ps := [.regs, .deferred, .cores, .dies, .ctxs, .links, .mod]) _ _ (.refl _ s) (by simp) (by simp)
    (by simp) (by simp) (by simp) (by simp) (by simp)).dram (by simp)

theorem State.dieFatal_dram (s : State) (d : DieId) (bit : Nat) : (s.dieFatal d bit).dram = s.dram :=
  (State.dieFatal_within (Ps := [.regs, .deferred, .cores, .dies, .ctxs, .links, .mod]) _ _ (.refl _ s) (by simp) (by simp)
    (by simp) (by simp) (by simp) (by simp) (by simp)).dram (by simp)

/-- An instruction either stops before it does anything to data SRAM, or does what it does from a state with the same data
SRAM and the same registers. -/
theorem State.ccRun_dramKept {rs : List (BitVec 5)} {holds : Bool} {f : State → State}
    (hf : ∀ t : State, t.dram = s.dram → (∀ r, (t.die d).gnat r = (s.die d).gnat r) → DramKept t (f t) d a n) :
    DramKept s (s.ccRun d rs holds f) d a n := by
  set u := (s.onDie d fun k => { k with waiting := false }).fetched d 1 with hu
  have hregs : Within [.regs] (s.onDie d fun k => { k with waiting := false }) u := State.fetched_within _ _ (.refl _ _) (by simp)
  have hdram : u.dram = s.dram := hregs.dram (by simp)
  have hgregs (r : BitVec 5) : (u.die d).gnat r = (s.die d).gnat r := by
    rw [hregs.die (by simp), State.die_onDie]
    rfl
  unfold State.ccRun
  dsimp only
  rw [← hu]
  split_ifs
  · exact .of_dram rfl
  · exact .of_dram ((State.ccExcept_dram ..).trans hdram)
  · exact .of_dram ((State.ccExcept_dram ..).trans ((State.dieFatal_dram ..).trans hdram))
  · exact DramKept.trans (.of_dram hdram) (hf u hdram hgregs)

/-- What the units of a long instruction may change, they change together. -/
theorem State.units_dramKept {f : State → Nat → Option State} (k m : Nat)
    (hf : ∀ t v t', k ≤ v → v < k + m → f t v = some t' → DramKept t t' d a n) :
    DramKept s (s.units f k m).2 d a n ∧ ∀ t, (s.units f k m).1 = some t → DramKept s t d a n := by
  induction m generalizing s k with
  | zero => exact ⟨.of_dram rfl, fun t h => .of_dram (by cases h; rfl)⟩
  | succ m ih =>
    unfold State.units
    split
    · next t ht =>
      have hfirst := hf s k t (Nat.le_refl k) (by omega) ht
      obtain ⟨hall, hsome⟩ := ih (s := t) (k + 1) fun t v t' hk hv => hf t v t' (by omega) (by omega)
      exact ⟨hfirst.trans hall, fun u hu => hfirst.trans (hsome u hu)⟩
    · exact ⟨.of_dram rfl, fun t h => by cases h⟩

theorem State.ccLong_dramKept {op total : Nat} {limit : Option (BitVec 14)} {f : State → Nat → Option State}
    {time : Nat → Nat} {fin : State → State × Nat} (hf : ∀ t v t', v < total → f t v = some t' → DramKept t t' d a n)
    (hfin : ∀ t, (fin t).1.dram = t.dram) : DramKept s (s.ccLong d op total limit f time fin) d a n := by
  unfold State.ccLong
  extract_lets k first left stop r
  have hstop : stop.getD left ≤ left := by
    unfold stop
    cases limit with
    | none => exact Nat.le_refl _
    | some n =>
      dsimp only
      split
      · next h => exact h.2.2.le
      · exact Nat.le_refl _
  obtain ⟨hall, hsome⟩ := s.units_dramKept (d := d) (a := a) (n := n) (f := f) first (stop.getD left)
    fun t v t' _ hv => hf t v t' (by omega)
  split
  · exact hall.then_dram ((State.ccExcept_dram ..).trans ((State.ccFault_regs ..).dram (by simp)))
  · next t ht =>
    refine (hsome t ht).trans (.of_dram ?_)
    split
    · exact (State.fetched_within (Ps := [.regs, .dies]) _ _ (State.onDie_within _ _ (.refl _ t) (by simp)) (by simp)).dram
        (by simp)
    · exact (State.onDie_within (Ps := [.regs, .dies]) _ _ (State.ccNext_within _ (State.onDie_within _ _ (.refl _ _) (by simp))
        (by simp) (by simp)) (by simp)).dram (by simp) |>.trans (hfin t)

theorem rangeBad_none (h : rangeBad a n = none) : dramBase ≤ a ∧ n % 64 = 0 := by
  unfold rangeBad at h
  split_ifs at h
  omega

theorem firstSome_none {x : Option Nat} {l : List (Option Nat)} (h : firstSome (x :: l) = none) : x = none ∧ firstSome l = none := by
  cases x with
  | none => exact ⟨rfl, h⟩
  | some c => cases h

/-- A unit of an operand range lies in it. -/
theorem State.unitWrite_dramKept (h : rangeBad a n = none) {v : Nat} (hv : v < n / 64) {b : List Byte} (hb : b.length = 64) :
    DramKept s (s.unitWrite d (a + 64 * v) b) d a n := fun x hx => by
  obtain ⟨hbase, -⟩ := rangeBad_none h
  refine Memory.byte_setBytes_out (a := dramAt d (a + 64 * v)) s.dram b ?_
  unfold dramAt at hx ⊢
  omega

theorem pageCopy_keeps (ga gb gc : BitVec 5) (units : Option (BitVec 14)) :
    Gives (.pageCopy d ga gb gc units) s fun t => DramKept s t d ((s.die d).gnat gb) ((s.die d).gnat gc) := by
  refine ⟨_, rfl, State.ccRun_dramKept fun t _ hregs => ?_⟩
  dsimp only
  split
  · exact .of_dram (t.ccExcept_dram d _)
  · next hok =>
    obtain ⟨-, hok⟩ := firstSome_none hok
    obtain ⟨hok, -⟩ := firstSome_none hok
    rw [hregs, hregs] at hok
    refine State.ccLong_dramKept (fun u v u' hv hu => ?_) fun _ => rfl
    rw [hregs] at hv
    split_ifs at hu
    obtain rfl := Option.some.inj hu
    rw [hregs]
    exact State.unitWrite_dramKept hok hv (by simp [State.unitRead, Memory.bytes])

theorem fillLong_keeps (ga gb gc : BitVec 5) (units : Option (BitVec 14)) :
    Gives (.fillLong d ga gb gc units) s fun t => DramKept s t d ((s.die d).gnat ga) ((s.die d).gnat gc) := by
  refine ⟨_, rfl, State.ccRun_dramKept fun t _ hregs => ?_⟩
  dsimp only
  split
  · exact .of_dram (t.ccExcept_dram d _)
  · next hok =>
    rw [hregs, hregs] at hok
    refine State.ccLong_dramKept (fun u v u' hv hu => ?_) fun _ => rfl
    rw [hregs] at hv
    obtain rfl := Option.some.inj hu
    rw [hregs]
    exact State.unitWrite_dramKept hok hv (by simp)

end

/-- Settles O58, clause by clause: reads, the lines of packets, writes in their ac, drained stores, long instructions. -/
theorem storesKeepEveryOtherByte : Obligations.StoresKeepEveryOtherByte :=
  ⟨fun _ _ => onlyReadsAm_keeps, fun _ _ => State.fabStore_noLine, fun _ _ _ _ _ => State.fabStore_amKept,
    fun s _ _ b p => ⟨fun h => s.timedPut_lost h b p, fun h => s.timedPut_amKept h b p⟩,
    fun _ _ _ _ => storeDrain_stores,
    fun _ _ ga gb gc units => ⟨pageCopy_keeps ga gb gc units, fillLong_keeps ga gb gc units⟩⟩

end Sys2Proof.Machine
end

section
/-! SUPPORT. What the operations of a DMA channel leave in its core, and how it fetches and ends a descriptor (O15). -/

namespace Sys2Proof.Machine

/-! ### One channel of a core -/

section
variable {s t u : State} {c : CoreId} {ch : Chan}

/-- A core whose channel `ch` has changed. -/
def Core.onChan (ch : Chan) (f : Dma → Dma) (k : Core) : Core :=
  match ch with
  | .p => { k with dmaP := f k.dmaP }
  | .q => { k with dmaQ := f k.dmaQ }

theorem Core.onChan_chan (k : Core) (f : Dma → Dma) (ch' : Chan) :
    (k.onChan ch f).chan' ch' = if ch' = ch then f (k.chan' ch) else k.chan' ch' := by
  cases ch <;> cases ch' <;> rfl

/-- All else of the core that a descriptor's course shows. -/
theorem Core.onChan_frame (k : Core) (f : Dma → Dma) : (k.onChan ch f).dmaPuts = k.dmaPuts ∧ (k.onChan ch f).timed = k.timed ∧
    (k.onChan ch f).ops = k.ops ∧ (k.onChan ch f).sems = k.sems ∧ (k.onChan ch f).semPend = k.semPend := by
  cases ch <;> exact ⟨rfl, rfl, rfl, rfl, rfl⟩

theorem State.onDma_core (s : State) (c : CoreId) (ch : Chan) (f : Dma → Dma) :
    (s.onDma c ch f).core c = (s.core c).onChan ch f := s.core_onCore c _

theorem OtherCores.onDma (h : OtherCores s c t) (ch : Chan) (f : Dma → Dma) : OtherCores s c (t.onDma c ch f) := h.setCore _

theorem OtherCores.onCore (h : OtherCores s c t) (f : Core → Core) : OtherCores s c (t.onCore c f) := h.setCore _

theorem State.dma_of_core (h : t.core c = s.core c) (ch : Chan) : t.dma c ch = s.dma c ch := congrArg (Core.chan' · ch) h

theorem State.dma_onDma (s : State) (c : CoreId) (f : Dma → Dma) (ch' : Chan) :
    (s.onDma c ch f).dma c ch' = if ch' = ch then f (s.dma c ch) else s.dma c ch' := by
  rw [State.dma, State.onDma_core, Core.onChan_chan]
  rfl

@[simp] theorem State.dma_onDma_same (s : State) (c : CoreId) (f : Dma → Dma) : (s.onDma c ch f).dma c ch = f (s.dma c ch) := by
  rw [State.dma_onDma, if_pos rfl]

theorem Within.dma {P : List Part} (h : Within P s t) (hp : .cores ∉ P) (c : CoreId) (ch : Chan) : t.dma c ch = s.dma c ch :=
  State.dma_of_core (h.core hp c) ch

/-- An update of the rest of the core leaves its channels. -/
theorem State.dma_onCore {f : Core → Core} (hf : (f (s.core c)).chan' ch = (s.core c).chan' ch) :
    (s.onCore c f).dma c ch = s.dma c ch := by
  rw [State.dma, State.core_onCore, hf]
  rfl

theorem OnlyDma.onDma (s : State) (c : CoreId) (ch : Chan) (f : Dma → Dma) : OnlyDma s c ch (f (s.dma c ch)) (s.onDma c ch f) :=
  ⟨s.dma_onDma_same c f, fun ch' hne => by rw [State.dma_onDma, if_neg hne], rfl, (OtherCores.refl s c).onDma ch f⟩

end

/-! ### Jobs (R411, R412) -/

section
variable {s : State} {c : CoreId} {o : DynOp}

theorem dmaJob_issues (ho : s.xiqHead c 3 = some o) (hbusy : (s.dma c .p).phase ≠ .idle) :
    Gives (.dmaJob c) s fun t => t.core c = (s.core c).setOp o.serial (fun y =>
      { y with
        stage := .issued, entry := BitVec.ofNat 7 (s.core c).freeEntry, issuedAt := s.car
        poison := y.poison || y.bad }) ∧
      (o.bad = false → t.regs = s.regs) ∧ (o.bad = true → t.reg (.mx c) 0x40 / 2 ^ 5 % 2 = 1) ∧ OtherCores s c t := by
  have hphase : ((s.opIssue c o).dma c .p).phase ≠ .idle := by
    rw [State.dma, State.opIssue_core]
    exact hbusy
  have hexec : exec (.dmaJob c) s = .next (s.opIssue c o) := by
    rw [exec, execDmaJob, ho]
    dsimp only
    split
    · next hidle _ => exact absurd hidle hphase
    · rfl
  refine ⟨_, hexec, s.opIssue_core c o, fun hgood => ?_, fun hbad => ?_, s.opIssue_others c o⟩
  · rw [State.opIssue_eq, hgood]
    rfl
  · rw [State.opIssue_eq, hbad]
    simp only [State.entryParity, if_true, State.memErr, State.orReg_eq, State.reg_setReg_same]
    exact raised_bit _ (by decide)

theorem dmaJob_starts (hnone : s.xiqHead c 3 = none) (hidle : (s.dma c .p).phase = .idle)
    (ho : ((s.core c).ops.find? fun o => o.cls == 3 && o.stage == .issued) = some o) :
    Gives (.dmaJob c) s (OnlyDma s c .p { s.dma c .p with
      phase := .fetch, job := some o.serial, idx := BitVec.ofNat 9 (bits o.desc.toNat 251 243), started := 1
      jobPoison := o.poison, poison := false, since := s.ac + 1 }) := by
  set f : Dma → Dma := fun k => { k with
    phase := .fetch, job := some o.serial, idx := BitVec.ofNat 9 (bits o.desc.toNat 251 243), started := 1
    jobPoison := o.poison, poison := false, since := s.ac + 1 }
  have hexec : exec (.dmaJob c) s = .next ((s.onDma c .p f).onCore c fun k => k.setOp o.serial fun o => { o with desc := 0 }) := by
    rw [exec, execDmaJob, hnone]
    dsimp only
    rw [hidle, ho]
  obtain ⟨hself, hother, hregs, hcores⟩ := OnlyDma.onDma s c .p f
  exact ⟨_, hexec, (State.dma_onCore rfl).trans hself, fun ch' hne => (State.dma_onCore rfl).trans (hother ch' hne), hregs,
    hcores.onCore _⟩

end

/-! ### The end of a job, and faults of a descriptor (R426, R436, R437) -/

section
variable {s t : State} {c : CoreId}

theorem State.opFinish_dma (n at_ : Nat) (p : Bool) (ch : Chan) : (s.opFinish c n at_ p).dma c ch = s.dma c ch :=
  State.dma_onCore rfl

theorem State.jobEnd_ends (s : State) (c : CoreId) (at_ : Nat) (p : Bool) : let t := s.jobEnd c at_ p
    (t.dma c .p).phase = .idle ∧ (t.dma c .p).job = none ∧ t.regs = s.regs ∧ OtherCores s c t ∧
    ∀ n, (s.dma c .p).job = some n → ∀ y ∈ (t.core c).ops, y.serial = n → y.stage = .finished := by
  unfold State.jobEnd
  dsimp only
  obtain ⟨hself, -, hregs, hcores⟩ := OnlyDma.onDma s c .p fun k =>
    { k with phase := .idle, job := none, jobPoison := false, poison := false, half := none }
  split
  · next n hjob =>
    refine ⟨?_, ?_, hregs, hcores.onCore _, fun m hm y hy hs => ?_⟩
    · rw [State.opFinish_dma, hself]
    · rw [State.opFinish_dma, hself]
    · obtain rfl : n = m := Option.some.inj (hjob.symm.trans hm)
      rw [State.opFinish, State.core_onCore] at hy
      obtain ⟨z, rfl⟩ := Core.mem_setOp hy hs
      rfl
  · next hjob => exact ⟨congrArg Dma.phase hself, congrArg Dma.job hself, hregs, hcores, fun m hm => by rw [hjob] at hm; cases hm⟩

theorem State.dmaFault_regs (s : State) (c : CoreId) (ch : Chan) (code idx k0 : Nat) :
    Within [.regs] s (s.dmaFault c ch code idx k0) := State.dmaFault_within _ _ _ _ _ (.refl _ s) (by simp)

theorem State.raise_regs (s : State) (b : Blk) (off bit : Nat) : Within [.regs] s (s.raise b off bit) :=
  State.raise_within _ _ _ (.refl _ s) (by simp)

theorem State.qIdle_idles (s : State) (c : CoreId) : ((s.qIdle c).dma c .q).phase = .idle ∧ OtherCores s c (s.qIdle c) := by
  have hregs : Within [.regs] _ (s.qIdle c) := State.setFld_within _ _ _ _ _ (.refl _ _) (by simp)
  refine ⟨?_, ((OtherCores.refl s c).onDma .q _).ofRegs hregs⟩
  rw [hregs.dma (by simp), State.dma_onDma_same]

theorem State.dmaIrq_regs (s : State) (c : CoreId) : Within [.regs] s (s.dmaIrq c) := State.dmaIrq_within _ (.refl _ s) (by simp)

theorem State.dmaAbort_idles (s : State) (c : CoreId) (ch : Chan) :
    ((s.dmaAbort c ch).dma c ch).phase = .idle ∧ OtherCores s c (s.dmaAbort c ch) := by
  have hraise : OtherCores s c (s.raise (.dma c) 0x04 5) := (OtherCores.refl s c).ofRegs (s.raise_regs ..)
  cases ch with
  | p =>
    obtain ⟨hphase, -, -, hcores, -⟩ := (s.raise (.dma c) 0x04 5).jobEnd_ends c ((s.raise (.dma c) 0x04 5).ac + 1) true
    exact ⟨hphase, hraise.trans hcores⟩
  | q =>
    obtain ⟨hphase, hcores⟩ := (s.raise (.dma c) 0x04 5).qIdle_idles c
    have hregs : Within [.regs] ((s.raise (.dma c) 0x04 5).qIdle c) (s.dmaAbort c .q) :=
      (State.raise_regs ..).trans (State.dmaIrq_regs ..)
    exact ⟨(congrArg Dma.phase (hregs.dma (by simp) c .q)).trans hphase, (hraise.trans hcores).ofRegs hregs⟩

end

/-! ### The fetch of a descriptor (R411, R416, R422, R435) -/

section
variable {s : State} {c : CoreId} {ch : Chan} {op : Nat}

theorem exec_dmaStart (s : State) (hlow : 1 ≤ op) (hhigh : op ≤ 3) : exec (dmaStart op c ch) s = .next (s.dmaFetch c ch op) := by
  obtain rfl | rfl | rfl : op = 1 ∨ op = 2 ∨ op = 3 := by omega
  all_goals rfl

theorem dmaStart_runs (hlow : 1 ≤ op) (hhigh : op ≤ 3) (hphase : (s.dma c ch).phase = .fetch) (hsince : (s.dma c ch).since ≤ s.ac)
    (hop : dOp (s.descEntry c (s.dma c ch).idx.toNat).toNat = op)
    (hlegal : descFault (s.descEntry c (s.dma c ch).idx.toNat).toNat = false) :
    Gives (dmaStart op c ch) s (OnlyDma s c ch { s.dma c ch with
      phase := .run, desc := s.descEntry c (s.dma c ch).idx.toNat, pos := 0, poison := false, mismatch := none
      root := none, list := none, half := none, last := 0 }) := by
  refine ⟨_, exec_dmaStart s hlow hhigh, ?_⟩
  unfold State.dmaFetch
  dsimp only
  rw [if_neg (by simp [hphase, hop, Nat.not_lt.2 hsince]), if_neg (by simp [hlegal])]
  exact .onDma s c ch _

theorem dmaStart_refuses (hlow : 1 ≤ op) (hhigh : op ≤ 3) (hphase : (s.dma c ch).phase = .fetch)
    (hsince : (s.dma c ch).since ≤ s.ac)
    (hop : let n := dOp (s.descEntry c (s.dma c ch).idx.toNat).toNat; n = op ∨ n < 1 ∨ 3 < n)
    (hfault : descFault (s.descEntry c (s.dma c ch).idx.toNat).toNat = true) :
    Gives (dmaStart op c ch) s fun t => (t.dma c ch).phase = .idle ∧ OtherCores s c t := by
  refine ⟨_, exec_dmaStart s hlow hhigh, ?_⟩
  unfold State.dmaFetch
  dsimp only at hop ⊢
  rw [if_neg (by simp only [hphase, ne_eq, not_true_eq_false, false_or]; omega), if_pos hfault]
  obtain ⟨hidle, hcores⟩ := (s.dmaFault c ch 1 (s.dma c ch).idx.toNat 0).dmaAbort_idles c ch
  exact ⟨hidle, ((OtherCores.refl s c).ofRegs (s.dmaFault_regs ..)).trans hcores⟩

end

/-! ### Links (R411, R430, R431) -/

section
variable {s : State} {c : CoreId}

theorem exec_dmaLinkRead {ch : Chan} (hphase : (s.dma c ch).phase = .link) (hsince : (s.dma c ch).since ≤ s.ac) :
    exec (.dmaLinkRead c ch) s = .next (
      let k := s.dma c ch
      let w := s.linkWord c k.idx.toNat
      match ch with
      | .p =>
        if linkEoc w then s.jobEnd c s.ac k.jobPoison
        else if 64 ≤ k.started then ((s.dmaFault c .p 5 (linkNext w) 0).raise (.dma c) 0x04 5).jobEnd c s.ac true
        else s.onDma c .p fun k =>
          { k with phase := .fetch, idx := BitVec.ofNat 9 (linkNext w), started := k.started + 1, since := s.ac + 1 }
      | .q =>
        let rung := k.bell == s.ac + 1
        if linkEoc w then
          s.onDma c .q fun k => { k with phase := if k.pend then .link else .parked, pend := rung, since := s.ac + 1 }
        else s.onDma c .q fun k => { k with phase := .fetch, idx := BitVec.ofNat 9 (linkNext w), pend := rung, since := s.ac + 1 }) := by
  rw [exec, execDmaLinkRead]
  dsimp only
  rw [if_neg (by simp [hphase, Nat.not_lt.2 hsince])]
  cases ch <;> rfl

/-- A chain that is too long sets its fault bit (R437). -/
theorem State.dmaFault_chain (s : State) (c : CoreId) (ch : Chan) (idx k0 : Nat) :
    (((s.dmaFault c ch 5 idx k0).raise (.dma c) 0x04 5).reg (.dma c) 0x04) / 2 ^ 4 % 2 = 1 := by
  have hraised (u : State) : ((u.raise (.dma c) 0x04 4).raise (.dma c) 0x04 5).reg (.dma c) 0x04 / 2 ^ 4 % 2 = 1 := by
    rw [State.reg_raise_dma, if_pos rfl, State.reg_raise_dma, if_pos rfl]
    have h := raised_bit (u.reg (.dma c) 0x04 ||| 2 ^ 5) (k := 4) (by decide)
    have hlt := u.reg_lt (.dma c) 0x04
    have h4 : u.reg (.dma c) 0x04 ||| 2 ^ 4 < 2 ^ 32 := Nat.or_lt_two_pow hlt (by decide)
    rw [Nat.mod_eq_of_lt h4, Nat.or_right_comm]
    exact h
  exact hraised _

theorem dmaLinkRead_p (hphase : (s.dma c .p).phase = .link) (hsince : (s.dma c .p).since ≤ s.ac) :
    let w := s.linkWord c (s.dma c .p).idx.toNat
    Gives (.dmaLinkRead c .p) s fun t =>
      (linkEoc w = true → (t.dma c .p).phase = .idle ∧ (t.dma c .p).job = none ∧
        ∀ n, (s.dma c .p).job = some n → ∀ y ∈ (t.core c).ops, y.serial = n → y.stage = .finished) ∧
      (linkEoc w = false → (s.dma c .p).started < 64 → OnlyDma s c .p { s.dma c .p with
        phase := .fetch, idx := BitVec.ofNat 9 (linkNext w), started := (s.dma c .p).started + 1, since := s.ac + 1 } t) ∧
      (linkEoc w = false → 64 ≤ (s.dma c .p).started →
        (t.dma c .p).phase = .idle ∧ t.reg (.dma c) 0x04 / 2 ^ 4 % 2 = 1) := by
  intro w
  refine ⟨_, exec_dmaLinkRead hphase hsince, fun heoc => ?_, fun heoc hfew => ?_, fun heoc hmany => ?_⟩ <;> dsimp only
  · rw [if_pos heoc]
    obtain ⟨hidle, hjob, -, -, hops⟩ := s.jobEnd_ends c s.ac (s.dma c .p).jobPoison
    exact ⟨hidle, hjob, hops⟩
  · rw [if_neg (by simpa [w] using heoc), if_neg (Nat.not_le.2 hfew)]
    exact .onDma s c .p _
  · rw [if_neg (by simpa [w] using heoc), if_pos hmany]
    obtain ⟨hidle, -, hregs, -⟩ := ((s.dmaFault c .p 5 (linkNext w) 0).raise (.dma c) 0x04 5).jobEnd_ends c s.ac true
    exact ⟨hidle, by rw [State.reg_congr hregs]; exact s.dmaFault_chain c .p (linkNext w) 0⟩

theorem dmaLinkRead_q (hphase : (s.dma c .q).phase = .link) (hsince : (s.dma c .q).since ≤ s.ac) :
    let w := s.linkWord c (s.dma c .q).idx.toNat
    let rung := (s.dma c .q).bell == s.ac + 1
    Gives (.dmaLinkRead c .q) s fun t =>
      (linkEoc w = true → OnlyDma s c .q { s.dma c .q with
        phase := if (s.dma c .q).pend then .link else .parked, pend := rung, since := s.ac + 1 } t) ∧
      (linkEoc w = false → OnlyDma s c .q { s.dma c .q with
        phase := .fetch, idx := BitVec.ofNat 9 (linkNext w), pend := rung, since := s.ac + 1 } t) := by
  intro w rung
  refine ⟨_, exec_dmaLinkRead hphase hsince, fun heoc => ?_, fun heoc => ?_⟩ <;> dsimp only
  · rw [if_pos heoc]
    exact .onDma s c .q _
  · rw [if_neg (by simpa [w] using heoc)]
    exact .onDma s c .q _

/-! ### The doorbell and the stop of Q (R429, R431, R437) -/

/-- Q as a doorbell leaves it: `start` is the index that an idle Q starts at. -/
def Dma.rung (now start : Nat) (k : Dma) : Dma :=
  match k.phase with
  | .idle => { k with phase := .fetch, idx := BitVec.ofNat 9 start, bell := now + 1, since := now + 1 }
  | .parked => { k with phase := .link, pend := decide (now < k.since), bell := now + 1, since := now + 1 }
  | _ => { k with pend := true, bell := now + 1 }

theorem Dma.rung_running {k : Dma} (hidle : k.phase ≠ .idle) (hparked : k.phase ≠ .parked) (now start : Nat) :
    k.rung now start = { k with pend := true, bell := now + 1 } := by
  unfold Dma.rung
  split
  · next h => exact absurd h hidle
  · next h => exact absurd h hparked
  · rfl

theorem State.doorbell_eq (s : State) (c : CoreId) : s.doorbell c = s.onDma c .q (Dma.rung s.ac (s.reg (.dma c) 0x0C)) := by
  refine congrArg (s.onDma c .q) (funext fun k => ?_)
  cases hk : k.phase <;> simp [Dma.rung, hk]

theorem dmaDoorbell_rings (s : State) (c : CoreId) : Gives (.dmaDoorbell c) s fun t =>
    ((s.dma c .q).phase = .idle → OnlyDma s c .q { s.dma c .q with
      phase := .fetch, idx := BitVec.ofNat 9 (s.reg (.dma c) 0x0C), bell := s.ac + 1, since := s.ac + 1 } t) ∧
    ((s.dma c .q).phase = .parked → OnlyDma s c .q { s.dma c .q with
      phase := .link, pend := decide (s.ac < (s.dma c .q).since), bell := s.ac + 1, since := s.ac + 1 } t) ∧
    ((s.dma c .q).phase ≠ .idle → (s.dma c .q).phase ≠ .parked → OnlyDma s c .q { s.dma c .q with
      pend := true, bell := s.ac + 1 } t) := by
  have honly := OnlyDma.onDma s c .q (Dma.rung s.ac (s.reg (.dma c) 0x0C))
  rw [← State.doorbell_eq] at honly
  refine ⟨_, rfl, fun h => ?_, fun h => ?_, fun hidle hparked => ?_⟩
  · simpa only [Dma.rung, h] using honly
  · simpa only [Dma.rung, h] using honly
  · simpa only [Dma.rung_running hidle hparked] using honly

theorem dmaQctrlStop_stops (hreg : s.reg (.dma c) 0x14 % 2 = 0) : Gives (.dmaQctrlStop c) s fun t =>
    ((s.dma c .q).phase = .idle ∨ (s.dma c .q).phase = .parked ∨ (s.dma c .q).phase = .link →
      (t.dma c .q).phase = .idle) ∧
    ((s.dma c .q).phase = .fetch ∨ (s.dma c .q).phase = .run ∨ (s.dma c .q).phase = .done →
      (t.dma c .q).stop = true ∧ (t.dma c .q).phase = (s.dma c .q).phase ∧ t.reg (.dma c) 0x14 % 2 = 1) ∧
    OtherCores s c t := by
  obtain ⟨hidle, hcores⟩ := s.qIdle_idles c
  set u := s.onDma c .q fun k => { k with stop := true } with hu
  have hor : Within [.regs] u (u.orReg (.dma c) 0x14 1) := State.orReg_within _ _ _ (.refl _ _) (by simp)
  have hdma : (u.orReg (.dma c) 0x14 1).dma c .q = { s.dma c .q with stop := true } := by
    rw [hor.dma (by simp), hu, State.dma_onDma_same]
  have hset : (u.orReg (.dma c) 0x14 1).reg (.dma c) 0x14 % 2 = 1 := by
    rw [State.orReg, State.reg_setReg_same]
    simp
  have hothers : OtherCores s c (u.orReg (.dma c) 0x14 1) := ((OtherCores.refl s c).onDma .q _).ofRegs hor
  refine ⟨_, rfl, ?_⟩
  rw [State.qStop, if_neg (by omega)]
  dsimp only
  cases hphase : (s.dma c .q).phase with
  | idle | parked | link => exact ⟨fun _ => hidle, fun h => by simp at h, hcores⟩
  | fetch | run | done =>
    exact ⟨fun h => by simp at h, fun _ => ⟨congrArg Dma.stop hdma, (congrArg Dma.phase hdma).trans hphase, hset⟩, hothers⟩

end

end Sys2Proof.Machine
end

section
/-! SUPPORT. The chunks of a descriptor between ranges of activation memory, and its completion (O15). -/

namespace Sys2Proof.Machine

/-! ### Addresses and accesses of a chunk (R347, R413, R415, R416) -/

section
variable {s t : State} {c : CoreId} {ch : Chan} {op a b n : Nat}

/-- An existing, aligned range of activation memory is a place. -/
theorem State.place_am {x : Nat} (d : DieId) (h : ChunkAt x a) : s.place d spAm (dChunk x) false a = .ok (.am a) := by
  obtain ⟨hfits, haligned⟩ := h
  have hpos : ¬(a : Int) < 0 := by omega
  simp only [State.place, if_neg hpos, Int.toNat_natCast, if_true, Bool.false_eq_true, if_false, hfits, haligned, and_self]

theorem State.side_src {x pos : Nat} (hspace : dSrcSpace x = spAm) (ha : dAddr (dSrc x) (dSs x) (dIdx x pos) = a)
    (hx : dXpose x = false) (h : ChunkAt x a) : s.side c ch x pos false = .place (.am a) := by
  simp [State.side, hspace, ha, hx, State.place_am _ h, show spAm ≠ spWalk by decide]

theorem State.side_dst {x pos : Nat} (hspace : dDstSpace x = spAm) (hb : dAddr (dDst x) (dDs x) (dIdx x pos) = b)
    (h : ChunkAt x b) : s.side c ch x pos true = .place (.am b) := by
  simp [State.side, hspace, hb, State.place_am _ h, show spAm ≠ spWalk by decide]

theorem State.amRead_sound (h : s.amErr = []) (a n : Nat) :
    s.amRead c a n = (s, s.amBytes c a n, anyLine (s.amPois c) a n) := by
  simp [State.amRead, errsIn, h]

/-- A channel that makes an access takes its lanes, once in an ac. -/
def State.accessed (s : State) (c : CoreId) (ch : Chan) (mask : Nat) : State :=
  (s.takeLanes c mask).onDma c ch fun k => { k with accAc := s.ac + 1 }

theorem State.access_takes (hu : (s.core c).amUse = []) (ha : s.aboveDma c = 0) (mask : Nat) :
    s.access c ch mask none = (s.accessed c ch mask, true) := by
  have hheld : (s.core c).laneHeld s.ac mask = false := by simp [Core.laneHeld, hu]
  have hclaim := State.claimDyn_takes (mask := mask) (above := 0) hu (by simp)
  simp [State.access, hheld, ha, hclaim, State.accessed]

/-- What an access leaves: all of its channel but the mark, what waits in its core, and activation memory. -/
theorem State.accessed_leaves (s : State) (c : CoreId) (ch : Chan) (mask : Nat) : let t := s.accessed c ch mask
    t.dma c ch = { s.dma c ch with accAc := s.ac + 1 } ∧ (t.core c).dmaPuts = (s.core c).dmaPuts ∧ t.ac = s.ac ∧
    t.amErr = s.amErr ∧ t.amPoison = s.amPoison ∧ t.am = s.am ∧ OtherCores s c t := by
  have hcore : (s.takeLanes c mask).core c = { s.core c with amUse := (s.core c).amUse ++ [(s.ac, mask, false)] } :=
    s.core_onCore c _
  refine ⟨?_, ?_, rfl, rfl, rfl, rfl, (s.takeLanes_others mask).onDma ch _⟩
  · rw [State.accessed, State.dma_onDma_same, State.dma, hcore]
    cases ch <;> rfl
  · rw [State.accessed, State.onDma_core, (Core.onChan_frame ..).1, hcore]

/-- One chunk is done. -/
theorem State.chunkDone_leaves (s : State) (c : CoreId) (ch : Chan) (last : Nat) (p stop : Bool) :
    let t := s.chunkDone c ch last p stop
    let k := s.dma c ch
    (t.dma c ch).pos = k.pos + 1 ∧
    (t.dma c ch).phase = (if stop || decide (dTotal k.desc.toNat ≤ k.pos + 1) then .done else k.phase) ∧
    (t.dma c ch).mismatch = k.mismatch ∧ (t.core c).dmaPuts = (s.core c).dmaPuts ∧ OtherCores s c t := by
  intro t k
  obtain ⟨hself, -, -, hcores⟩ := OnlyDma.onDma s c ch fun k =>
    { k with pos := k.pos + 1, poison := k.poison || p, accAc := s.ac + 1, half := none, last := Nat.max k.last last
             phase := if stop || decide (dTotal k.desc.toNat ≤ k.pos + 1) then .done else k.phase }
  have hcount : Within [.regs] _ t := State.count_within (.dma c) 0x30 1 (.refl _ _) (by simp)
  have hdma := (hcount.dma (by simp) c ch).trans hself
  refine ⟨congrArg Dma.pos hdma, congrArg Dma.phase hdma, (congrArg Dma.mismatch hdma :), ?_, hcores.ofRegs hcount⟩
  rw [hcount.core (by simp), State.onDma_core, (Core.onChan_frame ..).1]

/-! ### The next access of a running descriptor (R413, R421) -/

variable (h : ChunkReady s c ch op)
include h

theorem ChunkReady.exec : exec (.dmaChunk c ch) s = .next (s.chunkStep c ch) := by
  obtain ⟨-, -, hfirst, -⟩ := h
  cases ch with
  | p => rfl
  | q => rw [Machine.exec, execDmaChunk, if_neg (by simp [hfirst rfl])]

theorem ChunkReady.access (mask : Nat) : s.access c ch mask none = (s.accessed c ch mask, true) := by
  obtain ⟨-, -, -, habove, -, -, -, -, huse, -⟩ := h
  exact State.access_takes huse habove mask

theorem ChunkReady.amRead_accessed (mask a n : Nat) : (s.accessed c ch mask).amRead c a n =
    (s.accessed c ch mask, s.amBytes c a n, anyLine (s.amPois c) a n) := by
  obtain ⟨-, -, -, -, -, -, -, -, -, herr⟩ := h
  obtain ⟨-, -, -, haccErr, hpois, ham, -⟩ := s.accessed_leaves c ch mask
  rw [State.amRead_sound (haccErr.trans herr), State.amBytes, ham]
  have hmarks : (s.accessed c ch mask).amPois c = s.amPois c := funext fun l => by rw [State.amPois, hpois]; rfl
  rw [hmarks]
  rfl

variable (hdst : chunkDst (s.dma c ch) = b) (hb : ChunkAt (s.dma c ch).desc.toNat b)
include hdst hb

theorem ChunkReady.chunkStep_fill (hop : op = opFill) :
    s.chunkStep c ch = s.chunkFirst c ch (s.dma c ch).desc.toNat none (.am b) := by
  obtain ⟨hphase, hacc, -, -, hopen, hcode, hspace, hxpose, -⟩ := h
  subst hop
  have hserial : dSerial (s.dma c ch).desc.toNat = false := by simp [dSerial, hcode, show opFill ≠ opCopy by decide]
  unfold State.chunkStep
  dsimp only
  rw [if_neg (by simp [hphase, hopen]; omega), if_neg (by simp [hserial]), if_pos hcode, State.side_dst hspace hdst hb]

variable (hop : op ≠ opFill) (hsrc : dSrcSpace (s.dma c ch).desc.toNat = spAm) (hsa : chunkSrc (s.dma c ch) = a)
  (ha : ChunkAt (s.dma c ch).desc.toNat a)
include hop hsrc hsa ha

theorem ChunkReady.chunkStep_am
    (hserial : dSerial (s.dma c ch).desc.toNat = true → (s.dma c ch).half = none → s.putsDone c ch = true ∧ s.shareDone c = true) :
    (∀ l v, (s.dma c ch).half = some (l, v) →
      s.chunkStep c ch = s.chunkSecond c ch (s.dma c ch).desc.toNat (.am a) (.am b) l v) ∧
    ((s.dma c ch).half = none → s.chunkStep c ch = s.chunkFirst c ch (s.dma c ch).desc.toNat (some (.am a)) (.am b)) := by
  obtain ⟨hphase, hacc, -, -, hopen, hcode, hspace, hxpose, -⟩ := h
  unfold State.chunkStep
  dsimp only
  have hgo : ¬(dSerial (s.dma c ch).desc.toNat = true ∧ (s.dma c ch).half.isNone = true ∧
      (!(s.putsDone c ch && s.shareDone c)) = true) := by
    rintro ⟨hs, hhalf, hwait⟩
    obtain ⟨hputs, hshare⟩ := hserial hs (Option.isNone_iff_eq_none.1 hhalf)
    simp [hputs, hshare] at hwait
  rw [if_neg (by simp [hphase, hopen]; omega), if_neg hgo, if_neg (by rwa [hcode]), State.side_src hsrc hsa hxpose ha,
    State.side_dst hspace hdst hb]
  exact ⟨fun _ _ hhalf => by rw [hhalf], fun hhalf => by rw [hhalf]⟩

end

/-! ### COPY and FILL (R416, R420, R427) -/

section
variable {s : State} {c : CoreId} {ch : Chan} {a b : Nat}

/-- A chunk that goes to activation memory waits for its write. -/
theorem chunkWritten_leaves (s : State) (c : CoreId) (ch : Chan) (mask lat last : Nat) (l : List Byte) (p : Bool)
    (hrun : (s.dma c ch).phase = .run) :
    let k := s.dma c ch
    let t := ((s.accessed c ch mask).writePlace c ch (.am b) lat l p).chunkDone c ch last p false
    (t.core c).dmaPuts = (s.core c).dmaPuts ++ [⟨ch, s.ac + lat, b, l, p⟩] ∧
      (t.dma c ch).pos = k.pos + 1 ∧ (t.dma c ch).phase = (if dTotal k.desc.toNat ≤ k.pos + 1 then .done else .run) ∧
      OtherCores s c t := by
  obtain ⟨hdma, hputs, hac, -, -, -, hcores⟩ := s.accessed_leaves c ch mask
  set u := s.accessed c ch mask
  set w := u.writePlace c ch (.am b) lat l p with hw
  have hwcore : w.core c = { u.core c with dmaPuts := (u.core c).dmaPuts ++ [⟨ch, u.ac + lat, b, l, p⟩] } := u.core_onCore c _
  have hwdma : w.dma c ch = { s.dma c ch with accAc := s.ac + 1 } := by
    rw [← hdma, State.dma, hwcore]
    cases ch <;> rfl
  obtain ⟨hpos, hphase, -, hputs', hcores'⟩ := w.chunkDone_leaves c ch last p false
  refine ⟨?_, ?_, ?_, (hcores.onCore _).trans hcores'⟩
  · rw [hputs', hwcore, ← hputs, hac]
  · rw [hpos, hwdma]
  · rw [hphase, hwdma]
    simp [hrun]

theorem dmaChunk_copies (h : ChunkReady s c ch opCopy) :
    let k := s.dma c ch
    let x := k.desc.toNat
    k.half = none → (dSerial x = true → s.putsDone c ch = true ∧ s.shareDone c = true) →
    dSrcSpace x = spAm → chunkSrc k = a → chunkDst k = b → ChunkAt x a → ChunkAt x b →
    Gives (.dmaChunk c ch) s fun t =>
      (t.core c).dmaPuts = (s.core c).dmaPuts ++ [⟨ch, s.ac + (if a < 2 ^ 21 then 3 else 6), b,
        swapBytes (dSwap x) (s.amBytes c a (dChunk x)), anyLine (s.amPois c) a (dChunk x)⟩] ∧
      (t.dma c ch).pos = k.pos + 1 ∧ (t.dma c ch).phase = (if dTotal x ≤ k.pos + 1 then .done else .run) ∧
      OtherCores s c t := by
  intro k x hhalf hserial hsrc hsa hdst ha hb
  have hcmp : (dOp x == opCompare) = false := by
    obtain ⟨-, -, -, -, -, hcode, -⟩ := h
    simp [x, k, hcode, show opCopy ≠ opCompare by decide]
  have hstep : s.chunkStep c ch = s.chunkFirst c ch x (some (.am a)) (.am b) :=
    (h.chunkStep_am hdst hb (by decide) hsrc hsa ha fun hs _ => hserial hs).2 hhalf
  have hfirst : s.chunkFirst c ch x (some (.am a)) (.am b) =
      ((s.accessed c ch (laneMask a (dChunk x))).writePlace c ch (.am b) (if a < 2 ^ 21 then 3 else 6)
        (swapBytes (dSwap x) (s.amBytes c a (dChunk x))) (anyLine (s.amPois c) a (dChunk x))).chunkDone c ch
        ((s.accessed c ch (laneMask a (dChunk x))).ac + barrierAc x) (anyLine (s.amPois c) a (dChunk x)) false := by
    simp [State.chunkFirst, State.splits, hcmp, State.placeSlice, State.shareBusy, h.access, State.placeLat, State.readPlace,
      h.amRead_accessed, Place.lanes, Place.latency]
  refine ⟨_, h.exec, ?_⟩
  rw [hstep, hfirst]
  exact chunkWritten_leaves s c ch _ _ _ _ _ h.1

theorem dmaChunk_fills (h : ChunkReady s c ch opFill) :
    let k := s.dma c ch
    let x := k.desc.toNat
    k.half = none → chunkDst k = b → ChunkAt x b →
    Gives (.dmaChunk c ch) s fun t =>
      (t.core c).dmaPuts = (s.core c).dmaPuts ++ [⟨ch, s.ac, b,
        (List.range (dChunk x)).map (fun i => BitVec.ofNat 8 (dPattern x / 2 ^ (8 * (i % 8)) % 256)), false⟩] ∧
      (t.dma c ch).pos = k.pos + 1 ∧ (t.dma c ch).phase = (if dTotal x ≤ k.pos + 1 then .done else .run) ∧
      OtherCores s c t := by
  intro k x _ hdst hb
  have hfirst : s.chunkFirst c ch x none (.am b) =
      ((s.accessed c ch 0).writePlace c ch (.am b) 0 (fillBytes x) false).chunkDone c ch
        ((s.accessed c ch 0).ac + barrierAc x) false false := by
    simp [State.chunkFirst, State.shareBusy, State.placeSlice, h.access]
  refine ⟨_, h.exec, ?_⟩
  rw [h.chunkStep_fill hdst hb rfl, hfirst]
  exact chunkWritten_leaves s c ch _ _ _ _ _ h.1

/-! ### COMPARE (R422) -/

/-- A comparison of sound chunks stops at their first difference. -/
theorem State.compareDone_sound (s : State) (c : CoreId) (ch : Chan) (last : Nat) (l e : List Byte)
    (hrun : (s.dma c ch).phase = .run) :
    let k := s.dma c ch
    let t := s.compareDone c ch last l e false
    (t.dma c ch).mismatch = (match firstDiff l e 0 with | some i => some (i, k.pos, false) | none => k.mismatch) ∧
      (t.dma c ch).phase = (if firstDiff l e 0 ≠ none ∨ dTotal k.desc.toNat ≤ k.pos + 1 then .done else .run) ∧
      (t.dma c ch).pos = k.pos + 1 ∧ OtherCores s c t := by
  unfold State.compareDone
  cases hdiff : firstDiff l e 0 with
  | none =>
    obtain ⟨hpos, hphase, hmis, -, hcores⟩ := s.chunkDone_leaves c ch last false false
    simp [hpos, hphase, hmis, hcores, hrun]
  | some i =>
    obtain ⟨hself, -, -, hothers⟩ := OnlyDma.onDma s c ch fun k => { k with mismatch := some (i, (s.dma c ch).pos, false) }
    set u := s.onDma c ch fun k => { k with mismatch := some (i, (s.dma c ch).pos, false) } with hu
    obtain ⟨hpos, hphase, hmis, -, hcores⟩ := u.chunkDone_leaves c ch last false true
    simp [← hu, hpos, hphase, hmis, hself, hothers.trans hcores]

/-- The ac in which the comparison of two chunks is over, when its last access is in this ac (R427). -/
def State.comparedAt (s : State) (a b : Nat) : Nat := s.ac + Nat.max (Place.am a).latency (Place.am b).latency + 1

/-- The sides of a comparison are taken in one ac unless they share a lane. -/
theorem ChunkReady.chunkFirst_compare (h : ChunkReady s c ch opCompare) (a b : Nat) : let x := (s.dma c ch).desc.toNat
    let both := laneMask a (dChunk x) ||| laneMask b (dChunk x)
    (laneMask a (dChunk x) &&& laneMask b (dChunk x) = 0 → s.chunkFirst c ch x (some (.am a)) (.am b) =
      (s.accessed c ch both).compareDone c ch (s.comparedAt a b) (s.amBytes c a (dChunk x)) (s.amBytes c b (dChunk x))
        (anyLine (s.amPois c) a (dChunk x) || anyLine (s.amPois c) b (dChunk x))) ∧
    (laneMask a (dChunk x) &&& laneMask b (dChunk x) ≠ 0 → s.chunkFirst c ch x (some (.am a)) (.am b) =
      (s.accessed c ch (laneMask a (dChunk x))).onDma c ch fun k =>
        { k with half := some (s.amBytes c a (dChunk x), anyLine (s.amPois c) a (dChunk x)) }) := by
  intro x both
  have hcmp : (dOp x == opCompare) = true := by
    obtain ⟨-, -, -, -, -, hcode, -⟩ := h
    simp [x, hcode]
  refine ⟨fun hlanes => ?_, fun hlanes => ?_⟩
  · simp [State.chunkFirst, State.splits, hcmp, State.placeSlice, State.shareBusy, h.access, State.readPlace,
      h.amRead_accessed, Place.lanes, hlanes, State.placeLat, State.comparedAt, both]
    rfl
  · simp [State.chunkFirst, State.splits, hcmp, State.placeSlice, State.shareBusy, h.access, State.readPlace,
      h.amRead_accessed, Place.lanes, hlanes]

/-- A comparison in the ac of its access is one of the channel as it stood. -/
theorem State.accessed_compared (s : State) (c : CoreId) (ch : Chan) (mask last : Nat) (l e : List Byte)
    (hrun : (s.dma c ch).phase = .run) :
    let k := s.dma c ch
    let t := (s.accessed c ch mask).compareDone c ch last l e false
    (t.dma c ch).mismatch = (match firstDiff l e 0 with | some i => some (i, k.pos, false) | none => k.mismatch) ∧
      (t.dma c ch).phase = (if firstDiff l e 0 ≠ none ∨ dTotal k.desc.toNat ≤ k.pos + 1 then .done else .run) ∧
      (t.dma c ch).pos = k.pos + 1 ∧ OtherCores s c t := by
  obtain ⟨hdma, -, -, -, -, -, hcores⟩ := s.accessed_leaves c ch mask
  obtain ⟨hmis, hphase, hpos, hcores'⟩ := (s.accessed c ch mask).compareDone_sound c ch last l e (by rwa [hdma])
  rw [hdma] at hmis hphase hpos
  exact ⟨hmis, hphase, hpos, hcores.trans hcores'⟩

theorem dmaChunk_compares (h : ChunkReady s c ch opCompare) :
    let k := s.dma c ch
    let x := k.desc.toNat
    dSrcSpace x = spAm → chunkSrc k = a → chunkDst k = b → ChunkAt x a → ChunkAt x b →
    anyLine (s.amPois c) b (dChunk x) = false →
    (k.half = none → (laneMask a (dChunk x) &&& laneMask b (dChunk x)) = 0 → anyLine (s.amPois c) a (dChunk x) = false →
      Gives (.dmaChunk c ch) s fun t =>
        let diff := firstDiff (s.amBytes c a (dChunk x)) (s.amBytes c b (dChunk x)) 0
        (t.dma c ch).mismatch = (match diff with | some i => some (i, k.pos, false) | none => k.mismatch) ∧
        (t.dma c ch).phase = (if diff ≠ none ∨ dTotal x ≤ k.pos + 1 then .done else .run) ∧
        (t.dma c ch).pos = k.pos + 1 ∧ OtherCores s c t) ∧
    (k.half = none → (laneMask a (dChunk x) &&& laneMask b (dChunk x)) ≠ 0 →
      Gives (.dmaChunk c ch) s fun t =>
        (t.dma c ch).half = some (s.amBytes c a (dChunk x), anyLine (s.amPois c) a (dChunk x)) ∧
        (t.dma c ch).pos = k.pos ∧ (t.dma c ch).phase = .run ∧ OtherCores s c t) ∧
    (∀ e, k.half = some (e, false) →
      Gives (.dmaChunk c ch) s fun t =>
        let diff := firstDiff e (s.amBytes c b (dChunk x)) 0
        (t.dma c ch).mismatch = (match diff with | some i => some (i, k.pos, false) | none => k.mismatch) ∧
        (t.dma c ch).phase = (if diff ≠ none ∨ dTotal x ≤ k.pos + 1 then .done else .run) ∧
        (t.dma c ch).pos = k.pos + 1 ∧ OtherCores s c t) := by
  intro k x hsrc hsa hdst ha hb hsound
  obtain ⟨hrun, -, -, -, -, hcode, -⟩ := id h
  have hserial : dSerial x = false := by simp [dSerial, x, k, hcode, show opCompare ≠ opCopy by decide]
  obtain ⟨hagain, hfirst⟩ := h.chunkStep_am hdst hb (by decide) hsrc hsa ha fun hs =>
    absurd (hserial.symm.trans hs) (by decide)
  obtain ⟨hone, htwo⟩ := h.chunkFirst_compare a b
  refine ⟨fun hhalf hlanes hsound' => ?_, fun hhalf hlanes => ?_, fun e hhalf => ?_⟩
  · refine ⟨_, h.exec, ?_⟩
    rw [hfirst hhalf, hone hlanes, hsound, hsound']
    exact s.accessed_compared c ch _ _ _ _ hrun
  · obtain ⟨hdma, -, -, -, -, -, hcores⟩ := s.accessed_leaves c ch (laneMask a (dChunk x))
    refine ⟨_, h.exec, ?_⟩
    rw [hfirst hhalf, htwo hlanes]
    dsimp only
    rw [State.dma_onDma_same, hdma]
    exact ⟨rfl, rfl, hrun, hcores.onDma ch _⟩
  · refine ⟨_, h.exec, ?_⟩
    have hsecond : s.chunkSecond c ch x (.am a) (.am b) e false =
        (s.accessed c ch (laneMask b (dChunk x))).compareDone c ch (s.comparedAt a b) e (s.amBytes c b (dChunk x)) false := by
      simp only [State.chunkSecond, State.shareBusy, x, k, hcode, State.placeSlice, Place.lanes, h.access, State.readPlace,
        h.amRead_accessed, hsound]
      rfl
    rw [hagain _ _ hhalf, hsecond]
    exact s.accessed_compared c ch _ _ _ _ hrun

end

/-! ### Writes whose time has come (R343, R345, R347) -/

section
variable {s : State} {c : CoreId}

/-- A dynamic write on a core that uses no lane takes its lanes. -/
theorem State.claimPut_takes (hu : (s.core c).amUse = []) (a n : Nat) : ∃ use t, s.claimPut c a n = (t, true) ∧
    OnlyCore s c { s.core c with amUse := use } t := by
  have hheld (i m : Nat) : (s.core c).laneHeld i m = false := by simp [Core.laneHeld, hu]
  have hfirst := State.claimDyn_takes (s := s) (mask := laneMask a n) (above := 0) hu (by simp)
  have honly : OnlyCore s c ((s.takeLanes c (laneMask a n)).core c) (s.takeLanes c (laneMask a n)) := (OnlyCore.onCore s c _).self
  have hcore : (s.takeLanes c (laneMask a n)).core c = { s.core c with amUse := [(s.ac, laneMask a n, false)] } := by
    rw [State.takeLanes, State.core_onCore, hu]
    rfl
  by_cases hwhole : n % 8 = 0
  · exact ⟨[(s.ac, laneMask a n, false)], _, by rw [State.claimPut, if_pos hwhole, hfirst], honly.congr hcore⟩
  · have hnext : ((s.takeLanes c (laneMask a n)).core c).laneHeld (s.ac + 1) (laneMask a n) = false := by
      simp [hcore, Core.laneHeld]
    refine ⟨[(s.ac, laneMask a n, false), (s.ac + 1, laneMask a n, false)], (s.takeLanes c (laneMask a n)).onCore c fun k =>
      { k with amUse := k.amUse ++ [(s.ac + 1, laneMask a n, false)] }, ?_, (honly.trans (OnlyCore.onCore _ c _)).congr ?_⟩
    · rw [State.claimPut, if_neg hwhole, if_neg (by simp [hheld]), hfirst]
      exact State.claimDyn_free _ _ _ _ hnext
    · rw [hcore]
      rfl

theorem State.dmaPut_takes {p : LanePut} (hdue : p.due ≤ s.ac) (hu : (s.core c).amUse = []) :
    ((s.dmaPut c p).core c).timed = (s.core c).timed ++
      [⟨if p.data.length % 8 = 0 then s.ac else s.ac + 1, p.addr, false, .put p.data p.poison⟩] ∧
    ((s.dmaPut c p).core c).dmaPuts = (s.core c).dmaPuts.erase p ∧ OtherCores s c (s.dmaPut c p) := by
  obtain ⟨use, t, hclaim, honly⟩ := State.claimPut_takes hu p.addr p.data.length
  have hput : s.dmaPut c p =
      ((t.onCore c fun k => { k with dmaPuts := k.dmaPuts.erase p }).amPut c p.addr p.data p.poison).onDma c p.ch fun k =>
        { k with last := Nat.max k.last (if p.data.length % 8 = 0 then t.ac + 1 else t.ac + 2) } := by
    rw [State.dmaPut, if_neg (Nat.not_lt.2 hdue), hclaim]
  obtain ⟨hputs, htimed, -⟩ := Core.onChan_frame (ch := p.ch)
    (((t.onCore c fun k => { k with dmaPuts := k.dmaPuts.erase p }).amPut c p.addr p.data p.poison).core c) fun k =>
      { k with last := Nat.max k.last (if p.data.length % 8 = 0 then t.ac + 1 else t.ac + 2) }
  have hac : t.ac = s.ac := honly.ac
  rw [hput, State.onDma_core, hputs, htimed, State.amPut, State.addTimed, State.core_onCore, State.core_onCore, honly.1]
  exact ⟨by rw [← hac]; rfl, rfl, ((honly.otherCores.onCore _).onCore _).onDma _ _⟩

end

/-! ### Completion (R424 to R426, R434, R438) -/

section
variable {s t : State} {c : CoreId} {ch : Chan}

/-- What the completion of a descriptor does before its channel goes on to the link: its fault bit, its signal and, for a
COMPARE, its registers. -/
def State.descEnded (s : State) (c : CoreId) (ch : Chan) : State :=
  let k := s.dma c ch
  let x := k.desc.toNat
  let cmp := dOp x == opCompare
  let s := if k.poison then s.raise (.dma c) 0x04 5 else s
  let s := if dSig x && !(cmp && k.mismatch.isSome) then s.semSignal c (dSem x) 1 else s
  if cmp then s.compareRegs c ch x k.mismatch else s

/-- A P descriptor's job notes its result. -/
def State.jobNoted (s : State) (c : CoreId) (cmp : Bool) (job : Option Nat) : State :=
  match job with
  | some n => s.onCore c fun j => j.setOp n fun o =>
      { o with desc := if cmp then BitVec.ofNat 256 (s.reg (.dma c) 0x20 + s.reg (.dma c) 0x24 * 2 ^ 32) else 0 }
  | none => s

/-- A Q descriptor shows that it has completed, and interrupts the control core where it asks for it. -/
def State.queueNoted (s : State) (c : CoreId) (idx : Nat) (irq : Bool) : State :=
  let s := (s.setReg (.dma c) 0x18 idx).count (.dma c) 0x1C 1
  if irq then s.dmaIrq c else s

theorem exec_dmaDescComplete (hphase : (s.dma c ch).phase = .done) (hputs : s.putsDone c ch = true)
    (hshare : dDstSpace (s.dma c ch).desc.toNat = spWs → dOp (s.dma c ch).desc.toNat ≠ opCompare → s.shareDone c = true) :
    exec (.dmaDescComplete c ch) s = .next (
      let k := s.dma c ch
      match ch with
      | .p =>
        let t := (s.descEnded c .p).jobNoted c (dOp k.desc.toNat == opCompare) k.job
        t.onDma c .p fun k => { k with phase := .link, since := t.ac + 1, jobPoison := k.jobPoison || k.poison }
      | .q =>
        let t := (s.descEnded c .q).queueNoted c k.idx.toNat (dIrq k.desc.toNat)
        if k.stop then t.qIdle c else t.onDma c .q fun k => { k with phase := .link, since := t.ac + 1 }) := by
  rw [exec, execDmaDescComplete]
  dsimp only
  rw [if_neg (by simp only [hphase, hputs]; simpa using hshare)]
  cases ch <;> rfl

/-- The core and the clock as they stand after the fault bit of a poisoned descriptor. -/
theorem State.raiseIf_regs (s : State) (c : CoreId) (p : Bool) : Within [.regs] s (if p then s.raise (.dma c) 0x04 5 else s) :=
  .ite (fun _ => s.raise_regs _ _ _) fun _ => .refl _ _

theorem State.compareRegs_regs (s : State) (c : CoreId) (ch : Chan) (x : Nat) (m : Option (Nat × Nat × Bool)) :
    Within [.regs] s (s.compareRegs c ch x m) := State.compareRegs_within _ _ _ _ (.refl _ s) (by simp)

/-- The end of a descriptor touches no channel of its core. -/
theorem State.descEnded_leaves (s : State) (c : CoreId) (ch : Chan) :
    (∀ ch', (s.descEnded c ch).dma c ch' = s.dma c ch') ∧ OtherCores s c (s.descEnded c ch) := by
  set k := s.dma c ch
  set r := if k.poison then s.raise (.dma c) 0x04 5 else s
  have hr : Within [.regs] s r := s.raiseIf_regs c _
  have hother : OtherCores s c r := (OtherCores.refl s c).ofRegs hr
  have hsignal (b : Bool) (i : Nat) : (∀ ch', (if b then r.semSignal c i 1 else r).dma c ch' = s.dma c ch') ∧
      OtherCores s c (if b then r.semSignal c i 1 else r) := by
    split
    · obtain ⟨hcores, sems, pend, p, hcore⟩ := r.semSignal_leaves c i 1
      refine ⟨fun ch' => ?_, hother.trans hcores⟩
      rw [State.dma, hcore, ← hr.dma (by simp) c ch']
      cases ch' <;> rfl
    · exact ⟨hr.dma (by simp) c, hother⟩
  obtain ⟨hdma, hcores⟩ := hsignal (dSig k.desc.toNat && !(dOp k.desc.toNat == opCompare && k.mismatch.isSome)) (dSem k.desc.toNat)
  unfold State.descEnded
  dsimp only
  split
  · have hregs := State.compareRegs_regs (if dSig k.desc.toNat && !(dOp k.desc.toNat == opCompare && k.mismatch.isSome) then
      r.semSignal c (dSem k.desc.toNat) 1 else r) c ch k.desc.toNat k.mismatch
    exact ⟨fun ch' => (hregs.dma (by simp) c ch').trans (hdma ch'), hcores.ofRegs hregs⟩
  · exact ⟨hdma, hcores⟩

/-- The semaphore of a descriptor that compares nothing (R226, R228, R425). -/
theorem State.descEnded_signals (hop : dOp (s.dma c ch).desc.toNat ≠ opCompare) : let x := (s.dma c ch).desc.toNat
    let k := (s.descEnded c ch).core c
    (dSig x = true → ¬Issued s c → (s.core c).sem (dSem x) < 0xFFFF → k.sem (dSem x) = (s.core c).sem (dSem x) + 1) ∧
    (dSig x = true → Issued s c → k.semPend = (s.core c).semPend ++ [⟨s.ac + 1, dSem x, 1⟩]) ∧
    (dSig x = false → k.sems = (s.core c).sems) := by
  intro x k
  set r := if (s.dma c ch).poison then s.raise (.dma c) 0x04 5 else s with hrdef
  have hr : Within [.regs] s r := s.raiseIf_regs c _
  have hcore : r.core c = s.core c := hr.core (by simp) c
  have hissued : Issued r c ↔ Issued s c := by rw [Issued, Issued, hcore, hr.clock.1]
  have hk : k = (if dSig x then r.semSignal c (dSem x) 1 else r).core c := by
    simp only [k, State.descEnded, ← hrdef, x, beq_eq_false_iff_ne.2 hop, Bool.false_and, Bool.not_false, Bool.and_true,
      Bool.false_eq_true, if_false]
  refine ⟨fun hsig hnot hlt => ?_, fun hsig his => ?_, fun hsig => ?_⟩
  · rw [hk, if_pos hsig, State.semSignal_adds (fun h => hnot (hissued.1 h)) (by rw [hcore]; omega), hcore]
  · rw [hk, if_pos hsig, State.semSignal_defers (hissued.2 his), hcore, hr.clock.1]
  · rw [hk, if_neg (by simp [hsig]), hcore]

theorem State.jobNoted_leaves (s : State) (c : CoreId) (cmp : Bool) (job : Option Nat) : let t := s.jobNoted c cmp job
    t.dma c .p = s.dma c .p ∧ t.regs = s.regs ∧ (t.core c).sems = (s.core c).sems ∧ (t.core c).semPend = (s.core c).semPend ∧
    OtherCores s c t := by
  cases job with
  | none => exact ⟨rfl, rfl, rfl, rfl, .refl s c⟩
  | some n =>
    refine ⟨State.dma_onCore rfl, rfl, ?_, ?_, (OtherCores.refl s c).onCore _⟩
    all_goals
      rw [State.jobNoted, State.core_onCore]
      rfl

/-- A P descriptor that is over hands its channel on to the link. -/
theorem dmaDescComplete_p (hphase : (s.dma c .p).phase = .done) (hputs : s.putsDone c .p = true)
    (hshare : dDstSpace (s.dma c .p).desc.toNat = spWs → dOp (s.dma c .p).desc.toNat ≠ opCompare → s.shareDone c = true) :
    Gives (.dmaDescComplete c .p) s fun t => (t.dma c .p).phase = .link ∧
      (t.dma c .p).jobPoison = ((s.dma c .p).jobPoison || (s.dma c .p).poison) ∧
      (t.core c).sems = ((s.descEnded c .p).core c).sems ∧ (t.core c).semPend = ((s.descEnded c .p).core c).semPend ∧
      t.regs = (s.descEnded c .p).regs ∧ OtherCores s c t := by
  refine ⟨_, exec_dmaDescComplete hphase hputs hshare, ?_⟩
  dsimp only
  obtain ⟨hdma, hcores⟩ := s.descEnded_leaves c .p
  obtain ⟨hdma', hregs, hsems, hpend, hcores'⟩ := (s.descEnded c .p).jobNoted_leaves c
    (dOp (s.dma c .p).desc.toNat == opCompare) (s.dma c .p).job
  set t := (s.descEnded c .p).jobNoted c (dOp (s.dma c .p).desc.toNat == opCompare) (s.dma c .p).job
  obtain ⟨-, -, -, hframeSems, hframePend⟩ := Core.onChan_frame (ch := .p) (t.core c) fun k =>
    { k with phase := .link, since := t.ac + 1, jobPoison := k.jobPoison || k.poison }
  refine ⟨?_, ?_, ?_, ?_, hregs, (hcores.trans hcores').onDma .p _⟩
  · rw [State.dma_onDma_same]
  · rw [State.dma_onDma_same, hdma', hdma]
  · rw [State.onDma_core, hframeSems, hsems]
  · rw [State.onDma_core, hframePend, hpend]

theorem dmaDescComplete_signals (hphase : (s.dma c .p).phase = .done) (hputs : s.putsDone c .p = true)
    (hshare : dDstSpace (s.dma c .p).desc.toNat = spWs → s.shareDone c = true) (hop : dOp (s.dma c .p).desc.toNat ≠ opCompare) :
    Gives (.dmaDescComplete c .p) s fun t => (t.dma c .p).phase = .link ∧
      (t.dma c .p).jobPoison = ((s.dma c .p).jobPoison || (s.dma c .p).poison) ∧
      (dSig (s.dma c .p).desc.toNat = true → ¬Issued s c → (s.core c).sem (dSem (s.dma c .p).desc.toNat) < 0xFFFF →
        (t.core c).sem (dSem (s.dma c .p).desc.toNat) = (s.core c).sem (dSem (s.dma c .p).desc.toNat) + 1) ∧
      (dSig (s.dma c .p).desc.toNat = true → Issued s c →
        (t.core c).semPend = (s.core c).semPend ++ [⟨s.ac + 1, dSem (s.dma c .p).desc.toNat, 1⟩]) ∧
      (dSig (s.dma c .p).desc.toNat = false → (t.core c).sems = (s.core c).sems) ∧ OtherCores s c t := by
  obtain ⟨t, hexec, hlink, hpoison, hsems, hpend, -, hcores⟩ := dmaDescComplete_p hphase hputs fun h _ => hshare h
  obtain ⟨hadds, hdefers, hnone⟩ := State.descEnded_signals hop
  refine ⟨t, hexec, hlink, hpoison, fun hsig hnot hlt => ?_, fun hsig his => ?_, fun hsig => ?_, hcores⟩
  · rw [Core.sem, hsems]
    exact hadds hsig hnot hlt
  · rw [hpend]
    exact hdefers hsig his
  · rw [hsems]
    exact hnone hsig

/-- A comparison without a mismatch clears its registers. -/
theorem dmaDescComplete_compared (hphase : (s.dma c .p).phase = .done) (hputs : s.putsDone c .p = true)
    (hop : dOp (s.dma c .p).desc.toNat = opCompare) (hmis : (s.dma c .p).mismatch = none) :
    Gives (.dmaDescComplete c .p) s fun t => (t.dma c .p).phase = .link ∧
      t.reg (.dma c) 0x20 = 0 ∧ t.reg (.dma c) 0x24 = 0 ∧ OtherCores s c t := by
  obtain ⟨t, hexec, hlink, -, -, -, hregs, hcores⟩ := dmaDescComplete_p hphase hputs fun _ h => absurd hop h
  have hreg (off : Nat) (h : off = 0x20 ∨ off = 0x24) : t.reg (.dma c) off = 0 := by
    rw [State.reg_congr hregs, State.descEnded, if_pos (by simp [hop]), hmis, State.compareRegs]
    rcases h with rfl | rfl <;> simp
  exact ⟨t, hexec, hlink, hreg _ (.inl rfl), hreg _ (.inr rfl), hcores⟩

theorem State.queueNoted_regs (s : State) (c : CoreId) (idx : Nat) (irq : Bool) : Within [.regs] s (s.queueNoted c idx irq) := by
  have hshow : Within [.regs] s ((s.setReg (.dma c) 0x18 idx).count (.dma c) 0x1C 1) :=
    State.count_within _ _ _ (State.setReg_within _ _ _ (.refl _ s) (by simp)) (by simp)
  exact .ite (fun _ => State.dmaIrq_within _ hshow (by simp)) fun _ => hshow

theorem dmaDescComplete_q (hphase : (s.dma c .q).phase = .done) (hputs : s.putsDone c .q = true)
    (hshare : dDstSpace (s.dma c .q).desc.toNat = spWs → s.shareDone c = true) :
    Gives (.dmaDescComplete c .q) s fun t =>
      (t.dma c .q).phase = (if (s.dma c .q).stop then .idle else .link) ∧ OtherCores s c t := by
  refine ⟨_, exec_dmaDescComplete hphase hputs fun h _ => hshare h, ?_⟩
  dsimp only
  obtain ⟨hdma, hcores⟩ := s.descEnded_leaves c .q
  have hregs := (s.descEnded c .q).queueNoted_regs c (s.dma c .q).idx.toNat (dIrq (s.dma c .q).desc.toNat)
  set t := (s.descEnded c .q).queueNoted c (s.dma c .q).idx.toNat (dIrq (s.dma c .q).desc.toNat)
  have ht : OtherCores s c t := hcores.ofRegs hregs
  split
  · obtain ⟨hidle, hothers⟩ := t.qIdle_idles c
    exact ⟨hidle, ht.trans hothers⟩
  · exact ⟨by rw [State.dma_onDma_same], ht.onDma .q _⟩

end

/-- Settles O15, clause by clause: jobs, the fetch of a descriptor, its chunks and their writes, its completion, its link, and
the doorbell and the stop of Q. -/
theorem dmaDescriptorsRunFromFetchToLink : Obligations.DmaDescriptorsRunFromFetchToLink :=
  ⟨fun _ _ _ => dmaJob_issues, fun _ _ _ => dmaJob_starts, fun _ _ _ _ => dmaStart_runs, fun _ _ _ _ => dmaStart_refuses,
    fun _ _ _ _ _ => dmaChunk_copies, fun _ _ _ _ => dmaChunk_fills,
    fun _ _ _ _ hdue huse => State.dmaPut_takes hdue huse, fun _ _ _ _ _ => dmaChunk_compares,
    fun _ _ => dmaDescComplete_signals, fun _ _ => dmaDescComplete_compared,
    fun _ _ hphase hputs hshare _ _ => dmaDescComplete_q hphase hputs hshare, fun _ _ => dmaLinkRead_p,
    fun _ _ => dmaLinkRead_q, dmaDoorbell_rings, fun _ _ => dmaQctrlStop_stops⟩

end Sys2Proof.Machine
end
